-- ==== Sys2Proof/Word.lean ====
section
/-!
DEFINITION. The word types of the TS9 (00_scope, "Registers"; 05_number_formats R133): bytes, 32-bit register words,
64-bit register pairs, one scratchpad slot's 2,048 bits and one cluster bundle's 512 bits.
-/
namespace Sys2Proof

/-- One byte of scratchpad, HBM, host memory or a message. -/
abbrev Byte := BitVec 8

/-- One 32-bit register, one FP32 number, one table half. -/
abbrev Word := BitVec 32

/-- A LO/HI register pair (R9), a handle entry (R267), a cyclic-table entry (R51). -/
abbrev DWord := BitVec 64

/-- The 256 bytes of one scratchpad slot (R254); byte j is bits [8j+7:8j]. -/
abbrev SlotBits := BitVec 2048

/-- One 1,024-bit VE register (R156). -/
abbrev VReg := BitVec 1024

/-- One 512-bit cluster bundle (R73). -/
abbrev Bundle := BitVec 512

end Sys2Proof
end

