-- ==== Sys2Proof/Syntax.lean ====
section
/-!
DEFINITION. The commands of the TS9: one constructor per row of spec/opcode_table.json, in the table's order, with the
operands this model gives the row (the table names none): the instance it acts on, the value written, or the data that the
world outside the device supplies with the event. A command of a sequencer op names its cluster only: the op's fields stand
in the bundle that the cluster's sequencer has reached (03_tick_programs R73).
-/
namespace Sys2Proof

/-- Who makes a register access (R9, R441): the PF, a VF (numbered from 0: `vf k` is VF k + 1), or Sirvi (the BMC's
mailbox commands of R429 included). -/
inductive Requester where
  | pf
  | vf (k : Fin 16)
  | sirvi
  deriving DecidableEq, Repr

/-- The cases of R46 in the order listed there; the first and third name a cluster. -/
inductive PartFaultCase where
  | memUe (cluster : Fin 256)
  | lockstep
  | hwError (cluster : Fin 256)
  | tdiError
  deriving DecidableEq, Repr

/-- The kinds of control-core exception that CC_FAULT records (R94, cluster page). -/
inductive CcKind where
  | illegal
  | outside
  | misaligned
  | envCall
  deriving DecidableEq, Repr

/-- What a TAG_TIMEOUT is of (R258, R302, R339): the stall of a cluster's static unit, a transfer of a DMA queue, a copy of
a NoC engine, an expander write, a feature-store write of the ingest front-end, a received message of a partition, or a transfer engine's
read of a stream's committed side. -/
inductive TmoOf where
  | static (cluster : Fin 256)
  | descriptor (cluster : Fin 256) (queue : Fin 2)
  | noc (core : Fin 4096)
  | expander (cluster : Fin 256)
  | ingest (part : Fin 16) (handle : BitVec 20)
  | link (part : Fin 16)
  | engine (handle : BitVec 20)
  deriving DecidableEq, Repr

/-- Which expansion an expander event belongs to: the load of a partition's page, or the read at use of a cluster. -/
inductive ExpWho where
  | load (part : Fin 16)
  | read (cluster : Fin 256)
  deriving DecidableEq, Repr

/-- An SPDM responder (R365): the DOE mailbox of the PF (0) or of VF k (k, 1-16), or MCTP to the BMC (17). -/
abbrev Endpoint := Fin 18

/-- One frame as an audio port receives it (R347, R350, R356): its time on the timebase in ns, one 32-bit slot value per
slot or subframe, and for an AES receiver whether the frame has a preamble or biphase error, the parity errors of subframes
A and B, their channel-status bits, and whether it begins a block (Z preamble). -/
structure FrameIn where
  time   : Nat
  slots  : List Word
  bad    : Bool
  parA   : Bool
  parB   : Bool
  csA    : Bool
  csB    : Bool
  blockZ : Bool
  deriving DecidableEq, Repr

/-- One 512-byte flit as it arrives on a port (R392): whether its FEC codeword was correctable (check 1 of R393), the
twelve header bytes' fields, its payload, and its CRC-32C field. -/
structure Flit where
  fecOk   : Bool
  typ     : Byte
  vc      : Fin 4
  nak     : Bool
  mstart  : Bool
  zero    : BitVec 4
  seq     : Word
  epoch   : BitVec 16
  ack     : BitVec 16
  credit  : BitVec 16
  payload : List Byte
  crc     : Word
  deriving DecidableEq, Repr

/-- The readings of one 1 kHz sample (R416): one value per sensor, in the sensor numbering of R473 (0-63 die diodes,
64-71 HBM stacks, 72-87 voltage monitors, 88-95 current monitors), in the units of the sensor page; `none` when the sensor
has not updated within 5 ms. -/
abbrev Readings := List (Option Int)

/-- A unit of the host interface that can have an uncorrectable internal error (R444). -/
inductive HostUnit where
  | pcie
  | doe
  | ide
  deriving DecidableEq, Repr

/-- What ended PWRGOOD-powered operation of a rail (R463): the rail that missed regulation. -/
inductive Rail where
  | vstby | vio | vcore0 | vcore1 | vcore2 | vcore3 | vhbm | vlink
  deriving DecidableEq, Repr

/-- Why a warm reset happens (R456, FN_RST.CAUSE): PERST_N, or a link-down or hot reset. -/
inductive WarmCause where
  | perst
  | linkDown
  deriving DecidableEq, Repr

/-- How a port's attestation ended (R390): authenticated, with the coordinate that the peer reports (y in [7:4], x in [3:0]) and whether
its partition map is the one expected, or a failed authentication. -/
inductive AttestResult where
  | ok (coord : Fin 256) (mapOk : Bool)
  | authFail
  deriving DecidableEq, Repr

/-- The commands. -/
inductive Instr where
  -- register access (00_scope, 16_host_registers)
  | registerWrite (r : Requester) (addr len : Nat) (allBytes : Bool) (data : DWord)
  | loRead (r : Requester) (addr : Nat)
  | pgEvtset (r : Requester) (addr : Nat) (v : Word)
  | pgEvtClear (r : Requester) (addr : Nat) (v : Word)
  | pgLock (r : Requester) (addr : Nat) (v : Word)
  | eventCounterWrite (r : Requester) (addr : Nat) (v : Word)
  -- the tick (01_tick)
  | tbLoad
  | ptmRequest (capEnable : Bool)
  | ptmResponse (offset : Int)
  | ptmTimeout
  | tickApply
  | tickCtrlEn (en : Bool)
  | relock
  | tickEdge
  | tickInEdge (time high : Nat)
  | flywheelEdge
  | fallbackTimeout
  | ingestCutoff (outs : List (Option (List Byte)))
  | dispatchEnd
  | commitWindowOpen
  | flip
  -- partitions (02_partitions_pitches)
  | configure (n : Fin 16)
  | commit (n : Fin 16)
  | start (n : Fin 16)
  | stop (n : Fin 16)
  | maint (n : Fin 16)
  | resume (n : Fin 16)
  | reconfig (n : Fin 16)
  | teardown (n : Fin 16)
  | tblSwap (n : Fin 16)
  | zeroiseDone (n : Fin 16)
  | partFault (n : Fin 16) (k : PartFaultCase)
  | vfFlr (k : Fin 16)
  | partCfgWrite (n : Fin 16) (w : Fin 9) (v : Word)
  | tblEntryLoWrite (n : Fin 16) (shadow : Bool) (e : Fin 64) (v : Word)
  | tblEntryHiWrite (n : Fin 16) (shadow : Bool) (e : Fin 64) (v : Word)
  | rearm (n : Fin 16) (j : Fin 16)
  -- pitches and the sequencers (02, 03)
  | pitchStart (n : Fin 16) (e : Fin 64)
  | switchDone (n : Fin 16) (extra : Nat)
  | pitchLimit (n : Fin 16)
  | pitchEnd (n : Fin 16) (cycle : Nat)
  | jobTeardownDone (n : Fin 16) (j : Fin 16) (waited : Nat)
  | loopS (c : Fin 256)
  | loopE (c : Fin 256)
  | bp (c : Fin 256)
  | altselSample (c : Fin 256)
  | halt (c : Fin 256)
  | sync (c : Fin 256)
  | stallClear (c : Fin 256) (cycles : Nat)
  | bundlePageArrival (c : Fin 256) (page : Nat)
  -- the control core (03)
  | summaryHandler (c : Fin 256)
  | wfi (c : Fin 256)
  | ccException (c : Fin 256) (k : CcKind)
  | ccAltsel (c : Fin 256) (v : Word)
  | ccDesc (c : Fin 256) (d : BitVec 512)
  | ccDefer (c : Fin 256) (v : Word)
  | ccSumPop (c : Fin 256)
  | ccBelaySame (c : Fin 256) (v : Word)
  | summaryPostArrival (c : Fin 256)
  -- loading (03)
  | load (r : Requester) (n : Fin 16) (j : Fin 16)
  | unload (r : Requester) (n : Fin 16) (j : Fin 16)
  | loadDone (n : Fin 16)
  | unloadDone (n : Fin 16)
  -- the matrix engine (04, 08)
  | meMode (c : Fin 256)
  | meCbook (c : Fin 256)
  | meLoadw (c : Fin 256)
  | meStream (c : Fin 256)
  | meDrain (c : Fin 256)
  | meAttn (c : Fin 256)
  -- the vector engine (06)
  | vsetvl (c : Fin 256)
  | vld (c : Fin 256)
  | vst (c : Fin 256)
  | vmov (c : Fin 256)
  | vbcast (c : Fin 256)
  | vsel (c : Fin 256)
  | vcmp (c : Fin 256)
  | vadd (c : Fin 256)
  | vsub (c : Fin 256)
  | vmul (c : Fin 256)
  | vfma (c : Fin 256)
  | vmax (c : Fin 256)
  | vmin (c : Fin 256)
  | vabs (c : Fin 256)
  | vneg (c : Fin 256)
  | vand (c : Fin 256)
  | vor (c : Fin 256)
  | vxor (c : Fin 256)
  | vshl (c : Fin 256)
  | vsra (c : Fin 256)
  | vsrl (c : Fin 256)
  | vrcp (c : Fin 256)
  | vrsqrt (c : Fin 256)
  | vfn (c : Fin 256)
  | vred (c : Fin 256)
  | vtred (c : Fin 256)
  | vtile (c : Fin 256)
  | vexpn (c : Fin 256)
  | vcvt (c : Fin 256)
  | vpost (c : Fin 256)
  | vflag (c : Fin 256)
  | gpChain (c : Fin 256)
  | veFlagClear (r : Requester) (c : Fin 256) (core : Fin 16) (v : Word)
  -- streams (07)
  | strmOpen (r : Requester) (n : Fin 16)
  | strmClose (r : Requester) (n : Fin 16)
  | strmPark (r : Requester) (n : Fin 16)
  | strmUnpark (r : Requester) (n : Fin 16)
  | strmExport (r : Requester) (n : Fin 16)
  | strmImport (r : Requester) (n : Fin 16)
  | strmSetcfg (r : Requester) (n : Fin 16)
  | strmQuery (r : Requester) (n : Fin 16)
  | holdDrop (n : Fin 16) (h : BitVec 20)
  | idlePark (n : Fin 16) (h : BitVec 20)
  | bivouacWriteDone (h : BitVec 20)
  | bivouacReadDone (h : BitVec 20)
  | exportDone (h : BitVec 20)
  | importDone (h : BitVec 20)
  -- the KV engine (08)
  | kvInfo (c : Fin 256) (a0 a1 : Word)
  | kvPte (c : Fin 256) (a0 a1 : Word)
  | kvReserve (c : Fin 256) (a0 a1 : Word)
  | kvRecomp (r : Requester) (n : Fin 16)
  | seqInit (r : Requester) (n : Fin 16)
  | seqFork (r : Requester) (n : Fin 16)
  | seqReset (r : Requester) (n : Fin 16)
  | seqFree (r : Requester) (n : Fin 16)
  | poolInit (r : Requester) (n : Fin 16)
  -- memory and DMA (09)
  | spFill (c : Fin 256)
  | spCopy (c : Fin 256)
  | spTag (c : Fin 256)
  | spDma (c : Fin 256)
  | ncCopy (c : Fin 256)
  | nocCopyDone (core : Fin 4096)
  | remoteAccessDone (c : Fin 256) (cycles : Nat)
  | tagTimeout (w : TmoOf)
  | asyncPortPromotion (core : Fin 4096) (hbm : Bool)
  | descriptorStart (c : Fin 256) (q : Fin 2)
  | descriptorDone (c : Fin 256) (q : Fin 2) (hostData : Option (List Byte))
  | spUeCntClear (r : Requester) (c : Fin 256)
  | tagTmo (n : Fin 16) (v : Word)
  -- the expander (10)
  | expLoad (r : Requester) (n : Fin 16) (v : Word)
  | exp16StagingDone (n : Fin 16)
  | expRegister (r : Requester) (n : Fin 16) (v : Word)
  | expUnregister (r : Requester) (n : Fin 16) (v : Word)
  | ccExpCmd (c : Fin 256) (sel dst ring : Word)
  | expReadStart (c : Fin 256)
  | expBlockDone (w : ExpWho)
  -- ingest and emission (11)
  | ingPi (r : Requester) (n : Fin 16) (v : Word)
  | emCi (r : Requester) (n : Fin 16) (v : Word)
  | ingestRecord (n : Fin 16) (rec : Option (List Byte))
  | groupChunkRelease (n : Fin 16) (h : BitVec 20)
  | feChunkDone (n : Fin 16) (h : BitVec 20)
  | emissionRingWrite (n : Fin 16) (lost : Nat)
  | profCommit (r : Requester) (n : Fin 16)
  | profFetch (r : Requester) (n : Fin 16)
  -- the audio ports (12): 0-7 TDM, 8-11 AES receivers, 12-15 AES transmitters
  | portCfg (p : Fin 16) (v : Word)
  | portMasterFrame (p : Fin 16) (slots : List Word)
  | portFrame (p : Fin 16) (f : FrameIn)
  | portFrameTimeout (p : Fin 16)
  | nonaudioEnd (p : Fin 16)
  | outPi (p : Fin 16) (v : Word)
  | chCtrl (p : Fin 16) (ch : Fin 32) (v : Word)
  | zcTimeout (p : Fin 16) (ch : Fin 32)
  | zcTmo (p : Fin 16) (v : Word)
  -- SPDM, keys, debug (13, 16)
  | getVersion (e : Endpoint)
  | getCapabilities (e : Endpoint)
  | negotiateAlgorithms (e : Endpoint)
  | getDigests (e : Endpoint)
  | getCertificate (e : Endpoint)
  | challenge (e : Endpoint) (nonce : List Byte)
  | getMeasurements (e : Endpoint) (block : Nat) (nonce : List Byte)
  | keyExchange (e : Endpoint) (pubHash : List Byte)
  | finish (e : Endpoint) (session : Nat) (mutualOk : Bool)
  | spdmHeartbeat (e : Endpoint) (session : Nat)
  | keyUpdate (e : Endpoint) (session : Nat)
  | endSession (e : Endpoint) (session : Nat)
  | keySet (session : Nat) (slot : Fin 16) (keyid : DWord) (key : List Byte)
  | keyRotate (session : Nat) (slot : Fin 16) (keyid : DWord) (key : List Byte)
  | keyDropOld (session : Nat) (slot : Fin 16)
  | keyErase (session : Nat) (slot : Fin 16)
  | keyEraseComplete (slot : Fin 16)
  | policySet (session : Nat) (slot : Fin 16) (shield reqTdi : Bool)
  | steadySet (session : Nat) (slot : Fin 16) (budgets : List DWord) (emit pavg : Nat)
  | steadyClear (session : Nat) (slot : Fin 16)
  | ptySteadyAck (r : Requester) (p : Fin 16) (v : Word)
  | spdmSummitRead (e : Endpoint) (first : Nat)
  | ideKm (e : Endpoint) (session : Nat) (stream : Fin 18) (keySet : Bool) (key : List Byte)
  | kSetGo (e : Endpoint) (session : Nat) (stream : Fin 18) (keySet : Bool)
  | lockInterface (k : Fin 16) (session : Nat)
  | stopInterface (k : Fin 16) (session : Nat)
  | debugNonce (bmc : Bool)
  | debugConsent (bmc : Bool) (grant : List Byte)
  | debugEntered
  -- links and belay (14)
  | lkCtrl (p : Fin 20) (v : Word)
  | trainingDone (p : Fin 20)
  | trainingTimeout (p : Fin 20)
  | attestDone (p : Fin 20) (ok : AttestResult)
  | attestTimeout (p : Fin 20)
  | linkRetry (p : Fin 20)
  | mgmt (p : Fin 20) (f : Flit)
  | tag (p : Fin 20) (f : Flit) (good : Bool)
  | nak (p : Fin 20) (f : Flit)
  | heartbeat (p : Fin 20) (f : Flit) (good : Bool)
  | heartbeatSend (p : Fin 20)
  | heartbeatTimeout (p : Fin 20)
  | lkSend (c : Fin 256)
  | lkColl (c : Fin 256)
  | send (p : Fin 20) (f : Flit)
  | coll (p : Fin 20) (f : Flit)
  | collTimeout (c : Fin 256)
  | collTmo (n : Fin 16) (v : Word)
  | blob (p : Fin 20) (f : Flit)
  | adv (p : Fin 20) (f : Flit)
  | release (p : Fin 20) (f : Flit)
  | bhb (p : Fin 20) (f : Flit)
  | bhbSend (n : Fin 16)
  | bhbTimeout (n : Fin 16)
  | promote (n : Fin 16)
  | clear (n : Fin 16)
  | warmPromotion (n : Fin 16)
  | hotPromotion (n : Fin 16)
  -- Sirvi (15)
  | info (bmc : Bool)
  | devReset (bmc : Bool)
  | ksBind (bmc : Bool) (slot party : Nat) (reqHash : List Byte)
  | ksUnbind (bmc : Bool) (slot : Nat)
  | winCreate (bmc : Bool) (party base size slot : Nat)
  | winResize (bmc : Bool) (party base size : Nat)
  | winRemove (bmc : Bool) (party : Nat)
  | regionSet (bmc : Bool) (party : Nat) (regions : List (Nat × Nat))
  | hbmMap (bmc : Bool) (map : Nat) (groups : List (BitVec 16))
  | spanSet (bmc : Bool) (coord dims : Word)
  | sensorLimit (bmc : Bool) (sensor kind : Nat) (value : Int)
  | pwrLimit (bmc : Bool) (watts : Nat)
  | bgCfg (bmc : Bool) (thr hpass : Nat)
  | fwStage (bmc : Bool) (image : Option (List Byte))
  | fwActivate (bmc : Bool) (slotB : Bool)
  | fwCommit (bmc : Bool)
  | summitInfo (bmc : Bool)
  | summitRead (bmc : Bool) (first : Nat)
  | imgPut (bmc : Bool) (name : List Byte) (obj : Option (List Byte))
  | imgGet (bmc : Bool) (party : Nat) (name : List Byte) (addr : Nat)
  | imgDel (bmc : Bool) (name : List Byte)
  | imgList (bmc : Bool)
  | sensorSample (rs : Readings)
  | powerLimitStep
  | summitFlush
  | pwrgoodAssert (smbus : Bool) (maddr : Fin 8)
  | fwWatchdog
  | sirviReady
  | deviceReady
  | railTimeout (r : Rail)
  | pwrgoodDeassert
  | p54vUndervoltage
  | thermtrip
  | warmReset (c : WarmCause)
  | refclkLinkLoss
  | refclkPcieLoss
  | clwSel (k : Fin 16) (v : Word)
  | msixUnmask (fn : Fin 17) (v : Fin 1024)
  | scratchpadScrub
  | clusterScrub
  | hbmScrub
  | rowSpareDone
  | linkRetune
  | thermalCalibration
  | energyCalibration
  | wearLevelling
  | bgSlip
  | perstNDeassert
  | startInterface (k : Fin 16) (session : Nat)
  | pldmEventAcknowledge
  | pldmEventEnable
  | uncorrectableInternalError (u : HostUnit)
  | vfEnable (on : Bool) (num : Fin 17)
  | idle (p : Fin 20) (f : Flit)
  deriving DecidableEq, Repr

end Sys2Proof
end

