-- ==== Sys2Proof/Decode.lean ====
section
/-!
DEFINITION. The command that a word spells by the bits of spec/opcode_table.json. No row of the table has bits: the block takes its
commands by name, so no word spells one.
-/
namespace Sys2Proof

/-- The command of an `nbits`-bit word; the table gives no row any bits. (DESIGN CHOICE: log entry 4.) -/
def decodeTableWord (_nbits _w : Nat) : Option Instr := none

end Sys2Proof
end

