-- ==== Sys2Proof/Config.lean ====
section
/-!
DEFINITION. What the spec leaves to the implementation or does not state, as constants without a body, and the cryptographic
functions it takes from other standards by name. A statement about them holds for every value they may have.
-/
namespace Sys2Proof.Config

/-- A value the spec leaves open; its argument is the counter `State.free`, which each use advances. (DESIGN CHOICE: log entry 6.) -/
opaque freeNat : Nat → Nat

/-- The constants of one device fixed at manufacture (13_parties R364): the 16-byte identity serial. (DEDUCED: log entry 45; DESIGN CHOICE: log entry 68.) -/
opaque serial : List Byte

/-- Lomfel's PCI-SIG vendor ID (16_host_registers, configuration identity). -/
opaque vendorId : BitVec 16

/-- AES-256-GCM opening (03 R97, 07 R206, 10 R289): key, vector, additional data, ciphertext, tag; none when the tag fails. (DEDUCED: log entry 7.) -/
opaque gcmOpen : List Byte → List Byte → List Byte → List Byte → List Byte → Option (List Byte)

/-- The plaintext that AES-256-GCM makes of a ciphertext whose tag does not verify (10 R296): key, vector, ciphertext. (DEDUCED: log entry 47.) -/
opaque gcmPlain : List Byte → List Byte → List Byte → List Byte

/-- AES-256-GCM sealing: key, vector, additional data, plaintext; ciphertext followed by the 16-byte tag. (DEDUCED: log entry 7.) -/
opaque gcmSeal : List Byte → List Byte → List Byte → List Byte → List Byte

/-- Which of the reserved bits of a partition page's PG_EVT is BELAY_DOWN (14 R407 names the bit and gives no number). (PRESUMED: log entry 54.) -/
opaque belayDownBit : Nat

/-- AES-256-XTS encryption of the data unit with tweak `n` under a key (09_memory R279). (DEDUCED: log entry 7.) -/
opaque xts : List Byte → Nat → List Byte → List Byte

/-- HKDF-SHA-384 with a label, of the given length (13 R371). (DEDUCED: log entry 7.) -/
opaque hkdf : List Byte → List Byte → Nat → List Byte

/-- SHA-384 (13, 15 R419). -/
opaque sha384 : List Byte → List Byte

/-- ECDSA P-384 verification: key hash index, message, signature (13 R386, 15 R425). (DEDUCED: log entry 7.) -/
opaque ecdsaVerify : Nat → List Byte → List Byte → Bool

/-- ECDSA P-384 signature with the device identity key (13 R365). -/
opaque ecdsaSign : List Byte → List Byte

/-- The device certificate chain (13 R364). (DESIGN CHOICE: log entry 68.) -/
opaque certChain : List Byte

/-- The Sirvi ROM, as measurement block 1 hashes it (13 R366). -/
opaque romImage : List Byte

/-- Output of the DRBG of R375: a counter and a length. (DESIGN CHOICE: log entry 68.) -/
opaque drbg : Nat → Nat → List Byte

/-- How the result of a mailbox command lies in MB_RSP0-7 and in MB_BUF (15 R429 gives the commands' content, not its layout): the command
code and the content. (DEDUCED: log entry 56.) -/
opaque mbWords : Nat → List Byte → List Nat
opaque mbData : Nat → List Byte → List Byte

/-- The device area (09 R277: where window 0 lies is Sirvi's choice), in 4,096-byte units: base and size. (DEDUCED: log entry 60.) -/
opaque devArea : Nat × Nat

/-- The voltage monitor, 0-15, that watches a rail of R463 (15 R416 gives 16 monitors and not what each is on). -/
opaque railMonitor : Nat → Nat

/-- Nominal voltage in mV of voltage monitor 0-15, and rating in mA of rail current monitor 0-7 (15 R416 gives neither). (DEDUCED: log entry 61.) -/
opaque nominalMv : Nat → Nat
opaque railRating : Nat → Nat

/-- Input power in mW that Sirvi makes of the rail currents (mA) and the voltages (mV) of a sample (15 R416 gives no formula). (DEDUCED: log entry 61.) -/
opaque inputPower : List Int → List Int → Nat

/-- The place of each page in the free stack that POOL_INIT fills (08 R216 gives no order), by a count. (DEDUCED: log entry 43.) -/
opaque stackKey : Nat → Nat → Nat

/-- The row of an HBM device physical address, by the address of its first byte (15 R432: the size of a row is not stated). (DEDUCED: log entry 41.) -/
opaque hbmRow : Nat → Nat

/-- Bytes of an HBM row, which the spec does not give (15_sirvi R432, R435). (DESIGN CHOICE: log entry 62.) -/
opaque rowBytes : Nat

/-- Energy coefficient of each activity, in 2^-16 µJ (02 R69); Sirvi recalibrates them, so they also depend on a count. -/
opaque energyCoef : Nat → Nat → Nat

/-- Microjoules of static power, idle cycles and background work charged to the operator in a tick (02 R69). -/
opaque operEnergy : Nat → Nat

/-- Tap t, 0 to 31, of phase k, 0 to 255, of the resampling filter from one rate to another, FP32 (11 R329 bounds its passband and
stopband and gives no coefficient): input rate, output rate, phase, tap. (DESIGN CHOICE: log entry 49.) -/
opaque resTap : Nat → Nat → Nat → Nat → Nat

/-- Sample n of the analysis window, FP32 (11 R329 gives the real value): HAMMING, W_len, n. (DESIGN CHOICE: log entry 49.) -/
opaque winCoef : Bool → Nat → Nat → Nat

/-- The powers |X_k|², k = 0 to N/2, of N windowed samples, FP32 (11 R329 bounds their error). (DESIGN CHOICE: log entry 49.) -/
opaque fftPower : Nat → List Nat → List Nat

/-- The weight of power bin k in mel band b, FP32 (11 R329 gives its real value): the model rate, N, B, F_LO, F_HI, b, k. (DESIGN CHOICE: log entry 49.) -/
opaque melW : Nat → Nat → Nat → Nat → Nat → Nat → Nat → Nat

/-- log2 of an FP32 word, within 2^-20 of the exact value (11 R329). (DESIGN CHOICE: log entry 49.) -/
opaque log2 : Nat → Nat

/-- The layout of a front-end context in its slots (11 R335 gives its size only): byte i of a channel is XORed with ctxMask i. (DESIGN CHOICE: log entry 49.) -/
opaque ctxMask : Nat → BitVec 8

/-- Framing samples that a channel's bytes have no room for (11 R333, at periods below 10 ms), by index. -/
opaque ctxLost : Nat → Nat

end Sys2Proof.Config
end

