-- ==== Sys2Proof/Machine/Bits.lean ====
section
/-!
DEFINITION. Bit fields and byte order (00_scope, "Notation and units"): fields [msb:lsb] of words held as natural numbers, sign
extension, and little-endian byte lists.
-/
namespace Sys2Proof.Machine

/-- The field of `len` bits of `w` from bit `lo` up. -/
def fld (w lo len : Nat) : Nat := (w / 2 ^ lo) % 2 ^ len

/-- `w` with the field of `len` bits from bit `lo` replaced by `v`. -/
def setFld (w lo len v : Nat) : Nat :=
  w % 2 ^ lo + (v % 2 ^ len) * 2 ^ lo + (w / 2 ^ (lo + len)) * 2 ^ (lo + len)

/-- Bit `i` of `w`. -/
def bitAt (w i : Nat) : Bool := w.testBit i

/-- 1 for true, 0 for false. -/
def b2n (b : Bool) : Nat := if b then 1 else 0

/-- The signed value of the low `n` bits (two's complement). -/
def sx (n w : Nat) : Int :=
  let u := w % 2 ^ n
  if 2 ^ n ≤ 2 * u then (u : Int) - 2 ^ n else u

/-- The low `n` bits of an integer (two's complement). -/
def lowBits (n : Nat) (i : Int) : Nat := (i % (2 ^ n : Int)).toNat

/-- A field of a 32-bit word. -/
def wfld (w : Word) (lo len : Nat) : Nat := fld w.toNat lo len

/-- A 32-bit word with one field replaced. -/
def wset (w : Word) (lo len v : Nat) : Word := BitVec.ofNat 32 (setFld w.toNat lo len v)

/-- The natural number a little-endian byte list spells. -/
def leNat : List Byte → Nat
  | [] => 0
  | b :: bs => b.toNat + 256 * leNat bs

/-- The low `n` bytes of `w`, the lowest first. -/
def natLe : Nat → Nat → List Byte
  | 0, _ => []
  | n + 1, w => BitVec.ofNat 8 w :: natLe n (w / 256)

/-- The natural number a big-endian byte list spells. -/
def beNat (bs : List Byte) : Nat := leNat bs.reverse

/-- The smallest multiple of `m` not below `n`; `n` itself when `m` is 0. -/
def ceilTo (n m : Nat) : Nat := if m = 0 then n else ((n + m - 1) / m) * m

/-- Quotient rounded up; 0 divisor gives 0. -/
def cdiv (n m : Nat) : Nat := (n + m - 1) / m

/-- Quotient rounded to nearest, ties to even; the divisor is positive. -/
def rneDiv (n d : Nat) : Nat :=
  let q := n / d
  let r := n % d
  if 2 * r < d then q else if d < 2 * r then q + 1 else if q % 2 = 0 then q else q + 1

/-- The same on integers: the magnitude is rounded to nearest, ties to even, and the sign kept. -/
def rneDivI (n : Int) (d : Nat) : Int :=
  if n < 0 then -(rneDiv n.natAbs d : Int) else (rneDiv n.natAbs d : Int)

/-- An integer clamped to a range. -/
def clampI (lo hi x : Int) : Int := if x < lo then lo else if hi < x then hi else x

/-- A list of given length: cut or padded with `d`. -/
def padTo {α : Type} (n : Nat) (d : α) (l : List α) : List α := (l ++ List.replicate (n - l.length) d).take n

/-- Element `i` of a list, `d` beyond its end. -/
def nth {α : Type} (d : α) (l : List α) (i : Nat) : α := (l[i]?).getD d

/-- A list with element `i` replaced (unchanged beyond its end). -/
def setNth {α : Type} (l : List α) (i : Nat) (v : α) : List α := l.set i v

end Sys2Proof.Machine
end

