-- ==== Sys2Proof/Machine/Regs.lean ====
section
/-!
DEFINITION. The register map of the PF's BAR0 (16_host_registers R446, 00_scope R4-R10): the page map, and for each page type its
block-specific registers with their offsets, access and reset values, as the chapters' register tables give them.
-/
namespace Sys2Proof.Machine

/-- The page types of R446. -/
inductive PageT where
  | ident | tick | events | funcs | cluster | part | table | party | oper | ingest | tdm | aesRx | aesTx | hbm | stack
  | link | span | exp | mee | mbox | sens | bg | test
  deriving DecidableEq, Repr

/-- How a register behaves beside its RW and RWL masks: plain; write-only (reads zero); write-1-to-clear in the RW mask; sticky
(ROS, kept through a warm reset); an event counter with its saturation register, the bit there, and the page event it raises. -/
inductive RegKind where
  | plain
  | wo
  | w1c
  | ros
  | cnt (sat bit evt : Nat)
  deriving DecidableEq, Repr

/-- Whether a register is a single word or one half of a LO/HI pair (R9). -/
inductive Half where
  | one | lo | hi
  deriving DecidableEq, Repr

/-- One line of a register table: the first offset, how many instances, their distance, the kind, the bits that are RW and RWL,
the reset value, and the pair half. -/
structure RegRow where
  off    : Nat
  count  : Nat
  stride : Nat
  kind   : RegKind
  rw     : Nat
  rwl    : Nat
  reset  : Nat
  half   : Half
  deriving DecidableEq, Repr

/-- Block-specific registers of the ident page. -/
def rows_ident : List RegRow :=
  [⟨0x100, 4, 0x4, .plain, 0x0, 0x0, 0x0, .one⟩] ++   -- DEV_SERIAL: R446
  [⟨0x110, 1, 0x4, .plain, 0x0, 0x0, 0x4080100, .one⟩] ++   -- DEV_CFG: R446
  [⟨0x114, 1, 0x4, .plain, 0x0, 0x0, 0x75900000, .one⟩] ++   -- DEV_VENDOR: R442
  [⟨0x118, 1, 0x4, .plain, 0x0, 0x0, 0x0, .one⟩] ++   -- DEV_FW: R446
  [⟨0x11C, 1, 0x4, .plain, 0x0, 0x0, 0x0, .one⟩] ++   -- DEV_STAT: R446
  []

/-- Block-specific registers of the tick page. -/
def rows_tick : List RegRow :=
  [⟨0x100, 1, 0x4, .plain, 0x0, 0x0, 0x0, .lo⟩] ++   -- TB_NS_LO: R13
  [⟨0x104, 1, 0x4, .plain, 0x0, 0x0, 0x0, .hi⟩] ++   -- TB_NS_HI: R13
  [⟨0x108, 1, 0x4, .plain, 0xFFFFFFFF, 0x0, 0x0, .lo⟩] ++   -- TB_SET_LO: R474
  [⟨0x10C, 1, 0x4, .plain, 0xFFFFFFFF, 0x0, 0x0, .hi⟩] ++   -- TB_SET_HI: R474
  [⟨0x110, 1, 0x4, .plain, 0x71, 0x0, 0x40, .one⟩] ++   -- TB_CTRL: R14
  [⟨0x114, 1, 0x4, .plain, 0x0, 0x0, 0x0, .one⟩] ++   -- TB_PTM_OFS: R14
  [⟨0x118, 1, 0x4, .plain, 0x0, 0x0, 0x0, .one⟩] ++   -- TB_RATE: R13
  [⟨0x120, 1, 0x4, .plain, 0x0, 0x1F337, 0x4002, .one⟩] ++   -- TICK_CFG: R15
  [⟨0x124, 1, 0x4, .plain, 0x1, 0x0, 0x0, .one⟩] ++   -- TICK_CTRL: R16
  [⟨0x128, 1, 0x4, .plain, 0x0, 0x0, 0x0, .one⟩] ++   -- TICK_STAT: R17
  [⟨0x130, 1, 0x4, .plain, 0x0, 0xFFFFFFFF, 0x0, .lo⟩] ++   -- TICK_ANCHOR_LO: R17
  [⟨0x134, 1, 0x4, .plain, 0x0, 0xFFFFFFFF, 0x0, .hi⟩] ++   -- TICK_ANCHOR_HI: R17
  [⟨0x138, 1, 0x4, .plain, 0x0, 0x0, 0x0, .lo⟩] ++   -- TICK_NUM_LO: R17
  [⟨0x13C, 1, 0x4, .plain, 0x0, 0x0, 0x0, .hi⟩] ++   -- TICK_NUM_HI: R17
  [⟨0x140, 1, 0x4, .plain, 0x0, 0x0, 0x0, .one⟩] ++   -- TICK_CYCLE: R25
  [⟨0x144, 1, 0x4, .plain, 0x0, 0x0, 0x0, .one⟩] ++   -- TICK_LEN: R25
  [⟨0x148, 1, 0x4, .plain, 0x0, 0x0, 0x0, .one⟩] ++   -- TICKIN_PERIOD: R19
  [⟨0x150, 1, 0x4, .plain, 0x0, 0x0, 0x0, .lo⟩] ++   -- TICKIN_TS_LO: R18
  [⟨0x154, 1, 0x4, .plain, 0x0, 0x0, 0x0, .hi⟩] ++   -- TICKIN_TS_HI: R18
  [⟨0x160, 1, 0x4, (.cnt 0x180 0 8), 0x0, 0x0, 0x0, .one⟩] ++   -- TICKIN_REJ_CNT: R36
  [⟨0x164, 1, 0x4, (.cnt 0x180 1 8), 0x0, 0x0, 0x0, .one⟩] ++   -- FLYWHEEL_CNT: R36
  [⟨0x168, 1, 0x4, (.cnt 0x180 2 8), 0x0, 0x0, 0x0, .one⟩] ++   -- LATE_LANE_CNT: R36
  [⟨0x16C, 1, 0x4, (.cnt 0x180 3 8), 0x0, 0x0, 0x0, .one⟩] ++   -- DISPATCH_OVR_CNT: R36
  [⟨0x170, 1, 0x4, (.cnt 0x180 4 8), 0x0, 0x0, 0x0, .one⟩] ++   -- PTM_FAIL_CNT: R36
  [⟨0x180, 1, 0x4, .plain, 0x0, 0x0, 0x0, .one⟩] ++   -- CNT_SAT: R36
  []

/-- Block-specific registers of the events page. -/
def rows_events : List RegRow :=
  [⟨0x100, 24, 0x4, .plain, 0x0, 0x0, 0x0, .one⟩] ++   -- EVT_PEND: R453
  [⟨0x400, 768, 0x4, .plain, 0x800003FF, 0x0, 0x0, .one⟩] ++   -- EVT_ROUTE: R453
  []

/-- Block-specific registers of the funcs page. -/
def rows_funcs : List RegRow :=
  [⟨0x100, 1, 0x4, .plain, 0x0, 0x0, 0x0, .one⟩] ++   -- FN_STAT: R441
  [⟨0x104, 1, 0x4, .plain, 0x0, 0x0, 0x0, .one⟩] ++   -- FN_TDI: R450
  [⟨0x108, 1, 0x4, .plain, 0x0, 0x0, 0x0, .one⟩] ++   -- FN_IDE: R449
  [⟨0x10C, 1, 0x4, .ros, 0x0, 0x0, 0x101, .one⟩] ++   -- FN_RST: R456
  [⟨0x110, 1, 0x4, (.cnt 0x118 0 2), 0x0, 0x0, 0x0, .one⟩] ++   -- FN_FLR_CNT: R456
  [⟨0x114, 1, 0x4, (.cnt 0x118 1 2), 0x0, 0x0, 0x0, .one⟩] ++   -- FN_TDI_ERR_CNT: R450
  [⟨0x118, 1, 0x4, .plain, 0x0, 0x0, 0x0, .one⟩] ++   -- FN_CNT_SAT: R456
  []

/-- Block-specific registers of the cluster page. -/
def rows_cluster : List RegRow :=
  [⟨0x100, 1, 0x4, .plain, 0x0, 0x0, 0x0, .one⟩] ++   -- SEQ_STAT: R102
  [⟨0x110, 1, 0x4, (.cnt 0x120 0 4), 0x0, 0x0, 0x0, .one⟩] ++   -- ALT_LATE_CNT: R102
  [⟨0x114, 1, 0x4, (.cnt 0x120 1 4), 0x0, 0x0, 0x0, .one⟩] ++   -- ALT_BADID_CNT: R102
  [⟨0x118, 1, 0x4, (.cnt 0x120 2 4), 0x0, 0x0, 0x0, .one⟩] ++   -- SUM_OVF_CNT: R102
  [⟨0x11C, 1, 0x4, (.cnt 0x120 3 4), 0x0, 0x0, 0x0, .one⟩] ++   -- CC_FAULT_CNT: R102
  [⟨0x120, 1, 0x4, .plain, 0x0, 0x0, 0x0, .one⟩] ++   -- CNT_SAT: R102
  [⟨0x124, 1, 0x4, .plain, 0x0, 0x0, 0x0, .one⟩] ++   -- CC_FAULT: R94
  [⟨0x140, 16, 0x4, .w1c, 0x3, 0x0, 0x0, .one⟩] ++   -- VE_FLAG: R189
  [⟨0x180, 1, 0x4, (.cnt 0x190 0 4), 0x0, 0x0, 0x0, .one⟩] ++   -- SP_CE_CNT: R286
  [⟨0x184, 1, 0x4, (.cnt 0x190 1 4), 0x0, 0x0, 0x0, .one⟩] ++   -- SP_UE_CNT: R286
  [⟨0x188, 1, 0x4, (.cnt 0x190 2 4), 0x0, 0x0, 0x0, .one⟩] ++   -- TAG_TMO_CNT: R286
  [⟨0x18C, 1, 0x4, (.cnt 0x190 3 4), 0x0, 0x0, 0x0, .one⟩] ++   -- DESC_ABANDON_CNT: R286
  [⟨0x190, 1, 0x4, .plain, 0x0, 0x0, 0x0, .one⟩] ++   -- MEM_CNT_SAT: R286
  [⟨0x194, 1, 0x4, .ros, 0x0, 0x0, 0x0, .one⟩] ++   -- SP_UE_ADDR: R286
  []

/-- Block-specific registers of the part page. -/
def rows_part : List RegRow :=
  [⟨0x100, 1, 0x4, .plain, 0x0, 0xFF1F3F, 0x0, .one⟩] ++   -- PART_CFG: R71
  [⟨0x104, 1, 0x4, .wo, 0x0, 0x0, 0x0, .one⟩] ++   -- PART_CMD: R41
  [⟨0x108, 1, 0x4, .plain, 0x0, 0x0, 0xFF0000, .one⟩] ++   -- PART_STAT: R42
  [⟨0x10C, 1, 0x4, .plain, 0x0, 0x0, 0x0, .one⟩] ++   -- PART_HPIDX: R52
  [⟨0x110, 8, 0x4, .plain, 0x0, 0xFFFFFFFF, 0x0, .one⟩] ++   -- PART_CLMASK: R71
  [⟨0x130, 1, 0x4, .plain, 0x0, 0x0, 0x0, .one⟩] ++   -- SLOW: R63
  [⟨0x134, 1, 0x4, .plain, 0xFFFF, 0x0, 0x0, .one⟩] ++   -- SLOW_THR: R63
  [⟨0x138, 1, 0x4, .plain, 0x0, 0x0, 0x0, .one⟩] ++   -- STEAL_LAST: R61
  [⟨0x140, 1, 0x4, .plain, 0x0, 0x0, 0x0, .one⟩] ++   -- NOM_CYC: R62
  [⟨0x144, 1, 0x4, .plain, 0x0, 0x0, 0x0, .one⟩] ++   -- ELAP_CYC: R62
  [⟨0x148, 1, 0x4, .plain, 0x0, 0x0, 0x0, .one⟩] ++   -- STALL_HBM: R62
  [⟨0x14C, 1, 0x4, .plain, 0x0, 0x0, 0x0, .one⟩] ++   -- STALL_NOC: R62
  [⟨0x150, 1, 0x4, .plain, 0x0, 0x0, 0x0, .one⟩] ++   -- STALL_TAG: R62
  [⟨0x160, 1, 0x4, (.cnt 0x170 0 8), 0x0, 0x0, 0x0, .one⟩] ++   -- PART_LATE_CNT: R71
  [⟨0x164, 1, 0x4, (.cnt 0x170 1 8), 0x0, 0x0, 0x0, .one⟩] ++   -- JOB_FAULT_CNT: R71
  [⟨0x168, 1, 0x4, (.cnt 0x170 2 8), 0x0, 0x0, 0x0, .one⟩] ++   -- BUDGET_OVR_CNT: R71
  [⟨0x16C, 1, 0x4, (.cnt 0x170 3 8), 0x0, 0x0, 0x0, .one⟩] ++   -- SLOW_EVT_CNT: R71
  [⟨0x170, 1, 0x4, .plain, 0x0, 0x0, 0x0, .one⟩] ++   -- CNT_SAT: R71
  [⟨0x200, 16, 0x4, .plain, 0x6FFFF, 0x0, 0x40001, .one⟩] ++   -- JOB_CTRL: R67
  [⟨0x240, 16, 0x4, .plain, 0x0, 0x0, 0x0, .one⟩] ++   -- JOB_STAT: R65
  [⟨0x280, 1, 0x4, .plain, 0xFFFFFFFF, 0x0, 0x0, .lo⟩] ++   -- LOAD_ADDR_LO: R98
  [⟨0x284, 1, 0x4, .plain, 0xFFFF, 0x0, 0x0, .hi⟩] ++   -- LOAD_ADDR_HI: R98
  [⟨0x288, 1, 0x4, .plain, 0xFFFFFFFF, 0x0, 0x0, .one⟩] ++   -- LOAD_LEN: R98
  [⟨0x28C, 1, 0x4, .wo, 0x0, 0x0, 0x0, .one⟩] ++   -- LOAD_CMD: R98
  [⟨0x290, 1, 0x4, .plain, 0x0, 0x0, 0xFF0000, .one⟩] ++   -- LOAD_STAT: R98
  [⟨0x294, 1, 0x4, .plain, 0x0, 0x0, 0xFFFFFFFF, .one⟩] ++   -- LOAD_ERRIDX: R98
  [⟨0x300, 1, 0x4, .plain, 0xFFFFF, 0x0, 0x0, .one⟩] ++   -- STRM_HANDLE: R212
  [⟨0x304, 1, 0x4, .wo, 0x0, 0x0, 0x0, .one⟩] ++   -- STRM_CMD: R212
  [⟨0x308, 1, 0x4, .plain, 0x0, 0x0, 0x0, .one⟩] ++   -- STRM_STAT: R213
  [⟨0x30C, 1, 0x4, .plain, 0x0FF0FFF0, 0x0, 0x300000, .one⟩] ++   -- STRM_CFG: R212
  [⟨0x310, 1, 0x4, .plain, 0xFF00FF, 0x0, 0x0, .one⟩] ++   -- STRM_HOME: R212
  [⟨0x318, 1, 0x4, .plain, 0xFFFFFFFF, 0x0, 0x0, .lo⟩] ++   -- STRM_BIV_LO: R212
  [⟨0x31C, 1, 0x4, .plain, 0xFFFF, 0x0, 0x0, .hi⟩] ++   -- STRM_BIV_HI: R212
  [⟨0x320, 1, 0x4, .plain, 0xFFFFFFFF, 0x0, 0x0, .lo⟩] ++   -- STRM_XADDR_LO: R212
  [⟨0x324, 1, 0x4, .plain, 0xFFFF, 0x0, 0x0, .hi⟩] ++   -- STRM_XADDR_HI: R212
  [⟨0x328, 1, 0x4, .plain, 0x0, 0x0, 0x0, .lo⟩] ++   -- STRM_SEQ_LO: R212
  [⟨0x32C, 1, 0x4, .plain, 0x0, 0x0, 0x0, .hi⟩] ++   -- STRM_SEQ_HI: R212
  [⟨0x330, 1, 0x4, .plain, 0x0, 0x0, 0x0, .one⟩] ++   -- STRM_QUERY: R212
  [⟨0x340, 1, 0x4, (.cnt 0x350 0 8), 0x0, 0x0, 0x0, .one⟩] ++   -- PARK_CNT: R214
  [⟨0x344, 1, 0x4, (.cnt 0x350 1 8), 0x0, 0x0, 0x0, .one⟩] ++   -- UNPARK_CNT: R214
  [⟨0x348, 1, 0x4, (.cnt 0x350 2 8), 0x0, 0x0, 0x0, .one⟩] ++   -- HOLD_DROP_CNT: R214
  [⟨0x34C, 1, 0x4, (.cnt 0x350 3 8), 0x0, 0x0, 0x0, .one⟩] ++   -- BIV_ERR_CNT: R214
  [⟨0x350, 1, 0x4, .plain, 0x0, 0x0, 0x0, .one⟩] ++   -- STRM_CNT_SAT: R214
  [⟨0x380, 1, 0x4, .plain, 0x0, 0xFFFFFFFF, 0x0, .lo⟩] ++   -- KV_POOL_LO: R250
  [⟨0x384, 1, 0x4, .plain, 0x0, 0xFFFF, 0x0, .hi⟩] ++   -- KV_POOL_HI: R250
  [⟨0x388, 1, 0x4, .plain, 0x0, 0x8F3FFFFF, 0x0, .one⟩] ++   -- KV_POOL_CFG: R250
  [⟨0x38C, 1, 0x4, .plain, 0x0, 0xFFFFF, 0x0, .one⟩] ++   -- KV_SEQ_CFG: R250
  [⟨0x390, 1, 0x4, .plain, 0x0, 0xFFFFFFFF, 0x0, .lo⟩] ++   -- KV_SEQ_LO: R250
  [⟨0x394, 1, 0x4, .plain, 0x0, 0xFFFF, 0x0, .hi⟩] ++   -- KV_SEQ_HI: R250
  [⟨0x398, 1, 0x4, .plain, 0xFF3FFFFF, 0x0, 0x10000000, .one⟩] ++   -- KV_WATER: R226
  [⟨0x3A0, 1, 0x4, .wo, 0x0, 0x0, 0x0, .one⟩] ++   -- KV_CMD: R251
  [⟨0x3A4, 1, 0x4, .plain, 0xFFFFF, 0x0, 0x0, .one⟩] ++   -- KV_ARG0: R251
  [⟨0x3A8, 1, 0x4, .plain, 0xFFFFF, 0x0, 0x0, .one⟩] ++   -- KV_ARG1: R251
  [⟨0x3AC, 1, 0x4, .plain, 0x7FFFFF, 0x0, 0x0, .one⟩] ++   -- KV_ARG2: R251
  [⟨0x3B0, 1, 0x4, .plain, 0xFFFFFFFF, 0x0, 0x0, .lo⟩] ++   -- KV_ARG3_LO: R251
  [⟨0x3B4, 1, 0x4, .plain, 0xFFFF, 0x0, 0x0, .hi⟩] ++   -- KV_ARG3_HI: R251
  [⟨0x3B8, 1, 0x4, .plain, 0x0, 0x0, 0x0, .one⟩] ++   -- KV_STAT: R251
  [⟨0x3BC, 1, 0x4, .plain, 0x0, 0x0, 0x0, .one⟩] ++   -- KV_FREE: R226
  [⟨0x3C0, 1, 0x4, .plain, 0x0, 0x0, 0x0, .one⟩] ++   -- KV_RECOMP: R227
  [⟨0x3C4, 1, 0x4, (.cnt 0x3D4 0 8), 0x0, 0x0, 0x0, .one⟩] ++   -- KV_DROP_CNT: R252
  [⟨0x3C8, 1, 0x4, (.cnt 0x3D4 1 8), 0x0, 0x0, 0x0, .one⟩] ++   -- KV_COW_CNT: R252
  [⟨0x3CC, 1, 0x4, (.cnt 0x3D4 2 8), 0x0, 0x0, 0x0, .one⟩] ++   -- KV_EXHAUST_CNT: R252
  [⟨0x3D0, 1, 0x4, (.cnt 0x3D4 3 8), 0x0, 0x0, 0x0, .one⟩] ++   -- KV_RQ_OVF_CNT: R252
  [⟨0x3D4, 1, 0x4, .plain, 0x0, 0x0, 0x0, .one⟩] ++   -- KV_CNT_SAT: R252
  [⟨0x400, 1, 0x4, .plain, 0x1FFFFFF, 0x0, 0x10000, .one⟩] ++   -- TAG_TMO: R258
  [⟨0x404, 1, 0x4, .plain, 0x1FFFFFF, 0x0, 0x20000, .one⟩] ++   -- COLL_TMO: R403
  [⟨0x408, 1, 0x4, .plain, 0xFFFFF, 0x0, 0x0, .one⟩] ++   -- LINK_PART: R399
  [⟨0x440, 1, 0x4, .plain, 0x8F00FF00, 0x0, 0x0, .one⟩] ++   -- BLY_TX_CFG: R411
  [⟨0x444, 1, 0x4, .plain, 0xCF00FF00, 0x0, 0x0, .one⟩] ++   -- BLY_RX_CFG: R411
  [⟨0x448, 1, 0x4, .plain, 0xFFFFFFFF, 0x0, 0x0, .lo⟩] ++   -- BLY_RX_BRA_LO: R411
  [⟨0x44C, 1, 0x4, .plain, 0xFFFF, 0x0, 0x0, .hi⟩] ++   -- BLY_RX_BRA_HI: R411
  [⟨0x450, 1, 0x4, .plain, 0xFFFFFFFF, 0x0, 0x0, .lo⟩] ++   -- BLY_RX_BIV_LO: R411
  [⟨0x454, 1, 0x4, .plain, 0xFFFF, 0x0, 0x0, .hi⟩] ++   -- BLY_RX_BIV_HI: R411
  [⟨0x458, 1, 0x4, .plain, 0xFFFFFFFF, 0x0, 0x0, .one⟩] ++   -- BLY_RX_STRIDE: R411
  [⟨0x45C, 1, 0x4, .plain, 0x1FFFFF, 0x0, 0x0, .one⟩] ++   -- BLY_RX_NENT: R411
  [⟨0x460, 1, 0x4, .plain, 0x0, 0x0, 0x0, .one⟩] ++   -- BLY_STAT: R407
  [⟨0x464, 1, 0x4, .wo, 0x0, 0x0, 0x0, .one⟩] ++   -- BLY_CMD: R407
  [⟨0x470, 1, 0x4, (.cnt 0x480 0 8), 0x0, 0x0, 0x0, .one⟩] ++   -- BLY_REJ_CNT: R411
  [⟨0x474, 1, 0x4, (.cnt 0x480 1 8), 0x0, 0x0, 0x0, .one⟩] ++   -- BLY_LOST_CNT: R411
  [⟨0x478, 1, 0x4, (.cnt 0x480 2 8), 0x0, 0x0, 0x0, .one⟩] ++   -- BLY_FULL_CNT: R411
  [⟨0x47C, 1, 0x4, (.cnt 0x480 3 8), 0x0, 0x0, 0x0, .one⟩] ++   -- COLL_TMO_CNT: R411
  [⟨0x480, 1, 0x4, .plain, 0x0, 0x0, 0x0, .one⟩] ++   -- BLY_CNT_SAT: R411
  []

/-- Block-specific registers of the table page. -/
def rows_table : List RegRow :=
  [⟨0x100, 64, 0x8, .plain, 0xFFFFFFFF, 0x0, 0x0, .lo⟩] ++   -- TBL_ENTRY_LO: R51
  [⟨0x104, 64, 0x8, .plain, 0xFFFFFFFF, 0x0, 0x0, .hi⟩] ++   -- TBL_ENTRY_HI: R51
  [⟨0x300, 64, 0x8, .plain, 0xFFFFFFFF, 0x0, 0x0, .lo⟩] ++   -- TBL_SHADOW_LO: R51
  [⟨0x304, 64, 0x8, .plain, 0xFFFFFFFF, 0x0, 0x0, .hi⟩] ++   -- TBL_SHADOW_HI: R51
  [⟨0x500, 1, 0x4, .plain, 0x3F, 0x0, 0x0, .one⟩] ++   -- SHADOW_HP: R52
  [⟨0x600, 16, 0x20, .plain, 0x0, 0x0, 0x0, .one⟩] ++   -- JD_PROG_CYCLES: R100
  [⟨0x604, 16, 0x20, .plain, 0x0, 0x0, 0x0, .one⟩] ++   -- JD_FETCH: R100
  [⟨0x608, 16, 0x20, .plain, 0x0, 0x0, 0x0, .one⟩] ++   -- JD_EVICT: R100
  [⟨0x60C, 16, 0x20, .plain, 0x0, 0x0, 0x0, .one⟩] ++   -- JD_HANDLES: R100
  [⟨0x610, 16, 0x20, .plain, 0x0, 0x0, 0x0, .one⟩] ++   -- JD_LANE_GROUPS: R100
  [⟨0x614, 16, 0x20, .plain, 0x0, 0x0, 0x0, .one⟩] ++   -- JD_FLAGS: R100
  []

/-- Block-specific registers of the party page. -/
def rows_party : List RegRow :=
  [⟨0x100, 10, 0x8, .plain, 0x0, 0x0, 0x0, .lo⟩] ++   -- ACC_LO(ENGINE,HBM_RD,HBM_WR,LINK_TX,LINK_RX,HOST_IN,HOST_OUT,ENERGY,LEDGER_USED,LEDGER_ENT): R68
  [⟨0x104, 10, 0x8, .plain, 0x0, 0x0, 0x0, .hi⟩] ++   -- ACC_HI: R68
  [⟨0x180, 1, 0x4, (.cnt 0x18C 0 8), 0x0, 0x0, 0x0, .one⟩] ++   -- PTY_BAD_CNT: R346
  [⟨0x184, 1, 0x4, (.cnt 0x18C 1 8), 0x0, 0x0, 0x0, .one⟩] ++   -- PTY_DISC_CNT: R346
  [⟨0x188, 1, 0x4, (.cnt 0x18C 2 8), 0x0, 0x0, 0x0, .one⟩] ++   -- PTY_CONC_CNT: R346
  [⟨0x18C, 1, 0x4, .plain, 0x0, 0x0, 0x0, .one⟩] ++   -- PTY_ING_SAT: R346
  [⟨0x200, 1, 0x4, .plain, 0x0, 0x0, 0x0, .one⟩] ++   -- PTY_POLICY: R379
  [⟨0x204, 1, 0x4, .plain, 0x0, 0x0, 0x0, .one⟩] ++   -- PTY_KEYSTAT: R372
  [⟨0x208, 1, 0x4, .plain, 0x0, 0x0, 0x0, .lo⟩] ++   -- PTY_KEYID_LO: R369
  [⟨0x20C, 1, 0x4, .plain, 0x0, 0x0, 0x0, .hi⟩] ++   -- PTY_KEYID_HI: R369
  [⟨0x210, 1, 0x4, .plain, 0x0, 0x0, 0x0, .lo⟩] ++   -- PTY_RKEYID_LO: R372
  [⟨0x214, 1, 0x4, .plain, 0x0, 0x0, 0x0, .hi⟩] ++   -- PTY_RKEYID_HI: R372
  [⟨0x218, 1, 0x4, .plain, 0x0, 0x0, 0x0, .one⟩] ++   -- PTY_STEADY: R382
  [⟨0x21C, 1, 0x4, .wo, 0x0, 0x0, 0x0, .one⟩] ++   -- PTY_STEADY_ACK: R382
  [⟨0x240, 7, 0x8, .plain, 0x0, 0x0, 0x0, .lo⟩] ++   -- PTY_BUD_LO(HBM_RD,HBM_WR,LINK_TX,LINK_RX,HOST_IN,HOST_OUT,ENERGY): R382
  [⟨0x244, 7, 0x8, .plain, 0x0, 0x0, 0x0, .hi⟩] ++   -- PTY_BUD_HI: R382
  []

/-- Block-specific registers of the oper page. -/
def rows_oper : List RegRow :=
  [⟨0x100, 3, 0x8, .plain, 0x0, 0x0, 0x0, .lo⟩] ++   -- OP_LO(ENERGY,LINK_FWD,HBM_BG): R446
  [⟨0x104, 3, 0x8, .plain, 0x0, 0x0, 0x0, .hi⟩] ++   -- OP_HI: R446
  []

/-- Block-specific registers of the ingest page. -/
def rows_ingest : List RegRow :=
  [⟨0x100, 1, 0x4, .plain, 0x0, 0xFFFFF000, 0x0, .lo⟩] ++   -- ING_BASE_LO: R311
  [⟨0x104, 1, 0x4, .plain, 0x0, 0xFFFFFFFF, 0x0, .hi⟩] ++   -- ING_BASE_HI: R311
  [⟨0x108, 1, 0x4, .plain, 0x0, 0x801F001F, 0x0, .one⟩] ++   -- ING_CFG: R311
  [⟨0x10C, 1, 0x4, .plain, 0xFFFFFFFF, 0x0, 0x0, .one⟩] ++   -- ING_PI: R312
  [⟨0x110, 1, 0x4, .plain, 0x0, 0x0, 0x0, .one⟩] ++   -- ING_CI: R314
  [⟨0x118, 1, 0x4, .plain, 0x0, 0x3FF07FF, 0x0, .one⟩] ++   -- FS_CFG: R337
  [⟨0x120, 1, 0x4, .plain, 0x0, 0xFFFFF000, 0x0, .lo⟩] ++   -- EM_BASE_LO: R311
  [⟨0x124, 1, 0x4, .plain, 0x0, 0xFFFFFFFF, 0x0, .hi⟩] ++   -- EM_BASE_HI: R311
  [⟨0x128, 1, 0x4, .plain, 0x0, 0x801F001F, 0x0, .one⟩] ++   -- EM_CFG: R311
  [⟨0x12C, 1, 0x4, .plain, 0x0, 0x0, 0x0, .one⟩] ++   -- EM_PI: R343
  [⟨0x130, 1, 0x4, .plain, 0xFFFFFFFF, 0x0, 0x0, .one⟩] ++   -- EM_CI: R312
  [⟨0x134, 1, 0x4, .plain, 0x0, 0x0, 0x0, .one⟩] ++   -- EM_PEND: R343
  [⟨0x140, 1, 0x4, .plain, 0xFF, 0x0, 0x0, .one⟩] ++   -- PROF_SEL: R345
  [⟨0x144, 1, 0x4, .wo, 0x0, 0x0, 0x0, .one⟩] ++   -- PROF_CMD: R345
  [⟨0x148, 1, 0x4, .plain, 0x0, 0x0, 0x0, .one⟩] ++   -- PROF_STAT: R345
  [⟨0x180, 16, 0x4, .plain, 0xFFFFFFFF, 0x0, 0x0, .one⟩] ++   -- PROF_DATA: R345
  [⟨0x200, 1, 0x4, (.cnt 0x21C 0 6), 0x0, 0x0, 0x0, .one⟩] ++   -- ING_BAD_CNT: R346
  [⟨0x204, 1, 0x4, (.cnt 0x21C 1 6), 0x0, 0x0, 0x0, .one⟩] ++   -- ING_DISC_CNT: R346
  [⟨0x208, 1, 0x4, (.cnt 0x21C 2 6), 0x0, 0x0, 0x0, .one⟩] ++   -- ING_CONC_CNT: R346
  [⟨0x20C, 1, 0x4, (.cnt 0x21C 3 6), 0x0, 0x0, 0x0, .one⟩] ++   -- FE_OVR_CNT: R346
  [⟨0x210, 1, 0x4, (.cnt 0x21C 4 6), 0x0, 0x0, 0x0, .one⟩] ++   -- ING_TMO_CNT: R346
  [⟨0x214, 1, 0x4, (.cnt 0x21C 5 6), 0x0, 0x0, 0x0, .one⟩] ++   -- EM_LOST_CNT: R346
  [⟨0x218, 1, 0x4, (.cnt 0x21C 6 6), 0x0, 0x0, 0x0, .one⟩] ++   -- FE_CTX_RST_CNT: R346
  [⟨0x21C, 1, 0x4, .plain, 0x0, 0x0, 0x0, .one⟩] ++   -- ING_CNT_SAT: R346
  []

/-- The registers of every audio port (12_audio_ports, port page). -/
def rows_port : List RegRow :=
  [⟨0x100, 1, 0x4, .plain, 0x80000000, 0x1F073FDF, 0x50041, .one⟩] ++   -- PORT_CFG: R348
  [⟨0x104, 1, 0x4, .plain, 0x0, 0x0, 0x0, .one⟩] ++   -- PORT_STAT: R350
  [⟨0x108, 1, 0x4, .plain, 0x0, 0x0, 0x0, .one⟩] ++   -- PORT_DRIFT: R350
  [⟨0x144, 1, 0x4, (.cnt 0x15C 1 6), 0x0, 0x0, 0x0, .one⟩] ++   -- PORT_UNLOCK_CNT: R362
  [⟨0x15C, 1, 0x4, .plain, 0x0, 0x0, 0x0, .one⟩] ++   -- PORT_CNT_SAT: R362
  []

/-- The registers of a port with an output. -/
def rows_portOut : List RegRow :=
  [⟨0x10C, 1, 0x4, .plain, 0x3FF, 0x0, 0x32, .one⟩] ++   -- ZC_TMO: R361
  [⟨0x120, 1, 0x4, .plain, 0x0, 0xFFFFF000, 0x0, .lo⟩] ++   -- OUT_BASE_LO: R358
  [⟨0x124, 1, 0x4, .plain, 0x0, 0xFFFFFFFF, 0x0, .hi⟩] ++   -- OUT_BASE_HI: R358
  [⟨0x128, 1, 0x4, .plain, 0x0, 0x801F001F, 0x0, .one⟩] ++   -- OUT_CFG: R358
  [⟨0x12C, 1, 0x4, .plain, 0xFFFFFFFF, 0x0, 0x0, .one⟩] ++   -- OUT_PI: R358
  [⟨0x130, 1, 0x4, .plain, 0x0, 0x0, 0x0, .one⟩] ++   -- OUT_CI: R358
  [⟨0x148, 1, 0x4, (.cnt 0x15C 2 6), 0x0, 0x0, 0x0, .one⟩] ++   -- OUT_BAD_CNT: R362
  [⟨0x14C, 1, 0x4, (.cnt 0x15C 3 6), 0x0, 0x0, 0x0, .one⟩] ++   -- OUT_UNDER_CNT: R362
  [⟨0x150, 1, 0x4, (.cnt 0x15C 4 6), 0x0, 0x0, 0x0, .one⟩] ++   -- ZC_TMO_CNT: R362
  []

/-- `n` input bindings and the counter of discarded ones. -/
def rows_portIn (n : Nat) : List RegRow :=
  [⟨0x140, 1, 0x4, (.cnt 0x15C 0 6), 0x0, 0x0, 0x0, .one⟩] ++   -- PORT_DISC_CNT: R362
  [⟨0x180, n, 0x4, .plain, 0x8F0FFFFF, 0x0, 0x0, .one⟩] ++   -- IN_MAP: R352
  []

/-- `n` output channels. -/
def rows_portCh (n : Nat) : List RegRow :=
  [⟨0x200, n, 0x4, .plain, 0xC000FFFF, 0x0, 0x1000, .one⟩] ++   -- CH_CTRL: R361
  [⟨0x280, n, 0x4, .plain, 0x0, 0x0, 0x1000, .one⟩] ++   -- CH_STAT: R361
  []

/-- The AES3 channel status, with the bits that are RW. -/
def rows_aesCs (rw : Nat) : List RegRow :=
  [⟨0x300, 6, 0x4, .plain, rw, 0x0, 0x0, .one⟩] ++   -- AES_CS_A: R356
  [⟨0x318, 6, 0x4, .plain, rw, 0x0, 0x0, .one⟩] ++   -- AES_CS_B: R356
  []

/-- What an AES receiver measures. -/
def rows_aesRx : List RegRow :=
  [⟨0x154, 1, 0x4, (.cnt 0x15C 5 6), 0x0, 0x0, 0x0, .one⟩] ++   -- AES_ERR_CNT: R362
  [⟨0x158, 1, 0x4, (.cnt 0x15C 6 6), 0x0, 0x0, 0x0, .one⟩] ++   -- AES_CSCRC_CNT: R362
  [⟨0x330, 1, 0x4, .plain, 0x0, 0x0, 0x0, .one⟩] ++   -- AES_STAT: R357
  [⟨0x334, 1, 0x4, .plain, 0x0, 0x0, 0x0, .one⟩] ++   -- AES_RATE: R350
  []

/-- Block-specific registers of the hbm page. -/
def rows_hbm : List RegRow :=
  [⟨0x100, 1, 0x4, .plain, 0x0, 0x0, 0x0, .one⟩] ++   -- HBM_CFG: R274
  [⟨0x140, 16, 0x4, .plain, 0x0, 0x0, 0x0, .one⟩] ++   -- PART_GRP: R276
  [⟨0x200, 17, 0x20, .plain, 0x0, 0x0, 0x0, .lo⟩] ++   -- WIN_BASE_LO: R277
  [⟨0x204, 17, 0x20, .plain, 0x0, 0x0, 0x0, .hi⟩] ++   -- WIN_BASE_HI: R277
  [⟨0x208, 17, 0x20, .plain, 0x0, 0x0, 0x0, .lo⟩] ++   -- WIN_SIZE_LO: R277
  [⟨0x20C, 17, 0x20, .plain, 0x0, 0x0, 0x0, .hi⟩] ++   -- WIN_SIZE_HI: R277
  [⟨0x210, 17, 0x20, .plain, 0x0, 0x0, 0x0, .one⟩] ++   -- WIN_CTRL: R277
  [⟨0x600, 17, 0x40, .plain, 0x0, 0x0, 0x0, .one⟩] ++   -- REG_OFS0: R278
  [⟨0x604, 17, 0x40, .plain, 0x0, 0x0, 0x0, .one⟩] ++   -- REG_SIZE0: R278
  [⟨0x608, 17, 0x40, .plain, 0x0, 0x0, 0x0, .one⟩] ++   -- REG_OFS1: R278
  [⟨0x60C, 17, 0x40, .plain, 0x0, 0x0, 0x0, .one⟩] ++   -- REG_SIZE1: R278
  [⟨0x610, 17, 0x40, .plain, 0x0, 0x0, 0x0, .one⟩] ++   -- REG_OFS2: R278
  [⟨0x614, 17, 0x40, .plain, 0x0, 0x0, 0x0, .one⟩] ++   -- REG_SIZE2: R278
  [⟨0x618, 17, 0x40, .plain, 0x0, 0x0, 0x0, .one⟩] ++   -- REG_OFS3: R278
  [⟨0x61C, 17, 0x40, .plain, 0x0, 0x0, 0x0, .one⟩] ++   -- REG_SIZE3: R278
  [⟨0x620, 17, 0x40, .plain, 0x0, 0x0, 0x0, .one⟩] ++   -- REG_OFS4: R278
  [⟨0x624, 17, 0x40, .plain, 0x0, 0x0, 0x0, .one⟩] ++   -- REG_SIZE4: R278
  [⟨0x628, 17, 0x40, .plain, 0x0, 0x0, 0x0, .one⟩] ++   -- REG_OFS5: R278
  [⟨0x62C, 17, 0x40, .plain, 0x0, 0x0, 0x0, .one⟩] ++   -- REG_SIZE5: R278
  []

/-- Block-specific registers of the stack page. -/
def rows_stack : List RegRow :=
  [⟨0x100, 1, 0x4, (.cnt 0x114 0 2), 0x0, 0x0, 0x0, .one⟩] ++   -- HBM_CE_CNT: R287
  [⟨0x104, 1, 0x4, (.cnt 0x114 1 2), 0x0, 0x0, 0x0, .one⟩] ++   -- HBM_UE_CNT: R287
  [⟨0x108, 1, 0x4, .ros, 0x0, 0x0, 0x0, .lo⟩] ++   -- HBM_UE_ADDR_LO: R287
  [⟨0x10C, 1, 0x4, .ros, 0x0, 0x0, 0x0, .hi⟩] ++   -- HBM_UE_ADDR_HI: R287
  [⟨0x110, 1, 0x4, .plain, 0x0, 0x0, 0x0, .one⟩] ++   -- HBM_SPARED: R287
  [⟨0x114, 1, 0x4, .plain, 0x0, 0x0, 0x0, .one⟩] ++   -- HBM_CNT_SAT: R287
  []

/-- Block-specific registers of the link page. -/
def rows_link : List RegRow :=
  [⟨0x100, 5, 0x100, .plain, 0x3, 0x0, 0x0, .one⟩] ++   -- LK_CTRL: R390
  [⟨0x104, 5, 0x100, .plain, 0x0, 0x0, 0x0, .one⟩] ++   -- LK_STAT: R390
  [⟨0x108, 5, 0x100, .plain, 0x0, 0x0, 0x0, .one⟩] ++   -- LK_PEER: R390
  [⟨0x120, 5, 0x100, (.cnt 0x134 0 3), 0x0, 0x0, 0x0, .one⟩] ++   -- LK_CRC_CNT: R411
  [⟨0x124, 5, 0x100, (.cnt 0x134 1 3), 0x0, 0x0, 0x0, .one⟩] ++   -- LK_REPLAY_CNT: R411
  [⟨0x128, 5, 0x100, (.cnt 0x134 2 3), 0x0, 0x0, 0x0, .one⟩] ++   -- LK_DOWN_CNT: R411
  [⟨0x12C, 5, 0x100, (.cnt 0x134 3 3), 0x0, 0x0, 0x0, .one⟩] ++   -- LK_AUTH_CNT: R411
  [⟨0x130, 5, 0x100, (.cnt 0x134 4 3), 0x0, 0x0, 0x0, .one⟩] ++   -- LK_FILTER_CNT: R411
  [⟨0x134, 5, 0x100, .plain, 0x0, 0x0, 0x0, .one⟩] ++   -- LK_CNT_SAT: R411
  []

/-- Block-specific registers of the span page. -/
def rows_span : List RegRow :=
  [⟨0x100, 1, 0x4, .plain, 0x0, 0x0, 0x0, .one⟩] ++   -- SPAN_COORD: R389
  [⟨0x104, 1, 0x4, .plain, 0x0, 0x0, 0x0, .one⟩] ++   -- SPAN_DIM: R389
  []

/-- Block-specific registers of the exp page. -/
def rows_exp : List RegRow :=
  [⟨0x100, 1, 0x4, .wo, 0x0, 0x0, 0x0, .one⟩] ++   -- EXP_CMD: R299
  [⟨0x104, 1, 0x4, .plain, 0x0, 0x0, 0x0, .one⟩] ++   -- EXP_STAT: R300
  [⟨0x108, 1, 0x4, .plain, 0xFFFFFFFF, 0x0, 0x0, .lo⟩] ++   -- EXP_SRC_LO: R299
  [⟨0x10C, 1, 0x4, .plain, 0xFFFF, 0x0, 0x0, .hi⟩] ++   -- EXP_SRC_HI: R299
  [⟨0x110, 1, 0x4, .plain, 0xFFFFFFFF, 0x0, 0x0, .one⟩] ++   -- EXP_LEN: R299
  [⟨0x114, 1, 0x4, .plain, 0xFFFFFFFF, 0x0, 0x0, .one⟩] ++   -- EXP_DST: R299
  [⟨0x118, 1, 0x4, .plain, 0xFFFFFFFF, 0x0, 0x0, .lo⟩] ++   -- EXP_STG_LO: R309
  [⟨0x11C, 1, 0x4, .plain, 0xFFFF, 0x0, 0x0, .hi⟩] ++   -- EXP_STG_HI: R309
  [⟨0x120, 1, 0x4, .plain, 0x0, 0x0, 0xFFFFFFFF, .one⟩] ++   -- EXP_ERRPOS: R300
  [⟨0x140, 1, 0x4, (.cnt 0x14C 0 3), 0x0, 0x0, 0x0, .one⟩] ++   -- EXP_OVR_CNT: R310
  [⟨0x144, 1, 0x4, (.cnt 0x14C 1 3), 0x0, 0x0, 0x0, .one⟩] ++   -- EXP_UNR_CNT: R310
  [⟨0x148, 1, 0x4, (.cnt 0x14C 2 3), 0x0, 0x0, 0x0, .one⟩] ++   -- EXP_REJ_CNT: R310
  [⟨0x14C, 1, 0x4, .plain, 0x0, 0x0, 0x0, .one⟩] ++   -- EXP_CNT_SAT: R310
  [⟨0x200, 64, 0x8, .plain, 0x0, 0x0, 0x0, .one⟩] ++   -- EXP_TBL_A: R301
  [⟨0x204, 64, 0x8, .plain, 0x0, 0x0, 0x0, .one⟩] ++   -- EXP_TBL_B: R301
  []

/-- Block-specific registers of the mee page. -/
def rows_mee : List RegRow :=
  [⟨0x100, 1, 0x4, .plain, 0x0, 0x0, 0x0, .one⟩] ++   -- MEE_STAT: R446
  [⟨0x104, 1, 0x4, (.cnt 0x108 0 1), 0x0, 0x0, 0x0, .one⟩] ++   -- MEE_ERR_CNT: R446
  [⟨0x108, 1, 0x4, .plain, 0x0, 0x0, 0x0, .one⟩] ++   -- MEE_CNT_SAT: R446
  []

/-- Block-specific registers of the mbox page. -/
def rows_mbox : List RegRow :=
  [⟨0x100, 1, 0x4, .wo, 0x0, 0x0, 0x0, .one⟩] ++   -- MB_CMD: R429
  [⟨0x104, 1, 0x4, .plain, 0x0, 0x0, 0x0, .one⟩] ++   -- MB_STAT: R429
  [⟨0x110, 8, 0x4, .plain, 0xFFFFFFFF, 0x0, 0x0, .one⟩] ++   -- MB_ARG: R429
  [⟨0x130, 8, 0x4, .plain, 0x0, 0x0, 0x0, .one⟩] ++   -- MB_RSP: R429
  [⟨0x200, 896, 0x4, .plain, 0xFFFFFFFF, 0x0, 0x0, .one⟩] ++   -- MB_BUF: R429
  []

/-- Block-specific registers of the sens page. -/
def rows_sens : List RegRow :=
  [⟨0x100, 64, 0x4, .plain, 0x0, 0x0, 0x0, .one⟩] ++   -- SEN_TDIODE: R416
  [⟨0x200, 8, 0x4, .plain, 0x0, 0x0, 0x0, .one⟩] ++   -- SEN_THBM: R416
  [⟨0x220, 16, 0x4, .plain, 0x0, 0x0, 0x0, .one⟩] ++   -- SEN_VOLT: R416
  [⟨0x260, 8, 0x4, .plain, 0x0, 0x0, 0x0, .one⟩] ++   -- SEN_CUR: R416
  [⟨0x280, 1, 0x4, .plain, 0x0, 0x0, 0x0, .one⟩] ++   -- SEN_PIN: R416
  [⟨0x284, 1, 0x4, .plain, 0x0, 0x0, 0x0, .one⟩] ++   -- SEN_OP: R417
  [⟨0x288, 1, 0x4, .plain, 0x0, 0x0, 0x0, .one⟩] ++   -- FLASH_LIFE: R413
  [⟨0x290, 4, 0x4, .plain, 0x0, 0x0, 0x0, .one⟩] ++   -- SEN_FAULT: R416
  [⟨0x2C0, 1, 0x4, (.cnt 0x2CC 0 5), 0x0, 0x0, 0x0, .one⟩] ++   -- SEN_FAULT_CNT: R440
  [⟨0x2C4, 1, 0x4, (.cnt 0x2CC 1 5), 0x0, 0x0, 0x0, .one⟩] ++   -- THROTTLE_CNT: R440
  [⟨0x2C8, 1, 0x4, (.cnt 0x2CC 2 5), 0x0, 0x0, 0x0, .one⟩] ++   -- PWR_OVER_CNT: R440
  [⟨0x2CC, 1, 0x4, .plain, 0x0, 0x0, 0x0, .one⟩] ++   -- SEN_CNT_SAT: R440
  []

/-- Block-specific registers of the bg page. -/
def rows_bg : List RegRow :=
  [⟨0x100, 4, 0x10, .plain, 0x0, 0x0, 0x0, .one⟩] ++   -- BG_STAT: R434
  [⟨0x104, 4, 0x10, .plain, 0x0, 0x0, 0x0, .one⟩] ++   -- BG_PROG: R433
  [⟨0x140, 1, 0x4, .plain, 0x0, 0x0, 0x20, .one⟩] ++   -- BG_THR: R434
  [⟨0x144, 1, 0x4, .plain, 0x0, 0x0, 0xE10, .one⟩] ++   -- BG_HPASS: R430
  [⟨0x180, 1, 0x4, (.cnt 0x18C 0 3), 0x0, 0x0, 0x0, .one⟩] ++   -- BG_TAKE_CNT: R440
  [⟨0x184, 1, 0x4, (.cnt 0x18C 1 3), 0x0, 0x0, 0x0, .one⟩] ++   -- BG_STARVE_CNT: R440
  [⟨0x188, 1, 0x4, (.cnt 0x18C 2 3), 0x0, 0x0, 0x0, .one⟩] ++   -- BG_SLIP_CNT: R440
  [⟨0x18C, 1, 0x4, .plain, 0x0, 0x0, 0x0, .one⟩] ++   -- BG_CNT_SAT: R440
  [⟨0x190, 8, 0x4, .plain, 0x0, 0x0, 0x0, .one⟩] ++   -- BG_UNCOV_CL: R438
  [⟨0x1B0, 1, 0x4, .plain, 0x0, 0x0, 0x0, .lo⟩] ++   -- BG_UNCOV_A_LO: R438
  [⟨0x1B4, 1, 0x4, .plain, 0x0, 0x0, 0x0, .hi⟩] ++   -- BG_UNCOV_A_HI: R438
  [⟨0x1B8, 1, 0x4, .plain, 0x0, 0x0, 0x0, .lo⟩] ++   -- BG_UNCOV_B_LO: R438
  [⟨0x1BC, 1, 0x4, .plain, 0x0, 0x0, 0x0, .hi⟩] ++   -- BG_UNCOV_B_HI: R438
  []
/-- The header registers that every page has (R5). -/
def headerRows : List RegRow :=
  [⟨0x000, 1, 4, .plain, 0, 0, 0, .one⟩, ⟨0x004, 1, 4, .plain, 0, 0, 0, .one⟩, ⟨0x008, 1, 4, .plain, 0, 0, 0, .one⟩,
   ⟨0x00C, 1, 4, .plain, 0, 0, 0, .one⟩, ⟨0x010, 1, 4, .plain, 0, 0, 0, .one⟩] ++
  [⟨0x014, 1, 4, .w1c, 0xFFFFFFFF, 0, 0, .one⟩, ⟨0x018, 1, 4, .plain, 0xFFFFFFFF, 0, 0, .one⟩,
   ⟨0x01C, 1, 4, .wo, 0, 0, 0, .one⟩, ⟨0x020, 4, 4, .ros, 0, 0, 0, .one⟩, ⟨0x030, 1, 4, .plain, 0, 0, 0, .one⟩]

/-- The block-specific registers of a page type; an audio port has those that its type uses, and the other offsets are reserved. (DEDUCED: log entry 50.) -/
def pageRows : PageT → List RegRow
  | .ident => rows_ident | .tick => rows_tick | .events => rows_events | .funcs => rows_funcs | .cluster => rows_cluster
  | .part => rows_part | .table => rows_table | .party => rows_party | .oper => rows_oper | .ingest => rows_ingest
  | .tdm => rows_port ++ rows_portOut ++ rows_portIn 32 ++ rows_portCh 32
  | .aesRx => rows_port ++ rows_portIn 2 ++ rows_aesCs 0 ++ rows_aesRx
  | .aesTx => rows_port ++ rows_portOut ++ rows_portCh 2 ++ rows_aesCs 0xFFFFFFFF
  | .hbm => rows_hbm | .stack => rows_stack
  | .link => rows_link | .span => rows_span | .exp => rows_exp | .mee => rows_mee | .mbox => rows_mbox
  | .sens => rows_sens | .bg => rows_bg | .test => []

/-- The defined PG_EVT bits of a page type, as the chapters' PG_EVT tables give them. (DEDUCED: log entry 9; PRESUMED: log entry 54.) -/
def evtMask : PageT → Nat
  | .ident => 0 | .tick => 0x3FF | .events => 0 | .funcs => 0x7 | .cluster => 0x1F | .part => 0x3FF | .table => 0
  | .party => 0x104 | .oper => 0 | .ingest => 0x7F | .tdm => 0xFF | .aesRx => 0xFF | .aesTx => 0xFF | .hbm => 0
  | .stack => 0x7 | .link => 0xF | .span => 0 | .exp => 0xF | .mee => 0x3 | .mbox => 0x7 | .sens => 0x3F | .bg => 0x1F
  | .test => 0

/-- The PG_EVT bits flagged as logging (R8, R473). -/
def logMask : PageT → Nat
  | .tick => 0xC4 | .cluster => 0x8 | .part => 0xE | .ingest => 0x12 | .stack => 0x2 | .exp => 0x6 | .funcs => 0x2 | .mee => 0x1
  | .party => 0x4 | .tdm => 0x6 | .aesRx => 0x6 | .aesTx => 0x6 | .link => 0x6 | .sens => 0x16 | .bg => 0x4
  | .ident => 0 | .events => 0 | .table => 0 | .oper => 0 | .hbm => 0 | .span => 0 | .mbox => 0 | .test => 0

/-- TYPE of PG_ID (R446). -/
def pageType : PageT → Nat
  | .ident => 0x01 | .tick => 0x02 | .events => 0x03 | .funcs => 0x04 | .cluster => 0x10 | .part => 0x20 | .table => 0x21
  | .party => 0x22 | .oper => 0x23 | .ingest => 0x24 | .tdm => 0x25 | .aesRx => 0x26 | .aesTx => 0x27 | .hbm => 0x28
  | .stack => 0x29 | .link => 0x2A | .span => 0x2B | .exp => 0x2C | .mee => 0x2D | .mbox => 0x2E | .sens => 0x2F
  | .bg => 0x30 | .test => 0x3F

/-- The page at a page index (BAR0 offset / 4,096), with PG_ID.INST (R446). -/
def pageAt (i : Nat) : Option (PageT × Nat) :=
  if i = 0 then some (.ident, 0) else if i = 1 then some (.tick, 0) else if i = 2 then some (.events, 0)
  else if i = 3 then some (.funcs, 0)
  else if i < 0x100 then none
  else if i < 0x200 then some (.cluster, i - 0x100) else if i < 0x210 then some (.part, i - 0x200)
  else if i < 0x220 then some (.table, i - 0x210) else if i < 0x230 then some (.party, i - 0x220)
  else if i = 0x230 then some (.oper, 0)
  else if i < 0x240 then none
  else if i < 0x250 then some (.ingest, i - 0x240) else if i < 0x258 then some (.tdm, i - 0x250)
  else if i < 0x25C then some (.aesRx, i - 0x250) else if i < 0x260 then some (.aesTx, i - 0x250)
  else if i = 0x260 then some (.hbm, 0) else if i < 0x269 then some (.stack, i - 0x261)
  else if i < 0x270 then none
  else if i < 0x274 then some (.link, i - 0x270) else if i = 0x274 then some (.span, 0)
  else if i < 0x280 then none
  else if i < 0x290 then some (.exp, i - 0x280) else if i = 0x290 then some (.mee, 0)
  else if i = 0x2A0 then some (.mbox, 0) else if i = 0x2A1 then some (.sens, 0) else if i = 0x2A2 then some (.bg, 0)
  else if 0x2F0 ≤ i ∧ i < 0x300 then some (.test, i - 0x2F0)
  else none

/-- PG_OWNER of a page (R446): CLASS 2 for management pages, CLASS 1 and PARTY for a party page, else the operator's 0. -/
def pageOwner : PageT → Nat → Nat
  | .party, k => 1 + 0x100 * k
  | .ident, _ => 2 | .hbm, _ => 2 | .stack, _ => 2 | .mee, _ => 2 | .mbox, _ => 2 | .sens, _ => 2 | .bg, _ => 2 | .test, _ => 2
  | _, _ => 0

/-- The row of a list that covers an offset. -/
def findRow (o : Nat) : List RegRow → Option RegRow
  | [] => none
  | r :: rs =>
    if r.off ≤ o ∧ o < r.off + r.count * r.stride ∧ (o - r.off) % r.stride = 0 then some r else findRow o rs

/-- The register at an offset of a page type; reserved offsets have none. (DESIGN CHOICE: log entry 2; DESIGN CHOICE: log entry 5.) -/
def regAt (p : PageT) (o : Nat) : Option RegRow :=
  if p = .test then none else if o < 0x100 then findRow o headerRows else findRow o (pageRows p)

/-- What the register word at a BAR0 address reads before anything changes it: its reset value; 0 at reserved offsets. (DESIGN CHOICE: log entry 2.) -/
def resetWord (a : Nat) : Word :=
  match pageAt (a / 4096) with
  | none => 0
  | some (p, i) =>
    let o := a % 4096
    if o = 0 then BitVec.ofNat 32 (pageType p * 65536 + i)
    else if o = 4 then 0x00B00001
    else if o = 8 then BitVec.ofNat 32 (pageOwner p i)
    else match regAt p o with
      | some r => BitVec.ofNat 32 r.reset
      | none => 0

/-! Page addresses in BAR0 (R446). -/
/-- (DEDUCED: log entry 60.) -/
abbrev identPg : Nat := 0x0000
abbrev tickPg : Nat := 0x1000
abbrev eventsPg : Nat := 0x2000
abbrev funcsPg : Nat := 0x3000
abbrev clPg (c : Nat) : Nat := 0x100000 + 0x1000 * c
abbrev partPg (n : Nat) : Nat := 0x200000 + 0x1000 * n
abbrev tblPg (n : Nat) : Nat := 0x210000 + 0x1000 * n
/-- The party page of party p (1-16). -/
abbrev ptyPg (p : Nat) : Nat := 0x220000 + 0x1000 * (p - 1)
abbrev operPg : Nat := 0x230000
abbrev ingPg (n : Nat) : Nat := 0x240000 + 0x1000 * n
abbrev portPg (p : Nat) : Nat := 0x250000 + 0x1000 * p
abbrev hbmPg : Nat := 0x260000
abbrev stkPg (s : Nat) : Nat := 0x261000 + 0x1000 * s
abbrev lnkPg (d : Nat) : Nat := 0x270000 + 0x1000 * d
abbrev spanPg : Nat := 0x274000
abbrev expPg (n : Nat) : Nat := 0x280000 + 0x1000 * n
abbrev meePg : Nat := 0x290000
abbrev mbPg : Nat := 0x2A0000
abbrev senPg : Nat := 0x2A1000
abbrev bgPg : Nat := 0x2A2000

end Sys2Proof.Machine
end

