-- ==== Sys2Proof/Machine/SMap.lean ====
section
/-!
DEFINITION. Sparse stores: a list of (key, value) pairs in one canonical form, keys strictly rising and no entry equal to what an
unlisted key reads as. Registers (R5), scratchpad slots (R254), handle entries (R267), bundles (R73), HBM bytes (R274) and every
other numbered thing that is mostly at its reset value is held this way.
-/
namespace Sys2Proof.Machine

/-- A sparse store with natural-number keys. -/
abbrev SMap (α : Type) := List (Nat × α)

/-- The value at key `k`; `d` is what an unlisted key reads as. -/
def smGet {α : Type} (d : α) : SMap α → Nat → α
  | [], _ => d
  | (j, v) :: m, k => if j = k then v else smGet d m k

/-- The store without key `k`. -/
def smErase {α : Type} : SMap α → Nat → SMap α
  | [], _ => []
  | (j, v) :: m, k => if j = k then smErase m k else (j, v) :: smErase m k

/-- Insert before the first larger key. -/
def smIns {α : Type} (k : Nat) (v : α) : SMap α → SMap α
  | [] => [(k, v)]
  | (j, u) :: m => if k < j then (k, v) :: (j, u) :: m else (j, u) :: smIns k v m

/-- Write `v` at `k`; writing the value an unlisted key reads as removes the entry. -/
def smSet {α : Type} [DecidableEq α] (d : α) (m : SMap α) (k : Nat) (v : α) : SMap α :=
  if v = d then smErase m k else smIns k v (smErase m k)

/-- Keys strictly rising from `lo` on. -/
def smRising {α : Type} : Nat → SMap α → Bool
  | _, [] => true
  | lo, (j, _) :: m => decide (lo ≤ j) && smRising (j + 1) m

/-- The canonical form: keys strictly rising, no entry equal to its key's default. -/
def smWf {α : Type} [DecidableEq α] (d : Nat → α) (m : SMap α) : Bool :=
  smRising 0 m && m.all fun p => decide (p.2 ≠ d p.1)

/-- Update the value at `k` by a function. -/
def smMod {α : Type} [DecidableEq α] (d : α) (m : SMap α) (k : Nat) (f : α → α) : SMap α :=
  smSet d m k (f (smGet d m k))

/-! Byte memories (HBM, host memory), in the host's cell form. -/

/-- One byte; `d` is what an unlisted address reads as. (DESIGN CHOICE: log entry 2.) -/
def memGet (d : Byte) (m : List Host.Cell) (a : Nat) : Byte := smGet d m a

/-- Write one byte. -/
def memSet (d : Byte) (m : List Host.Cell) (a : Nat) (b : Byte) : List Host.Cell := smSet d m a b

/-- `n` bytes from address `a` up. -/
def memRead (d : Byte) (m : List Host.Cell) (a n : Nat) : List Byte :=
  (List.range n).map fun i => memGet d m (a + i)

/-- Write bytes from address `a` up, the lowest first. -/
def memWrite (d : Byte) (m : List Host.Cell) (a : Nat) : List Byte → List Host.Cell
  | [] => m
  | b :: bs => memWrite d (memSet d m a b) (a + 1) bs

/-- The canonical form of a byte memory whose unlisted addresses read `d`. -/
def memWf (d : Byte) (m : List Host.Cell) : Bool := smWf (fun _ => d) m

/-- A sparse store without the keys that `f` names. -/
def smDrop {α : Type} (m : SMap α) (f : Nat → Bool) : SMap α := m.filter fun p => !f p.1

end Sys2Proof.Machine
end

