-- ==== Sys2Proof/Machine/State.lean ====
section
/-!
DEFINITION. The state of the TS9. Host-visible registers live in one sparse map from BAR0 address to word (00_scope R4-R10);
what hardware keeps beside them stands in structures, one per unit, chapter by chapter. Default field values are the reset
values. The RO registers that mirror such hardware state are computed when read (Machine/Compose.lean), so every piece of
state has one home. State is plain data: no field is a function.
-/
namespace Sys2Proof.Machine

/-! ## The tick (01_tick) -/

/-- The TICK_CFG fields, in force or waiting (R15, R16). -/
structure TickCfg where
  period  : Nat := 2
  src     : Nat := 0
  opfloor : Nat := 0
  reserve : Nat := 4
  deriving DecidableEq, Repr

/-- Where the tick in progress stands (R25): no edge yet, dispatch window, pitches and background, commit window, or after the
flip. -/
inductive Phase where
  | stopped | dispatch | pitches | commit | guard
  deriving DecidableEq, Repr

/-- The timebase, the tick generator and the operating point. Times are in units of 1/28,560 ns: a sixteenth of a ns (R19), a
CCLK cycle at each operating point and a REFCLK_LINK cycle are whole numbers of it. A time held on the timebase is an integer: a LOAD may
move it below 0 (R474). -/
structure Clk where
  tb        : Nat := 0              -- timebase (R13)
  rem       : Int := 0              -- remainder of the slew, in 10^-9 units
  cyc       : Nat := 0              -- time since the last edge
  num       : Nat := 0              -- TICK_NUM (R17)
  seen      : Bool := false         -- an edge has fallen since a cold or Sirvi-initiated reset
  len       : Nat := 0              -- TICK_LEN, cycles of the previous tick
  phase     : Phase := .stopped
  cutDone   : Bool := false         -- the cut-off of the coming edge has passed (R26)
  run       : Bool := false         -- TICK_STAT.RUN
  op        : Nat := 0              -- operating point in force (R24)
  srcNow    : Nat := 0              -- TICK_STAT.SRC_NOW
  fly       : Nat := 0              -- TICK_STAT.FLY
  relocking : Bool := false
  cfgRej    : Bool := false
  ptmOk     : Bool := false
  tbValid   : Bool := false
  rate      : Int := 0              -- TB_RATE, ppb
  ptmOfs    : Int := 0              -- TB_PTM_OFS, ns
  ptmFails  : Nat := 0              -- consecutive failures (R14)
  ptmOut    : Option Int := none    -- time of the outstanding request
  ptmNext   : Int := 0              -- time the next request is due
  cfg       : TickCfg := {}         -- fields in force (R16)
  wait      : Option TickCfg := none
  lastEdge  : Option Int := none    -- the previous device edge E, when one has fallen since EN was set
  fbEdge    : Option Int := none    -- the first edge of a fallback with no edge before it (R23)
  gridFrom  : Int := 0              -- internal edges fall on the grid from here on (R17, R474, R475)
  due       : Option Int := none    -- device edge an accepted TICK_IN edge has made due (R18)
  dueIn     : Int := 0              -- arrival time of that edge
  lastIn    : Option Int := none    -- arrival of the accepted edge whose device edge was the last one (R19)
  ivals     : List Nat := []        -- stored intervals in ns, newest first (R19)
  phaseIn   : Option Int := none    -- last TICK_IN edge seen in a relock (R22)
  enAt      : Int := 0              -- time of the EN write (R23)
  chgAt     : Option Int := none    -- edge X of a change from internal to TICK_IN (R475)
  inTs      : Int := 0              -- TICKIN_TS
  toFb      : Bool := false         -- the 64th consecutive flywheel edge has been issued (R21)
  tickOut   : Option Int := none    -- timebase of the last TICK_OUT pulse (R475)
  opNext    : Option (Nat × Bool) := none  -- point Sirvi has chosen for the next edge, and whether for thermal protection
  deriving DecidableEq, Repr

/-! ## Partitions and pitches (02_partitions_pitches) -/

/-- Partition states, PART_STAT.STATE (R41). -/
inductive PState where
  | off | configuring | ready | running | maintenance | faulted | zeroising
  deriving DecidableEq, Repr

/-- Commands that wait for an edge (R41, R43). -/
inductive PendCmd where
  | start | stop | maint | resume
  deriving DecidableEq, Repr

/-- The lane-group table, handle images and the rest of what the loader keeps of a loaded image (R97-R100). -/
structure JobImg where
  flags      : Nat := 0             -- ADAPT, TEST, STEALABLE, STRICT_ALT
  frames     : Nat := 0
  n          : Nat := 0             -- bundles per slice
  paged      : Bool := false
  fetch      : Nat := 0
  evict      : Nat := 0
  handles    : Nat := 0             -- H
  laneGroups : Nat := 0
  fprint     : List Byte := []      -- model fingerprint
  clusters   : List Nat := []       -- member of slice i
  g          : List Nat := []       -- lane groups of slice i
  bases      : List (List Nat) := []     -- per slice: 16 cores × 8 registers
  htab       : List (List DWord) := []   -- per slice: H entries, CLUSTER translated (R269)
  fetchList  : List (List (BitVec 512)) := []  -- per slice: switch-list descriptors in
  evictList  : List (List (BitVec 512)) := []  -- per slice: switch-list descriptors out
  vectors    : List Nat := []
  ccAt       : Nat := 0             -- address of the control-core image
  ccLen      : Nat := 0
  cc         : List Byte := []      -- the control-core image
  code       : List (List Bundle) := []  -- per slice: the bundles of a resident job
  frame0     : List Nat := []       -- frames of bundle memory the job holds
  pages      : List (List Nat) := []     -- per slice: HBM addresses of the sealed pages of a paged job (R86)
  ptags      : List (List (List Byte)) := []   -- per slice: the pages' GCM tags
  deriving DecidableEq, Repr

/-- One job of a partition (R64-R67). -/
structure Job where
  loaded  : Bool := false
  ftick   : Bool := false
  halted  : Bool := false
  consec  : Nat := 0
  cause   : Nat := 0
  rearm   : Bool := false           -- a REARM write waits for the edge
  faulted : Bool := false           -- faulted in the tick in progress
  carry   : Bool := false           -- a fault detected at or after the flip: it belongs to the next tick (R35)
  busy    : Option Nat := none      -- teardown after a fault runs; the cycle it began (R65)
  img     : JobImg := {}
  used    : Nat := 0                -- core-cycles used in the tick (R59)
  ent     : Nat := 0                -- core-cycles entitled in the tick
  deriving DecidableEq, Repr

/-- The pitch that holds a partition's cores (R54). -/
structure Pitch where
  entry  : Nat := 0
  job    : Nat := 0
  rt     : Bool := true
  start  : Nat := 0                 -- actual start cycle
  limit  : Nat := 0
  t0     : Option Nat := none       -- cycle the origin issues bundle 0, once the switch is done
  extra  : Nat := 0                 -- switch cycles beyond the formula (R57)
  tearW  : Nat := 0                 -- cycles waited for a job teardown (R65)
  stalls : List (Nat × Nat × Nat) := []  -- stalled cycles: from, to (exclusive), class of R62: 0 HBM, 1 NoC, 2 tag
  grant  : Nat := 0                 -- g of R58
  deriving DecidableEq, Repr

/-- A slack segment (R58): its end, its pool, and the best-effort entries not yet started, with budget and share. -/
structure Seg where
  segEnd : Nat := 0
  pool   : Int := 0
  left   : List (Nat × Nat × Nat) := []
  deriving DecidableEq, Repr

/-- Cycles and traffic a tick has accumulated for a party (R68). -/
structure Acc where
  engine  : Nat := 0
  hbmRd   : Nat := 0
  hbmWr   : Nat := 0
  linkTx  : Nat := 0
  linkRx  : Nat := 0
  hostIn  : Nat := 0
  hostOut : Nat := 0
  acts    : SMap Nat := []          -- activity counts (R69): ME ops by mode 0-15, VE ops 16, GP ops 17, scratchpad bytes 18
  deriving DecidableEq, Repr

/-- A host command that waits in the KV engine (08_attention R226, R251), with its arguments. -/
structure KvCmd where
  cmd  : Nat := 0
  a0   : Nat := 0
  a1   : Nat := 0
  a2   : Nat := 0
  a3   : Nat := 0
  deriving DecidableEq, Repr

/-- A load or unload in progress (03_tick_programs R97, R98). -/
structure LoadOp where
  unload : Bool := false
  job    : Nat := 0
  addr   : Nat := 0
  len    : Nat := 0
  deriving DecidableEq, Repr

/-- What the stream table keeps of a registered weight stream beside its registers (10_weight_streams R301). -/
structure ExpEnt where
  addr : Nat := 0
  len  : Nat := 0
  job  : Nat := 0
  nblk : Nat := 0
  cSum : Nat := 0                   -- Σ CSIZE
  uSum : Nat := 0                   -- Σ USIZE
  uMax : Nat := 0
  deriving DecidableEq, Repr

/-- The kind of stream a load expands: TWS, EXP16, or a sealed EXP16 wrapper still to be decrypted (R305, R309). -/
inductive ExpKind where
  | tws | exp16 | wrap
  deriving DecidableEq, Repr

/-- A load in progress (R299, R300): its command word and destination, the handle entry and cluster that the destination named when the
command was accepted, the image bytes of the stream as checked, where the stream to expand lies, the staging area, the next block, its
payload's offset and the image bytes made so far. -/
structure ExpLoad where
  kind : ExpKind := .tws
  cmd  : Nat := 0
  dst  : Nat := 0
  ent  : DWord := 0
  clus : Nat := 0
  all_ : Nat := 0
  src  : Nat := 0
  len  : Nat := 0
  stg  : Nat := 0
  stgLen : Nat := 0
  j    : Nat := 0
  pos  : Nat := 0
  img  : Nat := 0
  deriving DecidableEq, Repr

/-- One partition. -/
structure Part where
  st      : PState := .off
  rej     : Nat := 0                -- PART_STAT.REJ_CAUSE
  tblErr  : Nat := 0xFF             -- PART_STAT.TBL_ERR
  tblPend : Bool := false
  cmd     : Option (PendCmd × Nat) := none   -- waiting command and the tick number of its edge
  tearing : Bool := false           -- ZEROISING begins at the next edge (R44)
  flr     : Bool := false           -- a function-level reset of the VF waits for OFF (R49, R456)
  toFault : Bool := false           -- FAULTED is entered at the next edge (R35)
  hpIdx   : Nat := 0
  jobs    : SMap Job := []
  pitch   : Option Pitch := none
  started : List Nat := []          -- entries whose pitch has started in the tick
  lastJob : Option Nat := none      -- job of the last completed switch (R56, R269)
  comAt   : Option (Bool × Nat × Nat) := none   -- cycle of the last accepted COMMIT: an edge seen before, TICK_NUM, cycle of the tick (R48)
  seg     : Option Seg := none
  flipSet : Option (List Nat) := none   -- lane keys fixed at the first commit cycle (R30)
  elap    : Nat := 0                -- tick sums (R62)
  sHbm    : Nat := 0
  sNoc    : Nat := 0
  sTag    : Nat := 0
  slowRing : List Nat := []         -- LAST of the last 1,024 ticks, newest first (R63)
  pitchTo : Nat := 50000            -- actual end of the last pitch of the tick; 50,000 before the first (R54)
  stage   : SMap Word := []         -- staging words written since the last HI write: active entries 0-63, shadow 64-127 (R72)
  tagTmo  : Nat := 0x10000          -- TAG_TMO in force (R258)
  collTmo : Nat := 0x20000          -- COLL_TMO in force (R403)
  stolen  : Nat := 0                -- chunks stolen at the last dispatch (R61)
  kvCmd   : Option KvCmd := none    -- host command waiting for the flip (R251)
  kvRes   : List (Nat × Nat) := []  -- reservations of the tick: sequence and lane key (R223)
  kvRq    : List Nat := []          -- recompute queue (R227)
  loadOp  : Option LoadOp := none   -- load or unload in progress (R98)
  expTab  : SMap ExpEnt := []       -- the valid entries of the stream table (R301)
  expLoad : Option ExpLoad := none  -- weight-stream load in progress (R299)
  syncs   : List (Nat × Nat) := []  -- SYNC reports of the pitch: cluster and bundle index, newest first (R84)
  deriving DecidableEq, Repr

/-- Party accounting beside the counters: the ledger ring and energy remainder (R59, R69), and what the tick in progress has charged:
traffic and activity, and core-cycles used and entitled. -/
structure PartyAcc where
  ledger : List (Nat × Nat) := []   -- (used, entitled) of the last 1,024 ticks, newest first
  ergRem : Nat := 0                 -- 16-bit fractional remainder
  acc    : Acc := {}
  used   : Nat := 0
  ent    : Nat := 0
  deriving DecidableEq, Repr

/-! ## Lanes and streams (07_streams_state) -/

/-- Stream states (R191). -/
inductive SState where
  | free | opn | active | parking | parked | unparking | moving | closed
  deriving DecidableEq, Repr

/-- One channel of a stream's front-end context (R333): the last 32 input samples, the last input sample for pre-emphasis, the model
samples kept for framing (oldest first; missing ones are 0.0), and the running statistics per band (missing ones 0.0 and 1.0). FP32
words. -/
structure FeChan where
  hist : List Nat := []
  last : Nat := 0
  ovl  : List Nat := []
  mu   : List Nat := []
  sd   : List Nat := []
  deriving DecidableEq, Repr

/-- A stream's front-end context: model samples since the last frame's end, and the channels. -/
structure FeCtx where
  cnt : Nat := 0
  ch  : List FeChan := []
  deriving DecidableEq, Repr

/-- Samples a source of a group has delivered (R326, R327): sequence, device time of the first sample in ns, FP32 words by channel,
and the ring entry they came from. -/
structure SrcRec where
  seq : Nat := 0
  t   : Int := 0
  x   : List (List Nat) := []
  idx : List Nat := []
  mask : List Nat := []             -- its trailer's masks (R340)
  deriving DecidableEq, Repr

/-- A source of a stream's records (R321, R322, R326, R327): channel base and count, the expected sequence, the last timestamp, the
SSRC kept, the anchor (A, R), and the jitter buffer. -/
structure Src where
  base  : Nat := 0
  chans : Nat := 0
  seq   : Option Nat := none
  ts    : Option Nat := none
  ssrc  : Option Nat := none
  ancA  : Nat := 0
  ancR  : Nat := 0
  recs  : List SrcRec := []
  deriving DecidableEq, Repr

/-- What the ingest front-end keeps for a stream (R321-R333): its sources, its context, whether the context must be reloaded
(R335), the sequence of its next port or group chunk, and the tick of its last group chunk. -/
structure StrmIn where
  srcs   : List Src := []
  ctx    : FeCtx := {}
  reload : Bool := false
  pseq   : Nat := 0
  gtick  : Option Nat := none
  deriving DecidableEq, Repr

/-- A chunk in a stream's queue: what the ingest path has made of a record, a window or nothing (R192, R201, R324; 11_ingest). -/
structure Chunk where
  tick   : Nat := 0                 -- tick number it was meant for
  pres   : Bool := false            -- present at a cut-off, so that `tick` is settled (R313)
  idx    : List Nat := []           -- ingest indices of its ring entries
  seq    : Nat := 0
  ts     : Nat := 0
  conc   : Option Nat := none       -- concealment cause
  miss   : Nat := 0                 -- missing-channel mask (R328)
  grp    : Bool := false            -- a group chunk
  age    : Option Nat := none       -- dispatches seen; none before the first
  x      : List (List Nat) := []    -- FP32 input samples by channel
  phi    : List Nat := []           -- phase offset by channel, in 10^-9 input samples (R329)
  drift  : List Int := []           -- measured rate of a slave port against nominal by channel, ppb (R329, R353)
  gain   : Option Nat := none       -- a trailer's gain (R340), where it has not been applied yet
  masks  : List (List (List Nat)) := []   -- masks by channel: first frame, frames, first band, bands (R340)
  at_    : Nat := 0                 -- its place in the partition's order of arrival (R336)
  ready  : Bool := false            -- processed by the front-end
  fs     : Option Nat := none       -- its feature-store entry: core·1024 + slot (R337)
  fsN    : Nat := 0                 -- slots of the entry
  ctx    : FeCtx := {}              -- the context that follows it (R335)
  deriving DecidableEq, Repr

/-- The last PARK, UNPARK or EXPORT accepted since the previous dispatch (R212). -/
inductive SReq where
  | none | park | unpark | xport (addr : Nat)
  deriving DecidableEq, Repr

/-- A transfer of a stream (R202, R210, R211): what it is, its address, and whether its outcome waits for an edge. -/
inductive SXfer where
  | none
  | write (queued : Bool)           -- bivouac write: false until the flip queues it
  | read                            -- bivouac read of an unpark
  | xport (addr : Nat) (fromPlace : Bool)
  | imprt (addr : Nat)
  deriving DecidableEq, Repr

/-- An outcome that takes effect at the next edge (R193). -/
inductive SDone where
  | none | parked | active | unparkBad | closed | imported | exportBad | exportUe
  deriving DecidableEq, Repr

/-- What a seal takes when it is queued: the key's identifier, K_blob, and the vector counter's value (R206, R208; 13_parties R372). -/
structure Seal where
  id  : Nat
  key : List Byte
  iv  : Nat
  deriving DecidableEq, Repr

/-- One directory entry (R190), with the queue of chunks, the per-stream counters (R10) and the transfer in progress. -/
structure Strm where
  st        : SState := .free
  part      : Nat := 0
  party     : Nat := 0
  job       : Nat := 0
  home      : Nat := 0
  place     : Option Nat := none
  side      : Nat := 0
  seq       : Nat := 0
  lastSeq   : Nat := 0
  biv       : Nat := 0
  hold      : Nat := 1
  idlePark  : Nat := 0
  belay     : Nat := 0
  droppable : Bool := false
  freezeC   : Bool := false
  profile   : Nat := 0
  bad       : Bool := false
  ftick     : Bool := false         -- marked FAULTED_TICK in the last tick
  ftickNow  : Bool := false         -- in the tick in progress
  idle      : Nat := 0              -- consecutive ticks with no chunk bound
  bound     : Bool := false         -- a chunk is bound in the tick
  unbound   : Bool := false         -- a ready chunk was not bound in the tick (R28)
  req       : SReq := .none
  closeReq  : Bool := false
  xfer      : SXfer := .none
  sealQ     : Option Seal := none   -- of the blob being written
  sealB     : Option Seal := none   -- of the belay blob being sent
  done      : SDone := .none
  queue     : List Chunk := []      -- chunks waiting; a bound chunk stands in its lane
  inp       : StrmIn := {}
  cLate     : Nat := 0
  cDrop     : Nat := 0
  cConc     : Nat := 0
  cFault    : Nat := 0
  deriving DecidableEq, Repr

/-- A bound lane (R60, R95, R197). -/
structure Lane where
  handle  : Nat := 0
  stolen  : Bool := false
  chunk   : Chunk := {}
  late    : Option Nat := none      -- late cause already decided
  fault   : Bool := false
  noFlip  : Bool := false           -- bound and run, never flipped (R325)
  same    : Bool := false           -- UNCHANGED for belay (R405)
  deriving DecidableEq, Repr

/-! ## Memory (09_memory) -/

/-- One scratchpad slot: 256 bytes, its tag, and for each 64-bit word whether it is poisoned and whether it holds a single-bit error that
no read has met yet (R254, R265, R266). -/
structure Slot where
  data   : SlotBits := 0
  full   : Bool := false
  poison : BitVec 32 := 0
  ce     : BitVec 32 := 0
  open_  : Bool := false            -- written and not FULL since: the write is not complete (R30)
  deriving DecidableEq, Repr

/-- A descriptor in a queue (R282): the 64 bytes, whether it has started, the scratchpad slots it reads and writes once started
(core, slot, first byte, bytes), how many bytes it has moved (R283), the slots of lanes it no longer writes because its pitch has ended
(R29), and the pitch that issued it. -/
structure Desc where
  d       : BitVec 512 := 0
  started : Bool := false
  src     : List (Nat × Nat × Nat × Nat) := []
  dst     : List (Nat × Nat × Nat × Nat) := []
  moved   : Nat := 0
  skip    : List (Nat × Nat) := []
  entry   : Nat := 0
  job     : Nat := 0
  deriving DecidableEq, Repr

/-- A collective on a core (R400, R401): its step, whether the step's message has been sent, the body to send, and whether it has begun. -/
structure CollRun where
  step : Nat := 0
  sent : Bool := false
  body : List Byte := []
  deriving DecidableEq, Repr

/-- An operation on a NoC engine (R271, R398, R400): a copy of slots, a link message, or a collective. -/
inductive NocKind where
  | copy | send | coll
  deriving DecidableEq, Repr

structure NocOp where
  kind    : NocKind := .copy
  src     : List (Nat × Nat) := []
  dst     : List (Nat × Nat) := []
  consume : Bool := false
  hold    : Bool := false
  job     : Nat := 0
  bits    : Nat := 0                -- the slot's 64 bits, for link ops
  since   : Nat := 0                -- cycle the engine began it
  moved   : Nat := 0                -- slots a copy has moved (R272)
  skip    : List (Nat × Nat) := []  -- slots of lanes it no longer writes (R29)
  imm     : Nat := 0
  coll    : CollRun := {}
  deriving DecidableEq, Repr

/-! ## Sequencers and control cores (03_tick_programs) -/

/-- Why a cluster is frozen (R83) and how the wait is classed (R62): 0 HBM, 1 NoC, 2 tag. -/
inductive Wait where
  | slotFull (core slot : Nat)      -- waits for the slot to be FULL
  | slotEmpty (core slot : Nat)     -- waits for the slot to be EMPTY
  | page (p : Nat)                  -- waits for a bundle page (R86)
  | queue1 (n : Nat)                -- waits for room for n descriptors in the program queue (R264)
  | noc (core : Nat)                -- waits for a place on a NoC engine (R271)
  | remote (core slot n : Nat)      -- waits for a remote access (R273)
  | port                            -- one cycle for the scratchpad port (R260)
  deriving DecidableEq, Repr

/-- An effect of an op in flight at the end of a later issue cycle: scratchpad bytes and tags (`chk`: a static write, which needs the slot
EMPTY; `sp`: a tag change of SP.TAG), parts of VE registers, ME weight rows, codebooks, exchanges and bank writes, sticky flags, summary
posts. -/
inductive Eff where
  | slot (core i off : Nat) (bytes : List Byte) (full : Option Bool) (chk : Bool)
  | tag (core i : Nat) (full sp : Bool)
  | vreg (core r : Nat) (mask v : VReg)
  | mreg (core r : Nat) (mask v : BitVec 64)
  | wrow (core row : Nat) (v : BitVec 512)
  | cbook (core row : Nat) (v : BitVec 128)
  | swapRow (core row : Nat)
  | bankHead (core bank cnt : Nat) (exps : Option (List Int))
  | bankAdd (core bank item : Nat) (sums : List Nat) (acc b16 : Bool)
  | flags (core : Nat) (fo fn : Bool)
  | post (v : DWord)
  deriving DecidableEq, Repr

/-- An op in flight that still has reads to make (R109, R113, R168, R177, R255, R261, R263). -/
inductive RunKind where
  | loadw | stream | drain | chain | copy | dma | tile
  deriving DecidableEq, Repr

/-- Such an op on a core: its issue cycle and slot bits, the offset of its next event, the ME mode and item count it issued with, the
slots of its operands as resolved (none for a padding lane's), the bytes read so far, the items that have entered the array or the results
drained, the weight rows they meet, and words kept from its issue cycle. -/
structure OpRun where
  kind  : RunKind := .loadw
  core  : Nat := 0
  start : Nat := 0
  bits  : Nat := 0
  next  : Nat := 1
  mode  : Nat := 0
  nb    : Nat := 0
  src   : List (Option (Nat × Nat)) := []
  dst   : List (Option (Nat × Nat)) := []
  third : List (Option (Nat × Nat)) := []   -- CREF of a GP.CHAIN, the statistic slot of an ME.DRAIN
  state : List (Option (Nat × Nat)) := []   -- SREF and XREF of a GP.CHAIN
  x     : List (Option (Nat × Nat)) := []
  got   : List Byte := []
  items : List (List Int × Int) := []
  rows  : List (List Int) := []
  ws    : List Nat := []
  part  : Nat := 0                  -- bytes of the slot an ME.LOADW is at that have crossed the port
  deriving DecidableEq, Repr

/-- One core's engines; the fields follow in the chapters' order. -/
structure Core where
  mode : Nat := 0                   -- ME mode (R103)
  au   : Bool := false              -- activations are u8
  actW : SMap (BitVec 512) := []    -- active and shadow weight rows, codebooks (R109)
  shdW : SMap (BitVec 512) := []
  actC : SMap (BitVec 128) := []
  shdC : SMap (BitVec 128) := []
  bank : SMap (List Nat) := []      -- accumulators of item bank·32 + b, one 32-bit word per column (R105)
  exps : SMap Int := []             -- item exponents, same key
  cnt0 : Nat := 0                   -- item counts
  cnt1 : Nat := 0
  v    : SMap VReg := []            -- V0-V31 (R156)
  m    : SMap (BitVec 64) := []     -- M1-M7 (R157)
  vl   : Nat := 64
  pEin : List Int := []             -- prologue latches (R181)
  pMu  : List Nat := []
  pR   : List Nat := []
  pFn  : Nat := 0
  rs   : List (Nat × Nat) := []     -- row-statistic accumulators (R184)
  gp   : List (List Int × Int) := []    -- GP input buffer: codes of each item and its exponent (R129)
  deriving DecidableEq, Repr

/-- An open loop (R78). -/
structure LoopF where
  first : Nat
  left  : Nat                       -- iterations still to run after the current one
  deriving DecidableEq, Repr

/-- A control-core handler (R91). -/
inductive Hnd where
  | dispatch | pitch | summary
  deriving DecidableEq, Repr

/-- A row's running state in ME.ATTN (08_attention R240): m, l and o as FP32 words. -/
structure ARow where
  m : Nat := 0xFF800000
  l : Nat := 0
  o : List Nat := []
  deriving DecidableEq, Repr

/-- An ME.ATTN in progress on a core (R229-R244): its issue cycle and op fields, what it read in its issue cycle, the slots (none for
a padding lane's) of the ring, the expansion operands and the outputs, the next block position, the cycle after the last block, the
rows, and the flags not yet set. -/
structure AttnRun where
  core   : Nat := 0
  start  : Nat := 0
  bits   : Nat := 0
  desc   : List Byte := []
  record : List Byte := []
  query  : List Byte := []
  ring   : List (Option (Nat × Nat)) := []
  ek     : List (Option (Nat × Nat)) := []
  ev     : List (Option (Nat × Nat)) := []
  pk     : List (Option (Nat × Nat)) := []
  pv     : List (Option (Nat × Nat)) := []
  out    : List (Option (Nat × Nat)) := []
  rs     : List (Option (Nat × Nat)) := []
  pos    : Nat := 0
  sub    : Nat := 0                 -- ring slots of the position already read
  blk    : List Byte := []          -- their bytes
  last   : Nat := 0
  rows   : List ARow := []
  deriving DecidableEq, Repr

/-- A read at use (10_weight_streams R301-R303), queued or running: the stream table entry, the job that queued it, CC_EXP_DST and
CC_EXP_RING; and, once it runs, the cycle it started, the next block, its payload's offset, the totals so far, and the cycles of the
blocks so far. -/
structure ExpRun where
  ent   : Nat := 0
  job   : Nat := 0
  dst   : Nat := 0
  ring  : Nat := 0
  start : Nat := 0
  j     : Nat := 0
  pos   : Nat := 0
  cSum  : Nat := 0
  uSum  : Nat := 0
  cyc   : Nat := 0
  deriving DecidableEq, Repr

/-- One cluster's sequencer, control core and queues. -/
structure Clus where
  run     : Bool := false           -- issues bundles of the running pitch
  haltJ   : List Nat := []          -- jobs whose last pitch of the tick has issued its HALT bundle here
  halted  : Bool := false
  part    : Nat := 0
  d       : Nat := 0                -- hops from the origin (R82)
  pc      : Nat := 0                -- bundle index
  icyc    : Nat := 0                -- issue cycle of the current bundle
  frz     : Nat := 0                -- frozen cycles of the pitch
  far     : List (Nat × Nat) := []  -- episodes of other members on their way: the cycle they reach this one, frozen cycles (R83)
  wait    : Option Wait := none     -- frozen, and why
  waitAt  : Nat := 0                -- cycle the episode began
  waitCls : Nat := 2                -- its class under R62: 0 HBM, 1 NoC, 2 tag
  haltCls : Nat := 2                -- class of R62 of the cycles from HALT to the end of what it left
  hEnd    : Nat := 0                -- cycle after the HALT bundle issued
  dEnd    : Option Nat := none      -- cycle from which all it started is complete; none while transfers are left (R79)
  did     : List Nat := []          -- parts of the current bundle already done: 0 LOOP_S, 1 BP, 2 SYNC, 3 LOOP_E/HALT, 4-8 slots
  loops   : List LoopF := []
  arms    : List (Nat × Nat) := []  -- (end of arm A, bundle after arm B) of arms A being run
  sel     : Option (Nat × Bool) := none   -- sampled arm: bundle of the branch point, true for arm B
  altV    : Bool := false           -- CC_ALTSEL
  altSel  : Bool := false
  altBp   : Nat := 0
  altLate : Bool := false           -- a branch was taken under the second or third outcome of R89 (R101)
  effs    : List (Nat × Eff) := []  -- effects in flight, by issue cycle
  attn    : List AttnRun := []      -- ME.ATTN in progress
  runs    : List OpRun := []        -- other ops with reads still to make
  port    : SMap Nat := []          -- bytes static reads have moved at each core's port in the issue cycle (R260)
  busy    : List (Nat × Nat) := []  -- units of cores booked up to an issue cycle by ops in progress: 4·core + 0 ME, 1 VE, 2 GP (R76)
  rem     : Option (Nat × Nat × Nat) := none  -- a remote access made in the issue cycle: core, slot, cycles it freezes at least (R273)
  halting : Bool := false           -- the HALT bundle has issued (R79)
  pages   : List (Nat × Nat) := []  -- pages of a paged job that are present, with their frames (R86)
  sum     : List DWord := []        -- summary FIFO
  hnd     : Option (Hnd × Nat) := none    -- running handler and its job
  hndQ    : List (Hnd × Nat) := []  -- handlers that have still to run, in order
  hndPc   : Nat := 0
  xregs   : SMap Word := []         -- x1-x31 of the control core
  descW   : SMap Word := []         -- the CC_DESC words written so far
  held    : Option (BitVec 512) := none   -- a submission holding the control core (R95)
  q0      : List Desc := []
  q1      : List Desc := []
  kvA0    : Word := 0               -- KV engine window (R222)
  kvA1    : Word := 0
  kvR     : List Word := [0, 0, 0]  -- CC_KV_R0-R2
  kvSt    : Word := 0
  expSel  : Word := 0               -- expander window (R302)
  expDst  : Word := 0
  expRing : Word := 0
  expQ    : List ExpRun := []       -- queued reads (R302)
  expRun  : Option ExpRun := none   -- the running read
  expHeld : Option ExpRun := none   -- a CC_EXP_CMD write that holds the control core (R302)
  expErr  : Nat := 0                -- CC_EXP_ST: error of the last failed read
  lost    : List Nat := []          -- slots whose write was lost or abandoned in the tick
  lostHbm : List (Nat × Nat) := []  -- HBM ranges (address, bytes) whose write was lost or discarded in the tick (R225)
  deriving DecidableEq, Repr

/-! ## Host interface (16_host_registers) -/

/-- An MSI-X vector of a function: masked, pending bit, and the summary last seen (R455). -/
structure Vec where
  masked : Bool := true
  pba    : Bool := false
  deriving DecidableEq, Repr

/-! ## Emission (11_ingest) -/

/-- A record in the emission staging area (R342): TYPE, stream handle, tick, timestamp, SEQ, the four per-stream counters, NENT or
event code and cause, flags, payload. -/
structure EmRec where
  typ     : Nat := 1
  handle  : Nat := 0
  job     : Nat := 0                -- job of the stream, for the counts of R383
  tick    : Nat := 0
  ts      : Nat := 0
  seq     : Nat := 0
  cnts    : List Nat := [0, 0, 0, 0]
  nent    : Nat := 0
  flags   : Nat := 0
  payload : List Byte := []
  seqDue  : Bool := false           -- an event of the tick in progress: SEQ is set at its flip
  deriving DecidableEq, Repr

/-- What the ingest and emission engines of a partition keep beside its registers (R312-R315, R337, R343, R345): the read position,
entries retired beyond ING_CI, ING_PI and the tick of each cut-off whose entries are not all read, the number of chunks that have arrived,
the profiles (unlisted: 64 zero bytes) and their
normalisation tables, and how many staged records of each flip, oldest first, have still to be written. -/
structure Ing where
  rd      : Nat := 0
  done    : List Nat := []
  cuts    : List (Nat × Nat) := []
  count   : Nat := 0
  profs   : SMap (List Byte) := []
  norms   : SMap (List Byte) := []
  emGo    : List Nat := []
  deriving DecidableEq, Repr

/-! ## Audio ports (12_audio_ports) -/

/-- A received frame: its time on the timebase in ns, the sample of each slot as an FP32 word, whether it is non-audio, and
whether the one before it is missing. -/
structure PFrame where
  t   : Nat := 0
  x   : List Nat := []
  non : Bool := false
  brk : Bool := false               -- the port was not locked, or did not run, just before it
  deriving DecidableEq, Repr

/-- An audio port (R347-R362). -/
structure Port where
  lock   : Bool := false
  good   : Nat := 0                 -- consecutive frames within tolerance (R350)
  times  : List Nat := []           -- times of the last 4,097 frames, newest first
  frames : List PFrame := []        -- samples of the last 80 ms, newest first (R353)
  csA    : List Bool := []          -- channel-status bits of the block so far, subframe A (R356)
  csB    : List Bool := []
  inBlk  : Bool := false            -- a Z preamble has begun a block
  blkAt  : Nat := 0                 -- time of the first frame of the block
  csBad  : Bool := false            -- the latched block of A marks non-audio (R357)
  csV    : Bool := false            -- CS_VALID
  non    : Bool := false            -- NONAUDIO
  since  : Nat := 8192              -- frames since Pa and Pb, at most 8,192
  out    : List (List Nat) := []    -- output chunk being sent, FP32 words by channel, from the next sample on
  nxt    : Option (List (List Nat)) := none  -- output chunk taken at the last cut-off; none: silence (R358, R359)
  hold   : Option (List (List Nat)) := none  -- the one of the tick in progress, sent from the next edge on
  isSil  : Bool := true             -- silence under R359 is being sent
  outSeq : Option Nat := none       -- sequence expected of the next good output record
  outHist : List (List Nat) := []   -- by channel, the last 32 samples that the output resampler has taken (R359)
  outPos : Int := 0                 -- position of its next sample after the chunk taken last, in 10^-9 input samples
  prev   : List Nat := []           -- last sample of each channel
  pend   : SMap Nat := []           -- time + 1 of the oldest request not applied, by channel (R361)
  tx     : List Word := []          -- slot values of the last frame sent
  deriving DecidableEq, Repr

/-! ## Key slots (13_parties) -/

/-- A key slot (R367), with a rotation or an erase that waits (R372, R373). -/
structure KeySlot where
  party   : Nat := 0
  reqHash : List Byte := []
  keyid   : Nat := 0
  pk      : Option (List Byte) := none
  rkeyid  : Nat := 0
  rk      : Option (List Byte) := none
  wk      : Option (List Byte) := none
  iv      : Nat := 0
  rot     : Option (Nat × List Byte) := none
  erasing : Bool := false
  ep      : Nat := 0                -- endpoint that waits for the answer to KEY_ERASE
  deriving DecidableEq, Repr

/-! ## Background activities (15_sirvi) -/

/-- One background activity 0-3 (R430-R434): edges of the pass, work done (whole, or per cluster for 0 and 1), marked rows with an
address in them and age in ticks (activity 3), ticks in the stage with lag over BG_THR. -/
structure BgAct where
  n     : Nat := 0
  done  : Nat := 0
  doneC : SMap Nat := []
  rows  : List (Nat × Nat × Nat) := []
  inSt  : Nat := 0
  deriving DecidableEq, Repr

/-! ## Links and belay (14_links_belay) -/

/-- What a message is (R397); its link sender meets the outcome its kind defines. -/
inductive MKind where
  | send | coll | blob | adv | release | bhb
  deriving DecidableEq, Repr

/-- The message header of R397. -/
structure MHead where
  kind   : MKind := .bhb
  dpart  : Nat := 0
  spart  : Nat := 0
  slice  : Nat := 0
  job    : Nat := 0
  core   : Nat := 0
  len    : Nat := 0
  arg    : Nat := 0                 -- SEND: operand reference; COLL: step and chunk
  party  : Nat := 0
  dst    : Nat := 0                 -- coordinate: y in [7:4], x in [3:0]
  src    : Nat := 0
  deriving DecidableEq, Repr

/-- A message to send: its number on the port, header and body, who sends it (cluster and core of a NoC engine, or the handle of a
belayed stream), and whether this device only forwards it. -/
structure TxMsg where
  id    : Nat := 0
  head  : MHead := {}
  body  : List Byte := []
  owner : Nat := 0
  fwd   : Bool := false
  deriving DecidableEq, Repr

/-- A sequenced flit sent or to be sent (R392, R393): its SEQ, TYPE, VC, MSTART, payload, the message it belongs to, and whether it is
that message's last. -/
structure TxFlit where
  seq    : Nat := 0
  typ    : Nat := 1
  vc     : Nat := 0
  mstart : Bool := false
  data   : List Byte := []
  epoch  : Nat := 0
  msg    : Nat := 0
  last   : Bool := false
  deriving DecidableEq, Repr

/-- A port (R390-R396): next SEQ to send and expected, session epochs, whether a NAK is out for the present gap, the received group not
yet verified, messages partly received by VC, flits waiting to be sent, flits sent and not yet acknowledged (the replay buffer),
messages in flight, credit held of the peer and still granted to it by VC, flits of the open group, and the replays asked for a SEQ. -/
structure LPort where
  txSeq  : Nat := 0
  rxSeq  : Nat := 0
  epoch  : Nat := 0
  rxEp   : Nat := 0
  rxNext : Option Nat := none       -- EPOCH from the next received group on (R391)
  txKey  : Nat := 0                 -- flits sent under the present key, and received (R391)
  rxKey  : Nat := 0
  gap    : Bool := false
  group  : List (Nat × Bool × List Byte) := []
  part   : SMap (List Byte) := []
  waitQ  : List TxFlit := []
  sent   : List TxFlit := []
  msgs   : List TxMsg := []
  nMsg   : Nat := 0
  cred   : List Nat := [128, 128, 128, 128]
  gave   : List Nat := [128, 128, 128, 128]
  grp  : Nat := 0
  nakSeq : Nat := 0
  nakN   : Nat := 0
  naks   : Nat := 0                 -- NAKs this device has sent
  beats  : Nat := 0                 -- HEARTBEATs this device has sent
  deriving DecidableEq, Repr

/-- An entry of a belay table (R406): handle (0: free), the job and home cluster of its stream on this device, which blob slot is
current, the blob's SEQ, the advanced SEQ. -/
structure BlyEnt where
  handle : Nat := 0
  job    : Nat := 0
  home   : Nat := 0
  cur    : Option Nat := none
  seq    : Nat := 0
  adv    : Nat := 0
  deriving DecidableEq, Repr

/-- Slots of a received SEND that are still to be written, in order (R399), with the job they are for: core, slot, bytes. -/
structure RxMsg where
  job   : Nat := 0
  slots : List (Nat × Nat × List Byte) := []
  deriving DecidableEq, Repr

/-- What a partition keeps for links and belay: received messages whose slots wait for their tags, collective messages not yet taken, the belay
table, the last ADV of each shadow, records of shadows held at the last flip, promotions that are due. -/
structure Bly where
  rx     : List RxMsg := []
  colls  : List (Nat × Nat × Nat × List Byte) := []   -- core, job, step + 256·chunk, body
  ents   : SMap BlyEnt := []
  advs   : SMap Nat := []
  held   : List EmRec := []
  warm   : Bool := false
  hot    : Bool := false
  again  : List Nat := []           -- handles whose last blob was not delivered
  sending : List Nat := []          -- handles whose blob waits for a slot of the committed side to be FULL
  sentQ  : SMap Nat := []           -- SEQ of the last blob sent, by handle
  deriving DecidableEq, Repr

/-! ## SPDM, IDE, steady mode (13_parties, 16) -/

/-- A secured SPDM session (R365): endpoint, hash of the requester's public key, and whether FINISH has completed with mutual
authentication. -/
structure Sess where
  live : Bool := false
  ep   : Nat := 0
  hash : List Byte := []
  done : Bool := false
  auth : Bool := false
  upd  : Nat := 0                   -- KEY_UPDATEs done
  deriving DecidableEq, Repr

/-- A response of an SPDM responder (R365, R366, R369, R423). -/
inductive SpdmRsp where
  | none
  | version | capabilities | algorithms | heartbeatAck | keyUpdateAck | endSessionAck | ideAck
  | digests (d : List Byte)
  | certificate (c : List Byte)
  | challengeAuth (sig : List Byte)
  | measurements (blocks : List (Nat × List Byte)) (sig : List Byte)
  | keyExchange (session : Nat)
  | finish
  | vendor (status : Nat)
  | summit (first last : Nat) (head : List Byte) (entries : List (List Byte))
  | tdisp (state : Nat)
  | busy
  | error
  deriving DecidableEq, Repr

/-- An IDE stream's two key sets and the one in use (R449). -/
structure Ide where
  k0  : List Byte := []
  k1  : List Byte := []
  cur : Option Bool := none
  deriving DecidableEq, Repr

/-- Steady mode of a party beside its registers (R382): SHIELD as POLICY_SET gave it, the budgets, EMIT and PAVG that a STEADY_SET in
steady mode left waiting, an accepted ACK, a STEADY_CLEAR that waits for the edge. -/
structure Stdy where
  shield : Bool := false
  next   : Option (List Nat × Nat × Nat) := none
  ack    : Bool := false
  clear  : Bool := false
  deriving DecidableEq, Repr

/-! ## Sirvi (15_sirvi, 17_package) -/

/-- How far the device is up: no rails until PWRGOOD is reasserted; ROM and firmware starting; Sirvi ready; device ready; ROM recovery
(R415); rails off after a thermal trip (R470). -/
inductive Boot where
  | off | held | rom | sirvi | ready | recovery | tripped
  deriving DecidableEq, Repr

/-- A firmware slot (R426). -/
structure FwSlot where
  image : List Byte := []
  valid : Bool := false
  deriving DecidableEq, Repr

/-- The summit register (R419-R422): entries in SRAM, full sectors and the sector being filled in flash (oldest first), number of
the next entry, hash of the newest one, device events not recorded, boot count. -/
structure Summit where
  buf     : List (List Byte) := []
  sectors : List (List (List Byte)) := []
  next    : Nat := 0
  head    : List Byte := List.replicate 48 0
  gap     : Nat := 0
  boots   : Nat := 1
  lost    : Bool := false           -- entries were lost with the power (R421)
  deriving DecidableEq, Repr

/-- An object of the image store (R413). -/
structure Img where
  name  : List Byte := []
  obj   : List Byte := []
  deriving DecidableEq, Repr

/-- Sensors and limits (R416-R418): limits set away from their defaults by 4·sensor + kind; PWR_LIM in W; good readings in a row of a
faulty sensor, readings in a row beyond a voltage fault limit, which warn limits are exceeded; samples of the second in progress and their
sums (input power in mW, then the eight rail currents in mA); the means of the seconds before it, newest first; samples in a row that
allow raising the point. -/
structure Sens where
  lims  : SMap Int := []
  pwr   : Nat := 1200
  good  : SMap Nat := []
  volt  : SMap Nat := []
  warn  : SMap Bool := []
  cnt   : Nat := 0
  sums  : List Nat := []
  secs  : List (List Nat) := []
  calm  : Nat := 0
  hot   : Bool := false             -- some temperature is at or above its throttle limit
  hotBy : Nat := 0                  -- the lowest-numbered sensor that is
  below : Bool := false             -- the point has been lowered below OPFLOOR for temperature
  excess : Bool := false             -- the last second's mean power exceeded PWR_LIM and no step has answered it
  deriving DecidableEq, Repr

/-- A mailbox response: command, status, result words, buffer. -/
structure MbRsp where
  cmd    : Nat := 0
  status : Nat := 0
  rsp    : List Nat := []
  buf    : List Byte := []
  deriving DecidableEq, Repr

/-- The Sirvi domain and the pins. -/
structure Sirvi where
  boot    : Boot := .rom
  perst   : Bool := true            -- PERST_N is asserted
  wait    : Option WarmCause := none    -- a warm reset that waits for device ready (R468) or for a command's end (R459)
  swait   : Option (Nat × Nat) := none  -- a Sirvi-initiated reset that waits for a command's end: cause, monitor
  smbus   : Bool := false           -- MGMT_SEL and MADDR as sampled (R461)
  maddr   : Nat := 0
  slotA   : FwSlot := { valid := true }
  slotB   : FwSlot := {}
  sel     : Bool := false           -- selected slot: B
  run     : Option Bool := some false   -- slot whose firmware runs or starts: B
  fell    : Bool := false           -- booted by fallback
  fuses   : SMap Nat := []          -- anti-rollback counters
  summit  : Summit := {}
  store   : List Img := []
  sens    : Sens := {}
  mctp    : Option MbRsp := none    -- last response to the BMC
  nonce   : Option (List Byte) := none
  drbg    : Nat := 0
  devKey  : Option (List Byte) := none  -- key of the device area (R279, R374)
  dbg     : Option Nat := none      -- SCOPE while DEBUG_ACTIVE
  dbgReq  : Option (Nat × Bool) := none -- SCOPE of a grant whose sequence runs, and whether the BMC gave it
  pldmOn  : Bool := false
  pldm    : List (Nat × Nat) := []  -- events not acknowledged: kind, sensor
  spares  : SMap Nat := []          -- spare rows used, by pseudo-channel
  ceRows  : SMap (List Nat) := []   -- when correctable errors of a row were met: time units (R432)
  mbq     : List Instr := []        -- commands of the BMC that wait for the one that runs, oldest first (R429)
  calib   : Nat := 0                -- energy calibrations done
  retunes : Nat := 0
  wears   : Nat := 0
  therms  : Nat := 0
  deriving DecidableEq, Repr

/-! ## The whole state -/
-- FIELDS
/-- What hardware set in one cycle: its identity (an edge seen before, TICK_NUM, cycle of the tick), the PG_EVT bits set by page (R7), and
the increments by address of the event counter (R11). -/
structure CycMarks where
  time : Bool × Nat × Nat := (false, 0, 0)
  evt  : SMap Nat := []
  cnt  : SMap Nat := []
  deriving DecidableEq, Repr

/-- The state of the machine. Keys: cores are numbered 0-4095 (R2); scratchpad slots core·1024 + slot; handle entries
cluster·1024 + handle; bundles cluster·2048 + index; lanes partition·2^21 + job·2^17 + cluster·2^9 + lane. -/
structure State where
  marks   : CycMarks := {}
  pending : List Instr := []
  free    : Nat := 0
  clk     : Clk := {}
  regs    : SMap Word := []
  latch   : SMap Word := []
  vfEn    : SMap Word := []
  clw     : SMap Nat := []
  vecs    : SMap Vec := []
  msgs    : List (Nat × Nat) := []
  rdata   : Option Nat := none
  parts   : SMap Part := []
  pacc    : SMap PartyAcc := []
  lanes   : SMap (Option Lane) := []
  strms   : SMap Strm := []
  clus    : SMap Clus := []
  slots   : SMap Slot := []
  htab    : SMap DWord := []
  bundles : SMap Bundle := []
  ccmem   : List Host.Cell := []
  hbm     : List Host.Cell := []
  hbmBad  : SMap Bool := []
  hbmCe   : SMap Bool := []
  meeBad  : SMap Bool := []
  hostMem : List Host.Cell := []
  emis    : SMap (List EmRec) := []
  emLost  : SMap Nat := []
  ings    : SMap Ing := []
  ports   : SMap Port := []
  keys    : SMap KeySlot := []
  bg      : SMap BgAct := []
  noc     : SMap (List NocOp) := []
  cores   : SMap Core := []
  lports  : SMap LPort := []
  bly     : SMap Bly := []
  sess    : SMap Sess := []
  spdm    : SMap SpdmRsp := []
  ide     : SMap Ide := []
  stdy    : SMap Stdy := []
  aer     : SMap Nat := []
  sirvi   : Sirvi := {}
  deriving DecidableEq, Repr

/-- A stop with a fault. No command of this model stops so: every condition the spec names is an effect on the state (an event,
a cause code, a FAULTED state). The one constructor names what the type is for and is raised by nothing. -/
inductive Fault where
  /-- raised by no command; safe -/
  | none
  deriving DecidableEq, Repr

/-- A refusal. -/
inductive Refusal where
  /-- raised by a dispatch arm whose command has no meaning yet; safe -/
  | notModelled (mnemonic : String)
  deriving DecidableEq, Repr

/-- The machine after a cold reset: every field at its reset value; nothing queued. (DESIGN CHOICE: log entry 5; DEDUCED: log entry 8; DESIGN CHOICE: log entry 63.) -/
def State.reset : State := {}

end Sys2Proof.Machine
end

