-- ==== Sys2Proof/Machine/Ops.lean ====
section
/-!
DEFINITION. The operations every family shares: registers and their fields, structures by number, time and cycles, membership and
hops, events with their error log and interrupts (00_scope R4-R11, R472; 16_host_registers R452-R455), counters, shielding
(13_parties R379), scratchpad slots and HBM bytes.
-/
namespace Sys2Proof.Machine

/-- The outcome of a command. -/
abbrev Out := Host.Outcome State Fault Refusal

/-! ## Registers -/

/-- The register word at a BAR0 address. -/
def rd (s : State) (a : Nat) : Word := smGet (resetWord a) s.regs a

/-- Set the register word at a BAR0 address. -/
def wr (s : State) (a : Nat) (v : Word) : State := { s with regs := smSet (resetWord a) s.regs a v }

/-- The register word as a number. -/
def rdN (s : State) (a : Nat) : Nat := (rd s a).toNat

/-- Set a register word from a number (modulo 2^32). -/
def wrN (s : State) (a v : Nat) : State := wr s a (BitVec.ofNat 32 v)

/-- A field of a register. -/
def rf (s : State) (a lo len : Nat) : Nat := fld (rdN s a) lo len

/-- Set a field of a register. -/
def wf (s : State) (a lo len v : Nat) : State := wrN s a (setFld (rdN s a) lo len v)

/-- Bit `i` of a register. -/
def rb (s : State) (a i : Nat) : Bool := bitAt (rdN s a) i

/-- A LO/HI pair at `a`, `a + 4` as one number. -/
def rd64 (s : State) (a : Nat) : Nat := rdN s a + 2 ^ 32 * rdN s (a + 4)

/-- Set a LO/HI pair. -/
def wr64 (s : State) (a v : Nat) : State := wrN (wrN s a v) (a + 4) (v / 2 ^ 32)

/-- Advance a 64-bit accounting counter, modulo 2^64 (R10). -/
def add64 (s : State) (a n : Nat) : State := if n = 0 then s else wr64 s a ((rd64 s a + n) % 2 ^ 64)

/-! ## Structures by number -/

def part (s : State) (n : Nat) : Part := smGet {} s.parts n
def setPart (s : State) (n : Nat) (p : Part) : State := { s with parts := smSet {} s.parts n p }
def modPart (s : State) (n : Nat) (f : Part → Part) : State := setPart s n (f (part s n))

def job (s : State) (n j : Nat) : Job := smGet {} (part s n).jobs j
def setJob (s : State) (n j : Nat) (x : Job) : State :=
  modPart s n fun p => { p with jobs := smSet {} p.jobs j x }
def modJob (s : State) (n j : Nat) (f : Job → Job) : State := setJob s n j (f (job s n j))

def strm (s : State) (h : Nat) : Strm := smGet {} s.strms h
def setStrm (s : State) (h : Nat) (x : Strm) : State := { s with strms := smSet {} s.strms h x }
def modStrm (s : State) (h : Nat) (f : Strm → Strm) : State := setStrm s h (f (strm s h))

def clu (s : State) (c : Nat) : Clus := smGet {} s.clus c
def setClu (s : State) (c : Nat) (x : Clus) : State := { s with clus := smSet {} s.clus c x }
def modClu (s : State) (c : Nat) (f : Clus → Clus) : State := setClu s c (f (clu s c))

/-- The key of a lane of job `j` of partition `n` in cluster `c`. -/
def laneKey (n j c l : Nat) : Nat := n * 2 ^ 21 + j * 2 ^ 17 + c * 2 ^ 9 + l
def lane (s : State) (k : Nat) : Option Lane := smGet none s.lanes k
def setLane (s : State) (k : Nat) (x : Option Lane) : State := { s with lanes := smSet none s.lanes k x }
def modLane (s : State) (k : Nat) (f : Lane → Lane) : State :=
  match lane s k with
  | none => s
  | some x => setLane s k (some (f x))

def lanePart (k : Nat) : Nat := k / 2 ^ 21
def laneJob (k : Nat) : Nat := (k / 2 ^ 17) % 16
def laneClus (k : Nat) : Nat := (k / 2 ^ 9) % 256
def laneIdx (k : Nat) : Nat := k % 512

/-- The bound lanes of a partition, in key order. -/
def partLanes (s : State) (n : Nat) : List (Nat × Lane) :=
  s.lanes.filterMap fun p => if lanePart p.1 = n then p.2.map fun x => (p.1, x) else none

def slotAt (s : State) (core i : Nat) : Slot := smGet {} s.slots (core * 1024 + i)
def setSlot (s : State) (core i : Nat) (x : Slot) : State := { s with slots := smSet {} s.slots (core * 1024 + i) x }
def modSlot (s : State) (core i : Nat) (f : Slot → Slot) : State := setSlot s core i (f (slotAt s core i))

def hentry (s : State) (c h : Nat) : DWord := smGet 0 s.htab (c * 1024 + h)
def setHentry (s : State) (c h : Nat) (v : DWord) : State := { s with htab := smSet 0 s.htab (c * 1024 + h) v }

def bundleAt (s : State) (c i : Nat) : Bundle := smGet 0 s.bundles (c * 2048 + i)
def setBundle (s : State) (c i : Nat) (b : Bundle) : State := { s with bundles := smSet 0 s.bundles (c * 2048 + i) b }

/-- A value the spec leaves open, and the state in which the next one is another (Config.freeNat). (DESIGN CHOICE: log entry 6.) -/
def fresh (s : State) : Nat × State := (Config.freeNat s.free, { s with free := s.free + 1 })

/-! ## Time (01_tick) -/

/-- Time units in a nanosecond. (DESIGN CHOICE: log entry 12.) -/
def uNs : Nat := 28560

/-- Time units in one CCLK cycle at an operating point: 1.25, 1.05, 0.85 GHz (00_scope). -/
def uCyc : Nat → Nat
  | 0 => 22848
  | 1 => 27200
  | _ => 33600

/-- Time units in one REFCLK_LINK cycle, 6.4 ns (R13). (DESIGN CHOICE: log entry 12.) -/
def uRef : Nat := 182784

/-- The tick period in time units for a PERIOD code: 2.5 ms · 2^code (R15). -/
def perU (code : Nat) : Nat := 2500000 * uNs * 2 ^ code

/-- P in force. -/
def perNow (s : State) : Nat := perU s.clk.cfg.period

/-- N, the nominal cycles per tick at an operating point (R25). -/
def nCyc (period op : Nat) : Nat := perU period / uCyc op

/-- R, the background reserve in cycles (R25). -/
def rCyc (n reserve : Nat) : Nat := n * reserve / 200

/-- G, the edge guard in cycles (R25). -/
def gCyc (n : Nat) : Nat := n / 1000

/-- The end of the pitch region (R25), exclusive. -/
def regionEnd (period op reserve : Nat) : Nat := nCyc period op - rCyc (nCyc period op) reserve - 75000

/-- N of the tick in progress. -/
def nNow (s : State) : Nat := nCyc s.clk.cfg.period s.clk.op

/-- The end of the pitch region of the tick in progress. -/
def regionEndNow (s : State) : Nat := regionEnd s.clk.cfg.period s.clk.op s.clk.cfg.reserve

/-- First cycle of the commit window. -/
def commitStart (s : State) : Nat := nNow s - gCyc (nNow s) - 75000

/-- End of the commit window, exclusive. -/
def commitEnd (s : State) : Nat := nNow s - gCyc (nNow s)

/-- TICK_CYCLE: whole cycles since the last edge. -/
def cycNow (s : State) : Nat := s.clk.cyc / uCyc s.clk.op

/-- The present cycle (R7, R11, R48). -/
def comNow (s : State) : Bool × Nat × Nat := (s.clk.seen, s.clk.num, cycNow s)

/-- What hardware has set in the present cycle (R7, R11). -/
def marksNow (s : State) : CycMarks := if s.marks.time = comNow s then s.marks else { time := comNow s }
def markEvt (s : State) (pg bit : Nat) : State :=
  { s with marks := { marksNow s with evt := smSet 0 (marksNow s).evt pg (Nat.lor (smGet 0 (marksNow s).evt pg) (2 ^ bit)) } }
def markCnt (s : State) (a n : Nat) : State :=
  { s with marks := { marksNow s with cnt := smSet 0 (marksNow s).cnt a (smGet 0 (marksNow s).cnt a + n) } }

/-- TB_NS. -/
def tbNs (s : State) : Nat := (s.clk.tb / uNs) % 2 ^ 64

/-- Let `du` units of real time pass: the cycle count advances by them, the timebase by them and the slew (R13). (DESIGN CHOICE: log entry 1; DESIGN CHOICE: log entry 13.) -/
def passU (s : State) (du : Nat) : State :=
  let num : Int := du * s.clk.rate + s.clk.rem
  let add : Int := num / 1000000000
  { s with clk := { s.clk with
      tb := (s.clk.tb + du + add).toNat, rem := num % 1000000000, cyc := s.clk.cyc + du } }

/-- Let time pass until cycle `c` of the tick; nothing when it has passed already. -/
def toCycle (s : State) (c : Nat) : State := passU s (c * uCyc s.clk.op - s.clk.cyc)

/-- Let time pass until the timebase reads `t` units; nothing when it has already. The real time taken is the difference freed
of the slew. -/
def toTb (s : State) (t : Nat) : State :=
  if t ≤ s.clk.tb then s
  else
    let d := t - s.clk.tb
    let den := (1000000000 + s.clk.rate).toNat
    let du := cdiv (d * 1000000000) den
    { s with clk := { s.clk with tb := t, rem := 0, cyc := s.clk.cyc + du } }

/-- Let time pass until a time held on the timebase, which a LOAD may have moved below 0 (R474). -/
def toTbI (s : State) (t : Int) : State := toTb s t.toNat

/-! ## Membership and hops (02_partitions_pitches) -/

/-- Mesh position of a cluster. -/
def gx (c : Nat) : Nat := (c / 64 % 2) * 8 + c % 8
def gy (c : Nat) : Nat := (c / 128) * 8 + c / 8 % 8

/-- The cluster at a mesh position. -/
def clusAt (x y : Nat) : Nat := ((x / 8) + 2 * (y / 8)) * 64 + (y % 8) * 8 + x % 8

/-- Neighbours: positions that differ by 1 in exactly one coordinate. -/
def neighb (a b : Nat) : Bool :=
  (gx a = gx b && (gy a + 1 = gy b || gy b + 1 = gy a)) || (gy a = gy b && (gx a + 1 = gx b || gx b + 1 = gx a))

/-- Membership bit of PART_CLMASK (R38). -/
def isMember (s : State) (n c : Nat) : Bool := rb s (partPg n + 0x110 + 4 * (c / 32)) (c % 32)

/-- The member clusters of a partition, ascending. -/
def members (s : State) (n : Nat) : List Nat :=
  (List.range 8).flatMap fun w =>
    let v := rdN s (partPg n + 0x110 + 4 * w)
    if v = 0 then [] else (List.range 32).filterMap fun b => if bitAt v b then some (32 * w + b) else none

/-- Breadth-first distances from `front` through `rest`; clusters not reached are left out. -/
def bfs : Nat → Nat → List Nat → List Nat → List (Nat × Nat)
  | 0, _, _, _ => []
  | fuel + 1, d, front, rest =>
    if front = [] then [] else
    let nxt := rest.filter fun c => front.any fun f => neighb f c
    let rest' := rest.filter fun c => !(front.any fun f => neighb f c)
    front.map (fun c => (c, d)) ++ bfs fuel (d + 1) nxt rest'

/-- Hops from `o` to each cluster reachable through `ms` (R82). -/
def hopsFrom (ms : List Nat) (o : Nat) : List (Nat × Nat) := bfs 257 0 [o] (ms.filter (· ≠ o))

/-- d(c) of R82: hops from `o` to `c` through members, 0 when not reachable. -/
def hops (ms : List Nat) (o c : Nat) : Nat :=
  match (hopsFrom ms o).find? fun p => p.1 = c with
  | some p => p.2
  | none => 0

/-- Connected through neighbour relations, and not empty (R38). -/
def connected (ms : List Nat) : Bool :=
  match ms with
  | [] => false
  | o :: _ => (hopsFrom ms o).length = ms.length

/-- PART_CFG fields. -/
def partParty (s : State) (n : Nat) : Nat := rf s (partPg n + 0x100) 8 5
def partOrigin (s : State) (n : Nat) : Nat := rf s (partPg n + 0x100) 16 8
def partHp (s : State) (n : Nat) : Nat := rf s (partPg n + 0x100) 0 6 + 1

/-- The states of a partition that holds its clusters: two partitions being configured may name one cluster, and COMMIT decides
(R38, R42, R48). (DEDUCED: log entry 41.) -/
def holds : PState → Bool
  | .ready => true | .running => true | .maintenance => true | .faulted => true | .zeroising => true
  | .off => false | .configuring => false

/-- A cluster belongs to a partition other than `n` (R38). -/
def taken (s : State) (n c : Nat) : Bool := (List.range 16).any fun m => m ≠ n && holds (part s m).st && isMember s m c

/-- The partition that a cluster belongs to (R38): the one that holds it, else one being zeroised or configured with it. -/
def partOf (s : State) (c : Nat) : Option Nat :=
  match (List.range 16).find? fun n => holds (part s n).st && (part s n).st ≠ .zeroising && isMember s n c with
  | some n => some n
  | none => (List.range 16).find? fun n => (part s n).st ≠ .off && isMember s n c

/-- READY, RUNNING or MAINTENANCE. -/
def activeSt : PState → Bool
  | .ready => true | .running => true | .maintenance => true
  | .off => false | .configuring => false | .faulted => false | .zeroising => false

/-- Some partition is READY, RUNNING or MAINTENANCE (R13, R16). -/
def anyActive (s : State) : Bool := s.parts.any fun p => activeSt p.2.st

/-! ## Accounting (02_partitions_pitches R59, R68) -/

def pacc (s : State) (p : Nat) : PartyAcc := smGet {} s.pacc p
def setPacc (s : State) (p : Nat) (x : PartyAcc) : State := { s with pacc := smSet {} s.pacc p x }

/-- Charge the tick's totals of the party that a partition belongs to now (R68). -/
def charge (s : State) (n : Nat) (f : Acc → Acc) : State :=
  let p := partParty s n
  if p = 0 then s else setPacc s p { pacc s p with acc := f (pacc s p).acc }

/-- An activity count advances. (DESIGN CHOICE: log entry 21.) -/
def actAdd (m : SMap Nat) (k n : Nat) : SMap Nat := smSet 0 m k (smGet 0 m k + n)

/-- Scratchpad bytes that an agent of a partition has moved are counted (R69). -/
def countBytes (s : State) (n k : Nat) : State := if k = 0 then s else charge s n fun a => { a with acts := actAdd a.acts 18 k }

/-- Partitions of a party that are not OFF. -/
def partsOfParty (s : State) (p : Nat) : List Nat :=
  (List.range 16).filter fun n => (part s n).st ≠ .off && partParty s n = p

/-! ## Shielding (13_parties R379, R380) -/

/-- FN_TDI of the VF of partition n: 0 CONFIG_UNLOCKED, 1 CONFIG_LOCKED, 2 RUN, 3 ERROR. -/
def tdi (s : State) (n : Nat) : Nat := rf s (funcsPg + 0x104) (2 * n) 2

/-- A partition is shielded while its party's SHIELD is 1 or its VF TDI is CONFIG_LOCKED or RUN. -/
def shielded (s : State) (n : Nat) : Bool :=
  (partParty s n ≠ 0 && rb s (ptyPg (partParty s n) + 0x200) 0) || tdi s n = 1 || tdi s n = 2

/-- A party page is shielded while its SHIELD is 1 or any partition of the party is shielded. -/
def ptyShielded (s : State) (p : Nat) : Bool :=
  rb s (ptyPg p + 0x200) 0 || (partsOfParty s p).any fun n => shielded s n

/-- PG_EVT bits of a page that are hidden from the PF. -/
def hiddenEvt (s : State) (pg : Nat) : Nat :=
  match pageAt (pg / 4096) with
  | some (.ingest, n) => if shielded s n then 0xFFFFFFFF else 0
  | some (.exp, n) => if shielded s n then 0xFFFFFFFF else 0
  | some (.cluster, c) =>
    (match partOf s c with | some n => if shielded s n then 7 else 0 | none => 0)
  | some (.party, k) => if ptyShielded s (k + 1) then 0xFFFFFFFF else 0
  | _ => 0

/-! ## What serves requests (15_sirvi R414, 16_host_registers R445, R456) -/

/-- The device is ready. (DEDUCED: log entry 66.) -/
def devRdy (s : State) : Bool := s.sirvi.boot = .ready

/-- Sirvi runs its firmware. -/
def sirviUp (s : State) : Bool := s.sirvi.boot = .sirvi || s.sirvi.boot = .ready || s.sirvi.boot = .tripped

/-- The host's link is up: PERST_N is deasserted and the rails of the I/O die are on. (DEDUCED: log entry 66.) -/
def hostUp (s : State) : Bool := !s.sirvi.perst && (s.sirvi.boot = .sirvi || s.sirvi.boot = .ready)

/-- Pages of this type serve requests: before device ready, only the mailbox and sensor pages (R414). (DEDUCED: log entry 66.) -/
def pageUp (s : State) (p : PageT) : Bool := hostUp s && (devRdy s || p = .mbox || p = .sens)

/-- A register write of the PF to a page that serves requests only when the device is ready. -/
def pfDo (s : State) (f : State → State) : State := if hostUp s && devRdy s then f s else s

/-! ## Interrupts (16_host_registers R452-R455) -/

/-- NumVFs while VF Enable is set, else 0 (FN_STAT). -/
def numVfs (s : State) : Nat := if rb s (funcsPg + 0x100) 8 then rf s (funcsPg + 0x100) 0 5 else 0

/-- VF k's own event enable of a page (R452). -/
def vfEnable (s : State) (k pg : Nat) : Nat := (smGet 0 s.vfEn (k * 2 ^ 28 + pg)).toNat

/-- A page raises its PF interrupt (R452). -/
def pfIrq (s : State) (pg : Nat) : Bool :=
  let live := Nat.land (rdN s (pg + 0x14)) (rdN s (pg + 0x18))
  live ≠ 0 && Nat.land live (Nat.xor 0xFFFFFFFF (hiddenEvt s pg)) ≠ 0

/-- A page raises the interrupt of VF k (R452). -/
def vfIrq (s : State) (k pg : Nat) : Bool := Nat.land (rdN s (pg + 0x14)) (vfEnable s k pg) ≠ 0

/-- The fixed VF vector that serves a page, where VF k sees the page (R454). -/
def vfVecOf (s : State) (k pg : Nat) : Option Nat :=
  if pg = partPg k then some 0 else if pg = tblPg k then some 1
  else if partParty s k ≠ 0 ∧ pg = ptyPg (partParty s k) then some 2
  else if pg = ingPg k then some 3 else if pg = expPg k then some 4
  else match pageAt (pg / 4096) with
    | some (.cluster, c) => if isMember s k c then some 5 else none
    | _ => none

/-- Route entry of a page's source. -/
def route (s : State) (pg : Nat) : Nat := rdN s (eventsPg + 0x400 + 4 * (pg / 4096))

/-- The pages with a PG_EVT bit set. -/
def evtPages (s : State) : List Nat :=
  s.regs.filterMap fun p => if p.1 % 4096 = 0x14 then some (p.1 - 0x14) else none

/-- The summary of a vector: function 0 is the PF, k + 1 is VF k (R455). -/
def summary (s : State) (fn v : Nat) : Bool :=
  (evtPages s).any fun pg =>
    if fn = 0 then bitAt (route s pg) 31 && fld (route s pg) 0 10 = v && pfIrq s pg
    else vfVecOf s (fn - 1) pg = some v && vfIrq s (fn - 1) pg

def vecAt (s : State) (fn v : Nat) : Vec := smGet {} s.vecs (fn * 1024 + v)
def setVec (s : State) (fn v : Nat) (x : Vec) : State := { s with vecs := smSet {} s.vecs (fn * 1024 + v) x }

/-- Send a vector's message, or set its pending bit while it is masked (R455). (DEDUCED: log entry 8; DEDUCED: log entry 30.) -/
def sendMsi (s : State) (fn v : Nat) : State :=
  if (vecAt s fn v).masked then setVec s fn v { vecAt s fn v with pba := true }
  else { s with msgs := s.msgs ++ [(fn, v)] }

/-- The message of one vector after a change: on a rising summary, or when a clearing write leaves it at 1. (DEDUCED: log entry 30.) -/
def irqVec (s0 s1 : State) (cleared : Bool) (acc : State) (fn v : Nat) : State :=
  if summary s1 fn v && (cleared || !summary s0 fn v) then sendMsi acc fn v else acc

/-- The messages that a change of a page's events, enables or shielding causes. (DEDUCED: log entry 30.) -/
def irqSync (s0 s1 : State) (pg : Nat) (cleared : Bool) : State :=
  let a := if bitAt (route s1 pg) 31 then irqVec s0 s1 cleared s1 0 (fld (route s1 pg) 0 10) else s1
  (List.range (numVfs s1)).foldl (fun acc k =>
    match vfVecOf s1 k pg with
    | some v => irqVec s0 s1 cleared acc (k + 1) v
    | none => acc) a

/-- The vectors that some page of a list is routed to: function and number. -/
def vecsOf (s : State) (pgs : List Nat) : List (Nat × Nat) :=
  (pgs.flatMap fun pg =>
    (if bitAt (route s pg) 31 then [(0, fld (route s pg) 0 10)] else []) ++
      (List.range (numVfs s)).filterMap fun k => (vfVecOf s k pg).map fun v => (k + 1, v)).eraseDups

/-- The messages that a change of shielding or of routes causes over several pages. -/
def irqSyncs (s0 s1 : State) (pgs : List Nat) : State :=
  (vecsOf s1 pgs).foldl (fun acc q => irqVec s0 s1 false acc q.1 q.2) s1

/-- Pages whose visibility depends on the shielding of a partition. -/
def shieldPages (s : State) (n : Nat) : List Nat :=
  [ingPg n, expPg n] ++ (members s n).map clPg ++ (if partParty s n = 0 then [] else [ptyPg (partParty s n)])

/-- FN_TDI of a VF changes, and the shielding with it. -/
def setTdi (s : State) (n v : Nat) : State :=
  let s1 := wf s (funcsPg + 0x104) (2 * n) 2 v
  irqSyncs s s1 (shieldPages s n)

/-! ## Events and counters -/

/-- Capture an event in PG_ERRLOG0-3 unless a capture is held (R8, R472). -/
def capture (s : State) (pg bit : Nat) (test : Bool) (detail : Nat) : State :=
  if rb s (pg + 0x20) 31 then s
  else
    let s := wrN s (pg + 0x20) (2 ^ 31 + b2n test * 2 ^ 30 + bit)
    let s := wrN s (pg + 0x24) s.clk.num
    let s := wrN s (pg + 0x28) (cycNow s)
    wrN s (pg + 0x2C) (if test then 0 else detail)

/-- Set a PG_EVT bit: a logging bit is captured at its setting, and the interrupts follow (R7, R8, R455). -/
def setEvtT (s0 : State) (pg bit : Nat) (test : Bool) (detail : Nat) : State :=
  let m := if test then s0 else markEvt s0 pg bit
  let s1 := wrN m (pg + 0x14) (Nat.lor (rdN s0 (pg + 0x14)) (2 ^ bit))
  let logs := match pageAt (pg / 4096) with | some (p, _) => bitAt (logMask p) bit | none => false
  let s2 := if logs then capture s1 pg bit test detail else s1
  irqSync s0 s2 pg false

/-- A hardware set of a PG_EVT bit. -/
def setEvt (s : State) (pg bit : Nat) (detail : Nat := 0) : State := setEvtT s pg bit false detail

/-- The address of the saturation register of the counter at `off`: the link pages repeat their five ports' registers at every
0x100. -/
def satAddr (p : PageT) (pg off sat : Nat) : Nat := pg + sat + (if p = .link then (off / 0x100 - 1) * 0x100 else 0)

/-- Add `n` to the event counter at `pg + off` (R10, R11): it holds at its maximum, sets its SAT bit and raises one event. -/
def bumpBy (s : State) (pg off n : Nat) : State :=
  match pageAt (pg / 4096) with
  | none => s
  | some (p, _) =>
    match regAt p off with
    | some { kind := .cnt sat bit evt, .. } =>
      let v := rdN s (pg + off) + n
      let m := markCnt s (pg + off) n
      if v < 0xFFFFFFFF then wrN m (pg + off) v
      else
        let s1 := wrN m (pg + off) 0xFFFFFFFF
        let sa := satAddr p pg off sat
        if rb s sa bit then s1 else setEvt (wrN s1 sa (Nat.lor (rdN s1 sa) (2 ^ bit))) pg evt
    | _ => s

/-- Add 1 to an event counter. -/
def bump (s : State) (pg off : Nat) : State := bumpBy s pg off 1

/-- Put an event counter at `v` and clear its SAT bit (R10). -/
def cntTo (s : State) (pg off v : Nat) : State :=
  match pageAt (pg / 4096) with
  | none => s
  | some (p, _) =>
    match regAt p off with
    | some { kind := .cnt sat bit _, .. } =>
      let sa := satAddr p pg off sat
      wrN (wrN s (pg + off) v) sa (setFld (rdN s sa) bit 1 0)
    | _ => s

/-- A clearing write of an event counter: the increments of the same cycle follow the clear (R11). (DESIGN CHOICE: log entry 65.) -/
def clearCnt (s : State) (pg off : Nat) : State := cntTo s pg off (min (smGet 0 (marksNow s).cnt (pg + off)) 0xFFFFFFFE)

/-- Apply a function to each element in turn. -/
def each {α : Type} (s : State) (l : List α) (f : State → α → State) : State := l.foldl f s

/-- Apply a function when a condition holds. (DEDUCED: log entry 3.) -/
def iff (c : Bool) (s : State) (f : State → State) : State := if c then f s else s

/-! ## HBM and host memory bytes (09_memory R274) -/

/-- Bytes of HBM, 192 × 10^9 of them. -/
def hbmSize : Nat := 192000000000

/-- A read of HBM delivers zero for a poisoned 64-bit word (R280). -/
def hbmRead (s : State) (a n : Nat) : List Byte :=
  if s.hbmBad = [] ∧ s.meeBad = [] then memRead 0 s.hbm a n
  else (List.range n).map fun i => if smGet false s.hbmBad ((a + i) / 8) || smGet false s.meeBad ((a + i) / 128) then 0 else memGet 0 s.hbm (a + i)

/-- A little-endian number of `n` bytes in HBM. -/
def hbmN (s : State) (a n : Nat) : Nat := leNat (hbmRead s a n)

/-- Some 64-bit word of [a, a + n) is poisoned (R280). -/
def hbmPoison (s : State) (a n : Nat) : Bool :=
  (s.hbmBad.any fun p => p.2 && a < 8 * p.1 + 8 && 8 * p.1 < a + n) || s.meeBad.any fun p => p.2 && a < 128 * p.1 + 128 && 128 * p.1 < a + n

/-- Write bytes to HBM without regard to poison; a word written whole holds no error. -/
def hbmPut (s : State) (a : Nat) (bs : List Byte) : State :=
  { s with hbm := memWrite 0 s.hbm a bs, hbmCe := s.hbmCe.filter fun p => !(decide (a ≤ 8 * p.1) && decide (8 * p.1 + 8 ≤ a + bs.length)) }

/-- The function whose I/O address space a partition's bus addresses are in: its VF (number k + 1), or the PF, 0, when none is assigned
(09_memory R281, 11_ingest R311). -/
def partFn (s : State) (n : Nat) : Nat := if n < numVfs s then n + 1 else 0

/-- A read of host memory failed: whether by a poisoned TLP, which is logged in the AER of the function, status bit 12, the command does not
say (16_host_registers R444). (PRESUMED: log entry 22.) -/
def hostReadErr (s : State) (fn : Nat) : State :=
  let r := fresh s
  { r.2 with aer := smSet 0 r.2.aer fn (Nat.lor (smGet 0 r.2.aer fn) (r.1 % 2 * 2 ^ 12)) }

/-- Bytes the device writes to host memory, at a bus address of a function; each function's addresses have their own 2^64 cells. (DEDUCED: log entry 8.) -/
def hostPut (s : State) (fn a : Nat) (bs : List Byte) : State := { s with hostMem := memWrite 0 s.hostMem (2 ^ 64 * fn + a) bs }

/-- The pseudo-channel of an address under the map in force (R274). -/
def pchanOf (s : State) (a : Nat) : Nat :=
  if rb s (hbmPg + 0x100) 0 then
    let g := a / 12000000000
    let q := (a % 12000000000) / 128
    g + 16 * (q % 16)
  else a / 128 % 256

/-- The HBM stack of an address, which holds 32 pseudo-channels (R274). -/
def stackOf (s : State) (a : Nat) : Nat := pchanOf s a / 32

/-! ## Windows and regions (09_memory R277, R278) -/

/-- Base and size of window w, and whether it is valid. -/
def winBase (s : State) (w : Nat) : Nat := rd64 s (hbmPg + 0x200 + 0x20 * w) % 2 ^ 48
def winSize (s : State) (w : Nat) : Nat := rd64 s (hbmPg + 0x208 + 0x20 * w) % 2 ^ 48
def winValid (s : State) (w : Nat) : Bool := rb s (hbmPg + 0x210 + 0x20 * w) 31

/-- [a, a + n) lies wholly inside party p's window. -/
def inWindow (s : State) (p a n : Nat) : Bool :=
  p ≠ 0 && winValid s p && decide (winBase s p ≤ a) && decide (a + n ≤ winBase s p + winSize s p)

/-- In the ISOLATED map, [a, a + n) lies within a set of groups (R274). -/
def inGroupSet (s : State) (g a n : Nat) : Bool :=
  !rb s (hbmPg + 0x100) 0 ||
    (List.range 16).all fun i => bitAt g i || decide (a + n ≤ 12000000000 * i) || decide (12000000000 * (i + 1) ≤ a)

/-- [a, a + len) lies within the groups of partition `n` (R276). -/
def partGroups (s : State) (n a len : Nat) : Bool := inGroupSet s (rf s (hbmPg + 0x140 + 4 * n) 0 16) a len

/-- Offset from the window base and size of region k of party p's window, in bytes. -/
def regOfs (s : State) (p k : Nat) : Nat := 4096 * rdN s (hbmPg + 0x600 + 0x40 * p + 8 * k)
def regSize (s : State) (p k : Nat) : Nat := 4096 * rdN s (hbmPg + 0x604 + 0x40 * p + 8 * k)

/-- [a, a + n) lies wholly inside region k of party p's window. -/
def inRegion (s : State) (p k a n : Nat) : Bool :=
  inWindow s p a n && decide (winBase s p + regOfs s p k ≤ a) &&
    decide (a + n ≤ winBase s p + regOfs s p k + regSize s p k)

/-- [a, a + n) lies in the general space: inside the window and touching no region. -/
def inGeneral (s : State) (p a n : Nat) : Bool :=
  inWindow s p a n && (List.range 6).all fun k =>
    regSize s p k = 0 || decide (a + n ≤ winBase s p + regOfs s p k) ||
      decide (winBase s p + regOfs s p k + regSize s p k ≤ a)

/-- What a partition keeps for links and belay. -/
def bly (s : State) (n : Nat) : Bly := smGet {} s.bly n
def modBly (s : State) (n : Nat) (f : Bly → Bly) : State := { s with bly := smSet {} s.bly n (f (bly s n)) }

end Sys2Proof.Machine
end

