-- ==== Sys2Proof/Machine/Access.lean ====
section
/-!
DEFINITION. Who may reach which register (13_parties R379, R380; 16_host_registers R445, R447, R448): the VF aliases, the cluster
window, and the ranges that shielding takes from the PF. A requester names an address in its own BAR0.
-/
namespace Sys2Proof.Machine

/-- CLW_SEL of VF k (R448). -/
def clwSel (s : State) (k : Nat) : Nat := smGet 0 s.clw k

/-- CLW_SEL.VALID. -/
def clwValid (s : State) (k : Nat) : Bool :=
  (part s k).st ≠ .off && (part s k).st ≠ .zeroising && isMember s k (clwSel s k)

/-- The PF BAR0 address that an address in a requester's BAR0 stands for; none where it reaches no page (R445, R447). (DESIGN CHOICE: log entry 5.) -/
def xlate (s : State) (r : Requester) (a : Nat) : Option Nat :=
  match r with
  | .pf => if a < 0x4000000 then some a else none
  | .sirvi => if a < 0x4000000 then some a else none
  | .vf k =>
    let o := a % 4096
    if a / 4096 = 0 then some (partPg k + o) else if a / 4096 = 1 then some (tblPg k + o)
    else if a / 4096 = 2 then (if partParty s k = 0 then none else some (ptyPg (partParty s k) + o))
    else if a / 4096 = 3 then some (ingPg k + o) else if a / 4096 = 4 then some (expPg k + o)
    else if a / 4096 = 6 then (if clwValid s k then some (clPg (clwSel s k) + o) else none)
    else none

/-- The control subset of R380. -/
def ptySubset (o : Nat) : Bool := decide (o < 0x0C) || (decide (0x100 ≤ o) && decide (o < 0x150)) || (decide (0x200 ≤ o) && decide (o < 0x280))

/-- The offset is shielded from the PF (R379). -/
def hiddenPf (s : State) (a : Nat) : Bool :=
  let o := a % 4096
  let inR (lo hi : Nat) : Bool := decide (lo ≤ o) && decide (o ≤ hi)
  match pageAt (a / 4096) with
  | some (.part, n) => shielded s n && (inR 0x280 0x297 || inR 0x300 0x353 || inR 0x380 0x3D7)
  | some (.ingest, n) => shielded s n && (inR 0x14 0x2F || inR 0x100 0x21F)
  | some (.exp, n) => shielded s n && (inR 0x14 0x2F || inR 0x100 0x3FF)
  | some (.cluster, c) =>
    (match partOf s c with
     | some n => shielded s n && (inR 0x110 0x11B || inR 0x140 0x17F)
     | none => false)
  | some (.party, k) => ptyShielded s (k + 1) && !ptySubset o
  | _ => false

/-- The registers of an alias page that its VF may write (R447). -/
def vfWritable (p : PageT) (o : Nat) : Bool :=
  let inR (lo hi : Nat) : Bool := decide (lo ≤ o) && decide (o ≤ hi)
  o = 0x14 || o = 0x18 ||
  match p with
  | .part => inR 0x280 0x28C || inR 0x300 0x324 || inR 0x380 0x3B4
  | .ingest => (match regAt .ingest o with | some { kind := .cnt .., .. } => false | some _ => inR 0x100 0xFFF | none => false)
  | .exp => o = 0x100 || inR 0x108 0x11C
  | .cluster => inR 0x140 0x17C
  | _ => false

/-- The page that VF k sees as alias of its partition's (R447). -/
def vfSees (s : State) (k : Nat) (p : PageT) (i : Nat) : Bool :=
  match p with
  | .part => i = k | .table => i = k | .ingest => i = k | .exp => i = k
  | .party => partParty s k = i + 1
  | .cluster => clwValid s k && clwSel s k = i
  | _ => false

/-- The offsets of a page that the PF may write, shielding aside: Sirvi's pages are RO to it but for the registers that the chapters name
(R478; 15_sirvi, "Registers"; R377). -/
def pfWritable (p : PageT) (o : Nat) : Bool :=
  let evt : Bool := o = 0x14 || o = 0x18
  let head : Bool := evt || o = 0x1C || o = 0x30
  match p with
  | .hbm => head | .stack => head
  | .mbox => evt || o = 0x100 || (decide (0x110 ≤ o) && decide (o < 0x130)) || decide (0x200 ≤ o)
  | .sens => evt | .bg => evt
  | .party => head || decide (0x180 ≤ o)
  | _ => true

/-- A write by `r` to the PF BAR0 address `a` has an effect. The test and debug pages take writes only in debug (R445). (DEDUCED: log entry 66.) -/
def wOk (s : State) (r : Requester) (a : Nat) : Bool :=
  match pageAt (a / 4096) with
  | none => false
  | some (p, i) =>
    match r with
    | .sirvi => sirviUp s
    | .pf => pageUp s p && pfWritable p (a % 4096) && (!hiddenPf s a || (p = .party && a % 4096 = 0x21C))
    | .vf k =>
      pageUp s p && decide (k.val < numVfs s) && vfWritable p (a % 4096) && vfSees s k.val p i

/-- A read by `r` of the PF BAR0 address `a` reaches the register; otherwise it reads zero. -/
def rOk (s : State) (r : Requester) (a : Nat) : Bool :=
  match pageAt (a / 4096) with
  | none => false
  | some (p, i) =>
    match r with
    | .sirvi => sirviUp s
    | .pf => pageUp s p && !hiddenPf s a
    | .vf k => pageUp s p && decide (k.val < numVfs s) && vfSees s k.val p i

/-- The number of a requester's HI latch (R9). -/
def latchNo : Requester → Nat
  | .pf => 0 | .vf k => 1 + k.val | .sirvi => 17

/-- A command that a register write makes, when the write has an effect. (DEDUCED: log entry 66.) -/
def hostWr (s : State) (r : Requester) (a : Nat) (f : State → State) : State := if wOk s r a then f s else s

end Sys2Proof.Machine
end

