-- ==== Sys2Proof/Machine/Float.lean ====
section
/-!
DEFINITION. Number formats (05_number_formats): FP32 and BF16 with round-to-nearest-even and subnormals flushed to zero after
rounding (R141-R143, R151), exponents and codes (R134-R140), the function tables of R174. Words are natural numbers below 2^32.
-/
namespace Sys2Proof.Machine

/-- The exact value of a floating-point word: a NaN, a signed infinity, or (−1)^neg · m · 2^e. -/
inductive Fp where
  | nan
  | inf (neg : Bool)
  | fin (neg : Bool) (m : Nat) (e : Int)
  deriving DecidableEq, Repr

/-- The quiet NaN the device produces (R142). -/
def qnan : Nat := 0x7FC00000

/-- Read an FP32 word; a subnormal reads as zero of its sign (R141). -/
def fpDec (w : Nat) : Fp :=
  let s := bitAt w 31
  let x := fld w 23 8
  let f := fld w 0 23
  if x = 255 then (if f = 0 then .inf s else .nan)
  else if x = 0 then .fin s 0 0
  else .fin s (f + 2 ^ 23) ((x : Int) - 150)

/-- Bits of a positive number. -/
def bitLen (m : Nat) : Nat := if m = 0 then 0 else Nat.log2 m + 1

/-- m·2^e rounded to `p` bits, to nearest with ties to even, the exponent unbounded. -/
def roundP (p m : Nat) (e : Int) : Nat × Int :=
  let l := bitLen m
  if l ≤ p then (m, e) else (rneDiv m (2 ^ (l - p)), e + (l - p : Nat))

/-- Round to `p` bits in the exponent range of FP32 and BF16: too large gives infinity, below 2^−126 after rounding gives zero of the
same sign (R141). (DEDUCED: log entry 67.) -/
def fpRound (p : Nat) : Fp → Fp
  | .nan => .nan
  | .inf s => .inf s
  | .fin s m e =>
    let r := roundP p m e
    let top : Int := (bitLen r.1 : Int) + r.2
    if r.1 = 0 then .fin s 0 0
    else if top ≤ -126 then .fin s 0 0
    else if 128 < top then .inf s
    else .fin s r.1 r.2

/-- The word of a value that `fpRound 24` gives. -/
def fpEnc : Fp → Nat
  | .nan => qnan
  | .inf s => b2n s * 2 ^ 31 + 0x7F800000
  | .fin s m e =>
    if m = 0 then b2n s * 2 ^ 31
    else
      let l := bitLen m
      let f := if l ≤ 24 then m * 2 ^ (24 - l) else m / 2 ^ (l - 24)
      b2n s * 2 ^ 31 + ((l : Int) + e + 126).toNat * 2 ^ 23 + (f - 2 ^ 23)

/-- Round to FP32 and encode. -/
def rne32 (x : Fp) : Nat := fpEnc (fpRound 24 x)

/-- The signed integer value of m at a lower exponent. -/
def alignI (neg : Bool) (m : Nat) (e lo : Int) : Int :=
  let v : Int := (m : Int) * 2 ^ (e - lo).toNat
  if neg then -v else v

/-- Exact sum. -/
def fpAdd : Fp → Fp → Fp
  | .nan, _ => .nan
  | _, .nan => .nan
  | .inf s, .inf t => if s = t then .inf s else .nan
  | .inf s, .fin .. => .inf s
  | .fin .., .inf t => .inf t
  | .fin s m e, .fin t n f =>
    if m = 0 ∧ n = 0 then .fin (s && t) 0 0
    else if m = 0 then .fin t n f
    else if n = 0 then .fin s m e
    else
      let lo := min e f
      let v := alignI s m e lo + alignI t n f lo
      .fin (decide (v < 0)) v.natAbs lo

/-- Exact product. -/
def fpMul : Fp → Fp → Fp
  | .nan, _ => .nan
  | _, .nan => .nan
  | .inf s, .inf t => .inf (s != t)
  | .inf s, .fin t n _ => if n = 0 then .nan else .inf (s != t)
  | .fin s m _, .inf t => if m = 0 then .nan else .inf (s != t)
  | .fin s m e, .fin t n f => .fin (s != t) (m * n) (if m = 0 ∨ n = 0 then 0 else e + f)

def fpNeg : Fp → Fp
  | .nan => .nan
  | .inf s => .inf (!s)
  | .fin s m e => .fin (!s) m e

/-- FP32 operations on words, each rounded once (R162). (DEDUCED: log entry 67.) -/
def f32Add (a b : Nat) : Nat := rne32 (fpAdd (fpDec a) (fpDec b))
def f32Sub (a b : Nat) : Nat := rne32 (fpAdd (fpDec a) (fpNeg (fpDec b)))
def f32Mul (a b : Nat) : Nat := rne32 (fpMul (fpDec a) (fpDec b))
/-- rne(a·b + c), one rounding. (DEDUCED: log entry 67.) -/
def f32Fma (a b c : Nat) : Nat := rne32 (fpAdd (fpMul (fpDec a) (fpDec b)) (fpDec c))

def isNan (w : Nat) : Bool := fld w 23 8 = 255 && fld w 0 23 ≠ 0
def isInf (w : Nat) : Bool := fld w 23 8 = 255 && fld w 0 23 = 0

/-- A subnormal word becomes zero of its sign. -/
def ftz (w : Nat) : Nat := if fld w 23 8 = 0 then b2n (bitAt w 31) * 2 ^ 31 else w

/-- An operand as an arithmetic op reads it: a subnormal is zero of its sign, a NaN loses its sign and payload (R141, R142). -/
def f32Canon (a : Nat) : Nat := if isNan a then qnan else ftz a

/-- |a|, flushed; a NaN gives the device's NaN (R142). -/
def f32Abs (a : Nat) : Nat := if isNan a then qnan else (ftz a) % 2 ^ 31
/-- −a. -/
def f32Neg (a : Nat) : Nat := if isNan a then qnan else Nat.xor (ftz a) (2 ^ 31)

/-- A total order of words that are not NaN, −0 below +0. -/
def f32Key (w : Nat) : Int :=
  let x := ftz w
  if bitAt x 31 then -((x % 2 ^ 31 : Nat) : Int) - 1 else (x : Int)

/-- VMAX and VMIN (R162): with one NaN the other operand, with two NaN. -/
def f32Max (a b : Nat) : Nat :=
  if isNan a then (if isNan b then qnan else ftz b) else if isNan b then ftz a
  else if f32Key a < f32Key b then ftz b else ftz a
def f32Min (a b : Nat) : Nat :=
  if isNan a then (if isNan b then qnan else ftz b) else if isNan b then ftz a
  else if f32Key b < f32Key a then ftz b else ftz a

/-- IEEE comparison (R477): none when unordered; −0 equals +0. -/
def f32Cmp (a b : Nat) : Option Ordering :=
  if isNan a || isNan b then none
  else
    let x := ftz a
    let y := ftz b
    if x % 2 ^ 31 = 0 ∧ y % 2 ^ 31 = 0 then some .eq else some (compare (f32Key a) (f32Key b))

/-- floor of the square root, by bits from the top. -/
def isqrt (n : Nat) : Nat :=
  (List.range 128).foldl (fun r i =>
    let c := r + 2 ^ (127 - i)
    if c * c ≤ n then c else r) 0

/-- 1/a, correctly rounded (R162). -/
def f32Rcp (a : Nat) : Nat :=
  match fpDec a with
  | .nan => qnan
  | .inf s => b2n s * 2 ^ 31
  | .fin s m e =>
    if m = 0 then b2n s * 2 ^ 31 + 0x7F800000
    else
      let q := 2 ^ 64 / m
      let st := if 2 ^ 64 % m = 0 then 0 else 1
      rne32 (.fin s (2 * q + st) (-65 - e))

/-- 1/√a, correctly rounded (R162); −0 as a zero gives −infinity under IEEE 754. -/
def f32Rsqrt (a : Nat) : Nat :=
  match fpDec a with
  | .nan => qnan
  | .inf s => if s then qnan else 0
  | .fin s m e =>
    if m = 0 then b2n s * 2 ^ 31 + 0x7F800000
    else if s then qnan
    else
      let odd := e % 2 ≠ 0
      let m2 := if odd then 2 * m else m
      let e2 := if odd then e - 1 else e
      let x := 2 ^ 120
      let r := isqrt (x / m2)
      let st := if r * r * m2 = x then 0 else 1
      rne32 (.fin false (2 * r + st) (-61 - e2 / 2))

/-- An integer as FP32, rounded (R164 CV 8). -/
def f32OfInt (i : Int) : Nat := rne32 (.fin (decide (i < 0)) i.natAbs 0)

/-! ## BF16 (R143) -/

/-- BF16 to FP32: 16 zero bits, subnormals flushed. -/
def bfDec (h : Nat) : Nat := let w := (h % 65536) * 65536; if isNan w then qnan else ftz w

/-- FP32 to BF16 as the ME does: overflow gives infinity (R127). -/
def bfEncMe (w : Nat) : Nat :=
  match fpRound 8 (fpDec w) with
  | .nan => 0x7FC0
  | x => fpEnc x / 65536

/-- FP32 to BF16 as the VE and GP do, with OF and NV: overflow gives ±0x7F7F and OF (R143). -/
def bfEnc (w : Nat) : Nat × Bool × Bool :=
  match fpDec w with
  | .nan => (0x7FC0, false, true)
  | .inf s => (b2n s * 32768 + 0x7F80, true, false)
  | .fin s m e =>
    match fpRound 8 (.fin s m e) with
    | .inf _ => (b2n s * 32768 + 0x7F7F, true, false)
    | x => (fpEnc x / 65536, false, false)

/-! ## Exponents and codes (R134-R140) -/

/-- m·2^e rounded to an integer, ties to even, with its sign. -/
def rneInt (s : Bool) (m : Nat) (e : Int) : Int :=
  let v : Nat := if 0 ≤ e then m * 2 ^ e.toNat else rneDiv m (2 ^ (-e).toNat)
  if s then -(v : Int) else v

/-- The exponent rule (R135, R138, R146): the least e with M ≤ lim·2^e, raised to `lo` and lowered to 127; `lo` for 0. -/
def expFor (lim : Nat) (lo : Int) (m : Nat) (q : Int) : Int :=
  if m = 0 then lo
  else
    let l : Int := (bitLen m : Int) + q
    let base : Int := l - (bitLen lim : Int)
    let fits (e : Int) : Bool :=
      if q ≤ e then m ≤ lim * 2 ^ (e - q).toNat else m * 2 ^ (q - e).toNat ≤ lim
    let e := if fits (base - 1) then base - 1 else if fits base then base else base + 1
    clampI lo 127 e

/-- The exponent for an FP32 max-abs: an infinity counts as 0x7F7F_FFFF, a NaN gives the lower limit and NV (R137, R165). -/
def expOf32 (lim : Nat) (lo : Int) (w : Nat) : Int × Bool :=
  match fpDec w with
  | .nan => (lo, true)
  | .inf _ => (expFor lim lo (2 ^ 24 - 1) 104, false)
  | .fin _ m e => (expFor lim lo m e, false)

/-- The code of an FP32 element at exponent `e` with limits ±lim (R136, R137): code, whether the finite value clamped, OF for an
infinity, NV for a NaN. -/
def codeOf (lim : Nat) (e : Int) (w : Nat) : Int × Bool × Bool × Bool :=
  match fpDec w with
  | .nan => (0, false, false, true)
  | .inf s => (if s then -(lim : Int) else lim, false, true, false)
  | .fin s m q =>
    let v := rneInt s m (q - e)
    (clampI (-(lim : Int)) lim v, decide (v.natAbs > lim), false, false)

/-- The U8F code of an FP32 value (R139), with NV. -/
def u8fOf (w : Nat) : Nat × Bool :=
  match fpDec w with
  | .nan => (0, true)
  | .inf s => (if s then 0 else 255, false)
  | .fin s m q => ((clampI 0 255 (rneInt s m (q + 8))).toNat, false)

/-- code·2^e as FP32 (R140), with OF: beyond the range gives ±0x7F7F_FFFF, below it zero. -/
def decCode (c : Int) (e : Int) : Nat × Bool :=
  match fpRound 24 (.fin (decide (c < 0)) c.natAbs e) with
  | .inf s => (b2n s * 2 ^ 31 + 0x7F7FFFFF, true)
  | x => (fpEnc x, false)

/-! ## Function tables (R174), in fixed point with 200 fraction bits -/

/-- Fraction bits. -/
def fxB : Nat := 200
def fxOne : Int := 2 ^ 200
def fxMul (a b : Int) : Int := a * b / 2 ^ 200
def fxDiv (a b : Int) : Int := a * 2 ^ 200 / b

/-- e^x for |x| ≤ 1/8 by its series. -/
def fxExpS (x : Int) : Int :=
  ((List.range 40).foldl (fun (r : Int × Int) (i : Nat) =>
    let t := fxMul r.2 x / ((i : Int) + 1)
    (r.1 + t, t)) (fxOne, fxOne)).1

/-- e^x, by halving the argument eight times. -/
def fxExp (x : Int) : Int := (List.range 8).foldl (fun r _ => fxMul r r) (fxExpS (x / 256))

/-- 1 / (1 + e^−x). -/
def fxSig (x : Int) : Int := fxDiv fxOne (fxOne + fxExp (-x))

/-- ln 2 and √(2/π), to 200 fraction bits. -/
def fxLn2 : Int := 69314718055994530941723212145817656807550013436025525412068000949339362196 * 2 ^ 200 / 10 ^ 74
/-- (PRESUMED: log entry 23.) -/
def fxK : Int := 79788456080286535587989211986876373695171726232986931533185165934131585180 * 2 ^ 200 / 10 ^ 74
/-- 0.044715 of the tanh form of GELU (PRESUMED: the common constant; the spec names the form only). (PRESUMED: log entry 23.) -/
def fxA : Int := 44715 * 2 ^ 200 / 10 ^ 6

/-- g, g′ and g″/2 of the functions of R174 at a point: 1 sigmoid, 2 tanh, 3 SiLU, 4 GELU in its tanh form, 5 2^u. (PRESUMED: log entry 23.) -/
def fnCoef (fn : Nat) (m : Int) : Int × Int × Int :=
  let s := fxSig m
  let s1 := fxMul s (fxOne - s)
  let s2 := fxMul s1 (fxOne - 2 * s)
  if fn = 1 then (s, s1, s2 / 2)
  else if fn = 2 then
    let t := 2 * fxSig (2 * m) - fxOne
    let u := fxOne - fxMul t t
    (t, u, -(fxMul t u))
  else if fn = 3 then (fxMul m s, s + fxMul m s1, s1 + fxMul m s2 / 2)
  else if fn = 4 then
    let x2 := fxMul m m
    let v := fxMul fxK (m + fxMul fxA (fxMul x2 m))
    let v1 := fxMul fxK (fxOne + 3 * fxMul fxA x2)
    let v2 := 6 * fxMul fxK (fxMul fxA m)
    let t := 2 * fxSig (2 * v) - fxOne
    let u := fxOne - fxMul t t
    (fxMul m (fxOne + t) / 2, (fxOne + t) / 2 + fxMul (fxMul m u) v1 / 2,
     (fxMul u v1 + fxMul m (fxMul u v2 - 2 * fxMul (fxMul t u) (fxMul v1 v1)) / 2) / 2)
  else
    let p := fxExp (fxMul m fxLn2)
    (p, fxMul p fxLn2, fxMul p (fxMul fxLn2 fxLn2) / 2)

/-- A fixed-point value as the nearest FP32. -/
def fxTo32 (x : Int) : Nat := rne32 (.fin (decide (x < 0)) x.natAbs (-200))

/-- The quadratic of a segment with its midpoint at m·2^−10, evaluated at `x`, whose distance from the midpoint is exact (R174). -/
def fnSeg (fn : Nat) (m10 : Int) (x : Fp) : Nat :=
  let c := fnCoef fn (m10 * 2 ^ 190)
  let d := fpAdd x (.fin (decide (0 < m10)) m10.natAbs (-10))
  let p := rne32 (fpAdd (fpMul (fpDec (fxTo32 c.2.2)) d) (fpDec (fxTo32 c.2.1)))
  rne32 (fpAdd (fpMul (fpDec p) d) (fpDec (fxTo32 c.1)))

/-- floor(v·2^k) of an exact value. -/
def floorShift (s : Bool) (m : Nat) (e : Int) (k : Nat) : Int :=
  let v : Int := if s then -(m : Int) else m
  if 0 ≤ e + k then v * 2 ^ (e + k).toNat else v / 2 ^ (-(e + k)).toNat

/-- A table function on [−D, D) with 256 segments: lo·2^10, h·2^10 as integers; the values below and above. (PRESUMED: log entry 23.) -/
def fnTab (fn : Nat) (lo10 h10 : Int) (below : Nat) (above : Nat → Nat) (x : Nat) : Nat :=
  match fpDec x with
  | .nan => qnan
  | .inf s => if s then below else above x
  | .fin s m e =>
    let q := floorShift s m e 10
    if q < lo10 then below
    else if lo10 + 256 * h10 ≤ q then above (ftz x)
    else
      let j := (q - lo10) / h10
      fnSeg fn (lo10 + j * h10 + h10 / 2) (.fin s m e)

/-- exp as 2^u (R174). -/
def fnExp (x : Nat) : Nat :=
  match fpDec x with
  | .nan => qnan
  | _ =>
    let t := f32Mul x 0x3FB8AA3B
    match fpDec t with
    | .nan => qnan
    | .inf s => if s then 0 else 0x7F800000
    | .fin s m e =>
      let k := floorShift s m e 0
      if k < -126 then 0
      else if 128 ≤ k then 0x7F800000
      else
        let u := fpAdd (.fin s m e) (.fin (decide (0 < k)) k.natAbs 0)
        let j := match u with
          | .fin _ m e => floorShift false m e 8
          | _ => 0
        let y := fnSeg 5 (4 * j + 2) u
        match fpDec y with
        | .fin s m e => rne32 (.fin s m (e + k))
        | _ => y

/-- The function codes of R172; above 5 is refused before this is called. The identity gives its input as an arithmetic op reads it (R141,
R142). -/
def fnEval (fn x : Nat) : Nat :=
  if fn = 0 then f32Canon x
  else if fn = 1 then fnTab 1 (-16384) 128 0 (fun _ => 0x3F800000) x
  else if fn = 2 then fnTab 2 (-8192) 64 0xBF800000 (fun _ => 0x3F800000) x
  else if fn = 3 then fnTab 3 (-16384) 128 0 (fun y => y) x
  else if fn = 4 then fnTab 4 (-8192) 64 0 (fun y => y) x
  else fnExp x

/-! ## FP32C (R144, R145, R205) -/

/-- The pair update y = g·s + t of R205. -/
def pairUpd (g sh sl t : Nat) : Nat × Nat :=
  let ph := f32Mul g sh
  let pe := f32Fma g sh (f32Neg ph)
  let pl := f32Fma g sl pe
  let h1 := f32Add ph t
  let tv := f32Sub h1 ph
  let te := f32Add (f32Sub ph (f32Sub h1 tv)) (f32Sub t tv)
  let lo := f32Add te pl
  let hi := f32Add h1 lo
  (hi, f32Sub lo (f32Sub hi h1))

end Sys2Proof.Machine
end

