-- ==== Sys2Proof/Machine/KeyBase.lean ====
section
/-!
DEFINITION. Key slots and the keys derived from them (13_parties R367-R371).
-/
namespace Sys2Proof.Machine

def keySlot (s : State) (i : Nat) : KeySlot := smGet {} s.keys i
def setKeySlot (s : State) (i : Nat) (x : KeySlot) : State := { s with keys := smSet {} s.keys i x }

/-- The slot bound to a party. -/
def slotOfParty (s : State) (p : Nat) : Option Nat :=
  if p = 0 then none else (List.range 16).find? fun i => (keySlot s i).party = p

/-- The labels of R370, in ASCII. -/
def labelImg : List Byte := [0x54, 0x53, 0x39, 0x20, 0x69, 0x6D, 0x61, 0x67, 0x65]
def labelBlob : List Byte := [0x54, 0x53, 0x39, 0x20, 0x62, 0x6C, 0x6F, 0x62]

/-- K_img or K_blob of a party key and its identifier, the salt (R370). -/
def derive (id : Nat) (key label : List Byte) : List Byte := Config.hkdf (natLe 8 id ++ key) label 32

/-- The keys of a party: identifier and key, the current one first (R371). -/
def partyKeys (s : State) (p : Nat) : List (Nat × List Byte) :=
  match slotOfParty s p with
  | none => []
  | some i =>
    let k := keySlot s i
    (match k.pk with | some x => [(k.keyid, x)] | none => []) ++ (match k.rk with | some x => [(k.rkeyid, x)] | none => [])

/-- The party has a current key. -/
def hasKey (s : State) (p : Nat) : Bool :=
  match slotOfParty s p with
  | none => false
  | some i => (keySlot s i).pk.isSome

/-- Open a sealed object under the first of the party's keys that verifies. -/
def openAny (s : State) (p : Nat) (label iv aad ct tag : List Byte) : Option (List Byte) :=
  (partyKeys s p).findSome? fun k => Config.gcmOpen (derive k.1 k.2 label) iv aad ct tag

/-- The current key's identifier and K_blob or K_img of it. -/
def curKey (s : State) (p : Nat) (label : List Byte) : Option (Nat × List Byte) :=
  match slotOfParty s p with
  | none => none
  | some i =>
    let k := keySlot s i
    k.pk.map fun x => (k.keyid, derive k.keyid x label)

/-- The key an identifier names for a party (R371). -/
def keyById (s : State) (p id : Nat) (label : List Byte) : Option (List Byte) :=
  if id = 0 then none
  else ((partyKeys s p).find? fun k => k.1 = id).map fun k => derive k.1 k.2 label

end Sys2Proof.Machine
end

