-- ==== Sys2Proof/Machine/BgBase.lean ====
section
/-!
DEFINITION. Quota, lag and slack claims of the background activities (15_sirvi R430-R437).
-/
namespace Sys2Proof.Machine

def bgAct (s : State) (a : Nat) : BgAct := smGet {} s.bg a
def setBg (s : State) (a : Nat) (x : BgAct) : State := { s with bg := smSet {} s.bg a x }

/-- Stage of an activity (R434): 0 NORMAL, 1 URGENT, 2 TAKING, 3 STARVED. -/
def bgStage (s : State) (a : Nat) : Nat := rf s (bgPg + 0x100 + 0x10 * a) 30 2

/-- Work per pass W (R430). -/
def bgW : Nat → Nat
  | 0 => 1024
  | 1 => 800
  | _ => 1500000000

/-- Pass time in seconds (R430). -/
def bgPass (s : State) (a : Nat) : Nat := if a = 2 then rf s (bgPg + 0x144) 0 17 else 2

/-- T = ceil(pass time / P). -/
def bgT (s : State) (a : Nat) : Nat := cdiv (bgPass s a * 1000000000 * uNs) (perNow s)

/-- Q = ceil(W / T). -/
def bgQ (s : State) (a : Nat) : Nat := cdiv (bgW a) (bgT s a)

/-- Scheduled work at the current edge of the pass (R433). -/
def bgSched (s : State) (a : Nat) : Nat := min ((bgAct s a).n * bgQ s a) (bgW a)

/-- Work outstanding: for activities 0 and 1 in a cluster, for activity 2 in all. (DEDUCED: log entry 62.) -/
def bgOut (s : State) (a c : Nat) : Nat :=
  bgSched s a - (if a = 2 then (bgAct s a).done else smGet 0 (bgAct s a).doneC c)

/-- b of R56: HBM bytes per cycle and cluster of a partition, 50 or by its pseudo-channels in the ISOLATED map. -/
def hbmShare (s : State) (n : Nat) : Nat :=
  if rb s (hbmPg + 0x100) 0 then
    let g := rf s (hbmPg + 0x140 + 4 * n) 0 16
    let k := (List.range 16).foldl (fun a i => a + b2n (bitAt g i)) 0
    let c := (members s n).length
    if c = 0 then 0 else 50 * (16 * k) / c
  else 50

/-- The party of a partition is in steady mode. -/
def steadyOf (s : State) (n : Nat) : Bool := partParty s n ≠ 0 && rb s (ptyPg (partParty s n) + 0x218) 31

/-- The partition may give cycles to an activity (R435, R437). -/
def bgEligible (s : State) (n a : Nat) : Bool :=
  !steadyOf s n && (a < 2 || !rb s (hbmPg + 0x100) 0 || rf s (hbmPg + 0x140 + 4 * n) 0 16 ≠ 0)

/-- The cycles an activity's lagging work requires in a partition (R435): one per slot or unit outstanding, clusters side by
side; bytes over the share for HBM work, for activity 3 those of its marked rows. -/
def bgNeed (s : State) (n a : Nat) : Nat :=
  if a = 2 then (if hbmShare s n = 0 then 0 else cdiv (bgOut s 2 0 * 128) (hbmShare s n))
  else if a < 2 then (members s n).foldl (fun m c => max m (bgOut s a c)) 0
  else if hbmShare s n = 0 then 0 else cdiv ((bgAct s 3).rows.length * Config.rowBytes) (hbmShare s n)

end Sys2Proof.Machine
end

