-- ==== Sys2Proof/Machine/Hbm.lean ====
section
/-!
DEFINITION. HBM with its device ECC (09_memory R280, R287; 15_sirvi R432): counting and capture of uncorrectable words, rows marked
for sparing, writes that meet poison.
-/
namespace Sys2Proof.Machine

/-- Mark the row of an address for sparing (R432), once. (DEDUCED: log entry 41; DESIGN CHOICE: log entry 63.) -/
def markRow (s : State) (a : Nat) : State :=
  let x := bgAct s 3
  let r := Config.hbmRow a
  if x.rows.any fun q => q.1 = r then s else setBg s 3 { x with rows := x.rows ++ [(r, a, 0)] }

/-- An uncorrectable 64-bit word is met: counted, captured when no capture is held, its row marked (R280). -/
def hbmUeWord (s : State) (w : Nat) : State :=
  let pg := stkPg (stackOf s (8 * w))
  let s1 := bump s pg 0x104
  let s2 := if rb s1 (pg + 0x10C) 31 then s1 else wrN (wrN s1 (pg + 0x108) (8 * w)) (pg + 0x10C) (2 ^ 31 + 8 * w / 2 ^ 32)
  markRow (setEvt s2 pg 1) (8 * w)

/-- The poisoned words of [a, a + n). -/
def hbmBadWords (s : State) (a n : Nat) : List Nat :=
  s.hbmBad.filterMap fun p => if p.2 && decide (a < 8 * p.1 + 8) && decide (8 * p.1 < a + n) then some p.1 else none

/-- 24 h in time units. -/
def uDay : Nat := 86400 * 1000000000 * uNs

/-- A row gives a correctable error: its fourth within 24 h marks it (R432). -/
def rowCe (s : State) (a : Nat) : State :=
  let r := Config.hbmRow a
  let ts := ((smGet [] s.sirvi.ceRows r).filter fun t => decide (s.clk.tb < t + uDay)) ++ [s.clk.tb]
  let s1 : State := { s with sirvi := { s.sirvi with ceRows := smSet [] s.sirvi.ceRows r ts } }
  if 4 ≤ ts.length then markRow s1 a else s1

/-- A correctable error met in word `w` is corrected and counted (R280). (DESIGN CHOICE: log entry 63.) -/
def hbmCeWord (s : State) (w : Nat) : State :=
  rowCe (bump { s with hbmCe := smSet false s.hbmCe w false } (stkPg (stackOf s (8 * w))) 0x100) (8 * w)

/-- The correctable errors of [a, a + n) are met. -/
def hbmFix (s : State) (a n : Nat) : State :=
  each s (s.hbmCe.filterMap fun p => if p.2 && decide (a < 8 * p.1 + 8) && decide (8 * p.1 < a + n) then some p.1 else none) hbmCeWord

/-- [a, a + n) is read by the devices: correctable errors are corrected and counted, poisoned words counted and captured (R280). -/
def hbmEcc (s : State) (a n : Nat) : State := each (hbmFix s a n) (hbmBadWords s a n) hbmUeWord

/-- An internal error of the memory encryption engine on granule `g` (16_host_registers, memory encryption page): logged with its stack. -/
def meeErr (s : State) (g : Nat) : State :=
  setEvt (bump s meePg 0x104) meePg 0 (stackOf s (128 * g))

/-- A read of [a, a + n) meets its words in error (R280); an engine error shows on every access until its granule is replaced.
(DESIGN CHOICE: log entry 63.) -/
def hbmUe (s : State) (a n : Nat) : State :=
  each (hbmEcc s a n) (s.meeBad.filterMap fun p =>
    if p.2 && decide (a < 128 * p.1 + 128) && decide (128 * p.1 < a + n) then some p.1 else none) meeErr

/-- The granules at the ends of a transfer that writes [lo0, hi0) in part, when [a, a + n) of it falls in them: they are read first
(R280). -/
def hbmEnds (s : State) (a n lo0 hi0 : Nat) : State :=
  let meet (s : State) (x : Nat) : State :=
    if x % 128 ≠ 0 ∧ a < 128 * (x / 128) + 128 ∧ 128 * (x / 128) < a + n then hbmFix s (128 * (x / 128)) 128 else s
  meet (meet s lo0) hi0

/-- Write the part of `bs` (for address `a`) that falls in granule `g`, of a transfer that writes [lo0, hi0): one that replaces the whole
granule clears its poison; in part, over a poisoned granule, the write is not made (R280). The flag says whether it met poison. -/
def hbmWriteGran (s : State) (a : Nat) (bs : List Byte) (lo0 hi0 g : Nat) : State × Bool :=
  let lo := max a (128 * g)
  let hi := min (a + bs.length) (128 * g + 128)
  let piece := (bs.drop (lo - a)).take (hi - lo)
  if !hbmPoison s (128 * g) 128 then (hbmPut s lo piece, false)
  else if lo0 ≤ 128 * g ∧ 128 * g + 128 ≤ hi0 then
    (hbmPut { s with hbmBad := s.hbmBad.filter fun p => p.1 / 16 ≠ g, meeBad := smSet false s.meeBad g false } lo piece, false)
  else (hbmUe s (128 * g) 128, true)

/-- Write the bytes `bs` at `a` of a transfer that writes [lo0, hi0), granule by granule; the flag says whether some granule met
poison. -/
def hbmWriteIn (s : State) (a : Nat) (bs : List Byte) (lo0 hi0 : Nat) : State × Bool :=
  if bs = [] then (s, false)
  else if !hbmPoison s (128 * (a / 128)) (bs.length + 256) then (hbmPut (hbmEnds s a bs.length lo0 hi0) a bs, false)
  else
    (List.range ((a + bs.length - 1) / 128 - a / 128 + 1)).foldl (fun (r : State × Bool) k =>
      let q := hbmWriteGran r.1 a bs lo0 hi0 (a / 128 + k)
      (q.1, r.2 || q.2)) (hbmEnds s a bs.length lo0 hi0, false)

/-- A whole write to HBM. -/
def hbmWrite (s : State) (a : Nat) (bs : List Byte) : State × Bool := hbmWriteIn s a bs a (a + bs.length)

/-- A range cleared to zero (R275, R277, R381): its contents, and the poison of the words in it. (DEDUCED: log entry 7.) -/
def hbmClear (s : State) (a n : Nat) : State :=
  { s with hbm := s.hbm.filter fun p => !(decide (a ≤ p.1) && decide (p.1 < a + n)),
           hbmBad := s.hbmBad.filter fun p => !(decide (a ≤ 8 * p.1) && decide (8 * p.1 < a + n))
           hbmCe := s.hbmCe.filter fun p => !(decide (a ≤ 8 * p.1) && decide (8 * p.1 < a + n))
           meeBad := s.meeBad.filter fun p => !(decide (a ≤ 128 * p.1) && decide (128 * p.1 < a + n)) }

end Sys2Proof.Machine
end

