-- ==== Sys2Proof/Machine/GpArith.lean ====
section
/-!
DEFINITION. The arithmetic of the gate pipeline (06_vector_gate_fusion R172-R176; 07 R205).
-/
namespace Sys2Proof.Machine

/-- The parameter block's slot 2 (R172). -/
structure GpPar where
  sref : Nat
  xref : Nat
  cref : Nat
  fn   : Nat
  cmb  : Nat
  ofmt : Nat
  xfmt : Nat
  eout : Int

def gpPar (bs : List Byte) : GpPar :=
  let p := leNat (bs.take 14)
  { sref := fld p 0 24, xref := fld p 24 24, cref := fld p 48 24, fn := fld p 72 8, cmb := fld p 80 8, ofmt := fld p 88 8
    xfmt := fld p 96 8, eout := sx 8 (fld p 104 8) }

/-- Illegal parameters (R172). -/
def gpBadPar (p : GpPar) : Bool :=
  decide (5 < p.fn) || decide (7 < p.cmb) || decide (5 < p.ofmt) || decide (1 < p.xfmt) || (decide (3 ≤ p.cmb) && decide (3 ≤ p.ofmt))

/-- Which operands a mode reads (R172, R175). -/
def gpReadsS (p : GpPar) : Bool := decide (3 ≤ p.cmb)
def gpReadsX (p : GpPar) : Bool := p.cmb = 1 || p.cmb = 2 || decide (4 ≤ p.cmb)
def gpReadsC (p : GpPar) : Bool := decide (3 ≤ p.cmb) && decide (p.cmb ≤ 5)

/-- Bytes of an element by OFMT and by XFMT (R176). -/
def gpOutW : Nat → Nat
  | 0 => 4 | 1 => 2 | 2 => 8 | 3 => 2 | _ => 1
def gpXW (xfmt : Nat) : Nat := if xfmt = 0 then 4 else 2

/-- k of R177. -/
def gpRate (p : GpPar) : Nat :=
  let ws := if gpReadsS p then gpOutW p.ofmt else 0
  let wx := if gpReadsX p then gpXW p.xfmt else 0
  max 1 (cdiv (ws + wx + gpOutW p.ofmt) 4)

/-- A value and the flags that making it sets: OF for an infinity, NV for a NaN (R162). -/
def fl32 (v : Nat) (o n : Bool) : Nat × Bool × Bool := (v, o || isInf v, n || isNan v)

/-- Stages bias, rescale, function of an element (R173). -/
def gpFront (code e : Int) (bias scale fn : Nat) : Nat × Bool × Bool :=
  let v0 := decCode code e
  let v1 := fl32 (f32Add v0.1 bias) v0.2 false
  let v2 := fl32 (f32Mul v1.1 scale) v1.2.1 v1.2.2
  fl32 (fnEval fn v2.1) v2.2.1 v2.2.2

/-- g and t of the modes 3-7, whose update is g·s + t (R175). -/
def gpGate (cmb f x a b : Nat) : Nat × Nat × Bool × Bool :=
  match cmb with
  | 3 => let t := fl32 (f32Mul b f) false false; (a, t.1, t.2.1, t.2.2)
  | 4 => let t := fl32 (f32Mul b x) false false; (f, t.1, t.2.1, t.2.2)
  | 5 => let t := fl32 (f32Mul f x) false false; (a, t.1, t.2.1, t.2.2)
  | 6 => (f, x, false, false)
  | _ =>
    let u := fl32 (f32Sub 0x3F800000 f) false false
    let t := fl32 (f32Mul u.1 x) u.2.1 u.2.2
    (f, t.1, t.2.1, t.2.2)

/-- The combine stage: the pair (hi, lo) (lo is +0.0 outside FP32C) and flags (R175, R205). -/
def gpCombine (p : GpPar) (f sh sl x a b : Nat) : (Nat × Nat) × Bool × Bool :=
  if p.cmb = 0 then ((f, 0), false, false)
  else if p.cmb = 1 then let y := fl32 (f32Mul f x) false false; ((y.1, 0), y.2.1, y.2.2)
  else if p.cmb = 2 then let y := fl32 (f32Add f x) false false; ((y.1, 0), y.2.1, y.2.2)
  else
    let g := gpGate p.cmb f x a b
    let y := if p.ofmt = 2 then pairUpd g.1 sh sl g.2.1 else (f32Fma g.1 sh g.2.1, 0)
    (y, g.2.2.1 || isInf y.1, g.2.2.2 || isNan y.1)

/-- The stored bytes of an element (hi part, lo part) and flags (R176). -/
def gpStore (p : GpPar) (y : Nat × Nat) : (List Byte × List Byte) × Bool × Bool :=
  match p.ofmt with
  | 0 => ((natLe 4 y.1, []), false, false)
  | 1 => let q := bfEnc y.1; ((natLe 2 q.1, []), q.2.1, q.2.2)
  | 2 => ((natLe 4 y.1, natLe 4 y.2), false, false)
  | 3 => let q := codeOf 32767 p.eout y.1; ((natLe 2 (lowBits 16 q.1), []), q.2.1 || q.2.2.1, q.2.2.2)
  | 4 => let q := codeOf 127 p.eout y.1; ((natLe 1 (lowBits 8 q.1), []), q.2.2.1, q.2.2.2)
  | _ => let q := u8fOf y.1; ((natLe 1 q.1, []), false, q.2)

/-- Element i of an operand of FP32 or BF16 elements. -/
def gpElem (bs : List Byte) (w i : Nat) : Nat :=
  if w = 2 then bfDec (leNat ((bs.drop (2 * i)).take 2)) else leNat ((bs.drop (4 * i)).take 4)

/-- Element i of an FP32C operand (05 R144). -/
def gpPair (bs : List Byte) (i : Nat) : Nat × Nat :=
  let o := 256 * (i / 32) + 4 * (i % 32)
  (leNat ((bs.drop o).take 4), leNat ((bs.drop (o + 128)).take 4))

end Sys2Proof.Machine
end

