-- ==== Sys2Proof/Machine/Emit.lean ====
section
/-!
DEFINITION. Emission staging and stream events (11_ingest R341-R343): the records a flip or an event leaves in a partition's 4 MiB
staging area.
-/
namespace Sys2Proof.Machine

/-- Bytes a record takes in the staging area. (DEDUCED: log entry 40.) -/
def recSize (r : EmRec) : Nat := 48 + r.payload.length

/-- Bytes of records held for a partition, those of shadows among them (14_links_belay R409). -/
def stagedBytes (s : State) (n : Nat) : Nat :=
  (smGet [] s.emis n ++ (smGet {} s.bly n).held).foldl (fun a r => a + recSize r) 0

/-- Append a record; a full staging area loses it (R343). -/
def pushRaw (s : State) (n : Nat) (r : EmRec) : State :=
  if stagedBytes s n + recSize r ≤ 2 ^ 22 then
    { s with emis := smSet [] s.emis n (smGet [] s.emis n ++ [r]) }
  else
    setEvt (bump { s with emLost := smSet 0 s.emLost n (smGet 0 s.emLost n + 1) } (ingPg n) 0x214) (ingPg n) 4

/-- The "emission lost" event that comes first when space returns (R343). (DEDUCED: log entry 40.) -/
def lostRec (s : State) (k : Nat) : EmRec :=
  { typ := 2, tick := s.clk.num, nent := 9, payload := natLe 16 k }

/-- Stage a record of a partition. (DEDUCED: log entry 40.) -/
def pushRec (s : State) (n : Nat) (r : EmRec) : State :=
  let k := smGet 0 s.emLost n
  if k ≠ 0 ∧ stagedBytes s n + 64 + recSize r ≤ 2 ^ 22 then
    pushRaw (pushRaw { s with emLost := smSet 0 s.emLost n 0 } n (lostRec s k)) n r
  else pushRaw s n r

/-- A 16-bit per-stream counter holds at 0xFFFF (R10). -/
def sat16 (n : Nat) : Nat := min n 0xFFFF

/-- A stream's four counters in record order: late, concealed, dropped, faulted (R342). -/
def strmCnts (x : Strm) : List Nat := [x.cLate, x.cConc, x.cDrop, x.cFault]

/-- Release a stream event (R342): code, cause and detail, for a chunk's tick and timestamp. -/
def strmEvent (s : State) (h code cause detail tick ts : Nat) : State :=
  let x := strm s h
  pushRec s x.part { typ := 2, handle := h, job := x.job, tick := tick, ts := ts, seq := x.seq, cnts := strmCnts x,
                     nent := code + 256 * cause, payload := natLe 16 detail, seqDue := true }

/-- A "faulted" stream event, with the stream marked FAULTED_TICK and its counter advanced (R46, R65, R266). -/
def faultStrm (s : State) (h : Nat) (tick ts : Nat) : State :=
  strmEvent (modStrm s h fun x => { x with ftickNow := true, cFault := sat16 (x.cFault + 1) }) h 4 0 0 tick ts

end Sys2Proof.Machine
end

