-- ==== Sys2Proof/Machine/IngBase.lean ====
section
/-!
DEFINITION. What the ingest path shares with the streams: ring indices and the retiring of entries (11_ingest R312, R314), the
feature-store entries of chunks (R337), and profile fields (R344).
-/
namespace Sys2Proof.Machine

def ing (s : State) (n : Nat) : Ing := smGet {} s.ings n
def modIng (s : State) (n : Nat) (f : Ing → Ing) : State := { s with ings := smSet {} s.ings n (f (ing s n)) }

/-- a − b of two 32-bit indices or sequence numbers, read as a signed value (R321). -/
def sdiff (a b : Nat) : Int := sx 32 (a % 2 ^ 32 + 2 ^ 32 - b % 2 ^ 32)

/-! ## Entries (R314) -/

/-- ING_CI after the longest run of retired entries that follows it, and the retired entries beyond. -/
def ciRun : Nat → Nat → List Nat → Nat × List Nat
  | 0, ci, done => (ci, done)
  | fuel + 1, ci, done => if done.contains ci then ciRun fuel ((ci + 1) % 2 ^ 32) (done.filter (· ≠ ci)) else (ci, done)

/-- An ingest entry retires. -/
def retireIdx (s : State) (n i : Nat) : State :=
  let d := i :: (ing s n).done
  let r := ciRun d.length (rdN s (ingPg n + 0x110)) d
  wrN (modIng s n fun x => { x with done := r.2 }) (ingPg n + 0x110) r.1

/-! ## Chunks -/

/-- The slots of a chunk's feature-store entry become EMPTY and free (R337). -/
def freeStore (s : State) (c : Chunk) : State :=
  match c.fs with
  | none => s
  | some k => each s (List.range c.fsN) fun s i => modSlot s (k / 1024) (k % 1024 + i) fun x => { x with full := false }

/-- A chunk of partition `n` retires: its ring entries and its store entry go (R314, R337). -/
def retireChunk (s : State) (n : Nat) (c : Chunk) : State := each (freeStore s c) c.idx fun s i => retireIdx s n i

/-- A chunk as it was before the front-end processed it (R335, R339). -/
def unprocess (c : Chunk) : Chunk := { c with ready := false, fs := none, fsN := 0, ctx := {} }

/-- The chunks a stream has: waiting ones, and the one in a lane. -/
def strmChunks (s : State) (h : Nat) : List Chunk :=
  (strm s h).queue ++ s.lanes.filterMap fun p => p.2.bind fun l => if l.handle = h then some l.chunk else none

/-- Every chunk of a stream retires, and every record that its sources hold (R314). -/
def retireAll (s : State) (h : Nat) : State :=
  let n := (strm s h).part
  let recs := (strm s h).inp.srcs.flatMap fun q => q.recs
  let s1 := modStrm s h fun x => { x with queue := [], inp := { x.inp with srcs := x.inp.srcs.map fun q => { q with recs := [] } } }
  each (each s1 (strmChunks s h) fun s c => retireChunk s n c) (recs.flatMap fun a => a.idx) fun s i => retireIdx s n i

/-! ## Profiles (R344) -/

/-- A little-endian field of a byte list. -/
def pf (p : List Byte) (off n : Nat) : Nat := leNat ((p.drop off).take n)

/-- Profile `k` of a partition, 64 bytes. -/
def prof (s : State) (n k : Nat) : List Byte := padTo 64 0 (smGet [] (ing s n).profs k)

/-- The profile of a stream. -/
def profOf (s : State) (h : Nat) : List Byte := prof s (strm s h).part (strm s h).profile

def pfEn (p : List Byte) : Bool := bitAt (pf p 0 1) 0
def pfAuto (p : List Byte) : Bool := bitAt (pf p 0 1) 1
def pfPass (p : List Byte) : Bool := bitAt (pf p 0 1) 2
def pfCtx (p : List Byte) : Bool := bitAt (pf p 0 1) 3
def pfGroup (p : List Byte) : Bool := bitAt (pf p 0 1) 4
def pfRun (p : List Byte) : Bool := bitAt (pf p 0 1) 5
def pfHam (p : List Byte) : Bool := bitAt (pf p 0 1) 6
def pfFft (p : List Byte) : Bool := bitAt (pf p 0 1) 7
def pfCodec (p : List Byte) : Nat := pf p 1 1
def pfChans (p : List Byte) : Nat := pf p 2 1
def pfRateC (p : List Byte) : Nat := pf p 3 1
def pfBands (p : List Byte) : Nat := pf p 5 1
def pfOut (p : List Byte) : Nat := pf p 6 1
def pfJob (p : List Byte) : Nat := fld (pf p 7 1) 0 4
def pfTs1 (p : List Byte) : Bool := bitAt (pf p 7 1) 4
def pfTol (p : List Byte) : Nat := pf p 8 2
def pfGap (p : List Byte) : Nat := pf p 10 1
def pfLam (p : List Byte) : Nat := pf p 11 1
def pfAlpha (p : List Byte) : Nat := pf p 12 4
def pfInH (p : List Byte) : Nat := pf p 20 2
def pfInRow (p : List Byte) : Nat := pf p 22 1
def pfCtxN (p : List Byte) : Nat := pf p 23 1
def pfEmH (p : List Byte) : Nat := pf p 24 2
def pfEmRow (p : List Byte) : Nat := pf p 26 1
def pfDelay (p : List Byte) : Nat := pf p 27 1
def pfCtxH (p : List Byte) : Nat := pf p 28 2
def pfCtxOfs (p : List Byte) : Nat := pf p 30 1

/-- Samples per second of a rate code (R316). -/
def rateHz : Nat → Nat
  | 0 => 8000 | 1 => 16000 | 2 => 24000 | 3 => 32000 | 4 => 44100 | 5 => 48000 | _ => 0

/-- The model rate (R344). -/
def mrateHz (p : List Byte) : Nat := if pf p 4 1 = 0 then 16000 else 24000

/-- P in force in µs: 2,500 · 2^PERIOD (R15). -/
def perUs (s : State) : Nat := 2500 * 2 ^ s.clk.cfg.period

/-- P in ns. -/
def perNs (s : State) : Nat := 1000 * perUs s

/-- Samples of a rate in P, and whether they are a whole number (R318). -/
def chunkLen (s : State) (hz : Nat) : Nat := perUs s * hz / 1000000
def chunkWhole (s : State) (hz : Nat) : Bool := perUs s * hz % 1000000 = 0

end Sys2Proof.Machine
end

