-- ==== Sys2Proof/Machine/StreamBase.lean ====
section
/-!
DEFINITION. Places, lanes and the storage of carried state (07_streams_state R190-R199).
-/
namespace Sys2Proof.Machine

/-! ## Handle entry fields (09_memory R267) -/

def heValid (e : DWord) : Bool := bitAt e.toNat 63
def heParty (e : DWord) : Nat := fld e.toNat 58 5
def heCoreScope (e : DWord) : Bool := bitAt e.toNat 57
def heCore (e : DWord) : Nat := fld e.toNat 53 4
def heCluster (e : DWord) : Nat := fld e.toNat 45 8
def heFirst (e : DWord) : Nat := fld e.toNat 35 10
def heCount (e : DWord) : Nat := fld e.toNat 24 11
def heRow (e : DWord) : Nat := fld e.toNat 14 10 + 1
def heState (e : DWord) : Bool := bitAt e.toNat 13
def heNew (e : DWord) : Bool := bitAt e.toNat 12
def heAttn (e : DWord) : Bool := bitAt e.toNat 11
def heRdonly (e : DWord) : Bool := bitAt e.toNat 10

/-! ## Lanes and places of a job -/

/-- The slice of a job's image at a cluster. -/
def sliceOf (img : JobImg) (c : Nat) : Option Nat := img.clusters.findIdx? (· = c)

/-- g_c: lane groups of a job in a cluster (R195). -/
def laneGroups (img : JobImg) (c : Nat) : Nat :=
  match sliceOf img c with
  | some i => nth 0 img.g i
  | none => 0

/-- L_c = 32·g_c. -/
def laneCount (img : JobImg) (c : Nat) : Nat := 32 * laneGroups img c

/-- The handle image of a job in a cluster (R269). -/
def handleImg (img : JobImg) (c : Nat) : List DWord :=
  match sliceOf img c with
  | some i => nth [] img.htab i
  | none => []

/-- The state handles of a job in a cluster, with their numbers, ascending. (DEDUCED: log entry 27.) -/
def stateHandles (img : JobImg) (c : Nat) : List (Nat × DWord) :=
  (handleImg img c).zipIdx.filterMap fun p => if heValid p.1 && heState p.1 then some (p.2, p.1) else none

/-- The state storage of a job in a cluster: one state handle for each FIRST, the lowest-numbered, so that the two views of one
range count once (R197, R207). (DEDUCED: log entry 27.) -/
def stateRanges (img : JobImg) (c : Nat) : List DWord :=
  (stateHandles img c).foldl (fun l p => if l.any (fun e => heFirst e = heFirst p.2) then l else l ++ [p.2]) []

/-- P_c: places of a job in a cluster (R196). -/
def placeCount (img : JobImg) (c : Nat) : Nat :=
  match stateHandles img c with
  | [] => laneCount img c
  | (_, e) :: rest => rest.foldl (fun m p => min m (heCount p.2 / (2 * heRow p.2))) (heCount e / (2 * heRow e))

/-- The slots of side `side` of place `p` of a state handle (R196). -/
def placeRow (e : DWord) (p side : Nat) : List Nat :=
  (List.range (heRow e)).map fun k => heFirst e + (2 * p + side) * heRow e + k

/-- The (core, slot) pairs of one side of a stream's place, in blob order: handle, core, row slot (R207). -/
def sideSlots (s : State) (x : Strm) (side : Nat) : List (Nat × Nat) :=
  match x.place with
  | none => []
  | some p =>
    (stateRanges (job s x.part x.job).img x.home).flatMap fun e =>
      (List.range 16).flatMap fun i => (placeRow e p side).map fun sl => (16 * x.home + i, sl)

/-- Fill slots with zero and tag them. -/
def zeroSlots (s : State) (l : List (Nat × Nat)) (full : Bool) : State :=
  each s l fun s q => setSlot s q.1 q.2 { data := 0, full := full }

/-- Set the tags of slots. -/
def tagSlots (s : State) (l : List (Nat × Nat)) (full : Bool) : State :=
  each s l fun s q => modSlot s q.1 q.2 fun x => { x with full := full, open_ := false }

/-- The places in use in a cluster by streams of a job. -/
def usedPlaces (s : State) (n j c : Nat) : List Nat :=
  s.strms.filterMap fun p => if p.2.part = n ∧ p.2.job = j ∧ p.2.home = c then p.2.place else none

/-- The lowest-numbered free place of a job in a cluster (R200). -/
def freePlace (s : State) (n j c : Nat) : Option Nat :=
  let used := usedPlaces s n j c
  (List.range (placeCount (job s n j).img c)).find? fun p => !used.contains p

/-- A stream takes a place (R199): its committed side is zero and FULL, SIDE is 0. -/
def takePlace (s : State) (h p : Nat) : State :=
  let s1 := modStrm s h fun x => { x with place := some p, side := 0 }
  zeroSlots s1 (sideSlots s1 (strm s1 h) 0) true

/-- Both sides of a stream's place become zero and EMPTY, and the place is free (R193, R381). -/
def freePlaceOf (s : State) (h : Nat) : State :=
  let x := strm s h
  let s1 := zeroSlots (zeroSlots s (sideSlots s x 0) false) (sideSlots s x 1) false
  modStrm s1 h fun x => { x with place := none }

/-- SEQ changes, and LAST_SEQ with it (R191). -/
def setSeq (s : State) (h q : Nat) : State := modStrm s h fun x => { x with seq := q, lastSeq := q }

/-! ## Freeing -/

/-- A CLOSED stream with no transfer outstanding becomes FREE, its place zeroed (R193); LAST_SEQ stays (R191). -/
def freeStrm (s : State) (h : Nat) : State :=
  let s1 := freePlaceOf (retireAll s h) h
  setStrm s1 h { lastSeq := (strm s h).lastSeq }

/-- The handles of a partition's streams, ascending. -/
def strmsOf (s : State) (n : Nat) : List Nat :=
  s.strms.filterMap fun p => if p.2.part = n ∧ p.2.st ≠ .free then some p.1 else none

/-! ## Lanes -/

/-- The (core, slot) pairs of the new side of a lane's stream (R197). -/
def newSlots (s : State) (l : Lane) : List (Nat × Nat) :=
  sideSlots s (strm s l.handle) (1 - (strm s l.handle).side)

/-- The chunk of a lane that goes unflipped is at the head of its stream's queue again (01_tick R34, 02 R65); a frozen concealed
chunk has retired at the binding (11_ingest R325). -/
def giveBack (s : State) (l : Lane) : State :=
  if l.noFlip || (strm s l.handle).st = .free || (strm s l.handle).st = .closed then s
  else modStrm s l.handle fun x => { x with queue := l.chunk :: x.queue }

/-- Every lane of a partition is gone, none of them flipped. -/
def clearLanes (s : State) (n : Nat) : State :=
  let s1 := each s (partLanes s n) fun s p => giveBack s p.2
  { s1 with lanes := s1.lanes.filter fun p => lanePart p.1 ≠ n }

/-- The slots of a lane's row of a job's handle: FIRST + ⌊ℓ/16⌋·row onwards, on core ℓ mod 16 (R338). -/
def laneRow (img : JobImg) (c h row l : Nat) : List (Nat × Nat) :=
  let e := nth 0 (handleImg img c) h
  if heValid e then
    ((List.range row).map fun i => (16 * heCluster e + l % 16, heFirst e + l / 16 * row + i)).filter fun q => decide (q.2 < heFirst e + heCount e)
  else []

/-- The emission row of a lane. -/
def emRow (s : State) (key : Nat) (l : Lane) : List (Nat × Nat) :=
  let p := profOf s l.handle
  if pfEn p then laneRow (job s (lanePart key) (laneJob key)).img (laneClus key) (pfEmH p) (pfEmRow p) (laneIdx key) else []

/-- The slots that a job's lanes write: the new sides and the emission rows (R29). -/
def laneSlots (s : State) (n j : Nat) : List (Nat × Nat) :=
  ((partLanes s n).filter fun p => laneJob p.1 = j).flatMap fun p => newSlots s p.2 ++ emRow s p.1 p.2

end Sys2Proof.Machine
end

