-- ==== Sys2Proof/Machine/Operands.lean ====
section
/-!
DEFINITION. Operand forms: an operand reference resolves through the handle table and the core's base registers to scratchpad
slots (03 R81, 07 R197-R198, 09 R267-R268), and descriptor addresses (09 R281, R284).
-/
namespace Sys2Proof.Machine

/-- One slot that an operand names: a core's slot, or the padding of an unbound lane (R197). -/
inductive Ref where
  | slot (core i : Nat)
  | pad
  deriving DecidableEq, Repr

/-- Who makes an access: a static unit of one core, or a local memory op, NoC copy or link op, which may name any core of the
partition (R268). -/
inductive Agent where
  | static
  | free
  deriving DecidableEq, Repr

/-- The partition and job a cluster works for. -/
def curPart (s : State) (c : Nat) : Nat := (clu s c).part
def curJob (s : State) (c : Nat) : Nat :=
  match (part s (curPart s c)).pitch with
  | some p => p.job
  | none => 0

/-- BASEb of core `i` of cluster `c` for a job (R81). -/
def baseReg (img : JobImg) (c i b : Nat) : Nat :=
  match sliceOf img c with
  | some sl => nth 0 (nth [] img.bases sl) (8 * i + b)
  | none => 0

/-- The fields of an operand reference. -/
def refHandle (r : Nat) : Nat := fld r 14 10
def refBase (r : Nat) : Nat := fld r 11 3
def refOfs (r : Nat) : Nat := fld r 1 10

/-- Slot `idx` of a buffer that is not a state handle, for core `i` of cluster `c`; none is refused with cause 4 (R268). -/
def plainSlot (c i : Nat) (e : DWord) (idx : Nat) (u : Agent) : Option Ref :=
  let co := if heCoreScope e then heCore e else i
  let own := heCluster e = c && co = i
  if idx < heCount e && (u = .free || own) then some (.slot (16 * heCluster e + co) (heFirst e + idx)) else none

/-- Index `idx` of a state handle, for core `i` of cluster `c` (R197). -/
def stateSlot (s : State) (n j c i : Nat) (e : DWord) (idx : Nat) : Option Ref :=
  let r := heRow e
  if idx < laneCount (job s n j).img c * r then
    match lane s (laneKey n j c (idx / r)) with
    | none => some .pad
    | some l =>
      let x := strm s l.handle
      match x.place with
      | none => some .pad
      | some p =>
        let side := if heNew e then 1 - x.side else x.side
        some (.slot (16 * x.home + i) (heFirst e + (2 * p + side) * r + idx % r))
  else none

/-- One slot of an operand: entry `e` at buffer index `idx` (R81, R197, R198, R268). -/
def entrySlot (s : State) (n j c i : Nat) (e : DWord) (idx : Nat) (write : Bool) (u : Agent) : Option Ref :=
  if !heValid e || heParty e ≠ partParty s n || !isMember s n (heCluster e) then none
  else if write && heRdonly e then none
  else if heState e then
    (if write && !heNew e then none else stateSlot s n j c i e idx)
  else plainSlot c i e idx u

/-- All of a list, or none. -/
def allSome {α : Type} : List (Option α) → Option (List α)
  | [] => some []
  | none :: _ => none
  | some x :: r => (allSome r).map (x :: ·)

/-- The `cnt` consecutive slots of an operand on core `i` of cluster `c`, every slot checked before any is accessed (R81); none
raises a job fault with cause 4. -/
def opSlots (s : State) (c i ref cnt : Nat) (write : Bool) (u : Agent := .static) : Option (List Ref) :=
  let n := curPart s c
  let j := curJob s c
  let e := hentry s c (refHandle ref)
  let b := baseReg (job s n j).img c i (refBase ref) + refOfs ref
  allSome ((List.range cnt).map fun k => entrySlot s n j c i e (b + k) write u)

/-- The data of a slot; a padding lane reads zero (R197). -/
def refData (s : State) : Ref → SlotBits
  | .slot core i => (slotAt s core i).data
  | .pad => 0

/-- The slot is FULL for a reader; a padding lane always is (R197). -/
def refFull (s : State) : Ref → Bool
  | .slot core i => (slotAt s core i).full
  | .pad => true

/-- The slot is EMPTY for a writer; a padding lane's write is discarded. -/
def refEmpty (s : State) : Ref → Bool
  | .slot core i => !(slotAt s core i).full
  | .pad => true

/-- Byte `k` of a slot. -/
def slotByte (d : SlotBits) (k : Nat) : Byte := d.extractLsb' (8 * k) 8

/-- Bytes `off` to `off + n - 1` of a slot, the lowest first. -/
def slotBytes (d : SlotBits) (off n : Nat) : List Byte := (List.range n).map fun k => slotByte d (off + k)

/-- Slot data with bytes from `off` replaced. -/
def slotPut (d : SlotBits) (off : Nat) (bs : List Byte) : SlotBits :=
  BitVec.ofNat 2048 (setFld d.toNat (8 * off) (8 * bs.length) (leNat bs))

/-- The poison left after bytes from `off` are written: words replaced whole are clean (R266). -/
def poisonAfter (p : BitVec 32) (off n : Nat) : BitVec 32 :=
  BitVec.ofNat 32 <| (List.range 32).foldl (fun (a : Nat) w =>
    if off ≤ 8 * w ∧ 8 * w + 8 ≤ off + n then setFld a w 1 0 else a) p.toNat

/-- Bits `l` cleared. -/
def clearBits {w : Nat} (x : BitVec w) (l : List Nat) : BitVec w := BitVec.ofNat w (l.foldl (fun (a : Nat) i => setFld a i 1 0) x.toNat)

/-- The words of a slot that a write touches only in part and that are poisoned (R265, R266). -/
def partialBad (p : BitVec 32) (off n : Nat) : List Nat :=
  (List.range 32).filter fun w =>
    p.toNat.testBit w && decide (off < 8 * w + 8) && decide (8 * w < off + n) && !(decide (off ≤ 8 * w) && decide (8 * w + 8 ≤ off + n))

/-- Words of a slot, by number, that a range of bytes touches. -/
def wordsOf (off n : Nat) : List Nat := (List.range 32).filter fun w => decide (off < 8 * w + 8) && decide (8 * w < off + n)

/-- Write bytes into a slot, leaving words whose partial write meets poison as they are (R265, R266); a word written holds no error. -/
def slotWrite (x : Slot) (off : Nat) (bs : List Byte) : Slot :=
  let bad := partialBad x.poison off bs.length
  let d := bs.zipIdx.foldl (fun d p => if bad.contains ((off + p.2) / 8) then d else slotPut d (off + p.2) [p.1]) x.data
  { x with
    data := if bad = [] then slotPut x.data off bs else d
    poison := poisonAfter x.poison off bs.length
    ce := clearBits x.ce (wordsOf off bs.length) }

/-- Count and capture uncorrectable words of a slot (R266): SP_UE_CNT once for each, SP_UE_ADDR the first when none is held. (DESIGN CHOICE: log entry 63.) -/
def countUe (s : State) (core i : Nat) (words : List Nat) : State :=
  match words with
  | [] => s
  | w :: _ =>
    let pg := clPg (core / 16)
    let s1 := bumpBy s pg 0x184 words.length
    if rb s1 (pg + 0x194) 31 then s1
    else wrN s1 (pg + 0x194) (2 ^ 31 + (core % 16) * 2 ^ 16 + w * 2 ^ 10 + i)

/-- The poisoned words of a slot. -/
def badWords (x : Slot) : List Nat := (List.range 32).filter fun w => x.poison.toNat.testBit w

/-- What a read of a slot delivers: zero for a poisoned word (R266). -/
def cleanBits (x : Slot) : SlotBits :=
  if x.poison = 0 then x.data else BitVec.ofNat 2048 ((badWords x).foldl (fun (a : Nat) w => setFld a (64 * w) 64 0) x.data.toNat)

/-- The words of a slot with a single-bit error. -/
def ceWords (x : Slot) : List Nat := (List.range 32).filter fun w => x.ce.toNat.testBit w

/-- Single-bit errors among `words` of a slot are corrected: each is written back and counted (R265). (DESIGN CHOICE: log entry 63.) -/
def correct (s : State) (core i : Nat) (words : List Nat) : State :=
  let ws := (ceWords (slotAt s core i)).filter words.contains
  if ws = [] then s
  else bumpBy (modSlot s core i fun x => { x with ce := clearBits x.ce ws }) (clPg (core / 16)) 0x180 ws.length

/-- A read of `n` bytes of a slot from `off` on: single-bit errors are corrected and counted, uncorrectable words counted and captured
(R265, R266). -/
def readSlot (s : State) (core i off n : Nat) : State :=
  countUe (correct s core i (wordsOf off n)) core i ((badWords (slotAt s core i)).filter (wordsOf off n).contains)

/-- One read of a static unit: the slot, and the bytes of it. -/
structure Rd where
  r   : Ref
  off : Nat := 0
  len : Nat := 256
  deriving DecidableEq, Repr

/-- The poisoned words that a read meets (R266). -/
def rdBad (s : State) (x : Rd) : List Nat :=
  match x.r with
  | .slot core i => (badWords (slotAt s core i)).filter (wordsOf x.off x.len).contains
  | .pad => []

/-- Reads are made: what they meet is corrected, counted and captured (R265, R266), and their bytes count as activity (R69). -/
def readAll (s : State) (l : List Rd) : State :=
  each s l fun s x => match x.r with
    | .slot core i => countBytes (readSlot s core i x.off x.len) (clu s (core / 16)).part x.len
    | .pad => s

/-- Reads of whole slots, as the asynchronous units make them. -/
def readSlots (s : State) (l : List (Nat × Nat)) : State := each s l fun s q => readSlot s q.1 q.2 0 256

/-! ## Descriptors (R281) -/

def dOp (d : BitVec 512) : Nat := fld d.toNat 0 8
def dFlags (d : BitVec 512) : Nat := fld d.toNat 8 8
def dSkind (d : BitVec 512) : Nat := fld d.toNat 16 8
def dDkind (d : BitVec 512) : Nat := fld d.toNat 24 8
def dLen (d : BitVec 512) : Nat := fld d.toNat 32 32
def dSaddr (d : BitVec 512) : Nat := fld d.toNat 64 64
def dDaddr (d : BitVec 512) : Nat := fld d.toNat 128 64

/-- The scratchpad slots (with first byte and byte count in each) of `len` bytes at a kind-0 address; none is refused (R268). -/
def descSlots (s : State) (n c : Nat) (a len : Nat) (write : Bool) : Option (List (Nat × Nat × Nat × Nat)) :=
  let e := hentry s c (fld a 18 10)
  let off := fld a 0 18
  let co := if heCoreScope e then heCore e else fld a 28 4
  if !heValid e || heParty e ≠ partParty s n || !isMember s n (heCluster e) || heState e || (write && heRdonly e)
    || decide (256 * heCount e < off + len) then none
  else
    some ((List.range ((off + len - 1) / 256 - off / 256 + 1)).map fun k =>
      let q := off / 256 + k
      let b := max off (256 * q)
      (16 * heCluster e + co, heFirst e + q, b - 256 * q, min (off + len) (256 * q + 256) - b))

/-- The slot piece that byte `pos` of a transfer falls in, when it moves through scratchpad slots: core, slot, byte in the slot, and the bytes
left of the piece. -/
def pieceAt : Nat → List (Nat × Nat × Nat × Nat) → Option (Nat × Nat × Nat × Nat)
  | _, [] => none
  | pos, q :: r => if pos < q.2.2.2 then some (q.1, q.2.1, q.2.2.1 + pos, q.2.2.2 - pos) else pieceAt (pos - q.2.2.2) r

/-- A static write of the issue cycle its cluster stands at is due to a slot: an asynchronous write is held behind it (R257). -/
def staticDue (s : State) (core i : Nat) : Bool :=
  let x := clu s (core / 16)
  x.effs.any fun p => decide (p.1 ≤ x.icyc) && match p.2 with
    | .slot k j _ _ _ chk => chk && k = core && j = i
    | _ => false

/-- A slot can take an asynchronous write (R255, R257). -/
def asyncEmpty (s : State) (core i : Nat) : Bool := !(slotAt s core i).full && !staticDue s core i

/-- A started transfer waits on the tag of the slot it has come to (R255, R259). -/
def descWaits (s : State) (d : Desc) : Bool :=
  (match pieceAt d.moved d.src with | some q => !(slotAt s q.1 q.2.1).full | none => false) ||
    (match pieceAt d.moved d.dst with | some q => !d.skip.contains (q.1, q.2.1) && !asyncEmpty s q.1 q.2.1 | none => false)

/-- Span coordinate and dimensions (R389). -/
def myX (s : State) : Nat := rf s (spanPg + 0x100) 0 4
def myY (s : State) : Nat := rf s (spanPg + 0x100) 4 4
def myCoord (s : State) : Nat := rf s (spanPg + 0x100) 0 8
def dimX (s : State) : Nat := rf s (spanPg + 0x104) 0 4 + 1
def dimY (s : State) : Nat := rf s (spanPg + 0x104) 4 4 + 1

/-! ## Collectives (14_links_belay R401) -/

def cKind (o : NocOp) : Nat := fld o.bits 6 2
def cFmt (o : NocOp) : Nat := fld o.bits 5 1

/-- Steps of a collective over n devices. -/
def cSteps (o : NocOp) (n : Nat) : Nat := if cKind o = 0 then 2 * (n - 1) else n - 1

/-- Step `t` belongs to the reduce-scatter. -/
def cReduces (o : NocOp) (n t : Nat) : Bool := cKind o = 2 || (cKind o = 0 && decide (t < n - 1))

/-- The chunk that device x sends at step `t`; it receives the one before it in the ring. -/
def cChunk (o : NocOp) (n x t : Nat) : Nat :=
  if cReduces o n t then (x + 2 * n - 1 - t) % n
  else
    let u := if cKind o = 0 then t - (n - 1) else t
    (x + n - u % n) % n

def chunkSlots (l : List (Nat × Nat)) (m j : Nat) : List (Nat × Nat) := (l.drop (j * m)).take m

/-- The chunk that device x receives at step `t`. -/
def cComes (o : NocOp) (n x t : Nat) : Nat := (cChunk o n x t + n - 1) % n

/-- Slots of a chunk. -/
def cSlots (o : NocOp) (n : Nat) : Nat := if cKind o = 1 then o.src.length else o.src.length / n

/-- The own chunk goes to the output with the message of this step. -/
def cOwn (o : NocOp) (n : Nat) : Bool :=
  !cReduces o n o.coll.step && (o.coll.step = 0 || (cKind o = 0 && o.coll.step = n - 1))

/-- The input slots that a collective's next act reads and the output slots that it writes: sending its message, or taking one in. -/
def collNext (o : NocOp) (n x : Nat) : List (Nat × Nat) × List (Nat × Nat) :=
  let t := o.coll.step
  let m := cSlots o n
  if n ≤ 1 then (o.src, o.dst)
  else if !o.coll.sent then
    (if t ≠ 0 then [] else if cKind o = 1 then o.src else chunkSlots o.src m (cChunk o n x t), if cOwn o n then chunkSlots o.dst m x else [])
  else if cReduces o n t then (chunkSlots o.src m (cComes o n x t), if t = n - 2 ∧ cKind o = 2 then o.dst else [])
  else ([], chunkSlots o.dst m (cComes o n x t))

/-- The step and chunk of the message that a collective waits for. -/
def collKey (o : NocOp) (n x : Nat) : Nat := o.coll.step % 256 + 256 * (cComes o n x o.coll.step % 256)

/-- The received messages of a core's collective that it waits for. -/
def collHere (s : State) (o : NocOp) : Bool :=
  let core := (o.src.headD (0, 0)).1
  ((smGet {} s.bly (clu s (core / 16)).part).colls).any fun q => q.1 = core && q.2.1 = o.job && q.2.2.1 = collKey o (dimX s) (myX s)

/-- An operation's next act meets a tag that makes it wait: one slot of a copy or an LK.SEND, a chunk of a collective, whose message has
come where it takes one in (R255, R272). -/
def nocWaits (s : State) (o : NocOp) : Bool :=
  let l := if o.kind = .coll then collNext o (dimX s) (myX s) else ((o.src.drop o.moved).take 1, (o.dst.drop o.moved).take 1)
  if o.kind = .coll && o.coll.sent && !collHere s o then false
  else (l.1.any fun q => !(slotAt s q.1 q.2).full) || l.2.any fun q => !o.skip.contains q && !asyncEmpty s q.1 q.2

/-- The cores of an expander's destination that receive the image (10_weight_streams R299). -/
def dstCores (e : DWord) (bcast : Bool) (core : Nat) : List Nat :=
  if heCoreScope e then [16 * heCluster e + heCore e]
  else if bcast then (List.range 16).map fun i => 16 * heCluster e + i
  else [16 * heCluster e + core]

end Sys2Proof.Machine
end

