-- ==== Sys2Proof/Machine/Attention.lean ====
section
/-!
DEFINITION. The epilogue of 04_matrix_engine R124-R127, and the arithmetic of ME.ATTN (08_attention R230-R246): descriptor and record
fields, expansion of a block, the running softmax, its finish, and the merge of two partial states.
-/
namespace Sys2Proof.Machine

/-! ## The epilogue (04 R124, R125, R127) -/

/-- rshift_rne of R125. -/
def rshiftRne (v : Int) (k : Int) : Int :=
  if k ≤ 0 then v * 2 ^ (-k).toNat
  else
    let d : Int := 2 ^ k.toNat
    let q := v / d
    let r := v % d
    if 2 * r > d ∨ (2 * r = d ∧ q % 2 = 1) then q + 1 else q

/-- A parameter block's fields (R124). -/
structure EpPar where
  mult  : Int
  shift : Int
  eb    : Int
  xofs  : Int
  efix  : Int

def epPar (bs : List Byte) : EpPar :=
  let p := leNat ((bs.drop 256).take 8)
  { mult := sx 24 p, shift := min (fld p 32 8) 47, eb := sx 8 (fld p 40 8), xofs := sx 8 (fld p 48 8), efix := sx 8 (fld p 56 8) }

/-- The epilogue of an integer accumulator (R125): code and output exponent. -/
def epilogue (out : Nat) (acc : Nat) (e : Int) (bias : Nat) (p : EpPar) : Int × Int :=
  let d := e - p.eb
  let b0 := if 0 ≤ d then rshiftRne (sx 32 bias) d else sx 32 bias * 2 ^ (-d).toNat
  let b := clampI (-(2 ^ 40)) (2 ^ 40) b0
  let y := sx 32 acc + b
  let q := y * p.mult
  if out = 0 then (clampI (-32767) 32767 (rshiftRne q p.shift), clampI (-128) 127 (e + p.xofs))
  else (clampI (-127) 127 (rshiftRne q (p.shift - (e + p.xofs - p.efix))), p.efix)

/-! ## The attention descriptor (R230) -/

/-- A little-endian field of `n` bytes at byte `o` of a slot. -/
def bf (bs : List Byte) (o n : Nat) : Nat := leNat ((bs.drop o).take n)

def adRb (d : List Byte) : Nat := bf d 3 1
def adW (d : List Byte) : Nat := 64 * bf d 4 1
def adD (d : List Byte) : Nat := 32 * 2 ^ bf d 5 1
def adNh (d : List Byte) : Nat := bf d 6 1
def adMask (d : List Byte) : Nat := bf d 7 1
def adNb (d : List Byte) : Nat := bf d 8 2 + 1
def adNf (d : List Byte) : Nat := bf d 27 1
def adOfmt (d : List Byte) : Nat := bf d 40 1

/-- A descriptor field out of its range, or a reserved byte or bit not zero (R230, R231). -/
def adBad (d : List Byte) : Bool :=
  let out (o lo hi : Nat) : Bool := decide (bf d o 1 < lo) || decide (hi < bf d o 1)
  out 3 1 8 || out 4 2 8 || out 5 0 2 || out 6 1 8 || decide (256 < adNh d * adD d) || out 7 0 2 || decide (4095 < bf d 8 2)
    || decide (bf d 13 2 ≠ 0) || out 27 0 16 || decide (2048 < adNf d * adW d) || out 28 0 31 || out 29 0 31
    || decide (bf d 30 2 ≠ 0) || (decide (adMask d = 2) && decide (bf d 36 4 = 0)) || out 40 0 2 || decide (1 < bf d 41 1)

/-- T_blk of R244 for ρ rows a head. (DEDUCED: log entry 42.) -/
def attnBlk (d : List Byte) (rho : Nat) : Nat :=
  adW d * adNh d * adD d / 8 + 4 * adNh d * (adD d / 32) * max rho 10 + 48

/-- T_end of R244. -/
def attnEnd (fin : Bool) (ofmt : Nat) : Nat := if fin then (if ofmt = 2 then 96 else 64) else 32

/-! ## Row states -/

/-- Slots of the state layout (R235). -/
def stateSlots (nq d : Nat) : Nat := 1 + cdiv (nq * d) 64

/-- Slots of the output layout (R235). -/
def outSlots (ofmt nq d : Nat) : Nat :=
  if ofmt = 0 then cdiv (4 * nq * d) 256 else if ofmt = 1 then cdiv (2 * nq * d) 256 else cdiv (nq * d) 256 + 1

/-- The rows of a state operand's bytes (R235); words are taken as FP32 operands are, subnormals as zero (R142). -/
def rowsOf (bs : List Byte) (nq d : Nat) : List ARow :=
  (List.range nq).map fun r =>
    { m := ftz (bf bs (4 * r) 4), l := ftz (bf bs (128 + 4 * r) 4)
      o := (List.range d).map fun n => ftz (bf bs (256 + 4 * d * r + 4 * n) 4) }

/-- The bytes of the state layout. -/
def rowsBytes (rows : List ARow) (nq d : Nat) : List Byte :=
  let word (f : ARow → Nat) : List Byte := (padTo 32 { m := 0, l := 0 } rows).flatMap fun r => natLe 4 (f r)
  padTo (256 * stateSlots nq d) 0 (word (fun r => r.m) ++ word (fun r => r.l) ++ rows.flatMap fun r => r.o.flatMap fun w => natLe 4 w)

/-- FP32 greater than; false for a NaN. -/
def f32Gt (a b : Nat) : Bool := match f32Cmp a b with | some .gt => true | _ => false

/-- Flags of a value of l or o (R241): OF for an infinity, NV for a NaN. -/
def rowOf (r : ARow) : Bool := isInf r.l || r.o.any isInf
def rowNv (r : ARow) : Bool := isNan r.l || r.o.any isNan

/-! ## Expansion (R233) -/

/-- A latent: its codes and exponent. -/
abbrev Latent := List Int × Int

/-- The latents of 64 tokens from page bytes (R215). -/
def pageLatents (bs : List Byte) (w : Nat) : List Latent :=
  (List.range 64).map fun t => (((bs.drop (t * w)).take w).map fun b => sx 8 b.toNat, sx 8 (bf bs (64 * w + t) 1))

/-- Fresh latents from the bytes of the VE registers (R239). -/
def freshLatents (bs es : List Byte) (w nf : Nat) : List Latent :=
  (List.range nf).map fun f => (((bs.drop (f * w)).take w).map fun b => sx 8 b.toNat, sx 8 (bf es f 1))

/-- Column `col` of an expansion matrix held as tiles (R114, R233). -/
def expCol (tiles : List Byte) (w col : Nat) : List Int :=
  (List.range w).map fun k => sx 8 (bf tiles (1024 * (col / 32 * (w / 32) + k / 32) + 32 * (k % 32) + col % 32) 1)

/-- The codes of columns `c0` to `c0 + d - 1` for one latent. -/
def expandTok (tiles pars : List Byte) (w c0 d : Nat) (x : Latent) : List Int :=
  (List.range d).map fun n =>
    let col := c0 + n
    let acc := ((x.1.zip (expCol tiles w col)).foldl (fun a p => a + p.1 * p.2) 0)
    (epilogue 1 (lowBits 32 acc) x.2 0 (epPar (pars.drop (512 * (col / 32))))).1

/-- EFIX of a head's first column group. -/
def headExp (pars : List Byte) (h d : Nat) : Int := (epPar (pars.drop (512 * (h * d / 32)))).efix

/-! ## One block for one row (R240, R241) -/

/-- A score: -inf when masked, NaN or infinite; with OF and NV. -/
def score (masked : Bool) (q k : List Int) (scale : Nat) (e : Int) : Nat × Bool × Bool :=
  if masked then (0xFF800000, false, false)
  else
    let a : Int := (q.zip k).foldl (fun a p => a + p.1 * p.2) 0
    let z := rne32 (fpMul (.fin (decide (a < 0)) a.natAbs e) (fpDec scale))
    if isNan z then (0xFF800000, false, true) else if isInf z then (0xFF800000, true, false) else (z, false, false)

/-- A row after a block: keys, values, masked scores. -/
def foldRow (r : ARow) (z : List Nat) (v : List (List Int)) (ev : Int) : ARow × Bool × Bool :=
  let mb := z.foldl (fun a w => if f32Gt w a then w else a) 0xFF800000
  if mb = 0xFF800000 then (r, false, false)
  else
    let rise := f32Gt mb r.m
    let r1 : ARow :=
      if !rise then r
      else if r.m = 0xFF800000 then { r with m := mb }
      else
        let al := fnExp (f32Sub r.m mb)
        { m := mb, l := f32Mul al r.l, o := r.o.map fun w => f32Mul al w }
    let cs := z.map fun w => if w = 0xFF800000 then (0, false) else u8fOf (fnExp (f32Sub w r1.m))
    let sum := cs.foldl (fun a p => a + p.1) 0
    let l := rne32 (fpAdd (fpDec r1.l) (.fin false sum (-8)))
    let o := r1.o.zipIdx.map fun p =>
      let pv : Int := (cs.zip v).foldl (fun a q => a + (q.1.1 : Int) * nth 0 q.2 p.2) 0
      rne32 (fpAdd (fpDec p.1) (.fin (decide (pv < 0)) pv.natAbs (ev - 8)))
    let r2 : ARow := { r1 with l := l, o := o }
    (r2, rowOf r1 || rowOf r2, rowNv r1 || rowNv r2 || cs.any fun p => p.2)

/-- The codes and exponents of the query rows (R234). -/
def queryRows (bs : List Byte) (nq d : Nat) : List (List Int × Int) :=
  (List.range nq).map fun r =>
    (((bs.drop (r * d)).take d).map fun b => sx 8 b.toNat, sx 8 (bf bs (256 * cdiv (nq * d) 256 + r) 1))

/-- A block: the rows after it, with OF and NV. `pos` gives the position of key j; `kill j` masks it for every row. -/
def attnBlock (desc record query ek ev pk pv : List Byte) (rows : List ARow) (toks : List Latent) (p0 : Nat) (delivered : Bool) :
    List ARow × Bool × Bool :=
  let nq := rows.length
  let d := adD desc
  let w := adW desc
  let rho := if adNh desc = 0 then nq else nq / adNh desc
  let lk := bf record 8 4
  let qs := queryRows query nq d
  let heads := (List.range (adNh desc)).map fun h =>
    (toks.map fun t => expandTok ek pk w (h * d) d t, toks.map fun t => expandTok ev pv w (h * d) d t)
  let res := rows.zipIdx.map fun r =>
    let h := if rho = 0 then 0 else r.2 / rho
    let hd := nth ([], []) heads h
    let qp := bf record (16 + 4 * r.2) 4
    let q := nth ([], 0) qs r.2
    let zs := hd.1.zipIdx.map fun k =>
      let p := p0 + k.2
      let mk := (delivered && decide (lk ≤ p)) || (decide (adMask desc ≠ 0) && decide (qp < p))
        || (decide (adMask desc = 2) && decide (p + bf desc 36 4 ≤ qp))
      score mk q.1 k.1 (bf desc 32 4) (q.2 + headExp pk h d)
    let f := foldRow r.1 (zs.map fun z => z.1) hd.2 (headExp pv h d)
    (f.1, zs.any (fun z => z.2.1) || f.2.1, zs.any (fun z => z.2.2) || f.2.2)
  (res.map fun x => x.1, res.any fun x => x.2.1, res.any fun x => x.2.2)

/-! ## Finish and merge (R242, R243, R246) -/

/-- A row's outputs with FIN = 1. -/
def finRow (r : ARow) : List Nat :=
  if r.l = 0 then r.o.map fun _ => 0 else r.o.map fun w => f32Mul w (f32Rcp r.l)

/-- The exponent and codes of a row in I8E (R135-R137), with OF and NV. (DEDUCED: log entry 42.) -/
def i8Row (ws : List Nat) : Int × List Int × Bool × Bool :=
  let mx := ws.foldl (fun a w => let b := f32Abs w; if f32Gt b a then b else a) 0
  let e := expOf32 127 (-32) mx
  let cs := ws.map fun w => codeOf 127 e.1 w
  (e.1, cs.map fun c => c.1, cs.any fun c => c.2.2.1, e.2 || cs.any fun c => c.2.2.2)

/-- The output bytes with FIN = 1, with OF and NV. (DEDUCED: log entry 42.) -/
def finBytes (rows : List ARow) (ofmt d : Nat) : List Byte × Bool × Bool :=
  let outs := rows.map finRow
  let flags := (outs.any fun l => l.any isInf, outs.any fun l => l.any isNan)
  let nq := rows.length
  if ofmt = 0 then (padTo (256 * outSlots 0 nq d) 0 (outs.flatMap fun l => l.flatMap fun w => natLe 4 w), flags)
  else if ofmt = 1 then
    let cv := outs.map fun l => l.map bfEnc
    (padTo (256 * outSlots 1 nq d) 0 (cv.flatMap fun l => l.flatMap fun c => natLe 2 c.1),
      flags.1 || cv.any (fun l => l.any fun c => c.2.1), flags.2 || cv.any (fun l => l.any fun c => c.2.2))
  else
    let cv := outs.map i8Row
    (padTo (256 * cdiv (nq * d) 256) 0 (cv.flatMap fun r => r.2.1.map fun c => BitVec.ofNat 8 (lowBits 8 c)) ++
        padTo 256 0 (cv.map fun r => BitVec.ofNat 8 (lowBits 8 r.1)),
      flags.1 || cv.any (fun r => r.2.2.1), flags.2 || cv.any (fun r => r.2.2.2))

/-- Row statistics (R243): m and l of each row. (DEDUCED: log entry 42.) -/
def rstatBytes (rows : List ARow) : List Byte := padTo 256 0 (rows.flatMap fun r => natLe 4 r.m ++ natLe 4 r.l)

/-- Rescale a partial state to a higher maximum. -/
def scaleRow (r : ARow) (m : Nat) : ARow :=
  if f32Gt m r.m then
    let al := fnExp (f32Sub r.m m)
    { m := m, l := f32Mul al r.l, o := r.o.map fun w => f32Mul al w }
  else { r with m := m }

/-- The merge of two partial states of a row. -/
def mergeRow (a b : ARow) : ARow :=
  if b.m = 0xFF800000 then a
  else if a.m = 0xFF800000 then b
  else
    let m := f32Max a.m b.m
    let x := scaleRow a m
    let y := scaleRow b m
    { m := m, l := f32Add x.l y.l, o := (x.o.zip y.o).map fun p => f32Add p.1 p.2 }

end Sys2Proof.Machine
end

