-- ==== Sys2Proof/Machine/MeArith.lean ====
section
/-!
DEFINITION. The arithmetic of the matrix engine: modes and layouts (04_matrix_engine R103-R128), the prologue and the row statistics
(06_vector_gate_fusion R179-R186).
-/
namespace Sys2Proof.Machine

/-! ## Modes -/

def isTa (m : Nat) : Bool := 1 ≤ m && m ≤ 3

/-- Columns in use (R105). -/
def meCols (m : Nat) : Nat := if isTa m then 64 else 32

/-- Bytes of a weight row (R114). -/
def meRowW : Nat → Nat
  | 0 => 32 | 1 => 32 | 2 => 24 | 3 => 16 | _ => 64

/-- Slots of a weight tile (R110). -/
def meTileSlots : Nat → Nat
  | 0 => 4 | 1 => 4 | 2 => 3 | 3 => 2 | _ => 8

/-- Bits of a code in a TA mode. -/
def taBits : Nat → Nat
  | 1 => 4 | 2 => 3 | _ => 2

/-! ## The prologue (06 R179-R182) -/

/-- Flags and value of a prologue element: v = code · 2^ein, normalised, through the function, to a code at the bank's exponent. -/
def proElem (kind fn : Nat) (ein : Int) (mu r : Nat) (e : Int) (code : Int) : Int × Bool × Bool :=
  let v0 := decCode code ein
  let norm := decide (2 ≤ kind)
  let v1 := if norm then f32Sub v0.1 mu else v0.1
  let v2 := if norm then f32Mul v1 r else v1
  let v3 := if kind = 1 ∨ 4 ≤ kind then fnEval fn v2 else v2
  let inf := isInf v1 || isInf v2 || isInf v3
  let nan := isNan v1 || isNan v2 || isNan v3
  let q := codeOf 127 e v3
  (q.1, v0.2 || inf || q.2.2.1, nan || q.2.2.2)

/-- Statistics summed over the slots of a row, one slot's 256 bytes after another: the sum, and the results of the additions (R181). -/
def statSum (bs : List Byte) (cnt b part : Nat) : Nat × List Nat :=
  let at_ (k : Nat) : Nat := leNat ((bs.drop (256 * k + 8 * b + 4 * part)).take 4)
  (List.range (cnt - 1)).foldl (fun (a : Nat × List Nat) k => let v := f32Add a.1 (at_ (k + 1)); (v, v :: a.2)) (at_ 0, [])

/-- mu and r of an item, and the results of the operations that make them, whose infinities and NaNs set the flags (R162, R186). -/
def normOf (layer : Bool) (s1 s2 invn eps : Nat) : Nat × Nat × List Nat :=
  let m2 := f32Mul s2 invn
  if layer then
    let mu := f32Mul s1 invn
    let sq := f32Mul mu mu
    let df := f32Sub m2 sq
    let q := f32Max df 0
    let t := f32Add q eps
    (mu, f32Rsqrt t, [mu, m2, sq, df, q, t, f32Rsqrt t])
  else
    let t := f32Add m2 eps
    (0, f32Rsqrt t, [m2, t, f32Rsqrt t])

/-- The PRO field (R179): kind and the reference of the descriptor. -/
def proKind (w : Nat) : Nat := fld w 28 4
def proRef (w : Nat) : Nat := fld w 15 10 * 2 ^ 14 + fld w 25 3 * 2 ^ 11 + fld w 8 7 * 2

/-! ## Streams -/

/-- Activation items: integer codes (or BF16 words as naturals in B16 mode). -/
def actItem (mode : Nat) (au : Bool) (bs : List Byte) (b : Nat) : List Int :=
  let st := if mode = 4 then 64 else 32
  let item := padTo st 0 ((bs.drop (st * b)).take st)
  if mode = 4 then (List.range 32).map fun k => ((leNat ((item.drop (2 * k)).take 2) : Nat) : Int)
  else item.map fun x => if au then (x.toNat : Int) else sx 8 x.toNat

/-- Column n of weight row `v` in a mode, through the codebook in TA modes (R114, R115). -/
def weightAt (mode : Nat) (v : BitVec 512) (cb : BitVec 128) (n : Nat) : Int :=
  if mode = 0 then sx 8 (fld v.toNat (8 * n) 8)
  else if mode = 4 then ((fld v.toNat (16 * n) 16 : Nat) : Int)
  else sx 8 (fld cb.toNat (8 * fld v.toNat (taBits mode * n) (taBits mode)) 8)

/-- One column's sum of an item, as a 32-bit word (R118, R121, R123). -/
def colSum (mode : Nat) (item : List Int) (rows : List (List Int)) (n : Nat) : Nat :=
  if mode = 4 then
    (item.zip rows).foldl (fun acc p => f32Fma (bfDec p.1.toNat) (bfDec (nth 0 p.2 n).toNat) acc) 0
  else lowBits 32 ((item.zip rows).foldl (fun acc p => acc + p.1 * nth 0 p.2 n) 0)

/-- When item 0's sum reaches the bank, and the distance of items (the dataflow table). -/
def bankAt (mode : Nat) : Nat := if mode = 0 then 36 else if mode = 4 then 137 else 38
/-- (DEDUCED: log entry 67.) -/
def itemStep (mode : Nat) : Nat := if mode = 4 then 4 else 1

/-! ## Drains -/

/-- The epilogue of B16 mode (R127), as an FP32 word. -/
def epilogueF (acc bias : Nat) : Nat := f32Add acc bias

/-- Bytes of a result (R128). -/
def outW : Nat → Nat
  | 0 => 2 | 1 => 1 | 2 => 4 | _ => 2

/-- RSTAT fields (06 R183), from ME slot bit 12. -/
def rsRef (w : Nat) : Nat := fld w 23 10 * 2 ^ 14 + fld w 20 3 * 2 ^ 11 + fld w 12 8 * 2

/-- One item added to a pair of row statistics, in column order (R184). -/
def rsAdd (p : Nat × Nat) (codes : List Int) (e : Int) : Nat × Nat :=
  codes.foldl (fun (a : Nat × Nat) q =>
    let v := (decCode q e).1
    (f32Add a.1 v, f32Add a.2 (f32Mul v v))) p

/-- The pieces of an output block (R128) that leave the bank in cycle 2 + `j` of the drain: the slot of the block, the byte offset, the bytes,
and whether they are the slot's last. -/
def outPieces (m nb out j : Nat) (bytes : Nat → Nat → List Byte) : List (Nat × Nat × List Byte × Bool) :=
  let w := outW out
  let h := cdiv (nb * 32 * w) 256
  let per := 8 / w
  let items := if isTa m then [j] else [2 * j, 2 * j + 1]
  (items.filter fun b => decide (b < nb)).flatMap fun b => (List.range (if isTa m then 2 else 1)).map fun prt =>
    (prt * h + 32 * b * w / 256, 32 * b * w % 256, bytes b prt, decide ((b + 1) % per = 0) || decide (b + 1 = nb))

end Sys2Proof.Machine
end

