-- ==== Sys2Proof/Machine/Scrub.lean ====
section
/-!
DEFINITION. The work of the background activities (15_sirvi R431, R435, R436): what a scrub meets, and the cycles of a partition that lagging
activities take.
-/
namespace Sys2Proof.Machine

/-- The words in error that a scrub of slots lo to hi − 1 of every core of a cluster meets. -/
def scrubSlots (s : State) (c lo hi : Nat) : State :=
  each s (s.slots.filterMap fun p =>
    if p.1 / 16384 = c ∧ lo ≤ p.1 % 1024 ∧ p.1 % 1024 < hi ∧ (p.2.poison ≠ 0 ∨ p.2.ce ≠ 0) then some p.1 else none) fun s k =>
      readSlot s (k / 1024) (k % 1024) 0 256

/-- The next `k` slots or units of activity 0 or 1 in a cluster are scrubbed. -/
def scrubUnits (s : State) (a c k : Nat) : State :=
  let d := smGet 0 (bgAct s a).doneC c
  let s1 := setBg s a { bgAct s a with doneC := smSet 0 (bgAct s a).doneC c (d + k) }
  if k = 0 then s else if a = 0 then scrubSlots s1 c d (d + k) else s1

/-- The next `k` granules are scrubbed, in address order: ciphertext, so that no engine takes part (R431). -/
def scrubGrans (s : State) (k : Nat) : State :=
  let d := (bgAct s 2).done
  add64 (hbmEcc (setBg s 2 { bgAct s 2 with done := d + k }) (128 * d) (128 * k)) (operPg + 0x110) (128 * k)

/-- `cyc` cycles of work of an activity in a partition are done; a row is copied when ROW_SPARE_DONE says so. -/
def bgDo (s : State) (n a cyc : Nat) : State :=
  if a = 3 then s
  else if a = 2 then scrubGrans s (min (bgOut s 2 0) (cyc * hbmShare s n / 128))
  else each s (members s n) fun s c => scrubUnits s a c (min (bgOut s a c) cyc)

/-- The claims of the lagging activities on a segment's pool (R435), lowest activity first: what is left of the pool. -/
def bgClaims (s : State) (n : Nat) (pool : Nat) : State × Nat :=
  (List.range 4).foldl (fun (r : State × Nat) a =>
    if bgStage r.1 a ≠ 0 && bgEligible r.1 n a then
      let c := min r.2 (bgNeed r.1 n a)
      (bgDo r.1 n a c, r.2 - c)
    else r) (s, pool)

/-- What TAKING and STARVED activities take from the end of a best-effort pitch of `len` cycles (R436); the pitch counts once. -/
def bgTakes (s : State) (n len : Nat) : State × Nat :=
  let q := (List.range 4).foldl (fun (r : State × Nat) a =>
    if 2 ≤ bgStage r.1 a && bgEligible r.1 n a then
      let t := min (bgNeed r.1 n a) (len / 20)
      (bgDo r.1 n a t, r.2 + t)
    else r) (s, 0)
  if q.2 = 0 then q else (bump q.1 bgPg 0x180, q.2)

end Sys2Proof.Machine
end

