-- ==== Sys2Proof/Machine/Pitch.lean ====
section
/-!
DEFINITION. Pitches, slack and job faults (02_partitions_pitches R50-R67, 09_memory R259, R285, 03 R93).
-/
namespace Sys2Proof.Machine

/-! ## The cyclic table (R51) -/

def tblEntry (s : State) (n e : Nat) : Nat := rd64 s (tblPg n + 0x100 + 8 * e)
def teValid (w : Nat) : Bool := bitAt w 63
def teBe (w : Nat) : Bool := bitAt w 62
def teTick (w : Nat) : Nat := fld w 56 6
def teJob (w : Nat) : Nat := fld w 52 4
def teStart (w : Nat) : Nat := fld w 26 26
def teBudget (w : Nat) : Nat := fld w 0 26

/-- Job descriptor registers (R100). -/
def jdReg (s : State) (n j off : Nat) : Nat := rdN s (tblPg n + 0x600 + 0x20 * j + off)

/-- The entries that run in the tick (R50, R52): valid, of the tick index, and in MAINTENANCE only those of ADAPT or TEST jobs. -/
def tickEntries (s : State) (n : Nat) : List Nat :=
  (List.range 64).filter fun e =>
    let w := tblEntry s n e
    teValid w && teTick w = (part s n).hpIdx &&
      ((part s n).st = .running || ((part s n).st = .maintenance && fld (jdReg s n (teJob w) 0x14) 0 2 ≠ 0))

/-- Sort by a key, ascending (insertion). -/
def insBy {α : Type} (key : α → Nat) (x : α) : List α → List α
  | [] => [x]
  | y :: l => if key x < key y then x :: y :: l else y :: insBy key x l
def sortBy {α : Type} (key : α → Nat) (l : List α) : List α := l.foldl (fun a x => insBy key x a) []

/-- The tick's entries not yet started, in START order. -/
def entriesLeft (s : State) (n : Nat) : List Nat :=
  sortBy (fun e => teStart (tblEntry s n e)) ((tickEntries s n).filter fun e => !(part s n).started.contains e)

/-- A table to be judged: its 64 entries and its hyperperiod. -/
structure Tbl where
  ents : List Nat
  hp   : Nat
  deriving DecidableEq, Repr

/-- The active table and the shadow table. -/
def activeTbl (s : State) (n : Nat) : Tbl := { ents := (List.range 64).map fun e => tblEntry s n e, hp := partHp s n }
def shadowTbl (s : State) (n : Nat) : Tbl :=
  { ents := (List.range 64).map fun e => rd64 s (tblPg n + 0x300 + 8 * e), hp := rf s (tblPg n + 0x500) 0 6 + 1 }

/-- The valid entries of a tick index, in START order. -/
def tblTick (t : Tbl) (i : Nat) : List Nat := sortBy teStart (t.ents.filter fun w => teValid w && teTick w = i)

/-- The predecessor of an entry (R52): the next lower START of its tick, or the latest entry of the nearest earlier tick index that has
entries, wrapping round. (DEDUCED: log entry 35.) -/
def predEntry (t : Tbl) (w : Nat) : Option Nat :=
  match ((tblTick t (teTick w)).filter fun x => decide (teStart x < teStart w)).getLast? with
  | some x => some x
  | none => (List.range t.hp).findSome? fun k => (tblTick t ((teTick w + t.hp - 1 - k) % t.hp)).getLast?

/-- T_switch (R56) for incoming job `jin` after `jout`. (DEDUCED: log entry 35.) -/
def tSwitch (s : State) (n jin : Nat) (jout : Option Nat) : Nat :=
  let b := hbmShare s n
  let fin := jdReg s n jin 4
  let base := 1536 + (if b = 0 then 0 else cdiv fin b) + 12 * jdReg s n jin 0xC
  match jout with
  | none => base
  | some j => if j = jin then 0 else base + (if b = 0 then 0 else cdiv (jdReg s n j 8) b)

/-- The job of the predecessor of entry `e` of the active table (R52). -/
def predJob (s : State) (n e : Nat) : Option Nat := (predEntry (activeTbl s n) (tblEntry s n e)).map teJob

/-! ## Slack (R58) -/

/-- A slack segment opens at cycle `now`: its end, its pool after the background claims, and its best-effort entries. -/
def openSeg (s : State) (n now : Nat) : State :=
  let left := entriesLeft s n
  let rts := left.filter fun e => !teBe (tblEntry s n e)
  let segEnd := match rts with
    | e :: _ => teStart (tblEntry s n e)
    | [] => regionEndNow s
  let bes := (left.filter fun e => teBe (tblEntry s n e) && decide (teStart (tblEntry s n e) < segEnd)).map fun e =>
    (e, teBudget (tblEntry s n e), rf s (partPg n + 0x200 + 4 * teJob (tblEntry s n e)) 0 16)
  let pool := segEnd - now - bes.foldl (fun a b => a + b.2.1) 0
  let r := bgClaims s n pool
  modPart r.1 n fun p => { p with seg := some { segEnd := segEnd, pool := r.2, left := bes } }

/-- g and the limit of a best-effort entry about to start at `now` (R58), with the pool taken down. -/
def grantBe (s : State) (n e now : Nat) : State × Nat × Nat :=
  match (part s n).seg with
  | none => (s, now + teBudget (tblEntry s n e), 0)
  | some sg =>
    let w := sg.left.foldl (fun a b => a + b.2.2) 0
    let mine := (sg.left.find? fun b => b.1 = e).map (fun b => b.2.2)
    let g := match mine with
      | some sh => if w = 0 then 0 else sg.pool.toNat * sh / w
      | none => 0
    let lim := min (now + teBudget (tblEntry s n e) + g) sg.segEnd
    (modPart s n fun p => { p with seg := some { sg with pool := sg.pool - g, left := sg.left.filter fun b => b.1 ≠ e } }, lim, g)

/-- Unused budget and grant return to the pool (R58, R65, R67). -/
def returnPool (s : State) (n k : Nat) : State :=
  modPart s n fun p => { p with seg := p.seg.map fun sg => { sg with pool := sg.pool + k } }

/-! ## The end of a pitch (R54, R79, R93, R259, R304) -/

/-- The slots whose write an effect in flight still owes. -/
def effSlot : Eff → List Nat
  | .slot core i _ _ _ _ => [core * 1024 + i]
  | .tag core i _ _ => [core * 1024 + i]
  | .vreg .. => [] | .mreg .. => [] | .wrow .. => [] | .cbook .. => [] | .swapRow .. => [] | .bankHead .. => []
  | .bankAdd .. => [] | .flags .. => [] | .post .. => []

/-- Slot numbers of kept slots. -/
def slotNums (l : List (Option (Nat × Nat))) : List Nat := l.filterMap fun q => q.map fun z => z.1 * 1024 + z.2

/-- The HBM bytes a descriptor writes (R225). -/
def descHbmDst (d : Desc) : List (Nat × Nat) := if dDkind d.d = 1 then [(dDaddr d.d % 2 ^ 48, dLen d.d)] else []

/-- What a cluster gives up when its pitch ends: effects not made are never made (R29, R132), descriptors not started and reads at
use are discarded, the running job's handler stops (R93, R304). -/
def stopClus (x : Clus) (j : Nat) : Clus :=
  { x with
    run := false, wait := none, loops := [], arms := [], sel := none, did := [], far := [], rem := none, port := [], busy := []
    lost := x.lost ++ (x.effs.flatMap fun p => effSlot p.2) ++ (x.runs.flatMap fun r => slotNums (r.dst ++ r.third)) ++
      x.attn.flatMap fun r => slotNums (r.out ++ r.rs)
    lostHbm := x.lostHbm ++ ((x.q0 ++ x.q1).filter fun d => !d.started).flatMap descHbmDst
    effs := [], attn := [], runs := [], held := none, expHeld := none, expQ := [], expRun := none
    hnd := match x.hnd with | some (_, k) => if k = j then none else x.hnd | none => none
    q0 := x.q0.filter fun d => d.started, q1 := x.q1.filter fun d => d.started }

/-- A transfer in progress writes no further slot of the job's lanes once the pitch has ended (R29). -/
def cutDesc (ls : List (Nat × Nat)) (d : Desc) : Desc :=
  if d.started then { d with skip := (d.dst.map fun q => (q.1, q.2.1)).filter ls.contains } else d

/-- The same for a NoC operation. -/
def cutNoc (ls : List (Nat × Nat)) (o : NocOp) : NocOp := { o with skip := o.dst.filter ls.contains }

/-- Transfers of a cluster for job `j` that wait on tags are abandoned and counted, with a read at use in progress (R259, R304); the others go
on, but write no more to the job's lanes (R29), whose slots count as lost. -/
def abandonClus (s : State) (j : Nat) (ls : List (Nat × Nat)) (c : Nat) : State :=
  let x := clu s c
  let waits (d : Desc) : Bool := d.job = j && descWaits s d
  let bad := (x.q0 ++ x.q1).filter waits
  let cut (d : Desc) : Desc := if d.job = j then cutDesc ls d else d
  let kept := (x.q0 ++ x.q1).filter fun d => !waits d && d.started && d.job = j
  let s1 := setClu s c { x with
    q0 := (x.q0.filter fun d => !waits d).map cut, q1 := (x.q1.filter fun d => !waits d).map cut
    lost := x.lost ++ (bad ++ kept).flatMap fun d => d.dst.map fun q => q.1 * 1024 + q.2.1
    lostHbm := x.lostHbm ++ bad.flatMap descHbmDst }
  let s2 := bumpBy s1 (clPg c) 0x18C bad.length
  each s2 (List.range 16) fun s i =>
    let l := smGet [] s.noc (16 * c + i)
    let mine (o : NocOp) : Bool := o.job = j
    let bad := l.filter fun o => mine o && nocWaits s o
    if l.any mine then
      let s1 := { s with noc := smSet [] s.noc (16 * c + i) ((l.filter fun o => !(mine o && nocWaits s o)).map fun o => if mine o then cutNoc ls o else o) }
      modClu (bumpBy s1 (clPg c) 0x18C bad.length) c fun x =>
        { x with lost := x.lost ++ (l.filter mine).flatMap fun o => o.dst.map fun q => q.1 * 1024 + q.2 }
    else s

/-- A read at use that a cluster's expander has in progress is abandoned with the pitch (R304), and counted (R259). -/
def abandonRead (s : State) (c : Nat) : State := if (clu s c).expRun.isSome then bump s (clPg c) 0x18C else s

/-- Received messages of job `j` that wait on tags in a cluster are abandoned and counted with the slots they have still to write (R259). -/
def abandonRx (s : State) (n j : Nat) : State :=
  let b := bly s n
  let stuck (m : RxMsg) : Bool := m.job = j && match m.slots with
    | q :: _ => (slotAt s q.1 q.2.1).full
    | [] => false
  if b.rx.any stuck then
    each (modBly s n fun b => { b with rx := b.rx.filter fun m => !stuck m }) (b.rx.filter stuck) fun s m =>
      let c := match m.slots with | q :: _ => q.1 / 16 | [] => 0
      modClu (bump s (clPg c) 0x18C) c fun x => { x with lost := x.lost ++ m.slots.map fun q => q.1 * 1024 + q.2.1 }
  else s

/-- Core-cycles of a pitch go to the tick's totals of its party and of its job (R59, R68): used and entitled. -/
def tally (s : State) (n j used ent : Nat) : State :=
  let s1 := charge s n fun a => { a with engine := a.engine + used }
  let p := partParty s n
  let s2 := if p = 0 then s1 else setPacc s1 p { pacc s1 p with used := (pacc s1 p).used + used, ent := (pacc s1 p).ent + ent }
  modJob s2 n j fun x => { x with used := x.used + used, ent := x.ent + ent }

/-- The teardown of a job fault runs in a partition (R65). (DEDUCED: log entry 32.) -/
def tearBusy (s : State) (n : Nat) : Bool := (List.range 16).any fun j => (job s n j).busy.isSome

/-- Cycles below `e` in at least one of the intervals. (DEDUCED: log entry 35.) -/
def spanCover (l : List (Nat × Nat)) (e : Nat) : Nat :=
  ((sortBy (fun p => p.1) l).foldl (fun (a : Nat × Nat) p =>
    let b := max a.1 p.1
    let d := min p.2 e
    if b < d then (d, a.2 + (d - b)) else a) (0, 0)).2

/-- The stalled cycles of a pitch ended at `e` (R62, R79): episodes past and running, waits after HALT, a switch that runs beyond its
formula and a wait for a teardown. -/
def pitchStalls (s : State) (n : Nat) (p : Pitch) (e : Nat) : List (Nat × Nat × Nat) :=
  let sw := p.start + p.tearW + tSwitch s n p.job (predJob s n p.entry)
  p.stalls ++
    (if p.t0.isSome then
      (members s n).flatMap fun c =>
        let x := clu s c
        (if x.run && x.wait.isSome then [(x.waitAt, e, x.waitCls)] else []) ++
          if x.run && x.halting then [(x.hEnd, x.dEnd.getD e, x.haltCls)] else []
     else if tearBusy s n then [(p.start, e, 2)]
     else [(sw, e, 0)])

/-- The stall counters of the tick take a pitch's cycles, each once, by the first class that holds (R62). -/
def countStalls (s : State) (n : Nat) (p : Pitch) (e : Nat) : State :=
  let l := pitchStalls s n p e
  let u k := spanCover ((l.filter fun q => decide (q.2.2 ≤ k)).map fun q => (q.1, q.2.1)) e
  modPart s n fun q => { q with sHbm := q.sHbm + u 0, sNoc := q.sNoc + (u 1 - u 0), sTag := q.sTag + (u 2 - u 1) }

/-- The pitch of partition `n` ends at cycle `e`, exclusive (R54, R58, R59, R62, R68). In steady mode it counts its whole budget
(R383). (DEDUCED: log entry 34.) -/
def endPitch (s : State) (n e : Nat) : State :=
  match (part s n).pitch with
  | none => s
  | some p =>
    let ms := members s n
    let len := e - p.start
    let cores := 16 * ms.length
    let budget := if p.rt || steadyOf s n then p.limit - p.start else teBudget (tblEntry s n p.entry) + p.grant
    let ls := laneSlots s n p.job
    let s1 := abandonRx (each (countStalls s n p e) ms fun s c =>
      abandonClus (modClu (abandonRead s c) c fun x => stopClus x p.job) p.job ls c) n p.job
    let s2 := modPart s1 n fun q => { q with pitch := none, elap := q.elap + len, pitchTo := e }
    let s3 := tally s2 n p.job (if steadyOf s n then cores * budget else cores * len) (cores * budget)
    if steadyOf s n then s3 else if p.rt then openSeg s3 n e else returnPool s3 n (p.limit - e)

/-! ## Job faults (R64-R66) -/

/-- The slots of a job's working buffers in a cluster: handles that are neither state nor read-only. -/
def workSlots (img : JobImg) (c : Nat) : List (Nat × Nat) :=
  (handleImg img c).flatMap fun e =>
    if heValid e && !heState e && !heRdonly e then
      let cores := if heCoreScope e then [16 * heCluster e + heCore e] else (List.range 16).map fun i => 16 * heCluster e + i
      cores.flatMap fun co => (List.range (heCount e)).map fun k => (co, heFirst e + k)
    else []

/-- Reads at use of job `j` in a cluster are discarded, the one in progress abandoned and counted (R304). -/
def dropReads (s : State) (j c : Nat) : State :=
  let x := clu s c
  let mine (q : ExpRun) : Bool := q.job = j
  let s1 := match x.expRun with | some q => if mine q then bump s (clPg c) 0x18C else s | none => s
  modClu s1 c fun x => { x with
    expQ := x.expQ.filter (fun q => !mine q), expRun := x.expRun.filter (fun q => !mine q), expHeld := x.expHeld.filter fun q => !mine q }

/-- The job has faulted in the tick that a fault detected now belongs to: the tick in progress, or from the flip on the next (R35). -/
def hasFaulted (s : State) (n j : Nat) : Bool := if s.clk.phase = .guard then (job s n j).carry else (job s n j).faulted

/-- A job fault (R65, R66): further faults of the job in the tick are not counted. A fault found after the flip belongs to the next
tick (R35). -/
def jobFault (s : State) (n j cause : Nat) : State :=
  if hasFaulted s n j then s
  else
    let lanes := (partLanes s n).filter fun p => laneJob p.1 = j
    let s1 := match (part s n).pitch with
      | some p => if p.job = j then endPitch s n (min p.limit (max (cycNow s) p.start)) else s
      | none => s
    let s2 := each (each s1 (members s n) fun s c => dropReads s j c) lanes fun s p =>
      let s := zeroSlots s (newSlots s p.2) false
      let s := modLane s p.1 fun l => { l with fault := true }
      faultStrm s p.2.handle p.2.chunk.tick p.2.chunk.ts
    let s3 := each s2 (members s n) fun s c => zeroSlots s (workSlots (job s n j).img c) false
    let late := decide (s.clk.phase = .guard)
    let s4 := modJob s3 n j fun x => { x with
      faulted := x.faulted || !late, carry := x.carry || late, ftick := true, cause := cause, busy := some (cycNow s) }
    let d := cause * 2 ^ 24 + n * 2 ^ 16 + j
    let s5 := setEvt (bump s4 (partPg n) 0x164) (partPg n) 2 d
    if partParty s n = 0 then s5 else setEvt s5 (ptyPg (partParty s n)) 2 d

/-- A job fault of the job whose pitch runs in cluster `c`. -/
def clusFault (s : State) (c cause : Nat) : State := jobFault s (curPart s c) (curJob s c) cause

/-! ## Starting a pitch (R54, R58, R65, R67, R436) -/

/-- A halted job's pitch ends at its start (R67): it is entitled to its budget and grant (R59), which go to the pool (R58), or a segment
opens there. In steady mode no slack is given, and the budget counts as used (R383). -/
def skipPitch (s : State) (n e now : Nat) : State :=
  let w := tblEntry s n e
  let cores := 16 * (members s n).length
  let s1 := modPart s n fun p => { p with started := e :: p.started, pitchTo := now }
  if steadyOf s n then tally s1 n (teJob w) (cores * teBudget w) (cores * teBudget w)
  else if teBe w then
    let r := grantBe s1 n e now
    tally (returnPool r.1 n (r.2.1 - now)) n (teJob w) 0 (cores * (teBudget w + r.2.2))
  else tally (openSeg s1 n now) n (teJob w) 0 (cores * teBudget w)

/-- The pitch of entry `e` takes the partition's cores at cycle `now`. -/
def beginPitch (s : State) (n e now : Nat) : State :=
  let w := tblEntry s n e
  let s0 := each s (members s n) fun s c => modClu s c fun x => { x with haltJ := x.haltJ.filter fun j => j ≠ teJob w }
  let s1 := modPart s0 n fun p => { p with started := e :: p.started }
  if steadyOf s n || !teBe w then
    modPart s1 n fun p => { p with
      pitch := some { entry := e, job := teJob w, rt := !teBe w, start := now, limit := now + teBudget w }, seg := none }
  else
    let r := grantBe s1 n e now
    let t := bgTakes r.1 n (r.2.1 - now)
    modPart t.1 n fun p => { p with
      pitch := some { entry := e, job := teJob w, rt := false, start := now, limit := r.2.1 - t.2, grant := r.2.2 } }

/-- The cycle at which the pitch of entry `e` starts (R54): real-time at its START, best effort at the actual end of the preceding pitch of
the tick or at cycle 50,000; in steady mode every pitch at its START (R383). -/
def pitchFrom (s : State) (n e : Nat) : Nat :=
  if teBe (tblEntry s n e) && !steadyOf s n then (part s n).pitchTo else teStart (tblEntry s n e)

/-- PITCH_START occurs (R50, R54): pitches run, no pitch holds the cores, `e` is the next entry in START order, and its start lies before
the commit window (R24: at a point below OPFLOOR a table may reach beyond it). -/
def pitchStartOk (s : State) (n e : Nat) : Bool :=
  s.clk.phase = .pitches && (part s n).pitch.isNone && ((part s n).st = .running || (part s n).st = .maintenance)
    && (match entriesLeft s n with | x :: _ => x = e | [] => false) && decide (pitchFrom s n e < commitStart s)

/-- A pitch starts (R54). -/
def pitchStartEff (n e : Nat) (s : State) : State :=
  if pitchStartOk s n e then
    let now := pitchFrom s n e
    let s1 := toCycle s now
    if (job s1 n (teJob (tblEntry s n e))).halted then skipPitch s1 n e now else beginPitch s1 n e now
  else s

def execPitchStart (n : Fin 16) (e : Fin 64) (s : State) : Out := .next (pitchStartEff n e s)

/-- JOB_TEARDOWN_DONE (R65): the teardown of a fault completes; a pitch that started in the meantime, of whatever job, has waited
for it: the wait counts as tag stall within the pitch. -/
def jobTeardownDoneEff (n j waited : Nat) (s : State) : State :=
  if (job s n j).busy.isNone then s
  else
    let s1 := modJob s n j fun x => { x with busy := none }
    match (part s n).pitch with
    | some p =>
      if p.t0.isNone then
        let w := max p.tearW (min waited 2048)
        modPart s1 n fun q => { q with pitch := some { p with tearW := w, stalls := (p.start, p.start + w, 2) :: p.stalls } }
      else s1
    | none => s1

def execJobTeardownDone (n : Fin 16) (j : Fin 16) (waited : Nat) (s : State) : Out := .next (jobTeardownDoneEff n j waited s)

end Sys2Proof.Machine
end

