-- ==== Sys2Proof/Machine/VeArith.lean ====
section
/-!
DEFINITION. Registers, elements and masks of the vector engine, and the operation of a tile op (06_vector_gate_fusion R156, R157, R162, R168).
-/
namespace Sys2Proof.Machine

/-! ## Registers and elements (R156, R157) -/

/-- Elements of a type, and bits of each. -/
def tyN (ty : Nat) : Nat := if ty = 2 then 64 else 32
def tyW (ty : Nat) : Nat := if ty = 2 then 16 else 32

/-- The elements of a register. -/
def elems (ty : Nat) (v : VReg) : List Nat := (List.range (tyN ty)).map fun i => fld v.toNat (tyW ty * i) (tyW ty)

/-- Numbers of `w` bits side by side, the first lowest. -/
def packW (w : Nat) (l : List Nat) : Nat := l.foldr (fun x a => x % 2 ^ w + 2 ^ w * a) 0

/-- Fields of a VE slot (R160). -/
def veVD (w : Nat) : Nat := fld w 83 5
def veVA (w : Nat) : Nat := fld w 78 5
def veVB (w : Nat) : Nat := fld w 73 5
def veVC (w : Nat) : Nat := fld w 68 5
def veMK (w : Nat) : Nat := fld w 65 3
def veMZ (w : Nat) : Bool := bitAt w 64
def veTY (w : Nat) : Nat := fld w 61 2
def veIMM (w : Nat) : Bool := bitAt w 60

/-- A mask register; M0 reads all ones. -/
def mreg (x : Core) (k : Nat) : Nat := if k = 0 then 2 ^ 64 - 1 else (smGet 0 x.m k).toNat

/-- Length of an op of a type. -/
def veLen (x : Core) (ty : Nat) : Nat := if ty = 2 then x.vl else min x.vl 32

/-- Element i is not masked (R157). -/
def live (x : Core) (mk ty i : Nat) : Bool := bitAt (mreg x mk) i && decide (i < veLen x ty)

/-- The operands as elements: VA, VB (or the immediate), VC. -/
def vA (x : Core) (w : Nat) : List Nat := elems (veTY w) (smGet 0 x.v (veVA w))
def vB (x : Core) (w imm : Nat) : List Nat :=
  if veIMM w then List.replicate (tyN (veTY w)) (imm % 2 ^ tyW (veTY w)) else elems (veTY w) (smGet 0 x.v (veVB w))
def vC (x : Core) (w : Nat) : List Nat := elems (veTY w) (smGet 0 x.v (veVC w))

/-- A write of elements of `wd` bits from bit `base` of register `r`: `on i` says which are written, `zero i` which become zero
(R157). -/
def regWrite (k r base wd : Nat) (l : List Nat) (on zero : Nat → Bool) : Eff :=
  let mask := packW wd (l.zipIdx.map fun p => if on p.2 || zero p.2 then 2 ^ wd - 1 else 0)
  let val := packW wd (l.zipIdx.map fun p => if on p.2 then p.1 else 0)
  .vreg k r (BitVec.ofNat 1024 (mask * 2 ^ base)) (BitVec.ofNat 1024 (val * 2 ^ base))

/-- The write of a whole register of the op's type under its mask. -/
def veWrite (x : Core) (k w : Nat) (l : List Nat) : Eff :=
  regWrite k (veVD w) 0 (tyW (veTY w)) l (fun i => live x (veMK w) (veTY w) i)
    (fun i => veMZ w && !live x (veMK w) (veTY w) i)

/-- An integer operation of the type, wrapping (R162). -/
def intOp (w : Nat) (f : Int → Int → Int) (a b : Nat) : Nat := lowBits (tyW (veTY w)) (f (sx (tyW (veTY w)) a) (sx (tyW (veTY w)) b))

/-- F32 or integer by the type. -/
def tyOp (w : Nat) (g : Nat → Nat → Nat) (f : Int → Int → Int) : Nat → Nat → Nat := if veTY w = 0 then g else intOp w f

/-- The operation of a tile op on elements a, b and the old d. -/
def tileOp (fn w a b d : Nat) : Nat :=
  match fn with
  | 0 => tyOp w f32Add (fun a b => a + b) a b
  | 1 => tyOp w f32Sub (fun a b => a - b) a b
  | 2 => tyOp w f32Mul (fun a b => a * b) a b
  | 3 => tyOp w f32Max (fun a b => max a b) a b
  | 4 => tyOp w f32Min (fun a b => min a b) a b
  | _ => if veTY w = 0 then f32Fma a b d else lowBits (tyW (veTY w)) (sx (tyW (veTY w)) a * sx (tyW (veTY w)) b + sx (tyW (veTY w)) d)

end Sys2Proof.Machine
end

