-- ==== Sys2Proof/Machine/InFlight.lean ====
section
/-!
DEFINITION. What a cluster has in flight (03_tick_programs R73-R77, R82-R86; 09_memory R255-R261, R265, R266): the bundle at issue, the
effects of ops that fall in later cycles, and how a cluster freezes.
-/
namespace Sys2Proof.Machine

/-! ## Bundle fields (R73, R77) -/

def bHdr (b : Bundle) : Nat := fld b.toNat 496 16
def bHalt (b : Bundle) : Bool := bitAt (bHdr b) 15
def bSync (b : Bundle) : Bool := bitAt (bHdr b) 14
def bBp (b : Bundle) : Bool := bitAt (bHdr b) 13
def bLoopS (b : Bundle) : Bool := bitAt (bHdr b) 12
def bLoopE (b : Bundle) : Bool := bitAt (bHdr b) 11
def bLsel (b : Bundle) : Nat := fld (bHdr b) 9 2
def bImm (b : Bundle) : Nat := fld b.toNat 16 48
def bMeMask (b : Bundle) : Nat := fld b.toNat 480 16
def bVeMask (b : Bundle) : Nat := fld b.toNat 464 16
def bGpMask (b : Bundle) : Nat := fld b.toNat 448 16

/-- The five unit slots of a bundle. -/
inductive USlot where
  | me | ve | gp | lm | nc
  deriving DecidableEq, Repr

/-- The bits of a unit slot. -/
def bSlot (b : Bundle) : USlot → Nat
  | .me => fld b.toNat 352 96
  | .ve => fld b.toNat 256 96
  | .gp => fld b.toNat 192 64
  | .lm => fld b.toNat 128 64
  | .nc => fld b.toNat 64 64

/-- The opcode of a unit slot, its top 8 bits (R74). -/
def bOp (b : Bundle) : USlot → Nat
  | .me => fld b.toNat 440 8
  | .ve => fld b.toNat 344 8
  | .gp => fld b.toNat 248 8
  | .lm => fld b.toNat 184 8
  | .nc => fld b.toNat 120 8

/-- The number under which `did` keeps a unit slot. -/
def uCode : USlot → Nat
  | .me => 4 | .ve => 5 | .gp => 6 | .lm => 7 | .nc => 8

/-- The parts of a bundle that commands carry out: 0 LOOP_S, 4-8 unit slots, 2 SYNC, and the closing part 1 BP, 3 LOOP_E or HALT. -/
def bNeed (b : Bundle) : List Nat :=
  (if bLoopS b then [0] else []) ++ ([.me, .ve, .gp, .lm, .nc].filterMap fun u => if bOp b u = 0 then none else some (uCode u)) ++
    (if bSync b then [2] else []) ++ (if bBp b then [1] else []) ++ (if bLoopE b || bHalt b then [3] else [])

/-! ## The current bundle -/

/-- The image of the job that runs in a cluster. -/
def curImg (s : State) (c : Nat) : JobImg := (job s (curPart s c) (curJob s c)).img

/-- The frame of bundle memory that holds bundle `i` of the slice: of a resident job by its place in the slice (R85), of a paged one the
frame its page was fetched into, none while the page is absent (R86). -/
def bundleFrame (s : State) (c : Nat) (img : JobImg) (i : Nat) : Option Nat :=
  if img.paged then ((clu s c).pages.find? fun p => p.1 = i / 256).map fun p => p.2 else some (nth 0 img.frame0 (i / 256))

/-- Page `p` of the slice is present in a cluster. -/
def pageHere (s : State) (c p : Nat) : Bool := (clu s c).pages.any fun q => q.1 = p

/-- The bundle at index `i` of the slice that runs in cluster `c`, where it is present. -/
def sliceBundle (s : State) (c i : Nat) : Option Bundle :=
  (bundleFrame s c (curImg s c) i).map fun f => bundleAt s c (256 * f + i % 256)

/-- The bundle a cluster is at. -/
def curBundle (s : State) (c : Nat) : Bundle := (sliceBundle s c (clu s c).pc).getD 0

/-- The cycle of the tick in which the cluster's current issue cycle falls (R82). -/
def issueCycle (s : State) (c : Nat) : Nat :=
  let x := clu s c
  match (part s x.part).pitch with
  | some p => (match p.t0 with | some t => t + x.icyc + 4 * x.d + x.frz | none => p.start)
  | none => cycNow s

/-- The limit of the running pitch. -/
def pitchLimit (s : State) (n : Nat) : Nat := match (part s n).pitch with | some p => p.limit | none => 0

/-! ## Effects in flight -/

/-- Write bytes into a scratchpad slot, with its tag; the words that the write touches in part are read first (R265, R266). -/
def slotEff (s0 : State) (core i off : Nat) (bs : List Byte) (full : Option Bool) : State :=
  let s := correct s0 core i ((wordsOf off bs.length).filter fun w => !(decide (off ≤ 8 * w) && decide (8 * w + 8 ≤ off + bs.length)))
  let x := slotAt s core i
  let s1 := countUe s core i (partialBad x.poison off bs.length)
  let y := slotWrite x off bs
  let f := match full with | some f => f | none => y.full
  setSlot s1 core i { y with full := f, open_ := !f }

def coreAt (s : State) (k : Nat) : Core := smGet {} s.cores k
def setCore (s : State) (k : Nat) (x : Core) : State := { s with cores := smSet {} s.cores k x }
def modCore (s : State) (k : Nat) (f : Core → Core) : State := setCore s k (f (coreAt s k))

/-- Append to the summary FIFO, or drop and count (R96). -/
def sumPush (s : State) (c : Nat) (v : DWord) : State :=
  if (clu s c).sum.length < 256 then modClu s c fun x => { x with sum := x.sum ++ [v] }
  else setEvt (bump s (clPg c) 0x118) (clPg c) 2

/-- Replace the bits of `mask`. -/
def mergeBits {w : Nat} (mask old new : BitVec w) : BitVec w := (old &&& ~~~mask) ||| (new &&& mask)

/-- The accumulators of a bank item. -/
def bankItem (x : Core) (bank item : Nat) : List Nat := padTo 64 0 (smGet [] x.bank (bank * 32 + item))

/-- An accumulator after a sum arrives (R121, R123): replaced, or added modulo 2^32, or in FP32 with one rounding. -/
def accum (acc b16 : Bool) (old new : Nat) : Nat :=
  if acc then (if b16 then f32Add old new else (old + new) % 2 ^ 32) else new % 2 ^ 32

/-- Exchange active and shadow of a row, weights and codebook (R109). -/
def swapRowOf (x : Core) (k : Nat) : Core :=
  let a := smGet 0 x.actW k
  let b := smGet 0 x.shdW k
  let ca := smGet 0 x.actC k
  let cb := smGet 0 x.shdC k
  { x with actW := smSet 0 x.actW k b, shdW := smSet 0 x.shdW k a, actC := smSet 0 x.actC k cb, shdC := smSet 0 x.shdC k ca }

/-- An effect on a core's engines; other effects leave them as they are. -/
def coreEff (x : Core) : Eff → Core
  | .vreg _ r mask v => { x with v := smSet 0 x.v r (mergeBits mask (smGet 0 x.v r) v) }
  | .mreg _ r mask v => if r = 0 then x else { x with m := smSet 0 x.m r (mergeBits mask (smGet 0 x.m r) v) }
  | .wrow _ k v => { x with shdW := smSet 0 x.shdW k v }
  | .cbook _ k v => { x with shdC := smSet 0 x.shdC k v }
  | .swapRow _ k => swapRowOf x k
  | .bankHead _ b n es =>
    let y := if b = 0 then { x with cnt0 := n } else { x with cnt1 := n }
    (match es with
     | none => y
     | some l => { y with exps := l.zipIdx.foldl (fun m p => smSet 0 m (b * 32 + p.2) p.1) y.exps })
  | .bankAdd _ b i sums acc b16 =>
    let new := (bankItem x b i).zipIdx.map fun p => if p.2 < sums.length then accum acc b16 p.1 (nth 0 sums p.2) else p.1
    { x with bank := smSet [] x.bank (b * 32 + i) new }
  | .slot .. => x | .tag .. => x | .flags .. => x | .post .. => x

/-- The core an effect on an engine acts on. -/
def effCore : Eff → Option Nat
  | .vreg k .. => some k | .mreg k .. => some k | .wrow k .. => some k | .cbook k .. => some k | .swapRow k .. => some k
  | .bankHead k .. => some k | .bankAdd k .. => some k | .slot .. => none | .tag .. => none | .flags .. => none | .post .. => none

/-- Set the sticky flags OF and NV of a core (05 R153, 06 R170). (DESIGN CHOICE: log entry 18.) -/
def setFlags (s : State) (core : Nat) (fo fn : Bool) : State :=
  if fo || fn then
    let a := clPg (core / 16) + 0x140 + 4 * (core % 16)
    wrN s a (Nat.lor (rdN s a) (2 * b2n fo + b2n fn))
  else s

/-- An effect takes place. (DEDUCED: log entry 18.) -/
def applyEff (s : State) (c : Nat) (e : Eff) : State :=
  match e with
  | .slot core i off bs full _ =>
    let s1 := countBytes (slotEff s core i off bs full) (curPart s c) bs.length
    if partialBad (slotAt s core i).poison off bs.length = [] then s1 else clusFault s1 c 1
  | .tag core i full _ => modSlot s core i fun x => { x with full := full, open_ := x.open_ && !full }
  | .flags core fo fn => setFlags s core fo fn
  | .post v => sumPush s c v
  | e => (match effCore e with | some k => modCore s k fun x => coreEff x e | none => s)

/-- A post waits for its arrival at the FIFO, which is a step of its own (R96). -/
def isPost : Eff → Bool
  | .post _ => true
  | _ => false

/-- SP.FILL and SP.TAG prevail over any other tag change of their cycle (R257): they take place after it. -/
def effLast : Eff → Bool
  | .slot _ _ _ _ _ chk => !chk
  | .tag _ _ _ sp => sp
  | _ => false

/-- A static write that finds its slot FULL (R255). -/
def effBlocked (s : State) : Eff → Bool
  | .slot core i _ _ _ chk => chk && (slotAt s core i).full
  | _ => false

/-- A flag is set at the end of its cycle, whatever freezes in it (06 R170). -/
def isFlags : Eff → Bool
  | .flags .. => true
  | _ => false

/-- The effects of the cycles up to `t` take place at the end of their cycle, in order (R256, R257); posts wait for their arrival, a
static write to a FULL slot for the slot, and in a freeze (`frozen`) the flags for the end of the cycle. (DEDUCED: log entry 17.) -/
def landDue (s : State) (c t : Nat) (frozen : Bool) : State :=
  let x := clu s c
  let ok (p : Nat × Eff) : Bool := decide (p.1 ≤ t) && !isPost p.2 && !effBlocked s p.2 && !(frozen && isFlags p.2)
  let due := x.effs.filter ok
  if due = [] then s
  else
    let s1 := setClu s c { x with effs := x.effs.filter fun p => !ok p }
    each s1 (sortBy (fun p => 2 * p.1 + b2n (effLast p.2)) due) fun s p => applyEff s c p.2

/-- Put effects in flight: `l` gives each its offset from the current issue cycle. -/
def later (s : State) (c : Nat) (l : List (Nat × Eff)) : State :=
  if l = [] then s
  else modClu s c fun x => { x with effs := x.effs ++ l.map fun p => (x.icyc + p.1, p.2) }

/-! ## Stalls (R83, R255, R260) -/

/-- A descriptor moves data to or from HBM. -/
def descHbm (d : Desc) : Bool := (dOp d.d = 1 && dSkind d.d = 1) || dDkind d.d = 1

/-- A descriptor of cluster `c`, in progress or still queued, is to fill or drain a slot. -/
def descTouches (s : State) (n c : Nat) (d : Desc) (core i : Nat) : Bool :=
  let side (a : Nat) (w : Bool) : Bool :=
    match descSlots s n c a (dLen d.d) w with
    | some l => l.any fun q => q.1 = core && q.2.1 = i
    | none => false
  if d.started then (d.src ++ d.dst).any fun q => q.1 = core && q.2.1 = i
  else (dOp d.d = 1 && dSkind d.d = 0 && side (dSaddr d.d) false) || (dDkind d.d = 0 && side (dDaddr d.d) true)

/-- A read at use of cluster `c`, queued or running, is to fill a slot of its ring (10 R298, R302). -/
def expTouches (s : State) (c : Nat) (q : ExpRun) (core i : Nat) : Bool :=
  let e := hentry s c (fld q.dst 14 10)
  (dstCores e (bitAt q.dst 31) (fld q.dst 24 4)).contains core &&
    decide (heFirst e + fld q.dst 0 10 ≤ i) && decide (i < heFirst e + fld q.dst 0 10 + q.ring)

/-- The class of a static wait on a slot (09_memory, wait causes): HBM when a transfer of HBM or the expander is to fill or drain it, NoC when
a NoC copy or link receive is, else tag. For ME.ATTN a link receive counts as HBM too (08 R236). -/
def waitClass (s : State) (n core i : Nat) (attn : Bool) : Nat :=
  let ms := members s n
  let dm := ms.any fun c =>
    let x := clu s c
    ((x.q0 ++ x.q1).any fun d => descHbm d && descTouches s n c d core i) ||
      ((x.expQ ++ x.expRun.toList).any fun q => expTouches s c q core i)
  let rx := (bly s n).rx.any fun m => m.slots.any fun q => q.1 = core && q.2.1 = i
  let nc := s.noc.any fun p => p.2.any fun o => (o.src ++ o.dst).any fun q => q.1 = core && q.2 = i
  if dm || (attn && rx) then 0 else if nc || rx then 1 else 2

/-- The cluster freezes (R83). -/
def freeze (s : State) (c : Nat) (w : Wait) (cls : Nat) : State :=
  modClu s c fun x => { x with wait := some w, waitAt := issueCycle s c, waitCls := cls }

/-- The first slot that is not ready for a reader, as a wait. -/
def waitRead (s : State) (l : List Ref) : Option Wait :=
  l.findSome? fun r => match r with
    | .slot core i => if (slotAt s core i).full then none else some (.slotFull core i)
    | .pad => none

/-- The first slot that is not ready for a writer. -/
def waitWrite (s : State) (l : List Ref) : Option Wait :=
  l.findSome? fun r => match r with
    | .slot core i => if (slotAt s core i).full then some (.slotEmpty core i) else none
    | .pad => none

/-- The class of a wait; one on a slot of another cluster counts as NoC (wait causes of 09). -/
def classOf (s : State) (c : Nat) (w : Wait) (attn : Bool) : Nat :=
  match w with
  | .slotFull core i => if core / 16 = c then waitClass s (curPart s c) core i attn else 1
  | .slotEmpty core i => if core / 16 = c then waitClass s (curPart s c) core i attn else 1
  | .page _ => 0 | .queue1 _ => 0 | .noc _ => 1 | .remote .. => 1 | .port => 2

/-- Freeze on a wait with its class: the static writes of the cycle that can be made are made (06 R188). -/
def freezeOn (s : State) (c : Nat) (w : Wait) : State := landDue (freeze s c w (classOf s c w false)) c (clu s c).icyc true

/-! ## The scratchpad port (R260) -/

/-- Static reads move their bytes at the ports of their cores. -/
def chargePort (s : State) (c : Nat) (l : List Rd) : State :=
  let add (m : SMap Nat) (q : Rd) : SMap Nat :=
    match q.r with
    | .slot core _ => smSet 0 m core (smGet 0 m core + q.len)
    | .pad => m
  if l = [] then s else modClu s c fun x => { x with port := l.foldl add x.port }

/-- Bytes that the static accesses of the issue cycle move at a core's port: reads made and writes of the cycle. -/
def portBytes (s : State) (c core : Nat) : Nat :=
  let x := clu s c
  (x.effs.filter fun p => p.1 = x.icyc).foldl (fun n p => match p.2 with
    | .slot k _ _ bs _ _ => if k = core then n + bs.length else n
    | _ => n) (smGet 0 x.port core)

/-! ## ME.ATTN in progress (08_attention R236-R244) -/

/-- The ME of R106, the rest of the core as it stands. -/
def meClear (x : Core) (mode : Nat) (au : Bool) : Core :=
  { x with mode := mode, au := au, actW := [], shdW := [], actC := [], shdC := [], bank := [], exps := [], cnt0 := 0, cnt1 := 0 }

/-- A kept slot as an operand slot, and back. -/
def refOf : Option (Nat × Nat) → Ref
  | some p => .slot p.1 p.2
  | none => .pad
def slotOf : Ref → Option (Nat × Nat)
  | .slot c i => some (c, i)
  | .pad => none

/-- All bytes of kept slots. -/
def keptBytes (s : State) (l : List (Option (Nat × Nat))) : List Byte := l.flatMap fun q => slotBytes (refData s (refOf q)) 0 256

/-- Fields of the op: nq, FIN (R229). -/
def atNq (r : AttnRun) : Nat := fld r.bits 11 5 + 1
def atFin (r : AttnRun) : Bool := bitAt r.bits 9

/-- Block positions delivered (R232); none in a merge. -/
def atNbv (r : AttnRun) : Nat := if bitAt r.bits 8 then 0 else bf r.record 4 2

def atRho (r : AttnRun) : Nat := if adNh r.desc = 0 then atNq r else atNq r / adNh r.desc


end Sys2Proof.Machine
end

