-- ==== Sys2Proof/Machine/Runs.lean ====
section
/-!
DEFINITION. Stall episodes (03_tick_programs R83) and ops in flight whose reads fall after their issue cycle: each read is made in its own
cycle, on the tags and data of that cycle (09_memory R255, R256, R260, R261, R273; 04 R107-R113; 06 R168, R173-R178; 08 R236-R244).
-/
namespace Sys2Proof.Machine

/-! ## Stall episodes (R83) -/

/-- `k` stalled cycles of a pitch from cycle `a`, of a class of R62. -/
def addStall (s : State) (n a k cls : Nat) : State :=
  modPart s n fun q => { q with pitch := q.pitch.map fun p => { p with stalls := (a, a + k, cls) :: p.stalls } }

/-- An episode of `k` cycles ends: the member goes on, and every other member freezes for as many from 4 cycles per hop after this one
froze (R83). -/
def endStall (s : State) (c k : Nat) : State :=
  let x := clu s c
  let ms := members s x.part
  let s1 := each s ms fun s m => if m = c then s else modClu s m fun y => { y with far := y.far ++ [(x.waitAt + 4 * hops ms c m, k)] }
  let s2 := modClu s1 c fun y => { y with frz := y.frz + k, wait := none }
  toCycle (addStall s2 x.part x.waitAt k x.waitCls) (x.waitAt + k)

/-- Episodes of other members that have reached this one freeze it, each for its length; one that finds it frozen lengthens its freeze
(R83). -/
def applyFar (s : State) (c : Nat) : State :=
  if (clu s c).far = [] then s
  else each s (sortBy (fun p => p.1) (clu s c).far) fun s p =>
    if p.1 ≤ issueCycle s c then modClu s c fun x => { x with frz := x.frz + p.2, far := x.far.erase p } else s

/-- A cluster that has reached the cycle in which another member's stall episode freezes it: 4 cycles per hop after that member froze
(R83). (DEDUCED: log entry 19.) -/
def heldBack (s : State) (c : Nat) : Bool :=
  let ms := members s (clu s c).part
  ms.any fun m => m ≠ c && (clu s m).run && (clu s m).wait.isSome &&
    decide ((clu s m).waitAt + 4 * hops ms m c ≤ issueCycle s c)

/-- A freeze of known length for the scratchpad port, `k` cycles from cycle `a` (R260). -/
def portStall (s : State) (c a k : Nat) : State :=
  if k = 0 then s else endStall (modClu s c fun x => { x with wait := some .port, waitAt := a, waitCls := 2 }) c k

/-! ## Remote accesses (R273) -/

/-- Mesh hops between two clusters. (DEDUCED: log entry 19.) -/
def meshDist (a b : Nat) : Nat := (gx a - gx b) + (gx b - gx a) + (gy a - gy b) + (gy b - gy a)

/-- Cycles a remote access of one core takes at least (R273): n slots over the hops to the farthest of them; 0 when none is remote. (DEDUCED: log entry 19.) -/
def remoteCyc (c mult : Nat) (l : List Ref) : Nat :=
  let far := l.filterMap fun r => match r with
    | .slot core _ => if core / 16 = c then none else some (meshDist c (core / 16))
    | .pad => none
  if far = [] then 0 else 6 + 4 * far.foldl max 0 + 8 * (mult * far.length)

/-- A remote slot that an access touches. (DEDUCED: log entry 19.) -/
def remoteSlot (c : Nat) (l : List Ref) : Option (Nat × Nat) :=
  l.findSome? fun r => match r with
    | .slot core i => if core / 16 = c then none else some (core, i)
    | .pad => none

/-- A remote access made in the issue cycle freezes the cluster from the next one, for at least `k` cycles. -/
def noteRemote (s : State) (c k : Nat) (l : List Ref) : State :=
  match remoteSlot c l with
  | some q => if k = 0 then s else modClu s c fun x => { x with
      rem := some (q.1, q.2, max k (match x.rem with | some z => z.2.2 | none => 0)) }
  | none => s

/-! ## Reads in flight -/

/-- What a read in flight comes to: it waits on a slot, it meets an uncorrectable word and faults the job, or its bytes. -/
inductive Got where
  | wait (w : Wait)
  | fault (s : State)
  | bytes (s : State) (bs : List Byte)

/-- The bytes of reads. -/
def rdBytes (s : State) (l : List Rd) : List Byte := l.flatMap fun x => slotBytes (refData s x.r) x.off x.len

/-- Reads of one cycle (R113, R255, R260, R266, R273). -/
def runRead (s : State) (c : Nat) (l : List Rd) : Got :=
  match waitRead s (l.map fun x => x.r) with
  | some w => .wait w
  | none =>
    let refs := l.map fun x => x.r
    if l.any fun x => !(rdBad s x).isEmpty then .fault (clusFault (readAll s l) c 1)
    else .bytes (noteRemote (chargePort (readAll s l) c l) c (remoteCyc c 1 refs) refs) (rdBytes s l)

/-- The outcome of an event of a run: it waits, its job has faulted, or it goes on (done when `next` is 0). -/
inductive Ran where
  | wait (w : Wait)
  | fault (s : State)
  | on (s : State) (r : OpRun)

/-- Carry on with the bytes read, or with the wait or fault. -/
def Got.andThen (g : Got) (f : State → List Byte → Ran) : Ran :=
  match g with
  | .wait w => .wait w
  | .fault s => .fault s
  | .bytes s bs => f s bs

/-- Effects of a run at absolute issue cycles. -/
def addEffs (s : State) (c : Nat) (l : List (Nat × Eff)) : State :=
  if l = [] then s else modClu s c fun x => { x with effs := x.effs ++ l }

/-- Units of a core (0 ME, 1 VE, 2 GP) are booked up to issue cycle `t` by an op whose occupancy only its operands give, so that the loader
could not hold other ops to it (R76, R177, R244). -/
def bookUntil (s : State) (c core t : Nat) (units : List Nat) : State :=
  modClu s c fun x => { x with busy := (units.map fun u => (4 * core + u, t)) ++ x.busy.filter fun p => decide (x.icyc < p.2) }

/-- Such a booking still holds. -/
def bookedNow (s : State) (c core u : Nat) : Bool := (clu s c).busy.any fun p => p.1 = 4 * core + u && decide ((clu s c).icyc < p.2)

/-- A whole-slot static write of a kept slot. -/
def putKept (t : Nat) (q : Option (Nat × Nat)) (bs : List Byte) : List (Nat × Eff) :=
  match q with
  | some p => [(t, .slot p.1 p.2 0 bs (some true) true)]
  | none => []

/-- Flags set in a cycle take their place at its end, so that no clear of the cycle removes them (R170, R189). -/
def flagEff (t core : Nat) (fo fn : Bool) : List (Nat × Eff) := if fo || fn then [(t, .flags core fo fn)] else []

/-- Part of kept slot `i` of a list. -/
def keptRd (l : List (Option (Nat × Nat))) (i off len : Nat) : Rd := { r := refOf (nth none l i), off := off, len := len }

/-! ## ME.STREAM in flight (04 R108, R109, R116-R123; 06 R181) -/

def srNb (w : Nat) : Nat := fld w 35 5 + 1
def srAcc (w : Nat) : Bool := bitAt w 34
def srSwap (w : Nat) : Bool := bitAt w 33
def srBank (w : Nat) : Nat := fld w 32 1

/-- The item exponent that the bank will hold in the STREAM's write window (R117, R121): its own with ACC = 0, else those of the last STREAM
with ACC = 0 into the bank issued before, which its window follows. (DEDUCED: log entry 42.) -/
def bankExp (s : State) (c : Nat) (r : OpRun) (b : Nat) : Int :=
  let x := clu s c
  let bank := srBank r.bits
  if !srAcc r.bits then sx 8 (nth 0 r.ws b)
  else
    let ahead := x.runs.filter fun q => q.kind = .stream && q.core = r.core && srBank q.bits = bank && !srAcc q.bits && decide (q.start < r.start)
    match (sortBy (fun q => q.start) ahead).getLast? with
    | some q => sx 8 (nth 0 q.ws b)
    | none =>
      let heads := x.effs.filterMap fun p => match p.2 with
        | .bankHead k bk _ (some es) => if k = r.core ∧ bk = bank then some (p.1, es) else none
        | _ => none
      match (sortBy (fun p => p.1) heads).getLast? with
      | some p => if b < p.2.length then nth 0 p.2 b else smGet 0 (coreAt s r.core).exps (bank * 32 + b)
      | none => smGet 0 (coreAt s r.core).exps (bank * 32 + b)

/-- Item `b` enters the array: its codes, through the prologue's latches where the STREAM has one, with OF and NV. -/
def streamItem (s : State) (c : Nat) (r : OpRun) (b : Nat) (bs : List Byte) : List Int × Bool × Bool :=
  let x := coreAt s r.core
  let raw := actItem r.mode x.au bs 0
  let kind := proKind r.bits
  if kind = 0 then (raw, false, false)
  else
    let q := raw.map fun v => proElem kind x.pFn (nth 0 x.pEin b) (nth 0 x.pMu b) (nth 0 x.pR b) (bankExp s c r b) v
    (q.map fun v => v.1, q.any fun v => v.2.1, q.any fun v => v.2.2)

/-- The bytes of item `b`'s vector (R116). -/
def itemRd (mode : Nat) (l : List (Option (Nat × Nat))) (b : Nat) : Rd :=
  let st := if mode = 4 then 64 else 32
  keptRd l (st * b / 256) (st * b % 256) st

/-- Item 0 reaches row `k` (R109): the row it meets, and the exchange where the STREAM makes it. -/
def streamRow (s : State) (r : OpRun) (k : Nat) : List Int :=
  let x := coreAt s r.core
  let v := smGet 0 (if srSwap r.bits then x.shdW else x.actW) k
  let cb := smGet 0 (if srSwap r.bits then x.shdC else x.actC) k
  (List.range (meCols r.mode)).map fun n => weightAt r.mode v cb n

/-- Once item 0 has met every row the sums are known; they reach the bank in the STREAM's write window (R108, R117, R121). -/
def streamSums (r : OpRun) : List (Nat × Eff) :=
  let bank := srBank r.bits
  let t := r.start + bankAt r.mode
  let acc := srAcc r.bits
  (if acc then [] else [(t, .bankHead r.core bank r.nb (if r.mode = 4 then none else some (r.ws.map fun e => sx 8 e)))]) ++
    r.items.zipIdx.map fun p => (t + itemStep r.mode * p.2,
      .bankAdd r.core bank p.2 ((List.range (meCols r.mode)).map fun n => colSum r.mode p.1.1 r.rows n) acc (r.mode = 4))

/-- What cycle `start + next` of a STREAM does after its item, if one is read in it, has entered. -/
def streamOn (s : State) (c : Nat) (r : OpRun) : Ran :=
  let st := itemStep r.mode
  let u := r.start + r.next
  let k := (r.next - 1) / st
  if (r.next - 1) % st = 0 && decide (k < 32) then
    let r1 := { r with rows := r.rows ++ [streamRow s r k] }
    let s1 := if srSwap r.bits then addEffs s c [(u, .swapRow r.core k)] else s
    if k = 31 then .on (addEffs s1 c (streamSums r1)) { r1 with next := 0 } else .on s1 { r1 with next := r.next + 1 }
  else .on s { r with next := r.next + 1 }

def streamStep (s : State) (c : Nat) (r : OpRun) : Ran :=
  let st := itemStep r.mode
  let b := r.next / st
  if r.next % st = 0 && decide (b < r.nb) then
    (runRead s c [itemRd r.mode r.src b]).andThen fun s bs =>
      let it := streamItem s c r b bs
      streamOn (addEffs s c (flagEff (r.start + r.next) r.core it.2.1 it.2.2)) c { r with items := r.items ++ [(it.1, 0)] }
  else streamOn s c r

/-! ## ME.DRAIN in flight (04 R111, R124-R129; 06 R184) -/

/-- Drain length (R111). -/
def drainLen (mode nb : Nat) : Nat := if isTa mode then nb else cdiv nb 2

/-- The results of item `b`: codes with their exponent, or the FP32 words of B16 mode as codes. -/
def drainItem (x : Core) (r : OpRun) (b : Nat) : List Int × Int :=
  let bank := fld r.bits 39 1
  let accs := bankItem x bank b
  let bias (n : Nat) : Nat := leNat ((r.got.drop (4 * n)).take 4)
  if r.mode = 4 then ((List.range 32).map fun n => ((epilogueF (nth 0 accs n) (bias n) : Nat) : Int), 0)
  else
    let par := epPar r.got
    let e := smGet 0 x.exps (bank * 32 + b)
    let out := fld r.bits 37 2
    ((List.range (meCols r.mode)).map fun n => (epilogue out (nth 0 accs n) e (bias n) par).1, (epilogue out 0 e 0 par).2)

/-- The bytes of part `prt` of a result item in format OUT (R128). -/
def drainBytes (out : Nat) (res : List (List Int × Int)) (b prt : Nat) : List Byte :=
  (List.range 32).flatMap fun i =>
    let v := nth 0 (nth ([], 0) res b).1 (32 * prt + i)
    if out = 2 then natLe 4 v.toNat else if out = 3 then natLe 2 (bfEncMe v.toNat) else natLe (outW out) (lowBits (8 * outW out) v)

/-- The writes of the output block, each in its cycle, the exponents last (R111, R128). -/
def drainWrites (r : OpRun) (res : List (List Int × Int)) : List (Nat × Eff) :=
  let out := fld r.bits 37 2
  let d := drainLen r.mode r.nb
  let data := (List.range d).flatMap fun j => (outPieces r.mode r.nb out j (drainBytes out res)).flatMap fun q =>
    match nth none r.dst q.1 with
    | some p => [(r.start + 8 + j, Eff.slot p.1 p.2 q.2.1 q.2.2.1 (if q.2.2.2 then some true else none) true)]
    | none => []
  let last := r.dst.length - 1
  data ++ (if r.mode = 4 then [] else
    putKept (r.start + 8 + d) (nth none r.dst last) (padTo 256 0 (res.map fun q => BitVec.ofNat 8 (lowBits 8 q.2))))

/-- The row statistics after a drain (R184), with OF and NV. -/
def drainStats (x : Core) (w : Nat) (res : List (List Int × Int)) : List (Nat × Nat) × Bool × Bool :=
  let rs0 := padTo 32 (0, 0) (if bitAt w 34 then [] else x.rs)
  let rs1 := rs0.zipIdx.map fun p => match res[p.2]? with | some q => rsAdd p.1 q.1 q.2 | none => p.1
  let ws := (rs1.take res.length).flatMap fun p => [p.1, p.2]
  (rs1, ws.any isInf || res.any fun q => q.1.any fun v => (decCode v q.2).2, ws.any isNan)

/-- The epilogue runs: results, row statistics, the gate pipeline's buffer, and the writes to come. -/
def drainOut (s : State) (c : Nat) (r : OpRun) : Ran :=
  let x := coreAt s r.core
  let res := (List.range r.nb).map fun b => drainItem x r b
  let gp := bitAt r.bits 36
  let st := drainStats x r.bits res
  let rsEn := bitAt r.bits 35
  let y := { x with rs := if rsEn then st.1 else x.rs, gp := if gp then res else x.gp }
  let s1 := if rsEn || gp then setCore s r.core y else s
  let endW := r.third.flatMap fun q =>
    putKept (r.start + 10 + drainLen r.mode r.nb) q (st.1.flatMap fun p => natLe 4 p.1 ++ natLe 4 p.2)
  .on (addEffs s1 c ((if gp then [] else drainWrites r res) ++ endW ++
    flagEff (r.start + r.next) r.core (rsEn && st.2.1) (rsEn && st.2.2))) { r with next := 0 }

def drainStep (s : State) (c : Nat) (r : OpRun) : Ran :=
  if r.next = 1 then
    (runRead s c [keptRd r.src 1 0 8]).andThen fun s bs => .on s { r with got := r.got ++ bs, next := 2 }
  else drainOut s c r

/-! ## GP.CHAIN in flight (06 R171-R178) -/

/-- The operands that a parameter block names (R172, R176): destination, state, X and channel slots; none where one is refused. -/
def chainOps (s : State) (c k nb nc w : Nat) (p : GpPar) : Option (List Ref × List Ref × List Ref × List Ref) :=
  let n := nb * nc
  match opSlots s c (k % 16) (fld w 32 24) (cdiv (n * gpOutW p.ofmt) 256 + (if p.ofmt = 3 ∨ p.ofmt = 4 then 1 else 0)) true,
        (if gpReadsS p then opSlots s c (k % 16) p.sref (cdiv (n * gpOutW p.ofmt) 256) false else some []),
        (if gpReadsX p then opSlots s c (k % 16) p.xref (cdiv (n * gpXW p.xfmt) 256) false else some []),
        (if gpReadsC p then opSlots s c (k % 16) p.cref 2 false else some []) with
  | some d, some a, some b, some q => some (d, a, b, q)
  | _, _, _, _ => none

/-- The cause with which a GP.CHAIN is refused for its parameters (R172, R268). -/
def chainBad (s : State) (c k nb nc w : Nat) (p : GpPar) : Option Nat :=
  if gpBadPar p then some 3 else if (chainOps s c k nb nc w p).isNone then some 4 else none

/-- Reads of elements [64j, 64j + m) of an operand whose elements are `w` bytes wide (R176). -/
def groupRds (l : List (Option (Nat × Nat))) (w j m : Nat) : List Rd :=
  if w = 8 then (if m = 0 then [] else keptRd l (2 * j) 0 256 :: if 32 < m then [keptRd l (2 * j + 1) 0 256] else [])
  else if m = 0 then [] else [keptRd l (64 * j * w / 256) (64 * j * w % 256) (m * w)]

/-- The port bytes of a group's reads: spread over the k cycles of the group, and with the writes of the cycle at most 256 B, which is all
that the GP moves in a cycle (R177). (DESIGN CHOICE: log entry 18.) -/
def gpPort (s : State) (c : Nat) (l : List Rd) (r : OpRun) (p : GpPar) : State :=
  let kk := gpRate p
  let wr := if 21 ≤ r.next ∧ (r.next - 21) % kk = 0 then 64 * gpOutW p.ofmt else 0
  match l with
  | [] => s
  | x :: _ => chargePort s c [{ x with len := min (256 - wr) (l.foldl (fun n q => n + q.len) 0 / kk) }]

/-- Group `j` of the results runs through the stages (R173, R175, R176): the stored bytes of each element, and the flags. -/
def chainGroup (x : Core) (r : OpRun) (p : GpPar) (j m : Nat) (sb xb : List Byte) : List (List Byte × List Byte) × Bool × Bool :=
  let nc := meCols r.mode
  let word (bs : List Byte) (i : Nat) : Nat := leNat ((bs.drop (4 * i)).take 4)
  let out := (List.range m).map fun i =>
    let e := 64 * j + i
    let it := nth ([], 0) x.gp (e / nc)
    let col := e % nc
    let f := gpFront (nth 0 it.1 col) it.2 (word r.got col) (word (r.got.drop 256) col) p.fn
    let sp := if p.ofmt = 2 then gpPair sb i else (gpElem sb (gpOutW p.ofmt) i, 0)
    let y := gpCombine p f.1 sp.1 sp.2 (gpElem xb (gpXW p.xfmt) i) (word (r.got.drop 768) col) (word (r.got.drop 1024) col)
    let z := gpStore p y.1
    (z.1, f.2.1 || y.2.1 || z.2.1, f.2.2 || y.2.2 || z.2.2)
  (out.map fun o => o.1, out.any fun o => o.2.1, out.any fun o => o.2.2)

/-- The writes of group `j` in cycle `t` (R176, R177); `fin` says that it is the last. -/
def groupWrites (p : GpPar) (dl : List (Option (Nat × Nat))) (t j : Nat) (fin : Bool) (es : List (List Byte × List Byte)) : List (Nat × Eff) :=
  let w := gpOutW p.ofmt
  if p.ofmt = 2 then
    (List.range 2).flatMap fun h =>
      let q := (es.drop (32 * h)).take 32
      if q = [] then []
      else match nth none dl (2 * j + h) with
        | some z => [(t, Eff.slot z.1 z.2 0 (q.flatMap fun e => e.1) none true), (t, Eff.slot z.1 z.2 128 (q.flatMap fun e => e.2) (some true) true)]
        | none => []
  else
    let q := 64 * j * w / 256
    match nth none dl q with
    | some z => [(t, Eff.slot z.1 z.2 (64 * j * w % 256) (es.flatMap fun e => e.1)
        (if fin || decide (64 * (j + 1) * w / 256 ≠ q) then some true else none) true)]
    | none => []

/-- Element groups of a chain. -/
def chainGrps (r : OpRun) : Nat := cdiv (r.nb * meCols r.mode) 64

/-- Group `j` of a chain in the cycle in which it reads. -/
def chainGo (s : State) (c : Nat) (r : OpRun) (p : GpPar) (j : Nat) : Ran :=
  let m := min 64 (r.nb * meCols r.mode - 64 * j)
  let kk := gpRate p
  let fin := decide (j + 1 = chainGrps r)
  let srd := groupRds r.state (gpOutW p.ofmt) j (if gpReadsS p then m else 0)
  let xrd := groupRds r.x (gpXW p.xfmt) j (if gpReadsX p then m else 0)
  match waitRead s ((srd ++ xrd).map fun q => q.r) with
  | some w => .wait w
  | none =>
    if (srd ++ xrd).any fun q => !(rdBad s q).isEmpty then .fault (clusFault (readAll s (srd ++ xrd)) c 1)
    else
      let refs := (srd ++ xrd).map fun q => q.r
      let s1 := noteRemote (gpPort (readAll s (srd ++ xrd)) c (srd ++ xrd) r p) c (remoteCyc c 1 refs) refs
      let o := chainGroup (coreAt s r.core) r p j m (rdBytes s srd) (rdBytes s xrd)
      let t := r.start + 21 + kk * j
      let ex := if fin && (p.ofmt = 3 || p.ofmt = 4) then
          putKept (t + 1) (nth none r.dst (r.dst.length - 1)) (padTo 256 0 (List.replicate r.nb (BitVec.ofNat 8 (lowBits 8 p.eout)))) else []
      let s2 := addEffs s1 c (groupWrites p r.dst t j fin o.1 ++ ex ++ flagEff (r.start + r.next) r.core o.2.1 o.2.2)
      if fin then .on (modCore s2 r.core fun x => { x with gp := [] }) { r with next := 0 } else .on s2 { r with next := r.next + kk }

/-- The parameter block's last slot has been read: the parameters are judged and the operands resolved (R172). -/
def chainPars (s : State) (c : Nat) (r : OpRun) : Ran :=
  let p := gpPar (r.got.drop 512)
  match chainBad s c r.core r.nb (meCols r.mode) r.bits p, chainOps s c r.core r.nb (meCols r.mode) r.bits p with
  | some k, _ => .fault (clusFault s c k)
  | none, none => .fault (clusFault s c 4)
  | none, some o =>
    let kp (l : List Ref) := l.map slotOf
    let r1 := { r with dst := kp o.1, state := kp o.2.1, x := kp o.2.2.1, third := kp o.2.2.2 }
    if chainGrps r = 0 then .on s { r1 with next := 0 }
    else
      let t := r.start + 22 + gpRate p * (chainGrps r - 1) + (if p.ofmt = 3 ∨ p.ofmt = 4 then 1 else 0)
      .on (bookUntil s c r.core t [2]) { r1 with next := if gpReadsC p then 3 else 9 }

def chainStep (s : State) (c : Nat) (r : OpRun) : Ran :=
  let p := gpPar (r.got.drop 512)
  let nc := meCols r.mode
  if r.next = 1 then
    (runRead s c [keptRd r.src 1 0 (4 * nc)]).andThen fun s bs => .on s { r with got := r.got ++ padTo 256 0 bs, next := 2 }
  else if r.next = 2 then
    (runRead s c [keptRd r.src 2 0 14]).andThen fun s bs => chainPars s c { r with got := r.got ++ padTo 256 0 bs }
  else if r.next < 9 then
    (runRead s c [keptRd r.third (r.next - 3) 0 (4 * nc)]).andThen fun s bs =>
      .on s { r with got := r.got ++ padTo 256 0 bs, next := if r.next = 3 then 4 else 9 }
  else chainGo s c r p ((r.next - 9) / gpRate p)

/-! ## VTILE, SP.COPY and SP.DMA in flight (06 R168; 09 R263, R264) -/

/-- Row `i` of a VTILE, read in its cycle; the mask and VB are those of the issue cycle. -/
def tileRow (y : Core) (r : OpRun) (i : Nat) : List (Nat × Eff) :=
  let w := r.bits
  let ty := veTY w
  let fn := fld w 57 3
  let a := elems ty (smGet 0 y.v ((veVA w + i) % 32))
  let d := elems ty (smGet 0 y.v ((veVD w + i) % 32))
  let row := (List.range (tyN ty)).map fun j => tileOp fn w (nth 0 a j) (nth 0 r.ws (if bitAt w 56 then i else j)) (nth 0 d j)
  let on (e : Nat) : Bool := bitAt r.part e
  let fl (f : Nat → Bool) : Bool := decide (ty = 0) && row.zipIdx.any fun p => on p.2 && f p.1
  (r.start + i + (if fn = 5 then 4 else 3), regWrite r.core ((veVD w + i) % 32) 0 (tyW ty) row on (fun e => veMZ w && !on e)) ::
    flagEff (r.start + i) r.core (fl isInf) (fl isNan)

def tileStep (s : State) (c : Nat) (r : OpRun) : Ran :=
  .on (addEffs s c (tileRow (coreAt s r.core) r r.next)) { r with next := if r.next = fld r.bits 51 5 then 0 else r.next + 1 }

/-- Slot j of an SP.COPY is read in cycle 1 + 2j and written in cycle 2 + 2j. -/
def copyStep (s : State) (c : Nat) (r : OpRun) : Ran :=
  let j := (r.next - 1) / 2
  (runRead s c [keptRd r.src j 0 256]).andThen fun s bs =>
    let u := r.start + r.next
    let take := if bitAt r.bits 0 then (match nth none r.src j with | some p => [(u, Eff.tag p.1 p.2 false false)] | none => []) else []
    .on (addEffs s c (putKept (u + 1) (nth none r.dst j) bs ++ take)) { r with next := if j + 1 = r.src.length then 0 else r.next + 2 }

/-- Room in the program queue for `n` descriptors (R264). -/
def queueRoom (s : State) (c n : Nat) : Bool := decide ((clu s c).q1.length + n ≤ 64)

/-- Descriptors go to the program queue of a cluster (R263). -/
def submitAll (s : State) (c : Nat) (bs : List Byte) : State :=
  modClu s c fun x => { x with q1 := x.q1 ++ (List.range (bs.length / 64)).map fun i =>
    { d := BitVec.ofNat 512 (leNat ((bs.drop (64 * i)).take 64))
      entry := (match (part s x.part).pitch with | some p => p.entry | none => 0), job := curJob s c } }

/-- SP.DMA reads its descriptors in cycle 1 and appends them in cycle 2, when the queue has room. -/
def dmaStep (s : State) (c : Nat) (r : OpRun) : Ran :=
  if r.next = 1 then
    (runRead s c (r.src.map fun q => { r := refOf q, off := 64 * fld r.bits 30 2, len := 64 * (fld r.bits 28 2 + 1) })).andThen fun s bs =>
      .on s { r with got := bs, next := 2 }
  else if queueRoom s c (r.got.length / 64) then .on (submitAll s c r.got) { r with next := 0 }
  else .wait (.queue1 (r.got.length / 64))

/-! ## ME.LOADW in flight (04 R110, R114; 09 R260, R261) -/

/-- Weight rows that the bytes read so far complete go into the shadow, row k in cycle 6 + k. -/
def loadwRows (r : OpRun) (old : Nat) : List (Nat × Eff) :=
  let rw := meRowW r.mode
  ((List.range 32).filter fun k => decide (old < rw * (k + 1)) && decide (rw * (k + 1) ≤ r.got.length)).map fun k =>
    (r.start + 6 + k, .wrow r.core k (BitVec.ofNat 512 (leNat ((r.got.drop (rw * k)).take rw))))

/-- The slot that an ME.LOADW reads next. -/
def loadwAt (r : OpRun) : Ref := refOf (nth none r.src (r.got.length / 256))

/-- The port moves up to `room` bytes for one ME.LOADW: the state, the run, and what is left of the room. -/
def loadwMove (s : State) (c : Nat) (r : OpRun) (room : Nat) : State × OpRun × Nat :=
  let q := loadwAt r
  if r.next = 0 || room = 0 || !refFull s q then (s, r, room)
  else
    let k := min room (256 - r.part)
    if r.part + k < 256 then (s, { r with part := r.part + k }, room - k)
    else
      let rd : Rd := { r := q }
      let s1 := noteRemote (readAll s [rd]) c (remoteCyc c 1 [q]) [q]
      let r1 := { r with got := r.got ++ slotBytes (refData s q) 0 256, part := 0 }
      let r2 := { r1 with next := if r1.got.length / 256 < r1.src.length then r1.next else 0 }
      if !(rdBad s rd).isEmpty then (clusFault s1 c 1, r, 0)
      else (addEffs s1 c (loadwRows r2 r.got.length), r2, room - k)

/-- The room of core `core`'s port goes to its ME.LOADWs, oldest first (R260). -/
def loadwServe (s : State) (c core room : Nat) : State :=
  ((List.range (clu s c).runs.length).foldl (fun (a : State × Nat) i =>
    match (clu a.1 c).runs[i]? with
    | some r =>
      if r.kind = .loadw && r.core = core && decide (0 < a.2) then
        let m := (List.range 2).foldl (fun (m : State × OpRun × Nat) _ => loadwMove m.1 c m.2.1 m.2.2) (a.1, r, a.2)
        (if (clu m.1 c).run then modClu m.1 c fun x => { x with runs := setNth x.runs i m.2.1 } else m.1, m.2.2)
      else a
    | none => a) (s, room)).1

/-- An ME.LOADW whose row for this issue cycle lies in a slot not yet read (R261). -/
def loadwLate (s : State) (c : Nat) : Option OpRun :=
  let u := (clu s c).icyc
  (clu s c).runs.find? fun r => r.kind = .loadw && decide (r.start + 6 ≤ u) && decide (u < r.start + 38) &&
    decide (r.got.length < meRowW r.mode * (u - r.start - 5))

/-- The cluster freezes until the slot has been read: until it is FULL, and for the cycle in which it crosses the port (R261). -/
def loadwGate : Nat → State → Nat → State
  | 0, s, _ => s
  | k + 1, s, c =>
    match loadwLate s c with
    | none => s
    | some r =>
      match waitRead s [loadwAt r] with
      | some w => freezeOn s c w
      | none =>
        let s1 := loadwServe (portStall s c (issueCycle s c) 1) c r.core 256
        if (clu s1 c).run then loadwGate k s1 c else s1

/-! ## The runs of a cycle -/

/-- The next event of a run. -/
def runStep (s : State) (c : Nat) (r : OpRun) : Ran :=
  match r.kind with
  | .loadw => .on s r
  | .stream => streamStep s c r
  | .drain => drainStep s c r
  | .chain => chainStep s c r
  | .copy => copyStep s c r
  | .dma => dmaStep s c r
  | .tile => tileStep s c r

/-- ME, then GP, then VE, then local memory (R260). -/
def runRank : RunKind → Nat
  | .loadw => 0 | .stream => 0 | .drain => 0 | .chain => 1 | .tile => 2 | .copy => 3 | .dma => 3

/-- Run `i` of a cluster makes what falls in the issue cycle, or freezes the cluster. -/
def runOne (c : Nat) (s : State) (i : Nat) : State :=
  if !(clu s c).run then s
  else match (clu s c).runs[i]? with
  | none => s
  | some r =>
    if r.kind = .loadw || r.next = 0 || decide ((clu s c).icyc < r.start + r.next) then s
    else match runStep s c r with
    | .wait w => if (clu s c).wait.isSome then s else freeze s c w (classOf s c w false)
    | .fault s1 => s1
    | .on s1 r1 => modClu s1 c fun x => { x with runs := setNth x.runs i r1 }

/-- What runs do in the issue cycle. -/
def runsPass (s : State) (c : Nat) : State :=
  if (clu s c).runs = [] then s
  else modClu (each s (List.range (clu s c).runs.length) (runOne c)) c fun x => { x with runs := x.runs.filter fun r => r.next ≠ 0 }

/-- An op in flight joins the others, unit by unit and oldest first. -/
def addRuns (s : State) (c : Nat) (l : List OpRun) : State :=
  if l = [] then s else modClu s c fun x => { x with runs := l.foldl (fun a r => insBy (fun q => runRank q.kind) r a) x.runs }

/-! ## ME.ATTN in flight (08_attention R236-R244) -/

/-- Ring slots of a block (R236). -/
def atRing (r : AttnRun) : Nat := adW r.desc / 4 + 1

/-- The issue cycle of the run's next event: the next ring slot of a delivered block, or what follows the last block. -/
def atNext (r : AttnRun) : Nat :=
  if r.pos < atNbv r then r.start + 16 + r.pos * attnBlk r.desc (atRho r) + r.sub else r.last

/-- Ring slot `q` of position `i`. -/
def atBuf (r : AttnRun) (i q : Nat) : Option (Nat × Nat) := nth none r.ring (i % adRb r.desc * atRing r + q)

/-- The expansion operands. -/
def atExp (r : AttnRun) : List (Option (Nat × Nat)) := r.ek ++ r.ev ++ r.pk ++ r.pv

/-- The run of a core is replaced. -/
def putRun (s : State) (c : Nat) (r : AttnRun) : State :=
  modClu s c fun x => { x with attn := x.attn.map fun q => if q.core = r.core then r else q }

/-- A block is folded into the rows. -/
def atFold (s : State) (r : AttnRun) (toks : List Latent) (p0 : Nat) (delivered : Bool) : AttnRun × Bool × Bool :=
  let b := attnBlock r.desc r.record r.query (keptBytes s r.ek) (keptBytes s r.ev) (keptBytes s r.pk) (keptBytes s r.pv) r.rows toks p0 delivered
  ({ r with rows := b.1 }, b.2)

/-- The bytes of VE registers from `a` on, numbered modulo 32. -/
def veBytes (s : State) (k a n : Nat) : List Byte :=
  (List.range n).flatMap fun i => natLe 128 ((smGet 0 (coreAt s k).v ((a + i) % 32)).toNat)

/-- A read of slots by a run: a wait, counted as HBM stall while a transfer of HBM or a link is to fill the slot, a fault with cause 1, or
what follows. -/
def atRead (s : State) (c : Nat) (l : List (Option (Nat × Nat))) (k : State → State) : State :=
  match waitRead s (l.map refOf) with
  | some w => freeze s c w (classOf s c w true)
  | none =>
    let rds : List Rd := l.map fun q => { r := refOf q }
    if rds.any fun x => !(rdBad s x).isEmpty then clusFault (readAll s rds) c 1 else k (chargePort (readAll s rds) c rds)

/-- The next ring slot of a delivered block is read and set EMPTY; with the first one the expansion operands are read, and with the last
the block is folded in (R236, R240). -/
def atBlock (s : State) (c : Nat) (r : AttnRun) : State :=
  let q := atBuf r r.pos r.sub
  atRead s c (q :: if r.sub = 0 then atExp r else []) fun s1 =>
    let r1 := { r with sub := r.sub + 1, blk := r.blk ++ keptBytes s [q] }
    let s2 := tagSlots s1 q.toList false
    if r1.sub < atRing r then putRun s2 c r1
    else
      let f := atFold s2 r1 (pageLatents r1.blk (adW r.desc)) (64 * (bf r.record 0 4 + r.pos)) true
      addEffs (putRun s2 c { f.1 with pos := r.pos + 1, sub := 0, blk := [] }) c (flagEff (clu s c).icyc r.core f.2.1 f.2.2)

/-- What follows the last block: the fresh block, the finish, the writes of the last cycles, and the ME as ME.MODE leaves it (R236,
R239, R242-R244). -/
def atFinish (s : State) (c : Nat) (r : AttnRun) : State :=
  let d := adD r.desc
  let nf := if bitAt r.bits 8 then 0 else adNf r.desc
  atRead s c (if nf = 0 then [] else atExp r) fun s =>
    let toks := freshLatents (veBytes s r.core (bf r.desc 28 1) 16) (veBytes s r.core (bf r.desc 29 1) 1) (adW r.desc) nf
    let f := if nf = 0 then (r, false, false) else atFold s r toks (bf r.record 8 4) false
    let o := if atFin r then finBytes f.1.rows (adOfmt r.desc) d else (rowsBytes f.1.rows (atNq r) d, false, false)
    let t := r.last + attnEnd (atFin r) (adOfmt r.desc)
    let last := r.out.length - 1
    let effs := (r.out.zipIdx.flatMap fun q =>
        putKept (if atFin r && adOfmt r.desc = 2 && q.2 = last then t - 1 else t - 2) q.1 ((o.1.drop (256 * q.2)).take 256)) ++
      r.rs.flatMap (fun q => putKept (t - 1) q (rstatBytes f.1.rows)) ++ flagEff (clu s c).icyc r.core (f.2.1 || o.2.1) (f.2.2 || o.2.2)
    let s1 := modClu s c fun x => { x with attn := x.attn.filter fun q => q.core ≠ r.core, effs := x.effs ++ effs }
    modCore s1 r.core fun x => meClear x 0 false

/-- The events of ME.ATTN that are due by the current issue cycle take place, the earliest first, until one waits. -/
def atRunN : Nat → State → Nat → State
  | 0, s, _ => s
  | k + 1, s, c =>
    let x := clu s c
    if x.wait.isSome || !x.run then s
    else match sortBy atNext (x.attn.filter fun r => decide (atNext r ≤ x.icyc)) with
    | [] => s
    | r :: _ => atRunN k (if r.pos < atNbv r then atBlock s c r else atFinish s c r) c

def atRun (s : State) (c : Nat) : State := if (clu s c).attn = [] then s else atRunN 64 s c

/-! ## Leaving and entering an issue cycle -/

/-- The end of the issue cycle: the port has served the static accesses, freezing for what exceeds 256 B, and gives the room left to
ME.LOADW (R260); the effects of the cycle take place. -/
def leaveCycle (s : State) (c : Nat) : State :=
  let cores := (List.range 16).map fun i => 16 * c + i
  let busy := if (clu s c).port = [] && (clu s c).effs = [] then [] else cores.map fun k => (k, portBytes s c k)
  let extra := busy.foldl (fun m p => max m (cdiv p.2 256 - 1)) 0
  let used (k : Nat) : Nat := match busy.find? fun p => p.1 = k with | some p => p.2 | none => 0
  let s1 := if (clu s c).runs.any fun r => r.kind = .loadw then
      each s cores fun s k => if (clu s c).run then loadwServe s c k (256 * (1 + extra) - used k) else s
    else s
  let a := issueCycle s1 c + 1
  let s2 := landDue s1 c (clu s1 c).icyc false
  if !(clu s2 c).run then s2
  else portStall (modClu s2 c fun x => { x with port := [], runs := x.runs.filter fun r => r.next ≠ 0 }) c a extra

/-- Some effect or op of the cluster is still in flight. -/
def inFlight (s : State) (c : Nat) : Bool :=
  let x := clu s c
  !(x.effs.isEmpty && x.runs.isEmpty && x.attn.isEmpty && x.rem.isNone)

/-- Static writes of the issue cycle whose slot is FULL freeze the cluster (R255). -/
def effsGate (s : State) (c : Nat) : State :=
  let x := clu s c
  match (x.effs.filter fun p => decide (p.1 ≤ x.icyc)).find? fun p => effBlocked s p.2 with
  | some (_, .slot core i _ _ _ _) => freeze s c (.slotEmpty core i) (classOf s c (.slotEmpty core i) false)
  | _ => s

/-- On entry into an issue cycle, a remote access made in the cycle before freezes the cluster (R273). -/
def remGate (s : State) (c : Nat) : State :=
  match (clu s c).rem with
  | some q => freeze (modClu s c fun x => { x with rem := none }) c (.remote q.1 q.2.1 q.2.2) 1
  | none => s

/-- The issue cycle begins, or goes on after a stall: what is in flight makes its accesses of the cycle; the first that waits freezes the
cluster, and what else can take place in the cycle does. (DEDUCED: log entry 17.) -/
def enterCycle (s : State) (c : Nat) : State :=
  if !(clu s c).run || (clu s c).wait.isSome then s
  else
    let s2 := loadwGate 64 s c
    if (clu s2 c).wait.isSome || !(clu s2 c).run then s2
    else
      let s3 := runsPass s2 c
      let s4 := if (clu s3 c).run then atRun s3 c else s3
      let s5 := if (clu s4 c).run && (clu s4 c).wait.isNone then effsGate s4 c else s4
      if (clu s5 c).run && (clu s5 c).wait.isSome then landDue s5 c (clu s5 c).icyc true else s5

/-- The cycle of the next thing in flight after the current issue cycle. -/
def nextEvent (s : State) (c : Nat) : Option Nat :=
  let x := clu s c
  let l := (x.effs.map fun p => p.1) ++ (x.runs.map fun r => if r.kind = .loadw then x.icyc + 1 else r.start + r.next) ++
    x.attn.map atNext ++ (if x.rem.isSome then [x.icyc + 1] else [])
  match l with
  | [] => none
  | a :: r => some (max (r.foldl min a) (x.icyc + 1))

/-- Posts that have reached the summary FIFO's time arrive (R96). -/
def landPosts (s : State) (c : Nat) : State :=
  let x := clu s c
  let due (p : Nat × Eff) : Bool := isPost p.2 && decide (p.1 ≤ x.icyc)
  if x.effs.any due then
    each (setClu s c { x with effs := x.effs.filter fun p => !due p }) (sortBy (fun p => p.1) (x.effs.filter due)) fun s p => applyEff s c p.2
  else s

/-- What a cluster has in flight goes on without further bundles, through the cycles before cycle `e` of the tick, to its end or to a
wait. -/
def drainN : Nat → Nat → State → Nat → State
  | 0, _, s, _ => s
  | k + 1, e, s0, c =>
    let s := landPosts s0 c
    let x := clu s c
    if !x.run || x.wait.isSome || heldBack s c || !inFlight s c || decide (e ≤ issueCycle s c) then s
    else
      let s1 := leaveCycle s c
      match nextEvent s1 c with
      | none => s1
      | some v =>
        if !(clu s1 c).run || decide (e ≤ issueCycle s1 c + (v - (clu s1 c).icyc)) then s1
        else drainN k e (enterCycle (remGate (applyFar (modClu s1 c fun y => { y with icyc := v }) c) c) c) c

/-- Events of one cluster that a drain can meet at most. -/
def drainMax : Nat := 1000000

end Sys2Proof.Machine
end

