-- ==== Sys2Proof/Machine/Sequencer.lean ====
section
/-!
DEFINITION. The cluster sequencers (03_tick_programs R77-R90): moving from bundle to bundle, loops, branch points, stall episodes, HALT, and
the end of a pitch.
-/
namespace Sys2Proof.Machine

/-! ## Moving on -/

/-- Where issue stands, without the bundle parts: index, open loops, arms A being run. -/
structure Ctl where
  pc    : Nat
  loops : List LoopF
  arms  : List (Nat × Nat)
  deriving DecidableEq, Repr

/-- Where issue lands at bundle `pc`: the bundle after the last of an arm A being run is the bundle after arm B (R87). -/
def ctlLand : Nat → List (Nat × Nat) → Nat × List (Nat × Nat)
  | pc, [] => (pc, [])
  | pc, (e, b) :: rest => if pc = e then ctlLand b rest else (pc, (e, b) :: rest)

/-- The next bundle in slice order. -/
def ctlStep (k : Ctl) : Ctl :=
  let r := ctlLand (k.pc + 1) k.arms
  { k with pc := r.1, arms := r.2 }

/-- LOOP_S opens a loop (R78). -/
def ctlOpen (k : Ctl) (b : Bundle) : Ctl := { k with loops := { first := k.pc, left := fld (bImm b) 0 24 } :: k.loops }

/-- LOOP_E: back to the first bundle while iterations remain, else on (R78). -/
def ctlClose (k : Ctl) : Ctl :=
  match k.loops with
  | l :: rest => if l.left = 0 then ctlStep { k with loops := rest } else { k with pc := l.first, loops := { l with left := l.left - 1 } :: rest }
  | [] => ctlStep k

/-- BP with its arm (R87). -/
def ctlBranch (k : Ctl) (b : Bundle) (armB : Bool) : Ctl :=
  let la := fld (bImm b) 24 12
  let lb := fld (bImm b) 12 12
  if armB then { k with pc := k.pc + 1 + la } else { k with pc := k.pc + 1, arms := (k.pc + 1 + la, k.pc + 1 + la + lb) :: k.arms }

def ctlOf (x : Clus) : Ctl := ⟨x.pc, x.loops, x.arms⟩

/-- Pages kept when issue moves to `k` (R86): the one it runs, those ahead that it has not left, and those that hold the first bundle of an
open loop; `from_` is the page it leaves. -/
def keepPages (k : Ctl) (from_ : Nat) (pages : List (Nat × Nat)) : List (Nat × Nat) :=
  pages.filter fun p => decide (p.1 = k.pc / 256) || (decide (k.pc / 256 < p.1) && decide (p.1 ≠ from_)) || k.loops.any fun l => l.first / 256 = p.1

/-! ### The sample of CC_ALTSEL (R89, R90) -/

/-- The branch point at most `k` issue cycles ahead, as far as the bundles up to it are present. -/
def findBp (s : State) (c : Nat) : Nat → Ctl → Bool → Option Nat
  | 0, _, _ => none
  | k + 1, t, opened =>
    match sliceBundle s c t.pc with
    | none => none
    | some b =>
      if bBp b then some t.pc
      else if bHalt b then none
      else
        let t := if bLoopS b && !opened then ctlOpen t b else t
        if bLoopE b then
          findBp s c k (ctlClose t) (match t.loops with | l :: _ => decide (l.left ≠ 0) | [] => false)
        else findBp s c k (ctlStep t) false

/-- Every lane of the job bound in a cluster is late with cause ALT_LATE (R90). -/
def altLateLanes (s : State) (n j c : Nat) : State :=
  each s ((partLanes s n).filter fun p => laneJob p.1 = j && laneClus p.1 = c) fun s p =>
    modLane s p.1 fun l => { l with late := match l.late with | some x => some x | none => some 4 }

/-- CC_ALTSEL is sampled for the branch point at `pc` (R89, R90). -/
def sampleFor (s : State) (c pc : Nat) : State :=
  let x := clu s c
  let bpid := fld (bImm ((sliceBundle s c pc).getD 0)) 36 12
  let good := x.altV && x.altBp = bpid
  let s1 := modClu s c fun y => { y with sel := some (pc, good && x.altSel), altV := false }
  if good then s1
  else
    let s2 := if x.altV then setEvt (bump s1 (clPg c) 0x114) (clPg c) 1 else setEvt (bump s1 (clPg c) 0x110) (clPg c) 0
    let s3 := modClu s2 c fun y => { y with altLate := true }
    if bitAt (curImg s c).flags 3 then altLateLanes s3 x.part (curJob s c) c else s3

/-- The sample that is due before issue leaves the cycle for `k`: a branch point issues 16 cycles after this one (R89). -/
def sampleDue (s : State) (c : Nat) (k : Ctl) (back : Bool) : State :=
  if (clu s c).sel.isSome then s
  else match findBp s c 16 k back with
    | some pc => sampleFor s c pc
    | none => s

/-! ### From cycle to cycle -/

/-- A page not present freezes the cluster (R86). -/
def pageCheck (s : State) (c : Nat) : State :=
  let x := clu s c
  if x.run && !x.halting && x.wait.isNone && (curImg s c).paged && !pageHere s c (x.pc / 256) then freeze s c (.page (x.pc / 256)) 0 else s

/-- Issue moves to `k` in the next cycle; `back` when a loop starts over, whose LOOP_S has issued (R82, R86, R89). -/
def moveTo (s : State) (c : Nat) (k : Ctl) (back : Bool) : State :=
  let s1 := leaveCycle (sampleDue s c k back) c
  let x := clu s1 c
  if !x.run then s1
  else
    let s2 := setClu s1 c { x with
      pc := k.pc, loops := k.loops, arms := k.arms, icyc := x.icyc + 1, did := if back then [0] else []
      pages := if (curImg s1 c).paged then keepPages k (x.pc / 256) x.pages else x.pages }
    pageCheck (enterCycle (remGate (applyFar s2 c) c) c) c

/-- Every part of the current bundle that a command carries out is done. (DEDUCED: log entry 16.) -/
def bundleDone (s : State) (c : Nat) : Bool :=
  (bNeed (curBundle s c)).all fun k => (clu s c).did.contains k

/-- Step over bundles that are done or hold nothing to do. -/
def settleN : Nat → State → Nat → State
  | 0, s, _ => s
  | k + 1, s, c =>
    let x := clu s c
    if x.run && !x.halting && x.wait.isNone && decide (issueCycle s c < pitchLimit s x.part) && !heldBack s c && bundleDone s c then
      let b := curBundle s c
      if bLoopE b || bBp b || bHalt b then s else settleN k (moveTo s c (ctlStep (ctlOf x)) false) c
    else s

/-- Transfers that a cluster has started or queued are left: of DMA and the expander, and on the NoC engines. -/
def dmaLeft (x : Clus) : Bool := !(x.q0.isEmpty && x.q1.isEmpty && x.expQ.isEmpty && x.expRun.isNone)
def nocLeft (s : State) (c : Nat) : Bool := (List.range 16).any fun i => !(smGet [] s.noc (16 * c + i)).isEmpty

/-- A cluster whose HALT bundle has issued is halted once nothing of its slice is in flight (R79). -/
def finishHalt (s : State) (c : Nat) : State :=
  let x := clu s c
  if x.halting && !x.halted && x.run && x.wait.isNone && !inFlight s c then
    modClu s c fun y => { y with
      halted := true
      dEnd := if dmaLeft x || nocLeft s c then none else some (max (issueCycle s c + 1) (if x.haltCls = 2 then 0 else cycNow s)) }
  else s

/-- The cluster goes on as far as it can without a command: what is in flight acts, bundles with nothing left to do issue, and after HALT
the rest runs to its end. (DEDUCED: log entry 16.) -/
def settle (s : State) (c : Nat) : State :=
  let s1 := pageCheck (enterCycle (applyFar s c) c) c
  if (clu s1 c).halting then
    if (clu s1 c).halted then s1 else finishHalt (drainN drainMax (pitchLimit s1 (clu s1 c).part) s1 c) c
  else settleN 2048 s1 c

/-- The cluster can carry out part `k` of its current bundle now: a pitch issues, nothing is frozen, the part is there and not done,
a LOOP_S comes before it, and a closing part comes last. (DEDUCED: log entry 16; DEDUCED: log entry 17.) -/
def canDo (s : State) (c k : Nat) : Bool :=
  let x := clu s c
  let need := bNeed (curBundle s c)
  x.run && !x.halting && x.wait.isNone && decide (issueCycle s c < pitchLimit s x.part) && !heldBack s c && need.contains k && !x.did.contains k &&
    (k = 0 || !need.contains 0 || x.did.contains 0) &&
    (!(k = 1 || k = 3) || need.all fun q => q = k || x.did.contains q)

/-- Part `k` of the current bundle is done; the clock stands at its issue cycle. (DEDUCED: log entry 16.) -/
def markDid (s : State) (c k : Nat) : State :=
  modClu (toCycle s (issueCycle s c)) c fun x => { x with did := k :: x.did }

/-! ## The end of a stall -/

/-- The cause of a wait has cleared. -/
def waitOver (s : State) (c : Nat) : Wait → Bool
  | .slotFull core i => (slotAt s core i).full
  | .slotEmpty core i => !(slotAt s core i).full
  | .page p => pageHere s c p
  | .queue1 n => queueRoom s c n
  | .noc core => (smGet [] s.noc core).length < 16
  | .remote .. => false
  | .port => true

/-- A slot that an ME.LOADW has waited for crosses the port before the freeze ends (R261). -/
def loadwAfter (s : State) (c : Nat) : State :=
  match loadwLate s c with
  | some r => loadwServe s c r.core 256
  | none => s

/-- STALL_CLEAR (R83): the cause of a cluster's episode has cleared after `cycles` cycles. -/
def stallClearEff (c cycles : Nat) (s : State) : State :=
  match (clu s c).wait with
  | none => s
  | some w => if waitOver s c w then settle (loadwAfter (endStall s c (if w = .port then 1 else cycles)) c) c else s

def execStallClear (c : Fin 256) (cycles : Nat) (s : State) : Out := .next (stallClearEff c cycles s)

/-! ## Loops, branch points, SYNC, HALT -/

/-- LOOP_S (R78). -/
def loopSEff (c : Nat) (s0 : State) : State :=
  let s := settle s0 c
  if canDo s c 0 then
    let k := ctlOpen (ctlOf (clu s c)) (curBundle s c)
    modClu (markDid s c 0) c fun x => { x with loops := k.loops }
  else s

def execLoopS (c : Fin 256) (s : State) : Out := .next (loopSEff c s)

/-- LOOP_E of a bundle that is not the last of the slice (R78). -/
def loopEEff (c : Nat) (s0 : State) : State :=
  let s := settle s0 c
  if canDo s c 3 && bLoopE (curBundle s c) then
    let k := ctlOf (clu s c)
    let back := match k.loops with | l :: _ => decide (l.left ≠ 0) | [] => false
    moveTo (markDid s c 3) c (ctlClose k) back
  else s

def execLoopE (c : Fin 256) (s : State) : Out := .next (loopEEff c s)

/-- BP (R87): the arm sampled for it runs. -/
def bpEff (c : Nat) (s0 : State) : State :=
  let s := settle s0 c
  match (clu s c).sel with
  | some (pc, armB) =>
    if canDo s c 1 && pc = (clu s c).pc then
      let k := ctlBranch (ctlOf (clu s c)) (curBundle s c) armB
      moveTo (modClu (markDid s c 1) c fun x => { x with sel := none }) c k false
    else s
  | none => s

def execBp (c : Fin 256) (s : State) : Out := .next (bpEff c s)

/-- ALTSEL_SAMPLE (R89): 16 issue cycles before a branch point issues, or when the page that shows it has arrived. -/
def altselSampleEff (c : Nat) (s0 : State) : State :=
  let s := settle s0 c
  let x := clu s c
  if x.run && !x.halting && x.wait.isNone && x.sel.isNone then
    match findBp s c 17 (ctlOf x) (x.did.contains 0) with
    | none => s
    | some pc => sampleFor s c pc
  else s

def execAltselSample (c : Fin 256) (s : State) : Out := .next (altselSampleEff c s)

/-- HALT (R79): the last bundle issues; what the slice has started runs to its end. A last bundle that holds LOOP_E too, with iterations
left, goes the way of the command that comes first. (DESIGN CHOICE: log entry 38.) -/
def haltEff (c : Nat) (s0 : State) : State :=
  let s := settle s0 c
  if canDo s c 3 && bHalt (curBundle s c) then
    let s1 := markDid s c 3
    let x := clu s1 c
    settle (modClu s1 c fun y => { y with
      halting := true, haltJ := curJob s1 c :: y.haltJ, haltCls := if dmaLeft x then 0 else if nocLeft s1 c then 1 else 2
      hEnd := issueCycle s1 c + 1 }) c
  else s

def execHalt (c : Fin 256) (s : State) : Out := .next (haltEff c s)

/-- Everything the slice of a halted cluster started is complete (R79). -/
def clusDone (s : State) (c : Nat) : Bool := (clu s c).halted && !dmaLeft (clu s c) && !nocLeft s c

/-- A cycle of the tick is reached before the present phase ends: the commit window opens, the flip, the edge (R25). A pitch that a point
below OPFLOOR has left no room for (R24) may run on into the commit window, at the latest to the edge (R33). -/
def beforeEnd (s : State) (e : Nat) : Bool :=
  match s.clk.phase with
  | .pitches => decide (e ≤ commitStart s)
  | .commit => decide (e < commitEnd s)
  | .guard => true
  | .stopped => false
  | .dispatch => false

/-- PITCH_END (R79): the last member has halted; `cycle` is the cycle after the last transfer completed, where one was
left at HALT. Waiting for operations to complete counts as stall. In steady mode the cores idle to START + BUDGET (R383). -/
def pitchEndEff (n cycle : Nat) (s : State) : State :=
  match (part s n).pitch with
  | none => s
  | some p =>
    if p.t0.isSome && (members s n).all fun c => clusDone s c then
      let own := (members s n).foldl (fun m c => max m ((clu s c).dEnd.getD (max (clu s c).hEnd cycle))) p.start
      let e := min p.limit own
      if !beforeEnd s (if steadyOf s n then p.limit else e) then s else
      let s1 := toCycle (each s (members s n) fun s c => modClu s c fun x => { x with dEnd := some (x.dEnd.getD e) }) e
      if steadyOf s n then endPitch (toCycle s1 p.limit) n p.limit else endPitch s1 n e
    else s

def execPitchEnd (n : Fin 16) (cycle : Nat) (s : State) : Out := .next (pitchEndEff n cycle s)

/-- What a cluster's slice has in flight goes on up to cycle `e`. -/
def flushClus (e : Nat) (s : State) (c : Nat) : State := finishHalt (drainN drainMax e (applyFar s c) c) c

/-- Every member has halted by the pitch's limit. -/
def pitchHalted (s : State) (n : Nat) (p : Pitch) : Bool :=
  p.t0.isSome && (members s n).all fun c => clusDone s c && decide ((clu s c).dEnd.getD p.limit ≤ p.limit)

/-- PITCH_LIMIT (R55): a pitch not halted at its limit is stopped there; a real-time one is counted, unless the slack taken for
background work stopped a best-effort one (R436). (DEDUCED: log entry 35.) -/
def pitchLimitEff (n : Nat) (s : State) : State :=
  match (part s n).pitch with
  | none => s
  | some p =>
    if !beforeEnd s p.limit then s
    else if pitchHalted s n p then pitchEndEff n p.limit s
    else
      let s0 := if p.t0.isSome then each s (members s n) (flushClus p.limit) else s
      if (part s0 n).pitch.isNone then s0
      else
        let s1 := endPitch (toCycle s0 p.limit) n p.limit
        if p.rt then setEvt (bump s1 (partPg n) 0x168) (partPg n) 4 else s1

/-- The pitch of a partition runs up to cycle `e`, below its limit (R24). -/
def runTo (s : State) (n e : Nat) : State :=
  match (part s n).pitch with
  | some p => if p.t0.isSome then each s (members s n) (flushClus e) else s
  | none => s

/-- The edge stops a pitch that still runs: no work carries over into the next tick (R24, R33). -/
def cutPitch (s : State) (n : Nat) : State :=
  match (part s n).pitch with
  | some p =>
    let e := min p.limit (max (cycNow s) p.start)
    endPitch (runTo s n e) n e
  | none => s

def execPitchLimit (n : Fin 16) (s : State) : Out := .next (pitchLimitEff n s)

end Sys2Proof.Machine
end

