-- ==== Sys2Proof/Machine/Dma.lean ====
section
/-!
DEFINITION. DMA descriptors (09_memory R281-R285): the checks at the start, the transfer, the tags it leaves, and the charges of R68.
-/
namespace Sys2Proof.Machine

/-- Queue `q` of a cluster. -/
def dq (s : State) (c q : Nat) : List Desc := if q = 0 then (clu s c).q0 else (clu s c).q1
def setDq (s : State) (c q : Nat) (l : List Desc) : State :=
  modClu s c fun x => if q = 0 then { x with q0 := l } else { x with q1 := l }

/-! ## Checks (R284) -/

/-- The core field of a kind-0 address under a SCOPE 1 handle is not zero (R281). -/
def badCoreField (s : State) (c a : Nat) : Bool :=
  let e := hentry s c (fld a 18 10)
  heValid e && heCoreScope e && decide (fld a 28 4 ≠ 0)

/-- A reserved bit of an address is set. -/
def badAddrBits (s : State) (c kind a : Nat) : Bool :=
  (kind = 0 && (decide (fld a 32 32 ≠ 0) || badCoreField s c a)) || (kind = 1 && decide (fld a 48 16 ≠ 0))

/-- The malformed cases, cause 3. -/
def descMalformed (s : State) (c : Nat) (d : BitVec 512) : Bool :=
  let inl := dOp d = 2
  !(dOp d = 1 || dOp d = 2) || decide (fld (dFlags d) 3 5 ≠ 0) || decide (2 < dSkind d) || decide (2 < dDkind d)
    || decide (fld d.toNat 192 64 ≠ 0)
    || (if inl then decide (dLen d = 0) || decide (32 < dLen d) || decide (dSkind d ≠ 0) || decide (dSaddr d ≠ 0)
          || decide (fld d.toNat (256 + 8 * dLen d) (256 - 8 * dLen d) ≠ 0)
        else decide (dLen d = 0) || decide (2 ^ 24 < dLen d) || decide (fld d.toNat 256 256 ≠ 0)
          || (dSkind d = 2 && dDkind d = 2) || badAddrBits s c (dSkind d) (dSaddr d))
    || badAddrBits s c (dDkind d) (dDaddr d)

/-- A range of HBM that a partition's descriptors may address (R276, R278): inside the party's window, in the ISOLATED map inside the groups
of the partition, and outside the regions that bivouac, bundle pages and belay keep for themselves. (DEDUCED: log entry 70.) -/
def descRange (s : State) (n a len : Nat) : Bool :=
  let p := partParty s n
  let apart (k : Nat) : Bool := regSize s p k = 0 || decide (a + len ≤ winBase s p + regOfs s p k) ||
    decide (winBase s p + regOfs s p k + regSize s p k ≤ a)
  inWindow s p a len && partGroups s n a len && apart 0 && apart 3 && apart 5

/-- The slots an address of kind 0 names; none for the other kinds; refused without a value. -/
def descSide (s : State) (n c kind a len : Nat) (write : Bool) : Option (List (Nat × Nat × Nat × Nat)) :=
  if kind = 0 then descSlots s n c a len write
  else if kind = 1 then (if descRange s n a len then some [] else none)
  else some []

/-- A descriptor's source and destination slots, or the cause it is refused with. -/
def descCheck (s : State) (n c : Nat) (d : BitVec 512) : Sum Nat (List (Nat × Nat × Nat × Nat) × List (Nat × Nat × Nat × Nat)) :=
  if descMalformed s c d then .inl 3
  else
    match (if dOp d = 2 then some [] else descSide s n c (dSkind d) (dSaddr d) (dLen d) false),
          descSide s n c (dDkind d) (dDaddr d) (dLen d) true with
    | some a, some b => .inr (a, b)
    | _, _ => .inl 4

/-! ## Starting (R282) -/

/-- The next descriptor to start in a queue: the first not started, when fewer than 8 are in progress, and, with FENCE, none is. -/
def nextDesc (l : List Desc) : Option Nat :=
  match l.findIdx? fun d => !d.started with
  | none => none
  | some i =>
    let d := nth {} l i
    if 8 ≤ i || (bitAt (dFlags d.d) 2 && decide (i ≠ 0)) then none else some i

/-- DESCRIPTOR_START: the next descriptor is checked and starts, or faults the job that issued it. -/
def descriptorStartEff (c q : Nat) (s : State) : State :=
  match nextDesc (dq s c q) with
  | none => s
  | some i =>
    let l := dq s c q
    let d := nth {} l i
    match descCheck s (curPart s c) c d.d with
    | .inl cause => jobFault (setDq s c q (l.eraseIdx i)) (curPart s c) d.job cause
    | .inr (a, b) => setDq s c q (setNth l i { d with started := true, src := a, dst := b })

def execDescriptorStart (c : Fin 256) (q : Fin 2) (s : State) : Out := .next (descriptorStartEff c q s)

/-! ## The transfer -/

/-- Two ranges have a byte in common. -/
def overlap (a n b m : Nat) : Bool := decide (a < b + m) && decide (b < a + n)

/-- Pieces of slots from byte `pos` on. -/
def piecesFrom : Nat → List (Nat × Nat × Nat × Nat) → List (Nat × Nat × Nat × Nat)
  | _, [] => []
  | pos, q :: r =>
    if pos < q.2.2.2 then (q.1, q.2.1, q.2.2.1 + pos, q.2.2.2 - pos) :: r else piecesFrom (pos - q.2.2.2) r

/-- What a transfer has still to write: kind, address (of a slot: by core, slot and byte) and bytes. -/
def dstLeft (d : Desc) : List (Nat × Nat × Nat) :=
  if dDkind d.d = 0 then (piecesFrom d.moved d.dst).map fun q => (0, (q.1 * 1024 + q.2.1) * 256 + q.2.2.1, q.2.2.2)
  else [(dDkind d.d, dDaddr d.d + d.moved, dLen d.d - d.moved)]

/-- Bytes that a transfer moves next: up to the end of a slot's piece on either side, else all that is left. -/
def nextLen (d : Desc) : Nat :=
  let left (l : List (Nat × Nat × Nat × Nat)) : Nat := match pieceAt d.moved l with | some q => q.2.2.2 | none => dLen d.d - d.moved
  min (min (left d.src) (left d.dst)) (dLen d.d - d.moved)

/-- The next bytes that `x` writes are bytes an earlier descriptor `y` of its queue has still to write (R282). -/
def descAfter (y x : Desc) : Bool :=
  match dstLeft x with
  | [] => false
  | q :: _ => (dstLeft y).any fun r => r.1 = q.1 && overlap r.2.1 r.2.2 q.2.1 (nextLen x)

/-- Transfer `i` of a queue can move: it has started and waits on no tag and on no earlier write of the same byte. -/
def canMove (s : State) (l : List Desc) (i : Nat) : Bool :=
  let d := nth {} l i
  d.started && !descWaits s d && !((l.take i).any fun y => descAfter y d)

/-- The first transfer of a queue that can move. -/
def readyDesc (s : State) (l : List Desc) : Option Nat := (List.range l.length).find? fun i => canMove s l i

/-- The next `k` bytes that a transfer reads, and whether the read met an uncorrectable word; none for a host access that failed. -/
def descData (s : State) (d : Desc) (k : Nat) (hostData : Option (List Byte)) : State × Option (List Byte) × Bool :=
  if dOp d.d = 2 then (s, some ((List.range k).map fun i => d.d.extractLsb' (256 + 8 * (d.moved + i)) 8), false)
  else if dSkind d.d = 0 then
    match pieceAt d.moved d.src with
    | some q =>
      let x := slotAt s q.1 q.2.1
      (readSlot s q.1 q.2.1 q.2.2.1 k, some (slotBytes x.data q.2.2.1 k), (badWords x).any (wordsOf q.2.2.1 k).contains)
    | none => (s, some [], false)
  else if dSkind d.d = 1 then
    let a := dSaddr d.d + d.moved
    (hbmUe s a k, some (hbmRead s a k), hbmPoison s a k)
  else (s, hostData.map fun l => padTo k 0 ((l.drop d.moved).take k), false)

/-- Write a transfer's next bytes where they go; the flag says whether the write met poison. A slot becomes FULL with its last byte,
unless HOLDTAG is set (R283). -/
def descWrite (s : State) (n : Nat) (d : Desc) (bs : List Byte) : State × Bool :=
  if dDkind d.d = 0 then
    match pieceAt d.moved d.dst with
    | some q =>
      if d.skip.contains (q.1, q.2.1) then (s, false)
      else
        (slotEff s q.1 q.2.1 q.2.2.1 bs (if bitAt (dFlags d.d) 1 || decide (bs.length < q.2.2.2) then none else some true),
          !(partialBad (slotAt s q.1 q.2.1).poison q.2.2.1 bs.length).isEmpty)
    | none => (s, false)
  else if dDkind d.d = 1 then hbmWriteIn s (dDaddr d.d + d.moved) bs (dDaddr d.d) (dDaddr d.d + dLen d.d)
  else (hostPut s (partFn s n) (dDaddr d.d + d.moved) bs, false)

/-- The charges of `k` bytes of a transfer (R68, R69). -/
def descCharge (s : State) (n : Nat) (d : Desc) (k : Nat) : State :=
  let src (q : Nat) : Nat := if dOp d.d = 1 ∧ dSkind d.d = q then k else 0
  let dst (q : Nat) : Nat := if dDkind d.d = q then k else 0
  charge s n fun a => { a with
    hbmRd := a.hbmRd + src 1, hbmWr := a.hbmWr + dst 1, hostIn := a.hostIn + src 2, hostOut := a.hostOut + dst 2
    acts := actAdd a.acts 18 (src 0 + dst 0) }

/-- The next bytes of a transfer move: data, tags, charges; the cause of a fault where it meets one (R283, R284). -/
def descMove (s : State) (n : Nat) (d : Desc) (hostData : Option (List Byte)) : State × Desc × Option Nat :=
  let k := nextLen d
  match descData s d k hostData with
  | (s1, _, true) => (s1, d, some 1)
  | (s1, none, false) => (hostReadErr s1 (partFn s1 n), d, some 4)
  | (s1, some bs, false) =>
    if dDkind d.d = 2 && hostData.isNone then (s1, d, some 4)
    else
      let s2 := descCharge s1 n d k
      let s3 := if bitAt (dFlags d.d) 0 then
          match pieceAt d.moved d.src with
          | some q => if k = q.2.2.2 then modSlot s2 q.1 q.2.1 fun x => { x with full := false } else s2
          | none => s2
        else s2
      let r := descWrite s3 n d bs
      (r.1, { d with moved := d.moved + k }, if r.2 then some 1 else none)

/-- The transfer has moved its last byte. -/
def descDone (d : Desc) : Bool := decide (dLen d.d ≤ d.moved)

/-- Transfer `i` of queue `q` moves as far as tags let it: the state, and the cause of a fault. -/
def descRun : Nat → State → Nat → Nat → Nat → Option (List Byte) → State × Option Nat
  | 0, s, _, _, _, _ => (s, none)
  | f + 1, s, c, q, i, hostData =>
    let l := dq s c q
    let d := nth {} l i
    if canMove s l i && !descDone d then
      let r := descMove s (curPart s c) d hostData
      match r.2.2 with
      | some k => (r.1, some k)
      | none => descRun f (setDq r.1 c q (setNth (dq r.1 c q) i r.2.1)) c q i hostData
    else (s, none)

/-- A place in queue 0 frees: the descriptor that holds the control core goes in (R95). -/
def admitHeld (s : State) (c : Nat) : State :=
  let x := clu s c
  match x.held with
  | some d =>
    if x.q0.length < 64 then
      setClu s c { x with held := none, q0 := x.q0 ++ [{ d := d, job := match x.hnd with | some (_, j) => j | none => curJob s c }] }
    else s
  | none => s

/-- DESCRIPTOR_DONE: the first transfer of a queue that can move does so, as far as the tags of its slots let it (R283), and leaves the queue
with its last byte. `hostData` is what the host answered: the data of a read, none for an error. (DESIGN CHOICE: log entry 71.) -/
def descriptorDoneEff (c q : Nat) (hostData : Option (List Byte)) (s : State) : State :=
  match readyDesc s (dq s c q) with
  | none => s
  | some i =>
    let d := nth {} (dq s c q) i
    let r := descRun (d.src.length + d.dst.length + 1) s c q i hostData
    let drop (s : State) : State := admitHeld (setDq s c q ((dq s c q).eraseIdx i)) c
    match r.2 with
    | some cause => jobFault (modClu (drop r.1) c fun x => { x with lostHbm := x.lostHbm ++ descHbmDst d }) (curPart s c) d.job cause
    | none => if descDone (nth {} (dq r.1 c q) i) then drop r.1 else r.1

def execDescriptorDone (c : Fin 256) (q : Fin 2) (hostData : Option (List Byte)) (s : State) : Out :=
  .next (descriptorDoneEff c q hostData s)

end Sys2Proof.Machine
end

