-- ==== Sys2Proof/Machine/OpBase.lean ====
section
/-!
DEFINITION. What the ops of every unit slot share (03_tick_programs R75-R83, 09_memory R255, R266, R268, R273): whether the op is
the one to issue, freezing on a slot, faulting, remote accesses, and the effects it leaves in flight.
-/
namespace Sys2Proof.Machine

/-- The op of unit `u` with opcode `opc` can issue now. (DEDUCED: log entry 16.) -/
def canOp (s : State) (c : Nat) (u : USlot) (opc : Nat) : Bool := canDo s c (uCode u) && decide (bOp (curBundle s c) u = opc)

/-- Run the meaning of an op when it is the one to issue; the clock then stands at its issue cycle. (DEDUCED: log entry 16.) -/
def runOp (s0 : State) (c : Nat) (u : USlot) (opc : Nat) (f : State → State) : State :=
  let s := settle s0 c
  if canOp s c u opc then f (toCycle s (issueCycle s c)) else s

/-- The bits of a unit slot of the current bundle. -/
def slotBits (s : State) (c : Nat) (u : USlot) : Nat := bSlot (curBundle s c) u

/-- The cores, 0-15, that a mask enables (R80). -/
def maskCores (m : Nat) : List Nat := (List.range 16).filter fun i => bitAt m i

/-- The activity that an op of a unit on a core counts as: an ME op by the core's mode, a VE op, a GP op. -/
def actOf (s : State) (u : USlot) (core : Nat) : Nat :=
  match u with
  | .me => (coreAt s core).mode
  | .ve => 16 | .gp => 17 | .lm => 17 | .nc => 17

/-- The cores that a bundle's masks enable for a unit's op. (DESIGN CHOICE: log entry 21.) -/
def actCores (b : Bundle) : USlot → List Nat
  | .me => maskCores (bMeMask b) | .ve => maskCores (bVeMask b) | .gp => maskCores (bGpMask b) | .lm => [] | .nc => []

/-- The activity of an op is counted for its party's energy (02 R69): one op for each enabled core; the bytes of its accesses count as
they are made. (DESIGN CHOICE: log entry 21.) -/
def countOp (s : State) (c : Nat) (u : USlot) : State :=
  let cores := actCores (curBundle s c) u
  if cores = [] then s
  else charge s (curPart s c) fun a => { a with acts := cores.foldl (fun m i => actAdd m (actOf s u (16 * c + i)) 1) a.acts }

/-- An op has issued: it is counted, and its effects and later reads are in flight. -/
def doneOp (s : State) (c : Nat) (u : USlot) (effs : List (Nat × Eff)) (runs : List OpRun) : State :=
  addRuns (later (markDid (countOp s c u) c (uCode u)) c effs) c runs

/-- Static reads and writes of the issue cycle: a freeze, a fault with cause 1, or the op itself (R255, R266); the reads move their bytes
at the port (R260). -/
def withSlots (s : State) (c : Nat) (reads : List Rd) (writes : List Ref) (k : State → State) : State :=
  match waitRead s (reads.map fun x => x.r), waitWrite s writes with
  | some w, _ => freezeOn s c w
  | none, some w => freezeOn s c w
  | none, none => if reads.any fun x => !(rdBad s x).isEmpty then clusFault (readAll s reads) c 1 else k (chargePort (readAll s reads) c reads)

/-- What an op does on one core: the slots it reads in its issue cycle, its effects in flight, what it does to the engines at once, and the
reads that it makes later. -/
structure Plan where
  reads  : List Rd := []
  effs   : List (Nat × Eff) := []
  post   : List Core := []          -- the core's engines after it, where it changes them at once
  sOf    : Bool := false            -- flags it sets (R153)
  sNv    : Bool := false
  attn   : List AttnRun := []       -- a run of ME.ATTN that begins
  runs   : List OpRun := []         -- an op with reads still to make

/-- The plans of the enabled cores, or the first cause that one of them is refused with. -/
def plans (l : List (Nat × Sum Nat Plan)) : Sum Nat (List (Nat × Plan)) :=
  l.foldr (fun x r => match x.2, r with
    | .inl k, _ => .inl k
    | .inr _, .inl k => .inl k
    | .inr p, .inr q => .inr ((x.1, p) :: q)) (.inr [])

/-- What one core's plan does in the issue cycle to its engines. -/
def startPlan (c : Nat) (s : State) (p : Nat × Plan) : State :=
  let s := match p.2.post with | x :: _ => setCore s p.1 x | [] => s
  each s p.2.attn fun s r =>
    bookUntil (modClu s c fun x => { x with attn := x.attn ++ [r] }) c p.1 (r.last + attnEnd (atFin r) (adOfmt r.desc)) [0, 1, 2]

/-- The units of a core that an op books: an ME.ATTN its ME, VE and GP (R76). -/
def planUnits (u : USlot) (p : Plan) : List Nat :=
  match u with
  | .me => if p.attn = [] then [0] else [0, 1, 2]
  | .ve => [1] | .gp => [2] | .lm => [] | .nc => []

/-- Some unit the op books is booked by an op in progress: a double booking that the loader could not see, for which the model raises the
job fault of an illegal bundle (R76). (DESIGN CHOICE: log entry 38.) -/
def doubleBooked (s : State) (c : Nat) (u : USlot) (ps : List (Nat × Plan)) : Bool :=
  ps.any fun p => (planUnits u p.2).any fun k => bookedNow s c p.1 k

/-- An op that acts on each enabled core (R80): a fault, a freeze, or its effects on all of them; what it sets in flags comes at the end of
its cycle, and a remote access freezes the cluster from the next (R273). (DEDUCED: log entry 18.) -/
def runPlans (s : State) (c : Nat) (u : USlot) (l : List (Nat × Sum Nat Plan)) : State :=
  match plans l with
  | .inl k => clusFault s c k
  | .inr ps =>
    if doubleBooked s c u ps then clusFault s c 3
    else withSlots s c (ps.flatMap fun p => p.2.reads) [] fun s =>
      let refs (p : Nat × Plan) : List Ref := p.2.reads.map fun x => x.r
      let s1 := doneOp (each s ps (startPlan c)) c u (ps.flatMap fun p => p.2.effs ++ flagEff 0 p.1 p.2.sOf p.2.sNv) (ps.flatMap fun p => p.2.runs)
      noteRemote s1 c (ps.foldl (fun m p => max m (remoteCyc c 1 (refs p))) 0) (ps.flatMap refs)

/-- Reads of whole slots. -/
def rds (l : List Ref) : List Rd := l.map fun r => { r := r }

/-- The bytes of consecutive slots. -/
def bytesOf (s : State) (l : List Ref) : List Byte := l.flatMap fun r => slotBytes (refData s r) 0 256

/-- Slots of an operand as a run keeps them. -/
def keep (l : List Ref) : List (Option (Nat × Nat)) := l.map slotOf

/-- A whole-slot write with its tag; a pad discards it (R197). `chk`: it needs the slot EMPTY. -/
def putRef (t : Nat) (r : Ref) (bs : List Byte) (full chk : Bool) : List (Nat × Eff) :=
  match r with
  | .slot core i => [(t, .slot core i 0 bs (some full) chk)]
  | .pad => []

/-- A tag change; `sp`: one of SP.TAG. -/
def tagRef (t : Nat) (r : Ref) (full sp : Bool) : List (Nat × Eff) :=
  match r with
  | .slot core i => [(t, .tag core i full sp)]
  | .pad => []

/-- REMOTE_ACCESS_DONE (R273): the access completes after at least its minimum of frozen cycles. -/
def remoteAccessDoneEff (c cycles : Nat) (s : State) : State :=
  match (clu s c).wait with
  | some (.remote _ _ m) => settle (endStall s c (max m cycles)) c
  | _ => s

def execRemoteAccessDone (c : Fin 256) (cycles : Nat) (s : State) : Out := .next (remoteAccessDoneEff c cycles s)

/-- ASYNC_PORT_PROMOTION (R260): an asynchronous request that has waited 256 cycles is served first, and the cluster freezes for
that cycle. -/
def asyncPortPromotionEff (core : Nat) (hbm : Bool) (s : State) : State :=
  let c := core / 16
  if (clu s c).run && !(clu s c).halted && (clu s c).wait.isNone && !heldBack s c then
    settle (endStall (freeze s c .port (if hbm then 0 else 1)) c 1) c
  else s

def execAsyncPortPromotion (core : Fin 4096) (hbm : Bool) (s : State) : Out := .next (asyncPortPromotionEff core hbm s)

end Sys2Proof.Machine
end

