-- ==== Sys2Proof/Machine/LocalMem.lean ====
section
/-!
DEFINITION. The local memory ops and NoC copies (09_memory R262-R264, R270-R272).
-/
namespace Sys2Proof.Machine

/-- The cores a local memory op acts on for an operand: all 16 under a cluster-scope handle, else the named one (R262). -/
def lmCores (s : State) (c ref : Nat) : List Nat :=
  let e := hentry s c (refHandle ref)
  if heCoreScope e then [heCore e] else List.range 16

/-- The slots of an operand on each core it names, or none where some is refused. -/
def lmSlots (s : State) (c ref cnt : Nat) (write : Bool) : Option (List (List Ref)) :=
  allSome ((lmCores s c ref).map fun i => opSlots s c i ref cnt write .free)

/-- The longest remote access of the cores an op acts on. -/
def lmRemote (c mult : Nat) (l : List (List Ref)) : Nat := l.foldl (fun m x => max m (remoteCyc c mult x)) 0

/-- Offset of an access: its cycle, or the issue cycle where it is remote (R273). -/
def lmAt (c : Nat) (r : Ref) (t : Nat) : Nat :=
  match r with
  | .slot core _ => if core / 16 = c then t else 0
  | .pad => t

/-- The op acts on slots of another cluster. -/
def lmFar (c : Nat) (l : List Ref) : Bool := (remoteSlot c l).isSome

/-- SP.FILL (R263): data and tag of each slot in cycle 1 + j. -/
def spFillOp (c : Nat) (s : State) : State :=
  let w := slotBits s c .lm
  let fill := if bitAt w 20 then (List.range 64).flatMap fun _ => natLe 4 (fld (bImm (curBundle s c)) 0 32) else List.replicate 256 0
  match lmSlots s c (fld w 32 24) (fld w 22 10 + 1) true with
  | none => clusFault s c 4
  | some l =>
    let effs := l.flatMap fun rs => (rs.zipIdx).flatMap fun p => putRef (lmAt c p.1 (1 + p.2)) p.1 fill (bitAt w 21) false
    noteRemote (doneOp s c .lm effs []) c (lmRemote c 1 l) l.flatten

def spFillEff (c : Nat) (s : State) : State := runOp s c .lm 1 (spFillOp c)
def execSpFill (c : Fin 256) (s : State) : Out := .next (spFillEff c s)

/-- SP.TAG (R263): 16 tags per cycle from cycle 1; a remote access counts ceil(slots / 16) (R273). -/
def spTagOp (c : Nat) (s : State) : State :=
  let w := slotBits s c .lm
  match lmSlots s c (fld w 32 24) (fld w 22 10 + 1) true with
  | none => clusFault s c 4
  | some l =>
    let effs := l.flatMap fun rs => (rs.zipIdx).flatMap fun p => tagRef (lmAt c p.1 (1 + p.2 / 16)) p.1 (bitAt w 21) true
    let rem := l.foldl (fun m x => max m (remoteCyc c 1 (x.zipIdx.filterMap fun p => if p.2 % 16 = 0 then some p.1 else none))) 0
    noteRemote (doneOp s c .lm effs []) c rem l.flatten

def spTagEff (c : Nat) (s : State) : State := runOp s c .lm 3 (spTagOp c)
def execSpTag (c : Fin 256) (s : State) : Out := .next (spTagEff c s)

/-- Every slot of two operands lies in one core. -/
def sameCore (a b : List Ref) : Bool :=
  let cores := (a ++ b).filterMap fun r => match r with | .slot core _ => some core | .pad => none
  match cores with
  | [] => true
  | k :: rest => rest.all fun q => q = k

/-- Two operands share a slot. -/
def sharesSlot (a b : List Ref) : Bool := a.any fun r => r ≠ .pad && b.contains r

/-- What a remote SP.COPY does in its issue cycle (R273). -/
def copyNow (s : State) (src dst : List Ref) (consume : Bool) : List (Nat × Eff) :=
  (src.zip dst).flatMap fun p =>
    putRef 0 p.2 (bytesOf s [p.1]) true true ++ (if consume then tagRef 0 p.1 false false else [])

/-- SP.COPY (R263, R264): of the cluster's own slots in flight, slot after slot; of another's in its issue cycle (R273). -/
def spCopyOp (c : Nat) (s : State) : State :=
  let w := slotBits s c .lm
  let n := fld w 1 7 + 1
  match lmSlots s c (fld w 8 24) n false, lmSlots s c (fld w 32 24) n true with
  | some src, some dst =>
    let prs := src.zip dst
    if src.length ≠ dst.length ∨ prs.any fun p => !sameCore p.1 p.2 then clusFault s c 3
    else if prs.any fun p => sharesSlot p.1 p.2 then clusFault s c 3
    else if lmFar c (src ++ dst).flatten then
      withSlots s c (rds src.flatten) dst.flatten fun s =>
        noteRemote (doneOp s c .lm (prs.flatMap fun p => copyNow s p.1 p.2 (bitAt w 0)) []) c (lmRemote c 2 src) (src ++ dst).flatten
    else
      doneOp s c .lm [] (prs.map fun p => { kind := .copy, start := (clu s c).icyc, bits := w, src := keep p.1, dst := keep p.2 })
  | _, _ => clusFault s c 4

def spCopyEff (c : Nat) (s : State) : State := runOp s c .lm 2 (spCopyOp c)
def execSpCopy (c : Fin 256) (s : State) : Out := .next (spCopyEff c s)

/-- SP.DMA (R263, R264): the descriptors are read in cycle 1, of another cluster's slot in the issue cycle (R273), and go to the program
queue in cycle 2. -/
def spDmaOp (c : Nat) (s : State) : State :=
  let w := slotBits s c .lm
  let idx := fld w 30 2
  let k := fld w 28 2 + 1
  if 4 < idx + k then clusFault s c 3
  else
    match lmSlots s c (fld w 32 24) 1 false with
    | none => clusFault s c 4
    | some l =>
      let run : OpRun := { kind := .dma, start := (clu s c).icyc, bits := w, src := keep l.flatten }
      if lmFar c l.flatten then
        let reads : List Rd := l.flatten.map fun r => { r := r, off := 64 * idx, len := 64 * k }
        withSlots s c reads [] fun s =>
          noteRemote (doneOp s c .lm [] [{ run with got := rdBytes s reads, next := 2 }]) c (lmRemote c 1 l) l.flatten
      else doneOp s c .lm [] [run]

/-- (DEDUCED: log entry 20.) -/
def spDmaEff (c : Nat) (s : State) : State := runOp s c .lm 4 (spDmaOp c)
def execSpDma (c : Fin 256) (s : State) : Out := .next (spDmaEff c s)

/-! ## NoC copies (R270-R272) -/

/-- The core of the device a NoC operand resolves to: core 0 under cluster scope (R271). -/
def ncCore (e : DWord) : Nat := 16 * heCluster e + (if heCoreScope e then heCore e else 0)

/-- The slots of a NoC operand: a state handle is refused (R268). -/
def ncSlots (s : State) (c ref cnt : Nat) (write : Bool) : Option (List (Nat × Nat)) :=
  let e := hentry s c (refHandle ref)
  if heState e then none
  else
    (opSlots s c (ncCore e % 16) ref cnt write .free).bind fun l =>
      allSome (l.map fun r => match r with | .slot core i => some (core, i) | .pad => none)

/-- Put an operation on a core's NoC engine; the first of an idle engine begins at once. -/
def nocPush (s : State) (core : Nat) (o : NocOp) : State :=
  { s with noc := smSet [] s.noc core (smGet [] s.noc core ++ [{ o with since := cycNow s }]) }

def ncCopyOp (c : Nat) (s : State) : State :=
  let w := slotBits s c .nc
  let n := fld w 3 5 + 1
  match ncSlots s c (fld w 8 24) n false, ncSlots s c (fld w 32 24) n true with
  | some src, some dst =>
    let a := ncCore (hentry s c (refHandle (fld w 8 24)))
    let b := ncCore (hentry s c (refHandle (fld w 32 24)))
    if decide (a / 16 = c) = decide (b / 16 = c) then clusFault s c 4
    else
      let me := if a / 16 = c then a else b
      if 16 ≤ (smGet [] s.noc me).length then freezeOn s c (.noc me)
      else
        nocPush (markDid s c 8) me
          { kind := .copy, src := src, dst := dst, consume := bitAt w 2, hold := bitAt w 1, job := curJob s c }
  | _, _ => clusFault s c 4

def ncCopyEff (c : Nat) (s : State) : State := runOp s c .nc 1 (ncCopyOp c)
def execNcCopy (c : Fin 256) (s : State) : Out := .next (ncCopyEff c s)

/-- The head of a NoC engine leaves; the next begins. -/
def nocPop (s : State) (core : Nat) : State :=
  match smGet [] s.noc core with
  | [] => s
  | _ :: rest =>
    { s with noc := smSet [] s.noc core (match rest with | [] => [] | o :: r => { o with since := cycNow s } :: r) }

/-- The next slot of a copy moves: its data, tags and activity; false when the read or the write met an uncorrectable word (R266, R272). -/
def nocSlot (s : State) (n : Nat) (o : NocOp) : State × Bool :=
  match o.src[o.moved]?, o.dst[o.moved]? with
  | some a, some b =>
    let x := slotAt s a.1 a.2
    let s1 := countBytes (readSlot s a.1 a.2 0 256) n 512
    if x.poison ≠ 0 then (s1, false)
    else
      let s2 := if o.consume then modSlot s1 a.1 a.2 fun x => { x with full := false } else s1
      (if o.skip.contains b then s2 else slotEff s2 b.1 b.2 0 (slotBytes x.data 0 256) (if o.hold then none else some true), true)
  | _, _ => (s, true)

/-- The copy at the head of a core's engine moves slot after slot, each FULL after its last byte, no earlier than R272 allows, until it waits
on a tag; then it leaves the engine, or stays. -/
def nocRun : Nat → State → Nat → Nat → NocOp → State
  | 0, s, _, _, _ => s
  | f + 1, s, core, n, o =>
    if o.src.length ≤ o.moved then nocPop s core
    else if nocWaits s o then { s with noc := smSet [] s.noc core (o :: (smGet [] s.noc core).drop 1) }
    else
      let h := match o.src, o.dst with | a :: _, b :: _ => meshDist (a.1 / 16) (b.1 / 16) | _, _ => 0
      let s1 := if (part s n).pitch.isSome then toCycle s (o.since + 6 + 2 * h + 8 * (o.moved + 1)) else s
      let r := nocSlot s1 n o
      if r.2 then nocRun f r.1 core n { o with moved := o.moved + 1 } else jobFault (nocPop r.1 core) n o.job 1

/-- The copy at the head of an engine goes on as far as tags let it. (DESIGN CHOICE: log entry 71.) -/
def nocCopyEnd (s : State) (core : Nat) (o : NocOp) : State := nocRun (o.src.length + 1) s core (curPart s (core / 16)) o

end Sys2Proof.Machine
end

