-- ==== Sys2Proof/Machine/PartOps.lean ====
section
/-!
DEFINITION. Changes of a partition's state, and the faults that are not confined to one job (02_partitions_pitches R35, R41, R46;
13_parties R377, R378).
-/
namespace Sys2Proof.Machine

/-- Change PART_STAT.STATE. -/
def setSt (s : State) (n : Nat) (st : PState) : State :=
  if (part s n).st = st then s else setEvt (modPart s n fun p => { p with st := st }) (partPg n) 0

/-- Every running pitch of the partition stops. -/
def stopPitch (s : State) (n : Nat) : State :=
  match (part s n).pitch with
  | some p => endPitch s n (min p.limit (max (cycNow s) p.start))
  | none => s

/-- Every stream with a lane in the tick is marked and told; the lanes leave the flip set. -/
def faultLanes (s : State) (n : Nat) : State :=
  each s ((partLanes s n).filter fun p => !p.2.fault) fun s p =>
    faultStrm (modLane s p.1 fun l => { l with fault := true }) p.2.handle p.2.chunk.tick p.2.chunk.ts

/-- Number and cluster of a case of R46, for the capture of PART_FAULT (00_scope R473). -/
def caseDetail : PartFaultCase → Nat
  | .memUe c => 2 ^ 24 + c.val
  | .lockstep => 2 * 2 ^ 24
  | .hwError c => 3 * 2 ^ 24 + c.val
  | .tdiError => 4 * 2 ^ 24

/-- FAULTED (R46); in the commit window the state changes at the edge (R35). (DEDUCED: log entry 29.) -/
def faultPart (s : State) (n : Nat) (k : PartFaultCase) : State :=
  match (part s n).st with
  | .off => s | .faulted => s | .zeroising => s
  | _ =>
    let s1 := faultLanes (stopPitch s n) n
    let s2 := modPart s1 n fun p => { p with cmd := none, flipSet := none }
    let s3 := if s2.clk.phase = .commit ∧ (part s2 n).st = .running then modPart s2 n fun p => { p with toFault := true }
              else setSt s2 n .faulted
    setEvt s3 (partPg n) 3 (caseDetail k)

/-- A VF's TDI goes to ERROR (R376, R377), which may fault a RUNNING partition (R378). (DEDUCED: log entry 29.) -/
def tdiError (s : State) (n : Nat) : State :=
  if tdi s n = 3 then s
  else
    let s1 := setTdi s n 3
    let s2 := setEvt (bump s1 (funcsPg) 0x114) funcsPg 1 (n + 1)
    if (part s2 n).st = .running && partParty s2 n ≠ 0 && rb s2 (ptyPg (partParty s2 n) + 0x200) 1
    then faultPart s2 n .tdiError else s2

/-- PART_FAULT: a fault of R46 that hardware or Sirvi firmware finds. The first and third cases name a member cluster, the second is
what SYNC finds and the fourth what a TDI in ERROR brings. -/
def partFaultEff (n : Nat) (k : PartFaultCase) (s : State) : State :=
  match k with
  | .memUe c => if isMember s n c then faultPart s n k else s
  | .hwError c => if isMember s n c then faultPart s n k else s
  | .lockstep => faultPart s n k
  | .tdiError => if (part s n).st = .running && tdi s n = 3 && rb s (ptyPg (partParty s n) + 0x200) 1 then faultPart s n k else s

def execPartFault (n : Fin 16) (k : PartFaultCase) (s : State) : Out := .next (partFaultEff n k s)

/-! ## SYNC (03_tick_programs R84) -/

/-- The bundle indices a member has reported in the pitch, oldest first. -/
def syncsOf (s : State) (n c : Nat) : List Nat := (part s n).syncs.reverse.filterMap fun p => if p.1 = c then some p.2 else none

/-- The cycles a member has frozen in the pitch, with those of the episodes on their way to it, which by R83 it freezes for too. -/
def frozenOf (s : State) (m : Nat) : Nat := (clu s m).far.foldl (fun a q => a + q.2) (clu s m).frz

/-- Some other member's report of the same ordinal differs in its bundle index, or its frozen total does (R84). (DEDUCED: log entry 29.) -/
def syncDiffers (s : State) (n c pc : Nat) : Bool :=
  let k := (syncsOf s n c).length
  (members s n).any fun m => m ≠ c && (match (syncsOf s n m)[k]? with
    | some q => q ≠ pc || frozenOf s m ≠ frozenOf s c
    | none => false)

/-- SYNC (R84). (DEDUCED: log entry 29.) -/
def syncEff (c : Nat) (s0 : State) : State :=
  let s := settle s0 c
  if canDo s c 2 then
    let n := curPart s c
    let pc := (clu s c).pc
    let bad := syncDiffers s n c pc
    let s1 := modPart (markDid s c 2) n fun p => { p with syncs := (c, pc) :: p.syncs }
    if bad then faultPart s1 n .lockstep else s1
  else s

def execSync (c : Fin 256) (s : State) : Out := .next (syncEff c s)

end Sys2Proof.Machine
end

