-- ==== Sys2Proof/Machine/Switch.lean ====
section
/-!
DEFINITION. The switch to a job (02_partitions_pitches R56, R57; 03_tick_programs R82, R86, R91; 04 R106; 06 R158; 08 R228;
09 R269, R285) and the pages of paged programs.
-/
namespace Sys2Proof.Machine

/-! ## Bundle pages (R86) -/

/-- Pages of a paged slice. -/
def pageCount (img : JobImg) : Nat := cdiv img.n 256

/-- The bundles of a page's plaintext. -/
def pageBundles (bs : List Byte) : List Bundle :=
  (List.range 256).map fun k => BitVec.ofNat 512 (leNat ((bs.drop (64 * k)).take 64))

/-- The page's initialisation vector: its address. (DEDUCED: log entry 37.) -/
def pageIv (a : Nat) : List Byte := natLe 12 a

/-- Page `p` of slice `i` read from HBM and opened; none when it does not verify or meets an uncorrectable word. -/
def openPage (s : State) (n : Nat) (img : JobImg) (i p : Nat) : Option (List Bundle) :=
  let a := nth 0 (nth [] img.pages i) p
  if hbmPoison s a 16384 || !inRegion s (partParty s n) 3 a 16384 then none
  else (openAny s (partParty s n) labelImg (pageIv a) [] (hbmRead s a 16384) (nth [] (nth [] img.ptags i) p)).map pageBundles

/-- The lowest frame of the job that holds no page. (DESIGN CHOICE: log entry 37.) -/
def freeFrame (s : State) (c : Nat) (img : JobImg) : Option Nat :=
  (img.frame0.take img.frames).find? fun f => (clu s c).pages.all fun q => q.2 ≠ f

/-- A page's bundles go into a free frame. -/
def putPage (s : State) (c p : Nat) (img : JobImg) (bs : List Bundle) : State :=
  match freeFrame s c img with
  | none => s
  | some f =>
    let s1 := (bs.take (img.n - 256 * p)).zipIdx.foldl (fun s q => setBundle s c (256 * f + q.2) q.1) s
    modClu s1 c fun x => { x with pages := (p, f) :: x.pages }

/-- Fetch a page into a cluster; a page that fails is a job fault with cause 3, and an uncorrectable word is counted. (DEDUCED: log entry 37.) -/
def fetchPage (s : State) (n c p : Nat) (img : JobImg) : State × Bool :=
  match sliceOf img c with
  | none => (s, false)
  | some i =>
    let a := nth 0 (nth [] img.pages i) p
    let s1 := charge (hbmUe s a 16384) n fun x => { x with hbmRd := x.hbmRd + 16384 }
    match openPage s n img i p with
    | some bs => (putPage s1 c p img bs, true)
    | none => (s1, false)

/-- A page that sequential fetching brings next: absent, with a frame free, every page from the current one up to it present (R86). -/
def pageNext (s : State) (c p : Nat) : Bool :=
  let x := clu s c
  let img := curImg s c
  img.paged && decide (p < pageCount img) && decide (x.pc / 256 ≤ p) && !pageHere s c p &&
    (List.range (p - x.pc / 256)).all (fun k => pageHere s c (x.pc / 256 + k)) && (freeFrame s c img).isSome

/-- BUNDLE_PAGE_ARRIVAL: the page is checked and stands in its frame. (DEDUCED: log entry 37.) -/
def bundlePageArrivalEff (c p : Nat) (s0 : State) : State :=
  let s := if (clu s0 c).run then settle s0 c else s0
  if (clu s c).run && pageNext s c p then
    let r := fetchPage s (curPart s c) c p (curImg s c)
    if r.2 then r.1 else clusFault r.1 c 3
  else s

def execBundlePageArrival (c : Fin 256) (page : Nat) (s : State) : Out := .next (bundlePageArrivalEff c page s)

/-! ## Switch lists (09 R269, R285) -/

/-- A switch-list descriptor touches no host memory and on HBM only the party's spill and non-resident weight regions; it writes to the
spill region alone, whose uses name the evict (R269, R278). (DEDUCED: log entry 39.) -/
def switchRange (s : State) (n : Nat) (d : BitVec 512) : Bool :=
  let p := partParty s n
  let src := if dOp d = 2 then true else if dSkind d = 1 then
      inRegion s p 4 (dSaddr d) (dLen d) || inRegion s p 2 (dSaddr d) (dLen d) else decide (dSkind d = 0)
  src && (if dDkind d = 1 then inRegion s p 4 (dDaddr d) (dLen d) else decide (dDkind d = 0))

/-- Outcome of running switch lists so far: the state, a fault's cause, or a wait on a tag. -/
structure SwRes where
  s     : State
  cause : Option Nat
  waits : Bool

/-- A switch-list transfer moves to its end: the state, the transfer, and the cause of a fault. -/
def switchMove : Nat → State → Nat → Desc → State × Desc × Option Nat
  | 0, s, _, d => (s, d, none)
  | f + 1, s, n, d =>
    if descDone d || descWaits s d then (s, d, none)
    else
      let r := descMove s n d none
      match r.2.2 with
      | some k => (r.1, r.2.1, some k)
      | none => switchMove f r.1 n r.2.1

/-- One descriptor of a switch list. (DEDUCED: log entry 39.) -/
def switchDesc (n c : Nat) (r : SwRes) (d : BitVec 512) : SwRes :=
  if r.cause.isSome || r.waits then r
  else
    match descCheck r.s n c d with
    | .inl k => { r with cause := some k }
    | .inr (a, b) =>
      if !switchRange r.s n d then { r with cause := some 4 }
      else
        let x : Desc := { d := d, started := true, src := a, dst := b }
        let m := switchMove (a.length + b.length + 1) r.s n x
        { s := m.1, cause := m.2.2, waits := m.2.2.isNone && !descDone m.2.1 }

/-- The lists of a job in every member. (DEDUCED: log entry 39.) -/
def switchLists (s : State) (n : Nat) (f : Nat → List (BitVec 512)) : SwRes :=
  (members s n).foldl (fun r c => (f c).foldl (switchDesc n c) r) { s := s, cause := none, waits := false }

/-- A member's list of a job. -/
def listOf (l : List (List (BitVec 512))) (img : JobImg) (c : Nat) : List (BitVec 512) :=
  match sliceOf img c with
  | some i => nth [] l i
  | none => []

/-- The handle entries of the incoming job replace the table (R269). -/
def rebind (s : State) (n : Nat) (img : JobImg) : State :=
  let ms := members s n
  let s1 := { s with htab := s.htab.filter fun p => !ms.contains (p.1 / 1024) }
  each s1 ms fun s c => ((handleImg img c).take img.handles).zipIdx.foldl (fun s q => setHentry s c q.2 q.1) s

/-! ## SWITCH_DONE -/

/-- A transfer is still under way for a job (R285), or into one of its ATTNBUF slots (R228): a descriptor that has started, an operation on
a NoC engine, or a received message. -/
def transfersLeft (s : State) (n jout : Nat) (attn : List (Nat × Nat)) : Bool :=
  ((members s n).any fun c =>
    let x := clu s c
    ((x.q0 ++ x.q1).any fun d => d.started &&
      (d.job = jout || d.dst.any fun q => attn.contains (q.1, q.2.1) && !d.skip.contains (q.1, q.2.1))) ||
    (List.range 16).any fun i => (smGet [] s.noc (16 * c + i)).any fun o => o.job = jout || o.dst.any fun q => attn.contains q && !o.skip.contains q) ||
  (bly s n).rx.any fun m => m.slots.any fun q => attn.contains (q.1, q.2.1)

/-- The slots of a job's ATTNBUF handles in its members (R228). -/
def attnSlots (s : State) (n : Nat) (img : JobImg) : List (Nat × Nat) :=
  (members s n).flatMap fun c => (handleImg img c).flatMap fun e =>
    if heValid e && heAttn e then
      let cores := if heCoreScope e then [16 * heCluster e + heCore e] else (List.range 16).map fun i => 16 * heCluster e + i
      cores.flatMap fun co => (List.range (heCount e)).map fun k => (co, heFirst e + k)
    else []

/-- A member stands before bundle 0. -/
def startClus (s : State) (n o c : Nat) (paged fresh : Bool) (frames : Nat) : State :=
  modClu s c fun x => { x with
    run := true, halted := false, halting := false, haltCls := 2, hEnd := 0, dEnd := none, part := n, d := hops (members s n) o c, pc := 0, icyc := 0
    frz := 0, far := [], wait := none, did := [], loops := [], arms := [], sel := none, effs := [], attn := [], runs := [], port := [], busy := [], rem := none
    pages := if paged && !fresh then x.pages.filter fun p => decide (p.1 < frames) else []
    sum := if fresh then [] else x.sum }

/-- The engines of every core of a cluster are cleared (04 R106, 06 R158). -/
def clearCores (s : State) (c : Nat) : State := each s (List.range 16) fun s i => setCore s (16 * c + i) {}

/-- The first pages of a paged job come in at a switch (R86); false when one fails. -/
def firstPages (s : State) (n : Nat) (img : JobImg) : State × Bool :=
  if img.paged then
    (members s n).foldl (fun (r : State × Bool) c =>
      (List.range (min img.frames (pageCount img))).foldl (fun (r : State × Bool) p =>
        if r.2 then fetchPage r.1 n c p img else r) r) (s, true)
  else (s, true)

/-- A handler starts in a cluster whose control core is idle; otherwise it waits its turn (R91). -/
def runHandler (s : State) (c : Nat) (h : Hnd) (j : Nat) : State :=
  modClu s c fun x =>
    let e := (job s x.part j).img
    let pc := e.ccAt + nth 0 e.vectors (match h with | .dispatch => 0 | .pitch => 1 | .summary => 2)
    if x.hnd.isNone then { x with hnd := some (h, j), hndPc := pc } else { x with hndQ := x.hndQ ++ [(h, j)] }

/-- Bundle 0 can issue at the origin at this cycle. -/
def t0Of (s : State) (n : Nat) (p : Pitch) (extra : Nat) : Nat :=
  p.start + p.tearW + tSwitch s n p.job (predJob s n p.entry) + extra

/-- Engines cleared, sequencers at bundle 0, PITCH handlers entered, t0 fixed. -/
def beginIssue (s : State) (n : Nat) (p : Pitch) (extra : Nat) (fresh : Bool) : State :=
  let img := (job s n p.job).img
  let t0 := t0Of s n p extra
  let s1 := tagSlots s (attnSlots s n img) false
  let s2 := each s1 (members s1 n) fun s c => startClus (clearCores s c) n (partOrigin s n) c img.paged fresh img.frames
  let s3 := if fresh then firstPages s2 n img else (s2, true)
  let s4 := modPart s3.1 n fun q => { q with
    pitch := some { p with t0 := some t0, extra := extra, stalls := (t0 - extra, t0, 0) :: p.stalls }, syncs := [] }
  let s5 := toCycle s4 t0
  if s3.2 then
    each s5 (members s5 n) fun s c =>
      let s := if img.paged && !pageHere s c 0 then freeze s c (.page 0) 0 else s
      runHandler s c .pitch p.job
  else jobFault s5 n p.job 3

/-- The switch of a pitch completes: lists, handles, first pages. A fault belongs to the incoming job (R64). -/
def switchJob (s : State) (n : Nat) (p : Pitch) (extra : Nat) : State :=
  let img := (job s n p.job).img
  let out := match (part s n).lastJob with
    | some j => switchLists s n fun c => listOf (job s n j).img.evictList (job s n j).img c
    | none => { s := s, cause := none, waits := false }
  let inn := if out.cause.isSome || out.waits then out
             else switchLists (rebind out.s n img) n fun c => listOf img.fetchList img c
  if inn.waits then s
  else match inn.cause with
    | some k => jobFault inn.s n p.job k
    | none => beginIssue (modPart inn.s n fun q => { q with lastJob := some p.job }) n p extra true

/-- The pitch starts as the one before it left the cores: its predecessor (R52) runs the same job, whose handles and lists are in
place. (DEDUCED: log entry 35.) -/
def noSwitch (s : State) (n : Nat) (p : Pitch) : Bool :=
  decide ((part s n).lastJob = some p.job) && decide (tSwitch s n p.job (predJob s n p.entry) = 0)

/-- SWITCH_DONE (R56, R57, R82): the switch of the running pitch is done, `extra` cycles beyond the formula, when no teardown of the
partition is left and no transfer of the job before it or into its attention buffers; t0 lies before the limit. -/
def switchDoneEff (n extra : Nat) (s : State) : State :=
  match (part s n).pitch with
  | none => s
  | some p =>
    let attn := attnSlots s n (job s n p.job).img
    if p.t0.isSome || tearBusy s n || decide (p.limit ≤ t0Of s n p extra) then s
    else if transfersLeft s n (match (part s n).lastJob with | some j => j | none => 16) attn then s
    else if noSwitch s n p then beginIssue s n p extra false
    else switchJob s n p extra

def execSwitchDone (n : Fin 16) (extra : Nat) (s : State) : Out := .next (switchDoneEff n extra s)

end Sys2Proof.Machine
end

