-- ==== Sys2Proof/Machine/ControlCore.lean ====
section
/-!
DEFINITION. The cluster control cores (03_tick_programs R91-R96): handlers, their exceptions, and the effect of each access to the
interface window that changes state.
-/
namespace Sys2Proof.Machine

/-- The requester number of a cluster's control core, for the HI latch of R9 (PF 0, VFs 1-16, Sirvi 17). -/
def ccRequester (c : Nat) : Nat := 18 + c

/-- A handler runs and is not held by a full descriptor queue (R95) or by four queued reads (10 R302). (DEDUCED: log entry 25.) -/
def ccRuns (s : State) (c : Nat) : Bool := (clu s c).hnd.isSome && (clu s c).held.isNone && (clu s c).expHeld.isNone

/-- The job whose handler runs. -/
def ccJob (s : State) (c : Nat) : Nat := match (clu s c).hnd with | some (_, j) => j | none => 0

/-- The next handler in turn starts (R91). -/
def nextHandler (s : State) (c : Nat) : State :=
  let x := clu s c
  match x.hndQ with
  | [] => setClu s c { x with hnd := none, held := none, expHeld := none }
  | (h, j) :: r => runHandler (setClu s c { x with hnd := none, held := none, expHeld := none, hndQ := r }) c h j

/-- WFI ends the handler (R91). -/
def wfiEff (c : Nat) (s : State) : State := if ccRuns s c then nextHandler s c else s
def execWfi (c : Fin 256) (s : State) : Out := .next (wfiEff c s)

/-- SUMMARY_HANDLER: in the job's pitch, the FIFO holds an entry and no handler runs (R91). -/
def summaryHandlerEff (c : Nat) (s : State) : State :=
  let x := clu s c
  if x.run && x.hnd.isNone && !x.sum.isEmpty then runHandler s c .summary (curJob s c) else s
def execSummaryHandler (c : Fin 256) (s : State) : Out := .next (summaryHandlerEff c s)

/-- CC_FAULT.KIND (R94). -/
def kindCode : CcKind → Nat
  | .illegal => 1 | .outside => 2 | .misaligned => 3 | .envCall => 4

/-- A control-core exception (R94): recorded, counted, and a job fault with cause illegal bundle. -/
def ccExceptionEff (c : Nat) (k : CcKind) (s : State) : State :=
  if ccRuns s c then
    let j := ccJob s c
    let v := 16 * j + kindCode k
    let s1 := wrN s (clPg c + 0x124) v
    let s2 := setEvt (bump s1 (clPg c) 0x11C) (clPg c) 3 v
    jobFault (nextHandler s2 c) (clu s c).part j 3
  else s
def execCcException (c : Fin 256) (k : CcKind) (s : State) : Out := .next (ccExceptionEff c k s)

/-- A store to CC_ALTSEL: SEL, BPID, and VALID set (R89). -/
def ccAltselEff (c : Nat) (v : Word) (s : State) : State :=
  if ccRuns s c then modClu s c fun x => { x with altV := true, altSel := bitAt v.toNat 12, altBp := wfld v 0 12 } else s
def execCcAltsel (c : Fin 256) (v : Word) (s : State) : Out := .next (ccAltselEff c v s)

/-- A descriptor stored to CC_DESC is submitted to queue 0, or holds the control core while the queue is full (R95). -/
def ccDescEff (c : Nat) (d : BitVec 512) (s : State) : State :=
  if ccRuns s c then
    let x := clu s c
    if x.q0.length < 64 then
      setClu s c { x with q0 := x.q0 ++ [{ d := d, entry := (match (part s x.part).pitch with | some p => p.entry | none => 0), job := ccJob s c }] }
    else setClu s c { x with held := some d }
  else s
def execCcDesc (c : Fin 256) (d : BitVec 512) (s : State) : Out := .next (ccDescEff c d s)

/-- Make a lane late with a cause, unless a cause is decided already. -/
def makeLate (s : State) (key cause : Nat) : State :=
  modLane s key fun l => { l with late := match l.late with | some x => some x | none => some cause }

/-- CC_DEFER in the dispatch window makes the lane late with cause DEFERRED (R95). -/
def ccDeferEff (c : Nat) (v : Word) (s : State) : State :=
  if ccRuns s c && s.clk.phase = .dispatch then makeLate s (laneKey (clu s c).part (ccJob s c) c (wfld v 0 9)) 3 else s
def execCcDefer (c : Fin 256) (v : Word) (s : State) : Out := .next (ccDeferEff c v s)

/-- A load of CC_SUM_POP_LO pops the head entry; HI is latched for the control core (R9). -/
def ccSumPopEff (c : Nat) (s : State) : State :=
  if ccRuns s c then
    match (clu s c).sum with
    | [] => { s with rdata := some 0, latch := smSet 0 s.latch (ccRequester c) 0 }
    | v :: r =>
      let s1 := modClu s c fun x => { x with sum := r }
      { s1 with rdata := some (v.toNat % 2 ^ 32), latch := smSet 0 s1.latch (ccRequester c) (BitVec.ofNat 32 (v.toNat / 2 ^ 32)) }
  else s
def execCcSumPop (c : Fin 256) (s : State) : Out := .next (ccSumPopEff c s)

/-- CC_BELAY_SAME marks the lane UNCHANGED for belay (14 R405). -/
def ccBelaySameEff (c : Nat) (v : Word) (s : State) : State :=
  if ccRuns s c && s.clk.phase ≠ .commit && s.clk.phase ≠ .guard then
    modLane s (laneKey (clu s c).part (ccJob s c) c (wfld v 0 9)) fun l => { l with same := true } else s
def execCcBelaySame (c : Fin 256) (v : Word) (s : State) : Out := .next (ccBelaySameEff c v s)

/-- The DISPATCH handlers of a tick (R91): in each cluster one for each job with lanes bound there, ascending. -/
def dispatchHandlers (s : State) (n : Nat) : State :=
  let ls := partLanes s n
  each s (members s n) fun s c =>
    each s (List.range 16) fun s j =>
      if ls.any fun p => laneClus p.1 = c && laneJob p.1 = j then runHandler s c .dispatch j else s

/-- DISPATCH handlers still running at cycle 50,000 are stopped; the lanes of their jobs, and of the jobs whose handlers have not
started, are late with cause NOT_BOUND (R92). -/
def stopDispatch (s : State) (n : Nat) : State :=
  each s (members s n) fun s c =>
    let x := clu s c
    let js := (match x.hnd with | some (.dispatch, j) => [j] | _ => []) ++
      x.hndQ.filterMap fun h => if h.1 = .dispatch then some h.2 else none
    if js = [] then s
    else
      let s1 := setClu s c { x with hnd := match x.hnd with | some (.dispatch, _) => none | h => h
                                    hndQ := x.hndQ.filter fun h => h.1 ≠ .dispatch, held := none, expHeld := none }
      each s1 ((partLanes s1 n).filter fun p => laneClus p.1 = c && js.contains (laneJob p.1)) fun s p => makeLate s p.1 1

end Sys2Proof.Machine
end

