-- ==== Sys2Proof/Machine/Kv.lean ====
section
/-!
DEFINITION. The KV engine (08_attention R215-R227, R250-R253): the page pool, sequences and page tables in HBM, the commands of the
control cores, the host commands, and the edge work of a flip.
-/
namespace Sys2Proof.Machine

/-! ## Registers and layout (R215, R216, R250) -/

def kvOn (s : State) (n : Nat) : Bool := rb s (partPg n + 0x388) 31
def kvBase (s : State) (n : Nat) : Nat := rd64 s (partPg n + 0x380) % 2 ^ 48
def kvNp (s : State) (n : Nat) : Nat := rf s (partPg n + 0x388) 0 22 + 1
def kvPage (s : State) (n : Nat) : Nat := 4096 * rf s (partPg n + 0x388) 24 4 + 256
def kvSeqBase (s : State) (n : Nat) : Nat := rd64 s (partPg n + 0x390) % 2 ^ 48
def kvSeqs (s : State) (n : Nat) : Nat := rf s (partPg n + 0x38C) 0 20 + 1

/-- a4 of R216. -/
def a4 (x : Nat) : Nat := ceilTo x 4096

def kvStack (s : State) (n : Nat) : Nat := kvBase s n + a4 (2 * kvNp s n)
def kvFrame (s : State) (n p : Nat) : Nat := kvStack s n + a4 (4 * kvNp s n) + p * kvPage s n
/-- The pool's last byte plus one. -/
def kvEnd (s : State) (n : Nat) : Nat := kvFrame s n (kvNp s n)

/-- Reference count of a page. -/
def kvCount (s : State) (n p : Nat) : Nat := hbmN s (kvBase s n + 2 * p) 2
def setCount (s : State) (n p v : Nat) : State := (hbmWrite s (kvBase s n + 2 * p) (natLe 2 v)).1

/-- Drop repeated neighbours. -/
def dedup : List Nat → List Nat
  | [] => []
  | [a] => [a]
  | a :: b :: l => if a = b then dedup (b :: l) else a :: dedup (b :: l)

/-- KV_FREE: pages whose count is 0 (R216); 0 without a pool. (DEDUCED: log entry 43.) -/
def kvFree (s : State) (n : Nat) : Nat :=
  if kvOn s n then
    kvNp s n - (dedup (s.hbm.filterMap fun q =>
      if kvBase s n ≤ q.1 ∧ q.1 < kvBase s n + 2 * kvNp s n ∧ q.2 ≠ 0 then some ((q.1 - kvBase s n) / 2) else none)).length
  else 0

/-- (DEDUCED: log entry 43.) -/
def kvCorrupt (s : State) (n : Nat) : Bool := rb s (partPg n + 0x3B8) 3

/-- The engine stops (R217). -/
def kvStop (s : State) (n : Nat) : State := wf s (partPg n + 0x3B8) 3 1 1

/-! ## Sequence descriptors and page tables (R218, R219) -/

def sdAddr (s : State) (n q : Nat) : Nat := kvSeqBase s n + 64 * q
def sdGet (s : State) (n q off len : Nat) : Nat := hbmN s (sdAddr s n q + off) len
def sdPut (s : State) (n q off len v : Nat) : State := (hbmWrite s (sdAddr s n q + off) (natLe len v)).1
def sdL (s : State) (n q : Nat) : Nat := sdGet s n q 0 4
def sdCap (s : State) (n q : Nat) : Nat := sdGet s n q 4 4
def sdTab (s : State) (n q : Nat) : Nat := sdGet s n q 8 8 % 2 ^ 48
def sdFlags (s : State) (n q : Nat) : Nat := sdGet s n q 0x10 4
def sdValid (s : State) (n q : Nat) : Bool := bitAt (sdFlags s n q) 31
def sdDropped (s : State) (n q : Nat) : Bool := bitAt (sdFlags s n q) 29
def sdRqSent (s : State) (n q : Nat) : Bool := bitAt (sdFlags s n q) 28
def sdOwner (s : State) (n q : Nat) : Nat := fld (sdFlags s n q) 0 20
def setSdBit (s : State) (n q i : Nat) (b : Bool) : State := sdPut s n q 0x10 4 (setFld (sdFlags s n q) i 1 (b2n b))
def sdUse (s : State) (n q : Nat) : Nat := sdGet s n q 0x18 8
def touchSeq (s : State) (n q : Nat) : State := sdPut s n q 0x18 8 s.clk.num

/-- Entry `i` of a sequence's page table. -/
def pte (s : State) (n q i : Nat) : Nat := hbmN s (sdTab s n q + 4 * i) 4
def setPte (s : State) (n q i v : Nat) : State := (hbmWrite s (sdTab s n q + 4 * i) (natLe 4 v)).1
def pteKind (e : Nat) : Nat := fld e 30 2
def ptePage (e : Nat) : Nat := fld e 0 22
/-- A VALID entry of page `p`. -/
def pteOf (p : Nat) : Nat := 2 ^ 30 + p

/-- Droppable (R220). -/
def sdDroppable (s : State) (n q : Nat) : Bool := sdOwner s n q ≠ 0 && (strm s (sdOwner s n q)).droppable

/-! ## Pages -/

/-- Take a page off the free stack; its number and its count are checked (R217). None without a free page or when a check fails. -/
def popPage (s : State) (n : Nat) : Option Nat :=
  let f := kvFree s n
  if f = 0 then none
  else
    let p := fld (hbmN s (kvStack s n + 4 * (f - 1)) 4) 0 22
    if p < kvNp s n ∧ kvCount s n p = 0 then some p else none

/-- A page's count falls by one; at 0 the page goes onto the free stack. -/
def unref (s : State) (n p : Nat) : State :=
  let v := kvCount s n p
  let f := kvFree s n
  let s1 := setCount s n p (v - 1)
  if v = 1 then (hbmWrite s1 (kvStack s n + 4 * f) (natLe 4 p)).1 else s1

/-- The LOW bit goes with the free pages (R226). -/
def kvLow (s : State) (n : Nat) : State :=
  if rf s (partPg n + 0x398) 0 22 ≤ kvFree s n then wf s (partPg n + 0x3B8) 4 1 0 else s

/-! ## Commands of the control cores (R222-R225) -/

/-- Results of an engine command, or its cause. -/
def kvAnswer (s : State) (c : Nat) (cause : Nat) (r : List Nat) : State :=
  modClu s c fun x => { x with
    kvSt := BitVec.ofNat 32 (cause * 2 ^ 24), kvR := if cause = 0 then r.map (BitVec.ofNat 32) else x.kvR }

/-- The window registers as a command finds them. -/
def kvArgs (s : State) (c : Nat) (a0 a1 : Word) : State := modClu s c fun x => { x with kvA0 := a0, kvA1 := a1 }

/-- The causes that every command checks first: no pool, a stopped engine, no such sequence. -/
def kvPre (s : State) (n q : Nat) : Nat :=
  if !kvOn s n then 9 else if kvCorrupt s n then 7 else if kvSeqs s n ≤ q || !sdValid s n q then 1 else 0

/-- An HBM range a command reads holds an uncorrectable word (R280). -/
def kvUe (s : State) (n c : Nat) (a len : Nat) (k : State → State) : State :=
  if hbmPoison s a len then jobFault (hbmUe s a len) n (ccJob s c) 1 else k s

/-- A command on a DROPPED sequence for a lane: the lane is late, and a recompute is asked for once (R224, R227). -/
def askRecompute (s : State) (n q key : Nat) : State :=
  let s1 := makeLate s key 3
  if sdRqSent s1 n q then s1
  else
    let s2 := setSdBit s1 n q 28 true
    let s3 := if (part s2 n).kvRq.length < 256 then modPart s2 n fun p => { p with kvRq := p.kvRq ++ [q] }
              else bump s2 (partPg n) 0x3D0
    if sdOwner s3 n q = 0 then s3
    else
      let ch := match lane s3 key with | some l => l.chunk | none => {}
      strmEvent s3 (sdOwner s3 n q) 5 0 q ch.tick ch.ts

/-- The key of the lane that a command names. -/
def kvLane (s : State) (c : Nat) (a1 : Word) : Nat := laneKey (clu s c).part (ccJob s c) c (wfld a1 16 9)

/-- INFO (R222, R224). -/
def kvInfoEff (c : Nat) (a0 a1 : Word) (s0 : State) : State :=
  if !ccRuns s0 c then s0
  else
    let s := kvArgs s0 c a0 a1
    let n := (clu s c).part
    let q := wfld a0 0 20
    if kvPre s n q ≠ 0 then kvAnswer s c (kvPre s n q) []
    else kvUe s n c (sdAddr s n q) 64 fun s =>
      let use := sdUse s n q
      let s1 := if bitAt a1.toNat 31 then (if sdDropped s n q then askRecompute s n q (kvLane s c a1) else touchSeq s n q) else s
      kvAnswer s1 c 0 [sdL s n q, 2 ^ 31 * b2n (sdValid s n q) + 2 ^ 30 * b2n (sdDroppable s n q) + 2 ^ 29 * b2n (sdDropped s n q),
        use % 2 ^ 32]

def execKvInfo (c : Fin 256) (a0 a1 : Word) (s : State) : Out := .next (kvInfoEff c a0 a1 s)

/-- PTE (R222). -/
def kvPteEff (c : Nat) (a0 a1 : Word) (s0 : State) : State :=
  if !ccRuns s0 c then s0
  else
    let s := kvArgs s0 c a0 a1
    let n := (clu s c).part
    let q := wfld a0 0 20
    let i := wfld a1 0 22
    if kvPre s n q ≠ 0 then kvAnswer s c (kvPre s n q) []
    else kvUe s n c (sdAddr s n q) 64 fun s =>
      if sdCap s n q ≤ i then kvAnswer s c 2 []
      else kvUe s n c (sdTab s n q + 4 * i) 4 fun s =>
        let e := pte s n q i
        let f := if pteKind e = 1 then kvFrame s n (ptePage e) else 0
        kvAnswer s c 0 [e, f % 2 ^ 32, f / 2 ^ 32 % 2 ^ 16]

def execKvPte (c : Fin 256) (a0 a1 : Word) (s : State) : Out := .next (kvPteEff c a0 a1 s)

/-- Where a RESERVE stands: its cause so far (0 none), pages allocated and copied, and whether a read met an uncorrectable word. -/
structure KvRes where
  s     : State
  cause : Nat := 0
  alloc : Nat := 0
  copied : Nat := 0
  ue    : Bool := false

/-- One page index of a RESERVE (R223). -/
def reservePage (n q : Nat) (r : KvRes) (i : Nat) : KvRes :=
  if r.cause ≠ 0 || r.ue then r
  else
    let s := r.s
    if sdCap s n q ≤ i then { r with cause := 6 }
    else if hbmPoison s (sdTab s n q + 4 * i) 4 then { r with s := hbmUe s (sdTab s n q + 4 * i) 4, ue := true }
    else
      let e := pte s n q i
      if pteKind e = 1 ∧ kvCount s n (ptePage e) ≤ 1 then r
      else if kvFree s n = 0 then { r with cause := 5 }
      else match popPage s n with
      | none => { r with s := kvStop s n, cause := 7 }
      | some p =>
        if pteKind e = 1 then
          let o := ptePage e
          if hbmPoison s (kvFrame s n o) (kvPage s n) then { r with s := hbmUe s (kvFrame s n o) (kvPage s n), ue := true }
          else
            let s1 := (hbmWrite s (kvFrame s n p) (hbmRead s (kvFrame s n o) (kvPage s n))).1
            let s2 := setCount (unref s1 n o) n p 1
            let s3 := charge (setPte s2 n q i (pteOf p)) n fun a => { a with hbmRd := a.hbmRd + kvPage s n, hbmWr := a.hbmWr + kvPage s n }
            { r with s := bump s3 (partPg n) 0x3C8, alloc := r.alloc + 1, copied := r.copied + 1 }
        else { r with s := setPte (setCount s n p 1) n q i (pteOf p), alloc := r.alloc + 1 }

/-- RESERVE (R222-R224). -/
def kvReserveEff (c : Nat) (a0 a1 : Word) (s0 : State) : State :=
  if !ccRuns s0 c then s0
  else
    let s := kvArgs s0 c a0 a1
    let n := (clu s c).part
    let q := wfld a0 0 20
    let cnt := wfld a1 0 7
    let key := kvLane s c a1
    if kvPre s n q ≠ 0 then kvAnswer s c (kvPre s n q) []
    else kvUe s n c (sdAddr s n q) 64 fun s =>
      if s.clk.phase ≠ .dispatch || !bitAt a1.toNat 31 || (lane s key).isNone then kvAnswer s c 3 []
      else if sdDropped s n q then kvAnswer (askRecompute s n q key) c 4 []
      else if (part s n).kvRes.any (fun p => p.1 = q) then kvAnswer s c 8 []
      else
        let l := sdL s n q
        let s1 := touchSeq s n q
        let s2 := sdPut (sdPut s1 n q 0x20 4 cnt) n q 0x24 2 (wfld a1 16 9)
        let ix := if cnt = 0 then [] else (List.range ((l + cnt - 1) / 64 - l / 64 + 1)).map fun k => l / 64 + k
        let r := ix.foldl (reservePage n q) { s := s2 }
        let held := modPart r.s n fun p => { p with kvRes := p.kvRes ++ [(q, key)] }
        if r.ue then jobFault held n (ccJob s c) 1
        else if r.cause = 5 then kvAnswer (makeLate (bump s1 (partPg n) 0x3CC) key 3) c 5 []
        else if r.cause = 6 then kvAnswer (makeLate s1 key 3) c 6 []
        else if r.cause = 7 then kvAnswer r.s c 7 []
        else kvAnswer (kvLow held n) c 0 [l, r.alloc, r.copied]

def execKvReserve (c : Fin 256) (a0 a1 : Word) (s : State) : Out := .next (kvReserveEff c a0 a1 s)

/-! ## Host commands (R251) -/

/-- A host command is rejected. -/
def kvReject (s : State) (n cause : Nat) : State :=
  let a := partPg n + 0x3B8
  setEvt (wf (wf (wf s a 24 8 cause) a 0 1 0) a 1 1 0) (partPg n) 1 (cause * 2 ^ 24 + 4 * 2 ^ 20)

/-- A host command has completed. -/
def kvDone (s : State) (n : Nat) : State :=
  let a := partPg n + 0x3B8
  kvLow (wf (wf s a 0 1 1) a 1 1 0) n

/-- The range lies in the KV region of the party's window. -/
def kvRegion (s : State) (n a len : Nat) : Bool := inRegion s (partParty s n) 1 a len

/-- Fill a page table with NONE. -/
def clearTab (s : State) (a cap : Nat) : State := hbmClear s a (4 * cap)

/-- SEQ_INIT. -/
def doSeqInit (s : State) (n : Nat) (k : KvCmd) : State :=
  if kvSeqs s n ≤ k.a0 || k.a3 % 64 ≠ 0 || k.a2 = 0 || 2 ^ 22 < k.a2 || !kvRegion s n k.a3 (4 * k.a2) then kvReject s n 1
  else if sdValid s n k.a0 then kvReject s n 2
  else
    let bytes := natLe 4 0 ++ natLe 4 k.a2 ++ natLe 8 k.a3 ++ natLe 4 (2 ^ 31 + k.a1) ++ natLe 4 0 ++ natLe 8 s.clk.num ++ natLe 32 0
    kvDone (hbmWrite (clearTab s k.a3 k.a2) (sdAddr s n k.a0) bytes).1 n

/-- Entry `i` of `q` goes to `d`, and its page's count rises; none where a count would pass 65,535 (R217). -/
def forkEntry (n d q : Nat) (o : Option State) (i : Nat) : Option State :=
  o.bind fun s =>
    let e := pte s n q i
    let s := setPte s n d i e
    if pteKind e ≠ 1 then some s
    else if 65535 ≤ kvCount s n (ptePage e) then none
    else some (setCount s n (ptePage e) (kvCount s n (ptePage e) + 1))

/-- Every entry of the first `m` is NONE. -/
def allNone (s : State) (n q m : Nat) : Bool :=
  let a := sdTab s n q
  s.hbm.all fun c => !(decide (a ≤ c.1) && decide (c.1 < a + 4 * m)) || c.2 = 0

/-- SEQ_FORK; an increment past 65,535, which only a page named twice brings about, stops the engine and changes nothing (R217). -/
def doSeqFork (s : State) (n : Nat) (k : KvCmd) : State :=
  let d := k.a0
  let q := k.a1
  if kvSeqs s n ≤ d || kvSeqs s n ≤ q then kvReject s n 1
  else if !sdValid s n d || sdL s n d ≠ 0 || !allNone s n d (sdCap s n d) || !sdValid s n q || sdDropped s n q then kvReject s n 2
  else if sdL s n q / 64 < k.a2 || sdCap s n d < k.a2 then kvReject s n 1
  else if (List.range k.a2).any fun i => pteKind (pte s n q i) = 1 && decide (65535 ≤ kvCount s n (ptePage (pte s n q i))) then
    kvReject s n 3
  else match (List.range k.a2).foldl (forkEntry n d q) (some s) with
    | none => kvReject (kvStop s n) n 7
    | some s1 => kvDone (sdPut s1 n d 0 4 (64 * k.a2)) n

/-- The entries of a page table that hold something, ascending: those with a listed byte. -/
def tabUsed (s : State) (n q : Nat) : List Nat :=
  let a := sdTab s n q
  dedup (s.hbm.filterMap fun c => if a ≤ c.1 ∧ c.1 < a + 4 * sdCap s n q then some ((c.1 - a) / 4) else none)

/-- SEQ_RESET's effect: counts fall, entries NONE, L 0, DROPPED and RQ_SENT clear. -/
def resetSeq (s : State) (n q : Nat) : State :=
  let s1 := (tabUsed s n q).foldl (fun s i =>
    let e := pte s n q i
    let s := if pteKind e = 1 then unref s n (ptePage e) else s
    setPte s n q i 0) s
  setSdBit (setSdBit (sdPut s1 n q 0 4 0) n q 29 false) n q 28 false

/-- SEQ_RESET and SEQ_FREE. -/
def doSeqReset (s : State) (n : Nat) (k : KvCmd) (free : Bool) : State :=
  if kvSeqs s n ≤ k.a0 then kvReject s n 1
  else if !sdValid s n k.a0 then kvReject s n 2
  else
    let s1 := resetSeq s n k.a0
    kvDone (if free then setSdBit s1 n k.a0 31 false else s1) n

/-- The pending host command runs (R226 step 2). -/
def kvRun (s : State) (n : Nat) : State :=
  match (part s n).kvCmd with
  | none => s
  | some k =>
    let s1 := modPart s n fun p => { p with kvCmd := none }
    if !kvOn s1 n then kvReject s1 n 9
    else if kvCorrupt s1 n then kvReject s1 n 7
    else if k.cmd = 1 then doSeqInit s1 n k else if k.cmd = 2 then doSeqFork s1 n k
    else doSeqReset s1 n k (k.cmd = 4)

/-- The arguments as the registers hold them. -/
def kvArgRegs (s : State) (n cmd : Nat) : KvCmd :=
  { cmd := cmd, a0 := rf s (partPg n + 0x3A4) 0 20, a1 := rf s (partPg n + 0x3A8) 0 20, a2 := rf s (partPg n + 0x3AC) 0 23
    a3 := rd64 s (partPg n + 0x3B0) % 2 ^ 48 }

/-- A KV_CMD write while BUSY is 1 is ignored (R251). -/
def kvBusy (s : State) (n : Nat) : Bool := rb s (partPg n + 0x3B8) 1
/-- (DEDUCED: log entry 43.) -/
def kvIgnored (s : State) (n : Nat) : State := setEvt s (partPg n) 1 (5 * 2 ^ 20 + 0x3A0)

/-- Commands 1-4 wait for the flip. -/
def kvQueue (n cmd : Nat) (s : State) : State :=
  if kvBusy s n then kvIgnored s n
  else if !kvOn s n then kvReject s n 9
  else modPart (wf s (partPg n + 0x3B8) 1 1 1) n fun p => { p with kvCmd := some (kvArgRegs s n cmd) }

def execSeqInit (r : Requester) (n : Fin 16) (s : State) : Out := .next (hostWr s r (partPg n + 0x3A0) (kvQueue n 1))
def execSeqFork (r : Requester) (n : Fin 16) (s : State) : Out := .next (hostWr s r (partPg n + 0x3A0) (kvQueue n 2))
def execSeqReset (r : Requester) (n : Fin 16) (s : State) : Out := .next (hostWr s r (partPg n + 0x3A0) (kvQueue n 3))
def execSeqFree (r : Requester) (n : Fin 16) (s : State) : Out := .next (hostWr s r (partPg n + 0x3A0) (kvQueue n 4))

/-- POOL_INIT runs at once (R216, R251). (DEDUCED: log entry 43.) -/
def poolInitEff (n : Nat) (s : State) : State :=
  if kvBusy s n then kvIgnored s n
  else if !kvOn s n then kvReject s n 9
  else if (part s n).st ≠ .configuring && (part s n).st ≠ .ready then kvReject s n 2
  else if !kvRegion s n (kvBase s n) (kvEnd s n - kvBase s n) || !kvRegion s n (kvSeqBase s n) (64 * kvSeqs s n) then kvReject s n 1
  else
    let s1 := hbmClear (hbmClear s (kvBase s n) (2 * kvNp s n)) (kvSeqBase s n) (64 * kvSeqs s n)
    let order := sortBy (fun p => Config.stackKey s1.free p) (List.range (kvNp s n))
    let s2 := (hbmWrite { s1 with free := s1.free + 1 } (kvStack s n) (order.flatMap fun p => natLe 4 p)).1
    kvDone (wf s2 (partPg n + 0x3B8) 3 1 0) n

def execPoolInit (r : Requester) (n : Fin 16) (s : State) : Out := .next (hostWr s r (partPg n + 0x3A0) (poolInitEff n))

/-- A reserved command code. -/
def kvReserved (n : Nat) (s : State) : State := if kvBusy s n then kvIgnored s n else kvReject s n 9

/-- A read of KV_RECOMP pops the head of the recompute queue (R227). (DEDUCED: log entry 10.) -/
def kvRecompEff (n : Nat) (s : State) : State :=
  match (part s n).kvRq with
  | [] => { s with rdata := some 0 }
  | q :: r => { (modPart s n fun p => { p with kvRq := r }) with rdata := some (2 ^ 31 + q) }

def execKvRecomp (r : Requester) (n : Fin 16) (s : State) : Out :=
  .next (if rOk s r (partPg n + 0x3C0) then kvRecompEff n s else { s with rdata := some 0 })

/-! ## Edge work (R226) -/

/-- Step 1: reservations whose lane was flipped; then every reservation is cleared. -/
def kvCommit (s : State) (n : Nat) (flipped : List Nat) : State :=
  let s1 := (part s n).kvRes.foldl (fun s r =>
    let s := if flipped.contains r.2 then sdPut s n r.1 0 4 (sdL s n r.1 + sdGet s n r.1 0x20 4) else s
    sdPut (sdPut s n r.1 0x20 4 0) n r.1 0x24 2 0) s
  modPart s1 n fun p => { p with kvRes := [] }

/-- The next victim: oldest last use, then lowest number. -/
def kvVictim (s : State) (n : Nat) : Option Nat :=
  ((List.range (kvSeqs s n)).filter fun q => sdValid s n q && sdDroppable s n q && !sdDropped s n q).foldl
    (fun m q => match m with
      | none => some q
      | some v => if sdUse s n q < sdUse s n v then some q else some v) none

/-- Drop a sequence. -/
def dropSeq (s : State) (n q : Nat) : State :=
  let s1 := (tabUsed s n q).foldl (fun s i =>
    let e := pte s n q i
    if pteKind e = 1 then setPte (unref s n (ptePage e)) n q i (2 ^ 31) else s) s
  bump (setSdBit (setSdBit s1 n q 29 true) n q 28 false) (partPg n) 0x3C4

/-- Step 3: drop while free pages are below LOW and fewer than MAXSEQ have gone at this edge. -/
def kvDrop : Nat → State → Nat → State
  | 0, s, _ => s
  | k + 1, s, n =>
    if kvFree s n < rf s (partPg n + 0x398) 0 22 then
      match kvVictim s n with
      | none => wf s (partPg n + 0x3B8) 4 1 1
      | some q => kvDrop k (dropSeq s n q) n
    else s

/-- The KV engine's work at a flip; a stopped engine does nothing but refuse its host command (R217). (DEDUCED: log entry 43.) -/
def kvEdge (s : State) (n : Nat) (flipped : List Nat) : State :=
  if !kvOn s n then kvRun s n
  else if kvCorrupt s n then kvRun (modPart s n fun p => { p with kvRes := [] }) n
  else kvLow (kvDrop (rf s (partPg n + 0x398) 24 8) (kvRun (kvCommit s n flipped) n) n) n

end Sys2Proof.Machine
end

