-- ==== Sys2Proof/Machine/LoadCheck.lean ====
section
/-!
DEFINITION. What the loader checks in the bundles of a slice (03_tick_programs R73-R79, R87, R88, R99 checks 7-12): reserved fields and
opcodes, the handles a bundle names, loops, arms, and the bookings of the units (R76; 04 R104-R112; 06 R159, R171; 08 R244; 09 R262).
-/
namespace Sys2Proof.Machine

/-! ## Check 7: reserved fields and opcodes -/

/-- Bits `lo` to `lo + len - 1` of a word. -/
def bitsMask (lo len : Nat) : Nat := (2 ^ len - 1) * 2 ^ lo

/-- A word has no bit outside a mask. -/
def only (w mask : Nat) : Bool := Nat.land w mask = w

/-- An operand reference field at `lo`: its bit 0 is reserved. -/
def refMask (lo : Nat) : Nat := bitsMask (lo + 1) 23

/-- The bits an ME op uses (R131, R179, R183, R229); none for a reserved opcode. -/
def meUse (w : Nat) : Option Nat :=
  let op := bitsMask 88 8
  if fld w 88 8 = 1 then some (op + bitsMask 84 4)
  else if fld w 88 8 = 2 then some (op + refMask 64 + bitsMask 60 4)
  else if fld w 88 8 = 3 then some (op + refMask 64)
  else if fld w 88 8 = 4 then some (op + refMask 64 + refMask 40 + bitsMask 32 8 + bitsMask 8 24)
  else if fld w 88 8 = 5 then
    some (op + refMask 64 + refMask 40 + bitsMask 36 4 + (if bitAt w 35 then bitsMask 12 24 else 0))
  else if fld w 88 8 = 16 then some (op + refMask 64 + refMask 40 + refMask 16 + bitsMask 8 8)
  else none

/-- The VE fields: VD, VA, VB, VC, MK, MZ, IMM. -/
def vVD : Nat := bitsMask 83 5
def vVA : Nat := bitsMask 78 5
def vVB : Nat := bitsMask 73 5
def vVC : Nat := bitsMask 68 5
def vMK : Nat := bitsMask 65 3
def vMZ : Nat := bitsMask 64 1
def vIM : Nat := bitsMask 60 1

/-- The TY values of a VE op and the bits it uses beside OP and TY (R160, R161, R477); none for a reserved opcode. -/
def veRow (op : Nat) : Option (List Nat × Nat) :=
  let m := vMK + vMZ
  let a1 := vVD + vVA + m
  let a2 := a1 + vVB + vIM
  if op = 0x01 then some ([0], bitsMask 54 6)
  else if op = 0x02 then some ([0, 1, 2], vVD + m + refMask 36 + bitsMask 35 1)
  else if op = 0x03 then some ([0, 1, 2], vVA + m + refMask 36 + bitsMask 34 2)
  else if op = 0x04 then some ([0, 1, 2], vVD + vVB + m + vIM)
  else if op = 0x05 then some ([0, 1, 2], a1 + bitsMask 54 6)
  else if op = 0x06 then some ([0, 1, 2], vVD + vVA + vVB + vMK + vIM)
  else if op = 0x07 then some ([0, 1, 2], vVA + vVB + m + vIM + bitsMask 54 6)
  else if op = 0x08 ∨ op = 0x09 ∨ op = 0x0A ∨ op = 0x0C ∨ op = 0x0D then some ([0, 1, 2], a2)
  else if op = 0x0B then some ([0, 1], a2 + vVC)
  else if op = 0x0E ∨ op = 0x0F then some ([0, 1, 2], a1)
  else if 0x10 ≤ op ∧ op ≤ 0x15 then some ([1, 2], a2)
  else if op = 0x18 ∨ op = 0x19 then some ([0], a1)
  else if op = 0x1A then some ([0], a1 + bitsMask 57 3)
  else if op = 0x20 then some ([0, 1, 2], vVD + vVA + vMK + bitsMask 52 8)
  else if op = 0x21 then some ([0, 1, 2], a1 + bitsMask 52 8)
  else if op = 0x22 then some ([0, 1, 2], a1 + vVB + bitsMask 51 9)
  else if op = 0x28 then some ([0], a1 + bitsMask 58 2)
  else if op = 0x29 then some ([0], a1 + vVB + bitsMask 48 12)
  else if op = 0x30 then some ([0, 1], vVA + bitsMask 43 17)
  else if op = 0x31 then some ([1], vVD + m + bitsMask 59 1)
  else none

/-- A VE slot is legal. -/
def veLegal (w : Nat) : Bool :=
  match veRow (fld w 88 8) with
  | none => false
  | some (tys, use) => tys.contains (fld w 61 3) && only w (bitsMask 88 8 + bitsMask 61 3 + use)

/-- The bits a GP op uses (R171). -/
def gpUse (w : Nat) : Option Nat := if fld w 56 8 = 1 then some (bitsMask 56 8 + refMask 32 + refMask 8) else none

/-- The bits a local memory op uses (R262). -/
def lmUse (w : Nat) : Option Nat :=
  let op := bitsMask 56 8
  if fld w 56 8 = 1 then some (op + refMask 32 + bitsMask 20 12)
  else if fld w 56 8 = 2 then some (op + refMask 32 + refMask 8 + bitsMask 0 8)
  else if fld w 56 8 = 3 then some (op + refMask 32 + bitsMask 21 11)
  else if fld w 56 8 = 4 then some (op + refMask 32 + bitsMask 28 4)
  else none

/-- The bits a NoC or link op uses (R270, R398, R400). -/
def ncUse (w : Nat) : Option Nat :=
  let op := bitsMask 56 8
  if fld w 56 8 = 1 then some (op + refMask 32 + refMask 8 + bitsMask 1 7)
  else if fld w 56 8 = 0x40 then some (op + refMask 32 + bitsMask 24 8)
  else if fld w 56 8 = 0x48 then some (op + refMask 32 + refMask 8 + bitsMask 5 3)
  else none

/-- A slot is NOP and all zero with its mask, or its op is defined and sets no reserved bit. -/
def slotLegal (op w mask : Nat) (use : Option Nat) : Bool :=
  if op = 0 then w = 0 && mask = 0 else match use with | some m => only w m | none => false

/-- The reserved bits of the immediate for its consumer (R87, R398, R400). -/
def immLegal (b : Bundle) : Bool :=
  (!bBp b || fld (bImm b) 0 12 = 0) &&
    (if bOp b .nc = 0x40 then fld (bImm b) 24 24 = 0 && fld (bImm b) 0 1 = 0
     else if bOp b .nc = 0x48 then fld (bImm b) 11 37 = 0 else true)

/-- Check 7 of one bundle. -/
def bundleLegal (b : Bundle) : Bool :=
  fld b.toNat 0 16 = 0 && fld (bHdr b) 0 9 = 0 && immLegal b &&
    slotLegal (bOp b .me) (bSlot b .me) (bMeMask b) (meUse (bSlot b .me)) &&
    (if bOp b .ve = 0 then bSlot b .ve = 0 && bVeMask b = 0 else veLegal (bSlot b .ve)) &&
    slotLegal (bOp b .gp) (bSlot b .gp) (bGpMask b) (gpUse (bSlot b .gp)) &&
    slotLegal (bOp b .lm) (bSlot b .lm) 0 (lmUse (bSlot b .lm)) &&
    slotLegal (bOp b .nc) (bSlot b .nc) 0 (ncUse (bSlot b .nc))

/-! ## Check 8: the handles a bundle names -/

def meRefs (w : Nat) : List Nat :=
  let op := fld w 88 8
  if op = 2 ∨ op = 3 then [fld w 64 24]
  else if op = 4 then
    [fld w 64 24] ++ (if bitAt w 34 || fld w 40 24 = 0 then [] else [fld w 40 24]) ++
      (if fld w 28 4 = 0 then [] else [fld w 15 10 * 2 ^ 14])
  else if op = 5 then
    (if bitAt w 36 then [] else [fld w 64 24]) ++ [fld w 40 24] ++ (if bitAt w 35 then [fld w 23 10 * 2 ^ 14] else [])
  else if op = 16 then [fld w 64 24, fld w 40 24, fld w 16 24]
  else []

def lmRefs (w : Nat) : List Nat :=
  let op := fld w 56 8
  if op = 2 then [fld w 32 24, fld w 8 24] else if op = 0 then [] else [fld w 32 24]

def ncRefs (w : Nat) : List Nat :=
  let op := fld w 56 8
  if op = 1 ∨ op = 0x48 then [fld w 32 24, fld w 8 24] else if op = 0x40 then [fld w 32 24] else []

/-- The handles a bundle names. -/
def bundleHandles (b : Bundle) : List Nat :=
  (meRefs (bSlot b .me) ++ (if bOp b .ve = 2 ∨ bOp b .ve = 3 then [fld (bSlot b .ve) 36 24] else []) ++
    (if bOp b .gp = 1 then [fld (bSlot b .gp) 32 24, fld (bSlot b .gp) 8 24] else []) ++
    lmRefs (bSlot b .lm) ++ ncRefs (bSlot b .nc)).map fun r => refHandle r

/-! ## Checks 10 and 11: loops and arms -/

/-- The consumers of the immediate (R75). -/
def immUsers (b : Bundle) : Nat :=
  b2n (bLoopS b || bBp b) + b2n (bOp b .ve ≠ 0 && bitAt (bSlot b .ve) 60) + b2n (bOp b .lm = 1 && bitAt (bSlot b .lm) 20) +
    b2n (bOp b .nc = 0x40 || bOp b .nc = 0x48)

/-- Check 10: the first bundle that breaks the loop rules, with `open_` the levels of the open loops. -/
def loopBad : List Bundle → Nat → List Nat → Option Nat
  | [], i, st => if st = [] then none else some (i - 1)
  | b :: bs, i, st =>
    if bBp b && (bLoopS b || bLoopE b) then some i
    else if bLoopS b && (fld (bImm b) 24 24 ≠ 0 || bLsel b ≠ st.length || decide (4 ≤ st.length)) then some i
    else
      let st1 := if bLoopS b then bLsel b :: st else st
      if bLoopE b then
        match st1 with
        | l :: rest => if l = bLsel b then loopBad bs (i + 1) rest else some i
        | [] => some i
      else loopBad bs (i + 1) st1

/-- The slice as a function of the bundle index. -/
def bAt (sl : List Bundle) (i : Nat) : Bundle := nth 0 sl i

/-- The last bundle of the loop whose body goes on at bundle `i` with `d` loops open inside it. -/
def loopEndFrom (sl : List Bundle) : Nat → Nat → Nat → Nat
  | 0, i, _ => i
  | k + 1, i, d =>
    let b := bAt sl i
    let d1 := if bLoopS b then d + 1 else d
    if bLoopE b then (if d1 ≤ 1 then i else loopEndFrom sl k (i + 1) (d1 - 1)) else loopEndFrom sl k (i + 1) d1

/-- The last bundle of the loop that bundle `i` opens. -/
def loopEnd (sl : List Bundle) (i : Nat) : Nat := loopEndFrom sl sl.length i 0

def armA (b : Bundle) : Nat := fld (bImm b) 24 12
def armB (b : Bundle) : Nat := fld (bImm b) 12 12

/-- Cycles of bundles [lo, hi) with whole loops and arms (R78, R88); `opened` when the loop that `lo` opens is the one being run. -/
def cycles (sl : List Bundle) : Nat → Nat → Nat → Bool → Nat
  | 0, _, _, _ => 0
  | k + 1, lo, hi, opened =>
    if hi ≤ lo then 0
    else
      let b := bAt sl lo
      if bLoopS b && !opened then
        (fld (bImm b) 0 24 + 1) * cycles sl k lo (loopEnd sl lo + 1) true + cycles sl k (loopEnd sl lo + 1) hi false
      else if bBp b then
        1 + cycles sl k (lo + 1) (lo + 1 + armA b) false + cycles sl k (lo + 1 + armA b + armB b) hi false
      else 1 + cycles sl k (lo + 1) hi false

/-- Steps enough for a walk over a slice. -/
def walkFuel (sl : List Bundle) : Nat := 2 * sl.length + 2

/-- Check 11 over bundles [lo, hi): arms inside, whole loops, equal cycles; `inLoop` when the range is a loop's body. -/
def armsBad (sl : List Bundle) : Nat → Nat → Nat → Bool → Bool → Option Nat
  | 0, lo, _, _, _ => some lo
  | k + 1, lo, hi, inLoop, opened =>
    if hi ≤ lo then none
    else
      let b := bAt sl lo
      if bLoopS b && !opened then
        let e := loopEnd sl lo
        if hi ≤ e then some lo
        else match armsBad sl k lo (e + 1) true true with
          | some i => some i
          | none => armsBad sl k (e + 1) hi inLoop false
      else if bLoopE b then (if inLoop && lo + 1 = hi then none else some lo)
      else if bBp b then
        let m := lo + 1 + armA b
        let e := m + armB b
        if armA b = 0 || armB b = 0 || decide (hi < e) then some lo
        else match armsBad sl k (lo + 1) m false false, armsBad sl k m e false false with
          | some i, _ => some i
          | none, some i => some i
          | none, none =>
            if cycles sl (walkFuel sl) (lo + 1) m false ≠ cycles sl (walkFuel sl) m e false then some lo
            else armsBad sl k e hi inLoop false
      else armsBad sl k (lo + 1) hi inLoop false

/-! ## Check 9: bookings -/

/-- A unit: 0 load port, 1 array, 2 and 3 the banks, 4 drain, 5 VE, 6 GP, 7 local memory, 100 + k shadow weight row k, 200 + k shadow
codebook row k; the cores; and the cycles [from, to) from issue. -/
structure Book where
  unit : Nat
  mask : Nat
  lo   : Nat
  hi   : Nat
  deriving DecidableEq, Repr

/-- An ME as far as bookings need it: its mode, and for each bank the item counts with the cycle each takes force, newest first. -/
structure MeAbs where
  mode : Nat := 0
  h0   : List (Nat × Nat) := []
  h1   : List (Nat × Nat) := []
  deriving DecidableEq, Repr

/-- The item count in force at a cycle. -/
def headAt (h : List (Nat × Nat)) (t : Nat) : Nat := match h.find? fun p => decide (p.1 ≤ t) with | some p => p.2 | none => 0

/-- Older counts that a newer one in force hides are dropped. -/
def headTrim : List (Nat × Nat) → Nat → List (Nat × Nat)
  | [], _ => []
  | p :: l, t => if p.1 ≤ t then [p] else p :: headTrim l t

/-- Shift the times of an ME by `d`. -/
def meShift (d : Nat) (m : MeAbs) : MeAbs :=
  { m with h0 := m.h0.map fun p => (p.1 + d, p.2), h1 := m.h1.map fun p => (p.1 + d, p.2) }

/-- Every resource of an ME. -/
def meAll (mask hi : Nat) : List Book :=
  (List.range 5).map (fun u => ⟨u, mask, 0, hi⟩) ++ (List.range 32).flatMap fun k => [⟨100 + k, mask, 0, hi⟩, ⟨200 + k, mask, 0, hi⟩]

def isTaMode (m : Nat) : Bool := 1 ≤ m && m ≤ 3

/-- The shortest occupancy that the fields of an ME.ATTN allow (R244): what its descriptor says is known only when it issues. (DESIGN CHOICE: log entry 38.) -/
def attnMin (w : Nat) : Nat :=
  let tEnd := if bitAt w 9 then 64 else 32
  if bitAt w 8 then 64 + tEnd else 16 + 600 + tEnd

/-- The bookings of an ME op on one core in a mode (R108, R110-R112). -/
def meBooks (w mask : Nat) (a : MeAbs) (t : Nat) : List Book :=
  let op := fld w 88 8
  let st := if a.mode = 4 then 4 else 1
  if op = 1 then meAll mask 4
  else if op = 2 then ⟨0, mask, 0, 1⟩ :: (List.range 32).map fun k => ⟨200 + k, mask, 2 + k, 3 + k⟩
  else if op = 3 then
    let ns := if a.mode ≤ 1 then 4 else if a.mode = 2 then 3 else if a.mode = 3 then 2 else 8
    ⟨0, mask, 0, ns⟩ :: (List.range 32).map fun k => ⟨100 + k, mask, 6 + k, 7 + k⟩
  else if op = 4 then
    let n := fld w 35 5 + 1
    let at_ := if a.mode = 0 then 36 else if a.mode = 4 then 137 else 38
    [⟨1, mask, 0, st * n⟩, ⟨2 + fld w 32 1, mask, at_, at_ + st * n⟩] ++
      (if bitAt w 33 then (List.range 32).flatMap fun k =>
        ⟨100 + k, mask, 1 + st * k, 2 + st * k⟩ :: (if isTaMode a.mode then [⟨200 + k, mask, 1 + k, 2 + k⟩] else [])
       else [])
  else if op = 5 then
    let nb := headAt (if bitAt w 39 then a.h1 else a.h0) t
    let d := if isTaMode a.mode then nb else cdiv nb 2
    [⟨4, mask, 0, 2 + d⟩, ⟨2 + fld w 39 1, mask, 0, 2 + d⟩]
  else if op = 16 then meAll mask (attnMin w) ++ [⟨5, mask, 0, attnMin w⟩, ⟨6, mask, 0, attnMin w⟩]
  else []

/-- The GP's booking for a chain of a DRAIN on one core (R177): G groups of 64 results at the pipeline's fullest rate, k = 1; the rate and the
format stand in a parameter block that is known only when the op issues, which then holds to them (gpBusy). (DESIGN CHOICE: log entry 38.) -/
def gpBooks (wme mask : Nat) (a : MeAbs) (t : Nat) : List Book :=
  let nb := headAt (if bitAt wme 39 then a.h1 else a.h0) t
  let g := cdiv (nb * (if isTaMode a.mode then 64 else 32)) 64
  [⟨6, mask, 0, 22 + (g - 1)⟩]

/-- An ME after an op that issues at `t`. -/
def meNext (w t : Nat) (a : MeAbs) : MeAbs :=
  let op := fld w 88 8
  if op = 1 then { mode := fld w 85 3 }
  else if op = 16 then {}
  else if op = 4 ∧ !bitAt w 34 then
    let at_ := t + if a.mode = 0 then 36 else if a.mode = 4 then 137 else 38
    if bitAt w 32 then { a with h1 := (at_, fld w 35 5 + 1) :: headTrim a.h1 t } else { a with h0 := (at_, fld w 35 5 + 1) :: headTrim a.h0 t }
  else a

/-- The booking of a VE op (R159). -/
def veBooks (w mask : Nat) : List Book :=
  let op := fld w 88 8
  let occ := if op = 0x21 then fld w 52 5 + 1 else if op = 0x22 then fld w 51 5 + 1 else 1
  [⟨5, mask, 0, occ⟩]

/-- The cores of slice `i`'s own cluster that a handle names (R262). -/
def lmMask (hs : List DWord) (i ref : Nat) : Nat :=
  let e := nth 0 hs (refHandle ref)
  if heCluster e ≠ i then 0 else if heCoreScope e then 2 ^ heCore e else 0xFFFF

/-- The booking of a local memory op (R262, R263). -/
def lmBooks (hs : List DWord) (i w : Nat) : List Book :=
  let op := fld w 56 8
  let n := fld w 22 10 + 1
  let occ := if op = 1 then n + 1 else if op = 2 then 2 * (fld w 1 7 + 1) + 2 else if op = 3 then cdiv n 16 + 1 else 3
  let mask := (lmRefs w).foldl (fun m r => Nat.lor m (lmMask hs i r)) 0
  if mask = 0 then [] else [⟨7, mask, 0, occ⟩]

/-- A path, as far as it matters: the branch points met (cycle and bundle) and the arm taken at each. -/
abbrev Arms := List (Nat × Nat × Bool)

/-- One op of one issue of a bundle: cycle, bundle, unit slot, the paths on which it has these bookings, and its bookings. -/
structure OpAt where
  t     : Nat
  idx   : Nat
  slot  : Nat
  paths : List Arms
  books : List Book
  deriving DecidableEq, Repr

/-- One way the 16 MEs can stand, and the paths that lead to it. -/
structure MeWay where
  mes   : List MeAbs := List.replicate 16 {}
  paths : List Arms := [[]]
  deriving DecidableEq, Repr

/-- The ops of bundle `idx` issued at `t`, for one way the MEs stand. -/
def bundleOps (hs : List DWord) (i : Nat) (b : Bundle) (idx t : Nat) (arms : Arms) (way : MeWay) : List OpAt :=
  let me := (List.range 16).filter fun k => bitAt (bMeMask b) k
  let books (f : Nat → MeAbs → List Book) : List Book := me.flatMap fun k => f (2 ^ k) (nth {} way.mes k)
  let paths := way.paths.map fun p => arms ++ p
  (if bOp b .me = 0 then [] else [⟨t, idx, 0, paths, books fun m a => meBooks (bSlot b .me) m a t⟩]) ++
  (if bOp b .ve = 0 then [] else [⟨t, idx, 1, [arms], veBooks (bSlot b .ve) (bVeMask b)⟩]) ++
  (if bOp b .gp = 0 then [] else [⟨t, idx, 2, paths, ((List.range 16).filter fun k => bitAt (bGpMask b) k).flatMap fun k =>
      gpBooks (bSlot b .me) (2 ^ k) (nth {} way.mes k) t⟩]) ++
  (if bOp b .lm = 0 then [] else [⟨t, idx, 3, [arms], lmBooks hs i (bSlot b .lm)⟩])

/-- The ways the MEs stand after a bundle. -/
def waysNext (b : Bundle) (t : Nat) (ways : List MeWay) : List MeWay :=
  let step (p : MeAbs × Nat) : MeAbs := if bOp b .me ≠ 0 && bitAt (bMeMask b) p.2 then meNext (bSlot b .me) t p.1 else p.1
  ways.map fun way => { way with mes := way.mes.zipIdx.map step }

/-- The ways after the two arms of the branch point `q`: a way that both arms leave on the same path before them is one way, whatever the
arm. -/
def waysJoin (q : Nat × Nat) (a b : List MeWay) : List MeWay :=
  let put (arm : Bool) (l : List Arms) : List Arms := l.map fun p => (q.1, q.2, arm) :: p
  let both := a.map fun w =>
    match b.find? fun v => v.mes = w.mes with
    | some v =>
      let same := w.paths.filter v.paths.contains
      { w with paths := same ++ put false (w.paths.filter fun p => !same.contains p) ++ put true (v.paths.filter fun p => !same.contains p) }
    | none => { w with paths := put false w.paths }
  both ++ (b.filter fun v => !(a.any fun w => w.mes = v.mes)).map fun v => { v with paths := put true v.paths }

/-- What a walk has found: the ops, the branch points with the arms they lie in, and the ways the MEs can stand. -/
structure Walk where
  ops  : List OpAt := []
  bps  : List (Nat × Nat × Arms) := []
  ways : List MeWay := [{}]
  deriving DecidableEq, Repr

/-- Longest booking but for ME.ATTN's, in cycles: iterations of a loop farther apart than this share no booked cycle. (DEDUCED: log entry 38.) -/
def horizon : Nat := 1100

/-- `k` iterations one after the other from cycle `t`. -/
def iterate (f : Nat → Walk → Walk) (body : Nat) : Nat → Nat → Walk → Walk
  | 0, _, w => w
  | k + 1, t, w => iterate f body k (t + body) (f t w)

/-- Walk bundles [lo, hi) from cycle `t`. Loops long beyond the horizon are walked in their first and last iterations: what lies
between repeats them. -/
def walk (hs : List DWord) (i : Nat) (sl : List Bundle) : Nat → Nat → Nat → Bool → Arms → Nat → Walk → Walk
  | 0, _, _, _, _, _, w => w
  | k + 1, lo, hi, opened, arms, t, w =>
    if hi ≤ lo then w
    else
      let b := bAt sl lo
      if bLoopS b && !opened then
        let e := loopEnd sl lo
        let body := cycles sl (walkFuel sl) lo (e + 1) true
        let cnt := fld (bImm b) 0 24 + 1
        let u := cdiv horizon (max body 1) + 3
        let f (t : Nat) (w : Walk) : Walk := walk hs i sl k lo (e + 1) true arms t w
        let w1 := iterate f body (min cnt u) t w
        let w2 :=
          if cnt ≤ u then w1
          else
            let rest := min (cnt - u) u
            let skip := cnt - u - rest
            iterate f body rest (t + (u + skip) * body) { w1 with ways := w1.ways.map fun x => { x with mes := x.mes.map (meShift (skip * body)) } }
        walk hs i sl k (e + 1) hi false arms (t + cnt * body) w2
      else
        let w1 : Walk := { w with ops := w.ops ++ w.ways.flatMap (bundleOps hs i b lo t arms), ways := waysNext b t w.ways }
        if bBp b then
          let m := lo + 1 + armA b
          let e := m + armB b
          let w2 : Walk := { w1 with bps := w1.bps ++ [(t, lo, arms)] }
          let wa := walk hs i sl k (lo + 1) m false ((t, lo, false) :: arms) (t + 1) w2
          let wb := walk hs i sl k m e false ((t, lo, true) :: arms) (t + 1) { wa with ways := w2.ways }
          walk hs i sl k e hi false arms (t + 1 + cycles sl (walkFuel sl) (lo + 1) m false)
            { wb with ways := waysJoin (t, lo) wa.ways wb.ways }
        else walk hs i sl k (lo + 1) hi false arms (t + 1) w1

/-- Two places lie on one path: no branch point sends them to different arms. -/
def onePath (a b : Arms) : Bool := a.all fun p => b.all fun q => !(p.1 = q.1 && p.2.1 = q.2.1) || p.2.2 = q.2.2

/-- Two bookings take one unit of one core in one cycle. -/
def bookClash (ta tb : Nat) (a b : Book) : Bool :=
  a.unit = b.unit && Nat.land a.mask b.mask ≠ 0 && decide (ta + a.lo < tb + b.hi) && decide (tb + b.lo < ta + a.hi)

/-- Two ops book a unit twice (R76). -/
def opClash (a b : OpAt) : Bool :=
  !(a.t = b.t && a.idx = b.idx && a.slot = b.slot) && (a.paths.any fun p => b.paths.any (onePath p)) &&
    a.books.any fun x => b.books.any fun y => bookClash a.t b.t x y

/-- The least number of a list. -/
def leastOf (l : List Nat) : Option Nat := l.foldl (fun m x => match m with | none => some x | some y => some (min x y)) none

/-- Check 9 of a slice: the first bundle that books a unit booked already, or whose immediate has two consumers. -/
def bookBad (sl : List Bundle) (w : Walk) : Option Nat :=
  leastOf ((sl.zipIdx.filterMap fun p => if 1 < immUsers p.1 then some p.2 else none) ++
    w.ops.zipIdx.filterMap fun p => if (w.ops.take p.2).any fun q => opClash q p.1 then some p.1.idx else none)

/-- Check 12 of a slice: the first branch point nearer than 16 cycles to bundle 0 or to one before it on a path. -/
def spaceBad (w : Walk) : Option Nat :=
  leastOf (w.bps.zipIdx.filterMap fun p =>
    if decide (p.1.1 < 16) || (w.bps.take p.2).any fun q => onePath q.2.2 p.1.2.2 && decide (p.1.1 < q.1 + 16) then some p.1.2.1
    else none)

end Sys2Proof.Machine
end

