-- ==== Sys2Proof/Machine/Loader.lean ====
section
/-!
DEFINITION. Loading and unloading programs (03_tick_programs R85, R86, R97-R100, R476; 07 R196; 09 R268, R269).
-/
namespace Sys2Proof.Machine

/-- A load check that failed: its code, slice and bundle (R98, R99). -/
structure LoadErr where
  code  : Nat
  slice : Nat := 0xFF
  idx   : Nat := 0xFFFFFFFF
  deriving DecidableEq, Repr

/-- The first of a list of checks that fails. -/
def firstErr (l : List (Option LoadErr)) : Option LoadErr := l.findSome? id

/-- An error when a condition holds. -/
def errIf (b : Bool) (code : Nat) : Option LoadErr := if b then some { code := code } else none

/-! ## Check 1 -/

/-- A valid entry of the active table, or of the shadow table while TBL_PEND is 1, names the job. -/
def tableNames (s : State) (n j : Nat) : Bool :=
  (List.range 64).any fun e =>
    let a := tblEntry s n e
    let b := rd64 s (tblPg n + 0x300 + 8 * e)
    (teValid a && teJob a = j) || ((part s n).tblPend && teValid b && teJob b = j)

/-- CONFIGURING, READY, RUNNING or MAINTENANCE. -/
def loadSt : PState → Bool
  | .configuring => true | .ready => true | .running => true | .maintenance => true
  | .off => false | .faulted => false | .zeroising => false

def check1 (s : State) (n j : Nat) (unload : Bool) : Bool :=
  loadSt (part s n).st && (job s n j).loaded = unload && !tableNames s n j

/-! ## The envelope (R97): checks 2 and 3 -/

def check2 (s : State) (n a l : Nat) : Bool :=
  a % 64 = 0 && l % 64 = 0 && decide (256 ≤ l) && inWindow s (partParty s n) a l

/-- The plaintext of an envelope that passes check 3. An uncorrectable word reads zero (09_memory R280), and the check is made on that. -/
def openEnv (s : State) (n j a l : Nat) : Option (List Byte) :=
  let e := hbmRead s a l
  if bf e 0 4 = 0x54394A50 && bf e 4 2 = 1 && bf e 7 1 = 0 && bf e 0x1C 4 = 0 && bf e 8 8 = l && bf e 6 1 = j then
    openAny s (partParty s n) labelImg ((e.drop 0x10).take 12) (e.take 0x20) ((e.drop 0x20).take (l - 48)) (e.drop (l - 16))
  else none

/-! ## The plaintext image (R97, R476): checks 4 to 6 -/

def imC (p : List Byte) : Nat := bf p 8 2
def imF (p : List Byte) : Nat := bf p 0xA 1
def imN (p : List Byte) : Nat := bf p 0xC 4
def imH (p : List Byte) : Nat := bf p 0x1C 2

/-- Offset and length of section k: offset table, base tables, handle table images, control-core image, vectors, slices, and the
lane-group table. -/
def imOff (p : List Byte) (k : Nat) : Nat := bf p (0x50 + 8 * k) 4
def imLen (p : List Byte) (k : Nat) : Nat := bf p (0x54 + 8 * k) 4
def imSec (p : List Byte) (k : Nat) : List Byte := (p.drop (imOff p k)).take (imLen p k)

/-- A section has its length under R476. (DEDUCED: log entry 38.) -/
def secLenOk (p : List Byte) (k : Nat) : Bool :=
  let c := imC p
  let l := imLen p k
  if k = 0 then l = 2 * c else if k = 1 then l = 256 * c else if k = 2 then decide (8 * imH p * c ≤ l)
  else if k = 3 then decide (4 ≤ l) && decide (l ≤ 65536) && l % 4 = 0
  else if k = 4 then l = 12 else if k = 5 then l = 64 * imN p * c else l = c

/-- Two sections share a byte. -/
def secOverlap (p : List Byte) (i k : Nat) : Bool :=
  decide (imOff p i < imOff p k + imLen p k) && decide (imOff p k < imOff p i + imLen p i) && imLen p i ≠ 0 && imLen p k ≠ 0

/-- (DEDUCED: log entry 38.) -/
def check4 (p : List Byte) (j : Nat) : Bool :=
  decide (0x88 ≤ p.length) && bf p 0 4 = 0x54394A48 && bf p 4 2 = 1 && bf p 6 1 = j && decide (bf p 7 1 < 16) &&
    decide (1 ≤ imF p) && decide (imF p ≤ 8) &&
    (decide (imN p ≤ 256 * imF p) || decide (2 ≤ imF p)) &&
    (List.range 7).all (fun k => secLenOk p k && (imLen p k = 0 || (decide (0x88 ≤ imOff p k) && decide (imOff p k + imLen p k ≤ p.length)))) &&
    (List.range 7).all fun i => (List.range i).all fun k => !secOverlap p i k

/-- The member that slice i's offset names (R97). -/
def sliceMember (s : State) (n : Nat) (p : List Byte) (i : Nat) : Option Nat :=
  let o := partOrigin s n
  let x := (gx o : Int) + sx 8 (bf (imSec p 0) (2 * i) 1)
  let y := (gy o : Int) + sx 8 (bf (imSec p 0) (2 * i + 1) 1)
  if 0 ≤ x ∧ x < 16 ∧ 0 ≤ y ∧ y < 16 ∧ isMember s n (clusAt x.toNat y.toNat) then some (clusAt x.toNat y.toNat) else none

/-- The members of the slices in order, as far as they are named. -/
def sliceMembers (s : State) (n : Nat) (p : List Byte) : List Nat := (List.range (imC p)).filterMap fun i => sliceMember s n p i

def check5 (s : State) (n : Nat) (p : List Byte) : Option LoadErr :=
  let ms := members s n
  let bad (i : Nat) : Bool := match sliceMember s n p i with
    | none => true
    | some c => (List.range i).any fun k => sliceMember s n p k = some c
  let g (i : Nat) : Nat := bf (imSec p 6) i 1
  firstErr [errIf (!isMember s n (partOrigin s n) || imC p ≠ ms.length) 5,
    ((List.range (imC p)).find? bad).map fun i => { code := 5, slice := i },
    errIf ((hopsFrom ms (partOrigin s n)).length ≠ ms.length) 5,
    ((List.range (imC p)).find? fun i => !([0, 1, 2, 4, 8, 16].contains (g i))).map fun i => { code := 5, slice := i },
    errIf ((List.range (imC p)).foldl (fun a i => a + g i) 0 ≠ bf p 0x1E 2) 5]

/-- The loaded jobs of a partition. -/
def loadedJobs (s : State) (n : Nat) : List Nat := (List.range 16).filter fun j => (job s n j).loaded

def check6 (s : State) (n : Nat) (p : List Byte) : Bool :=
  let js := loadedJobs s n
  decide (js.foldl (fun a j => a + (job s n j).img.frames) (imF p) ≤ 8) &&
    decide (js.foldl (fun a j => a + (job s n j).img.ccLen) (imLen p 3) ≤ 65536) && decide (imH p ≤ 1024) &&
    (List.range 3).all fun k => bf (imSec p 4) (4 * k) 4 % 4 = 0 && decide (bf (imSec p 4) (4 * k) 4 < imLen p 3)

/-! ## Slices and tables: checks 7 to 15 -/

/-- The bundles of slice i. -/
def imSlice (p : List Byte) (i : Nat) : List Bundle :=
  (List.range (imN p)).map fun b => BitVec.ofNat 512 (bf (imSec p 5) (64 * (i * imN p + b)) 64)

/-- The base registers of slice i's member: 16 cores × 8. -/
def imBases (p : List Byte) (i : Nat) : List Nat := (List.range 128).map fun k => bf (imSec p 1) (256 * i + 2 * k) 2

/-- Bytes of one member's handle table image: the section is cut into as many equal parts as there are slices, and what a division leaves
over is unused (R476 gives no other boundary). (DESIGN CHOICE: log entry 38.) -/
def himLen (p : List Byte) : Nat := imLen p 2 / imC p

/-- The H entries of slice i's image. -/
def imEntries (p : List Byte) (i : Nat) : List DWord :=
  (List.range (imH p)).map fun e => BitVec.ofNat 64 (bf (imSec p 2) (himLen p * i + 8 * e) 8)

/-- The switch lists at the end of slice i's image: whole descriptors, and none that is all zero. -/
def imLists (p : List Byte) (i : Nat) : List (BitVec 512) :=
  let k := (himLen p - 8 * imH p) / 64
  ((List.range k).map fun d => BitVec.ofNat 512 (bf (imSec p 2) (himLen p * (i + 1) - 64 * (k - d)) 64)).filter fun d => d ≠ 0

/-- Check 7 of a slice: its bundles, then the reserved bits of its base registers and handle entries. (DEDUCED: log entry 38.) -/
def check7 (p : List Byte) (i : Nat) : Option LoadErr :=
  match (imSlice p i).findIdx? fun b => !bundleLegal b with
  | some b => some { code := 7, slice := i, idx := b }
  | none =>
    if ((imBases p i).any fun v => decide (1024 ≤ v)) || (imEntries p i).any fun e => fld e.toNat 0 10 ≠ 0 then some { code := 7, slice := i }
    else none

/-- Check 8 of one valid entry of slice i's image (R267, R268). -/
def entryOk (p : List Byte) (party i : Nat) (e : DWord) : Bool :=
  !heValid e || (heParty e = party && decide (heCluster e < imC p) && (heCoreScope e || heCore e = 0)
    && decide (1 ≤ heCount e) && decide (heFirst e + heCount e ≤ 1024) && (heState e || heRow e = 1)
    && (!heState e || (!heCoreScope e && heCluster e = i)))

/-- What every cluster's image must agree on for a state handle (R196). -/
def stateShape (e : DWord) : Nat × Nat × Nat × Bool := if heValid e && heState e then (heFirst e, heCount e, heRow e, true) else (0, 0, 0, false)

/-- P_c ≥ L_c (R196). -/
def placesOk (p : List Byte) (i : Nat) : Bool :=
  (imEntries p i).all fun e => !(heValid e && heState e) || decide (32 * bf (imSec p 6) i 1 ≤ heCount e / (2 * heRow e)) ||
    bf (imSec p 6) i 1 = 0

def check8 (s : State) (n : Nat) (p : List Byte) (i : Nat) : Option LoadErr :=
  match (imSlice p i).findIdx? fun b => (bundleHandles b).any fun h => decide (imH p ≤ h) with
  | some b => some { code := 8, slice := i, idx := b }
  | none =>
    if !(imEntries p i).all (entryOk p (partParty s n) i) || !placesOk p i ||
        (imEntries p i).map stateShape ≠ (imEntries p 0).map stateShape then some { code := 8, slice := i } else none

/-- The first failing bundle of a slice under a check. -/
def sliceErr (code i : Nat) (r : Option Nat) : Option LoadErr := r.map fun b => { code := code, slice := i, idx := b }

def check10 (p : List Byte) (i : Nat) : Option LoadErr := sliceErr 10 i (loopBad (imSlice p i) 0 [])

def check11 (p : List Byte) (i : Nat) : Option LoadErr :=
  let sl := imSlice p i
  sliceErr 11 i (armsBad sl (walkFuel sl) 0 sl.length false false)

/-- The walk of a slice whose loops and arms are right. (DEDUCED: log entry 38.) -/
def walkOf (p : List Byte) (i : Nat) : Walk :=
  let sl := imSlice p i
  walk (imEntries p i) i sl (walkFuel sl) 0 sl.length false [] 0 {}

/-- Check 9 is judged only on a slice that passes checks 10 and 11 (R99). (DEDUCED: log entry 38.) -/
def check9 (p : List Byte) (i : Nat) : Option LoadErr :=
  if (check10 p i).isSome || (check11 p i).isSome then none else sliceErr 9 i (bookBad (imSlice p i) (walkOf p i))

def check12 (p : List Byte) (i : Nat) : Option LoadErr := sliceErr 12 i (spaceBad (walkOf p i))

def check13 (p : List Byte) (i : Nat) : Option LoadErr :=
  sliceErr 13 i ((List.zip (imSlice p i) (imSlice p 0)).findIdx? fun q =>
    bHdr q.1 ≠ bHdr q.2 || ((bLoopS q.1 || bBp q.1) && bImm q.1 ≠ bImm q.2))

/-- Check 14: a paged job's loop bodies span at most F − 1 pages. -/
def check14 (p : List Byte) : Option LoadErr :=
  let sl := imSlice p 0
  if imN p ≤ 256 * imF p then none
  else sliceErr 14 0 (sl.zipIdx.findIdx? fun q => bLoopS q.1 && decide (imF p - 1 < loopEnd sl q.2 / 256 - q.2 / 256 + 1))

/-- Program cycles of slice 0, which has the loops and arms of them all. -/
def imCycles (p : List Byte) : Nat :=
  let sl := imSlice p 0
  cycles sl (walkFuel sl) 0 sl.length false

/-- The greatest d(c) of R82. -/
def maxHops (s : State) (n : Nat) : Nat := (hopsFrom (members s n) (partOrigin s n)).foldl (fun m q => max m q.2) 0

def check15 (s : State) (n : Nat) (p : List Byte) : Option LoadErr :=
  let sl := imSlice p 0
  match sl.zipIdx.findIdx? fun q => bHalt q.1 ≠ decide (q.2 + 1 = sl.length) with
  | some b => some { code := 15, slice := 0, idx := b }
  | none => errIf (imN p = 0 || imCycles p ≠ bf p 0x10 4 || decide (2 ^ 26 ≤ imCycles p + 4 * maxHops s n)) 15

/-- Every slice under a check, the lowest first. -/
def allSlices (p : List Byte) (f : Nat → Option LoadErr) : Option LoadErr := (List.range (imC p)).findSome? f

/-- Checks 4 to 15 of an image, each only when those before it pass. -/
def imageErr (s : State) (n j : Nat) (p : List Byte) : Option LoadErr :=
  match errIf (!check4 p j) 4 with
  | some e => some e
  | none => match check5 s n p with
    | some e => some e
    | none => match errIf (!check6 s n p) 6 with
      | some e => some e
      | none =>
        match firstErr [errIf (bf p 0xB 1 ≠ 0) 7, allSlices p (check7 p), allSlices p (check8 s n p), allSlices p (check9 p), allSlices p (check10 p),
          allSlices p (check11 p)] with
        | some e => some e
        | none => firstErr [allSlices p (check12 p), allSlices p (check13 p), check14 p, check15 s n p]

/-! ## Installing a job (R85, R86, R97, R100, R269) -/

/-- The lowest frames of bundle memory that no loaded job of the partition holds. -/
def freeFrames (s : State) (n k : Nat) : List Nat :=
  let used := (loadedJobs s n).flatMap fun j => (job s n j).img.frame0
  ((List.range 8).filter fun f => !used.contains f).take k

/-- Move the loaded jobs' control-core images together from address 0 (their code is position-independent, R97), each handler with its
image. (DEDUCED: log entry 38.) -/
def compactCc (s : State) (n : Nat) : State :=
  ((loadedJobs s n).foldl (fun (r : State × Nat) j =>
    let img := (job r.1 n j).img
    let s1 := each r.1 (if holds (part r.1 n).st then members r.1 n else []) fun s c =>
      let bs := memRead 0 s.ccmem (65536 * c + img.ccAt) img.ccLen
      let s := { s with ccmem := memWrite 0 s.ccmem (65536 * c + r.2) bs }
      modClu s c fun x => match x.hnd with
        | some (_, k) => if k = j then { x with hndPc := x.hndPc - img.ccAt + r.2 } else x
        | none => x
    (modJob s1 n j fun x => { x with img := { x.img with ccAt := r.2 } }, r.2 + img.ccLen)) (s, 0)).1

/-- The end of the highest control-core image. -/
def ccTop (s : State) (n : Nat) : Nat := (loadedJobs s n).foldl (fun m j => max m ((job s n j).img.ccAt + (job s n j).img.ccLen)) 0

/-- A place for a control-core image of `len` bytes: above those loaded, which are moved together first where it does not fit. -/
def ccRoom (s : State) (n len : Nat) : State × Nat :=
  if ccTop s n + len ≤ 65536 then (s, ccTop s n)
  else
    let s1 := compactCc s n
    (s1, ccTop s1 n)

/-- The addresses of `k` bundle pages of 16 KiB in the party's region 3 that no loaded paged job of the party holds. -/
def freePages (s : State) (n k : Nat) : List Nat :=
  let p := partParty s n
  let used := (partsOfParty s p).flatMap fun m => (loadedJobs s m).flatMap fun j => (job s m j).img.pages.flatten
  let base := winBase s p + regOfs s p 3
  ((List.range (k + used.length)).filterMap fun i =>
    let a := base + 16384 * i
    if used.contains a then none else some a).take k

/-- The 16 KiB of page `q` of a slice, padded with zero. -/
def pageBytes (p : List Byte) (i q : Nat) : List Byte :=
  padTo 16384 0 ((imSec p 5).drop (64 * (i * imN p + 256 * q)) |>.take (min 16384 (64 * (imN p - 256 * q))))

/-- A page as the key's owner seals it under K_img: 16 KiB of ciphertext, then its tag. The device itself seals nothing under K_img (R370); the
spec does not say how the sealed pages come into the region, and in the model the load puts them there. (DESIGN CHOICE: log entry 37.) -/
def sealPage (s : State) (n a : Nat) (bs : List Byte) : List Byte :=
  match curKey s (partParty s n) labelImg with
  | some (_, k) => padTo 16400 0 (Config.gcmSeal k (pageIv a) [] bs)
  | none => List.replicate 16400 0

/-- The pages of a paged job come into the party's region 3, in steps of 16 KiB from its base. The load succeeds in a region too small for
them: a page whose place lies outside is not written, and a fetch of it faults. (DESIGN CHOICE: log entry 37.) -/
def writePages (s : State) (n : Nat) (p : List Byte) (addrs : List (List Nat)) : State × List (List (List Byte)) :=
  addrs.zipIdx.foldl (fun (r : State × List (List (List Byte))) row =>
    let q := row.1.zipIdx.foldl (fun (r : State × List (List Byte)) a =>
      let x := sealPage r.1 n a.1 (pageBytes p row.2 a.2)
      (if inRegion r.1 (partParty r.1 n) 3 a.1 16384 then (hbmWrite r.1 a.1 (x.take 16384)).1 else r.1, r.2 ++ [x.drop 16384])) (r.1, [])
    (q.1, r.2 ++ [q.2])) (s, [])

/-- Rows of a list of `w` each. -/
def rowsBy {α : Type} (w k : Nat) (l : List α) : List (List α) := (List.range k).map fun i => (l.drop (w * i)).take w

/-- Put a resident slice's bundles into its frames (R85). -/
def putSlice (s : State) (c : Nat) (img : JobImg) (sl : List Bundle) : State :=
  sl.zipIdx.foldl (fun s q => setBundle s c (256 * nth 0 img.frame0 (q.2 / 256) + q.2 % 256) q.1) s

/-- What the last switch put in place for a job no longer stands. -/
def forgetJob (s : State) (n j : Nat) : State :=
  modPart s n fun p => { p with lastJob := if p.lastJob = some j then none else p.lastJob }

/-- A loaded job's bundles and control-core image go into the memories of its members. -/
def placeJob (s : State) (n j : Nat) : State :=
  let img := (job s n j).img
  let s1 := each s img.clusters fun s c => { s with ccmem := memWrite 0 s.ccmem (65536 * c + img.ccAt) img.cc }
  img.clusters.zipIdx.foldl (fun s q => putSlice s q.1 img (nth [] img.code q.2)) s1

/-- At COMMIT the clusters become the partition's: their program memories hold its loaded jobs and nothing else. -/
def placeAll (s : State) (n : Nat) : State :=
  let ms := members s n
  let s1 := { s with bundles := smDrop s.bundles fun k => ms.contains (k / 2048), ccmem := smDrop s.ccmem fun k => ms.contains (k / 65536) }
  each s1 (loadedJobs s n) fun s j => placeJob s n j

/-- A loaded image takes its place (DESIGN CHOICE: log entry 38: of its switch lists, descriptors to HBM are the evict list, the others the
fetch list) (while the partition is being configured, at COMMIT): descriptor registers, tables, bundles or sealed pages, control-core image. -/
def install (s : State) (n j : Nat) (p : List Byte) : State :=
  let cls := sliceMembers s n p
  let paged := decide (256 * imF p < imN p)
  let np := cdiv (imN p) 256
  let room := ccRoom s n (imLen p 3)
  let addrs := if paged then rowsBy np (imC p) (freePages s n (np * imC p)) else []
  let pg := writePages room.1 n p addrs
  let lists := (List.range (imC p)).map fun i => imLists p i
  let img : JobImg := {
    flags := bf p 7 1, frames := imF p, n := imN p, paged := paged, fetch := bf p 0x14 4 + (if paged then imF p * 16384 else 0)
    evict := bf p 0x18 4, handles := imH p, laneGroups := bf p 0x1E 2, fprint := (p.drop 0x20).take 48, clusters := cls
    g := (List.range (imC p)).map fun i => bf (imSec p 6) i 1
    bases := (List.range (imC p)).map fun i => imBases p i
    htab := (List.range (imC p)).map fun i => (imEntries p i).map fun e =>
      if heValid e then BitVec.ofNat 64 (setFld e.toNat 45 8 (nth 0 cls (heCluster e))) else e
    fetchList := lists.map fun l => l.filter fun d => dDkind d ≠ 1
    evictList := lists.map fun l => l.filter fun d => dDkind d = 1
    vectors := (List.range 3).map fun k => bf (imSec p 4) (4 * k) 4
    ccAt := room.2, ccLen := imLen p 3, cc := imSec p 3
    code := if paged then [] else (List.range (imC p)).map fun i => imSlice p i, frame0 := freeFrames s n (imF p), pages := addrs, ptags := pg.2 }
  let s2 := forgetJob (modJob pg.1 n j fun x => { x with loaded := true, img := img }) n j
  let s3 := if holds (part s n).st then placeJob s2 n j else s2
  let jd := tblPg n + 0x600 + 0x20 * j
  wrN (wrN (wrN (wrN (wrN (wrN s3 jd (imCycles p + 4 * maxHops s n)) (jd + 4) img.fetch) (jd + 8) img.evict) (jd + 0xC) img.handles)
    (jd + 0x10) img.laneGroups) (jd + 0x14) (img.flags % 8)

/-- An unloaded job leaves: descriptor registers zero, its frames and control-core memory filled with zero (R100). -/
def removeJob (s : State) (n j : Nat) : State :=
  let img := (job s n j).img
  let s1 := each s (if holds (part s n).st then members s n else []) fun s c =>
    { s with bundles := s.bundles.filter fun q => !(q.1 / 2048 = c && img.frame0.contains (q.1 % 2048 / 256)),
             ccmem := s.ccmem.filter fun q => !(decide (65536 * c + img.ccAt ≤ q.1) && decide (q.1 < 65536 * c + img.ccAt + img.ccLen)) }
  let s2 := forgetJob (modJob s1 n j fun x => { x with loaded := false, img := {} }) n j
  (List.range 6).foldl (fun s k => wrN s (tblPg n + 0x600 + 0x20 * j + 4 * k) 0) s2

/-! ## The commands (R98) -/

def loadStat (n : Nat) : Nat := partPg n + 0x290

/-- A LOAD_CMD write that is ignored. -/
def loadIgnored (s : State) (n : Nat) : State := setEvt s (partPg n) 1 (5 * 2 ^ 20 + 0x28C)

/-- A load or unload is accepted: BUSY. -/
def loadStart (unload : Bool) (n j : Nat) (s : State) : State :=
  if rb s (loadStat n) 1 then loadIgnored s n
  else
    let s1 := wrN (wrN s (loadStat n) (0xFF * 2 ^ 16 + 4 * j + 2)) (partPg n + 0x294) 0xFFFFFFFF
    modPart s1 n fun p => { p with loadOp := some {
      unload := unload, job := j, addr := rd64 s (partPg n + 0x280) % 2 ^ 48, len := rdN s (partPg n + 0x288) } }

def execLoad (r : Requester) (n : Fin 16) (j : Fin 16) (s : State) : Out :=
  .next (hostWr s r (partPg n + 0x28C) (loadStart false n j))

def execUnload (r : Requester) (n : Fin 16) (j : Fin 16) (s : State) : Out :=
  .next (hostWr s r (partPg n + 0x28C) (loadStart true n j))

/-- The command has completed: with an error the job and the partition stay as they are. -/
def loadEnd (s : State) (n j : Nat) (e : Option LoadErr) (ok : State → State) : State :=
  let s1 := modPart s n fun p => { p with loadOp := none }
  match e with
  | none => ok (wrN (wrN s1 (loadStat n) (0xFF * 2 ^ 16 + 4 * j + 1)) (partPg n + 0x294) 0xFFFFFFFF)
  | some e =>
    let s2 := wrN (wrN s1 (loadStat n) (e.code * 2 ^ 24 + e.slice * 2 ^ 16 + 4 * j)) (partPg n + 0x294) e.idx
    setEvt s2 (partPg n) 1 (e.code * 2 ^ 24 + 2 * 2 ^ 20 + j)

/-- The image a load finds, or the check that fails. -/
def loadFind (s : State) (n : Nat) (o : LoadOp) : Sum LoadErr (List Byte) :=
  if !check1 s n o.job false then .inl { code := 1 }
  else if !check2 s n o.addr o.len then .inl { code := 2 }
  else match openEnv s n o.job o.addr o.len with
    | none => .inl { code := 3 }
    | some p => match imageErr s n o.job p with
      | some e => .inl e
      | none => .inr p

/-- The errors met where the image was read are counted (09_memory R280). -/
def loadRead (s : State) (n : Nat) (o : LoadOp) : State :=
  if check1 s n o.job false && check2 s n o.addr o.len then hbmUe s o.addr o.len else s

/-- LOAD_DONE: the checks of R99 and, when all pass, R100. -/
def loadDoneEff (n : Nat) (s : State) : State :=
  match (part s n).loadOp with
  | none => s
  | some o =>
    if o.unload then s
    else match loadFind s n o with
      | .inl e => loadEnd (loadRead s n o) n o.job (some e) id
      | .inr p => loadEnd (loadRead s n o) n o.job none fun s => install s n o.job p

def execLoadDone (n : Fin 16) (s : State) : Out := .next (loadDoneEff n s)

/-- UNLOAD_DONE: check 1 only. -/
def unloadDoneEff (n : Nat) (s : State) : State :=
  match (part s n).loadOp with
  | none => s
  | some o =>
    if o.unload then
      loadEnd s n o.job (errIf (!check1 s n o.job true) 1) fun s => removeJob s n o.job
    else s

def execUnloadDone (n : Fin 16) (s : State) : Out := .next (unloadDoneEff n s)

end Sys2Proof.Machine
end

