-- ==== Sys2Proof/Machine/Streams.lean ====
section
/-!
DEFINITION. Streams (07_streams_state R190-R214): the stream commands, blobs, the transfers of parking, unparking, export and import,
and the stream steps of an edge and of a dispatch.
-/
namespace Sys2Proof.Machine

/-! ## Blobs (R206-R209) -/

/-- L_s of a stream's job in its home cluster. (DEDUCED: log entry 27.) -/
def stateLen (s : State) (x : Strm) : Nat :=
  4096 * (stateRanges (job s x.part x.job).img x.home).foldl (fun a e => a + heRow e) 0

/-- Bytes of a stream's blob. -/
def blobLen (s : State) (x : Strm) : Nat := 0x70 + stateLen s x

/-- The state bytes of the committed side (R207). -/
def stateBytes (s : State) (h : Nat) : List Byte :=
  let x := strm s h
  (sideSlots s x x.side).flatMap fun q => slotBytes (slotAt s q.1 q.2).data 0 256

/-- The slots of a stream's committed side. -/
def comSlots (s : State) (h : Nat) : List (Nat × Nat) := sideSlots s (strm s h) (strm s h).side

/-- Every slot of the committed side is FULL, as a transfer engine's reads need (R255). -/
def sideFull (s : State) (h : Nat) : Bool := (comSlots s h).all fun q => (slotAt s q.1 q.2).full

/-- A transfer engine reads the committed side (R265, R266), and its bytes count as activity (R69). -/
def sideRead (s : State) (h : Nat) : State :=
  let l := comSlots s h
  countBytes (readSlots s l) (strm s h).part (256 * l.length)

/-- The committed side holds an uncorrectable error. -/
def sideBad (s : State) (h : Nat) : Bool := (comSlots s h).any fun q => !(badWords (slotAt s q.1 q.2)).isEmpty

/-- A blob header (R206), the vector in it made of the serial and the slot's counter (R208). -/
def blobHeader (h len seq id : Nat) (fp : List Byte) (iv : List Byte) : List Byte :=
  natLe 4 0x54395342 ++ natLe 2 1 ++ natLe 2 0 ++ natLe 4 h ++ natLe 4 len ++ natLe 8 seq ++ natLe 8 id ++ padTo 48 0 fp
    ++ padTo 12 0 iv ++ natLe 4 0

/-- A seal of the stream's committed side is queued: it takes the key now current and the next vector (R208; 13_parties R372). (DEDUCED: log entry 45.) -/
def takeSeal (s : State) (h : Nat) (put : Option Seal → Strm → Strm) : State :=
  match slotOfParty s (strm s h).party with
  | none => modStrm s h (put none)
  | some i =>
    let k := keySlot s i
    match k.pk with
    | none => modStrm s h (put none)
    | some pk =>
      modStrm (setKeySlot s i { k with iv := (k.iv + 1) % 2 ^ 64 }) h (put (some { id := k.keyid, key := derive k.keyid pk labelBlob, iv := k.iv }))

/-- Queue the seal of a blob that a transfer engine writes. -/
def sealNow (s : State) (h : Nat) : State := takeSeal s h fun z x => { x with sealQ := z }

/-- Seal a stream's committed side into a blob (R206-R208) under what the seal took when it was queued; none where the party had no key. -/
def sealBlob (s0 : State) (h : Nat) (z : Option Seal) : Option (State × List Byte) :=
  let s := sideRead s0 h
  let x := strm s h
  z.map fun z =>
    let iv := Config.serial.take 4 ++ natLe 8 z.iv
    let hd := blobHeader h (stateLen s x) x.seq z.id (job s x.part x.job).img.fprint iv
    (s, hd ++ padTo (stateLen s x + 16) 0 (Config.gcmSeal z.key iv hd (stateBytes s h)))

/-- Magic, version, handle and L_s (R209, R211). -/
def blobHeadOk (s : State) (h : Nat) (b : List Byte) : Bool :=
  bf b 0 4 = 0x54395342 && bf b 4 2 = 1 && bf b 8 4 = h && bf b 12 4 = stateLen s (strm s h)

/-- The key that a blob names. -/
def blobKey (s : State) (h : Nat) (b : List Byte) : Option (List Byte) := keyById s (strm s h).party (bf b 0x18 8) labelBlob

def blobFpOk (s : State) (h : Nat) (b : List Byte) : Bool :=
  (b.drop 0x20).take 48 = padTo 48 0 (job s (strm s h).part (strm s h).job).img.fprint

/-- The state a blob holds, when its tag verifies. (DEDUCED: log entry 45.) -/
def blobOpen (s : State) (h : Nat) (b : List Byte) : Option (List Byte) :=
  let l := stateLen s (strm s h)
  match blobKey s h b with
  | none => none
  | some k => Config.gcmOpen k ((b.drop 0x50).take 12) (b.take 0x60) ((b.drop 0x60).take l) ((b.drop (0x60 + l)).take 16)

/-- The blob at an address passes R209; its state bytes. -/
def checkBlob (s : State) (h a : Nat) : Option (List Byte) :=
  let b := hbmRead s a (blobLen s (strm s h))
  if hbmPoison s a (blobLen s (strm s h)) || !blobHeadOk s h b || !blobFpOk s h b || bf b 0x10 8 ≠ (strm s h).seq then none
  else blobOpen s h b

/-- The first failure of an import after its addresses, as its cause (R211). -/
def importCause (s : State) (h a : Nat) : Option Nat :=
  let b := hbmRead s a (blobLen s (strm s h))
  if hbmPoison s a (blobLen s (strm s h)) then some 12
  else if !blobHeadOk s h b then some 8
  else if (blobKey s h b).isNone then some 10
  else if !blobFpOk s h b then some 9
  else if (blobOpen s h b).isNone then some 8
  else if bf b 0x10 8 ≤ (strm s h).lastSeq then some 11
  else none

/-! ## Commands (R212, R213) -/

def strmStat (n : Nat) : Nat := partPg n + 0x308

/-- A stream command is rejected or refused. -/
def strmReject (s : State) (n h cause : Nat) : State :=
  setEvt (wf (wf s (strmStat n) 24 8 cause) (strmStat n) 0 1 0) (partPg n) 1 (cause * 2 ^ 24 + 3 * 2 ^ 20 + h)

def strmDone (s : State) (n : Nat) : State := wf s (strmStat n) 0 1 1

/-- A stream's request; an EXPORT that it replaces no longer holds BUSY (R212). -/
def request (s : State) (n h : Nat) (r : SReq) : State :=
  let s1 := match (strm s h).req with | .xport _ => wf s (strmStat n) 1 1 0 | .none => s | .park => s | .unpark => s
  modStrm s1 h fun x => { x with req := r }

def strmCfg (s : State) (n : Nat) : Nat := rdN s (partPg n + 0x30C)
def strmBiv (s : State) (n : Nat) : Nat := rd64 s (partPg n + 0x318) % 2 ^ 48
def strmXaddr (s : State) (n : Nat) : Nat := rd64 s (partPg n + 0x320) % 2 ^ 48

/-- The settings that OPEN, IMPORT and SETCFG take from STRM_CFG. -/
def cfgStrm (s : State) (n : Nat) (x : Strm) : Strm :=
  let c := strmCfg s n
  { x with hold := fld c 20 4 + 1, idlePark := fld c 8 8, belay := fld c 6 2, droppable := bitAt c 5, freezeC := bitAt c 4 }

/-- The entry that OPEN and IMPORT make. Its SEQ goes on from LAST_SEQ, so that the two stay equal (R190, R191). (DESIGN CHOICE: log entry 73.) -/
def newStrm (s : State) (n h : Nat) (st : SState) : Strm :=
  let hm := rdN s (partPg n + 0x310)
  cfgStrm s n { st := st, part := n, party := partParty s n, job := fld (strmCfg s n) 24 4, home := fld hm 16 8, profile := fld hm 0 8
                biv := strmBiv s n, seq := (strm s h).lastSeq, lastSeq := (strm s h).lastSeq }

/-- What a command checks: a list of (fails, cause), the lowest-numbered cause that holds. (DEDUCED: log entry 44.) -/
def firstCause (l : List (Bool × Nat)) : Nat := match l.find? fun p => p.1 with | some p => p.2 | none => 0

/-- JOB loaded, HOME a member with lanes of it. -/
def jobHomeOk (s : State) (n : Nat) : Bool :=
  let j := fld (strmCfg s n) 24 4
  let c := rf s (partPg n + 0x310) 16 8
  (job s n j).loaded && isMember s n c && decide (laneGroups (job s n j).img c ≠ 0)

/-- The blob that the entry about to be made needs. -/
def newBlobLen (s : State) (n h : Nat) : Nat := blobLen s (newStrm s n h .opn)

/-- An EXPORT that no dispatch has acted on yet. -/
def xportWaits (x : Strm) : Bool := match x.req with | .xport _ => true | .none => false | .park => false | .unpark => false

/-- BUSY stands in the way of a command (R213), but not of one that replaces its own stream's EXPORT before the dispatch (R212). (DEDUCED: log entry 44.) -/
def busyBars (s : State) (n h code : Nat) : Bool :=
  rb s (strmStat n) 1 && !(xportWaits (strm s h) && (strm s h).part = n && (code = 3 || code = 4 || code = 5))

/-- A command that names STRM_HANDLE: its code stands in STRM_STAT, its causes are checked in ascending order, and it acts. (DEDUCED: log entry 44.) -/
def strmCmd (n code : Nat) (causes : State → Nat → List (Bool × Nat)) (f : State → Nat → State) (s0 : State) : State :=
  let s := wf s0 (strmStat n) 20 4 code
  let h := rf s (partPg n + 0x300) 0 20
  let x := strm s h
  let k := firstCause ((decide (h = 0), 1) :: (causes s h).filter (fun p => p.2 < 3) ++
    [(x.st ≠ .free && x.part ≠ n, 3)] ++ (causes s h).filter (fun p => 3 < p.2 && p.2 < 7) ++
    [(busyBars s n h code, 7)] ++ (causes s h).filter (fun p => 7 ≤ p.2))
  if k = 0 then f s h else strmReject s n h k

def openEff (n : Nat) : State → State :=
  strmCmd n 1
    (fun s h => [((strm s h).st ≠ .free, 2), (!jobHomeOk s n, 4),
      (strmBiv s n % 64 ≠ 0 || !inRegion s (partParty s n) 0 (strmBiv s n) (newBlobLen s n h), 5), (!activeSt (part s n).st, 7),
      (!hasKey s (partParty s n), 13)])
    fun s h => strmDone (setStrm s h (newStrm s n h .opn)) n

def closeEff (n : Nat) : State → State :=
  strmCmd n 2 (fun s h => [((strm s h).st ≠ .opn && (strm s h).st ≠ .active && (strm s h).st ≠ .parked, 2)])
    fun s h => strmDone (modStrm s h fun x => { x with closeReq := true }) n

/-- (DEDUCED: log entry 44.) -/
def parkEff (n : Nat) : State → State :=
  strmCmd n 3
    (fun s h => [((strm s h).st ≠ .active, 2), (steadyOf s n, 6), (!hasKey s (partParty s n), 13)])
    fun s h => strmDone (request s n h .park) n

def unparkEff (n : Nat) : State → State :=
  strmCmd n 4
    (fun s h => [((strm s h).st ≠ .parked || (strm s h).bad, 2), (!activeSt (part s n).st, 7), (!hasKey s (partParty s n), 13)])
    fun s h => strmDone (request s n h .unpark) n

def exportEff (n : Nat) : State → State :=
  strmCmd n 5
    (fun s h => [((strm s h).st ≠ .active && (strm s h).st ≠ .parked, 2),
      (strmXaddr s n % 64 ≠ 0 || !inWindow s (partParty s n) (strmXaddr s n) (blobLen s (strm s h)), 5),
      (!hasKey s (partParty s n), 13)])
    fun s h => wf (wf (request s n h (.xport (strmXaddr s n))) (strmStat n) 1 1 1) (strmStat n) 0 1 0

def importEff (n : Nat) : State → State :=
  strmCmd n 6
    (fun s h => [((strm s h).st ≠ .free, 2), (!jobHomeOk s n, 4),
      (strmBiv s n % 64 ≠ 0 || strmXaddr s n % 64 ≠ 0 || !inRegion s (partParty s n) 0 (strmBiv s n) (newBlobLen s n h) ||
        !inWindow s (partParty s n) (strmXaddr s n) (newBlobLen s n h), 5),
      (!activeSt (part s n).st, 7), (!hasKey s (partParty s n), 13)])
    fun s h => wf (wf (setStrm s h { newStrm s n h .moving with xfer := .imprt (strmXaddr s n) }) (strmStat n) 1 1 1) (strmStat n) 0 1 0

/-- (DEDUCED: log entry 44.) -/
def setcfgEff (n : Nat) : State → State :=
  strmCmd n 7 (fun s h => [((strm s h).st = .free, 2)]) fun s h => strmDone (modStrm s h (cfgStrm s n)) n

/-- State codes of STRM_QUERY. -/
def stCode : SState → Nat
  | .free => 0 | .opn => 1 | .active => 2 | .parking => 3 | .parked => 4 | .unparking => 5 | .moving => 6 | .closed => 7

/-- STRM_QUERY of a stream. -/
def queryWord (x : Strm) : Nat :=
  if x.st = .free then 0
  else stCode x.st * 2 ^ 28 + b2n x.bad * 2 ^ 27 + b2n (x.ftick || x.ftickNow) * 2 ^ 26 + x.side * 2 ^ 25 + x.home * 2 ^ 16 + x.place.getD 0 % 512

def queryEff (n : Nat) : State → State :=
  strmCmd n 8 (fun _ _ => []) fun s h =>
    let x := strm s h
    strmDone (wr64 (wrN s (partPg n + 0x330) (queryWord x)) (partPg n + 0x328) (if x.st = .free then 0 else x.seq)) n

/-- A reserved command code (R213). -/
def strmReserved (n code : Nat) : State → State := strmCmd n code (fun _ _ => [(true, 2)]) fun s _ => s

def execStrmOpen (r : Requester) (n : Fin 16) (s : State) : Out := .next (hostWr s r (partPg n + 0x304) (openEff n))
def execStrmClose (r : Requester) (n : Fin 16) (s : State) : Out := .next (hostWr s r (partPg n + 0x304) (closeEff n))
def execStrmPark (r : Requester) (n : Fin 16) (s : State) : Out := .next (hostWr s r (partPg n + 0x304) (parkEff n))
def execStrmUnpark (r : Requester) (n : Fin 16) (s : State) : Out := .next (hostWr s r (partPg n + 0x304) (unparkEff n))
def execStrmExport (r : Requester) (n : Fin 16) (s : State) : Out := .next (hostWr s r (partPg n + 0x304) (exportEff n))
def execStrmImport (r : Requester) (n : Fin 16) (s : State) : Out := .next (hostWr s r (partPg n + 0x304) (importEff n))
def execStrmSetcfg (r : Requester) (n : Fin 16) (s : State) : Out := .next (hostWr s r (partPg n + 0x304) (setcfgEff n))
def execStrmQuery (r : Requester) (n : Fin 16) (s : State) : Out := .next (hostWr s r (partPg n + 0x304) (queryEff n))

/-! ## Chunks that leave the queue without a lane -/

/-- A chunk goes with a "dropped" event (R201, R210). -/
def dropChunk (s : State) (h : Nat) (c : Chunk) : State :=
  strmEvent (modStrm (retireChunk s (strm s h).part c) h fun x => { x with cDrop := sat16 (x.cDrop + 1) }) h 3 0 0 c.tick c.ts

/-- Every held chunk of a stream goes, each with the event that `f` gives it. -/
def flushChunks (s : State) (h : Nat) (f : State → Chunk → State) : State :=
  each (modStrm s h fun x => { x with queue := [] }) (strm s h).queue f

/-- A "faulted" event for a chunk of a stream with BAD set (R209). -/
def badChunk (h : Nat) (s : State) (c : Chunk) : State :=
  strmEvent (modStrm (retireChunk s (strm s h).part c) h fun x => { x with cFault := sat16 (x.cFault + 1) }) h 4 0 0 c.tick c.ts

/-! ## Transfers (R202, R209-R211, R266) -/

/-- A transfer that reads the committed side is abandoned for the stream: it is marked and told (R266). -/
def sideFault (s : State) (h : Nat) : State :=
  let c := (strm s h).queue.head?.getD {}
  faultStrm s h c.tick c.ts

/-- The committed side of a transfer meets an uncorrectable error (R266). -/
def sideUe (s : State) (h : Nat) : State := sideFault (sideRead s h) h

/-- HBM traffic of a stream's transfer (R68). -/
def strmCharge (s : State) (h rdb wrb : Nat) : State :=
  charge s (strm s h).part fun a => { a with hbmRd := a.hbmRd + rdb, hbmWr := a.hbmWr + wrb }

/-- BIVOUAC_WRITE_DONE: the write of a PARKING stream, once queued, is complete. (DEDUCED: log entry 44.) -/
def bivouacWriteDoneEff (h : Nat) (s : State) : State :=
  let x := strm s h
  if x.st = .parking && x.xfer = .write true then
    if !sideFull s h then s
    else if sideBad s h then sideUe (modStrm s h fun x => { x with xfer := .none }) h
    else match sealBlob s h x.sealQ with
    | none => s
    | some (s1, b) =>
      modStrm (strmCharge (hbmWrite s1 x.biv b).1 h 0 b.length) h fun x => { x with xfer := .none, done := .parked }
  else s

def execBivouacWriteDone (h : BitVec 20) (s : State) : Out := .next (bivouacWriteDoneEff h.toNat s)

/-- Put state bytes into the committed side of a stream's place, FULL (R199). -/
def putState (s : State) (h : Nat) (bs : List Byte) : State :=
  let x := strm s h
  let l := sideSlots s x x.side
  countBytes (l.zipIdx.foldl (fun s q => slotEff s q.1.1 q.1.2 0 ((bs.drop (256 * q.2)).take 256) (some true)) s) x.part (256 * l.length)

/-- BIVOUAC_READ_DONE: the blob of an UNPARKING stream is read and checked (R209). -/
def bivouacReadDoneEff (h : Nat) (s : State) : State :=
  let x := strm s h
  if x.st = .unparking && x.xfer = .read then
    let s1 := strmCharge (hbmUe s x.biv (blobLen s x)) h (blobLen s x) 0
    match checkBlob s h x.biv with
    | some bs => modStrm (putState s1 h bs) h fun x => { x with xfer := .none, done := .active }
    | none => bump (modStrm s1 h fun x => { x with xfer := .none, done := .unparkBad }) (partPg x.part) 0x34C
  else s

def execBivouacReadDone (h : BitVec 20) (s : State) : Out := .next (bivouacReadDoneEff h.toNat s)

/-- The export's command ends. -/
def xportEnd (s : State) (n : Nat) : State := wf (wf s (strmStat n) 1 1 0) (strmStat n) 0 1 1
def xportFail (s : State) (n h cause : Nat) : State := strmReject (wf s (strmStat n) 1 1 0) n h cause

/-- EXPORT_DONE (R210). (DEDUCED: log entry 44.) -/
def exportDoneEff (h : Nat) (s : State) : State :=
  let x := strm s h
  match x.st, x.xfer with
  | .moving, .xport a true =>
    if !sideFull s h then s
    else if sideBad s h then
      xportFail (sideUe (modStrm s h fun x => { x with xfer := .none, done := .exportUe }) h) x.part h 12
    else (match sealBlob s h x.sealQ with
      | none => s
      | some (s1, b) =>
        let s2 := modStrm (strmCharge (hbmWrite s1 a b).1 h 0 b.length) h fun x => { x with xfer := .none, done := .closed }
        xportEnd (flushChunks s2 h fun s c => dropChunk s h c) x.part)
  | .moving, .xport a false =>
    let l := blobLen s x
    let s1 := strmCharge (hbmUe s x.biv l) h l 0
    (match checkBlob s h x.biv with
      | none =>
        xportFail (bump (modStrm s1 h fun x => { x with xfer := .none, done := .exportBad }) (partPg x.part) 0x34C) x.part h 12
      | some _ =>
        let s2 := modStrm (strmCharge (hbmWrite s1 a (hbmRead s x.biv l)).1 h 0 l) h fun x => { x with xfer := .none, done := .closed }
        xportEnd (flushChunks s2 h fun s c => dropChunk s h c) x.part)
  | _, _ => s

def execExportDone (h : BitVec 20) (s : State) : Out := .next (exportDoneEff h.toNat s)

/-- IMPORT_DONE (R211): refused at once, or accepted with the blob copied to BIV. (DEDUCED: log entry 44.) -/
def importDoneEff (h : Nat) (s : State) : State :=
  let x := strm s h
  match x.st, x.xfer with
  | .moving, .imprt a =>
    let l := blobLen s x
    let s1 := strmCharge (hbmUe s a l) h l 0
    (match importCause s h a with
      | some k => xportFail (setStrm (retireAll s1 h) h { lastSeq := x.lastSeq }) x.part h k
      | none =>
        let s2 := strmCharge (hbmWrite s1 x.biv (hbmRead s a l)).1 h 0 l
        xportEnd (modStrm (setSeq s2 h (bf (hbmRead s a l) 0x10 8)) h fun x => { x with xfer := .none, done := .imported }) x.part)
  | _, _ => s

def execImportDone (h : BitVec 20) (s : State) : Out := .next (importDoneEff h.toNat s)

/-! ## Closing (R193, R194) -/

/-- A transfer that writes a blob is abandoned: the bytes written so far, a number the spec leaves open, stay (R194). (DESIGN CHOICE: log entry 74.) -/
def abandonBlob (s : State) (h a : Nat) (b : Option (State × List Byte)) : State :=
  match b with
  | none => s
  | some (s1, b) =>
    let k := (fresh s1).1 % b.length
    strmCharge (hbmWrite (fresh s1).2 a (b.take k)).1 h 0 k

/-- What a stream's transfer in progress leaves when it is abandoned, and BUSY with the EXPORT or IMPORT (R194, R212). -/
def abandonXfer (s : State) (h : Nat) : State :=
  let x := strm s h
  let idle (s : State) : State := wf s (strmStat x.part) 1 1 0
  let s1 := match x.req with | .xport _ => idle s | .none => s | .park => s | .unpark => s
  match x.xfer with
  | .none => s1 | .read => s1 | .write false => s1
  | .write true => abandonBlob s1 h x.biv (sealBlob s1 h x.sealQ)
  | .xport a true => idle (abandonBlob s1 h a (sealBlob s1 h x.sealQ))
  | .xport a false => idle (abandonBlob s1 h a (some (s1, hbmRead s1 x.biv (blobLen s1 x))))
  | .imprt a => idle (abandonBlob s1 h x.biv (some (s1, hbmRead s1 a (blobLen s1 x))))

/-- A stream becomes CLOSED: its transfers are abandoned (R194) and its chunks retire (11_ingest R314). -/
def closeNow (s : State) (h : Nat) : State :=
  let s1 := modBly (abandonXfer s h) (strm s h).part fun b => { b with sending := b.sending.filter (· ≠ h) }
  modStrm (retireAll s1 h) h fun x => { x with st := .closed, xfer := .none, done := .none, req := .none, closeReq := false, sealQ := none, sealB := none }

/-- TEARDOWN closes every stream of the partition but the PARKED ones (R45, R194). (DEDUCED: log entry 32.) -/
def teardownStrms (s : State) (n : Nat) : State :=
  each s (strmsOf s n) fun s h =>
    match (strm s h).st with
    | .free => s | .closed => s
    | .parked => if xportWaits (strm s h) then request s n h .none else s
    | .opn => closeNow s h | .active => closeNow s h | .parking => closeNow s h | .unparking => closeNow s h
    | .moving => closeNow s h

/-! ## The edge (R193, R200 step 1) -/

/-- An outcome that takes effect at the edge. -/
def strmOutcome (s : State) (h : Nat) : State :=
  let x := strm s h
  let s1 := modStrm s h fun x => { x with done := .none }
  match x.done with
  | .none => s
  | .parked => bump (modStrm (freePlaceOf s1 h) h fun x => { x with st := .parked }) (partPg x.part) 0x340
  | .active => bump (modStrm s1 h fun x => { x with st := .active, idle := 0 }) (partPg x.part) 0x344
  | .unparkBad =>
    let s2 := modStrm (freePlaceOf s1 h) h fun x => { x with st := .parked, bad := true }
    flushChunks s2 h (badChunk h)
  | .closed => modStrm (flushChunks s1 h fun s c => dropChunk s h c) h fun x => { x with st := .closed }
  | .imported => modStrm s1 h fun x => { x with st := .parked }
  | .exportBad => modStrm s1 h fun x => { x with st := .parked, bad := true }
  | .exportUe => modStrm s1 h fun x => { x with st := .active, idle := 0 }

/-- A stream at the edge: a CLOSED stream with no transfer outstanding becomes FREE, outcomes and CLOSE take effect, and the marks of
the tick that ends become readable. -/
def strmEdge (s : State) (h : Nat) : State :=
  let x := strm s h
  if x.st = .closed && x.xfer = .none then freeStrm s h
  else
    let s1 := strmOutcome s h
    let y := strm s1 h
    let s2 := if y.closeReq && (y.st = .opn || y.st = .active || y.st = .parked) then
        closeNow s1 h else s1
    modStrm s2 h fun x => { x with ftick := x.ftickNow, ftickNow := false }

/-- Every stream at the edge, ascending. -/
def strmsEdge (s : State) : State := each s (s.strms.map fun p => p.1) strmEdge

/-! ## The dispatch (R200, R201) -/

/-- The streams of a partition, oldest held chunk first, then ascending. -/
def strmOrder (s : State) (n : Nat) : List Nat :=
  sortBy (fun h => match ((strm s h).queue.head?).bind (fun c => c.age) with | some a => 2 ^ 20 - a | none => 2 ^ 20 + 1) (strmsOf s n)

/-- Step 2 for one stream: chunks older than HOLD are dropped. -/
def holdDrops (s : State) (h : Nat) : State :=
  let x := strm s h
  let old (c : Chunk) : Bool := match c.age with | some a => decide (x.hold < a) | none => false
  if x.queue.any old then
    each (modStrm s h fun x => { x with queue := x.queue.filter fun c => !old c }) (x.queue.filter old) fun s c =>
      bump (dropChunk s h c) (partPg x.part) 0x348
  else s

/-- HOLD_DROP: in the dispatch window, chunks of a stream that have waited longer than its HOLD go (R201). -/
def holdDropEff (n h : Nat) (s : State) : State :=
  if s.clk.phase = .dispatch && (strm s h).part = n && (strm s h).st ≠ .free then holdDrops s h else s

def execHoldDrop (n : Fin 16) (h : BitVec 20) (s : State) : Out := .next (holdDropEff n h.toNat s)

/-- The chunk at the head of a stream's queue that the dispatch may bind: processed, and seen by it. -/
def headReady (x : Strm) : Option Chunk := match x.queue with | c :: _ => if c.ready && c.age.isSome then some c else none | [] => none

/-- The stream parks (R202). -/
def beginPark (s : State) (h : Nat) : State :=
  let now := (headReady (strm s h)).isNone
  modStrm (iff now s fun s => sealNow s h) h fun x => { x with
    st := .parking, req := if x.req = .park then .none else x.req, xfer := .write now }

/-- A stream has had no chunk bound in its last IDLE_PARK ticks (R200 step 3, R203). -/
def idleDue (s : State) (h : Nat) : Bool :=
  let x := strm s h
  x.st = .active && decide (x.idlePark ≠ 0) && decide (x.idlePark ≤ x.idle) && !steadyOf s x.part && hasKey s x.party

/-- Step 3. -/
def stepPark (s : State) (h : Nat) : State :=
  let x := strm s h
  if x.st = .active && ((x.req = .park && !steadyOf s x.part) || idleDue s h) then beginPark s h else s

/-- IDLE_PARK: in the dispatch window, an idle ACTIVE stream becomes PARKING. -/
def idleParkEff (n h : Nat) (s : State) : State :=
  if s.clk.phase = .dispatch && (strm s h).part = n && idleDue s h then beginPark s h else s

def execIdlePark (n : Fin 16) (h : BitVec 20) (s : State) : Out := .next (idleParkEff n h.toNat s)

/-- Step 4. -/
def stepUnpark (s : State) (h : Nat) : State :=
  let x := strm s h
  if x.st = .parked && !x.bad && x.party = partParty s x.part && (x.queue.any (fun c => c.age.isSome) || x.req = .unpark) then
    match freePlace s x.part x.job x.home with
    | none => s
    | some p => modStrm (takePlace s h p) h fun x => { x with
      st := .unparking, req := if x.req = .unpark then .none else x.req, xfer := .read }
  else s

/-- Step 5. A stream that an idle park or a held chunk has just moved goes when it is ACTIVE or PARKED again. (DEDUCED: log entry 44.) -/
def stepExport (s : State) (h : Nat) : State :=
  let x := strm s h
  match x.req with
  | .xport a =>
    if x.st = .active || x.st = .parked then
      let act := decide (x.st = .active)
      modStrm (iff act s fun s => sealNow s h) h fun y => { y with st := .moving, req := .none, xfer := .xport a act }
    else s
  | .none => s | .park => s | .unpark => s

/-- Step 6. -/
def stepActivate (s : State) (h : Nat) : State :=
  let x := strm s h
  if x.st = .opn && (headReady x).isSome then
    match freePlace s x.part x.job x.home with
    | none => s
    | some p => modStrm (takePlace s h p) h fun x => { x with st := .active, idle := 0 }
  else s

/-- The stream steps of a dispatch in order (R200). -/
def dispatchStrms (s : State) (n : Nat) : State :=
  let all (s : State) (f : State → Nat → State) : State := each s (strmOrder s n) f
  all (all (all (all (all s holdDrops) stepPark) stepUnpark) stepExport) stepActivate

/-- At the flip, the write of a park that waited for the tick's chunk is queued (R202). -/
def queueWrites (s : State) : State :=
  each s (s.strms.map fun p => p.1) fun s h =>
    if (strm s h).xfer = .write false then modStrm (sealNow s h) h fun x => { x with xfer := .write true } else s

end Sys2Proof.Machine
end

