-- ==== Sys2Proof/Machine/Partitions.lean ====
section
/-!
DEFINITION. Partition commands, the legality of cyclic tables, table and configuration writes (02_partitions_pitches R38-R53, R67,
R71, R72; 13_parties R377, R378).
-/
namespace Sys2Proof.Machine

/-! ## Legality of a table (R53) -/

/-- Rule 7 for a job: with lane groups it has an entry in every tick index. -/
def laneRuleJob (s : State) (n : Nat) (t : Tbl) (j : Nat) : Bool :=
  jdReg s n j 0x10 = 0 || (List.range t.hp).all fun i => (tblTick t i).any fun w => teJob w = j

/-- Rule 7 for every loaded job. -/
def laneRule (s : State) (n : Nat) (t : Tbl) : Bool := (loadedJobs s n).all (laneRuleJob s n t)

/-- Rules 1 to 4, 6 and 7 for entry `e`; rule 6 where the job has a program. -/
def entryBad (s : State) (n : Nat) (t : Tbl) (e : Nat) : Bool :=
  let w := nth 0 t.ents e
  let fin := teStart w + teBudget w
  let sw := tSwitch s n (teJob w) ((predEntry t w).map teJob)
  decide (t.hp ≤ teTick w) || teBudget w = 0 || decide (teStart w < 50000)
    || decide (regionEnd s.clk.cfg.period s.clk.cfg.opfloor s.clk.cfg.reserve < fin)
    || (t.ents.zipIdx.any fun p => p.2 ≠ e && teValid p.1 && teTick p.1 = teTick w &&
          decide (teStart p.1 < fin) && decide (teStart w < teStart p.1 + teBudget p.1))
    || ((job s n (teJob w)).loaded && decide (teBudget w < sw + (if teBe w then 0 else jdReg s n (teJob w) 0)))
    || !laneRuleJob s n t (teJob w)

/-- The lowest entry that breaks a rule other than rule 5. (DEDUCED: log entry 28.) -/
def tblBad (s : State) (n : Nat) (t : Tbl) : Option Nat :=
  (List.range 64).find? fun e => teValid (nth 0 t.ents e) && entryBad s n t e


/-- Rule 5: every valid entry's job has a loaded and checked program. -/
def jobsLoaded (s : State) (n : Nat) (t : Tbl) : Bool := t.ents.all fun w => !teValid w || (job s n (teJob w)).loaded

/-- The table's rejection cause, 5 or 6, with TBL_ERR set. (DEDUCED: log entry 28.) -/
def judgeTbl (s : State) (n : Nat) (t : Tbl) : State × Option Nat :=
  let s1 := modPart s n fun p => { p with tblErr := (tblBad s n t).getD 0xFF }
  if (tblBad s n t).isSome || !laneRule s n t then (s1, some 5)
  else if !jobsLoaded s n t then (s1, some 6) else (s1, none)

/-! ## Commands (R41-R44, R47) -/

/-- A rejected partition command (R42). -/
def cmdReject (s : State) (n cause : Nat) : State :=
  setEvt (modPart s n fun p => { p with rej := cause }) (partPg n) 1 (cause * 2 ^ 24 + 2 ^ 20)

/-- A command waits for an edge, or ZEROISING does. -/
def cmdPend (s : State) (n : Nat) : Bool := (part s n).cmd.isSome || (part s n).tearing

/-- TICK_NUM at the edge `k` edges from now. -/
def numAfter (s : State) (k : Nat) : Nat := if s.clk.seen then (s.clk.num + k) % 2 ^ 64 else k - 1

/-- A command allowed from the states `ok` that nothing pending bars. -/
def partCmd (n : Nat) (ok : PState → Bool) (f : State → State) (s : State) : State :=
  if !ok (part s n).st || cmdPend s n then cmdReject s n 7 else f s

def configureEff (n : Nat) : State → State := partCmd n (fun st => st = .off) fun s => setSt s n .configuring


/-- The partitions whose COMMIT was accepted in this cycle, which name a cluster of partition `n` and have a higher number (R48). (DEDUCED: log entry 28.) -/
def comLosers (s : State) (n : Nat) : List Nat :=
  (List.range 16).filter fun k => decide (n < k) && (part s k).st = .ready && (part s k).comAt = some (comNow s) &&
    (members s n).any (isMember s k)

/-- A member cluster belongs to another partition, other than one that must yield it. -/
def membersTaken (s : State) (n : Nat) : Bool :=
  (members s n).any fun c => (List.range 16).any fun m =>
    m ≠ n && !(comLosers s n).contains m && holds (part s m).st && isMember s m c

/-- The COMMIT of a higher-numbered partition in the cycle of this one is rejected after all (R48): it is CONFIGURING again. (DEDUCED: log entry 28.) -/
def comYield (s : State) (n : Nat) : State :=
  each s (comLosers s n) fun s k => cmdReject (modPart (setSt s k .configuring) k fun p => { p with cmd := none, comAt := none }) k 2

/-- Partitions whose PART_CFG names a party, in any state. -/
def cfgParts (s : State) (p : Nat) : List Nat := (List.range 16).filter fun n => partParty s n = p

/-- [a, a + n) lies within the groups of a party's partitions, in the ISOLATED map; nothing is asked while no partition names it. -/
def inGroups (s : State) (p a n : Nat) : Bool :=
  cfgParts s p = [] || inGroupSet s ((cfgParts s p).foldl (fun m k => Nat.lor m (rf s (hbmPg + 0x140 + 4 * k) 0 16)) 0) a n

/-- In the ISOLATED map every window lies within the groups of its party's partitions (R277). (DESIGN CHOICE: log entry 70.) -/
def windowsIn (s : State) (p : Nat) : Bool := !winValid s p || inGroups s p (winBase s p) (winSize s p)

/-- Causes 3: no party, no key, or REQ_TDI without a locked TDI (R378). (DEDUCED: log entry 28.) -/
def partyBad (s : State) (n : Nat) : Bool :=
  let p := partParty s n
  p = 0 || decide (16 < p) || !hasKey s p || !windowsIn s p || (rb s (ptyPg p + 0x200) 1 && !(tdi s n = 1 || tdi s n = 2))

/-- The pool, the sequence table and the page tables of its valid descriptors lie in the KV region (08_attention R250). (DEDUCED: log entry 43.) -/
def kvRangesOk (s : State) (n : Nat) : Bool :=
  let ok (a len : Nat) : Bool := inRegion s (partParty s n) 1 a len
  !kvOn s n || (ok (kvBase s n) (kvEnd s n - kvBase s n) && ok (kvSeqBase s n) (64 * kvSeqs s n) &&
    (List.range (kvSeqs s n)).all fun q => !sdValid s n q || ok (sdTab s n q) (4 * sdCap s n q))

/-- The receive slots and the promotion addresses of a belay table (14_links_belay R411). -/
def blyRangesOk (s : State) (n : Nat) : Bool :=
  let pg := partPg n
  let st := rdN s (pg + 0x458)
  let k := rf s (pg + 0x45C) 0 21
  !rb s (pg + 0x444) 31 ||
    (inRegion s (partParty s n) 5 (rd64 s (pg + 0x448) % 2 ^ 48) (2 * k * st) &&
      inRegion s (partParty s n) 0 (rd64 s (pg + 0x450) % 2 ^ 48) (k * st) && st % 64 = 0 &&
      (loadedJobs s n).all fun j => (job s n j).img.clusters.all fun c =>
        laneGroups (job s n j).img c = 0 || decide (blobLen s { part := n, job := j, home := c } ≤ st))

/-- (DEDUCED: log entry 28.) -/
def commitEff (n : Nat) : State → State := partCmd n (fun st => st = .configuring) fun s =>
  if s.clk.wait.isSome then cmdReject s n 7
  else if !connected (members s n) then cmdReject s n 1
  else if membersTaken s n then cmdReject s n 2
  else if partyBad s n || !kvRangesOk s n || !blyRangesOk s n then cmdReject s n 3
  else if !isMember s n (partOrigin s n) then cmdReject s n 4
  else
    let r := judgeTbl s n (activeTbl s n)
    match r.2 with
    | some k => cmdReject r.1 n k
    | none =>
      let s0 := modPart (setSt (comYield r.1 n) n .ready) n fun p => { p with comAt := some (comNow s) }
      let s1 := each s0 (members s n) fun s c => modClu s c fun x => { x with part := n }
      placeAll s1 n

/-- A command waits for the edge `k` edges from now. -/
def waitCmd (c : PendCmd) (n k : Nat) (s : State) : State :=
  modPart s n fun p => { p with cmd := some (c, numAfter s k) }

/-- One edge from now before the commit window opens, two from then on (R43). -/
def stopEdge (s : State) : Nat :=
  if s.clk.phase = .commit ∨ s.clk.phase = .guard ∨ (s.clk.phase = .pitches ∧ commitStart s ≤ cycNow s) then 2 else 1

def startEff (n : Nat) : State → State :=
  partCmd n (fun st => st = .ready) fun s => if !s.clk.run then cmdReject s n 8 else waitCmd .start n 1 s
def stopEff (n : Nat) : State → State := partCmd n (fun st => st = .running) fun s => waitCmd .stop n (stopEdge s) s
def maintEff (n : Nat) : State → State := partCmd n (fun st => st = .ready) fun s => waitCmd .maint n 1 s
def resumeEff (n : Nat) : State → State := partCmd n (fun st => st = .maintenance) fun s => waitCmd .resume n (stopEdge s) s
def reconfigEff (n : Nat) : State → State := partCmd n (fun st => st = .ready) fun s => setSt s n .configuring

/-- ZEROISING begins: nothing of the partition runs, its lanes are gone, its streams close (R44, R45, R194), and its VF's CLW_SEL is zero
(16_host_registers R448). (DEDUCED: log entry 36.) -/
def beginZeroise (s : State) (n : Nat) : State :=
  let s1 := teardownStrms (clearLanes (stopPitch s n) n) n
  let s2 := modPart s1 n fun p => { p with cmd := none, tearing := false, toFault := false, flipSet := none, tblPend := false, seg := none }
  setSt { s2 with clw := smSet 0 s2.clw n 0 } n .zeroising

/-- TEARDOWN (R44): inside the commit window of a running partition ZEROISING waits for the edge, the lanes not flipped. (DEDUCED: log entry 32.) -/
def teardownPart (s : State) (n : Nat) : State :=
  let st := (part s n).st
  if (st = .running || st = .maintenance) && s.clk.phase = .commit then
    modPart (teardownStrms (clearLanes (stopPitch s n) n) n) n fun p => { p with cmd := none, tearing := true, flipSet := none }
  else beginZeroise s n

/-- TEARDOWN is allowed from these states. -/
def tearable : PState → Bool
  | .configuring => true | .ready => true | .running => true | .maintenance => true | .faulted => true
  | .off => false | .zeroising => false

/-- A PF action puts a locked or running TDI in ERROR (R377). -/
def pfTdiErr (s : State) (n : Nat) : State := if tdi s n = 1 || tdi s n = 2 then tdiError s n else s

/-- PART_CMD TEARDOWN; a pending command is cancelled (R47). -/
def teardownEff (n : Nat) (s : State) : State :=
  if tearable (part s n).st then pfTdiErr (teardownPart s n) n else cmdReject s n 7

/-- The shadow table takes the active table's place. (DEDUCED: log entry 31.) -/
def swapTable (s : State) (n : Nat) : State :=
  let s1 := (List.range 64).foldl (fun s e => wr64 s (tblPg n + 0x100 + 8 * e) (rd64 s (tblPg n + 0x300 + 8 * e))) s
  let s2 := wf s1 (partPg n + 0x100) 0 6 (rf s1 (tblPg n + 0x500) 0 6)
  setEvt (modPart s2 n fun p => { p with tblPend := false }) (partPg n) 7

def tblSwapEff (n : Nat) : State → State :=
  partCmd n activeSt fun s =>
    if (part s n).tblPend then cmdReject s n 7
    else
      let r := judgeTbl s n (shadowTbl s n)
      match r.2 with
      | some k => cmdReject r.1 n k
      | none =>
        let s1 := modPart r.1 n fun p => { p with tblPend := true }
        if (part s n).st = .ready then swapTable s1 n else s1

/-- A reserved PART_CMD code (R42). -/
def partCmdReserved (n : Nat) (s : State) : State := cmdReject s n 7

/-- Before the device is ready a CONFIGURE is rejected (15_sirvi R414). -/
def execConfigure (n : Fin 16) (s : State) : Out :=
  .next (if hostUp s && !devRdy s then cmdReject s n 7 else pfDo s (configureEff n))
def execCommit (n : Fin 16) (s : State) : Out := .next (pfDo s (commitEff n))
def execStart (n : Fin 16) (s : State) : Out := .next (pfDo s (startEff n))
def execStop (n : Fin 16) (s : State) : Out := .next (pfDo s (stopEff n))
def execMaint (n : Fin 16) (s : State) : Out := .next (pfDo s (maintEff n))
def execResume (n : Fin 16) (s : State) : Out := .next (pfDo s (resumeEff n))
def execReconfig (n : Fin 16) (s : State) : Out := .next (pfDo s (reconfigEff n))
def execTeardown (n : Fin 16) (s : State) : Out := .next (pfDo s (teardownEff n))
def execTblSwap (n : Fin 16) (s : State) : Out := .next (pfDo s (tblSwapEff n))

/-! ## Configuration and table writes (R71, R72) -/

/-- A register write of a partition page that is ignored and raises CMD_REJ. (DEDUCED: log entry 31.) -/
def ignoredWr (s : State) (n off : Nat) : State := setEvt s (partPg n) 1 (5 * 2 ^ 20 + off)

/-- A page's RWL fields are locked (R6). -/
def locked (s : State) (pg : Nat) : Bool := rb s (pg + 0x30) 0

/-- The writable bits of PART_CFG and of PART_CLMASK. -/
def cfgMask (w : Nat) : Nat := if w = 0 then 0xFF1F3F else 0xFFFFFFFF

/-- A write would change the membership, origin or party. -/
def changesPlace (s : State) (n w v : Nat) : Bool :=
  if w = 0 then fld v 16 8 ≠ partOrigin s n || fld v 8 5 ≠ partParty s n
  else rdN s (partPg n + 0x10C + 4 * w) ≠ v

/-- Clusters of `ms` that are in no partition hold zero in their scratchpad (R40): one that leaves a partition being configured is
cleared as it does. (DEDUCED: log entry 31.) -/
def clearFree (s : State) (ms : List Nat) : State :=
  { s with slots := smDrop s.slots fun k => ms.contains (k / 16384) && (partOf s (k / 16384)).isNone }

/-- PART_CFG (w = 0) and PART_CLMASK w − 1. -/
def partCfgSet (n w : Nat) (v : Word) (s : State) : State :=
  let off := if w = 0 then 0x100 else 0x10C + 4 * w
  if locked s (partPg n) then s
  else if (part s n).st ≠ .configuring then ignoredWr s n off
  else if (loadedJobs s n) ≠ [] && changesPlace s n w v.toNat then ignoredWr s n off
  else clearFree (wrN s (partPg n + off) (Nat.land v.toNat (cfgMask w))) (members s n)

/-- The host's write; it puts a locked or running TDI in ERROR (R377). (DEDUCED: log entry 31.) -/
def partCfgWriteEff (n w : Nat) (v : Word) (s : State) : State := pfTdiErr (partCfgSet n w v s) n

def execPartCfgWrite (n : Fin 16) (w : Fin 9) (v : Word) (s : State) : Out := .next (pfDo s (partCfgWriteEff n w v))

/-- Address of a table entry, and whether it takes writes. -/
def entAddr (n : Nat) (shadow : Bool) (e : Nat) : Nat := tblPg n + (if shadow then 0x300 else 0x100) + 8 * e
def entKey (shadow : Bool) (e : Nat) : Nat := if shadow then 64 + e else e
/-- (DEDUCED: log entry 31.) -/
def entOpen (s : State) (n : Nat) (shadow : Bool) : Bool := shadow || (part s n).st = .configuring

/-- The staging word of an entry: what a LO write left, else the entry's low half. -/
def stageOf (s : State) (n : Nat) (shadow : Bool) (e : Nat) : Word :=
  match (part s n).stage.find? fun p => p.1 = entKey shadow e with
  | some p => p.2
  | none => rd s (entAddr n shadow e)

/-- LO of an entry goes to its staging word (R72). (DEDUCED: log entry 31.) -/
def tblLoEff (n : Nat) (shadow : Bool) (e : Nat) (v : Word) (s : State) : State :=
  if entOpen s n shadow then
    modPart s n fun p => { p with stage := smIns (entKey shadow e) v (smErase p.stage (entKey shadow e)) }
  else s

/-- HI gives the entry its value, with the staging word as its low half. (DEDUCED: log entry 31.) -/
def tblHiEff (n : Nat) (shadow : Bool) (e : Nat) (v : Word) (s : State) : State :=
  if entOpen s n shadow then
    let lo := stageOf s n shadow e
    modPart (wr (wr s (entAddr n shadow e) lo) (entAddr n shadow e + 4) v) n fun p => { p with stage := smErase p.stage (entKey shadow e) }
  else s

def execTblEntryLoWrite (n : Fin 16) (shadow : Bool) (e : Fin 64) (v : Word) (s : State) : Out := .next (pfDo s (tblLoEff n shadow e v))
def execTblEntryHiWrite (n : Fin 16) (shadow : Bool) (e : Fin 64) (v : Word) (s : State) : Out := .next (pfDo s (tblHiEff n shadow e v))

/-- JOB_CTRL.REARM (R67): HALTED and CONSEC clear from the next edge. (DEDUCED: log entry 33.) -/
def rearmEff (n j : Nat) (s : State) : State := modJob s n j fun x => { x with rearm := true }

def execRearm (n : Fin 16) (j : Fin 16) (s : State) : Out := .next (pfDo s (rearmEff n j))

end Sys2Proof.Machine
end

