-- ==== Sys2Proof/Machine/PortBase.lean ====
section
/-!
DEFINITION. Audio ports as the ingest path sees them (12_audio_ports R347-R354): configuration fields, which port slot feeds a channel
of a stream, and the samples of a window.
-/
namespace Sys2Proof.Machine

def prt (s : State) (p : Nat) : Port := smGet {} s.ports p
def setPrt (s : State) (p : Nat) (x : Port) : State := { s with ports := smSet {} s.ports p x }
def modPrt (s : State) (p : Nat) (f : Port → Port) : State := setPrt s p (f (prt s p))

/-- PORT_CFG. -/
def pCfg (s : State) (p : Nat) : Nat := rdN s (portPg p + 0x100)
def pcEn (w : Nat) : Bool := bitAt w 31
def pcPartV (w : Nat) : Bool := bitAt w 28
def pcPart (w : Nat) : Nat := fld w 24 4
def pcRate (w : Nat) : Nat := fld w 16 3
def pcClk (w : Nat) : Nat := fld w 12 2
def pcSrc (w : Nat) : Nat := fld w 10 2
def pcFmt (w : Nat) : Nat := fld w 8 2
def pcPack (w : Nat) : Nat := fld w 6 2
def pcSlots (w : Nat) : Nat := fld w 0 5 + 1

/-- The port's nominal rate in Hz. -/
def pHz (s : State) (p : Nat) : Nat := rateHz (pcRate (pCfg s p))

/-- Input slots that IN_MAP binds: 32 of a TDM port, 2 of an AES receiver, none of a transmitter. -/
def inSlots (p : Nat) : Nat := if p < 8 then 32 else if p < 12 then 2 else 0

def inMap (s : State) (p i : Nat) : Nat := rdN s (portPg p + 0x180 + 4 * i)

/-- A running port's IN_MAP names the stream: the stream has a port feed (R352). -/
def portNames (s : State) (p h : Nat) : Bool :=
  pcEn (pCfg s p) && (List.range (inSlots p)).any fun i => bitAt (inMap s p i) 31 && fld (inMap s p i) 0 20 = h

def portFed (s : State) (h : Nat) : Bool := (List.range 12).any fun p => portNames s p h

/-- The stream takes samples of a port: it is of partition PART and neither FREE nor CLOSED (R352, R354). -/
def feedOk (s : State) (p h : Nat) : Bool :=
  let x := strm s h
  pcPartV (pCfg s p) && x.part = pcPart (pCfg s p) && x.st ≠ .free && x.st ≠ .closed && h ≠ 0

/-- The slots of a port that feed a stream, with their channels (R352). -/
def portChans (s : State) (p h : Nat) : List (Nat × Nat) :=
  if pcEn (pCfg s p) && feedOk s p h then
    (List.range (inSlots p)).filterMap fun i =>
      if bitAt (inMap s p i) 31 && fld (inMap s p i) 0 20 = h then some (fld (inMap s p i) 24 4, i) else none
  else []

/-- Some port feeds the stream. -/
def portGives (s : State) (h : Nat) : Bool := (List.range 12).any fun p => !(portChans s p h).isEmpty

/-- The port and slot that feed a channel of a stream. -/
def chanPort (s : State) (h c : Nat) : Option (Nat × Nat) :=
  (List.range 12).findSome? fun p => ((portChans s p h).find? fun q => q.1 = c).map fun q => (p, q.2)

/-- The frames of a window, oldest first, from the last one at or before its start, with no break between them and none missing at
its end; none when the port has not covered it (R354). -/
def portRun (s : State) (p : Nat) (w0 w1 : Int) : Option (List PFrame) :=
  let hz := pHz s p
  let fs := (prt s p).frames.filter fun f => decide ((f.t : Int) < w1)
  let young := fs.takeWhile fun f => decide (w0 < f.t)
  match fs.drop young.length with
  | [] => none
  | f0 :: _ =>
    let newest := (fs.head?.getD f0).t
    if young.any (fun f => f.brk) || decide ((newest : Int) * hz + 1001000000 < w1 * hz) then none else some (f0 :: young.reverse)

/-- Intervals and ns over the frames whose times are held. -/
def spanOf (x : Port) : Nat × Nat := match x.times with | t :: l => (l.length, t - l.getLastD t) | [] => (0, 0)

/-- PORT_DRIFT in ppb (R350). -/
def portDrift (s : State) (p : Nat) : Int :=
  let q := spanOf (prt s p)
  if pcClk (pCfg s p) = 0 || q.2 = 0 || pHz s p = 0 then 0 else (rneDiv (q.1 * 10 ^ 18) (q.2 * pHz s p) : Int) - 10 ^ 9

/-- The samples of a slot with frame times in the window [w0, w1), the window's start before the first of them in 10^-9 input samples, and
whether a frame is non-audio (R353, R354). -/
def portWin (s : State) (p i : Nat) (w0 w1 : Int) : Option (List Nat × Nat × Bool) :=
  match portRun s p w0 w1 with
  | none => none
  | some l =>
    let t0 : Int := (l.head?.getD {}).t
    let d : Nat := match l with | a :: b :: _ => b.t - a.t | _ => 0
    let phi := if d = 0 then 0 else (w0 - t0).toNat * 1000000000 / d
    let inw := l.filter fun f => decide (w0 ≤ f.t)
    some (inw.map fun f => nth 0 f.x i, phi, inw.any fun f => f.non)

end Sys2Proof.Machine
end

