-- ==== Sys2Proof/Machine/Tick.lean ====
section
/-!
DEFINITION. The tick generator (01_tick): the timebase and PTM, TICK_CFG and its APPLY, the tick sources, the flywheel, fallback
and relock, and the clock's part of a device edge. What else happens at an edge stands in Machine/Edge.lean.
-/
namespace Sys2Proof.Machine

/-- TICK_CTRL.EN. -/
def tickEn (s : State) : Bool := rb s (tickPg + 0x124) 0

/-- TICK_CFG as it stands. -/
def cfgReg (s : State) : TickCfg :=
  let a := tickPg + 0x120
  { period := rf s a 0 3, src := rf s a 4 2, opfloor := rf s a 8 2, reserve := rf s a 12 5 }

/-- No reserved or out-of-range field (R16). -/
def cfgOk (c : TickCfg) : Bool :=
  c.period ≤ 4 && c.src ≤ 1 && c.opfloor ≤ 2 && 2 ≤ c.reserve && c.reserve ≤ 20

/-- P_meas in 1/16 ns (R19): the sum of the last 16 intervals in ns, P for each one missing. -/
def pMeas16 (s : State) : Nat :=
  (s.clk.ivals.take 16).foldl (· + ·) 0 + (16 - min 16 s.clk.ivals.length) * (perNow s / uNs)

/-- P_meas in time units. -/
def pMeasU (s : State) : Nat := pMeas16 s * (uNs / 16)

/-- The first value TICK_ANCHOR + n·P not earlier than `x` (R17). -/
def gridNext (s : State) (x : Int) : Int :=
  let a : Int := rd64 s (tickPg + 0x130) * uNs
  x + (a - x) % (perNow s : Int)

/-- Where a relock moves the internal edge due at `t` (R22): toward the last TICK_IN phase plus 200 ns, by at most 0.05 % of P;
with the phase difference left after the move. -/
def relockMove (s : State) (t : Int) : Int × Nat :=
  match s.clk.phaseIn with
  | none => (t, perNow s)
  | some p =>
    let per : Int := perNow s
    let tgt : Int := p + 200 * uNs
    let m := (tgt - t) % per
    let d := if per < 2 * m then m - per else m
    let mv := clampI (-(per / 2000)) (per / 2000) d
    (t + mv, (d - mv).natAbs)

/-- The next internal edge of a fallback, before a relock moves it: P after the previous edge (R21), or the scheduled first one (R23). -/
def fallbackNext (s : State) : Option Int :=
  match s.clk.lastEdge with
  | some e => some (e + perNow s)
  | none => s.clk.fbEdge

/-- When the next device edge falls and whether it is a flywheel edge (R17, R18, R20-R23, R475). -/
def nextEdge (s : State) : Option (Int × Bool) :=
  if !tickEn s then none
  else match s.clk.due with
  | some t => some (t, false)
  | none =>
    if s.clk.srcNow = 0 then some (gridNext s s.clk.gridFrom, false)
    else if s.clk.srcNow = 3 then
      (fallbackNext s).map fun t => (if s.clk.relocking then (relockMove s t).1 else t, false)
    else match s.clk.lastEdge with
    | none => none
    | some e =>
      if s.clk.toFb then some (e + perNow s, false)
      else if s.clk.fly = 0 then some (e + perNow s + perNow s / 1000, true)
      else some (e + pMeasU s, true)

/-- The predicted time of the next edge (R26): none before the first device edge after EN is set. With the internal source it is the
edge that the grid gives, which is the previous edge plus P but for the tick after a LOAD, a new period or a new source, where the
previous edge does not stand on the grid. (DESIGN CHOICE: log entry 14.) -/
def predicted (s : State) : Option Int :=
  if !tickEn s then none
  else match s.clk.lastEdge with
  | none => none
  | some e => some (if s.clk.srcNow = 0 then gridNext s s.clk.gridFrom else e + if s.clk.srcNow = 3 then perNow s else pMeasU s)

/-! ## Timebase and PTM -/

/-- TB_CTRL.LOAD (R13, R474). With the internal source the grid stands on the timebase, and the next edge is the first value of it from
the new timebase on; the times that the device holds move by the step otherwise, and so do those that measure a span in every case
(DEDUCED: log entry 14). -/
def tbLoadEff (s : State) : State :=
  if anyActive s then setEvt s tickPg 9
  else
    let new := rd64 s (tickPg + 0x108) * uNs
    let d : Int := (new : Int) - s.clk.tb
    let k := s.clk
    { s with clk := { k with
        tb := new, rem := 0, tbValid := true
        gridFrom := if k.srcNow = 0 then new else k.gridFrom + d
        lastEdge := k.lastEdge.map (· + d), fbEdge := k.fbEdge.map (· + d), due := k.due.map (· + d), dueIn := k.dueIn + d
        lastIn := k.lastIn.map (· + d), phaseIn := k.phaseIn.map (· + d), enAt := k.enAt + d
        chgAt := k.chgAt.map (· + d), inTs := if k.srcNow = 0 then k.inTs else k.inTs + d
        ptmOut := k.ptmOut.map (· + d), ptmNext := k.ptmNext + d } }

def execTbLoad (s : State) : Out := .next (pfDo s (tbLoadEff))

/-- A PTM request fails (R14): counted; the 16th in a row loses PTM. (DESIGN CHOICE: log entry 13.) -/
def ptmFail (s : State) : State :=
  let s1 := bump { s with clk := { s.clk with ptmOut := none, ptmFails := s.clk.ptmFails + 1 } } tickPg 0x170
  if s1.clk.ptmFails = 16 then setEvt { s1 with clk := { s1.clk with ptmOk := false } } tickPg 6 else s1

/-- One PTM request every 2^PTM_IVL ms while PTM_EN is set (R14); while the capability's Enable is 0 it counts as failed (R451). -/
def ptmRequestEff (capEnable : Bool) (s : State) : State :=
  if rb s (tickPg + 0x110) 0 && s.clk.ptmOut.isNone then
    let s1 := toTbI s s.clk.ptmNext
    let s2 := { s1 with clk := { s1.clk with
      ptmNext := s1.clk.tb + 1000000 * uNs * 2 ^ rf s (tickPg + 0x110) 4 3, ptmOut := some s1.clk.tb } }
    if capEnable then s2 else ptmFail s2
  else s

def execPtmRequest (capEnable : Bool) (s : State) : Out := .next (ptmRequestEff capEnable s)

/-- A PTM response (R13, R14): within 1 ms of the request the offset is recorded and slewed away, at a rate that is the
implementation's within ±100 ppm; later than that the request has failed. (DESIGN CHOICE: log entry 13.) -/
def ptmResponseEff (offset : Int) (s : State) : State :=
  match s.clk.ptmOut with
  | none => s
  | some t =>
    if t + 1000000 * uNs < s.clk.tb then ptmFail s
    else
      let f := fresh s
      { f.2 with clk := { s.clk with
          ptmOut := none, ptmFails := 0, ptmOk := true, tbValid := true
          ptmOfs := clampI (-(2 ^ 31 - 1)) (2 ^ 31 - 1) offset
          rate := ((f.1 % 200001 : Nat) : Int) - 100000 } }

def execPtmResponse (offset : Int) (s : State) : Out := .next (ptmResponseEff offset s)

/-- 1 ms after a request with no response, it fails (R14). (DESIGN CHOICE: log entry 13; DESIGN CHOICE: log entry 64.) -/
def ptmTimeoutEff (s : State) : State :=
  match s.clk.ptmOut with
  | none => s
  | some t => ptmFail (toTbI s (t + 1000000 * uNs))

def execPtmTimeout (s : State) : Out := .next (ptmTimeoutEff s)

/-! ## Configuration -/

/-- A TICK_CFG copy takes force (R16, R19, R475); `x` is the edge it takes force at while tick generation runs. -/
def takeForce (s : State) (c : TickCfg) (x : Option Int) : State :=
  let k := s.clk
  let k := { k with cfg := c, wait := none,
                    ivals := if c.period ≠ k.cfg.period ∨ c.src ≠ k.cfg.src then [] else k.ivals }
  let changed := decide (c.src ≠ s.clk.cfg.src)
  match x with
  | none => { s with clk := k }
  | some t =>
    if changed && c.src = 1 then { s with clk := { k with chgAt := some t, fly := 0 } }
    else if changed then
      { s with clk := { k with srcNow := 0, fly := 0, relocking := false, toFb := false, due := none, chgAt := none,
                               gridFrom := t + 1 } }
    else { s with clk := k }

/-- TICK_CTRL.APPLY (R16). -/
def tickApplyEff (s : State) : State :=
  if anyActive s || !cfgOk (cfgReg s) then setEvt { s with clk := { s.clk with cfgRej := true } } tickPg 9
  else if tickEn s then { s with clk := { s.clk with cfgRej := false, wait := some (cfgReg s) } }
  else takeForce { s with clk := { s.clk with cfgRej := false } } (cfgReg s) none

def execTickApply (s : State) : Out := .next (pfDo s (tickApplyEff))

/-- A write of TICK_CTRL.EN (R16, R17, R19, R21, R23). While EN is 0, SRC_NOW keeps the last source; a relock does not outlast EN, and one
that is asked for while EN is 0 ends when EN is set and the source is chosen anew (DESIGN CHOICE: log entry 69). -/
def tickCtrlEnEff (en : Bool) (s : State) : State :=
  if en then
    if tickEn s then s
    else
      let s1 := wf s (tickPg + 0x124) 0 1 1
      { s1 with clk := { s1.clk with
          ivals := [], lastEdge := none, fbEdge := none, lastIn := none, due := none, phaseIn := none, toFb := false
          relocking := false, fly := 0
          enAt := s1.clk.tb, gridFrom := s1.clk.tb, chgAt := none
          srcNow := s1.clk.cfg.src, run := decide (s1.clk.cfg.src = 0) } }
  else if !tickEn s then s
  else if anyActive s then setEvt s tickPg 9
  else
    let s1 := wf s (tickPg + 0x124) 0 1 0
    let s2 := { s1 with clk := { s1.clk with
      run := false, fly := 0, relocking := false, toFb := false, due := none, lastEdge := none, fbEdge := none, chgAt := none
      phase := .stopped, cutDone := false } }
    match s2.clk.wait with
    | some c => takeForce s2 c none
    | none => s2

def execTickCtrlEn (en : Bool) (s : State) : Out := .next (pfDo s (tickCtrlEnEff en))

/-- TICK_CTRL.RELOCK: only while SRC_NOW is 3 (R22). -/
def relockEff (s : State) : State :=
  if s.clk.srcNow = 3 then { s with clk := { s.clk with relocking := true, phaseIn := none } } else s

def execRelock (s : State) : Out := .next (pfDo s (relockEff))

/-! ## TICK_IN -/

/-- A TICK_IN edge is accepted at `t` (R18-R20): it makes a device edge due 200 ns later, gives an interval where the last device
edge came from an accepted edge, and ends a flywheel run: SRC_NOW is 1 again from the acceptance on, not from the device edge 200 ns
later (DESIGN CHOICE: log entry 14). -/
def acceptIn (s : State) (t : Int) : State :=
  let k := s.clk
  let iv := match k.lastIn with
    | some t0 => ((t - t0).toNat / uNs) :: k.ivals.take 15
    | none => k.ivals
  let s1 := { s with clk := { k with
    due := some (t + 200 * uNs), dueIn := t, inTs := t, ivals := iv, fly := 0,
    srcNow := if k.srcNow = 2 then 1 else k.srcNow } }
  if k.fly = 0 then s1 else setEvt s1 tickPg 3

/-- A TICK_IN edge outside the window (R18). -/
def rejectIn (s : State) : State := setEvt (bump s tickPg 0x160) tickPg 0

/-- Inside [E + 0.999 P, E + 1.001 P] (R18). -/
def inWin (s : State) (e t : Int) : Bool :=
  decide (e + perNow s ≤ t + perNow s / 1000) && decide (t ≤ e + perNow s + perNow s / 1000)

/-- What a TICK_IN rising edge at `t` does, once past the 100 ns filter (R18, R21-R23, R475). (DEDUCED: log entry 14.) -/
def tickInAt (s : State) (t : Int) : State :=
  let k := s.clk
  if !tickEn s then s
  else if k.srcNow = 3 then (if k.relocking then { s with clk := { k with phaseIn := some t } } else s)
  else if k.srcNow = 0 then
    (if k.cfg.src = 1 ∧ k.chgAt.isSome ∧ k.due.isNone then acceptIn s t else s)
  else if k.toFb then s
  else match k.due with
  | some e => if inWin s e t then acceptIn s t else rejectIn s
  | none =>
    match k.lastEdge with
    | none => acceptIn s t
    | some e => if inWin s e t then acceptIn s t else rejectIn s

/-- A TICK_IN rising edge at timebase `time` ns after `high` ns of high level (R18). (DEDUCED: log entry 14.) -/
def tickInEdgeEff (time high : Nat) (s : State) : State :=
  if high < 100 then s else tickInAt (toTb s (time * uNs)) (toTb s (time * uNs)).clk.tb

def execTickInEdge (time high : Nat) (s : State) : Out := .next (tickInEdgeEff time high s)

/-- 64·P without an accepted TICK_IN edge since EN or since a change to TICK_IN (R23, R475). (DEDUCED: log entry 14.) -/
def fallbackAt (s : State) : Option Int :=
  if !tickEn s || s.clk.due.isSome then none
  else if s.clk.srcNow = 1 ∧ s.clk.lastEdge.isNone then some (s.clk.enAt + 64 * perNow s)
  else match s.clk.chgAt with
  | some x => if s.clk.srcNow = 0 then some (x + 64 * perNow s) else none
  | none => none

def fallbackTimeoutEff (s : State) : State :=
  match fallbackAt s with
  | none => s
  | some t =>
    let s1 := toTbI s t
    setEvt { s1 with clk := { s1.clk with srcNow := 3, run := true, fbEdge := some (gridNext s1 t), chgAt := none, ivals := [] } } tickPg 2

def execFallbackTimeout (s : State) : Out := .next (fallbackTimeoutEff s)

/-! ## The clock at a device edge -/

/-- The source's part of an edge at `t` (R18, R20-R23, R475). -/
def edgeSource (s : State) (fly : Bool) : State :=
  let k := s.clk
  if fly then
    let s1 := bump { s with clk := { k with fly := k.fly + 1, srcNow := 2, lastIn := none, toFb := decide (64 ≤ k.fly + 1) } }
      tickPg 0x164
    if k.fly = 0 then setEvt s1 tickPg 1 else s1
  else match k.due with
  | some _ =>
    let s1 := { s with clk := { k with due := none, lastIn := some k.dueIn, srcNow := 1, chgAt := none } }
    if k.lastEdge.isNone ∨ k.srcNow = 0 then setEvt s1 tickPg 3 else s1
  | none =>
    if k.toFb then
      setEvt { s with clk := { k with toFb := false, srcNow := 3, lastIn := none, ivals := [] } } tickPg 2
    else if k.srcNow = 3 ∧ k.relocking then
      if (relockMove s ((fallbackNext s).getD 0)).2 < 1000 * uNs then
        setEvt { s with clk := { k with srcNow := 1, relocking := false, fly := 0, lastIn := none } } tickPg 3
      else { s with clk := { k with lastIn := none } }
    else { s with clk := { k with lastIn := none } }

/-- The operating point chosen by Sirvi takes effect (R24, R417). -/
def edgeOp (s : State) : State :=
  match s.clk.opNext with
  | none => s
  | some (p, thermal) =>
    let s1 := { s with clk := { s.clk with op := p, opNext := none } }
    if thermal && decide (s.clk.cfg.opfloor < p) && decide (s.clk.op < p) then setEvt s1 tickPg 7 p else s1

/-- The clock at a device edge at `t` (R17, R25, R475): TICK_NUM, TICK_LEN and the cycle count, the source, a waiting TICK_CFG copy,
the operating point, TICK_OUT. TICK_CYCLE and TICK_LEN count the time since the last edge, whatever stopped in between: before the first
edge since reset, since the reset. (DESIGN CHOICE: log entry 14.) -/
def edgeClk (s : State) (t : Int) (fly : Bool) : State :=
  let s1 := toTbI s t
  let s2 := { s1 with clk := { s1.clk with
    len := cycNow s1, num := if s1.clk.seen then (s1.clk.num + 1) % 2 ^ 64 else 0, seen := true, cyc := 0 } }
  let s3 := edgeSource s2 fly
  let x : Int := s3.clk.tb
  let s4 := { s3 with clk := { s3.clk with
    lastEdge := some x, fbEdge := none, gridFrom := x + 1, run := true, phase := .dispatch, cutDone := false, tickOut := some x } }
  let s5 := match s4.clk.wait with
    | some c => takeForce s4 c (some x)
    | none => s4
  edgeOp s5

end Sys2Proof.Machine
end

