-- ==== Sys2Proof/Machine/Ingest.lean ====
section
/-!
DEFINITION. Stream records (11_ingest R311-R328, R340): ring indices, the checks in their order, sequence and timestamp tracking,
sensor groups, and the ingest cut-off.
-/
namespace Sys2Proof.Machine

/-! ## Rings (R311, R312) -/

/-- A ring configuration word: EN set, LOGN and LOGSZ in range. -/
def ringOn (w : Nat) : Bool := bitAt w 31 && decide (4 ≤ fld w 16 5) && decide (fld w 16 5 ≤ 20) && decide (8 ≤ fld w 0 5) && decide (fld w 0 5 ≤ 16)
def ringN (w : Nat) : Nat := 2 ^ fld w 16 5
def ringSz (w : Nat) : Nat := 2 ^ fld w 0 5

/-- A producer index that R312 lets the host write: not behind the current one, and not more than the ring beyond the consumer's. -/
def piOk (cfg old ci v : Nat) : Bool := decide (0 ≤ sdiff v old) && decide ((v + 2 ^ 32 - ci % 2 ^ 32) % 2 ^ 32 ≤ ringN cfg)

/-- ING_PI (R312). -/
def ingPiEff (n : Nat) (v : Word) (s : State) : State :=
  if piOk (rdN s (ingPg n + 0x108)) (rdN s (ingPg n + 0x10C)) (rdN s (ingPg n + 0x110)) v.toNat then wr s (ingPg n + 0x10C) v
  else setEvt s (ingPg n) 0

/-- EM_CI: R312 with the roles exchanged, so the consumer index moves forward and not beyond the producer's. -/
def emCiEff (n : Nat) (v : Word) (s : State) : State :=
  if 0 ≤ sdiff v.toNat (rdN s (ingPg n + 0x130)) ∧
      (rdN s (ingPg n + 0x12C) + 2 ^ 32 - v.toNat) % 2 ^ 32 ≤ ringN (rdN s (ingPg n + 0x128)) then wr s (ingPg n + 0x130) v
  else setEvt s (ingPg n) 0

def execIngPi (r : Requester) (n : Fin 16) (v : Word) (s : State) : Out := .next (hostWr s r (ingPg n + 0x10C) (ingPiEff n v))
def execEmCi (r : Requester) (n : Fin 16) (v : Word) (s : State) : Out := .next (hostWr s r (ingPg n + 0x130) (emCiEff n v))

/-! ## CRC-32C and codecs (R316, R317) -/

def crcBit (c : Nat) : Nat := if c % 2 = 1 then Nat.xor (c / 2) 0x82F63B78 else c / 2
def crcByte (c : Nat) (b : Byte) : Nat := (List.range 8).foldl (fun c _ => crcBit c) (Nat.xor c b.toNat)

/-- CRC-32C of a byte list. -/
def crc32c (bs : List Byte) : Nat := Nat.xor (bs.foldl crcByte 0xFFFFFFFF) 0xFFFFFFFF

/-- Bytes of a sample of an inner codec; 0 for any other code. -/
def codecW : Nat → Nat
  | 1 => 2 | 2 => 3 | 3 => 4 | 4 => 4 | 5 => 4 | 6 => 1 | 7 => 1 | _ => 0

/-- The G.711 16-bit linear value of a μ-law byte. -/
def muLaw (b : Nat) : Int :=
  let u := 255 - b % 256
  let t : Int := ((fld u 0 4 * 8 + 132) * 2 ^ fld u 4 3 : Nat)
  if bitAt u 7 then 132 - t else t - 132

/-- The G.711 16-bit linear value of an A-law byte. -/
def aLaw (b : Nat) : Int :=
  let u := Nat.xor (b % 256) 0x55
  let m := fld u 0 4 * 16
  let t : Int := if fld u 4 3 = 0 then ((m + 8 : Nat) : Int) else (((m + 264) * 2 ^ (fld u 4 3 - 1) : Nat) : Int)
  if bitAt u 7 then t else -t

/-- i / 2^k as an FP32 word; exact for the codecs' ranges. -/
def fracWord (i : Int) (k : Nat) : Nat := rne32 (.fin (decide (i < 0)) i.natAbs (-(k : Int)))

/-- One sample as an FP32 word (R317). -/
def decSample (codec v : Nat) : Nat :=
  match codec with
  | 1 => fracWord (sx 16 v) 15
  | 2 => fracWord (sx 24 v) 23
  | 3 => fracWord (sx 24 (v / 256)) 23
  | 4 => fracWord (sx 24 v) 23
  | 5 => v
  | 6 => fracWord (muLaw v) 15
  | _ => fracWord (aLaw v) 15

/-- Interleaved samples by channel. -/
def decAudio (codec chans n : Nat) (bs : List Byte) : List (List Nat) :=
  let w := codecW codec
  (List.range chans).map fun c => (List.range n).map fun i => decSample codec (pf bs ((i * chans + c) * w) w)

/-! ## A record -/

def rcFlags (r : List Byte) : Nat := pf r 3 1
def rcHandle (r : List Byte) : Nat := fld (pf r 4 4) 0 20
def rcSeq (r : List Byte) : Nat := pf r 8 4
def rcChans (r : List Byte) : Nat := pf r 0x15 1
def rcPlen (r : List Byte) : Nat := pf r 0x1A 2
def rcBase (r : List Byte) : Nat := fld (rcFlags r) 4 4
def rcDisc (r : List Byte) : Bool := bitAt (rcFlags r) 0
def rcAug (r : List Byte) : Bool := bitAt (rcFlags r) 1

/-- Payload bytes that the device reads with an entry size (R313). -/
def rcRead (sz : Nat) (r : List Byte) : Nat := min (rcPlen r) (sz - 32)
def rcPay (r : List Byte) : List Byte := padTo (rcPlen r) 0 (r.drop 32)

/-- Check 1 on the bytes of an entry of `sz` bytes. -/
def rcOk1 (sz : Nat) (r : List Byte) : Bool :=
  pf r 0 2 = 0x7C5A && pf r 2 1 = 1 && decide (rcPlen r ≤ sz - 32) &&
    crc32c (padTo 0x1C 0 r ++ [0, 0, 0, 0] ++ rcPay r) = pf r 0x1C 4

/-- The timestamp of an RTP packet, whatever else of it does not map (R319, R321). -/
def rtpTs (pk : List Byte) : Option Nat := if pk.length < 8 then none else some (beNat ((pk.drop 4).take 4))

/-- An RTP packet (R319): inner codec, audio bytes, timestamp, SSRC; none where it does not parse or map. -/
def rtp (p pk : List Byte) : Option (Nat × List Byte × Nat × Nat) :=
  let b0 := pf pk 0 1
  let h0 := 12 + 4 * fld b0 0 4
  let ext := bitAt b0 4
  let h1 := if ext then h0 + 4 + 4 * beNat ((pk.drop (h0 + 2)).take 2) else h0
  let pad := if bitAt b0 5 then pf pk (pk.length - 1) 1 else 0
  if decide (pk.length < 12) || fld b0 6 2 ≠ 2 || (ext && decide (pk.length < h0 + 4)) || decide (pk.length < h1 + pad) then none
  else
    let pt := fld (pf pk 1 1) 0 7
    match (List.range 4).find? fun i => pf p (32 + 2 * i) 1 = pt with
    | none => none
    | some i =>
      let k := pf p (33 + 2 * i) 1
      if codecW k = 0 then none
      else some (k, (pk.drop h1).take (pk.length - h1 - pad), beNat ((pk.drop 4).take 4), beNat ((pk.drop 8).take 4))

/-- The payload without an augmentation trailer, and the trailer (R340). -/
def rcBody (r : List Byte) : List Byte := if rcAug r then (rcPay r).take (rcPlen r - 16) else rcPay r
def rcTrail (r : List Byte) : List Byte := (rcPay r).drop (rcPlen r - 16)

/-- The trailer fails check 4: a gain that is not finite, or a reserved byte not zero. -/
def trailBad (t : List Byte) : Bool := isNan (pf t 0 4) || isInf (pf t 0 4) || pf t 8 8 ≠ 0

/-- What checks 4 to 7 make of a record: a concealment cause, the timestamp when known, the SSRC, and the samples. -/
structure Judged where
  cause : Option Nat := none
  ts    : Option Nat := none
  ssrc  : Option Nat := none
  x     : List (List Nat) := []
  aug   : List Nat := []

/-- A source of a stream. -/
def srcOf (x : Strm) (base : Nat) : Option Src := x.inp.srcs.find? fun k => k.base = base
def setSrc (x : Strm) (k : Src) : Strm :=
  { x with inp := { x.inp with srcs := (x.inp.srcs.filter fun y => y.base ≠ k.base) ++ [k] } }

/-- Channels that two sources share (R326). -/
def srcClash (x : Strm) (base chans : Nat) : Bool :=
  x.inp.srcs.any fun k => k.base ≠ base && decide (k.base < base + chans) && decide (base < k.base + k.chans)

/-- How a record stands in its source's sequence (R321): baseline, old, in order or a gap of d, resync. -/
inductive SeqKind where
  | base | old | gap (d : Nat) | resync (d : Nat)
  deriving DecidableEq, Repr

def seqKind (k : Option Src) (disc : Bool) (seq gap : Nat) : SeqKind :=
  match k.bind fun k => k.seq with
  | none => .base
  | some e =>
    if disc then .base
    else
      let d := sdiff seq e
      if d < 0 then .old else if d ≤ gap then .gap d.toNat else .resync d.toNat

/-- The timestamp expected d + 1 chunks after the last one (R322). -/
def tsExpect (s : State) (p : List Byte) (last d : Nat) : Nat :=
  if pfTs1 p then (last + (d + 1) * chunkLen s (rateHz (pfRateC p))) % 2 ^ 32 else last + (d + 1) * perNs s

/-- Check 6 (R322): too far from the expected timestamp, or, in device ns, later than the timebase. -/
def tsBad (s : State) (p : List Byte) (ts e : Nat) : Bool :=
  if pfTs1 p then decide (pfTol p * rateHz (pfRateC p) < (sdiff ts e).natAbs * 1000000)
  else decide (1000 * pfTol p < (ts - e) + (e - ts)) || decide (tbNs s < ts)

/-- JD_FLAGS.ADAPT of a stream's job. -/
def jobAdapt (s : State) (x : Strm) : Bool := bitAt (jdReg s x.part x.job 0x14) 0

/-- Check 4 apart from RTP. -/
def fmtBad (s : State) (x : Strm) (p r : List Byte) : Bool :=
  let chOk := if pfGroup p then decide (1 ≤ rcChans r) && decide (rcBase r + rcChans r ≤ pfChans p) && !srcClash x (rcBase r) (rcChans r)
              else rcChans r = pfChans p && rcBase r = 0
  !pfEn p || pfJob p ≠ x.job || fld (rcFlags r) 2 2 ≠ 0 || pf r 0x17 1 ≠ 0 || pf r 0x14 1 ≠ pfCodec p || !chOk ||
    pf r 0x16 1 ≠ pfRateC p || (rcAug r && !jobAdapt s x) || (rcAug r && decide (16 ≤ rcPlen r) && trailBad (rcTrail r))

/-- Checks 4 to 7 of a record of stream `h`, whose source stands in `k` (R320). (DEDUCED: log entry 48.) -/
def judge (s : State) (h : Nat) (r : List Byte) (k : Option Src) (kind : SeqKind) : Judged :=
  let x := strm s h
  let p := profOf s h
  let isRtp := pfCodec p = 0x10
  let pk := if isRtp then rtp p (rcBody r) else none
  let ssrcOld := if kind = .base && rcDisc r then none else k.bind fun k => k.ssrc
  let rtpBad := isRtp && (match pk with
    | none => true
    | some (_, _, _, q) => (match ssrcOld with | some o => o ≠ q | none => false))
  let ts := if isRtp then rtpTs (rcBody r) else some (pf r 0xC 8)
  let codec := match pk with | some q => q.1 | none => pfCodec p
  let audio := match pk with | some q => q.2.1 | none => rcBody r
  let ssrc := pk.map fun q => q.2.2.2
  let hz := rateHz (pfRateC p)
  let nc := chunkLen s hz
  if fmtBad s x p r || rtpBad then { cause := some 1, ts := ts }
  else if (rcAug r && decide (rcPlen r < 16)) || !chunkWhole s hz || pf r 0x18 2 ≠ nc ||
      audio.length ≠ nc * rcChans r * codecW codec then { cause := some 2, ts := ts, ssrc := ssrc }
  else
    let late := match kind, k.bind (fun k => k.ts), ts with
      | .gap d, some l, some t => tsBad s p t (tsExpect s p l d)
      | _, _, _ => false
    let xs := decAudio codec (rcChans r) nc audio
    if late then { cause := some 3, ts := ts, ssrc := ssrc }
    else if codec = 5 && xs.any (fun c => c.any fun w => isNan w || isInf w || decide (0x3F800000 < w % 2 ^ 31)) then
      { cause := some 4, ts := ts, ssrc := ssrc }
    else
      { ts := ts, ssrc := ssrc, x := xs
        aug := if rcAug r then let t := rcTrail r; [pf t 0 4, pf t 4 1, pf t 5 1, pf t 6 1, pf t 7 1] else [] }

/-! ## What a record does (R313, R314, R320) -/

/-- The record of entry `i` is discarded; `bad` for check 1. (DEDUCED: log entry 48.) -/
def discardRec (s : State) (n i : Nat) (bad : Bool) : State :=
  let s1 := retireIdx (bump s (ingPg n) (if bad then 0x200 else 0x204)) n i
  let s2 := if partParty s n = 0 then s1 else bump s1 (ptyPg (partParty s n)) (if bad then 0x180 else 0x184)
  if bad then setEvt s2 (ingPg n) 1 i else s2

/-- Check 2. -/
def handleBad (s : State) (n : Nat) (r : List Byte) : Bool :=
  let h := rcHandle r
  pf r 4 4 ≠ h || h = 0 || (strm s h).st = .free || (strm s h).st = .closed || (strm s h).part ≠ n || portFed s h

/-- The tick that a record read now is meant for: settled at the first cut-off whose ING_PI its entry stood below (R313). -/
def recTick (s : State) (n i : Nat) : Nat × Bool :=
  match (ing s n).cuts.find? fun q => decide (sdiff i q.1 < 0) with
  | some q => (q.2, true)
  | none => (numAfter s (if s.clk.cutDone then 2 else 1), false)

/-- Silence on every channel of a profile (R324). -/
def silence (s : State) (p : List Byte) : List (List Nat) :=
  List.replicate (pfChans p) (List.replicate (chunkLen s (rateHz (pfRateC p))) 0)

/-- A source after a record has been accepted or concealed (R319, R321, R327). -/
def srcAfter (s : State) (p r : List Byte) (k : Option Src) (kind : SeqKind) (j : Judged) : Src :=
  let o : Src := k.getD { base := rcBase r, chans := rcChans r }
  let last := match j.ts with
    | some t => some t
    | none => (match kind, o.ts with | .gap d, some l => some (tsExpect s p l d) | _, _ => none)
  let ss := if kind = .base && rcDisc r then none else o.ssrc
  let newBase := match kind with | .base => true | .resync _ => true | _ => false
  { o with
    chans := rcChans r, seq := some ((rcSeq r + 1) % 2 ^ 32), ts := last
    ssrc := if j.cause.isNone && ss.isNone then j.ssrc else ss
    ancA := if newBase then tbNs s else o.ancA
    ancR := if newBase then j.ts.getD 0 else o.ancR }

/-- Add a chunk to a stream's queue; while BAD is set it goes with a "faulted" event (R209), once an export is written with a "dropped" one
(R210). -/
def pushChunk (s : State) (h : Nat) (c : Chunk) : State :=
  if (strm s h).bad then badChunk h s c
  else if (strm s h).st = .moving && (strm s h).done = .closed then dropChunk s h c
  else
    let n := (strm s h).part
    let k := (ing s n).count
    modStrm (modIng s n fun g => { g with count := k + 1 }) h fun x => { x with queue := x.queue ++ [{ c with at_ := k }] }

/-- The entries of records that a source gives up retire (R314). -/
def retireRecs (s : State) (n : Nat) (l : List SrcRec) : State := each s (l.flatMap fun a => a.idx) fun s i => retireIdx s n i

/-! ## Groups (R326-R328) -/

/-- The cut-off of the coming edge in ns (R26). -/
def cutNs (s : State) : Option Int := (predicted s).map fun t => t / uNs - 200000

/-- The start of the window [c − D − P, c − D) of a cut-off at `c` ns. -/
def winStart (s : State) (p : List Byte) (c : Int) : Int := c - 1000000 * pfDelay p - perNs s

/-- The start of the next window that a group stream's chunk covers. -/
def nextWin (s : State) (h : Nat) : Option Int :=
  (cutNs s).map fun c =>
    winStart s (profOf s h) c + (if s.clk.cutDone || (strm s h).inp.gtick = some (numAfter s 1) then (perNs s : Int) else 0)

/-- Device time of a source's sample with timestamp `ts` (R327). -/
def devTime (p : List Byte) (k : Src) (ts : Nat) : Int :=
  if pfTs1 p then k.ancA + sdiff ts k.ancR * 1000000000 / rateHz (pfRateC p) else ts

/-- Samples end before the window, or begin more than 80 ms after its end (R327). -/
def outOfWin (s : State) (hz : Nat) (w t : Int) (n : Nat) : Bool :=
  decide (t + (n * 1000000000 / hz : Nat) ≤ w) || decide (w + perNs s + 80000000 < t)

/-- The samples of a group's record with its gain (R329). -/
def gained (j : Judged) : List (List Nat) := match j.aug with | g :: _ => j.x.map fun c => c.map fun w => f32Mul w g | [] => j.x

/-- A record of a group source, past check 3. -/
def groupRec (s : State) (n i h : Nat) (r : List Byte) (k : Src) (j : Judged) : State :=
  let p := profOf s h
  if j.cause.isSome then retireIdx s n i
  else
    let t := devTime p k (j.ts.getD 0)
    let out := match nextWin s h with
      | some w => outOfWin s (rateHz (pfRateC p)) w t (pf r 0x18 2)
      | none => false
    if out then retireIdx (bump s (ingPg n) 0x204) n i
    else modStrm s h fun x => setSrc x { k with recs := k.recs ++ [{ seq := rcSeq r, t := t, x := gained j, idx := [i], mask := j.aug.drop 1 }] }

/-- The records of a source from the one that holds `w` on, with no break in sequence. -/
def chain : List SrcRec → List SrcRec
  | [] => []
  | [a] => [a]
  | a :: b :: l => if b.seq = (a.seq + 1) % 2 ^ 32 then a :: chain (b :: l) else [a]

/-- What a channel gives over a window: the samples of its times, the window's start before the first of them in 10^-9 input samples, the
rate's drift in ppb, and the masks of the records (R327, R329, R340, R353). -/
structure Win where
  x     : List Nat := []
  phi   : Nat := 0
  drift : Int := 0
  masks : List (List Nat) := []

/-- One channel of a source over a window of `n` samples from `w` on; none when it does not cover it (R327). -/
def windowOf (hz n : Nat) (w : Int) (recs : List SrcRec) (c : Nat) : Option Win :=
  let l := chain (recs.dropWhile fun a => decide (a.t + ((a.x.headD []).length * 1000000000 / hz : Nat) ≤ w))
  match l with
  | [] => none
  | a :: _ =>
    if w < a.t then none
    else
      let pos := ((w - a.t) * hz).toNat
      let ph := pos % 1000000000
      let ys := ((l.flatMap fun b => nth [] b.x c).drop (pos / 1000000000 + b2n (ph ≠ 0))).take n
      if ys.length = n then
        some { x := ys, phi := ph, masks := (l.filter fun b => b.mask ≠ [] && decide (b.t < w + (n * 1000000000 / hz : Nat))).map fun b => b.mask }
      else none

/-- The source of a channel. -/
def chanSrc (x : Strm) (c : Nat) : Option Src := x.inp.srcs.find? fun k => decide (k.base ≤ c) && decide (c < k.base + k.chans)

/-- What feeds channel `c` of a group over the window from `w` on: a port slot that passes check 4 (12 R353) or a source of records. -/
def chanWin (s : State) (h c : Nat) (w : Int) : Option Win :=
  let q := profOf s h
  let hz := rateHz (pfRateC q)
  match chanPort s h c with
  | some (p, i) => (match portWin s p i w (w + perNs s) with
      | some (xs, ph, non) =>
        if non || pfRateC q ≠ pcRate (pCfg s p) || pfCodec q ≠ pcPack (pCfg s p) + 1 || pfJob q ≠ (strm s h).job then none
        else some { x := xs, phi := ph, drift := portDrift s p }
      | none => none)
  | none => (chanSrc (strm s h) c).bind fun q => windowOf hz (chunkLen s hz) w q.recs (c - q.base)

/-- Every source of a group covers the window. -/
def covered (s : State) (h : Nat) (w : Int) : Bool :=
  let p := profOf s h
  let hz := rateHz (pfRateC p)
  (strm s h).inp.srcs.all (fun k => (windowOf hz (chunkLen s hz) w k.recs 0).isSome) &&
    (List.range (pfChans p)).all fun c => (chanPort s h c).isNone || (chanWin s h c w).isSome

/-- The group's chunk for tick `k` over the window from `w` on (R327, R328). -/
def releaseGroup (s : State) (h k : Nat) (w : Int) : State :=
  let x := strm s h
  let p := profOf s h
  let hz := rateHz (pfRateC p)
  let nc := chunkLen s hz
  let chs := (List.range (pfChans p)).map fun c => chanWin s h c w
  let miss := chs.zipIdx.foldl (fun m q => if q.1.isNone then m + 2 ^ q.2 else m) 0
  let gone (a : SrcRec) : Bool := decide (a.t + ((a.x.headD []).length * 1000000000 / hz : Nat) ≤ w + perNs s)
  let idx := x.inp.srcs.flatMap fun q => (q.recs.filter gone).flatMap fun a => a.idx
  let c : Chunk := { tick := k, pres := true, idx := idx, seq := x.inp.pseq, ts := (w % 2 ^ 64).toNat, miss := miss, grp := true
                     x := chs.map fun q => (q.map fun z => z.x).getD (List.replicate nc 0)
                     phi := chs.map fun q => (q.getD {}).phi, drift := chs.map fun q => (q.getD {}).drift
                     masks := chs.map fun q => (q.getD {}).masks }
  let s1 := modStrm s h fun x => { x with inp := { x.inp with
    pseq := (x.inp.pseq + 1) % 2 ^ 32, gtick := some k, srcs := x.inp.srcs.map fun q => { q with recs := q.recs.filter fun a => !gone a } } }
  let s2 := pushChunk s1 h c
  if miss = 0 then s2 else strmEvent s2 h 7 0 miss k (w % 2 ^ 64).toNat

/-- The stream gathers a group's chunks: its first record has come, or a port feeds it. -/
def grouping (s : State) (h : Nat) : Bool :=
  pfGroup (profOf s h) && pfEn (profOf s h) && (!(strm s h).inp.srcs.isEmpty || portGives s h) && (strm s h).st ≠ .free && (strm s h).st ≠ .closed

/-- GROUP_CHUNK_RELEASE (R328): every source covers the window before the cut-off. -/
def groupChunkReleaseEff (n h : Nat) (s : State) : State :=
  match cutNs s with
  | none => s
  | some c =>
    let w := winStart s (profOf s h) c
    let k := numAfter s 1
    if activeSt (part s n).st && (strm s h).part = n && grouping s h && !s.clk.cutDone && (strm s h).inp.gtick ≠ some k && covered s h w
    then releaseGroup s h k w else s

def execGroupChunkRelease (n : Fin 16) (h : BitVec 20) (s : State) : Out := .next (groupChunkReleaseEff n h.toNat s)

/-! ## INGEST_RECORD -/

/-- A record past check 2. -/
def takeRec (s : State) (n i : Nat) (r : List Byte) : State :=
  let h := rcHandle r
  let p := profOf s h
  let base := if pfGroup p then rcBase r else 0
  let k := srcOf (strm s h) base
  let kind := seqKind k (rcDisc r) (rcSeq r) (pfGap p)
  if kind = .old then discardRec s n i false
  else
    let j := judge s h r k kind
    let q := { srcAfter s p r k kind j with base := base }
    let t := recTick s n i
    let ts := match j.ts with | some z => z | none => q.ts.getD 0
    let s1 := match kind with
      | .gap d => if d = 0 then s else strmEvent s h 6 0 d t.1 ts
      | .resync d => strmEvent s h 6 0 d t.1 ts
      | .base => s
      | .old => s
    let q' := match kind with | .base => { q with recs := [] } | _ => q
    let s2 := modStrm (if q'.recs.isEmpty then retireRecs s1 n q.recs else s1) h fun x => setSrc x q'
    if pfGroup p then groupRec s2 n i h r q' j
    else
      pushChunk s2 h
        { tick := t.1, pres := t.2, idx := [i], seq := rcSeq r, ts := ts, conc := j.cause
          x := if j.cause.isSome then silence s p else j.x, gain := j.aug.head?
          masks := if j.aug = [] then [] else List.replicate (pfChans p) [j.aug.drop 1] }

/-- INGEST_RECORD (R313, R315, R320): the entry at the read position is read and judged. (DEDUCED: log entry 48.) -/
def ingestRecordEff (n : Nat) (rec : Option (List Byte)) (s : State) : State :=
  let cfg := rdN s (ingPg n + 0x108)
  let i := (ing s n).rd
  if activeSt (part s n).st && ringOn cfg && i ≠ rdN s (ingPg n + 0x10C) then
    let s1 := modIng s n fun g => { g with rd := (i + 1) % 2 ^ 32 }
    match rec with
    | none => discardRec (hostReadErr s1 (partFn s1 n)) n i true
    | some r =>
      let s2 := charge s1 n fun a => { a with hostIn := a.hostIn + 32 + rcRead (ringSz cfg) r }
      if !rcOk1 (ringSz cfg) r then discardRec s2 n i true
      else if handleBad s2 n r then discardRec s2 n i false
      else takeRec s2 n i r
  else s

def execIngestRecord (n : Fin 16) (rec : Option (List Byte)) (s : State) : Out := .next (ingestRecordEff n rec s)

/-! ## The cut-off of a partition (R26, R323, R328) -/

/-- A fill chunk for an OPEN or ACTIVE stream with none queued (R323); before any record its sequence and timestamp are not stated. (DEDUCED: log entry 48.) -/
def fillChunk (s : State) (n h k : Nat) : State :=
  let x := strm s h
  let p := profOf s h
  if (x.st = .opn || x.st = .active) && x.queue.isEmpty && !pfGroup p && !portFed s h && (pfAuto p || steadyOf s n) then
    match srcOf x 0 with
    | some q =>
      let ts := q.ts.map fun l => tsExpect s p l 0
      let sq := q.seq.getD 0
      let s1 := modStrm s h fun x => setSrc x { q with seq := some ((sq + 1) % 2 ^ 32), ts := ts }
      pushChunk s1 h { tick := k, pres := true, seq := sq, ts := ts.getD 0, conc := some 5, x := silence s p }
    | none =>
      let f := fresh s
      pushChunk f.2 h { tick := k, pres := true, seq := f.1 % 2 ^ 32, ts := f.1 / 2 ^ 32 % 2 ^ 64, conc := some 5, x := silence s p }
  else s

/-- The ingest part of the cut-off for tick `k` of partition `n`: what is present is settled, groups and fills are formed. (DEDUCED: log entry 48.) -/
def cutoffPart (s : State) (n k : Nat) : State :=
  let pi := rdN s (ingPg n + 0x10C)
  let live := (ing s n).cuts.filter fun q => decide (sdiff (ing s n).rd q.1 < 0)
  let last := match live.getLast? with | some q => q.1 | none => (ing s n).rd
  let s1 := modIng s n fun g => { g with cuts := live ++ (if sdiff last pi < 0 then [(pi, k)] else []) }
  each s1 (strmsOf s1 n) fun s h =>
    let s := modStrm s h fun x => { x with queue := x.queue.map fun c => if c.pres then c else { c with tick := k, pres := true } }
    if grouping s h then
      match cutNs s with
      | some c => if (strm s h).inp.gtick = some k then s else releaseGroup s h k (winStart s (profOf s h) c)
      | none => s
    else fillChunk s n h k

/-- A chunk that is present for tick `k` or an earlier one and not processed, or an entry present and not read (R336). -/
def feMissed (s : State) (n : Nat) : Bool :=
  (strmsOf s n).any (fun h => (strm s h).queue.any fun c => c.pres && !c.ready) ||
    (ringOn (rdN s (ingPg n + 0x108)) && (ing s n).cuts.any fun q => decide (sdiff (ing s n).rd q.1 < 0))

/-- FE_OVR at the edge (R336). -/
def feOverrun (s : State) (n : Nat) : State :=
  if activeSt (part s n).st && feMissed s n then setEvt (bump s (ingPg n) 0x20C) (ingPg n) 2 else s

end Sys2Proof.Machine
end

