-- ==== Sys2Proof/Machine/Summit.lean ====
section
/-!
DEFINITION. The summit register (15_sirvi R419-R423): forming and chaining of entries, the SRAM buffer, the flash sectors.
-/
namespace Sys2Proof.Machine

def modSirvi (s : State) (f : Sirvi → Sirvi) : State := { s with sirvi := f s.sirvi }
def modSummit (s : State) (f : Summit → Summit) : State := modSirvi s fun v => { v with summit := f v.summit }

/-- A mailbox command runs: a debug entry that waits for the partitions. (DEDUCED: log entry 56.) -/
def mbBusy (s : State) : Bool := s.sirvi.dbgReq.isSome

/-- An entry's length (R419). -/
def sumLen (payload : List Byte) : Nat := ceilTo (144 + payload.length) 16

/-- Bytes 0 to L − 49 of the entry formed now (R419). -/
def sumBody (s : State) (typ origin party keyid detail : Nat) (payload : List Byte) : List Byte :=
  let v := s.sirvi.summit
  natLe 2 0x534D ++ natLe 2 (sumLen payload) ++ natLe 2 typ ++ natLe 1 origin ++ natLe 1 party ++ natLe 8 v.next ++
    natLe 8 (if s.clk.tbValid then tbNs s else 0) ++ natLe 8 v.boots ++ natLe 8 keyid ++ natLe 4 detail ++ natLe 4 0 ++
    v.head ++ padTo (sumLen payload - 144) 0 payload

/-- Form and chain an entry. (DEDUCED: log entry 22.) -/
def sumAdd (s : State) (typ origin party keyid detail : Nat) (payload : List Byte) : State :=
  let b := sumBody s typ origin party keyid detail payload
  let h := padTo 48 0 (Config.sha384 b)
  modSummit s fun v => { v with buf := v.buf ++ [b ++ h], next := v.next + 1, head := h }

/-- Entries held in SRAM (R420). -/
def sumMax : Nat := 256

/-- Append an entry to the sectors, oldest first: to the last one while it has room, else to a new one, the oldest of 128 erased
(R413, R422). -/
def sectorAdd (l : List (List (List Byte))) (e : List Byte) : List (List (List Byte)) :=
  let used := (l.getLastD []).foldl (fun a x => a + x.length) 0
  if l ≠ [] ∧ used + e.length ≤ 65536 then l.dropLast ++ [l.getLastD [] ++ [e]]
  else (if 128 ≤ l.length then l.drop 1 else l) ++ [[e]]

/-- The buffered entries are written to flash; device events not recorded are told by a SUMMIT_GAP entry (R420). -/
def sumFlush (s : State) : State :=
  let s1 := modSummit s fun v => { v with buf := [], sectors := v.buf.foldl sectorAdd v.sectors }
  if s1.sirvi.summit.gap = 0 then s1
  else modSummit (sumAdd s1 0x0070 0 0 0 0 (natLe 8 s1.sirvi.summit.gap)) fun v => { v with gap := 0 }

/-- The entry of a command or key service request: it waits for space (R420). -/
def sumCmd (s : State) (typ origin party keyid detail : Nat) (payload : List Byte) : State :=
  sumAdd (if sumMax ≤ s.sirvi.summit.buf.length then sumFlush s else s) typ origin party keyid detail payload

/-- The entry of a device event: a full buffer counts it (R420). -/
def sumDev (s : State) (typ party detail : Nat) (payload : List Byte) : State :=
  if sumMax ≤ s.sirvi.summit.buf.length then modSummit s fun v => { v with gap := v.gap + 1 }
  else sumAdd s typ 0 party 0 detail payload

/-- The retained entries, oldest first (R423). -/
def sumAll (s : State) : List (List Byte) := s.sirvi.summit.sectors.flatten ++ s.sirvi.summit.buf

/-- Sequence number of an entry. -/
def sumSeq (e : List Byte) : Nat := leNat ((e.drop 8).take 8)

/-- First and last retained sequence numbers. -/
def sumFirst (s : State) : Nat := s.sirvi.summit.next - (sumAll s).length
def sumLast (s : State) : Nat := s.sirvi.summit.next - 1

/-- SUMMIT_FLUSH: the buffered entries reach flash within 100 ms. -/
def summitFlushEff (s : State) : State := if sirviUp s then sumFlush s else s

def execSummitFlush (s : State) : Out := .next (summitFlushEff s)

end Sys2Proof.Machine
end

