-- ==== Sys2Proof/Machine/LinkBase.lean ====
section
/-!
DEFINITION. Aiger link ports: their registers, flits, messages, the send queue with credit and replay, and what a port that goes
DOWN loses (14_links_belay R389-R397, R402). A flit's payload is held in clear; whether its group's tag verifies is an operand.
-/
namespace Sys2Proof.Machine

def lport (s : State) (p : Nat) : LPort := smGet {} s.lports p
def modLport (s : State) (p : Nat) (f : LPort → LPort) : State := { s with lports := smSet {} s.lports p (f (lport s p)) }

/-! ## Registers -/

/-- Offset in its direction page of the registers of a port. -/
def lkOfs (p : Nat) : Nat := 0x100 + 0x100 * (p % 5)
def lkPg (p : Nat) : Nat := lnkPg (p / 5)
def lkReg (p o : Nat) : Nat := lkPg p + lkOfs p + o

/-- LK_STAT.STATE: 0 DOWN, 1 TRAINING, 2 ATTESTING, 3 UP, 4 DISABLED. -/
def lkState (s : State) (p : Nat) : Nat := rf s (lkReg p 4) 0 3
def setLk (s : State) (p st : Nat) : State := wf s (lkReg p 4) 0 3 st
def lkUp (s : State) (p : Nat) : Bool := lkState s p = 3

/-- Add 1 to a counter of a port. -/
def lkBump (s : State) (p o : Nat) : State := bump s (lkPg p) (lkOfs p + o)

/-- The coordinate of the neighbour in a direction. -/
def nextCoord (s : State) (d : Nat) : Nat :=
  let x := myX s
  let y := myY s
  let q : Nat × Nat := match d with
    | 0 => ((x + 1) % dimX s, y)
    | 1 => ((x + dimX s - 1) % dimX s, y)
    | 2 => (x, (y + 1) % dimY s)
    | _ => (x, (y + dimY s - 1) % dimY s)
  q.1 + 16 * q.2

/-- An authentication failure (R396). -/
def lkAuthFail (s : State) (p : Nat) : State :=
  sumDev (setEvt (lkBump s p 0x2C) (lkPg p) 2 (p * 256)) 0x0050 0 (p * 256) []

/-! ## Messages (R397, R402) -/

def mkCode : MKind → Nat
  | .send => 1 | .coll => 2 | .blob => 3 | .adv => 4 | .release => 5 | .bhb => 6

def kindOf : Nat → Option MKind
  | 1 => some .send | 2 => some .coll | 3 => some .blob | 4 => some .adv | 5 => some .release | 6 => some .bhb | _ => none

/-- The virtual channel of a kind (R392). -/
def kindVc : MKind → Nat
  | .send => 1 | .coll => 0 | .blob => 2 | .adv => 2 | .release => 2 | .bhb => 2

def headBytes (h : MHead) : List Byte :=
  natLe 1 (mkCode h.kind) ++ natLe 1 (16 * h.dpart + h.spart) ++ natLe 1 h.slice ++ natLe 1 (16 * h.job + h.core) ++ natLe 4 h.len ++
    natLe 3 h.arg ++ natLe 1 h.party ++ natLe 2 h.dst ++ natLe 2 h.src

/-- A message header, where its KIND is not reserved. -/
def headOf (b : List Byte) : Option MHead :=
  (kindOf (pf b 0 1)).map fun k =>
    { kind := k, dpart := fld (pf b 1 1) 4 4, spart := fld (pf b 1 1) 0 4, slice := pf b 2 1, job := fld (pf b 3 1) 4 4,
      core := fld (pf b 3 1) 0 4, len := pf b 4 4, arg := pf b 8 3, party := fld (pf b 11 1) 0 5, dst := fld (pf b 12 2) 0 8,
      src := fld (pf b 14 2) 0 8 }

/-- Flits of a message whose body has `n` bytes. -/
def msgFlits (n : Nat) : Nat := cdiv (16 + n) 496

/-! ## Sending -/

/-- The port of a message in direction `d` from cluster `c`: 5d + (c mod 5) when it is UP, else the next UP one (R397). -/
def pickPort (s : State) (d c : Nat) : Option Nat :=
  ((List.range 5).map fun i => 5 * d + (c + i) % 5).find? fun p => lkUp s p

/-- The DATA and TAG flits of a message's bytes, groups of at most 63 closed at the message's end (R396). -/
def mkFlits (ep vc id : Nat) : Nat → Nat → Nat → Bool → List Byte → List TxFlit
  | 0, _, _, _, _ => []
  | k + 1, seq, grp, first, bs =>
    let last := decide (k = 0)
    let f : TxFlit := { seq := seq % 2 ^ 32, typ := 1, vc := vc, mstart := first, data := padTo 496 0 (bs.take 496), epoch := ep, msg := id }
    if last || grp = 62 then
      f :: { seq := (seq + 1) % 2 ^ 32, typ := 2, vc := vc, epoch := ep, msg := id, last := last } ::
        mkFlits ep vc id k (seq + 2) 0 false (bs.drop 496)
    else f :: mkFlits ep vc id k (seq + 1) (grp + 1) false (bs.drop 496)

/-- Flits leave while the replay buffer of 1,024 and, for DATA, the credit of their VC allow (R393, R394). -/
def pumpN : Nat → LPort → LPort
  | 0, x => x
  | k + 1, x =>
    match x.waitQ with
    | [] => x
    | f :: rest =>
      if 1024 ≤ x.sent.length then x
      else if f.typ = 1 then
        (if nth 0 x.cred f.vc = 0 then x
         else pumpN k { x with waitQ := rest, sent := x.sent ++ [f], cred := setNth x.cred f.vc (nth 0 x.cred f.vc - 1) })
      else pumpN k { x with waitQ := rest, sent := x.sent ++ [f] }

/-- (DEDUCED: log entry 52.) -/
def pump (x : LPort) : LPort := pumpN x.waitQ.length x

/-- A message is given to a port. -/
def sendOn (s : State) (p : Nat) (h : MHead) (body : List Byte) (owner : Nat) (fwd : Bool) : State :=
  modLport s p fun x =>
    let id := x.nMsg + 1
    let fl := mkFlits x.epoch (kindVc h.kind) id (msgFlits body.length) x.txSeq 0 true (headBytes h ++ body)
    pump { x with nMsg := id, txKey := x.txKey + fl.length, txSeq := (x.txSeq + fl.length) % 2 ^ 32, waitQ := x.waitQ ++ fl
                  msgs := x.msgs ++ [{ id := id, head := h, body := body, owner := owner, fwd := fwd }] }

/-- Flit payload of a message goes to the tick's totals of a partition's party (02_partitions_pitches R68). -/
def chargeTx (s : State) (n len : Nat) : State := charge s n fun a => { a with linkTx := a.linkTx + 496 * msgFlits len }
def chargeRx (s : State) (n len : Nat) : State := charge s n fun a => { a with linkRx := a.linkRx + 496 * msgFlits len }

/-- A message of partition `n` in direction `d` from cluster `c`; none when no port of the direction is UP. -/
def sendMsg (s : State) (n d c : Nat) (h : MHead) (body : List Byte) (owner : Nat) : Option State :=
  (pickPort s d c).map fun p =>
    chargeTx (sendOn s p { h with spart := n, len := body.length, party := partParty s n, src := myCoord s } body owner false) n body.length

/-! ## Loss and acknowledgement -/

/-- A program's transfer is abandoned with its message and counted (R394; 09_memory R259); `core` is the core whose engine made it. -/
def abandonSend (s : State) (core : Nat) : State := bump s (clPg (core / 16)) 0x18C

/-- A message is lost: its sender meets the outcome its kind defines (R394, R398, R405). (DEDUCED: log entry 52.) -/
def msgLost (s : State) (m : TxMsg) : State :=
  if m.fwd then s
  else match m.head.kind with
  | .send => jobFault (abandonSend s m.owner) m.head.spart m.head.job 7
  | .blob => modBly (bump s (partPg m.head.spart) 0x474) m.head.spart fun b => { b with again := m.owner :: b.again }
  | .coll => abandonSend s m.owner
  | .adv => s | .release => s | .bhb => s

/-- What a port holds goes; every message in flight is lost (R394). -/
def lkDrop (s : State) (p : Nat) : State :=
  let x := lport s p
  each (modLport s p fun x => { nMsg := x.nMsg, naks := x.naks, beats := x.beats }) x.msgs msgLost

/-- A port goes DOWN with a cause (R390, R393-R396). (DEDUCED: log entry 52.) -/
def lkDown (s : State) (p cause : Nat) : State :=
  let s1 := wf (wf (setLk s p 0) (lkReg p 4) 4 4 cause) (lkReg p 4) 8 8 0
  setEvt (lkBump (lkDrop s1 p) p 0x28) (lkPg p) 1 (p * 256 + cause)

/-- A flit is acknowledged by ACK: its SEQ lies before it (R392). -/
def ackedBy (ack : Nat) (f : TxFlit) : Bool :=
  let d := (ack + 65536 - f.seq % 65536) % 65536
  decide (0 < d) && decide (d ≤ 32768)

/-- ACK and CREDIT of a received flit. -/
def lkAck (x : LPort) (f : Flit) : LPort :=
  let done := (x.sent.filter fun t => ackedBy f.ack.toNat t && t.last).map fun t => t.msg
  let vc := fld f.credit.toNat 14 2
  pump { x with sent := x.sent.filter fun t => !ackedBy f.ack.toNat t
                msgs := x.msgs.filter fun m => !done.contains m.id
                cred := setNth x.cred vc (min 128 (nth 0 x.cred vc + fld f.credit.toNat 0 8)) }

/-! ## Received flits (R392, R393) -/

/-- The bytes of a received flit that its CRC covers. -/
def flitBytes (f : Flit) : List Byte :=
  [f.typ] ++ natLe 1 (f.vc.val * 64 + b2n f.nak * 32 + b2n f.mstart * 16 + f.zero.toNat) ++ natLe 4 f.seq.toNat ++
    natLe 2 f.epoch.toNat ++ natLe 2 f.ack.toNat ++ natLe 2 f.credit.toNat ++ padTo 496 0 f.payload

/-- Checks 1 and 2. -/
def flitCrcOk (f : Flit) : Bool := f.fecOk && decide (f.payload.length = 496) && decide (crc32c (flitBytes f) = f.crc.toNat)

/-- Check 3. -/
def flitLegal (f : Flit) : Bool :=
  decide (f.typ.toNat ≤ 4) && f.zero = 0 && fld f.credit.toNat 8 6 = 0 && (f.typ ≠ 1 || f.vc ≠ 3) && (f.typ ≠ 4 || f.vc = 3) &&
    (f.typ ≠ 2 || (f.payload.drop 16).all fun b => b = 0)

/-- DATA, TAG and MGMT flits are sequenced. -/
def flitSeqd (f : Flit) : Bool := f.typ = 1 || f.typ = 2 || f.typ = 4

end Sys2Proof.Machine
end

