-- ==== Sys2Proof/Machine/Collective.lean ====
section
/-!
DEFINITION. Program data on the links: LK.SEND and SEND messages, LK.COLL and COLL messages, their timeouts (14_links_belay R397-R403).
-/
namespace Sys2Proof.Machine

/-! ## Narrowing to a message's format (R401, R402) -/

/-- 64 FP32 words of a slot, narrowed: bytes, OF, NV. FMT 0 is L8, 1 BF16. -/
def narrow (fmt : Nat) (ws : List Nat) : List Byte × Bool × Bool :=
  if fmt = 0 then
    let mx := ws.foldl (fun a w => let b := f32Abs w; if f32Gt b a then b else a) 0
    let e := (expOf32 127 (-96) mx).1
    let cs := ws.map fun w => codeOf 127 e w
    (natLe 1 (lowBits 8 e) ++ cs.map (fun c => BitVec.ofNat 8 (lowBits 8 c.1)), cs.any fun c => c.2.2.1, cs.any fun c => c.2.2.2)
  else
    let cs := ws.map bfEnc
    (cs.flatMap fun c => natLe 2 c.1, cs.any fun c => c.2.1, cs.any fun c => c.2.2)

/-- Bytes of a slot in a format. -/
def slotLen (fmt : Nat) : Nat := if fmt = 0 then 65 else 128

/-- The FP32 words that a slot's bytes decode to, with OF. -/
def widen (fmt : Nat) (bs : List Byte) : List Nat × Bool :=
  if fmt = 0 then
    let e := sx 8 (leNat (bs.take 1))
    let q := ((List.range 64).map fun i => decCode (sx 8 (leNat ((bs.drop (1 + i)).take 1))) e)
    (q.map fun x => x.1, q.any fun x => x.2)
  else ((List.range 64).map fun i => bfDec (leNat ((bs.drop (2 * i)).take 2)), false)

/-- A chunk of slots narrowed, with flags. -/
def narrowAll (fmt : Nat) (l : List (List Nat)) : List Byte × Bool × Bool :=
  let q := l.map (narrow fmt)
  (q.flatMap fun x => x.1, q.any fun x => x.2.1, q.any fun x => x.2.2)

/-- A body decoded slot by slot. -/
def widenAll (fmt m : Nat) (b : List Byte) : List (List Nat) × Bool :=
  let q := (List.range m).map fun i => widen fmt ((b.drop (slotLen fmt * i)).take (slotLen fmt))
  (q.map fun x => x.1, q.any fun x => x.2)

/-- The FP32 words of a slot. -/
def slotWords (s : State) (q : Nat × Nat) : List Nat :=
  (List.range 64).map fun i => fld (slotAt s q.1 q.2).data.toNat (32 * i) 32

/-- A collective writes FP32 words to slots, FULL, but for those it no longer writes (R29). -/
def putWords (s : State) (o : NocOp) (l : List (Nat × Nat)) (ws : List (List Nat)) : State :=
  each s (l.zip ws) fun s p =>
    if o.skip.contains p.1 then s
    else countBytes (slotEff s p.1.1 p.1.2 0 (p.2.flatMap (natLe 4)) (some true)) (curPart s (p.1.1 / 16)) 256

/-- An operation reads slots (R265, R266, R69). -/
def nocRead (s : State) (l : List (Nat × Nat)) : State :=
  each (readSlots s l) l fun s q => countBytes s (curPart s (q.1 / 16)) 256

/-- Some slot is poisoned. -/
def nocBad (s : State) (l : List (Nat × Nat)) : Bool := l.any fun q => (slotAt s q.1 q.2).poison ≠ 0

/-! ## The steps of a collective (R401) -/

/-- Replace the head of a core's engine. -/
def nocHead (s : State) (core : Nat) (o : NocOp) : State :=
  { s with noc := smSet [] s.noc core (o :: (smGet [] s.noc core).drop 1) }

/-- A collective fails with cause 7 (R403). -/
def collFail (s : State) (core : Nat) (o : NocOp) : State :=
  let n := curPart s (core / 16)
  jobFault (bump (nocPop s core) (partPg n) 0x47C) n o.job 7

/-- With one device (R401): the input, or q of it. -/
def collAlone (s : State) (core : Nat) (o : NocOp) : State :=
  let ws := o.src.map fun q => slotWords s q
  if cKind o = 2 then putWords (nocPop s core) o o.dst ws
  else
    let e := narrowAll (cFmt o) ws
    let d := widenAll (cFmt o) ws.length e.1
    setFlags (putWords (nocPop s core) o o.dst d.1) core (e.2.1 || d.2) e.2.2

/-- The body of a step's message, when it comes from the input: the own chunk of an all-gather, the first chunk of a reduction. -/
def collFirst (s : State) (o : NocOp) (m j : Nat) : List Byte × Bool × Bool :=
  narrowAll (cFmt o) ((if cKind o = 1 then o.src else chunkSlots o.src m j).map fun q => slotWords s q)

/-- The message of the current step is sent; the own chunk of an all-gather is written with its first message. -/
def collSend (s : State) (core : Nat) (o : NocOp) (x n m : Nat) : State × Bool :=
  let t := o.coll.step
  let j := cChunk o n x t
  let b := if t = 0 then collFirst s o m j else (o.coll.body, false, false)
  let own := cOwn o n
  let c := core / 16
  let p := curPart s c
  let h : MHead := { kind := .coll, dpart := rf s (partPg p + 0x408) 0 4, slice := ((sliceOf (job s p o.job).img c).getD 0),
                     job := o.job, core := core % 16, arg := t % 256 + 256 * (j % 256), dst := nextCoord s 0 }
  match sendMsg s p 0 c h b.1 core with
  | none => (s, false)
  | some s1 =>
    let d := widenAll (cFmt o) m b.1
    let s2 := if own then setFlags (putWords s1 o (chunkSlots o.dst m x) d.1) core d.2 false else s1
    (setFlags (nocHead s2 core { o with coll := { o.coll with sent := true, body := b.1 } }) core b.2.1 b.2.2, true)

/-- The message that the current step waits for, taken from those received. -/
def collTake (s : State) (core : Nat) (o : NocOp) (x n : Nat) : Option (State × List Byte) :=
  let p := curPart s (core / 16)
  let l := (bly s p).colls
  (l.findIdx? fun q => q.1 = core && q.2.1 = o.job && q.2.2.1 = collKey o n x).map fun i =>
    (modBly s p fun b => { b with colls := l.eraseIdx i }, (nth (0, 0, 0, []) l i).2.2.2)

/-- A received chunk is added or stored, and the collective goes to its next step. -/
def collStep (s : State) (core : Nat) (o : NocOp) (x n m : Nat) (body : List Byte) : State :=
  let t := o.coll.step
  let j := cComes o n x t
  let d := widenAll (cFmt o) m body
  if cReduces o n t then
    let v := (chunkSlots o.src m j).map fun q => slotWords s q
    let a := (d.1.zip v).map fun p => (p.1.zip p.2).map fun q => f32Add q.1 q.2
    if t = n - 2 && cKind o = 2 then setFlags (putWords (nocPop s core) o o.dst a) core d.2 false
    else
      let e := narrowAll (cFmt o) a
      setFlags (nocHead s core { o with coll := { step := t + 1, sent := false, body := e.1 } }) core (d.2 || e.2.1) e.2.2
  else
    let s1 := setFlags (putWords s o (chunkSlots o.dst m j) d.1) core d.2 false
    if t + 1 = cSteps o n then nocPop s1 core
    else nocHead s1 core { o with coll := { step := t + 1, sent := false, body := body } }

/-- Both directions of the rope have an UP port (R403). -/
def ropeUp (s : State) (c : Nat) : Bool := (pickPort s 0 c).isSome && (pickPort s 1 c).isSome

/-- A collective at the head of an engine goes as far as it can: each chunk is read and written when its slots' tags allow. -/
def collGo : Nat → State → Nat → State
  | 0, s, _ => s
  | k + 1, s, core =>
    match smGet [] s.noc core with
    | [] => s
    | o :: _ =>
      let n := dimX s
      let l := (collNext o n (myX s)).1
      if o.kind ≠ .coll || nocWaits s o then s
      else if o.coll.sent then
        match collTake s core o (myX s) n with
        | none => s
        | some (s1, b) =>
          if nocBad s l then jobFault (nocRead s1 l) (curPart s (core / 16)) o.job 1
          else collGo k (collStep (nocRead s1 l) core o (myX s) n (cSlots o n) b) core
      else if nocBad s l then jobFault (nocRead s l) (curPart s (core / 16)) o.job 1
      else if n = 1 then collAlone (nocRead s l) core o
      else if !ropeUp s (core / 16) then collFail s core o
      else
        let r := collSend (nocRead s l) core o (myX s) n (cSlots o n)
        if r.2 then collGo k r.1 core else collFail s core o

def collRun (s : State) (core : Nat) : State := collGo 100 s core

/-! ## Operations on the NoC engine (R398, R400) -/

/-- An LK.SEND whose slots are all read gives its message to a port. -/
def sendGive (s : State) (core : Nat) (o : NocOp) : State :=
  let c := core / 16
  let n := curPart s c
  let d := fld o.bits 30 2
  let h : MHead := { kind := .send, dpart := rf s (partPg n + 0x408) (4 * d) 4, slice := ((sliceOf (job s n o.job).img c).getD 0),
                     job := o.job, core := core % 16, arg := o.imm % 2 ^ 24, dst := nextCoord s d }
  (sendMsg s n d c h o.coll.body core).getD (jobFault s n o.job 7)

/-- An LK.SEND at the head of an engine reads its slots in order, as far as they are FULL (R255, R398). -/
def sendGo : Nat → State → Nat → NocOp → State
  | 0, s, _, _ => s
  | k + 1, s, core, o =>
    match o.src[o.moved]? with
    | none => sendGive (nocPop s core) core o
    | some q =>
      if nocWaits s o then nocHead s core o
      else if nocBad s [q] then jobFault (nocRead (nocPop s core) [q]) (curPart s (core / 16)) o.job 1
      else
        let s1 := nocRead s [q]
        let s2 := if o.consume then modSlot s1 q.1 q.2 fun x => { x with full := false } else s1
        sendGo k s2 core { o with moved := o.moved + 1, coll := { o.coll with body := o.coll.body ++ slotBytes (slotAt s q.1 q.2).data 0 256 } }

/-- The operation at the head of an engine goes as far as tags and messages allow. -/
def nocGo (s : State) (core : Nat) : State :=
  match smGet [] s.noc core with
  | [] => s
  | o :: _ =>
    match o.kind with
    | .copy => nocCopyEnd s core o
    | .send => sendGo 33 s core o
    | .coll => collRun s core

/-- A received message writes its slots in order as far as their tags allow; `held` are the slots that messages before it still have to
write. -/
def rxWrite (n : Nat) : List (Nat × Nat × List Byte) → List (Nat × Nat) → State → State × List (Nat × Nat × List Byte)
  | [], _, s => (s, [])
  | q :: r, held, s =>
    if !asyncEmpty s q.1 q.2.1 || held.contains (q.1, q.2.1) then (s, q :: r)
    else rxWrite n r held (countBytes (slotEff s q.1 q.2.1 0 q.2.2 (some true)) n 256)

/-- Received messages are written, the oldest first; those that meet a FULL slot wait (R399, 09_memory R255, R283). -/
def rxPump (s : State) (n : Nat) : State :=
  let r := (bly s n).rx.foldl (fun (r : State × List RxMsg) m =>
    let q := rxWrite n m.slots (r.2.flatMap fun z => z.slots.map fun y => (y.1, y.2.1)) r.1
    (q.1, if q.2 = [] then r.2 else r.2 ++ [{ m with slots := q.2 }])) (s, [])
  if (bly s n).rx = [] then s else modBly r.1 n fun b => { b with rx := r.2 }

/-- NOC_COPY_DONE: the operation at the head of a core's engine completes, or goes on; so do the slots received for the partition that
runs there. -/
def nocCopyDoneEff (core : Nat) (s : State) : State := rxPump (nocGo s core) (curPart s (core / 16))

def execNocCopyDone (core : Fin 4096) (s : State) : Out := .next (nocCopyDoneEff core s)

/-- LK.SEND (R398): queued on the NoC engine of the source's core, which must lie in the cluster. -/
def lkSendOp (c : Nat) (s : State) : State :=
  let w := slotBits s c .nc
  let ref := fld w 32 24
  match ncSlots s c ref (fld w 25 5 + 1) false with
  | none => clusFault s c 4
  | some src =>
    let me := ncCore (hentry s c (refHandle ref))
    if me / 16 ≠ c then clusFault s c 4
    else if 16 ≤ (smGet [] s.noc me).length then freezeOn s c (.noc me)
    else
      let first := (smGet [] s.noc me).isEmpty
      let s1 := nocPush (markDid s c 8) me { kind := .send, src := src, consume := bitAt w 24, job := curJob s c, bits := w, imm := bImm (curBundle s c) }
      if first then nocGo s1 me else s1

def lkSendEff (c : Nat) (s : State) : State := runOp s c .nc 0x40 (lkSendOp c)
def execLkSend (c : Fin 256) (s : State) : Out := .next (lkSendEff c s)

/-- The collectives of an LK.COLL: core, input and output slots; none where an operand is refused. -/
def collOps (s : State) (c sref dref ns nd : Nat) : Option (List (Nat × List (Nat × Nat) × List (Nat × Nat))) :=
  let plain (l : List Ref) : Option (List (Nat × Nat)) := allSome (l.map fun r => match r with | .slot a b => some (a, b) | .pad => none)
  allSome ((lmCores s c sref).map fun i =>
    match (opSlots s c i sref ns false .free).bind plain, (opSlots s c i dref nd true .free).bind plain with
    | some a, some b =>
      if (a ++ b).all fun q => q.1 / 16 = c && q.1 = (a.headD (0, 0)).1 then some ((a.headD (0, 0)).1, a, b) else none
    | _, _ => none)

/-- LK.COLL (R400). -/
def lkCollOp (c : Nat) (s : State) : State :=
  let w := slotBits s c .nc
  let k := fld w 6 2
  let ns := fld (bImm (curBundle s c)) 0 11
  let n := dimX s
  let lp := rdN s (partPg (curPart s c) + 0x408)
  if k = 3 || ns = 0 || decide (1024 < ns) || ns % n ≠ 0 || !bitAt lp 16 || !bitAt lp 17 then clusFault s c 3
  else
    match collOps s c (fld w 32 24) (fld w 8 24) (if k = 1 then ns / n else ns) (if k = 2 then ns / n else ns) with
    | none => clusFault s c 4
    | some l =>
      match l.find? fun q => decide (16 ≤ (smGet [] s.noc q.1).length) with
      | some q => freezeOn s c (.noc q.1)
      | none =>
        each (markDid s c 8) l fun s q =>
          let first := (smGet [] s.noc q.1).isEmpty
          let s1 := nocPush s q.1 { kind := .coll, src := q.2.1, dst := q.2.2, job := curJob s c, bits := w, imm := ns }
          if first then nocGo s1 q.1 else s1

def lkCollEff (c : Nat) (s : State) : State := runOp s c .nc 0x48 (lkCollOp c)
def execLkColl (c : Fin 256) (s : State) : Out := .next (lkCollEff c s)

/-- COLL_TIMEOUT: the first collective of a cluster that waits for a message has waited COLL_TMO (R403). -/
def collTimeoutEff (c : Nat) (s : State) : State :=
  match (List.range 16).find? fun i => match smGet [] s.noc (16 * c + i) with
      | o :: _ => o.kind = .coll && o.coll.sent && !collHere s o
      | [] => false with
  | none => s
  | some i =>
    match smGet [] s.noc (16 * c + i) with
    | o :: _ => collFail s (16 * c + i) o
    | [] => s

def execCollTimeout (c : Fin 256) (s : State) : Out := .next (collTimeoutEff c s)

/-- A write of COLL_TMO; a new value applies from the next edge. -/
def collTmoEff (n : Nat) (v : Word) (s : State) : State :=
  let x := v.toNat % 2 ^ 25
  if x < 4096 ∨ 2 ^ 24 < x then setEvt s (partPg n) 1 (5 * 2 ^ 20 + 0x404) else wrN s (partPg n + 0x404) x

def execCollTmo (n : Fin 16) (v : Word) (s : State) : Out := .next (pfDo s (collTmoEff n v))

/-! ## Receiving (R399) -/

/-- The conditions of R399 on a message that arrives on a port of direction `d`: its cluster. -/
def recvOk (s : State) (d : Nat) (h : MHead) : Option Nat :=
  let lp := rdN s (partPg h.dpart + 0x408)
  let img := (job s h.dpart h.job).img
  if bitAt lp (16 + d) && fld lp (4 * d) 4 = h.spart && (part s h.dpart).st ≠ .off && partParty s h.dpart ≠ 0
      && partParty s h.dpart = h.party && (job s h.dpart h.job).loaded then img.clusters[h.slice]? else none

/-- A received SEND (R399, R402). -/
def recvSend (s : State) (p : Nat) (h : MHead) (body : List Byte) : State :=
  let no := lkBump s p 0x30
  match recvOk s (p / 5) h with
  | none => no
  | some c =>
    let n := h.dpart
    let img := (job s n h.job).img
    let e := nth 0 (handleImg img c) (refHandle h.arg)
    let b := baseReg img c h.core (refBase h.arg) + refOfs h.arg
    if h.len = 0 || h.len % 256 ≠ 0 || decide (32 * 256 < h.len) then no
    else match allSome ((List.range (h.len / 256)).map fun k => entrySlot s n h.job c h.core e (b + k) true .free) with
    | none => no
    | some l =>
      let ws := l.zipIdx.filterMap fun q => match q.1 with
        | .slot core i => some (core, i, (body.drop (256 * q.2)).take 256)
        | .pad => none
      rxPump (modBly (chargeRx s n h.len) n fun x => { x with rx := x.rx ++ (if ws = [] then [] else [{ job := h.job, slots := ws }]) }) n

/-- A received COLL: kept for its collective, which goes on. (DEDUCED: log entry 52.) -/
def recvColl (s : State) (p : Nat) (h : MHead) (body : List Byte) : State :=
  match recvOk s (p / 5) h with
  | none => lkBump s p 0x30
  | some c =>
    let core := 16 * c + h.core
    collRun (modBly (chargeRx s h.dpart h.len) h.dpart fun x => { x with colls := x.colls ++ [(core, h.job, h.arg % 65536, body)] }) core

end Sys2Proof.Machine
end

