-- ==== Sys2Proof/Machine/FrontEnd.lean ====
section
/-!
DEFINITION. The front-end (11_ingest R329-R340): the stages, the features row, stream contexts, the feature store, and profiles
(R344, R345).
-/
namespace Sys2Proof.Machine

/-! ## Profile-derived sizes -/

/-- W_len and H at the model rate (R329). -/
def wLen (p : List Byte) : Nat := mrateHz p / 40
def hopLen (p : List Byte) : Nat := mrateHz p / 100

/-- Model samples of a chunk. -/
def modelLen (s : State) (p : List Byte) : Nat := chunkLen s (mrateHz p)

/-- F_max (R330). -/
def fMax (s : State) : Nat := if s.clk.cfg.period ≤ 2 then 1 else 2 ^ (s.clk.cfg.period - 2)

/-- Context bytes of a channel (R333). -/
def ctxSize (p : List Byte) : Nat := if pfPass p then 256 else 256 + 4 * (wLen p - hopLen p) + 8 * pfBands p

/-- CTX_SLOTS under R335. -/
def ctxSlots (p : List Byte) : Nat := if pfCtx p then cdiv (pfChans p * ctxSize p) 256 else 0

/-- Bytes of the features row (R332). -/
def rowLen (s : State) (p : List Byte) : Nat :=
  if pfPass p then 16 + 2 * pfChans p * modelLen s p
  else if pfOut p = 0 then 16 + fMax s * pfChans p * pfBands p + fMax s * pfChans p
  else 16 + 2 * fMax s * pfChans p * pfBands p

/-! ## Stages (R329-R331) -/

/-- Left-padded with 0.0 to `n`, the newest kept. -/
def lastN (n : Nat) (l : List Nat) : List Nat := List.replicate (n - l.length) 0 ++ l.drop (l.length - n)

/-- The 32 samples that end at index `i` of `x` (−1: the last of the history), the newest first. -/
def tapsAt (hist x : List Nat) (i : Int) : List Nat := (padTo 32 0 (((lastN 32 hist ++ x).drop (i + 1).toNat).take 32)).reverse

/-- The resampling filter at position `pos` (10^-9 input samples): the taps of the nearest of 256 phases, summed in ascending order
(R329). (DESIGN CHOICE: log entry 49.) -/
def firAt (hzIn hzOut : Nat) (hist x : List Nat) (pos : Int) : Nat :=
  let q := (512 * pos + 1000000000) / 2000000000
  let k := (q % 256).toNat
  let ps := (tapsAt hist x (q / 256)).zipIdx.map fun z => f32Mul (Config.resTap hzIn hzOut k z.2) z.1
  match ps with
  | [] => 0
  | a :: l => l.foldl f32Add a

/-- Gain and resampling of one channel: model samples, and the history. Position 0 is the first sample; a window that starts between
two samples starts before it (R329, R353). -/
def feIn (s : State) (p : List Byte) (gain : Option Nat) (h : FeChan) (x : List Nat) (phi : Nat) (drift : Int) : List Nat × List Nat :=
  let g := match gain with | some g => x.map fun w => f32Mul w g | none => x
  let hz := rateHz (pfRateC p)
  let mr := mrateHz p
  let pos0 : Int := if phi = 0 then 0 else (phi : Int) - 1000000000
  let y := if hz = mr ∧ phi = 0 ∧ drift = 0 then padTo (modelLen s p) 0 g
    else (List.range (modelLen s p)).map fun (n : Nat) => firAt hz mr h.hist g (pos0 + (n * hz : Nat) * (1000000000 + drift) / mr)
  (y, lastN 32 (h.hist ++ g))

/-- Pre-emphasis: y[n] = x[n] − α·x[n−1], and the last input sample. -/
def preEmph (alpha : Nat) : Nat → List Nat → List Nat × Nat
  | last, [] => ([], last)
  | last, x :: l =>
    let r := preEmph alpha x l
    ((if alpha % 2 ^ 31 = 0 then x else f32Sub x (f32Mul alpha last)) :: r.1, r.2)

/-- The frames that a chunk's samples complete: each its W_len samples (R330). -/
def framesOf (p : List Byte) (cnt : Nat) (buf : List Nat) (n : Nat) : List (List Nat) :=
  (List.range ((cnt + n) / hopLen p)).map fun i =>
    let last := hopLen p * (i + 1) - cnt
    let before := n - last
    lastN (wLen p) (buf.take (buf.length - before))

/-- 2^-LAMBDA and 2^-20 as FP32. -/
def pow2w (k : Nat) : Nat := (127 - k) * 2 ^ 23

/-- Running statistics of one band (R331): z, μ, s. -/
def runNorm (lam v mu sd : Nat) : Nat × Nat × Nat :=
  let dl := f32Sub v mu
  let mu' := f32Add mu (f32Mul dl (pow2w lam))
  let sd' := f32Add sd (f32Mul (pow2w lam) (f32Sub (f32Mul dl dl) sd))
  (f32Mul (f32Sub v mu') (f32Rsqrt (f32Add sd' (pow2w 20))), mu', sd')

/-- FP32 1.0. -/
def oneW : Nat := 0x3F800000

/-- Normalisation of one frame of a channel, by the table or the running statistics. -/
def normFrame (p tab : List Byte) (h : FeChan) (v : List Nat) : List Nat × FeChan :=
  if pfRun p then
    let r := v.zipIdx.map fun q => runNorm (pfLam p) q.1 (nth 0 h.mu q.2) (nth oneW h.sd q.2)
    (r.map fun z => z.1, { h with mu := r.map fun z => z.2.1, sd := r.map fun z => z.2.2 })
  else (v.zipIdx.map fun q => f32Mul (f32Sub q.1 (pf tab (8 * q.2) 4)) (pf tab (8 * q.2 + 4) 4), h)

/-- Points of the transform (R344). -/
def fftLen (p : List Byte) : Nat := if pfFft p then 1024 else 512

/-- Energy of mel band `b`: the weighted powers of its bins, summed in ascending order (R329). (DESIGN CHOICE: log entry 49.) -/
def melEnergy (p : List Byte) (pw : List Nat) (b : Nat) : Nat :=
  let ws := pw.zipIdx.map fun q => (Config.melW (mrateHz p) (fftLen p) (pfBands p) (pf p 16 2) (pf p 18 2) b q.2, q.1)
  match (ws.filter fun q => q.1 % 2 ^ 31 ≠ 0).map fun q => f32Mul q.1 q.2 with
  | [] => 0
  | a :: l => l.foldl f32Add a

/-- 2^-48 as FP32. -/
def minE : Nat := 79 * 2 ^ 23

/-- The B log-mel values of one frame: window, transform, mel bands, logarithm (R329). (DESIGN CHOICE: log entry 49.) -/
def logMel (p : List Byte) (f : List Nat) : List Nat :=
  let x := f.zipIdx.map fun q => f32Mul q.1 (Config.winCoef (pfHam p) (wLen p) q.2)
  let pw := padTo (fftLen p / 2 + 1) 0 (Config.fftPower (fftLen p) (padTo (fftLen p) 0 x))
  (List.range (pfBands p)).map fun b => Config.log2 (f32Max (melEnergy p pw b) minE)

/-- A trailer's masks (R340) on frame `f`. -/
def maskFrame (mask : List Nat) (f : Nat) (v : List Nat) : List Nat :=
  match mask with
  | [ff, fn, bf, bn] =>
    v.zipIdx.map fun q => if (decide (ff ≤ f) && decide (f < ff + fn)) || (decide (bf ≤ q.2) && decide (q.2 < bf + bn)) then 0 else q.1
  | _ => v

/-- One channel of a chunk: the elements of its frames (or its samples with PASSTHRU), and the context after it. -/
def feChannel (s : State) (p tab : List Byte) (c : Chunk) (cnt i : Nat) (h : FeChan) : List (List Nat) × FeChan :=
  let r := feIn s p c.gain h (nth [] c.x i) (nth 0 c.phi i) (nth 0 c.drift i)
  let masks := nth [] c.masks i
  let e := preEmph (pfAlpha p) h.last r.1
  let h1 := { h with hist := r.2, last := e.2 }
  if pfPass p then ([e.1], h1)
  else
    let n := e.1.length
    let buf := lastN (wLen p) h.ovl ++ e.1
    let fr := framesOf p cnt buf n
    let q := fr.foldl (fun (a : List (List Nat) × FeChan) f =>
      let z := normFrame p tab a.2 (logMel p f)
      (a.1 ++ [masks.foldl (fun v m => maskFrame m a.1.length v) z.1], z.2)) ([], h1)
    (q.1, { q.2 with ovl := lastN (wLen p - hopLen p + (cnt + n) % hopLen p) buf })

/-! ## The features row (R332) -/

/-- The I8E codes and exponent of one frame of a channel (R135). -/
def i8Frame (v : List Nat) : List Byte × Byte :=
  let mx := v.foldl (fun m w => if isNan w then m else max m (f32Abs w)) 0
  let e := (expOf32 127 (-32) mx).1
  (v.map fun w => BitVec.ofNat 8 (lowBits 8 (codeOf 127 e w).1), BitVec.ofNat 8 (lowBits 8 e))

/-- A sample as I16E with exponent −15, or BF16. -/
def passCode (p : List Byte) (w : Nat) : List Byte :=
  if pfOut p = 0 then natLe 2 (lowBits 16 (codeOf 32767 (-15) w).1) else natLe 2 (bfEnc w).1

/-- The data of the row. -/
def rowData (s : State) (p : List Byte) (chs : List (List (List Nat))) : List Byte :=
  if pfPass p then
    (List.range (modelLen s p)).flatMap fun i => chs.flatMap fun c => passCode p (nth 0 (c.headD []) i)
  else
    let nf := (chs.headD []).length
    let fs := (List.range nf).flatMap fun f => chs.map fun c => nth [] c f
    if pfOut p = 0 then
      padTo (fMax s * pfChans p * pfBands p) 0 (fs.flatMap fun v => (i8Frame v).1) ++ fs.map fun v => (i8Frame v).2
    else fs.flatMap fun v => v.flatMap fun w => natLe 2 (bfEnc w).1

/-- The features row of a chunk. -/
def featRow (s : State) (p : List Byte) (c : Chunk) (chs : List (List (List Nat))) : List Byte :=
  let nf := if pfPass p then 0 else (chs.headD []).length
  let fl := b2n c.conc.isSome + 2 * b2n (decide (c.conc = some 5)) + 4 * b2n (decide (c.miss ≠ 0))
  padTo (256 * pfInRow p) 0 (padTo 16 0 (natLe 1 nf ++ natLe 1 fl ++ natLe 1 (pfChans p) ++ [0] ++ natLe 2 c.miss ++ [0, 0] ++ natLe 8 c.ts)
    ++ rowData s p chs)

/-! ## Contexts in slots (R333, R335) -/

/-- The bytes of one channel of a context; its framing samples beyond W_len − H and 30 more have no room. -/
def ctxChan (p : List Byte) (cnt : Nat) (h : FeChan) : List Byte :=
  let m := wLen p - hopLen p
  let ov := lastN (m + 30) h.ovl
  let head := (lastN 32 h.hist).flatMap (natLe 4) ++ natLe 4 h.last ++ natLe 2 cnt
  let bs := if pfPass p then head
    else padTo 256 0 (head ++ (ov.take 30).flatMap (natLe 4)) ++ (ov.drop 30).flatMap (natLe 4) ++
      (List.range (pfBands p)).flatMap fun b => natLe 4 (nth 0 h.mu b) ++ natLe 4 (nth oneW h.sd b)
  (padTo (ctxSize p) 0 bs).zipIdx.map fun q => q.1 ^^^ Config.ctxMask q.2

/-- The bytes of a context. (DESIGN CHOICE: log entry 49.) -/
def ctxBytes (p : List Byte) (c : FeCtx) : List Byte :=
  padTo (256 * ctxSlots p) 0 ((List.range (pfChans p)).flatMap fun i => ctxChan p c.cnt (nth {} c.ch i))

/-- `n` words of a byte list from `off` on. -/
def words (bs : List Byte) (off n : Nat) : List Nat := (List.range n).map fun i => pf bs (off + 4 * i) 4

/-- One channel back from its bytes, and the frame position. -/
def chanOf (p bs0 : List Byte) : FeChan × Nat :=
  let bs := bs0.zipIdx.map fun q => q.1 ^^^ Config.ctxMask q.2
  let cnt := pf bs 132 2 % (hopLen p)
  let m := wLen p - hopLen p
  let ov := words bs 134 30 ++ words bs 256 m
  ({ hist := words bs 0 32, last := pf bs 128 4
     ovl := if pfPass p then [] else (List.range (m + cnt - ov.length)).map Config.ctxLost ++ lastN (min (m + cnt) (m + 30)) ov
     mu := if pfPass p then [] else (List.range (pfBands p)).map fun b => pf bs (256 + 4 * m + 8 * b) 4
     sd := if pfPass p then [] else (List.range (pfBands p)).map fun b => pf bs (260 + 4 * m + 8 * b) 4 }, cnt)

/-- A context back from its bytes. (DESIGN CHOICE: log entry 49.) -/
def ctxOf (p bs : List Byte) : FeCtx :=
  let cs := (List.range (pfChans p)).map fun i => chanOf p ((bs.drop (ctxSize p * i)).take (ctxSize p))
  { cnt := match cs with | c :: _ => c.2 | [] => 0, ch := cs.map fun c => c.1 }

/-- The slots that hold a stream's context on one side of its place (R335): slot i on core i mod 16. -/
def ctxPlace (s : State) (x : Strm) (p : List Byte) (side : Nat) : List (Nat × Nat) :=
  match x.place with
  | none => []
  | some pl =>
    let e := nth 0 (handleImg (job s x.part x.job).img x.home) (pfCtxH p)
    (List.range (ctxSlots p)).map fun i => (16 * x.home + i % 16, nth 0 (placeRow e pl side) (pfCtxOfs p + i / 16))

/-- A stream has taken a place by unpark, or after import or promotion: with CTX_EN the context comes from the committed side, and the
chunks not yet bound are processed again (R335). -/
def markReload (s : State) (h : Nat) : State :=
  if pfCtx (profOf s h) then
    let s1 := each s (strm s h).queue freeStore
    modStrm s1 h fun x => { x with queue := x.queue.map unprocess, inp := { x.inp with reload := true } }
  else s

/-- The reload (R335): an uncorrectable word resets the context, with a count and an event. -/
def reloadCtx (s : State) (h : Nat) : State :=
  let x := strm s h
  let p := profOf s h
  if !x.inp.reload || x.place.isNone then s
  else
    let l := ctxPlace s x p x.side
    let bad := l.filter fun q => !(badWords (slotAt s q.1 q.2)).isEmpty
    let s1 := countBytes (readSlots s l) x.part (256 * l.length)
    let c : FeCtx := if bad.isEmpty then ctxOf p (l.flatMap fun q => slotBytes (slotAt s q.1 q.2).data 0 256) else {}
    let s2 := modStrm s1 h fun x => { x with inp := { x.inp with reload := false, ctx := c } }
    if bad.isEmpty then s2
    else
      let c0 := x.queue.headD {}
      strmEvent (bump s2 (ingPg x.part) 0x218) h 8 0 0 c0.tick c0.ts

/-! ## The feature store (R337, R339) -/

/-- Store slots in use in a core, by the chunks of the partition's streams. -/
def storeUsed (s : State) (n core : Nat) : List Nat :=
  (strmsOf s n).flatMap fun h => (strmChunks s h).flatMap fun c =>
    match c.fs with
    | some k => if k / 1024 = core then (List.range c.fsN).map fun i => k % 1024 + i else []
    | none => []

/-- The lowest free run of `k` slots in a core. -/
def freeRun (s : State) (n core k : Nat) : Option Nat :=
  let used := storeUsed s n core
  let f := rf s (ingPg n + 0x118) 16 10
  let e := min 1024 (f + rf s (ingPg n + 0x118) 0 11)
  ((List.range (e + 1 - (f + k))).map fun i => f + i).find? fun a => (List.range k).all fun i => !used.contains (a + i)

/-- The entry a chunk takes in its home cluster, core by core. -/
def freeEntry (s : State) (n home k : Nat) : Option Nat :=
  (List.range 16).findSome? fun i => (freeRun s n (16 * home + i) k).map fun a => (16 * home + i) * 1024 + a

/-- The slots of an entry are all EMPTY, so the front-end's writes do not wait. -/
def entryEmpty (s : State) (k len : Nat) : Bool := (List.range len).all fun i => !(slotAt s (k / 1024) (k % 1024 + i)).full

/-- The first chunk of a stream that is not processed. -/
def nextRaw (x : Strm) : Option (Nat × Chunk) := (x.queue.zipIdx.find? fun q => !q.1.ready).map fun q => (q.2, q.1)

/-! ## FE_CHUNK_DONE -/

/-- The context of a stream with a channel entry for each channel. -/
def ctxChans (p : List Byte) (c : FeCtx) : List FeChan := (List.range (pfChans p)).map fun i => nth {} c.ch i

/-- The stages on a chunk: its channels' elements and the context after it. (DESIGN CHOICE: log entry 49.) -/
def feRun (s : State) (n : Nat) (x : Strm) (p : List Byte) (c : Chunk) : List (List (List Nat)) × FeCtx :=
  let tab := smGet [] (ing s n).norms x.profile
  let r := (ctxChans p x.inp.ctx).zipIdx.map fun q =>
    feChannel s p tab c x.inp.ctx.cnt q.2 q.1
  (r.map fun z => z.1, { cnt := (x.inp.ctx.cnt + modelLen s p) % hopLen p, ch := r.map fun z => z.2 })

/-- A chunk that FREEZE_CONC keeps from the stream's context (R325). -/
def frozenChunk (x : Strm) (c : Chunk) : Bool := x.freezeC && c.conc.isSome

/-- The chunk at `i` of the queue is processed into the entry at `k`. -/
def feStore (s : State) (n h i : Nat) (c : Chunk) (k : Option Nat) : State :=
  let x := strm s h
  let p := profOf s h
  let r := feRun s n x p c
  let ctx := if frozenChunk x c then x.inp.ctx else r.2
  let bs := featRow s p c r.1 ++ (if pfCtx p then ctxBytes p ctx else [])
  let len := pfInRow p + ctxSlots p
  let s1 := match k with
    | some a => (List.range len).foldl (fun s j =>
        setSlot s (a / 1024) (a % 1024 + j) { data := BitVec.ofNat 2048 (leNat ((bs.drop (256 * j)).take 256)), full := true }) s
    | none => s
  modStrm (countBytes s1 n (if k.isSome then 256 * len else 0)) h fun x => { x with
    queue := x.queue.set i { c with ready := true, fs := k, fsN := len, ctx := ctx }, inp := { x.inp with ctx := ctx } }

/-- The front-end can process a stream's next chunk: it has room and no tag to wait for. Its place in the order of arrival. -/
def feNext (s : State) (n h : Nat) : Option Nat :=
  let x := strm s h
  let len := pfInRow (profOf s h) + ctxSlots (profOf s h)
  (nextRaw x).bind fun q =>
    if len = 0 then some q.2.at_
    else (freeEntry s n x.home len).bind fun k => if entryEmpty s k len then some q.2.at_ else none

/-- Stream `h` is next in the order in which the partition's chunks have arrived, of those that can be processed (R336). -/
def feTurn (s : State) (n h : Nat) : Bool :=
  match feNext s n h with
  | none => false
  | some k => (strmsOf s n).all fun g => match feNext s n g with | some i => decide (k ≤ i) | none => true

/-- FE_CHUNK_DONE (R333, R336, R337): the next chunk of a stream in queue order; without room, with a tag to wait for, or behind a chunk
that arrived before it, it stays. -/
def feChunkDoneEff (n h : Nat) (s0 : State) : State :=
  if !activeSt (part s0 n).st || (strm s0 h).part ≠ n || (strm s0 h).st = .free || !feTurn s0 n h then s0
  else
    let s := reloadCtx s0 h
    let x := strm s h
    let len := pfInRow (profOf s h) + ctxSlots (profOf s h)
    match nextRaw x with
    | none => s0
    | some (i, c) => feStore s n h i c (if len = 0 then none else freeEntry s n x.home len)

def execFeChunkDone (n : Fin 16) (h : BitVec 20) (s : State) : Out := .next (feChunkDoneEff n h.toNat s)

/-- The front-end's write of a stream's next chunk waits on a tag (R339). -/
def feWaits (s : State) (n h : Nat) : Bool :=
  let x := strm s h
  let len := pfInRow (profOf s h) + ctxSlots (profOf s h)
  activeSt (part s n).st && x.part = n && x.st ≠ .free && (nextRaw x).isSome &&
    (match freeEntry s n x.home len with | some k => !entryEmpty s k len | none => false)

/-- A store write has waited TAG_TMO: the chunk is unprocessed again (R339). -/
def feTimeout (s : State) (n h : Nat) : State := if feWaits s n h then bump s (ingPg n) 0x210 else s

/-! ## Profiles (R344, R345) -/

/-- Check 1: a field out of range, or a reserved byte not zero. -/
def profRange (p : List Byte) : Bool :=
  let codec (k : Nat) : Bool := codecW k ≠ 0
  !(codec (pfCodec p) || pfCodec p = 0x10) || pfChans p = 0 || decide (16 < pfChans p) || decide (5 < pfRateC p) ||
    decide (1 < pf p 4 1) || decide (pfBands p < 40) || decide (128 < pfBands p) || decide (1 < pfOut p) ||
    decide (32 ≤ pf p 7 1) || pfTol p = 0 || decide (16 < pfGap p) || decide (pfLam p < 4) || decide (16 < pfLam p) ||
    (decide (0x3F7D70A4 < pfAlpha p) && pfAlpha p ≠ 2 ^ 31) || pfInRow p = 0 || decide (64 < pfInRow p) ||
    pfEmRow p = 0 || decide (64 < pfEmRow p) || decide (80 < pfDelay p) || pf p 31 1 ≠ 0 ||
    decide (1024 ≤ pfInH p) || decide (1024 ≤ pfEmH p) || decide (1024 ≤ pfCtxH p) ||
    ((List.range 4).any fun i => decide (pf p (32 + 2 * i) 1 < 128) && !codec (pf p (33 + 2 * i) 1)) || pf p 48 16 ≠ 0

/-- A handle of a job in a cluster is SCOPE 0 and holds the rows of every lane (check 3). -/
def rowHandleOk (s : State) (n j c h row : Nat) : Bool :=
  let img := (job s n j).img
  let e := nth 0 (handleImg img c) h
  heValid e && !heCoreScope e && decide (cdiv (laneCount img c) 16 * row ≤ heCount e)

/-- Check 4 in a cluster. -/
def ctxHandleOk (s : State) (n : Nat) (p : List Byte) (c : Nat) : Bool :=
  let e := nth 0 (handleImg (job s n (pfJob p)).img c) (pfCtxH p)
  !pfCtx p || (heValid e && heState e && decide (pfCtxOfs p + cdiv (pfCtxN p) 16 ≤ heRow e))

/-- The fixed normalisation table is used. -/
def usesTab (p : List Byte) : Bool := !pfPass p && !pfRun p

/-- The clusters of a job with lanes. -/
def laneClusters (s : State) (n j : Nat) : List Nat := ((job s n j).img.clusters).filter fun c => laneGroups (job s n j).img c ≠ 0

/-- The first check of COMMIT that fails, 0 for none. (DEDUCED: log entry 38; DEDUCED: log entry 48.) -/
def profErr (s : State) (n k : Nat) (p : List Byte) : Nat :=
  let cs := laneClusters s n (pfJob p)
  firstCause [
    (profRange p, 1),
    (!(job s n (pfJob p)).loaded, 2),
    (cs.any fun c => !rowHandleOk s n (pfJob p) c (pfInH p) (pfInRow p) || !rowHandleOk s n (pfJob p) c (pfEmH p) (pfEmRow p), 3),
    (pfCtxN p ≠ ctxSlots p || cs.any fun c => !ctxHandleOk s n p c, 4),
    (usesTab p && !inWindow s (partParty s n) (pf p 40 8) (8 * pfBands p), 5),
    (decide (256 * pfInRow p < rowLen s p), 6),
    (!chunkWhole s (rateHz (pfRateC p)) || (pf p 4 1 = 1 && !pfFft p), 7),
    ((strmsOf s n).any fun h => (strm s h).profile = k, 8)]

/-- PROF_DATA as 64 bytes. -/
def profData (s : State) (n : Nat) : List Byte := (List.range 16).flatMap fun w => natLe 4 (rdN s (ingPg n + 0x180 + 4 * w))

/-- PROF_CMD.COMMIT (R345). -/
def profCommitEff (n : Nat) (s : State) : State :=
  let k := rf s (ingPg n + 0x140) 0 8
  let p := profData s n
  let e := profErr s n k p
  if e ≠ 0 then setEvt (wrN s (ingPg n + 0x148) (e * 2 ^ 24)) (ingPg n) 5
  else
    let a := pf p 40 8
    let tab := if usesTab p then hbmRead s a (8 * pfBands p) else []
    let s1 := if usesTab p then hbmUe s a (8 * pfBands p) else s
    wrN (modIng s1 n fun g => { g with profs := smSet [] g.profs k p, norms := smSet [] g.norms k tab }) (ingPg n + 0x148) 1

/-- PROF_CMD.FETCH. -/
def profFetchEff (n : Nat) (s : State) : State :=
  let p := prof s n (rf s (ingPg n + 0x140) 0 8)
  wrN ((List.range 16).foldl (fun s w => wrN s (ingPg n + 0x180 + 4 * w) (pf p (4 * w) 4)) s) (ingPg n + 0x148) 1

def execProfCommit (r : Requester) (n : Fin 16) (s : State) : Out := .next (hostWr s r (ingPg n + 0x144) (profCommitEff n))
def execProfFetch (r : Requester) (n : Fin 16) (s : State) : Out := .next (hostWr s r (ingPg n + 0x144) (profFetchEff n))

end Sys2Proof.Machine
end

