-- ==== Sys2Proof/Machine/Emission.lean ====
section
/-!
DEFINITION. The emission engine (11_ingest R341-R343; 13_parties R383): token records of flipped lanes, the release of a flip's records
and their writing to the emission ring.
-/
namespace Sys2Proof.Machine

/-- What the engine reads of a row (R341): NENT and the entries' bytes, and TRUNC. -/
def readRow (s : State) (row : List (Nat × Nat)) : Nat × List Byte × Bool :=
  let up := row.takeWhile fun q => (slotAt s q.1 q.2).full
  match up with
  | [] => (0, [], false)
  | _ =>
    let bs := up.flatMap fun q => slotBytes (cleanBits (slotAt s q.1 q.2)) 0 256
    let want := pf bs 0 2
    let cap := (256 * row.length - 16) / 8
    let got := (256 * up.length - 16) / 8
    let k := min want (min cap got)
    (k, (bs.drop 16).take (8 * k), decide (k < want))

/-- The engine's reads of a row: errors are corrected or counted, and their words read as zero (09_memory R265, R266). -/
def rowUe (s : State) (n : Nat) (row : List (Nat × Nat)) : State :=
  let up := row.takeWhile fun q => (slotAt s q.1 q.2).full
  countBytes (readSlots s up) n (256 * up.length)

/-- Entries that one ring entry holds. -/
def entPer (s : State) (n : Nat) : Nat := (ringSz (rdN s (ingPg n + 0x128)) - 48) / 8

/-- The records of one token list: as many as its entries need, CONT on all but the last (R342). -/
def tokenRecs : Nat → Nat → EmRec → Nat → List Byte → List EmRec
  | 0, _, _, _, _ => []
  | fuel + 1, per, r, k, bs =>
    if k ≤ per then [{ r with nent := k, payload := bs.take (8 * k) }]
    else { r with nent := per, flags := r.flags + 1, payload := bs.take (8 * per) } :: tokenRecs fuel per r (k - per) (bs.drop (8 * per))

/-- A flipped lane's token records are staged (R341). -/
def stageTokens (s : State) (key : Nat) (l : Lane) : State :=
  let x := strm s l.handle
  let row := emRow s key l
  let q := readRow s row
  let fl := 2 * b2n q.2.2 + 4 * b2n l.chunk.conc.isSome + 8 * b2n (decide (l.chunk.miss ≠ 0))
  let r : EmRec := { typ := 1, handle := l.handle, job := x.job, tick := l.chunk.tick, ts := l.chunk.ts, seq := x.seq, cnts := strmCnts x, flags := fl }
  each (rowUe s (lanePart key) row) (tokenRecs (q.1 + 1) (max 1 (entPer s (lanePart key))) r q.1 q.2.1) fun s r => pushRec s (lanePart key) r

/-! ## Release at the flip (R343, R383) -/

/-- Ascending handle; within a stream, events before tokens. -/
def recKey (r : EmRec) : Nat := 2 * r.handle + (if r.typ = 1 then 1 else 0)

/-- Staged records that flips have released. -/
def emReleased (s : State) (n : Nat) : Nat := (ing s n).emGo.foldl (· + ·) 0

/-- At the flip, events staged since the one before carry their stream's SEQ after this tick (R342). -/
def stampSeq (s : State) (n : Nat) : State :=
  { s with emis := smSet [] s.emis n ((smGet [] s.emis n).map fun r => if r.seqDue then { r with seq := (strm s r.handle).lastSeq, seqDue := false } else r) }

/-- The records a flip of a partition releases, in order, and those that stay. -/
def emSplit (s : State) (n : Nat) : List EmRec × List EmRec :=
  let new := sortBy recKey ((smGet [] s.emis n).drop (emReleased s n))
  if steadyOf s n then
    let quota (j : Nat) : Nat := rf s (ptyPg (partParty s n) + 0x218) 8 4 * 32 * jdReg s n j 0x10
    let js := loadedJobs s n
    let mine (j : Nat) (r : EmRec) : Bool := if r.handle = 0 then j = js.headD 0 else r.job = j
    let pads (j : Nat) : List EmRec :=
      List.replicate (quota j - (new.filter (mine j)).length) { typ := 3, tick := s.clk.num, payload := [] }
    let out := js.flatMap fun j => (new.filter (mine j)).take (quota j)
    let rest := (js.flatMap fun j => (new.filter (mine j)).drop (quota j)) ++ new.filter fun r => !js.any fun j => mine j r
    (sortBy recKey out ++ js.flatMap pads, rest)
  else (new, [])

/-- The flip of a partition releases its records. -/
def releaseEm (s : State) (n : Nat) : State :=
  let q := emSplit s n
  let old := (smGet [] s.emis n).take (emReleased s n)
  modIng { s with emis := smSet [] s.emis n (old ++ q.1 ++ q.2) } n fun g =>
    { g with emGo := g.emGo ++ (if q.1 = [] then [] else [q.1.length]) }

/-! ## EMISSION_RING_WRITE -/

/-- A record's bytes (R342). -/
def recBytes (r : EmRec) : List Byte :=
  let h := natLe 2 0x7C5B ++ natLe 1 1 ++ natLe 1 r.typ ++ natLe 4 r.handle ++ natLe 8 r.tick ++ natLe 8 r.ts ++ natLe 8 r.seq ++
    (padTo 4 0 r.cnts).flatMap (natLe 2) ++ natLe 2 r.nent ++ natLe 1 r.flags ++ [0]
  h ++ natLe 4 (crc32c (h ++ [0, 0, 0, 0] ++ r.payload)) ++ r.payload

/-- One record leaves: written to the next entry and charged, or lost to a host write error (R343). -/
def emitRec (s : State) (n : Nat) (r : EmRec) (lost : Bool) : State :=
  let pi := rdN s (ingPg n + 0x12C)
  let cfg := rdN s (ingPg n + 0x128)
  if lost || decide (ringSz cfg < recSize r) then
    setEvt (bump { s with emLost := smSet 0 s.emLost n (smGet 0 s.emLost n + 1) } (ingPg n) 0x214) (ingPg n) 4
  else
    let a := rd64 s (ingPg n + 0x120) + pi % ringN cfg * ringSz cfg
    wrN (charge (hostPut s (partFn s n) a (recBytes r)) n fun x => { x with hostOut := x.hostOut + recSize r }) (ingPg n + 0x12C) ((pi + 1) % 2 ^ 32)

/-- Free entries of the emission ring. -/
def emFree (s : State) (n : Nat) : Nat :=
  ringN (rdN s (ingPg n + 0x128)) - (rdN s (ingPg n + 0x12C) + 2 ^ 32 - rdN s (ingPg n + 0x130)) % 2 ^ 32

/-- `k` records of the oldest flips are written: what is left of each flip, and whether some flip's are now all written. -/
def flipsAfter : Nat → List Nat → List Nat × Bool
  | _, [] => ([], false)
  | k, a :: l => if a ≤ k then ((flipsAfter (k - a) l).1, true) else ((a - k) :: l, false)

/-- EMISSION_RING_WRITE (R343): released records go to the ring in order while it has room; bit i of `lost` marks the ones whose host
write fails. -/
def emissionRingWriteEff (n lost : Nat) (s : State) : State :=
  let k := min (emReleased s n) (emFree s n)
  if !ringOn (rdN s (ingPg n + 0x128)) || k = 0 then s
  else
    let out := (smGet [] s.emis n).take k
    let q := flipsAfter k (ing s n).emGo
    let s1 := modIng { s with emis := smSet [] s.emis n ((smGet [] s.emis n).drop k) } n fun g => { g with emGo := q.1 }
    let s2 := out.zipIdx.foldl (fun s q => emitRec s n q.1 (bitAt lost q.2)) s1
    if q.2 then setEvt s2 (ingPg n) 3 else s2

def execEmissionRingWrite (n : Fin 16) (lost : Nat) (s : State) : Out := .next (emissionRingWriteEff n lost s)

/-! ## Concealed chunks (R324) -/

/-- A concealed chunk flips, or is bound frozen. -/
def concealed (s : State) (h : Nat) (c : Chunk) : State :=
  match c.conc with
  | none => s
  | some k =>
    let n := (strm s h).part
    let s1 := bump (modStrm s h fun x => { x with cConc := sat16 (x.cConc + 1) }) (ingPg n) 0x208
    let s2 := if partParty s1 n = 0 then s1 else bump s1 (ptyPg (partParty s1 n)) 0x188
    strmEvent s2 h 2 k 0 c.tick c.ts

end Sys2Proof.Machine
end

