-- ==== Sys2Proof/Machine/Belay.lean ====
section
/-!
DEFINITION. Belay: what a flip sends to the peer, the peer's table, forwarding, detection of a lost source, warm and hot promotion
(14_links_belay R404-R409, R411).
-/
namespace Sys2Proof.Machine

def blyReg (n o : Nat) : Nat := partPg n + o

/-- BLY_STAT bits: 0 DIVERGE, 1 TX_DOWN, 2 PEER_DOWN, 3 PROMOTED. -/
def blyStat (s : State) (n i : Nat) : Bool := rb s (blyReg n 0x460) i
def setBlyStat (s : State) (n i : Nat) (v : Bool) : State := wf s (blyReg n 0x460) i 1 (b2n v)

/-- The bit of PG_EVT.BELAY_DOWN, one of those that the partition page's table reserves. (PRESUMED: log entry 54.) -/
def belayDownBit : Nat := 10 + Config.belayDownBit % 22

/-- A stream of the partition is a shadow (R409). -/
def isShadow (s : State) (n h : Nat) : Bool :=
  rb s (blyReg n 0x444) 31 && rb s (blyReg n 0x444) 30 && (strm s h).st ≠ .free && (strm s h).part = n && (strm s h).belay = 2

/-- The direction along Y to a coordinate: the shorter way round, ties Y+ (R404). -/
def yDir (s : State) (dst : Nat) : Nat :=
  let up := (dst / 16 + dimY s - myY s % dimY s) % dimY s
  if 2 * up ≤ dimY s then 2 else 3

/-! ## Sending (R405, R407) -/

/-- A belay message of partition `n` from cluster `c` to its peer. -/
def blySend (s : State) (n c : Nat) (k : MKind) (slice j : Nat) (body : List Byte) (owner : Nat) : Option State :=
  let cfg := rdN s (blyReg n 0x440)
  let dst := fld cfg 8 8
  sendMsg s n (yDir s dst) c { kind := k, dpart := fld cfg 24 4, slice := slice, job := j, dst := dst } body owner

/-- The body of an ADV. -/
def advBody (h q last : Nat) : List Byte := natLe 8 (h % 2 ^ 20) ++ natLe 8 q ++ natLe 8 last ++ natLe 8 0

/-- The slice of a stream's home in its job's image. (DEDUCED: log entry 55.) -/
def homeSlice (s : State) (x : Strm) : Nat := (sliceOf (job s x.part x.job).img x.home).getD 0

/-- A blob is not delivered: it counts, and the stream's next flip sends it without a mark. -/
def blobLost (s : State) (n h : Nat) : State :=
  modBly (bump s (partPg n) 0x474) n fun b => { b with again := h :: b.again.filter (· ≠ h) }

/-- The blob of a flipped stream, its seal queued at the flip. A committed side with a slot that is not FULL waits, and with an uncorrectable error it is not sent
(09_memory R255, R266). -/
def sendBlob (s0 : State) (n h : Nat) : State :=
  let s1 := if (bly s0 n).sending.contains h then s0 else takeSeal s0 h fun z x => { x with sealB := z }
  let s := modBly s1 n fun b => { b with sending := b.sending.filter (· ≠ h) }
  if !sideFull s h then modBly s n fun b => { b with sending := h :: b.sending }
  else if sideBad s h then modBly (sideUe s h) n fun b => { b with again := h :: b.again.filter (· ≠ h) }
  else match sealBlob s h (strm s h).sealB with
  | none => s
  | some (s1, b) =>
    let x := strm s h
    match blySend s1 n x.home .blob (homeSlice s x) x.job b h with
    | none => blobLost s1 n h
    | some s2 => modBly s2 n fun y => { y with again := y.again.filter (· ≠ h), sentQ := smSet 0 y.sentQ h x.seq }

/-- The ADV of a flipped stream; one that finds no path is not sent. -/
def sendAdv (s : State) (n h : Nat) : State :=
  let x := strm s h
  (blySend s n x.home .adv (homeSlice s x) x.job (advBody h x.seq (smGet 0 (bly s n).sentQ h)) 0).getD s

/-- What a flipped lane sends. -/
def blyFlip (s : State) (n : Nat) (l : Lane) : State :=
  let x := strm s l.handle
  if !rb s (blyReg n 0x440) 31 || isShadow s n l.handle then s
  else if x.belay = 1 then
    (if l.same && !(bly s n).again.contains l.handle then sendAdv s n l.handle else sendBlob s n l.handle)
  else if x.belay = 2 then sendAdv s n l.handle
  else s

/-- At a flip, the RELEASE of each belayed stream that has closed. (DEDUCED: log entry 55.) -/
def blyReleases (s : State) (n : Nat) : State :=
  if !rb s (blyReg n 0x440) 31 then s
  else each s ((strmsOf s n).filter fun h => (strm s h).st = .closed && (strm s h).belay ≠ 0 && !isShadow s n h) fun s h =>
    let x := strm s h
    let s1 := modBly s n fun b => { b with again := b.again.filter (· ≠ h), sentQ := smSet 0 b.sentQ h 0 }
    (blySend s1 n x.home .release (homeSlice s x) x.job (natLe 8 (h % 2 ^ 20)) 0).getD s1

/-- BHB_SEND: a belay source sends a BHB message to its peer; TX_DOWN tells whether one had a path. (DEDUCED: log entry 55.) -/
def bhbSendEff (n : Nat) (s : State) : State :=
  if rb s (blyReg n 0x440) 31 && activeSt (part s n).st then
    match blySend s n (partOrigin s n) .bhb 0 0 (natLe 8 0) 0 with
    | some s1 => setBlyStat s1 n 1 false
    | none => setBlyStat s n 1 true
  else s

def execBhbSend (n : Fin 16) (s : State) : Out := .next (bhbSendEff n s)

/-! ## Receiving (R406) -/

/-- A belay message comes from the source that BLY_RX_CFG names, for the receiving partition's party. -/
def blyFrom (s : State) (h : MHead) : Bool :=
  let cfg := rdN s (blyReg h.dpart 0x444)
  bitAt cfg 31 && fld cfg 24 4 = h.spart && fld cfg 8 8 = h.src && (part s h.dpart).st ≠ .off && partParty s h.dpart ≠ 0 &&
    partParty s h.dpart = h.party

def blyReject (s : State) (n : Nat) : State := bump s (partPg n) 0x470

/-- The entry of a handle. -/
def blyFind (s : State) (n h : Nat) : Option Nat :=
  if h = 0 then none else ((bly s n).ents.find? fun p => p.2.handle = h).map fun p => p.1

/-- The lowest free entry. -/
def blyFree (s : State) (n : Nat) : Option Nat :=
  let used := (bly s n).ents.map fun p => p.1
  (List.range (min (rf s (blyReg n 0x45C) 0 21) (used.length + 1))).find? fun i => !used.contains i

/-- Address of blob slot `k` of entry `i`, and of its promotion. -/
def blySlot (s : State) (n i k : Nat) : Nat := rd64 s (blyReg n 0x448) % 2 ^ 48 + (2 * i + k) * rdN s (blyReg n 0x458)
def blyBiv (s : State) (n i : Nat) : Nat := rd64 s (blyReg n 0x450) % 2 ^ 48 + i * rdN s (blyReg n 0x458)

/-- The loaded job whose fingerprint a blob carries, the message's own job number first. (DEDUCED: log entry 55.) -/
def blyJob (s : State) (n j : Nat) (b : List Byte) : Option Nat :=
  (j :: loadedJobs s n).find? fun i => (job s n i).loaded && (b.drop 0x20).take 48 = padTo 48 0 (job s n i).img.fprint

/-- The stream that a belay entry stands for, as a directory entry. -/
def blyStrm (s : State) (n : Nat) (e : BlyEnt) : Strm :=
  { part := n, party := partParty s n, job := e.job, home := e.home }

/-- Magic, version, handle, L_s, key, fingerprint, tag and SEQ of a blob for an entry (R211, R406). (DEDUCED: log entry 55.) -/
def blyBlobOk (s : State) (n : Nat) (e : BlyEnt) (b : List Byte) : Bool :=
  let x := blyStrm s n e
  let l := stateLen s x
  bf b 0 4 = 0x54395342 && bf b 4 2 = 1 && bf b 8 4 = e.handle && bf b 12 4 = l && b.length = 0x70 + l &&
    (match keyById s (partParty s n) (bf b 0x18 8) labelBlob with
     | none => false
     | some k => (Config.gcmOpen k ((b.drop 0x50).take 12) (b.take 0x60) ((b.drop 0x60).take l) ((b.drop (0x60 + l)).take 16)).isSome) &&
    (e.cur.isNone || decide (e.seq < bf b 0x10 8))

/-- A received BLOB. (DEDUCED: log entry 55.) -/
def recvBlob (s : State) (h : MHead) (b : List Byte) : State :=
  let n := h.dpart
  let hd := bf b 8 4 % 2 ^ 20
  if !blyFrom s h || hd = 0 || decide (rdN s (blyReg n 0x458) < b.length) then blyReject s n
  else match (match blyFind s n hd with | some i => some i | none => blyFree s n) with
  | none => bump s (partPg n) 0x478
  | some i =>
    let e : BlyEnt := smGet {} (bly s n).ents i
    let k := match e.cur with | some c => 1 - c | none => 0
    let s1 := charge (hbmWrite (chargeRx s n b.length) (blySlot s n i k) b).1 n fun a => { a with hbmWr := a.hbmWr + b.length }
    match blyJob s n h.job b with
    | none => blyReject s1 n
    | some j =>
      match (job s n j).img.clusters[h.slice]? with
      | none => blyReject s1 n
      | some c =>
        let e1 := { e with handle := hd, job := j, home := c }
        if blyBlobOk s1 n e1 b then
          modBly s1 n fun x => { x with ents := smSet {} x.ents i { e1 with cur := some k, seq := bf b 0x10 8, adv := bf b 0x10 8 } }
        else blyReject s1 n

/-- A received ADV: for a shadow, its source's last SEQ; for an entry, the advanced SEQ. (DEDUCED: log entry 55.) -/
def recvAdv (s : State) (h : MHead) (b : List Byte) : State :=
  let n := h.dpart
  let hd := bf b 0 4 % 2 ^ 20
  if !blyFrom s h then blyReject s n
  else
    let s1 := chargeRx s n b.length
    if isShadow s n hd then modBly s1 n fun x => { x with advs := smSet 0 x.advs hd (bf b 8 8) }
    else match blyFind s n hd with
    | none => blyReject s1 n
    | some i =>
      if (smGet ({} : BlyEnt) (bly s n).ents i).seq = bf b 16 8 then
        modBly s1 n fun x => { x with ents := smMod {} x.ents i fun e => { e with adv := bf b 8 8 } }
      else blyReject s1 n

/-- A received RELEASE frees the entry. -/
def recvRelease (s : State) (h : MHead) (b : List Byte) : State :=
  let n := h.dpart
  let hd := bf b 0 4 % 2 ^ 20
  if !blyFrom s h then blyReject s n
  else
    let s1 := modBly (chargeRx s n b.length) n fun x => { x with advs := smSet 0 x.advs hd 0 }
    match blyFind s n hd with
    | none => s1
    | some i => modBly s1 n fun x => { x with ents := smErase x.ents i }

/-- A received BHB shows the source alive. -/
def recvBhb (s : State) (h : MHead) (b : List Byte) : State :=
  if blyFrom s h then chargeRx s h.dpart b.length else blyReject s h.dpart

/-- A belay message for another device goes on in the direction it travels, on the same port number of that direction when it is UP
(R404); the operator is charged. (DEDUCED: log entry 55.) -/
def forward (s : State) (p : Nat) (h : MHead) (body : List Byte) : State :=
  let d := match p / 5 with | 0 => 1 | 1 => 0 | 2 => 3 | _ => 2
  match pickPort s d p with
  | none => s
  | some q => add64 (sendOn s q h body 0 true) (operPg + 0x108) (496 * msgFlits body.length)

/-- A received belay message: its own, or one to forward. -/
def recvBelay (s : State) (p : Nat) (h : MHead) (body : List Byte) : State :=
  if h.dst ≠ myCoord s then forward s p h body
  else match h.kind with
  | .blob => recvBlob s h body
  | .adv => recvAdv s h body
  | .release => recvRelease s h body
  | .bhb => recvBhb s h body
  | .send => s | .coll => s

/-! ## Detection and promotion (R407-R409) -/

/-- The source is taken to be down. -/
def blyDetect (s : State) (n : Nat) : State :=
  let s1 := modBly (setBlyStat s n 2 true) n fun b => { b with warm := true, hot := rb s (blyReg n 0x444) 30 }
  sumDev (setEvt s1 (partPg n) belayDownBit) 0x0051 (partParty s n) (n * 2 ^ 16) []

/-- A partition that receives belay. -/
def blyRxOn (s : State) (n : Nat) : Bool := rb s (blyReg n 0x444) 31 && (part s n).st ≠ .off

/-- BHB_TIMEOUT. -/
def bhbTimeoutEff (n : Nat) (s : State) : State :=
  if blyRxOn s n && activeSt (part s n).st && !blyStat s n 2 then blyDetect s n else s

def execBhbTimeout (n : Fin 16) (s : State) : Out := .next (bhbTimeoutEff n s)

/-- BLY_CMD.PROMOTE. (DEDUCED: log entry 55.) -/
def promoteEff (n : Nat) (s : State) : State := if blyRxOn s n then blyDetect s n else s

def execPromote (n : Fin 16) (s : State) : Out := .next (pfDo s (promoteEff n))

/-- BLY_CMD.CLEAR. -/
def clearEff (n : Nat) (s : State) : State := setBlyStat (setBlyStat s n 2 false) n 3 false

def execClear (n : Fin 16) (s : State) : Out := .next (pfDo s (clearEff n))

/-- The entry's blob, opened and sealed again with the advanced SEQ under the party's current key; none when it does not open. -/
def reseal (s : State) (n : Nat) (i : Nat) (e : BlyEnt) : Option (State × List Byte) :=
  let x := blyStrm s n e
  let l := stateLen s x
  match e.cur, slotOfParty s (partParty s n) with
  | some c, some ks =>
    let b := hbmRead s (blySlot s n i c) (0x70 + l)
    if hbmPoison s (blySlot s n i c) (0x70 + l) then none
    else match keyById s (partParty s n) (bf b 0x18 8) labelBlob, (keySlot s ks).pk with
    | some k, some pk =>
      (Config.gcmOpen k ((b.drop 0x50).take 12) (b.take 0x60) ((b.drop 0x60).take l) ((b.drop (0x60 + l)).take 16)).map fun st =>
        let q := keySlot s ks
        let iv := Config.serial.take 4 ++ natLe 8 q.iv
        let hd := blobHeader e.handle l e.adv q.keyid (job s n e.job).img.fprint iv
        let ct := Config.gcmSeal (derive q.keyid pk labelBlob) iv hd st
        (setKeySlot s ks { q with iv := (q.iv + 1) % 2 ^ 64 }, hd ++ padTo (l + 16) 0 ct)
    | _, _ => none
  | _, _ => none

/-- Warm promotion of one entry: the stream is one that an import has been accepted for, PARKED from the next edge. (DEDUCED: log entry 55.) -/
def promoteOne (n : Nat) (s0 : State) (p : Nat × BlyEnt) : State :=
  let h := p.2.handle
  let e := p.2
  let s := match e.cur with
    | some c => hbmUe s0 (blySlot s0 n p.1 c) (0x70 + stateLen s0 (blyStrm s0 n e))
    | none => s0
  if (strm s h).st ≠ .free then blyReject s n
  else match reseal s n p.1 e with
  | none => blyReject s n
  | some (s1, b) =>
    let a := blyBiv s n p.1
    let l := b.length
    let s2 := charge (hbmWrite s1 a b).1 n fun z => { z with hbmRd := z.hbmRd + l, hbmWr := z.hbmWr + l }
    setSeq (setStrm s2 h { newStrm s n h .moving with job := e.job, home := e.home, biv := a, done := .imported }) h e.adv

/-- WARM_PROMOTION, once the source has been found down. -/
def warmPromotionEff (n : Nat) (s : State) : State :=
  if (bly s n).warm then each (modBly s n fun b => { b with warm := false }) ((bly s n).ents.filter fun p => p.2.cur.isSome) (promoteOne n)
  else s

def execWarmPromotion (n : Fin 16) (s : State) : Out := .next (warmPromotionEff n s)

/-- Some shadow trails its last ADV by more than its hold limit. -/
def diverged (s : State) (n : Nat) : Bool :=
  (strmsOf s n).any fun h => isShadow s n h && decide ((strm s h).seq + (strm s h).hold < smGet 0 (bly s n).advs h)

/-- DIVERGE follows the shadows; its rise is an event. (DEDUCED: log entry 55.) -/
def blyDiverge (s : State) (n : Nat) : State :=
  let d := diverged s n
  let s1 := setBlyStat s n 0 d
  if d && !blyStat s n 0 then setEvt s1 (partPg n) belayDownBit else s1

/-- The records of shadows that the partition holds back. -/
def blyHolds (s : State) (n : Nat) (r : EmRec) : Bool := !blyStat s n 3 && r.handle ≠ 0 && isShadow s n r.handle

/-- At a flip the records of shadows are held, those of the flip before discarded, before the rest is released (R409). -/
def holdShadows (s : State) (n : Nat) : State :=
  let go := emReleased s n
  let all := smGet [] s.emis n
  let new := all.drop go
  if (bly s n).held = [] && !new.any (blyHolds s n) then s
  else
    modBly { s with emis := smSet [] s.emis n (all.take go ++ new.filter fun r => !blyHolds s n r) } n fun b =>
      { b with held := new.filter (blyHolds s n) }

/-- What a partition does for belay at its flip. -/
def blyAtFlip (s : State) (n : Nat) : State := blyDiverge (holdShadows s n) n

/-- HOT_PROMOTION (R409): PROMOTED, and the held records whose SEQ exceeds the last ADV of their stream are released. -/
def hotPromotionEff (n : Nat) (s : State) : State :=
  if (bly s n).hot then
    let b := bly s n
    let out := b.held.filter fun r => decide (smGet 0 b.advs r.handle < r.seq)
    let go := emReleased s n
    let all := smGet [] s.emis n
    let s1 := blyDiverge (setBlyStat s n 3 true) n
    modIng { modBly s1 n fun b => { b with hot := false, held := [] } with
      emis := smSet [] s.emis n (all.take go ++ out ++ all.drop go) } n fun g =>
        { g with emGo := g.emGo ++ (if out = [] then [] else [out.length]) }
  else s

def execHotPromotion (n : Fin 16) (s : State) : Out := .next (hotPromotionEff n s)

end Sys2Proof.Machine
end

