-- ==== Sys2Proof/Machine/Links.lean ====
section
/-!
DEFINITION. Aiger link ports: bring-up, the checks on a received flit, groups and messages, replay, heartbeats (14_links_belay
R390-R397).
-/
namespace Sys2Proof.Machine

/-! ## Bring-up (R390, R391) -/

/-- The port starts training. -/
def lkTrain (s : State) (p : Nat) : State :=
  modLport (wrN (setLk s p 1) (lkReg p 8) 0) p fun x => { nMsg := x.nMsg, naks := x.naks, beats := x.beats }

/-- LK_CTRL: DISABLE forces DISABLED, EN = 0 takes the port DOWN, EN = 1 starts it. (DEDUCED: log entry 52.) -/
def lkCtrlEff (p : Nat) (v : Word) (s : State) : State :=
  let was := rb s (lkReg p 0) 0
  let s1 := wrN s (lkReg p 0) (wfld v 0 2)
  let st := lkState s p
  if bitAt v.toNat 1 then (if st = 4 then s1 else wf (setLk (lkDrop s1 p) p 4) (lkReg p 4) 8 8 0)
  else if bitAt v.toNat 0 then (if st = 4 || (st = 0 && !was) then lkTrain s1 p else s1)
  else if st = 1 || st = 2 || st = 3 then lkDown s1 p 0 else s1

def execLkCtrl (p : Fin 20) (v : Word) (s : State) : Out := .next (pfDo s (lkCtrlEff p v))

def trainingDoneEff (p : Nat) (s : State) : State := if lkState s p = 1 then wf (setLk s p 2) (lkReg p 4) 8 8 0xFF else s
def execTrainingDone (p : Fin 20) (s : State) : Out := .next (trainingDoneEff p s)

/-- (DESIGN CHOICE: log entry 64.) -/
def trainingTimeoutEff (p : Nat) (s : State) : State := if lkState s p = 1 then lkDown s p 5 else s
def execTrainingTimeout (p : Fin 20) (s : State) : Out := .next (trainingTimeoutEff p s)

/-- Attestation ends: UP, or DOWN with cause 7 for a wrong coordinate or partition map and 3 for authentication. (DEDUCED: log entry 52.) -/
def attestDoneEff (p : Nat) (r : AttestResult) (s : State) : State :=
  if lkState s p = 2 then
    match r with
    | .authFail => lkDown (lkAuthFail s p) p 3
    | .ok c mapOk =>
      let s1 := wrN s (lkReg p 8) (2 ^ 31 + c.val)
      if c.val = nextCoord s (p / 5) && mapOk then setEvt (setLk s1 p 3) (lkPg p) 0 else lkDown s1 p 7
  else s

def execAttestDone (p : Fin 20) (r : AttestResult) (s : State) : Out := .next (attestDoneEff p r s)

def attestTimeoutEff (p : Nat) (s : State) : State := if lkState s p = 2 then lkDown s p 3 else s
def execAttestTimeout (p : Fin 20) (s : State) : Out := .next (attestTimeoutEff p s)

/-- LINK_RETRY: a DOWN port that is enabled starts again. -/
def linkRetryEff (p : Nat) (s : State) : State :=
  if lkState s p = 0 && rb s (lkReg p 0) 0 && !rb s (lkReg p 0) 1 then lkTrain s p else s

def execLinkRetry (p : Fin 20) (s : State) : Out := .next (linkRetryEff p s)

/-! ## Groups and messages (R396, R397) -/

/-- One flit of a released group: the message it completes on its VC, if it does. -/
def takeFlit (x : LPort) (f : Nat × Bool × List Byte) : LPort × List (List Byte) :=
  let old := smGet [] x.part f.1
  let b := if f.2.1 then f.2.2 else if old = [] then [] else old ++ f.2.2
  if b = [] then (x, [])
  else if decide (16 + pf b 4 4 ≤ b.length) then ({ x with part := smSet [] x.part f.1 [] }, [b])
  else ({ x with part := smSet [] x.part f.1 b }, [])

/-- A released group: the port after it and the messages completed, in order. (DEDUCED: log entry 52.) -/
def takeGroup (x : LPort) : LPort × List (List Byte) :=
  let r := x.group.foldl (fun (r : LPort × List (List Byte)) f => let q := takeFlit r.1 f; (q.1, r.2 ++ q.2)) (x, [])
  ({ r.1 with group := [], rxEp := x.rxNext.getD x.rxEp, rxNext := none, gave := x.group.foldl (fun g f => setNth g f.1 (min 128 (nth 0 g f.1 + 1))) r.1.gave }, r.2)

/-- A message is complete; one of a reserved kind goes nowhere. -/
def deliver (p : Nat) (s : State) (b : List Byte) : State :=
  match headOf b with
  | none => s
  | some h =>
    let body := (b.drop 16).take h.len
    match h.kind with
    | .send => recvSend s p h body
    | .coll => recvColl s p h body
    | .blob => recvBelay s p h body
    | .adv => recvBelay s p h body
    | .release => recvBelay s p h body
    | .bhb => recvBelay s p h body

/-! ## A received flit (R393) -/

/-- The device sends a NAK. -/
def sendNak (s : State) (p : Nat) : State := modLport s p fun x => { x with naks := x.naks + 1, gap := true }

/-- A NAK names the flit to replay from; the flit that fails on its third replay takes the port DOWN. (DEDUCED: log entry 52.) -/
def takeNak (s : State) (p : Nat) (ack : Nat) : State :=
  let x := lport s p
  if x.sent = [] then s
  else
    let k := if x.nakN ≠ 0 && x.nakSeq = ack then x.nakN + 1 else 1
    if 4 ≤ k then lkDown s p 2
    else lkBump (modLport s p fun x => { x with nakSeq := ack, nakN := k }) p 0x24

/-- What an accepted flit does, by its TYPE. (DEDUCED: log entry 52.) -/
def flitAct (s : State) (p : Nat) (f : Flit) (good : Bool) : State :=
  if f.typ = 1 then
    modLport s p fun x => { x with group := x.group ++ [(f.vc.val, f.mstart, f.payload)], gave := setNth x.gave f.vc.val (nth 0 x.gave f.vc.val - 1) }
  else if f.typ = 2 then
    (if good then
      let q := takeGroup (lport s p)
      each (modLport s p fun _ => q.1) q.2 (deliver p)
     else lkDown (lkAuthFail s p) p 3)
  else if f.typ = 3 then (if good then s else lkAuthFail s p)
  else s

/-- A flit at a port in ATTESTING or UP, through the checks in their order. `good` tells whether the tag a TAG or HEARTBEAT flit
carries verifies. -/
def rxFlit (s : State) (p : Nat) (f : Flit) (good : Bool) : State :=
  let x := lport s p
  if !flitCrcOk f then sendNak (lkBump s p 0x20) p
  else if !flitLegal f then lkDown s p 4
  else if lkState s p = 2 && (f.typ = 1 || f.typ = 2) then s
  else if flitSeqd f && f.seq.toNat ≠ x.rxSeq then (if x.gap then s else sendNak s p)
  else if f.epoch.toNat ≠ x.rxEp then lkDown (lkAuthFail s p) p 3
  else if f.typ = 1 && nth 0 x.gave f.vc.val = 0 then lkDown s p 4
  else
    let s1 := modLport s p fun x =>
      lkAck (if flitSeqd f then { x with rxSeq := (x.rxSeq + 1) % 2 ^ 32, rxKey := x.rxKey + 1, gap := false } else x) f
    let s2 := if f.nak then takeNak s1 p f.ack.toNat else s1
    if lkState s2 p = 0 then s2 else flitAct s2 p f good

/-- A port that takes flits. -/
def lkRx (s : State) (p : Nat) : Bool := lkState s p = 2 || lkState s p = 3

/-- A flit that fails checks 1 to 3 may stand in any row; one that passes them stands in the row of its TYPE. (DEDUCED: log entry 52.) -/
def rowFits (f : Flit) (typ : Nat) : Bool := !flitCrcOk f || !flitLegal f || f.typ.toNat = typ

/-- A DATA flit stands in the row of its message's KIND, which its first flit shows. -/
def kindFits (f : Flit) (k : MKind) : Bool :=
  rowFits f 1 && (!flitCrcOk f || !flitLegal f || !f.mstart || (kindOf (pf f.payload 0 1)).all fun q => q = k)

/-- A flit arrives, where it is of the row's sort. (DEDUCED: log entry 7; DEDUCED: log entry 52.) -/
def flitEff (p : Nat) (f : Flit) (fits good : Bool) (s : State) : State := if lkRx s p && fits then rxFlit s p f good else s

def execMgmt (p : Fin 20) (f : Flit) (s : State) : Out := .next (flitEff p f (rowFits f 4) true s)
def execTag (p : Fin 20) (f : Flit) (good : Bool) (s : State) : Out := .next (flitEff p f (rowFits f 2) good s)
def execIdle (p : Fin 20) (f : Flit) (s : State) : Out := .next (flitEff p f (rowFits f 0) true s)
def execHeartbeat (p : Fin 20) (f : Flit) (good : Bool) (s : State) : Out := .next (flitEff p f (rowFits f 3) good s)

/-- NAK: a flit with NAK set, of a TYPE whose tag nothing has to tell. -/
def execNak (p : Fin 20) (f : Flit) (s : State) : Out :=
  .next (flitEff p f (f.nak && (!flitCrcOk f || !flitLegal f || (f.typ ≠ 2 && f.typ ≠ 3))) true s)

def execSend (p : Fin 20) (f : Flit) (s : State) : Out := .next (flitEff p f (kindFits f .send) true s)
def execColl (p : Fin 20) (f : Flit) (s : State) : Out := .next (flitEff p f (kindFits f .coll) true s)
def execBlob (p : Fin 20) (f : Flit) (s : State) : Out := .next (flitEff p f (kindFits f .blob) true s)
def execAdv (p : Fin 20) (f : Flit) (s : State) : Out := .next (flitEff p f (kindFits f .adv) true s)
def execRelease (p : Fin 20) (f : Flit) (s : State) : Out := .next (flitEff p f (kindFits f .release) true s)
def execBhb (p : Fin 20) (f : Flit) (s : State) : Out := .next (flitEff p f (kindFits f .bhb) true s)

/-! ## Heartbeats (R395) -/

/-- HEARTBEAT_SEND. -/
def heartbeatSendEff (p : Nat) (s : State) : State :=
  if lkRx s p then modLport s p fun x => { x with beats := x.beats + 1 } else s

def execHeartbeatSend (p : Fin 20) (s : State) : Out := .next (heartbeatSendEff p s)

/-- HEARTBEAT_TIMEOUT: the neighbour is down. (DESIGN CHOICE: log entry 64.) -/
def heartbeatTimeoutEff (p : Nat) (s : State) : State := if lkRx s p then lkDown s p 1 else s

def execHeartbeatTimeout (p : Fin 20) (s : State) : Out := .next (heartbeatTimeoutEff p s)

/-- A direction is rekeyed: at a moment the spec leaves to Sirvi, and at the latest before the flits of a second more could reach 2^31 (R391). (DEDUCED: log entry 53.) -/
def rekeys (free n : Nat) : Bool := free % 2 = 1 || decide (2 ^ 30 ≤ n)

/-- The rekeying of a port: groups sent from now on bear the next EPOCH; received ones do from the next group on. -/
def rekey (free : Nat) (x : LPort) : LPort :=
  let x1 := if rekeys free x.txKey then { x with epoch := (x.epoch + 1) % 65536, txKey := 0 } else x
  if !rekeys (free / 2) x.rxKey || x.rxNext.isSome then x1
  else if x.group = [] then { x1 with rxEp := (x.rxEp + 1) % 65536, rxKey := 0 }
  else { x1 with rxNext := some ((x.rxEp + 1) % 65536), rxKey := 0 }

/-- LINK_RETUNE: Sirvi retunes every UP port and rekeys directions of its session (R391). (DEDUCED: log entry 53.) -/
def linkRetuneEff (s : State) : State :=
  if sirviUp s then
    let r := fresh s
    each (modSirvi r.2 fun v => { v with retunes := v.retunes + 1 }) ((List.range 20).filter fun p => lkUp s p) fun s p =>
      modLport s p (rekey (r.1 / 4 ^ p))
  else s

def execLinkRetune (s : State) : Out := .next (linkRetuneEff s)

end Sys2Proof.Machine
end

