-- ==== Sys2Proof/Machine/Ports.lean ====
section
/-!
DEFINITION. The local audio ports (12_audio_ports R347-R362): configuration, frames, AES3 channel status and non-audio, chunks at the
cut-off, the output ring, and zero-crossing changes.
-/
namespace Sys2Proof.Machine

/-- An event of a port page. -/
def pEvt (s : State) (p bit : Nat) (d : Nat := 0) : State := setEvt s (portPg p) bit d

/-- Ports with an output: TDM 0-7 and AES transmitters 12-15. -/
def hasOut (p : Nat) : Bool := decide (p < 8) || decide (12 ≤ p)
def isRx (p : Nat) : Bool := decide (8 ≤ p) && decide (p < 12)

/-! ## PORT_CFG (R348) -/

/-- A reserved or inconsistent field. (DEDUCED: log entry 50.) -/
def pCfgBad (p w : Nat) : Bool :=
  decide (5 < pcRate w) || pcClk w = 3 || pcFmt w = 3 || (pcFmt w < 2 && pcSlots w ≠ 2) ||
    (decide (8 ≤ p) && (pcFmt w ≠ 0 || pcSlots w ≠ 2 || pcRate w < 3)) || (isRx p && pcClk w ≠ 1) || (pcClk w = 2 && decide (p < 12))

/-- Fields beside EN. -/
def pCfgMask : Nat := 0x1F073FDF

/-- The transmitters that follow a receiver (R351). -/
def followers (s : State) (r : Nat) : List Nat :=
  [12, 13, 14, 15].filter fun p => pcEn (pCfg s p) && pcClk (pCfg s p) = 2 && 8 + pcSrc (pCfg s p) = r

/-- A port loses lock (R350). -/
def unlockOne (s : State) (q : Nat) : State :=
  if (prt s q).lock then
    pEvt (bump (modPrt s q fun x => { x with lock := false, good := 0, csV := false, inBlk := false, tx := [] }) (portPg q) 0x144) q 1
  else modPrt s q fun x => { x with good := 0 }

/-- A port and the transmitters that follow it lose lock (R351). -/
def loseLock (s : State) (p : Nat) : State := each s (p :: followers s p) unlockOne

/-- The state a port starts from when EN becomes 1: a master is locked, a follower is locked while its receiver is. -/
def startPort (s : State) (p : Nat) : State :=
  let w := pCfg s p
  modPrt s p fun x => { x with
    lock := pcClk w = 0 || (pcClk w = 2 && (prt s (8 + pcSrc w)).lock)
    good := 0, times := [], frames := [], csA := [], csB := [], inBlk := false, csBad := false, csV := false, non := false, since := 8192
    out := [], nxt := none, hold := none, isSil := true, prev := [], tx := [], outHist := [], outPos := 0 }

/-- The state of a port that does not run: it sends zero and is not locked, and neither are the transmitters that follow it (R351). -/
def stopPort (s : State) (p : Nat) : State :=
  modPrt (each s (followers s p) unlockOne) p fun x => { x with lock := false, frames := [], times := [], out := [], nxt := none, hold := none, isSil := true, tx := [], non := false }

/-- A write of PORT_CFG. (DEDUCED: log entry 50.) -/
def portCfgEff (p : Nat) (v : Word) (s : State) : State :=
  let cur := pCfg s p
  let locked := rb s (portPg p + 0x30) 0
  let fields := if locked then Nat.land cur pCfgMask else Nat.land v.toNat pCfgMask
  let en := bitAt v.toNat 31
  if pcEn cur then
    let s1 := if Nat.land v.toNat pCfgMask = Nat.land cur pCfgMask then s else pEvt s p 7
    if en then s1 else stopPort (wrN s1 (portPg p + 0x100) (Nat.land cur pCfgMask)) p
  else if en then
    if pCfgBad p fields then pEvt s p 7 else startPort (wrN s (portPg p + 0x100) (2 ^ 31 + fields)) p
  else wrN s (portPg p + 0x100) fields

def execPortCfg (p : Fin 16) (v : Word) (s : State) : Out := .next (pfDo s (portCfgEff p v))

/-! ## Output samples (R360, R361) -/

/-- RUN, MUTE and GAIN of a word. -/
def chMask : Nat := 0xC000FFFF

/-- The targets of a channel take effect and PEND clears. (DEDUCED: log entry 50.) -/
def applyCh (s : State) (p ch : Nat) : State :=
  let s1 := wrN s (portPg p + 0x280 + 4 * ch) (Nat.land (rdN s (portPg p + 0x200 + 4 * ch)) chMask)
  modPrt s1 p fun x => { x with pend := smSet 0 x.pend ch 0 }

/-- A change of the channel waits. -/
def chPend (s : State) (p ch : Nat) : Bool := smGet 0 (prt s p).pend ch ≠ 0

/-- Output channels of a port. -/
def outChans (s : State) (p : Nat) : Nat := if 12 ≤ p then 2 else if p < 8 then pcSlots (pCfg s p) else 0

/-- CH_CTRLi: a write that changes the target starts the timer unless one runs; in silence the change applies at once. -/
def chCtrlEff (p ch : Nat) (v : Word) (s : State) : State :=
  let a := portPg p + 0x200 + 4 * ch
  let t := Nat.land v.toNat chMask
  if !hasOut p || (decide (12 ≤ p) && decide (2 ≤ ch)) then s
  else if t = Nat.land (rdN s a) chMask then s
  else
    let s1 := wrN s a t
    if chPend s p ch then s1
    else if pcEn (pCfg s p) && (prt s p).isSil then applyCh s1 p ch
    else
      wf (modPrt s1 p fun x => { x with pend := smSet 0 x.pend ch (tbNs s + 1) }) (portPg p + 0x280 + 4 * ch) 17 1 1

def execChCtrl (p : Fin 16) (ch : Fin 32) (v : Word) (s : State) : Out := .next (pfDo s (chCtrlEff p ch v))

/-- ZC_TIMEOUT (R361): the timer reaches ZC_TMO. -/
def zcTimeoutEff (p ch : Nat) (s : State) : State :=
  if chPend s p ch then
    let s1 := toTb s ((smGet 0 (prt s p).pend ch - 1 + 100000 * rf s (portPg p + 0x10C) 0 10) * uNs)
    pEvt (bump (applyCh s1 p ch) (portPg p) 0x150) p 4
  else s

def execZcTimeout (p : Fin 16) (ch : Fin 32) (s : State) : Out := .next (zcTimeoutEff p ch s)

/-- ZC_TMO: 5 to 500 tenths of a ms; a port without an output has none. -/
def zcTmoEff (p : Nat) (v : Word) (s : State) : State :=
  let k := wfld v 0 10
  if !hasOut p then s
  else if 5 ≤ k ∧ k ≤ 500 then wrN s (portPg p + 0x10C) k else pEvt s p 7

def execZcTmo (p : Fin 16) (v : Word) (s : State) : Out := .next (pfDo s (zcTmoEff p v))

/-- The value of a slot for a decoded sample (R347, R360): `c` is the CH_STAT word. -/
def outWord (pack c x : Nat) : Word :=
  let y := f32Mul x (rne32 (.fin false (fld c 0 16) (-12)))
  let lim : Nat := if pack = 0 then 15 else 23
  let code : Int := match fpDec y with
    | .fin sg m e => clampI (-(2 ^ lim)) (2 ^ lim - 1) (rneInt sg m (e + lim))
    | .inf sg => if sg then -(2 ^ lim) else 2 ^ lim - 1
    | .nan => 0
  let k := if bitAt c 31 && !bitAt c 30 then code else 0
  if pack = 0 then BitVec.ofNat 32 (lowBits 16 k * 2 ^ 16) else BitVec.ofNat 32 (lowBits 24 k * 2 ^ 8)

/-- x[n] is zero, or its sign differs from x[n−1]'s. (DEDUCED: log entry 50.) -/
def crossing (x px : Nat) : Bool := x % 2 ^ 31 = 0 || (px % 2 ^ 31 ≠ 0 && bitAt x 31 ≠ bitAt px 31)

/-- One frame of output: each channel's next sample, with the changes that its crossing brings. -/
def sendFrame (s : State) (p : Nat) : State :=
  if !hasOut p then s
  else
    let y := prt s p
    let n := outChans s p
    let xs := (List.range n).map fun c => (nth [] y.out c).headD 0
    let s1 := each s (List.range n) fun s c => if chPend s p c && crossing (nth 0 xs c) (nth 0 y.prev c) then applyCh s p c else s
    modPrt s1 p fun x => { x with
      prev := xs, out := x.out.map List.tail
      tx := if y.lock then xs.zipIdx.map fun q => outWord (pcPack (pCfg s p)) (rdN s1 (portPg p + 0x280 + 4 * q.2)) q.1 else [] }

/-! ## Lock (R350, R351) -/

/-- (DEDUCED: log entry 50.) -/
def gainLock (s : State) (p : Nat) : State :=
  each s (p :: followers s p) fun s q => pEvt (modPrt s q fun x => { x with lock := true }) q 0

/-- A frame interval of `d` ns is within 1,000 ppm of the nominal period. -/
def nearPeriod (hz d : Nat) : Bool := decide (d * hz ≤ 1001000000) && decide (999000000 ≤ d * hz)

/-- The lock part of a slave's frame at `t` ns; a frame with none before it ends no period and does not count. (DEDUCED: log entry 50.) -/
def lockFrame (s : State) (p t : Nat) (bad : Bool) : State :=
  let x := prt s p
  let first := x.times.isEmpty
  let ok := !bad && (match x.times with | [] => true | t0 :: _ => nearPeriod (pHz s p) (t - t0))
  let s1 := modPrt s p fun x => { x with times := if ok then t :: x.times.take 4096 else [t] }
  if !ok then loseLock s1 p
  else if x.lock || first then s1
  else
    let s2 := modPrt s1 p fun x => { x with good := x.good + 1 }
    if x.good + 1 = 64 then gainLock s2 p else s2

/-- AES_RATE in Hz. -/
def aesRate (s : State) (p : Nat) : Nat := let q := spanOf (prt s p); if q.2 = 0 then 0 else rneDiv (q.1 * 10 ^ 9) q.2

/-! ## Received samples -/

/-- The sample of a slot value (R347, R355). -/
def slotSample (pack : Nat) (w : Word) : Nat :=
  if pack = 0 then fracWord (sx 16 (w.toNat / 2 ^ 16)) 15 else fracWord (sx 24 (w.toNat / 2 ^ 8)) 23

/-- The samples of a frame enter the 80 ms a port keeps (R353). -/
def keepFrame (s : State) (p t : Nat) (xs : List Nat) (non wasLock : Bool) : State :=
  modPrt s p fun x => { x with
    frames := { t := t, x := xs, non := non, brk := !wasLock || x.frames.isEmpty } :: x.frames.takeWhile fun f => decide (t ≤ f.t + 80000000) }

/-! ## AES3 (R356, R357) -/

/-- The CRCC of AES3 channel status: x^8 + x^4 + x^3 + x^2 + 1 over bytes 0 to 22, preset to ones, least significant bit first. (PRESUMED: log entry 24.) -/
def crccBit (c : Nat) : Nat := if c % 2 = 1 then Nat.xor (c / 2) 0xB8 else c / 2
/-- (PRESUMED: log entry 24.) -/
def crcc (bs : List Nat) : Nat := bs.foldl (fun c b => (List.range 8).foldl (fun c _ => crccBit c) (Nat.xor c b)) 0xFF

/-- The value of bits, the first the lowest. -/
def bitsN : List Bool → Nat
  | [] => 0
  | b :: l => b2n b + 2 * bitsN l

/-- A completed block of a subframe: latched at `off` when consumer, or professional with a correct CRCC; otherwise counted. -/
def latchCs (s : State) (p off : Nat) (bits : List Bool) : State × Bool :=
  let bs := (List.range 24).map fun i => bitsN ((bits.drop (8 * i)).take 8)
  if bitAt (nth 0 bs 0) 0 && crcc (bs.take 23) ≠ nth 0 bs 23 then (bump s (portPg p) 0x158, false)
  else ((List.range 6).foldl (fun s w => wrN s (portPg p + off + 4 * w) (bitsN ((bits.drop (32 * w)).take 32))) s, true)

/-- Non-audio is declared (R357); `since` on, frames held from that time are non-audio. -/
def declareNon (s : State) (p t : Nat) : State :=
  let s1 := modPrt s p fun x => { x with non := true, frames := x.frames.map fun f => if t ≤ f.t then { f with non := true, x := f.x.map fun _ => 0 } else f }
  if (prt s p).non then s1 else pEvt s1 p 5

/-- The channel-status bits of a frame. -/
def csFrame (s : State) (p : Nat) (f : FrameIn) : State :=
  let s1 := modPrt s p fun x =>
    if f.blockZ then { x with csA := [f.csA], csB := [f.csB], inBlk := true, blkAt := f.time }
    else if x.inBlk then { x with csA := x.csA ++ [f.csA], csB := x.csB ++ [f.csB] } else x
  let x := prt s1 p
  if x.inBlk && x.csA.length = 192 then
    let a := latchCs s1 p 0x300 x.csA
    let b := latchCs a.1 p 0x318 x.csB
    let s2 := modPrt b.1 p fun y => { y with inBlk := false, csV := y.csV || (y.lock && (a.2 || b.2)), csBad := if a.2 then nth false x.csA 1 else y.csBad }
    if a.2 && nth false x.csA 1 then declareNon s2 p x.blkAt else s2
  else s1

/-- Pa in subframe A and Pb in subframe B. -/
def syncWords (f : FrameIn) : Bool := wfld (nth 0 f.slots 0) 16 16 = 0xF872 && wfld (nth 0 f.slots 1) 16 16 = 0x4E1F

/-- A receiver's frame beyond its lock. -/
def aesFrame (s : State) (p : Nat) (f : FrameIn) (wasLock : Bool) : State :=
  let s1 := csFrame s p f
  let s2 := bumpBy s1 (portPg p) 0x154 (b2n f.parA + b2n f.parB)
  let s3 := modPrt s2 p fun x => { x with since := if syncWords f then 0 else min 8192 (x.since + 1) }
  let s4 := if syncWords f then declareNon s3 p f.time else s3
  if (prt s4 p).lock then
    let a := if f.parA then 0 else slotSample 1 (nth 0 f.slots 0)
    let b := if f.parB then 0 else slotSample 1 (nth 0 f.slots 1)
    let non := (prt s4 p).non
    keepFrame s4 p f.time (if non then [0, 0] else [a, b]) non wasLock
  else s4

/-- A port that takes its clock from its pins. -/
def slavePort (s : State) (p : Nat) : Bool := pcEn (pCfg s p) && pcClk (pCfg s p) = 1

/-- PORT_FRAME (R350, R351, R356, R357, R361): a slave port or AES receiver receives a frame, and it and its followers send one. (DEDUCED: log entry 50.) -/
def portFrameEff (p : Nat) (f0 : FrameIn) (s0 : State) : State :=
  if !slavePort s0 p then s0
  else
    let s := toTb s0 (f0.time * uNs)
    let f := { f0 with time := tbNs s }
    let was := (prt s p).lock
    let s1 := lockFrame s p f.time f.bad
    let s2 := if f.bad then s1
      else if isRx p then aesFrame s1 p f was
      else if p < 8 && (prt s1 p).lock then
        keepFrame s1 p f.time ((f.slots.take (pcSlots (pCfg s p))).map (slotSample (pcPack (pCfg s p)))) false was
      else s1
    each s2 (p :: followers s2 p) sendFrame

def execPortFrame (p : Fin 16) (f : FrameIn) (s : State) : Out := .next (portFrameEff p f s)

/-- PORT_FRAME_TIMEOUT (R350): no frame within 4 nominal periods. -/
def portFrameTimeoutEff (p : Nat) (s : State) : State :=
  match (prt s p).times with
  | t :: _ =>
    if slavePort s p && (prt s p).lock && pHz s p ≠ 0 then
      modPrt (loseLock (toTb s ((t + 4000000000 / pHz s p) * uNs)) p) p fun x => { x with times := [] }
    else s
  | [] => s

def execPortFrameTimeout (p : Fin 16) (s : State) : Out := .next (portFrameTimeoutEff p s)

/-- NONAUDIO_END (R357): the latched status bit is 0 and 8,192 frames have passed without Pa and Pb. -/
def nonaudioEndEff (p : Nat) (s : State) : State :=
  let x := prt s p
  if x.non && !x.csBad && x.since = 8192 then modPrt s p fun x => { x with non := false } else s

def execNonaudioEnd (p : Fin 16) (s : State) : Out := .next (nonaudioEndEff p s)

/-! ## Master frames (R349) -/

/-- ns of frame m of a rate: the anchor and m periods, to the nearest ns. -/
def frameNs (s : State) (hz : Nat) (m : Int) : Int := rd64 s (tickPg + 0x130) + rneDivI (m * 1000000000) hz

/-- The next frame of a master port after the timebase's present reading. -/
def nextFrameNs (s : State) (p : Nat) : Nat :=
  let hz := pHz s p
  let now : Int := tbNs s
  let m := (now - rd64 s (tickPg + 0x130)) * hz / 1000000000
  let t := frameNs s hz (m + 1)
  (if now < t then t else frameNs s hz (m + 2)).toNat

/-- PORT_MASTER_FRAME: the port sends a frame at its time and, if a TDM port, receives one. (DEDUCED: log entry 50.) -/
def portMasterFrameEff (p : Nat) (slots : List Word) (s0 : State) : State :=
  let w := pCfg s0 p
  if !pcEn w || pcClk w ≠ 0 then s0
  else
    let s := toTb s0 (nextFrameNs s0 p * uNs)
    let s1 := if p < 8 then
        keepFrame s p (tbNs s) ((padTo (pcSlots w) 0 slots).map (slotSample (pcPack w))) false true else s
    sendFrame s1 p

def execPortMasterFrame (p : Fin 16) (slots : List Word) (s : State) : Out := .next (portMasterFrameEff p slots s)

/-! ## Chunks at the cut-off (R353, R354) -/

/-- Streams that a port's IN_MAP names, ascending. -/
def fedBy (s : State) (p : Nat) : List Nat :=
  ((List.range (inSlots p)).filterMap fun i => if bitAt (inMap s p i) 31 then some (fld (inMap s p i) 0 20) else none).foldl
    (fun l h => if l.contains h then l else insBy id h l) []

/-- Check 4 of R320 for a port's chunk. -/
def portFmtBad (s : State) (p h : Nat) : Bool :=
  let x := strm s h
  let q := profOf s h
  let cs := portChans s p h
  !pfEn q || pfJob q ≠ x.job || pfCodec q ≠ pcPack (pCfg s p) + 1 || pfRateC q ≠ pcRate (pCfg s p) || cs.length ≠ pfChans q ||
    !(List.range (pfChans q)).all fun c => cs.any fun z => z.1 = c

/-- The chunk of a fed stream that is not a group's, for tick `k` and a cut-off at `c` ns. -/
def portChunk (s : State) (p h k : Nat) (c : Int) : State :=
  let q := profOf s h
  let w := winStart s q c
  let ws := (List.range (pfChans q)).map fun ch => ((portChans s p h).find? fun z => z.1 = ch).bind fun z => portWin s p z.2 w (w + perNs s)
  let nons := (prt s p).frames.any fun f => f.non && decide (w ≤ f.t) && decide ((f.t : Int) < w + perNs s)
  let cause := if portFmtBad s p h || !chunkWhole s (rateHz (pfRateC q)) then some 1
    else if nons then some 7
    else if ws.any fun z => z.isNone then some 3 else none
  let x := strm s h
  let s1 := modStrm s h fun y => { y with inp := { y.inp with pseq := (y.inp.pseq + 1) % 2 ^ 32 } }
  pushChunk s1 h
    { tick := k, pres := true, seq := x.inp.pseq, ts := (w % 2 ^ 64).toNat, conc := cause
      x := if cause.isSome then silence s q else ws.map fun z => (z.getD ([], 0, false)).1
      phi := if cause.isSome then [] else ws.map fun z => (z.getD ([], 0, false)).2.1
      drift := if cause.isSome then [] else ws.map fun _ => portDrift s p }

/-- The input part of a port at the cut-off: a tick with bindings whose samples are discarded is counted, and the partition's fed streams
get their chunks. -/
def portCutoff (s : State) (k : Nat) (p : Nat) : State :=
  let w := pCfg s p
  let hs := fedBy s p
  let s1 := if pcEn w && hs.any fun h => !feedOk s p h then bump s (portPg p) 0x140 else s
  if !pcEn w || !pcPartV w || !activeSt (part s (pcPart w)).st then s1
  else match cutNs s with
  | none => s1
  | some c =>
    each s1 (hs.filter fun h => feedOk s p h && !pfGroup (profOf s h)) fun s h => portChunk s p h k c

/-! ## The output ring (R358, R359) -/

/-- OUT_PI, under R312. -/
def outPiEff (p : Nat) (v : Word) (s : State) : State :=
  if !hasOut p then s
  else if piOk (rdN s (portPg p + 0x128)) (rdN s (portPg p + 0x12C)) (rdN s (portPg p + 0x130)) v.toNat then wr s (portPg p + 0x12C) v
  else pEvt s p 7

def execOutPi (p : Fin 16) (v : Word) (s : State) : Out := .next (pfDo s (outPiEff p v))

/-- A record is good (R358). -/
def outGood (s : State) (p : Nat) (r : List Byte) : Bool :=
  let w := pCfg s p
  let nc := chunkLen s (pHz s p)
  rcOk1 (ringSz (rdN s (portPg p + 0x128))) r && pf r 4 4 = 0 && pf r 0x14 1 = pcPack w + 1 && pf r 0x16 1 = pcRate w &&
    rcChans r = pcSlots w && chunkWhole s (pHz s p) && pf r 0x18 2 = nc && rcPlen r = nc * rcChans r * codecW (pcPack w + 1) &&
    (rcDisc r || match (prt s p).outSeq with | some q => q = rcSeq r | none => true)

/-- The record at the consumer index, taken as the tick's output chunk. -/
def takeOut (s : State) (p : Nat) (rec : Option (List Byte)) : State :=
  let ci := rdN s (portPg p + 0x130)
  let s1 := wrN s (portPg p + 0x130) ((ci + 1) % 2 ^ 32)
  let bad (s : State) : State := pEvt (bump (modPrt s p fun x => { x with nxt := none }) (portPg p) 0x148) p 2 ci
  match rec with
  | none => bad (hostReadErr s1 (partFn s1 (pcPart (pCfg s p))))
  | some r =>
    if outGood s p r then
      modPrt s1 p fun x => { x with
        nxt := some (decAudio (pcPack (pCfg s p) + 1) (rcChans r) (pf r 0x18 2) (rcPay r)), outSeq := some ((rcSeq r + 1) % 2 ^ 32) }
    else bad s1

/-- The output part of a port at the cut-off; without a partition there is no function whose ring could be read. (DEDUCED: log entry 50.) -/
def outCutoff (outs : List (Option (List Byte))) (s : State) (p : Nat) : State :=
  if !hasOut p || !pcEn (pCfg s p) then s
  else if pcPartV (pCfg s p) && ringOn (rdN s (portPg p + 0x128)) && rdN s (portPg p + 0x130) ≠ rdN s (portPg p + 0x12C) then takeOut s p (nth none outs p)
  else pEvt (bump (modPrt s p fun x => { x with nxt := none }) (portPg p) 0x14C) p 3

/-- Output frames that a port with a measured clock makes of `n` samples, from the position its resampler stands at (R359). -/
def outCount (hz : Nat) (q : Nat × Nat) (n : Nat) (pos : Int) : Nat :=
  (cdiv ((n * 1000000000 - pos).toNat * q.1) (hz * q.2))

/-- A channel's samples at the measured clock, and the history (R329, R359). (DESIGN CHOICE: log entry 49.) -/
def outResample (hz : Nat) (q : Nat × Nat) (pos : Int) (hist l : List Nat) : List Nat :=
  (List.range (outCount hz q l.length pos)).map fun (k : Nat) => firAt hz hz hist l (pos + (k * hz * q.2 / q.1 : Nat))

/-- The chunk whose samples are sent from this edge on: that of the cut-off before the previous edge. A port with a measured clock sends
it resampled, the phase carried from chunk to chunk (R359). -/
def outEdge (s : State) (p : Nat) : State :=
  if !pcEn (pCfg s p) then s
  else
    let x := prt s p
    let hz := pHz s p
    let q := spanOf (if pcClk (pCfg s p) = 2 then prt s (8 + pcSrc (pCfg s p)) else x)
    let chs := x.hold.getD []
    if pcClk (pCfg s p) = 0 || q.2 = 0 || q.1 = 0 || hz = 0 then
      modPrt s p fun x => { x with out := chs, isSil := x.hold.isNone, hold := x.nxt, nxt := none }
    else
      let n := (chs.headD []).length
      modPrt s p fun x => { x with
        out := chs.zipIdx.map fun z => outResample hz q x.outPos (nth [] x.outHist z.2) z.1
        outHist := chs.zipIdx.map fun z => lastN 32 (nth [] x.outHist z.2 ++ z.1)
        outPos := x.outPos + (outCount hz q n x.outPos * hz * q.2 / q.1 : Nat) - (n * 1000000000 : Nat)
        isSil := x.hold.isNone, hold := x.nxt, nxt := none }

/-- PORT_STAT (R350, R361). -/
def portStat (s : State) (p : Nat) : Nat :=
  4 * b2n (!(prt s p).pend.isEmpty) + 2 * b2n (prt s p).lock + b2n (pcEn (pCfg s p))

/-- AES_STAT (R356, R357). -/
def aesStat (s : State) (p : Nat) : Nat :=
  let x := prt s p
  8 * b2n (rb s (portPg p + 0x300) 0) + 4 * b2n x.csV + 2 * b2n (decide (x.since < 8192)) + b2n x.non

/-- Zeroisation of a partition (R362). -/
def zeroPorts (s : State) (n : Nat) : State :=
  each s (List.range 16) fun s p =>
    let mine := pcPart (pCfg s p) = n && pcPartV (pCfg s p)
    let s1 := each s (List.range (inSlots p)) fun s i =>
      let h := fld (inMap s p i) 0 20
      if (strm s h).st ≠ .free && (strm s h).part = n then wrN s (portPg p + 0x180 + 4 * i) 0 else s
    if mine then
      modPrt (wf s1 (portPg p + 0x100) 28 1 0) p fun x => { x with out := [], nxt := none, hold := none, isSil := true, tx := x.tx.map fun _ => 0 }
    else s1

end Sys2Proof.Machine
end

