-- ==== Sys2Proof/Machine/Keys.lean ====
section
/-!
DEFINITION. Key service requests, policy and steady mode (13_parties R367-R374, R379, R382, R387, R388).
-/
namespace Sys2Proof.Machine

def sess (s : State) (i : Nat) : Sess := smGet {} s.sess i
def setSess (s : State) (i : Nat) (x : Sess) : State := { s with sess := smSet {} s.sess i x }

/-- The last response of an endpoint. -/
def setRsp (s : State) (e : Nat) (r : SpdmRsp) : State := { s with spdm := smSet .none s.spdm e r }

def stdy (s : State) (p : Nat) : Stdy := smGet {} s.stdy p
def modStdy (s : State) (p : Nat) (f : Stdy → Stdy) : State := { s with stdy := smSet {} s.stdy p (f (stdy s p)) }

def dbgOn (s : State) : Bool := s.sirvi.dbg.isSome

/-- The key that protects granule `g`: WK of the key slot that its party window names, the device key in the device area (R279). -/
def granKey (s : State) (g : Nat) : Option (List Byte) :=
  ((List.range 17).find? fun w => winValid s w && decide (winBase s w ≤ 128 * g) && decide (128 * g + 128 ≤ winBase s w + winSize s w)).bind fun w =>
    if w = 0 then s.sirvi.devKey else (keySlot s (rf s (hbmPg + 0x210 + 0x20 * w) 16 4)).wk

/-- What the HBM devices hold of granule `g`: its data unit encrypted, with the granule's number as the tweak (R279). (DEDUCED: log entry 7.) -/
def granCipher (s : State) (g : Nat) : List Byte :=
  match granKey s g with
  | some k => Config.xts k g (memRead 0 s.hbm (128 * g) 128)
  | none => memRead 0 s.hbm (128 * g) 128

/-- A window is invalid, and its range is zero before its next use (09_memory R277, R381). -/
def dropWindow (s : State) (p : Nat) : State :=
  if winValid s p then wrN (hbmClear s (winBase s p) (winSize s p)) (hbmPg + 0x210 + 0x20 * p) 0 else s

/-- The requester of a session is the slot's: mutual authentication with REQHASH (R369). (DEDUCED: log entry 22.) -/
def keyAuth (s : State) (session slot : Nat) : Bool :=
  (sess s session).live && (sess s session).done && (sess s session).auth && (keySlot s slot).party ≠ 0 &&
    (sess s session).hash = (keySlot s slot).reqHash

/-- A key service request: `pend` says that a waiting rotation bars it, `f` gives its status and, at status 0, its effect; the answer
goes to the session's endpoint (R369, R372, R373, R387). While a mailbox command runs the request waits (R429), and the debug entry that runs ends its
session (R386). (DEDUCED: log entry 22.) -/
def keyReq (session slot : Nat) (pend : Bool) (chk : State → Nat) (f : State → State) (s : State) : State :=
  if !(sirviUp s && (sess s session).live) || mbBusy s then s
  else
    let k := keySlot s slot
    let st := if dbgOn s then 4 else if !keyAuth s session slot then 1
      else if k.erasing || (pend && k.rot.isSome) then 5 else chk s
    let e := (sess s session).ep
    if st = 0 then setRsp (f s) e (.vendor 0) else setRsp s e (.vendor st)

/-- Another slot holds a key identifier, also one that waits to enter it. -/
def idHeld (s : State) (slot id : Nat) : Bool :=
  (List.range 16).any fun i => i ≠ slot && ((keySlot s i).keyid = id || (keySlot s i).rkeyid = id ||
    (match (keySlot s i).rot with | some r => r.1 = id | none => false))

/-- The summit entry of a key service request. -/
def keyEntry (s : State) (typ slot id : Nat) (payload : List Byte) : State :=
  sumCmd s typ 3 (keySlot s slot).party id (slot * 2 ^ 24) payload

def keySetEff (session slot : Nat) (id : DWord) (key : List Byte) : State → State :=
  keyReq session slot true
    (fun s => if (keySlot s slot).pk.isSome then 2 else if id = 0 ∨ key.length ≠ 32 ∨ idHeld s slot id.toNat then 3 else 0)
    fun s => setKeySlot (keyEntry s 0x0022 slot id.toNat []) slot { keySlot s slot with keyid := id.toNat, pk := some key, iv := 0 }

def execKeySet (session : Nat) (slot : Fin 16) (id : DWord) (key : List Byte) (s : State) : Out :=
  .next (keySetEff session slot id key s)

def keyRotateEff (session slot : Nat) (id : DWord) (key : List Byte) : State → State :=
  keyReq session slot true
    (fun s =>
      let k := keySlot s slot
      if k.pk.isNone then 2
      else if id = 0 ∨ key.length ≠ 32 ∨ id.toNat = k.keyid ∨ id.toNat = k.rkeyid ∨ idHeld s slot id.toNat then 3 else 0)
    fun s => setKeySlot (keyEntry s 0x0023 slot id.toNat []) slot { keySlot s slot with rot := some (id.toNat, key) }

def execKeyRotate (session : Nat) (slot : Fin 16) (id : DWord) (key : List Byte) (s : State) : Out :=
  .next (keyRotateEff session slot id key s)

def keyDropOldEff (session slot : Nat) : State → State :=
  keyReq session slot true (fun s => if (keySlot s slot).rk.isNone then 2 else 0)
    fun s => setKeySlot (keyEntry s 0x0024 slot (keySlot s slot).rkeyid []) slot { keySlot s slot with rkeyid := 0, rk := none }

def execKeyDropOld (session : Nat) (slot : Fin 16) (s : State) : Out := .next (keyDropOldEff session slot s)

/-- Step 1 of R373: TEARDOWN of every partition of the party that is not OFF. -/
def tearParty (s : State) (p : Nat) : State :=
  each s (partsOfParty s p) fun s n => if tearable (part s n).st then teardownPart s n else s

/-- KEY_ERASE (R373): answered when it is complete. -/
def keyEraseEff (session slot : Nat) (s : State) : State :=
  if !(sirviUp s && (sess s session).live) || mbBusy s then s
  else
    let e := (sess s session).ep
    if dbgOn s then setRsp s e (.vendor 4)
    else if !keyAuth s session slot then setRsp s e (.vendor 1)
    else if (keySlot s slot).erasing then setRsp s e (.vendor 5)
    else
      let s1 := tearParty s (keySlot s slot).party
      setKeySlot s1 slot { keySlot s1 slot with rot := none, erasing := true, ep := e }

def execKeyErase (session : Nat) (slot : Fin 16) (s : State) : Out := .next (keyEraseEff session slot s)

/-- SHIELD of a party as it stands, with the messages that a change brings (R379). -/
def setShield (s : State) (p : Nat) (b : Bool) : State :=
  let s1 := wf s (ptyPg p + 0x200) 0 1 (b2n b)
  irqSyncs s s1 (ptyPg p :: (partsOfParty s p).flatMap fun n => shieldPages s n)

/-- Every steady field of a party is cleared (R388). -/
def clearSteady (s : State) (p : Nat) : State :=
  let sh := (stdy s p).shield
  let s1 := modStdy (wrN s (ptyPg p + 0x218) 0) p fun _ => { shield := sh }
  setShield (each s1 (List.range 7) fun s i => wr64 s (ptyPg p + 0x240 + 8 * i) 0) p sh

/-- A slot's keys, window key and vector counter are zeroed and its window is invalid; the binding stays (R373, R374). -/
def eraseSlot (s : State) (i : Nat) : State :=
  let k := keySlot s i
  let s1 := if k.party = 0 then s else dropWindow s k.party
  setKeySlot s1 i { party := k.party, reqHash := k.reqHash }

/-- KEY_ERASE_COMPLETE (R373): the party's partitions are all OFF; steps 3 and 4, the entry, the answer. -/
def keyEraseCompleteEff (slot : Nat) (s : State) : State :=
  let k := keySlot s slot
  if k.erasing && partsOfParty s k.party = [] then
    setRsp (clearSteady (eraseSlot (keyEntry s 0x0025 slot k.keyid []) slot) k.party) k.ep (.vendor 0)
  else s

def execKeyEraseComplete (slot : Fin 16) (s : State) : Out := .next (keyEraseCompleteEff slot s)

/-! ## Policy and steady mode (R379, R382) -/

def steadyOn (s : State) (p : Nat) : Bool := rb s (ptyPg p + 0x218) 31

/-- POLICY_SET. -/
def policySetEff (session slot : Nat) (shield reqTdi : Bool) : State → State :=
  keyReq session slot false (fun _ => 0) fun s =>
    let p := (keySlot s slot).party
    let s1 := modStdy (keyEntry s 0x0026 slot (keySlot s slot).keyid (natLe 1 (b2n shield) ++ natLe 1 (b2n reqTdi))) p
      fun x => { x with shield := shield }
    setShield (wf s1 (ptyPg p + 0x200) 1 1 (b2n reqTdi)) p (shield || steadyOn s p)

def execPolicySet (session : Nat) (slot : Fin 16) (shield reqTdi : Bool) (s : State) : Out :=
  .next (policySetEff session slot shield reqTdi s)

/-- Store the seven budgets, EMIT and PAVG. -/
def putBudgets (s : State) (p : Nat) (b : List Nat) (emit pavg : Nat) : State :=
  let s1 := each s (List.range 7) fun s i => wr64 s (ptyPg p + 0x240 + 8 * i) (nth 0 b i)
  wf (wf s1 (ptyPg p + 0x218) 8 4 emit) (ptyPg p + 0x218) 0 6 pavg

/-- STEADY_SET: while steady mode is active the new budgets wait for the edge after their ACK. -/
def steadySetEff (session slot : Nat) (budgets : List DWord) (emit pavg : Nat) : State → State :=
  keyReq session slot false
    (fun s =>
      if (keySlot s slot).pk.isNone then 2
      else if budgets.length ≠ 7 ∨ emit = 0 ∨ 8 < emit ∨ pavg = 0 ∨ 60 < pavg then 3 else 0)
    fun s =>
      let p := (keySlot s slot).party
      let a := ptyPg p + 0x218
      let b := budgets.map fun x => x.toNat
      let gen := (rf s a 16 8 + 1) % 256
      let s1 := keyEntry s 0x0028 slot (keySlot s slot).keyid (b.flatMap (natLe 8) ++ natLe 1 gen)
      let s2 := wf (wf s1 a 16 8 gen) a 30 1 1
      if steadyOn s p then modStdy s2 p fun x => { x with next := some (b, emit, pavg), ack := false }
      else modStdy (putBudgets s2 p b emit pavg) p fun x => { x with next := none, ack := false }

def execSteadySet (session : Nat) (slot : Fin 16) (budgets : List DWord) (emit pavg : Nat) (s : State) : Out :=
  .next (steadySetEff session slot budgets emit pavg s)

/-- STEADY_CLEAR: what is pending goes at once, steady mode at the next edge. (DEDUCED: log entry 22.) -/
def steadyClearEff (session slot : Nat) : State → State :=
  keyReq session slot false (fun _ => 0) fun s =>
    let p := (keySlot s slot).party
    let s1 := keyEntry s 0x002B slot (keySlot s slot).keyid (natLe 1 (rf s (ptyPg p + 0x218) 16 8))
    modStdy (wf s1 (ptyPg p + 0x218) 30 1 0) p fun x => { x with next := none, ack := false, clear := steadyOn s p }

def execSteadyClear (session : Nat) (slot : Fin 16) (s : State) : Out := .next (steadyClearEff session slot s)

/-- PTY_STEADY_ACK of party p: ACCEPT with the GEN that is pending. (DEDUCED: log entry 22.) -/
def ptySteadyAckEff (p : Nat) (v : Word) (s : State) : State :=
  let a := ptyPg p + 0x218
  if bitAt v.toNat 8 && rb s a 30 && fld v.toNat 0 8 = rf s a 16 8 then
    modStdy (sumCmd s 0x0029 1 p 0 0 (natLe 1 (rf s a 16 8))) p fun x => { x with ack := true }
  else s

def execPtySteadyAck (r : Requester) (p : Fin 16) (v : Word) (s : State) : Out :=
  .next (hostWr s r (ptyPg (p + 1) + 0x21C) (ptySteadyAckEff (p + 1) v))

/-- A party's steady mode at a device edge. -/
def steadyEdge (s : State) (p : Nat) : State :=
  let x := stdy s p
  let a := ptyPg p + 0x218
  if x.clear then setShield (modStdy (wf s a 31 1 0) p fun x => { x with clear := false }) p x.shield
  else if x.ack then
    let s1 := match x.next with | some (b, e, g) => putBudgets s p b e g | none => s
    let s2 := modStdy (wf (wf s1 a 31 1 1) a 30 1 0) p fun x => { x with ack := false, next := none }
    sumCmd (setShield s2 p true) 0x002A 0 p 0 0 (natLe 1 (rf s a 16 8))
  else s

/-- A waiting rotation takes effect at the edge (R372). -/
def rotateEdge (s : State) (i : Nat) : State :=
  let k := keySlot s i
  match k.rot with
  | some (id, key) => setKeySlot s i { k with rkeyid := k.keyid, rk := k.pk, keyid := id, pk := some key, iv := 0, rot := none }
  | none => s

/-- Keys and steady mode at a device edge. -/
def partiesEdge (s : State) : State :=
  each (each s (List.range 16) rotateEdge) (List.range 16) fun s i => steadyEdge s (i + 1)

/-! ## Registers of the party page that show a slot -/

/-- PTY_KEYSTAT of party p. -/
def keyStat (s : State) (p : Nat) : Nat :=
  match slotOfParty s p with
  | none => 0
  | some i =>
    let k := keySlot s i
    i * 2 ^ 16 + 2 ^ 8 + 8 * b2n k.wk.isSome + 4 * b2n k.rot.isSome + 2 * b2n k.rk.isSome + b2n k.pk.isSome

/-- KEYID and RKEYID of party p. -/
def keyIds (s : State) (p : Nat) : Nat × Nat :=
  match slotOfParty s p with
  | none => (0, 0)
  | some i => ((keySlot s i).keyid, (keySlot s i).rkeyid)

end Sys2Proof.Machine
end

