-- ==== Sys2Proof/Machine/Spdm.lean ====
section
/-!
DEFINITION. The SPDM responder, IDE keys and TDISP messages (13_parties R364-R366, R376; 16_host_registers R443, R449, R450). What a
requester does to prove itself is an operand; signatures, certificates and digests are Config's.
-/
namespace Sys2Proof.Machine

/-- An endpoint answers: Sirvi is up, and for the DOE mailboxes the host's link, with the VF enabled (R365, R414, R441). -/
def epUp (s : State) (e : Nat) : Bool :=
  sirviUp s && (e = 17 || (hostUp s && (e = 0 || decide (e ≤ numVfs s))))

/-- A message to an endpoint that answers. -/
def spdmDo (e : Nat) (f : State → State) (s : State) : State := if epUp s e then f s else s

/-- A message that only asks. -/
def spdmAsk (e : Nat) (r : State → SpdmRsp) : State → State := spdmDo e fun s => setRsp s e (r s)

def getVersionEff (e : Nat) : State → State := spdmAsk e fun _ => .version
def getCapabilitiesEff (e : Nat) : State → State := spdmAsk e fun _ => .capabilities
def negotiateAlgorithmsEff (e : Nat) : State → State := spdmAsk e fun _ => .algorithms
def getDigestsEff (e : Nat) : State → State := spdmAsk e fun _ => .digests (Config.sha384 Config.certChain)
def getCertificateEff (e : Nat) : State → State := spdmAsk e fun _ => .certificate Config.certChain
def challengeEff (e : Nat) (nonce : List Byte) : State → State :=
  spdmAsk e fun _ => .challengeAuth (Config.ecdsaSign (Config.sha384 Config.certChain ++ nonce))

def execGetVersion (e : Endpoint) (s : State) : Out := .next (getVersionEff e s)
def execGetCapabilities (e : Endpoint) (s : State) : Out := .next (getCapabilitiesEff e s)
def execNegotiateAlgorithms (e : Endpoint) (s : State) : Out := .next (negotiateAlgorithmsEff e s)
def execGetDigests (e : Endpoint) (s : State) : Out := .next (getDigestsEff e s)
def execGetCertificate (e : Endpoint) (s : State) : Out := .next (getCertificateEff e s)
def execChallenge (e : Endpoint) (nonce : List Byte) (s : State) : Out := .next (challengeEff e nonce s)

/-! ## Measurements (R366) -/

/-- Image of the running firmware slot. -/
def runImage (s : State) : List Byte :=
  match s.sirvi.run with
  | some false => s.sirvi.slotA.image
  | some true => s.sirvi.slotB.image
  | none => []

/-- Version in a firmware header (15_sirvi R424). -/
def fwVersion (image : List Byte) : Nat := leNat ((image.drop 0x0C).take 4)

/-- Value of anti-rollback counter `i`. -/
def fuseCnt (s : State) (i : Nat) : Nat := smGet 0 s.sirvi.fuses i

/-- Words of a run of registers, as bytes. -/
def regBytes (s : State) (a n : Nat) : List Byte := (List.range n).flatMap fun i => natLe 4 (rdN s (a + 4 * i))

/-- Key slot table of block 4. -/
def slotTable (s : State) : List Byte :=
  (List.range 16).flatMap fun i =>
    let k := keySlot s i
    natLe 1 k.party ++ padTo 48 0 k.reqHash ++ natLe 8 k.keyid ++ natLe 8 k.rkeyid

/-- The content of a measurement block; none for an index that has none. -/
def measBlock (s : State) (i : Nat) : Option (List Byte) :=
  match i with
  | 1 => some (Config.sha384 (Config.romImage ++ runImage s))
  | 2 => some (natLe 4 (fwVersion (runImage s)) ++ (List.range 64).flatMap fun i => natLe 1 (fuseCnt s i))
  | 3 => some (Config.sha384 ([1] ++ natLe 1 (b2n (dbgOn s)) ++ [0xB0]))
  | 4 => some (Config.sha384 (slotTable s))
  | 5 => some (Config.sha384 (regBytes s (hbmPg + 0x100) 1 ++ regBytes s (hbmPg + 0x140) 16 ++
      (List.range 17).flatMap fun w => regBytes s (hbmPg + 0x200 + 0x20 * w) 5 ++ regBytes s (hbmPg + 0x600 + 0x40 * w) 12))
  | 6 => some ((List.range 16).flatMap fun k =>
      regBytes s (ptyPg (k + 1) + 0x200) 1 ++ regBytes s (ptyPg (k + 1) + 0x218) 1 ++ regBytes s (ptyPg (k + 1) + 0x240) 14)
  | 7 => some (Config.sha384 (s.sirvi.summit.head ++ natLe 8 s.sirvi.summit.next))
  | _ => none

/-- GET_MEASUREMENTS of one block, or of all (0xFF), signed over the requester's nonce. (DEDUCED: log entry 51.) -/
def getMeasurementsEff (e block : Nat) (nonce : List Byte) : State → State :=
  spdmAsk e fun s =>
    let is := if block = 0xFF then [1, 2, 3, 4, 5, 6, 7] else [block]
    let bs := is.filterMap fun i => (measBlock s i).map fun b => (i, b)
    if bs = [] then .error else .measurements bs (Config.ecdsaSign ((bs.flatMap fun b => b.2) ++ nonce))

def execGetMeasurements (e : Endpoint) (block : Nat) (nonce : List Byte) (s : State) : Out :=
  .next (getMeasurementsEff e block nonce s)

/-! ## Sessions (R365) -/

/-- KEY_EXCHANGE: the lowest free of 8 sessions, or Busy. (DEDUCED: log entry 51.) -/
def keyExchangeEff (e : Nat) (h : List Byte) : State → State :=
  spdmDo e fun s =>
    match (List.range 8).find? fun i => !(sess s i).live with
    | some i => setRsp (setSess s i { live := true, ep := e, hash := h }) e (.keyExchange i)
    | none => setRsp s e .busy

def execKeyExchange (e : Endpoint) (h : List Byte) (s : State) : Out := .next (keyExchangeEff e h s)

/-- A message of a session of endpoint `e`, in the state that `ok` asks. -/
def sessDo (e i : Nat) (ok : Sess → Bool) (f : State → State) : State → State :=
  spdmDo e fun s => if (sess s i).live && (sess s i).ep = e && ok (sess s i) then f s else setRsp s e .error

/-- (DEDUCED: log entry 51.) -/
def finishEff (e i : Nat) (auth : Bool) : State → State :=
  sessDo e i (fun x => !x.done) fun s => setRsp (setSess s i { sess s i with done := true, auth := auth }) e .finish
def spdmHeartbeatEff (e i : Nat) : State → State := sessDo e i (fun x => x.done) fun s => setRsp s e .heartbeatAck
def keyUpdateEff (e i : Nat) : State → State :=
  sessDo e i (fun x => x.done) fun s => setRsp (setSess s i { sess s i with upd := (sess s i).upd + 1 }) e .keyUpdateAck
def endSessionEff (e i : Nat) : State → State :=
  sessDo e i (fun _ => true) fun s => setRsp (setSess s i {}) e .endSessionAck

def execFinish (e : Endpoint) (i : Nat) (auth : Bool) (s : State) : Out := .next (finishEff e i auth s)
def execSpdmHeartbeat (e : Endpoint) (i : Nat) (s : State) : Out := .next (spdmHeartbeatEff e i s)
def execKeyUpdate (e : Endpoint) (i : Nat) (s : State) : Out := .next (keyUpdateEff e i s)
def execEndSession (e : Endpoint) (i : Nat) (s : State) : Out := .next (endSessionEff e i s)

/-- Entries of the summit register from a sequence number on, with what SUMMIT_INFO gives (15_sirvi R423). -/
def spdmSummitReadEff (e first : Nat) : State → State :=
  spdmAsk e fun s => .summit (sumFirst s) (sumLast s) s.sirvi.summit.head ((sumAll s).filter fun x => decide (first ≤ sumSeq x))

def execSpdmSummitRead (e : Endpoint) (first : Nat) (s : State) : Out := .next (spdmSummitReadEff e first s)

/-! ## IDE (16_host_registers R449): streams 0-16 are the selective streams of functions 0-16, 17 the link stream -/

def ide (s : State) (k : Nat) : Ide := smGet {} s.ide k
def setIde (s : State) (k : Nat) (x : Ide) : State := { s with ide := smSet {} s.ide k x }

/-- The bit of FN_IDE that shows a stream. (DEDUCED: log entry 29.) -/
def ideBit (k : Nat) : Nat := if k = 17 then 31 else k

/-- The function that owns a stream. -/
def ideOwner (k : Nat) : Nat := if k = 17 then 0 else k

/-- IDE_KM: a key set is programmed through the owner's DOE mailbox. -/
def ideKmEff (e i k : Nat) (set : Bool) (key : List Byte) : State → State :=
  sessDo e i (fun x => x.done && ideOwner k = e) fun s =>
    setRsp (setIde s k (if set then { ide s k with k1 := key } else { ide s k with k0 := key })) e .ideAck

def execIdeKm (e : Endpoint) (i : Nat) (k : Fin 18) (set : Bool) (key : List Byte) (s : State) : Out :=
  .next (ideKmEff e i k set key s)

/-- K_SET_GO: the stream goes over to a programmed key set and is secure. -/
def kSetGoEff (e i k : Nat) (set : Bool) : State → State :=
  sessDo e i (fun x => x.done && ideOwner k = e) fun s =>
    if (if set then (ide s k).k1 else (ide s k).k0) = [] then setRsp s e .error
    else setRsp (wf (setIde s k { ide s k with cur := some set }) (funcsPg + 0x108) (ideBit k) 1 1) e .ideAck

def execKSetGo (e : Endpoint) (i : Nat) (k : Fin 18) (set : Bool) (s : State) : Out := .next (kSetGoEff e i k set s)

/-- A stream ends: its keys go, and a locked or running TDI behind it goes to ERROR (R376). -/
def ideEnd (s : State) (k : Nat) : State :=
  let s1 := wf (setIde s k {}) (funcsPg + 0x108) (ideBit k) 1 0
  if k = 0 ∨ k = 17 then s1 else if tdi s1 (k - 1) = 1 ∨ tdi s1 (k - 1) = 2 then tdiError s1 (k - 1) else s1

/-! ## TDISP (R376, R450): VF k + 1 has DOE endpoint k + 1 -/

/-- The selective stream of VF k + 1 is secure. -/
def ideSecure (s : State) (k : Nat) : Bool := rb s (funcsPg + 0x108) (k + 1)

/-- LOCK_INTERFACE. -/
def lockInterfaceEff (k i : Nat) : State → State :=
  sessDo (k + 1) i (fun x => x.done) fun s =>
    if tdi s k = 0 && ideSecure s k then setRsp (setTdi s k 1) (k + 1) (.tdisp 1) else setRsp s (k + 1) .error

def execLockInterface (k : Fin 16) (i : Nat) (s : State) : Out := .next (lockInterfaceEff k i s)

/-- START_INTERFACE. -/
def startInterfaceEff (k i : Nat) : State → State :=
  sessDo (k + 1) i (fun x => x.done) fun s =>
    if tdi s k = 1 then setRsp (setTdi s k 2) (k + 1) (.tdisp 2) else setRsp s (k + 1) .error

def execStartInterface (k : Fin 16) (i : Nat) (s : State) : Out := .next (startInterfaceEff k i s)

/-- STOP_INTERFACE: to CONFIG_UNLOCKED through ERROR. (DEDUCED: log entry 51.) -/
def stopInterfaceEff (k i : Nat) : State → State :=
  sessDo (k + 1) i (fun x => x.done) fun s =>
    let s1 := if tdi s k = 0 then s else setTdi (tdiError s k) k 0
    setRsp s1 (k + 1) (.tdisp 0)

def execStopInterface (k : Fin 16) (i : Nat) (s : State) : Out := .next (stopInterfaceEff k i s)

end Sys2Proof.Machine
end

