-- ==== Sys2Proof/Machine/ExpDecode.lean ====
section
/-!
DEFINITION. The formats of weight streams (10_weight_streams R289-R297, R305-R308): headers, directory, rANS and EXP16 decoding.
-/
namespace Sys2Proof.Machine

/-! ## The TWS stream (R289-R291) -/

def twFmt (h : List Byte) : Nat := bf h 6 1
def twSealed (h : List Byte) : Bool := bf h 7 1 = 1
def twNblk (h : List Byte) : Nat := bf h 0x14 4
def twTab (h : List Byte) : Nat := bf h 0x58 4
def twDir (h : List Byte) : Nat := bf h 0x5C 4
def twData (h : List Byte) : Nat := bf h 0x60 4
def twLen (h : List Byte) : Nat := bf h 0x64 4

/-- b, bits of a code. -/
def twBits (h : List Byte) : Nat := match twFmt h with | 1 => 4 | 2 => 3 | 3 => 2 | _ => 8

/-- Bytes of a GCM tag where the stream is sealed. -/
def twTag (h : List Byte) : Nat := if twSealed h then 16 else 0

/-- A list of bytes is all zero. -/
def allZero (l : List Byte) : Bool := l.all fun b => b = 0

/-- The header's fields and offsets are right (check 1 of R295, without the frequencies). -/
def twHeadOk (h : List Byte) (len : Nat) : Bool :=
  bf h 0 4 = 0x54395753 && bf h 4 2 = 1 && decide (1 ≤ twFmt h) && decide (twFmt h ≤ 4) && decide (bf h 7 1 ≤ 1) &&
    decide (1 ≤ bf h 8 4) && decide (1 ≤ bf h 0xC 4) && decide (1 ≤ twNblk h) && decide (twNblk h ≤ 65536) &&
    (twSealed h || (bf h 0x18 8 = 0 && bf h 0x50 8 = 0)) && allZero ((h.drop 0x68).take 152) &&
    twTab h % 64 = 0 && twDir h % 64 = 0 && twData h % 64 = 0 && decide (256 ≤ twTab h) &&
    decide (twTab h + 2 * 2 ^ twBits h ≤ twDir h) && decide (twDir h + 16 * twNblk h + twTag h ≤ twData h) &&
    decide (twData h ≤ twLen h) && twLen h = len

/-- The frequencies of the rANS table at a stream's address. -/
def twFreq (s : State) (a : Nat) (h : List Byte) : List Nat :=
  (List.range (2 ^ twBits h)).map fun k => hbmN s (a + twTab h + 2 * k) 2

/-- A directory entry: CSIZE, USIZE, KIND, and whether its reserved bytes are zero. -/
structure DirEnt where
  c   : Nat
  u   : Nat
  raw : Bool
  ok  : Bool
  deriving DecidableEq, Repr

/-- Entry j of the directory, with the rules of R291. -/
def twEnt (s : State) (a : Nat) (h : List Byte) (j : Nat) : DirEnt :=
  let b := hbmRead s (a + twDir h + 16 * j) 16
  let c := bf b 0 4
  let u := bf b 4 4
  { c := c, u := u, raw := bf b 8 1 = 1
    ok := decide (bf b 8 1 ≤ 1) && allZero (b.drop 9) && decide (256 ≤ u) && decide (u ≤ 16384) && u % 256 = 0 &&
      (twFmt h ≠ 2 || u % 768 = 0) && (if bf b 8 1 = 1 then c = u else decide (256 ≤ c) && decide (c < u)) }

/-- The whole directory. -/
def twEnts (s : State) (a : Nat) (h : List Byte) : List DirEnt := (List.range (twNblk h)).map fun j => twEnt s a h j

/-- Additional data of the directory tag: header, table and directory in stream order (R294). -/
def twDirAad (s : State) (a : Nat) (h : List Byte) : List Byte :=
  h ++ hbmRead s (a + twTab h) (2 * 2 ^ twBits h) ++ hbmRead s (a + twDir h) (16 * twNblk h)

/-- The vector of a sealed stream for an index. -/
def twIv (h : List Byte) (i : Nat) : List Byte := (h.drop 0x50).take 8 ++ natLe 4 i

/-- The directory tag verifies under a key. -/
def twDirOk (s : State) (a : Nat) (h : List Byte) (key : List Byte) : Bool :=
  (Config.gcmOpen key (twIv h 0xFFFFFFFF) (twDirAad s a h) [] (hbmRead s (a + twDir h + 16 * twNblk h) 16)).isSome

/-! ## rANS blocks (R292, R293, R296) -/

/-- The symbol that `y` falls on, and its c(s). -/
def ransSym : List Nat → Nat → Nat → Nat → Nat × Nat × Nat
  | [], s, c, _ => (s, c, 0)
  | f :: l, s, c, y => if y < c + f then (s, c, f) else ransSym l (s + 1) (c + f) y

/-- Take bytes while the state is below 2^23; none when the substream has no more. -/
def ransFill : Nat → List Byte → Option (Nat × List Byte)
  | x, [] => if x < 2 ^ 23 then none else some (x, [])
  | x, b :: l => if x < 2 ^ 23 then ransFill (x * 256 + b.toNat) l else some (x, b :: l)

/-- `k` codes of a lane; none when it needs a byte beyond its substream. -/
def ransLane (fr : List Nat) : Nat → Nat → List Byte → List Nat → Option (List Nat × Nat × List Byte)
  | 0, x, l, acc => some (acc.reverse, x, l)
  | k + 1, x, l, acc =>
    let y := x % 4096
    let r := ransSym fr 0 0 y
    match ransFill (r.2.2 * (x / 4096) + y - r.2.1) l with
    | none => none
    | some (x', l') => ransLane fr k x' l' (r.1 :: acc)

/-- The lanes' substreams of a payload, in order. -/
def ransSubs (p : List Byte) : List (List Byte) :=
  ((List.range 32).foldl (fun (r : List (List Byte) × List Byte) k =>
    (r.1 ++ [r.2.take (bf p (4 * k) 4)], r.2.drop (bf p (4 * k) 4))) ([], p.drop 128)).1

/-- How a block ended: its image bytes, or the error of R296. -/
inductive BlkRes where
  | good (img : List Byte)
  | bad (err : Nat)
  deriving DecidableEq, Repr

/-- Codes side by side as one little-endian integer (R293). -/
def packCodes (b u : Nat) (codes : List Nat) : List Byte := natLe u (packAll b codes)
where
  /-- The integer. -/
  packAll (b : Nat) (l : List Nat) : Nat := l.foldr (fun x a => x % 2 ^ b + 2 ^ b * a) 0

/-- Decode a rANS payload of a block of `u` image bytes. -/
def ransBlock (fr : List Nat) (b u : Nat) (p : List Byte) : BlkRes :=
  let n := 8 * u / b
  let lens := (List.range 32).map fun k => bf p (4 * k) 4
  let tot := lens.foldl (· + ·) 128
  let lanes := (ransSubs p).map fun sub => if sub.length < 4 then none else ransLane fr (n / 32) (bf sub 0 4) (sub.drop 4) []
  if decide (p.length < tot) || lens.any (fun l => decide (l < 4)) || lanes.any fun r => r.isNone then .bad 10
  else if decide (tot < p.length) || lanes.any (fun r => match r with | some (_, x, l) => x ≠ 2 ^ 23 || l ≠ [] | none => true) then .bad 9
  else
    let cs := lanes.map fun r => match r with | some (c, _, _) => c | none => []
    .good (packCodes b u ((List.range n).map fun i => nth 0 (nth [] cs (i % 32)) (i / 32)))

/-- Block j at offset `pos` of a stream: decrypted, decoded and judged (R294, R296). (DEDUCED: log entry 47.) -/
def twBlock (s : State) (a : Nat) (h : List Byte) (key : Option (List Byte)) (j pos : Nat) (e : DirEnt) : BlkRes :=
  let at_ := a + twData h + pos
  let ct := hbmRead s at_ e.c
  let iv := twIv h j
  let k := key.getD []
  let opened := Config.gcmOpen k iv (h ++ hbmRead s (a + twDir h + 16 * j) 16) ct (hbmRead s (at_ + e.c) 16)
  let p := if twSealed h then (match opened with | some x => x | none => Config.gcmPlain k iv ct) else ct
  let r := if e.raw then .good (padTo e.u 0 p) else ransBlock (twFreq s a h) (twBits h) e.u p
  match r with
  | .bad x => .bad x
  | .good x =>
    if twSealed h && (key.isNone || opened.isNone) then .bad 8
    else if hbmPoison s at_ (e.c + twTag h) then .bad 12
    else .good x

/-! ## EXP16 (R305-R308) -/

def exBase (h : List Byte) : Nat := bf h 6 1
def exV (h : List Byte) : Nat := bf h 8 4

def exHeadOk (h : List Byte) : Bool :=
  bf h 0 4 = 0x35545845 && bf h 4 2 = 2 && decide (1 ≤ exBase h) && decide (exBase h ≤ 254) && bf h 7 1 = 0 &&
    decide (4096 ≤ exV h) && exV h % 4096 = 0 && bf h 0xC 4 = exV h / 4096 && allZero ((h.drop 0x10).take 48)

/-- Bits of bytes, bit 7 of the first first. -/
def bitsMsb (l : List Byte) : List Bool := l.flatMap fun b => (List.range 8).map fun k => b.getLsbD (7 - k)

/-- Ones in front, at most `k`, and what follows the zero that ends them (or the k-th one). -/
def onesRun : Nat → List Bool → Option (Nat × List Bool)
  | 0, l => some (0, l)
  | _ + 1, [] => none
  | _ + 1, false :: l => some (0, l)
  | k + 1, true :: l => (onesRun k l).map fun r => (r.1 + 1, r.2)

/-- One code of the fixed table (R306): symbol, and the bits that follow. -/
def exSym : List Bool → Option (Nat × List Bool)
  | false :: false :: l => some (1, l)
  | false :: true :: l => some (2, l)
  | true :: false :: false :: l => some (0, l)
  | true :: false :: true :: l => some (3, l)
  | true :: true :: false :: l => some (4, l)
  | true :: true :: true :: l => (onesRun 10 l).map fun r => (r.1 + 5, r.2)
  | _ => none

/-- `k` biased exponents, the escapes counted; none on a failure of R307. -/
def exExps (base : Nat) : Nat → List Bool → Nat → List Nat → Option (List Nat × Nat × List Bool)
  | 0, l, esc, acc => some (acc.reverse, esc, l)
  | k + 1, l, esc, acc =>
    match exSym l with
    | none => none
    | some (s, l') =>
      if s = 15 then
        if l'.length < 8 then none
        else exExps base k (l'.drop 8) (esc + 1) ((l'.take 8).foldl (fun v b => 2 * v + b2n b) 0 :: acc)
      else if base < s then none else exExps base k l' esc ((base - s) :: acc)

/-- A BF16 pattern under R141 and R142: no subnormal, one NaN. -/
def bfClean (sg e f : Nat) : Nat :=
  if e = 0 ∧ f ≠ 0 then sg * 2 ^ 15 else if e = 255 ∧ f ≠ 0 then 0x7FC0 else sg * 2 ^ 15 + e * 128 + f

/-- Bytes that an EXP16 block takes. -/
def exBlkLen (xlen : Nat) : Nat := ceilTo (0x1008 + xlen) 64

/-- An EXP16 block, given all its bytes. -/
def exBlock (base : Nat) (fp32 : Bool) (p : List Byte) : BlkRes :=
  let esc := bf p 0 2
  let xlen := bf p 2 2
  let bits := bitsMsb ((p.drop 0x1008).take xlen)
  if decide (256 < esc) || bf p 4 4 ≠ 0 || !allZero (p.drop (0x1008 + xlen)) then .bad 11
  else match exExps base 4096 bits 0 [] with
    | none => .bad 11
    | some (es, k, rest) =>
      if k ≠ esc || decide (7 < rest.length) || rest.any id then .bad 11
      else
        .good (es.zipIdx.flatMap fun q =>
          let b := bf p (8 + q.2) 1
          let v := bfClean (b / 128) q.1 (b % 128)
          if fp32 then natLe 4 (v * 2 ^ 16) else natLe 2 v)

end Sys2Proof.Machine
end

