-- ==== Sys2Proof/Machine/Expander.lean ====
section
/-!
DEFINITION. The expander (10_weight_streams R288-R310): loads, the stream table, reads at use.
-/
namespace Sys2Proof.Machine

/-! ## Commands (R295, R299, R301) -/

def expStat (n : Nat) : Nat := expPg n + 0x104
def expSrc (s : State) (n : Nat) : Nat := rd64 s (expPg n + 0x108) % 2 ^ 48
def expLen (s : State) (n : Nat) : Nat := rdN s (expPg n + 0x110)
def expStg (s : State) (n : Nat) : Nat := rd64 s (expPg n + 0x118) % 2 ^ 48

/-- EXP_STAT after a command: error, command, BUSY, DONE; EXP_ERRPOS with it. -/
def expStatus (s : State) (n err cmd : Nat) (busy done : Bool) (pos : Nat) : State :=
  wrN (wrN s (expStat n) (err * 2 ^ 24 + cmd * 2 ^ 20 + 2 * b2n busy + b2n done)) (expPg n + 0x120) pos

/-- A rejected command (R295, R299, R301). While a load runs its BUSY stays. -/
def expReject (s : State) (n cmd err : Nat) : State :=
  let s1 := wf (wf (wf s (expStat n) 24 8 err) (expStat n) 20 4 cmd) (expStat n) 0 1 0
  setEvt (bump s1 (expPg n) 0x148) (expPg n) 0

/-- A command other than a load has completed. -/
def expDone (s : State) (n cmd : Nat) : State := expStatus s n 0 cmd false true 0xFFFFFFFF

/-- HBM bytes read for the expander (R300). -/
def expCharge (s : State) (n k : Nat) : State := charge s n fun a => { a with hbmRd := a.hbmRd + k }

/-- The TWS stream at an address passes checks 1 to 5 of R295 for a job; the error of the first that fails. -/
def twErr (s : State) (n j a len : Nat) : Option Nat :=
  let h := hbmRead s a 256
  if !twHeadOk h len || (twFreq s a h).foldl (· + ·) 0 ≠ 4096 then some 3
  else
    let es := twEnts s a h
    let cs := es.foldl (fun x e => x + e.c + twTag h) 0
    let us := es.foldl (fun x e => x + e.u) 0
    if es.any (fun e => !e.ok) || twData h + cs ≠ twLen h then some 5
    else if us < cdiv (bf h 8 4 * bf h 0xC 4 * twBits h) 8 + bf h 0x10 4 then some 4
    else
      let key := keyById s (partParty s n) (bf h 0x18 8) labelImg
      if twSealed h && key.isNone then some 7
      else if twSealed h && !twDirOk s a h (key.getD []) then some 8
      else if (h.drop 0x20).take 48 ≠ padTo 48 0 (job s n j).img.fprint then some 7
      else none

/-- Bytes of a TWS stream that the checks read. -/
def twRead (s : State) (a : Nat) : Nat := twData (hbmRead s a 256)

/-- Σ USIZE of a TWS stream. -/
def twTotal (s : State) (a : Nat) : Nat := (twEnts s a (hbmRead s a 256)).foldl (fun x e => x + e.u) 0

/-! ## Destinations -/

/-- The entry and cluster that EXP_DST names in a job's handle image. -/
def dstEntry (s : State) (n j dst : Nat) : DWord × Nat :=
  let img := (job s n j).img
  (nth 0 (nth [] img.htab (fld dst 24 8)) (fld dst 14 10), nth 0 img.clusters (fld dst 24 8))

/-- A handle passes R268 as a descriptor target, through RDONLY too, and holds `k` slots from OFS. -/
def dstOk (s : State) (n : Nat) (e : DWord) (ofs k : Nat) : Bool :=
  heValid e && !heState e && heParty e = partParty s n && isMember s n (heCluster e) && decide (ofs + k ≤ heCount e)

/-- Write image bytes to slots of the cores, FULL together (R297), for partition `n`. -/
def putImage (s : State) (n : Nat) (cores : List Nat) (slots : List Nat) (img : List Byte) : State :=
  each (countBytes s n (256 * slots.length * cores.length)) cores fun s k => slots.zipIdx.foldl (fun s q =>
    setSlot s k q.1 { data := BitVec.ofNat 2048 (leNat ((img.drop (256 * q.2)).take 256)), full := true }) s

/-- The slots of a destination. -/
def dstSlots (e : DWord) (ofs k : Nat) : List Nat := (List.range k).map fun i => heFirst e + ofs + i

/-- The destination slots of a load. -/
def loadSlots (o : ExpLoad) : List (Nat × Nat) :=
  (dstCores o.ent (bitAt o.cmd 20) (fld o.dst 10 4)).flatMap fun k => (dstSlots o.ent (fld o.dst 0 10) (o.all_ / 256)).map fun i => (k, i)

/-- Image bytes of a load's stream. -/
def loadBytes (s : State) (o : ExpLoad) : Nat :=
  match o.kind with
  | .tws => twTotal s o.src
  | .exp16 => exV (hbmRead s o.src 64) * (if bitAt o.cmd 21 then 4 else 2)
  | .wrap => 0

/-! ## Loading (R299, R300, R305, R309) -/

/-- The staging area is right (R309). -/
def stgOk (s : State) (n src len stg lc : Nat) : Bool :=
  stg % 65536 = 0 && inGeneral s (partParty s n) stg lc && (decide (stg + lc ≤ src) || decide (src + len ≤ stg))

/-- The sealed EXP16 wrapper's header (R309). -/
def wrapOk (h : List Byte) (len : Nat) : Bool :=
  bf h 4 2 = 1 && bf h 6 2 = 0 && bf h 8 4 % 64 = 0 && allZero ((h.drop 0x50).take 48) && decide (0x80 + bf h 8 4 + 16 ≤ len)

/-- A load begins: the destination is zero and EMPTY (R300). (DEDUCED: log entry 47.) -/
def expBegin (s : State) (n : Nat) (o : ExpLoad) : State :=
  zeroSlots (modPart s n fun p => { p with expLoad := some o }) (loadSlots o) false

/-- The conditions of R299, and R295, for a load. (DEDUCED: log entry 47.) -/
def expLoadCheck (s : State) (n v : Nat) : Sum Nat ExpLoad :=
  let j := fld v 16 4
  let src := expSrc s n
  let len := expLen s n
  let dst := rdN s (expPg n + 0x114)
  let de := dstEntry s n j dst
  let e := de.1
  let o : ExpLoad := { cmd := v, dst := dst, ent := e, clus := de.2, src := src, len := len }
  let magic := hbmN s src 4
  if !activeSt (part s n).st || !(job s n j).loaded || tableNames s n j then .inl 1
  else if !inWindow s (partParty s n) src len then .inl 2
  else if !dstOk s n e (fld dst 0 10) 0 then .inl 6
  else if magic = 0x54395835 then
    let h := hbmRead s src 128
    if src % 65536 ≠ 0 then .inl 2
    else if !wrapOk h len then .inl 3
    else if !stgOk s n src len (expStg s n) (bf h 8 4) then .inl 2
    else if (h.drop 0x20).take 48 ≠ padTo 48 0 (job s n j).img.fprint then .inl 7
    else .inr { o with kind := .wrap, stg := expStg s n, stgLen := bf h 8 4 }
  else if magic = 0x35545845 then
    let o1 := { o with kind := .exp16, pos := 0x40 }
    if src % 65536 ≠ 0 then .inl 2
    else if !exHeadOk (hbmRead s src 64) then .inl 3
    else if !dstOk s n e (fld dst 0 10) (loadBytes s o1 / 256) then .inl 6
    else .inr { o1 with all_ := loadBytes s o1 }
  else if src % 64 ≠ 0 then .inl 2
  else match twErr s n j src len with
    | some k => .inl k
    | none => if !dstOk s n e (fld dst 0 10) (twTotal s src / 256) then .inl 6 else .inr { o with all_ := twTotal s src }

/-- EXP_CMD with CMD = 1 (R299). (DEDUCED: log entry 47.) -/
def expLoadEff (n : Nat) (v : Word) (s : State) : State :=
  if rb s (expStat n) 1 then expReject s n 1 1
  else match expLoadCheck s n v.toNat with
    | .inl k => wrN (expReject s n 1 k) (expPg n + 0x120) 0xFFFFFFFF
    | .inr o =>
      let s1 := expCharge s n (match o.kind with | .tws => twRead s o.src | .exp16 => 64 | .wrap => 128)
      expBegin (expStatus s1 n 0 1 true false 0xFFFFFFFF) n o

def execExpLoad (r : Requester) (n : Fin 16) (v : Word) (s : State) : Out := .next (hostWr s r (expPg n + 0x100) (expLoadEff n v))

/-- A load ends; the staging area is filled with zero (R309). -/
def expEnd (s : State) (n : Nat) (o : ExpLoad) : State :=
  let s1 := modPart s n fun p => { p with expLoad := none }
  if o.stgLen = 0 then s1 else hbmClear s1 o.stg o.stgLen

/-- EXP_OVR_CNT or EXP_UNR_CNT for an error (R303). -/
def expCount (s : State) (n err : Nat) : State :=
  if err = 9 then bump s (expPg n) 0x140 else if err = 10 ∨ err = 8 then bump s (expPg n) 0x144 else s

/-- A load fails: its destination is zero and EMPTY (R300). -/
def expLoadFail (s : State) (n : Nat) (o : ExpLoad) (err pos : Nat) : State :=
  let s1 := zeroSlots s (loadSlots o) false
  let s2 := expCount (expStatus (expEnd s1 n o) n err 1 false false pos) n err
  setEvt s2 (expPg n) 1 (err * 2 ^ 24 + fld o.cmd 16 4)

/-- EXP16_STAGING_DONE: the wrapper's ciphertext is decrypted into the staging area and verified (R309). -/
def stagingDoneEff (n : Nat) (s : State) : State :=
  match (part s n).expLoad with
  | none => s
  | some o =>
    if o.kind ≠ .wrap then s
    else
      let h := hbmRead s o.src 128
      let lc := o.stgLen
      let s1 := expCharge (hbmUe s o.src (0x80 + lc + 16)) n (lc + 16)
      match keyById s (partParty s n) (bf h 0x18 8) labelImg with
      | none => expLoadFail s1 n o 7 0xFFFFFFFF
      | some k =>
        (match Config.gcmOpen k ((h.drop 0xC).take 12) h (hbmRead s (o.src + 0x80) lc) (hbmRead s (o.src + 0x80 + lc) 16) with
        | none => expLoadFail s1 n o 8 0xFFFFFFFF
        | some p =>
          let s2 := charge (hbmWrite s1 o.stg (padTo lc 0 p)).1 n fun a => { a with hbmWr := a.hbmWr + lc, hbmRd := a.hbmRd + 64 }
          let o1 := { o with kind := .exp16, src := o.stg, len := lc, pos := 0x40 }
          let all := loadBytes s2 o1
          if !exHeadOk (hbmRead s2 o.stg 64) then expLoadFail s2 n o 3 0xFFFFFFFF
          else if !dstOk s2 n o.ent (fld o.dst 0 10) (all / 256) then expLoadFail s2 n o 6 0xFFFFFFFF
          else expBegin s2 n { o1 with all_ := all })

def execExp16StagingDone (n : Fin 16) (s : State) : Out := .next (stagingDoneEff n s)

/-- The next block of a load: bytes read, payload bytes, image bytes made, and its outcome. -/
def loadBlock (s : State) (n : Nat) (o : ExpLoad) : Nat × Nat × BlkRes :=
  match o.kind with
  | .tws =>
    let h := hbmRead s o.src 256
    let e := twEnt s o.src h o.j
    (e.c + twTag h, e.u, twBlock s o.src h (keyById s (partParty s n) (bf h 0x18 8) labelImg) o.j o.pos e)
  | .exp16 =>
    let fp := bitAt o.cmd 21
    let k := exBlkLen (hbmN s (o.src + o.pos + 2) 2)
    let r := if o.len < o.pos + k then .bad 11
             else if hbmPoison s (o.src + o.pos) k then .bad 12
             else exBlock (exBase (hbmRead s o.src 64)) fp (hbmRead s (o.src + o.pos) k)
    (k, if fp then 16384 else 8192, r)
  | .wrap => (0, 0, .bad 11)

/-- Blocks of a load's stream. -/
def loadBlocks (s : State) (o : ExpLoad) : Nat :=
  match o.kind with
  | .tws => twNblk (hbmRead s o.src 256)
  | .exp16 => bf (hbmRead s o.src 64) 0xC 4
  | .wrap => 0

/-- EXP_BLOCK_DONE of a load: one block is judged; a good one becomes FULL (R297, R300). The load waits for reads at use in the
cluster. -/
def loadStep (n : Nat) (s : State) : State :=
  match (part s n).expLoad with
  | none => s
  | some o =>
    let x := clu s o.clus
    if o.kind = .wrap || !x.expQ.isEmpty || x.expRun.isSome || !loadSt (part s n).st then s
    else
      let b := loadBlock s n o
      let at_ := match o.kind with | .tws => o.src + twData (hbmRead s o.src 256) + o.pos | _ => o.src + o.pos
      let s1 := expCharge (hbmUe s at_ b.1) n b.1
      match b.2.2 with
      | .bad k => expLoadFail s1 n o k o.j
      | .good img =>
        let s2 := putImage s1 n (dstCores o.ent (bitAt o.cmd 20) (fld o.dst 10 4))
          (dstSlots o.ent (fld o.dst 0 10 + o.img / 256) (b.2.1 / 256)) img
        let o1 := { o with j := o.j + 1, pos := o.pos + b.1, img := o.img + b.2.1 }
        if o1.j < loadBlocks s o then modPart s2 n fun p => { p with expLoad := some o1 }
        else expStatus (expEnd s2 n o) n 0 1 false true 0xFFFFFFFF

/-! ## The stream table (R301) -/

def expTblA (n i : Nat) : Nat := expPg n + 0x200 + 8 * i

/-- EXP_CMD with CMD = 2. -/
def expRegisterEff (n : Nat) (v : Word) (s : State) : State :=
  let j := wfld v 16 4
  let i := wfld v 8 6
  let src := expSrc s n
  let len := expLen s n
  if rb s (expStat n) 1 then expReject s n 2 1
  else
    let err :=
      if !(job s n j).loaded || rb s (expTblA n i) 31 then some 1
      else if !inRegion s (partParty s n) 2 src len || src % 64 ≠ 0 then some 2
      else twErr s n j src len
    match err with
    | some k => wrN (expReject s n 2 k) (expPg n + 0x120) 0xFFFFFFFF
    | none =>
      let h := hbmRead s src 256
      let es := twEnts s src h
      let us := es.foldl (fun x e => x + e.u) 0
      let um := es.foldl (fun x e => max x e.u) 0
      let ent : ExpEnt := { addr := src, len := len, job := j, nblk := twNblk h, cSum := es.foldl (fun x e => x + e.c) 0, uSum := us, uMax := um }
      let s1 := modPart (expCharge s n (twRead s src)) n fun p => { p with expTab := smSet {} p.expTab i ent }
      let s2 := wrN s1 (expTblA n i) (2 ^ 31 + b2n (twSealed h) * 2 ^ 30 + j * 2 ^ 16 + (twNblk h - 1))
      expDone (wrN s2 (expTblA n i + 4) (um / 256 * 2 ^ 25 + us / 256)) n 2

def execExpRegister (r : Requester) (n : Fin 16) (v : Word) (s : State) : Out :=
  .next (hostWr s r (expPg n + 0x100) (expRegisterEff n v))

/-- A read of an entry is queued or runs in some member. -/
def entryRead (s : State) (n i : Nat) : Bool :=
  (members s n).any fun c =>
    let x := clu s c
    (x.expQ.any fun q => q.ent = i) || (match x.expRun with | some q => q.ent = i | none => false) ||
      (match x.expHeld with | some q => q.ent = i | none => false)

/-- EXP_CMD with CMD = 3. -/
def expUnregisterEff (n : Nat) (v : Word) (s : State) : State :=
  let i := wfld v 8 6
  if rb s (expStat n) 1 || entryRead s n i then expReject s n 3 1
  else
    let s1 := modPart s n fun p => { p with expTab := smSet {} p.expTab i {} }
    expDone (wrN (wrN s1 (expTblA n i) 0) (expTblA n i + 4) 0) n 3

def execExpUnregister (r : Requester) (n : Fin 16) (v : Word) (s : State) : Out :=
  .next (hostWr s r (expPg n + 0x100) (expUnregisterEff n v))

/-- A reserved command code (R299). (DEDUCED: log entry 47.) -/
def expReserved (n code : Nat) (s : State) : State := expReject s n code 1

/-! ## Reads at use (R301-R304) -/

/-- CC_EXP_CMD: a read is queued with the values in force, or holds the control core (R302). (DEDUCED: log entry 47.) -/
def ccExpCmdEff (c : Nat) (sel dst ring : Word) (s : State) : State :=
  if ccRuns s c then
    let q : ExpRun := { ent := wfld sel 0 6, job := ccJob s c, dst := (dst &&& 0x8FFFC3FF).toNat, ring := wfld ring 0 11 }
    modClu s c fun x =>
      let y := { x with expSel := sel &&& 0x3F, expDst := dst &&& 0x8FFFC3FF, expRing := ring &&& 0x7FF }
      if x.expQ.length < 4 then { y with expQ := x.expQ ++ [q] } else { y with expHeld := some q }
  else s

def execCcExpCmd (c : Fin 256) (sel dst ring : Word) (s : State) : Out := .next (ccExpCmdEff c sel dst ring s)

/-- Job fault cause of a failed read (R303). -/
def readCause (err : Nat) : Nat := if err = 9 then 5 else if err = 10 ∨ err = 8 then 6 else if err = 12 then 1 else 4

/-- A read fails (R303). -/
def expReadFail (s : State) (c j err : Nat) : State :=
  let n := curPart s c
  let s1 := modClu s c fun x => { x with expRun := none, expErr := err }
  let s2 := expCount (wf s1 (expStat n) 24 8 err) n err
  jobFault (setEvt s2 (expPg n) 2 (err * 2 ^ 24 + c * 2 ^ 16 + j)) n j (readCause err)

/-- The destination handle of a read, which must carry ATTNBUF (R302). -/
def readEntry (s : State) (c : Nat) (q : ExpRun) : DWord := hentry s c (fld q.dst 14 10)

/-- EXP_READ_START: the first queued read starts; the checks of R303 that need no data. Its header, table and directory are charged with
it. (DEDUCED: log entry 47.) -/
def expReadStartEff (c : Nat) (s : State) : State :=
  let x := clu s c
  match x.expQ with
  | [] => s
  | q :: rest =>
    if x.expRun.isSome then s
    else
      let n := curPart s c
      let s1 := setClu s c { x with
        expQ := rest ++ (match x.expHeld with | some h => [h] | none => []), expHeld := none, expRun := some { q with start := cycNow s } }
      let ent := smGet {} (part s n).expTab q.ent
      let e := readEntry s c q
      if !rb s (expTblA n q.ent) 31 || ent.job ≠ q.job then expReadFail s1 c q.job 1
      else if !dstOk s n e (fld q.dst 0 10) q.ring || heRdonly e || !heAttn e || decide (q.ring < ent.uMax / 256) || q.ring = 0 then
        expReadFail s1 c q.job 6
      else expCharge s1 n (twRead s1 ent.addr)

def execExpReadStart (c : Fin 256) (s : State) : Out := .next (expReadStartEff c s)

/-- The ring slots of image bytes [o, o + k) of a read. -/
def ringSlots (e : DWord) (q : ExpRun) (o k : Nat) : List Nat :=
  (List.range (k / 256)).map fun i => heFirst e + fld q.dst 0 10 + (o / 256 + i) % (max q.ring 1)

/-- The (core, slot) pairs that the next block of a running read fills. -/
def readTargets (s : State) (c : Nat) (q : ExpRun) : List (Nat × Nat) :=
  let ent := smGet {} (part s (curPart s c)).expTab q.ent
  let e := readEntry s c q
  let b := twEnt s ent.addr (hbmRead s ent.addr 256) q.j
  (dstCores e (bitAt q.dst 31) (fld q.dst 24 4)).flatMap fun k => (ringSlots e q q.uSum b.u).map fun i => (k, i)

/-- A running read waits for a ring slot to be EMPTY (R302). -/
def readWaits (s : State) (c : Nat) (q : ExpRun) : Bool := (readTargets s c q).any fun p => (slotAt s p.1 p.2).full

/-- Cycles a block takes at least, from the formula of R298 with d = 64. -/
def blkCyc (csz codes usz : Nat) : Nat := max (max (cdiv csz 64) (cdiv codes 256)) (cdiv usz 128)

/-- The next block of a running read: its size with tag, its image bytes, and its outcome, the registered totals guarding (R303). -/
def readBlock (s : State) (n : Nat) (q : ExpRun) : Nat × Nat × BlkRes :=
  let ent := smGet {} (part s n).expTab q.ent
  let h := hbmRead s ent.addr 256
  let e := twEnt s ent.addr h q.j
  let head := hbmPoison s ent.addr 256 || hbmPoison s (ent.addr + twTab h) (2 * 2 ^ twBits h) ||
    hbmPoison s (ent.addr + twDir h + 16 * q.j) 16
  let r :=
    if head then .bad 12
    else if twNblk h ≤ q.j then .bad 10
    else if ent.nblk ≤ q.j || !e.ok || decide (ent.cSum < q.cSum + e.c) || decide (ent.uSum < q.uSum + e.u) then .bad 9
    else twBlock s ent.addr h (keyById s (partParty s n) (bf h 0x18 8) labelImg) q.j q.pos e
  (e.c + twTag h, e.u, r)

/-- EXP_BLOCK_DONE of a read at use: one block is judged; a good one becomes FULL, a failing one's slots are zero (R297), and the stream
must end at the registered totals. (DEDUCED: log entry 47.) -/
def readStep (c : Nat) (s0 : State) : State :=
  match (clu s0 c).expRun with
  | none => s0
  | some q =>
    let n := curPart s0 c
    let b := readBlock s0 n q
    let ent := smGet {} (part s0 n).expTab q.ent
    let h := hbmRead s0 ent.addr 256
    match b.2.2 with
    | .bad k =>
      let s1 := expCharge (hbmUe (hbmUe s0 ent.addr (twData h)) (ent.addr + twData h + q.pos) b.1) n b.1
      let free := if ent.nblk ≤ q.j then [] else (readTargets s0 c q).filter fun p => !(slotAt s0 p.1 p.2).full
      expReadFail (zeroSlots s1 free false) c q.job k
    | .good img =>
      if readWaits s0 c q then s0
      else
        let cyc := q.cyc + blkCyc b.1 (8 * b.2.1 / twBits h) b.2.1
        let s := toCycle s0 (q.start + 32 + cyc)
        let e := readEntry s c q
        let s1 := putImage (expCharge s n b.1) n (dstCores e (bitAt q.dst 31) (fld q.dst 24 4)) (ringSlots e q q.uSum b.2.1) img
        let q1 := { q with j := q.j + 1, pos := q.pos + b.1, cSum := q.cSum + (b.1 - twTag h), uSum := q.uSum + b.2.1, cyc := cyc }
        if q1.j < twNblk h then modClu s1 c fun x => { x with expRun := some q1 }
        else if q1.j = ent.nblk ∧ q1.cSum = ent.cSum ∧ q1.uSum = ent.uSum then modClu s1 c fun x => { x with expRun := none }
        else expReadFail s1 c q.job 10

/-- EXP_BLOCK_DONE (R297). -/
def expBlockDoneEff (w : ExpWho) (s : State) : State :=
  match w with
  | .load n => loadStep n s
  | .read c => readStep c s

def execExpBlockDone (w : ExpWho) (s : State) : Out := .next (expBlockDoneEff w s)

/-- Zeroisation of a partition: a load is abandoned, the stream table and the counters clear (R300, R310). (DEDUCED: log entry 47.) -/
def expZeroise (s : State) (n : Nat) : State :=
  let s1 := match (part s n).expLoad with
    | some o => wf (expEnd s n o) (expStat n) 1 1 0
    | none => s
  let s2 := (List.range 128).foldl (fun s k => wrN s (expPg n + 0x200 + 4 * k) 0) s1
  let s3 := modPart s2 n fun p => { p with expTab := [] }
  cntTo (cntTo (cntTo s3 (expPg n) 0x140 0) (expPg n) 0x144 0) (expPg n) 0x148 0

end Sys2Proof.Machine
end

