-- ==== Sys2Proof/Machine/Timeouts.lean ====
section
/-!
DEFINITION. The tag timeout (09_memory R258, R259; 10 R302; 11 R339), its register TAG_TMO, and SP_UE_CNT (R286).
-/
namespace Sys2Proof.Machine

/-- TAG_TMO in force in a cluster. -/
def tmoOf (s : State) (c : Nat) : Nat := (part s (curPart s c)).tagTmo

/-- A wait for a job times out: counted, and the job faults with cause 2. -/
def tmoFault (s : State) (c j : Nat) : State := jobFault (bump s (clPg c) 0x188) (curPart s c) j 2

/-- A static unit's wait on a tag has lasted TAG_TMO cycles; the other causes of a freeze are no tag waits. (DEDUCED: log entry 64.) -/
def staticTmo (s : State) (c : Nat) : State :=
  let late := tmoFault (toCycle s ((clu s c).waitAt + tmoOf s c)) c (curJob s c)
  match (clu s c).wait with
  | some (.slotFull ..) => late
  | some (.slotEmpty ..) => late
  | some (.page _) => s | some (.queue1 _) => s | some (.noc _) => s | some (.remote ..) => s | some .port => s | none => s

/-- A started transfer of a DMA queue has waited TAG_TMO cycles on one slot. -/
def descTmo (s : State) (c q : Nat) : State :=
  match (dq s c q).find? fun d => d.started && descWaits s d with
  | none => s
  | some d => tmoFault s c d.job

/-- The operation at the head of a NoC engine has waited TAG_TMO cycles on one slot. -/
def nocTmo (s : State) (core : Nat) : State :=
  match smGet [] s.noc core with
  | [] => s
  | o :: _ => if nocWaits s o then tmoFault (toCycle s (o.since + tmoOf s (core / 16))) (core / 16) o.job else s

/-- An expander's write has waited TAG_TMO cycles on one slot (R302). -/
def expTmo (s : State) (c : Nat) : State :=
  match (clu s c).expRun with
  | none => s
  | some q => if readWaits s c q then tmoFault s c q.job else s

/-- A received message has waited TAG_TMO cycles on the slot it has come to; the oldest that waits. It is a wait for its job. -/
def linkTmo (s : State) (n : Nat) : State :=
  match (bly s n).rx.find? fun m => match m.slots with | q :: _ => !asyncEmpty s q.1 q.2.1 | [] => false with
  | none => s
  | some m =>
    let c := match m.slots with | q :: _ => q.1 / 16 | [] => 0
    tmoFault (modBly s n fun b => { b with rx := b.rx.erase m }) c m.job

/-- A transfer engine's read of a stream's committed side has waited TAG_TMO cycles on a slot that is not FULL: the transfer is abandoned, as
after an uncorrectable error (R266). (DESIGN CHOICE: log entry 64.) -/
def engineTmo (s : State) (h : Nat) : State :=
  let x := strm s h
  if sideFull s h then s
  else match x.xfer with
  | .write true => sideFault (modStrm s h fun x => { x with xfer := .none }) h
  | .xport _ true => xportFail (sideFault (modStrm s h fun x => { x with xfer := .none, done := .exportUe }) h) x.part h 12
  | _ =>
    if (bly s x.part).sending.contains h then
      sideFault (modBly s x.part fun b => { b with sending := b.sending.filter (· ≠ h), again := h :: b.again.filter (· ≠ h) }) h
    else s

/-- TAG_TIMEOUT. (DESIGN CHOICE: log entry 64.) -/
def tagTimeoutEff (w : TmoOf) (s : State) : State :=
  match w with
  | .static c => staticTmo s c
  | .descriptor c q => descTmo s c q
  | .noc core => nocTmo s core
  | .expander c => expTmo s c
  | .ingest p h => feTimeout s p h.toNat
  | .link p => linkTmo s p
  | .engine h => engineTmo s h.toNat

def execTagTimeout (w : TmoOf) (s : State) : Out := .next (tagTimeoutEff w s)

/-- A write of TAG_TMO (R258): a value out of range is ignored with CMD_REJ; a change takes effect at the next tick. -/
def tagTmoEff (n : Nat) (v : Word) (s : State) : State :=
  let x := v.toNat % 2 ^ 25
  if x < 1024 ∨ 2 ^ 24 < x then ignoredWr s n 0x400 else wrN s (partPg n + 0x400) x

def execTagTmo (n : Fin 16) (v : Word) (s : State) : Out := .next (pfDo s (tagTmoEff n v))

/-- A host write of zero to SP_UE_CNT clears the counter and releases the capture in SP_UE_ADDR (R10, R286). -/
def spUeCntClearEff (c : Nat) (s : State) : State :=
  let s1 := clearCnt s (clPg c) 0x184
  wrN s1 (clPg c + 0x194) 0

def execSpUeCntClear (r : Requester) (c : Fin 256) (s : State) : Out :=
  .next (hostWr s r (clPg c + 0x184) (spUeCntClearEff c))

end Sys2Proof.Machine
end

