-- ==== Sys2Proof/Machine/Zeroise.lean ====
section
/-!
DEFINITION. The end of zeroisation (02_partitions_pitches R44; 13_parties R381; 00_scope R6; 03 R102; 09 R286; 10 R310; 11 R346;
12 R362; 14 R411) and the function-level reset of a VF (02 R49; 16_host_registers R456, R457).
-/
namespace Sys2Proof.Machine


/-- Registers go back to their reset values. -/
def dropRegs (s : State) (f : Nat → Bool) : State := { s with regs := smDrop s.regs f }

/-- The registers that zeroisation of partition `n` with members `ms` clears: the cyclic tables and job descriptors, PG_LOCK of its four
pages, the ingest counters, the counters and sticky flags of its clusters. -/
def zeroReg (n : Nat) (ms : List Nat) (a : Nat) : Bool :=
  let o := a % 4096
  let within (lo hi : Nat) : Bool := decide (lo ≤ o) && decide (o ≤ hi)
  match pageAt (a / 4096) with
  | some (.table, m) => m = n && (o = 0x30 || within 0x100 0xFFF)
  | some (.part, m) => m = n && o = 0x30
  | some (.ingest, m) => m = n && (o = 0x30 || within 0x200 0x21C)
  | some (.exp, m) => m = n && o = 0x30
  | some (.cluster, c) => (within 0x110 0x120 || within 0x140 0x17C || within 0x180 0x190) && ms.contains c
  | _ => false

/-- The memories, tables, sequencers and engines of the member clusters. -/
def zeroClusters (s : State) (ms : List Nat) : State :=
  { s with
    slots := smDrop s.slots fun k => ms.contains (k / 16384)
    htab := smDrop s.htab fun k => ms.contains (k / 1024)
    bundles := smDrop s.bundles fun k => ms.contains (k / 2048)
    ccmem := smDrop s.ccmem fun k => ms.contains (k / 65536)
    clus := smDrop s.clus fun c => ms.contains c
    noc := smDrop s.noc fun k => ms.contains (k / 16)
    cores := smDrop s.cores fun k => ms.contains (k / 16) }

/-- What a partition keeps: its counters' and registers' hardware side, and the sums of the tick in progress (R61, R62). (DEDUCED: log entry 36.) -/
def zeroPart (p : Part) : Part :=
  { st := p.st, rej := p.rej, tblErr := p.tblErr, tagTmo := p.tagTmo, collTmo := p.collTmo, loadOp := p.loadOp
    elap := p.elap, sHbm := p.sHbm, sNoc := p.sNoc, sTag := p.sTag, stolen := p.stolen, slowRing := p.slowRing, flr := p.flr }

/-- Chunks that wait for a PARKED stream lose their feature-store entry. -/
def unprocessStrms (s : State) (n : Nat) : State :=
  each s (strmsOf s n) fun s h => modStrm s h fun x => { x with queue := x.queue.map unprocess }

/-- The clearing of R381 for partition `n`; clusters that another partition holds are not its to clear (R40). (DEDUCED: log entry 36.) -/
def zeroiseAll (s : State) (n : Nat) : State :=
  let ms := (members s n).filter fun c => !taken s n c
  let s1 := wf (zeroPorts (expZeroise (unprocessStrms s n) n) n) (partPg n + 0x3B8) 1 1 0
  let s2 := modPart (dropRegs (zeroClusters s1 ms) (zeroReg n ms)) n zeroPart
  let s3 := modIng { s2 with emis := smSet [] s2.emis n [], emLost := smSet 0 s2.emLost n 0 } n fun g =>
    { g with profs := [], norms := [], emGo := [] }
  modBly (wrN s3 (partPg n + 0x460) 0) n fun _ => {}

/-- The partition is OFF (R44); a function-level reset that waited for it is complete. -/
def zeroiseEnd (s : State) (n : Nat) : State :=
  let fl := (part s n).flr
  let s1 := setEvt (setSt (modPart (zeroiseAll s n) n fun p => { p with flr := false }) n .off) (partPg n) 6
  if fl then setEvt s1 funcsPg 0 else s1

/-- ZEROISE_DONE. (DEDUCED: log entry 36.) -/
def zeroiseDoneEff (n : Nat) (s : State) : State := if (part s n).st = .zeroising then zeroiseEnd s n else s

def execZeroiseDone (n : Fin 16) (s : State) : Out := .next (zeroiseDoneEff n s)

/-! ## VF_FLR -/

/-- The sessions of an endpoint end. -/
def dropSess (s : State) (e : Nat) : State :=
  each s ((List.range 8).filter fun i => (sess s i).live && (sess s i).ep = e) fun s i => setSess s i {}

/-- A VF's own registers: its vectors, its event enables, its HI latch, its SPDM responses. -/
def vfClear (s : State) (k : Nat) : State :=
  { s with vecs := smDrop s.vecs fun i => i / 1024 = k + 1, vfEn := smDrop s.vfEn fun i => i / 2 ^ 28 = k
           latch := smDrop s.latch fun i => i = k + 1, clw := smSet 0 s.clw k 0, spdm := smSet .none s.spdm (k + 1) .none }

/-- VF_FLR of VF k + 1 (R49, R376, R377, R456, R457): the VF is reset, its IDE stream ends, its TDI goes to ERROR where it was locked or
running, and its partition is torn down; a partition that is OFF needs no wait. -/
def vfFlrEff (k : Nat) (s : State) : State :=
  if hostUp s && decide (k < numVfs s) then
    let s1 := ideEnd (pfTdiErr (bump s funcsPg 0x110) k) (k + 1)
    let s2 := vfClear (dropSess s1 (k + 1)) k
    if (part s2 k).st = .off then setEvt s2 funcsPg 0
    else
      let s3 := modPart s2 k fun p => { p with flr := true }
      if tearable (part s3 k).st then teardownPart s3 k else s3
  else s

def execVfFlr (k : Fin 16) (s : State) : Out := .next (vfFlrEff k s)

end Sys2Proof.Machine
end

