-- ==== Sys2Proof/Machine/Mailbox.lean ====
section
/-!
DEFINITION. Mailbox commands of the PF and the BMC (15_sirvi R413, R423-R429; 09_memory R275-R278; 13_parties R368, R386; 14 R389).
-/
namespace Sys2Proof.Machine

/-! ## The mailbox (R415, R429) -/

/-- Sirvi takes the command: over MCTP also in ROM recovery, for INFO, DEV_RESET and FW_STAGE. -/
def mbUp (s : State) (bmc : Bool) (code : Nat) : Bool :=
  if bmc then sirviUp s || (s.sirvi.boot = .recovery && (code = 0x01 || code = 0x02 || code = 0x40)) else pageUp s .mbox

/-- Words of a register run from bytes. (DEDUCED: log entry 56.) -/
def putBuf (s : State) (bs : List Byte) : State :=
  (List.range 896).foldl (fun s i => wrN s (mbPg + 0x200 + 4 * i) (leNat ((bs.drop (4 * i)).take 4))) s

/-- A command ends: its status and content go to the requester. (DEDUCED: log entry 56.) -/
def mbReply (s : State) (bmc : Bool) (code status : Nat) (content : List Byte) : State :=
  if bmc then modSirvi s fun v => { v with mctp := some { cmd := code, status := status, rsp := [], buf := content } }
  else
    let s1 := wrN s (mbPg + 0x104) (status * 2 ^ 24 + code * 2 ^ 16)
    let s2 := if content = [] then s1 else
        putBuf ((Config.mbWords code content).zipIdx.foldl (fun s q => if q.2 < 8 then wrN s (mbPg + 0x130 + 4 * q.2) q.1 else s) s1)
          (Config.mbData code content)
    setEvt s2 mbPg 0

/-- A command that finds another running: of the BMC it waits (R429), a write of MB_CMD is ignored. -/
def mbHold (i : Instr) (bmc : Bool) (s : State) : State :=
  if bmc then modSirvi s fun v => { v with mbq := v.mbq ++ [i] } else setEvt s mbPg 1

/-- A command `i`: `f` gives its status, the state after it and what it returns. (DEDUCED: log entry 56.) -/
def mbDo (i : Instr) (bmc : Bool) (code : Nat) (f : State → Nat × State × List Byte) (s : State) : State :=
  if !mbUp s bmc code then s
  else if mbBusy s then mbHold i bmc s
  else
    let r := f s
    mbReply r.2.1 bmc code r.1 r.2.2

/-- A command that returns nothing: the first status of `chk` that is not 0 refuses it, else `f` acts. -/
def mbAct (i : Instr) (bmc : Bool) (code : Nat) (chk : State → List (Bool × Nat)) (f : State → State) : State → State :=
  mbDo i bmc code fun s => match (chk s).find? fun p => p.1 with
    | some p => (p.2, s, [])
    | none => (0, f s, [])

/-- Origin of a summit entry made by a command. -/
def orgn (bmc : Bool) : Nat := if bmc then 2 else 1

/-- An unknown command, written to MB_CMD (R429). -/
def mbUnknown (code : Nat) : State → State := mbDo (.info false) false code fun s => (1, s, [])

/-! ## Content of the asking commands (R413, R423, R429) -/

/-- INFO: versions, slots, fuse counters, limits, readiness. -/
def infoBytes (s : State) : List Byte :=
  let v := s.sirvi
  natLe 4 (fwVersion v.slotA.image) ++ natLe 4 (fwVersion v.slotB.image) ++
    natLe 1 (b2n v.slotA.valid + 2 * b2n v.slotB.valid + 4 * b2n v.sel + 8 * b2n (v.run = some true) + 16 * b2n v.run.isSome +
      32 * b2n v.fell) ++
    ((List.range 64).flatMap fun i => natLe 1 (fuseCnt s i)) ++ natLe 4 v.sens.pwr ++
    (v.sens.lims.flatMap fun l => natLe 2 l.1 ++ natLe 4 (lowBits 32 l.2)) ++ natLe 1 (b2n (sirviUp s) + 2 * b2n (devRdy s))

/-- Whole entries from a sequence number on, as many as fit. -/
def sumFrom (s : State) (first room : Nat) : List Byte :=
  (((sumAll s).filter fun e => decide (first ≤ sumSeq e)).foldl (fun (r : List Byte × Bool) e =>
    if r.2 && decide (r.1.length + e.length ≤ room) then (r.1 ++ e, true) else (r.1, false)) ([], true)).1

/-- Bytes that a requester's buffer or message holds (R427, R429). -/
def mbRoom (bmc : Bool) : Nat := if bmc then 1024 else 3584

def infoEff (bmc : Bool) : State → State := mbDo (.info bmc) bmc 0x01 fun s => (0, s, infoBytes s)
def execInfo (bmc : Bool) (s : State) : Out := .next (infoEff bmc s)

def summitInfoEff (bmc : Bool) : State → State :=
  mbDo (.summitInfo bmc) bmc 0x50 fun s => (0, s, natLe 8 (sumFirst s) ++ natLe 8 (sumLast s) ++ s.sirvi.summit.head)
def execSummitInfo (bmc : Bool) (s : State) : Out := .next (summitInfoEff bmc s)

def summitReadEff (bmc : Bool) (first : Nat) : State → State := mbDo (.summitRead bmc first) bmc 0x51 fun s => (0, s, sumFrom s first (mbRoom bmc))
def execSummitRead (bmc : Bool) (first : Nat) (s : State) : Out := .next (summitReadEff bmc first s)

/-! ## Key slots (13_parties R368, R387; 00_scope R10) -/

/-- A party's accounting counters are cleared. -/
def clearAcc (s : State) (p : Nat) : State :=
  { dropRegs s (fun a => decide (ptyPg p + 0x100 ≤ a) && decide (a < ptyPg p + 0x150)) with
    pacc := smMod {} s.pacc p fun x => { x with ergRem := 0 } }

/-- (DEDUCED: log entry 57.) -/
def ksBindEff (bmc : Bool) (slot party : Nat) (h : List Byte) : State → State :=
  mbAct (.ksBind bmc slot party h) bmc 0x10
    (fun s => [(dbgOn s, 4), (party = 0 || decide (16 < party) || h.length ≠ 48 || decide (16 ≤ slot), 2),
      ((keySlot s slot).party ≠ 0 || (slotOfParty s party).isSome, 3)])
    fun s => setKeySlot (clearAcc (sumCmd s 0x0020 (orgn bmc) party 0 (slot * 2 ^ 24) h) party) slot { keySlot s slot with party := party, reqHash := h }

def execKsBind (bmc : Bool) (slot party : Nat) (h : List Byte) (s : State) : Out := .next (ksBindEff bmc slot party h s)

/-- (DEDUCED: log entry 22.) -/
def ksUnbindEff (bmc : Bool) (slot : Nat) : State → State :=
  mbAct (.ksUnbind bmc slot) bmc 0x11
    (fun s =>
      let k := keySlot s slot
      [(decide (16 ≤ slot), 2), (k.party = 0 || k.pk.isSome || k.rk.isSome || k.wk.isSome, 3)])
    fun s => setKeySlot (sumCmd s 0x0021 (orgn bmc) (keySlot s slot).party 0 (slot * 2 ^ 24) []) slot
      { keySlot s slot with party := 0, reqHash := [] }

def execKsUnbind (bmc : Bool) (slot : Nat) (s : State) : Out := .next (ksUnbindEff bmc slot s)

/-! ## Windows (09_memory R275-R278) -/

/-- A range may be party p's window: aligned, in HBM, in the party's groups. -/
def winFits (s : State) (p a n : Nat) : Bool :=
  a % 4096 = 0 && n % 4096 = 0 && n ≠ 0 && decide (a + n ≤ hbmSize) && inGroups s p a n

/-- It stands apart from every other window. -/
def winApart (s : State) (p a n : Nat) : Bool :=
  (List.range 17).all fun w => w = p || !winValid s w || decide (a + n ≤ winBase s w) || decide (winBase s w + winSize s w ≤ a)

/-- No partition of a party is in a state other than OFF, and HBM is in use. -/
def winFree (s : State) (p : Nat) : Bool := devRdy s && partsOfParty s p = []

/-- Base, size and control of a window. -/
def putWin (s : State) (w a n ctrl : Nat) : State :=
  wrN (wr64 (wr64 s (hbmPg + 0x200 + 0x20 * w) a) (hbmPg + 0x208 + 0x20 * w) n) (hbmPg + 0x210 + 0x20 * w) ctrl

/-- The regions of a window. -/
def putRegions (s : State) (p : Nat) (l : List (Nat × Nat)) : State :=
  (List.range 6).foldl (fun s k =>
    let q := nth (0, 0) l k
    wrN (wrN s (hbmPg + 0x600 + 0x40 * p + 8 * k) (q.1 / 4096)) (hbmPg + 0x604 + 0x40 * p + 8 * k) (q.2 / 4096)) s

/-- Regions lie inside a window of `n` bytes, aligned, apart from one another. -/
def regionsOk (n : Nat) (l : List (Nat × Nat)) : Bool :=
  l.length = 6 && (l.all fun q => q.1 % 4096 = 0 && q.2 % 4096 = 0 && (q.2 = 0 || decide (q.1 + q.2 ≤ n))) &&
    l.zipIdx.all fun x => l.zipIdx.all fun y =>
      x.2 = y.2 || x.1.2 = 0 || y.1.2 = 0 || decide (x.1.1 + x.1.2 ≤ y.1.1) || decide (y.1.1 + y.1.2 ≤ x.1.1)

/-- The regions that a window has. -/
def regionsOf (s : State) (p : Nat) : List (Nat × Nat) := (List.range 6).map fun k => (regOfs s p k, regSize s p k)

/-- The summit entry of a window command. -/
def winEntry (s : State) (bmc : Bool) (typ p slot : Nat) (a n : Nat) : State :=
  sumCmd s typ (orgn bmc) p 0 (slot * 2 ^ 24) (natLe 8 a ++ natLe 8 n)

/-- (DEDUCED: log entry 57.) -/
def winCreateEff (bmc : Bool) (p a n slot : Nat) : State → State :=
  mbAct (.winCreate bmc p a n slot) bmc 0x20
    (fun s => [(p = 0 || decide (16 < p) || decide (16 ≤ slot), 2), (!winFree s p || winValid s p || slotOfParty s p ≠ some slot, 3), (!winFits s p a n, 2),
      (!winApart s p a n, 3)])
    fun s =>
      let s1 := putRegions (putWin (winEntry s bmc 0x0030 p slot a n) p a n (2 ^ 31 + slot * 2 ^ 16 + p)) p []
      modSirvi (setKeySlot s1 slot { keySlot s slot with wk := some (Config.drbg s.sirvi.drbg 64) }) fun v => { v with drbg := v.drbg + 1 }

def execWinCreate (bmc : Bool) (p a n slot : Nat) (s : State) : Out := .next (winCreateEff bmc p a n slot s)

/-- What leaves the window is cleared. (DEDUCED: log entry 57.) -/
def winResizeEff (bmc : Bool) (p a n : Nat) : State → State :=
  mbAct (.winResize bmc p a n) bmc 0x21
    (fun s => [(p = 0 || decide (16 < p), 2), (!winFree s p || !winValid s p, 3),
      (!winFits s p a n || !regionsOk n (regionsOf s p), 2), (!winApart s p a n, 3)])
    fun s =>
      let b := winBase s p
      let e := b + winSize s p
      let s1 := winEntry s bmc 0x0031 p (rf s (hbmPg + 0x210 + 0x20 * p) 16 4) a n
      let s2 := hbmClear (hbmClear s1 b (min e a - b)) (max b (a + n)) (e - max b (a + n))
      putWin s2 p a n (rdN s (hbmPg + 0x210 + 0x20 * p))

def execWinResize (bmc : Bool) (p a n : Nat) (s : State) : Out := .next (winResizeEff bmc p a n s)

/-- The window key of a party goes. -/
def dropWk (s : State) (p : Nat) : State :=
  match slotOfParty s p with
  | some i => setKeySlot s i { keySlot s i with wk := none }
  | none => s

/-- (DEDUCED: log entry 57.) -/
def winRemoveEff (bmc : Bool) (p : Nat) : State → State :=
  mbAct (.winRemove bmc p) bmc 0x22
    (fun s => [(p = 0 || decide (16 < p), 2), (!winFree s p || !winValid s p, 3)])
    fun s => dropWk (dropWindow (winEntry s bmc 0x0032 p (rf s (hbmPg + 0x210 + 0x20 * p) 16 4) (winBase s p) (winSize s p)) p) p

def execWinRemove (bmc : Bool) (p : Nat) (s : State) : Out := .next (winRemoveEff bmc p s)

/-- (DEDUCED: log entry 57.) -/
def regionSetEff (bmc : Bool) (p : Nat) (l : List (Nat × Nat)) : State → State :=
  mbAct (.regionSet bmc p l) bmc 0x23
    (fun s => [(p = 0 || decide (16 < p), 2), (!winFree s p || !winValid s p, 3), (!regionsOk (winSize s p) l, 2)])
    fun s => putRegions s p l

def execRegionSet (bmc : Bool) (p : Nat) (l : List (Nat × Nat)) (s : State) : Out := .next (regionSetEff bmc p l s)

/-- Every partition is OFF. -/
def allOff (s : State) : Bool := (List.range 16).all fun n => (part s n).st = .off

/-- No group stands in two partitions' masks. (DEDUCED: log entry 57.) -/
def groupsOk (g : List (BitVec 16)) : Bool :=
  g.length = 16 && (List.range 16).all fun i => decide ((g.filter fun m => bitAt m.toNat i).length ≤ 1)

/-- A change of map: no window is valid, and HBM is zero before one is again (R275). (DEDUCED: log entry 57.) -/
def changeMap (s : State) : State :=
  each { s with hbm := [], hbmBad := [], hbmCe := [], meeBad := [] } (List.range 16) fun s k => dropWk (wrN s (hbmPg + 0x210 + 0x20 * (k + 1)) 0) (k + 1)

/-- The map and the groups of the partitions; another map leaves no window (R275, R276). -/
def putMap (s : State) (map : Nat) (g : List (BitVec 16)) : State :=
  let s1 := if rf s (hbmPg + 0x100) 0 1 = map then s else changeMap s
  g.zipIdx.foldl (fun s q => wrN s (hbmPg + 0x140 + 4 * q.2) q.1.toNat) (wrN s1 (hbmPg + 0x100) map)

/-- (DEDUCED: log entry 57.) -/
def hbmMapEff (bmc : Bool) (map : Nat) (g : List (BitVec 16)) : State → State :=
  mbAct (.hbmMap bmc map g) bmc 0x24
    (fun s => [(!groupsOk g || decide (2 ≤ map), 2),
      (!devRdy s || !allOff s || (List.range 16).any fun k => !windowsIn (putMap s map g) (k + 1), 3)])
    fun s => putMap (sumCmd s 0x0033 (orgn bmc) 0 0 0 (natLe 1 map ++ g.flatMap fun m => natLe 2 m.toNat)) map g

def execHbmMap (bmc : Bool) (map : Nat) (g : List (BitVec 16)) (s : State) : Out := .next (hbmMapEff bmc map g s)

/-! ## Span, limits, background (14 R389; 15 R416, R434) -/

def spanSetEff (bmc : Bool) (coord dims : Word) : State → State :=
  mbAct (.spanSet bmc coord dims) bmc 0x25
    (fun s => [(decide (256 ≤ coord.toNat) || decide (256 ≤ dims.toNat), 1),
      (decide (wfld dims 0 4 < wfld coord 0 4) || decide (wfld dims 4 4 < wfld coord 4 4), 2),
      (!(List.range 20).all fun p => lkState s p = 0 || lkState s p = 4, 3)])
    fun s => wrN (wrN (sumCmd s 0x0034 (orgn bmc) 0 0 0 (natLe 4 coord.toNat ++ natLe 4 dims.toNat)) (spanPg + 0x100) (2 ^ 31 + coord.toNat))
      (spanPg + 0x104) dims.toNat

def execSpanSet (bmc : Bool) (coord dims : Word) (s : State) : Out := .next (spanSetEff bmc coord dims s)

/-- A sensor's default limit of a kind, 0 warn, 1 throttle (1/16 °C), 2 voltage warn, 3 voltage fault (thousandths of nominal); none
where the sensor has no such limit. -/
def limDefault (sensor kind : Nat) : Option Int :=
  if sensor < 64 then (if kind = 0 then some (95 * 16) else if kind = 1 then some (105 * 16) else none)
  else if sensor < 72 then (if kind = 0 then some (85 * 16) else if kind = 1 then some (95 * 16) else none)
  else if sensor < 88 then (if kind = 2 then some 50 else if kind = 3 then some 100 else none)
  else none

/-- The limit in force. (DEDUCED: log entry 58.) -/
def limOf (s : State) (sensor kind : Nat) : Int := smGet ((limDefault sensor kind).getD 0) s.sirvi.sens.lims (4 * sensor + kind)

def modSens (s : State) (f : Sens → Sens) : State := modSirvi s fun v => { v with sens := f v.sens }

def sensorLimitEff (bmc : Bool) (sensor kind : Nat) (v : Int) : State → State :=
  mbAct (.sensorLimit bmc sensor kind v) bmc 0x30
    (fun _ => [((limDefault sensor kind).isNone, 2), (kind = 1 && decide ((limDefault sensor kind).getD 0 < v), 2)])
    fun s => modSens s fun x => { x with lims := smSet ((limDefault sensor kind).getD 0) x.lims (4 * sensor + kind) v }

def execSensorLimit (bmc : Bool) (sensor kind : Nat) (v : Int) (s : State) : Out := .next (sensorLimitEff bmc sensor kind v s)

def pwrLimitEff (bmc : Bool) (w : Nat) : State → State :=
  mbAct (.pwrLimit bmc w) bmc 0x31 (fun _ => [(decide (w < 600) || decide (1200 < w), 2)]) fun s => modSens s fun x => { x with pwr := w }

def execPwrLimit (bmc : Bool) (w : Nat) (s : State) : Out := .next (pwrLimitEff bmc w s)

def bgCfgEff (bmc : Bool) (thr hp : Nat) : State → State :=
  mbAct (.bgCfg bmc thr hp) bmc 0x32 (fun _ => [(decide (thr < 4) || decide (1024 < thr) || decide (hp < 600) || decide (86400 < hp), 2)])
    fun s => wrN (wrN s (bgPg + 0x140) thr) (bgPg + 0x144) hp

def execBgCfg (bmc : Bool) (thr hp : Nat) (s : State) : Out := .next (bgCfgEff bmc thr hp s)

/-! ## Firmware (R424-R426) -/

/-- SVN[i] of a firmware image. -/
def fwSvn (image : List Byte) (i : Nat) : Nat := bf image (0x10 + i) 1

/-- Every SVN is at least its counter. -/
def svnOk (s : State) (image : List Byte) : Bool := (List.range 64).all fun i => decide (fuseCnt s i ≤ fwSvn image i)

/-- Header, signature and digest of an image verify, and its SVNs do. -/
def fwOk (s : State) (image : List Byte) : Bool :=
  bf image 0 4 = 0x54394657 && bf image 4 2 = 1 && bf image 6 2 = 0 && decide (bf image 8 4 ≤ 268434944) &&
    image.length = 512 + bf image 8 4 && Config.sha384 (image.drop 512) = (image.drop 0x50).take 48 &&
    Config.ecdsaVerify 0 (Config.sha384 (image.take 0x80)) ((image.drop 0x80).take 96) &&
    ((List.range 64).all fun i => decide (fwSvn image i ≤ 32)) && svnOk s image

def fwSlot (s : State) (b : Bool) : FwSlot := if b then s.sirvi.slotB else s.sirvi.slotA
def setFw (s : State) (b : Bool) (x : FwSlot) : State := modSirvi s fun v => if b then { v with slotB := x } else { v with slotA := x }

/-- The slot that FW_STAGE writes: the one that is not running; in ROM recovery the one not selected. (DEDUCED: log entry 58.) -/
def idleSlot (s : State) : Bool := match s.sirvi.run with | some b => !b | none => !s.sirvi.sel

/-- Payload of a firmware entry: version and SVNs. -/
def fwPayload (image : List Byte) : List Byte := natLe 4 (fwVersion image) ++ (List.range 64).flatMap fun i => natLe 1 (fwSvn image i)

/-- (DEDUCED: log entry 58.) -/
def fwStageEff (bmc : Bool) (image : Option (List Byte)) : State → State :=
  mbDo (.fwStage bmc image) bmc 0x40 fun s => match image with
    | none => (6, s, [])
    | some im =>
      if 268435456 < im.length then (7, s, [])
      else if fwOk s im then (0, setFw (sumCmd s 0x0010 (orgn bmc) 0 0 0 (fwPayload im)) (idleSlot s) { image := im, valid := true }, [])
      else (5, setFw (sumCmd s 0x0013 (orgn bmc) 0 0 0 (fwPayload im)) (idleSlot s) { image := im, valid := false }, [])

def execFwStage (bmc : Bool) (image : Option (List Byte)) (s : State) : Out := .next (fwStageEff bmc image s)

/-- (DEDUCED: log entry 58.) -/
def fwActivateEff (bmc b : Bool) : State → State :=
  mbAct (.fwActivate bmc b) bmc 0x41 (fun s => [(!(fwSlot s b).valid, 3), (!svnOk s (fwSlot s b).image, 5)])
    fun s => modSirvi (sumCmd s 0x0011 (orgn bmc) 0 0 0 (fwPayload (fwSlot s b).image)) fun v => { v with sel := b }

def execFwActivate (bmc b : Bool) (s : State) : Out := .next (fwActivateEff bmc b s)

def fwCommitEff (bmc : Bool) : State → State :=
  mbAct (.fwCommit bmc) bmc 0x42 (fun s => [(s.sirvi.run ≠ some s.sirvi.sel || s.sirvi.fell, 3)])
    fun s =>
      let im := runImage s
      modSirvi (sumCmd s 0x0012 (orgn bmc) 0 0 0 (fwPayload im)) fun v =>
        { v with fuses := (List.range 64).foldl (fun m i => smSet 0 m i (max (smGet 0 m i) (min 32 (fwSvn im i)))) v.fuses }

def execFwCommit (bmc : Bool) (s : State) : Out := .next (fwCommitEff bmc s)

/-! ## The image store (R413) -/

/-- Magic and length of an object. -/
def imgOk (o : List Byte) : Bool :=
  (bf o 0 4 = 0x54394A50 && bf o 8 8 = o.length) || (bf o 0 4 = 0x54395753 && bf o 0x64 4 = o.length) ||
    (bf o 0 4 = 0x54395835 && bf o 8 4 + 0x90 = o.length)

def imgFind (s : State) (name : List Byte) : Option Img := s.sirvi.store.find? fun i => i.name = name

/-- The store without an object. -/
def imgDrop (s : State) (name : List Byte) : List Img := s.sirvi.store.filter fun i => i.name ≠ name

/-- IMG_PUT; an object of the same name is replaced. (DEDUCED: log entry 58.) -/
def imgPutEff (bmc : Bool) (name : List Byte) (obj : Option (List Byte)) : State → State :=
  mbDo (.imgPut bmc name obj) bmc 0x60 fun s => match obj with
    | none => (6, s, [])
    | some o =>
      let rest := imgDrop s name
      if name = [] || !imgOk o then (2, s, [])
      else if 1024 ≤ rest.length || decide (3072 * 2 ^ 20 < rest.foldl (fun a i => a + i.obj.length) o.length) then (7, s, [])
      else (0, modSirvi s fun v => { v with store := rest ++ [{ name := name, obj := o }] }, [])

def execImgPut (bmc : Bool) (name : List Byte) (obj : Option (List Byte)) (s : State) : Out := .next (imgPutEff bmc name obj s)

def imgGetEff (bmc : Bool) (p : Nat) (name : List Byte) (a : Nat) : State → State :=
  mbDo (.imgGet bmc p name a) bmc 0x61 fun s => match imgFind s name with
    | none => (2, s, [])
    | some i =>
      if p = 0 || decide (16 < p) then (2, s, [])
      else if !devRdy s || !winValid s p then (3, s, [])
      else if !inGeneral s p a i.obj.length then (2, s, [])
      else (0, (hbmWrite s a i.obj).1, [])

def execImgGet (bmc : Bool) (p : Nat) (name : List Byte) (a : Nat) (s : State) : Out := .next (imgGetEff bmc p name a s)

def imgDelEff (bmc : Bool) (name : List Byte) : State → State :=
  mbAct (.imgDel bmc name) bmc 0x62 (fun s => [((imgFind s name).isNone, 2)]) fun s => modSirvi s fun v => { v with store := imgDrop s name }

def execImgDel (bmc : Bool) (name : List Byte) (s : State) : Out := .next (imgDelEff bmc name s)

def imgListEff (bmc : Bool) : State → State :=
  mbDo (.imgList bmc) bmc 0x63 fun s => (0, s, s.sirvi.store.flatMap fun i => natLe 4 i.name.length ++ i.name ++ natLe 4 i.obj.length)

def execImgList (bmc : Bool) (s : State) : Out := .next (imgListEff bmc s)

/-! ## Debug (13_parties R386) -/

def debugNonceEff (bmc : Bool) : State → State :=
  mbDo (.debugNonce bmc) bmc 0x70 fun s =>
    let x := padTo 32 0 (Config.drbg s.sirvi.drbg 32)
    (0, modSirvi s fun v => { v with nonce := some x, drbg := v.drbg + 1 }, x)

def execDebugNonce (bmc : Bool) (s : State) : Out := .next (debugNonceEff bmc s)

/-- The grant verifies. -/
def grantOk (s : State) (g : List Byte) : Bool :=
  g.length = 0x98 && bf g 0 4 = 0x54394447 && bf g 4 2 = 1 && decide (bf g 6 2 < 8) && (g.drop 8).take 16 = padTo 16 0 Config.serial &&
    s.sirvi.nonce = some ((g.drop 0x18).take 32) && Config.ecdsaVerify 1 (g.take 0x38) ((g.drop 0x38).take 96)

/-- DEBUG_CONSENT: a grant that verifies starts the entry into debug, and the command runs until it is complete. (DEDUCED: log entry 58.) -/
def debugConsentEff (bmc : Bool) (g : List Byte) (s : State) : State :=
  if !mbUp s bmc 0x71 then s
  else if mbBusy s then mbHold (.debugConsent bmc g) bmc s
  else if dbgOn s then mbReply s bmc 0x71 4 []
  else if grantOk s g then
    let s1 := sumCmd s 0x0040 4 0 0 0 (natLe 2 (bf g 6 2))
    let s2 := each s1 (List.range 16) fun s n => if tearable (part s n).st then teardownPart s n else s
    modSirvi s2 fun v => { v with dbgReq := some (bf g 6 2, bmc) }
  else mbReply (sumCmd s 0x0042 4 0 0 0 []) bmc 0x71 5 []

def execDebugConsent (bmc : Bool) (g : List Byte) (s : State) : Out := .next (debugConsentEff bmc g s)

/-- Every IDE stream ends. -/
def allIdeEnd (s : State) : State :=
  each s ((List.range 18).filter fun k => ide s k ≠ {} || rb s (funcsPg + 0x108) (ideBit k)) ideEnd

/-- HBM is clear: contents, stream directory but LAST_SEQ (R191), windows. -/
def clearHbm (s : State) : State :=
  { s with hbm := [], hbmBad := [], hbmCe := [], meeBad := [], strms := s.strms.filterMap fun p => if p.2.lastSeq = 0 then none else some (p.1, { lastSeq := p.2.lastSeq }) }

/-- Every slot's keys, window keys and vector counters, and the windows, go (R374). -/
def eraseAll (s : State) : State := each s (List.range 16) fun s i => eraseSlot s i

/-- DEBUG_ENTERED: steps 5 to 7, once every partition is OFF. (DEDUCED: log entry 58.) -/
def debugEnteredEff (s : State) : State :=
  match s.sirvi.dbgReq with
  | none => s
  | some (scope, bmc) =>
    if allOff s then
      let s1 := each (allIdeEnd { s with sess := [] }) (List.range 16) tdiError
      let s2 := sumCmd (clearHbm (eraseAll s1)) 0x0041 0 0 0 0 (natLe 2 scope)
      mbReply (modSirvi s2 fun v => { v with dbg := some scope, dbgReq := none, devKey := none }) bmc 0x71 0 []
    else s

end Sys2Proof.Machine
end

