-- ==== Sys2Proof/Machine/Boot.lean ====
section
/-!
DEFINITION. Power, boot and resets (15_sirvi R414, R415, R421; 16_host_registers R456-R459; 17_package R461-R471; 00_scope R4, R6, R10;
01 R37; 13 R374, R386-R388).
-/
namespace Sys2Proof.Machine

/-! ## What a reset keeps -/

/-- HBM_SPARED, which counts since manufacture. -/
def isSpared (a : Nat) : Bool := match pageAt (a / 4096) with | some (.stack, _) => a % 4096 = 0x110 | _ => false

/-- The operator's accounting, which only a cold reset clears (R10). -/
def isOper (a : Nat) : Bool := match pageAt (a / 4096) with | some (.oper, _) => decide (0x100 ≤ a % 4096) | _ => false

/-- Registers that a warm reset keeps (R4, R457): the sticky ones of every page; the party pages; HBM windows and the HBM counters; the
sensor and background pages' own registers; the operator's accounting. (DEDUCED: log entry 59.) -/
def keepWarm (a : Nat) : Bool :=
  let o := a % 4096
  if o = 0x30 then false
  else if 0x20 ≤ o ∧ o < 0x30 then true
  else match pageAt (a / 4096) with
  | some (.party, _) => true
  | some (.hbm, _) => decide (0x100 ≤ o)
  | some (.stack, _) => decide (0x100 ≤ o)
  | some (.sens, _) => decide (0x100 ≤ o)
  | some (.bg, _) => decide (0x100 ≤ o)
  | some (.oper, _) => decide (0x100 ≤ o)
  | some (.cluster, _) => o = 0x194
  | _ => false

/-- Entries of the summit register that never reached flash are lost; the chain goes on from the last durable one (R421). -/
def loseBuf (v : Summit) : Summit :=
  if v.buf = [] then v
  else
    let last := v.sectors.flatten.getLast?
    { v with buf := [], gap := 0, lost := true, next := (last.map fun e => sumSeq e + 1).getD 0
             head := (last.map fun e => e.drop (e.length - 48)).getD (List.replicate 48 0) }

/-- LAST_SEQ of every handle (R191, R458). -/
def lastSeqs (m : SMap Strm) : SMap Strm := m.filterMap fun p => if p.2.lastSeq = 0 then none else some (p.1, { lastSeq := p.2.lastSeq })

/-- The Sirvi domain after a restart of Sirvi from its ROM: what lies in fuses, flash and pins stays. -/
def sirviFresh (v : Sirvi) : Sirvi :=
  { boot := .rom, perst := v.perst, smbus := v.smbus, maddr := v.maddr, slotA := v.slotA, slotB := v.slotB, sel := v.sel, run := none
    fuses := v.fuses, summit := { v.summit with boots := v.summit.boots + 1 }, store := v.store, mctp := v.mctp, drbg := v.drbg
    dbg := v.dbg, spares := v.spares, wears := v.wears }

/-- The machine with nothing but what every reset keeps: queue, host memory, messages sent, HBM_SPARED, and the Sirvi domain given. -/
def bare (s : State) (v : Sirvi) : State :=
  { pending := s.pending, free := s.free, msgs := s.msgs, rdata := s.rdata, hostMem := s.hostMem
    regs := s.regs.filter fun p => isSpared p.1, sirvi := v }

/-- A slot passes the ROM's checks; its signature and digest were judged when it was staged. (DEDUCED: log entry 58.) -/
def slotPass (s : State) (b : Bool) : Bool := (fwSlot s b).valid && svnOk s (fwSlot s b).image

/-- The ROM starts the firmware of the selected slot, else of the other, else stays in recovery (R415). -/
def romBoot (s : State) : State :=
  let b := s.sirvi.sel
  if slotPass s b then modSirvi s fun v => { v with run := some b, fell := false }
  else if slotPass s (!b) then modSirvi (sumDev s 0x0003 0 0 []) fun v => { v with run := some (!b), fell := true }
  else modSirvi s fun v => { v with boot := .recovery, run := none }

/-! ## Resets -/

/-- Payload of a RESET entry: kind, cause, entries of LAST_SEQ that could not be read, and the monitor where one is named. -/
def resetPayload (kind cause mon : Nat) : List Byte := natLe 1 kind ++ natLe 1 cause ++ natLe 4 0 ++ natLe 2 mon

/-- A Sirvi-initiated device reset (R374, R457, R458): everything goes but the bindings, LAST_SEQ and what every reset keeps; Sirvi
restarts from its ROM. (DEDUCED: log entry 59.) -/
def sirviReset (s : State) (origin cause mon : Nat) : State :=
  let s1 := sumFlush (sumCmd s 0x0004 origin 0 0 0 (resetPayload 3 cause mon))
  let s2 := bare s1 (sirviFresh s1.sirvi)
  let s3 := wrN { s2 with
    regs := s.regs.filter fun p => isSpared p.1 || isOper p.1
    keys := s.keys.filterMap fun p => if p.2.party = 0 then none else some (p.1, { party := p.2.party, reqHash := p.2.reqHash })
    strms := lastSeqs s.strms } (funcsPg + 0x10C) (3 + 256 * cause)
  romBoot s3

/-- A Sirvi-initiated reset waits for the end of a mailbox command (R459). -/
def sirviResetAt (s : State) (cause mon : Nat) : State :=
  if mbBusy s then modSirvi s fun v => { v with swait := some (cause, mon) } else sirviReset s 0 cause mon

/-- FN_RST.CAUSE of a warm reset. -/
def warmCode : WarmCause → Nat
  | .perst => 2
  | .linkDown => 3

/-- Every partition is zeroised, its lanes not flipped (R457, R459). -/
def zeroiseEvery (s : State) : State :=
  each s ((List.range 16).filter fun n => (part s n).st ≠ .off) fun s n => zeroiseEnd (beginZeroise s n) n

/-- A warm reset (R37, R456, R457). (DEDUCED: log entry 59.) -/
def warmReset (s0 : State) (c : WarmCause) : State :=
  let s := zeroiseEvery (sumDev s0 0x0004 0 0 (resetPayload 2 (warmCode c) 0))
  let k := s.clk
  let s1 : State := { s with
    clk := { tb := k.tb, rem := k.rem, num := k.num, seen := k.seen, op := k.op, opNext := k.opNext }
    regs := s.regs.filter fun p => keepWarm p.1
    latch := [], vfEn := [], clw := [], vecs := [], parts := [], lanes := [], clus := [], slots := [], htab := [], bundles := []
    ccmem := [], emis := [], emLost := [], ings := [], ports := [], noc := [], cores := [], lports := [], bly := []
    sess := s.sess.filter fun p => p.2.ep = 17
    spdm := s.spdm.filter fun p => p.1 = 17
    ide := [], aer := []
    sirvi := { s.sirvi with boot := .sirvi, wait := none, nonce := none } }
  wrN s1 (funcsPg + 0x10C) (2 + 256 * warmCode c)

/-- A warm reset comes: before the device is ready, or while a command runs, it waits; during a trip it does nothing (R459, R468, R470). -/
def warmAt (s : State) (c : WarmCause) : State :=
  match s.sirvi.boot with
  | .ready => if mbBusy s then modSirvi s fun v => { v with wait := some c } else warmReset s c
  | .sirvi => modSirvi s fun v => { v with wait := some c }
  | .rom => modSirvi s fun v => { v with wait := some c }
  | .off => s | .held => s | .recovery => s | .tripped => s

/-- WARM_RESET: PERST_N is asserted, or the link goes down. -/
def warmResetEff (c : WarmCause) (s : State) : State :=
  match c with
  | .perst => if s.sirvi.perst then s else warmAt (modSirvi s fun v => { v with perst := true }) .perst
  | .linkDown => if hostUp s then warmAt s .linkDown else s

def execWarmReset (c : WarmCause) (s : State) : Out := .next (warmResetEff c s)

/-- REFCLK_PCIE_LOSS takes the link down (R467). -/
def refclkPcieLossEff (s : State) : State := if hostUp s then warmAt s .linkDown else s
def execRefclkPcieLoss (s : State) : Out := .next (refclkPcieLossEff s)

/-- PERST_N_DEASSERT (R456, R465): while PWRGOOD is asserted. (DEDUCED: log entry 59.) -/
def perstNDeassertEff (s : State) : State :=
  if s.sirvi.boot = .off then s else modSirvi s fun v => { v with perst := false }
def execPerstNDeassert (s : State) : Out := .next (perstNDeassertEff s)

/-- REFCLK_LINK_LOSS, monitored while PWRGOOD is asserted (R467); a trip prevails. The monitor it names is the clock's. -/
def refclkLinkLossEff (s : State) : State :=
  match s.sirvi.boot with
  | .off => s | .held => s | .tripped => s
  | .rom => sirviResetAt s 6 0xFFFF | .sirvi => sirviResetAt s 6 0xFFFF | .ready => sirviResetAt s 6 0xFFFF
  | .recovery => sirviResetAt s 6 0xFFFF
def execRefclkLinkLoss (s : State) : Out := .next (refclkLinkLossEff s)

/-- DEV_RESET: answered, then the reset. (DEDUCED: log entry 59.) -/
def devResetEff (bmc : Bool) (s : State) : State :=
  if !mbUp s bmc 0x02 then s
  else if mbBusy s then mbHold (.devReset bmc) bmc s
  else if s.sirvi.boot = .tripped then mbReply s bmc 0x02 3 []
  else sirviReset (mbReply s bmc 0x02 0 []) (orgn bmc) 4 0

def execDevReset (bmc : Bool) (s : State) : Out := .next (devResetEff bmc s)

/-- A mailbox command that waited runs. -/
def mbRun (s : State) (i : Instr) : State :=
  match i with
  | .info b => infoEff b s
  | .devReset b => devResetEff b s
  | .ksBind b x0 x1 x2 => ksBindEff b x0 x1 x2 s
  | .ksUnbind b x0 => ksUnbindEff b x0 s
  | .winCreate b x0 x1 x2 x3 => winCreateEff b x0 x1 x2 x3 s
  | .winResize b x0 x1 x2 => winResizeEff b x0 x1 x2 s
  | .winRemove b x0 => winRemoveEff b x0 s
  | .regionSet b x0 x1 => regionSetEff b x0 x1 s
  | .hbmMap b x0 x1 => hbmMapEff b x0 x1 s
  | .spanSet b x0 x1 => spanSetEff b x0 x1 s
  | .sensorLimit b x0 x1 x2 => sensorLimitEff b x0 x1 x2 s
  | .pwrLimit b x0 => pwrLimitEff b x0 s
  | .bgCfg b x0 x1 => bgCfgEff b x0 x1 s
  | .fwStage b x0 => fwStageEff b x0 s
  | .fwActivate b x0 => fwActivateEff b x0 s
  | .fwCommit b => fwCommitEff b s
  | .summitInfo b => summitInfoEff b s
  | .summitRead b x0 => summitReadEff b x0 s
  | .imgPut b x0 x1 => imgPutEff b x0 x1 s
  | .imgGet b x0 x1 x2 => imgGetEff b x0 x1 x2 s
  | .imgDel b x0 => imgDelEff b x0 s
  | .imgList b => imgListEff b s
  | .debugNonce b => debugNonceEff b s
  | .debugConsent b x0 => debugConsentEff b x0 s
  | _ => s

/-- The commands of the BMC that waited run, in order of arrival (R429). -/
def mbDrain (s : State) : State := each (modSirvi s fun v => { v with mbq := [] }) s.sirvi.mbq mbRun

/-- DEBUG_ENTERED; a reset that waited for the command's end follows (R459), then the commands that waited. -/
def debugThenReset (s : State) : State :=
  let s1 := debugEnteredEff s
  if mbBusy s1 then s1
  else match s1.sirvi.swait with
  | some (k, m) => sirviReset s1 0 k m
  | none => match s1.sirvi.wait with
    | some c => mbDrain (if s1.sirvi.boot = .ready then warmReset s1 c else s1)
    | none => mbDrain s1

def execDebugEntered (s : State) : Out := .next (debugThenReset s)

/-! ## Power (R421, R462-R464, R470) -/

/-- The rails go: nothing stays but fuses, flash, the straps, and what every reset keeps. (DEDUCED: log entry 59.) -/
def powerOff (s : State) (b : Boot) : State :=
  let v := s.sirvi
  bare s { boot := b, perst := v.perst || b = .off, smbus := v.smbus, maddr := v.maddr, slotA := v.slotA, slotB := v.slotB, sel := v.sel, run := none
           fuses := v.fuses, summit := loseBuf v.summit, store := v.store, drbg := v.drbg, spares := v.spares, wears := v.wears }

/-- PWRGOOD_DEASSERT; PERST_N is asserted with it (R465). -/
def pwrgoodDeassertEff (s : State) : State := if s.sirvi.boot = .off then s else powerOff s .off
def execPwrgoodDeassert (s : State) : Out := .next (pwrgoodDeassertEff s)

/-- P54V_UNDERVOLTAGE holds the rails off until PWRGOOD is deasserted. -/
def p54vUndervoltageEff (s : State) : State := if s.sirvi.boot = .off ∨ s.sirvi.boot = .held then s else powerOff s .held
def execP54vUndervoltage (s : State) : Out := .next (p54vUndervoltageEff s)

/-- PWRGOOD_ASSERT: the straps are sampled and a cold boot starts from ROM (R414, R461). (DEDUCED: log entry 59.) -/
def pwrgoodAssertEff (smbus : Bool) (maddr : Nat) (s : State) : State :=
  if s.sirvi.boot = .off then
    romBoot (modSirvi s fun v =>
      { v with boot := .rom, perst := true, smbus := smbus, maddr := maddr, summit := { v.summit with boots := v.summit.boots + 1 } })
  else s

def execPwrgoodAssert (smbus : Bool) (maddr : Fin 8) (s : State) : Out := .next (pwrgoodAssertEff smbus maddr s)

/-- A PLDM event for the BMC, while it has them enabled (15_sirvi R428; R471): kind 0 warn, 1 throttle, 2 fault, 3 power limit. -/
def pldmEvent (s : State) (kind sensor : Nat) : State :=
  if s.sirvi.pldmOn then modSirvi s fun v => { v with pldm := v.pldm ++ [(kind, sensor)] } else s

/-- ALERT_N is asserted (R471). -/
def alertN (s : State) : Bool := s.sirvi.pldm ≠ [] || s.sirvi.boot = .tripped

/-- THERMTRIP (R470): every rail but VSTBY goes, the Sirvi domain stays. Which sensor tripped is open: the command does not say. (DEDUCED: log entry 60.) -/
def thermtripEff (s : State) : State :=
  if s.sirvi.boot = .sirvi ∨ s.sirvi.boot = .ready then
    let r := fresh s
    let s1 := pldmEvent (sumDev r.2 0x0060 0 (r.1 % 72) (natLe 1 (r.1 % 72))) 2 (r.1 % 72)
    { bare s1 { s1.sirvi with boot := .tripped, wait := none, swait := none, dbgReq := none, mbq := [] } with
      keys := s1.keys, bg := s1.bg, sess := s1.sess.filter fun p => p.2.ep = 17
      regs := s1.regs.filter fun p => isSpared p.1 || (match pageAt (p.1 / 4096) with | some (.sens, _) => true | some (.bg, _) => true | _ => false) }
  else s

def execThermtrip (s : State) : Out := .next (thermtripEff s)

/-! ## Boot steps -/

/-- FW_WATCHDOG: firmware that is not ready in time; the ROM restarts from the other slot, once. -/
def fwWatchdogEff (s : State) : State :=
  match s.sirvi.boot, s.sirvi.run with
  | .rom, some b =>
    if !s.sirvi.fell && slotPass s (!b) then modSirvi (sumDev s 0x0003 0 0 []) fun v => { v with run := some (!b), fell := true }
    else modSirvi s fun v => { v with boot := .recovery, run := none }
  | _, _ => s

def execFwWatchdog (s : State) : Out := .next (fwWatchdogEff s)

/-- SIRVI_READY: POWER_LOSS where entries were lost, then BOOT. -/
def sirviReadyEff (s : State) : State :=
  if s.sirvi.boot = .rom && s.sirvi.run.isSome then
    let s1 := if s.sirvi.summit.lost then
        modSummit (sumDev s 0x0002 0 0 (natLe 8 (sumLast s))) fun v => { v with lost := false }
      else s
    modSirvi (sumDev s1 0x0001 0 0 (natLe 4 (fwVersion (runImage s)))) fun v => { v with boot := .sirvi }
  else s

def execSirviReady (s : State) : Out := .next (sirviReadyEff s)

/-- The device area is created under a new device key, where there is none (R279, R414). (DEDUCED: log entry 60.) -/
def makeDevArea (s : State) : State :=
  if winValid s 0 then s
  else putWin (modSirvi s fun v => { v with devKey := some (Config.drbg v.drbg 64), drbg := v.drbg + 1 }) 0
    (4096 * Config.devArea.1) (4096 * Config.devArea.2) (2 ^ 31)

/-- DEVICE_READY; a warm reset that waited takes effect here (R468). -/
def deviceReadyEff (s : State) : State :=
  if s.sirvi.boot = .sirvi then
    match s.sirvi.wait with
    | some c => warmReset (makeDevArea s) c
    | none => setEvt (modSirvi (makeDevArea s) fun v => { v with boot := .ready }) mbPg 2
  else s

def execDeviceReady (s : State) : Out := .next (deviceReadyEff s)

/-- The number of a rail in the order of R463. -/
def railNo : Rail → Nat
  | .vstby => 0 | .vio => 1 | .vcore0 => 2 | .vcore1 => 3 | .vcore2 => 4 | .vcore3 => 5 | .vhbm => 6 | .vlink => 7

/-- A voltage fault: VOLT_FAULT, a PLDM event, and a Sirvi-initiated reset whose entry names the monitor (15_sirvi R417). (DEDUCED: log entry 60.) -/
def voltFault (s : State) (sensor : Nat) : State := sirviResetAt (pldmEvent (setEvt s senPg 4 sensor) 2 sensor) 5 sensor

/-- RAIL_TIMEOUT: VSTBY ramps before the ROM runs, the others once Sirvi is ready (R463). -/
def railTimeoutEff (r : Rail) (s : State) : State :=
  if (r = .vstby && s.sirvi.boot = .rom) || (r ≠ .vstby && s.sirvi.boot = .sirvi) then voltFault s (72 + Config.railMonitor (railNo r) % 16)
  else s

def execRailTimeout (r : Rail) (s : State) : Out := .next (railTimeoutEff r s)

/-! ## PLDM (15_sirvi R428; R471) -/

def pldmEventEnableEff (s : State) : State := if sirviUp s then modSirvi s fun v => { v with pldmOn := true } else s
def execPldmEventEnable (s : State) : Out := .next (pldmEventEnableEff s)

/-- The oldest event that Sirvi holds is acknowledged. -/
def pldmEventAcknowledgeEff (s : State) : State := modSirvi s fun v => { v with pldm := v.pldm.drop 1 }
def execPldmEventAcknowledge (s : State) : Out := .next (pldmEventAcknowledgeEff s)

end Sys2Proof.Machine
end

