-- ==== Sys2Proof/Machine/Sensors.lean ====
section
/-!
DEFINITION. Sensors and limits, and the operating point that Sirvi chooses (15_sirvi R416-R418, R428; 01_tick R24).
-/
namespace Sys2Proof.Machine

/-- The reading of a sensor in a sample. -/
def reading (rs : Readings) (i : Nat) : Option Int := nth none rs i

/-- A reading lies in its sensor's valid range. -/
def inRange (i : Nat) (v : Int) : Bool :=
  if i < 64 then decide (-(40 * 16) ≤ v) && decide (v ≤ 150 * 16)
  else if i < 72 then decide (0 ≤ v) && decide (v ≤ 125 * 16)
  else if i < 88 then decide (0 ≤ v) && decide (v ≤ 2 * (Config.nominalMv (i - 72) : Int))
  else decide (0 ≤ v) && decide (2 * v ≤ 3 * (Config.railRating (i - 88) : Int))

/-- The sensor gives a good reading. -/
def goodRead (rs : Readings) (i : Nat) : Bool := match reading rs i with | some v => inRange i v | none => false

/-- Register and bit of a sensor in SEN_FAULT0-3. -/
def faultBit (i : Nat) : Nat × Nat :=
  if i < 64 then (senPg + 0x290 + 4 * (i / 32), i % 32) else if i < 88 then (senPg + 0x298, i - 64) else (senPg + 0x29C, i - 88)

/-- The sensor is faulty. -/
def senFaulty (s : State) (i : Nat) : Bool := rb s (faultBit i).1 (faultBit i).2

/-- A sensor becomes faulty, or valid again after 100 good readings in a row. -/
def senJudge (rs : Readings) (s : State) (i : Nat) : State :=
  let g := goodRead rs i
  if senFaulty s i then
    let k := if g then smGet 0 s.sirvi.sens.good i + 1 else 0
    if 100 ≤ k then modSens (wf s (faultBit i).1 (faultBit i).2 1 0) fun x => { x with good := smSet 0 x.good i 0 }
    else modSens s fun x => { x with good := smSet 0 x.good i k }
  else if g then s
  else
    let s1 := setEvt (bump (wf s (faultBit i).1 (faultBit i).2 1 1) senPg 0x2C0) senPg 2 i
    pldmEvent (sumDev s1 0x0061 0 0 (natLe 1 i)) 2 i

/-- The temperature that a sensor counts with: its reading, or the substitute of R416. -/
def temp (s : State) (rs : Readings) (i : Nat) : Int :=
  if !senFaulty s i then (reading rs i).getD 0
  else if i < 64 then
    let ok := (List.range 16).filter fun k => !senFaulty s (16 * (i / 16) + k)
    if ok.length < 12 then limOf s i 1
    else (ok.foldl (fun m k => max m ((reading rs (16 * (i / 16) + k)).getD 0)) (-(40 * 16))) + 80
  else limOf s i 1

/-- A warn limit is crossed upwards, or left. -/
def warnAt (s : State) (i : Nat) (above : Bool) : State :=
  if above && !smGet false s.sirvi.sens.warn i then
    pldmEvent (setEvt (modSens s fun x => { x with warn := smSet false x.warn i true }) senPg 0) 0 i
  else if above then s else modSens s fun x => { x with warn := smSet false x.warn i false }

/-- A temperature's register and warning. -/
def tempStep (rs : Readings) (s : State) (i : Nat) : State :=
  let t := temp s rs i
  warnAt (wrN s (if i < 64 then senPg + 0x100 + 4 * i else senPg + 0x200 + 4 * (i - 64)) (lowBits 16 t)) i (decide (limOf s i 0 ≤ t))

/-- A voltage deviates from its nominal by more than a limit in thousandths. -/
def voltOver (s : State) (v : Int) (i kind : Nat) : Bool :=
  decide (limOf s i kind * (Config.nominalMv (i - 72) : Int) < 1000 * ((v - (Config.nominalMv (i - 72) : Int)).natAbs : Int))

/-- A voltage's register, warning, and readings beyond its fault limit. A faulty monitor only warns. -/
def voltStep (rs : Readings) (s : State) (i : Nat) : State :=
  match reading rs i with
  | none => s
  | some v =>
    let s1 := warnAt (wrN s (senPg + 0x220 + 4 * (i - 72)) (lowBits 16 v)) i (voltOver s v i 2)
    let k := if voltOver s v i 3 && !senFaulty s i then smGet 0 s.sirvi.sens.volt i + 1 else 0
    modSens s1 fun x => { x with volt := smSet 0 x.volt i k }

/-- The largest PAVG of the parties in steady mode, in seconds; 0 with none. -/
def pavg (s : State) : Nat :=
  (List.range 16).foldl (fun m k => if rb s (ptyPg (k + 1) + 0x218) 31 then max m (rf s (ptyPg (k + 1) + 0x218) 0 6) else m) 0

/-- Mean of a column of the last seconds. -/
def meanOf (l : List (List Nat)) (k : Nat) : Nat := if l = [] then 0 else (l.foldl (fun a r => a + nth 0 r k) 0) / l.length

/-- A rail current's register, of a sample outside steady mode; a faulty monitor's keeps its value. -/
def curStep (rs : Readings) (s : State) (i : Nat) : State :=
  match reading rs i with
  | some v => if senFaulty s i then s else wrN s (senPg + 0x260 + 4 * (i - 88)) (lowBits 24 v)
  | none => s

/-- Input power of the sample: an estimate that the spec leaves open while a current monitor is faulty. (DEDUCED: log entry 61.) -/
def samplePower (s : State) (rs : Readings) : Nat × State :=
  if (List.range 8).any fun k => senFaulty s (88 + k) then fresh s
  else (Config.inputPower ((List.range 8).map fun k => (reading rs (88 + k)).getD 0) ((List.range 16).map fun k => (reading rs (72 + k)).getD 0), s)

/-- Power and currents of a sample; a second of 1,000 samples gives its means. (DEDUCED: log entry 61.) -/
def powerStep (s0 : State) (rs : Readings) : State :=
  let r := samplePower s0 rs
  let s := r.2
  let x := s.sirvi.sens
  let row := r.1 :: (List.range 8).map fun k => rdN s (senPg + 0x260 + 4 * k)
  let sums := (List.range 9).map fun k => nth 0 x.sums k + nth 0 row k
  if x.cnt + 1 < 1000 then modSens s fun x => { x with cnt := x.cnt + 1, sums := sums }
  else
    let m := sums.map fun a => a / 1000
    let secs := (m :: x.secs).take 60
    let s1 := modSens s fun x => { x with cnt := 0, sums := [], secs := secs, excess := decide (1000 * x.pwr < nth 0 m 0) }
    let g := secs.take (max 1 (pavg s))
    let s2 := wrN s1 (senPg + 0x280) (meanOf g 0)
    if pavg s = 0 then s2 else each s2 (List.range 8) fun s k => wrN s (senPg + 0x260 + 4 * k) (meanOf g (k + 1))

/-- Whether the sample finds some throttle limit reached, and every condition for raising the point met (R417). Of several sensors over their
limits, the lowest-numbered is the one that a THROTTLE capture names. (DESIGN CHOICE: log entry 61.) -/
def pointStep (s : State) (rs : Readings) : State :=
  let hot := (List.range 72).find? fun i => decide (limOf s i 1 ≤ temp s rs i)
  let cool := ((List.range 72).all fun i => decide (temp s rs i < limOf s i 0)) &&
    decide (10 * nth 0 (s.sirvi.sens.secs.headD []) 0 < 9000 * s.sirvi.sens.pwr)
  modSens s fun x => { x with hot := hot.isSome, hotBy := hot.getD x.hotBy, calm := if cool then x.calm + 1 else 0 }

/-- SENSOR_SAMPLE: every sensor is read and judged, then the limits are applied; ten readings beyond a voltage fault limit reset the
device. (DEDUCED: log entry 61; DESIGN CHOICE: log entry 64.) -/
def sensorSampleEff (rs : Readings) (s : State) : State :=
  if s.sirvi.boot = .sirvi ∨ s.sirvi.boot = .ready then
    let r (a n : Nat) : List Nat := (List.range n).map fun k => a + k
    let s1 := each s (r 0 96) (senJudge rs)
    let s2 := each (each s1 (r 0 72) (tempStep rs)) (r 72 16) (voltStep rs)
    let s3 := if pavg s = 0 then each s2 (r 88 8) (curStep rs) else s2
    let s4 := pointStep (powerStep s3 rs) rs
    match (r 72 16).find? fun i => decide (10 ≤ smGet 0 s4.sirvi.sens.volt i) with
    | some i => voltFault (modSens s4 fun x => { x with volt := [] }) i
    | none => s4
  else s

def execSensorSample (rs : Readings) (s : State) : Out := .next (sensorSampleEff rs s)

/-! ## The operating point -/

/-- The point that the next edge brings. (DEDUCED: log entry 61.) -/
def opComing (s : State) : Nat := match s.clk.opNext with | some (p, _) => p | none => s.clk.op

/-- SEN_OP's cause of the last lowering: bit 1 THERMAL, bit 2 POWER. -/
def opCause (s : State) (thermal : Bool) : State := wrN s (senPg + 0x284) (if thermal then 2 else 4)

/-- POWER_LIMIT_STEP: a second over PWR_LIM lowers the point one step, not below OPFLOOR, where it counts instead. -/
def powerLimitStepEff (s : State) : State :=
  if sirviUp s && s.sirvi.sens.excess then
    let s1 := modSens s fun x => { x with excess := false }
    if opComing s < s.clk.cfg.opfloor then opCause { s1 with clk := { s1.clk with opNext := some (opComing s + 1, false) } } false
    else pldmEvent (setEvt (bump s1 senPg 0x2C8) senPg 3) 3 0
  else s

def execPowerLimitStep (s : State) : Out := .next (powerLimitStepEff s)

/-- What Sirvi decides at an edge (R417): throttling first, then a step for power, then raising. (DEDUCED: log entry 61.) -/
def pointEdge (s : State) : State :=
  let x := s.sirvi.sens
  if !sirviUp s then s
  else if x.hot then
    (if s.clk.op < 2 then
      let p := s.clk.op + 1
      let s1 := pldmEvent (setEvt (bump { opCause s true with clk := { s.clk with opNext := some (p, true) } } senPg 0x2C4) senPg 1 x.hotBy) 1 x.hotBy
      if decide (s.clk.cfg.opfloor < p) && !x.below then
        modSens (sumDev s1 0x0060 0 x.hotBy (natLe 1 x.hotBy)) fun x => { x with below := true }
      else s1
     else { s with clk := { s.clk with opNext := none } })
  else if s.clk.opNext.isSome then s
  else if decide (1000 ≤ x.calm) && decide (0 < s.clk.op) then
    let p := s.clk.op - 1
    modSens { s with clk := { s.clk with opNext := some (p, false) } } fun x => { x with below := x.below && decide (s.clk.cfg.opfloor < p) }
  else s

end Sys2Proof.Machine
end

