-- ==== Sys2Proof/Machine/Background.lean ====
section
/-!
DEFINITION. Background work (15_sirvi R430-R440): passes, lag and stages at an edge, scrubs, row sparing, calibrations, wear, slips.
-/
namespace Sys2Proof.Machine

/-- Clusters. -/
def allClus : List Nat := List.range 256

/-- Lag of an activity in ticks (R433): the largest over the clusters for 0 and 1, the oldest marked row's age for 3. -/
def bgLag (s : State) (a : Nat) : Nat :=
  if a = 3 then (bgAct s 3).rows.foldl (fun m r => max m r.2.2) 0
  else if a = 2 then cdiv (bgOut s 2 0) (bgQ s 2)
  else cdiv (allClus.foldl (fun m c => max m (bgOut s a c)) 0) (bgQ s a)

/-- The pass is complete. -/
def passDone (s : State) (a : Nat) : Bool :=
  if a = 2 then decide (bgW 2 ≤ (bgAct s 2).done) else allClus.all fun c => decide (bgW a ≤ smGet 0 (bgAct s a).doneC c)

/-- One edge of a pass; the next pass begins when this one is done and its T ticks are over. Rows age. -/
def passEdge (s : State) (a : Nat) : State :=
  let x := bgAct s a
  if a = 3 then setBg s 3 { x with rows := x.rows.map fun r => (r.1, r.2.1, r.2.2 + 1) }
  else if decide (bgT s a ≤ x.n + 1) && passDone s a then setBg s a { x with n := 0, done := 0, doneC := [] }
  else setBg s a { x with n := x.n + 1 }

/-- Clusters that lag by more than BG_THR. -/
def lagMask (s : State) (a thr : Nat) : List Nat := allClus.filter fun c => decide (thr < cdiv (bgOut s a c) (bgQ s a))

/-- The work not covered, in BG_UNCOV and in the entry's payload (R438). -/
def bgUncov (s : State) (a thr : Nat) : State × List Byte :=
  let put (s : State) (x y : Nat) : State := wr64 (wr64 s (bgPg + 0x1B0) x) (bgPg + 0x1B8) y
  if a < 2 then
    let ls := lagMask s a thr
    let word (k : Nat) : Nat := (ls.filter fun c => c / 32 = k).foldl (fun m c => m + 2 ^ (c % 32)) 0
    ((List.range 8).foldl (fun s k => wrN s (bgPg + 0x190 + 4 * k) (word k)) s, (List.range 8).flatMap fun k => natLe 4 (word k))
  else if a = 2 then
    let x := 128 * (bgAct s 2).done
    let y := 128 * bgSched s 2
    (put s x y, natLe 8 x ++ natLe 8 y)
  else
    let old := (bgAct s 3).rows.foldl (fun (m : Nat × Nat) r => if m.2 < r.2.2 then (r.2.1, r.2.2) else m) (0, 0)
    (put s old.1 0, natLe 8 old.1)

/-- An activity goes into a stage. -/
def setStage (s : State) (a st : Nat) : State :=
  let s1 := setBg (wf s (bgPg + 0x100 + 0x10 * a) 30 2 st) a { bgAct s a with inSt := 0 }
  if st = 1 then setEvt s1 bgPg 0 else if st = 2 then setEvt s1 bgPg 1 else s1

/-- STARVED (R438). -/
def enterStarved (s : State) (a lag thr : Nat) : State :=
  let q := bgUncov (setStage s a 3) a thr
  sumDev (setEvt (bump q.1 bgPg 0x184) bgPg 2 a) 0x0062 0 a (natLe 1 a ++ natLe 4 lag ++ q.2)

/-- NORMAL again; BG_UNCOV is released. -/
def enterNormal (s : State) (a : Nat) : State :=
  let was := bgStage s a
  let s1 := setStage s a 0
  if was = 3 then
    (if a < 2 then (List.range 8).foldl (fun s k => wrN s (bgPg + 0x190 + 4 * k) 0) s1 else wr64 (wr64 s1 (bgPg + 0x1B0) 0) (bgPg + 0x1B8) 0)
  else s1

/-- The stage of an activity at an edge (R434), with its lag and progress. -/
def stageEdge (s0 : State) (a : Nat) : State :=
  let lag := bgLag s0 a
  let x := bgAct s0 a
  let thr := rf s0 (bgPg + 0x140) 0 11
  let prog := if a = 2 then x.done else if a = 3 then x.done else allClus.foldl (fun m c => min m (smGet 0 x.doneC c)) (bgW a)
  let s := wrN (wf s0 (bgPg + 0x100 + 0x10 * a) 0 24 (min lag 0xFFFFFF)) (bgPg + 0x104 + 0x10 * a) prog
  let st := bgStage s a
  if st ≠ 0 && decide (lag ≤ thr / 2) then enterNormal s a
  else if lag ≤ thr then s
  else if st = 0 then setStage s a 1
  else if st = 3 then s
  else if x.inSt + 1 < 16 then setBg s a { x with inSt := x.inSt + 1 }
  else if st = 1 then setStage s a 2
  else enterStarved s a lag thr

/-- Background work at a device edge. -/
def bgEdge (s : State) : State :=
  if sirviUp s then (List.range 4).foldl (fun s a => stageEdge (passEdge s a) a) s else s

/-! ## Scrubs (R431) -/

/-- The scheduled work of activity 0 or 1 in the reserve, in every cluster. (DEDUCED: log entry 62.) -/
def scrubClus (s : State) (a : Nat) : State := each s allClus fun s c => scrubUnits s a c (bgOut s a c)

def scratchpadScrubEff (s : State) : State := if devRdy s then scrubClus s 0 else s
def execScratchpadScrub (s : State) : Out := .next (scratchpadScrubEff s)

/-- Bundle memory, control-core memory and handle table hold no latent error in this model. (DESIGN CHOICE: log entry 63.) -/
def clusterScrubEff (s : State) : State := if devRdy s then scrubClus s 1 else s
def execClusterScrub (s : State) : Out := .next (clusterScrubEff s)

/-- HBM_SCRUB. (DEDUCED: log entry 62.) -/
def hbmScrubEff (s : State) : State := if devRdy s then scrubGrans s (bgOut s 2 0) else s
def execHbmScrub (s : State) : Out := .next (hbmScrubEff s)

/-! ## Row sparing (R432) -/

/-- Spare rows used in a stack. -/
def sparesUsed (s : State) (st : Nat) : Nat := (List.range 32).foldl (fun a k => a + smGet 0 s.sirvi.spares (32 * st + k)) 0

/-- BG_STAT3.EXH when a stack has none of its 32 times 16 spare rows left. -/
def exhaust (s : State) (st : Nat) : State := if 512 ≤ sparesUsed s st then wf s (bgPg + 0x130) 29 1 1 else s

/-- ROW_SPARE_DONE: the oldest marked row of a pseudo-channel with one of its 16 spare rows left has been copied; its poison goes with it.
(DEDUCED: log entry 62.) -/
def rowSpareDoneEff (s : State) : State :=
  let x := bgAct s 3
  if !devRdy s then s
  else match x.rows.findIdx? fun r => decide (smGet 0 s.sirvi.spares (pchanOf s r.2.1) < 16) with
  | none => each s (x.rows.map fun r => stackOf s r.2.1) exhaust
  | some i =>
    let a := (nth (0, 0, 0) x.rows i).2.1
    let s1 := setBg s 3 { x with rows := x.rows.eraseIdx i, done := x.done + 1 }
    let s2 := modSirvi s1 fun v => { v with spares := smSet 0 v.spares (pchanOf s a) (smGet 0 v.spares (pchanOf s a) + 1) }
    exhaust (setEvt (wrN s2 (stkPg (stackOf s a) + 0x110) (rdN s2 (stkPg (stackOf s a) + 0x110) + 1)) (stkPg (stackOf s a)) 0) (stackOf s a)

def execRowSpareDone (s : State) : Out := .next (rowSpareDoneEff s)

/-! ## Sirvi's own activities (R413, R430, R439; 02 R69) -/

def thermalCalibrationEff (s : State) : State := if sirviUp s then modSirvi s fun v => { v with therms := v.therms + 1 } else s
def execThermalCalibration (s : State) : Out := .next (thermalCalibrationEff s)

/-- The energy coefficients are frozen while a rail current monitor is faulty (R416). -/
def energyCalibrationEff (s : State) : State :=
  if sirviUp s && !(List.range 8).any fun k => senFaulty s (88 + k) then modSirvi s fun v => { v with calib := v.calib + 1 } else s
def execEnergyCalibration (s : State) : Out := .next (energyCalibrationEff s)

/-- Wear levelling; FLASH_LIFE as the worst block gives it, which is open. (DEDUCED: log entry 62.) -/
def wearLevellingEff (s : State) : State :=
  if sirviUp s then
    let r := fresh s
    wrN (modSirvi r.2 fun v => { v with wears := v.wears + 1 }) (senPg + 0x288) (r.1 % 101)
  else s
def execWearLevelling (s : State) : Out := .next (wearLevellingEff s)

def bgSlipEff (s : State) : State := if sirviUp s then setEvt (bump s bgPg 0x188) bgPg 4 else s
def execBgSlip (s : State) : Out := .next (bgSlipEff s)

end Sys2Proof.Machine
end

