-- ==== Sys2Proof/Machine/Binding.lean ====
section
/-!
DEFINITION. The binding of chunks to lanes at the dispatch (02_partitions_pitches R50, R60, R61; 01_tick R27, R28; 11_ingest R324,
R325, R335, R338), and when a lane is done (01_tick R29, R30; 08_attention R225).
-/
namespace Sys2Proof.Machine

/-! ## What can be bound -/

/-- Lanes of a job may be bound in this tick: its partition RUNNING, or in MAINTENANCE a job with ADAPT or TEST (R50), loaded and not
halted (R67). (DEDUCED: log entry 46.) -/
def jobBinds (s : State) (n j : Nat) : Bool :=
  (job s n j).loaded && !(job s n j).halted &&
    ((part s n).st = .running || ((part s n).st = .maintenance && fld (jdReg s n j 0x14) 0 2 ≠ 0))

/-- A stream whose chunk the binding takes: ACTIVE, or parking with its blob still to be written (R192, R202). (DEDUCED: log entry 46.) -/
def strmBinds (x : Strm) : Bool := x.st = .active || (x.st = .parking && x.xfer = .write false)

/-- The ready chunks of home streams of a job in a cluster, oldest first, then by ascending handle. -/
def readyOf (s : State) (n j c : Nat) : List Nat :=
  sortBy (fun h => 2 ^ 20 - ((headReady (strm s h)).bind fun k => k.age).getD 0)
    ((strmsOf s n).filter fun h => let x := strm s h
      x.job = j && x.home = c && strmBinds x && (headReady x).isSome)

/-- The lowest-numbered free lane of a job in a cluster. -/
def freeLane (s : State) (n j c : Nat) : Option Nat :=
  (List.range (laneCount (job s n j).img c)).find? fun l => (lane s (laneKey n j c l)).isNone

/-! ## Binding one chunk -/

/-- The input row of a lane under a profile (R338). -/
def inRow (s : State) (key : Nat) (p : List Byte) : List (Nat × Nat) :=
  laneRow (job s (lanePart key) (laneJob key)).img (laneClus key) (pfInH p) (pfInRow p) (laneIdx key)

/-- The features go to the lane's input row, FULL (R338); a word of the store that is in error arrives as zero (09_memory R265, R266). -/
def copyFeatures (s : State) (p : List Byte) (key : Nat) (c : Chunk) : State :=
  match c.fs with
  | none => s
  | some a => (inRow s key p).zipIdx.foldl (fun s q =>
      let d := cleanBits (slotAt s (a / 1024) (a % 1024 + q.2))
      countBytes (setSlot (readSlot s (a / 1024) (a % 1024 + q.2) 0 256) q.1.1 q.1.2 { data := d, full := true }) (lanePart key) 512) s

/-- The context that follows the chunk goes to the new side of the stream's place, FULL (R335). -/
def putContext (s : State) (h : Nat) (p : List Byte) (c : Chunk) : State :=
  if pfCtx p then
    let bs := ctxBytes p c.ctx
    let x := strm s h
    (ctxPlace s x p (1 - x.side)).zipIdx.foldl (fun s q =>
      setSlot s q.1.1 q.1.2 { data := BitVec.ofNat 2048 (leNat ((bs.drop (256 * q.2)).take 256)), full := true }) s
  else s

/-- The chunk at the head of a stream's queue is bound to a lane (R27, R338); a frozen concealed chunk retires here (R325). -/
def bindLane (s : State) (n j c l h : Nat) (stolen : Bool) : State :=
  match (strm s h).queue with
  | [] => s
  | k :: rest =>
    let key := laneKey n j c l
    let frz := frozenChunk (strm s h) k
    let ln : Lane := { handle := h, stolen := stolen, chunk := if frz then { k with idx := [], fs := none } else k, noFlip := frz }
    let s1 := setLane (modStrm s h fun x => { x with queue := rest, bound := true }) key (some ln)
    let s2 := tagSlots s1 (newSlots s1 ln) false
    let p := profOf s2 h
    let s3 := putContext (copyFeatures s2 p key k) h p k
    let s4 := tagSlots s3 (emRow s3 key ln) false
    if frz then retireChunk (concealed s4 h k) n k else s4

/-! ## The two phases of R60 -/

/-- Bind streams of a job to free lanes of a cluster in order, with the ones left over. -/
def bindRun (n j c : Nat) (stolen : Bool) : List Nat → State → State × List Nat
  | [], s => (s, [])
  | h :: hs, s =>
    match freeLane s n j c with
    | none => (s, h :: hs)
    | some l => bindRun n j c stolen hs (bindLane s n j c l h stolen)

/-- Excess chunks by cluster and job. -/
abbrev Excess := List (Nat × Nat × List Nat)

/-- Phase 1 for the job `j` in cluster `c`. -/
def bindHome (n : Nat) (r : State × Excess) (q : Nat × Nat) : State × Excess :=
  let b := bindRun n q.2 q.1 false (readyOf r.1 n q.2 q.1) r.1
  (b.1, r.2 ++ [(q.1, q.2, b.2)])

/-- A job may steal (R61). -/
def mayStealJob (s : State) (n j : Nat) : Bool := rb s (partPg n + 0x200 + 4 * j) 17 && bitAt (jdReg s n j 0x14) 2

/-- The neighbours of a cluster in stealing order. -/
def stealOrder (c : Nat) : List Nat :=
  (if gx c < 15 then [clusAt (gx c + 1) (gy c)] else []) ++ (if gy c < 15 then [clusAt (gx c) (gy c + 1)] else []) ++
    (if 0 < gx c then [clusAt (gx c - 1) (gy c)] else []) ++ (if 0 < gy c then [clusAt (gx c) (gy c - 1)] else [])

/-- Phase 2 for one cluster and job: neighbours take what is left over. (DEDUCED: log entry 46.) -/
def bindSteal (n : Nat) (s : State) (q : Nat × Nat × List Nat) : State :=
  if mayStealJob s n q.2.1 then
    ((stealOrder q.1).foldl (fun (r : State × List Nat) m =>
      if isMember s n m && laneGroups (job s n q.2.1).img m ≠ 0 then
        let b := bindRun n q.2.1 m true r.2 r.1
        (modPart b.1 n fun p => { p with stolen := p.stolen + (r.2.length - b.2.length) }, b.2)
      else r) (s, q.2.2)).1
  else s

/-- Input rows of the lanes left unbound are zero and FULL (R338), for every profile in use of a job. (DEDUCED: log entry 46.) -/
def fillRows (s : State) (n j c : Nat) : State :=
  let ps := ((ing s n).profs.map fun q => padTo 64 0 q.2).filter fun p => pfEn p && pfJob p = j
  let rows := (ps.map fun p => (pfInH p, pfInRow p)).eraseDups
  let free := (List.range (laneCount (job s n j).img c)).filter fun l => (lane s (laneKey n j c l)).isNone
  each s rows fun s r => each s free fun s l => zeroSlots s (laneRow (job s n j).img c r.1 r.2 l) true

/-- Ready chunks that found no lane or no place (R28, R200). (DEDUCED: log entry 46.) -/
def markUnbound (s : State) (n : Nat) : State :=
  each s (strmsOf s n) fun s h =>
    let x := strm s h
    if jobBinds s n x.job && (strmBinds x || x.st = .opn) && (headReady x).isSome && !x.bound then
      modStrm s h fun x => { x with unbound := true }
    else s

/-- The binding of a partition's dispatch (R60). (DEDUCED: log entry 46.) -/
def bindPart (s : State) (n : Nat) : State :=
  let js := (List.range 16).filter fun j => jobBinds s n j
  let pairs := (members s n).flatMap fun c => (js.filter fun j => laneCount (job s n j).img c ≠ 0).map fun j => (c, j)
  let r := pairs.foldl (bindHome n) (modPart s n fun p => { p with stolen := 0 }, [])
  let s1 := r.2.foldl (bindSteal n) r.1
  markUnbound (each s1 pairs fun s q => fillRows s n q.2 q.1) n

/-! ## Ages (R201) and idle streams (R203) -/

/-- The age of a chunk at this dispatch: 0 at the first that sees it, one more at each that follows. -/
def ageChunk (num : Nat) (c : Chunk) : Chunk :=
  match c.age with
  | some a => { c with age := some (a + 1) }
  | none => if c.pres && decide (c.tick ≤ num) then { c with age := some (num - c.tick) } else c

/-- Every chunk of a partition's streams ages. (DEDUCED: log entry 46.) -/
def agePart (s : State) (n : Nat) : State :=
  each s (strmsOf s n) fun s h => modStrm s h fun x => { x with queue := x.queue.map (ageChunk s.clk.num) }

/-- At an edge the ticks without a bound chunk are counted, and the marks of the tick that ends go. (DEDUCED: log entry 46.) -/
def idleEdge (s : State) : State :=
  each s (s.strms.map fun p => p.1) fun s h => modStrm s h fun x =>
    { x with idle := if x.bound || x.st ≠ .active then 0 else x.idle + 1, bound := false, unbound := false }

/-! ## Done lanes (R29, R30, R225) -/

/-- HBM bytes of the frame positions that a lane's reservations cover. -/
def reservedBytes (s : State) (n key : Nat) : List (Nat × Nat) :=
  ((part s n).kvRes.filter fun r => r.2 = key).flatMap fun r =>
    (List.range (sdGet s n r.1 0x20 4)).flatMap fun i =>
      let t := sdL s n r.1 + i
      let f := kvFrame s n (ptePage (pte s n r.1 (t / 64)))
      let w := (kvPage s n - 256) / 64
      [(f + t % 64 * w, w), (f + 64 * w + t % 64, 1)]

/-- Two byte ranges meet. -/
def rangesMeet (a b : Nat × Nat) : Bool := decide (a.1 < b.1 + b.2) && decide (b.1 < a.1 + a.2)

/-- A write of the lane's in a member cluster was lost, or has not been made: to its new state or its emission row, or to its reserved frame
positions. (DEDUCED: log entry 26.) -/
def laneLost (s : State) (key : Nat) (l : Lane) : Bool :=
  let rows := newSlots s l ++ emRow s key l
  let res := reservedBytes s (lanePart key) key
  (members s (lanePart key)).any fun c =>
    let x := clu s c
    rows.any (fun q => x.lost.contains (q.1 * 1024 + q.2)) ||
      res.any fun r => (x.lostHbm ++ (x.q0 ++ x.q1).flatMap descHbmDst).any (rangesMeet r)

/-- The lane is done (R29, R30): the last pitch of its job has come to the end of the program in the lane's cluster, no write of the
lane is missing, and every slot written in its new state and emission row is FULL. (DEDUCED: log entry 26.) -/
def laneDone (s : State) (key : Nat) (l : Lane) : Bool :=
  !l.fault && l.late.isNone && !l.noFlip && (clu s (laneClus key)).haltJ.contains (laneJob key) && !laneLost s key l &&
    (newSlots s l ++ emRow s key l).all fun q => (slotAt s q.1 q.2).full || !(slotAt s q.1 q.2).open_

end Sys2Proof.Machine
end

