-- ==== Sys2Proof/Machine/Flip.lean ====
section
/-!
DEFINITION. The commit of a tick (01_tick R28-R35; 02_partitions_pitches R58; 07_streams_state R199, R202; 08_attention R226;
11_ingest R324, R341; 14_links_belay R405, R409): DISPATCH_END, COMMIT_WINDOW_OPEN and FLIP.
-/
namespace Sys2Proof.Machine

/-- Partitions whose tick runs. -/
def tickParts (s : State) : List Nat :=
  (List.range 16).filter fun n => (part s n).st = .running || (part s n).st = .maintenance

/-! ## Cycle 50,000 -/

/-- Streams of a partition whose chunk is late with cause NOT_BOUND. -/
def unboundOf (s : State) (n : Nat) : List Nat := (strmsOf s n).filter fun h => (strm s h).unbound

/-- Some lane or stream of a partition has cause NOT_BOUND. -/
def anyNotBound (s : State) (n : Nat) : Bool :=
  !(unboundOf s n).isEmpty || (partLanes s n).any fun p => p.2.late = some 1

/-- The slack that opens with the pitch region (R58). -/
def firstSeg (s : State) (n : Nat) : State := if steadyOf s n then s else openSeg s n 50000

/-- Lanes of the tick whose streams' profiles give them something to copy (11_ingest R338). -/
def copyLanes (s : State) : List Nat :=
  (tickParts s).flatMap fun n => (partLanes s n).filterMap fun p =>
    if pfInRow (profOf s p.2.handle) ≠ 0 || pfCtx (profOf s p.2.handle) then some p.1 else none

/-- A lane whose copies are not complete by cycle 50,000 is late with cause NOT_BOUND. -/
def lateCopy (s : State) (k : Nat) : State :=
  modLane s k fun l => { l with late := match l.late with | some x => some x | none => some 1 }

/-- How long copies take is not stated: bit i of a free value tells whether those of the i-th lane are not complete. (DESIGN CHOICE: log
entry 15.) -/
def lateCopies (s : State) : State :=
  let l := copyLanes s
  if l = [] then s
  else
    let r := fresh s
    each r.2 (l.zipIdx.filterMap fun q => if bitAt r.1 q.2 then some q.1 else none) lateCopy

/-- DISPATCH_END. (DEDUCED: log entry 15.) -/
def dispatchEndEff (s : State) : State :=
  if s.clk.phase = .dispatch then
    let s1 := lateCopies (toCycle s 50000)
    let s2 := each s1 (tickParts s1) stopDispatch
    let s3 := if (tickParts s2).any (anyNotBound s2) then setEvt (bump s2 tickPg 0x16C) tickPg 5 else s2
    each { s3 with clk := { s3.clk with phase := .pitches } } (tickParts s3) firstSeg
  else s

def execDispatchEnd (s : State) : Out := .next (dispatchEndEff s)

/-! ## The commit window -/

/-- A pitch whose limit has passed is stopped at it (R55); one whose limit lies beyond the opening of the commit window, where a point below
OPFLOOR has left no room for it, has run up to there (R24). (DEDUCED: log entry 15.) -/
def limitPitches (s : State) : State := each s (tickParts s) fun s n => runTo (pitchLimitEff n s) n (commitStart s)

/-- The flip set of a partition (R30). -/
def fixFlipSet (s : State) (n : Nat) : State :=
  let ks := (partLanes s n).filterMap fun p => if laneDone s p.1 p.2 then some p.1 else none
  modPart s n fun p => { p with flipSet := some ks, seg := none }

/-- COMMIT_WINDOW_OPEN. (DEDUCED: log entry 15.) -/
def commitWindowOpenEff (s : State) : State :=
  if s.clk.phase = .pitches then
    let s1 := limitPitches s
    let s2 := toCycle s1 (commitStart s1)
    each { s2 with clk := { s2.clk with phase := .commit } } (tickParts s2) fixFlipSet
  else s

def execCommitWindowOpen (s : State) : Out := .next (commitWindowOpenEff s)

/-! ## The flip -/

/-- A flipped lane (R31, R199): the new side is the committed side, SEQ advances, the chunk retires, and what the lane made is staged
and sent. (DEDUCED: log entry 26.) -/
def flipLane (s : State) (key : Nat) (l : Lane) : State :=
  let h := l.handle
  let s1 := setSeq s h ((strm s h).seq + 1)
  let s2 := modStrm s1 h fun x => { x with side := 1 - x.side }
  let s3 := concealed (retireChunk s2 (lanePart key) l.chunk) h l.chunk
  blyFlip (stageTokens s3 key l) (lanePart key) l

/-- Counts and event of a late stream (R32); the lanes of a party in steady mode do not count in LATE_LANE_CNT (R383). (DEDUCED: log entry 34.) -/
def lateStrm (s : State) (n h cause tick ts : Nat) : State :=
  let s1 := modStrm s h fun x => { x with cLate := sat16 (x.cLate + 1) }
  let s2 := if steadyOf s n then s1 else bump s1 tickPg 0x168
  setEvt (strmEvent (bump s2 (partPg n) 0x160) h 1 cause 0 tick ts) tickPg 4

/-- A lane that does not flip (R32, R34, R65; 11_ingest R325): late with its cause, else NOT_DONE; its chunk waits again. -/
def missLane (s : State) (key : Nat) (l : Lane) : State :=
  let s1 := if l.fault || l.noFlip then s else lateStrm s (lanePart key) l.handle (l.late.getD 2) l.chunk.tick l.chunk.ts
  giveBack s1 l

/-- A stream whose chunk was not bound is late (R28, R32). -/
def missStrm (s : State) (n h : Nat) : State :=
  let c := (strm s h).queue.head?.getD {}
  modStrm (lateStrm s n h 1 c.tick c.ts) h fun x => { x with unbound := false }

/-- The lanes that flip: those of the flip set that no fault has taken out of it since (R35). -/
def flipKeys (s : State) (n : Nat) : List Nat :=
  ((partLanes s n).filter fun p => !p.2.fault && ((part s n).flipSet.getD []).contains p.1).map fun p => p.1

/-- The flip of one partition. -/
def flipPart (s : State) (n : Nat) : State :=
  let ks := flipKeys s n
  let ls := partLanes s n
  let s1 := { s with lanes := s.lanes.filter fun p => lanePart p.1 ≠ n }
  let s2 := each s1 (ls.filter fun p => ks.contains p.1) fun s p => flipLane s p.1 p.2
  let s3 := each s2 (ls.filter fun p => !ks.contains p.1) fun s p => missLane s p.1 p.2
  let s4 := each s3 (unboundOf s3 n) fun s h => missStrm s n h
  let s5 := blyAtFlip (stampSeq (blyReleases (kvEdge s4 n ks) n) n) n
  modPart (releaseEm s5 n) n fun p => { p with flipSet := none }

/-- FLIP, at the last cycle of the commit window. (DEDUCED: log entry 15.) -/
def flipEff (s : State) : State :=
  if s.clk.phase = .commit then
    let s1 := toCycle s (commitEnd s - 1)
    let s2 := each s1 ((List.range 16).filter fun n => (part s1 n).st ≠ .off) flipPart
    queueWrites { s2 with clk := { s2.clk with phase := .guard } }
  else s

def execFlip (s : State) : Out := .next (flipEff s)

end Sys2Proof.Machine
end

