-- ==== Sys2Proof/Machine/Edge.lean ====
section
/-!
DEFINITION. The device edge (01_tick R17-R28; 02_partitions_pitches R43, R52, R59-R70; 07_streams_state R193, R200; 09_memory R258;
11_ingest R336; 12_audio_ports R359; 13_parties R372, R382, R383; 14 R403; 15_sirvi R417, R434): what a tick leaves, what takes effect,
and the dispatch; and INGEST_CUTOFF before it.
-/
namespace Sys2Proof.Machine

/-! ## INGEST_CUTOFF -/

/-- The cut-off for the coming tick, 200 µs before the predicted edge (R26): what is present is settled, ports form and take chunks. (DEDUCED: log entry 15.) -/
def ingestCutoffEff (outs : List (Option (List Byte))) (s : State) : State :=
  match predicted s with
  | none => s
  | some e =>
    if s.clk.cutDone || s.clk.phase = .stopped then s
    else
      let s1 := toTbI s (e - 200000 * uNs)
      let k := s1.clk.num + 1
      let s2 := each s1 ((List.range 16).filter fun n => activeSt (part s1 n).st) fun s n => cutoffPart s n k
      let s3 := each s2 (List.range 12) fun s p => portCutoff s k p
      let s4 := each s3 (List.range 16) (outCutoff outs)
      { s4 with clk := { s4.clk with cutDone := true } }

def execIngestCutoff (outs : List (Option (List Byte))) (s : State) : Out := .next (ingestCutoffEff outs s)

/-! ## The tick that ends: slowdown and accounting (02 R59, R62, R63, R68-R70) -/

/-- LAST of a tick (R63). (DEDUCED: log entry 34.) -/
def slowLast (elap nom : Nat) : Nat := min 0xFFFF (256 * elap / nom)

/-- ELAP_CYC, NOM_CYC, the stalls, SLOW and STEAL_LAST of the tick that ends. SLOW.LAST keeps its value in a tick with NOM_CYC = 0, and that
tick counts among the last 1,024 with it. (DEDUCED: log entry 34.) -/
def slowEdge (s : State) (n : Nat) : State :=
  let p := part s n
  let pg := partPg n
  let nom := p.elap - (p.sHbm + p.sNoc + p.sTag)
  let s1 := [(0x138, p.stolen), (0x140, nom), (0x144, p.elap), (0x148, p.sHbm), (0x14C, p.sNoc), (0x150, p.sTag)].foldl
    (fun s q => wrN s (pg + q.1) q.2) s
  let last := if nom = 0 then rf s (pg + 0x130) 0 16 else slowLast p.elap nom
  let ring := if p.slowRing = [] ∧ last = 0 then [] else last :: p.slowRing.take 1023
  let s2 := modPart s1 n fun p => { p with slowRing := ring }
  if nom = 0 then s2
  else
    let mx := ring.foldl max 0
    let s3 := wrN s2 (pg + 0x130) (mx * 2 ^ 16 + last)
    let thr := rf s3 (pg + 0x134) 0 16
    if thr ≠ 0 && decide (thr < if steadyOf s3 n then mx else last) then setEvt (bump s3 pg 0x16C) pg 5 else s3

/-- Energy of the tick's activity in 2^-16 µJ (R69). (DESIGN CHOICE: log entry 21.) -/
def energyOf (s : State) (a : Acc) : Nat :=
  let k := s.sirvi.calib
  a.acts.foldl (fun e q => e + Config.energyCoef k q.1 * q.2) 0 + Config.energyCoef k 19 * (a.hbmRd + a.hbmWr) +
    Config.energyCoef k 20 * (a.linkTx + a.linkRx)

/-- The counters ACC_HBM_RD to ACC_ENERGY advance (R68): by the tick's totals, or in steady mode by the budgets (R70, R383). (DEDUCED: log entry 34.) -/
def accAdvance (s : State) (p : Nat) (a : Acc) : State :=
  let pg := ptyPg p
  if rb s (pg + 0x218) 31 then
    (List.range 7).foldl (fun s i => add64 s (pg + 0x108 + 8 * i) (rd64 s (pg + 0x240 + 8 * i))) s
  else
    let s1 := [a.hbmRd, a.hbmWr, a.linkTx, a.linkRx, a.hostIn, a.hostOut].zipIdx.foldl (fun s q => add64 s (pg + 0x108 + 8 * q.2) q.1) s
    let e := (pacc s1 p).ergRem + energyOf s1 a
    add64 (setPacc s1 p { pacc s1 p with ergRem := e % 65536 }) (pg + 0x138) (e / 65536)

/-- A party at the edge (R59, R68): its counters advance by what the tick has charged, and the ledger over the last 1,024 completed ticks
moves on. -/
def partyEdge (ticked : Bool) (s : State) (p : Nat) : State :=
  let x := pacc s p
  let s1 := accAdvance (add64 s (ptyPg p + 0x100) x.acc.engine) p x.acc
  let ring := if ticked && !(x.ledger = [] && x.used = 0 && x.ent = 0) then (x.used, x.ent) :: x.ledger.take 1023 else x.ledger
  let s2 := setPacc s1 p { pacc s1 p with ledger := ring, acc := {}, used := 0, ent := 0 }
  wr64 (wr64 s2 (ptyPg p + 0x140) (ring.foldl (fun a x => a + x.1) 0)) (ptyPg p + 0x148) (ring.foldl (fun a x => a + x.2) 0)

/-- What the tick that ends leaves in every register. -/
def tickTotals (s : State) : State :=
  let ticked := decide (s.clk.phase ≠ .stopped)
  let s1 := if ticked then each s (List.range 16) slowEdge else s
  let s2 := each s1 ((List.range 16).map fun i => i + 1) (partyEdge ticked)
  if ticked then add64 s2 (operPg + 0x100) (Config.operEnergy s2.clk.num) else s2

/-! ## Jobs and partitions at the edge -/

/-- A job at the edge (R65-R67): FAULTED_TICK shows the tick that ends, a faulted job is re-armed or halted, a REARM takes effect. A
fault that belongs to the coming tick is that tick's from here on (01_tick R35). (DEDUCED: log entry 33.) -/
def jobEdge (s : State) (n j : Nat) : State :=
  let x := job s n j
  let k := if x.halted then x.consec else if x.faulted then min 8 (x.consec + 1) else 0
  let halt := x.halted || (x.faulted && (k = 8 || !rb s (partPg n + 0x200 + 4 * j) 18))
  let s1 := setJob s n j { x with
    used := 0, ent := 0, rearm := false, ftick := x.faulted || x.carry, faulted := x.carry, carry := false
    consec := if x.rearm then 0 else k, halted := halt && !x.rearm }
  if halt && !x.halted then setEvt s1 (partPg n) 9 else s1

/-- A command that waited for this edge takes effect (R41, R43, R52). -/
def cmdEdge (s : State) (n : Nat) : State :=
  match (part s n).cmd with
  | none => s
  | some (c, k) =>
    if k ≠ s.clk.num then s
    else
      let s1 := modPart s n fun p => { p with cmd := none }
      match c with
      | .start => setSt (modPart s1 n fun p => { p with hpIdx := 0 }) n .running
      | .maint => setSt (modPart s1 n fun p => { p with hpIdx := 0 }) n .maintenance
      | .stop => setSt s1 n .ready
      | .resume => setSt s1 n .ready

/-- The tick index moves on, and a shadow table that waits becomes active where it returns to 0 (R52). -/
def indexEdge (s : State) (n : Nat) : State :=
  let i := (part s n).hpIdx + 1
  if i < partHp s n then modPart s n fun p => { p with hpIdx := i }
  else
    let s1 := modPart s n fun p => { p with hpIdx := 0 }
    if (part s1 n).tblPend then swapTable s1 n else s1

/-- State of a partition at the edge: a fault or TEARDOWN that waited (R35, R44), the tick index, a command that waited; a table that
waits in READY becomes active. -/
def stateEdge (s : State) (n : Nat) : State :=
  let p := part s n
  if p.tearing then beginZeroise s n
  else if p.toFault then setSt (modPart s n fun p => { p with toFault := false }) n .faulted
  else
    let s1 := if p.st = .running || p.st = .maintenance then indexEdge s n else s
    let s2 := cmdEdge s1 n
    if (part s2 n).st = .ready && (part s2 n).tblPend then swapTable s2 n else s2

/-- The sums of a tick start anew (R61, R62). -/
def sumsReset (s : State) (n : Nat) : State :=
  modPart s n fun p => { p with elap := 0, sHbm := 0, sNoc := 0, sTag := 0, stolen := 0 }

/-- What lasts one tick starts anew, and TAG_TMO and COLL_TMO take effect (09 R258, 14 R403). -/
def partReset (s : State) (n : Nat) : State :=
  let s1 := modPart (sumsReset s n) n fun p => { p with
    started := [], seg := none, flipSet := none, pitchTo := 50000
    tagTmo := rf s (partPg n + 0x400) 0 25, collTmo := rf s (partPg n + 0x404) 0 25 }
  each s1 (members s1 n) fun s c => modClu s c fun x => { x with lost := [], lostHbm := [], haltJ := [], altLate := false }

/-- A partition at the edge, before its dispatch. (DEDUCED: log entry 29.) -/
def partEdge (s : State) (n : Nat) : State :=
  if (part s n).st = .off then sumsReset s n
  else
    let s1 := clearLanes s n
    let s2 := each s1 ((part s1 n).jobs.map fun q => q.1) fun s j => jobEdge s n j
    stateEdge (partReset (rxPump s2 n) n) n

/-! ## Streams and dispatch -/

/-- Streams whose unpark is complete (R193). -/
def unparked (s : State) : List Nat := s.strms.filterMap fun p => if p.2.done = .active then some p.1 else none

/-- Lanes of a job whose fault belongs to this tick are faulted from the start (01_tick R35). (DEDUCED: log entry 29.) -/
def carriedFaults (s : State) (n : Nat) : State :=
  each s ((partLanes s n).filter fun p => (job s n (laneJob p.1)).faulted) fun s p =>
    faultStrm (modLane s p.1 fun l => { l with fault := true }) p.2.handle p.2.chunk.tick p.2.chunk.ts

/-- The dispatch of one partition: ages, the stream steps of R200, the binding, the DISPATCH handlers; where the partition does not run, its
streams' chunks age and go all the same (R194, R201). (DEDUCED: log entry 26.) -/
def dispatchPart (s : State) (n : Nat) : State :=
  if activeSt (part s n).st then
    let s1 := dispatchStrms (agePart (feOverrun s n) n) n
    if (part s1 n).st = .ready then s1
    else dispatchHandlers (carriedFaults (bindPart s1 n) n) n
  else each (agePart s n) (strmsOf s n) holdDrops

/-! ## TICK_EDGE and FLYWHEEL_EDGE -/

/-- The edge falls where the previous tick is complete and its cut-off has passed (R25, R26). (DEDUCED: log entry 15.) -/
def edgeReady (s : State) : Bool :=
  (s.clk.phase = .stopped || s.clk.phase = .guard) && ((predicted s).isNone || s.clk.cutDone)

/-- A device edge at `t`. -/
def deviceEdge (s : State) (t : Int) (fly : Bool) : State :=
  let s0 := each (toTbI s t) (List.range 16) cutPitch
  let s1 := tickTotals (pointEdge s0)
  let s2 := partiesEdge (edgeClk s1 t fly)
  let ups := unparked s2
  let s3 := each (strmsEdge (idleEdge s2)) ups markReload
  let s4 := bgEdge (each s3 (List.range 16) partEdge)
  let s5 := each s4 (List.range 16) outEdge
  each s5 (List.range 16) dispatchPart

/-- A LOAD, a new period or a new source cuts the tick short (R17, R474, R475): the edge is due before the commit window would end. No
pitch of the tick is affected, since a partition that has become READY since then enters RUNNING at this edge at the earliest. (DEDUCED: log entry 14.) -/
def edgeEarly (s : State) (t : Int) : Bool := decide (s.clk.cyc + (t - s.clk.tb) < commitEnd s * uCyc s.clk.op)

/-- The next edge, when it is of the kind asked for. (DEDUCED: log entry 15.) -/
def edgeEff (fly : Bool) (s : State) : State :=
  match nextEdge s with
  | none => s
  | some (t, f) => if f = fly && (edgeReady s || edgeEarly s t) then deviceEdge s t fly else s

def tickEdgeEff : State → State := edgeEff false
def flywheelEdgeEff : State → State := edgeEff true

def execTickEdge (s : State) : Out := .next (tickEdgeEff s)
def execFlywheelEdge (s : State) : Out := .next (flywheelEdgeEff s)

end Sys2Proof.Machine
end

