-- ==== Sys2Proof/Machine/Compose.lean ====
section
/-!
DEFINITION. What a register reads (00_scope R4, R9; 01_tick, 02, 03, 08, 11, 12, 13, 15, 16 register tables): the RO registers that
mirror hardware state, and what a requester sees of a register (13_parties R379, R383; 16_host_registers R452).
-/
namespace Sys2Proof.Machine

/-- Codes of the partition states (R41). -/
def pstCode : PState → Nat
  | .off => 0 | .configuring => 1 | .ready => 2 | .running => 3 | .maintenance => 4 | .faulted => 5 | .zeroising => 6

/-- TICK_STAT. -/
def tickStat (s : State) : Nat :=
  let k := s.clk
  k.fly * 2 ^ 16 + k.op * 2 ^ 8 + 64 * b2n k.relocking + 16 * k.srcNow + 8 * b2n k.cfgRej + 4 * b2n k.ptmOk +
    2 * b2n k.tbValid + b2n k.run

/-- PART_STAT. -/
def partStat (s : State) (n : Nat) : Nat :=
  let p := part s n
  p.rej * 2 ^ 24 + p.tblErr * 2 ^ 16 + 2 ^ 9 * b2n p.tblPend + 2 ^ 8 * b2n (cmdPend s n) + pstCode p.st

/-- JOB_STATj. (DEDUCED: log entry 35.) -/
def jobStat (s : State) (n j : Nat) : Nat :=
  let x := job s n j
  x.cause * 2 ^ 24 + x.consec * 2 ^ 16 + 4 * b2n x.halted + 2 * b2n x.ftick + b2n x.loaded

/-- SEQ_STAT of a cluster (R102). (DEDUCED: log entry 35.) -/
def seqStat (s : State) (c : Nat) : Nat :=
  let x := clu s c
  match (part s x.part).pitch with
  | some p =>
    if isMember s x.part c then
      p.job * 2 ^ 24 + p.entry * 2 ^ 18 + x.loops.length * 2 ^ 15 + 8 * b2n x.wait.isSome +
        4 * b2n (job s x.part p.job).img.paged + 2 * b2n (x.halted && p.t0.isSome) + 1
    else 0
  | none => 0

/-- EVT_PENDw (R453): the sources that raise their PF interrupt. -/
def evtPend (s : State) (w : Nat) : Nat :=
  (List.range 32).foldl (fun a b =>
    if (pageAt (32 * w + b)).isSome && pfIrq s (4096 * (32 * w + b)) then a + 2 ^ b else a) 0

/-- KV_RECOMP without its pop: the head of the recompute queue (R227). -/
def kvRecompWord (s : State) (n : Nat) : Nat := match (part s n).kvRq with | [] => 0 | q :: _ => 2 ^ 31 + q

/-- CC_EXP_ST of a cluster's control-core window (10 R302). -/
def ccExpStat (s : State) (c : Nat) : Nat :=
  let x := clu s c
  x.expErr * 2 ^ 24 + x.expQ.length * 2 ^ 8 + b2n x.expRun.isSome

/-- A half of a 64-bit value. -/
def half (hi : Bool) (v : Nat) : Nat := if hi then v / 2 ^ 32 % 2 ^ 32 else v % 2 ^ 32

/-- A time held on the timebase, in ns modulo 2^64. -/
def heldNs (t : Int) : Nat := (t / uNs % 2 ^ 64).toNat

def composeIdent (s : State) (o : Nat) : Option Nat :=
  if 0x100 ≤ o ∧ o < 0x110 then some (leNat ((Config.serial.drop (o - 0x100)).take 4))
  else match o with
  | 0x114 => some (0x7590 * 2 ^ 16 + Config.vendorId.toNat)
  | 0x118 => some (if sirviUp s then fwVersion (runImage s) else 0)
  | 0x11C => some (4 * b2n (dbgOn s) + 2 * b2n (devRdy s) + b2n (sirviUp s))
  | _ => none

def composeTick (s : State) (o : Nat) : Option Nat :=
  match o with
  | 0x100 => some (half false (tbNs s)) | 0x104 => some (half true (tbNs s))
  | 0x114 => some (lowBits 32 s.clk.ptmOfs) | 0x118 => some (lowBits 32 s.clk.rate)
  | 0x128 => some (tickStat s)
  | 0x138 => some (half false s.clk.num) | 0x13C => some (half true s.clk.num)
  | 0x140 => some (cycNow s % 2 ^ 32) | 0x144 => some (s.clk.len % 2 ^ 32)
  | 0x148 => some (rneDiv (pMeas16 s) 16 % 2 ^ 32)
  | 0x150 => some (half false (heldNs s.clk.inTs)) | 0x154 => some (half true (heldNs s.clk.inTs))
  | _ => none

def composePart (s : State) (n o : Nat) : Option Nat :=
  if 0x240 ≤ o ∧ o < 0x280 then some (jobStat s n ((o - 0x240) / 4))
  else match o with
  | 0x108 => some (partStat s n) | 0x10C => some (part s n).hpIdx
  | 0x3BC => some (kvFree s n) | 0x3C0 => some (kvRecompWord s n)
  | _ => none

def composeParty (s : State) (p o : Nat) : Option Nat :=
  match o with
  | 0x204 => some (keyStat s p)
  | 0x208 => some (half false (keyIds s p).1) | 0x20C => some (half true (keyIds s p).1)
  | 0x210 => some (half false (keyIds s p).2) | 0x214 => some (half true (keyIds s p).2)
  | _ => none

def composePort (s : State) (p o : Nat) : Option Nat :=
  match o with
  | 0x104 => some (portStat s p) | 0x108 => some (lowBits 32 (portDrift s p))
  | 0x330 => if isRx p then some (aesStat s p) else none
  | 0x334 => if isRx p then some (aesRate s p) else none
  | _ => none

/-- MEE_STAT: every stack's engine has passed its self-test and is ready once the device is. (DEDUCED: log entry 60.) -/
def meeStat (s : State) : Nat := if devRdy s then 0xFFFF else 0

/-- A RO register that mirrors state kept elsewhere. (DESIGN CHOICE: log entry 5.) -/
def composed (s : State) (p : PageT) (i o : Nat) : Option Nat :=
  match p with
  | .ident => composeIdent s o
  | .tick => composeTick s o
  | .events => if 0x100 ≤ o ∧ o < 0x160 then some (evtPend s ((o - 0x100) / 4)) else none
  | .cluster => if o = 0x100 then some (seqStat s i) else none
  | .part => composePart s i o
  | .party => composeParty s (i + 1) o
  | .ingest => if o = 0x134 then some ((smGet [] s.emis i).length) else none
  | .tdm => composePort s i o | .aesRx => composePort s i o | .aesTx => composePort s i o
  | .mbox => if o = 0x104 then some (rdN s (mbPg + 0x104) + 4 * b2n (devRdy s) + 2 * b2n (sirviUp s) + b2n (mbBusy s)) else none
  | .mee => if o = 0x100 then some (meeStat s) else none
  | .sens => if o = 0x284 then some (rdN s (senPg + 0x284) + 2 ^ 8 * s.clk.op) else none
  | _ => none

/-- The word at a page offset, before what a requester may not see is taken out; WO registers read zero. (DESIGN CHOICE: log entry 5.) -/
def regWord (s : State) (p : PageT) (i a : Nat) : Nat :=
  match (if a % 4096 < 0x100 then none else composed s p i (a % 4096)) with
  | some v => v % 2 ^ 32
  | none => if a % 4096 < 0x0C then rdN s a else match regAt p (a % 4096) with
    | some r => if r.kind = .wo then 0 else rdN s a
    | none => 0

/-- A capture of CMD_REJ that a load, stream or KV engine command made (R379). -/
def captureHidden (s : State) (pg : Nat) : Bool :=
  rb s (pg + 0x20) 31 && rf s (pg + 0x20) 0 5 = 1 && decide (2 ≤ rf s (pg + 0x2C) 20 4) && decide (rf s (pg + 0x2C) 20 4 ≤ 4)

/-- What the PF sees of a partition page of a party in steady mode (R383). -/
def steadyView (s : State) (n o v : Nat) : Nat :=
  if steadyOf s n then
    (if o = 0x130 then v / 2 ^ 16 * 2 ^ 16 + v / 2 ^ 16
     else if o = 0x140 ∨ o = 0x148 ∨ o = 0x14C ∨ o = 0x150 ∨ o = 0x160 then 0 else v)
  else v

/-- What the PF sees of a register that it may read. -/
def pfView (s : State) (p : PageT) (i a v : Nat) : Nat :=
  let o := a % 4096
  let hid := hiddenEvt s (a - o)
  match p with
  | .cluster => if o = 0x14 then Nat.land v (Nat.xor 0xFFFFFFFF hid) else if o = 0x120 && hid ≠ 0 then v / 8 * 8 else v
  | .part => if o = 0x2C && shielded s i && captureHidden s (a - o) then 0 else steadyView s i o v
  | _ => v

/-- The word a requester sees at a PF BAR0 address. -/
def viewWord (s : State) (r : Requester) (a : Nat) : Nat :=
  match pageAt (a / 4096) with
  | none => 0
  | some (p, i) =>
    if rOk s r a then
      let v := regWord s p i a
      match r with
      | .pf => pfView s p i a v
      | .sirvi => v
      | .vf k => if a % 4096 = 0x18 then vfEnable s k (a - 0x18) else v
    else 0

/-! ## MSI-X structures and the cluster window control page (R442, R447, R448) -/

/-- Where a requester's address lies in its MSI-X structures: function, whether in the PBA, and the offset. -/
def msixAt (r : Requester) (a : Nat) : Option (Nat × Bool × Nat) :=
  match r with
  | .pf =>
    if 0x4000000 ≤ a ∧ a < 0x4004000 then some (0, false, a - 0x4000000)
    else if 0x4008000 ≤ a ∧ a < 0x4008080 then some (0, true, a - 0x4008000) else none
  | .vf k =>
    if 0xE000 ≤ a ∧ a < 0xE400 then some (k.val + 1, false, a - 0xE000)
    else if 0xF000 ≤ a ∧ a < 0xF008 then some (k.val + 1, true, a - 0xF000) else none
  | .sirvi => none

/-- Where the message address and data words of a function's table are kept. (DESIGN CHOICE: log entry 5.) -/
def msixKey (fn o : Nat) : Nat := 0x4000000 + 0x10000 * fn + o

/-- A word of the MSI-X table or of the PBA. -/
def msixWord (s : State) (fn : Nat) (pba : Bool) (o : Nat) : Nat :=
  if pba then (List.range 32).foldl (fun w b => w + b2n (vecAt s fn (8 * o + b)).pba * 2 ^ b) 0
  else if o % 16 = 12 then b2n (vecAt s fn (o / 16)).masked
  else rdN s (msixKey fn o)

/-- A word of the cluster window control page of VF k + 1. -/
def clwWord (s : State) (k o : Nat) : Nat :=
  if o = 0x100 then 2 ^ 31 * b2n (clwValid s k) + clwSel s k
  else if 0x110 ≤ o ∧ o < 0x130 then rdN s (partPg k + o) else 0

end Sys2Proof.Machine
end

