-- ==== Sys2Proof/Machine/CoreRun.lean ====
section
/-!
DEFINITION. What a control core executes by itself (03_tick_programs R91, R94, R95; 08_attention R222; 10_weight_streams R302): one
instruction of RV32IM at a time from its local memory, with the interface window at 0x0010_0000.
-/
namespace Sys2Proof.Machine

/-- An x register of a control core; x0 reads zero. -/
def xGet (s : State) (c i : Nat) : Word := if i = 0 then 0 else smGet 0 (clu s c).xregs i

/-- Write an x register; x0 takes no write. -/
def xSet (s : State) (c i : Nat) (v : Word) : State :=
  if i = 0 then s else modClu s c fun x => { x with xregs := smSet 0 x.xregs i v }

/-- The handler goes on at an address of the local memory. -/
def ccJump (s : State) (c pc : Nat) : State := modClu s c fun x => { x with hndPc := pc }

/-! ## The interface window -/

/-- Base and size of the window. -/
def ccWin : Nat := 0x100000
/-- (DEDUCED: log entry 25.) -/
def ccWinSize : Nat := 0x1800

/-- CC_LANEMAP of a lane of the running handler's job. -/
def laneMapWord (s : State) (c l : Nat) : Nat :=
  match lane s (laneKey (clu s c).part (ccJob s c) c l) with
  | some x => 2 ^ 31 + 2 ^ 30 * b2n x.stolen + x.handle
  | none => 0

/-- CC_JOB. -/
def ccJobWord (s : State) (c : Nat) : Nat :=
  2 ^ 16 * ccJob s c + 2 ^ 8 * (match (part s (clu s c).part).pitch with | some p => p.entry | none => 0) + (part s (clu s c).part).hpIdx

/-- A register of the window that reads without effect. -/
def ccPeek (s : State) (c o : Nat) : Nat :=
  let x := clu s c
  if 0x1000 ≤ o then laneMapWord s c ((o - 0x1000) / 4)
  else match o with
  | 0x000 => 2 ^ 31 * b2n x.altV + 2 ^ 12 * b2n x.altSel + x.altBp
  | 0x004 => x.sum.length
  | 0x00C => (smGet 0 s.latch (ccRequester c)).toNat
  | 0x010 => if x.run then x.icyc else 0
  | 0x014 => cycNow s % 2 ^ 32
  | 0x018 => ccJobWord s c
  | 0x01C => x.q0.length
  | 0x080 => x.kvA0.toNat | 0x084 => x.kvA1.toNat
  | 0x08C => (nth 0 x.kvR 0).toNat | 0x090 => (nth 0 x.kvR 1).toNat | 0x094 => (nth 0 x.kvR 2).toNat
  | 0x098 => x.kvSt.toNat
  | 0x0A0 => x.expSel.toNat | 0x0A4 => x.expDst.toNat | 0x0A8 => x.expRing.toNat
  | 0x0B0 => ccExpStat s c
  | _ => 0

/-- A load of a window word: the value, and the state after the pop of the summary FIFO. (DEDUCED: log entry 25.) -/
def ccWinLoad (s : State) (c o : Nat) : Nat × State :=
  if o = 0x008 then
    (let t := ccSumPopEff c s
     (t.rdata.getD 0, { t with rdata := s.rdata }))
  else (ccPeek s c o, s)

/-- The 64 bytes of the CC_DESC words as one descriptor. -/
def descOf (m : SMap Word) : BitVec 512 :=
  BitVec.ofNat 512 (leNat ((List.range 16).flatMap fun i => natLe 4 (smGet 0 m i).toNat))

/-- A store to CC_DESC: the word is kept; the one to 0x07C submits. -/
def ccDescWord (c i : Nat) (v : Word) (s : State) : State :=
  let m := smSet 0 (clu s c).descW i v
  let s1 := modClu s c fun x => { x with descW := m }
  if i = 15 then ccDescEff c (descOf m) s1 else s1

/-- CC_KV_CMD: a reserved code ends with cause 9 (R222). -/
def ccKvWord (c code : Nat) (s : State) : State :=
  match code with
  | 1 => kvInfoEff c (clu s c).kvA0 (clu s c).kvA1 s
  | 2 => kvPteEff c (clu s c).kvA0 (clu s c).kvA1 s
  | 3 => kvReserveEff c (clu s c).kvA0 (clu s c).kvA1 s
  | _ => kvAnswer s c 9 []

/-- A store of a window word. (DEDUCED: log entry 25.) -/
def ccWinStore (c o : Nat) (v : Word) (s : State) : State :=
  let keep (f : Clus → Clus) : State := modClu s c f
  if 0x040 ≤ o ∧ o < 0x080 then ccDescWord c ((o - 0x040) / 4) v s
  else match o with
  | 0x000 => ccAltselEff c v s
  | 0x020 => ccDeferEff c v s
  | 0x080 => keep fun x => { x with kvA0 := BitVec.ofNat 32 (v.toNat % 2 ^ 20) }
  | 0x084 => keep fun x => { x with kvA1 := v &&& 0x81FFFFFF }
  | 0x088 => ccKvWord c (v.toNat % 16) s
  | 0x0A0 => keep fun x => { x with expSel := BitVec.ofNat 32 (v.toNat % 64) }
  | 0x0A4 => keep fun x => { x with expDst := v &&& 0x8FFFC3FF }
  | 0x0A8 => keep fun x => { x with expRing := BitVec.ofNat 32 (v.toNat % 2 ^ 11) }
  | 0x0AC => ccExpCmdEff c (clu s c).expSel (clu s c).expDst (clu s c).expRing s
  | 0x0C0 => ccBelaySameEff c v s
  | _ => s

/-! ## RV32IM -/

/-- An immediate of `n` bits, sign-extended. -/
def immS (n v : Nat) : Word := BitVec.ofInt 32 (sx n v)

def immI (w : Nat) : Word := immS 12 (fld w 20 12)
def immSt (w : Nat) : Word := immS 12 (fld w 25 7 * 32 + fld w 7 5)
def immB (w : Nat) : Word := immS 13 (fld w 31 1 * 2 ^ 12 + fld w 7 1 * 2 ^ 11 + fld w 25 6 * 32 + fld w 8 4 * 2)
def immJ (w : Nat) : Word := immS 21 (fld w 31 1 * 2 ^ 20 + fld w 12 8 * 2 ^ 12 + fld w 20 1 * 2 ^ 11 + fld w 21 10 * 2)

def rvBool (b : Bool) : Word := if b then 1 else 0

/-- Division, with RISC-V's results for a zero divisor and for overflow. -/
def rvDiv (a b : Word) : Word := if b = 0 then 0xFFFFFFFF else BitVec.ofInt 32 (a.toInt.tdiv b.toInt)
def rvRem (a b : Word) : Word := if b = 0 then a else BitVec.ofInt 32 (a.toInt.tmod b.toInt)
def rvDivu (a b : Word) : Word := if b = 0 then 0xFFFFFFFF else BitVec.ofNat 32 (a.toNat / b.toNat)
def rvRemu (a b : Word) : Word := if b = 0 then a else BitVec.ofNat 32 (a.toNat % b.toNat)

/-- The upper half of a product. -/
def rvMulh (a b : Int) : Word := BitVec.ofInt 32 (a * b / 2 ^ 32)

/-- The operations of OP and OP-IMM by funct3, `alt` for SUB and SRA. -/
def rvAlu (f3 : Nat) (alt : Bool) (a b : Word) : Word :=
  let sh := b.toNat % 32
  match f3 with
  | 0 => if alt then a - b else a + b
  | 1 => a <<< sh
  | 2 => rvBool (a.slt b)
  | 3 => rvBool (a.ult b)
  | 4 => a ^^^ b
  | 5 => if alt then a.sshiftRight sh else a >>> sh
  | 6 => a ||| b
  | _ => a &&& b

/-- The M extension by funct3. -/
def rvMul (f3 : Nat) (a b : Word) : Word :=
  match f3 with
  | 0 => a * b
  | 1 => rvMulh a.toInt b.toInt
  | 2 => rvMulh a.toInt b.toNat
  | 3 => rvMulh a.toNat b.toNat
  | 4 => rvDiv a b
  | 5 => rvDivu a b
  | 6 => rvRem a b
  | _ => rvRemu a b

/-- OP: the result; none for a reserved funct7. -/
def rvOp (f3 f7 : Nat) (a b : Word) : Option Word :=
  if f7 = 1 then some (rvMul f3 a b)
  else if f7 = 0 then some (rvAlu f3 false a b)
  else if f7 = 0x20 ∧ (f3 = 0 ∨ f3 = 5) then some (rvAlu f3 true a b)
  else none

/-- OP-IMM: the result; none for a reserved shift. -/
def rvOpImm (w : Nat) (a : Word) : Option Word :=
  let f3 := fld w 12 3
  let f7 := fld w 25 7
  if f3 = 1 ∧ f7 ≠ 0 then none
  else if f3 = 5 ∧ f7 ≠ 0 ∧ f7 ≠ 0x20 then none
  else some (rvAlu f3 (f3 = 5 && f7 = 0x20) a (immI w))

/-- Whether a branch is taken; none for a reserved funct3. -/
def rvBranch (f3 : Nat) (a b : Word) : Option Bool :=
  match f3 with
  | 0 => some (a = b) | 1 => some (a ≠ b) | 4 => some (a.slt b) | 5 => some (!a.slt b) | 6 => some (a.ult b) | 7 => some (!a.ult b)
  | _ => none

/-- Bytes of a load or store by funct3, and whether a load is unsigned; none for a reserved one. -/
def rvWidth (f3 : Nat) : Option (Nat × Bool) :=
  match f3 with
  | 0 => some (1, false) | 1 => some (2, false) | 2 => some (4, false) | 4 => some (1, true) | 5 => some (2, true)
  | _ => none

/-- A value of `n` bytes in a register. -/
def rvExtend (n : Nat) (u : Bool) (v : Nat) : Word := if u then BitVec.ofNat 32 (v % 2 ^ (8 * n)) else immS (8 * n) v

/-- Where an access falls: local memory, the window, or an exception. -/
inductive CcPlace where
  | mem
  | win (o : Nat)
  | bad (k : CcKind)
  deriving DecidableEq, Repr

def ccPlace (a n : Nat) : CcPlace :=
  if a % n ≠ 0 then .bad .misaligned
  else if a + n ≤ 65536 then .mem
  else if ccWin ≤ a ∧ a + n ≤ ccWin + ccWinSize then .win (a - ccWin)
  else .bad .outside

/-- A load. A part of a window word is taken from the word, which is read whole. -/
def ccLoad (s : State) (c pc rdn a n : Nat) (u : Bool) : State :=
  match ccPlace a n with
  | .mem => ccJump (xSet s c rdn (rvExtend n u (leNat (memRead 0 s.ccmem (65536 * c + a) n)))) c (pc + 4)
  | .win o =>
    let r := ccWinLoad s c (o - o % 4)
    ccJump (xSet r.2 c rdn (rvExtend n u (r.1 / 2 ^ (8 * (o % 4))))) c (pc + 4)
  | .bad k => ccExceptionEff c k s

/-- A store. The window takes whole words only. -/
def ccStore (s : State) (c pc a n : Nat) (v : Word) : State :=
  match ccPlace a n with
  | .mem => ccJump { s with ccmem := memWrite 0 s.ccmem (65536 * c + a) (natLe n v.toNat) } c (pc + 4)
  | .win o => if n = 4 then ccWinStore c o v (ccJump s c (pc + 4)) else ccJump s c (pc + 4)
  | .bad k => ccExceptionEff c k s

/-- A jump: the link is written once the target is known to be aligned. -/
def ccGoto (s : State) (c rdn : Nat) (link : Word) (target : Nat) : State :=
  if target % 4 ≠ 0 then ccExceptionEff c .misaligned s else ccJump (xSet s c rdn link) c target

/-- A result goes to rd and the handler goes on; none is an illegal instruction. -/
def ccResult (s : State) (c pc rdn : Nat) (v : Option Word) : State :=
  match v with
  | some v => ccJump (xSet s c rdn v) c (pc + 4)
  | none => ccExceptionEff c .illegal s

/-- SYSTEM: WFI, ECALL and EBREAK; the core has no other. -/
def ccSystem (s : State) (c w : Nat) : State :=
  if w = 0x10500073 then wfiEff c s
  else if w = 0x00000073 ∨ w = 0x00100073 then ccExceptionEff c .envCall s
  else ccExceptionEff c .illegal s

/-- One instruction word at `pc`. (DEDUCED: log entry 25.) -/
def ccInstr (s : State) (c pc w : Nat) : State :=
  let rdn := fld w 7 5
  let a := xGet s c (fld w 15 5)
  let b := xGet s c (fld w 20 5)
  let f3 := fld w 12 3
  let here := BitVec.ofNat 32 pc
  match w % 128 with
  | 0x37 => ccResult s c pc rdn (some (BitVec.ofNat 32 (w / 4096 * 4096)))
  | 0x17 => ccResult s c pc rdn (some (here + BitVec.ofNat 32 (w / 4096 * 4096)))
  | 0x6F => ccGoto s c rdn (here + 4) (here + immJ w).toNat
  | 0x67 => if f3 = 0 then ccGoto s c rdn (here + 4) ((a + immI w) &&& 0xFFFFFFFE).toNat else ccExceptionEff c .illegal s
  | 0x63 =>
    (match rvBranch f3 a b with
     | some true => ccGoto s c 0 0 (here + immB w).toNat
     | some false => ccJump s c (pc + 4)
     | none => ccExceptionEff c .illegal s)
  | 0x03 =>
    (match rvWidth f3 with
     | some (n, u) => ccLoad s c pc rdn (a + immI w).toNat n u
     | none => ccExceptionEff c .illegal s)
  | 0x23 => if f3 < 3 then ccStore s c pc (a + immSt w).toNat (2 ^ f3) b else ccExceptionEff c .illegal s
  | 0x13 => ccResult s c pc rdn (rvOpImm w a)
  | 0x33 => ccResult s c pc rdn (rvOp f3 (fld w 25 7) a b)
  | 0x0F => if f3 = 0 then ccJump s c (pc + 4) else ccExceptionEff c .illegal s
  | 0x73 => ccSystem s c w
  | _ => ccExceptionEff c .illegal s

/-- A control core executes one instruction of its running handler, unless it is held (R95, 10 R302). (DEDUCED: log entry 25.) -/
def ccStep (s : State) (c : Nat) : State :=
  if ccRuns s c then
    let pc := (clu s c).hndPc
    if pc % 4 ≠ 0 then ccExceptionEff c .misaligned s
    else if 65536 < pc + 4 then ccExceptionEff c .outside s
    else ccInstr s c pc (leNat (memRead 0 s.ccmem (65536 * c + pc) 4))
  else s

/-- Each control core that runs a handler, in ascending clusters. (DESIGN CHOICE: log entry 1.) -/
def ccStepAll (s : State) : State := each s ((s.clus.filter fun p => p.2.hnd.isSome).map Prod.fst) ccStep

/-! ## The block with nothing commanded -/

/-- Letting time pass to `t` overruns no event that the clock itself brings: the end of the dispatch window, the opening of the commit
window, the flip, the next edge (R25, R26). (DESIGN CHOICE: log entry 1.) -/
def idleOk (s t : State) : Bool :=
  (match s.clk.phase with
   | .stopped => true
   | .guard => true
   | .dispatch => decide (cycNow t ≤ 50000)
   | .pitches => decide (cycNow t ≤ commitStart s)
   | .commit => decide (cycNow t ≤ commitEnd s)) &&
  (match predicted s with
   | some e => decide (t.clk.tb ≤ e)
   | none => true)

/-- What happens while no command waits: each running control core executes an instruction, and one cycle of REFCLK_LINK passes unless
it would overrun an event of the clock. Nothing happens without the clock. (DESIGN CHOICE: log entry 1.) -/
def idleEff (s : State) : State :=
  if s.sirvi.boot = .sirvi || s.sirvi.boot = .ready then
    let s1 := ccStepAll s
    if idleOk s1 (passU s1 uRef) then passU s1 uRef else s1
  else s

end Sys2Proof.Machine
end

