-- ==== Sys2Proof/Machine/MatrixEngine.lean ====
section
/-!
DEFINITION. The matrix engine (04_matrix_engine R103-R132) with the prologue and the row statistics (06 R179-R184).
-/
namespace Sys2Proof.Machine

/-- The cores an ME op acts on, as core numbers of the device. -/
def meCores (s : State) (c : Nat) : List Nat := (maskCores (bMeMask (curBundle s c))).map fun i => 16 * c + i

/-- Run an ME op on its cores. -/
def meOp (c opc : Nat) (plan : State → Nat → Nat → Nat → Sum Nat Plan) (s0 : State) : State :=
  runOp s0 c .me opc fun s =>
    runPlans s c .me ((meCores s c).map fun k => (k, plan s c k (slotBits s c .me)))

/-! ## ME.MODE, ME.CBOOK, ME.LOADW -/

/-- ME.MODE (R112, R132): the clear comes at issue; sums and rows that earlier ops of the old mode still owe arrive after it. The reserved
codes 5-7 are refused here too, where a bundle was not judged by the loader. (DESIGN CHOICE: log entry 72.) -/
def modePlan (s : State) (_c k w : Nat) : Sum Nat Plan :=
  let m := fld w 85 3
  let au := bitAt w 84
  if 5 ≤ m ∨ (m = 4 ∧ au = true) then .inl 3 else .inr { post := [meClear (coreAt s k) m au] }

def execMeMode (c : Fin 256) (s : State) : Out := .next (meOp c 1 modePlan s)

/-- ME.CBOOK (R110, R115): one entry into every shadow codebook row. -/
def cbookPlan (s : State) (c k w : Nat) : Sum Nat Plan :=
  if !isTa (coreAt s k).mode then .inl 3
  else match opSlots s c (k % 16) (fld w 64 24) 1 false with
  | none => .inl 4
  | some l =>
    let reads : List Rd := l.map fun r => { r := r, off := 16 * fld w 60 4, len := 16 }
    let v := BitVec.ofNat 128 (leNat (rdBytes s reads))
    .inr { reads := reads, effs := (List.range 32).map fun r => (2 + r, .cbook k r v) }

def execMeCbook (c : Fin 256) (s : State) : Out := .next (meOp c 2 cbookPlan s)

/-- ME.LOADW (R110, R114, R261): its slots are read as the port allows, row k in by the end of cycle 5 + k and into the shadow in cycle
6 + k. -/
def loadwPlan (s : State) (c k w : Nat) : Sum Nat Plan :=
  let m := (coreAt s k).mode
  match opSlots s c (k % 16) (fld w 64 24) (meTileSlots m) false with
  | none => .inl 4
  | some l => .inr { runs := [{ kind := .loadw, core := k, start := (clu s c).icyc, bits := w, mode := m, src := keep l }] }

def execMeLoadw (c : Fin 256) (s : State) : Out := .next (meOp c 3 loadwPlan s)

/-! ## The prologue (06 R179-R182) -/

/-- What a prologue with ACC = 0 reads and latches. -/
structure ProLatch where
  reads : List Rd := []
  ein   : List Int := []
  mu    : List Nat := []
  r     : List Nat := []
  fn    : Option Nat := none
  fof   : Bool := false
  fnv   : Bool := false

/-- Every slot lies in one core (R182). -/
def ownSlots (k : Nat) (l : List Ref) : Bool := l.all fun r => match r with | .slot core _ => core = k | .pad => true

/-- Reads that would stall, or meet an uncorrectable word: nothing is judged on their bytes. -/
def notYet (s : State) (l : List Rd) : Bool := (waitRead s (l.map fun x => x.r)).isSome || l.any fun x => !(rdBad s x).isEmpty

/-- The reads and latches of a prologue with ACC = 0 (R181). (DEDUCED: log entry 42.) -/
def proLatch (s : State) (c k kind nb w : Nat) : Sum Nat ProLatch :=
  match opSlots s c (k % 16) (proRef w) 1 false with
  | none => .inl 4
  | some dl =>
    let d := leNat (rdBytes s (rds dl))
    let fn := fld d 24 8
    let cm := fld d 56 4 + 1
    let stats := decide (2 ≤ kind)
    let useFn := kind = 1 || decide (4 ≤ kind)
    if notYet s (rds dl) then .inr { reads := rds dl }
    else if useFn && decide (5 < fn) then .inl 3
    else match opSlots s c (k % 16) (fld d 0 24) 1 false,
               (if stats then opSlots s c (k % 16) (fld d 32 24) cm false .free else some []) with
    | some el, some sl =>
      if !ownSlots k sl then .inl 3
      else
        let erd : List Rd := el.map fun r => { r := r, len := nb }
        let eb := rdBytes s erd
        let sb := bytesOf s sl
        let ns := (List.range (if stats then nb else 0)).map fun b =>
          let s1 := statSum sb cm b 0
          let s2 := statSum sb cm b 1
          let z := normOf (kind = 3 || kind = 5) s1.1 s2.1 (fld d 64 32) (fld d 96 32)
          (z.1, z.2.1, s1.2 ++ s2.2 ++ z.2.2)
        let ws := ns.flatMap fun x => x.2.2
        .inr { reads := rds dl ++ erd ++ rds sl, ein := eb.map fun x => sx 8 x.toNat, mu := ns.map fun x => x.1, r := ns.map fun x => x.2.1
               fn := if useFn then some fn else none, fof := ws.any isInf, fnv := ws.any isNan }
    | _, _ => .inl 4

/-- Values latched for the first items; the others keep theirs. -/
def overlay {α : Type} (old new : List α) : List α := new ++ old.drop new.length

/-- The core with what a prologue latches. -/
def latched (x : Core) (pl : ProLatch) : Core :=
  { x with pEin := overlay x.pEin pl.ein, pMu := overlay x.pMu pl.mu, pR := overlay x.pR pl.r, pFn := pl.fn.getD x.pFn }

/-! ## ME.STREAM -/

/-- ME.STREAM on one core (R108, R109, R116, R117, R121, R132, R181): exponents, prologue and item 0 are read in the issue cycle, the
other items in theirs. (DESIGN CHOICE: log entry 72.) -/
def streamPlan (s : State) (c k w : Nat) : Sum Nat Plan :=
  let x := coreAt s k
  let m := x.mode
  let nb := srNb w
  let acc := srAcc w
  let kind := proKind w
  let hasE := !acc && decide (m ≠ 4)
  if fld w 40 24 ≠ 0 ∧ (m = 4 ∨ acc = true) then .inl 3
  else if 6 ≤ kind ∨ (kind ≠ 0 ∧ (m = 4 ∨ x.au = true)) then .inl 3
  else
    match opSlots s c (k % 16) (fld w 64 24) (cdiv (nb * (if m = 4 then 64 else 32)) 256) false,
          (if hasE then opSlots s c (k % 16) (fld w 40 24) 1 false else some []),
          (if kind ≠ 0 ∧ acc = false then proLatch s c k kind nb w else .inr {}) with
    | some al, some el, .inr pl =>
      let erd : List Rd := el.map fun r => { r := r, len := nb }
      let ird := itemRd m (keep al) 0
      let y := if kind ≠ 0 ∧ acc = false then latched x pl else x
      let run : OpRun := { kind := .stream, core := k, start := (clu s c).icyc, bits := w, mode := m, nb := nb, src := keep al
                           ws := (rdBytes s erd).map fun b => b.toNat }
      let it := streamItem (setCore s k y) c run 0 (rdBytes s [ird])
      .inr {
        reads := erd ++ pl.reads ++ [ird]
        post := if kind ≠ 0 ∧ acc = false then [y] else []
        sOf := pl.fof || it.2.1
        sNv := pl.fnv || it.2.2
        runs := [{ run with items := [(it.1, 0)] }] }
    | _, _, .inl cause => .inl cause
    | _, _, .inr _ => .inl 4

def execMeStream (c : Fin 256) (s : State) : Out := .next (meOp c 4 streamPlan s)

/-! ## ME.DRAIN -/

/-- The GP.CHAIN that a DRAIN with GP = 1 needs stands in the bundle, with the same mask (06 R171). -/
def gpTogether (b : Bundle) : Bool := bOp b .gp = 1 && bOp b .me = 5 && bitAt (bSlot b .me) 36 && bGpMask b = bMeMask b

/-- Slots of a DRAIN's destination (R128). -/
def drainSlots (m nb out : Nat) : Nat :=
  (if isTa m then 2 else 1) * cdiv (nb * 32 * outW out) 256 + (if m = 4 then 0 else 1)

/-- ME.DRAIN on one core (R111, R124-R129, R132, R184): the parameter block's first slot is read in the issue cycle, the second in the
next. -/
def drainPlan (s : State) (c k w : Nat) : Sum Nat Plan :=
  let x := coreAt s k
  let m := x.mode
  let out := fld w 37 2
  let gp := bitAt w 36
  let rsEn := bitAt w 35
  let b16 := decide (m = 4)
  if (b16 = decide (out < 2)) ∨ (gp = true ∧ (out ≠ 0 ∨ fld w 64 24 ≠ 0)) ∨ (gp = true ∧ gpTogether (curBundle s c) = false)
     ∨ (rsEn = true ∧ b16 = true) then .inl 3
  else
    let nb := if fld w 39 1 = 0 then x.cnt0 else x.cnt1
    match opSlots s c (k % 16) (fld w 40 24) 2 false,
          (if gp then some [] else opSlots s c (k % 16) (fld w 64 24) (drainSlots m nb out) true),
          (if rsEn && bitAt w 33 then opSlots s c (k % 16) (rsRef w) 1 true else some []) with
    | some pl, some dl, some rl =>
      let prd := keptRd (keep pl) 0 0 (4 * meCols m)
      .inr {
        reads := [prd]
        runs := [{ kind := .drain, core := k, start := (clu s c).icyc, bits := w, mode := m, nb := nb, src := keep pl, dst := keep dl
                   third := keep rl, got := padTo 256 0 (rdBytes s [prd]) }] }
    | _, _, _ => .inl 4

def execMeDrain (c : Fin 256) (s : State) : Out := .next (meOp c 5 drainPlan s)

/-! ## ME.ATTN (08_attention R229-R246) -/

/-- The op is refused before it reads its descriptor (R231). -/
def attnBadOp (s : State) (k w : Nat) : Bool :=
  (coreAt s k).mode ≠ 0 || (coreAt s k).au || (bitAt w 8 && !bitAt w 10)

/-- The descriptor's fields are refused for this op (R231, R249). -/
def attnBadDesc (s : State) (c w : Nat) (d : List Byte) : Bool :=
  let nq := fld w 11 5 + 1
  adBad d || nq % adNh d ≠ 0 || (bitAt (bf d 41 1) 0 && (!bitAt w 9 || !bitAt (curImg s c).flags 0))

/-- The record's fields are refused (R231). -/
def attnBadRec (w : Nat) (d r : List Byte) : Bool :=
  decide (adNb d < bf r 4 2) || (List.range (fld w 11 5 + 1)).any fun i => decide (2 ^ 31 ≤ bf r (16 + 4 * i) 4)

/-- The run that begins once the descriptor, the record and the query are read. Infinities and NaNs in l or o of rows loaded or merged set
their flags in the issue cycle (R241). (DESIGN CHOICE: log entry 72.) -/
def attnStart (s : State) (c k w : Nat) (d rcd : List Byte) (dref recRef : Ref) (ql sl : List Ref) : Sum Nat Plan :=
  let i := k % 16
  let nq := fld w 11 5 + 1
  let hd := adD d
  let cols := adNh d * hd / 32
  let merge := bitAt w 8
  let ofm := adOfmt d
  let tiles := 4 * cols * (adW d / 32)
  let fin := bitAt w 9
  match opSlots s c i (bf d 0 3) (if merge then 0 else adRb d * (adW d / 4 + 1)) false,
        opSlots s c i (bf d 15 3) (if merge then 0 else tiles) false, opSlots s c i (bf d 18 3) (if merge then 0 else tiles) false,
        opSlots s c i (bf d 21 3) (if merge then 0 else 2 * cols) false,
        opSlots s c i (bf d 24 3) (if merge then 0 else 2 * cols) false,
        opSlots s c i (fld w 16 24) (if fin then outSlots ofm nq hd else stateSlots nq hd) true,
        opSlots s c i (bf d 42 3) (if bitAt (bf d 41 1) 0 then 1 else 0) true with
  | some ring, some ek, some ev, some pk, some pv, some out, some rs =>
    let qb := bytesOf s ql
    let st := rowsOf (bytesOf s sl) nq hd
    let mg := if merge then rowsOf qb nq hd else []
    let rows := if merge then (st.zip mg).map fun p => mergeRow p.1 p.2
                else if bitAt w 10 then st else (List.range nq).map fun _ => { o := List.replicate hd 0 }
    let t0 := (clu s c).icyc
    let nb := adNb d + (if adNf d = 0 then 0 else 1)
    let run : AttnRun := {
      core := k, start := t0, bits := w, desc := d, record := rcd, query := qb, ring := keep ring, ek := keep ek, ev := keep ev
      pk := keep pk, pv := keep pv, out := keep out, rs := keep rs
      last := if merge then t0 + 64 else t0 + 16 + nb * attnBlk d (nq / adNh d), rows := rows }
    let words := (st ++ mg ++ rows).flatMap fun r => r.l :: r.o
    .inr { reads := rds (dref :: recRef :: ql ++ sl), effs := tagRef 0 recRef false false, attn := [run]
           sOf := words.any isInf, sNv := words.any isNan }
  | _, _, _, _, _, _, _ => .inl 4

/-- ME.ATTN on one core: descriptor, then record, then query and state (R236); each slot that is EMPTY stalls (R113). (DEDUCED: log entry 42.) -/
def attnPlan (s : State) (c k w : Nat) : Sum Nat Plan :=
  let i := k % 16
  let nq := fld w 11 5 + 1
  if attnBadOp s k w then .inl 3
  else match opSlots s c i (fld w 40 24) 1 false with
  | none => .inl 4
  | some dl =>
    if notYet s (rds dl) then .inr { reads := rds dl }
    else
      let d := bytesOf s dl
      if attnBadDesc s c w d then .inl 3
      else
        let hd := adD d
        match opSlots s c i (bf d 10 3) 1 false,
              opSlots s c i (fld w 64 24) (if bitAt w 8 then stateSlots nq hd else cdiv (nq * hd) 256 + 1) false,
              opSlots s c i (fld w 16 24) (if bitAt w 10 then stateSlots nq hd else 0) false with
        | some [rr], some ql, some sl =>
          if notYet s (rds [rr]) then .inr { reads := rds (dl ++ [rr]) }
          else
            let rcd := bytesOf s [rr]
            if attnBadRec w d rcd then .inl 3 else attnStart s c k w d rcd (nth .pad dl 0) rr ql sl
        | _, _, _ => .inl 4

def execMeAttn (c : Fin 256) (s : State) : Out := .next (meOp c 16 attnPlan s)

end Sys2Proof.Machine
end

