-- ==== Sys2Proof/Machine/GatePipe.lean ====
section
/-!
DEFINITION. Issue of GP.CHAIN (06_vector_gate_fusion R171-R178).
-/
namespace Sys2Proof.Machine

/-- GP.CHAIN on one core: the bias is read in the issue cycle, the rest of the parameter block in the next two (R177). A block that stands
FULL is judged at issue, one that does not once it has been read (R172, R178). (DESIGN CHOICE: log entry 72.) -/
def chainPlan (s : State) (c k w : Nat) : Sum Nat Plan :=
  let x := coreAt s k
  let nb := if fld (slotBits s c .me) 39 1 = 0 then x.cnt0 else x.cnt1
  let nc := meCols x.mode
  match opSlots s c (k % 16) (fld w 8 24) 3 false with
  | none => .inl 4
  | some pl =>
    let p := gpPar (rdBytes s [keptRd (keep pl) 2 0 14])
    let wait := notYet s (rds pl)
    match (if wait then none else chainBad s c k nb nc w p) with
    | some cause => .inl cause
    | none =>
      let prd := keptRd (keep pl) 0 0 (4 * nc)
      let dst := if wait then [] else match chainOps s c k nb nc w p with | some o => keep o.1 | none => []
      .inr {
        reads := [prd]
        runs := [{ kind := .chain, core := k, start := (clu s c).icyc, bits := w, mode := x.mode, nb := nb, src := keep pl, dst := dst
                   got := padTo 256 0 (rdBytes s [prd]) }] }

/-- GP.CHAIN: with a DRAIN with GP = 1 in its bundle and the same mask, else a job fault with cause 3 (R171). It takes the results of
that DRAIN, which issues in the same cycle. (DEDUCED: log entry 17.) -/
def gpChainEff (c : Nat) (s0 : State) : State :=
  runOp s0 c .gp 1 fun s =>
    let b := curBundle s c
    if !gpTogether b then clusFault s c 3
    else runPlans s c .gp ((maskCores (bGpMask b)).map fun i => (16 * c + i, chainPlan s c (16 * c + i) (slotBits s c .gp)))

def execGpChain (c : Fin 256) (s : State) : Out := .next (gpChainEff c s)

end Sys2Proof.Machine
end

