-- ==== Sys2Proof/Machine/Host.lean ====
section
/-!
DEFINITION. What the functions of the host interface do beside register accesses (16_host_registers R441, R444, R448, R455): VFs, the
cluster window's selection, MSI-X unmasking, uncorrectable internal errors.
-/
namespace Sys2Proof.Machine

/-- CLW_SEL of VF k + 1 (R448): bits [7:0] are kept in any state of the partition. -/
def clwSelEff (k : Nat) (v : Word) (s : State) : State :=
  if hostUp s && devRdy s && decide (k < numVfs s) then { s with clw := smSet 0 s.clw k (v.toNat % 256) } else s

def execClwSel (k : Fin 16) (v : Word) (s : State) : Out := .next (clwSelEff k.val v s)

/-- Vectors of a function: 1,024 of the PF, 64 of a VF. -/
def vecCount (fn : Nat) : Nat := if fn = 0 then 1024 else 64

/-- A vector is unmasked; a pending message is sent once (R455). (DEDUCED: log entry 30.) -/
def unmaskVec (s : State) (fn v : Nat) : State :=
  let x := vecAt s fn v
  let s1 := setVec s fn v { x with masked := false, pba := false }
  if x.pba then sendMsi s1 fn v else s1

/-- MSIX_UNMASK of vector `v` of function `fn` (0 the PF). -/
def msixUnmaskEff (fn v : Nat) (s : State) : State :=
  if hostUp s && decide (fn ≤ numVfs s) && decide (v < vecCount fn) then unmaskVec s fn v else s

def execMsixUnmask (fn : Fin 17) (v : Fin 1024) (s : State) : Out := .next (msixUnmaskEff fn.val v.val s)

/-- UNCORRECTABLE_INTERNAL_ERROR (R444): the Uncorrectable Internal Error of the PF's AER, status bit 22, whichever unit it is in. (PRESUMED: log entry 22.) -/
def internalErrorEff (u : HostUnit) (s : State) : State :=
  match u with
  | .pcie => { s with aer := smSet 0 s.aer 0 (Nat.lor (smGet 0 s.aer 0) (2 ^ 22)) }
  | .doe => { s with aer := smSet 0 s.aer 0 (Nat.lor (smGet 0 s.aer 0) (2 ^ 22)) }
  | .ide => { s with aer := smSet 0 s.aer 0 (Nat.lor (smGet 0 s.aer 0) (2 ^ 22)) }

def execUncorrectableInternalError (u : HostUnit) (s : State) : Out := .next (internalErrorEff u s)

/-- VF k + 1 goes: its IDE stream and sessions end, its registers are gone, its TDI with it. (DEDUCED: log entry 51.) -/
def vfRemove (s : State) (k : Nat) : State :=
  let s1 := vfClear (dropSess (ideEnd s (k + 1)) (k + 1)) k
  if tdi s1 k = 0 then s1 else setTdi s1 k 0

/-- VF_ENABLE (R441): FN_STAT shows VF Enable and NumVFs, at most 16; VFs beyond them are removed. -/
def vfEnableEff (on : Bool) (num : Nat) (s : State) : State :=
  if hostUp s then
    let s1 := wrN s (funcsPg + 0x100) (256 * b2n on + num)
    each s1 ((List.range 16).filter fun k => decide (numVfs s1 ≤ k) && decide (k < numVfs s)) vfRemove
  else s

def execVfEnable (on : Bool) (num : Fin 17) (s : State) : Out := .next (vfEnableEff on num.val s)

end Sys2Proof.Machine
end

