-- ==== Sys2Proof/Machine/VectorEngine.lean ====
section
/-!
DEFINITION. The vector engine (06_vector_gate_fusion R156-R170, R477; conversions of 05).
-/
namespace Sys2Proof.Machine

/-- Some live element of a list has a property. -/
def anyLive (x : Core) (w : Nat) (l : List Nat) (f : Nat → Bool) : Bool :=
  l.zipIdx.any fun p => live x (veMK w) (veTY w) p.2 && f p.1

/-- The cores a VE op acts on. -/
def veCores (s : State) (c : Nat) : List Nat := (maskCores (bVeMask (curBundle s c))).map fun i => 16 * c + i

/-- Run a VE op on its cores: the plan sees the state, cluster, core, slot bits and immediate. -/
def veOp (c opc : Nat) (plan : State → Nat → Nat → Nat → Nat → Sum Nat Plan) (s0 : State) : State :=
  runOp s0 c .ve opc fun s =>
    runPlans s c .ve ((veCores s c).map fun k => (k, plan s c k (slotBits s c .ve) (bImm (curBundle s c))))

/-! ## VSETVL, VLD, VST -/

def vsetvlPlan (s : State) (_c k w _imm : Nat) : Sum Nat Plan := .inr { post := [{ coreAt s k with vl := fld w 54 6 + 1 }] }
def execVsetvl (c : Fin 256) (s : State) : Out := .next (veOp c 0x01 vsetvlPlan s)

/-- VLD (R163): half a slot in the issue cycle. -/
def vldPlan (s : State) (c k w _imm : Nat) : Sum Nat Plan :=
  match opSlots s c (k % 16) (fld w 36 24) 1 false with
  | none => .inl 4
  | some l =>
    let rd : List Rd := l.map fun r => { r := r, off := if bitAt w 35 then 128 else 0, len := 128 }
    let v := BitVec.ofNat 1024 (leNat (rdBytes s rd))
    .inr { reads := rd, effs := [(5, veWrite (coreAt s k) k w (elems (veTY w) v))] }
def execVld (c : Fin 256) (s : State) : Out := .next (veOp c 0x02 vldPlan s)

/-- VST (R163): half a slot in cycle 2, when the slot must be EMPTY; the tag with TAGF. -/
def vstPlan (s : State) (c k w _imm : Nat) : Sum Nat Plan :=
  match opSlots s c (k % 16) (fld w 36 24) 1 true with
  | none => .inl 4
  | some l =>
    let x := coreAt s k
    let ty := veTY w
    let eb := tyW ty / 8
    let base := if bitAt w 35 then 128 else 0
    let all := (List.range (tyN ty)).all fun i => live x (veMK w) ty i || veMZ w
    let val (i v : Nat) : List Byte := natLe eb (if live x (veMK w) ty i then v else 0)
    let vs := vA x w
    let put (core i : Nat) : List (Nat × Eff) :=
      if all then [(2, .slot core i base (vs.zipIdx.flatMap fun p => val p.2 p.1) none true)]
      else vs.zipIdx.filterMap fun p =>
        if live x (veMK w) ty p.2 || veMZ w then some (2, .slot core i (base + eb * p.2) (val p.2 p.1) none true) else none
    .inr { effs := l.flatMap fun r => match r with
      | .slot core i => put core i ++ (if bitAt w 34 then [(2, .slot core i base [] (some true) true)] else [])
      | .pad => [] }
def execVst (c : Fin 256) (s : State) : Out := .next (veOp c 0x03 vstPlan s)

/-! ## Element-wise ops (R161, R162, R477) -/

/-- A plan that writes one register after latency `lat`; `arith` says that F32 results set the flags. -/
def elemPlan (x : Core) (k w lat : Nat) (arith : Bool) (l : List Nat) : Sum Nat Plan :=
  let f := arith && decide (veTY w = 0)
  .inr { effs := [(lat - 1, veWrite x k w l)], sOf := f && anyLive x w l isInf, sNv := f && anyLive x w l isNan }

/-- Element by element over VA and VB. -/
def zip2 (x : Core) (w imm : Nat) (f : Nat → Nat → Nat) : List Nat := ((vA x w).zip (vB x w imm)).map fun p => f p.1 p.2

/-- Latency 4 for F32, 2 for the integers. -/
def lat42 (w : Nat) : Nat := if veTY w = 0 then 4 else 2

def vmovPlan (s : State) (_c k w imm : Nat) : Sum Nat Plan := let x := coreAt s k; elemPlan x k w 2 false (vB x w imm)
def execVmov (c : Fin 256) (s : State) : Out := .next (veOp c 0x04 vmovPlan s)

def vbcastPlan (s : State) (_c k w _imm : Nat) : Sum Nat Plan :=
  let x := coreAt s k
  let i := fld w 54 6
  if tyN (veTY w) ≤ i then .inl 3 else elemPlan x k w 2 false (List.replicate (tyN (veTY w)) (nth 0 (vA x w) i))
def execVbcast (c : Fin 256) (s : State) : Out := .next (veOp c 0x05 vbcastPlan s)

/-- VSEL: the mask chooses; only the length masks an element. -/
def vselPlan (s : State) (_c k w imm : Nat) : Sum Nat Plan :=
  let x := coreAt s k
  let l := (zip2 x w imm fun a b => a + 2 ^ 64 * b).zipIdx.map fun p =>
    if bitAt (mreg x (veMK w)) p.2 then p.1 % 2 ^ 64 else p.1 / 2 ^ 64
  .inr { effs := [(1, regWrite k (veVD w) 0 (tyW (veTY w)) l (fun i => decide (i < veLen x (veTY w))) fun _ => false)] }
def execVsel (c : Fin 256) (s : State) : Out := .next (veOp c 0x06 vselPlan s)

/-- A comparison: F32 under IEEE 754, integers signed. -/
def cmpEl (ty a b : Nat) : Option Ordering :=
  if ty = 0 then f32Cmp a b else some (compare (sx (tyW ty) a) (sx (tyW ty) b))

/-- The conditions CC. -/
def ccHolds (cc : Nat) (o : Option Ordering) : Bool :=
  match cc with
  | 0 => o = some .eq
  | 1 => o ≠ some .eq
  | 2 => o = some .lt
  | 3 => o = some .lt || o = some .eq
  | 4 => o = some .gt
  | _ => o = some .gt || o = some .eq

def vcmpPlan (s : State) (_c k w imm : Nat) : Sum Nat Plan :=
  let x := coreAt s k
  let cc := fld w 57 3
  if 5 < cc then .inl 3
  else
    let l := zip2 x w imm fun a b => b2n (ccHolds cc (cmpEl (veTY w) a b))
    let on (i : Nat) : Bool := live x (veMK w) (veTY w) i
    let mask := packW 1 ((List.range 64).map fun i => b2n (on i || veMZ w))
    let val := packW 1 ((List.range 64).map fun i => if on i then nth 0 l i else 0)
    .inr { effs := [(lat42 w - 1, .mreg k (fld w 54 3) (BitVec.ofNat 64 mask) (BitVec.ofNat 64 val))] }
def execVcmp (c : Fin 256) (s : State) : Out := .next (veOp c 0x07 vcmpPlan s)

/-- The plan of a two-operand arithmetic op. -/
def arithPlan (g : Nat → Nat → Nat) (f : Int → Int → Int) (s : State) (_c k w imm : Nat) : Sum Nat Plan :=
  let x := coreAt s k
  elemPlan x k w (lat42 w) true (zip2 x w imm (tyOp w g f))

def execVadd (c : Fin 256) (s : State) : Out := .next (veOp c 0x08 (arithPlan f32Add fun a b => a + b) s)
def execVsub (c : Fin 256) (s : State) : Out := .next (veOp c 0x09 (arithPlan f32Sub fun a b => a - b) s)
def execVmul (c : Fin 256) (s : State) : Out := .next (veOp c 0x0A (arithPlan f32Mul fun a b => a * b) s)

def vfmaPlan (s : State) (_c k w imm : Nat) : Sum Nat Plan :=
  let x := coreAt s k
  let l := ((zip2 x w imm fun a b => a + 2 ^ 32 * b).zip (vC x w)).map fun p =>
    let a := p.1 % 2 ^ 32
    let b := p.1 / 2 ^ 32
    if veTY w = 0 then f32Fma a b p.2 else lowBits 32 (sx 32 a * sx 32 b + sx 32 p.2)
  elemPlan x k w (if veTY w = 0 then 5 else 3) true l
def execVfma (c : Fin 256) (s : State) : Out := .next (veOp c 0x0B vfmaPlan s)

def execVmax (c : Fin 256) (s : State) : Out := .next (veOp c 0x0C (arithPlan f32Max fun a b => max a b) s)
def execVmin (c : Fin 256) (s : State) : Out := .next (veOp c 0x0D (arithPlan f32Min fun a b => min a b) s)

/-- The plan of a one-operand op over VA. -/
def unPlan (lat : Nat → Nat) (g : Nat → Nat) (f : Int → Int) (s : State) (_c k w _imm : Nat) : Sum Nat Plan :=
  let x := coreAt s k
  elemPlan x k w (lat w) true ((vA x w).map fun a => if veTY w = 0 then g a else lowBits (tyW (veTY w)) (f (sx (tyW (veTY w)) a)))

def execVabs (c : Fin 256) (s : State) : Out := .next (veOp c 0x0E (unPlan lat42 f32Abs fun a => (a.natAbs : Int)) s)
def execVneg (c : Fin 256) (s : State) : Out := .next (veOp c 0x0F (unPlan lat42 f32Neg fun a => -a) s)

/-- The plan of a bitwise op or a shift: bits of both elements and the element width. -/
def bitPlan (f : Nat → Nat → Nat → Nat) (s : State) (_c k w imm : Nat) : Sum Nat Plan :=
  let x := coreAt s k
  elemPlan x k w 2 false (zip2 x w imm (f (tyW (veTY w))))

def execVand (c : Fin 256) (s : State) : Out := .next (veOp c 0x10 (bitPlan fun _ a b => Nat.land a b) s)
def execVor (c : Fin 256) (s : State) : Out := .next (veOp c 0x11 (bitPlan fun _ a b => Nat.lor a b) s)
def execVxor (c : Fin 256) (s : State) : Out := .next (veOp c 0x12 (bitPlan fun _ a b => Nat.xor a b) s)
def execVshl (c : Fin 256) (s : State) : Out := .next (veOp c 0x13 (bitPlan fun w a b => a * 2 ^ (b % w) % 2 ^ w) s)
def execVsra (c : Fin 256) (s : State) : Out := .next (veOp c 0x14 (bitPlan fun w a b => lowBits w (sx w a / 2 ^ (b % w))) s)
def execVsrl (c : Fin 256) (s : State) : Out := .next (veOp c 0x15 (bitPlan fun w a b => a / 2 ^ (b % w)) s)

def execVrcp (c : Fin 256) (s : State) : Out := .next (veOp c 0x18 (unPlan (fun _ => 10) f32Rcp id) s)
def execVrsqrt (c : Fin 256) (s : State) : Out := .next (veOp c 0x19 (unPlan (fun _ => 10) f32Rsqrt id) s)

def vfnPlan (s : State) (c k w imm : Nat) : Sum Nat Plan :=
  if 5 < fld w 57 3 then .inl 3 else unPlan (fun _ => 8) (fnEval (fld w 57 3)) id s c k w imm
def execVfn (c : Fin 256) (s : State) : Out := .next (veOp c 0x1A vfnPlan s)

/-! ## Reductions (R166, R167) -/

/-- An element as a reduction takes it: 32 bits, a NaN and a subnormal number as arithmetic gives them (05 R141, R142), with the magnitude for
MAXABS. -/
def redIn (kind ty a : Nat) : Nat :=
  if ty = 0 then (if kind = 3 then (if isInf a then 0x7F7FFFFF else f32Abs a) else f32Canon a)
  else
    let i := sx (tyW ty) a
    if kind = 3 then i.natAbs else lowBits 32 i

/-- The identity of a kind. -/
def redId (kind ty : Nat) : Nat :=
  match kind with
  | 1 => if ty = 0 then 0xFF800000 else if ty = 1 then 0x80000000 else 0xFFFF8000
  | 2 => if ty = 0 then 0x7F800000 else if ty = 1 then 0x7FFFFFFF else 0x00007FFF
  | _ => 0

/-- One combination. -/
def redOp (kind ty a b : Nat) : Nat :=
  match kind with
  | 0 => if ty = 0 then f32Add a b else (a + b) % 2 ^ 32
  | 1 => if ty = 0 then f32Max a b else lowBits 32 (max (sx 32 a) (sx 32 b))
  | 2 => if ty = 0 then f32Min a b else lowBits 32 (min (sx 32 a) (sx 32 b))
  | _ => if ty = 0 then f32Max a b else max a b

/-- A NaN element is skipped by every kind but SUM. -/
def redSkips (kind ty a : Nat) : Bool := kind ≠ 0 && ty = 0 && isNan a

/-- One level of the tree: neighbours combined. (DEDUCED: log entry 67.) -/
def redLevel (f : Nat → Nat → Nat) : List Nat → List Nat
  | a :: b :: r => f a b :: redLevel f r
  | l => l

/-- VRED: the tree of R166. -/
def vredPlan (s : State) (_c k w _imm : Nat) : Sum Nat Plan :=
  let x := coreAt s k
  let ty := veTY w
  let kind := fld w 57 3
  if 3 < kind then .inl 3
  else
    let used (i a : Nat) : Bool := live x (veMK w) ty i && !redSkips kind ty a
    let ins := (vA x w).zipIdx.map fun p => if used p.2 p.1 then redIn kind ty p.1 else redId kind ty
    let none' := !((vA x w).zipIdx.any fun p => used p.2 p.1)
    let l0 := if ty = 2 then redLevel (redOp kind ty) ins else ins
    let v := nth 0 ((List.range 5).foldl (fun l _ => redLevel (redOp kind ty) l) l0) 0
    let f := decide (ty = 0) && !none'
    .inr { effs := [(8, regWrite k (veVD w) (32 * fld w 52 5) 32 [v] (fun _ => true) fun _ => false)]
           sOf := f && isInf v, sNv := f && isNan v }
def execVred (c : Fin 256) (s : State) : Out := .next (veOp c 0x20 vredPlan s)

/-- One element of a VTRED: its value, and whether every row's element was skipped. -/
def tredEl (kind ty : Nat) (l : List Nat) : Nat × Bool :=
  let conv (a : Nat) : Nat := if redSkips kind ty a then redId kind ty else redIn kind ty a
  match l with
  | [] => (redId kind ty, true)
  | a :: r => (r.foldl (fun acc b => redOp kind ty acc (conv b)) (conv a), l.all fun a => redSkips kind ty a)

/-- VTRED (R167): every row is read in the issue cycle (R159). -/
def vtredPlan (s : State) (_c k w _imm : Nat) : Sum Nat Plan :=
  let x := coreAt s k
  let ty := veTY w
  let kind := fld w 57 3
  let nm := fld w 52 5
  if 3 < kind then .inl 3
  else
    let rows := (List.range (nm + 1)).map fun i => elems ty (smGet 0 x.v ((veVA w + i) % 32))
    let res := (List.range (tyN ty)).map fun e => tredEl kind ty (rows.map fun r => nth 0 r e)
    let l := res.map fun r => r.1
    let seen := res.map fun r => if r.2 then 0 else r.1
    .inr { effs := [(nm + 4, veWrite x k w l)]
           sOf := decide (ty = 0) && anyLive x w seen isInf, sNv := decide (ty = 0) && anyLive x w seen isNan }
def execVtred (c : Fin 256) (s : State) : Out := .next (veOp c 0x21 vtredPlan s)

/-! ## VTILE (R168) -/

/-- VTILE: VB and the mask are read in the issue cycle, row i of VA and VD in cycle i. -/
def vtilePlan (s : State) (c k w _imm : Nat) : Sum Nat Plan :=
  let x := coreAt s k
  let ty := veTY w
  if 5 < fld w 57 3 then .inl 3
  else
    let run : OpRun := { kind := .tile, core := k, bits := w, ws := elems ty (smGet 0 x.v (veVB w))
                         part := packW 1 ((List.range 64).map fun i => b2n (live x (veMK w) ty i)) }
    .inr { effs := tileRow x run 0, runs := if fld w 51 5 = 0 then [] else [{ run with start := (clu s c).icyc }] }
def execVtile (c : Fin 256) (s : State) : Out := .next (veOp c 0x22 vtilePlan s)

/-! ## Conversions (R164, R165) -/

/-- The limits and lower exponent of LIM. -/
def expLim : Nat → Nat × Int
  | 0 => (127, -32)
  | 1 => (32767, -32)
  | _ => (127, -96)

def vexpnPlan (s : State) (_c k w _imm : Nat) : Sum Nat Plan :=
  let x := coreAt s k
  let lim := fld w 58 2
  if lim = 3 then .inl 3
  else
    let r := (vA x w).map fun a => expOf32 (expLim lim).1 (expLim lim).2 (f32Abs a)
    .inr { effs := [(3, veWrite x k w (r.map fun p => lowBits 32 p.1))]
           sNv := r.zipIdx.any fun p => live x (veMK w) (veTY w) p.2 && p.1.2 }
def execVexpn (c : Fin 256) (s : State) : Out := .next (veOp c 0x28 vexpnPlan s)

/-- F32 to I32 (CV 9). -/
def toI32 (a : Nat) : Int × Bool × Bool :=
  let q := codeOf (2 ^ 31 - 1) 0 a
  (q.1, q.2.1 || q.2.2.1, q.2.2.2)

/-- One element of a conversion: value, OF, NV. (DEDUCED: log entry 67.) -/
def cvEl (cv : Nat) (a : Nat) (e : Int) : Nat × Bool × Bool :=
  let f32 (v : Nat × Bool) : Nat × Bool × Bool := (v.1, v.2 || isInf v.1, isNan v.1)
  match cv with
  | 0 => let q := codeOf 127 e a; (lowBits 8 q.1, q.2.2.1, q.2.2.2)
  | 1 => let q := codeOf 32767 e a; (lowBits 16 q.1, q.2.1 || q.2.2.1, q.2.2.2)
  | 2 => bfEnc a
  | 3 => let q := u8fOf a; (q.1, false, q.2)
  | 4 => f32 (decCode (sx 8 a) e)
  | 5 => f32 (decCode (sx 16 a) e)
  | 6 => f32 (bfDec a, false)
  | 7 => f32 (decCode (a : Int) (-8))
  | 8 => f32 (f32OfInt (sx 32 a), false)
  | 9 => let q := toI32 a; (lowBits 32 q.1, q.2.1, q.2.2)
  | _ => (a % 256, false, false)

/-- Bits of the source and destination elements of a conversion. -/
def cvSrcW : Nat → Nat
  | 4 => 8 | 5 => 16 | 6 => 16 | 7 => 8 | _ => 32
def cvDstW : Nat → Nat
  | 0 => 8 | 1 => 16 | 2 => 16 | 3 => 8 | 10 => 8 | _ => 32

/-- First bit of a part of `wd`-bit elements: quarter POS, half POS[0], or the whole register. -/
def cvBase (wd pos : Nat) : Nat := if wd = 8 then 256 * pos else if wd = 16 then 512 * (pos % 2) else 0

def vcvtPlan (s : State) (_c k w _imm : Nat) : Sum Nat Plan :=
  let x := coreAt s k
  let cv := fld w 56 4
  let pos := fld w 48 2
  if 10 < cv then .inl 3
  else
    let sw := cvSrcW cv
    let dw := cvDstW cv
    let src := (smGet 0 x.v (veVA w)).toNat
    let vb := elems 0 (smGet 0 x.v (veVB w))
    let e (i : Nat) : Int := sx 8 (nth 0 vb (if bitAt w 50 then i else fld w 51 5))
    let r := (List.range 32).map fun i => cvEl cv (fld src (cvBase sw pos + sw * i) sw) (e i)
    let on (i : Nat) : Bool := live x (veMK w) 0 i
    .inr { effs := [(3, regWrite k (veVD w) (cvBase dw pos) dw (r.map fun p => p.1) on fun i => veMZ w && !on i)]
           sOf := r.zipIdx.any fun p => on p.2 && p.1.2.1
           sNv := r.zipIdx.any fun p => on p.2 && p.1.2.2 }
def execVcvt (c : Fin 256) (s : State) : Out := .next (veOp c 0x29 vcvtPlan s)

/-! ## Summary posts and flags (R169, R170) -/

/-- The entry of R96. -/
def sumEntry (tag core seq v : Nat) : DWord :=
  BitVec.ofNat 64 (tag % 4096 * 2 ^ 52 + core % 16 * 2 ^ 48 + seq % 65536 * 2 ^ 32 + v % 2 ^ 32)

def vpostPlan (s : State) (c k w _imm : Nat) : Sum Nat Plan :=
  .inr { effs := [(12, .post (sumEntry (fld w 48 12) (k % 16) (clu s c).icyc (nth 0 (vA (coreAt s k) w) (fld w 43 5))))] }
def execVpost (c : Fin 256) (s : State) : Out := .next (veOp c 0x30 vpostPlan s)

/-- Flag register of a core. -/
def flagReg (k : Nat) : Nat := clPg (k / 16) + 0x140 + 4 * (k % 16)

def vflagPlan (s : State) (_c k w _imm : Nat) : Sum Nat Plan :=
  let x := coreAt s k
  .inr { effs := [(1, veWrite x k w (rdN s (flagReg k) % 4 :: List.replicate 31 0))] }

/-- VFLAG with CLR clears the flags it read. (DEDUCED: log entry 17.) -/
def vflagEff (c : Nat) (s0 : State) : State :=
  runOp s0 c .ve 0x31 fun s =>
    let w := slotBits s c .ve
    let ks := veCores s c
    let s1 := runPlans s c .ve (ks.map fun k => (k, vflagPlan s c k w 0))
    if bitAt w 59 then each s1 ks fun s k => wrN s (flagReg k) 0 else s1

def execVflag (c : Fin 256) (s : State) : Out := .next (vflagEff c s)

/-- VE_FLAG_CLEAR (R189): a host write of VE_FLAG; each 1 clears its flag. -/
def veFlagClearEff (c core : Nat) (v : Word) (s : State) : State :=
  let a := clPg c + 0x140 + 4 * core
  wr s a (rd s a &&& ~~~v)

/-- The entries of the oldest post in flight arrive at the summary FIFO (R96), once the sequencer has reached their cycle. -/
def summaryPostArrivalEff (c : Nat) (s : State) : State :=
  let x := clu s c
  match sortBy (fun p => p.1) (x.effs.filter fun p => isPost p.2) with
  | [] => s
  | (t, _) :: _ =>
    if t ≤ x.icyc then
      let now := x.effs.filter fun p => isPost p.2 && decide (p.1 = t)
      let s1 := setClu s c { x with effs := x.effs.filter fun p => !(isPost p.2 && decide (p.1 = t)) }
      each s1 now fun s p => applyEff s c p.2
    else s

def execSummaryPostArrival (c : Fin 256) (s : State) : Out := .next (summaryPostArrivalEff c s)

end Sys2Proof.Machine
end

