-- ==== Sys2Proof/Machine/Registers.lean ====
section
/-!
DEFINITION. Register accesses of the host (00_scope R4-R11; 16_host_registers R445, R447, R452, R453): what a write to each register
does, and the reads of LO/HI pairs.
-/
namespace Sys2Proof.Machine

/-- The PG_EVT bits that a page has. -/
def evtBits (p : PageT) : Nat := if p = .part then Nat.lor (evtMask p) (2 ^ belayDownBit) else evtMask p

/-- The word `v` without the bits of `m`. -/
def without (v m : Nat) : Nat := v - Nat.land v m

/-! ## The access types (R4) -/

/-- A write to a register that only holds what is written: the RW bits, and the RWL bits unless the page is locked. -/
def plainWrite (s : State) (a : Nat) (r : RegRow) (v : Nat) : State :=
  let m := Nat.lor r.rw (if locked s (a - a % 4096) then 0 else r.rwl)
  wrN s a (without (rdN s a) m + Nat.land v m)

/-- The registers that a cleared counter releases with it (R265, R287). -/
def clearWith (s : State) (p : PageT) (pg o : Nat) : State :=
  match p with
  | .stack => if o = 0x104 then wrN (wrN s (pg + 0x108) 0) (pg + 0x10C) 0 else s
  | .cluster => if o = 0x184 then wrN s (pg + 0x194) 0 else s
  | _ => s

/-- A write to an event counter (R10): zero clears the count and its SAT bit. -/
def cntWrite (s : State) (p : PageT) (a v : Nat) : State :=
  if v = 0 then clearWith (clearCnt s (a - a % 4096) (a % 4096)) p (a - a % 4096) (a % 4096) else s

/-- A write under the access type of its register. (DEDUCED: log entry 11.) -/
def typedWrite (s : State) (p : PageT) (a v : Nat) : State :=
  match regAt p (a % 4096) with
  | none => s
  | some r =>
    match r.kind with
    | .wo => s
    | .ros => s
    | .w1c => wrN s a (without (rdN s a) (Nat.land v r.rw))
    | .cnt _ _ _ => cntWrite s p a v
    | .plain => plainWrite s a r v

/-! ## The page header (R5-R8, R452) -/

/-- PG_EVTSET: the PG_EVT bits of the page that are written 1 are set, for test. (DEDUCED: log entry 9.) -/
def evtSetWord (p : PageT) (pg v : Nat) (s : State) : State :=
  each s ((List.range 32).filter fun b => bitAt v b && bitAt (evtBits p) b) fun s b => setEvtT s pg b true 0

/-- PG_EVT: the bits written 1 are cleared, but for those that hardware set in this cycle (R7), and a capture of one of them is released (R8). A
write that clears a bit sends the messages of R455. -/
def evtClearWord (pg v : Nat) (s : State) : State :=
  let s1 := wrN s (pg + 0x14) (without (rdN s (pg + 0x14)) (without v (smGet 0 (marksNow s).evt pg)))
  let s2 := if rb s (pg + 0x20) 31 && bitAt v (rf s (pg + 0x20) 0 5)
    then each s1 [0x20, 0x24, 0x28, 0x2C] fun s o => wrN s (pg + o) 0 else s1
  irqSync s s2 pg (rdN s2 (pg + 0x14) ≠ rdN s (pg + 0x14))

/-- PG_EVTEN: the requester's own enable of the page. (DEDUCED: log entry 9.) -/
def evtEnWord (r : Requester) (p : PageT) (pg v : Nat) (s : State) : State :=
  let m := Nat.land v (evtBits p)
  let s1 := match r with
    | .vf k => { s with vfEn := smSet 0 s.vfEn (k * 2 ^ 28 + pg) (BitVec.ofNat 32 m) }
    | .pf => wrN s (pg + 0x18) m
    | .sirvi => wrN s (pg + 0x18) m
  irqSync s s1 pg false

/-- PG_LOCK: writing 1 locks the page. -/
def lockWord (pg v : Nat) (s : State) : State := if bitAt v 0 then wrN s (pg + 0x30) 1 else s

/-! ## Pages whose registers act when written -/

/-- The tick page (R13-R22, R474). (DEDUCED: log entry 11.) -/
def tickWrite (a v : Nat) (s : State) : State :=
  if a % 4096 = 0x110 then
    iff (bitAt v 1) (typedWrite s .tick a v) tbLoadEff
  else if a % 4096 = 0x124 then
    iff (bitAt v 3) (tickCtrlEnEff (bitAt v 0) (iff (bitAt v 2) s tickApplyEff)) relockEff
  else typedWrite s .tick a v

/-- The events page (R453): the route of a page that exists. -/
def eventsWrite (a v : Nat) (s : State) : State :=
  let src := (a % 4096 - 0x400) / 4
  if 0x400 ≤ a % 4096 ∧ (pageAt src).isSome then irqSync s (typedWrite s .events a v) (4096 * src) false else s

/-- PART_CMD (R41, R42). -/
def partCmdWord (n code : Nat) (s : State) : State :=
  match code with
  | 0 => s
  | 1 => configureEff n s | 2 => commitEff n s | 3 => startEff n s | 4 => stopEff n s | 5 => maintEff n s
  | 6 => resumeEff n s | 7 => reconfigEff n s | 8 => teardownEff n s | 9 => tblSwapEff n s
  | _ => partCmdReserved n s

/-- JOB_CTRLj (R67). -/
def jobCtrlWord (n j a v : Nat) (s : State) : State :=
  if fld v 0 16 = 0 then ignoredWr s n (a % 4096) else iff (bitAt v 19) (typedWrite s .part a v) (rearmEff n j)

/-- LOAD_CMD (R98). -/
def loadCmdWord (n v : Nat) (s : State) : State :=
  if bitAt v 4 && bitAt v 8 then loadIgnored s n
  else if bitAt v 4 then loadStart false n (fld v 0 4) s
  else if bitAt v 8 then loadStart true n (fld v 0 4) s
  else if rb s (loadStat n) 1 then loadIgnored s n else s

/-- STRM_CMD (R212). -/
def strmCmdWord (n code : Nat) (s : State) : State :=
  match code with
  | 0 => s
  | 1 => openEff n s | 2 => closeEff n s | 3 => parkEff n s | 4 => unparkEff n s | 5 => exportEff n s
  | 6 => importEff n s | 7 => setcfgEff n s | 8 => queryEff n s
  | c => strmReserved n c s

/-- KV_CMD (R251). -/
def kvCmdWord (n code : Nat) (s : State) : State :=
  match code with
  | 0 => s
  | 1 => kvQueue n 1 s | 2 => kvQueue n 2 s | 3 => kvQueue n 3 s | 4 => kvQueue n 4 s | 5 => poolInitEff n s
  | _ => kvReserved n s

/-- A register that takes writes in some states of the partition only; a locked one ignores them in silence (R250, R411). -/
def stateWrite (ok : Bool) (n a v : Nat) (s : State) : State :=
  if ok then typedWrite s .part a v else if locked s (partPg n) && decide (a % 4096 < 0x400) then s else ignoredWr s n (a % 4096)

/-- The partition page. -/
def partWrite (n a v : Nat) (s : State) : State :=
  let o := a % 4096
  let w := BitVec.ofNat 32 v
  let st := (part s n).st
  if o = 0x100 then partCfgSet n 0 w s
  else if 0x110 ≤ o ∧ o < 0x130 then partCfgSet n ((o - 0x10C) / 4) w s
  else if o = 0x104 then partCmdWord n (v % 16) s
  else if 0x200 ≤ o ∧ o < 0x240 then jobCtrlWord n ((o - 0x200) / 4) a v s
  else if o = 0x28C then loadCmdWord n v s
  else if o = 0x304 then strmCmdWord n (v % 16) s
  else if o = 0x3A0 then kvCmdWord n (v % 16) s
  else if o = 0x398 then kvLow (typedWrite s .part a v) n
  else if 0x380 ≤ o ∧ o < 0x398 then stateWrite (st = .configuring) n a v s
  else if o = 0x400 then tagTmoEff n w s
  else if o = 0x404 then collTmoEff n w s
  else if 0x440 ≤ o ∧ o < 0x460 then stateWrite (st = .configuring || st = .ready) n a v s
  else if o = 0x464 then iff (bitAt v 1) (iff (bitAt v 0) s (promoteEff n)) (clearEff n)
  else typedWrite s .part a v

/-- The partition table page (R51, R72). -/
def tableWrite (n a v : Nat) (s : State) : State :=
  let o := a % 4096
  if 0x100 ≤ o ∧ o < 0x500 then
    (let e := (o % 0x200 + 0x100) % 0x200 / 8
     if o % 8 = 0 then tblLoEff n (0x300 ≤ o) e (BitVec.ofNat 32 v) s else tblHiEff n (0x300 ≤ o) e (BitVec.ofNat 32 v) s)
  else typedWrite s .table a v

/-- The ingest page. -/
def ingestWrite (n a v : Nat) (s : State) : State :=
  let o := a % 4096
  if o = 0x10C then ingPiEff n (BitVec.ofNat 32 v) s
  else if o = 0x130 then emCiEff n (BitVec.ofNat 32 v) s
  else if o = 0x144 then iff (bitAt v 1) (iff (bitAt v 0) s (profCommitEff n)) (profFetchEff n)
  else typedWrite s .ingest a v

/-- The page of an audio port. -/
def portWrite (t : PageT) (p a v : Nat) (s : State) : State :=
  let o := a % 4096
  let w := BitVec.ofNat 32 v
  if o = 0x100 then portCfgEff p w s
  else if o = 0x10C then zcTmoEff p w s
  else if o = 0x12C then outPiEff p w s
  else if 0x200 ≤ o ∧ o < 0x280 then chCtrlEff p ((o - 0x200) / 4) w s
  else typedWrite s t a v

/-- EXP_CMD (R299-R301). -/
def expCmdWord (n v : Nat) (s : State) : State :=
  let w := BitVec.ofNat 32 v
  match v % 8 with
  | 0 => s
  | 1 => expLoadEff n w s | 2 => expRegisterEff n w s | 3 => expUnregisterEff n w s
  | c => expReserved n c s

/-- MB_CMD (R429). A command that takes arguments comes as its own row, since the source gives no layout of MB_ARG for it. (DEDUCED: log entry 11.) -/
def mbCmdWord (code : Nat) (s : State) : State :=
  match code with
  | 0x01 => infoEff false s | 0x02 => devResetEff false s | 0x42 => fwCommitEff false s
  | 0x50 => summitInfoEff false s | 0x63 => imgListEff false s | 0x70 => debugNonceEff false s
  | c =>
    if c = 0x10 ∨ c = 0x11 ∨ (0x20 ≤ c ∧ c ≤ 0x25) ∨ (0x30 ≤ c ∧ c ≤ 0x32) ∨ c = 0x40 ∨ c = 0x41 ∨ c = 0x51 ∨
        (0x60 ≤ c ∧ c ≤ 0x62) ∨ c = 0x71 then (if mbUp s false c && mbBusy s then mbHold (.info false) false s else s)
    else mbUnknown c s

/-- The block-specific registers of a page. -/
def blockWrite (p : PageT) (i a v : Nat) (s : State) : State :=
  let o := a % 4096
  let w := BitVec.ofNat 32 v
  match p with
  | .tick => tickWrite a v s
  | .events => eventsWrite a v s
  | .cluster => if 0x140 ≤ o ∧ o < 0x180 then veFlagClearEff i ((o - 0x140) / 4) w s else typedWrite s p a v
  | .part => partWrite i a v s
  | .table => tableWrite i a v s
  | .party => if o = 0x21C then ptySteadyAckEff (i + 1) w s else typedWrite s p a v
  | .ingest => ingestWrite i a v s
  | .tdm => portWrite p i a v s
  | .aesRx => portWrite p i a v s
  | .aesTx => portWrite p i a v s
  | .link => if o % 0x100 = 0 ∧ 0x100 ≤ o ∧ o < 0x600 then lkCtrlEff (5 * i + (o / 0x100 - 1)) w s else typedWrite s p a v
  | .exp => if o = 0x100 then expCmdWord i v s else typedWrite s p a v
  | .mbox => if o = 0x100 then mbCmdWord (v % 256) s else typedWrite s p a v
  | .ident => typedWrite s p a v
  | .funcs => typedWrite s p a v
  | .oper => typedWrite s p a v
  | .hbm => typedWrite s p a v
  | .stack => typedWrite s p a v
  | .span => typedWrite s p a v
  | .mee => typedWrite s p a v
  | .sens => typedWrite s p a v
  | .bg => typedWrite s p a v
  | .test => s

/-- A write that has an effect, to any register of a page. -/
def pageWrite (r : Requester) (p : PageT) (i a v : Nat) (s : State) : State :=
  let o := a % 4096
  if o = 0x14 then evtClearWord (a - o) v s
  else if o = 0x18 then evtEnWord r p (a - o) v s
  else if o = 0x1C then evtSetWord p (a - o) v s
  else if o = 0x30 then lockWord (a - o) v s
  else if o < 0x100 then s
  else blockWrite p i a v s

/-! ## TDI lock and requesters (R377, R447) -/

/-- The partition whose locked TDI a PF write to this register puts in ERROR (R377). (DEDUCED: log entry 51.) -/
def tdiGuard (a : Nat) : Option Nat :=
  let o := a % 4096
  match pageAt (a / 4096) with
  | some (.part, n) => if o = 0x100 ∨ (0x110 ≤ o ∧ o < 0x130) ∨ (0x380 ≤ o ∧ o < 0x398) then some n else none
  | some (.ingest, n) =>
    if o = 0x100 ∨ o = 0x104 ∨ o = 0x108 ∨ o = 0x118 ∨ o = 0x120 ∨ o = 0x124 ∨ o = 0x128 then some n else none
  | _ => none

/-- What the write itself causes first: a guarded register's TDI goes to ERROR, which ends its own shielding. (DEDUCED: log entry 51.) -/
def tdiFirst (s : State) (r : Requester) (a : Nat) : State :=
  match r with
  | .pf => if hostUp s && devRdy s then (match tdiGuard a with | some n => pfTdiErr s n | none => s) else s
  | .vf _ => s
  | .sirvi => s

/-- A CONFIGURE of the PF before the device is ready (15_sirvi R414). -/
def earlyConfigure (s : State) (r : Requester) (a v : Nat) : Bool :=
  r = .pf && hostUp s && !devRdy s && decide (0x200000 ≤ a) && decide (a < 0x210000) && decide (a % 4096 = 0x104) && decide (v % 16 = 1)

/-- A 4-byte write to the PF BAR0 address `a`. -/
def hostRegWrite (r : Requester) (a v : Nat) (s : State) : State :=
  if earlyConfigure s r a v then cmdReject s ((a - 0x200000) / 4096) 7
  else
    let s1 := tdiFirst s r a
    match pageAt (a / 4096) with
    | none => s1
    | some (p, i) => if wOk s1 r a then pageWrite r p i a v s1 else s1

/-- A word of the MSI-X table: the message's address and data, or the vector control's Mask Bit. -/
def msixWrite (fn o v : Nat) (s : State) : State :=
  if hostUp s && decide (fn ≤ numVfs s) then
    if o % 16 ≠ 12 then wrN s (msixKey fn o) v
    else if bitAt v 0 then setVec s fn (o / 16) { vecAt s fn (o / 16) with masked := true }
    else unmaskVec s fn (o / 16)
  else s

/-- A 4-byte write to an address of the requester's own BARs. (DEDUCED: log entry 11.) -/
def wordWrite (r : Requester) (a v : Nat) (s : State) : State :=
  match msixAt r a with
  | some (fn, pba, o) => if pba then s else msixWrite fn o v s
  | none =>
    match r, decide (a = 0x5100) with
    | .vf k, true => clwSelEff k.val (BitVec.ofNat 32 v) s
    | _, _ => match xlate s r a with
      | some x => hostRegWrite r x v s
      | none => s

/-- A host write (R445): aligned, with every byte enabled, of 4 bytes or of 8 as two of 4, the lower address first. (DEDUCED: log entry 11.) -/
def registerWriteEff (r : Requester) (addr len : Nat) (allBytes : Bool) (data : DWord) (s : State) : State :=
  if !allBytes then s
  else if len = 4 ∧ addr % 4 = 0 then wordWrite r addr (data.toNat % 2 ^ 32) s
  else if len = 8 ∧ addr % 8 = 0 then wordWrite r (addr + 4) (data.toNat / 2 ^ 32) (wordWrite r addr (data.toNat % 2 ^ 32) s)
  else s

def execRegisterWrite (r : Requester) (addr len : Nat) (allBytes : Bool) (data : DWord) (s : State) : Out :=
  .next (registerWriteEff r addr len allBytes data s)

/-! ## Rows of single header registers and counters -/

/-- A write of the register at a page offset that the requester's address must name. -/
def headWrite (r : Requester) (addr : Nat) (ok : PageT → Nat → Bool) (f : PageT → Nat → State → State) (s : State) : State :=
  match xlate s r addr with
  | none => s
  | some a =>
    match pageAt (a / 4096) with
    | none => s
    | some (p, _) => if ok p (a % 4096) && wOk s r a then f p a s else s

/-- PG_EVTSET (R5, R8). -/
def pgEvtsetEff (r : Requester) (addr : Nat) (v : Word) : State → State :=
  headWrite r addr (fun _ o => o = 0x1C) fun p a => evtSetWord p (a - a % 4096) v.toNat

def execPgEvtset (r : Requester) (addr : Nat) (v : Word) (s : State) : Out := .next (pgEvtsetEff r addr v s)

/-- PG_EVT_CLEAR (R7, R8). -/
def pgEvtClearEff (r : Requester) (addr : Nat) (v : Word) : State → State :=
  headWrite r addr (fun _ o => o = 0x14) fun _ a => evtClearWord (a - a % 4096) v.toNat

def execPgEvtClear (r : Requester) (addr : Nat) (v : Word) (s : State) : Out := .next (pgEvtClearEff r addr v s)

/-- PG_LOCK (R5, R6). -/
def pgLockEff (r : Requester) (addr : Nat) (v : Word) : State → State :=
  headWrite r addr (fun _ o => o = 0x30) fun _ a => lockWord (a - a % 4096) v.toNat

def execPgLock (r : Requester) (addr : Nat) (v : Word) (s : State) : Out := .next (pgLockEff r addr v s)

/-- The register at a page offset is an event counter. -/
def isCnt (p : PageT) (o : Nat) : Bool :=
  match regAt p o with
  | some { kind := .cnt _ _ _, .. } => true
  | _ => false

/-- EVENT_COUNTER_WRITE (R10, R11). -/
def eventCounterWriteEff (r : Requester) (addr : Nat) (v : Word) : State → State :=
  headWrite r addr isCnt fun p a s => cntWrite s p a v.toNat

def execEventCounterWrite (r : Requester) (addr : Nat) (v : Word) (s : State) : Out := .next (eventCounterWriteEff r addr v s)

/-- VE_FLAG_CLEAR (R189). -/
def execVeFlagClear (r : Requester) (c : Fin 256) (core : Fin 16) (v : Word) (s : State) : Out :=
  .next (hostWr s r (clPg c + 0x140 + 4 * core) (veFlagClearEff c core v))

/-! ## Reads (R9, R445) -/

/-- What a read of a word returns, and the state after it: a LO latches its HI, KV_RECOMP is popped. (DEDUCED: log entry 10.) -/
def readWord (r : Requester) (a : Nat) (s : State) : State :=
  match msixAt r a with
  | some (fn, pba, o) => { s with rdata := some (if hostUp s && decide (fn ≤ numVfs s) then msixWord s fn pba o else 0) }
  | none =>
    match r, decide (0x5000 ≤ a ∧ a < 0x6000) with
    | .vf k, true =>
      { s with rdata := some (if hostUp s && devRdy s && decide (k.val < numVfs s) then clwWord s k.val (a % 4096) else 0) }
    | _, _ => match xlate s r a with
      | none => { s with rdata := some 0 }
      | some x =>
        match pageAt (x / 4096) with
        | none => { s with rdata := some 0 }
        | some (p, i) =>
          if p = .part ∧ x % 4096 = 0x3C0 then (if rOk s r x then kvRecompEff i s else { s with rdata := some 0 })
          else match (regAt p (x % 4096)).map RegRow.half with
            | some .lo => { s with rdata := some (viewWord s r x),
                                   latch := smSet 0 s.latch (latchNo r) (BitVec.ofNat 32 (viewWord s r (x + 4))) }
            | some .hi => { s with rdata := some (if rOk s r x then (smGet 0 s.latch (latchNo r)).toNat else 0) }
            | _ => { s with rdata := some (viewWord s r x) }

/-- LO_READ: the aligned word that holds the address. (DEDUCED: log entry 10.) -/
def loReadEff (r : Requester) (addr : Nat) : State → State := readWord r (addr - addr % 4)

def execLoRead (r : Requester) (addr : Nat) (s : State) : Out := .next (loReadEff r addr s)

end Sys2Proof.Machine
end

