-- ==== Sys2Proof/Machine/Dispatch.lean ====
section
/-!
DEFINITION. exec: one arm per command, each a direct call of the command's meaning.
-/
namespace Sys2Proof.Machine

/-- What a command does to everything but the queue. -/
def exec (i : Instr) (s : State) : Host.Outcome State Fault Refusal :=
  match i with
  | .registerWrite r addr len allBytes data => Sys2Proof.Machine.execRegisterWrite r addr len allBytes data s
  | .loRead r addr => Sys2Proof.Machine.execLoRead r addr s
  | .pgEvtset r addr v => Sys2Proof.Machine.execPgEvtset r addr v s
  | .pgEvtClear r addr v => Sys2Proof.Machine.execPgEvtClear r addr v s
  | .pgLock r addr v => Sys2Proof.Machine.execPgLock r addr v s
  | .eventCounterWrite r addr v => Sys2Proof.Machine.execEventCounterWrite r addr v s
  | .tbLoad => Sys2Proof.Machine.execTbLoad s
  | .ptmRequest capEnable => Sys2Proof.Machine.execPtmRequest capEnable s
  | .ptmResponse offset => Sys2Proof.Machine.execPtmResponse offset s
  | .ptmTimeout => Sys2Proof.Machine.execPtmTimeout s
  | .tickApply => Sys2Proof.Machine.execTickApply s
  | .tickCtrlEn en => Sys2Proof.Machine.execTickCtrlEn en s
  | .relock => Sys2Proof.Machine.execRelock s
  | .tickEdge => Sys2Proof.Machine.execTickEdge s
  | .tickInEdge time high => Sys2Proof.Machine.execTickInEdge time high s
  | .flywheelEdge => Sys2Proof.Machine.execFlywheelEdge s
  | .fallbackTimeout => Sys2Proof.Machine.execFallbackTimeout s
  | .ingestCutoff outs => Sys2Proof.Machine.execIngestCutoff outs s
  | .dispatchEnd => Sys2Proof.Machine.execDispatchEnd s
  | .commitWindowOpen => Sys2Proof.Machine.execCommitWindowOpen s
  | .flip => Sys2Proof.Machine.execFlip s
  | .configure n => Sys2Proof.Machine.execConfigure n s
  | .commit n => Sys2Proof.Machine.execCommit n s
  | .start n => Sys2Proof.Machine.execStart n s
  | .stop n => Sys2Proof.Machine.execStop n s
  | .maint n => Sys2Proof.Machine.execMaint n s
  | .resume n => Sys2Proof.Machine.execResume n s
  | .reconfig n => Sys2Proof.Machine.execReconfig n s
  | .teardown n => Sys2Proof.Machine.execTeardown n s
  | .tblSwap n => Sys2Proof.Machine.execTblSwap n s
  | .zeroiseDone n => Sys2Proof.Machine.execZeroiseDone n s
  | .partFault n k => Sys2Proof.Machine.execPartFault n k s
  | .vfFlr k => Sys2Proof.Machine.execVfFlr k s
  | .partCfgWrite n w v => Sys2Proof.Machine.execPartCfgWrite n w v s
  | .tblEntryLoWrite n shadow e v => Sys2Proof.Machine.execTblEntryLoWrite n shadow e v s
  | .tblEntryHiWrite n shadow e v => Sys2Proof.Machine.execTblEntryHiWrite n shadow e v s
  | .rearm n j => Sys2Proof.Machine.execRearm n j s
  | .pitchStart n e => Sys2Proof.Machine.execPitchStart n e s
  | .switchDone n extra => Sys2Proof.Machine.execSwitchDone n extra s
  | .pitchLimit n => Sys2Proof.Machine.execPitchLimit n s
  | .pitchEnd n cycle => Sys2Proof.Machine.execPitchEnd n cycle s
  | .jobTeardownDone n j waited => Sys2Proof.Machine.execJobTeardownDone n j waited s
  | .loopS c => Sys2Proof.Machine.execLoopS c s
  | .loopE c => Sys2Proof.Machine.execLoopE c s
  | .bp c => Sys2Proof.Machine.execBp c s
  | .altselSample c => Sys2Proof.Machine.execAltselSample c s
  | .halt c => Sys2Proof.Machine.execHalt c s
  | .sync c => Sys2Proof.Machine.execSync c s
  | .stallClear c cycles => Sys2Proof.Machine.execStallClear c cycles s
  | .bundlePageArrival c page => Sys2Proof.Machine.execBundlePageArrival c page s
  | .summaryHandler c => Sys2Proof.Machine.execSummaryHandler c s
  | .wfi c => Sys2Proof.Machine.execWfi c s
  | .ccException c k => Sys2Proof.Machine.execCcException c k s
  | .ccAltsel c v => Sys2Proof.Machine.execCcAltsel c v s
  | .ccDesc c d => Sys2Proof.Machine.execCcDesc c d s
  | .ccDefer c v => Sys2Proof.Machine.execCcDefer c v s
  | .ccSumPop c => Sys2Proof.Machine.execCcSumPop c s
  | .ccBelaySame c v => Sys2Proof.Machine.execCcBelaySame c v s
  | .summaryPostArrival c => Sys2Proof.Machine.execSummaryPostArrival c s
  | .load r n j => Sys2Proof.Machine.execLoad r n j s
  | .unload r n j => Sys2Proof.Machine.execUnload r n j s
  | .loadDone n => Sys2Proof.Machine.execLoadDone n s
  | .unloadDone n => Sys2Proof.Machine.execUnloadDone n s
  | .meMode c => Sys2Proof.Machine.execMeMode c s
  | .meCbook c => Sys2Proof.Machine.execMeCbook c s
  | .meLoadw c => Sys2Proof.Machine.execMeLoadw c s
  | .meStream c => Sys2Proof.Machine.execMeStream c s
  | .meDrain c => Sys2Proof.Machine.execMeDrain c s
  | .meAttn c => Sys2Proof.Machine.execMeAttn c s
  | .vsetvl c => Sys2Proof.Machine.execVsetvl c s
  | .vld c => Sys2Proof.Machine.execVld c s
  | .vst c => Sys2Proof.Machine.execVst c s
  | .vmov c => Sys2Proof.Machine.execVmov c s
  | .vbcast c => Sys2Proof.Machine.execVbcast c s
  | .vsel c => Sys2Proof.Machine.execVsel c s
  | .vcmp c => Sys2Proof.Machine.execVcmp c s
  | .vadd c => Sys2Proof.Machine.execVadd c s
  | .vsub c => Sys2Proof.Machine.execVsub c s
  | .vmul c => Sys2Proof.Machine.execVmul c s
  | .vfma c => Sys2Proof.Machine.execVfma c s
  | .vmax c => Sys2Proof.Machine.execVmax c s
  | .vmin c => Sys2Proof.Machine.execVmin c s
  | .vabs c => Sys2Proof.Machine.execVabs c s
  | .vneg c => Sys2Proof.Machine.execVneg c s
  | .vand c => Sys2Proof.Machine.execVand c s
  | .vor c => Sys2Proof.Machine.execVor c s
  | .vxor c => Sys2Proof.Machine.execVxor c s
  | .vshl c => Sys2Proof.Machine.execVshl c s
  | .vsra c => Sys2Proof.Machine.execVsra c s
  | .vsrl c => Sys2Proof.Machine.execVsrl c s
  | .vrcp c => Sys2Proof.Machine.execVrcp c s
  | .vrsqrt c => Sys2Proof.Machine.execVrsqrt c s
  | .vfn c => Sys2Proof.Machine.execVfn c s
  | .vred c => Sys2Proof.Machine.execVred c s
  | .vtred c => Sys2Proof.Machine.execVtred c s
  | .vtile c => Sys2Proof.Machine.execVtile c s
  | .vexpn c => Sys2Proof.Machine.execVexpn c s
  | .vcvt c => Sys2Proof.Machine.execVcvt c s
  | .vpost c => Sys2Proof.Machine.execVpost c s
  | .vflag c => Sys2Proof.Machine.execVflag c s
  | .gpChain c => Sys2Proof.Machine.execGpChain c s
  | .veFlagClear r c core v => Sys2Proof.Machine.execVeFlagClear r c core v s
  | .strmOpen r n => Sys2Proof.Machine.execStrmOpen r n s
  | .strmClose r n => Sys2Proof.Machine.execStrmClose r n s
  | .strmPark r n => Sys2Proof.Machine.execStrmPark r n s
  | .strmUnpark r n => Sys2Proof.Machine.execStrmUnpark r n s
  | .strmExport r n => Sys2Proof.Machine.execStrmExport r n s
  | .strmImport r n => Sys2Proof.Machine.execStrmImport r n s
  | .strmSetcfg r n => Sys2Proof.Machine.execStrmSetcfg r n s
  | .strmQuery r n => Sys2Proof.Machine.execStrmQuery r n s
  | .holdDrop n h => Sys2Proof.Machine.execHoldDrop n h s
  | .idlePark n h => Sys2Proof.Machine.execIdlePark n h s
  | .bivouacWriteDone h => Sys2Proof.Machine.execBivouacWriteDone h s
  | .bivouacReadDone h => Sys2Proof.Machine.execBivouacReadDone h s
  | .exportDone h => Sys2Proof.Machine.execExportDone h s
  | .importDone h => Sys2Proof.Machine.execImportDone h s
  | .kvInfo c a0 a1 => Sys2Proof.Machine.execKvInfo c a0 a1 s
  | .kvPte c a0 a1 => Sys2Proof.Machine.execKvPte c a0 a1 s
  | .kvReserve c a0 a1 => Sys2Proof.Machine.execKvReserve c a0 a1 s
  | .kvRecomp r n => Sys2Proof.Machine.execKvRecomp r n s
  | .seqInit r n => Sys2Proof.Machine.execSeqInit r n s
  | .seqFork r n => Sys2Proof.Machine.execSeqFork r n s
  | .seqReset r n => Sys2Proof.Machine.execSeqReset r n s
  | .seqFree r n => Sys2Proof.Machine.execSeqFree r n s
  | .poolInit r n => Sys2Proof.Machine.execPoolInit r n s
  | .spFill c => Sys2Proof.Machine.execSpFill c s
  | .spCopy c => Sys2Proof.Machine.execSpCopy c s
  | .spTag c => Sys2Proof.Machine.execSpTag c s
  | .spDma c => Sys2Proof.Machine.execSpDma c s
  | .ncCopy c => Sys2Proof.Machine.execNcCopy c s
  | .nocCopyDone core => Sys2Proof.Machine.execNocCopyDone core s
  | .remoteAccessDone c cycles => Sys2Proof.Machine.execRemoteAccessDone c cycles s
  | .tagTimeout w => Sys2Proof.Machine.execTagTimeout w s
  | .asyncPortPromotion core hbm => Sys2Proof.Machine.execAsyncPortPromotion core hbm s
  | .descriptorStart c q => Sys2Proof.Machine.execDescriptorStart c q s
  | .descriptorDone c q hostData => Sys2Proof.Machine.execDescriptorDone c q hostData s
  | .spUeCntClear r c => Sys2Proof.Machine.execSpUeCntClear r c s
  | .tagTmo n v => Sys2Proof.Machine.execTagTmo n v s
  | .expLoad r n v => Sys2Proof.Machine.execExpLoad r n v s
  | .exp16StagingDone n => Sys2Proof.Machine.execExp16StagingDone n s
  | .expRegister r n v => Sys2Proof.Machine.execExpRegister r n v s
  | .expUnregister r n v => Sys2Proof.Machine.execExpUnregister r n v s
  | .ccExpCmd c sel dst ring => Sys2Proof.Machine.execCcExpCmd c sel dst ring s
  | .expReadStart c => Sys2Proof.Machine.execExpReadStart c s
  | .expBlockDone w => Sys2Proof.Machine.execExpBlockDone w s
  | .ingPi r n v => Sys2Proof.Machine.execIngPi r n v s
  | .emCi r n v => Sys2Proof.Machine.execEmCi r n v s
  | .ingestRecord n rec => Sys2Proof.Machine.execIngestRecord n rec s
  | .groupChunkRelease n h => Sys2Proof.Machine.execGroupChunkRelease n h s
  | .feChunkDone n h => Sys2Proof.Machine.execFeChunkDone n h s
  | .emissionRingWrite n lost => Sys2Proof.Machine.execEmissionRingWrite n lost s
  | .profCommit r n => Sys2Proof.Machine.execProfCommit r n s
  | .profFetch r n => Sys2Proof.Machine.execProfFetch r n s
  | .portCfg p v => Sys2Proof.Machine.execPortCfg p v s
  | .portMasterFrame p slots => Sys2Proof.Machine.execPortMasterFrame p slots s
  | .portFrame p f => Sys2Proof.Machine.execPortFrame p f s
  | .portFrameTimeout p => Sys2Proof.Machine.execPortFrameTimeout p s
  | .nonaudioEnd p => Sys2Proof.Machine.execNonaudioEnd p s
  | .outPi p v => Sys2Proof.Machine.execOutPi p v s
  | .chCtrl p ch v => Sys2Proof.Machine.execChCtrl p ch v s
  | .zcTimeout p ch => Sys2Proof.Machine.execZcTimeout p ch s
  | .zcTmo p v => Sys2Proof.Machine.execZcTmo p v s
  | .getVersion e => Sys2Proof.Machine.execGetVersion e s
  | .getCapabilities e => Sys2Proof.Machine.execGetCapabilities e s
  | .negotiateAlgorithms e => Sys2Proof.Machine.execNegotiateAlgorithms e s
  | .getDigests e => Sys2Proof.Machine.execGetDigests e s
  | .getCertificate e => Sys2Proof.Machine.execGetCertificate e s
  | .challenge e nonce => Sys2Proof.Machine.execChallenge e nonce s
  | .getMeasurements e block nonce => Sys2Proof.Machine.execGetMeasurements e block nonce s
  | .keyExchange e pubHash => Sys2Proof.Machine.execKeyExchange e pubHash s
  | .finish e session mutualOk => Sys2Proof.Machine.execFinish e session mutualOk s
  | .spdmHeartbeat e session => Sys2Proof.Machine.execSpdmHeartbeat e session s
  | .keyUpdate e session => Sys2Proof.Machine.execKeyUpdate e session s
  | .endSession e session => Sys2Proof.Machine.execEndSession e session s
  | .keySet session slot keyid key => Sys2Proof.Machine.execKeySet session slot keyid key s
  | .keyRotate session slot keyid key => Sys2Proof.Machine.execKeyRotate session slot keyid key s
  | .keyDropOld session slot => Sys2Proof.Machine.execKeyDropOld session slot s
  | .keyErase session slot => Sys2Proof.Machine.execKeyErase session slot s
  | .keyEraseComplete slot => Sys2Proof.Machine.execKeyEraseComplete slot s
  | .policySet session slot shield reqTdi => Sys2Proof.Machine.execPolicySet session slot shield reqTdi s
  | .steadySet session slot budgets emit pavg => Sys2Proof.Machine.execSteadySet session slot budgets emit pavg s
  | .steadyClear session slot => Sys2Proof.Machine.execSteadyClear session slot s
  | .ptySteadyAck r p v => Sys2Proof.Machine.execPtySteadyAck r p v s
  | .spdmSummitRead e first => Sys2Proof.Machine.execSpdmSummitRead e first s
  | .ideKm e session stream keySet key => Sys2Proof.Machine.execIdeKm e session stream keySet key s
  | .kSetGo e session stream keySet => Sys2Proof.Machine.execKSetGo e session stream keySet s
  | .lockInterface k session => Sys2Proof.Machine.execLockInterface k session s
  | .stopInterface k session => Sys2Proof.Machine.execStopInterface k session s
  | .debugNonce bmc => Sys2Proof.Machine.execDebugNonce bmc s
  | .debugConsent bmc grant => Sys2Proof.Machine.execDebugConsent bmc grant s
  | .debugEntered => Sys2Proof.Machine.execDebugEntered s
  | .lkCtrl p v => Sys2Proof.Machine.execLkCtrl p v s
  | .trainingDone p => Sys2Proof.Machine.execTrainingDone p s
  | .trainingTimeout p => Sys2Proof.Machine.execTrainingTimeout p s
  | .attestDone p ok => Sys2Proof.Machine.execAttestDone p ok s
  | .attestTimeout p => Sys2Proof.Machine.execAttestTimeout p s
  | .linkRetry p => Sys2Proof.Machine.execLinkRetry p s
  | .mgmt p f => Sys2Proof.Machine.execMgmt p f s
  | .tag p f good => Sys2Proof.Machine.execTag p f good s
  | .nak p f => Sys2Proof.Machine.execNak p f s
  | .heartbeat p f good => Sys2Proof.Machine.execHeartbeat p f good s
  | .heartbeatSend p => Sys2Proof.Machine.execHeartbeatSend p s
  | .heartbeatTimeout p => Sys2Proof.Machine.execHeartbeatTimeout p s
  | .lkSend c => Sys2Proof.Machine.execLkSend c s
  | .lkColl c => Sys2Proof.Machine.execLkColl c s
  | .send p f => Sys2Proof.Machine.execSend p f s
  | .coll p f => Sys2Proof.Machine.execColl p f s
  | .collTimeout c => Sys2Proof.Machine.execCollTimeout c s
  | .collTmo n v => Sys2Proof.Machine.execCollTmo n v s
  | .blob p f => Sys2Proof.Machine.execBlob p f s
  | .adv p f => Sys2Proof.Machine.execAdv p f s
  | .release p f => Sys2Proof.Machine.execRelease p f s
  | .bhb p f => Sys2Proof.Machine.execBhb p f s
  | .bhbSend n => Sys2Proof.Machine.execBhbSend n s
  | .bhbTimeout n => Sys2Proof.Machine.execBhbTimeout n s
  | .promote n => Sys2Proof.Machine.execPromote n s
  | .clear n => Sys2Proof.Machine.execClear n s
  | .warmPromotion n => Sys2Proof.Machine.execWarmPromotion n s
  | .hotPromotion n => Sys2Proof.Machine.execHotPromotion n s
  | .info bmc => Sys2Proof.Machine.execInfo bmc s
  | .devReset bmc => Sys2Proof.Machine.execDevReset bmc s
  | .ksBind bmc slot party reqHash => Sys2Proof.Machine.execKsBind bmc slot party reqHash s
  | .ksUnbind bmc slot => Sys2Proof.Machine.execKsUnbind bmc slot s
  | .winCreate bmc party base size slot => Sys2Proof.Machine.execWinCreate bmc party base size slot s
  | .winResize bmc party base size => Sys2Proof.Machine.execWinResize bmc party base size s
  | .winRemove bmc party => Sys2Proof.Machine.execWinRemove bmc party s
  | .regionSet bmc party regions => Sys2Proof.Machine.execRegionSet bmc party regions s
  | .hbmMap bmc map groups => Sys2Proof.Machine.execHbmMap bmc map groups s
  | .spanSet bmc coord dims => Sys2Proof.Machine.execSpanSet bmc coord dims s
  | .sensorLimit bmc sensor kind value => Sys2Proof.Machine.execSensorLimit bmc sensor kind value s
  | .pwrLimit bmc watts => Sys2Proof.Machine.execPwrLimit bmc watts s
  | .bgCfg bmc thr hpass => Sys2Proof.Machine.execBgCfg bmc thr hpass s
  | .fwStage bmc image => Sys2Proof.Machine.execFwStage bmc image s
  | .fwActivate bmc slotB => Sys2Proof.Machine.execFwActivate bmc slotB s
  | .fwCommit bmc => Sys2Proof.Machine.execFwCommit bmc s
  | .summitInfo bmc => Sys2Proof.Machine.execSummitInfo bmc s
  | .summitRead bmc first => Sys2Proof.Machine.execSummitRead bmc first s
  | .imgPut bmc name obj => Sys2Proof.Machine.execImgPut bmc name obj s
  | .imgGet bmc party name addr => Sys2Proof.Machine.execImgGet bmc party name addr s
  | .imgDel bmc name => Sys2Proof.Machine.execImgDel bmc name s
  | .imgList bmc => Sys2Proof.Machine.execImgList bmc s
  | .sensorSample rs => Sys2Proof.Machine.execSensorSample rs s
  | .powerLimitStep => Sys2Proof.Machine.execPowerLimitStep s
  | .summitFlush => Sys2Proof.Machine.execSummitFlush s
  | .pwrgoodAssert smbus maddr => Sys2Proof.Machine.execPwrgoodAssert smbus maddr s
  | .fwWatchdog => Sys2Proof.Machine.execFwWatchdog s
  | .sirviReady => Sys2Proof.Machine.execSirviReady s
  | .deviceReady => Sys2Proof.Machine.execDeviceReady s
  | .railTimeout r => Sys2Proof.Machine.execRailTimeout r s
  | .pwrgoodDeassert => Sys2Proof.Machine.execPwrgoodDeassert s
  | .p54vUndervoltage => Sys2Proof.Machine.execP54vUndervoltage s
  | .thermtrip => Sys2Proof.Machine.execThermtrip s
  | .warmReset c => Sys2Proof.Machine.execWarmReset c s
  | .refclkLinkLoss => Sys2Proof.Machine.execRefclkLinkLoss s
  | .refclkPcieLoss => Sys2Proof.Machine.execRefclkPcieLoss s
  | .clwSel k v => Sys2Proof.Machine.execClwSel k v s
  | .msixUnmask fn v => Sys2Proof.Machine.execMsixUnmask fn v s
  | .scratchpadScrub => Sys2Proof.Machine.execScratchpadScrub s
  | .clusterScrub => Sys2Proof.Machine.execClusterScrub s
  | .hbmScrub => Sys2Proof.Machine.execHbmScrub s
  | .rowSpareDone => Sys2Proof.Machine.execRowSpareDone s
  | .linkRetune => Sys2Proof.Machine.execLinkRetune s
  | .thermalCalibration => Sys2Proof.Machine.execThermalCalibration s
  | .energyCalibration => Sys2Proof.Machine.execEnergyCalibration s
  | .wearLevelling => Sys2Proof.Machine.execWearLevelling s
  | .bgSlip => Sys2Proof.Machine.execBgSlip s
  | .perstNDeassert => Sys2Proof.Machine.execPerstNDeassert s
  | .startInterface k session => Sys2Proof.Machine.execStartInterface k session s
  | .pldmEventAcknowledge => Sys2Proof.Machine.execPldmEventAcknowledge s
  | .pldmEventEnable => Sys2Proof.Machine.execPldmEventEnable s
  | .uncorrectableInternalError u => Sys2Proof.Machine.execUncorrectableInternalError u s
  | .vfEnable on num => Sys2Proof.Machine.execVfEnable on num s
  | .idle p f => Sys2Proof.Machine.execIdle p f s

end Sys2Proof.Machine
end

