-- ==== Sys2Proof/WellFormed.lean ====
section
/-!
DEFINITION. Which commands are well formed: the lengths that the spec fixes for the data a command carries. A command that the spec
answers with an error status or an event is well formed, and its meaning gives that answer.
-/
namespace Sys2Proof

/-- A flit carries 496 bytes of payload (14_links_belay R392). -/
def flitOk (f : Flit) : Bool := decide (f.payload.length = 496)

/-- The operands have the lengths of 11_ingest R311 and R334, 12_audio_ports R347, 13_parties R365-R382, 09_memory R276 and R278,
15_sirvi R416 and R429. -/
def wellFormed : Instr → Bool
  | .registerWrite _ _ _ _ _ | .loRead _ _ | .pgEvtset _ _ _ | .pgEvtClear _ _ _ | .pgLock _ _ _ | .eventCounterWrite _ _ _
  | .tbLoad | .ptmRequest _ | .ptmResponse _ | .ptmTimeout | .tickApply | .tickCtrlEn _ | .relock | .tickEdge | .tickInEdge _ _
  | .flywheelEdge | .fallbackTimeout => true
  | .ingestCutoff outs => decide (outs.length = 16)
  | .dispatchEnd | .commitWindowOpen | .flip | .configure _ | .commit _ | .start _ | .stop _ | .maint _ | .resume _ | .reconfig _
  | .teardown _ | .tblSwap _ | .zeroiseDone _ | .partFault _ _ | .vfFlr _ | .partCfgWrite _ _ _ | .tblEntryLoWrite _ _ _ _
  | .tblEntryHiWrite _ _ _ _ | .rearm _ _ | .pitchStart _ _ | .switchDone _ _ | .pitchLimit _ | .pitchEnd _ _
  | .jobTeardownDone _ _ _ | .loopS _ | .loopE _ | .bp _ | .altselSample _ | .halt _ | .sync _ | .stallClear _ _
  | .bundlePageArrival _ _ | .summaryHandler _ | .wfi _ | .ccException _ _ | .ccAltsel _ _ | .ccDesc _ _ | .ccDefer _ _
  | .ccSumPop _ | .ccBelaySame _ _ | .summaryPostArrival _ | .load _ _ _ | .unload _ _ _ | .loadDone _ | .unloadDone _ | .meMode _
  | .meCbook _ | .meLoadw _ | .meStream _ | .meDrain _ | .meAttn _ | .vsetvl _ | .vld _ | .vst _ | .vmov _ | .vbcast _ | .vsel _
  | .vcmp _ | .vadd _ | .vsub _ | .vmul _ | .vfma _ | .vmax _ | .vmin _ | .vabs _ | .vneg _ | .vand _ | .vor _ | .vxor _ | .vshl _
  | .vsra _ | .vsrl _ | .vrcp _ | .vrsqrt _ | .vfn _ | .vred _ | .vtred _ | .vtile _ | .vexpn _ | .vcvt _ | .vpost _ | .vflag _
  | .gpChain _ | .veFlagClear _ _ _ _ | .strmOpen _ _ | .strmClose _ _ | .strmPark _ _ | .strmUnpark _ _ | .strmExport _ _
  | .strmImport _ _ | .strmSetcfg _ _ | .strmQuery _ _ | .holdDrop _ _ | .idlePark _ _ | .bivouacWriteDone _ | .bivouacReadDone _
  | .exportDone _ | .importDone _ | .kvInfo _ _ _ | .kvPte _ _ _ | .kvReserve _ _ _ | .kvRecomp _ _ | .seqInit _ _ | .seqFork _ _
  | .seqReset _ _ | .seqFree _ _ | .poolInit _ _ | .spFill _ | .spCopy _ | .spTag _ | .spDma _ | .ncCopy _ | .nocCopyDone _
  | .remoteAccessDone _ _ | .tagTimeout _ | .asyncPortPromotion _ _ | .descriptorStart _ _ | .descriptorDone _ _ _
  | .spUeCntClear _ _ | .tagTmo _ _ | .expLoad _ _ _ | .exp16StagingDone _ | .expRegister _ _ _ | .expUnregister _ _ _
  | .ccExpCmd _ _ _ _ | .expReadStart _ | .expBlockDone _ | .ingPi _ _ _ | .emCi _ _ _ => true
  | .ingestRecord _ rec => match rec with | some bs => decide (bs.length ≤ 65536) | none => true
  | .groupChunkRelease _ _ | .feChunkDone _ _ | .emissionRingWrite _ _ | .profCommit _ _ | .profFetch _ _ | .portCfg _ _ => true
  | .portMasterFrame _ slots => decide (slots.length ≤ 32)
  | .portFrame _ f => decide (f.slots.length ≤ 32)
  | .portFrameTimeout _ | .nonaudioEnd _ | .outPi _ _ | .chCtrl _ _ _ | .zcTimeout _ _ | .zcTmo _ _ | .getVersion _
  | .getCapabilities _ | .negotiateAlgorithms _ | .getDigests _ | .getCertificate _ => true
  | .challenge _ nonce => decide (nonce.length = 32)
  | .getMeasurements _ block nonce => decide (block < 256) && decide (nonce.length = 32)
  | .keyExchange _ pubHash => decide (pubHash.length = 48)
  | .finish _ _ _ | .spdmHeartbeat _ _ | .keyUpdate _ _ | .endSession _ _ => true
  | .keySet _ _ _ key => decide (key.length = 32)
  | .keyRotate _ _ _ key => decide (key.length = 32)
  | .keyDropOld _ _ | .keyErase _ _ | .keyEraseComplete _ | .policySet _ _ _ _ => true
  | .steadySet _ _ budgets _ _ => decide (budgets.length = 7)
  | .steadyClear _ _ | .ptySteadyAck _ _ _ | .spdmSummitRead _ _ => true
  | .ideKm _ _ _ _ key => decide (key.length = 32)
  | .kSetGo _ _ _ _ | .lockInterface _ _ | .stopInterface _ _ | .debugNonce _ => true
  | .debugConsent _ grant => decide (grant.length ≤ 3584)
  | .debugEntered | .lkCtrl _ _ | .trainingDone _ | .trainingTimeout _ | .attestDone _ _ | .attestTimeout _ | .linkRetry _ => true
  | .mgmt _ f => flitOk f
  | .tag _ f _ => flitOk f
  | .nak _ f => flitOk f
  | .heartbeat _ f _ => flitOk f
  | .heartbeatSend _ | .heartbeatTimeout _ | .lkSend _ | .lkColl _ => true
  | .send _ f => flitOk f
  | .coll _ f => flitOk f
  | .collTimeout _ | .collTmo _ _ => true
  | .blob _ f => flitOk f
  | .adv _ f => flitOk f
  | .release _ f => flitOk f
  | .bhb _ f => flitOk f
  | .bhbSend _ | .bhbTimeout _ | .promote _ | .clear _ | .warmPromotion _ | .hotPromotion _ | .info _ | .devReset _ => true
  | .ksBind _ _ _ reqHash => decide (reqHash.length = 48)
  | .ksUnbind _ _ | .winCreate _ _ _ _ _ | .winResize _ _ _ _ | .winRemove _ _ => true
  | .regionSet _ _ regions => decide (regions.length = 6)
  | .hbmMap _ _ groups => decide (groups.length = 16)
  | .spanSet _ _ _ | .sensorLimit _ _ _ _ | .pwrLimit _ _ | .bgCfg _ _ _ | .fwStage _ _ | .fwActivate _ _ | .fwCommit _
  | .summitInfo _ | .summitRead _ _ | .imgPut _ _ _ | .imgGet _ _ _ _ | .imgDel _ _ | .imgList _ => true
  | .sensorSample rs => decide (rs.length = 96)
  | .powerLimitStep | .summitFlush | .pwrgoodAssert _ _ | .fwWatchdog | .sirviReady | .deviceReady | .railTimeout _
  | .pwrgoodDeassert | .p54vUndervoltage | .thermtrip | .warmReset _ | .refclkLinkLoss | .refclkPcieLoss | .clwSel _ _
  | .msixUnmask _ _ | .scratchpadScrub | .clusterScrub | .hbmScrub | .rowSpareDone | .linkRetune | .thermalCalibration
  | .energyCalibration | .wearLevelling | .bgSlip | .perstNDeassert | .startInterface _ _ | .pldmEventAcknowledge
  | .pldmEventEnable | .uncorrectableInternalError _ | .vfEnable _ _ => true
  | .idle _ f => flitOk f

end Sys2Proof
end

