-- ==== Sys2Proof/Safety.lean ====
section
/-!
DEFINITION. The terms in which claims about runs are stated: the canonical form of the block's byte memories, and a step that answers
a next state.
-/
namespace Sys2Proof.Machine

/-- HBM, host memory and the control cores' local memories are in canonical form: addresses strictly rising and no byte listed that
reads as an unlisted one does (09_memory R274). -/
def memOk (s : State) : Bool := smWf (fun _ => 0) s.hbm && smWf (fun _ => 0) s.hostMem && smWf (fun _ => 0) s.ccmem

/-- The SRAM buffer of the summit register holds at most 256 entries (15_sirvi R420). -/
def sramOk (s : State) : Bool := decide (s.sirvi.summit.buf.length ≤ sumMax)

/-- No anti-rollback counter of `t` is below that of `s` (15_sirvi R425). -/
def fusesUp (s t : State) : Prop := ∀ i, smGet 0 s.sirvi.fuses i ≤ smGet 0 t.sirvi.fuses i

/-- The command answers a next state. -/
def Completes (c : Instr) (s : State) : Prop := ∃ t, exec c s = Host.Outcome.next t

/-- The command answers a next state, and `P` holds of it. -/
def Gives (c : Instr) (s : State) (P : State → Prop) : Prop := ∃ t, exec c s = Host.Outcome.next t ∧ P t

/-- The host's link is up and the device is ready: a write of the PF reaches every page (15_sirvi R414, 16_host_registers R445). -/
def hostReady (s : State) : Bool := hostUp s && devRdy s

/-- A COMMIT of partition `n` passes every check (02_partitions_pitches R42, R48). -/
def commitChecks (s : State) (n : Nat) : Bool :=
  (part s n).st = .configuring && !cmdPend s n && s.clk.wait.isNone && connected (members s n) && !membersTaken s n &&
    !partyBad s n && kvRangesOk s n && blyRangesOk s n && isMember s n (partOrigin s n) && (judgeTbl s n (activeTbl s n)).2.isNone

/-- The state in which the next op of a cluster issues: the sequencer has stepped over what is done, and the clock stands at the issue
cycle (03_tick_programs R82). -/
def atIssue (s : State) (c : Nat) : State := toCycle (settle s c) (issueCycle (settle s c) c)

/-- The op answers a next state in which its part of the bundle is done and the effects `l`, by offset from its issue cycle, are in
flight. -/
def OpLeaves (i : Instr) (s : State) (c : Nat) (u : USlot) (l : List (Nat × Eff)) : Prop :=
  Gives i s fun t => uCode u ∈ (clu t c).did ∧ ∀ p ∈ l, ((clu (atIssue s c) c).icyc + p.1, p.2) ∈ (clu t c).effs

/-- The VE op of a cluster is the one to issue, it has opcode `opc`, and no op in progress books the VE of a core that it acts on
(03_tick_programs R76, R80). -/
def veReady (s : State) (c opc : Nat) : Bool :=
  canOp (settle s c) c .ve opc && (veCores (atIssue s c) c).all fun k => !bookedNow (atIssue s c) c k 1

/-- An op that acts on each enabled core by the plans `l`: refused, it is a job fault with the cause; on a unit that an op in progress
books, one with cause 3; on a slot that is not FULL in its issue cycle it freezes its cluster; on an uncorrectable word it is a job fault with
cause 1; and else every plan's effects and flags are in flight, its later reads wait for their cycles, and every engine it changes at once
stands as the plan says. -/
def OpRuns (i : Instr) (s : State) (c : Nat) (u : USlot) (l : List (Nat × Sum Nat Plan)) : Prop :=
  (∀ k, plans l = .inl k → exec i s = Host.Outcome.next (clusFault (atIssue s c) c k)) ∧
  ∀ ps, plans l = .inr ps →
    (doubleBooked (atIssue s c) c u ps = true → exec i s = Host.Outcome.next (clusFault (atIssue s c) c 3)) ∧
    (doubleBooked (atIssue s c) c u ps = false →
      (∀ w, waitRead (atIssue s c) (ps.flatMap fun p => p.2.reads.map fun x => x.r) = some w →
        exec i s = Host.Outcome.next (freezeOn (atIssue s c) c w)) ∧
      (waitRead (atIssue s c) (ps.flatMap fun p => p.2.reads.map fun x => x.r) = none →
        ((ps.flatMap fun p => p.2.reads).any (fun x => !(rdBad (atIssue s c) x).isEmpty) = true →
          exec i s = Host.Outcome.next (clusFault (readAll (atIssue s c) (ps.flatMap fun p => p.2.reads)) c 1)) ∧
        ((ps.flatMap fun p => p.2.reads).any (fun x => !(rdBad (atIssue s c) x).isEmpty) = false →
          OpLeaves i s c u (ps.flatMap fun p => p.2.effs ++ flagEff 0 p.1 p.2.sOf p.2.sNv) ∧
          Gives i s fun t => (∀ p ∈ ps, ∀ x ∈ p.2.post.head?, coreAt t p.1 = x) ∧
            ∀ r ∈ ps.flatMap (fun p => p.2.runs), r ∈ (clu t c).runs)))

/-- The waiting commands are well formed. -/
def queueOk (s : State) : Bool := s.pending.all wellFormed

end Sys2Proof.Machine
end

