-- ==== Sys2Proof/Certificates/Slice0/Obligations.lean ====
section
/-!
DEFINITION. The statements for the provers. Each speaks of commands as `exec` runs them; `Gives c s P` says that the command answers a next
state and that `P` holds of it.
-/
open Sys2Proof Sys2Proof.Machine

/-- A step runs the command at the front of the queue. With a command c at the front of its queue, a step of s is exec of c on s with
the rest of the queue; the command put in front of the rest is the one that runs. On an empty queue the step answers a next state,
in which the queue is still empty (the model's choice, log entry 1). (16_host_registers "Host access rules") -/
def Obligations.StepRunsTheFrontCommand : Prop :=
  (∀ (s : State) (c : Instr) (rest : List Instr), s.pending = c :: rest → step s = exec c { s with pending := rest }) ∧
  (∀ (s : State) (c : Instr), step { s with pending := c :: s.pending } = exec c s) ∧
  ∀ s : State, s.pending = [] → ∃ t, step s = Host.Outcome.next t ∧ t.pending = []

/-- After reset nothing runs, nothing waits, and every register reads its reset word. In State.reset every partition is OFF, every
stream is FREE, no command waits, tick generation is stopped, no PG_EVT bit is set, every register word reads the reset value of its
row (where the spec gives none, the value the assumption log names), and every byte of HBM and of host memory reads zero (the
model's choice, log entry 2). (00_scope R4, 16_host_registers R457) -/
def Obligations.ResetLeavesEveryPartitionOffAndMemoryEmpty : Prop :=
  (∀ n, (part State.reset n).st = .off) ∧ (∀ h, (strm State.reset h).st = .free) ∧ State.reset.pending = [] ∧
  State.reset.clk.run = false ∧ (∀ a, rd State.reset a = resetWord a) ∧
  (∀ a, memGet 0 State.reset.hbm a = 0 ∧ memGet 0 State.reset.hostMem a = 0) ∧
  memOk State.reset = true ∧ sramOk State.reset = true

/-- Every command answers a next state in every state. No command of the table ends in a fault or a refusal: a command whose condition
does not hold leaves the state as the spec's rules say (the model's reading, log entry 3), and a rejected one sets its cause and its
event. (00_scope R4, 02_partitions_pitches R42) -/
def Obligations.EveryCommandCompletes : Prop :=
  ∀ (c : Instr) (s : State), Completes c s

/-- PG_EVTSET, PG_EVT, PG_LOCK and event-counter writes act on the page named. For a requester's address that names a register of a page
which takes the requester's writes: PG_EVTSET sets the PG_EVT bits written 1 that the page has; a write to PG_EVT clears the bits
written 1, but for those that hardware has set in the same cycle, and no other; PG_LOCK written with bit 0 set locks the page, and
with bit 0 clear changes nothing; an event counter written with zero reads zero, or the increments that fall in the same cycle, and
written with any other value changes nothing. (00_scope R5, 00_scope R7, 00_scope R10, 00_scope R11) -/
def Obligations.HeaderRegisterCommandsAct : Prop :=
  ∀ (r : Requester) (addr : Nat) (v : Word) (s : State) (a : Nat) (p : PageT) (i : Nat),
    xlate s r addr = some a → pageAt (a / 4096) = some (p, i) → wOk s r a = true →
    (a % 4096 = 0x1C → Gives (.pgEvtset r addr v) s fun t =>
      ∀ b < 32, bitAt v.toNat b = true → bitAt (evtBits p) b = true → rb t (a - 0x1C + 0x14) b = true) ∧
    (a % 4096 = 0x14 → Gives (.pgEvtClear r addr v) s fun t =>
      rdN t a = without (rdN s a) (without v.toNat (smGet 0 (marksNow s).evt (a - 0x14)))) ∧
    (a % 4096 = 0x30 → Gives (.pgLock r addr v) s fun t =>
      (bitAt v.toNat 0 = true → rdN t a = 1) ∧ (bitAt v.toNat 0 = false → t = s)) ∧
    (isCnt p (a % 4096) = true → Gives (.eventCounterWrite r addr v) s fun t =>
      (v.toNat = 0 → rdN t a = min (smGet 0 (marksNow s).cnt a) 0xFFFFFFFE) ∧ (v.toNat ≠ 0 → t = s))

/-- A register write reaches its register and acts by the access type of its bits. A 4-byte write of the PF or of Sirvi firmware,
aligned and with every byte enabled, to a block register of an operator-class page that only holds what is written (operations, HBM,
stack, span, engine, sensor, background, identification or function page) and takes the requester's writes: of a register that holds
values, each bit that is RW, or RWL while the page is not locked, takes the bit written, and every other bit keeps its value; of a
write-1-to-clear register each writable bit written 1 clears and no other; no other register changes. A write-only or sticky
register, and an event counter written with a value other than zero, change nothing. A write with a byte disabled, or not of 4 or 8
bytes aligned to its length, changes nothing, and an aligned 8-byte write is the two 4-byte writes, the lower address first.
(00_scope R4, 16_host_registers R445) -/
def Obligations.RegisterWritesFollowTheirAccessType : Prop :=
  (∀ (s : State) (q : Requester) (a : Nat) (v : DWord) (p : PageT) (i : Nat) (r : RegRow), q = .pf ∨ q = .sirvi → a < 0x4000000 →
    a % 4 = 0 → 0x100 ≤ a % 4096 → pageAt (a / 4096) = some (p, i) → regAt p (a % 4096) = some r → wOk s q a = true →
    p ∈ [PageT.oper, .hbm, .stack, .span, .mee, .sens, .bg, .ident, .funcs] →
    (r.kind = .plain → Gives (.registerWrite q a 4 true v) s fun t =>
      (∀ b < 32, rb t a b = if bitAt r.rw b || (bitAt r.rwl b && !locked s (a - a % 4096)) then bitAt v.toNat b else rb s a b) ∧
      ∀ x, x ≠ a → rd t x = rd s x) ∧
    (r.kind = .w1c → Gives (.registerWrite q a 4 true v) s fun t =>
      (∀ b < 32, rb t a b = (rb s a b && !(bitAt r.rw b && bitAt v.toNat b))) ∧ ∀ x, x ≠ a → rd t x = rd s x) ∧
    (r.kind = .wo ∨ r.kind = .ros ∨ ((∃ x y z, r.kind = .cnt x y z) ∧ v.toNat % 2 ^ 32 ≠ 0) →
      exec (.registerWrite q a 4 true v) s = Host.Outcome.next s)) ∧
  (∀ (r : Requester) (a len : Nat) (v : DWord) (s : State), exec (.registerWrite r a len false v) s = Host.Outcome.next s) ∧
  (∀ (r : Requester) (a len : Nat) (b : Bool) (v : DWord) (s : State), ¬(len = 4 ∧ a % 4 = 0) → ¬(len = 8 ∧ a % 8 = 0) →
    exec (.registerWrite r a len b v) s = Host.Outcome.next s) ∧
  ∀ (r : Requester) (a : Nat) (v : DWord) (s : State), a % 8 = 0 →
    Gives (.registerWrite r a 4 true v) s fun u =>
      exec (.registerWrite r a 8 true v) s = exec (.registerWrite r (a + 4) 4 true (v >>> 32)) u

/-- A read of LO returns its word and latches HI; a read of HI returns the requester's latch. A requester's read of the LO of a pair
that it may read returns the LO word and latches the HI word for that requester alone; its next read of the HI returns what the LO
read latched; a read of HI changes no latch. (00_scope R9) -/
def Obligations.LoReadLatchesTheHighHalf : Prop :=
  ∀ (r : Requester) (a x : Nat) (p : PageT) (i : Nat) (row : RegRow) (s : State),
    a % 4 = 0 → msixAt r a = none → (∀ k, r = .vf k → a < 0x5000 ∨ 0x6000 ≤ a) → xlate s r a = some x →
    pageAt (x / 4096) = some (p, i) → regAt p (x % 4096) = some row → ¬(p = .part ∧ x % 4096 = 0x3C0) →
    (row.half = .lo → Gives (.loRead r a) s fun t =>
      t.rdata = some (viewWord s r x) ∧ smGet 0 t.latch (latchNo r) = BitVec.ofNat 32 (viewWord s r (x + 4)) ∧
      (∀ k, k ≠ latchNo r → smGet 0 t.latch k = smGet 0 s.latch k) ∧ t.regs = s.regs) ∧
    (row.half = .hi → rOk s r x = true → Gives (.loRead r a) s fun t =>
      t.rdata = some (smGet 0 s.latch (latchNo r)).toNat ∧ t.latch = s.latch ∧ t.regs = s.regs)

/-- LOAD, APPLY, EN and RELOCK act as the tick chapter says. With the device ready: while no partition is READY, RUNNING or MAINTENANCE,
LOAD gives the timebase TB_SET's value, APPLY of a legal TICK_CFG clears CFG_REJ and takes force at once while EN is 0 and waits for
the edge while EN is 1, and clearing EN stops tick generation, keeps TICK_NUM and puts a waiting copy in force; in those states, or
with an illegal field, APPLY keeps the fields in force and sets CFG_REJ in TICK_STAT and PG_EVT, and LOAD changes no time. Setting
EN from 0 makes the source in force the source and RUN its internal case; RELOCK in fallback starts a relock. (01_tick R13, 01_tick
R16, 01_tick R22, 01_tick R474) -/
def Obligations.TickConfigurationTakesForce : Prop :=
  ∀ s : State, hostReady s = true →
    (anyActive s = false → Gives .tbLoad s fun t =>
      t.clk.tb = rd64 s (tickPg + 0x108) * uNs ∧ t.clk.tbValid = true ∧ t.regs = s.regs) ∧
    (anyActive s = true → Gives .tbLoad s fun t => t.clk = s.clk ∧ rb t (tickPg + 0x14) 9 = true) ∧
    (anyActive s = false → cfgOk (cfgReg s) = true → Gives .tickApply s fun t =>
      t.clk.cfgRej = false ∧ (tickEn s = false → t.clk.cfg = cfgReg s) ∧
      (tickEn s = true → t.clk.cfg = s.clk.cfg ∧ t.clk.wait = some (cfgReg s))) ∧
    ((anyActive s = true ∨ cfgOk (cfgReg s) = false) → Gives .tickApply s fun t =>
      t.clk.cfg = s.clk.cfg ∧ t.clk.wait = s.clk.wait ∧ t.clk.cfgRej = true ∧ rb t (tickPg + 0x14) 9 = true) ∧
    (tickEn s = false → Gives (.tickCtrlEn true) s fun t =>
      tickEn t = true ∧ t.clk.srcNow = s.clk.cfg.src ∧ t.clk.run = decide (s.clk.cfg.src = 0) ∧ t.clk.lastEdge = none ∧
      t.clk.relocking = false) ∧
    (tickEn s = true → anyActive s = false → Gives (.tickCtrlEn false) s fun t =>
      tickEn t = false ∧ t.clk.run = false ∧ t.clk.fly = 0 ∧ t.clk.num = s.clk.num ∧
      ∀ c, s.clk.wait = some c → t.clk.cfg = c ∧ t.clk.wait = none) ∧
    (s.clk.srcNow = 3 → Gives .relock s fun t => t.clk.relocking = true)

/-- PTM: a request goes out when due, a response slews, a failure counts. With PTM_EN set and no request outstanding, a request is sent
at its due time and the next is due 2^PTM_IVL ms later; while the capability's Enable is 0 it counts as failed. A response within 1
ms records the offset, clears the run of failures, sets PTM_OK, and changes the rate by at most 100 ppm without stepping the
timebase; 1 ms without a response is a failure, and so is a later response. The 16th failure in a row clears PTM_OK and sets
PTM_LOST. (01_tick R13, 01_tick R14, 16_host_registers R451) -/
def Obligations.PtmRequestsAndFailures : Prop :=
  (∀ s : State, rb s (tickPg + 0x110) 0 = true → s.clk.ptmOut = none → (s.clk.tb : Int) ≤ s.clk.ptmNext →
    (Gives (.ptmRequest true) s fun t => t.clk.ptmOut = some s.clk.ptmNext ∧ (t.clk.tb : Int) = s.clk.ptmNext ∧
      t.clk.ptmNext = s.clk.ptmNext + 1000000 * uNs * 2 ^ rf s (tickPg + 0x110) 4 3) ∧
    Gives (.ptmRequest false) s fun t => t.clk.ptmOut = none ∧ t.clk.ptmFails = s.clk.ptmFails + 1) ∧
  (∀ (s : State) (o x : Int), s.clk.ptmOut = some x → (s.clk.tb : Int) ≤ x + 1000000 * uNs → Gives (.ptmResponse o) s fun t =>
    t.clk.tb = s.clk.tb ∧ t.clk.ptmOk = true ∧ t.clk.ptmFails = 0 ∧ t.clk.ptmOut = none ∧
    t.clk.ptmOfs = clampI (-(2 ^ 31 - 1)) (2 ^ 31 - 1) o ∧
    -100000 ≤ t.clk.rate ∧ t.clk.rate ≤ 100000) ∧
  (∀ (s : State) (o x : Int), s.clk.ptmOut = some x → x + 1000000 * uNs < s.clk.tb → Gives (.ptmResponse o) s fun t =>
    t.clk.ptmOut = none ∧ t.clk.ptmFails = s.clk.ptmFails + 1) ∧
  ∀ s : State, s.clk.ptmOut.isSome = true → Gives .ptmTimeout s fun t =>
    t.clk.ptmOut = none ∧ t.clk.ptmFails = s.clk.ptmFails + 1 ∧
    (s.clk.ptmFails = 15 → t.clk.ptmOk = false ∧ rb t (tickPg + 0x14) 6 = true)

/-- TICK_IN edges are accepted inside the window of the previous device edge and rejected outside. While the source is TICK_IN or its
flywheel, a TICK_IN edge with at least 100 ns of high level before it, at a time not yet past, is accepted when it falls in the
window of the previous device edge: the device edge is due 200 ns later, and the flywheel run ends. Outside the window it is
rejected and sets PG_EVT.TICKIN_REJECT with no edge due. An edge after a shorter high level changes nothing. 64 periods after EN
with no accepted edge the source falls back to the internal one. (01_tick R18, 01_tick R20, 01_tick R23) -/
def Obligations.TickInEdgesAreJudgedByTheWindow : Prop :=
  (∀ (s : State) (time high : Nat) (e x : Int), x = (time * uNs : Nat) → tickEn s = true → (s.clk.srcNow = 1 ∨ s.clk.srcNow = 2) → s.clk.toFb = false →
    s.clk.due = none → s.clk.lastEdge = some e → s.clk.tb ≤ time * uNs → 100 ≤ high →
    (e + perNow s ≤ x + perNow s / 1000 ∧ x ≤ e + perNow s + perNow s / 1000 →
      Gives (.tickInEdge time high) s fun t =>
        t.clk.due = some (x + 200 * uNs) ∧ t.clk.fly = 0 ∧ t.clk.srcNow = 1 ∧ t.clk.tb = time * uNs ∧
        (s.clk.fly ≠ 0 → rb t (tickPg + 0x14) 3 = true)) ∧
    (¬(e + perNow s ≤ x + perNow s / 1000 ∧ x ≤ e + perNow s + perNow s / 1000) →
      Gives (.tickInEdge time high) s fun t => t.clk.due = none ∧ t.clk.fly = s.clk.fly ∧ rb t (tickPg + 0x14) 0 = true)) ∧
  (∀ (s : State) (time high : Nat), high < 100 → exec (.tickInEdge time high) s = Host.Outcome.next s) ∧
  ∀ s : State, tickEn s = true → s.clk.due = none → s.clk.srcNow = 1 → s.clk.lastEdge = none →
    (s.clk.tb : Int) ≤ s.clk.enAt + 64 * perNow s → Gives .fallbackTimeout s fun t =>
      t.clk.srcNow = 3 ∧ t.clk.run = true ∧ (t.clk.tb : Int) = s.clk.enAt + 64 * perNow s ∧ t.clk.fbEdge.isSome = true ∧ rb t (tickPg + 0x14) 2 = true

/-- An edge, the end of dispatch, the commit window and the flip each do their part of the tick. The next device edge, when it is of the
kind the command names and the previous tick is complete (or a LOAD, a new period or a new source cuts it short), gives TICK_NUM the
next number (0 at the first), restarts the cycle count, opens the dispatch window, and falls at its time where no pitch runs; a
flywheel edge makes the run one longer, sets SRC_NOW to 2 and, as the first of a run, sets PG_EVT.FLYWHEEL. DISPATCH_END ends
dispatch at cycle 50,000: a lane whose copies are not complete, which the free value tells (log entry 15), is late with cause
NOT_BOUND, and the pitches open. The commit window opens at its cycle and fixes the flip set of every partition in RUNNING or
MAINTENANCE, the lanes that are done. FLIP, at the last cycle of the window, ends every lane; a lane of the flip set that has not
faulted advances the SEQ of its stream and exchanges its sides. INGEST_CUTOFF, 200 µs before the predicted edge, marks the cut-off
of the coming tick. (01_tick R17, 01_tick R20, 01_tick R25, 01_tick R26, 01_tick R28, 01_tick R30, 01_tick R31, 01_tick R32,
02_partitions_pitches R55, 07_streams_state R199, 11_ingest R313, 11_ingest R338) -/
def Obligations.EdgesRunTheTick : Prop :=
  (∀ (s : State) (t : Int) (fly : Bool), nextEdge s = some (t, fly) → (edgeReady s || edgeEarly s t) = true →
    Gives (if fly then .flywheelEdge else .tickEdge) s fun u =>
      u.clk.num = (if s.clk.seen then (s.clk.num + 1) % 2 ^ 64 else 0) ∧ u.clk.seen = true ∧ u.clk.cyc = 0 ∧ u.clk.phase = .dispatch ∧
      u.clk.run = true ∧ u.clk.cutDone = false ∧ u.clk.lastEdge = some (u.clk.tb : Int) ∧ u.clk.tickOut = some (u.clk.tb : Int) ∧
      ((s.clk.tb : Int) ≤ t → (∀ n, n < 16 → (part s n).pitch = none) → (u.clk.tb : Int) = t) ∧
      (fly = true → s.clk.wait = none → u.clk.fly = s.clk.fly + 1 ∧ u.clk.srcNow = 2 ∧ (s.clk.fly = 0 → rb u (tickPg + 0x14) 1 = true))) ∧
  (∀ s : State, s.clk.phase = .dispatch → Gives .dispatchEnd s fun u =>
    u.clk.phase = .pitches ∧ u.clk.cyc = max s.clk.cyc (50000 * uCyc s.clk.op) ∧ u.clk.num = s.clk.num ∧
    (∀ i k x, (copyLanes s)[i]? = some k → bitAt (Config.freeNat s.free) i = true → lane s k = some x → x.late = none →
      (lane u k).map Lane.late = some (some 1)) ∧
    (copyLanes s = [] → u.free = s.free) ∧
    ∀ n, n < 16 → (part s n).st = .running ∨ (part s n).st = .maintenance → steadyOf s n = false → (part u n).seg.isSome = true) ∧
  (∀ s : State, s.clk.phase = .pitches → Gives .commitWindowOpen s fun u =>
    u.clk.phase = .commit ∧ commitStart s * uCyc s.clk.op ≤ u.clk.cyc ∧ u.clk.num = s.clk.num ∧
    ∀ n, n < 16 → (part u n).st = .running ∨ (part u n).st = .maintenance →
      (part u n).flipSet = some ((partLanes u n).filterMap fun p => if laneDone u p.1 p.2 then some p.1 else none)) ∧
  (∀ s : State, s.clk.phase = .commit → Gives .flip s fun u =>
    u.clk.phase = .guard ∧ u.clk.cyc = max s.clk.cyc ((commitEnd s - 1) * uCyc s.clk.op) ∧ u.clk.num = s.clk.num ∧
    (∀ n, n < 16 → (part s n).st ≠ .off → partLanes u n = [] ∧ (part u n).flipSet = none) ∧
    ∀ (k : Nat) (x : Lane), s.lanes.filter (fun p => p.2.map Lane.handle = some x.handle) = [(k, some x)] → lanePart k < 16 →
      (part s (lanePart k)).st ≠ .off → x.fault = false → k ∈ (part s (lanePart k)).flipSet.getD [] →
      (strm u x.handle).seq = (strm s x.handle).seq + 1 ∧ (strm u x.handle).lastSeq = (strm s x.handle).seq + 1 ∧
      (strm u x.handle).side = 1 - (strm s x.handle).side) ∧
  ∀ (s : State) (e : Int) (outs : List (Option (List Byte))), predicted s = some e → s.clk.cutDone = false → s.clk.phase ≠ .stopped →
    Gives (.ingestCutoff outs) s fun u =>
      u.clk.cutDone = true ∧ u.clk.num = s.clk.num ∧ u.clk.phase = s.clk.phase ∧
      u.clk.tb = max s.clk.tb (e - 200000 * uNs).toNat ∧
      ∀ n, n < 16 → activeSt (part s n).st = true → (ing s n).cuts = [] → sdiff (ing s n).rd (rdN s (ingPg n + 0x10C)) < 0 →
        (ing u n).cuts = [(rdN s (ingPg n + 0x10C), s.clk.num + 1)]

/-- Partition commands are accepted from their legal states and wait for their edge. With the device ready and no command pending:
CONFIGURE takes an OFF partition to CONFIGURING and RECONFIG a READY one, at once, with PG_EVT.STATE_CHG; START (while tick
generation runs) and MAINT of a READY partition wait for the next edge; STOP of a RUNNING and RESUME of a MAINTENANCE partition wait
for the next edge when written before the commit window opens and for the one after it otherwise. A command that waits leaves STATE
as it is, and PART_STAT.CMD_PEND reads 1; at the edge it waited for the state changes. Other partitions are unchanged, and so are
HBM, host memory, scratchpads, streams and lanes. (02_partitions_pitches R41, 02_partitions_pitches R43) -/
def Obligations.PartitionCommandsMoveTheState : Prop :=
  (∀ (s : State) (n : Fin 16), hostReady s = true → cmdPend s n = false →
    ((part s n).st = .off → Gives (.configure n) s fun t => (part t n).st = .configuring ∧ rb t (partPg n + 0x14) 0 = true) ∧
    ((part s n).st = .ready → Gives (.reconfig n) s fun t => (part t n).st = .configuring ∧ rb t (partPg n + 0x14) 0 = true) ∧
    ((part s n).st = .ready → s.clk.run = true → Gives (.start n) s fun t =>
      (part t n).cmd = some (.start, numAfter s 1) ∧ (part t n).st = .ready ∧ bitAt (partStat t n) 8 = true) ∧
    ((part s n).st = .ready → Gives (.maint n) s fun t =>
      (part t n).cmd = some (.maint, numAfter s 1) ∧ (part t n).st = .ready ∧ bitAt (partStat t n) 8 = true) ∧
    ((part s n).st = .running → Gives (.stop n) s fun t =>
      (part t n).cmd = some (.stop, numAfter s (stopEdge s)) ∧ (part t n).st = .running ∧ bitAt (partStat t n) 8 = true) ∧
    ((part s n).st = .maintenance → Gives (.resume n) s fun t =>
      (part t n).cmd = some (.resume, numAfter s (stopEdge s)) ∧ (part t n).st = .maintenance ∧ bitAt (partStat t n) 8 = true)) ∧
  (∀ s : State, s.clk.phase = .dispatch → stopEdge s = 1) ∧ (∀ s : State, s.clk.phase = .commit → stopEdge s = 2) ∧
  (∀ (s : State) (n k : Nat), (part s n).cmd = some (.start, s.clk.num) → (part (cmdEdge s n) n).st = .running ∧
    (part (cmdEdge s n) n).cmd = none ∧ (k ≠ s.clk.num → cmdEdge (modPart s n fun p => { p with cmd := some (.start, k) }) n =
      modPart s n fun p => { p with cmd := some (.start, k) })) ∧
  ∀ (s t : State) (n : Fin 16) (c : Instr), c ∈ [.configure n, .reconfig n, .start n, .maint n, .stop n, .resume n] →
    exec c s = Host.Outcome.next t →
    (∀ m, m ≠ n.val → part t m = part s m) ∧ t.hbm = s.hbm ∧ t.hostMem = s.hostMem ∧ t.slots = s.slots ∧ t.strms = s.strms ∧
    t.lanes = s.lanes ∧ t.clus = s.clus ∧ t.clk = s.clk ∧ ∀ a, a / 4096 ≠ 0x200 + n.val → rd t a = rd s a

/-- CMD_PEND reads 1 while a command waits; every command but TEARDOWN gets cause 7; TEARDOWN cancels it. While a command of a partition
waits for an edge, PART_STAT.CMD_PEND reads 1; every PART_CMD code other than 0 (none) and TEARDOWN, the reserved ones included,
leaves the partition as it is but for the cause 7 and raises PG_EVT.CMD_REJ; and TEARDOWN, where its source state allows it, leaves
no command waiting. (R47) -/
def Obligations.PendingCommandsBarAllButTeardown : Prop :=
  ∀ (s : State) (n : Fin 16), (part s n).cmd.isSome = true →
    bitAt (partStat s n) 8 = true ∧
    (∀ code, code ≠ 0 → code ≠ 8 → part (partCmdWord n code s) n = { part s n with rej := 7 } ∧
      rb (partCmdWord n code s) (partPg n + 0x14) 1 = true) ∧
    (hostReady s = true → ∀ c ∈ [Instr.configure n, .commit n, .start n, .stop n, .maint n, .resume n, .reconfig n, .tblSwap n],
      Gives c s fun t => part t n = { part s n with rej := 7 } ∧ rb t (partPg n + 0x14) 1 = true) ∧
    (hostReady s = true → tearable (part s n).st = true → Gives (.teardown n) s fun t => (part t n).cmd = none)

/-- Of two COMMITs in one cycle that name a common cluster the lower-numbered partition is accepted. Let partitions n < k name a common
cluster. If the COMMIT of k was accepted earlier in this cycle and n passes every check, the COMMIT of n is accepted and k is
CONFIGURING again with cause 2. If n holds the cluster already, the COMMIT of k is rejected with cause 2. (R48) -/
def Obligations.SimultaneousCommitsYieldToTheLowerPartition : Prop :=
  ∀ (s : State) (n k : Fin 16) (c : Nat), n.val < k.val → c ∈ members s n → isMember s k c = true → hostReady s = true →
    ((part s k).st = .ready → (part s k).comAt = some (comNow s) → commitChecks s n = true →
      Gives (.commit n) s fun t => (part t n).st = .ready ∧ (part t k).st = .configuring ∧ (part t k).rej = 2) ∧
    (holds (part s n).st = true → (part s k).st = .configuring → cmdPend s k = false → s.clk.wait = none →
      connected (members s k) = true → c ∈ members s k →
      Gives (.commit k) s fun t => (part t k).st = .configuring ∧ (part t k).rej = 2 ∧ (part t n).st = (part s n).st)

/-- COMMIT, TBL_SWAP, TEARDOWN and the end of zeroisation. A COMMIT of a CONFIGURING partition that passes every check makes it READY
and its member clusters its own; one whose membership is not connected is rejected with cause 1, one whose member is held by another
partition with cause 2, and the partition stays CONFIGURING. A TBL_SWAP that passes puts the shadow table in force at once in READY
and sets TBL_PEND otherwise. TEARDOWN outside the commit window begins ZEROISING at once and cancels a waiting command. At its end
the partition is OFF, PG_EVT.ZEROISED is set, and the scratchpad slots, handle tables, bundle memories and control-core memories of
its members (those no other partition holds) read zero, with tags EMPTY. (02_partitions_pitches R42, 02_partitions_pitches R44,
02_partitions_pitches R52, 02_partitions_pitches R53) -/
def Obligations.CommitSwapTeardownAndZeroise : Prop :=
  (∀ (s : State) (n : Fin 16), hostReady s = true →
    (commitChecks s n = true → Gives (.commit n) s fun t =>
      (part t n).st = .ready ∧ ∀ c ∈ members s n, (clu t c).part = n.val) ∧
    ((part s n).st = .configuring → cmdPend s n = false → s.clk.wait = none → connected (members s n) = false →
      Gives (.commit n) s fun t => (part t n).st = .configuring ∧ (part t n).rej = 1 ∧ rb t (partPg n + 0x14) 1 = true) ∧
    ((part s n).st = .configuring → cmdPend s n = false → s.clk.wait = none → connected (members s n) = true →
      membersTaken s n = true → Gives (.commit n) s fun t => (part t n).st = .configuring ∧ (part t n).rej = 2) ∧
    (activeSt (part s n).st = true → cmdPend s n = false → (part s n).tblPend = false →
      (judgeTbl s n (shadowTbl s n)).2 = none → Gives (.tblSwap n) s fun t =>
        ((part s n).st = .ready → (part t n).tblPend = false ∧ rb t (partPg n + 0x14) 7 = true ∧
          ∀ e < 64, tblEntry t n e = rd64 s (tblPg n + 0x300 + 8 * e)) ∧
        ((part s n).st ≠ .ready → (part t n).tblPend = true)) ∧
    (tearable (part s n).st = true → s.clk.phase ≠ .commit → Gives (.teardown n) s fun t =>
      (part t n).st = .zeroising ∧ (part t n).cmd = none ∧ (part t n).pitch = none)) ∧
  ∀ (s : State) (n : Fin 16), (part s n).st = .zeroising → Gives (.zeroiseDone n) s fun t =>
    (part t n).st = .off ∧ rb t (partPg n + 0x14) 6 = true ∧
    ∀ c ∈ members s n, taken s n c = false →
      (∀ k < 16, ∀ i < 1024, slotAt t (16 * c + k) i = {}) ∧ (∀ h < 1024, hentry t c h = 0) ∧
      (∀ i < 2048, bundleAt t c i = 0) ∧ ∀ a < 65536, memGet 0 t.ccmem (65536 * c + a) = 0

/-- Partition faults, function-level resets, configuration and table writes, REARM. Outside the commit window a fault of a READY,
RUNNING or MAINTENANCE partition that names a member makes it FAULTED, sets PART_FAULT and cancels a waiting command. A function-
level reset of an enabled VF tears its partition down as TEARDOWN does. In CONFIGURING, unlocked and with no job loaded, PART_CFG
and PART_CLMASK take the bits written; in another state the write is ignored and sets CMD_REJ (either way a locked TDI goes to
ERROR). A LO write of a table entry sets its staging word and leaves the entry; the HI write that follows gives the entry both
halves. JOB_CTRL.REARM is taken. (02_partitions_pitches R46, 02_partitions_pitches R49, 02_partitions_pitches R67,
02_partitions_pitches R71, 02_partitions_pitches R72) -/
def Obligations.PartitionFaultsResetsAndTableWrites : Prop :=
  (∀ (s : State) (n : Fin 16) (k : PartFaultCase), activeSt (part s n).st = true → s.clk.phase ≠ .commit →
    (k = .lockstep ∨ ∃ c : Fin 256, (k = .memUe c ∨ k = .hwError c) ∧ isMember s n c = true) →
    Gives (.partFault n k) s fun t => (part t n).st = .faulted ∧ (part t n).cmd = none ∧ rb t (partPg n + 0x14) 3 = true) ∧
  (∀ (s : State) (k : Fin 16), hostUp s = true → k.val < numVfs s → tearable (part s k).st = true →
    s.clk.phase ≠ .commit → Gives (.vfFlr k) s fun t => (part t k).st = .zeroising) ∧
  (∀ (s : State) (n : Fin 16) (w : Fin 9) (v : Word), hostReady s = true → locked s (partPg n) = false →
    ((part s n).st = .configuring → loadedJobs s n = [] → Gives (.partCfgWrite n w v) s fun t =>
      rdN t (partPg n + (if w.val = 0 then 0x100 else 0x10C + 4 * w.val)) = Nat.land v.toNat (cfgMask w)) ∧
    ((part s n).st ≠ .configuring → exec (.partCfgWrite n w v) s = Host.Outcome.next
      (pfTdiErr (setEvt s (partPg n) 1 (5 * 2 ^ 20 + (if w.val = 0 then 0x100 else 0x10C + 4 * w.val))) n))) ∧
  (∀ (s : State) (n : Fin 16) (sh : Bool) (e : Fin 64) (lo hi : Word), hostReady s = true → entOpen s n sh = true →
    Gives (.tblEntryLoWrite n sh e lo) s fun t => t.regs = s.regs ∧ stageOf t n sh e = lo ∧
      Gives (.tblEntryHiWrite n sh e hi) t fun u =>
        rd u (entAddr n sh e) = lo ∧ rd u (entAddr n sh e + 4) = hi ∧ stageOf u n sh e = lo) ∧
  ∀ (s : State) (n j : Fin 16), hostReady s = true → Gives (.rearm n j) s fun t => (job t n j).rearm = true

/-- Pitches start in START order, switch, and end at their halt or at their limit. In the pitches of a tick the next entry in START
order starts when no pitch holds the cores: a real-time one, and every one in steady mode, at its START with its limit at START +
BUDGET; a best-effort one at the recorded end of the preceding pitch, with the grant that its share gives it of the segment's pool
and its limit within the segment; the pitch of a halted job ends where it starts. SWITCH_DONE, when no teardown and no transfer that
bars it is left and t0 lies before the limit, starts issue: the job's attention buffers are EMPTY, every core of every member is
cleared, and every member stands before bundle 0 with its PITCH handler entered; after a switch of jobs the job is the last to have
run. PITCH_LIMIT ends the pitch; one that has not started issue, or has nothing in flight and has not halted, is stopped there, and
a real-time one raises PG_EVT.BUDGET_OVR. PITCH_END ends the pitch of a partition whose members have all halted with no transfer
left, by its limit. A pitch's cycles count as elapsed. JOB_TEARDOWN_DONE ends the teardown of a fault, and a pitch that waits for it
has waited. (02_partitions_pitches R54, 02_partitions_pitches R55, 02_partitions_pitches R57, 02_partitions_pitches R58,
02_partitions_pitches R65, 02_partitions_pitches R67, 03_tick_programs R79, 03_tick_programs R82, 08_attention R228,
02_partitions_pitches R62) -/
def Obligations.PitchesStartSwitchAndEnd : Prop :=
  (∀ (s : State) (n : Fin 16) (e : Fin 64), let w := tblEntry s n e
    pitchStartOk s n e = true →
    ((job s n (teJob w)).halted = false → (teBe w = false ∨ steadyOf s n = true) → Gives (.pitchStart n e) s fun t =>
      (part t n).pitch = some { entry := e, job := teJob w, rt := !teBe w, start := teStart w, limit := teStart w + teBudget w } ∧
      e.val ∈ (part t n).started) ∧
    ((job s n (teJob w)).halted = false → teBe w = true → steadyOf s n = false → Gives (.pitchStart n e) s fun t =>
      e.val ∈ (part t n).started ∧ ∃ p, (part t n).pitch = some p ∧ p.entry = e ∧ p.job = teJob w ∧ p.rt = false ∧ p.t0 = none ∧
        p.start = (part s n).pitchTo ∧ p.limit ≤ p.start + teBudget w + p.grant ∧ ((part s n).seg = none → p.grant = 0) ∧
        ∀ g, (part s n).seg = some g → p.limit ≤ g.segEnd ∧
          ∀ b ∈ g.left.find? (fun b => b.1 = e.val), (g.left.foldl (fun a b => a + b.2.2) 0 ≠ 0 →
            p.grant = g.pool.toNat * b.2.2 / g.left.foldl (fun a b => a + b.2.2) 0)) ∧
    ((job s n (teJob w)).halted = true → Gives (.pitchStart n e) s fun t =>
      (part t n).pitch = none ∧ e.val ∈ (part t n).started ∧ (part t n).pitchTo = pitchFrom s n e)) ∧
  (∀ (s : State) (n : Fin 16) (extra : Nat) (p : Pitch), (part s n).pitch = some p → p.t0 = none → tearBusy s n = false →
    t0Of s n p extra < p.limit →
    transfersLeft s n ((part s n).lastJob.getD 16) (attnSlots s n (job s n p.job).img) = false →
    (noSwitch s n p = true ∨ ((job s n p.job).img.paged = false ∧
      ∀ c ∈ members s n, listOf (job s n p.job).img.fetchList (job s n p.job).img c = [] ∧
        ∀ j, (part s n).lastJob = some j → listOf (job s n j).img.evictList (job s n j).img c = [])) →
    Gives (.switchDone n extra) s fun t =>
      (∃ q, (part t n).pitch = some q ∧ q.t0 = some (t0Of s n p extra) ∧ q.job = p.job ∧ q.limit = p.limit) ∧
      (∀ c ∈ members s n, (clu t c).run = true ∧ (clu t c).pc = 0 ∧ (clu t c).icyc = 0 ∧ (clu t c).hnd.isSome = true ∧
        ∀ k, k < 16 → coreAt t (16 * c + k) = {}) ∧
      (∀ q ∈ attnSlots s n (job s n p.job).img, (slotAt t q.1 q.2).full = false) ∧
      (noSwitch s n p = false → (part t n).lastJob = some p.job)) ∧
  (∀ (s : State) (n : Fin 16) (p : Pitch), (part s n).pitch = some p → beforeEnd s p.limit = true → Gives (.pitchLimit n) s fun t =>
    (part t n).pitch = none ∧ (∀ c ∈ members s n, (clu t c).run = false) ∧
    ((p.t0 = none ∨ (pitchHalted s n p = false ∧
        ∀ c ∈ members s n, inFlight s c = false ∧ (clu s c).far = [] ∧ (clu s c).halting = false)) →
      (part t n).elap = (part s n).elap + (p.limit - p.start) ∧ (part t n).pitchTo = p.limit ∧
      (p.rt = true → rb t (partPg n + 0x14) 4 = true))) ∧
  (∀ (s : State) (n : Fin 16) (cycle : Nat) (p : Pitch), (part s n).pitch = some p → p.t0.isSome = true → beforeEnd s p.limit = true →
    (∀ c ∈ members s n, clusDone s c = true) → Gives (.pitchEnd n cycle) s fun t =>
      (part t n).pitch = none ∧ (part t n).pitchTo ≤ p.limit ∧
      (part t n).elap = (part s n).elap + ((part t n).pitchTo - p.start) ∧
      ∀ c ∈ members s n, (clu t c).run = false ∧ (clu t c).wait = none ∧ (clu t c).effs = [] ∧ (clu t c).runs = []) ∧
  ∀ (s : State) (n j : Fin 16) (w : Nat), (job s n j).busy.isSome = true → Gives (.jobTeardownDone n j w) s fun t =>
    (job t n j).busy = none ∧ ∀ p, (part s n).pitch = some p → p.t0 = none →
      ∃ q, (part t n).pitch = some q ∧ q.tearW = max p.tearW (min w 2048)

/-- LOAD and UNLOAD are taken when the loader is idle; their end installs, removes, or names the failing check. A LOAD or UNLOAD by a
requester that may write LOAD_CMD, while LOAD_STAT.BUSY is 0, is taken with the address and length registers as they stand, and BUSY
reads 1; while BUSY it is ignored with CMD_REJ. At LOAD_DONE an image that passes every check is installed, and one that fails gives
its check's number in LOAD_STAT with CMD_REJ, and neither a job nor a program memory changes. At UNLOAD_DONE a job that check 1
allows is removed: it is no longer loaded. (03_tick_programs R98, 03_tick_programs R99, 03_tick_programs R100) -/
def Obligations.LoaderCommandsCheckAndInstall : Prop :=
  (∀ (r : Requester) (s : State) (n j : Fin 16), wOk s r (partPg n + 0x28C) = true → rb s (loadStat n) 1 = false →
    (Gives (.load r n j) s fun t => rb t (loadStat n) 1 = true ∧ (part t n).loadOp = some {
      unload := false, job := j, addr := rd64 s (partPg n + 0x280) % 2 ^ 48, len := rdN s (partPg n + 0x288) }) ∧
    Gives (.unload r n j) s fun t => rb t (loadStat n) 1 = true ∧ (part t n).loadOp = some {
      unload := true, job := j, addr := rd64 s (partPg n + 0x280) % 2 ^ 48, len := rdN s (partPg n + 0x288) }) ∧
  (∀ (r : Requester) (s : State) (n j : Fin 16), wOk s r (partPg n + 0x28C) = true → rb s (loadStat n) 1 = true →
    ∀ i ∈ [Instr.load r n j, .unload r n j], Gives i s fun t => t.parts = s.parts ∧ rb t (partPg n + 0x14) 1 = true) ∧
  (∀ (s : State) (n : Fin 16) (o : LoadOp), (part s n).loadOp = some o → o.unload = false →
    (∀ p, loadFind s n o = .inr p → Gives (.loadDone n) s fun t =>
      (job t n o.job).loaded = true ∧ ∃ u, t = install u n o.job p ∧ rf u (loadStat n) 0 2 = 1 ∧ (part u n).loadOp = none) ∧
    ∀ e, loadFind s n o = .inl e → e.code < 16 → e.slice < 256 → o.job < 16 → Gives (.loadDone n) s fun t =>
      rf t (loadStat n) 24 8 = e.code ∧ rf t (loadStat n) 0 2 = 0 ∧ rb t (partPg n + 0x14) 1 = true ∧
      (part t n).jobs = (part s n).jobs ∧ t.bundles = s.bundles ∧ t.ccmem = s.ccmem) ∧
  ∀ (s : State) (n : Fin 16) (o : LoadOp), (part s n).loadOp = some o → o.unload = true →
    (check1 s n o.job true = true → Gives (.unloadDone n) s fun t => (job t n o.job).loaded = false) ∧
    (check1 s n o.job true = false → Gives (.unloadDone n) s fun t =>
      (part t n).jobs = (part s n).jobs ∧ rb t (partPg n + 0x14) 1 = true)

/-- A cluster's sequencer opens and closes loops, samples and takes branches, synchronises, halts and clears stalls. Let u be the state
once the cluster has stepped over the bundles with nothing left to do. A LOOP_S due in u opens a loop at its bundle with the
immediate's count; a LOOP_E due in u goes back or falls through; a BP whose arm has been sampled runs that arm; the sample takes SEL
where CC_ALTSEL is valid for the branch point's BPID and arm A otherwise, and clears VALID; HALT ends the slice: the cluster runs
out what is in flight and has halted once nothing is, for its job; SYNC reports the bundle index, and a report that differs makes
the partition FAULTED outside the commit window. A stall whose cause has cleared ends: the cluster has frozen as long and goes on,
and every other member freezes as long from 4 cycles per hop after it froze. (03_tick_programs R78, 03_tick_programs R79,
03_tick_programs R83, 03_tick_programs R84, 03_tick_programs R87, 03_tick_programs R89) -/
def Obligations.SequencersRunLoopsBranchesAndHalt : Prop :=
  (∀ (s : State) (c : Fin 256), let u := settle s c
    (canDo u c 0 = true → Gives (.loopS c) s fun t =>
      (clu t c).loops = { first := (clu u c).pc, left := fld (bImm (curBundle u c)) 0 24 } :: (clu u c).loops ∧ 0 ∈ (clu t c).did) ∧
    (canDo u c 3 = true → bLoopE (curBundle u c) = true → exec (.loopE c) s = Host.Outcome.next
      (moveTo (markDid u c 3) c (ctlClose (ctlOf (clu u c))) (match (clu u c).loops with | l :: _ => decide (l.left ≠ 0) | [] => false))) ∧
    (∀ armB, (clu u c).sel = some ((clu u c).pc, armB) → canDo u c 1 = true → exec (.bp c) s = Host.Outcome.next
      (moveTo (modClu (markDid u c 1) c fun x => { x with sel := none }) c (ctlBranch (ctlOf (clu u c)) (curBundle u c) armB) false)) ∧
    (∀ pc, (clu u c).run = true → (clu u c).halting = false → (clu u c).wait = none → (clu u c).sel = none →
      findBp u c 17 (ctlOf (clu u c)) ((clu u c).did.contains 0) = some pc →
      Gives (.altselSample c) s fun t => (clu t c).altV = false ∧ (clu t c).sel = some (pc,
        (clu u c).altV && (clu u c).altBp = fld (bImm ((sliceBundle u c pc).getD 0)) 36 12 && (clu u c).altSel) ∧
        ((clu u c).altV = false → rb t (clPg c + 0x14) 0 = true) ∧
        ((clu u c).altV = true → (clu u c).altBp ≠ fld (bImm ((sliceBundle u c pc).getD 0)) 36 12 → rb t (clPg c + 0x14) 1 = true)) ∧
    (canDo u c 3 = true → bHalt (curBundle u c) = true → Gives (.halt c) s fun t =>
      (clu t c).halting = true ∧ curJob u c ∈ (clu t c).haltJ ∧
      (inFlight u c = false → (clu u c).far = [] → (clu t c).halted = true)) ∧
    (canDo u c 2 = true → syncDiffers u (curPart u c) c (clu u c).pc = false → Gives (.sync c) s fun t =>
      (c.val, (clu u c).pc) ∈ (part t (curPart u c)).syncs ∧ (part t (curPart u c)).st = (part u (curPart u c)).st) ∧
    (canDo u c 2 = true → syncDiffers u (curPart u c) c (clu u c).pc = true → activeSt (part u (curPart u c)).st = true →
      u.clk.phase ≠ .commit → Gives (.sync c) s fun t => (part t (curPart u c)).st = .faulted)) ∧
  ∀ (s : State) (c : Fin 256) (w : Wait) (k : Nat), (clu s c).wait = some w → waitOver s c w = true → w ≠ .port →
    exec (.stallClear c k) s = Host.Outcome.next (settle (loadwAfter (endStall s c k) c) c) ∧
    ((clu s c).halting = false → inFlight s c = false → (clu s c).far = [] → (curImg s c).paged = false → bundleDone s c = false →
      Gives (.stallClear c k) s fun t => (clu t c).wait = none ∧ (clu t c).frz = (clu s c).frz + k ∧
        ∀ m ∈ members s (clu s c).part, m ≠ c.val →
          (clu t m).far = (clu s m).far ++ [((clu s c).waitAt + 4 * hops (members s (clu s c).part) c m, k)])

/-- A loop opened with an immediate of k runs its body k + 1 times. Open a loop at LOOP_S with an immediate of k, and close it at a
LOOP_E in bundle e each time issue gets there: the first k closes go back to the loop's first bundle, and the next one falls through
to the bundle after e with the loop closed. (03_tick_programs R78) -/
def Obligations.LoopsRunTheirCount : Prop :=
  ∀ (k0 : Ctl) (b : Bundle) (e : Nat), let k := fld (bImm b) 0 24
    let turn (x : Ctl) : Ctl := ctlClose { x with pc := e }
    (∀ j, 0 < j → j ≤ k → (Nat.repeat turn j (ctlOpen k0 b)).pc = k0.pc ∧
      (Nat.repeat turn j (ctlOpen k0 b)).loops = { first := k0.pc, left := k - j } :: k0.loops) ∧
    Nat.repeat turn (k + 1) (ctlOpen k0 b) = ctlStep { k0 with pc := e }

/-- While its handler runs, the control core's accesses to the interface window have their effects. While a handler runs unheld: a store
to CC_ALTSEL makes the selection valid with its SEL and BPID; a descriptor joins queue 0 while it holds fewer than 64, and holds the
core otherwise; a deferral in the dispatch window makes a bound lane late with cause DEFERRED unless a cause stands; a pop returns
the head of the summary FIFO and latches its high word, or returns 0 when it is empty; BELAY_SAME outside the commit window marks a
bound lane; WFI ends the handler and the next in turn runs; an exception is recorded in CC_FAULT's kind, raises the cluster's event
and faults the job. The SUMMARY handler starts when the FIFO is not empty and no handler runs, and a post that is due enters the
FIFO. (03_tick_programs R89, 03_tick_programs R91, 03_tick_programs R94, 03_tick_programs R95, 03_tick_programs R96, 00_scope R9) -/
def Obligations.ControlCoreWindowActs : Prop :=
  (∀ (s : State) (c : Fin 256) (v : Word) (d : BitVec 512), ccRuns s c = true →
    (Gives (.ccAltsel c v) s fun t => (clu t c).altV = true ∧ (clu t c).altSel = bitAt v.toNat 12 ∧ (clu t c).altBp = wfld v 0 12) ∧
    ((clu s c).q0.length < 64 → Gives (.ccDesc c d) s fun t => ((clu t c).q0.map Desc.d) = ((clu s c).q0.map Desc.d) ++ [d]) ∧
    (64 ≤ (clu s c).q0.length → Gives (.ccDesc c d) s fun t => (clu t c).q0 = (clu s c).q0 ∧ (clu t c).held = some d) ∧
    (∀ l, s.clk.phase = .dispatch → lane s (laneKey (clu s c).part (ccJob s c) c (wfld v 0 9)) = some l →
      Gives (.ccDefer c v) s fun t => lane t (laneKey (clu s c).part (ccJob s c) c (wfld v 0 9)) =
        some { l with late := some (l.late.getD 3) }) ∧
    ((clu s c).sum = [] → Gives (.ccSumPop c) s fun t => t.rdata = some 0 ∧ (clu t c).sum = []) ∧
    (∀ x r, (clu s c).sum = x :: r → Gives (.ccSumPop c) s fun t => t.rdata = some (x.toNat % 2 ^ 32) ∧ (clu t c).sum = r ∧
      smGet 0 t.latch (ccRequester c) = BitVec.ofNat 32 (x.toNat / 2 ^ 32)) ∧
    (∀ l, s.clk.phase = .pitches → lane s (laneKey (clu s c).part (ccJob s c) c (wfld v 0 9)) = some l →
      Gives (.ccBelaySame c v) s fun t =>
        lane t (laneKey (clu s c).part (ccJob s c) c (wfld v 0 9)) = some { l with same := true }) ∧
    ((clu s c).hndQ = [] → Gives (.wfi c) s fun t => (clu t c).hnd = none) ∧
    (∀ h j r, (clu s c).hndQ = (h, j) :: r → Gives (.wfi c) s fun t => (clu t c).hnd = some (h, j) ∧ (clu t c).hndQ = r)) ∧
  (∀ (s : State) (c : Fin 256) (k : CcKind), ccRuns s c = true → exec (.ccException c k) s = Host.Outcome.next
    (jobFault (nextHandler (setEvt (bump (wrN s (clPg c + 0x124) (16 * ccJob s c + kindCode k)) (clPg c) 0x11C) (clPg c) 3
      (16 * ccJob s c + kindCode k)) c) (clu s c).part (ccJob s c) 3)) ∧
  (∀ (s : State) (c : Fin 256), (clu s c).run = true → (clu s c).hnd = none → (clu s c).sum ≠ [] →
    Gives (.summaryHandler c) s fun t => (clu t c).hnd = some (.summary, curJob s c)) ∧
  ∀ (s : State) (c : Fin 256) (tm : Nat) (v : DWord), (clu s c).effs = [(tm, .post v)] → tm ≤ (clu s c).icyc →
    (clu s c).sum.length < 256 → Gives (.summaryPostArrival c) s fun t => (clu t c).sum = (clu s c).sum ++ [v] ∧ (clu t c).effs = []

/-- VSETVL, VMOV, VBCAST, VSEL and VCMP. On each core of the VE mask, when the op is the one to issue and no op in progress books the
VE: VSETVL sets the length to N + 1; VMOV and VBCAST leave a write of VD in flight with the operand, or the element IDX of VA in
every place, two cycles after issue; VSEL one with the elements of VA where the mask is 1 and of VB where it is 0; VCMP one of the
mask register with the truth of the comparison. A VBCAST index beyond the type's elements and a reserved condition of VCMP fault the
job with cause 3. (06_vector_gate_fusion R157, 06_vector_gate_fusion R161, 03_tick_programs R80) -/
def Obligations.VectorMovesAndMasksWriteTheirResult : Prop :=
  ∀ (s : State) (c : Fin 256), let u := atIssue s c; let w := slotBits u c .ve; let imm := bImm (curBundle u c)
    (veReady s c 0x01 = true → Gives (.vsetvl c) s fun t => ∀ k ∈ veCores u c, (coreAt t k).vl = fld w 54 6 + 1) ∧
    (veReady s c 0x04 = true → ∀ k ∈ veCores u c,
      OpLeaves (.vmov c) s c .ve [(1, veWrite (coreAt u k) k w (vB (coreAt u k) w imm))]) ∧
    (veReady s c 0x05 = true → fld w 54 6 < tyN (veTY w) → ∀ k ∈ veCores u c,
      OpLeaves (.vbcast c) s c .ve [(1, veWrite (coreAt u k) k w (List.replicate (tyN (veTY w)) (nth 0 (vA (coreAt u k) w) (fld w 54 6))))]) ∧
    (canOp (settle s c) c .ve 0x05 = true → tyN (veTY w) ≤ fld w 54 6 → veCores u c ≠ [] →
      exec (.vbcast c) s = Host.Outcome.next (clusFault u c 3)) ∧
    (veReady s c 0x06 = true → ∀ k ∈ veCores u c, ∃ l : List Nat,
      OpLeaves (.vsel c) s c .ve [(1, regWrite k (veVD w) 0 (tyW (veTY w)) l (fun i => decide (i < veLen (coreAt u k) (veTY w))) fun _ => false)] ∧
      ∀ i, i < tyN (veTY w) → l[i]? = (if bitAt (mreg (coreAt u k) (veMK w)) i then (vA (coreAt u k) w)[i]? else (vB (coreAt u k) w imm)[i]?)) ∧
    (veReady s c 0x07 = true → fld w 57 3 ≤ 5 → ∀ k ∈ veCores u c, ∃ mask val : BitVec 64,
      OpLeaves (.vcmp c) s c .ve [(lat42 w - 1, .mreg k (fld w 54 3) mask val)] ∧
      ∀ i, i < tyN (veTY w) → live (coreAt u k) (veMK w) (veTY w) i = true → mask.getLsbD i = true ∧
        val.getLsbD i = ccHolds (fld w 57 3) (cmpEl (veTY w) (nth 0 (vA (coreAt u k) w) i) (nth 0 (vB (coreAt u k) w imm) i))) ∧
    (canOp (settle s c) c .ve 0x07 = true → 5 < fld w 57 3 → veCores u c ≠ [] →
      exec (.vcmp c) s = Host.Outcome.next (clusFault u c 3))

/-- VADD, VSUB, VMUL, VFMA, VMAX, VMIN, VABS and VNEG. On each core of the VE mask, when the op is the one to issue and no op in
progress books the VE, a write of VD is in flight with the element-by-element result of VA and VB (or the immediate), and VC for
VFMA: the FP32 operation for type F32, the wrapping integer operation for the others; the latency is 4 cycles for F32 and 2 for
integers, 5 and 3 for VFMA. For F32 a live result that is infinite or a NaN leaves a setting of OF or NV in flight for the issue
cycle, which sets these bits of VE_FLAG and clears none. (06_vector_gate_fusion R161, 06_vector_gate_fusion R162,
06_vector_gate_fusion R157) -/
def Obligations.VectorArithmeticWritesAndFlags : Prop :=
  ∀ (s : State) (c : Fin 256), let u := atIssue s c; let w := slotBits u c .ve; let imm := bImm (curBundle u c)
    (∀ q ∈ [(0x08, Instr.vadd c, f32Add, fun a b : Int => a + b), (0x09, Instr.vsub c, f32Sub, fun a b => a - b),
        (0x0A, Instr.vmul c, f32Mul, fun a b => a * b), (0x0C, Instr.vmax c, f32Max, fun a b => max a b),
        (0x0D, Instr.vmin c, f32Min, fun a b => min a b)],
      veReady s c q.1 = true → ∀ k ∈ veCores u c,
        let r := zip2 (coreAt u k) w imm (if veTY w = 0 then q.2.2.1 else intOp w q.2.2.2)
        OpLeaves q.2.1 s c .ve [((if veTY w = 0 then 4 else 2) - 1, veWrite (coreAt u k) k w r)] ∧
        let fo := anyLive (coreAt u k) w r isInf; let fn := anyLive (coreAt u k) w r isNan
        (veTY w = 0 → (fo || fn) = true → OpLeaves q.2.1 s c .ve [(0, .flags k fo fn)])) ∧
    (∀ (t : State) (k : Nat) (fo fn : Bool), let t' := applyEff t c (.flags k fo fn)
      rb t' (flagReg k) 1 = (rb t (flagReg k) 1 || fo) ∧ rb t' (flagReg k) 0 = (rb t (flagReg k) 0 || fn)) ∧
    (veReady s c 0x0B = true → ∀ k ∈ veCores u c, ∃ l : List Nat,
      OpLeaves (.vfma c) s c .ve [((if veTY w = 0 then 5 else 3) - 1, veWrite (coreAt u k) k w l)] ∧
      (veTY w = 0 → (anyLive (coreAt u k) w l isInf || anyLive (coreAt u k) w l isNan) = true → OpLeaves (.vfma c) s c .ve
        [(0, .flags k (anyLive (coreAt u k) w l isInf) (anyLive (coreAt u k) w l isNan))]) ∧
      ∀ i, i < 32 → veTY w < 2 → nth 0 l i = (
        let a := nth 0 (vA (coreAt u k) w) i; let b := nth 0 (vB (coreAt u k) w imm) i; let d := nth 0 (vC (coreAt u k) w) i
        if veTY w = 0 then f32Fma a b d else lowBits 32 (sx 32 a * sx 32 b + sx 32 d))) ∧
    ∀ q ∈ [(0x0E, Instr.vabs c, f32Abs, fun a : Int => (a.natAbs : Int)), (0x0F, Instr.vneg c, f32Neg, fun a => -a)],
      veReady s c q.1 = true → ∀ k ∈ veCores u c,
        OpLeaves q.2.1 s c .ve [(lat42 w - 1, veWrite (coreAt u k) k w ((vA (coreAt u k) w).map fun a =>
          if veTY w = 0 then q.2.2.1 a else lowBits (tyW (veTY w)) (q.2.2.2 (sx (tyW (veTY w)) a))))]

/-- VAND, VOR, VXOR, VSHL, VSRA and VSRL. On each core of the VE mask, when the op is the one to issue and no op in progress books the
VE, a write of VD is in flight two cycles after issue whose elements are the bitwise function of the elements of VA and VB (or the
immediate), or VA shifted by VB modulo the element width: left modulo 2^width, right arithmetically, right logically.
(06_vector_gate_fusion R161, 06_vector_gate_fusion R157) -/
def Obligations.VectorBitOpsAndShifts : Prop :=
  ∀ (s : State) (c : Fin 256), let u := atIssue s c; let w := slotBits u c .ve; let imm := bImm (curBundle u c)
    let n := tyW (veTY w)
    ∀ q ∈ [(0x10, Instr.vand c, fun a b => Nat.land a b), (0x11, Instr.vor c, fun a b => Nat.lor a b),
        (0x12, Instr.vxor c, fun a b => Nat.xor a b), (0x13, Instr.vshl c, fun a b => a * 2 ^ (b % n) % 2 ^ n),
        (0x14, Instr.vsra c, fun a b => lowBits n (sx n a / 2 ^ (b % n))), (0x15, Instr.vsrl c, fun a b => a / 2 ^ (b % n))],
      veReady s c q.1 = true → ∀ k ∈ veCores u c,
        OpLeaves q.2.1 s c .ve [(1, veWrite (coreAt u k) k w (zip2 (coreAt u k) w imm q.2.2))]

/-- VRCP, VRSQRT, VFN, VRED, VTRED and VTILE. On each core of the VE mask, when the op is the one to issue and no op in progress books
the VE: for F32, VRCP and VRSQRT leave a write of VD with the function of every element of VA in flight ten cycles on, and VFN one
with function FN eight cycles on; an FN above 5 faults the job with cause 3. VRED leaves a write of one 32-bit element, the tree
combination of the elements that are live and not skipped, nine cycles on; VTRED one of VD whose element e combines element e of the
NM + 1 registers from VA in row order; VTILE one for row 0, of FN on VA, element or scalar of VB, and VD; with more rows it stays in
flight with VB and the mask of the issue cycle, and reads row i of VA and VD in cycle i, its write following as for row 0. A KIND
above 3 and a tile FN above 5 fault the job with cause 3. (06_vector_gate_fusion R161, 06_vector_gate_fusion R159,
06_vector_gate_fusion R166, 06_vector_gate_fusion R167, 06_vector_gate_fusion R168, 06_vector_gate_fusion R477) -/
def Obligations.VectorFunctionsReductionsAndTiles : Prop :=
  ∀ (s : State) (c : Fin 256), let u := atIssue s c; let w := slotBits u c .ve; let ty := veTY w
    let kind := fld w 57 3
    (∀ q ∈ [(0x18, Instr.vrcp c, f32Rcp), (0x19, Instr.vrsqrt c, f32Rsqrt)],
      veReady s c q.1 = true → ty = 0 → ∀ k ∈ veCores u c,
        OpLeaves q.2.1 s c .ve [(9, veWrite (coreAt u k) k w ((vA (coreAt u k) w).map q.2.2))]) ∧
    (veReady s c 0x1A = true → kind ≤ 5 → ty = 0 → ∀ k ∈ veCores u c,
      OpLeaves (.vfn c) s c .ve [(7, veWrite (coreAt u k) k w ((vA (coreAt u k) w).map (fnEval kind)))]) ∧
    (veReady s c 0x20 = true → kind ≤ 3 → ∀ k ∈ veCores u c,
      let used (i : Nat) : Bool := live (coreAt u k) (veMK w) ty i && !redSkips kind ty (nth 0 (vA (coreAt u k) w) i)
      let ins := (List.range (tyN ty)).map fun i => if used i then redIn kind ty (nth 0 (vA (coreAt u k) w) i) else redId kind ty
      OpLeaves (.vred c) s c .ve [(8, regWrite k (veVD w) (32 * fld w 52 5) 32
        [nth 0 (Nat.repeat (redLevel (redOp kind ty)) (if ty = 2 then 6 else 5) ins) 0] (fun _ => true) fun _ => false)]) ∧
    (veReady s c 0x21 = true → kind ≤ 3 → ∀ k ∈ veCores u c, ∃ l : List Nat,
      OpLeaves (.vtred c) s c .ve [(fld w 52 5 + 4, veWrite (coreAt u k) k w l)] ∧ ∀ e, e < tyN ty → nth 0 l e = (tredEl kind ty
        ((List.range (fld w 52 5 + 1)).map fun i => nth 0 (elems ty (smGet 0 (coreAt u k).v ((veVA w + i) % 32))) e)).1) ∧
    (veReady s c 0x22 = true → kind ≤ 5 → ∀ k ∈ veCores u c,
      let vb := elems ty (smGet 0 (coreAt u k).v (veVB w))
      (∃ l : List Nat, OpLeaves (.vtile c) s c .ve [((if kind = 5 then 4 else 3), regWrite k (veVD w) 0 (tyW ty) l
          (fun j => live (coreAt u k) (veMK w) ty j) fun j => veMZ w && !live (coreAt u k) (veMK w) ty j)] ∧
        ∀ j, j < tyN ty → nth 0 l j = tileOp kind w (nth 0 (elems ty (smGet 0 (coreAt u k).v (veVA w))) j)
          (nth 0 vb (if bitAt w 56 then 0 else j)) (nth 0 (elems ty (smGet 0 (coreAt u k).v (veVD w))) j)) ∧
      (0 < fld w 51 5 → ∃ m, (∀ j, j < 64 → bitAt m j = live (coreAt u k) (veMK w) ty j) ∧ Gives (.vtile c) s fun t =>
        ({ kind := .tile, core := k, start := (clu u c).icyc, bits := w, part := m, ws := vb } : OpRun) ∈ (clu t c).runs)) ∧
    (∀ (t : State) (r : OpRun), let v := r.bits; let x := coreAt t r.core; let i := r.next
      r.kind = .tile → ∃ l ef r', runStep t c r = .on (addEffs t c ((r.start + i + (if fld v 57 3 = 5 then 4 else 3),
          regWrite r.core ((veVD v + i) % 32) 0 (tyW (veTY v)) l (fun j => bitAt r.part j) fun j => veMZ v && !bitAt r.part j) :: ef)) r' ∧
        (i < fld v 51 5 → r' = { r with next := i + 1 }) ∧ (i = fld v 51 5 → r' = { r with next := 0 }) ∧
        ∀ j, j < tyN (veTY v) → nth 0 l j = tileOp (fld v 57 3) v (nth 0 (elems (veTY v) (smGet 0 x.v ((veVA v + i) % 32))) j)
          (nth 0 r.ws (if bitAt v 56 then i else j)) (nth 0 (elems (veTY v) (smGet 0 x.v ((veVD v + i) % 32))) j)) ∧
    ∀ q ∈ [(0x1A, Instr.vfn c, 5), (0x20, Instr.vred c, 3), (0x21, Instr.vtred c, 3), (0x22, Instr.vtile c, 5)],
      canOp (settle s c) c .ve q.1 = true → q.2.2 < kind → veCores u c ≠ [] → exec q.2.1 s = Host.Outcome.next (clusFault u c 3)

/-- VEXPN, VCVT, VPOST and VFLAG. On each core of the VE mask, when the op is the one to issue and no op in progress books the VE: VEXPN
leaves a write of VD with each element's exponent at the limit LIM in flight four cycles on; VCVT one of the part POS of VD with
each element converted by CV at the exponent VB gives; VPOST a summary entry of tag, core, cycle and the element, twelve cycles
after issue; VFLAG a write of element 0 with the core's two flags, which CLR clears while every flag setting already in flight stays
in flight. LIM 3 and a CV above 10 fault the job with cause 3. (06_vector_gate_fusion R161, 06_vector_gate_fusion R164,
06_vector_gate_fusion R165, 06_vector_gate_fusion R169, 06_vector_gate_fusion R170, 03_tick_programs R96) -/
def Obligations.VectorConversionsPostsAndFlags : Prop :=
  ∀ (s : State) (c : Fin 256), let u := atIssue s c; let w := slotBits u c .ve
    (veReady s c 0x28 = true → fld w 58 2 ≠ 3 → ∀ k ∈ veCores u c,
      OpLeaves (.vexpn c) s c .ve [(3, veWrite (coreAt u k) k w ((vA (coreAt u k) w).map fun a =>
        lowBits 32 (expOf32 (if fld w 58 2 = 1 then 32767 else 127) (if fld w 58 2 = 2 then -96 else -32) (f32Abs a)).1))]) ∧
    (veReady s c 0x29 = true → fld w 56 4 ≤ 10 → ∀ k ∈ veCores u c, ∃ l : List Nat,
      OpLeaves (.vcvt c) s c .ve [(3, regWrite k (veVD w) (cvBase (cvDstW (fld w 56 4)) (fld w 48 2)) (cvDstW (fld w 56 4)) l
        (fun i => live (coreAt u k) (veMK w) 0 i) fun i => veMZ w && !live (coreAt u k) (veMK w) 0 i)] ∧
      ∀ i, i < 32 → nth 0 l i = (cvEl (fld w 56 4)
        (fld (smGet 0 (coreAt u k).v (veVA w)).toNat (cvBase (cvSrcW (fld w 56 4)) (fld w 48 2) + cvSrcW (fld w 56 4) * i) (cvSrcW (fld w 56 4)))
        (sx 8 (nth 0 (elems 0 (smGet 0 (coreAt u k).v (veVB w))) (if bitAt w 50 then i else fld w 51 5)))).1) ∧
    (veReady s c 0x30 = true → ∀ k ∈ veCores u c, OpLeaves (.vpost c) s c .ve
      [(12, .post (sumEntry (fld w 48 12) (k % 16) (clu u c).icyc (nth 0 (vA (coreAt u k) w) (fld w 43 5))))]) ∧
    (veReady s c 0x31 = true → ∀ k ∈ veCores u c,
      OpLeaves (.vflag c) s c .ve [(1, veWrite (coreAt u k) k w (rdN u (flagReg k) % 4 :: List.replicate 31 0))] ∧
      (bitAt w 59 = true → Gives (.vflag c) s fun t => rdN t (flagReg k) = 0 ∧ ∀ p ∈ (clu u c).effs, p ∈ (clu t c).effs)) ∧
    (canOp (settle s c) c .ve 0x28 = true → fld w 58 2 = 3 → veCores u c ≠ [] →
      exec (.vexpn c) s = Host.Outcome.next (clusFault u c 3)) ∧
    (canOp (settle s c) c .ve 0x29 = true → 10 < fld w 56 4 → veCores u c ≠ [] →
      exec (.vcvt c) s = Host.Outcome.next (clusFault u c 3))

/-- VLD, VST, GP.CHAIN and writes of VE_FLAG. When the op is the one to issue, VLD and VST run as their reads and writes of half a slot
on each core of the VE mask say: an unmapped reference faults the job with cause 4, a slot that a VLD reads and that is not FULL
freezes the cluster, and else the effects are in flight: a write of 128 bytes' elements into VD five cycles on for VLD, the store of
half a slot two cycles on for VST. GP.CHAIN without a DRAIN that has GP = 1 and the same mask in its bundle faults the job with
cause 3; with it, its chain begins on each core of the mask. A write of VE_FLAG by a requester that may write it clears the flags
written 1. (06_vector_gate_fusion R163, 06_vector_gate_fusion R171, 06_vector_gate_fusion R189, 09_memory R255, 09_memory R266) -/
def Obligations.LoadsStoresAndGateChains : Prop :=
  (∀ (s : State) (c : Fin 256), let u := atIssue s c; let w := slotBits u c .ve; let imm := bImm (curBundle u c)
    (canOp (settle s c) c .ve 0x02 = true →
      OpRuns (.vld c) s c .ve ((veCores u c).map fun k => (k, vldPlan u c k w imm)) ∧
      ∀ k ∈ veCores u c, opSlots u c (k % 16) (fld w 36 24) 1 false = none → exec (.vld c) s = Host.Outcome.next (clusFault u c 4)) ∧
    (canOp (settle s c) c .ve 0x03 = true →
      OpRuns (.vst c) s c .ve ((veCores u c).map fun k => (k, vstPlan u c k w imm)) ∧
      ∀ k ∈ veCores u c, opSlots u c (k % 16) (fld w 36 24) 1 true = none → exec (.vst c) s = Host.Outcome.next (clusFault u c 4)) ∧
    (canOp (settle s c) c .gp 1 = true →
      (gpTogether (curBundle u c) = false → exec (.gpChain c) s = Host.Outcome.next (clusFault u c 3)) ∧
      (gpTogether (curBundle u c) = true → OpRuns (.gpChain c) s c .gp
        ((maskCores (bGpMask (curBundle u c))).map fun i => (16 * c.val + i, chainPlan u c (16 * c.val + i) (slotBits u c .gp)))))) ∧
  ∀ (r : Requester) (s : State) (c : Fin 256) (core : Fin 16) (v : Word), wOk s r (clPg c + 0x140 + 4 * core.val) = true →
    Gives (.veFlagClear r c core v) s fun t => rd t (clPg c + 0x140 + 4 * core.val) = (rd s (clPg c + 0x140 + 4 * core.val) &&& ~~~v) ∧
      t.cores = s.cores ∧ t.clus = s.clus ∧ t.hbm = s.hbm

/-- ME.MODE, CBOOK, LOADW, STREAM, DRAIN and ATTN run on each core of the ME mask. When an ME op is the one to issue it runs on each
core of the mask: MODE, while no op in progress books the ME, sets the mode and the unsigned-activation bit and clears the banks,
the exponents and the tiles, and a mode above 4, or BF16 with unsigned activations, faults the job with cause 3; CBOOK, LOADW,
STREAM, DRAIN and ATTN fault, freeze, or put their effects and later reads in flight as the plan of each core says. CBOOK's plan
leaves the entry of a TA mode's codebook in flight to every row, and outside TA modes is refused with cause 3. LOADW's reads its
slots as the port allows: a FULL slot that crosses it gives its 256 bytes, and the rows then complete go to the shadow tile, row k
in cycle 6 + k. STREAM's reads item 0 in the issue cycle and another item in each item step; without a prologue an item enters as
its codes; item 0 meets row k in the cycle after item step k, and once it has met all 32 the column sums of every item by the rows
are in flight to the bank. DRAIN's results are written from cycle 8 on. (04_matrix_engine R108, 04_matrix_engine R109,
04_matrix_engine R110, 04_matrix_engine R111, 04_matrix_engine R112, 04_matrix_engine R114, 04_matrix_engine R115, 04_matrix_engine
R121, 08_attention R236, 09_memory R261, 03_tick_programs R80) -/
def Obligations.MatrixEngineOpsRun : Prop :=
  (∀ (s : State) (c : Fin 256), let u := atIssue s c; let w := slotBits u c .me
    let plansOf (f : State → Nat → Nat → Nat → Sum Nat Plan) := (meCores u c).map fun k => (k, f u c k w)
    (canOp (settle s c) c .me 1 = true →
      (fld w 85 3 < 5 → (fld w 85 3 = 4 → bitAt w 84 = false) → (∀ k ∈ meCores u c, bookedNow u c k 0 = false) →
        Gives (.meMode c) s fun t => ∀ k ∈ meCores u c,
          (coreAt t k).mode = fld w 85 3 ∧ (coreAt t k).au = bitAt w 84 ∧ (coreAt t k).cnt0 = 0 ∧ (coreAt t k).cnt1 = 0 ∧
          coreAt t k = meClear (coreAt u k) (fld w 85 3) (bitAt w 84)) ∧
      (5 ≤ fld w 85 3 ∨ (fld w 85 3 = 4 ∧ bitAt w 84 = true) → meCores u c ≠ [] →
        exec (.meMode c) s = Host.Outcome.next (clusFault u c 3))) ∧
    (canOp (settle s c) c .me 2 = true → OpRuns (.meCbook c) s c .me (plansOf cbookPlan)) ∧
    (canOp (settle s c) c .me 3 = true → OpRuns (.meLoadw c) s c .me (plansOf loadwPlan)) ∧
    (canOp (settle s c) c .me 4 = true → OpRuns (.meStream c) s c .me (plansOf streamPlan)) ∧
    (canOp (settle s c) c .me 5 = true → OpRuns (.meDrain c) s c .me (plansOf drainPlan)) ∧
    (canOp (settle s c) c .me 16 = true → OpRuns (.meAttn c) s c .me (plansOf attnPlan)) ∧
    ∀ k ∈ meCores u c, let m := (coreAt u k).mode
      (isTa m = false → cbookPlan u c k w = .inl 3) ∧
      (∀ r l, isTa m = true → opSlots u c (k % 16) (fld w 64 24) 1 false = some [r] → l < 32 → ∃ p, cbookPlan u c k w = .inr p ∧
        (2 + l, .cbook k l (BitVec.ofNat 128 (leNat (slotBytes (refData u r) (16 * fld w 60 4) 16)))) ∈ p.effs) ∧
      (∀ l, opSlots u c (k % 16) (fld w 64 24) (meTileSlots m) false = some l → ∃ p, loadwPlan u c k w = .inr p ∧
        ({ kind := .loadw, core := k, start := (clu u c).icyc, bits := w, mode := m, src := keep l } : OpRun) ∈ p.runs) ∧
      ∀ p al, streamPlan u c k w = .inr p → proKind w = 0 →
        opSlots u c (k % 16) (fld w 64 24) (cdiv (srNb w * (if m = 4 then 64 else 32)) 256) false = some al → ∃ r, p.runs = [r] ∧
          r.kind = .stream ∧ r.core = k ∧ r.start = (clu u c).icyc ∧ r.bits = w ∧ r.mode = m ∧ r.nb = srNb w ∧ r.src = keep al ∧
          r.next = 1 ∧ r.rows = [] ∧ r.items = [(actItem m (coreAt u k).au (rdBytes u [itemRd m (keep al) 0]) 0, 0)]) ∧
  ∀ (t : State) (c : Nat) (r : OpRun),
    (∀ room, r.next ≠ 0 → 256 - r.part ≤ room → 0 < room → refFull t (loadwAt r) = true → rdBad t { r := loadwAt r } = [] →
      let q := loadwMove t c r room
      q.2.1.got = r.got ++ slotBytes (refData t (loadwAt r)) 0 256 ∧ q.2.2 = room - (256 - r.part) ∧
      ∀ k, k < 32 → r.got.length < meRowW r.mode * (k + 1) → meRowW r.mode * (k + 1) ≤ q.2.1.got.length →
        (r.start + 6 + k, .wrow r.core k (BitVec.ofNat 512 (leNat ((q.2.1.got.drop (meRowW r.mode * k)).take (meRowW r.mode))))) ∈
          (clu q.1 c).effs) ∧
    (∀ b, r.next = itemStep r.mode * b → b < r.nb → proKind r.bits = 0 → waitRead t [(itemRd r.mode r.src b).r] = none →
      rdBad t (itemRd r.mode r.src b) = [] → ∃ t' r', streamStep t c r = .on t' r' ∧
        r'.items = r.items ++ [(actItem r.mode (coreAt t r.core).au (rdBytes t [itemRd r.mode r.src b]) 0, 0)]) ∧
    (∀ k, r.next = 1 + itemStep r.mode * k → k < 32 → ∃ t' r', streamOn t c r = .on t' r' ∧ r'.rows = r.rows ++ [streamRow t r k] ∧
      (srSwap r.bits = true → (r.start + r.next, .swapRow r.core k) ∈ (clu t' c).effs) ∧
      (k = 31 → ∀ b l, r.items[b]? = some l → ∃ v : List Nat,
        (r.start + bankAt r.mode + itemStep r.mode * b, .bankAdd r.core (srBank r.bits) b v (srAcc r.bits) (decide (r.mode = 4))) ∈
          (clu t' c).effs ∧ ∀ n, n < meCols r.mode → nth 0 v n = colSum r.mode l.1 r'.rows n)) ∧
    (r.kind = .drain → r.next ≠ 1 → bitAt r.bits 36 = false → ∃ t' r', runStep t c r = .on t' r' ∧
      ∀ p ∈ drainWrites r ((List.range r.nb).map fun b => drainItem (coreAt t r.core) r b), p ∈ (clu t' c).effs)

/-- SP.FILL, SP.TAG, SP.COPY and SP.DMA. When the op is the one to issue: SP.FILL leaves the fill data and the tag TAGV of slot j in
flight 1 + j cycles on, and SP.TAG the tag of slot j 1 + j/16 cycles on; of a slot of another cluster in the issue cycle. SP.COPY
with overlapping ranges, or operands in different cores, faults the job with cause 3; among its own slots it stays in flight, reads
slot j 1 + 2j cycles on and leaves its data on the way to destination slot j with FULL one cycle later; with slots of another
cluster it copies in the issue cycle, where an EMPTY source or a FULL destination freezes the cluster and an uncorrectable source
faults the job with cause 1. SP.DMA reads its descriptors one cycle on, from another cluster's slot in the issue cycle, and appends
them to the program queue two cycles on, once the queue has room for all of them; IDX + NM1 above 3 faults with cause 3. A refused
operand faults with cause 4. (09_memory R263, 09_memory R264, 09_memory R255, 09_memory R266, 09_memory R273, 03_tick_programs R82) -/
def Obligations.LocalMemoryOpsRun : Prop :=
  (∀ (s : State) (c : Fin 256), let u := atIssue s c; let w := slotBits u c .lm; let t0 := (clu u c).icyc
    (canOp (settle s c) c .lm 1 = true →
      (lmSlots u c (fld w 32 24) (fld w 22 10 + 1) true = none → exec (.spFill c) s = Host.Outcome.next (clusFault u c 4)) ∧
      ∀ l, lmSlots u c (fld w 32 24) (fld w 22 10 + 1) true = some l →
        ∀ rs ∈ l, ∀ j core i, rs[j]? = some (Ref.slot core i) → OpLeaves (.spFill c) s c .lm [(if core / 16 = c then 1 + j else 0, .slot core i 0
          (if bitAt w 20 then (List.range 64).flatMap fun _ => natLe 4 (fld (bImm (curBundle u c)) 0 32) else List.replicate 256 0)
          (some (bitAt w 21)) false)]) ∧
    (canOp (settle s c) c .lm 3 = true →
      (lmSlots u c (fld w 32 24) (fld w 22 10 + 1) true = none → exec (.spTag c) s = Host.Outcome.next (clusFault u c 4)) ∧
      ∀ l, lmSlots u c (fld w 32 24) (fld w 22 10 + 1) true = some l →
        ∀ rs ∈ l, ∀ j core i, rs[j]? = some (Ref.slot core i) → OpLeaves (.spTag c) s c .lm
          [(if core / 16 = c then 1 + j / 16 else 0, .tag core i (bitAt w 21) true)]) ∧
    (canOp (settle s c) c .lm 2 = true → let n := fld w 1 7 + 1
      (lmSlots u c (fld w 8 24) n false = none ∨ lmSlots u c (fld w 32 24) n true = none →
        exec (.spCopy c) s = Host.Outcome.next (clusFault u c 4)) ∧
      ∀ a b, lmSlots u c (fld w 8 24) n false = some a → lmSlots u c (fld w 32 24) n true = some b →
        (a.length ≠ b.length ∨ (∃ p ∈ a.zip b, sameCore p.1 p.2 = false ∨ sharesSlot p.1 p.2 = true) →
          exec (.spCopy c) s = Host.Outcome.next (clusFault u c 3)) ∧
        (a.length = b.length → (∀ p ∈ a.zip b, sameCore p.1 p.2 = true ∧ sharesSlot p.1 p.2 = false) →
          (remoteSlot c (a ++ b).flatten = none → ∀ p ∈ a.zip b, Gives (.spCopy c) s fun t => uCode .lm ∈ (clu t c).did ∧
            ({ kind := .copy, start := t0, bits := w, src := keep p.1, dst := keep p.2 } : OpRun) ∈ (clu t c).runs) ∧
          ((remoteSlot c (a ++ b).flatten).isSome = true →
            (∀ x, waitRead u a.flatten = some x → exec (.spCopy c) s = Host.Outcome.next (freezeOn u c x)) ∧
            (∀ x, waitRead u a.flatten = none → waitWrite u b.flatten = some x → exec (.spCopy c) s = Host.Outcome.next (freezeOn u c x)) ∧
            (waitRead u a.flatten = none → waitWrite u b.flatten = none →
              ((∃ r ∈ a.flatten, rdBad u { r := r } ≠ []) →
                exec (.spCopy c) s = Host.Outcome.next (clusFault (readAll u (rds a.flatten)) c 1)) ∧
              ((∀ r ∈ a.flatten, rdBad u { r := r } = []) → ∀ p ∈ a.zip b, ∀ (j : Nat) (r : Ref) (core i : Nat), p.1[j]? = some r → p.2[j]? = some (Ref.slot core i) →
                OpLeaves (.spCopy c) s c .lm [(0, .slot core i 0 (bytesOf u [r]) (some true) true)]))))) ∧
    (canOp (settle s c) c .lm 4 = true → let k := fld w 28 2 + 1
      (4 < fld w 30 2 + k → exec (.spDma c) s = Host.Outcome.next (clusFault u c 3)) ∧
      (fld w 30 2 + k ≤ 4 → lmSlots u c (fld w 32 24) 1 false = none → exec (.spDma c) s = Host.Outcome.next (clusFault u c 4)) ∧
      ∀ l, fld w 30 2 + k ≤ 4 → lmSlots u c (fld w 32 24) 1 false = some l →
        let run : OpRun := { kind := .dma, start := t0, bits := w, src := keep l.flatten }
        let reads : List Rd := l.flatten.map fun r => { r := r, off := 64 * fld w 30 2, len := 64 * k }
        (remoteSlot c l.flatten = none → Gives (.spDma c) s fun t => uCode .lm ∈ (clu t c).did ∧ run ∈ (clu t c).runs) ∧
        ((remoteSlot c l.flatten).isSome = true →
          (∀ x, waitRead u l.flatten = some x → exec (.spDma c) s = Host.Outcome.next (freezeOn u c x)) ∧
          (waitRead u l.flatten = none → (∀ x ∈ reads, rdBad u x = []) → Gives (.spDma c) s fun t => uCode .lm ∈ (clu t c).did ∧
            ({ run with got := rdBytes u reads, next := 2 } : OpRun) ∈ (clu t c).runs)))) ∧
  ∀ (t : State) (c : Nat) (r : OpRun),
    (∀ j core i, r.kind = .copy → r.next = 1 + 2 * j → waitRead t [(keptRd r.src j 0 256).r] = none → rdBad t (keptRd r.src j 0 256) = [] →
      nth none r.dst j = some (core, i) → ∃ t' r', runStep t c r = .on t' r' ∧
        (r.start + 2 + 2 * j, .slot core i 0 (rdBytes t [keptRd r.src j 0 256]) (some true) true) ∈ (clu t' c).effs ∧
        (j + 1 < r.src.length → r' = { r with next := r.next + 2 }) ∧ (j + 1 = r.src.length → r' = { r with next := 0 })) ∧
    (r.kind = .dma → r.next = 2 → let n := r.got.length / 64
      (64 < (clu t c).q1.length + n → runStep t c r = .wait (.queue1 n)) ∧
      ((clu t c).q1.length + n ≤ 64 → ∃ t', runStep t c r = .on t' { r with next := 0 } ∧ (clu t' c).q1.length = (clu t c).q1.length + n ∧
        ∀ j, j < n → ((clu t' c).q1[(clu t c).q1.length + j]?).map (fun d => d.d) =
          some (BitVec.ofNat 512 (leNat ((r.got.drop (64 * j)).take 64)))))

/-- NC.COPY queues a copy; its slots move; remote accesses and port waits freeze for their cycles. When NC.COPY is the op to issue: a
refused operand, and a copy of which neither or both cores are local, fault the job with cause 4; an engine with 16 operations
freezes the cluster; and else the copy joins the requesting core's engine and the op is done. A copy at the head of an engine that
waits on its next slot's tags stays as it is; one whose slots wait on no tag completes: a poisoned source faults the job with cause
1, and else the data of every source slot stands in its destination slot. A remote access lasts at least its minimum of frozen
cycles, an asynchronous request served first freezes its cluster for one; a freeze of k cycles ends with the cluster k issue cycles
later and reaches every other member 4 cycles per hop after it began. (09_memory R260, 09_memory R270, 09_memory R271, 09_memory
R272, 09_memory R273, 03_tick_programs R83) -/
def Obligations.NocCopiesAndRemoteAccesses : Prop :=
  (∀ (s : State) (c : Fin 256), let u := atIssue s c; let w := slotBits u c .nc; let n := fld w 3 5 + 1
    let a := ncCore (hentry u c (refHandle (fld w 8 24))); let b := ncCore (hentry u c (refHandle (fld w 32 24)))
    let me := if a / 16 = c then a else b
    canOp (settle s c) c .nc 1 = true →
    (ncSlots u c (fld w 8 24) n false = none ∨ ncSlots u c (fld w 32 24) n true = none ∨ (a / 16 = c ↔ b / 16 = c) →
      exec (.ncCopy c) s = Host.Outcome.next (clusFault u c 4)) ∧
    ∀ x y, ncSlots u c (fld w 8 24) n false = some x → ncSlots u c (fld w 32 24) n true = some y → ¬(a / 16 = c ↔ b / 16 = c) →
      (16 ≤ (smGet [] u.noc me).length → exec (.ncCopy c) s = Host.Outcome.next (freezeOn u c (.noc me))) ∧
      ((smGet [] u.noc me).length < 16 → Gives (.ncCopy c) s fun t => 8 ∈ (clu t c).did ∧ ∃ o, o.kind = .copy ∧ o.src = x ∧ o.dst = y ∧
        o.moved = 0 ∧ o.consume = bitAt w 2 ∧ o.hold = bitAt w 1 ∧ o.job = curJob u c ∧
        smGet [] t.noc me = smGet [] u.noc me ++ [o])) ∧
  (∀ (s : State) (core : Fin 4096) (o : NocOp) (r : List NocOp), smGet [] s.noc core.val = o :: r → o.kind = .copy → o.moved = 0 →
    o.skip = [] → (bly s (curPart s (core.val / 16))).rx = [] → o.src.length = o.dst.length →
    (0 < o.src.length → nocWaits s o = true → Gives (.nocCopyDone core) s fun t => t.slots = s.slots ∧ t.cores = s.cores ∧ t.hbm = s.hbm ∧
      t.parts = s.parts ∧ t.regs = s.regs ∧ smGet [] t.noc core.val = o :: r) ∧
    ((∀ q ∈ o.src, (slotAt s q.1 q.2).full = true) → (∀ q ∈ o.dst, asyncEmpty s q.1 q.2 = true) →
      (∀ q ∈ o.src ++ o.dst, q.2 < 1024) → o.src.Nodup → o.dst.Nodup → (∀ q ∈ o.src, q ∉ o.dst) →
      ((∀ q ∈ o.src, (slotAt s q.1 q.2).poison = 0) → Gives (.nocCopyDone core) s fun t =>
        (smGet [] t.noc core.val).length = r.length ∧ ∀ (j : Nat) (p q : Nat × Nat), o.src[j]? = some p → o.dst[j]? = some q →
          (slotAt t q.1 q.2).data = (slotAt s p.1 p.2).data ∧ (slotAt t q.1 q.2).full = !o.hold ∧
          (slotAt t p.1 p.2).full = !o.consume) ∧
      ((∃ q ∈ o.src, (slotAt s q.1 q.2).poison ≠ 0) → hasFaulted s (curPart s (core.val / 16)) o.job = false →
        Gives (.nocCopyDone core) s fun t => hasFaulted t (curPart s (core.val / 16)) o.job = true ∧
          (job t (curPart s (core.val / 16)) o.job).cause = 1))) ∧
  (∀ (s : State) (c : Fin 256) (core i m k : Nat), (clu s c).wait = some (.remote core i m) →
    exec (.remoteAccessDone c k) s = Host.Outcome.next (settle (endStall s c (max m k)) c)) ∧
  (∀ (s : State) (core : Fin 4096) (hbm : Bool), let c := core.val / 16
    let ready := (clu s c).run && !(clu s c).halted && (clu s c).wait.isNone && !heldBack s c
    (ready = true → exec (.asyncPortPromotion core hbm) s = Host.Outcome.next
      (settle (endStall (freeze s c .port (if hbm then 0 else 1)) c 1) c)) ∧
    (ready = false → exec (.asyncPortPromotion core hbm) s = Host.Outcome.next s)) ∧
  ∀ (s : State) (c k : Nat), (clu (endStall s c k) c).wait = none ∧ (clu (endStall s c k) c).frz = (clu s c).frz + k ∧
    (clu (endStall s c k) c).icyc = (clu s c).icyc ∧ ∀ m ∈ members s (clu s c).part, m ≠ c →
      ((clu s c).waitAt + 4 * hops (members s (clu s c).part) c m, k) ∈ (clu (endStall s c k) m).far

/-- DMA descriptors start, move and end; tag timeouts fault the job; pages arrive; SP_UE_CNT and TAG_TMO. A descriptor that fails its
checks leaves its queue and faults its job with the cause, and one that passes starts with its slots. The transfer that can move
moves a slot's piece, or all it has where no slot is in it; a fault it meets goes to its job, with its last byte it leaves the
queue, and where a tag holds its next piece it stays. A static wait on a tag, a started transfer, a NoC operation, a received
message or an expander write that has lasted TAG_TMO faults its job with cause 2. The next page of a paged program arrives:
verified, it is one of the cluster's present pages; else the job faults with cause 3. A write of zero to SP_UE_CNT leaves in it the
increments of that cycle alone and releases SP_UE_ADDR. TAG_TMO takes a value of 1,024 to 16,777,216 and ignores any other with
CMD_REJ. (09_memory R258, 09_memory R282, 09_memory R283, 09_memory R284, 09_memory R286, 03_tick_programs R85, 03_tick_programs
R86, 10_weight_streams R302, 00_scope R11) -/
def Obligations.TransfersStartEndAndTimeOut : Prop :=
  (∀ (s : State) (c : Fin 256) (q : Fin 2) (i : Nat) (d : Desc), nextDesc (dq s c q) = some i → (dq s c q)[i]? = some d →
    (∀ k, descCheck s (curPart s c) c d.d = .inl k → exec (.descriptorStart c q) s =
      Host.Outcome.next (jobFault (setDq s c q ((dq s c q).eraseIdx i)) (curPart s c) d.job k)) ∧
    ∀ x y, descCheck s (curPart s c) c d.d = .inr (x, y) → Gives (.descriptorStart c q) s fun t =>
      (dq t c q)[i]? = some { d with started := true, src := x, dst := y } ∧ (dq t c q).length = (dq s c q).length) ∧
  (∀ (s : State) (c : Fin 256) (q : Fin 2) (h : Option (List Byte)) (i : Nat) (d : Desc),
    readyDesc s (dq s c q) = some i → (dq s c q)[i]? = some d → descDone d = false →
    let r := descMove s (curPart s c) d h
    let t := setDq r.1 c q (setNth (dq r.1 c q) i r.2.1)
    let drop (t : State) := admitHeld (setDq t c q ((dq t c q).eraseIdx i)) c
    (r.2.2 = none → r.2.1 = { d with moved := d.moved + nextLen d } ∧
      (descDone r.2.1 = true → exec (.descriptorDone c q h) s = Host.Outcome.next (drop t)) ∧
      (descDone r.2.1 = false → canMove t (dq t c q) i = false → exec (.descriptorDone c q h) s = Host.Outcome.next t)) ∧
    ∀ k, r.2.2 = some k → exec (.descriptorDone c q h) s = Host.Outcome.next
      (jobFault (modClu (drop r.1) c fun x => { x with lostHbm := x.lostHbm ++ descHbmDst d }) (curPart s c) d.job k)) ∧
  (∀ (s : State) (c : Fin 256) (w : Wait), (clu s c).wait = some w →
    ((∃ core i, w = .slotFull core i ∨ w = .slotEmpty core i) → exec (.tagTimeout (.static c)) s =
      Host.Outcome.next (tmoFault (toCycle s ((clu s c).waitAt + tmoOf s c)) c (curJob s c))) ∧
    ((∀ core i, w ≠ .slotFull core i ∧ w ≠ .slotEmpty core i) → exec (.tagTimeout (.static c)) s = Host.Outcome.next s)) ∧
  (∀ (s : State) (c : Fin 256) (q : Fin 2) (d : Desc), ((dq s c q).find? fun d => d.started && descWaits s d) = some d →
    exec (.tagTimeout (.descriptor c q)) s = Host.Outcome.next (tmoFault s c d.job)) ∧
  (∀ (s : State) (core : Fin 4096) (o : NocOp) (r : List NocOp), smGet [] s.noc core.val = o :: r → nocWaits s o = true →
    exec (.tagTimeout (.noc core)) s = Host.Outcome.next
      (tmoFault (toCycle s (o.since + tmoOf s (core.val / 16))) (core.val / 16) o.job)) ∧
  (∀ (s : State) (n : Fin 16) (m : RxMsg) (p : Nat × Nat × List Byte) (l : List (Nat × Nat × List Byte)), (bly s n).rx = [m] → m.slots = p :: l →
    asyncEmpty s p.1 p.2.1 = false →
    exec (.tagTimeout (.link n)) s = Host.Outcome.next (tmoFault (modBly s n fun b => { b with rx := [] }) (p.1 / 16) m.job)) ∧
  (∀ (s : State) (c : Fin 256) (q : ExpRun), (clu s c).expRun = some q → readWaits s c q = true →
    exec (.tagTimeout (.expander c)) s = Host.Outcome.next (tmoFault s c q.job)) ∧
  (∀ (s : State) (c j : Nat), c < 256 → hasFaulted s (curPart s c) j = false →
    hasFaulted (tmoFault s c j) (curPart s c) j = true ∧ (job (tmoFault s c j) (curPart s c) j).cause = 2) ∧
  (∀ (s : State) (c : Fin 256) (p : Nat), let u := settle s c
    (clu s c).run = true → (clu u c).run = true → pageNext u c p = true →
    let r := fetchPage u (curPart u c) c p (curImg u c)
    (r.2 = true → Gives (.bundlePageArrival c p) s fun t => pageHere t c p = true) ∧
    (r.2 = false → exec (.bundlePageArrival c p) s = Host.Outcome.next (clusFault r.1 c 3))) ∧
  (∀ (r : Requester) (s : State) (c : Fin 256), wOk s r (clPg c + 0x184) = true →
    Gives (.spUeCntClear r c) s fun t => rdN t (clPg c + 0x184) = min (smGet 0 (marksNow s).cnt (clPg c + 0x184)) 0xFFFFFFFE ∧
      rdN t (clPg c + 0x194) = 0) ∧
  ∀ (s : State) (n : Fin 16) (v : Word), hostReady s = true → let x := v.toNat % 2 ^ 25
    (1024 ≤ x → x ≤ 2 ^ 24 → Gives (.tagTmo n v) s fun t => rdN t (partPg n + 0x400) = x) ∧
    (x < 1024 ∨ 2 ^ 24 < x → Gives (.tagTmo n v) s fun t => rdN t (partPg n + 0x400) = rdN s (partPg n + 0x400) ∧
      rb t (partPg n + 0x14) 1 = true)

/-- Stream commands check their causes in ascending order, then make, mark, set or read the stream they name. A stream command of a
requester that may write STRM_CMD puts its code in STRM_STAT and names the stream in STRM_HANDLE. Handle 0 is rejected with cause 1,
and a stream of another partition, in a state that the command takes, with cause 3: CAUSE and CMD_REJ say so and no stream changes.
Where no cause holds: OPEN makes an OPEN stream with the settings and addresses of the registers; CLOSE, PARK and UNPARK mark theirs
for the edge or the dispatch; EXPORT marks it with the address and sets BUSY; IMPORT makes a MOVING one and sets BUSY; SETCFG
changes the settings; QUERY shows the stream's word and SEQ. All but EXPORT and IMPORT set DONE. While BUSY is 1 a command is
rejected with cause 7, but for PARK, UNPARK and EXPORT of a stream whose EXPORT no dispatch has acted on, which they replace.
(07_streams_state R193, 07_streams_state R204, 07_streams_state R205, 07_streams_state R210, 07_streams_state R211, 07_streams_state
R212, 07_streams_state R213) -/
def Obligations.StreamCommandsAreCheckedThenAct : Prop :=
  (∀ (r : Requester) (s : State) (n : Fin 16), wOk s r (partPg n + 0x304) = true → rb s (strmStat n) 1 = false →
    let h := rf s (partPg n + 0x300) 0 20
    let x := strm s h
    let ok (i : Instr) (code : Nat) (y : Strm) : Prop := Gives i s fun t => strm t h = y ∧ rb t (strmStat n) 0 = true ∧
      rb t (strmStat n) 1 = false ∧ rf t (strmStat n) 20 4 = code ∧ ∀ g, g ≠ h → strm t g = strm s g
    (h = 0 → ∀ i ∈ [Instr.strmOpen r n, .strmClose r n, .strmPark r n, .strmUnpark r n, .strmExport r n, .strmImport r n,
        .strmSetcfg r n, .strmQuery r n], Gives i s fun t =>
      rf t (strmStat n) 24 8 = 1 ∧ rb t (strmStat n) 0 = false ∧ rb t (partPg n + 0x14) 1 = true ∧ t.strms = s.strms) ∧
    (h ≠ 0 → x.part ≠ n.val →
      (x.st = .active ∨ x.st = .parked → Gives (.strmClose r n) s fun t => rf t (strmStat n) 24 8 = 3 ∧ t.strms = s.strms) ∧
      (x.st ≠ .free → (Gives (.strmSetcfg r n) s fun t => rf t (strmStat n) 24 8 = 3 ∧ t.strms = s.strms) ∧
        Gives (.strmQuery r n) s fun t => rf t (strmStat n) 24 8 = 3 ∧ t.strms = s.strms)) ∧
    (h ≠ 0 → x.st = .free → jobHomeOk s n = true → strmBiv s n % 64 = 0 → activeSt (part s n).st = true →
      hasKey s (partParty s n) = true → inRegion s (partParty s n) 0 (strmBiv s n) (newBlobLen s n h) = true →
      ok (.strmOpen r n) 1 (newStrm s n h .opn) ∧
      (strmXaddr s n % 64 = 0 → inWindow s (partParty s n) (strmXaddr s n) (newBlobLen s n h) = true →
        Gives (.strmImport r n) s fun t => strm t h = { newStrm s n h .moving with xfer := .imprt (strmXaddr s n) } ∧
          rb t (strmStat n) 1 = true)) ∧
    (h ≠ 0 → x.part = n.val →
      (x.st = .opn ∨ x.st = .active ∨ x.st = .parked → ok (.strmClose r n) 2 { x with closeReq := true }) ∧
      (x.st = .active → steadyOf s n = false → hasKey s (partParty s n) = true → ok (.strmPark r n) 3 { x with req := .park }) ∧
      (x.st = .parked → x.bad = false → activeSt (part s n).st = true → hasKey s (partParty s n) = true →
        ok (.strmUnpark r n) 4 { x with req := .unpark }) ∧
      (x.st = .active ∨ x.st = .parked → strmXaddr s n % 64 = 0 → hasKey s (partParty s n) = true →
        inWindow s (partParty s n) (strmXaddr s n) (blobLen s x) = true → Gives (.strmExport r n) s fun t =>
          strm t h = { x with req := .xport (strmXaddr s n) } ∧ rb t (strmStat n) 1 = true) ∧
      (x.st ≠ .free → ok (.strmSetcfg r n) 7 (cfgStrm s n x) ∧ ok (.strmQuery r n) 8 x ∧
        Gives (.strmQuery r n) s fun t => rdN t (partPg n + 0x330) = queryWord x % 2 ^ 32 ∧ rd64 t (partPg n + 0x328) = x.seq % 2 ^ 64))) ∧
  ∀ (r : Requester) (s : State) (n : Fin 16), wOk s r (partPg n + 0x304) = true → rb s (strmStat n) 1 = true →
    let h := rf s (partPg n + 0x300) 0 20
    let x := strm s h
    h ≠ 0 → x.part = n.val →
    (x.st = .opn ∨ x.st = .active ∨ x.st = .parked → Gives (.strmClose r n) s fun t =>
      rf t (strmStat n) 24 8 = 7 ∧ rb t (partPg n + 0x14) 1 = true ∧ t.strms = s.strms) ∧
    (x.st = .active → steadyOf s n = false → hasKey s (partParty s n) = true →
      (xportWaits x = false → Gives (.strmPark r n) s fun t => rf t (strmStat n) 24 8 = 7 ∧ t.strms = s.strms) ∧
      (xportWaits x = true → Gives (.strmPark r n) s fun t => strm t h = { x with req := .park } ∧ rb t (strmStat n) 1 = false ∧
        rb t (strmStat n) 0 = true))

/-- Parks, unparks, exports and imports complete; old chunks drop; idle streams park. BIVOUAC_WRITE_DONE of a stream whose write is
queued, with its side FULL and no poisoned state, seals the committed side and puts the blob at BIV, and at the edge the stream is
PARKED. BIVOUAC_READ_DONE puts a blob that verifies back in the stream's place, and else counts it and leaves the stream to be
PARKED with BAD. EXPORT_DONE with a clean side, or a verified blob, ends the command with DONE, and the stream will be CLOSED with
its queue empty; a blob that fails ends it with cause 12. IMPORT_DONE ends the command with DONE, and the SEQ of the blob, or with
the cause of the check that failed, and the stream is FREE again. In the dispatch window, chunks older than HOLD leave the stream's
queue, and an idle stream starts to park. (07_streams_state R200, 07_streams_state R201, 07_streams_state R202, 07_streams_state
R203, 07_streams_state R208, 07_streams_state R209, 07_streams_state R210, 07_streams_state R211) -/
def Obligations.StreamTransfersComplete : Prop :=
  (∀ (s : State) (h : BitVec 20), let x := strm s h.toNat
    (x.st = .parking → x.xfer = .write true → sideFull s h.toNat = true → sideBad s h.toNat = false → s.hbmBad = [] → s.meeBad = [] →
      ∀ s1 b, sealBlob s h.toNat x.sealQ = some (s1, b) →
      Gives (.bivouacWriteDone h) s fun t => strm t h.toNat = { x with xfer := .none, done := .parked } ∧
        memRead 0 t.hbm x.biv b.length = b ∧ ∀ k i, (slotAt t k i).data = (slotAt s k i).data ∧ (slotAt t k i).full = (slotAt s k i).full) ∧
    (x.st = .parking → x.xfer = .write true → sideFull s h.toNat = false → exec (.bivouacWriteDone h) s = Host.Outcome.next s) ∧
    (x.st = .unparking → x.xfer = .read →
      (∀ bs, checkBlob s h.toNat x.biv = some bs → Gives (.bivouacReadDone h) s fun t =>
        (strm t h.toNat).xfer = .none ∧ (strm t h.toNat).done = .active ∧ t.hbm = s.hbm ∧
        let l := sideSlots s x x.side
        ∀ i q, l[i]? = some q → (slotAt t q.1 q.2).full = true ∧ (l.Nodup → (∀ r ∈ l, r.2 < 1024) →
          ((bs.drop (256 * i)).take 256).length = 256 → slotBytes (slotAt t q.1 q.2).data 0 256 = (bs.drop (256 * i)).take 256)) ∧
      (checkBlob s h.toNat x.biv = none → Gives (.bivouacReadDone h) s fun t =>
        strm t h.toNat = { x with xfer := .none, done := .unparkBad } ∧ t.slots = s.slots)) ∧
    (∀ a, x.st = .moving → x.xfer = .xport a true → sideFull s h.toNat = true → sideBad s h.toNat = false → x.sealQ.isSome = true → x.part < 16 →
      Gives (.exportDone h) s fun t => (strm t h.toNat).done = .closed ∧ (strm t h.toNat).queue = [] ∧
        rb t (strmStat x.part) 1 = false ∧ rb t (strmStat x.part) 0 = true) ∧
    (∀ a, x.st = .moving → x.xfer = .xport a false → x.part < 16 →
      (checkBlob s h.toNat x.biv = none → Gives (.exportDone h) s fun t => (strm t h.toNat).done = .exportBad ∧
        rf t (strmStat x.part) 24 8 = 12 ∧ rb t (strmStat x.part) 1 = false) ∧
      ((checkBlob s h.toNat x.biv).isSome = true → Gives (.exportDone h) s fun t => (strm t h.toNat).done = .closed ∧
        (strm t h.toNat).queue = [] ∧ rb t (strmStat x.part) 1 = false ∧ rb t (strmStat x.part) 0 = true)) ∧
    (∀ a, x.st = .moving → x.xfer = .imprt a → x.part < 16 →
      (∀ k, importCause s h.toNat a = some k → Gives (.importDone h) s fun t => strm t h.toNat = { lastSeq := x.lastSeq } ∧
        rf t (strmStat x.part) 24 8 = k ∧ rb t (strmStat x.part) 1 = false) ∧
      (importCause s h.toNat a = none → Gives (.importDone h) s fun t => (strm t h.toNat).done = .imported ∧
        (strm t h.toNat).seq = bf (hbmRead s a (blobLen s x)) 0x10 8 ∧ rb t (strmStat x.part) 0 = true))) ∧
  ∀ (s : State) (n : Fin 16) (h : BitVec 20), s.clk.phase = .dispatch → (strm s h.toNat).part = n.val →
    ((strm s h.toNat).st ≠ .free → Gives (.holdDrop n h) s fun t => (strm t h.toNat).queue = (strm s h.toNat).queue.filter fun c =>
      match c.age with | some a => decide (a ≤ (strm s h.toNat).hold) | none => true) ∧
    (idleDue s h.toNat = true → Gives (.idlePark n h) s fun t =>
      let x := strm s h.toNat
      let now := (headReady x).isNone
      strm t h.toNat = { x with
        st := .parking, req := (if x.req = .park then .none else x.req), xfer := .write now, sealQ := (strm t h.toNat).sealQ } ∧
      (now = false → (strm t h.toNat).sealQ = x.sealQ) ∧
      (now = true → ((strm t h.toNat).sealQ.isSome ↔ ∃ i, slotOfParty s x.party = some i ∧ (keySlot s i).pk.isSome))) ∧
    (idleDue s h.toNat = false → exec (.idlePark n h) s = Host.Outcome.next s)

/-- The KV engine answers INFO, PTE and RESERVE of a running handler, or names the cause. Let a handler run in cluster c of partition n.
Without a pool, with a stopped engine, or for no valid sequence, every command answers cause 9, 7 or 1 and changes no page. INFO
answers the length, the flags and the last use; asked for a lane, it stamps the sequence, or asks for a recompute of a DROPPED one.
PTE answers an entry and its frame, or cause 2 beyond the capacity. RESERVE outside the dispatch window or for no bound lane answers
cause 3; for a DROPPED sequence it asks for a recompute and answers cause 4; for a sequence already reserved in the tick cause 8;
and one whose pages are all had stamps the sequence, notes its claim and answers the length and the pages allocated and copied. An
uncorrectable word in what is read is a job fault with cause 1, and a RESERVE that meets one keeps its claim for the flip.
(08_attention R217, 08_attention R222, 08_attention R223, 08_attention R224, 08_attention R227, 09_memory R280) -/
def Obligations.KvEngineAnswersControlCores : Prop :=
  ∀ (s : State) (c : Fin 256) (a0 a1 : Word), ccRuns s c = true →
    let v := kvArgs s c a0 a1; let n := (clu s c).part; let q := wfld a0 0 20; let key := kvLane s c a1
    let cause (i : Instr) (k : Nat) : Prop := Gives i s fun t => (clu t c).kvSt = BitVec.ofNat 32 (k * 2 ^ 24)
    let answer (i : Instr) (r : List Nat) : Prop := Gives i s fun t => (clu t c).kvSt = 0 ∧ (clu t c).kvR = r.map (BitVec.ofNat 32)
    (kvPre s n q ≠ 0 → ∀ i ∈ [Instr.kvInfo c a0 a1, .kvPte c a0 a1, .kvReserve c a0 a1], cause i (kvPre s n q) ∧
      Gives i s fun t => t.hbm = s.hbm ∧ t.lanes = s.lanes ∧ t.parts = s.parts) ∧
    (kvPre s n q = 0 → hbmPoison s (sdAddr s n q) 64 = true → ∀ i ∈ [Instr.kvInfo c a0 a1, .kvPte c a0 a1, .kvReserve c a0 a1],
      exec i s = Host.Outcome.next (jobFault (hbmUe v (sdAddr s n q) 64) n (ccJob s c) 1)) ∧
    (kvPre s n q = 0 → hbmPoison s (sdAddr s n q) 64 = false →
      (bitAt a1.toNat 31 = false → answer (.kvInfo c a0 a1) [sdL s n q,
        2 ^ 31 * b2n (sdValid s n q) + 2 ^ 30 * b2n (sdDroppable s n q) + 2 ^ 29 * b2n (sdDropped s n q), sdUse s n q % 2 ^ 32]) ∧
      (bitAt a1.toNat 31 = true → sdDropped s n q = false → exec (.kvInfo c a0 a1) s = Host.Outcome.next (kvAnswer (touchSeq v n q) c 0
        [sdL s n q, 2 ^ 31 * b2n (sdValid s n q) + 2 ^ 30 * b2n (sdDroppable s n q), sdUse s n q % 2 ^ 32])) ∧
      (sdCap s n q ≤ wfld a1 0 22 → cause (.kvPte c a0 a1) 2) ∧
      (wfld a1 0 22 < sdCap s n q → hbmPoison s (sdTab s n q + 4 * wfld a1 0 22) 4 = false →
        let e := pte s n q (wfld a1 0 22); let f := if pteKind e = 1 then kvFrame s n (ptePage e) else 0
        answer (.kvPte c a0 a1) [e, f % 2 ^ 32, f / 2 ^ 32 % 2 ^ 16]) ∧
      (s.clk.phase ≠ .dispatch ∨ bitAt a1.toNat 31 = false ∨ lane s key = none → cause (.kvReserve c a0 a1) 3) ∧
      (s.clk.phase = .dispatch → bitAt a1.toNat 31 = true → ∀ l, lane s key = some l →
        (sdDropped s n q = true → cause (.kvReserve c a0 a1) 4 ∧
          Gives (.kvReserve c a0 a1) s fun t => ∃ m, lane t key = some m ∧ m.late.isSome = true) ∧
        (sdDropped s n q = false → (part s n).kvRes.any (fun p => p.1 = q) = true → cause (.kvReserve c a0 a1) 8) ∧
        (sdDropped s n q = false → (part s n).kvRes.any (fun p => p.1 = q) = false →
          let cnt := wfld a1 0 7
          let ix := if cnt = 0 then [] else (List.range ((sdL s n q + cnt - 1) / 64 - sdL s n q / 64 + 1)).map fun k => sdL s n q / 64 + k
          let u := ix.foldl (reservePage n q) { s := sdPut (sdPut (touchSeq v n q) n q 0x20 4 cnt) n q 0x24 2 (wfld a1 16 9) }
          (u.ue = true → exec (.kvReserve c a0 a1) s = Host.Outcome.next
            (jobFault (modPart u.s n fun p => { p with kvRes := p.kvRes ++ [(q, key)] }) n (ccJob s c) 1)) ∧
          (u.ue = false → u.cause = 0 → Gives (.kvReserve c a0 a1) s fun t => (clu t c).kvSt = 0 ∧
            (clu t c).kvR = [sdL s n q, u.alloc, u.copied].map (BitVec.ofNat 32) ∧ (q, key) ∈ (part t n).kvRes) ∧
          (u.ue = false → u.cause ≠ 0 → cause (.kvReserve c a0 a1) u.cause))))

/-- SEQ commands wait for the flip; POOL_INIT frees every page; KV_RECOMP pops its queue. A KV_CMD write of a requester that may write
it, while KV_STAT.BUSY is 0 and a pool is configured: SEQ_INIT, SEQ_FORK, SEQ_RESET and SEQ_FREE are taken with the argument
registers as they stand, and BUSY reads 1 until the flip; POOL_INIT of a partition that is CONFIGURING or READY, with its ranges in
the party's KV region, runs at once: every page is free, the engine is no longer stopped, and DONE is set. With no pool each is
rejected with cause 9. While BUSY each is ignored with CMD_REJ. A read of KV_RECOMP returns the oldest sequence asked for with bit
31 and removes it, and 0 when there is none. (08_attention R216, 08_attention R226, 08_attention R227, 08_attention R251, 00_scope
R10) -/
def Obligations.KvHostCommandsQueueOrRun : Prop :=
  ∀ (r : Requester) (s : State) (n : Fin 16), wOk s r (partPg n + 0x3A0) = true →
    let seqs := [(1, Instr.seqInit r n), (2, .seqFork r n), (3, .seqReset r n), (4, .seqFree r n)]
    (kvBusy s n = false → kvOn s n = true →
      (∀ p ∈ seqs, Gives p.2 s fun t => rb t (partPg n + 0x3B8) 1 = true ∧ t.hbm = s.hbm ∧ (part t n).kvCmd = some {
        cmd := p.1, a0 := rf s (partPg n + 0x3A4) 0 20, a1 := rf s (partPg n + 0x3A8) 0 20, a2 := rf s (partPg n + 0x3AC) 0 23,
        a3 := rd64 s (partPg n + 0x3B0) % 2 ^ 48 }) ∧
      ((part s n).st = .configuring ∨ (part s n).st = .ready → kvRegion s n (kvBase s n) (kvEnd s n - kvBase s n) = true →
        kvRegion s n (kvSeqBase s n) (64 * kvSeqs s n) = true → Gives (.poolInit r n) s fun t =>
          kvFree t n = kvNp s n ∧ kvCorrupt t n = false ∧ rb t (partPg n + 0x3B8) 0 = true) ∧
      ((part s n).st ≠ .configuring → (part s n).st ≠ .ready →
        Gives (.poolInit r n) s fun t => rf t (partPg n + 0x3B8) 24 8 = 2 ∧ t.hbm = s.hbm)) ∧
    (kvBusy s n = false → kvOn s n = false → ∀ i ∈ [Instr.seqInit r n, .seqFork r n, .seqReset r n, .seqFree r n, .poolInit r n],
      Gives i s fun t => rf t (partPg n + 0x3B8) 24 8 = 9 ∧ rb t (partPg n + 0x14) 1 = true ∧ t.parts = s.parts ∧ t.hbm = s.hbm) ∧
    (kvBusy s n = true → ∀ i ∈ [Instr.seqInit r n, .seqFork r n, .seqReset r n, .seqFree r n, .poolInit r n],
      Gives i s fun t => rb t (partPg n + 0x14) 1 = true ∧ t.parts = s.parts ∧ t.hbm = s.hbm) ∧
    (rOk s r (partPg n + 0x3C0) = true →
      ((part s n).kvRq = [] → Gives (.kvRecomp r n) s fun t => t.rdata = some 0) ∧
      ∀ q l, (part s n).kvRq = q :: l → Gives (.kvRecomp r n) s fun t => t.rdata = some (2 ^ 31 + q) ∧ (part t n).kvRq = l)

/-- EXP_CMD loads, registers and unregisters; a load's blocks land in its slots or end it with an error. An EXP_CMD of a requester that
may write it. A load while BUSY is rejected with error 1, one that fails a check with that check's error, and neither touches a
slot; one that passes is in progress with BUSY set and its destination slots zero and EMPTY. The staging step of a wrapped stream
ends the load with error 7 without its key, 8 when its tag fails, 3 for a bad header, and else goes on with the plaintext. A block
that fails ends the load with its error and its destination EMPTY; a good one stands FULL in its slots, and the last one ends the
load with DONE. REGISTER refuses a job that is not loaded or an entry in use with error 1, a wrong range with error 2, a stream that
fails with its error, and else enters the stream. UNREGISTER of an entry with no read queued or running clears it.
(10_weight_streams R295, 10_weight_streams R297, 10_weight_streams R299, 10_weight_streams R300, 10_weight_streams R301,
10_weight_streams R305, 10_weight_streams R309) -/
def Obligations.ExpanderLoadsAndRegisters : Prop :=
  (∀ (r : Requester) (s : State) (n : Fin 16) (v : Word), wOk s r (expPg n + 0x100) = true →
    let rejected (i : Instr) (k : Nat) : Prop := Gives i s fun t => rf t (expStat n) 24 8 = k % 256 ∧ rb t (expPg n + 0x14) 0 = true ∧
      t.slots = s.slots ∧ (part t n).expTab = (part s n).expTab ∧ (part t n).expLoad = (part s n).expLoad
    (rb s (expStat n) 1 = true → ∀ i ∈ [Instr.expLoad r n v, .expRegister r n v, .expUnregister r n v], rejected i 1) ∧
    (rb s (expStat n) 1 = false →
      (∀ k, expLoadCheck s n v.toNat = .inl k → rejected (.expLoad r n v) k) ∧
      (∀ o, expLoadCheck s n v.toNat = .inr o → Gives (.expLoad r n v) s fun t => (part t n).expLoad = some o ∧
        rb t (expStat n) 1 = true ∧ ∀ p ∈ loadSlots o, (slotAt t p.1 p.2).full = false ∧ (slotAt t p.1 p.2).data = 0) ∧
      (let j := wfld v 16 4; let i := wfld v 8 6; let src := expSrc s n; let len := expLen s n
       ((job s n j).loaded = false ∨ rb s (expTblA n i) 31 = true → rejected (.expRegister r n v) 1) ∧
       ((job s n j).loaded = true → rb s (expTblA n i) 31 = false →
        (inRegion s (partParty s n) 2 src len = false ∨ src % 64 ≠ 0 → rejected (.expRegister r n v) 2) ∧
        (inRegion s (partParty s n) 2 src len = true → src % 64 = 0 →
          (∀ k, twErr s n j src len = some k → rejected (.expRegister r n v) k) ∧
          (twErr s n j src len = none → Gives (.expRegister r n v) s fun t => rb t (expTblA n i) 31 = true ∧
            rb t (expStat n) 0 = true ∧ (smGet {} (part t n).expTab i).addr = src ∧ (smGet {} (part t n).expTab i).job = j)))) ∧
      (entryRead s n (wfld v 8 6) = true → rejected (.expUnregister r n v) 1) ∧
      (entryRead s n (wfld v 8 6) = false → Gives (.expUnregister r n v) s fun t => rd t (expTblA n (wfld v 8 6)) = 0 ∧
        smGet {} (part t n).expTab (wfld v 8 6) = {}))) ∧
  ∀ (s : State) (n : Fin 16) (o : ExpLoad), (part s n).expLoad = some o →
    let ended (i : Instr) (k : Nat) : Prop := Gives i s fun t => (part t n).expLoad = none ∧ rf t (expStat n) 24 8 = k % 256 ∧
      rb t (expStat n) 0 = false ∧ rb t (expPg n + 0x14) 1 = true
    let h := hbmRead s o.src 128
    (o.kind = .wrap →
      (keyById s (partParty s n) (bf h 0x18 8) labelImg = none → ended (.exp16StagingDone n) 7) ∧
      ∀ k, keyById s (partParty s n) (bf h 0x18 8) labelImg = some k →
        Config.gcmOpen k ((h.drop 0xC).take 12) h (hbmRead s (o.src + 0x80) o.stgLen) (hbmRead s (o.src + 0x80 + o.stgLen) 16) = none →
        ended (.exp16StagingDone n) 8) ∧
    (let lc := o.stgLen
     o.kind = .wrap → ∀ k pt, keyById s (partParty s n) (bf h 0x18 8) labelImg = some k →
      Config.gcmOpen k ((h.drop 0xC).take 12) h (hbmRead s (o.src + 0x80) lc) (hbmRead s (o.src + 0x80 + lc) 16) = some pt →
      let u := (hbmWrite (expCharge (hbmUe s o.src (0x80 + lc + 16)) n (lc + 16)) o.stg (padTo lc 0 pt)).1
      let v := charge u n fun a => { a with hbmWr := a.hbmWr + lc, hbmRd := a.hbmRd + 64 }
      let o1 : ExpLoad := { o with kind := .exp16, src := o.stg, len := lc, pos := 0x40 }
      (exHeadOk (hbmRead v o.stg 64) = false → ended (.exp16StagingDone n) 3) ∧
      (exHeadOk (hbmRead v o.stg 64) = true → dstOk v n o.ent (fld o.dst 0 10) (loadBytes v o1 / 256) = true →
        exec (.exp16StagingDone n) s = Host.Outcome.next (expBegin v n { o1 with all_ := loadBytes v o1 }))) ∧
    (let b := loadBlock s n o
     o.kind ≠ .wrap → (clu s o.clus).expQ = [] → (clu s o.clus).expRun = none → loadSt (part s n).st = true →
      (∀ k, b.2.2 = .bad k → ended (.expBlockDone (.load n)) k) ∧
      ∀ img, b.2.2 = .good img →
        (Gives (.expBlockDone (.load n)) s fun t => ∀ k ∈ dstCores o.ent (bitAt o.cmd 20) (fld o.dst 10 4), ∀ i, i < b.2.1 / 256 →
          (slotAt t k (heFirst o.ent + (fld o.dst 0 10 + o.img / 256) + i)).full = true) ∧
        (o.j + 1 < loadBlocks s o → Gives (.expBlockDone (.load n)) s fun t => (part t n).expLoad = some { o with
          j := o.j + 1, pos := o.pos + b.1, img := o.img + b.2.1 }) ∧
        (loadBlocks s o ≤ o.j + 1 → Gives (.expBlockDone (.load n)) s fun t => (part t n).expLoad = none ∧ rb t (expStat n) 0 = true))

/-- CC_EXP_CMD queues a read; it starts after its checks, and each block lands in its ring or fails the job. CC_EXP_CMD of a running
handler queues a read with the values of its registers while fewer than four wait, and holds the control core otherwise. The first
queued read starts when none runs: an entry that is not valid or is another job's fails it with error 1, a destination that does not
fit with error 6, and else it runs. A block that fails its decoding fails the read and its job, and the EMPTY ring slots that it was
to fill are zero; a good one whose ring slots are EMPTY stands FULL in them, and one whose slots are not waits. (10_weight_streams
R302, 10_weight_streams R303, 10_weight_streams R304, 10_weight_streams R297) -/
def Obligations.ExpanderReadsAtUse : Prop :=
  (∀ (s : State) (c : Fin 256) (sel dst ring : Word), ccRuns s c = true →
    let q : ExpRun := { ent := wfld sel 0 6, job := ccJob s c, dst := (dst &&& 0x8FFFC3FF).toNat, ring := wfld ring 0 11 }
    ((clu s c).expQ.length < 4 → Gives (.ccExpCmd c sel dst ring) s fun t => (clu t c).expQ = (clu s c).expQ ++ [q] ∧
      (clu t c).expHeld = (clu s c).expHeld) ∧
    (4 ≤ (clu s c).expQ.length → Gives (.ccExpCmd c sel dst ring) s fun t => (clu t c).expQ = (clu s c).expQ ∧
      (clu t c).expHeld = some q)) ∧
  (∀ (s : State) (c : Fin 256) (q : ExpRun) (rest : List ExpRun), (clu s c).expQ = q :: rest → (clu s c).expRun = none →
    let n := curPart s c
    let u := setClu s c { clu s c with expQ := rest ++ (clu s c).expHeld.toList, expHeld := none, expRun := some { q with start := cycNow s } }
    let ent := smGet {} (part s n).expTab q.ent
    let e := readEntry s c q
    let fits := dstOk s n e (fld q.dst 0 10) q.ring && !heRdonly e && heAttn e && decide (ent.uMax / 256 ≤ q.ring) && decide (q.ring ≠ 0)
    (rb s (expTblA n q.ent) 31 = false ∨ ent.job ≠ q.job →
      exec (.expReadStart c) s = Host.Outcome.next (expReadFail u c q.job 1)) ∧
    (rb s (expTblA n q.ent) 31 = true → ent.job = q.job → fits = false →
      exec (.expReadStart c) s = Host.Outcome.next (expReadFail u c q.job 6)) ∧
    (rb s (expTblA n q.ent) 31 = true → ent.job = q.job → fits = true →
      exec (.expReadStart c) s = Host.Outcome.next (expCharge u n (twRead u ent.addr)))) ∧
  (∀ (s : State) (c : Fin 256) (q : ExpRun), (clu s c).expRun = some q →
    let n := curPart s c; let b := readBlock s n q; let ent := smGet {} (part s n).expTab q.ent
    let h := hbmRead s ent.addr 256
    let free := if ent.nblk ≤ q.j then [] else (readTargets s c q).filter fun p => !(slotAt s p.1 p.2).full
    (∀ k, b.2.2 = .bad k → exec (.expBlockDone (.read c)) s = Host.Outcome.next (expReadFail
      (zeroSlots (expCharge (hbmUe (hbmUe s ent.addr (twData h)) (ent.addr + twData h + q.pos) b.1) n b.1) free false) c q.job k)) ∧
    ∀ img, b.2.2 = .good img →
      (readWaits s c q = true → exec (.expBlockDone (.read c)) s = Host.Outcome.next s) ∧
      (readWaits s c q = false → q.j + 1 < twNblk h → Gives (.expBlockDone (.read c)) s fun t =>
        (∃ q1, (clu t c).expRun = some q1 ∧ q1.j = q.j + 1 ∧ q1.pos = q.pos + b.1 ∧ q1.uSum = q.uSum + b.2.1) ∧
        ∀ k ∈ dstCores (readEntry s c q) (bitAt q.dst 31) (fld q.dst 24 4), ∀ i ∈ ringSlots (readEntry s c q) q q.uSum b.2.1,
          (slotAt t k i).full = true)) ∧
  ∀ (s : State) (c j err : Nat), c < 256 → hasFaulted s (curPart s c) j = false →
    (clu (expReadFail s c j err) c).expRun = none ∧ (clu (expReadFail s c j err) c).expErr = err ∧
    (job (expReadFail s c j err) (curPart s c) j).cause = readCause err

/-- Producer and consumer indices stay in their ring; a record is read, judged and queued; emission writes what fits. A write of ING_PI
or EM_CI that R312 allows takes effect, and any other is ignored with PG_EVT.RING_ERR. Each INGEST_RECORD with an entry to read
reads one: one that cannot be read or fails check 1 is discarded with PG_EVT bit 1, one that fails check 2 is discarded, and no
stream changes; any other of a stream without groups, that is not old in its source's sequence, joins the stream's queue with its
sequence number and the concealment cause that checks 4 to 7 give it, unless BAD is set or an export of the stream has been written.
EMISSION_RING_WRITE moves the oldest released records to the ring as far as it has room, and the producer index moves by as many;
when the oldest flip's records are all written, PG_EVT bit 3 is set. (11_ingest R311, 11_ingest R312, 11_ingest R313, 11_ingest
R315, 11_ingest R320, 11_ingest R321, 11_ingest R343) -/
def Obligations.RingsRecordsAndEmission : Prop :=
  (∀ (r : Requester) (s : State) (n : Fin 16) (v : Word),
    (wOk s r (ingPg n + 0x10C) = true → let new := v.toNat; let old := rdN s (ingPg n + 0x10C); let ci := rdN s (ingPg n + 0x110)
      (0 ≤ sdiff new old → (new + 2 ^ 32 - ci) % 2 ^ 32 ≤ ringN (rdN s (ingPg n + 0x108)) →
        Gives (.ingPi r n v) s fun t => rd t (ingPg n + 0x10C) = v) ∧
      (sdiff new old < 0 ∨ ringN (rdN s (ingPg n + 0x108)) < (new + 2 ^ 32 - ci) % 2 ^ 32 → Gives (.ingPi r n v) s fun t =>
        rdN t (ingPg n + 0x10C) = old ∧ rb t (ingPg n + 0x14) 0 = true)) ∧
    (wOk s r (ingPg n + 0x130) = true → let old := rdN s (ingPg n + 0x130)
      let room := (rdN s (ingPg n + 0x12C) + 2 ^ 32 - v.toNat) % 2 ^ 32
      (0 ≤ sdiff v.toNat old → room ≤ ringN (rdN s (ingPg n + 0x128)) → Gives (.emCi r n v) s fun t => rd t (ingPg n + 0x130) = v) ∧
      (sdiff v.toNat old < 0 ∨ ringN (rdN s (ingPg n + 0x128)) < room → Gives (.emCi r n v) s fun t =>
        rdN t (ingPg n + 0x130) = old ∧ rb t (ingPg n + 0x14) 0 = true))) ∧
  (∀ (s : State) (n : Fin 16), let cfg := rdN s (ingPg n + 0x108); let i := (ing s n).rd
    activeSt (part s n).st = true → ringOn cfg = true → i ≠ rdN s (ingPg n + 0x10C) →
    (Gives (.ingestRecord n none) s fun t => (ing t n).rd = (i + 1) % 2 ^ 32 ∧ rb t (ingPg n + 0x14) 1 = true ∧ t.strms = s.strms) ∧
    ∀ rec : List Byte,
      (rcOk1 (ringSz cfg) rec = false → Gives (.ingestRecord n (some rec)) s fun t => (ing t n).rd = (i + 1) % 2 ^ 32 ∧
        rb t (ingPg n + 0x14) 1 = true ∧ t.strms = s.strms) ∧
      (rcOk1 (ringSz cfg) rec = true → handleBad s n rec = true → Gives (.ingestRecord n (some rec)) s fun t =>
        (ing t n).rd = (i + 1) % 2 ^ 32 ∧ t.strms = s.strms) ∧
      (rcOk1 (ringSz cfg) rec = true → handleBad s n rec = false → let h := rcHandle rec; let p := profOf s h
        pfGroup p = false →
        let k := srcOf (strm s h) 0; let kind := seqKind k (rcDisc rec) (rcSeq rec) (pfGap p)
        (kind = .old → Gives (.ingestRecord n (some rec)) s fun t => (ing t n).rd = (i + 1) % 2 ^ 32 ∧ t.strms = s.strms) ∧
        (kind ≠ .old → (strm s h).bad = true → Gives (.ingestRecord n (some rec)) s fun t => (strm t h).queue = (strm s h).queue) ∧
        (kind ≠ .old → (strm s h).bad = false → ((strm s h).st ≠ .moving ∨ (strm s h).done ≠ .closed) →
          Gives (.ingestRecord n (some rec)) s fun t => ∃ c, (strm t h).queue = (strm s h).queue ++ [c] ∧ c.idx = [i] ∧
          c.seq = rcSeq rec ∧ c.conc = (judge s h rec k kind).cause))) ∧
  ∀ (s : State) (n : Fin 16), let k := min (emReleased s n) (emFree s n); let cfg := rdN s (ingPg n + 0x128)
    ringOn cfg = true → k ≠ 0 → (∀ q ∈ (smGet [] s.emis n.val).take k, recSize q ≤ ringSz cfg) → k ≤ (smGet [] s.emis n.val).length →
    Gives (.emissionRingWrite n 0) s fun t => smGet [] t.emis n.val = (smGet [] s.emis n.val).drop k ∧
      rdN t (ingPg n + 0x12C) = (rdN s (ingPg n + 0x12C) + k) % 2 ^ 32 ∧ emReleased t n = emReleased s n - k ∧
      ∀ a l, (ing s n).emGo = a :: l → a ≤ k → rb t (ingPg n + 0x14) 3 = true

/-- Groups release a chunk when covered, the front-end stores features, and PROF_CMD commits or fetches a profile. Before the cut-off a
group all of whose sources cover the window gets its chunk for the coming tick. FE_CHUNK_DONE stores the next unprocessed chunk of a
stream in a free entry whose slots are EMPTY: the chunk is ready, its slots are FULL; with no chunk to process, no room, or a chunk
of the partition that arrived earlier and can be processed, nothing changes. PROF_CMD.COMMIT of data that fails a check gives the
check's number in PROF_STAT.ERR and PG_EVT bit 5 and keeps the profile; data that passes becomes the profile; FETCH shows the
profile in PROF_DATA. (11_ingest R328, 11_ingest R333, 11_ingest R336, 11_ingest R337, 11_ingest R344, 11_ingest R345) -/
def Obligations.GroupsFeaturesAndProfiles : Prop :=
  (∀ (s : State) (n : Fin 16) (h : BitVec 20) (c : Nat), cutNs s = some c → activeSt (part s n).st = true → (strm s h.toNat).part = n.val →
    grouping s h.toNat = true → s.clk.cutDone = false → (strm s h.toNat).inp.gtick ≠ some (numAfter s 1) →
    (covered s h.toNat (winStart s (profOf s h.toNat) c) = true → exec (.groupChunkRelease n h) s =
      Host.Outcome.next (releaseGroup s h.toNat (numAfter s 1) (winStart s (profOf s h.toNat) c)) ∧
      Gives (.groupChunkRelease n h) s fun t => (strm t h.toNat).inp.gtick = some (numAfter s 1)) ∧
    (covered s h.toNat (winStart s (profOf s h.toNat) c) = false → exec (.groupChunkRelease n h) s = Host.Outcome.next s)) ∧
  (∀ (s : State) (n : Fin 16) (h : BitVec 20), activeSt (part s n).st = true → (strm s h.toNat).part = n.val →
    (strm s h.toNat).st ≠ .free → let v := reloadCtx s h.toNat; let x := strm v h.toNat
    let len := pfInRow (profOf v h.toNat) + ctxSlots (profOf v h.toNat)
    ((nextRaw x).isSome = true → feTurn s n h.toNat = false → exec (.feChunkDone n h) s = Host.Outcome.next s) ∧
    (nextRaw x = none → exec (.feChunkDone n h) s = Host.Outcome.next s) ∧
    (feTurn s n h.toNat = true ↔ ∃ k, feNext s n h.toNat = some k ∧ ∀ g ∈ strmsOf s n, ∀ i, feNext s n g = some i → k ≤ i) ∧
    ∀ i c, nextRaw x = some (i, c) →
      (len ≠ 0 → freeEntry v n x.home len = none → exec (.feChunkDone n h) s = Host.Outcome.next s) ∧
      (∀ k, len ≠ 0 → freeEntry v n x.home len = some k →
        (entryEmpty v k len = false → exec (.feChunkDone n h) s = Host.Outcome.next s) ∧
        (feTurn s n h.toNat = true → Gives (.feChunkDone n h) s fun t =>
          (∃ d, (strm t h.toNat).queue = x.queue.set i d ∧ d.ready = true ∧ d.fs = some k ∧ d.seq = c.seq) ∧
          ∀ j, j < len → (slotAt t (k / 1024) (k % 1024 + j)).full = true)) ∧
      (len = 0 → feTurn s n h.toNat = true → Gives (.feChunkDone n h) s fun t =>
        ∃ d, (strm t h.toNat).queue = x.queue.set i d ∧ d.ready = true ∧ d.fs = none ∧ d.seq = c.seq)) ∧
  ∀ (r : Requester) (s : State) (n : Fin 16), wOk s r (ingPg n + 0x144) = true →
    let k := rf s (ingPg n + 0x140) 0 8; let e := profErr s n k (profData s n)
    (e ≠ 0 → Gives (.profCommit r n) s fun t => rdN t (ingPg n + 0x148) = e * 2 ^ 24 ∧ rb t (ingPg n + 0x14) 5 = true ∧
      (ing t n).profs = (ing s n).profs) ∧
    (e = 0 → Gives (.profCommit r n) s fun t => rdN t (ingPg n + 0x148) = 1 ∧ prof t n k = profData s n) ∧
    Gives (.profFetch r n) s fun t => rdN t (ingPg n + 0x148) = 1 ∧
      ∀ w, w < 16 → rdN t (ingPg n + 0x180 + 4 * w) = pf (prof s n k) (4 * w) 4 % 2 ^ 32

/-- Port frames are kept and sent, lock is gained by the 64th good frame and lost on a bad one or none. A master port sends a frame at
its time: a TDM port keeps the frame it receives at the head of its frames, and every locked output sends, for each channel, the
next sample under the gain in force. A slave port's frame that ends the 64th good interval in a row gives lock, with PG_EVT bit 0;
the first frame after a gap ends none; a bad one takes lock away, with PG_EVT bit 1 when it had it. No frame within four periods
takes lock away and empties the interval record. Non-audio ends when the latched status bit is 0 and 8,192 frames have come without
the sync words. (12_audio_ports R349, 12_audio_ports R350, 12_audio_ports R351, 12_audio_ports R357, 12_audio_ports R360) -/
def Obligations.PortsSendReceiveAndLock : Prop :=
  (∀ (s : State) (p : Fin 16) (slots : List Word), pcEn (pCfg s p) = true → pcClk (pCfg s p) = 0 →
    let v := toTb s (nextFrameNs s p * uNs)
    (p.val < 8 → Gives (.portMasterFrame p slots) s fun t => ∃ f, (prt t p).frames.head? = some f ∧ f.t = tbNs v ∧ f.non = false ∧
      f.x = (padTo (pcSlots (pCfg s p)) 0 slots).map (slotSample (pcPack (pCfg s p)))) ∧
    (hasOut p = true → (prt s p).lock = true → Gives (.portMasterFrame p slots) s fun t => (prt t p).tx =
      (List.range (outChans s p)).map fun c => outWord (pcPack (pCfg s p)) (rdN t (portPg p + 0x280 + 4 * c)) ((nth [] (prt s p).out c).headD 0)) ∧
    (p.val < 8 ∨ 12 ≤ p.val → Gives (.portMasterFrame p slots) s fun t => (prt t p).out = (prt s p).out.map List.tail)) ∧
  (∀ (s : State) (p : Fin 16) (f : FrameIn), slavePort s p = true →
    (f.bad = true → Gives (.portFrame p f) s fun t => (prt t p).lock = false ∧
      ((prt s p).lock = true → rb t (portPg p + 0x14) 1 = true)) ∧
    (f.bad = false → (prt s p).lock = false → (prt s p).good = 63 →
      (∀ t0 l, (prt s p).times = t0 :: l → nearPeriod (pHz s p) (tbNs (toTb s (f.time * uNs)) - t0) = true →
        Gives (.portFrame p f) s fun t => (prt t p).lock = true ∧ rb t (portPg p + 0x14) 0 = true) ∧
      ((prt s p).times = [] → Gives (.portFrame p f) s fun t => (prt t p).lock = false ∧ (prt t p).good = 63))) ∧
  (∀ (s : State) (p : Fin 16) (t0 : Nat) (l : List Nat), (prt s p).times = t0 :: l → slavePort s p = true → (prt s p).lock = true →
    pHz s p ≠ 0 → Gives (.portFrameTimeout p) s fun t => (prt t p).lock = false ∧ (prt t p).times = [] ∧
      rb t (portPg p + 0x14) 1 = true ∧ ∀ q ∈ followers s p, (prt t q).lock = false) ∧
  ∀ (s : State) (p : Fin 16), (prt s p).non = true → (prt s p).csBad = false → (prt s p).since = 8192 →
    Gives (.nonaudioEnd p) s fun t => prt t p = { prt s p with non := false }

/-- PORT_CFG, OUT_PI, CH_CTRL and ZC_TMO take the values they may hold and refuse the rest with PG_EVT bit 7. With the host up and the
device ready: PORT_CFG with EN rising takes fields that are consistent and starts the port, refuses others with PG_EVT bit 7 and
keeps the register, and with EN falling stops the port; fields do not change while EN is 1. OUT_PI of a port with an output moves as
R312 allows. A change of CH_CTRL waits for a zero crossing with PEND set and its timer started while the port runs and is not
silent, and applies at once in silence; at ZC_TIMEOUT it applies and is counted. ZC_TMO takes 5 to 500. A port without an output has
neither ZC_TMO nor OUT_PI. (12_audio_ports R348, 12_audio_ports R358, 12_audio_ports R361, 11_ingest R312, 00_scope R10) -/
def Obligations.PortRegistersAreChecked : Prop :=
  ∀ (s : State) (p : Fin 16), hostReady s = true →
    (∀ v : Word, rb s (portPg p + 0x30) 0 = false → let f := Nat.land v.toNat pCfgMask
      (pcEn (pCfg s p) = false → bitAt v.toNat 31 = true →
        (pCfgBad p f = false → Gives (.portCfg p v) s fun t => pCfg t p = 2 ^ 31 + f ∧ (prt t p).frames = [] ∧
          (pcClk f = 0 → (prt t p).lock = true) ∧ (pcClk f = 1 → (prt t p).lock = false)) ∧
        (pCfgBad p f = true → Gives (.portCfg p v) s fun t => pCfg t p = pCfg s p ∧ rb t (portPg p + 0x14) 7 = true)) ∧
      (pcEn (pCfg s p) = false → bitAt v.toNat 31 = false → Gives (.portCfg p v) s fun t => pCfg t p = f) ∧
      (pcEn (pCfg s p) = true → bitAt v.toNat 31 = true → Gives (.portCfg p v) s fun t => pCfg t p = pCfg s p ∧
        (f ≠ Nat.land (pCfg s p) pCfgMask → rb t (portPg p + 0x14) 7 = true)) ∧
      (pcEn (pCfg s p) = true → bitAt v.toNat 31 = false → Gives (.portCfg p v) s fun t => pcEn (pCfg t p) = false ∧
        (prt t p).lock = false ∧ (prt t p).tx = [])) ∧
    (∀ v : Word, hasOut p = true →
      (piOk (rdN s (portPg p + 0x128)) (rdN s (portPg p + 0x12C)) (rdN s (portPg p + 0x130)) v.toNat = true →
        Gives (.outPi p v) s fun t => rd t (portPg p + 0x12C) = v) ∧
      (piOk (rdN s (portPg p + 0x128)) (rdN s (portPg p + 0x12C)) (rdN s (portPg p + 0x130)) v.toNat = false →
        Gives (.outPi p v) s fun t => rd t (portPg p + 0x12C) = rd s (portPg p + 0x12C) ∧ rb t (portPg p + 0x14) 7 = true)) ∧
    (∀ (ch : Fin 32) (v : Word), hasOut p = true → (12 ≤ p.val → ch.val < 2) →
      let a := portPg p + 0x200 + 4 * ch.val; let k := Nat.land v.toNat chMask
      (k ≠ Nat.land (rdN s a) chMask → chPend s p ch = false →
        (pcEn (pCfg s p) = true → (prt s p).isSil = true → Gives (.chCtrl p ch v) s fun t => rdN t a = k ∧
          rdN t (portPg p + 0x280 + 4 * ch.val) = k ∧ chPend t p ch = false) ∧
        (pcEn (pCfg s p) = true → (prt s p).isSil = false → Gives (.chCtrl p ch v) s fun t => rdN t a = k ∧ chPend t p ch = true ∧
          rb t (portPg p + 0x280 + 4 * ch.val) 17 = true)) ∧
      (chPend s p ch = true → Gives (.zcTimeout p ch) s fun t => chPend t p ch = false ∧ rb t (portPg p + 0x14) 4 = true ∧
        rdN t (portPg p + 0x280 + 4 * ch.val) = Nat.land (rdN s a) chMask)) ∧
    (hasOut p = false → ∀ v : Word, exec (.zcTmo p v) s = Host.Outcome.next s ∧ exec (.outPi p v) s = Host.Outcome.next s) ∧
    ∀ v : Word, hasOut p = true → (5 ≤ wfld v 0 10 → wfld v 0 10 ≤ 500 → Gives (.zcTmo p v) s fun t => rdN t (portPg p + 0x10C) = wfld v 0 10) ∧
      (wfld v 0 10 < 5 ∨ 500 < wfld v 0 10 → Gives (.zcTmo p v) s fun t => rdN t (portPg p + 0x10C) = rdN s (portPg p + 0x10C) ∧
        rb t (portPg p + 0x14) 7 = true)

/-- An endpoint that is up answers each SPDM request; sessions open, finish, update and end. For an endpoint that answers: GET_VERSION
to GET_CERTIFICATE, CHALLENGE, GET_MEASUREMENTS and the summit read leave their response and change nothing else; measurements are
signed over the blocks asked for and the nonce, and a block that does not exist is an error. KEY_EXCHANGE opens the lowest free of 8
sessions or answers Busy. FINISH completes an open session that is not finished, with the outcome of mutual authentication;
HEARTBEAT, KEY_UPDATE and END_SESSION act on a finished (END_SESSION: any) session of the endpoint, and a message for another
session is an error that changes no session. An endpoint that is not up answers nothing. (13_parties R364, 13_parties R365,
13_parties R366) -/
def Obligations.SpdmResponderAnswersAndKeepsSessions : Prop :=
  (∀ (s : State) (e : Endpoint), epUp s e = true → ∀ (nonce : List Byte) (first : Nat),
    (∀ q ∈ [(Instr.getVersion e, SpdmRsp.version), (.getCapabilities e, .capabilities), (.negotiateAlgorithms e, .algorithms),
        (.getDigests e, .digests (Config.sha384 Config.certChain)), (.getCertificate e, .certificate Config.certChain),
        (.challenge e nonce, .challengeAuth (Config.ecdsaSign (Config.sha384 Config.certChain ++ nonce))),
        (.spdmSummitRead e first, .summit (sumFirst s) (sumLast s) s.sirvi.summit.head ((sumAll s).filter fun x => decide (first ≤ sumSeq x)))],
      exec q.1 s = Host.Outcome.next (setRsp s e q.2)) ∧
    (∀ i b, 1 ≤ i → i ≤ 7 → measBlock s i = some b → exec (.getMeasurements e i nonce) s =
      Host.Outcome.next (setRsp s e (.measurements [(i, b)] (Config.ecdsaSign (b ++ nonce))))) ∧
    (∀ i, i = 0 ∨ (7 < i ∧ i ≠ 0xFF) → exec (.getMeasurements e i nonce) s = Host.Outcome.next (setRsp s e .error)) ∧
    (∀ i, i < 8 → (sess s i).live = false → (∀ j, j < i → (sess s j).live = true) → Gives (.keyExchange e nonce) s fun t =>
      sess t i = { live := true, ep := e, hash := nonce } ∧ smGet .none t.spdm e.val = .keyExchange i ∧ ∀ j, j ≠ i → sess t j = sess s j) ∧
    ((∀ i, i < 8 → (sess s i).live = true) → exec (.keyExchange e nonce) s = Host.Outcome.next (setRsp s e .busy)) ∧
    ∀ (i : Nat) (auth : Bool), let mine := (sess s i).live = true ∧ (sess s i).ep = e.val
      (mine → (sess s i).done = false →
        (Gives (.finish e i auth) s fun t => sess t i = { sess s i with done := true, auth := auth } ∧ smGet .none t.spdm e.val = .finish) ∧
        ∀ c ∈ [Instr.spdmHeartbeat e i, .keyUpdate e i], exec c s = Host.Outcome.next (setRsp s e .error)) ∧
      (mine → (sess s i).done = true →
        exec (.finish e i auth) s = Host.Outcome.next (setRsp s e .error) ∧
        exec (.spdmHeartbeat e i) s = Host.Outcome.next (setRsp s e .heartbeatAck) ∧
        Gives (.keyUpdate e i) s fun t => (sess t i).upd = (sess s i).upd + 1 ∧ smGet .none t.spdm e.val = .keyUpdateAck) ∧
      (mine → Gives (.endSession e i) s fun t => (sess t i).live = false ∧ smGet .none t.spdm e.val = .endSessionAck) ∧
      (¬mine → ∀ c ∈ [Instr.finish e i auth, .spdmHeartbeat e i, .keyUpdate e i, .endSession e i],
        exec c s = Host.Outcome.next (setRsp s e .error))) ∧
  ∀ (s : State) (e : Endpoint) (x : List Byte) (i : Nat) (b : Bool), epUp s e = false →
    ∀ c ∈ [Instr.getVersion e, .getCapabilities e, .negotiateAlgorithms e, .getDigests e, .getCertificate e, .challenge e x,
      .getMeasurements e i x, .keyExchange e x, .finish e i b, .spdmHeartbeat e i, .keyUpdate e i, .endSession e i, .spdmSummitRead e i],
      exec c s = Host.Outcome.next s

/-- Key service requests of the slot's requester load, rotate, drop and erase party keys; others are refused. While a mailbox command
runs no key service request is taken. Else one on a live session is answered on its endpoint: status 4 in debug, 1 when the session
is not the slot requester's, 5 while the slot erases or (for key requests) a rotation waits. Else KEY_SET gives an empty slot its
key and identifier with the vector counter at 0; KEY_ROTATE leaves a rotation waiting for the edge; KEY_DROP_OLD zeroes the retained
key; each with status 2 or 3 instead where the slot or the identifier does not allow it, and the slot unchanged. KEY_ERASE tears
down the party's partitions and leaves the slot erasing; when they are all OFF the erase completes: the slot keeps only its binding.
Each that acts advances the summit register. (13_parties R367, 13_parties R369, 13_parties R372, 13_parties R373, 13_parties R387) -/
def Obligations.KeyServiceRequestsActOnTheirSlot : Prop :=
  ∀ (s : State) (i : Nat) (slot : Fin 16) (id : DWord) (key : List Byte), sirviUp s = true → (sess s i).live = true →
    let k := keySlot s slot; let e := (sess s i).ep
    let reqs := [Instr.keySet i slot id key, .keyRotate i slot id key, .keyDropOld i slot, .keyErase i slot]
    (mbBusy s = true → ∀ c ∈ reqs, exec c s = Host.Outcome.next s) ∧
    (mbBusy s = false →
    (dbgOn s = true → ∀ c ∈ reqs, exec c s = Host.Outcome.next (setRsp s e (.vendor 4))) ∧
    (dbgOn s = false → keyAuth s i slot = false → ∀ c ∈ reqs, exec c s = Host.Outcome.next (setRsp s e (.vendor 1))) ∧
    (dbgOn s = false → keyAuth s i slot = true →
      (k.erasing = true → ∀ c ∈ reqs, exec c s = Host.Outcome.next (setRsp s e (.vendor 5))) ∧
      (k.erasing = false → k.rot.isSome = true → ∀ c ∈ [Instr.keySet i slot id key, .keyRotate i slot id key, .keyDropOld i slot],
        exec c s = Host.Outcome.next (setRsp s e (.vendor 5))) ∧
      (k.erasing = false → k.rot = none →
        (k.pk.isSome = true → exec (.keySet i slot id key) s = Host.Outcome.next (setRsp s e (.vendor 2))) ∧
        (k.pk = none → id = 0 ∨ key.length ≠ 32 ∨ idHeld s slot id.toNat = true →
          exec (.keySet i slot id key) s = Host.Outcome.next (setRsp s e (.vendor 3))) ∧
        (k.pk = none → id ≠ 0 → key.length = 32 → idHeld s slot id.toNat = false → Gives (.keySet i slot id key) s fun t =>
          keySlot t slot = { k with keyid := id.toNat, pk := some key, iv := 0 } ∧ smGet .none t.spdm e = .vendor 0 ∧
          s.sirvi.summit.next < t.sirvi.summit.next) ∧
        (k.pk = none → exec (.keyRotate i slot id key) s = Host.Outcome.next (setRsp s e (.vendor 2))) ∧
        (k.pk.isSome = true → id ≠ 0 → key.length = 32 → id.toNat ≠ k.keyid → id.toNat ≠ k.rkeyid → idHeld s slot id.toNat = false →
          Gives (.keyRotate i slot id key) s fun t => keySlot t slot = { k with rot := some (id.toNat, key) } ∧
            smGet .none t.spdm e = .vendor 0 ∧ s.sirvi.summit.next < t.sirvi.summit.next) ∧
        (k.rk = none → exec (.keyDropOld i slot) s = Host.Outcome.next (setRsp s e (.vendor 2))) ∧
        (k.rk.isSome = true → Gives (.keyDropOld i slot) s fun t => keySlot t slot = { k with rkeyid := 0, rk := none } ∧
          s.sirvi.summit.next < t.sirvi.summit.next)) ∧
      (k.erasing = false → Gives (.keyErase i slot) s fun t => (keySlot t slot).erasing = true ∧ (keySlot t slot).rot = none ∧
        ∀ n, n < 16 → partParty s n = k.party → (part s n).st ≠ .running → (part s n).st ≠ .maintenance →
          (part t n).st = .zeroising ∨ (part t n).st = .off))) ∧
    (k.erasing = true → partsOfParty s k.party = [] → 1 ≤ k.party → k.party ≤ 16 → Gives (.keyEraseComplete slot) s fun t =>
      keySlot t slot = { party := k.party, reqHash := k.reqHash } ∧ smGet .none t.spdm k.ep = .vendor 0 ∧ winValid t k.party = false)

/-- POLICY_SET and the steady-mode requests set policy, budgets and what waits for the edge. On a live session of the slot's requester,
outside debug, an erase and a running mailbox command: POLICY_SET writes REQ_TDI and SHIELD, which also stands while steady mode is
active. STEADY_SET of a slot without a key answers 2 and one with a field out of range 3; else a new generation is pending with the
budgets, which show at once unless steady mode is active. STEADY_CLEAR ends what is pending, and steady mode at the next edge. An
ACCEPT in PTY_STEADY_ACK with the pending generation is noted for the edge, and any other changes nothing. (13_parties R379,
13_parties R382, 13_parties R369, 13_parties R388) -/
def Obligations.PolicyAndSteadyModeRequests : Prop :=
  (∀ (s : State) (i : Nat) (slot : Fin 16), sirviUp s = true → mbBusy s = false → (sess s i).live = true → dbgOn s = false →
    keyAuth s i slot = true → (keySlot s slot).erasing = false → (keySlot s slot).party ≤ 16 → let p := (keySlot s slot).party; let e := (sess s i).ep
    let a := ptyPg p + 0x218
    (∀ shield tdi, Gives (.policySet i slot shield tdi) s fun t => rb t (ptyPg p + 0x200) 1 = tdi ∧
      rb t (ptyPg p + 0x200) 0 = (shield || steadyOn s p) ∧ smGet .none t.spdm e = .vendor 0) ∧
    (∀ (b : List DWord) (emit pavg : Nat),
      ((keySlot s slot).pk = none → exec (.steadySet i slot b emit pavg) s = Host.Outcome.next (setRsp s e (.vendor 2))) ∧
      ((keySlot s slot).pk.isSome = true → b.length ≠ 7 ∨ emit = 0 ∨ 8 < emit ∨ pavg = 0 ∨ 60 < pavg →
        exec (.steadySet i slot b emit pavg) s = Host.Outcome.next (setRsp s e (.vendor 3))) ∧
      ((keySlot s slot).pk.isSome = true → b.length = 7 → 1 ≤ emit → emit ≤ 8 → 1 ≤ pavg → pavg ≤ 60 →
        Gives (.steadySet i slot b emit pavg) s fun t => rb t a 30 = true ∧ rf t a 16 8 = (rf s a 16 8 + 1) % 256 ∧
          steadyOn t p = steadyOn s p ∧
          (steadyOn s p = true → (stdy t p).next = some (b.map BitVec.toNat, emit, pavg)) ∧
          (steadyOn s p = false → rf t a 8 4 = emit ∧ rf t a 0 6 = pavg ∧
            ∀ k, k < 7 → rd64 t (ptyPg p + 0x240 + 8 * k) = (b.getD k 0).toNat))) ∧
    Gives (.steadyClear i slot) s fun t => rb t a 30 = false ∧ (stdy t p).next = none ∧ (stdy t p).clear = steadyOn s p) ∧
  ∀ (r : Requester) (s : State) (p : Fin 16) (v : Word), wOk s r (ptyPg (p.val + 1) + 0x21C) = true → let a := ptyPg (p.val + 1) + 0x218
    (bitAt v.toNat 8 = true → rb s a 30 = true → fld v.toNat 0 8 = rf s a 16 8 → Gives (.ptySteadyAck r p v) s fun t =>
      (stdy t (p.val + 1)).ack = true ∧ s.sirvi.summit.next < t.sirvi.summit.next) ∧
    (bitAt v.toNat 8 = false ∨ rb s a 30 = false ∨ fld v.toNat 0 8 ≠ rf s a 16 8 → exec (.ptySteadyAck r p v) s = Host.Outcome.next s)

/-- IDE keys make streams secure, TDISP moves a VF's interface, and debug entry erases every key and HBM. On a finished session of the
owner's endpoint, IDE_KM programs a key set and K_SET_GO of a programmed one makes the stream secure. LOCK_INTERFACE takes
CONFIG_UNLOCKED to CONFIG_LOCKED while the VF's stream is secure, START_INTERFACE takes it on to RUN, STOP_INTERFACE leaves
CONFIG_UNLOCKED; out of order the first two are errors. DEBUG_NONCE returns a fresh nonce. DEBUG_CONSENT in debug answers 4, with a
grant that does not verify 5, and with one that does starts the entry; once every partition is OFF, debug is entered: no slot holds
a key, HBM holds nothing, no session lives; a reset that waited follows, then the BMC's commands that waited. (13_parties R376,
13_parties R386, 13_parties R387, 16_host_registers R449, 16_host_registers R450, 13_parties R374) -/
def Obligations.IdeTdispAndDebugEntry : Prop :=
  (∀ (s : State) (e : Endpoint) (i : Nat), epUp s e = true → (sess s i).live = true → (sess s i).ep = e.val → (sess s i).done = true →
    ∀ (k : Fin 18) (set : Bool) (key : List Byte), ideOwner k = e.val →
      (Gives (.ideKm e i k set key) s fun t => (if set then (ide t k).k1 else (ide t k).k0) = key ∧ smGet .none t.spdm e.val = .ideAck) ∧
      ((if set then (ide s k).k1 else (ide s k).k0) = [] → exec (.kSetGo e i k set) s = Host.Outcome.next (setRsp s e .error)) ∧
      ((if set then (ide s k).k1 else (ide s k).k0) ≠ [] → Gives (.kSetGo e i k set) s fun t => (ide t k).cur = some set ∧
        rb t (funcsPg + 0x108) (ideBit k) = true)) ∧
  (∀ (s : State) (k : Fin 16) (i : Nat), epUp s (k.val + 1) = true → (sess s i).live = true → (sess s i).ep = k.val + 1 →
    (sess s i).done = true →
    (tdi s k = 0 → ideSecure s k = true → Gives (.lockInterface k i) s fun t => tdi t k = 1 ∧ smGet .none t.spdm (k.val + 1) = .tdisp 1) ∧
    (tdi s k ≠ 0 ∨ ideSecure s k = false → exec (.lockInterface k i) s = Host.Outcome.next (setRsp s (k.val + 1) .error)) ∧
    (tdi s k = 1 → Gives (.startInterface k i) s fun t => tdi t k = 2) ∧
    (tdi s k ≠ 1 → exec (.startInterface k i) s = Host.Outcome.next (setRsp s (k.val + 1) .error)) ∧
    Gives (.stopInterface k i) s fun t => tdi t k = 0 ∧ smGet .none t.spdm (k.val + 1) = .tdisp 0) ∧
  (∀ (s : State) (bmc : Bool) (g : List Byte), mbBusy s = true →
    (mbUp s bmc 0x70 = true → exec (.debugNonce bmc) s = Host.Outcome.next (mbHold (.debugNonce bmc) bmc s)) ∧
    (mbUp s bmc 0x71 = true → exec (.debugConsent bmc g) s = Host.Outcome.next (mbHold (.debugConsent bmc g) bmc s))) ∧
  (∀ (s : State) (bmc : Bool) (g : List Byte), mbUp s bmc 0x70 = true → mbUp s bmc 0x71 = true → mbBusy s = false →
    (Gives (.debugNonce bmc) s fun t => t.sirvi.nonce = some (padTo 32 0 (Config.drbg s.sirvi.drbg 32)) ∧
      t.sirvi.drbg = s.sirvi.drbg + 1) ∧
    (dbgOn s = true → exec (.debugConsent bmc g) s = Host.Outcome.next (mbReply s bmc 0x71 4 [])) ∧
    (dbgOn s = false → grantOk s g = false → exec (.debugConsent bmc g) s =
      Host.Outcome.next (mbReply (sumCmd s 0x0042 4 0 0 0 []) bmc 0x71 5 [])) ∧
    (dbgOn s = false → grantOk s g = true → Gives (.debugConsent bmc g) s fun t => t.sirvi.dbgReq = some (bf g 6 2, bmc) ∧
      s.sirvi.summit.next < t.sirvi.summit.next)) ∧
  ∀ (s : State) (scope : Nat) (bmc : Bool), s.sirvi.dbgReq = some (scope, bmc) →
    let v := debugEnteredEff s
    (allOff s = false → exec .debugEntered s = Host.Outcome.next s) ∧
    (allOff s = true → v.sirvi.dbg = some scope ∧ v.sirvi.dbgReq = none ∧ v.hbm = [] ∧ v.sess = [] ∧
      (∀ i, i < 16 → (keySlot v i).pk = none ∧ (keySlot v i).rk = none ∧ (keySlot v i).wk = none) ∧
      (∀ k m, s.sirvi.swait = some (k, m) → exec .debugEntered s = Host.Outcome.next (sirviReset v 0 k m)) ∧
      (s.sirvi.swait = none → ∀ k, s.sirvi.wait = some k → s.sirvi.boot = .ready →
        exec .debugEntered s = Host.Outcome.next (mbDrain (warmReset v k))) ∧
      (s.sirvi.swait = none → s.sirvi.wait = none → exec .debugEntered s = Host.Outcome.next (mbDrain v) ∧
        (s.sirvi.mbq = [] → exec .debugEntered s = Host.Outcome.next v)))

/-- A link port trains, attests and comes UP, or goes DOWN with its cause and loses what it holds. LK_CTRL of the ready host: DISABLE
makes the port DISABLED, EN rising on a DOWN port or EN on a DISABLED one starts TRAINING, EN = 0 takes a port that trains, attests
or is UP DOWN. TRAINING_DONE leads to ATTESTING and its timeout to DOWN with cause 5; attestation with the neighbour's coordinate
and map leads to UP with PG_EVT bit 0, with others to DOWN with cause 7, without authentication or in time to DOWN with cause 3. A
DOWN port that is enabled retries. In ATTESTING and UP a HEARTBEAT is sent at its time, and a missing one takes the port DOWN with
cause 1. Going DOWN sets the cause and PG_EVT bit 1, empties the port, and faults with cause 7 the job of every SEND in flight.
(14_links_belay R390, 14_links_belay R391, 14_links_belay R394, 14_links_belay R395, 14_links_belay R398) -/
def Obligations.LinkPortsTrainAttestAndFall : Prop :=
  ∀ (s : State) (p : Fin 20),
    let down (i : Instr) (k : Nat) : Prop := Gives i s fun t => lkState t p = 0 ∧ rf t (lkReg p 4) 4 4 = k ∧
      rb t (lkPg p + 0x14) 1 = true ∧ (lport t p).sent = [] ∧ (lport t p).waitQ = [] ∧ ∀ m ∈ (lport s p).msgs, m.fwd = false →
        m.head.kind = .send → hasFaulted t m.head.spart m.head.job = true;
    (hostReady s = true → ∀ v : Word,
      (bitAt v.toNat 1 = true → Gives (.lkCtrl p v) s fun t => lkState t p = 4 ∧ rdN t (lkReg p 0) = wfld v 0 2) ∧
      (bitAt v.toNat 1 = false → bitAt v.toNat 0 = true → lkState s p = 4 ∨ (lkState s p = 0 ∧ rb s (lkReg p 0) 0 = false) →
        Gives (.lkCtrl p v) s fun t => lkState t p = 1 ∧ rdN t (lkReg p 0) = wfld v 0 2) ∧
      (bitAt v.toNat 1 = false → bitAt v.toNat 0 = false → lkState s p = 1 ∨ lkState s p = 2 ∨ lkState s p = 3 → down (.lkCtrl p v) 0)) ∧
    (lkState s p = 1 → (Gives (.trainingDone p) s fun t => lkState t p = 2) ∧ down (.trainingTimeout p) 5) ∧
    (lkState s p = 2 → down (.attestTimeout p) 3 ∧ down (.attestDone p .authFail) 3 ∧
      ∀ (c : Fin 256) (mapOk : Bool),
        (c.val = nextCoord s (p.val / 5) → mapOk = true → Gives (.attestDone p (.ok c mapOk)) s fun t => lkState t p = 3 ∧
          rdN t (lkReg p 8) = 2 ^ 31 + c.val ∧ rb t (lkPg p + 0x14) 0 = true) ∧
        (c.val ≠ nextCoord s (p.val / 5) ∨ mapOk = false → down (.attestDone p (.ok c mapOk)) 7)) ∧
    (lkState s p = 0 → rb s (lkReg p 0) 0 = true → rb s (lkReg p 0) 1 = false → Gives (.linkRetry p) s fun t => lkState t p = 1) ∧
    (lkRx s p = true → down (.heartbeatTimeout p) 1 ∧ Gives (.heartbeatSend p) s fun t => (lport t p).beats = (lport s p).beats + 1)

/-- A flit that arrives passes the receive checks in their order, and an accepted one acts by its TYPE. Take a port in ATTESTING or UP
and a flit in its row. A flit whose CRC fails is counted and answered with a NAK; an illegal one takes the port DOWN with cause 4;
one out of sequence is answered with a NAK once and discarded; one of a wrong epoch is an authentication failure, and DOWN with
cause 3; DATA beyond the credit given takes the port DOWN with cause 4; in ATTESTING, DATA and TAG do nothing. An accepted sequenced
flit without NAK advances the receive sequence: DATA joins the group, a TAG that verifies releases the group's messages and one that
does not takes the port DOWN with cause 3; MGMT and IDLE change no message, and a HEARTBEAT whose tag fails is an authentication
failure. (14_links_belay R392, 14_links_belay R393, 14_links_belay R394, 14_links_belay R395, 14_links_belay R396) -/
def Obligations.FlitsPassTheChecksInOrder : Prop :=
  ∀ (s : State) (p : Fin 20) (f : Flit) (good : Bool), lkRx s p = true →
    let x := lport s p
    let rows := [(Instr.mgmt p f, rowFits f 4, true), (.tag p f good, rowFits f 2, good), (.idle p f, rowFits f 0, true),
      (.heartbeat p f good, rowFits f 3, good),
      (.nak p f, f.nak && (!flitCrcOk f || !flitLegal f || (f.typ ≠ 2 && f.typ ≠ 3)), true), (.send p f, kindFits f .send, true),
      (.coll p f, kindFits f .coll, true), (.blob p f, kindFits f .blob, true), (.adv p f, kindFits f .adv, true),
      (.release p f, kindFits f .release, true), (.bhb p f, kindFits f .bhb, true)]
    ∀ q ∈ rows, q.2.1 = true →
    let ok1 := flitCrcOk f; let ok2 := flitLegal f; let early := lkState s p = 2 ∧ (f.typ = 1 ∨ f.typ = 2)
    let inSeq := flitSeqd f = false ∨ f.seq.toNat = x.rxSeq; let ep := f.epoch.toNat = x.rxEp
    let credit := f.typ ≠ 1 ∨ nth 0 x.gave f.vc.val ≠ 0;
    (ok1 = false → Gives q.1 s fun t => (lport t p).naks = x.naks + 1 ∧ (lport t p).gap = true ∧ (lport t p).rxSeq = x.rxSeq ∧
      lkState t p = lkState s p) ∧
    (ok1 = true → ok2 = false → exec q.1 s = Host.Outcome.next (lkDown s p 4)) ∧
    (ok1 = true → ok2 = true → early → exec q.1 s = Host.Outcome.next s) ∧
    (ok1 = true → ok2 = true → ¬early → ¬inSeq → exec q.1 s = Host.Outcome.next (if x.gap then s else sendNak s p)) ∧
    (ok1 = true → ok2 = true → ¬early → inSeq → ¬ep → exec q.1 s = Host.Outcome.next (lkDown (lkAuthFail s p) p 3)) ∧
    (ok1 = true → ok2 = true → ¬early → inSeq → ep → ¬credit → exec q.1 s = Host.Outcome.next (lkDown s p 4)) ∧
    (ok1 = true → ok2 = true → ¬early → inSeq → ep → credit → f.nak = false →
      (f.typ = 1 → Gives q.1 s fun t => (lport t p).rxSeq = (x.rxSeq + 1) % 2 ^ 32 ∧ (lport t p).gap = false ∧
        (lport t p).group = x.group ++ [(f.vc.val, f.mstart, f.payload)]) ∧
      (f.typ = 2 → q.2.2 = true → Gives q.1 s fun t => ∃ u m, u = takeGroup m ∧ m.group = x.group ∧ m.part = x.part ∧ m.rxEp = x.rxEp ∧ m.rxNext = x.rxNext ∧ m.gave = x.gave ∧
        m.rxSeq = (x.rxSeq + 1) % 2 ^ 32 ∧ t = each (modLport s p fun _ => u.1) u.2 (deliver p)) ∧
      (f.typ = 2 → q.2.2 = false → Gives q.1 s fun t => lkState t p = 0 ∧ rf t (lkReg p 4) 4 4 = 3) ∧
      (f.typ = 4 → Gives q.1 s fun t => (lport t p).rxSeq = (x.rxSeq + 1) % 2 ^ 32 ∧ (lport t p).group = x.group) ∧
      (f.typ = 3 → q.2.2 = false → Gives q.1 s fun t => (lport t p).rxSeq = x.rxSeq ∧ rb t (lkPg p + 0x14) 2 = true ∧
        lkState t p = lkState s p) ∧
      (f.typ = 0 ∨ (f.typ = 3 ∧ q.2.2 = true) → Gives q.1 s fun t => (lport t p).rxSeq = x.rxSeq ∧ (lport t p).group = x.group ∧
        t.regs = s.regs))

/-- LK.SEND and LK.COLL join the core's engine; a collective that waits too long faults its job with cause 7. When the op is the one to
issue, LK.SEND with an operand refused or outside the cluster faults the job with cause 4, waits while the engine holds 16
operations, and else joins the engine; LK.COLL with a reserved op, a length that does not fit the ring, or a ring whose links are
not in the map faults with cause 3, with an operand refused with cause 4, and else joins the engine of every core it names.
COLL_TIMEOUT ends the first collective of the cluster that waits for a message: it leaves its engine, is counted, and its job faults
with cause 7. COLL_TMO takes 4,096 to 16,777,216. (14_links_belay R398, 14_links_belay R400, 14_links_belay R403, 09_memory R270,
09_memory R271) -/
def Obligations.LinkOpsAndCollectiveTimeouts : Prop :=
  (∀ (s : State) (c : Fin 256), let u := atIssue s c; let w := slotBits u c .nc
    (canOp (settle s c) c .nc 0x40 = true → let ref := fld w 32 24
      let me := ncCore (hentry u c (refHandle ref));
      (ncSlots u c ref (fld w 25 5 + 1) false = none → exec (.lkSend c) s = Host.Outcome.next (clusFault u c 4)) ∧
      (∀ l, ncSlots u c ref (fld w 25 5 + 1) false = some l →
        (me / 16 ≠ c → exec (.lkSend c) s = Host.Outcome.next (clusFault u c 4)) ∧
        (me / 16 = c → 16 ≤ (smGet [] u.noc me).length → exec (.lkSend c) s = Host.Outcome.next (freezeOn u c (.noc me))) ∧
        (me / 16 = c → (smGet [] u.noc me).length < 16 → smGet [] u.noc me ≠ [] → Gives (.lkSend c) s fun t => 8 ∈ (clu t c).did ∧
          ∃ o, o.kind = .send ∧ o.src = l ∧ o.job = curJob u c ∧ smGet [] t.noc me = smGet [] u.noc me ++ [o]) ∧
        (me / 16 = c → smGet [] u.noc me = [] → Gives (.lkSend c) s fun t => ∃ o v, o.kind = .send ∧ o.src = l ∧
          smGet [] v.noc me = [o] ∧ 8 ∈ (clu v c).did ∧ t = nocGo v me))) ∧
    (canOp (settle s c) c .nc 0x48 = true → let k := fld w 6 2; let ns := fld (bImm (curBundle u c)) 0 11
      let lp := rdN u (partPg (curPart u c) + 0x408)
      let bad := k = 3 ∨ ns = 0 ∨ 1024 < ns ∨ ns % dimX u ≠ 0 ∨ bitAt lp 16 = false ∨ bitAt lp 17 = false
      let ops := collOps u c (fld w 32 24) (fld w 8 24) (if k = 1 then ns / dimX u else ns) (if k = 2 then ns / dimX u else ns);
      (bad → exec (.lkColl c) s = Host.Outcome.next (clusFault u c 3)) ∧
      (¬bad → ops = none → exec (.lkColl c) s = Host.Outcome.next (clusFault u c 4)) ∧
      ∀ l, ¬bad → ops = some l →
        (∀ q, (l.find? fun q => decide (16 ≤ (smGet [] u.noc q.1).length)) = some q →
          exec (.lkColl c) s = Host.Outcome.next (freezeOn u c (.noc q.1))) ∧
        ((∀ q ∈ l, (smGet [] u.noc q.1).length < 16 ∧ smGet [] u.noc q.1 ≠ []) → (l.map fun q => q.1).Nodup →
          Gives (.lkColl c) s fun t => 8 ∈ (clu t c).did ∧ ∀ q ∈ l, ∃ o, o.kind = .coll ∧ o.src = q.2.1 ∧ o.dst = q.2.2 ∧
            smGet [] t.noc q.1 = smGet [] u.noc q.1 ++ [o]))) ∧
  (∀ (s : State) (c : Fin 256) (o : NocOp) (r : List NocOp), smGet [] s.noc (16 * c.val) = o :: r → o.kind = .coll → o.coll.sent = true →
    collHere s o = false → hasFaulted s (curPart s c) o.job = false → Gives (.collTimeout c) s fun t =>
      hasFaulted t (curPart s c) o.job = true ∧ (job t (curPart s c) o.job).cause = 7) ∧
  ∀ (s : State) (n : Fin 16) (v : Word), hostReady s = true → let x := v.toNat % 2 ^ 25;
    (4096 ≤ x → x ≤ 2 ^ 24 → Gives (.collTmo n v) s fun t => rdN t (partPg n + 0x404) = x) ∧
    (x < 4096 ∨ 2 ^ 24 < x → Gives (.collTmo n v) s fun t => rdN t (partPg n + 0x404) = rdN s (partPg n + 0x404) ∧
      rb t (partPg n + 0x14) 1 = true)

/-- A belay partition beats, detects its source down, promotes and clears. With TX on, an active partition's BHB_SEND gives a BHB to its
link and clears TX_DOWN, or sets TX_DOWN when no port of the direction is UP. With RX on, a missing heartbeat of an active partition
whose source is not known down, and PROMOTE of the ready host, set PEER_DOWN with the partition's event and leave a warm promotion
to do, and a hot one where HOT is set. CLEAR ends PEER_DOWN and PROMOTED. WARM_PROMOTION resolves every entry that holds a blob:
none is left to do, and an entry whose handle is in use is rejected. HOT_PROMOTION sets PROMOTED and releases, of the records held,
those whose SEQ exceeds their stream's last ADV. (14_links_belay R407, 14_links_belay R408, 14_links_belay R409, 14_links_belay
R410) -/
def Obligations.BelayDetectsAndPromotes : Prop :=
  ∀ (s : State) (n : Fin 16),
    (rb s (blyReg n 0x440) 31 = true → activeSt (part s n).st = true →
      (∀ u, blySend s n (partOrigin s n) .bhb 0 0 (natLe 8 0) 0 = some u → exec (.bhbSend n) s = Host.Outcome.next (setBlyStat u n 1 false)) ∧
      (blySend s n (partOrigin s n) .bhb 0 0 (natLe 8 0) 0 = none → Gives (.bhbSend n) s fun t => blyStat t n 1 = true)) ∧
    (∀ i ∈ [Instr.bhbTimeout n, .promote n], blyRxOn s n = true → (i = .bhbTimeout n → activeSt (part s n).st = true ∧ blyStat s n 2 = false) →
      (i = .promote n → hostReady s = true) → Gives i s fun t => blyStat t n 2 = true ∧ rb t (partPg n + 0x14) belayDownBit = true ∧
        (bly t n).warm = true ∧ (bly t n).hot = rb s (blyReg n 0x444) 30) ∧
    (hostReady s = true → Gives (.clear n) s fun t => blyStat t n 2 = false ∧ blyStat t n 3 = false ∧ blyStat t n 0 = blyStat s n 0 ∧
      blyStat t n 1 = blyStat s n 1) ∧
    ((bly s n).warm = true →
      (Gives (.warmPromotion n) s fun t => (bly t n).warm = false ∧ (bly t n).ents = (bly s n).ents) ∧
      ((∀ p ∈ (bly s n).ents, p.2.cur.isSome = true → (strm s p.2.handle).st ≠ .free) →
        Gives (.warmPromotion n) s fun t => t.strms = s.strms ∧ t.hbm = s.hbm)) ∧
    ((bly s n).hot = true → let out := (bly s n).held.filter fun r => decide (smGet 0 (bly s n).advs r.handle < r.seq)
      Gives (.hotPromotion n) s fun t => blyStat t n 3 = true ∧ (bly t n).held = [] ∧ (bly t n).hot = false ∧
        (ing t n).emGo = (ing s n).emGo ++ (if out = [] then [] else [out.length]) ∧
        smGet [] t.emis n.val = (smGet [] s.emis n.val).take (emReleased s n) ++ out ++ (smGet [] s.emis n.val).drop (emReleased s n))

/-- A mailbox command of either requester is answered to that requester; asking commands return their content. A command that Sirvi does
not take leaves the state as it is; one that finds another running waits in its turn for the BMC (log entry 56), and raises CMD_REJ
for the PF. An answer sets MB_STAT's status and command and PG_EVT.DONE for the PF, and is the response message for the BMC, whose
registers do not change. INFO, SUMMIT_INFO, SUMMIT_READ and IMG_LIST are answered with status 0 and their content: SUMMIT_READ gives
whole retained entries from the sequence number on, in order. DEV_RESET during a trip is refused with status 3; else Sirvi's ROM
runs again with every partition OFF and HBM empty, and FN_RST names a Sirvi-initiated reset of cause 4. (15_sirvi R423, 15_sirvi
R427, 15_sirvi R429, 16_host_registers R458) -/
def Obligations.MailboxCommandsAreTakenAndAnswered : Prop :=
  (∀ (s : State) (bmc : Bool) (code st : Nat) (b : List Byte), code < 256 → st < 256 →
    (bmc = false → rdN (mbReply s bmc code st b) (mbPg + 0x104) = st * 2 ^ 24 + code * 2 ^ 16 ∧
      rb (mbReply s bmc code st b) (mbPg + 0x14) 0 = true) ∧
    (bmc = true → (mbReply s bmc code st b).regs = s.regs ∧
      (mbReply s bmc code st b).sirvi.mctp = some { cmd := code, status := st, rsp := [], buf := b })) ∧
  (∀ (s : State) (bmc : Bool) (first : Nat),
    let asks := [(Instr.info bmc, 0x01, infoBytes s), (.summitInfo bmc, 0x50, natLe 8 (sumFirst s) ++ natLe 8 (sumLast s) ++ s.sirvi.summit.head),
      (.summitRead bmc first, 0x51, sumFrom s first (mbRoom bmc)),
      (.imgList bmc, 0x63, s.sirvi.store.flatMap fun i => natLe 4 i.name.length ++ i.name ++ natLe 4 i.obj.length)]
    ∀ q ∈ asks,
      (mbUp s bmc q.2.1 = false → exec q.1 s = Host.Outcome.next s) ∧
      (mbUp s bmc q.2.1 = true → mbBusy s = true → exec q.1 s = Host.Outcome.next (mbHold q.1 bmc s)) ∧
      (mbUp s bmc q.2.1 = true → mbBusy s = false → exec q.1 s = Host.Outcome.next (mbReply s bmc q.2.1 0 q.2.2))) ∧
  (∀ (s : State) (first room : Nat), ∃ l, l <+: ((sumAll s).filter fun e => decide (first ≤ sumSeq e)) ∧ sumFrom s first room = l.flatten ∧
    l.flatten.length ≤ room) ∧
  ∀ (s : State) (bmc : Bool), mbUp s bmc 0x02 = true → mbBusy s = false →
    (s.sirvi.boot = .tripped → exec (.devReset bmc) s = Host.Outcome.next (mbReply s bmc 0x02 3 [])) ∧
    (s.sirvi.boot ≠ .tripped → Gives (.devReset bmc) s fun t => (t.sirvi.boot = .rom ∨ t.sirvi.boot = .recovery) ∧ t.hbm = [] ∧
      (∀ n, (part t n).st = .off) ∧ rdN t (funcsPg + 0x10C) = 3 + 256 * 4)

/-- Binding and window commands are refused by the first check that fails, or act. When Sirvi takes the command and none runs: KS_BIND
outside debug binds a free slot to a party without one, with the requester's hash; KS_UNBIND frees a bound slot without keys.
WIN_CREATE for a party whose partitions are OFF and whose slot is named gives an aligned range, in HBM, in its groups and apart from
every other window, with no region and a fresh window key; WIN_RESIZE moves a window with its regions inside; WIN_REMOVE leaves
none; REGION_SET sets the six regions. HBM_MAP with every partition OFF and no valid window outside the groups then set (log entry
70), where it changes the map, leaves no window valid and HBM empty, and sets the map and the groups. Each refusal answers its
status and changes nothing else. (09_memory R275, 09_memory R276, 09_memory R277, 09_memory R278, 13_parties R368, 15_sirvi R429) -/
def Obligations.WindowCommandsCheckThenAct : Prop :=
  ∀ (s : State) (bmc : Bool) (p slot a n : Nat) (h : List Byte) (l : List (Nat × Nat)) (map : Nat) (g : List (BitVec 16)),
    let can (c : Nat) : Prop := mbUp s bmc c = true ∧ mbBusy s = false
    let no (i : Instr) (c st : Nat) : Prop := exec i s = Host.Outcome.next (mbReply s bmc c st [])
    let party := 1 ≤ p ∧ p ≤ 16
    (can 0x10 →
      (dbgOn s = true → no (.ksBind bmc slot p h) 0x10 4) ∧
      (dbgOn s = false → ¬party ∨ h.length ≠ 48 ∨ 16 ≤ slot → no (.ksBind bmc slot p h) 0x10 2) ∧
      (dbgOn s = false → party → h.length = 48 → slot < 16 →
        ((keySlot s slot).party ≠ 0 ∨ (slotOfParty s p).isSome = true → no (.ksBind bmc slot p h) 0x10 3) ∧
        ((keySlot s slot).party = 0 → slotOfParty s p = none → Gives (.ksBind bmc slot p h) s fun t =>
          keySlot t slot = { keySlot s slot with party := p, reqHash := h } ∧ s.sirvi.summit.next < t.sirvi.summit.next))) ∧
    (can 0x11 → let k := keySlot s slot
      let free := k.party ≠ 0 ∧ k.pk = none ∧ k.rk = none ∧ k.wk = none;
      (16 ≤ slot → no (.ksUnbind bmc slot) 0x11 2) ∧ (slot < 16 → ¬free → no (.ksUnbind bmc slot) 0x11 3) ∧
      (slot < 16 → free → Gives (.ksUnbind bmc slot) s fun t => (keySlot t slot).party = 0 ∧ (keySlot t slot).reqHash = [])) ∧
    (can 0x20 → let may := winFree s p = true ∧ winValid s p = false ∧ slotOfParty s p = some slot;
      (¬party ∨ 16 ≤ slot → no (.winCreate bmc p a n slot) 0x20 2) ∧
      (party → slot < 16 →
        (¬may → no (.winCreate bmc p a n slot) 0x20 3) ∧ (may → winFits s p a n = false → no (.winCreate bmc p a n slot) 0x20 2) ∧
        (may → winFits s p a n = true → winApart s p a n = false → no (.winCreate bmc p a n slot) 0x20 3) ∧
        (may → winFits s p a n = true → winApart s p a n = true → Gives (.winCreate bmc p a n slot) s fun t =>
          winValid t p = true ∧ winBase t p = a ∧ winSize t p = n ∧ (keySlot t slot).wk.isSome = true ∧ ∀ k < 6, regSize t p k = 0))) ∧
    (can 0x21 → party → let may := winFree s p = true ∧ winValid s p = true;
      (¬may → no (.winResize bmc p a n) 0x21 3) ∧
      (may → winFits s p a n = false ∨ regionsOk n (regionsOf s p) = false → no (.winResize bmc p a n) 0x21 2) ∧
      (may → winFits s p a n = true → regionsOk n (regionsOf s p) = true →
        (winApart s p a n = false → no (.winResize bmc p a n) 0x21 3) ∧
        (winApart s p a n = true → Gives (.winResize bmc p a n) s fun t => winValid t p = true ∧ winBase t p = a ∧ winSize t p = n))) ∧
    (can 0x22 → party → let may := winFree s p = true ∧ winValid s p = true;
      (¬may → no (.winRemove bmc p) 0x22 3) ∧ (may → Gives (.winRemove bmc p) s fun t => winValid t p = false)) ∧
    (can 0x23 → party → let may := winFree s p = true ∧ winValid s p = true;
      (¬may → no (.regionSet bmc p l) 0x23 3) ∧ (may → regionsOk (winSize s p) l = false → no (.regionSet bmc p l) 0x23 2) ∧
      (may → regionsOk (winSize s p) l = true → winSize s p ≤ hbmSize → Gives (.regionSet bmc p l) s fun t => ∀ k, k < 6 →
        regSize t p k = (nth (0, 0) l k).2 ∧ ((nth (0, 0) l k).2 ≠ 0 → regOfs t p k = (nth (0, 0) l k).1))) ∧
    (can 0x24 →
      (groupsOk g = false ∨ 2 ≤ map → no (.hbmMap bmc map g) 0x24 2) ∧
      (groupsOk g = true → map < 2 → devRdy s = false ∨ allOff s = false ∨ (∃ k, k < 16 ∧ windowsIn (putMap s map g) (k + 1) = false) →
        no (.hbmMap bmc map g) 0x24 3) ∧
      (groupsOk g = true → map < 2 → devRdy s = true → allOff s = true → (∀ k, k < 16 → windowsIn (putMap s map g) (k + 1) = true) → Gives (.hbmMap bmc map g) s fun t =>
        rdN t (hbmPg + 0x100) = map ∧ (∀ k, k < 16 → rdN t (hbmPg + 0x140 + 4 * k) = (nth 0 g k).toNat) ∧
        (rf s (hbmPg + 0x100) 0 1 ≠ map → t.hbm = [] ∧ t.hbmBad = [] ∧ ∀ q, 1 ≤ q → q ≤ 16 → winValid t q = false) ∧
        (rf s (hbmPg + 0x100) 0 1 = map → t.hbm = s.hbm)))

/-- SPAN_SET, the limits, firmware staging and the image store check their arguments and keep what they take. When Sirvi takes the
command and none runs: SPAN_SET with every port DOWN or DISABLED and the coordinate in the dimensions sets both. SENSOR_LIMIT sets a
limit the sensor has, a throttle limit not above its default; PWR_LIMIT takes 600 to 1,200 W, BG_CFG a threshold of 4 to 1,024 and a
pass of 600 to 86,400 s; else status 2. FW_STAGE writes the idle slot, valid only when header, signature, digest and SVNs pass (else
status 5); FW_ACTIVATE selects a valid slot; FW_COMMIT, of the running selected slot, raises each anti-rollback counter to the
image's SVN, at most 32. IMG_PUT holds a well-formed object under its name, IMG_GET writes it to a party's general memory, IMG_DEL
drops it. (14_links_belay R389, 15_sirvi R413, 15_sirvi R416, 15_sirvi R424, 15_sirvi R425, 15_sirvi R426, 15_sirvi R429, 15_sirvi
R434) -/
def Obligations.LimitsFirmwareAndImagesAreKept : Prop :=
  ∀ (s : State) (bmc b : Bool) (coord dims : Word) (sensor kind w thr hp p a : Nat) (v : Int) (im name o : List Byte), mbBusy s = false →
    (∀ c, mbUp s bmc c = true) →
    let no (i : Instr) (c st : Nat) : Prop := exec i s = Host.Outcome.next (mbReply s bmc c st [])
    let spanOk := wfld coord 0 4 ≤ wfld dims 0 4 ∧ wfld coord 4 4 ≤ wfld dims 4 4
    let down := ∀ q, q < 20 → lkState s q = 0 ∨ lkState s q = 4;
    (256 ≤ coord.toNat ∨ 256 ≤ dims.toNat → no (.spanSet bmc coord dims) 0x25 1) ∧
    (coord.toNat < 256 → dims.toNat < 256 →
      (¬spanOk → no (.spanSet bmc coord dims) 0x25 2) ∧ (spanOk → ¬down → no (.spanSet bmc coord dims) 0x25 3) ∧
      (spanOk → down → Gives (.spanSet bmc coord dims) s fun t => rdN t (spanPg + 0x100) = 2 ^ 31 + coord.toNat ∧
        rdN t (spanPg + 0x104) = dims.toNat)) ∧
    (limDefault sensor kind = none → no (.sensorLimit bmc sensor kind v) 0x30 2) ∧
    (∀ d, limDefault sensor kind = some d →
      (kind = 1 → d < v → no (.sensorLimit bmc sensor kind v) 0x30 2) ∧
      (kind ≠ 1 ∨ v ≤ d → Gives (.sensorLimit bmc sensor kind v) s fun t => limOf t sensor kind = v)) ∧
    (w < 600 ∨ 1200 < w → no (.pwrLimit bmc w) 0x31 2) ∧
    (600 ≤ w → w ≤ 1200 → Gives (.pwrLimit bmc w) s fun t => t.sirvi.sens.pwr = w) ∧
    (thr < 4 ∨ 1024 < thr ∨ hp < 600 ∨ 86400 < hp → no (.bgCfg bmc thr hp) 0x32 2) ∧
    (4 ≤ thr → thr ≤ 1024 → 600 ≤ hp → hp ≤ 86400 → Gives (.bgCfg bmc thr hp) s fun t =>
      rdN t (bgPg + 0x140) = thr ∧ rdN t (bgPg + 0x144) = hp) ∧
    (no (.fwStage bmc none) 0x40 6 ∧ (2 ^ 28 < im.length → no (.fwStage bmc (some im)) 0x40 7) ∧
      (im.length ≤ 2 ^ 28 → Gives (.fwStage bmc (some im)) s fun t => fwSlot t (idleSlot s) = { image := im, valid := fwOk s im } ∧
        fwSlot t (!idleSlot s) = fwSlot s (!idleSlot s) ∧ t.sirvi.run = s.sirvi.run ∧ t.sirvi.sel = s.sirvi.sel)) ∧
    ((fwSlot s b).valid = false → no (.fwActivate bmc b) 0x41 3) ∧
    ((fwSlot s b).valid = true → svnOk s (fwSlot s b).image = false → no (.fwActivate bmc b) 0x41 5) ∧
    ((fwSlot s b).valid = true → svnOk s (fwSlot s b).image = true → Gives (.fwActivate bmc b) s fun t => t.sirvi.sel = b) ∧
    (s.sirvi.run ≠ some s.sirvi.sel ∨ s.sirvi.fell = true → no (.fwCommit bmc) 0x42 3) ∧
    (s.sirvi.run = some s.sirvi.sel → s.sirvi.fell = false → Gives (.fwCommit bmc) s fun t => ∀ i, i < 64 →
      fuseCnt t i = max (fuseCnt s i) (min 32 (fwSvn (runImage s) i))) ∧
    (no (.imgPut bmc name none) 0x60 6 ∧ (name = [] ∨ imgOk o = false → no (.imgPut bmc name (some o)) 0x60 2) ∧
      (name ≠ [] → imgOk o = true → (imgDrop s name).length < 1024 →
        (imgDrop s name).foldl (fun k i => k + i.obj.length) o.length ≤ 3072 * 2 ^ 20 → Gives (.imgPut bmc name (some o)) s fun t =>
          imgFind t name = some { name := name, obj := o } ∧ ∀ x, x ≠ name → imgFind t x = imgFind s x)) ∧
    (imgFind s name = none → no (.imgGet bmc p name a) 0x61 2 ∧ no (.imgDel bmc name) 0x62 2) ∧
    (∀ i, imgFind s name = some i → (Gives (.imgDel bmc name) s fun t => imgFind t name = none) ∧
      (p = 0 ∨ 16 < p → no (.imgGet bmc p name a) 0x61 2) ∧
      (1 ≤ p → p ≤ 16 → (devRdy s = false ∨ winValid s p = false → no (.imgGet bmc p name a) 0x61 3) ∧
        (devRdy s = true → winValid s p = true → inGeneral s p a i.obj.length = true →
          Gives (.imgGet bmc p name a) s fun t => t.hbm = (hbmWrite s a i.obj).1.hbm)))

/-- Power takes the device through ROM, Sirvi ready and device ready, and takes everything volatile away again. PWRGOOD asserted in the
off state samples the straps, asserts PERST_N, counts a boot and starts the ROM: firmware of the selected slot where it passes, else
of the other with fallback, else recovery. A firmware too late gives way to the other slot once, then to recovery. SIRVI_READY, then
DEVICE_READY with MB_STAT's event bit 2 and the device area. A rail out of regulation resets with cause 5. PWRGOOD deasserted (also
undervoltage, and, with the Sirvi domain left, THERMTRIP) leaves every partition OFF and HBM empty; fuses, slots and image store
stay, and entries not in flash are lost. (15_sirvi R414, 15_sirvi R415, 15_sirvi R421, 17_package R461, 17_package R462, 17_package
R463, 17_package R464, 17_package R470) -/
def Obligations.PowerAndBootSteps : Prop :=
  (∀ (s : State) (smbus : Bool) (m : Fin 8), let b := s.sirvi.sel
    (s.sirvi.boot ≠ .off → exec (.pwrgoodAssert smbus m) s = Host.Outcome.next s) ∧
    (s.sirvi.boot = .off → Gives (.pwrgoodAssert smbus m) s fun t => t.sirvi.smbus = smbus ∧ t.sirvi.maddr = m.val ∧ t.sirvi.perst = true ∧
      t.sirvi.summit.boots = s.sirvi.summit.boots + 1 ∧
      (slotPass s b = true → t.sirvi.boot = .rom ∧ t.sirvi.run = some b ∧ t.sirvi.fell = false) ∧
      (slotPass s b = false → slotPass s (!b) = true → t.sirvi.boot = .rom ∧ t.sirvi.run = some (!b) ∧ t.sirvi.fell = true) ∧
      (slotPass s b = false → slotPass s (!b) = false → t.sirvi.boot = .recovery ∧ t.sirvi.run = none)) ∧
    (s.sirvi.boot = .rom → s.sirvi.run = some b →
      (s.sirvi.fell = false → slotPass s (!b) = true → Gives .fwWatchdog s fun t => t.sirvi.run = some (!b) ∧ t.sirvi.fell = true ∧
        t.sirvi.boot = .rom) ∧
      (s.sirvi.fell = true ∨ slotPass s (!b) = false → Gives .fwWatchdog s fun t => t.sirvi.boot = .recovery ∧ t.sirvi.run = none) ∧
      Gives .sirviReady s fun t => t.sirvi.boot = .sirvi ∧ t.sirvi.run = some b) ∧
    (s.sirvi.boot = .sirvi → s.sirvi.wait = none → Gives .deviceReady s fun t => t.sirvi.boot = .ready ∧ winValid t 0 = true ∧
      rb t (mbPg + 0x14) 2 = true)) ∧
  (∀ (s : State) (r : Rail), mbBusy s = false → (r = .vstby → s.sirvi.boot = .rom) → (r ≠ .vstby → s.sirvi.boot = .sirvi) →
    Gives (.railTimeout r) s fun t => rdN t (funcsPg + 0x10C) = 3 + 256 * 5 ∧ t.hbm = []) ∧
  ∀ s : State, let off (t : State) : Prop := t.hbm = [] ∧ (∀ n, (part t n).st = .off) ∧ t.slots = [] ∧ t.sirvi.fuses = s.sirvi.fuses ∧
      t.sirvi.store = s.sirvi.store ∧ t.sirvi.slotA = s.sirvi.slotA ∧ t.sirvi.slotB = s.sirvi.slotB;
    (s.sirvi.boot ≠ .off → Gives .pwrgoodDeassert s fun t => off t ∧ t.sirvi.boot = .off ∧ t.sirvi.perst = true ∧ t.keys = [] ∧
      t.sirvi.summit.buf = [] ∧ t.sirvi.summit.sectors = s.sirvi.summit.sectors) ∧
    (s.sirvi.boot ≠ .off → s.sirvi.boot ≠ .held → Gives .p54vUndervoltage s fun t => off t ∧ t.sirvi.boot = .held ∧ t.keys = [] ∧
      t.sirvi.summit.buf = [] ∧ exec (.pwrgoodAssert false 0) t = Host.Outcome.next t) ∧
    (s.sirvi.boot = .sirvi ∨ s.sirvi.boot = .ready → Gives .thermtrip s fun t => off t ∧ t.sirvi.boot = .tripped ∧ t.keys = s.keys ∧
      t.sirvi.wait = none ∧ t.sirvi.swait = none ∧ t.sirvi.mbq = [] ∧ alertN t = true)

/-- Warm resets and losses of a reference clock reset the device, or wait until they may. On a ready device whose mailbox runs no
command, PERST_N asserted and a link-down zeroise every partition, stop tick generation, leave the key slots and the host's memory
as they are, and FN_RST names a warm reset with its cause; Sirvi goes on and the device becomes ready again. Before device ready,
and while a command runs, they wait, and DEVICE_READY takes the reset then. A loss of REFCLK_PCIE acts as a link-down; one of
REFCLK_LINK, while powered and not tripped, is a Sirvi-initiated reset of cause 6, that waits for the end of a command. PERST_N
deasserted while powered brings the host back. (16_host_registers R456, 16_host_registers R457, 16_host_registers R459, 17_package
R465, 17_package R467, 17_package R468, 17_package R470) -/
def Obligations.ResetsTakeTheirKindOfReset : Prop :=
  ∀ (s : State) (c : WarmCause), let here := (c = .perst → s.sirvi.perst = false) ∧ (c = .linkDown → hostUp s = true);
    (s.sirvi.boot = .ready → mbBusy s = false → here → Gives (.warmReset c) s fun t => t.sirvi.boot = .sirvi ∧ (∀ n, (part t n).st = .off) ∧
      t.clk.run = false ∧ t.keys = s.keys ∧ t.hostMem = s.hostMem ∧
      ((∀ n, (part s n).st = .off) → t.pacc = s.pacc) ∧ t.sirvi.wait = none ∧
      rdN t (funcsPg + 0x10C) = 2 + 256 * (if c = .perst then 2 else 3) ∧ (c = .perst → t.sirvi.perst = true)) ∧
    (s.sirvi.boot = .rom ∨ s.sirvi.boot = .sirvi ∨ (s.sirvi.boot = .ready ∧ mbBusy s = true) → here → Gives (.warmReset c) s fun t =>
      t.sirvi.wait = some c ∧ t.sirvi.boot = s.sirvi.boot ∧ t.regs = s.regs ∧ t.parts = s.parts) ∧
    (s.sirvi.boot = .tripped → c = .perst → Gives (.warmReset c) s fun t => t.sirvi.boot = .tripped ∧ t.regs = s.regs) ∧
    (s.sirvi.boot = .sirvi → s.sirvi.wait = some c → Gives .deviceReady s fun t => t.sirvi.boot = .sirvi ∧ t.sirvi.wait = none ∧
      rdN t (funcsPg + 0x10C) = 2 + 256 * (if c = .perst then 2 else 3)) ∧
    exec .refclkPcieLoss s = exec (.warmReset .linkDown) s ∧
    (s.sirvi.boot = .rom ∨ s.sirvi.boot = .sirvi ∨ s.sirvi.boot = .ready ∨ s.sirvi.boot = .recovery →
      (mbBusy s = false → Gives .refclkLinkLoss s fun t => (t.sirvi.boot = .rom ∨ t.sirvi.boot = .recovery) ∧ t.hbm = [] ∧
        (∀ n, (part t n).st = .off) ∧ (∀ i, (keySlot t i).pk = none) ∧
        ((s.keys.map Prod.fst).Nodup → ∀ i, (keySlot t i).party = (keySlot s i).party) ∧
        rdN t (funcsPg + 0x10C) = 3 + 256 * 6) ∧
      (mbBusy s = true → Gives .refclkLinkLoss s fun t => t.sirvi.swait = some (6, 0xFFFF) ∧ t.regs = s.regs ∧ t.parts = s.parts)) ∧
    (s.sirvi.boot = .off ∨ s.sirvi.boot = .held ∨ s.sirvi.boot = .tripped → exec .refclkLinkLoss s = Host.Outcome.next s) ∧
    (s.sirvi.boot ≠ .off → Gives .perstNDeassert s fun t => t.sirvi.perst = false ∧ t.regs = s.regs)

/-- A good sample shows its readings and finds throttling; a second over PWR_LIM lowers the point; a flush reaches flash. With Sirvi up,
no sensor faulty and every reading good and within its voltage fault limits, SENSOR_SAMPLE shows each temperature and voltage in its
register and finds throttling due just when some temperature is at or above its throttle limit. A second of mean input power over
PWR_LIM lowers the coming operating point by one step where it is above OPFLOOR, with cause POWER, and else sets PG_EVT.PWR_OVER.
SUMMIT_FLUSH moves every entry held in SRAM to flash, in order and while sectors last without loss, and tells device events not
recorded by a SUMMIT_GAP entry. Where the condition does not hold the commands change nothing. (01_tick R24, 15_sirvi R416, 15_sirvi
R417, 15_sirvi R420, 15_sirvi R422) -/
def Obligations.SensorsLimitsAndTheSummitFlush : Prop :=
  (∀ (s : State) (rs : Readings), s.sirvi.boot = .sirvi ∨ s.sirvi.boot = .ready → (∀ i, i < 96 → senFaulty s i = false ∧ goodRead rs i = true) →
    (∀ i v, 72 ≤ i → i < 88 → reading rs i = some v → voltOver s v i 3 = false) →
    Gives (.sensorSample rs) s fun t => t.sirvi.boot = s.sirvi.boot ∧
      (∀ i v, i < 64 → reading rs i = some v → rdN t (senPg + 0x100 + 4 * i) = lowBits 16 v) ∧
      (∀ i v, i < 8 → reading rs (64 + i) = some v → rdN t (senPg + 0x200 + 4 * i) = lowBits 16 v) ∧
      (∀ i v, i < 16 → reading rs (72 + i) = some v → rdN t (senPg + 0x220 + 4 * i) = lowBits 16 v) ∧
      (t.sirvi.sens.hot = true ↔ ∃ i v, i < 72 ∧ reading rs i = some v ∧ limOf s i 1 ≤ v)) ∧
  (∀ (s : State) (rs : Readings), s.sirvi.boot ≠ .sirvi → s.sirvi.boot ≠ .ready → exec (.sensorSample rs) s = Host.Outcome.next s) ∧
  (∀ s : State,
    (sirviUp s = true → s.sirvi.sens.excess = true →
      (opComing s < s.clk.cfg.opfloor → Gives .powerLimitStep s fun t => t.clk.opNext = some (opComing s + 1, false) ∧
        rdN t (senPg + 0x284) = 4 ∧ t.sirvi.sens.excess = false) ∧
      (s.clk.cfg.opfloor ≤ opComing s → Gives .powerLimitStep s fun t => t.clk.opNext = s.clk.opNext ∧ rb t (senPg + 0x14) 3 = true ∧
        t.sirvi.sens.excess = false)) ∧
    (sirviUp s = false ∨ s.sirvi.sens.excess = false → exec .powerLimitStep s = Host.Outcome.next s)) ∧
  ∀ s : State, let v := s.sirvi.summit;
    (sirviUp s = true → v.gap = 0 → Gives .summitFlush s fun t => t.sirvi.summit.buf = [] ∧ t.sirvi.summit.next = v.next ∧
      t.sirvi.summit.head = v.head ∧ (v.sectors.length + v.buf.length ≤ 128 → sumAll t = sumAll s)) ∧
    (sirviUp s = true → v.gap ≠ 0 → Gives .summitFlush s fun t => t.sirvi.summit.buf.length = 1 ∧ t.sirvi.summit.next = v.next + 1 ∧
      t.sirvi.summit.gap = 0) ∧
    (sirviUp s = false → exec .summitFlush s = Host.Outcome.next s)

/-- CLW_SEL, MSI-X unmasking, VF enabling, PLDM events and internal errors act on the host's side. While the host's link is up: a VF
that is enabled, on the ready device, keeps bits [7:0] of CLW_SEL and no other selection changes. Unmasking a vector of a function
present clears its mask and its pending bit and sends its message once where it was pending. VF_ENABLE shows VF Enable and NumVFs in
FN_STAT, and a VF it takes away leaves an unlocked interface, no session, and no vector state. With Sirvi up PLDM events can be
enabled; an acknowledgement drops the oldest event held. An uncorrectable internal error sets bit 22 of the PF's AER status (the
model's choice of error, log entry 22), whichever unit it is in, and nothing else. (15_sirvi R428, 16_host_registers R441,
16_host_registers R444, 16_host_registers R448, 16_host_registers R455, 17_package R471) -/
def Obligations.HostFunctionsSelectUnmaskEnableAndAcknowledge : Prop :=
  (∀ (s : State) (k : Fin 16) (v : Word), (hostReady s = true → k.val < numVfs s → Gives (.clwSel k v) s fun t =>
      smGet 0 t.clw k = v.toNat % 256 ∧ (∀ j, j ≠ k.val → smGet 0 t.clw j = smGet 0 s.clw j) ∧ t = { s with clw := t.clw }) ∧
    (hostReady s = false ∨ numVfs s ≤ k.val → exec (.clwSel k v) s = Host.Outcome.next s)) ∧
  (∀ (s : State) (fn : Fin 17) (v : Fin 1024), hostUp s = true → fn.val ≤ numVfs s → v.val < vecCount fn →
    Gives (.msixUnmask fn v) s fun t => vecAt t fn v = { masked := false, pba := false } ∧
      (∀ f w, (f, w) ≠ (fn.val, v.val) → w < 1024 → vecAt t f w = vecAt s f w) ∧
      t.msgs = s.msgs ++ (if (vecAt s fn v).pba then [(fn.val, v.val)] else []) ∧ t.regs = s.regs) ∧
  (∀ (s : State) (on : Bool) (num : Fin 17), hostUp s = true → Gives (.vfEnable on num) s fun t =>
    numVfs t = (if on then num.val else 0) ∧
    ∀ k, k < 16 → numVfs t ≤ k → k < numVfs s → tdi t k = 0 ∧ (∀ i, i < 8 → (sess t i).live = true → (sess t i).ep ≠ k + 1) ∧
      smGet 0 t.clw k = 0) ∧
  (∀ s : State, (sirviUp s = true → Gives .pldmEventEnable s fun t => t.sirvi.pldmOn = true ∧ t.sirvi.pldm = s.sirvi.pldm) ∧
    Gives .pldmEventAcknowledge s fun t => t.sirvi.pldm = s.sirvi.pldm.drop 1 ∧ t.regs = s.regs) ∧
  ∀ (s : State) (u : HostUnit), Gives (.uncorrectableInternalError u) s fun t => t = { s with aer := t.aer } ∧
    bitAt (smGet 0 t.aer 0) 22 = true ∧ ∀ j, j ≠ 22 → bitAt (smGet 0 t.aer 0) j = bitAt (smGet 0 s.aer 0) j

/-- Scrubs, row sparing, retunes, calibrations, wear levelling and slips do their work and count it. On a ready device SCRATCHPAD_SCRUB,
CLUSTER_SCRUB and HBM_SCRUB do all the work of their activity that is outstanding, and no more, in every cluster or over HBM.
ROW_SPARE_DONE takes the oldest marked row of a pseudo-channel that has one of its 16 spare rows left (log entry 62): the row is no
longer marked, the channel has one spare row fewer and its stack's page shows the event; where rows are marked and no channel of
theirs has one left, nothing is copied, and BG's bit for exhausted spares is set once a stack of theirs has used its 512. With Sirvi
up LINK_RETUNE, THERMAL_CALIBRATION, WEAR_LEVELLING and BG_SLIP count; ENERGY_CALIBRATION counts while no rail current monitor is
faulty. LINK_RETUNE leaves ports that are not UP alone. (15_sirvi R413, 15_sirvi R416, 15_sirvi R430, 15_sirvi R431, 15_sirvi R432,
15_sirvi R439) -/
def Obligations.BackgroundWorkIsDoneAndCounted : Prop :=
  (∀ s : State, devRdy s = true →
    (Gives .scratchpadScrub s fun t => ∀ c, c < 256 →
      smGet 0 (bgAct t 0).doneC c = max (smGet 0 (bgAct s 0).doneC c) (bgSched s 0)) ∧
    (Gives .clusterScrub s fun t => t = { s with bg := t.bg } ∧ ∀ c, c < 256 →
      smGet 0 (bgAct t 1).doneC c = max (smGet 0 (bgAct s 1).doneC c) (bgSched s 1)) ∧
    (Gives .hbmScrub s fun t => (bgAct t 2).done = max (bgAct s 2).done (bgSched s 2) ∧ t.hbm = s.hbm) ∧
    let rows := (bgAct s 3).rows
    let spare (r : Nat × Nat × Nat) : Prop := smGet 0 s.sirvi.spares (pchanOf s r.2.1) < 16;
    (∀ r l q, rows = q ++ r :: l → spare r → (∀ x ∈ q, ¬spare x) → Gives .rowSpareDone s fun t => (bgAct t 3).rows = q ++ l ∧
      (bgAct t 3).done = (bgAct s 3).done + 1 ∧ smGet 0 t.sirvi.spares (pchanOf s r.2.1) = smGet 0 s.sirvi.spares (pchanOf s r.2.1) + 1 ∧
      rb t (stkPg (stackOf s r.2.1) + 0x14) 0 = true) ∧
    (rows ≠ [] → (∀ x ∈ rows, ¬spare x) → Gives .rowSpareDone s fun t => (bgAct t 3).rows = rows ∧ t.sirvi.spares = s.sirvi.spares ∧
      ∀ x ∈ rows, 512 ≤ sparesUsed s (stackOf s x.2.1) → rb t (bgPg + 0x130) 29 = true) ∧
    (rows = [] → exec .rowSpareDone s = Host.Outcome.next s)) ∧
  (∀ s : State, sirviUp s = true →
    (Gives .linkRetune s fun t => t.sirvi.retunes = s.sirvi.retunes + 1 ∧ t.regs = s.regs ∧
      ∀ p, p < 20 → lkUp s p = false → lport t p = lport s p) ∧
    (Gives .thermalCalibration s fun t => t.sirvi.therms = s.sirvi.therms + 1 ∧ t.regs = s.regs) ∧
    ((∀ k, k < 8 → senFaulty s (88 + k) = false) → Gives .energyCalibration s fun t => t.sirvi.calib = s.sirvi.calib + 1 ∧ t.regs = s.regs) ∧
    ((∃ k, k < 8 ∧ senFaulty s (88 + k) = true) → exec .energyCalibration s = Host.Outcome.next s) ∧
    (Gives .wearLevelling s fun t => t.sirvi.wears = s.sirvi.wears + 1 ∧ rdN t (senPg + 0x288) ≤ 100) ∧
    (rdN s (bgPg + 0x188) < 0xFFFFFFFE → Gives .bgSlip s fun t => rdN t (bgPg + 0x188) = rdN s (bgPg + 0x188) + 1 ∧
      rb t (bgPg + 0x14) 4 = true)) ∧
  ∀ s : State, sirviUp s = false → ∀ c ∈ [Instr.scratchpadScrub, .clusterScrub, .hbmScrub, .rowSpareDone, .linkRetune, .thermalCalibration,
    .energyCalibration, .wearLevelling, .bgSlip], exec c s = Host.Outcome.next s

/-- Every step keeps the byte memories canonical and the summit buffer within SRAM, and takes one command off the queue. From every
state, reachable or not, a step that answers a next state keeps the canonical form of HBM, host memory and the control cores'
memories, keeps the SRAM buffer of the summit register at 256 entries or fewer, and leaves of the queue what stood behind its front;
so well-formed commands stay well formed. (09_memory R274, 15_sirvi R420, 16_host_registers "Host access rules") -/
def Obligations.StepKeepsMemoriesAndTheSummitBuffer : Prop :=
  ∀ s t : State, step s = Host.Outcome.next t →
    (memOk s = true → memOk t = true) ∧ (sramOk s = true → sramOk t = true) ∧ t.pending = s.pending.tail ∧
    (queueOk s = true → queueOk t = true)

/-- No step lowers an anti-rollback counter; only a loss of power ends DEBUG_ACTIVE or takes a summit number back. From every state, a
step that answers a next state lowers none of the anti-rollback counters. Unless the command it runs is a loss of power
(PWRGOOD_DEASSERT, P54V_UNDERVOLTAGE), a device in DEBUG_ACTIVE stays in it and the sequence number of the next summit entry is not
lower; and PWRGOOD_DEASSERT of a powered device ends DEBUG_ACTIVE. (13_parties R387, 15_sirvi R421, 15_sirvi R425, 15_sirvi R426) -/
def Obligations.FusesRiseAndDebugEndsOnlyWithPower : Prop :=
  (∀ s t : State, step s = Host.Outcome.next t → fusesUp s t ∧
    (s.pending.head? ≠ some .pwrgoodDeassert → s.pending.head? ≠ some .p54vUndervoltage →
      (s.sirvi.dbg.isSome = true → t.sirvi.dbg.isSome = true) ∧ s.sirvi.summit.next ≤ t.sirvi.summit.next)) ∧
  ∀ s : State, s.sirvi.boot ≠ .off → Gives .pwrgoodDeassert s fun t => t.sirvi.dbg = none

/-- Host memory, key slots, steady mode and party accounts change only by the commands named. Whatever the state, a command that answers
a next state leaves host memory as it was unless it is DESCRIPTOR_DONE or EMISSION_RING_WRITE (a switch's transfers never write it);
leaves every key slot as it was unless it is a key service request, a binding or window command, one that draws from a slot's vector
counter (bivouac, export, promotion), an edge or flip, the end of debug entry, or a reset; and leaves the steady-mode records and
the parties' accumulators as they were but for the commands named. (13_parties R368, 13_parties R372, 13_parties R374, 09_memory
R288) -/
def Obligations.OnlyTheirCommandsChangeHostMemoryAndKeys : Prop :=
  ∀ (c : Instr) (s t : State), exec c s = Host.Outcome.next t →
    (match c with
     | .descriptorDone .. | .emissionRingWrite .. => True
      | _ => t.hostMem = s.hostMem) ∧
    (match c with
     | .registerWrite .. | .tickEdge | .flywheelEdge | .flip | .idlePark .. | .keySet .. | .keyRotate .. | .keyDropOld ..
       | .keyErase .. | .keyEraseComplete .. | .debugEntered | .warmPromotion .. | .devReset .. | .ksBind .. | .ksUnbind ..
       | .winCreate .. | .winRemove .. | .hbmMap .. | .sensorSample .. | .deviceReady | .railTimeout .. | .pwrgoodDeassert
       | .p54vUndervoltage | .thermtrip | .warmReset .. | .refclkLinkLoss | .refclkPcieLoss => True
      | _ => t.keys = s.keys) ∧
    (match c with
     | .registerWrite .. | .tickEdge | .flywheelEdge | .keyEraseComplete .. | .policySet .. | .steadySet .. | .steadyClear ..
       | .ptySteadyAck .. | .debugEntered | .devReset .. | .sensorSample .. | .deviceReady | .railTimeout .. | .pwrgoodDeassert
       | .p54vUndervoltage | .thermtrip | .warmReset .. | .refclkLinkLoss | .refclkPcieLoss => True
      | _ => t.stdy = s.stdy) ∧
    (match c with
     | .registerWrite .. | .tickEdge | .flywheelEdge | .commitWindowOpen | .flip | .teardown .. | .partFault .. | .vfFlr ..
       | .partCfgWrite .. | .pitchStart .. | .switchDone .. | .pitchLimit .. | .pitchEnd .. | .loopS .. | .loopE .. | .bp ..
       | .altselSample .. | .halt .. | .sync .. | .stallClear .. | .bundlePageArrival .. | .ccException ..
       | .summaryPostArrival .. | .loadDone .. | .meMode .. | .meCbook .. | .meLoadw .. | .meStream .. | .meDrain .. | .meAttn ..
       | .vsetvl .. | .vld .. | .vst .. | .vmov .. | .vbcast .. | .vsel .. | .vcmp .. | .vadd .. | .vsub .. | .vmul .. | .vfma ..
       | .vmax .. | .vmin .. | .vabs .. | .vneg .. | .vand .. | .vor .. | .vxor .. | .vshl .. | .vsra .. | .vsrl .. | .vrcp ..
       | .vrsqrt .. | .vfn .. | .vred .. | .vtred .. | .vtile .. | .vexpn .. | .vcvt .. | .vpost .. | .vflag .. | .gpChain ..
       | .bivouacWriteDone .. | .bivouacReadDone .. | .exportDone .. | .importDone .. | .kvInfo .. | .kvPte .. | .kvReserve ..
       | .spFill .. | .spCopy .. | .spTag .. | .spDma .. | .ncCopy .. | .nocCopyDone .. | .remoteAccessDone .. | .tagTimeout ..
       | .asyncPortPromotion .. | .descriptorStart .. | .descriptorDone .. | .expLoad .. | .exp16StagingDone .. | .expRegister ..
       | .expReadStart .. | .expBlockDone .. | .ingestRecord .. | .feChunkDone .. | .emissionRingWrite .. | .keyErase ..
       | .stopInterface .. | .debugConsent .. | .debugEntered | .lkCtrl .. | .trainingTimeout .. | .attestDone ..
       | .attestTimeout .. | .mgmt .. | .tag .. | .nak .. | .heartbeat .. | .heartbeatTimeout .. | .lkSend .. | .lkColl ..
       | .send .. | .coll .. | .collTimeout .. | .blob .. | .adv .. | .release .. | .bhb .. | .bhbSend .. | .warmPromotion ..
       | .devReset .. | .ksBind .. | .sensorSample .. | .deviceReady | .railTimeout .. | .pwrgoodDeassert | .p54vUndervoltage
       | .thermtrip | .warmReset .. | .refclkLinkLoss | .refclkPcieLoss | .vfEnable .. | .idle .. => True
      | _ => t.pacc = s.pacc)

/-- Each command changes only the parts of the state named for its family, and leaves every other part as it was. Whatever the state, a
command that answers a next state changes nothing but the parts named: SPDM questions only the endpoint's response; session messages
the sessions too; key service requests the slots, Sirvi and the response; mailbox commands registers, interrupts and Sirvi;
partition, loader, sequence and expander commands registers, interrupts and partitions; stream commands registers, interrupts and
streams; port commands the ports; the ops of a bundle and the sequencer's own ops the clusters, cores, scratchpads, engines,
partitions, streams, emission, belay and counters, registers and interrupts, and never the contents of HBM or host memory, handle
tables, bundles, keys or link ports; and so on for the rows named. (Rows not named are spoken of by
OnlyTheirCommandsChangeHostMemoryAndKeys.) (00_scope R4, 03_tick_programs R82, 13_parties R364, 15_sirvi R429, 16_host_registers
"Host access rules") -/
def Obligations.CommandsChangeOnlyTheStateOfTheirFamily : Prop :=
  ∀ (c : Instr) (s t : State), exec c s = Host.Outcome.next t →
    match c with
      | .pgLock .. | .eventCounterWrite .. | .veFlagClear .. | .spUeCntClear .. | .profFetch .. | .trainingDone .. | .clear .. =>
        t = { s with regs := t.regs }
      | .tblEntryLoWrite .. | .rearm .. | .jobTeardownDone .. => t = { s with parts := t.parts }
      | .summaryHandler .. | .wfi .. | .ccAltsel .. | .ccDesc .. | .ccExpCmd .. => t = { s with clus := t.clus }
      | .ccDefer .. | .ccBelaySame .. => t = { s with lanes := t.lanes }
      | .getVersion .. | .getCapabilities .. | .negotiateAlgorithms .. | .getDigests .. | .getCertificate .. | .challenge ..
          | .getMeasurements .. | .spdmHeartbeat .. | .spdmSummitRead .. => t = { s with spdm := t.spdm }
      | .summitFlush | .pwrgoodAssert .. | .fwWatchdog | .sirviReady | .thermalCalibration | .energyCalibration | .perstNDeassert
          | .pldmEventAcknowledge | .pldmEventEnable => t = { s with sirvi := t.sirvi }
      | .clwSel .. => t = { s with clw := t.clw }
      | .uncorrectableInternalError .. => t = { s with aer := t.aer }
      | .idlePark .. => t = { s with keys := t.keys, strms := t.strms }
      | .keyExchange .. | .finish .. | .keyUpdate .. | .endSession .. => t = { s with sess := t.sess, spdm := t.spdm }
      | .loRead .. | .kvRecomp .. => t = { s with latch := t.latch, parts := t.parts, rdata := t.rdata }
      | .ccSumPop .. => t = { s with clus := t.clus, latch := t.latch, rdata := t.rdata }
      | .portMasterFrame .. | .relock | .chCtrl .. | .nonaudioEnd .. =>
        t = { s with clk := t.clk, ports := t.ports, regs := t.regs }
      | .keySet .. | .keyRotate .. | .keyDropOld .. => t = { s with keys := t.keys, sirvi := t.sirvi, spdm := t.spdm }
      | .kSetGo .. | .ideKm .. => t = { s with ide := t.ide, regs := t.regs, spdm := t.spdm }
      | .linkRetune => t = { s with free := t.free, lports := t.lports, sirvi := t.sirvi }
      | .wearLevelling => t = { s with free := t.free, regs := t.regs, sirvi := t.sirvi }
      | .pgEvtset .. | .strmQuery .. | .tagTmo .. | .ingPi .. | .emCi .. | .outPi .. | .zcTmo .. | .collTmo .. | .bgSlip
          | .pgEvtClear .. | .msixUnmask .. => t = { s with marks := t.marks, msgs := t.msgs, regs := t.regs, vecs := t.vecs }
      | .steadySet .. | .steadyClear .. | .ptySteadyAck .. =>
        t = { s with regs := t.regs, sirvi := t.sirvi, spdm := t.spdm, stdy := t.stdy }
      | .bhbSend .. | .linkRetry .. | .heartbeatSend .. =>
        t = { s with lports := t.lports, msgs := t.msgs, pacc := t.pacc, regs := t.regs }
      | .tbLoad | .ptmRequest .. | .ptmTimeout | .tickApply | .tickCtrlEn .. | .tickInEdge .. | .fallbackTimeout =>
        t = { s with clk := t.clk, marks := t.marks, msgs := t.msgs, regs := t.regs, vecs := t.vecs }
      | .configure .. | .start .. | .stop .. | .maint .. | .resume .. | .reconfig .. | .tblSwap .. | .load .. | .unload ..
          | .seqInit .. | .seqFork .. | .seqReset .. | .seqFree .. | .expUnregister .. | .tblEntryHiWrite .. =>
        t = { s with marks := t.marks, msgs := t.msgs, parts := t.parts, regs := t.regs, vecs := t.vecs }
      | .strmOpen .. | .strmClose .. | .strmPark .. | .strmUnpark .. | .strmExport .. | .strmImport .. | .strmSetcfg .. =>
        t = { s with marks := t.marks, msgs := t.msgs, regs := t.regs, strms := t.strms, vecs := t.vecs }
      | .debugNonce .. | .info .. | .regionSet .. | .spanSet .. | .sensorLimit .. | .pwrLimit .. | .bgCfg .. | .fwStage ..
          | .fwActivate .. | .fwCommit .. | .summitInfo .. | .summitRead .. | .imgPut .. | .imgDel .. | .imgList .. =>
        t = { s with marks := t.marks, msgs := t.msgs, regs := t.regs, sirvi := t.sirvi, vecs := t.vecs }
      | .ptmResponse .. =>
        t = { s with clk := t.clk, free := t.free, marks := t.marks, msgs := t.msgs, regs := t.regs, vecs := t.vecs }
      | .expRegister .. =>
        t = { s with marks := t.marks, msgs := t.msgs, pacc := t.pacc, parts := t.parts, regs := t.regs, vecs := t.vecs }
      | .portFrame .. | .portFrameTimeout .. | .zcTimeout .. | .portCfg .. =>
        t = { s with clk := t.clk, marks := t.marks, msgs := t.msgs, ports := t.ports, regs := t.regs, vecs := t.vecs }
      | .policySet .. | .lockInterface .. | .startInterface .. =>
        t = { s with msgs := t.msgs, regs := t.regs, sirvi := t.sirvi, spdm := t.spdm, stdy := t.stdy, vecs := t.vecs }
      | .bhbTimeout .. | .promote .. =>
        t = { s with bly := t.bly, marks := t.marks, msgs := t.msgs, regs := t.regs, sirvi := t.sirvi, vecs := t.vecs }
      | .ksUnbind .. | .winCreate .. =>
        t = { s with keys := t.keys, marks := t.marks, msgs := t.msgs, regs := t.regs, sirvi := t.sirvi, vecs := t.vecs }
      | .powerLimitStep =>
        t = { s with clk := t.clk, marks := t.marks, msgs := t.msgs, regs := t.regs, sirvi := t.sirvi, vecs := t.vecs }
      | .scratchpadScrub | .clusterScrub =>
        t = { s with bg := t.bg, marks := t.marks, msgs := t.msgs, regs := t.regs, slots := t.slots, vecs := t.vecs }
      | .rowSpareDone =>
        t = { s with bg := t.bg, marks := t.marks, msgs := t.msgs, regs := t.regs, sirvi := t.sirvi, vecs := t.vecs }
      | .commitWindowOpen | .pitchLimit .. | .loopS .. | .loopE .. | .bp .. | .altselSample .. | .halt .. | .sync ..
          | .stallClear .. | .meMode .. | .meCbook .. | .meLoadw .. | .meStream .. | .meDrain .. | .meAttn .. | .vsetvl .. | .vld ..
          | .vst .. | .vmov .. | .vbcast .. | .vsel .. | .vcmp .. | .vadd .. | .vsub .. | .vmul .. | .vfma .. | .vmax .. | .vmin ..
          | .vabs .. | .vneg .. | .vand .. | .vor .. | .vxor .. | .vshl .. | .vsra .. | .vsrl .. | .vrcp .. | .vrsqrt .. | .vfn ..
          | .vred .. | .vtred .. | .vtile .. | .vexpn .. | .vcvt .. | .vpost .. | .vflag .. | .gpChain .. | .spFill .. | .spCopy ..
          | .spTag .. | .spDma .. | .ncCopy .. | .remoteAccessDone .. | .asyncPortPromotion .. | .summaryPostArrival .. =>
        t = { s with bg := t.bg, bly := t.bly, clk := t.clk, clus := t.clus, cores := t.cores, emLost := t.emLost, emis := t.emis,
                     hbmCe := t.hbmCe, lanes := t.lanes, marks := t.marks, msgs := t.msgs, noc := t.noc, pacc := t.pacc,
                     parts := t.parts, regs := t.regs, sirvi := t.sirvi, slots := t.slots, strms := t.strms, vecs := t.vecs }
      | .bundlePageArrival .. =>
        t = { s with bg := t.bg, bly := t.bly, bundles := t.bundles, clk := t.clk, clus := t.clus, cores := t.cores,
                     emLost := t.emLost, emis := t.emis, hbmCe := t.hbmCe, lanes := t.lanes, marks := t.marks, msgs := t.msgs,
                     noc := t.noc, pacc := t.pacc, parts := t.parts, regs := t.regs, sirvi := t.sirvi, slots := t.slots,
                     strms := t.strms, vecs := t.vecs }
      | .zeroiseDone .. =>
        t = { s with bly := t.bly, bundles := t.bundles, ccmem := t.ccmem, clus := t.clus, cores := t.cores, emLost := t.emLost,
                     emis := t.emis, hbm := t.hbm, hbmBad := t.hbmBad, hbmCe := t.hbmCe, htab := t.htab, ings := t.ings,
                     marks := t.marks, meeBad := t.meeBad, msgs := t.msgs, noc := t.noc, parts := t.parts, ports := t.ports,
                     regs := t.regs, slots := t.slots, strms := t.strms, vecs := t.vecs }
      | _ => True
end

