-- ==== Sys2Proof/Laws/SMap.lean ====
section
/-!
SUPPORT. Sparse stores: reading after writing, and the canonical form that every operation keeps.
-/
namespace Sys2Proof.Machine

set_option Elab.async false

section
variable {α : Type}

@[simp] theorem smGet_nil (d : α) (k : Nat) : smGet d [] k = d := rfl

theorem smGet_erase (d : α) (m : SMap α) (k j : Nat) : smGet d (smErase m k) j = if j = k then d else smGet d m j := by
  induction m with
  | nil => simp [smErase]
  | cons p m ih =>
    obtain ⟨i, v⟩ := p
    by_cases h : i = k
    · subst h
      by_cases e : j = i
      · subst e; simpa [smErase] using ih
      · simp [smErase, smGet, ih, e, Ne.symm e]
    · by_cases e : i = j
      · subst e; simp [smErase, smGet, h]
      · simp [smErase, smGet, h, e, ih]

theorem smGet_ins (d : α) (m : SMap α) (k j : Nat) (v : α) (h : smGet d m k = d) (hm : ∀ p ∈ m, p.1 ≠ k) :
    smGet d (smIns k v m) j = if j = k then v else smGet d m j := by
  induction m with
  | nil =>
    by_cases e : j = k
    · simp [smIns, smGet, e]
    · simp [smIns, smGet, e, Ne.symm e]
  | cons p m ih =>
    obtain ⟨i, u⟩ := p
    have hi : i ≠ k := hm (i, u) (by simp)
    have hm' : ∀ p ∈ m, p.1 ≠ k := fun p hp => hm p (List.mem_cons_of_mem _ hp)
    have h' : smGet d m k = d := by simpa [smGet, hi] using h
    by_cases lt : k < i
    · by_cases e : j = k
      · subst e; simp [smIns, lt, smGet]
      · simp [smIns, lt, smGet, e, Ne.symm e]
    · by_cases e : i = j
      · subst e; simp [smIns, lt, smGet, hi]
      · simp [smIns, lt, smGet, e, ih h' hm']

theorem mem_smErase {m : SMap α} {k : Nat} {p : Nat × α} : p ∈ smErase m k ↔ p ∈ m ∧ p.1 ≠ k := by
  induction m with
  | nil => simp [smErase]
  | cons q m ih =>
    obtain ⟨i, u⟩ := q
    by_cases h : i = k
    · subst h
      simp only [smErase, if_true, ih, List.mem_cons]
      constructor
      · rintro ⟨a, b⟩; exact ⟨.inr a, b⟩
      · rintro ⟨rfl | a, b⟩
        · exact absurd rfl b
        · exact ⟨a, b⟩
    · simp only [smErase, h, if_false, List.mem_cons, ih]
      constructor
      · rintro (rfl | ⟨a, b⟩)
        · exact ⟨.inl rfl, h⟩
        · exact ⟨.inr a, b⟩
      · rintro ⟨rfl | a, b⟩
        · exact .inl rfl
        · exact .inr ⟨a, b⟩

/-- Reading after writing: the value written at its key, every other key as before. -/
theorem smGet_smSet [DecidableEq α] (d : α) (m : SMap α) (k j : Nat) (v : α) :
    smGet d (smSet d m k v) j = if j = k then v else smGet d m j := by
  unfold smSet
  by_cases h : v = d
  · simp only [h, if_true, smGet_erase]
  · have hm : ∀ p ∈ smErase m k, p.1 ≠ k := fun p hp => (mem_smErase.1 hp).2
    simp only [h, if_false]
    rw [smGet_ins d _ k j v (by simp [smGet_erase]) hm, smGet_erase]
    by_cases e : j = k <;> simp [e]

@[simp] theorem smGet_smSet_same [DecidableEq α] (d : α) (m : SMap α) (k : Nat) (v : α) : smGet d (smSet d m k v) k = v := by
  simp [smGet_smSet]

theorem smGet_smSet_ne [DecidableEq α] (d : α) (m : SMap α) {k j : Nat} (v : α) (h : j ≠ k) :
    smGet d (smSet d m k v) j = smGet d m j := by simp [smGet_smSet, h]

/-! ## The canonical form -/

theorem smRising_mono {m : SMap α} {a b : Nat} (h : a ≤ b) (r : smRising b m = true) : smRising a m = true := by
  cases m with
  | nil => rfl
  | cons p m =>
    obtain ⟨i, u⟩ := p
    simp only [smRising, Bool.and_eq_true, decide_eq_true_eq] at r ⊢
    exact ⟨by omega, r.2⟩

theorem smRising_le {m : SMap α} {a : Nat} (r : smRising a m = true) : ∀ p ∈ m, a ≤ p.1 := by
  induction m generalizing a with
  | nil => simp
  | cons q m ih =>
    obtain ⟨i, u⟩ := q
    simp only [smRising, Bool.and_eq_true, decide_eq_true_eq] at r
    intro p hp
    rcases List.mem_cons.1 hp with rfl | hp
    · exact r.1
    · have := ih r.2 p hp; omega

theorem smRising_filter {m : SMap α} {a : Nat} (f : Nat × α → Bool) (r : smRising a m = true) : smRising a (m.filter f) = true := by
  induction m generalizing a with
  | nil => rfl
  | cons q m ih =>
    obtain ⟨i, u⟩ := q
    simp only [smRising, Bool.and_eq_true, decide_eq_true_eq] at r
    by_cases h : f (i, u) = true
    · simp only [List.filter_cons, h, if_true, smRising, Bool.and_eq_true, decide_eq_true_eq]
      exact ⟨r.1, ih r.2⟩
    · simp only [List.filter_cons, h]
      exact smRising_mono (by omega) (ih r.2)

theorem smRising_erase {m : SMap α} {a : Nat} (k : Nat) (r : smRising a m = true) : smRising a (smErase m k) = true := by
  induction m generalizing a with
  | nil => rfl
  | cons q m ih =>
    obtain ⟨i, u⟩ := q
    simp only [smRising, Bool.and_eq_true, decide_eq_true_eq] at r
    by_cases h : i = k
    · simp only [smErase, h, if_true]
      subst h
      exact smRising_mono (by omega) (ih r.2)
    · simp only [smErase, h, if_false, smRising, Bool.and_eq_true, decide_eq_true_eq]
      exact ⟨r.1, ih r.2⟩

theorem smRising_ins {m : SMap α} {a k : Nat} (v : α) (r : smRising a m = true) (h : a ≤ k) (hm : ∀ p ∈ m, p.1 ≠ k) :
    smRising a (smIns k v m) = true := by
  induction m generalizing a with
  | nil => simp [smIns, smRising, h]
  | cons q m ih =>
    obtain ⟨i, u⟩ := q
    simp only [smRising, Bool.and_eq_true, decide_eq_true_eq] at r
    have hi : i ≠ k := hm (i, u) (by simp)
    by_cases lt : k < i
    · simp only [smIns, lt, if_true, smRising, Bool.and_eq_true, decide_eq_true_eq]
      exact ⟨h, by omega, r.2⟩
    · simp only [smIns, lt, if_false, smRising, Bool.and_eq_true, decide_eq_true_eq]
      exact ⟨r.1, ih r.2 (by omega) fun p hp => hm p (List.mem_cons_of_mem _ hp)⟩

theorem mem_smIns {m : SMap α} {k : Nat} {v : α} {p : Nat × α} : p ∈ smIns k v m ↔ p = (k, v) ∨ p ∈ m := by
  induction m with
  | nil => simp [smIns]
  | cons q m ih =>
    obtain ⟨i, u⟩ := q
    by_cases lt : k < i
    · simp [smIns, lt]
    · simp only [smIns, lt, if_false, List.mem_cons, ih]
      constructor <;> rintro (h | h | h) <;> simp [h]

theorem smWf_iff [DecidableEq α] (d : Nat → α) (m : SMap α) : smWf d m = true ↔ smRising 0 m = true ∧ ∀ p ∈ m, p.2 ≠ d p.1 := by
  simp [smWf, List.all_eq_true]

/-- A write keeps the canonical form. -/
theorem smWf_set [DecidableEq α] (d : α) {m : SMap α} (k : Nat) (v : α) (h : smWf (fun _ => d) m = true) :
    smWf (fun _ => d) (smSet d m k v) = true := by
  rw [smWf_iff] at h ⊢
  have he : ∀ p ∈ smErase m k, p.1 ≠ k := fun p hp => (mem_smErase.1 hp).2
  unfold smSet
  by_cases e : v = d
  · simp only [e, if_true]
    exact ⟨smRising_erase k h.1, fun p hp => h.2 p (mem_smErase.1 hp).1⟩
  · simp only [e, if_false]
    refine ⟨smRising_ins v (smRising_erase k h.1) (Nat.zero_le k) he, fun p hp => ?_⟩
    rcases mem_smIns.1 hp with rfl | hp
    · exact e
    · exact h.2 p (mem_smErase.1 hp).1

/-- Leaving entries out keeps the canonical form. -/
theorem smWf_filter [DecidableEq α] (d : Nat → α) {m : SMap α} (f : Nat × α → Bool) (h : smWf d m = true) :
    smWf d (m.filter f) = true := by
  rw [smWf_iff] at h ⊢
  exact ⟨smRising_filter f h.1, fun p hp => h.2 p (List.mem_filter.1 hp).1⟩

theorem smWf_drop [DecidableEq α] (d : Nat → α) {m : SMap α} (f : Nat → Bool) (h : smWf d m = true) : smWf d (smDrop m f) = true :=
  smWf_filter d _ h

@[simp] theorem smWf_nil [DecidableEq α] (d : Nat → α) : smWf d ([] : SMap α) = true := rfl

end

/-! ## Byte memories -/

/-- A memory write keeps the canonical form. -/
theorem memWf_write (d : Byte) {m : List Host.Cell} (a : Nat) (bs : List Byte) (h : memWf d m = true) : memWf d (memWrite d m a bs) = true := by
  induction bs generalizing m a with
  | nil => exact h
  | cons b bs ih => exact ih (a + 1) (smWf_set d a b h)

/-- One byte after a write: the byte written in [a, a + n), every other byte as before. -/
theorem memGet_write (d : Byte) (m : List Host.Cell) (a : Nat) (bs : List Byte) (x : Nat) :
    memGet d (memWrite d m a bs) x = if h : a ≤ x ∧ x - a < bs.length then bs[x - a]'h.2 else memGet d m x := by
  induction bs generalizing m a with
  | nil => simp [memWrite]
  | cons b bs ih =>
    simp only [memWrite, ih]
    by_cases h1 : a + 1 ≤ x ∧ x - (a + 1) < bs.length
    · have h2 : a ≤ x ∧ x - a < (b :: bs).length := ⟨by omega, by simp; omega⟩
      rw [dif_pos h1, dif_pos h2]
      have e : x - a = (x - (a + 1)) + 1 := by omega
      simp [e]
    · rw [dif_neg h1]
      by_cases h3 : x = a
      · subst h3
        simp [memGet, memSet]
      · have h2 : ¬ (a ≤ x ∧ x - a < (b :: bs).length) := by simp; omega
        rw [dif_neg h2]
        exact smGet_smSet_ne d m b h3

end Sys2Proof.Machine
end

