-- ==== Sys2Proof/Laws/State.lean ====
section
/-!
SUPPORT. The named updates of one field of the state: every other field is as before.
-/
namespace Sys2Proof.Machine

set_option Elab.async false

section wr
variable (s : State) (a : Nat) (v : Word)

@[simp] theorem wr_marks : (wr s a v).marks = s.marks := rfl
@[simp] theorem wr_pending : (wr s a v).pending = s.pending := rfl
@[simp] theorem wr_free : (wr s a v).free = s.free := rfl
@[simp] theorem wr_clk : (wr s a v).clk = s.clk := rfl
@[simp] theorem wr_latch : (wr s a v).latch = s.latch := rfl
@[simp] theorem wr_vfEn : (wr s a v).vfEn = s.vfEn := rfl
@[simp] theorem wr_clw : (wr s a v).clw = s.clw := rfl
@[simp] theorem wr_vecs : (wr s a v).vecs = s.vecs := rfl
@[simp] theorem wr_msgs : (wr s a v).msgs = s.msgs := rfl
@[simp] theorem wr_rdata : (wr s a v).rdata = s.rdata := rfl
@[simp] theorem wr_parts : (wr s a v).parts = s.parts := rfl
@[simp] theorem wr_pacc : (wr s a v).pacc = s.pacc := rfl
@[simp] theorem wr_lanes : (wr s a v).lanes = s.lanes := rfl
@[simp] theorem wr_strms : (wr s a v).strms = s.strms := rfl
@[simp] theorem wr_clus : (wr s a v).clus = s.clus := rfl
@[simp] theorem wr_slots : (wr s a v).slots = s.slots := rfl
@[simp] theorem wr_htab : (wr s a v).htab = s.htab := rfl
@[simp] theorem wr_bundles : (wr s a v).bundles = s.bundles := rfl
@[simp] theorem wr_ccmem : (wr s a v).ccmem = s.ccmem := rfl
@[simp] theorem wr_hbm : (wr s a v).hbm = s.hbm := rfl
@[simp] theorem wr_hbmBad : (wr s a v).hbmBad = s.hbmBad := rfl
@[simp] theorem wr_hbmCe : (wr s a v).hbmCe = s.hbmCe := rfl
@[simp] theorem wr_meeBad : (wr s a v).meeBad = s.meeBad := rfl
@[simp] theorem wr_hostMem : (wr s a v).hostMem = s.hostMem := rfl
@[simp] theorem wr_emis : (wr s a v).emis = s.emis := rfl
@[simp] theorem wr_emLost : (wr s a v).emLost = s.emLost := rfl
@[simp] theorem wr_ings : (wr s a v).ings = s.ings := rfl
@[simp] theorem wr_ports : (wr s a v).ports = s.ports := rfl
@[simp] theorem wr_keys : (wr s a v).keys = s.keys := rfl
@[simp] theorem wr_bg : (wr s a v).bg = s.bg := rfl
@[simp] theorem wr_noc : (wr s a v).noc = s.noc := rfl
@[simp] theorem wr_cores : (wr s a v).cores = s.cores := rfl
@[simp] theorem wr_lports : (wr s a v).lports = s.lports := rfl
@[simp] theorem wr_bly : (wr s a v).bly = s.bly := rfl
@[simp] theorem wr_sess : (wr s a v).sess = s.sess := rfl
@[simp] theorem wr_spdm : (wr s a v).spdm = s.spdm := rfl
@[simp] theorem wr_ide : (wr s a v).ide = s.ide := rfl
@[simp] theorem wr_stdy : (wr s a v).stdy = s.stdy := rfl
@[simp] theorem wr_aer : (wr s a v).aer = s.aer := rfl
@[simp] theorem wr_sirvi : (wr s a v).sirvi = s.sirvi := rfl

end wr

section wrN
variable (s : State) (a v : Nat)

@[simp] theorem wrN_marks : (wrN s a v).marks = s.marks := rfl
@[simp] theorem wrN_pending : (wrN s a v).pending = s.pending := rfl
@[simp] theorem wrN_free : (wrN s a v).free = s.free := rfl
@[simp] theorem wrN_clk : (wrN s a v).clk = s.clk := rfl
@[simp] theorem wrN_latch : (wrN s a v).latch = s.latch := rfl
@[simp] theorem wrN_vfEn : (wrN s a v).vfEn = s.vfEn := rfl
@[simp] theorem wrN_clw : (wrN s a v).clw = s.clw := rfl
@[simp] theorem wrN_vecs : (wrN s a v).vecs = s.vecs := rfl
@[simp] theorem wrN_msgs : (wrN s a v).msgs = s.msgs := rfl
@[simp] theorem wrN_rdata : (wrN s a v).rdata = s.rdata := rfl
@[simp] theorem wrN_parts : (wrN s a v).parts = s.parts := rfl
@[simp] theorem wrN_pacc : (wrN s a v).pacc = s.pacc := rfl
@[simp] theorem wrN_lanes : (wrN s a v).lanes = s.lanes := rfl
@[simp] theorem wrN_strms : (wrN s a v).strms = s.strms := rfl
@[simp] theorem wrN_clus : (wrN s a v).clus = s.clus := rfl
@[simp] theorem wrN_slots : (wrN s a v).slots = s.slots := rfl
@[simp] theorem wrN_htab : (wrN s a v).htab = s.htab := rfl
@[simp] theorem wrN_bundles : (wrN s a v).bundles = s.bundles := rfl
@[simp] theorem wrN_ccmem : (wrN s a v).ccmem = s.ccmem := rfl
@[simp] theorem wrN_hbm : (wrN s a v).hbm = s.hbm := rfl
@[simp] theorem wrN_hbmBad : (wrN s a v).hbmBad = s.hbmBad := rfl
@[simp] theorem wrN_hbmCe : (wrN s a v).hbmCe = s.hbmCe := rfl
@[simp] theorem wrN_meeBad : (wrN s a v).meeBad = s.meeBad := rfl
@[simp] theorem wrN_hostMem : (wrN s a v).hostMem = s.hostMem := rfl
@[simp] theorem wrN_emis : (wrN s a v).emis = s.emis := rfl
@[simp] theorem wrN_emLost : (wrN s a v).emLost = s.emLost := rfl
@[simp] theorem wrN_ings : (wrN s a v).ings = s.ings := rfl
@[simp] theorem wrN_ports : (wrN s a v).ports = s.ports := rfl
@[simp] theorem wrN_keys : (wrN s a v).keys = s.keys := rfl
@[simp] theorem wrN_bg : (wrN s a v).bg = s.bg := rfl
@[simp] theorem wrN_noc : (wrN s a v).noc = s.noc := rfl
@[simp] theorem wrN_cores : (wrN s a v).cores = s.cores := rfl
@[simp] theorem wrN_lports : (wrN s a v).lports = s.lports := rfl
@[simp] theorem wrN_bly : (wrN s a v).bly = s.bly := rfl
@[simp] theorem wrN_sess : (wrN s a v).sess = s.sess := rfl
@[simp] theorem wrN_spdm : (wrN s a v).spdm = s.spdm := rfl
@[simp] theorem wrN_ide : (wrN s a v).ide = s.ide := rfl
@[simp] theorem wrN_stdy : (wrN s a v).stdy = s.stdy := rfl
@[simp] theorem wrN_aer : (wrN s a v).aer = s.aer := rfl
@[simp] theorem wrN_sirvi : (wrN s a v).sirvi = s.sirvi := rfl

end wrN

section wf
variable (s : State) (a lo len v : Nat)

@[simp] theorem wf_marks : (wf s a lo len v).marks = s.marks := rfl
@[simp] theorem wf_pending : (wf s a lo len v).pending = s.pending := rfl
@[simp] theorem wf_free : (wf s a lo len v).free = s.free := rfl
@[simp] theorem wf_clk : (wf s a lo len v).clk = s.clk := rfl
@[simp] theorem wf_latch : (wf s a lo len v).latch = s.latch := rfl
@[simp] theorem wf_vfEn : (wf s a lo len v).vfEn = s.vfEn := rfl
@[simp] theorem wf_clw : (wf s a lo len v).clw = s.clw := rfl
@[simp] theorem wf_vecs : (wf s a lo len v).vecs = s.vecs := rfl
@[simp] theorem wf_msgs : (wf s a lo len v).msgs = s.msgs := rfl
@[simp] theorem wf_rdata : (wf s a lo len v).rdata = s.rdata := rfl
@[simp] theorem wf_parts : (wf s a lo len v).parts = s.parts := rfl
@[simp] theorem wf_pacc : (wf s a lo len v).pacc = s.pacc := rfl
@[simp] theorem wf_lanes : (wf s a lo len v).lanes = s.lanes := rfl
@[simp] theorem wf_strms : (wf s a lo len v).strms = s.strms := rfl
@[simp] theorem wf_clus : (wf s a lo len v).clus = s.clus := rfl
@[simp] theorem wf_slots : (wf s a lo len v).slots = s.slots := rfl
@[simp] theorem wf_htab : (wf s a lo len v).htab = s.htab := rfl
@[simp] theorem wf_bundles : (wf s a lo len v).bundles = s.bundles := rfl
@[simp] theorem wf_ccmem : (wf s a lo len v).ccmem = s.ccmem := rfl
@[simp] theorem wf_hbm : (wf s a lo len v).hbm = s.hbm := rfl
@[simp] theorem wf_hbmBad : (wf s a lo len v).hbmBad = s.hbmBad := rfl
@[simp] theorem wf_hbmCe : (wf s a lo len v).hbmCe = s.hbmCe := rfl
@[simp] theorem wf_meeBad : (wf s a lo len v).meeBad = s.meeBad := rfl
@[simp] theorem wf_hostMem : (wf s a lo len v).hostMem = s.hostMem := rfl
@[simp] theorem wf_emis : (wf s a lo len v).emis = s.emis := rfl
@[simp] theorem wf_emLost : (wf s a lo len v).emLost = s.emLost := rfl
@[simp] theorem wf_ings : (wf s a lo len v).ings = s.ings := rfl
@[simp] theorem wf_ports : (wf s a lo len v).ports = s.ports := rfl
@[simp] theorem wf_keys : (wf s a lo len v).keys = s.keys := rfl
@[simp] theorem wf_bg : (wf s a lo len v).bg = s.bg := rfl
@[simp] theorem wf_noc : (wf s a lo len v).noc = s.noc := rfl
@[simp] theorem wf_cores : (wf s a lo len v).cores = s.cores := rfl
@[simp] theorem wf_lports : (wf s a lo len v).lports = s.lports := rfl
@[simp] theorem wf_bly : (wf s a lo len v).bly = s.bly := rfl
@[simp] theorem wf_sess : (wf s a lo len v).sess = s.sess := rfl
@[simp] theorem wf_spdm : (wf s a lo len v).spdm = s.spdm := rfl
@[simp] theorem wf_ide : (wf s a lo len v).ide = s.ide := rfl
@[simp] theorem wf_stdy : (wf s a lo len v).stdy = s.stdy := rfl
@[simp] theorem wf_aer : (wf s a lo len v).aer = s.aer := rfl
@[simp] theorem wf_sirvi : (wf s a lo len v).sirvi = s.sirvi := rfl

end wf

section wr64
variable (s : State) (a v : Nat)

@[simp] theorem wr64_marks : (wr64 s a v).marks = s.marks := rfl
@[simp] theorem wr64_pending : (wr64 s a v).pending = s.pending := rfl
@[simp] theorem wr64_free : (wr64 s a v).free = s.free := rfl
@[simp] theorem wr64_clk : (wr64 s a v).clk = s.clk := rfl
@[simp] theorem wr64_latch : (wr64 s a v).latch = s.latch := rfl
@[simp] theorem wr64_vfEn : (wr64 s a v).vfEn = s.vfEn := rfl
@[simp] theorem wr64_clw : (wr64 s a v).clw = s.clw := rfl
@[simp] theorem wr64_vecs : (wr64 s a v).vecs = s.vecs := rfl
@[simp] theorem wr64_msgs : (wr64 s a v).msgs = s.msgs := rfl
@[simp] theorem wr64_rdata : (wr64 s a v).rdata = s.rdata := rfl
@[simp] theorem wr64_parts : (wr64 s a v).parts = s.parts := rfl
@[simp] theorem wr64_pacc : (wr64 s a v).pacc = s.pacc := rfl
@[simp] theorem wr64_lanes : (wr64 s a v).lanes = s.lanes := rfl
@[simp] theorem wr64_strms : (wr64 s a v).strms = s.strms := rfl
@[simp] theorem wr64_clus : (wr64 s a v).clus = s.clus := rfl
@[simp] theorem wr64_slots : (wr64 s a v).slots = s.slots := rfl
@[simp] theorem wr64_htab : (wr64 s a v).htab = s.htab := rfl
@[simp] theorem wr64_bundles : (wr64 s a v).bundles = s.bundles := rfl
@[simp] theorem wr64_ccmem : (wr64 s a v).ccmem = s.ccmem := rfl
@[simp] theorem wr64_hbm : (wr64 s a v).hbm = s.hbm := rfl
@[simp] theorem wr64_hbmBad : (wr64 s a v).hbmBad = s.hbmBad := rfl
@[simp] theorem wr64_hbmCe : (wr64 s a v).hbmCe = s.hbmCe := rfl
@[simp] theorem wr64_meeBad : (wr64 s a v).meeBad = s.meeBad := rfl
@[simp] theorem wr64_hostMem : (wr64 s a v).hostMem = s.hostMem := rfl
@[simp] theorem wr64_emis : (wr64 s a v).emis = s.emis := rfl
@[simp] theorem wr64_emLost : (wr64 s a v).emLost = s.emLost := rfl
@[simp] theorem wr64_ings : (wr64 s a v).ings = s.ings := rfl
@[simp] theorem wr64_ports : (wr64 s a v).ports = s.ports := rfl
@[simp] theorem wr64_keys : (wr64 s a v).keys = s.keys := rfl
@[simp] theorem wr64_bg : (wr64 s a v).bg = s.bg := rfl
@[simp] theorem wr64_noc : (wr64 s a v).noc = s.noc := rfl
@[simp] theorem wr64_cores : (wr64 s a v).cores = s.cores := rfl
@[simp] theorem wr64_lports : (wr64 s a v).lports = s.lports := rfl
@[simp] theorem wr64_bly : (wr64 s a v).bly = s.bly := rfl
@[simp] theorem wr64_sess : (wr64 s a v).sess = s.sess := rfl
@[simp] theorem wr64_spdm : (wr64 s a v).spdm = s.spdm := rfl
@[simp] theorem wr64_ide : (wr64 s a v).ide = s.ide := rfl
@[simp] theorem wr64_stdy : (wr64 s a v).stdy = s.stdy := rfl
@[simp] theorem wr64_aer : (wr64 s a v).aer = s.aer := rfl
@[simp] theorem wr64_sirvi : (wr64 s a v).sirvi = s.sirvi := rfl

end wr64

section setPart
variable (s : State) (n : Nat) (p : Part)

@[simp] theorem setPart_marks : (setPart s n p).marks = s.marks := rfl
@[simp] theorem setPart_pending : (setPart s n p).pending = s.pending := rfl
@[simp] theorem setPart_free : (setPart s n p).free = s.free := rfl
@[simp] theorem setPart_clk : (setPart s n p).clk = s.clk := rfl
@[simp] theorem setPart_regs : (setPart s n p).regs = s.regs := rfl
@[simp] theorem setPart_latch : (setPart s n p).latch = s.latch := rfl
@[simp] theorem setPart_vfEn : (setPart s n p).vfEn = s.vfEn := rfl
@[simp] theorem setPart_clw : (setPart s n p).clw = s.clw := rfl
@[simp] theorem setPart_vecs : (setPart s n p).vecs = s.vecs := rfl
@[simp] theorem setPart_msgs : (setPart s n p).msgs = s.msgs := rfl
@[simp] theorem setPart_rdata : (setPart s n p).rdata = s.rdata := rfl
@[simp] theorem setPart_pacc : (setPart s n p).pacc = s.pacc := rfl
@[simp] theorem setPart_lanes : (setPart s n p).lanes = s.lanes := rfl
@[simp] theorem setPart_strms : (setPart s n p).strms = s.strms := rfl
@[simp] theorem setPart_clus : (setPart s n p).clus = s.clus := rfl
@[simp] theorem setPart_slots : (setPart s n p).slots = s.slots := rfl
@[simp] theorem setPart_htab : (setPart s n p).htab = s.htab := rfl
@[simp] theorem setPart_bundles : (setPart s n p).bundles = s.bundles := rfl
@[simp] theorem setPart_ccmem : (setPart s n p).ccmem = s.ccmem := rfl
@[simp] theorem setPart_hbm : (setPart s n p).hbm = s.hbm := rfl
@[simp] theorem setPart_hbmBad : (setPart s n p).hbmBad = s.hbmBad := rfl
@[simp] theorem setPart_hbmCe : (setPart s n p).hbmCe = s.hbmCe := rfl
@[simp] theorem setPart_meeBad : (setPart s n p).meeBad = s.meeBad := rfl
@[simp] theorem setPart_hostMem : (setPart s n p).hostMem = s.hostMem := rfl
@[simp] theorem setPart_emis : (setPart s n p).emis = s.emis := rfl
@[simp] theorem setPart_emLost : (setPart s n p).emLost = s.emLost := rfl
@[simp] theorem setPart_ings : (setPart s n p).ings = s.ings := rfl
@[simp] theorem setPart_ports : (setPart s n p).ports = s.ports := rfl
@[simp] theorem setPart_keys : (setPart s n p).keys = s.keys := rfl
@[simp] theorem setPart_bg : (setPart s n p).bg = s.bg := rfl
@[simp] theorem setPart_noc : (setPart s n p).noc = s.noc := rfl
@[simp] theorem setPart_cores : (setPart s n p).cores = s.cores := rfl
@[simp] theorem setPart_lports : (setPart s n p).lports = s.lports := rfl
@[simp] theorem setPart_bly : (setPart s n p).bly = s.bly := rfl
@[simp] theorem setPart_sess : (setPart s n p).sess = s.sess := rfl
@[simp] theorem setPart_spdm : (setPart s n p).spdm = s.spdm := rfl
@[simp] theorem setPart_ide : (setPart s n p).ide = s.ide := rfl
@[simp] theorem setPart_stdy : (setPart s n p).stdy = s.stdy := rfl
@[simp] theorem setPart_aer : (setPart s n p).aer = s.aer := rfl
@[simp] theorem setPart_sirvi : (setPart s n p).sirvi = s.sirvi := rfl

end setPart

section modPart
variable (s : State) (n : Nat) (f : Part → Part)

@[simp] theorem modPart_marks : (modPart s n f).marks = s.marks := rfl
@[simp] theorem modPart_pending : (modPart s n f).pending = s.pending := rfl
@[simp] theorem modPart_free : (modPart s n f).free = s.free := rfl
@[simp] theorem modPart_clk : (modPart s n f).clk = s.clk := rfl
@[simp] theorem modPart_regs : (modPart s n f).regs = s.regs := rfl
@[simp] theorem modPart_latch : (modPart s n f).latch = s.latch := rfl
@[simp] theorem modPart_vfEn : (modPart s n f).vfEn = s.vfEn := rfl
@[simp] theorem modPart_clw : (modPart s n f).clw = s.clw := rfl
@[simp] theorem modPart_vecs : (modPart s n f).vecs = s.vecs := rfl
@[simp] theorem modPart_msgs : (modPart s n f).msgs = s.msgs := rfl
@[simp] theorem modPart_rdata : (modPart s n f).rdata = s.rdata := rfl
@[simp] theorem modPart_pacc : (modPart s n f).pacc = s.pacc := rfl
@[simp] theorem modPart_lanes : (modPart s n f).lanes = s.lanes := rfl
@[simp] theorem modPart_strms : (modPart s n f).strms = s.strms := rfl
@[simp] theorem modPart_clus : (modPart s n f).clus = s.clus := rfl
@[simp] theorem modPart_slots : (modPart s n f).slots = s.slots := rfl
@[simp] theorem modPart_htab : (modPart s n f).htab = s.htab := rfl
@[simp] theorem modPart_bundles : (modPart s n f).bundles = s.bundles := rfl
@[simp] theorem modPart_ccmem : (modPart s n f).ccmem = s.ccmem := rfl
@[simp] theorem modPart_hbm : (modPart s n f).hbm = s.hbm := rfl
@[simp] theorem modPart_hbmBad : (modPart s n f).hbmBad = s.hbmBad := rfl
@[simp] theorem modPart_hbmCe : (modPart s n f).hbmCe = s.hbmCe := rfl
@[simp] theorem modPart_meeBad : (modPart s n f).meeBad = s.meeBad := rfl
@[simp] theorem modPart_hostMem : (modPart s n f).hostMem = s.hostMem := rfl
@[simp] theorem modPart_emis : (modPart s n f).emis = s.emis := rfl
@[simp] theorem modPart_emLost : (modPart s n f).emLost = s.emLost := rfl
@[simp] theorem modPart_ings : (modPart s n f).ings = s.ings := rfl
@[simp] theorem modPart_ports : (modPart s n f).ports = s.ports := rfl
@[simp] theorem modPart_keys : (modPart s n f).keys = s.keys := rfl
@[simp] theorem modPart_bg : (modPart s n f).bg = s.bg := rfl
@[simp] theorem modPart_noc : (modPart s n f).noc = s.noc := rfl
@[simp] theorem modPart_cores : (modPart s n f).cores = s.cores := rfl
@[simp] theorem modPart_lports : (modPart s n f).lports = s.lports := rfl
@[simp] theorem modPart_bly : (modPart s n f).bly = s.bly := rfl
@[simp] theorem modPart_sess : (modPart s n f).sess = s.sess := rfl
@[simp] theorem modPart_spdm : (modPart s n f).spdm = s.spdm := rfl
@[simp] theorem modPart_ide : (modPart s n f).ide = s.ide := rfl
@[simp] theorem modPart_stdy : (modPart s n f).stdy = s.stdy := rfl
@[simp] theorem modPart_aer : (modPart s n f).aer = s.aer := rfl
@[simp] theorem modPart_sirvi : (modPart s n f).sirvi = s.sirvi := rfl

end modPart

section setJob
variable (s : State) (n j : Nat) (x : Job)

@[simp] theorem setJob_marks : (setJob s n j x).marks = s.marks := rfl
@[simp] theorem setJob_pending : (setJob s n j x).pending = s.pending := rfl
@[simp] theorem setJob_free : (setJob s n j x).free = s.free := rfl
@[simp] theorem setJob_clk : (setJob s n j x).clk = s.clk := rfl
@[simp] theorem setJob_regs : (setJob s n j x).regs = s.regs := rfl
@[simp] theorem setJob_latch : (setJob s n j x).latch = s.latch := rfl
@[simp] theorem setJob_vfEn : (setJob s n j x).vfEn = s.vfEn := rfl
@[simp] theorem setJob_clw : (setJob s n j x).clw = s.clw := rfl
@[simp] theorem setJob_vecs : (setJob s n j x).vecs = s.vecs := rfl
@[simp] theorem setJob_msgs : (setJob s n j x).msgs = s.msgs := rfl
@[simp] theorem setJob_rdata : (setJob s n j x).rdata = s.rdata := rfl
@[simp] theorem setJob_pacc : (setJob s n j x).pacc = s.pacc := rfl
@[simp] theorem setJob_lanes : (setJob s n j x).lanes = s.lanes := rfl
@[simp] theorem setJob_strms : (setJob s n j x).strms = s.strms := rfl
@[simp] theorem setJob_clus : (setJob s n j x).clus = s.clus := rfl
@[simp] theorem setJob_slots : (setJob s n j x).slots = s.slots := rfl
@[simp] theorem setJob_htab : (setJob s n j x).htab = s.htab := rfl
@[simp] theorem setJob_bundles : (setJob s n j x).bundles = s.bundles := rfl
@[simp] theorem setJob_ccmem : (setJob s n j x).ccmem = s.ccmem := rfl
@[simp] theorem setJob_hbm : (setJob s n j x).hbm = s.hbm := rfl
@[simp] theorem setJob_hbmBad : (setJob s n j x).hbmBad = s.hbmBad := rfl
@[simp] theorem setJob_hbmCe : (setJob s n j x).hbmCe = s.hbmCe := rfl
@[simp] theorem setJob_meeBad : (setJob s n j x).meeBad = s.meeBad := rfl
@[simp] theorem setJob_hostMem : (setJob s n j x).hostMem = s.hostMem := rfl
@[simp] theorem setJob_emis : (setJob s n j x).emis = s.emis := rfl
@[simp] theorem setJob_emLost : (setJob s n j x).emLost = s.emLost := rfl
@[simp] theorem setJob_ings : (setJob s n j x).ings = s.ings := rfl
@[simp] theorem setJob_ports : (setJob s n j x).ports = s.ports := rfl
@[simp] theorem setJob_keys : (setJob s n j x).keys = s.keys := rfl
@[simp] theorem setJob_bg : (setJob s n j x).bg = s.bg := rfl
@[simp] theorem setJob_noc : (setJob s n j x).noc = s.noc := rfl
@[simp] theorem setJob_cores : (setJob s n j x).cores = s.cores := rfl
@[simp] theorem setJob_lports : (setJob s n j x).lports = s.lports := rfl
@[simp] theorem setJob_bly : (setJob s n j x).bly = s.bly := rfl
@[simp] theorem setJob_sess : (setJob s n j x).sess = s.sess := rfl
@[simp] theorem setJob_spdm : (setJob s n j x).spdm = s.spdm := rfl
@[simp] theorem setJob_ide : (setJob s n j x).ide = s.ide := rfl
@[simp] theorem setJob_stdy : (setJob s n j x).stdy = s.stdy := rfl
@[simp] theorem setJob_aer : (setJob s n j x).aer = s.aer := rfl
@[simp] theorem setJob_sirvi : (setJob s n j x).sirvi = s.sirvi := rfl

end setJob

section modJob
variable (s : State) (n j : Nat) (f : Job → Job)

@[simp] theorem modJob_marks : (modJob s n j f).marks = s.marks := rfl
@[simp] theorem modJob_pending : (modJob s n j f).pending = s.pending := rfl
@[simp] theorem modJob_free : (modJob s n j f).free = s.free := rfl
@[simp] theorem modJob_clk : (modJob s n j f).clk = s.clk := rfl
@[simp] theorem modJob_regs : (modJob s n j f).regs = s.regs := rfl
@[simp] theorem modJob_latch : (modJob s n j f).latch = s.latch := rfl
@[simp] theorem modJob_vfEn : (modJob s n j f).vfEn = s.vfEn := rfl
@[simp] theorem modJob_clw : (modJob s n j f).clw = s.clw := rfl
@[simp] theorem modJob_vecs : (modJob s n j f).vecs = s.vecs := rfl
@[simp] theorem modJob_msgs : (modJob s n j f).msgs = s.msgs := rfl
@[simp] theorem modJob_rdata : (modJob s n j f).rdata = s.rdata := rfl
@[simp] theorem modJob_pacc : (modJob s n j f).pacc = s.pacc := rfl
@[simp] theorem modJob_lanes : (modJob s n j f).lanes = s.lanes := rfl
@[simp] theorem modJob_strms : (modJob s n j f).strms = s.strms := rfl
@[simp] theorem modJob_clus : (modJob s n j f).clus = s.clus := rfl
@[simp] theorem modJob_slots : (modJob s n j f).slots = s.slots := rfl
@[simp] theorem modJob_htab : (modJob s n j f).htab = s.htab := rfl
@[simp] theorem modJob_bundles : (modJob s n j f).bundles = s.bundles := rfl
@[simp] theorem modJob_ccmem : (modJob s n j f).ccmem = s.ccmem := rfl
@[simp] theorem modJob_hbm : (modJob s n j f).hbm = s.hbm := rfl
@[simp] theorem modJob_hbmBad : (modJob s n j f).hbmBad = s.hbmBad := rfl
@[simp] theorem modJob_hbmCe : (modJob s n j f).hbmCe = s.hbmCe := rfl
@[simp] theorem modJob_meeBad : (modJob s n j f).meeBad = s.meeBad := rfl
@[simp] theorem modJob_hostMem : (modJob s n j f).hostMem = s.hostMem := rfl
@[simp] theorem modJob_emis : (modJob s n j f).emis = s.emis := rfl
@[simp] theorem modJob_emLost : (modJob s n j f).emLost = s.emLost := rfl
@[simp] theorem modJob_ings : (modJob s n j f).ings = s.ings := rfl
@[simp] theorem modJob_ports : (modJob s n j f).ports = s.ports := rfl
@[simp] theorem modJob_keys : (modJob s n j f).keys = s.keys := rfl
@[simp] theorem modJob_bg : (modJob s n j f).bg = s.bg := rfl
@[simp] theorem modJob_noc : (modJob s n j f).noc = s.noc := rfl
@[simp] theorem modJob_cores : (modJob s n j f).cores = s.cores := rfl
@[simp] theorem modJob_lports : (modJob s n j f).lports = s.lports := rfl
@[simp] theorem modJob_bly : (modJob s n j f).bly = s.bly := rfl
@[simp] theorem modJob_sess : (modJob s n j f).sess = s.sess := rfl
@[simp] theorem modJob_spdm : (modJob s n j f).spdm = s.spdm := rfl
@[simp] theorem modJob_ide : (modJob s n j f).ide = s.ide := rfl
@[simp] theorem modJob_stdy : (modJob s n j f).stdy = s.stdy := rfl
@[simp] theorem modJob_aer : (modJob s n j f).aer = s.aer := rfl
@[simp] theorem modJob_sirvi : (modJob s n j f).sirvi = s.sirvi := rfl

end modJob

section setStrm
variable (s : State) (h : Nat) (x : Strm)

@[simp] theorem setStrm_marks : (setStrm s h x).marks = s.marks := rfl
@[simp] theorem setStrm_pending : (setStrm s h x).pending = s.pending := rfl
@[simp] theorem setStrm_free : (setStrm s h x).free = s.free := rfl
@[simp] theorem setStrm_clk : (setStrm s h x).clk = s.clk := rfl
@[simp] theorem setStrm_regs : (setStrm s h x).regs = s.regs := rfl
@[simp] theorem setStrm_latch : (setStrm s h x).latch = s.latch := rfl
@[simp] theorem setStrm_vfEn : (setStrm s h x).vfEn = s.vfEn := rfl
@[simp] theorem setStrm_clw : (setStrm s h x).clw = s.clw := rfl
@[simp] theorem setStrm_vecs : (setStrm s h x).vecs = s.vecs := rfl
@[simp] theorem setStrm_msgs : (setStrm s h x).msgs = s.msgs := rfl
@[simp] theorem setStrm_rdata : (setStrm s h x).rdata = s.rdata := rfl
@[simp] theorem setStrm_parts : (setStrm s h x).parts = s.parts := rfl
@[simp] theorem setStrm_pacc : (setStrm s h x).pacc = s.pacc := rfl
@[simp] theorem setStrm_lanes : (setStrm s h x).lanes = s.lanes := rfl
@[simp] theorem setStrm_clus : (setStrm s h x).clus = s.clus := rfl
@[simp] theorem setStrm_slots : (setStrm s h x).slots = s.slots := rfl
@[simp] theorem setStrm_htab : (setStrm s h x).htab = s.htab := rfl
@[simp] theorem setStrm_bundles : (setStrm s h x).bundles = s.bundles := rfl
@[simp] theorem setStrm_ccmem : (setStrm s h x).ccmem = s.ccmem := rfl
@[simp] theorem setStrm_hbm : (setStrm s h x).hbm = s.hbm := rfl
@[simp] theorem setStrm_hbmBad : (setStrm s h x).hbmBad = s.hbmBad := rfl
@[simp] theorem setStrm_hbmCe : (setStrm s h x).hbmCe = s.hbmCe := rfl
@[simp] theorem setStrm_meeBad : (setStrm s h x).meeBad = s.meeBad := rfl
@[simp] theorem setStrm_hostMem : (setStrm s h x).hostMem = s.hostMem := rfl
@[simp] theorem setStrm_emis : (setStrm s h x).emis = s.emis := rfl
@[simp] theorem setStrm_emLost : (setStrm s h x).emLost = s.emLost := rfl
@[simp] theorem setStrm_ings : (setStrm s h x).ings = s.ings := rfl
@[simp] theorem setStrm_ports : (setStrm s h x).ports = s.ports := rfl
@[simp] theorem setStrm_keys : (setStrm s h x).keys = s.keys := rfl
@[simp] theorem setStrm_bg : (setStrm s h x).bg = s.bg := rfl
@[simp] theorem setStrm_noc : (setStrm s h x).noc = s.noc := rfl
@[simp] theorem setStrm_cores : (setStrm s h x).cores = s.cores := rfl
@[simp] theorem setStrm_lports : (setStrm s h x).lports = s.lports := rfl
@[simp] theorem setStrm_bly : (setStrm s h x).bly = s.bly := rfl
@[simp] theorem setStrm_sess : (setStrm s h x).sess = s.sess := rfl
@[simp] theorem setStrm_spdm : (setStrm s h x).spdm = s.spdm := rfl
@[simp] theorem setStrm_ide : (setStrm s h x).ide = s.ide := rfl
@[simp] theorem setStrm_stdy : (setStrm s h x).stdy = s.stdy := rfl
@[simp] theorem setStrm_aer : (setStrm s h x).aer = s.aer := rfl
@[simp] theorem setStrm_sirvi : (setStrm s h x).sirvi = s.sirvi := rfl

end setStrm

section modStrm
variable (s : State) (h : Nat) (f : Strm → Strm)

@[simp] theorem modStrm_marks : (modStrm s h f).marks = s.marks := rfl
@[simp] theorem modStrm_pending : (modStrm s h f).pending = s.pending := rfl
@[simp] theorem modStrm_free : (modStrm s h f).free = s.free := rfl
@[simp] theorem modStrm_clk : (modStrm s h f).clk = s.clk := rfl
@[simp] theorem modStrm_regs : (modStrm s h f).regs = s.regs := rfl
@[simp] theorem modStrm_latch : (modStrm s h f).latch = s.latch := rfl
@[simp] theorem modStrm_vfEn : (modStrm s h f).vfEn = s.vfEn := rfl
@[simp] theorem modStrm_clw : (modStrm s h f).clw = s.clw := rfl
@[simp] theorem modStrm_vecs : (modStrm s h f).vecs = s.vecs := rfl
@[simp] theorem modStrm_msgs : (modStrm s h f).msgs = s.msgs := rfl
@[simp] theorem modStrm_rdata : (modStrm s h f).rdata = s.rdata := rfl
@[simp] theorem modStrm_parts : (modStrm s h f).parts = s.parts := rfl
@[simp] theorem modStrm_pacc : (modStrm s h f).pacc = s.pacc := rfl
@[simp] theorem modStrm_lanes : (modStrm s h f).lanes = s.lanes := rfl
@[simp] theorem modStrm_clus : (modStrm s h f).clus = s.clus := rfl
@[simp] theorem modStrm_slots : (modStrm s h f).slots = s.slots := rfl
@[simp] theorem modStrm_htab : (modStrm s h f).htab = s.htab := rfl
@[simp] theorem modStrm_bundles : (modStrm s h f).bundles = s.bundles := rfl
@[simp] theorem modStrm_ccmem : (modStrm s h f).ccmem = s.ccmem := rfl
@[simp] theorem modStrm_hbm : (modStrm s h f).hbm = s.hbm := rfl
@[simp] theorem modStrm_hbmBad : (modStrm s h f).hbmBad = s.hbmBad := rfl
@[simp] theorem modStrm_hbmCe : (modStrm s h f).hbmCe = s.hbmCe := rfl
@[simp] theorem modStrm_meeBad : (modStrm s h f).meeBad = s.meeBad := rfl
@[simp] theorem modStrm_hostMem : (modStrm s h f).hostMem = s.hostMem := rfl
@[simp] theorem modStrm_emis : (modStrm s h f).emis = s.emis := rfl
@[simp] theorem modStrm_emLost : (modStrm s h f).emLost = s.emLost := rfl
@[simp] theorem modStrm_ings : (modStrm s h f).ings = s.ings := rfl
@[simp] theorem modStrm_ports : (modStrm s h f).ports = s.ports := rfl
@[simp] theorem modStrm_keys : (modStrm s h f).keys = s.keys := rfl
@[simp] theorem modStrm_bg : (modStrm s h f).bg = s.bg := rfl
@[simp] theorem modStrm_noc : (modStrm s h f).noc = s.noc := rfl
@[simp] theorem modStrm_cores : (modStrm s h f).cores = s.cores := rfl
@[simp] theorem modStrm_lports : (modStrm s h f).lports = s.lports := rfl
@[simp] theorem modStrm_bly : (modStrm s h f).bly = s.bly := rfl
@[simp] theorem modStrm_sess : (modStrm s h f).sess = s.sess := rfl
@[simp] theorem modStrm_spdm : (modStrm s h f).spdm = s.spdm := rfl
@[simp] theorem modStrm_ide : (modStrm s h f).ide = s.ide := rfl
@[simp] theorem modStrm_stdy : (modStrm s h f).stdy = s.stdy := rfl
@[simp] theorem modStrm_aer : (modStrm s h f).aer = s.aer := rfl
@[simp] theorem modStrm_sirvi : (modStrm s h f).sirvi = s.sirvi := rfl

end modStrm

section setClu
variable (s : State) (c : Nat) (x : Clus)

@[simp] theorem setClu_marks : (setClu s c x).marks = s.marks := rfl
@[simp] theorem setClu_pending : (setClu s c x).pending = s.pending := rfl
@[simp] theorem setClu_free : (setClu s c x).free = s.free := rfl
@[simp] theorem setClu_clk : (setClu s c x).clk = s.clk := rfl
@[simp] theorem setClu_regs : (setClu s c x).regs = s.regs := rfl
@[simp] theorem setClu_latch : (setClu s c x).latch = s.latch := rfl
@[simp] theorem setClu_vfEn : (setClu s c x).vfEn = s.vfEn := rfl
@[simp] theorem setClu_clw : (setClu s c x).clw = s.clw := rfl
@[simp] theorem setClu_vecs : (setClu s c x).vecs = s.vecs := rfl
@[simp] theorem setClu_msgs : (setClu s c x).msgs = s.msgs := rfl
@[simp] theorem setClu_rdata : (setClu s c x).rdata = s.rdata := rfl
@[simp] theorem setClu_parts : (setClu s c x).parts = s.parts := rfl
@[simp] theorem setClu_pacc : (setClu s c x).pacc = s.pacc := rfl
@[simp] theorem setClu_lanes : (setClu s c x).lanes = s.lanes := rfl
@[simp] theorem setClu_strms : (setClu s c x).strms = s.strms := rfl
@[simp] theorem setClu_slots : (setClu s c x).slots = s.slots := rfl
@[simp] theorem setClu_htab : (setClu s c x).htab = s.htab := rfl
@[simp] theorem setClu_bundles : (setClu s c x).bundles = s.bundles := rfl
@[simp] theorem setClu_ccmem : (setClu s c x).ccmem = s.ccmem := rfl
@[simp] theorem setClu_hbm : (setClu s c x).hbm = s.hbm := rfl
@[simp] theorem setClu_hbmBad : (setClu s c x).hbmBad = s.hbmBad := rfl
@[simp] theorem setClu_hbmCe : (setClu s c x).hbmCe = s.hbmCe := rfl
@[simp] theorem setClu_meeBad : (setClu s c x).meeBad = s.meeBad := rfl
@[simp] theorem setClu_hostMem : (setClu s c x).hostMem = s.hostMem := rfl
@[simp] theorem setClu_emis : (setClu s c x).emis = s.emis := rfl
@[simp] theorem setClu_emLost : (setClu s c x).emLost = s.emLost := rfl
@[simp] theorem setClu_ings : (setClu s c x).ings = s.ings := rfl
@[simp] theorem setClu_ports : (setClu s c x).ports = s.ports := rfl
@[simp] theorem setClu_keys : (setClu s c x).keys = s.keys := rfl
@[simp] theorem setClu_bg : (setClu s c x).bg = s.bg := rfl
@[simp] theorem setClu_noc : (setClu s c x).noc = s.noc := rfl
@[simp] theorem setClu_cores : (setClu s c x).cores = s.cores := rfl
@[simp] theorem setClu_lports : (setClu s c x).lports = s.lports := rfl
@[simp] theorem setClu_bly : (setClu s c x).bly = s.bly := rfl
@[simp] theorem setClu_sess : (setClu s c x).sess = s.sess := rfl
@[simp] theorem setClu_spdm : (setClu s c x).spdm = s.spdm := rfl
@[simp] theorem setClu_ide : (setClu s c x).ide = s.ide := rfl
@[simp] theorem setClu_stdy : (setClu s c x).stdy = s.stdy := rfl
@[simp] theorem setClu_aer : (setClu s c x).aer = s.aer := rfl
@[simp] theorem setClu_sirvi : (setClu s c x).sirvi = s.sirvi := rfl

end setClu

section modClu
variable (s : State) (c : Nat) (f : Clus → Clus)

@[simp] theorem modClu_marks : (modClu s c f).marks = s.marks := rfl
@[simp] theorem modClu_pending : (modClu s c f).pending = s.pending := rfl
@[simp] theorem modClu_free : (modClu s c f).free = s.free := rfl
@[simp] theorem modClu_clk : (modClu s c f).clk = s.clk := rfl
@[simp] theorem modClu_regs : (modClu s c f).regs = s.regs := rfl
@[simp] theorem modClu_latch : (modClu s c f).latch = s.latch := rfl
@[simp] theorem modClu_vfEn : (modClu s c f).vfEn = s.vfEn := rfl
@[simp] theorem modClu_clw : (modClu s c f).clw = s.clw := rfl
@[simp] theorem modClu_vecs : (modClu s c f).vecs = s.vecs := rfl
@[simp] theorem modClu_msgs : (modClu s c f).msgs = s.msgs := rfl
@[simp] theorem modClu_rdata : (modClu s c f).rdata = s.rdata := rfl
@[simp] theorem modClu_parts : (modClu s c f).parts = s.parts := rfl
@[simp] theorem modClu_pacc : (modClu s c f).pacc = s.pacc := rfl
@[simp] theorem modClu_lanes : (modClu s c f).lanes = s.lanes := rfl
@[simp] theorem modClu_strms : (modClu s c f).strms = s.strms := rfl
@[simp] theorem modClu_slots : (modClu s c f).slots = s.slots := rfl
@[simp] theorem modClu_htab : (modClu s c f).htab = s.htab := rfl
@[simp] theorem modClu_bundles : (modClu s c f).bundles = s.bundles := rfl
@[simp] theorem modClu_ccmem : (modClu s c f).ccmem = s.ccmem := rfl
@[simp] theorem modClu_hbm : (modClu s c f).hbm = s.hbm := rfl
@[simp] theorem modClu_hbmBad : (modClu s c f).hbmBad = s.hbmBad := rfl
@[simp] theorem modClu_hbmCe : (modClu s c f).hbmCe = s.hbmCe := rfl
@[simp] theorem modClu_meeBad : (modClu s c f).meeBad = s.meeBad := rfl
@[simp] theorem modClu_hostMem : (modClu s c f).hostMem = s.hostMem := rfl
@[simp] theorem modClu_emis : (modClu s c f).emis = s.emis := rfl
@[simp] theorem modClu_emLost : (modClu s c f).emLost = s.emLost := rfl
@[simp] theorem modClu_ings : (modClu s c f).ings = s.ings := rfl
@[simp] theorem modClu_ports : (modClu s c f).ports = s.ports := rfl
@[simp] theorem modClu_keys : (modClu s c f).keys = s.keys := rfl
@[simp] theorem modClu_bg : (modClu s c f).bg = s.bg := rfl
@[simp] theorem modClu_noc : (modClu s c f).noc = s.noc := rfl
@[simp] theorem modClu_cores : (modClu s c f).cores = s.cores := rfl
@[simp] theorem modClu_lports : (modClu s c f).lports = s.lports := rfl
@[simp] theorem modClu_bly : (modClu s c f).bly = s.bly := rfl
@[simp] theorem modClu_sess : (modClu s c f).sess = s.sess := rfl
@[simp] theorem modClu_spdm : (modClu s c f).spdm = s.spdm := rfl
@[simp] theorem modClu_ide : (modClu s c f).ide = s.ide := rfl
@[simp] theorem modClu_stdy : (modClu s c f).stdy = s.stdy := rfl
@[simp] theorem modClu_aer : (modClu s c f).aer = s.aer := rfl
@[simp] theorem modClu_sirvi : (modClu s c f).sirvi = s.sirvi := rfl

end modClu

section setLane
variable (s : State) (k : Nat) (x : Option Lane)

@[simp] theorem setLane_marks : (setLane s k x).marks = s.marks := rfl
@[simp] theorem setLane_pending : (setLane s k x).pending = s.pending := rfl
@[simp] theorem setLane_free : (setLane s k x).free = s.free := rfl
@[simp] theorem setLane_clk : (setLane s k x).clk = s.clk := rfl
@[simp] theorem setLane_regs : (setLane s k x).regs = s.regs := rfl
@[simp] theorem setLane_latch : (setLane s k x).latch = s.latch := rfl
@[simp] theorem setLane_vfEn : (setLane s k x).vfEn = s.vfEn := rfl
@[simp] theorem setLane_clw : (setLane s k x).clw = s.clw := rfl
@[simp] theorem setLane_vecs : (setLane s k x).vecs = s.vecs := rfl
@[simp] theorem setLane_msgs : (setLane s k x).msgs = s.msgs := rfl
@[simp] theorem setLane_rdata : (setLane s k x).rdata = s.rdata := rfl
@[simp] theorem setLane_parts : (setLane s k x).parts = s.parts := rfl
@[simp] theorem setLane_pacc : (setLane s k x).pacc = s.pacc := rfl
@[simp] theorem setLane_strms : (setLane s k x).strms = s.strms := rfl
@[simp] theorem setLane_clus : (setLane s k x).clus = s.clus := rfl
@[simp] theorem setLane_slots : (setLane s k x).slots = s.slots := rfl
@[simp] theorem setLane_htab : (setLane s k x).htab = s.htab := rfl
@[simp] theorem setLane_bundles : (setLane s k x).bundles = s.bundles := rfl
@[simp] theorem setLane_ccmem : (setLane s k x).ccmem = s.ccmem := rfl
@[simp] theorem setLane_hbm : (setLane s k x).hbm = s.hbm := rfl
@[simp] theorem setLane_hbmBad : (setLane s k x).hbmBad = s.hbmBad := rfl
@[simp] theorem setLane_hbmCe : (setLane s k x).hbmCe = s.hbmCe := rfl
@[simp] theorem setLane_meeBad : (setLane s k x).meeBad = s.meeBad := rfl
@[simp] theorem setLane_hostMem : (setLane s k x).hostMem = s.hostMem := rfl
@[simp] theorem setLane_emis : (setLane s k x).emis = s.emis := rfl
@[simp] theorem setLane_emLost : (setLane s k x).emLost = s.emLost := rfl
@[simp] theorem setLane_ings : (setLane s k x).ings = s.ings := rfl
@[simp] theorem setLane_ports : (setLane s k x).ports = s.ports := rfl
@[simp] theorem setLane_keys : (setLane s k x).keys = s.keys := rfl
@[simp] theorem setLane_bg : (setLane s k x).bg = s.bg := rfl
@[simp] theorem setLane_noc : (setLane s k x).noc = s.noc := rfl
@[simp] theorem setLane_cores : (setLane s k x).cores = s.cores := rfl
@[simp] theorem setLane_lports : (setLane s k x).lports = s.lports := rfl
@[simp] theorem setLane_bly : (setLane s k x).bly = s.bly := rfl
@[simp] theorem setLane_sess : (setLane s k x).sess = s.sess := rfl
@[simp] theorem setLane_spdm : (setLane s k x).spdm = s.spdm := rfl
@[simp] theorem setLane_ide : (setLane s k x).ide = s.ide := rfl
@[simp] theorem setLane_stdy : (setLane s k x).stdy = s.stdy := rfl
@[simp] theorem setLane_aer : (setLane s k x).aer = s.aer := rfl
@[simp] theorem setLane_sirvi : (setLane s k x).sirvi = s.sirvi := rfl

end setLane

section setSlot
variable (s : State) (core i : Nat) (x : Slot)

@[simp] theorem setSlot_marks : (setSlot s core i x).marks = s.marks := rfl
@[simp] theorem setSlot_pending : (setSlot s core i x).pending = s.pending := rfl
@[simp] theorem setSlot_free : (setSlot s core i x).free = s.free := rfl
@[simp] theorem setSlot_clk : (setSlot s core i x).clk = s.clk := rfl
@[simp] theorem setSlot_regs : (setSlot s core i x).regs = s.regs := rfl
@[simp] theorem setSlot_latch : (setSlot s core i x).latch = s.latch := rfl
@[simp] theorem setSlot_vfEn : (setSlot s core i x).vfEn = s.vfEn := rfl
@[simp] theorem setSlot_clw : (setSlot s core i x).clw = s.clw := rfl
@[simp] theorem setSlot_vecs : (setSlot s core i x).vecs = s.vecs := rfl
@[simp] theorem setSlot_msgs : (setSlot s core i x).msgs = s.msgs := rfl
@[simp] theorem setSlot_rdata : (setSlot s core i x).rdata = s.rdata := rfl
@[simp] theorem setSlot_parts : (setSlot s core i x).parts = s.parts := rfl
@[simp] theorem setSlot_pacc : (setSlot s core i x).pacc = s.pacc := rfl
@[simp] theorem setSlot_lanes : (setSlot s core i x).lanes = s.lanes := rfl
@[simp] theorem setSlot_strms : (setSlot s core i x).strms = s.strms := rfl
@[simp] theorem setSlot_clus : (setSlot s core i x).clus = s.clus := rfl
@[simp] theorem setSlot_htab : (setSlot s core i x).htab = s.htab := rfl
@[simp] theorem setSlot_bundles : (setSlot s core i x).bundles = s.bundles := rfl
@[simp] theorem setSlot_ccmem : (setSlot s core i x).ccmem = s.ccmem := rfl
@[simp] theorem setSlot_hbm : (setSlot s core i x).hbm = s.hbm := rfl
@[simp] theorem setSlot_hbmBad : (setSlot s core i x).hbmBad = s.hbmBad := rfl
@[simp] theorem setSlot_hbmCe : (setSlot s core i x).hbmCe = s.hbmCe := rfl
@[simp] theorem setSlot_meeBad : (setSlot s core i x).meeBad = s.meeBad := rfl
@[simp] theorem setSlot_hostMem : (setSlot s core i x).hostMem = s.hostMem := rfl
@[simp] theorem setSlot_emis : (setSlot s core i x).emis = s.emis := rfl
@[simp] theorem setSlot_emLost : (setSlot s core i x).emLost = s.emLost := rfl
@[simp] theorem setSlot_ings : (setSlot s core i x).ings = s.ings := rfl
@[simp] theorem setSlot_ports : (setSlot s core i x).ports = s.ports := rfl
@[simp] theorem setSlot_keys : (setSlot s core i x).keys = s.keys := rfl
@[simp] theorem setSlot_bg : (setSlot s core i x).bg = s.bg := rfl
@[simp] theorem setSlot_noc : (setSlot s core i x).noc = s.noc := rfl
@[simp] theorem setSlot_cores : (setSlot s core i x).cores = s.cores := rfl
@[simp] theorem setSlot_lports : (setSlot s core i x).lports = s.lports := rfl
@[simp] theorem setSlot_bly : (setSlot s core i x).bly = s.bly := rfl
@[simp] theorem setSlot_sess : (setSlot s core i x).sess = s.sess := rfl
@[simp] theorem setSlot_spdm : (setSlot s core i x).spdm = s.spdm := rfl
@[simp] theorem setSlot_ide : (setSlot s core i x).ide = s.ide := rfl
@[simp] theorem setSlot_stdy : (setSlot s core i x).stdy = s.stdy := rfl
@[simp] theorem setSlot_aer : (setSlot s core i x).aer = s.aer := rfl
@[simp] theorem setSlot_sirvi : (setSlot s core i x).sirvi = s.sirvi := rfl

end setSlot

section modSlot
variable (s : State) (core i : Nat) (f : Slot → Slot)

@[simp] theorem modSlot_marks : (modSlot s core i f).marks = s.marks := rfl
@[simp] theorem modSlot_pending : (modSlot s core i f).pending = s.pending := rfl
@[simp] theorem modSlot_free : (modSlot s core i f).free = s.free := rfl
@[simp] theorem modSlot_clk : (modSlot s core i f).clk = s.clk := rfl
@[simp] theorem modSlot_regs : (modSlot s core i f).regs = s.regs := rfl
@[simp] theorem modSlot_latch : (modSlot s core i f).latch = s.latch := rfl
@[simp] theorem modSlot_vfEn : (modSlot s core i f).vfEn = s.vfEn := rfl
@[simp] theorem modSlot_clw : (modSlot s core i f).clw = s.clw := rfl
@[simp] theorem modSlot_vecs : (modSlot s core i f).vecs = s.vecs := rfl
@[simp] theorem modSlot_msgs : (modSlot s core i f).msgs = s.msgs := rfl
@[simp] theorem modSlot_rdata : (modSlot s core i f).rdata = s.rdata := rfl
@[simp] theorem modSlot_parts : (modSlot s core i f).parts = s.parts := rfl
@[simp] theorem modSlot_pacc : (modSlot s core i f).pacc = s.pacc := rfl
@[simp] theorem modSlot_lanes : (modSlot s core i f).lanes = s.lanes := rfl
@[simp] theorem modSlot_strms : (modSlot s core i f).strms = s.strms := rfl
@[simp] theorem modSlot_clus : (modSlot s core i f).clus = s.clus := rfl
@[simp] theorem modSlot_htab : (modSlot s core i f).htab = s.htab := rfl
@[simp] theorem modSlot_bundles : (modSlot s core i f).bundles = s.bundles := rfl
@[simp] theorem modSlot_ccmem : (modSlot s core i f).ccmem = s.ccmem := rfl
@[simp] theorem modSlot_hbm : (modSlot s core i f).hbm = s.hbm := rfl
@[simp] theorem modSlot_hbmBad : (modSlot s core i f).hbmBad = s.hbmBad := rfl
@[simp] theorem modSlot_hbmCe : (modSlot s core i f).hbmCe = s.hbmCe := rfl
@[simp] theorem modSlot_meeBad : (modSlot s core i f).meeBad = s.meeBad := rfl
@[simp] theorem modSlot_hostMem : (modSlot s core i f).hostMem = s.hostMem := rfl
@[simp] theorem modSlot_emis : (modSlot s core i f).emis = s.emis := rfl
@[simp] theorem modSlot_emLost : (modSlot s core i f).emLost = s.emLost := rfl
@[simp] theorem modSlot_ings : (modSlot s core i f).ings = s.ings := rfl
@[simp] theorem modSlot_ports : (modSlot s core i f).ports = s.ports := rfl
@[simp] theorem modSlot_keys : (modSlot s core i f).keys = s.keys := rfl
@[simp] theorem modSlot_bg : (modSlot s core i f).bg = s.bg := rfl
@[simp] theorem modSlot_noc : (modSlot s core i f).noc = s.noc := rfl
@[simp] theorem modSlot_cores : (modSlot s core i f).cores = s.cores := rfl
@[simp] theorem modSlot_lports : (modSlot s core i f).lports = s.lports := rfl
@[simp] theorem modSlot_bly : (modSlot s core i f).bly = s.bly := rfl
@[simp] theorem modSlot_sess : (modSlot s core i f).sess = s.sess := rfl
@[simp] theorem modSlot_spdm : (modSlot s core i f).spdm = s.spdm := rfl
@[simp] theorem modSlot_ide : (modSlot s core i f).ide = s.ide := rfl
@[simp] theorem modSlot_stdy : (modSlot s core i f).stdy = s.stdy := rfl
@[simp] theorem modSlot_aer : (modSlot s core i f).aer = s.aer := rfl
@[simp] theorem modSlot_sirvi : (modSlot s core i f).sirvi = s.sirvi := rfl

end modSlot

section setHentry
variable (s : State) (c h : Nat) (v : DWord)

@[simp] theorem setHentry_marks : (setHentry s c h v).marks = s.marks := rfl
@[simp] theorem setHentry_pending : (setHentry s c h v).pending = s.pending := rfl
@[simp] theorem setHentry_free : (setHentry s c h v).free = s.free := rfl
@[simp] theorem setHentry_clk : (setHentry s c h v).clk = s.clk := rfl
@[simp] theorem setHentry_regs : (setHentry s c h v).regs = s.regs := rfl
@[simp] theorem setHentry_latch : (setHentry s c h v).latch = s.latch := rfl
@[simp] theorem setHentry_vfEn : (setHentry s c h v).vfEn = s.vfEn := rfl
@[simp] theorem setHentry_clw : (setHentry s c h v).clw = s.clw := rfl
@[simp] theorem setHentry_vecs : (setHentry s c h v).vecs = s.vecs := rfl
@[simp] theorem setHentry_msgs : (setHentry s c h v).msgs = s.msgs := rfl
@[simp] theorem setHentry_rdata : (setHentry s c h v).rdata = s.rdata := rfl
@[simp] theorem setHentry_parts : (setHentry s c h v).parts = s.parts := rfl
@[simp] theorem setHentry_pacc : (setHentry s c h v).pacc = s.pacc := rfl
@[simp] theorem setHentry_lanes : (setHentry s c h v).lanes = s.lanes := rfl
@[simp] theorem setHentry_strms : (setHentry s c h v).strms = s.strms := rfl
@[simp] theorem setHentry_clus : (setHentry s c h v).clus = s.clus := rfl
@[simp] theorem setHentry_slots : (setHentry s c h v).slots = s.slots := rfl
@[simp] theorem setHentry_bundles : (setHentry s c h v).bundles = s.bundles := rfl
@[simp] theorem setHentry_ccmem : (setHentry s c h v).ccmem = s.ccmem := rfl
@[simp] theorem setHentry_hbm : (setHentry s c h v).hbm = s.hbm := rfl
@[simp] theorem setHentry_hbmBad : (setHentry s c h v).hbmBad = s.hbmBad := rfl
@[simp] theorem setHentry_hbmCe : (setHentry s c h v).hbmCe = s.hbmCe := rfl
@[simp] theorem setHentry_meeBad : (setHentry s c h v).meeBad = s.meeBad := rfl
@[simp] theorem setHentry_hostMem : (setHentry s c h v).hostMem = s.hostMem := rfl
@[simp] theorem setHentry_emis : (setHentry s c h v).emis = s.emis := rfl
@[simp] theorem setHentry_emLost : (setHentry s c h v).emLost = s.emLost := rfl
@[simp] theorem setHentry_ings : (setHentry s c h v).ings = s.ings := rfl
@[simp] theorem setHentry_ports : (setHentry s c h v).ports = s.ports := rfl
@[simp] theorem setHentry_keys : (setHentry s c h v).keys = s.keys := rfl
@[simp] theorem setHentry_bg : (setHentry s c h v).bg = s.bg := rfl
@[simp] theorem setHentry_noc : (setHentry s c h v).noc = s.noc := rfl
@[simp] theorem setHentry_cores : (setHentry s c h v).cores = s.cores := rfl
@[simp] theorem setHentry_lports : (setHentry s c h v).lports = s.lports := rfl
@[simp] theorem setHentry_bly : (setHentry s c h v).bly = s.bly := rfl
@[simp] theorem setHentry_sess : (setHentry s c h v).sess = s.sess := rfl
@[simp] theorem setHentry_spdm : (setHentry s c h v).spdm = s.spdm := rfl
@[simp] theorem setHentry_ide : (setHentry s c h v).ide = s.ide := rfl
@[simp] theorem setHentry_stdy : (setHentry s c h v).stdy = s.stdy := rfl
@[simp] theorem setHentry_aer : (setHentry s c h v).aer = s.aer := rfl
@[simp] theorem setHentry_sirvi : (setHentry s c h v).sirvi = s.sirvi := rfl

end setHentry

section setBundle
variable (s : State) (c i : Nat) (b : Bundle)

@[simp] theorem setBundle_marks : (setBundle s c i b).marks = s.marks := rfl
@[simp] theorem setBundle_pending : (setBundle s c i b).pending = s.pending := rfl
@[simp] theorem setBundle_free : (setBundle s c i b).free = s.free := rfl
@[simp] theorem setBundle_clk : (setBundle s c i b).clk = s.clk := rfl
@[simp] theorem setBundle_regs : (setBundle s c i b).regs = s.regs := rfl
@[simp] theorem setBundle_latch : (setBundle s c i b).latch = s.latch := rfl
@[simp] theorem setBundle_vfEn : (setBundle s c i b).vfEn = s.vfEn := rfl
@[simp] theorem setBundle_clw : (setBundle s c i b).clw = s.clw := rfl
@[simp] theorem setBundle_vecs : (setBundle s c i b).vecs = s.vecs := rfl
@[simp] theorem setBundle_msgs : (setBundle s c i b).msgs = s.msgs := rfl
@[simp] theorem setBundle_rdata : (setBundle s c i b).rdata = s.rdata := rfl
@[simp] theorem setBundle_parts : (setBundle s c i b).parts = s.parts := rfl
@[simp] theorem setBundle_pacc : (setBundle s c i b).pacc = s.pacc := rfl
@[simp] theorem setBundle_lanes : (setBundle s c i b).lanes = s.lanes := rfl
@[simp] theorem setBundle_strms : (setBundle s c i b).strms = s.strms := rfl
@[simp] theorem setBundle_clus : (setBundle s c i b).clus = s.clus := rfl
@[simp] theorem setBundle_slots : (setBundle s c i b).slots = s.slots := rfl
@[simp] theorem setBundle_htab : (setBundle s c i b).htab = s.htab := rfl
@[simp] theorem setBundle_ccmem : (setBundle s c i b).ccmem = s.ccmem := rfl
@[simp] theorem setBundle_hbm : (setBundle s c i b).hbm = s.hbm := rfl
@[simp] theorem setBundle_hbmBad : (setBundle s c i b).hbmBad = s.hbmBad := rfl
@[simp] theorem setBundle_hbmCe : (setBundle s c i b).hbmCe = s.hbmCe := rfl
@[simp] theorem setBundle_meeBad : (setBundle s c i b).meeBad = s.meeBad := rfl
@[simp] theorem setBundle_hostMem : (setBundle s c i b).hostMem = s.hostMem := rfl
@[simp] theorem setBundle_emis : (setBundle s c i b).emis = s.emis := rfl
@[simp] theorem setBundle_emLost : (setBundle s c i b).emLost = s.emLost := rfl
@[simp] theorem setBundle_ings : (setBundle s c i b).ings = s.ings := rfl
@[simp] theorem setBundle_ports : (setBundle s c i b).ports = s.ports := rfl
@[simp] theorem setBundle_keys : (setBundle s c i b).keys = s.keys := rfl
@[simp] theorem setBundle_bg : (setBundle s c i b).bg = s.bg := rfl
@[simp] theorem setBundle_noc : (setBundle s c i b).noc = s.noc := rfl
@[simp] theorem setBundle_cores : (setBundle s c i b).cores = s.cores := rfl
@[simp] theorem setBundle_lports : (setBundle s c i b).lports = s.lports := rfl
@[simp] theorem setBundle_bly : (setBundle s c i b).bly = s.bly := rfl
@[simp] theorem setBundle_sess : (setBundle s c i b).sess = s.sess := rfl
@[simp] theorem setBundle_spdm : (setBundle s c i b).spdm = s.spdm := rfl
@[simp] theorem setBundle_ide : (setBundle s c i b).ide = s.ide := rfl
@[simp] theorem setBundle_stdy : (setBundle s c i b).stdy = s.stdy := rfl
@[simp] theorem setBundle_aer : (setBundle s c i b).aer = s.aer := rfl
@[simp] theorem setBundle_sirvi : (setBundle s c i b).sirvi = s.sirvi := rfl

end setBundle

section setVec
variable (s : State) (fn v : Nat) (x : Vec)

@[simp] theorem setVec_marks : (setVec s fn v x).marks = s.marks := rfl
@[simp] theorem setVec_pending : (setVec s fn v x).pending = s.pending := rfl
@[simp] theorem setVec_free : (setVec s fn v x).free = s.free := rfl
@[simp] theorem setVec_clk : (setVec s fn v x).clk = s.clk := rfl
@[simp] theorem setVec_regs : (setVec s fn v x).regs = s.regs := rfl
@[simp] theorem setVec_latch : (setVec s fn v x).latch = s.latch := rfl
@[simp] theorem setVec_vfEn : (setVec s fn v x).vfEn = s.vfEn := rfl
@[simp] theorem setVec_clw : (setVec s fn v x).clw = s.clw := rfl
@[simp] theorem setVec_msgs : (setVec s fn v x).msgs = s.msgs := rfl
@[simp] theorem setVec_rdata : (setVec s fn v x).rdata = s.rdata := rfl
@[simp] theorem setVec_parts : (setVec s fn v x).parts = s.parts := rfl
@[simp] theorem setVec_pacc : (setVec s fn v x).pacc = s.pacc := rfl
@[simp] theorem setVec_lanes : (setVec s fn v x).lanes = s.lanes := rfl
@[simp] theorem setVec_strms : (setVec s fn v x).strms = s.strms := rfl
@[simp] theorem setVec_clus : (setVec s fn v x).clus = s.clus := rfl
@[simp] theorem setVec_slots : (setVec s fn v x).slots = s.slots := rfl
@[simp] theorem setVec_htab : (setVec s fn v x).htab = s.htab := rfl
@[simp] theorem setVec_bundles : (setVec s fn v x).bundles = s.bundles := rfl
@[simp] theorem setVec_ccmem : (setVec s fn v x).ccmem = s.ccmem := rfl
@[simp] theorem setVec_hbm : (setVec s fn v x).hbm = s.hbm := rfl
@[simp] theorem setVec_hbmBad : (setVec s fn v x).hbmBad = s.hbmBad := rfl
@[simp] theorem setVec_hbmCe : (setVec s fn v x).hbmCe = s.hbmCe := rfl
@[simp] theorem setVec_meeBad : (setVec s fn v x).meeBad = s.meeBad := rfl
@[simp] theorem setVec_hostMem : (setVec s fn v x).hostMem = s.hostMem := rfl
@[simp] theorem setVec_emis : (setVec s fn v x).emis = s.emis := rfl
@[simp] theorem setVec_emLost : (setVec s fn v x).emLost = s.emLost := rfl
@[simp] theorem setVec_ings : (setVec s fn v x).ings = s.ings := rfl
@[simp] theorem setVec_ports : (setVec s fn v x).ports = s.ports := rfl
@[simp] theorem setVec_keys : (setVec s fn v x).keys = s.keys := rfl
@[simp] theorem setVec_bg : (setVec s fn v x).bg = s.bg := rfl
@[simp] theorem setVec_noc : (setVec s fn v x).noc = s.noc := rfl
@[simp] theorem setVec_cores : (setVec s fn v x).cores = s.cores := rfl
@[simp] theorem setVec_lports : (setVec s fn v x).lports = s.lports := rfl
@[simp] theorem setVec_bly : (setVec s fn v x).bly = s.bly := rfl
@[simp] theorem setVec_sess : (setVec s fn v x).sess = s.sess := rfl
@[simp] theorem setVec_spdm : (setVec s fn v x).spdm = s.spdm := rfl
@[simp] theorem setVec_ide : (setVec s fn v x).ide = s.ide := rfl
@[simp] theorem setVec_stdy : (setVec s fn v x).stdy = s.stdy := rfl
@[simp] theorem setVec_aer : (setVec s fn v x).aer = s.aer := rfl
@[simp] theorem setVec_sirvi : (setVec s fn v x).sirvi = s.sirvi := rfl

end setVec

section hbmPut
variable (s : State) (a : Nat) (bs : List Byte)

@[simp] theorem hbmPut_marks : (hbmPut s a bs).marks = s.marks := rfl
@[simp] theorem hbmPut_pending : (hbmPut s a bs).pending = s.pending := rfl
@[simp] theorem hbmPut_free : (hbmPut s a bs).free = s.free := rfl
@[simp] theorem hbmPut_clk : (hbmPut s a bs).clk = s.clk := rfl
@[simp] theorem hbmPut_regs : (hbmPut s a bs).regs = s.regs := rfl
@[simp] theorem hbmPut_latch : (hbmPut s a bs).latch = s.latch := rfl
@[simp] theorem hbmPut_vfEn : (hbmPut s a bs).vfEn = s.vfEn := rfl
@[simp] theorem hbmPut_clw : (hbmPut s a bs).clw = s.clw := rfl
@[simp] theorem hbmPut_vecs : (hbmPut s a bs).vecs = s.vecs := rfl
@[simp] theorem hbmPut_msgs : (hbmPut s a bs).msgs = s.msgs := rfl
@[simp] theorem hbmPut_rdata : (hbmPut s a bs).rdata = s.rdata := rfl
@[simp] theorem hbmPut_parts : (hbmPut s a bs).parts = s.parts := rfl
@[simp] theorem hbmPut_pacc : (hbmPut s a bs).pacc = s.pacc := rfl
@[simp] theorem hbmPut_lanes : (hbmPut s a bs).lanes = s.lanes := rfl
@[simp] theorem hbmPut_strms : (hbmPut s a bs).strms = s.strms := rfl
@[simp] theorem hbmPut_clus : (hbmPut s a bs).clus = s.clus := rfl
@[simp] theorem hbmPut_slots : (hbmPut s a bs).slots = s.slots := rfl
@[simp] theorem hbmPut_htab : (hbmPut s a bs).htab = s.htab := rfl
@[simp] theorem hbmPut_bundles : (hbmPut s a bs).bundles = s.bundles := rfl
@[simp] theorem hbmPut_ccmem : (hbmPut s a bs).ccmem = s.ccmem := rfl
@[simp] theorem hbmPut_hbmBad : (hbmPut s a bs).hbmBad = s.hbmBad := rfl
@[simp] theorem hbmPut_meeBad : (hbmPut s a bs).meeBad = s.meeBad := rfl
@[simp] theorem hbmPut_hostMem : (hbmPut s a bs).hostMem = s.hostMem := rfl
@[simp] theorem hbmPut_emis : (hbmPut s a bs).emis = s.emis := rfl
@[simp] theorem hbmPut_emLost : (hbmPut s a bs).emLost = s.emLost := rfl
@[simp] theorem hbmPut_ings : (hbmPut s a bs).ings = s.ings := rfl
@[simp] theorem hbmPut_ports : (hbmPut s a bs).ports = s.ports := rfl
@[simp] theorem hbmPut_keys : (hbmPut s a bs).keys = s.keys := rfl
@[simp] theorem hbmPut_bg : (hbmPut s a bs).bg = s.bg := rfl
@[simp] theorem hbmPut_noc : (hbmPut s a bs).noc = s.noc := rfl
@[simp] theorem hbmPut_cores : (hbmPut s a bs).cores = s.cores := rfl
@[simp] theorem hbmPut_lports : (hbmPut s a bs).lports = s.lports := rfl
@[simp] theorem hbmPut_bly : (hbmPut s a bs).bly = s.bly := rfl
@[simp] theorem hbmPut_sess : (hbmPut s a bs).sess = s.sess := rfl
@[simp] theorem hbmPut_spdm : (hbmPut s a bs).spdm = s.spdm := rfl
@[simp] theorem hbmPut_ide : (hbmPut s a bs).ide = s.ide := rfl
@[simp] theorem hbmPut_stdy : (hbmPut s a bs).stdy = s.stdy := rfl
@[simp] theorem hbmPut_aer : (hbmPut s a bs).aer = s.aer := rfl
@[simp] theorem hbmPut_sirvi : (hbmPut s a bs).sirvi = s.sirvi := rfl

end hbmPut

section hostPut
variable (s : State) (fn a : Nat) (bs : List Byte)

@[simp] theorem hostPut_marks : (hostPut s fn a bs).marks = s.marks := rfl
@[simp] theorem hostPut_pending : (hostPut s fn a bs).pending = s.pending := rfl
@[simp] theorem hostPut_free : (hostPut s fn a bs).free = s.free := rfl
@[simp] theorem hostPut_clk : (hostPut s fn a bs).clk = s.clk := rfl
@[simp] theorem hostPut_regs : (hostPut s fn a bs).regs = s.regs := rfl
@[simp] theorem hostPut_latch : (hostPut s fn a bs).latch = s.latch := rfl
@[simp] theorem hostPut_vfEn : (hostPut s fn a bs).vfEn = s.vfEn := rfl
@[simp] theorem hostPut_clw : (hostPut s fn a bs).clw = s.clw := rfl
@[simp] theorem hostPut_vecs : (hostPut s fn a bs).vecs = s.vecs := rfl
@[simp] theorem hostPut_msgs : (hostPut s fn a bs).msgs = s.msgs := rfl
@[simp] theorem hostPut_rdata : (hostPut s fn a bs).rdata = s.rdata := rfl
@[simp] theorem hostPut_parts : (hostPut s fn a bs).parts = s.parts := rfl
@[simp] theorem hostPut_pacc : (hostPut s fn a bs).pacc = s.pacc := rfl
@[simp] theorem hostPut_lanes : (hostPut s fn a bs).lanes = s.lanes := rfl
@[simp] theorem hostPut_strms : (hostPut s fn a bs).strms = s.strms := rfl
@[simp] theorem hostPut_clus : (hostPut s fn a bs).clus = s.clus := rfl
@[simp] theorem hostPut_slots : (hostPut s fn a bs).slots = s.slots := rfl
@[simp] theorem hostPut_htab : (hostPut s fn a bs).htab = s.htab := rfl
@[simp] theorem hostPut_bundles : (hostPut s fn a bs).bundles = s.bundles := rfl
@[simp] theorem hostPut_ccmem : (hostPut s fn a bs).ccmem = s.ccmem := rfl
@[simp] theorem hostPut_hbm : (hostPut s fn a bs).hbm = s.hbm := rfl
@[simp] theorem hostPut_hbmBad : (hostPut s fn a bs).hbmBad = s.hbmBad := rfl
@[simp] theorem hostPut_hbmCe : (hostPut s fn a bs).hbmCe = s.hbmCe := rfl
@[simp] theorem hostPut_meeBad : (hostPut s fn a bs).meeBad = s.meeBad := rfl
@[simp] theorem hostPut_emis : (hostPut s fn a bs).emis = s.emis := rfl
@[simp] theorem hostPut_emLost : (hostPut s fn a bs).emLost = s.emLost := rfl
@[simp] theorem hostPut_ings : (hostPut s fn a bs).ings = s.ings := rfl
@[simp] theorem hostPut_ports : (hostPut s fn a bs).ports = s.ports := rfl
@[simp] theorem hostPut_keys : (hostPut s fn a bs).keys = s.keys := rfl
@[simp] theorem hostPut_bg : (hostPut s fn a bs).bg = s.bg := rfl
@[simp] theorem hostPut_noc : (hostPut s fn a bs).noc = s.noc := rfl
@[simp] theorem hostPut_cores : (hostPut s fn a bs).cores = s.cores := rfl
@[simp] theorem hostPut_lports : (hostPut s fn a bs).lports = s.lports := rfl
@[simp] theorem hostPut_bly : (hostPut s fn a bs).bly = s.bly := rfl
@[simp] theorem hostPut_sess : (hostPut s fn a bs).sess = s.sess := rfl
@[simp] theorem hostPut_spdm : (hostPut s fn a bs).spdm = s.spdm := rfl
@[simp] theorem hostPut_ide : (hostPut s fn a bs).ide = s.ide := rfl
@[simp] theorem hostPut_stdy : (hostPut s fn a bs).stdy = s.stdy := rfl
@[simp] theorem hostPut_aer : (hostPut s fn a bs).aer = s.aer := rfl
@[simp] theorem hostPut_sirvi : (hostPut s fn a bs).sirvi = s.sirvi := rfl

end hostPut

section setBg
variable (s : State) (a : Nat) (x : BgAct)

@[simp] theorem setBg_marks : (setBg s a x).marks = s.marks := rfl
@[simp] theorem setBg_pending : (setBg s a x).pending = s.pending := rfl
@[simp] theorem setBg_free : (setBg s a x).free = s.free := rfl
@[simp] theorem setBg_clk : (setBg s a x).clk = s.clk := rfl
@[simp] theorem setBg_regs : (setBg s a x).regs = s.regs := rfl
@[simp] theorem setBg_latch : (setBg s a x).latch = s.latch := rfl
@[simp] theorem setBg_vfEn : (setBg s a x).vfEn = s.vfEn := rfl
@[simp] theorem setBg_clw : (setBg s a x).clw = s.clw := rfl
@[simp] theorem setBg_vecs : (setBg s a x).vecs = s.vecs := rfl
@[simp] theorem setBg_msgs : (setBg s a x).msgs = s.msgs := rfl
@[simp] theorem setBg_rdata : (setBg s a x).rdata = s.rdata := rfl
@[simp] theorem setBg_parts : (setBg s a x).parts = s.parts := rfl
@[simp] theorem setBg_pacc : (setBg s a x).pacc = s.pacc := rfl
@[simp] theorem setBg_lanes : (setBg s a x).lanes = s.lanes := rfl
@[simp] theorem setBg_strms : (setBg s a x).strms = s.strms := rfl
@[simp] theorem setBg_clus : (setBg s a x).clus = s.clus := rfl
@[simp] theorem setBg_slots : (setBg s a x).slots = s.slots := rfl
@[simp] theorem setBg_htab : (setBg s a x).htab = s.htab := rfl
@[simp] theorem setBg_bundles : (setBg s a x).bundles = s.bundles := rfl
@[simp] theorem setBg_ccmem : (setBg s a x).ccmem = s.ccmem := rfl
@[simp] theorem setBg_hbm : (setBg s a x).hbm = s.hbm := rfl
@[simp] theorem setBg_hbmBad : (setBg s a x).hbmBad = s.hbmBad := rfl
@[simp] theorem setBg_hbmCe : (setBg s a x).hbmCe = s.hbmCe := rfl
@[simp] theorem setBg_meeBad : (setBg s a x).meeBad = s.meeBad := rfl
@[simp] theorem setBg_hostMem : (setBg s a x).hostMem = s.hostMem := rfl
@[simp] theorem setBg_emis : (setBg s a x).emis = s.emis := rfl
@[simp] theorem setBg_emLost : (setBg s a x).emLost = s.emLost := rfl
@[simp] theorem setBg_ings : (setBg s a x).ings = s.ings := rfl
@[simp] theorem setBg_ports : (setBg s a x).ports = s.ports := rfl
@[simp] theorem setBg_keys : (setBg s a x).keys = s.keys := rfl
@[simp] theorem setBg_noc : (setBg s a x).noc = s.noc := rfl
@[simp] theorem setBg_cores : (setBg s a x).cores = s.cores := rfl
@[simp] theorem setBg_lports : (setBg s a x).lports = s.lports := rfl
@[simp] theorem setBg_bly : (setBg s a x).bly = s.bly := rfl
@[simp] theorem setBg_sess : (setBg s a x).sess = s.sess := rfl
@[simp] theorem setBg_spdm : (setBg s a x).spdm = s.spdm := rfl
@[simp] theorem setBg_ide : (setBg s a x).ide = s.ide := rfl
@[simp] theorem setBg_stdy : (setBg s a x).stdy = s.stdy := rfl
@[simp] theorem setBg_aer : (setBg s a x).aer = s.aer := rfl
@[simp] theorem setBg_sirvi : (setBg s a x).sirvi = s.sirvi := rfl

end setBg

section setPacc
variable (s : State) (p : Nat) (x : PartyAcc)

@[simp] theorem setPacc_marks : (setPacc s p x).marks = s.marks := rfl
@[simp] theorem setPacc_pending : (setPacc s p x).pending = s.pending := rfl
@[simp] theorem setPacc_free : (setPacc s p x).free = s.free := rfl
@[simp] theorem setPacc_clk : (setPacc s p x).clk = s.clk := rfl
@[simp] theorem setPacc_regs : (setPacc s p x).regs = s.regs := rfl
@[simp] theorem setPacc_latch : (setPacc s p x).latch = s.latch := rfl
@[simp] theorem setPacc_vfEn : (setPacc s p x).vfEn = s.vfEn := rfl
@[simp] theorem setPacc_clw : (setPacc s p x).clw = s.clw := rfl
@[simp] theorem setPacc_vecs : (setPacc s p x).vecs = s.vecs := rfl
@[simp] theorem setPacc_msgs : (setPacc s p x).msgs = s.msgs := rfl
@[simp] theorem setPacc_rdata : (setPacc s p x).rdata = s.rdata := rfl
@[simp] theorem setPacc_parts : (setPacc s p x).parts = s.parts := rfl
@[simp] theorem setPacc_lanes : (setPacc s p x).lanes = s.lanes := rfl
@[simp] theorem setPacc_strms : (setPacc s p x).strms = s.strms := rfl
@[simp] theorem setPacc_clus : (setPacc s p x).clus = s.clus := rfl
@[simp] theorem setPacc_slots : (setPacc s p x).slots = s.slots := rfl
@[simp] theorem setPacc_htab : (setPacc s p x).htab = s.htab := rfl
@[simp] theorem setPacc_bundles : (setPacc s p x).bundles = s.bundles := rfl
@[simp] theorem setPacc_ccmem : (setPacc s p x).ccmem = s.ccmem := rfl
@[simp] theorem setPacc_hbm : (setPacc s p x).hbm = s.hbm := rfl
@[simp] theorem setPacc_hbmBad : (setPacc s p x).hbmBad = s.hbmBad := rfl
@[simp] theorem setPacc_hbmCe : (setPacc s p x).hbmCe = s.hbmCe := rfl
@[simp] theorem setPacc_meeBad : (setPacc s p x).meeBad = s.meeBad := rfl
@[simp] theorem setPacc_hostMem : (setPacc s p x).hostMem = s.hostMem := rfl
@[simp] theorem setPacc_emis : (setPacc s p x).emis = s.emis := rfl
@[simp] theorem setPacc_emLost : (setPacc s p x).emLost = s.emLost := rfl
@[simp] theorem setPacc_ings : (setPacc s p x).ings = s.ings := rfl
@[simp] theorem setPacc_ports : (setPacc s p x).ports = s.ports := rfl
@[simp] theorem setPacc_keys : (setPacc s p x).keys = s.keys := rfl
@[simp] theorem setPacc_bg : (setPacc s p x).bg = s.bg := rfl
@[simp] theorem setPacc_noc : (setPacc s p x).noc = s.noc := rfl
@[simp] theorem setPacc_cores : (setPacc s p x).cores = s.cores := rfl
@[simp] theorem setPacc_lports : (setPacc s p x).lports = s.lports := rfl
@[simp] theorem setPacc_bly : (setPacc s p x).bly = s.bly := rfl
@[simp] theorem setPacc_sess : (setPacc s p x).sess = s.sess := rfl
@[simp] theorem setPacc_spdm : (setPacc s p x).spdm = s.spdm := rfl
@[simp] theorem setPacc_ide : (setPacc s p x).ide = s.ide := rfl
@[simp] theorem setPacc_stdy : (setPacc s p x).stdy = s.stdy := rfl
@[simp] theorem setPacc_aer : (setPacc s p x).aer = s.aer := rfl
@[simp] theorem setPacc_sirvi : (setPacc s p x).sirvi = s.sirvi := rfl

end setPacc

section modIng
variable (s : State) (n : Nat) (f : Ing → Ing)

@[simp] theorem modIng_marks : (modIng s n f).marks = s.marks := rfl
@[simp] theorem modIng_pending : (modIng s n f).pending = s.pending := rfl
@[simp] theorem modIng_free : (modIng s n f).free = s.free := rfl
@[simp] theorem modIng_clk : (modIng s n f).clk = s.clk := rfl
@[simp] theorem modIng_regs : (modIng s n f).regs = s.regs := rfl
@[simp] theorem modIng_latch : (modIng s n f).latch = s.latch := rfl
@[simp] theorem modIng_vfEn : (modIng s n f).vfEn = s.vfEn := rfl
@[simp] theorem modIng_clw : (modIng s n f).clw = s.clw := rfl
@[simp] theorem modIng_vecs : (modIng s n f).vecs = s.vecs := rfl
@[simp] theorem modIng_msgs : (modIng s n f).msgs = s.msgs := rfl
@[simp] theorem modIng_rdata : (modIng s n f).rdata = s.rdata := rfl
@[simp] theorem modIng_parts : (modIng s n f).parts = s.parts := rfl
@[simp] theorem modIng_pacc : (modIng s n f).pacc = s.pacc := rfl
@[simp] theorem modIng_lanes : (modIng s n f).lanes = s.lanes := rfl
@[simp] theorem modIng_strms : (modIng s n f).strms = s.strms := rfl
@[simp] theorem modIng_clus : (modIng s n f).clus = s.clus := rfl
@[simp] theorem modIng_slots : (modIng s n f).slots = s.slots := rfl
@[simp] theorem modIng_htab : (modIng s n f).htab = s.htab := rfl
@[simp] theorem modIng_bundles : (modIng s n f).bundles = s.bundles := rfl
@[simp] theorem modIng_ccmem : (modIng s n f).ccmem = s.ccmem := rfl
@[simp] theorem modIng_hbm : (modIng s n f).hbm = s.hbm := rfl
@[simp] theorem modIng_hbmBad : (modIng s n f).hbmBad = s.hbmBad := rfl
@[simp] theorem modIng_hbmCe : (modIng s n f).hbmCe = s.hbmCe := rfl
@[simp] theorem modIng_meeBad : (modIng s n f).meeBad = s.meeBad := rfl
@[simp] theorem modIng_hostMem : (modIng s n f).hostMem = s.hostMem := rfl
@[simp] theorem modIng_emis : (modIng s n f).emis = s.emis := rfl
@[simp] theorem modIng_emLost : (modIng s n f).emLost = s.emLost := rfl
@[simp] theorem modIng_ports : (modIng s n f).ports = s.ports := rfl
@[simp] theorem modIng_keys : (modIng s n f).keys = s.keys := rfl
@[simp] theorem modIng_bg : (modIng s n f).bg = s.bg := rfl
@[simp] theorem modIng_noc : (modIng s n f).noc = s.noc := rfl
@[simp] theorem modIng_cores : (modIng s n f).cores = s.cores := rfl
@[simp] theorem modIng_lports : (modIng s n f).lports = s.lports := rfl
@[simp] theorem modIng_bly : (modIng s n f).bly = s.bly := rfl
@[simp] theorem modIng_sess : (modIng s n f).sess = s.sess := rfl
@[simp] theorem modIng_spdm : (modIng s n f).spdm = s.spdm := rfl
@[simp] theorem modIng_ide : (modIng s n f).ide = s.ide := rfl
@[simp] theorem modIng_stdy : (modIng s n f).stdy = s.stdy := rfl
@[simp] theorem modIng_aer : (modIng s n f).aer = s.aer := rfl
@[simp] theorem modIng_sirvi : (modIng s n f).sirvi = s.sirvi := rfl

end modIng

section setKeySlot
variable (s : State) (i : Nat) (x : KeySlot)

@[simp] theorem setKeySlot_marks : (setKeySlot s i x).marks = s.marks := rfl
@[simp] theorem setKeySlot_pending : (setKeySlot s i x).pending = s.pending := rfl
@[simp] theorem setKeySlot_free : (setKeySlot s i x).free = s.free := rfl
@[simp] theorem setKeySlot_clk : (setKeySlot s i x).clk = s.clk := rfl
@[simp] theorem setKeySlot_regs : (setKeySlot s i x).regs = s.regs := rfl
@[simp] theorem setKeySlot_latch : (setKeySlot s i x).latch = s.latch := rfl
@[simp] theorem setKeySlot_vfEn : (setKeySlot s i x).vfEn = s.vfEn := rfl
@[simp] theorem setKeySlot_clw : (setKeySlot s i x).clw = s.clw := rfl
@[simp] theorem setKeySlot_vecs : (setKeySlot s i x).vecs = s.vecs := rfl
@[simp] theorem setKeySlot_msgs : (setKeySlot s i x).msgs = s.msgs := rfl
@[simp] theorem setKeySlot_rdata : (setKeySlot s i x).rdata = s.rdata := rfl
@[simp] theorem setKeySlot_parts : (setKeySlot s i x).parts = s.parts := rfl
@[simp] theorem setKeySlot_pacc : (setKeySlot s i x).pacc = s.pacc := rfl
@[simp] theorem setKeySlot_lanes : (setKeySlot s i x).lanes = s.lanes := rfl
@[simp] theorem setKeySlot_strms : (setKeySlot s i x).strms = s.strms := rfl
@[simp] theorem setKeySlot_clus : (setKeySlot s i x).clus = s.clus := rfl
@[simp] theorem setKeySlot_slots : (setKeySlot s i x).slots = s.slots := rfl
@[simp] theorem setKeySlot_htab : (setKeySlot s i x).htab = s.htab := rfl
@[simp] theorem setKeySlot_bundles : (setKeySlot s i x).bundles = s.bundles := rfl
@[simp] theorem setKeySlot_ccmem : (setKeySlot s i x).ccmem = s.ccmem := rfl
@[simp] theorem setKeySlot_hbm : (setKeySlot s i x).hbm = s.hbm := rfl
@[simp] theorem setKeySlot_hbmBad : (setKeySlot s i x).hbmBad = s.hbmBad := rfl
@[simp] theorem setKeySlot_hbmCe : (setKeySlot s i x).hbmCe = s.hbmCe := rfl
@[simp] theorem setKeySlot_meeBad : (setKeySlot s i x).meeBad = s.meeBad := rfl
@[simp] theorem setKeySlot_hostMem : (setKeySlot s i x).hostMem = s.hostMem := rfl
@[simp] theorem setKeySlot_emis : (setKeySlot s i x).emis = s.emis := rfl
@[simp] theorem setKeySlot_emLost : (setKeySlot s i x).emLost = s.emLost := rfl
@[simp] theorem setKeySlot_ings : (setKeySlot s i x).ings = s.ings := rfl
@[simp] theorem setKeySlot_ports : (setKeySlot s i x).ports = s.ports := rfl
@[simp] theorem setKeySlot_bg : (setKeySlot s i x).bg = s.bg := rfl
@[simp] theorem setKeySlot_noc : (setKeySlot s i x).noc = s.noc := rfl
@[simp] theorem setKeySlot_cores : (setKeySlot s i x).cores = s.cores := rfl
@[simp] theorem setKeySlot_lports : (setKeySlot s i x).lports = s.lports := rfl
@[simp] theorem setKeySlot_bly : (setKeySlot s i x).bly = s.bly := rfl
@[simp] theorem setKeySlot_sess : (setKeySlot s i x).sess = s.sess := rfl
@[simp] theorem setKeySlot_spdm : (setKeySlot s i x).spdm = s.spdm := rfl
@[simp] theorem setKeySlot_ide : (setKeySlot s i x).ide = s.ide := rfl
@[simp] theorem setKeySlot_stdy : (setKeySlot s i x).stdy = s.stdy := rfl
@[simp] theorem setKeySlot_aer : (setKeySlot s i x).aer = s.aer := rfl
@[simp] theorem setKeySlot_sirvi : (setKeySlot s i x).sirvi = s.sirvi := rfl

end setKeySlot

section setSess
variable (s : State) (i : Nat) (x : Sess)

@[simp] theorem setSess_marks : (setSess s i x).marks = s.marks := rfl
@[simp] theorem setSess_pending : (setSess s i x).pending = s.pending := rfl
@[simp] theorem setSess_free : (setSess s i x).free = s.free := rfl
@[simp] theorem setSess_clk : (setSess s i x).clk = s.clk := rfl
@[simp] theorem setSess_regs : (setSess s i x).regs = s.regs := rfl
@[simp] theorem setSess_latch : (setSess s i x).latch = s.latch := rfl
@[simp] theorem setSess_vfEn : (setSess s i x).vfEn = s.vfEn := rfl
@[simp] theorem setSess_clw : (setSess s i x).clw = s.clw := rfl
@[simp] theorem setSess_vecs : (setSess s i x).vecs = s.vecs := rfl
@[simp] theorem setSess_msgs : (setSess s i x).msgs = s.msgs := rfl
@[simp] theorem setSess_rdata : (setSess s i x).rdata = s.rdata := rfl
@[simp] theorem setSess_parts : (setSess s i x).parts = s.parts := rfl
@[simp] theorem setSess_pacc : (setSess s i x).pacc = s.pacc := rfl
@[simp] theorem setSess_lanes : (setSess s i x).lanes = s.lanes := rfl
@[simp] theorem setSess_strms : (setSess s i x).strms = s.strms := rfl
@[simp] theorem setSess_clus : (setSess s i x).clus = s.clus := rfl
@[simp] theorem setSess_slots : (setSess s i x).slots = s.slots := rfl
@[simp] theorem setSess_htab : (setSess s i x).htab = s.htab := rfl
@[simp] theorem setSess_bundles : (setSess s i x).bundles = s.bundles := rfl
@[simp] theorem setSess_ccmem : (setSess s i x).ccmem = s.ccmem := rfl
@[simp] theorem setSess_hbm : (setSess s i x).hbm = s.hbm := rfl
@[simp] theorem setSess_hbmBad : (setSess s i x).hbmBad = s.hbmBad := rfl
@[simp] theorem setSess_hbmCe : (setSess s i x).hbmCe = s.hbmCe := rfl
@[simp] theorem setSess_meeBad : (setSess s i x).meeBad = s.meeBad := rfl
@[simp] theorem setSess_hostMem : (setSess s i x).hostMem = s.hostMem := rfl
@[simp] theorem setSess_emis : (setSess s i x).emis = s.emis := rfl
@[simp] theorem setSess_emLost : (setSess s i x).emLost = s.emLost := rfl
@[simp] theorem setSess_ings : (setSess s i x).ings = s.ings := rfl
@[simp] theorem setSess_ports : (setSess s i x).ports = s.ports := rfl
@[simp] theorem setSess_keys : (setSess s i x).keys = s.keys := rfl
@[simp] theorem setSess_bg : (setSess s i x).bg = s.bg := rfl
@[simp] theorem setSess_noc : (setSess s i x).noc = s.noc := rfl
@[simp] theorem setSess_cores : (setSess s i x).cores = s.cores := rfl
@[simp] theorem setSess_lports : (setSess s i x).lports = s.lports := rfl
@[simp] theorem setSess_bly : (setSess s i x).bly = s.bly := rfl
@[simp] theorem setSess_spdm : (setSess s i x).spdm = s.spdm := rfl
@[simp] theorem setSess_ide : (setSess s i x).ide = s.ide := rfl
@[simp] theorem setSess_stdy : (setSess s i x).stdy = s.stdy := rfl
@[simp] theorem setSess_aer : (setSess s i x).aer = s.aer := rfl
@[simp] theorem setSess_sirvi : (setSess s i x).sirvi = s.sirvi := rfl

end setSess

section setRsp
variable (s : State) (e : Nat) (r : SpdmRsp)

@[simp] theorem setRsp_marks : (setRsp s e r).marks = s.marks := rfl
@[simp] theorem setRsp_pending : (setRsp s e r).pending = s.pending := rfl
@[simp] theorem setRsp_free : (setRsp s e r).free = s.free := rfl
@[simp] theorem setRsp_clk : (setRsp s e r).clk = s.clk := rfl
@[simp] theorem setRsp_regs : (setRsp s e r).regs = s.regs := rfl
@[simp] theorem setRsp_latch : (setRsp s e r).latch = s.latch := rfl
@[simp] theorem setRsp_vfEn : (setRsp s e r).vfEn = s.vfEn := rfl
@[simp] theorem setRsp_clw : (setRsp s e r).clw = s.clw := rfl
@[simp] theorem setRsp_vecs : (setRsp s e r).vecs = s.vecs := rfl
@[simp] theorem setRsp_msgs : (setRsp s e r).msgs = s.msgs := rfl
@[simp] theorem setRsp_rdata : (setRsp s e r).rdata = s.rdata := rfl
@[simp] theorem setRsp_parts : (setRsp s e r).parts = s.parts := rfl
@[simp] theorem setRsp_pacc : (setRsp s e r).pacc = s.pacc := rfl
@[simp] theorem setRsp_lanes : (setRsp s e r).lanes = s.lanes := rfl
@[simp] theorem setRsp_strms : (setRsp s e r).strms = s.strms := rfl
@[simp] theorem setRsp_clus : (setRsp s e r).clus = s.clus := rfl
@[simp] theorem setRsp_slots : (setRsp s e r).slots = s.slots := rfl
@[simp] theorem setRsp_htab : (setRsp s e r).htab = s.htab := rfl
@[simp] theorem setRsp_bundles : (setRsp s e r).bundles = s.bundles := rfl
@[simp] theorem setRsp_ccmem : (setRsp s e r).ccmem = s.ccmem := rfl
@[simp] theorem setRsp_hbm : (setRsp s e r).hbm = s.hbm := rfl
@[simp] theorem setRsp_hbmBad : (setRsp s e r).hbmBad = s.hbmBad := rfl
@[simp] theorem setRsp_hbmCe : (setRsp s e r).hbmCe = s.hbmCe := rfl
@[simp] theorem setRsp_meeBad : (setRsp s e r).meeBad = s.meeBad := rfl
@[simp] theorem setRsp_hostMem : (setRsp s e r).hostMem = s.hostMem := rfl
@[simp] theorem setRsp_emis : (setRsp s e r).emis = s.emis := rfl
@[simp] theorem setRsp_emLost : (setRsp s e r).emLost = s.emLost := rfl
@[simp] theorem setRsp_ings : (setRsp s e r).ings = s.ings := rfl
@[simp] theorem setRsp_ports : (setRsp s e r).ports = s.ports := rfl
@[simp] theorem setRsp_keys : (setRsp s e r).keys = s.keys := rfl
@[simp] theorem setRsp_bg : (setRsp s e r).bg = s.bg := rfl
@[simp] theorem setRsp_noc : (setRsp s e r).noc = s.noc := rfl
@[simp] theorem setRsp_cores : (setRsp s e r).cores = s.cores := rfl
@[simp] theorem setRsp_lports : (setRsp s e r).lports = s.lports := rfl
@[simp] theorem setRsp_bly : (setRsp s e r).bly = s.bly := rfl
@[simp] theorem setRsp_sess : (setRsp s e r).sess = s.sess := rfl
@[simp] theorem setRsp_ide : (setRsp s e r).ide = s.ide := rfl
@[simp] theorem setRsp_stdy : (setRsp s e r).stdy = s.stdy := rfl
@[simp] theorem setRsp_aer : (setRsp s e r).aer = s.aer := rfl
@[simp] theorem setRsp_sirvi : (setRsp s e r).sirvi = s.sirvi := rfl

end setRsp

section modStdy
variable (s : State) (p : Nat) (f : Stdy → Stdy)

@[simp] theorem modStdy_marks : (modStdy s p f).marks = s.marks := rfl
@[simp] theorem modStdy_pending : (modStdy s p f).pending = s.pending := rfl
@[simp] theorem modStdy_free : (modStdy s p f).free = s.free := rfl
@[simp] theorem modStdy_clk : (modStdy s p f).clk = s.clk := rfl
@[simp] theorem modStdy_regs : (modStdy s p f).regs = s.regs := rfl
@[simp] theorem modStdy_latch : (modStdy s p f).latch = s.latch := rfl
@[simp] theorem modStdy_vfEn : (modStdy s p f).vfEn = s.vfEn := rfl
@[simp] theorem modStdy_clw : (modStdy s p f).clw = s.clw := rfl
@[simp] theorem modStdy_vecs : (modStdy s p f).vecs = s.vecs := rfl
@[simp] theorem modStdy_msgs : (modStdy s p f).msgs = s.msgs := rfl
@[simp] theorem modStdy_rdata : (modStdy s p f).rdata = s.rdata := rfl
@[simp] theorem modStdy_parts : (modStdy s p f).parts = s.parts := rfl
@[simp] theorem modStdy_pacc : (modStdy s p f).pacc = s.pacc := rfl
@[simp] theorem modStdy_lanes : (modStdy s p f).lanes = s.lanes := rfl
@[simp] theorem modStdy_strms : (modStdy s p f).strms = s.strms := rfl
@[simp] theorem modStdy_clus : (modStdy s p f).clus = s.clus := rfl
@[simp] theorem modStdy_slots : (modStdy s p f).slots = s.slots := rfl
@[simp] theorem modStdy_htab : (modStdy s p f).htab = s.htab := rfl
@[simp] theorem modStdy_bundles : (modStdy s p f).bundles = s.bundles := rfl
@[simp] theorem modStdy_ccmem : (modStdy s p f).ccmem = s.ccmem := rfl
@[simp] theorem modStdy_hbm : (modStdy s p f).hbm = s.hbm := rfl
@[simp] theorem modStdy_hbmBad : (modStdy s p f).hbmBad = s.hbmBad := rfl
@[simp] theorem modStdy_hbmCe : (modStdy s p f).hbmCe = s.hbmCe := rfl
@[simp] theorem modStdy_meeBad : (modStdy s p f).meeBad = s.meeBad := rfl
@[simp] theorem modStdy_hostMem : (modStdy s p f).hostMem = s.hostMem := rfl
@[simp] theorem modStdy_emis : (modStdy s p f).emis = s.emis := rfl
@[simp] theorem modStdy_emLost : (modStdy s p f).emLost = s.emLost := rfl
@[simp] theorem modStdy_ings : (modStdy s p f).ings = s.ings := rfl
@[simp] theorem modStdy_ports : (modStdy s p f).ports = s.ports := rfl
@[simp] theorem modStdy_keys : (modStdy s p f).keys = s.keys := rfl
@[simp] theorem modStdy_bg : (modStdy s p f).bg = s.bg := rfl
@[simp] theorem modStdy_noc : (modStdy s p f).noc = s.noc := rfl
@[simp] theorem modStdy_cores : (modStdy s p f).cores = s.cores := rfl
@[simp] theorem modStdy_lports : (modStdy s p f).lports = s.lports := rfl
@[simp] theorem modStdy_bly : (modStdy s p f).bly = s.bly := rfl
@[simp] theorem modStdy_sess : (modStdy s p f).sess = s.sess := rfl
@[simp] theorem modStdy_spdm : (modStdy s p f).spdm = s.spdm := rfl
@[simp] theorem modStdy_ide : (modStdy s p f).ide = s.ide := rfl
@[simp] theorem modStdy_aer : (modStdy s p f).aer = s.aer := rfl
@[simp] theorem modStdy_sirvi : (modStdy s p f).sirvi = s.sirvi := rfl

end modStdy

section modLport
variable (s : State) (p : Nat) (f : LPort → LPort)

@[simp] theorem modLport_marks : (modLport s p f).marks = s.marks := rfl
@[simp] theorem modLport_pending : (modLport s p f).pending = s.pending := rfl
@[simp] theorem modLport_free : (modLport s p f).free = s.free := rfl
@[simp] theorem modLport_clk : (modLport s p f).clk = s.clk := rfl
@[simp] theorem modLport_regs : (modLport s p f).regs = s.regs := rfl
@[simp] theorem modLport_latch : (modLport s p f).latch = s.latch := rfl
@[simp] theorem modLport_vfEn : (modLport s p f).vfEn = s.vfEn := rfl
@[simp] theorem modLport_clw : (modLport s p f).clw = s.clw := rfl
@[simp] theorem modLport_vecs : (modLport s p f).vecs = s.vecs := rfl
@[simp] theorem modLport_msgs : (modLport s p f).msgs = s.msgs := rfl
@[simp] theorem modLport_rdata : (modLport s p f).rdata = s.rdata := rfl
@[simp] theorem modLport_parts : (modLport s p f).parts = s.parts := rfl
@[simp] theorem modLport_pacc : (modLport s p f).pacc = s.pacc := rfl
@[simp] theorem modLport_lanes : (modLport s p f).lanes = s.lanes := rfl
@[simp] theorem modLport_strms : (modLport s p f).strms = s.strms := rfl
@[simp] theorem modLport_clus : (modLport s p f).clus = s.clus := rfl
@[simp] theorem modLport_slots : (modLport s p f).slots = s.slots := rfl
@[simp] theorem modLport_htab : (modLport s p f).htab = s.htab := rfl
@[simp] theorem modLport_bundles : (modLport s p f).bundles = s.bundles := rfl
@[simp] theorem modLport_ccmem : (modLport s p f).ccmem = s.ccmem := rfl
@[simp] theorem modLport_hbm : (modLport s p f).hbm = s.hbm := rfl
@[simp] theorem modLport_hbmBad : (modLport s p f).hbmBad = s.hbmBad := rfl
@[simp] theorem modLport_hbmCe : (modLport s p f).hbmCe = s.hbmCe := rfl
@[simp] theorem modLport_meeBad : (modLport s p f).meeBad = s.meeBad := rfl
@[simp] theorem modLport_hostMem : (modLport s p f).hostMem = s.hostMem := rfl
@[simp] theorem modLport_emis : (modLport s p f).emis = s.emis := rfl
@[simp] theorem modLport_emLost : (modLport s p f).emLost = s.emLost := rfl
@[simp] theorem modLport_ings : (modLport s p f).ings = s.ings := rfl
@[simp] theorem modLport_ports : (modLport s p f).ports = s.ports := rfl
@[simp] theorem modLport_keys : (modLport s p f).keys = s.keys := rfl
@[simp] theorem modLport_bg : (modLport s p f).bg = s.bg := rfl
@[simp] theorem modLport_noc : (modLport s p f).noc = s.noc := rfl
@[simp] theorem modLport_cores : (modLport s p f).cores = s.cores := rfl
@[simp] theorem modLport_bly : (modLport s p f).bly = s.bly := rfl
@[simp] theorem modLport_sess : (modLport s p f).sess = s.sess := rfl
@[simp] theorem modLport_spdm : (modLport s p f).spdm = s.spdm := rfl
@[simp] theorem modLport_ide : (modLport s p f).ide = s.ide := rfl
@[simp] theorem modLport_stdy : (modLport s p f).stdy = s.stdy := rfl
@[simp] theorem modLport_aer : (modLport s p f).aer = s.aer := rfl
@[simp] theorem modLport_sirvi : (modLport s p f).sirvi = s.sirvi := rfl

end modLport

section modBly
variable (s : State) (n : Nat) (f : Bly → Bly)

@[simp] theorem modBly_marks : (modBly s n f).marks = s.marks := rfl
@[simp] theorem modBly_pending : (modBly s n f).pending = s.pending := rfl
@[simp] theorem modBly_free : (modBly s n f).free = s.free := rfl
@[simp] theorem modBly_clk : (modBly s n f).clk = s.clk := rfl
@[simp] theorem modBly_regs : (modBly s n f).regs = s.regs := rfl
@[simp] theorem modBly_latch : (modBly s n f).latch = s.latch := rfl
@[simp] theorem modBly_vfEn : (modBly s n f).vfEn = s.vfEn := rfl
@[simp] theorem modBly_clw : (modBly s n f).clw = s.clw := rfl
@[simp] theorem modBly_vecs : (modBly s n f).vecs = s.vecs := rfl
@[simp] theorem modBly_msgs : (modBly s n f).msgs = s.msgs := rfl
@[simp] theorem modBly_rdata : (modBly s n f).rdata = s.rdata := rfl
@[simp] theorem modBly_parts : (modBly s n f).parts = s.parts := rfl
@[simp] theorem modBly_pacc : (modBly s n f).pacc = s.pacc := rfl
@[simp] theorem modBly_lanes : (modBly s n f).lanes = s.lanes := rfl
@[simp] theorem modBly_strms : (modBly s n f).strms = s.strms := rfl
@[simp] theorem modBly_clus : (modBly s n f).clus = s.clus := rfl
@[simp] theorem modBly_slots : (modBly s n f).slots = s.slots := rfl
@[simp] theorem modBly_htab : (modBly s n f).htab = s.htab := rfl
@[simp] theorem modBly_bundles : (modBly s n f).bundles = s.bundles := rfl
@[simp] theorem modBly_ccmem : (modBly s n f).ccmem = s.ccmem := rfl
@[simp] theorem modBly_hbm : (modBly s n f).hbm = s.hbm := rfl
@[simp] theorem modBly_hbmBad : (modBly s n f).hbmBad = s.hbmBad := rfl
@[simp] theorem modBly_hbmCe : (modBly s n f).hbmCe = s.hbmCe := rfl
@[simp] theorem modBly_meeBad : (modBly s n f).meeBad = s.meeBad := rfl
@[simp] theorem modBly_hostMem : (modBly s n f).hostMem = s.hostMem := rfl
@[simp] theorem modBly_emis : (modBly s n f).emis = s.emis := rfl
@[simp] theorem modBly_emLost : (modBly s n f).emLost = s.emLost := rfl
@[simp] theorem modBly_ings : (modBly s n f).ings = s.ings := rfl
@[simp] theorem modBly_ports : (modBly s n f).ports = s.ports := rfl
@[simp] theorem modBly_keys : (modBly s n f).keys = s.keys := rfl
@[simp] theorem modBly_bg : (modBly s n f).bg = s.bg := rfl
@[simp] theorem modBly_noc : (modBly s n f).noc = s.noc := rfl
@[simp] theorem modBly_cores : (modBly s n f).cores = s.cores := rfl
@[simp] theorem modBly_lports : (modBly s n f).lports = s.lports := rfl
@[simp] theorem modBly_sess : (modBly s n f).sess = s.sess := rfl
@[simp] theorem modBly_spdm : (modBly s n f).spdm = s.spdm := rfl
@[simp] theorem modBly_ide : (modBly s n f).ide = s.ide := rfl
@[simp] theorem modBly_stdy : (modBly s n f).stdy = s.stdy := rfl
@[simp] theorem modBly_aer : (modBly s n f).aer = s.aer := rfl
@[simp] theorem modBly_sirvi : (modBly s n f).sirvi = s.sirvi := rfl

end modBly

section setPrt
variable (s : State) (p : Nat) (x : Port)

@[simp] theorem setPrt_marks : (setPrt s p x).marks = s.marks := rfl
@[simp] theorem setPrt_pending : (setPrt s p x).pending = s.pending := rfl
@[simp] theorem setPrt_free : (setPrt s p x).free = s.free := rfl
@[simp] theorem setPrt_clk : (setPrt s p x).clk = s.clk := rfl
@[simp] theorem setPrt_regs : (setPrt s p x).regs = s.regs := rfl
@[simp] theorem setPrt_latch : (setPrt s p x).latch = s.latch := rfl
@[simp] theorem setPrt_vfEn : (setPrt s p x).vfEn = s.vfEn := rfl
@[simp] theorem setPrt_clw : (setPrt s p x).clw = s.clw := rfl
@[simp] theorem setPrt_vecs : (setPrt s p x).vecs = s.vecs := rfl
@[simp] theorem setPrt_msgs : (setPrt s p x).msgs = s.msgs := rfl
@[simp] theorem setPrt_rdata : (setPrt s p x).rdata = s.rdata := rfl
@[simp] theorem setPrt_parts : (setPrt s p x).parts = s.parts := rfl
@[simp] theorem setPrt_pacc : (setPrt s p x).pacc = s.pacc := rfl
@[simp] theorem setPrt_lanes : (setPrt s p x).lanes = s.lanes := rfl
@[simp] theorem setPrt_strms : (setPrt s p x).strms = s.strms := rfl
@[simp] theorem setPrt_clus : (setPrt s p x).clus = s.clus := rfl
@[simp] theorem setPrt_slots : (setPrt s p x).slots = s.slots := rfl
@[simp] theorem setPrt_htab : (setPrt s p x).htab = s.htab := rfl
@[simp] theorem setPrt_bundles : (setPrt s p x).bundles = s.bundles := rfl
@[simp] theorem setPrt_ccmem : (setPrt s p x).ccmem = s.ccmem := rfl
@[simp] theorem setPrt_hbm : (setPrt s p x).hbm = s.hbm := rfl
@[simp] theorem setPrt_hbmBad : (setPrt s p x).hbmBad = s.hbmBad := rfl
@[simp] theorem setPrt_hbmCe : (setPrt s p x).hbmCe = s.hbmCe := rfl
@[simp] theorem setPrt_meeBad : (setPrt s p x).meeBad = s.meeBad := rfl
@[simp] theorem setPrt_hostMem : (setPrt s p x).hostMem = s.hostMem := rfl
@[simp] theorem setPrt_emis : (setPrt s p x).emis = s.emis := rfl
@[simp] theorem setPrt_emLost : (setPrt s p x).emLost = s.emLost := rfl
@[simp] theorem setPrt_ings : (setPrt s p x).ings = s.ings := rfl
@[simp] theorem setPrt_keys : (setPrt s p x).keys = s.keys := rfl
@[simp] theorem setPrt_bg : (setPrt s p x).bg = s.bg := rfl
@[simp] theorem setPrt_noc : (setPrt s p x).noc = s.noc := rfl
@[simp] theorem setPrt_cores : (setPrt s p x).cores = s.cores := rfl
@[simp] theorem setPrt_lports : (setPrt s p x).lports = s.lports := rfl
@[simp] theorem setPrt_bly : (setPrt s p x).bly = s.bly := rfl
@[simp] theorem setPrt_sess : (setPrt s p x).sess = s.sess := rfl
@[simp] theorem setPrt_spdm : (setPrt s p x).spdm = s.spdm := rfl
@[simp] theorem setPrt_ide : (setPrt s p x).ide = s.ide := rfl
@[simp] theorem setPrt_stdy : (setPrt s p x).stdy = s.stdy := rfl
@[simp] theorem setPrt_aer : (setPrt s p x).aer = s.aer := rfl
@[simp] theorem setPrt_sirvi : (setPrt s p x).sirvi = s.sirvi := rfl

end setPrt

section setCore
variable (s : State) (k : Nat) (x : Core)

@[simp] theorem setCore_marks : (setCore s k x).marks = s.marks := rfl
@[simp] theorem setCore_pending : (setCore s k x).pending = s.pending := rfl
@[simp] theorem setCore_free : (setCore s k x).free = s.free := rfl
@[simp] theorem setCore_clk : (setCore s k x).clk = s.clk := rfl
@[simp] theorem setCore_regs : (setCore s k x).regs = s.regs := rfl
@[simp] theorem setCore_latch : (setCore s k x).latch = s.latch := rfl
@[simp] theorem setCore_vfEn : (setCore s k x).vfEn = s.vfEn := rfl
@[simp] theorem setCore_clw : (setCore s k x).clw = s.clw := rfl
@[simp] theorem setCore_vecs : (setCore s k x).vecs = s.vecs := rfl
@[simp] theorem setCore_msgs : (setCore s k x).msgs = s.msgs := rfl
@[simp] theorem setCore_rdata : (setCore s k x).rdata = s.rdata := rfl
@[simp] theorem setCore_parts : (setCore s k x).parts = s.parts := rfl
@[simp] theorem setCore_pacc : (setCore s k x).pacc = s.pacc := rfl
@[simp] theorem setCore_lanes : (setCore s k x).lanes = s.lanes := rfl
@[simp] theorem setCore_strms : (setCore s k x).strms = s.strms := rfl
@[simp] theorem setCore_clus : (setCore s k x).clus = s.clus := rfl
@[simp] theorem setCore_slots : (setCore s k x).slots = s.slots := rfl
@[simp] theorem setCore_htab : (setCore s k x).htab = s.htab := rfl
@[simp] theorem setCore_bundles : (setCore s k x).bundles = s.bundles := rfl
@[simp] theorem setCore_ccmem : (setCore s k x).ccmem = s.ccmem := rfl
@[simp] theorem setCore_hbm : (setCore s k x).hbm = s.hbm := rfl
@[simp] theorem setCore_hbmBad : (setCore s k x).hbmBad = s.hbmBad := rfl
@[simp] theorem setCore_hbmCe : (setCore s k x).hbmCe = s.hbmCe := rfl
@[simp] theorem setCore_meeBad : (setCore s k x).meeBad = s.meeBad := rfl
@[simp] theorem setCore_hostMem : (setCore s k x).hostMem = s.hostMem := rfl
@[simp] theorem setCore_emis : (setCore s k x).emis = s.emis := rfl
@[simp] theorem setCore_emLost : (setCore s k x).emLost = s.emLost := rfl
@[simp] theorem setCore_ings : (setCore s k x).ings = s.ings := rfl
@[simp] theorem setCore_ports : (setCore s k x).ports = s.ports := rfl
@[simp] theorem setCore_keys : (setCore s k x).keys = s.keys := rfl
@[simp] theorem setCore_bg : (setCore s k x).bg = s.bg := rfl
@[simp] theorem setCore_noc : (setCore s k x).noc = s.noc := rfl
@[simp] theorem setCore_lports : (setCore s k x).lports = s.lports := rfl
@[simp] theorem setCore_bly : (setCore s k x).bly = s.bly := rfl
@[simp] theorem setCore_sess : (setCore s k x).sess = s.sess := rfl
@[simp] theorem setCore_spdm : (setCore s k x).spdm = s.spdm := rfl
@[simp] theorem setCore_ide : (setCore s k x).ide = s.ide := rfl
@[simp] theorem setCore_stdy : (setCore s k x).stdy = s.stdy := rfl
@[simp] theorem setCore_aer : (setCore s k x).aer = s.aer := rfl
@[simp] theorem setCore_sirvi : (setCore s k x).sirvi = s.sirvi := rfl

end setCore

section modCore
variable (s : State) (k : Nat) (f : Core → Core)

@[simp] theorem modCore_marks : (modCore s k f).marks = s.marks := rfl
@[simp] theorem modCore_pending : (modCore s k f).pending = s.pending := rfl
@[simp] theorem modCore_free : (modCore s k f).free = s.free := rfl
@[simp] theorem modCore_clk : (modCore s k f).clk = s.clk := rfl
@[simp] theorem modCore_regs : (modCore s k f).regs = s.regs := rfl
@[simp] theorem modCore_latch : (modCore s k f).latch = s.latch := rfl
@[simp] theorem modCore_vfEn : (modCore s k f).vfEn = s.vfEn := rfl
@[simp] theorem modCore_clw : (modCore s k f).clw = s.clw := rfl
@[simp] theorem modCore_vecs : (modCore s k f).vecs = s.vecs := rfl
@[simp] theorem modCore_msgs : (modCore s k f).msgs = s.msgs := rfl
@[simp] theorem modCore_rdata : (modCore s k f).rdata = s.rdata := rfl
@[simp] theorem modCore_parts : (modCore s k f).parts = s.parts := rfl
@[simp] theorem modCore_pacc : (modCore s k f).pacc = s.pacc := rfl
@[simp] theorem modCore_lanes : (modCore s k f).lanes = s.lanes := rfl
@[simp] theorem modCore_strms : (modCore s k f).strms = s.strms := rfl
@[simp] theorem modCore_clus : (modCore s k f).clus = s.clus := rfl
@[simp] theorem modCore_slots : (modCore s k f).slots = s.slots := rfl
@[simp] theorem modCore_htab : (modCore s k f).htab = s.htab := rfl
@[simp] theorem modCore_bundles : (modCore s k f).bundles = s.bundles := rfl
@[simp] theorem modCore_ccmem : (modCore s k f).ccmem = s.ccmem := rfl
@[simp] theorem modCore_hbm : (modCore s k f).hbm = s.hbm := rfl
@[simp] theorem modCore_hbmBad : (modCore s k f).hbmBad = s.hbmBad := rfl
@[simp] theorem modCore_hbmCe : (modCore s k f).hbmCe = s.hbmCe := rfl
@[simp] theorem modCore_meeBad : (modCore s k f).meeBad = s.meeBad := rfl
@[simp] theorem modCore_hostMem : (modCore s k f).hostMem = s.hostMem := rfl
@[simp] theorem modCore_emis : (modCore s k f).emis = s.emis := rfl
@[simp] theorem modCore_emLost : (modCore s k f).emLost = s.emLost := rfl
@[simp] theorem modCore_ings : (modCore s k f).ings = s.ings := rfl
@[simp] theorem modCore_ports : (modCore s k f).ports = s.ports := rfl
@[simp] theorem modCore_keys : (modCore s k f).keys = s.keys := rfl
@[simp] theorem modCore_bg : (modCore s k f).bg = s.bg := rfl
@[simp] theorem modCore_noc : (modCore s k f).noc = s.noc := rfl
@[simp] theorem modCore_lports : (modCore s k f).lports = s.lports := rfl
@[simp] theorem modCore_bly : (modCore s k f).bly = s.bly := rfl
@[simp] theorem modCore_sess : (modCore s k f).sess = s.sess := rfl
@[simp] theorem modCore_spdm : (modCore s k f).spdm = s.spdm := rfl
@[simp] theorem modCore_ide : (modCore s k f).ide = s.ide := rfl
@[simp] theorem modCore_stdy : (modCore s k f).stdy = s.stdy := rfl
@[simp] theorem modCore_aer : (modCore s k f).aer = s.aer := rfl
@[simp] theorem modCore_sirvi : (modCore s k f).sirvi = s.sirvi := rfl

end modCore

section setIde
variable (s : State) (k : Nat) (x : Ide)

@[simp] theorem setIde_marks : (setIde s k x).marks = s.marks := rfl
@[simp] theorem setIde_pending : (setIde s k x).pending = s.pending := rfl
@[simp] theorem setIde_free : (setIde s k x).free = s.free := rfl
@[simp] theorem setIde_clk : (setIde s k x).clk = s.clk := rfl
@[simp] theorem setIde_regs : (setIde s k x).regs = s.regs := rfl
@[simp] theorem setIde_latch : (setIde s k x).latch = s.latch := rfl
@[simp] theorem setIde_vfEn : (setIde s k x).vfEn = s.vfEn := rfl
@[simp] theorem setIde_clw : (setIde s k x).clw = s.clw := rfl
@[simp] theorem setIde_vecs : (setIde s k x).vecs = s.vecs := rfl
@[simp] theorem setIde_msgs : (setIde s k x).msgs = s.msgs := rfl
@[simp] theorem setIde_rdata : (setIde s k x).rdata = s.rdata := rfl
@[simp] theorem setIde_parts : (setIde s k x).parts = s.parts := rfl
@[simp] theorem setIde_pacc : (setIde s k x).pacc = s.pacc := rfl
@[simp] theorem setIde_lanes : (setIde s k x).lanes = s.lanes := rfl
@[simp] theorem setIde_strms : (setIde s k x).strms = s.strms := rfl
@[simp] theorem setIde_clus : (setIde s k x).clus = s.clus := rfl
@[simp] theorem setIde_slots : (setIde s k x).slots = s.slots := rfl
@[simp] theorem setIde_htab : (setIde s k x).htab = s.htab := rfl
@[simp] theorem setIde_bundles : (setIde s k x).bundles = s.bundles := rfl
@[simp] theorem setIde_ccmem : (setIde s k x).ccmem = s.ccmem := rfl
@[simp] theorem setIde_hbm : (setIde s k x).hbm = s.hbm := rfl
@[simp] theorem setIde_hbmBad : (setIde s k x).hbmBad = s.hbmBad := rfl
@[simp] theorem setIde_hbmCe : (setIde s k x).hbmCe = s.hbmCe := rfl
@[simp] theorem setIde_meeBad : (setIde s k x).meeBad = s.meeBad := rfl
@[simp] theorem setIde_hostMem : (setIde s k x).hostMem = s.hostMem := rfl
@[simp] theorem setIde_emis : (setIde s k x).emis = s.emis := rfl
@[simp] theorem setIde_emLost : (setIde s k x).emLost = s.emLost := rfl
@[simp] theorem setIde_ings : (setIde s k x).ings = s.ings := rfl
@[simp] theorem setIde_ports : (setIde s k x).ports = s.ports := rfl
@[simp] theorem setIde_keys : (setIde s k x).keys = s.keys := rfl
@[simp] theorem setIde_bg : (setIde s k x).bg = s.bg := rfl
@[simp] theorem setIde_noc : (setIde s k x).noc = s.noc := rfl
@[simp] theorem setIde_cores : (setIde s k x).cores = s.cores := rfl
@[simp] theorem setIde_lports : (setIde s k x).lports = s.lports := rfl
@[simp] theorem setIde_bly : (setIde s k x).bly = s.bly := rfl
@[simp] theorem setIde_sess : (setIde s k x).sess = s.sess := rfl
@[simp] theorem setIde_spdm : (setIde s k x).spdm = s.spdm := rfl
@[simp] theorem setIde_stdy : (setIde s k x).stdy = s.stdy := rfl
@[simp] theorem setIde_aer : (setIde s k x).aer = s.aer := rfl
@[simp] theorem setIde_sirvi : (setIde s k x).sirvi = s.sirvi := rfl

end setIde

section modSirvi
variable (s : State) (f : Sirvi → Sirvi)

@[simp] theorem modSirvi_marks : (modSirvi s f).marks = s.marks := rfl
@[simp] theorem modSirvi_pending : (modSirvi s f).pending = s.pending := rfl
@[simp] theorem modSirvi_free : (modSirvi s f).free = s.free := rfl
@[simp] theorem modSirvi_clk : (modSirvi s f).clk = s.clk := rfl
@[simp] theorem modSirvi_regs : (modSirvi s f).regs = s.regs := rfl
@[simp] theorem modSirvi_latch : (modSirvi s f).latch = s.latch := rfl
@[simp] theorem modSirvi_vfEn : (modSirvi s f).vfEn = s.vfEn := rfl
@[simp] theorem modSirvi_clw : (modSirvi s f).clw = s.clw := rfl
@[simp] theorem modSirvi_vecs : (modSirvi s f).vecs = s.vecs := rfl
@[simp] theorem modSirvi_msgs : (modSirvi s f).msgs = s.msgs := rfl
@[simp] theorem modSirvi_rdata : (modSirvi s f).rdata = s.rdata := rfl
@[simp] theorem modSirvi_parts : (modSirvi s f).parts = s.parts := rfl
@[simp] theorem modSirvi_pacc : (modSirvi s f).pacc = s.pacc := rfl
@[simp] theorem modSirvi_lanes : (modSirvi s f).lanes = s.lanes := rfl
@[simp] theorem modSirvi_strms : (modSirvi s f).strms = s.strms := rfl
@[simp] theorem modSirvi_clus : (modSirvi s f).clus = s.clus := rfl
@[simp] theorem modSirvi_slots : (modSirvi s f).slots = s.slots := rfl
@[simp] theorem modSirvi_htab : (modSirvi s f).htab = s.htab := rfl
@[simp] theorem modSirvi_bundles : (modSirvi s f).bundles = s.bundles := rfl
@[simp] theorem modSirvi_ccmem : (modSirvi s f).ccmem = s.ccmem := rfl
@[simp] theorem modSirvi_hbm : (modSirvi s f).hbm = s.hbm := rfl
@[simp] theorem modSirvi_hbmBad : (modSirvi s f).hbmBad = s.hbmBad := rfl
@[simp] theorem modSirvi_hbmCe : (modSirvi s f).hbmCe = s.hbmCe := rfl
@[simp] theorem modSirvi_meeBad : (modSirvi s f).meeBad = s.meeBad := rfl
@[simp] theorem modSirvi_hostMem : (modSirvi s f).hostMem = s.hostMem := rfl
@[simp] theorem modSirvi_emis : (modSirvi s f).emis = s.emis := rfl
@[simp] theorem modSirvi_emLost : (modSirvi s f).emLost = s.emLost := rfl
@[simp] theorem modSirvi_ings : (modSirvi s f).ings = s.ings := rfl
@[simp] theorem modSirvi_ports : (modSirvi s f).ports = s.ports := rfl
@[simp] theorem modSirvi_keys : (modSirvi s f).keys = s.keys := rfl
@[simp] theorem modSirvi_bg : (modSirvi s f).bg = s.bg := rfl
@[simp] theorem modSirvi_noc : (modSirvi s f).noc = s.noc := rfl
@[simp] theorem modSirvi_cores : (modSirvi s f).cores = s.cores := rfl
@[simp] theorem modSirvi_lports : (modSirvi s f).lports = s.lports := rfl
@[simp] theorem modSirvi_bly : (modSirvi s f).bly = s.bly := rfl
@[simp] theorem modSirvi_sess : (modSirvi s f).sess = s.sess := rfl
@[simp] theorem modSirvi_spdm : (modSirvi s f).spdm = s.spdm := rfl
@[simp] theorem modSirvi_ide : (modSirvi s f).ide = s.ide := rfl
@[simp] theorem modSirvi_stdy : (modSirvi s f).stdy = s.stdy := rfl
@[simp] theorem modSirvi_aer : (modSirvi s f).aer = s.aer := rfl

end modSirvi

section modSummit
variable (s : State) (f : Summit → Summit)

@[simp] theorem modSummit_marks : (modSummit s f).marks = s.marks := rfl
@[simp] theorem modSummit_pending : (modSummit s f).pending = s.pending := rfl
@[simp] theorem modSummit_free : (modSummit s f).free = s.free := rfl
@[simp] theorem modSummit_clk : (modSummit s f).clk = s.clk := rfl
@[simp] theorem modSummit_regs : (modSummit s f).regs = s.regs := rfl
@[simp] theorem modSummit_latch : (modSummit s f).latch = s.latch := rfl
@[simp] theorem modSummit_vfEn : (modSummit s f).vfEn = s.vfEn := rfl
@[simp] theorem modSummit_clw : (modSummit s f).clw = s.clw := rfl
@[simp] theorem modSummit_vecs : (modSummit s f).vecs = s.vecs := rfl
@[simp] theorem modSummit_msgs : (modSummit s f).msgs = s.msgs := rfl
@[simp] theorem modSummit_rdata : (modSummit s f).rdata = s.rdata := rfl
@[simp] theorem modSummit_parts : (modSummit s f).parts = s.parts := rfl
@[simp] theorem modSummit_pacc : (modSummit s f).pacc = s.pacc := rfl
@[simp] theorem modSummit_lanes : (modSummit s f).lanes = s.lanes := rfl
@[simp] theorem modSummit_strms : (modSummit s f).strms = s.strms := rfl
@[simp] theorem modSummit_clus : (modSummit s f).clus = s.clus := rfl
@[simp] theorem modSummit_slots : (modSummit s f).slots = s.slots := rfl
@[simp] theorem modSummit_htab : (modSummit s f).htab = s.htab := rfl
@[simp] theorem modSummit_bundles : (modSummit s f).bundles = s.bundles := rfl
@[simp] theorem modSummit_ccmem : (modSummit s f).ccmem = s.ccmem := rfl
@[simp] theorem modSummit_hbm : (modSummit s f).hbm = s.hbm := rfl
@[simp] theorem modSummit_hbmBad : (modSummit s f).hbmBad = s.hbmBad := rfl
@[simp] theorem modSummit_hbmCe : (modSummit s f).hbmCe = s.hbmCe := rfl
@[simp] theorem modSummit_meeBad : (modSummit s f).meeBad = s.meeBad := rfl
@[simp] theorem modSummit_hostMem : (modSummit s f).hostMem = s.hostMem := rfl
@[simp] theorem modSummit_emis : (modSummit s f).emis = s.emis := rfl
@[simp] theorem modSummit_emLost : (modSummit s f).emLost = s.emLost := rfl
@[simp] theorem modSummit_ings : (modSummit s f).ings = s.ings := rfl
@[simp] theorem modSummit_ports : (modSummit s f).ports = s.ports := rfl
@[simp] theorem modSummit_keys : (modSummit s f).keys = s.keys := rfl
@[simp] theorem modSummit_bg : (modSummit s f).bg = s.bg := rfl
@[simp] theorem modSummit_noc : (modSummit s f).noc = s.noc := rfl
@[simp] theorem modSummit_cores : (modSummit s f).cores = s.cores := rfl
@[simp] theorem modSummit_lports : (modSummit s f).lports = s.lports := rfl
@[simp] theorem modSummit_bly : (modSummit s f).bly = s.bly := rfl
@[simp] theorem modSummit_sess : (modSummit s f).sess = s.sess := rfl
@[simp] theorem modSummit_spdm : (modSummit s f).spdm = s.spdm := rfl
@[simp] theorem modSummit_ide : (modSummit s f).ide = s.ide := rfl
@[simp] theorem modSummit_stdy : (modSummit s f).stdy = s.stdy := rfl
@[simp] theorem modSummit_aer : (modSummit s f).aer = s.aer := rfl

end modSummit

section markEvt
variable (s : State) (pg bit : Nat)

@[simp] theorem markEvt_pending : (markEvt s pg bit).pending = s.pending := rfl
@[simp] theorem markEvt_free : (markEvt s pg bit).free = s.free := rfl
@[simp] theorem markEvt_clk : (markEvt s pg bit).clk = s.clk := rfl
@[simp] theorem markEvt_regs : (markEvt s pg bit).regs = s.regs := rfl
@[simp] theorem markEvt_latch : (markEvt s pg bit).latch = s.latch := rfl
@[simp] theorem markEvt_vfEn : (markEvt s pg bit).vfEn = s.vfEn := rfl
@[simp] theorem markEvt_clw : (markEvt s pg bit).clw = s.clw := rfl
@[simp] theorem markEvt_vecs : (markEvt s pg bit).vecs = s.vecs := rfl
@[simp] theorem markEvt_msgs : (markEvt s pg bit).msgs = s.msgs := rfl
@[simp] theorem markEvt_rdata : (markEvt s pg bit).rdata = s.rdata := rfl
@[simp] theorem markEvt_parts : (markEvt s pg bit).parts = s.parts := rfl
@[simp] theorem markEvt_pacc : (markEvt s pg bit).pacc = s.pacc := rfl
@[simp] theorem markEvt_lanes : (markEvt s pg bit).lanes = s.lanes := rfl
@[simp] theorem markEvt_strms : (markEvt s pg bit).strms = s.strms := rfl
@[simp] theorem markEvt_clus : (markEvt s pg bit).clus = s.clus := rfl
@[simp] theorem markEvt_slots : (markEvt s pg bit).slots = s.slots := rfl
@[simp] theorem markEvt_htab : (markEvt s pg bit).htab = s.htab := rfl
@[simp] theorem markEvt_bundles : (markEvt s pg bit).bundles = s.bundles := rfl
@[simp] theorem markEvt_ccmem : (markEvt s pg bit).ccmem = s.ccmem := rfl
@[simp] theorem markEvt_hbm : (markEvt s pg bit).hbm = s.hbm := rfl
@[simp] theorem markEvt_hbmBad : (markEvt s pg bit).hbmBad = s.hbmBad := rfl
@[simp] theorem markEvt_hbmCe : (markEvt s pg bit).hbmCe = s.hbmCe := rfl
@[simp] theorem markEvt_meeBad : (markEvt s pg bit).meeBad = s.meeBad := rfl
@[simp] theorem markEvt_hostMem : (markEvt s pg bit).hostMem = s.hostMem := rfl
@[simp] theorem markEvt_emis : (markEvt s pg bit).emis = s.emis := rfl
@[simp] theorem markEvt_emLost : (markEvt s pg bit).emLost = s.emLost := rfl
@[simp] theorem markEvt_ings : (markEvt s pg bit).ings = s.ings := rfl
@[simp] theorem markEvt_ports : (markEvt s pg bit).ports = s.ports := rfl
@[simp] theorem markEvt_keys : (markEvt s pg bit).keys = s.keys := rfl
@[simp] theorem markEvt_bg : (markEvt s pg bit).bg = s.bg := rfl
@[simp] theorem markEvt_noc : (markEvt s pg bit).noc = s.noc := rfl
@[simp] theorem markEvt_cores : (markEvt s pg bit).cores = s.cores := rfl
@[simp] theorem markEvt_lports : (markEvt s pg bit).lports = s.lports := rfl
@[simp] theorem markEvt_bly : (markEvt s pg bit).bly = s.bly := rfl
@[simp] theorem markEvt_sess : (markEvt s pg bit).sess = s.sess := rfl
@[simp] theorem markEvt_spdm : (markEvt s pg bit).spdm = s.spdm := rfl
@[simp] theorem markEvt_ide : (markEvt s pg bit).ide = s.ide := rfl
@[simp] theorem markEvt_stdy : (markEvt s pg bit).stdy = s.stdy := rfl
@[simp] theorem markEvt_aer : (markEvt s pg bit).aer = s.aer := rfl
@[simp] theorem markEvt_sirvi : (markEvt s pg bit).sirvi = s.sirvi := rfl

end markEvt

section markCnt
variable (s : State) (a n : Nat)

@[simp] theorem markCnt_pending : (markCnt s a n).pending = s.pending := rfl
@[simp] theorem markCnt_free : (markCnt s a n).free = s.free := rfl
@[simp] theorem markCnt_clk : (markCnt s a n).clk = s.clk := rfl
@[simp] theorem markCnt_regs : (markCnt s a n).regs = s.regs := rfl
@[simp] theorem markCnt_latch : (markCnt s a n).latch = s.latch := rfl
@[simp] theorem markCnt_vfEn : (markCnt s a n).vfEn = s.vfEn := rfl
@[simp] theorem markCnt_clw : (markCnt s a n).clw = s.clw := rfl
@[simp] theorem markCnt_vecs : (markCnt s a n).vecs = s.vecs := rfl
@[simp] theorem markCnt_msgs : (markCnt s a n).msgs = s.msgs := rfl
@[simp] theorem markCnt_rdata : (markCnt s a n).rdata = s.rdata := rfl
@[simp] theorem markCnt_parts : (markCnt s a n).parts = s.parts := rfl
@[simp] theorem markCnt_pacc : (markCnt s a n).pacc = s.pacc := rfl
@[simp] theorem markCnt_lanes : (markCnt s a n).lanes = s.lanes := rfl
@[simp] theorem markCnt_strms : (markCnt s a n).strms = s.strms := rfl
@[simp] theorem markCnt_clus : (markCnt s a n).clus = s.clus := rfl
@[simp] theorem markCnt_slots : (markCnt s a n).slots = s.slots := rfl
@[simp] theorem markCnt_htab : (markCnt s a n).htab = s.htab := rfl
@[simp] theorem markCnt_bundles : (markCnt s a n).bundles = s.bundles := rfl
@[simp] theorem markCnt_ccmem : (markCnt s a n).ccmem = s.ccmem := rfl
@[simp] theorem markCnt_hbm : (markCnt s a n).hbm = s.hbm := rfl
@[simp] theorem markCnt_hbmBad : (markCnt s a n).hbmBad = s.hbmBad := rfl
@[simp] theorem markCnt_hbmCe : (markCnt s a n).hbmCe = s.hbmCe := rfl
@[simp] theorem markCnt_meeBad : (markCnt s a n).meeBad = s.meeBad := rfl
@[simp] theorem markCnt_hostMem : (markCnt s a n).hostMem = s.hostMem := rfl
@[simp] theorem markCnt_emis : (markCnt s a n).emis = s.emis := rfl
@[simp] theorem markCnt_emLost : (markCnt s a n).emLost = s.emLost := rfl
@[simp] theorem markCnt_ings : (markCnt s a n).ings = s.ings := rfl
@[simp] theorem markCnt_ports : (markCnt s a n).ports = s.ports := rfl
@[simp] theorem markCnt_keys : (markCnt s a n).keys = s.keys := rfl
@[simp] theorem markCnt_bg : (markCnt s a n).bg = s.bg := rfl
@[simp] theorem markCnt_noc : (markCnt s a n).noc = s.noc := rfl
@[simp] theorem markCnt_cores : (markCnt s a n).cores = s.cores := rfl
@[simp] theorem markCnt_lports : (markCnt s a n).lports = s.lports := rfl
@[simp] theorem markCnt_bly : (markCnt s a n).bly = s.bly := rfl
@[simp] theorem markCnt_sess : (markCnt s a n).sess = s.sess := rfl
@[simp] theorem markCnt_spdm : (markCnt s a n).spdm = s.spdm := rfl
@[simp] theorem markCnt_ide : (markCnt s a n).ide = s.ide := rfl
@[simp] theorem markCnt_stdy : (markCnt s a n).stdy = s.stdy := rfl
@[simp] theorem markCnt_aer : (markCnt s a n).aer = s.aer := rfl
@[simp] theorem markCnt_sirvi : (markCnt s a n).sirvi = s.sirvi := rfl

end markCnt

end Sys2Proof.Machine
end

