-- ==== Sys2Proof/Laws/Ops.lean ====
section
/-!
SUPPORT. Reading laws of the shared operations: a register read after a register write, a structure read after a write of one, and what
an event does: it writes the page's PG_EVT and, for a logging bit, its capture, and sends or marks interrupt messages (00_scope R7, R8;
16_host_registers R455); every other field of the state is as before.
-/
namespace Sys2Proof.Machine

set_option Elab.async false

variable {s : State}

/-! ## Registers -/

/-- A write at another key is not seen, whatever an unlisted key reads as. -/
theorem smGet_smSet_other {α : Type} [DecidableEq α] (d e : α) (m : SMap α) {k j : Nat} (v : α) (h : j ≠ k) :
    smGet e (smSet d m k v) j = smGet e m j := by
  unfold smSet
  split
  · rw [smGet_erase, if_neg h]
  · have hm : ∀ p ∈ smErase m k, p.1 ≠ k := fun p hp => (mem_smErase.mp hp).2
    have hk : smGet e (smErase m k) k = e := by rw [smGet_erase, if_pos rfl]
    rw [smGet_ins e _ _ _ _ hk hm, if_neg h, smGet_erase, if_neg h]

theorem rd_wr (a b : Nat) (v : Word) : rd (wr s a v) b = if b = a then v else rd s b := by
  unfold rd wr
  by_cases h : b = a
  · subst h; simp
  · rw [if_neg h]; exact smGet_smSet_other _ _ _ _ h

@[simp] theorem rd_wr_same (a : Nat) (v : Word) : rd (wr s a v) a = v := by simp [rd_wr]

theorem rd_wr_ne {a b : Nat} (v : Word) (h : b ≠ a) : rd (wr s a v) b = rd s b := by simp [rd_wr, h]

theorem rdN_wrN (a b v : Nat) : rdN (wrN s a v) b = if b = a then v % 2 ^ 32 else rdN s b := by
  unfold rdN wrN
  rw [rd_wr]
  split <;> simp

@[simp] theorem rdN_wrN_same (a v : Nat) : rdN (wrN s a v) a = v % 2 ^ 32 := by simp [rdN_wrN]

theorem rdN_wrN_ne {a b : Nat} (v : Nat) (h : b ≠ a) : rdN (wrN s a v) b = rdN s b := by simp [rdN_wrN, h]

theorem rdN_lt (a : Nat) : rdN s a < 2 ^ 32 := (rd s a).isLt

/-- A read of registers sees the register map only. -/
theorem rd_of_regs {t : State} (h : t.regs = s.regs) (a : Nat) : rd t a = rd s a := by unfold rd; rw [h]

theorem rdN_of_regs {t : State} (h : t.regs = s.regs) (a : Nat) : rdN t a = rdN s a := by unfold rdN; rw [rd_of_regs h]

/-! ## Fields of a register -/

/-- A bit of a word with a field written. -/
theorem bitAt_setFld (w lo len v i : Nat) :
    bitAt (setFld w lo len v) i = if i < lo then bitAt w i else if i < lo + len then bitAt v (i - lo) else bitAt w i := by
  have e : setFld w lo len v = 2 ^ (lo + len) * (w / 2 ^ (lo + len)) + (2 ^ lo * (v % 2 ^ len) + w % 2 ^ lo) := by
    unfold setFld; rw [Nat.mul_comm (w / _), Nat.mul_comm (v % _)]; omega
  have h1 : w % 2 ^ lo < 2 ^ lo := Nat.mod_lt _ (Nat.two_pow_pos _)
  have h2 : 2 ^ lo * (v % 2 ^ len) + w % 2 ^ lo < 2 ^ (lo + len) := by
    have := Nat.mod_lt v (Nat.two_pow_pos len)
    rw [Nat.pow_add]
    calc _ < 2 ^ lo * (v % 2 ^ len) + 2 ^ lo := by omega
      _ = 2 ^ lo * (v % 2 ^ len + 1) := by ring
      _ ≤ _ := Nat.mul_le_mul_left _ this
  unfold bitAt
  rw [e, Nat.testBit_two_pow_mul_add _ h2, Nat.testBit_two_pow_mul_add _ h1]
  by_cases a : i < lo
  · simp [a, show i < lo + len by omega, Nat.testBit_mod_two_pow]
  · by_cases b : i < lo + len
    · simp [a, b, Nat.testBit_mod_two_pow]; omega
    · have g : i - (lo + len) + (lo + len) = i := by omega
      simp only [a, b, if_false, Nat.testBit_div_two_pow, g]

theorem fld_bit (w lo len i : Nat) : (fld w lo len).testBit i = (decide (i < len) && bitAt w (lo + i)) := by
  unfold fld bitAt; rw [Nat.testBit_mod_two_pow, Nat.testBit_div_two_pow, Nat.add_comm]

theorem fld_setFld_same (w lo len v : Nat) : fld (setFld w lo len v) lo len = v % 2 ^ len := by
  apply Nat.eq_of_testBit_eq; intro i
  rw [fld_bit, bitAt_setFld, Nat.testBit_mod_two_pow]
  by_cases h : i < len <;> simp [h, bitAt]

theorem fld_setFld_other (w lo len v l n : Nat) (h : l + n ≤ lo ∨ lo + len ≤ l) : fld (setFld w lo len v) l n = fld w l n := by
  apply Nat.eq_of_testBit_eq; intro i
  rw [fld_bit, fld_bit, bitAt_setFld]
  by_cases a : i < n
  · simp only [a, decide_true, Bool.true_and]; split
    · rfl
    · rw [if_neg (by omega)]
  · simp [a]

theorem fld_mod_word (w lo len : Nat) (h : lo + len ≤ 32) : fld (w % 2 ^ 32) lo len = fld w lo len := by
  apply Nat.eq_of_testBit_eq; intro i
  rw [fld_bit, fld_bit]; unfold bitAt; rw [Nat.testBit_mod_two_pow]
  by_cases a : i < len
  · simp [a, show lo + i < 32 by omega]
  · simp [a]

theorem bitAt_mod_word (w i : Nat) (h : i < 32) : bitAt (w % 2 ^ 32) i = bitAt w i := by
  unfold bitAt; rw [Nat.testBit_mod_two_pow]; simp [h]

theorem rdN_wf (s : State) (a lo len v b : Nat) :
    rdN (wf s a lo len v) b = if b = a then setFld (rdN s a) lo len v % 2 ^ 32 else rdN s b := rdN_wrN _ _ _

theorem rf_wf_same (s : State) (a lo len v : Nat) (h : lo + len ≤ 32) : rf (wf s a lo len v) a lo len = v % 2 ^ len := by
  unfold rf; rw [rdN_wf, if_pos rfl, fld_mod_word _ _ _ h, fld_setFld_same]

theorem rf_wf_other (s : State) (a lo len v l n : Nat) (h : l + n ≤ lo ∨ lo + len ≤ l) (k : l + n ≤ 32) :
    rf (wf s a lo len v) a l n = rf s a l n := by
  unfold rf; rw [rdN_wf, if_pos rfl, fld_mod_word _ _ _ k, fld_setFld_other _ _ _ _ _ _ h]

theorem rf_wf_ne (s : State) (a lo len v b l n : Nat) (h : b ≠ a) : rf (wf s a lo len v) b l n = rf s b l n := by
  unfold rf; rw [rdN_wf, if_neg h]

theorem rb_wf (s : State) (a lo len v i : Nat) (h : i < 32) : rb (wf s a lo len v) a i =
    if i < lo then rb s a i else if i < lo + len then bitAt v (i - lo) else rb s a i := by
  unfold rb; rw [rdN_wf, if_pos rfl, bitAt_mod_word _ _ h, bitAt_setFld]

theorem rb_wf_ne (s : State) (a lo len v b i : Nat) (h : b ≠ a) : rb (wf s a lo len v) b i = rb s b i := by
  unfold rb; rw [rdN_wf, if_neg h]

/-! ## Structures by number -/

@[simp] theorem part_setPart_same (n : Nat) (p : Part) : part (setPart s n p) n = p := by simp [part, setPart]
theorem part_setPart (n m : Nat) (p : Part) : part (setPart s n p) m = if m = n then p else part s m := by
  simp only [part, setPart, smGet_smSet]
@[simp] theorem part_modPart_same (n : Nat) (f : Part → Part) : part (modPart s n f) n = f (part s n) := by simp [modPart]
theorem part_modPart (n m : Nat) (f : Part → Part) : part (modPart s n f) m = if m = n then f (part s n) else part s m := by
  simp [modPart, part_setPart]
@[simp] theorem job_setJob_same (n j : Nat) (x : Job) : job (setJob s n j x) n j = x := by simp [job, setJob]
@[simp] theorem job_modJob_same (n j : Nat) (f : Job → Job) : job (modJob s n j f) n j = f (job s n j) := by simp [modJob]
@[simp] theorem strm_setStrm_same (h : Nat) (x : Strm) : strm (setStrm s h x) h = x := by simp [strm, setStrm]
theorem strm_setStrm (h g : Nat) (x : Strm) : strm (setStrm s h x) g = if g = h then x else strm s g := by
  simp only [strm, setStrm, smGet_smSet]
@[simp] theorem strm_modStrm_same (h : Nat) (f : Strm → Strm) : strm (modStrm s h f) h = f (strm s h) := by simp [modStrm]
@[simp] theorem clu_setClu_same (c : Nat) (x : Clus) : clu (setClu s c x) c = x := by simp [clu, setClu]
theorem clu_setClu (c d : Nat) (x : Clus) : clu (setClu s c x) d = if d = c then x else clu s d := by
  simp only [clu, setClu, smGet_smSet]
@[simp] theorem clu_modClu_same (c : Nat) (f : Clus → Clus) : clu (modClu s c f) c = f (clu s c) := by simp [modClu]
@[simp] theorem lane_setLane_same (k : Nat) (x : Option Lane) : lane (setLane s k x) k = x := by simp [lane, setLane]
@[simp] theorem slotAt_setSlot_same (core i : Nat) (x : Slot) : slotAt (setSlot s core i x) core i = x := by simp [slotAt, setSlot]
@[simp] theorem slotAt_modSlot_same (core i : Nat) (f : Slot → Slot) : slotAt (modSlot s core i f) core i = f (slotAt s core i) := by
  simp [modSlot]
@[simp] theorem coreAt_setCore_same (k : Nat) (x : Core) : coreAt (setCore s k x) k = x := by simp [coreAt, setCore]

theorem part_of_parts {t : State} (h : t.parts = s.parts) (n : Nat) : part t n = part s n := by unfold part; rw [h]
theorem strm_of_strms {t : State} (e : t.strms = s.strms) (h : Nat) : strm t h = strm s h := by unfold strm; rw [e]
theorem clu_of_clus {t : State} (h : t.clus = s.clus) (c : Nat) : clu t c = clu s c := by unfold clu; rw [h]

/-! ## Events -/

/-- `t` is `s` but for its registers, the marks of the cycle and of its interrupt vectors, and the messages sent. -/
def EvtOnly (s t : State) : Prop := ∃ r k v m, t = { s with regs := r, marks := k, vecs := v, msgs := m }

theorem EvtOnly.refl (s : State) : EvtOnly s s := ⟨s.regs, s.marks, s.vecs, s.msgs, rfl⟩

theorem EvtOnly.trans {a b c : State} (h : EvtOnly a b) (k : EvtOnly b c) : EvtOnly a c := by
  obtain ⟨r, n, v, m, rfl⟩ := h
  obtain ⟨r', n', v', m', rfl⟩ := k
  exact ⟨r', n', v', m', rfl⟩

theorem EvtOnly.pending {a b : State} (h : EvtOnly a b) : b.pending = a.pending := by obtain ⟨r, n, v, m, rfl⟩ := h; rfl
theorem EvtOnly.free {a b : State} (h : EvtOnly a b) : b.free = a.free := by obtain ⟨r, n, v, m, rfl⟩ := h; rfl
theorem EvtOnly.clk {a b : State} (h : EvtOnly a b) : b.clk = a.clk := by obtain ⟨r, n, v, m, rfl⟩ := h; rfl
theorem EvtOnly.latch {a b : State} (h : EvtOnly a b) : b.latch = a.latch := by obtain ⟨r, n, v, m, rfl⟩ := h; rfl
theorem EvtOnly.vfEn {a b : State} (h : EvtOnly a b) : b.vfEn = a.vfEn := by obtain ⟨r, n, v, m, rfl⟩ := h; rfl
theorem EvtOnly.clw {a b : State} (h : EvtOnly a b) : b.clw = a.clw := by obtain ⟨r, n, v, m, rfl⟩ := h; rfl
theorem EvtOnly.rdata {a b : State} (h : EvtOnly a b) : b.rdata = a.rdata := by obtain ⟨r, n, v, m, rfl⟩ := h; rfl
theorem EvtOnly.parts {a b : State} (h : EvtOnly a b) : b.parts = a.parts := by obtain ⟨r, n, v, m, rfl⟩ := h; rfl
theorem EvtOnly.pacc {a b : State} (h : EvtOnly a b) : b.pacc = a.pacc := by obtain ⟨r, n, v, m, rfl⟩ := h; rfl
theorem EvtOnly.lanes {a b : State} (h : EvtOnly a b) : b.lanes = a.lanes := by obtain ⟨r, n, v, m, rfl⟩ := h; rfl
theorem EvtOnly.strms {a b : State} (h : EvtOnly a b) : b.strms = a.strms := by obtain ⟨r, n, v, m, rfl⟩ := h; rfl
theorem EvtOnly.clus {a b : State} (h : EvtOnly a b) : b.clus = a.clus := by obtain ⟨r, n, v, m, rfl⟩ := h; rfl
theorem EvtOnly.slots {a b : State} (h : EvtOnly a b) : b.slots = a.slots := by obtain ⟨r, n, v, m, rfl⟩ := h; rfl
theorem EvtOnly.htab {a b : State} (h : EvtOnly a b) : b.htab = a.htab := by obtain ⟨r, n, v, m, rfl⟩ := h; rfl
theorem EvtOnly.bundles {a b : State} (h : EvtOnly a b) : b.bundles = a.bundles := by obtain ⟨r, n, v, m, rfl⟩ := h; rfl
theorem EvtOnly.ccmem {a b : State} (h : EvtOnly a b) : b.ccmem = a.ccmem := by obtain ⟨r, n, v, m, rfl⟩ := h; rfl
theorem EvtOnly.hbm {a b : State} (h : EvtOnly a b) : b.hbm = a.hbm := by obtain ⟨r, n, v, m, rfl⟩ := h; rfl
theorem EvtOnly.hbmBad {a b : State} (h : EvtOnly a b) : b.hbmBad = a.hbmBad := by obtain ⟨r, n, v, m, rfl⟩ := h; rfl
theorem EvtOnly.meeBad {a b : State} (h : EvtOnly a b) : b.meeBad = a.meeBad := by obtain ⟨r, n, v, m, rfl⟩ := h; rfl
theorem EvtOnly.hbmCe {a b : State} (h : EvtOnly a b) : b.hbmCe = a.hbmCe := by obtain ⟨r, n, v, m, rfl⟩ := h; rfl
theorem EvtOnly.hostMem {a b : State} (h : EvtOnly a b) : b.hostMem = a.hostMem := by obtain ⟨r, n, v, m, rfl⟩ := h; rfl
theorem EvtOnly.emis {a b : State} (h : EvtOnly a b) : b.emis = a.emis := by obtain ⟨r, n, v, m, rfl⟩ := h; rfl
theorem EvtOnly.emLost {a b : State} (h : EvtOnly a b) : b.emLost = a.emLost := by obtain ⟨r, n, v, m, rfl⟩ := h; rfl
theorem EvtOnly.ings {a b : State} (h : EvtOnly a b) : b.ings = a.ings := by obtain ⟨r, n, v, m, rfl⟩ := h; rfl
theorem EvtOnly.ports {a b : State} (h : EvtOnly a b) : b.ports = a.ports := by obtain ⟨r, n, v, m, rfl⟩ := h; rfl
theorem EvtOnly.keys {a b : State} (h : EvtOnly a b) : b.keys = a.keys := by obtain ⟨r, n, v, m, rfl⟩ := h; rfl
theorem EvtOnly.bg {a b : State} (h : EvtOnly a b) : b.bg = a.bg := by obtain ⟨r, n, v, m, rfl⟩ := h; rfl
theorem EvtOnly.noc {a b : State} (h : EvtOnly a b) : b.noc = a.noc := by obtain ⟨r, n, v, m, rfl⟩ := h; rfl
theorem EvtOnly.cores {a b : State} (h : EvtOnly a b) : b.cores = a.cores := by obtain ⟨r, n, v, m, rfl⟩ := h; rfl
theorem EvtOnly.lports {a b : State} (h : EvtOnly a b) : b.lports = a.lports := by obtain ⟨r, n, v, m, rfl⟩ := h; rfl
theorem EvtOnly.bly {a b : State} (h : EvtOnly a b) : b.bly = a.bly := by obtain ⟨r, n, v, m, rfl⟩ := h; rfl
theorem EvtOnly.sess {a b : State} (h : EvtOnly a b) : b.sess = a.sess := by obtain ⟨r, n, v, m, rfl⟩ := h; rfl
theorem EvtOnly.spdm {a b : State} (h : EvtOnly a b) : b.spdm = a.spdm := by obtain ⟨r, n, v, m, rfl⟩ := h; rfl
theorem EvtOnly.ide {a b : State} (h : EvtOnly a b) : b.ide = a.ide := by obtain ⟨r, n, v, m, rfl⟩ := h; rfl
theorem EvtOnly.stdy {a b : State} (h : EvtOnly a b) : b.stdy = a.stdy := by obtain ⟨r, n, v, m, rfl⟩ := h; rfl
theorem EvtOnly.aer {a b : State} (h : EvtOnly a b) : b.aer = a.aer := by obtain ⟨r, n, v, m, rfl⟩ := h; rfl
theorem EvtOnly.sirvi {a b : State} (h : EvtOnly a b) : b.sirvi = a.sirvi := by obtain ⟨r, n, v, m, rfl⟩ := h; rfl

theorem wr_evtOnly (a : Nat) (v : Word) : EvtOnly s (wr s a v) := ⟨_, s.marks, s.vecs, s.msgs, rfl⟩
theorem wrN_evtOnly (a v : Nat) : EvtOnly s (wrN s a v) := ⟨_, s.marks, s.vecs, s.msgs, rfl⟩
theorem markEvt_evtOnly (pg bit : Nat) : EvtOnly s (markEvt s pg bit) := ⟨s.regs, _, s.vecs, s.msgs, rfl⟩
theorem markCnt_evtOnly (a n : Nat) : EvtOnly s (markCnt s a n) := ⟨s.regs, _, s.vecs, s.msgs, rfl⟩

/-- The state in which an event is set: marked, unless it is a test's. -/
theorem markIf_evtOnly (pg bit : Nat) (test : Bool) : EvtOnly s (if test then s else markEvt s pg bit) := by
  split
  · exact EvtOnly.refl s
  · exact markEvt_evtOnly _ _

theorem rdN_markIf (pg bit : Nat) (test : Bool) (a : Nat) : rdN (if test then s else markEvt s pg bit) a = rdN s a := by
  split <;> rfl

/-- An interrupt message changes no register. -/
theorem sendMsi_only (fn v : Nat) : ∃ x m, sendMsi s fn v = { s with vecs := x, msgs := m } := by
  unfold sendMsi
  split
  · exact ⟨_, s.msgs, rfl⟩
  · exact ⟨s.vecs, _, rfl⟩

theorem irqVec_only (a b : State) (c : Bool) (fn v : Nat) : ∃ x m, irqVec a b c s fn v = { s with vecs := x, msgs := m } := by
  unfold irqVec
  split
  · exact sendMsi_only fn v
  · exact ⟨s.vecs, s.msgs, rfl⟩

/-- The interrupts that follow a change of a page write no register. -/
theorem irqSync_only (a : State) (pg : Nat) (c : Bool) : ∃ x m, irqSync a s pg c = { s with vecs := x, msgs := m } := by
  unfold irqSync
  dsimp only
  have h0 : ∃ x m, (if bitAt (route s pg) 31 = true then irqVec a s c s 0 (fld (route s pg) 0 10) else s) = { s with vecs := x, msgs := m } := by
    split
    · exact irqVec_only a s c 0 _
    · exact ⟨s.vecs, s.msgs, rfl⟩
  generalize (if bitAt (route s pg) 31 = true then irqVec a s c s 0 (fld (route s pg) 0 10) else s) = u at h0
  generalize List.range (numVfs s) = l
  induction l generalizing u with
  | nil => exact h0
  | cons k l ih =>
    apply ih
    obtain ⟨x, m, rfl⟩ := h0
    dsimp only
    split
    · obtain ⟨x', m', e⟩ := irqVec_only (s := { s with vecs := x, msgs := m }) a s c (k + 1) ‹_›
      exact ⟨x', m', e⟩
    · exact ⟨x, m, rfl⟩

@[simp] theorem irqSync_regs (a : State) (pg : Nat) (c : Bool) : (irqSync a s pg c).regs = s.regs := by
  obtain ⟨x, m, e⟩ := irqSync_only (s := s) a pg c; rw [e]

@[simp] theorem rd_irqSync (a : State) (pg : Nat) (c : Bool) (b : Nat) : rd (irqSync a s pg c) b = rd s b := rd_of_regs (by simp) b
@[simp] theorem rdN_irqSync (a : State) (pg : Nat) (c : Bool) (b : Nat) : rdN (irqSync a s pg c) b = rdN s b := rdN_of_regs (by simp) b

theorem irqSync_evtOnly (a : State) (pg : Nat) (c : Bool) : EvtOnly s (irqSync a s pg c) := by
  obtain ⟨x, m, e⟩ := irqSync_only (s := s) a pg c
  exact ⟨s.regs, s.marks, x, m, e⟩

theorem capture_evtOnly (pg bit : Nat) (test : Bool) (d : Nat) : EvtOnly s (capture s pg bit test d) := by
  unfold capture
  split
  · exact EvtOnly.refl s
  · exact (((wrN_evtOnly _ _).trans (wrN_evtOnly _ _)).trans (wrN_evtOnly _ _)).trans (wrN_evtOnly _ _)

/-- A capture writes the four capture words of its page only. -/
theorem rdN_capture (pg bit : Nat) (test : Bool) (d a : Nat) (h : a ≠ pg + 0x20 ∧ a ≠ pg + 0x24 ∧ a ≠ pg + 0x28 ∧ a ≠ pg + 0x2C) :
    rdN (capture s pg bit test d) a = rdN s a := by
  unfold capture
  split
  · rfl
  · rw [rdN_wrN_ne _ h.2.2.2, rdN_wrN_ne _ h.2.2.1, rdN_wrN_ne _ h.2.1, rdN_wrN_ne _ h.1]

/-- What setting an event leaves alone (R7, R8). -/
theorem setEvtT_evtOnly (pg bit : Nat) (test : Bool) (d : Nat) : EvtOnly s (setEvtT s pg bit test d) := by
  unfold setEvtT
  refine EvtOnly.trans (markIf_evtOnly pg bit test) ?_
  dsimp only
  generalize (if test = true then s else markEvt s pg bit) = m
  refine EvtOnly.trans ?_ (irqSync_evtOnly _ _ _)
  split
  all_goals
    split
    · exact (wrN_evtOnly _ _).trans (capture_evtOnly _ _ _ _)
    · exact wrN_evtOnly _ _

theorem setEvt_evtOnly (pg bit d : Nat) : EvtOnly s (setEvt s pg bit d) := setEvtT_evtOnly pg bit false d

/-- The event's bit joins PG_EVT (R7). -/
theorem rdN_setEvtT_evt (pg bit : Nat) (test : Bool) (d : Nat) :
    rdN (setEvtT s pg bit test d) (pg + 0x14) = Nat.lor (rdN s (pg + 0x14)) (2 ^ bit) % 2 ^ 32 := by
  unfold setEvtT
  dsimp only
  rw [rdN_irqSync]
  split
  all_goals
    split
    · rw [rdN_capture _ _ _ _ _ (by omega)]; simp
    · simp

theorem rdN_setEvt_evt (pg bit d : Nat) : rdN (setEvt s pg bit d) (pg + 0x14) = Nat.lor (rdN s (pg + 0x14)) (2 ^ bit) % 2 ^ 32 :=
  rdN_setEvtT_evt pg bit false d

/-- The PG_EVT bit reads 1 after the event. -/
theorem rb_setEvtT (pg bit : Nat) (test : Bool) (d : Nat) (h : bit < 32) : rb (setEvtT s pg bit test d) (pg + 0x14) bit = true := by
  unfold rb bitAt
  rw [rdN_setEvtT_evt, Nat.testBit_mod_two_pow]
  have e : ((rdN s (pg + 0x14)).lor (2 ^ bit)).testBit bit = true := by
    have := Nat.testBit_or (rdN s (pg + 0x14)) (2 ^ bit) bit
    rw [Nat.testBit_two_pow_self, Bool.or_true] at this
    exact this
  rw [e]; simp [h]

theorem rb_setEvt (pg bit d : Nat) (h : bit < 32) : rb (setEvt s pg bit d) (pg + 0x14) bit = true := rb_setEvtT pg bit false d h

/-- Registers other than PG_EVT and the capture of the page are as before. -/
theorem rdN_setEvtT_ne (pg bit : Nat) (test : Bool) (d a : Nat)
    (h : a ≠ pg + 0x14 ∧ a ≠ pg + 0x20 ∧ a ≠ pg + 0x24 ∧ a ≠ pg + 0x28 ∧ a ≠ pg + 0x2C) :
    rdN (setEvtT s pg bit test d) a = rdN s a := by
  unfold setEvtT
  dsimp only
  rw [rdN_irqSync]
  split
  all_goals
    split
    · rw [rdN_capture _ _ _ _ _ ⟨h.2.1, h.2.2.1, h.2.2.2.1, h.2.2.2.2⟩, rdN_wrN_ne _ h.1, rdN_markIf]
    · rw [rdN_wrN_ne _ h.1, rdN_markIf]

theorem rdN_setEvt_ne (pg bit d a : Nat) (h : a ≠ pg + 0x14 ∧ a ≠ pg + 0x20 ∧ a ≠ pg + 0x24 ∧ a ≠ pg + 0x28 ∧ a ≠ pg + 0x2C) :
    rdN (setEvt s pg bit d) a = rdN s a := rdN_setEvtT_ne pg bit false d a h

theorem bumpBy_evtOnly (pg off n : Nat) : EvtOnly s (bumpBy s pg off n) := by
  unfold bumpBy
  split
  · exact EvtOnly.refl s
  · split
    · dsimp only
      refine EvtOnly.trans (markCnt_evtOnly (pg + off) n) ?_
      split
      · exact wrN_evtOnly _ _
      · split
        · exact wrN_evtOnly _ _
        · exact ((wrN_evtOnly _ _).trans (wrN_evtOnly _ _)).trans (setEvt_evtOnly _ _ _)
    · exact EvtOnly.refl s

theorem bump_evtOnly (pg off : Nat) : EvtOnly s (bump s pg off) := bumpBy_evtOnly pg off 1


@[simp] theorem setEvtT_pending (pg bit : Nat) (test : Bool) (d : Nat) : (setEvtT s pg bit test d).pending = s.pending := (setEvtT_evtOnly pg bit test d).pending
@[simp] theorem setEvtT_free (pg bit : Nat) (test : Bool) (d : Nat) : (setEvtT s pg bit test d).free = s.free := (setEvtT_evtOnly pg bit test d).free
@[simp] theorem setEvtT_clk (pg bit : Nat) (test : Bool) (d : Nat) : (setEvtT s pg bit test d).clk = s.clk := (setEvtT_evtOnly pg bit test d).clk
@[simp] theorem setEvtT_latch (pg bit : Nat) (test : Bool) (d : Nat) : (setEvtT s pg bit test d).latch = s.latch := (setEvtT_evtOnly pg bit test d).latch
@[simp] theorem setEvtT_vfEn (pg bit : Nat) (test : Bool) (d : Nat) : (setEvtT s pg bit test d).vfEn = s.vfEn := (setEvtT_evtOnly pg bit test d).vfEn
@[simp] theorem setEvtT_clw (pg bit : Nat) (test : Bool) (d : Nat) : (setEvtT s pg bit test d).clw = s.clw := (setEvtT_evtOnly pg bit test d).clw
@[simp] theorem setEvtT_rdata (pg bit : Nat) (test : Bool) (d : Nat) : (setEvtT s pg bit test d).rdata = s.rdata := (setEvtT_evtOnly pg bit test d).rdata
@[simp] theorem setEvtT_parts (pg bit : Nat) (test : Bool) (d : Nat) : (setEvtT s pg bit test d).parts = s.parts := (setEvtT_evtOnly pg bit test d).parts
@[simp] theorem setEvtT_pacc (pg bit : Nat) (test : Bool) (d : Nat) : (setEvtT s pg bit test d).pacc = s.pacc := (setEvtT_evtOnly pg bit test d).pacc
@[simp] theorem setEvtT_lanes (pg bit : Nat) (test : Bool) (d : Nat) : (setEvtT s pg bit test d).lanes = s.lanes := (setEvtT_evtOnly pg bit test d).lanes
@[simp] theorem setEvtT_strms (pg bit : Nat) (test : Bool) (d : Nat) : (setEvtT s pg bit test d).strms = s.strms := (setEvtT_evtOnly pg bit test d).strms
@[simp] theorem setEvtT_clus (pg bit : Nat) (test : Bool) (d : Nat) : (setEvtT s pg bit test d).clus = s.clus := (setEvtT_evtOnly pg bit test d).clus
@[simp] theorem setEvtT_slots (pg bit : Nat) (test : Bool) (d : Nat) : (setEvtT s pg bit test d).slots = s.slots := (setEvtT_evtOnly pg bit test d).slots
@[simp] theorem setEvtT_htab (pg bit : Nat) (test : Bool) (d : Nat) : (setEvtT s pg bit test d).htab = s.htab := (setEvtT_evtOnly pg bit test d).htab
@[simp] theorem setEvtT_bundles (pg bit : Nat) (test : Bool) (d : Nat) : (setEvtT s pg bit test d).bundles = s.bundles := (setEvtT_evtOnly pg bit test d).bundles
@[simp] theorem setEvtT_ccmem (pg bit : Nat) (test : Bool) (d : Nat) : (setEvtT s pg bit test d).ccmem = s.ccmem := (setEvtT_evtOnly pg bit test d).ccmem
@[simp] theorem setEvtT_hbm (pg bit : Nat) (test : Bool) (d : Nat) : (setEvtT s pg bit test d).hbm = s.hbm := (setEvtT_evtOnly pg bit test d).hbm
@[simp] theorem setEvtT_hbmBad (pg bit : Nat) (test : Bool) (d : Nat) : (setEvtT s pg bit test d).hbmBad = s.hbmBad := (setEvtT_evtOnly pg bit test d).hbmBad
@[simp] theorem setEvtT_meeBad (pg bit : Nat) (test : Bool) (d : Nat) : (setEvtT s pg bit test d).meeBad = s.meeBad := (setEvtT_evtOnly pg bit test d).meeBad
@[simp] theorem setEvtT_hbmCe (pg bit : Nat) (test : Bool) (d : Nat) : (setEvtT s pg bit test d).hbmCe = s.hbmCe := (setEvtT_evtOnly pg bit test d).hbmCe
@[simp] theorem setEvtT_hostMem (pg bit : Nat) (test : Bool) (d : Nat) : (setEvtT s pg bit test d).hostMem = s.hostMem := (setEvtT_evtOnly pg bit test d).hostMem
@[simp] theorem setEvtT_emis (pg bit : Nat) (test : Bool) (d : Nat) : (setEvtT s pg bit test d).emis = s.emis := (setEvtT_evtOnly pg bit test d).emis
@[simp] theorem setEvtT_emLost (pg bit : Nat) (test : Bool) (d : Nat) : (setEvtT s pg bit test d).emLost = s.emLost := (setEvtT_evtOnly pg bit test d).emLost
@[simp] theorem setEvtT_ings (pg bit : Nat) (test : Bool) (d : Nat) : (setEvtT s pg bit test d).ings = s.ings := (setEvtT_evtOnly pg bit test d).ings
@[simp] theorem setEvtT_ports (pg bit : Nat) (test : Bool) (d : Nat) : (setEvtT s pg bit test d).ports = s.ports := (setEvtT_evtOnly pg bit test d).ports
@[simp] theorem setEvtT_keys (pg bit : Nat) (test : Bool) (d : Nat) : (setEvtT s pg bit test d).keys = s.keys := (setEvtT_evtOnly pg bit test d).keys
@[simp] theorem setEvtT_bg (pg bit : Nat) (test : Bool) (d : Nat) : (setEvtT s pg bit test d).bg = s.bg := (setEvtT_evtOnly pg bit test d).bg
@[simp] theorem setEvtT_noc (pg bit : Nat) (test : Bool) (d : Nat) : (setEvtT s pg bit test d).noc = s.noc := (setEvtT_evtOnly pg bit test d).noc
@[simp] theorem setEvtT_cores (pg bit : Nat) (test : Bool) (d : Nat) : (setEvtT s pg bit test d).cores = s.cores := (setEvtT_evtOnly pg bit test d).cores
@[simp] theorem setEvtT_lports (pg bit : Nat) (test : Bool) (d : Nat) : (setEvtT s pg bit test d).lports = s.lports := (setEvtT_evtOnly pg bit test d).lports
@[simp] theorem setEvtT_bly (pg bit : Nat) (test : Bool) (d : Nat) : (setEvtT s pg bit test d).bly = s.bly := (setEvtT_evtOnly pg bit test d).bly
@[simp] theorem setEvtT_sess (pg bit : Nat) (test : Bool) (d : Nat) : (setEvtT s pg bit test d).sess = s.sess := (setEvtT_evtOnly pg bit test d).sess
@[simp] theorem setEvtT_spdm (pg bit : Nat) (test : Bool) (d : Nat) : (setEvtT s pg bit test d).spdm = s.spdm := (setEvtT_evtOnly pg bit test d).spdm
@[simp] theorem setEvtT_ide (pg bit : Nat) (test : Bool) (d : Nat) : (setEvtT s pg bit test d).ide = s.ide := (setEvtT_evtOnly pg bit test d).ide
@[simp] theorem setEvtT_stdy (pg bit : Nat) (test : Bool) (d : Nat) : (setEvtT s pg bit test d).stdy = s.stdy := (setEvtT_evtOnly pg bit test d).stdy
@[simp] theorem setEvtT_aer (pg bit : Nat) (test : Bool) (d : Nat) : (setEvtT s pg bit test d).aer = s.aer := (setEvtT_evtOnly pg bit test d).aer
@[simp] theorem setEvtT_sirvi (pg bit : Nat) (test : Bool) (d : Nat) : (setEvtT s pg bit test d).sirvi = s.sirvi := (setEvtT_evtOnly pg bit test d).sirvi

@[simp] theorem setEvt_pending (pg bit d : Nat) : (setEvt s pg bit d).pending = s.pending := (setEvt_evtOnly pg bit d).pending
@[simp] theorem setEvt_free (pg bit d : Nat) : (setEvt s pg bit d).free = s.free := (setEvt_evtOnly pg bit d).free
@[simp] theorem setEvt_clk (pg bit d : Nat) : (setEvt s pg bit d).clk = s.clk := (setEvt_evtOnly pg bit d).clk
@[simp] theorem setEvt_latch (pg bit d : Nat) : (setEvt s pg bit d).latch = s.latch := (setEvt_evtOnly pg bit d).latch
@[simp] theorem setEvt_vfEn (pg bit d : Nat) : (setEvt s pg bit d).vfEn = s.vfEn := (setEvt_evtOnly pg bit d).vfEn
@[simp] theorem setEvt_clw (pg bit d : Nat) : (setEvt s pg bit d).clw = s.clw := (setEvt_evtOnly pg bit d).clw
@[simp] theorem setEvt_rdata (pg bit d : Nat) : (setEvt s pg bit d).rdata = s.rdata := (setEvt_evtOnly pg bit d).rdata
@[simp] theorem setEvt_parts (pg bit d : Nat) : (setEvt s pg bit d).parts = s.parts := (setEvt_evtOnly pg bit d).parts
@[simp] theorem setEvt_pacc (pg bit d : Nat) : (setEvt s pg bit d).pacc = s.pacc := (setEvt_evtOnly pg bit d).pacc
@[simp] theorem setEvt_lanes (pg bit d : Nat) : (setEvt s pg bit d).lanes = s.lanes := (setEvt_evtOnly pg bit d).lanes
@[simp] theorem setEvt_strms (pg bit d : Nat) : (setEvt s pg bit d).strms = s.strms := (setEvt_evtOnly pg bit d).strms
@[simp] theorem setEvt_clus (pg bit d : Nat) : (setEvt s pg bit d).clus = s.clus := (setEvt_evtOnly pg bit d).clus
@[simp] theorem setEvt_slots (pg bit d : Nat) : (setEvt s pg bit d).slots = s.slots := (setEvt_evtOnly pg bit d).slots
@[simp] theorem setEvt_htab (pg bit d : Nat) : (setEvt s pg bit d).htab = s.htab := (setEvt_evtOnly pg bit d).htab
@[simp] theorem setEvt_bundles (pg bit d : Nat) : (setEvt s pg bit d).bundles = s.bundles := (setEvt_evtOnly pg bit d).bundles
@[simp] theorem setEvt_ccmem (pg bit d : Nat) : (setEvt s pg bit d).ccmem = s.ccmem := (setEvt_evtOnly pg bit d).ccmem
@[simp] theorem setEvt_hbm (pg bit d : Nat) : (setEvt s pg bit d).hbm = s.hbm := (setEvt_evtOnly pg bit d).hbm
@[simp] theorem setEvt_hbmBad (pg bit d : Nat) : (setEvt s pg bit d).hbmBad = s.hbmBad := (setEvt_evtOnly pg bit d).hbmBad
@[simp] theorem setEvt_meeBad (pg bit d : Nat) : (setEvt s pg bit d).meeBad = s.meeBad := (setEvt_evtOnly pg bit d).meeBad
@[simp] theorem setEvt_hbmCe (pg bit d : Nat) : (setEvt s pg bit d).hbmCe = s.hbmCe := (setEvt_evtOnly pg bit d).hbmCe
@[simp] theorem setEvt_hostMem (pg bit d : Nat) : (setEvt s pg bit d).hostMem = s.hostMem := (setEvt_evtOnly pg bit d).hostMem
@[simp] theorem setEvt_emis (pg bit d : Nat) : (setEvt s pg bit d).emis = s.emis := (setEvt_evtOnly pg bit d).emis
@[simp] theorem setEvt_emLost (pg bit d : Nat) : (setEvt s pg bit d).emLost = s.emLost := (setEvt_evtOnly pg bit d).emLost
@[simp] theorem setEvt_ings (pg bit d : Nat) : (setEvt s pg bit d).ings = s.ings := (setEvt_evtOnly pg bit d).ings
@[simp] theorem setEvt_ports (pg bit d : Nat) : (setEvt s pg bit d).ports = s.ports := (setEvt_evtOnly pg bit d).ports
@[simp] theorem setEvt_keys (pg bit d : Nat) : (setEvt s pg bit d).keys = s.keys := (setEvt_evtOnly pg bit d).keys
@[simp] theorem setEvt_bg (pg bit d : Nat) : (setEvt s pg bit d).bg = s.bg := (setEvt_evtOnly pg bit d).bg
@[simp] theorem setEvt_noc (pg bit d : Nat) : (setEvt s pg bit d).noc = s.noc := (setEvt_evtOnly pg bit d).noc
@[simp] theorem setEvt_cores (pg bit d : Nat) : (setEvt s pg bit d).cores = s.cores := (setEvt_evtOnly pg bit d).cores
@[simp] theorem setEvt_lports (pg bit d : Nat) : (setEvt s pg bit d).lports = s.lports := (setEvt_evtOnly pg bit d).lports
@[simp] theorem setEvt_bly (pg bit d : Nat) : (setEvt s pg bit d).bly = s.bly := (setEvt_evtOnly pg bit d).bly
@[simp] theorem setEvt_sess (pg bit d : Nat) : (setEvt s pg bit d).sess = s.sess := (setEvt_evtOnly pg bit d).sess
@[simp] theorem setEvt_spdm (pg bit d : Nat) : (setEvt s pg bit d).spdm = s.spdm := (setEvt_evtOnly pg bit d).spdm
@[simp] theorem setEvt_ide (pg bit d : Nat) : (setEvt s pg bit d).ide = s.ide := (setEvt_evtOnly pg bit d).ide
@[simp] theorem setEvt_stdy (pg bit d : Nat) : (setEvt s pg bit d).stdy = s.stdy := (setEvt_evtOnly pg bit d).stdy
@[simp] theorem setEvt_aer (pg bit d : Nat) : (setEvt s pg bit d).aer = s.aer := (setEvt_evtOnly pg bit d).aer
@[simp] theorem setEvt_sirvi (pg bit d : Nat) : (setEvt s pg bit d).sirvi = s.sirvi := (setEvt_evtOnly pg bit d).sirvi

@[simp] theorem bump_pending (pg off : Nat) : (bump s pg off).pending = s.pending := (bump_evtOnly pg off).pending
@[simp] theorem bump_free (pg off : Nat) : (bump s pg off).free = s.free := (bump_evtOnly pg off).free
@[simp] theorem bump_clk (pg off : Nat) : (bump s pg off).clk = s.clk := (bump_evtOnly pg off).clk
@[simp] theorem bump_latch (pg off : Nat) : (bump s pg off).latch = s.latch := (bump_evtOnly pg off).latch
@[simp] theorem bump_vfEn (pg off : Nat) : (bump s pg off).vfEn = s.vfEn := (bump_evtOnly pg off).vfEn
@[simp] theorem bump_clw (pg off : Nat) : (bump s pg off).clw = s.clw := (bump_evtOnly pg off).clw
@[simp] theorem bump_rdata (pg off : Nat) : (bump s pg off).rdata = s.rdata := (bump_evtOnly pg off).rdata
@[simp] theorem bump_parts (pg off : Nat) : (bump s pg off).parts = s.parts := (bump_evtOnly pg off).parts
@[simp] theorem bump_pacc (pg off : Nat) : (bump s pg off).pacc = s.pacc := (bump_evtOnly pg off).pacc
@[simp] theorem bump_lanes (pg off : Nat) : (bump s pg off).lanes = s.lanes := (bump_evtOnly pg off).lanes
@[simp] theorem bump_strms (pg off : Nat) : (bump s pg off).strms = s.strms := (bump_evtOnly pg off).strms
@[simp] theorem bump_clus (pg off : Nat) : (bump s pg off).clus = s.clus := (bump_evtOnly pg off).clus
@[simp] theorem bump_slots (pg off : Nat) : (bump s pg off).slots = s.slots := (bump_evtOnly pg off).slots
@[simp] theorem bump_htab (pg off : Nat) : (bump s pg off).htab = s.htab := (bump_evtOnly pg off).htab
@[simp] theorem bump_bundles (pg off : Nat) : (bump s pg off).bundles = s.bundles := (bump_evtOnly pg off).bundles
@[simp] theorem bump_ccmem (pg off : Nat) : (bump s pg off).ccmem = s.ccmem := (bump_evtOnly pg off).ccmem
@[simp] theorem bump_hbm (pg off : Nat) : (bump s pg off).hbm = s.hbm := (bump_evtOnly pg off).hbm
@[simp] theorem bump_hbmBad (pg off : Nat) : (bump s pg off).hbmBad = s.hbmBad := (bump_evtOnly pg off).hbmBad
@[simp] theorem bump_meeBad (pg off : Nat) : (bump s pg off).meeBad = s.meeBad := (bump_evtOnly pg off).meeBad
@[simp] theorem bump_hbmCe (pg off : Nat) : (bump s pg off).hbmCe = s.hbmCe := (bump_evtOnly pg off).hbmCe
@[simp] theorem bump_hostMem (pg off : Nat) : (bump s pg off).hostMem = s.hostMem := (bump_evtOnly pg off).hostMem
@[simp] theorem bump_emis (pg off : Nat) : (bump s pg off).emis = s.emis := (bump_evtOnly pg off).emis
@[simp] theorem bump_emLost (pg off : Nat) : (bump s pg off).emLost = s.emLost := (bump_evtOnly pg off).emLost
@[simp] theorem bump_ings (pg off : Nat) : (bump s pg off).ings = s.ings := (bump_evtOnly pg off).ings
@[simp] theorem bump_ports (pg off : Nat) : (bump s pg off).ports = s.ports := (bump_evtOnly pg off).ports
@[simp] theorem bump_keys (pg off : Nat) : (bump s pg off).keys = s.keys := (bump_evtOnly pg off).keys
@[simp] theorem bump_bg (pg off : Nat) : (bump s pg off).bg = s.bg := (bump_evtOnly pg off).bg
@[simp] theorem bump_noc (pg off : Nat) : (bump s pg off).noc = s.noc := (bump_evtOnly pg off).noc
@[simp] theorem bump_cores (pg off : Nat) : (bump s pg off).cores = s.cores := (bump_evtOnly pg off).cores
@[simp] theorem bump_lports (pg off : Nat) : (bump s pg off).lports = s.lports := (bump_evtOnly pg off).lports
@[simp] theorem bump_bly (pg off : Nat) : (bump s pg off).bly = s.bly := (bump_evtOnly pg off).bly
@[simp] theorem bump_sess (pg off : Nat) : (bump s pg off).sess = s.sess := (bump_evtOnly pg off).sess
@[simp] theorem bump_spdm (pg off : Nat) : (bump s pg off).spdm = s.spdm := (bump_evtOnly pg off).spdm
@[simp] theorem bump_ide (pg off : Nat) : (bump s pg off).ide = s.ide := (bump_evtOnly pg off).ide
@[simp] theorem bump_stdy (pg off : Nat) : (bump s pg off).stdy = s.stdy := (bump_evtOnly pg off).stdy
@[simp] theorem bump_aer (pg off : Nat) : (bump s pg off).aer = s.aer := (bump_evtOnly pg off).aer
@[simp] theorem bump_sirvi (pg off : Nat) : (bump s pg off).sirvi = s.sirvi := (bump_evtOnly pg off).sirvi

@[simp] theorem irqSync_pending (a : State) (pg : Nat) (c : Bool) : (irqSync a s pg c).pending = s.pending := (irqSync_evtOnly a pg c).pending
@[simp] theorem irqSync_free (a : State) (pg : Nat) (c : Bool) : (irqSync a s pg c).free = s.free := (irqSync_evtOnly a pg c).free
@[simp] theorem irqSync_clk (a : State) (pg : Nat) (c : Bool) : (irqSync a s pg c).clk = s.clk := (irqSync_evtOnly a pg c).clk
@[simp] theorem irqSync_latch (a : State) (pg : Nat) (c : Bool) : (irqSync a s pg c).latch = s.latch := (irqSync_evtOnly a pg c).latch
@[simp] theorem irqSync_vfEn (a : State) (pg : Nat) (c : Bool) : (irqSync a s pg c).vfEn = s.vfEn := (irqSync_evtOnly a pg c).vfEn
@[simp] theorem irqSync_clw (a : State) (pg : Nat) (c : Bool) : (irqSync a s pg c).clw = s.clw := (irqSync_evtOnly a pg c).clw
@[simp] theorem irqSync_rdata (a : State) (pg : Nat) (c : Bool) : (irqSync a s pg c).rdata = s.rdata := (irqSync_evtOnly a pg c).rdata
@[simp] theorem irqSync_parts (a : State) (pg : Nat) (c : Bool) : (irqSync a s pg c).parts = s.parts := (irqSync_evtOnly a pg c).parts
@[simp] theorem irqSync_pacc (a : State) (pg : Nat) (c : Bool) : (irqSync a s pg c).pacc = s.pacc := (irqSync_evtOnly a pg c).pacc
@[simp] theorem irqSync_lanes (a : State) (pg : Nat) (c : Bool) : (irqSync a s pg c).lanes = s.lanes := (irqSync_evtOnly a pg c).lanes
@[simp] theorem irqSync_strms (a : State) (pg : Nat) (c : Bool) : (irqSync a s pg c).strms = s.strms := (irqSync_evtOnly a pg c).strms
@[simp] theorem irqSync_clus (a : State) (pg : Nat) (c : Bool) : (irqSync a s pg c).clus = s.clus := (irqSync_evtOnly a pg c).clus
@[simp] theorem irqSync_slots (a : State) (pg : Nat) (c : Bool) : (irqSync a s pg c).slots = s.slots := (irqSync_evtOnly a pg c).slots
@[simp] theorem irqSync_htab (a : State) (pg : Nat) (c : Bool) : (irqSync a s pg c).htab = s.htab := (irqSync_evtOnly a pg c).htab
@[simp] theorem irqSync_bundles (a : State) (pg : Nat) (c : Bool) : (irqSync a s pg c).bundles = s.bundles := (irqSync_evtOnly a pg c).bundles
@[simp] theorem irqSync_ccmem (a : State) (pg : Nat) (c : Bool) : (irqSync a s pg c).ccmem = s.ccmem := (irqSync_evtOnly a pg c).ccmem
@[simp] theorem irqSync_hbm (a : State) (pg : Nat) (c : Bool) : (irqSync a s pg c).hbm = s.hbm := (irqSync_evtOnly a pg c).hbm
@[simp] theorem irqSync_hbmBad (a : State) (pg : Nat) (c : Bool) : (irqSync a s pg c).hbmBad = s.hbmBad := (irqSync_evtOnly a pg c).hbmBad
@[simp] theorem irqSync_meeBad (a : State) (pg : Nat) (c : Bool) : (irqSync a s pg c).meeBad = s.meeBad := (irqSync_evtOnly a pg c).meeBad
@[simp] theorem irqSync_hbmCe (a : State) (pg : Nat) (c : Bool) : (irqSync a s pg c).hbmCe = s.hbmCe := (irqSync_evtOnly a pg c).hbmCe
@[simp] theorem irqSync_hostMem (a : State) (pg : Nat) (c : Bool) : (irqSync a s pg c).hostMem = s.hostMem := (irqSync_evtOnly a pg c).hostMem
@[simp] theorem irqSync_emis (a : State) (pg : Nat) (c : Bool) : (irqSync a s pg c).emis = s.emis := (irqSync_evtOnly a pg c).emis
@[simp] theorem irqSync_emLost (a : State) (pg : Nat) (c : Bool) : (irqSync a s pg c).emLost = s.emLost := (irqSync_evtOnly a pg c).emLost
@[simp] theorem irqSync_ings (a : State) (pg : Nat) (c : Bool) : (irqSync a s pg c).ings = s.ings := (irqSync_evtOnly a pg c).ings
@[simp] theorem irqSync_ports (a : State) (pg : Nat) (c : Bool) : (irqSync a s pg c).ports = s.ports := (irqSync_evtOnly a pg c).ports
@[simp] theorem irqSync_keys (a : State) (pg : Nat) (c : Bool) : (irqSync a s pg c).keys = s.keys := (irqSync_evtOnly a pg c).keys
@[simp] theorem irqSync_bg (a : State) (pg : Nat) (c : Bool) : (irqSync a s pg c).bg = s.bg := (irqSync_evtOnly a pg c).bg
@[simp] theorem irqSync_noc (a : State) (pg : Nat) (c : Bool) : (irqSync a s pg c).noc = s.noc := (irqSync_evtOnly a pg c).noc
@[simp] theorem irqSync_cores (a : State) (pg : Nat) (c : Bool) : (irqSync a s pg c).cores = s.cores := (irqSync_evtOnly a pg c).cores
@[simp] theorem irqSync_lports (a : State) (pg : Nat) (c : Bool) : (irqSync a s pg c).lports = s.lports := (irqSync_evtOnly a pg c).lports
@[simp] theorem irqSync_bly (a : State) (pg : Nat) (c : Bool) : (irqSync a s pg c).bly = s.bly := (irqSync_evtOnly a pg c).bly
@[simp] theorem irqSync_sess (a : State) (pg : Nat) (c : Bool) : (irqSync a s pg c).sess = s.sess := (irqSync_evtOnly a pg c).sess
@[simp] theorem irqSync_spdm (a : State) (pg : Nat) (c : Bool) : (irqSync a s pg c).spdm = s.spdm := (irqSync_evtOnly a pg c).spdm
@[simp] theorem irqSync_ide (a : State) (pg : Nat) (c : Bool) : (irqSync a s pg c).ide = s.ide := (irqSync_evtOnly a pg c).ide
@[simp] theorem irqSync_stdy (a : State) (pg : Nat) (c : Bool) : (irqSync a s pg c).stdy = s.stdy := (irqSync_evtOnly a pg c).stdy
@[simp] theorem irqSync_aer (a : State) (pg : Nat) (c : Bool) : (irqSync a s pg c).aer = s.aer := (irqSync_evtOnly a pg c).aer
@[simp] theorem irqSync_sirvi (a : State) (pg : Nat) (c : Bool) : (irqSync a s pg c).sirvi = s.sirvi := (irqSync_evtOnly a pg c).sirvi

@[simp] theorem part_setEvt (pg bit d n : Nat) : part (setEvt s pg bit d) n = part s n := part_of_parts (by simp) n
@[simp] theorem part_bump (pg off n : Nat) : part (bump s pg off) n = part s n := part_of_parts (by simp) n
@[simp] theorem strm_setEvt (pg bit d h : Nat) : strm (setEvt s pg bit d) h = strm s h := strm_of_strms (by simp) h
@[simp] theorem clu_setEvt (pg bit d c : Nat) : clu (setEvt s pg bit d) c = clu s c := clu_of_clus (by simp) c
@[simp] theorem clu_bump (pg off c : Nat) : clu (bump s pg off) c = clu s c := clu_of_clus (by simp) c
@[simp] theorem rd_modPart (n : Nat) (f : Part → Part) (a : Nat) : rd (modPart s n f) a = rd s a := rfl
@[simp] theorem rdN_modPart (n : Nat) (f : Part → Part) (a : Nat) : rdN (modPart s n f) a = rdN s a := rfl
@[simp] theorem clu_modPart (n : Nat) (f : Part → Part) (c : Nat) : clu (modPart s n f) c = clu s c := rfl
@[simp] theorem part_modClu (c : Nat) (f : Clus → Clus) (n : Nat) : part (modClu s c f) n = part s n := rfl
@[simp] theorem rd_modClu (c : Nat) (f : Clus → Clus) (a : Nat) : rd (modClu s c f) a = rd s a := rfl
@[simp] theorem part_wrN (a v n : Nat) : part (wrN s a v) n = part s n := rfl
@[simp] theorem part_wr (a : Nat) (v : Word) (n : Nat) : part (wr s a v) n = part s n := rfl

/-! ## Partition commands -/

/-- A rejected command names its cause, raises CMD_REJ and changes no state (02_partitions_pitches R42). -/
theorem cmdReject_part (n k m : Nat) : part (cmdReject s n k) m = if m = n then { part s n with rej := k } else part s m := by
  unfold cmdReject
  rw [part_setEvt, part_modPart]

theorem cmdReject_evt (n k : Nat) : rb (cmdReject s n k) (partPg n + 0x14) 1 = true := rb_setEvt _ _ _ (by decide)

theorem setSt_part (n : Nat) (st : PState) : (part (setSt s n st) n).st = st := by
  unfold setSt
  split
  · assumption
  · simp

/-- A change of STATE raises STATE_CHG. -/
theorem setSt_evt (n : Nat) (st : PState) (h : (part s n).st ≠ st) : rb (setSt s n st) (partPg n + 0x14) 0 = true := by
  unfold setSt
  rw [if_neg h]
  exact rb_setEvt _ _ _ (by decide)

/-! ## Time -/

/-- The passing of time moves the timebase and the cycle count only. -/
theorem toCycle_form (c : Nat) : ∃ tb rem cyc, toCycle s c = { s with clk := { s.clk with tb := tb, rem := rem, cyc := cyc } } := ⟨_, _, _, rfl⟩

theorem toTb_tb {t : Nat} (h : s.clk.tb ≤ t) : (toTb s t).clk.tb = t := by
  unfold toTb
  split
  · omega
  · rfl

end Sys2Proof.Machine
end

