-- ==== Sys2Proof/Laws/Issue.lean ====
section
/-!
SUPPORT. What issuing an op does, said once (03_tick_programs R80-R83; 09_memory R255, R260, R266): the plans of the enabled cores run as a
job fault, a freeze, or the op itself, which marks its part of the bundle done, changes the engines it changes at once, and puts every plan's
effects and later reads in flight (`opRuns_of`).
-/
namespace Sys2Proof.Machine

set_option Elab.async false

variable {s : State}

/-! ## Plans -/

/-- The plans that succeed are the plans. -/
theorem plans_inr (l : List (Nat × Plan)) : plans (l.map fun p => (p.1, .inr p.2)) = .inr l := by
  induction l with
  | nil => rfl
  | cons p l ih =>
    simp only [plans, List.map_cons, List.foldr_cons] at ih ⊢
    rw [ih]

/-- A first plan that is refused gives its cause. -/
theorem plans_inl (k cause : Nat) (l : List (Nat × Sum Nat Plan)) : plans ((k, .inl cause) :: l) = .inl cause := rfl

/-- Plans that succeed stand for the same cores. -/
theorem plans_keys {l : List (Nat × Sum Nat Plan)} {ps : List (Nat × Plan)} (h : plans l = .inr ps) : ps.map Prod.fst = l.map Prod.fst := by
  induction l generalizing ps with
  | nil => cases h; rfl
  | cons p l ih =>
    have e : plans (p :: l) = (match p.2, plans l with
      | .inl k, _ => .inl k
      | .inr _, .inl k => .inl k
      | .inr x, .inr q => .inr ((p.1, x) :: q)) := rfl
    rw [e] at h
    split at h
    · cases h
    · cases h
    · rename_i hq; cases h; simp [ih hq]

/-! ## What reads and charges leave alone -/

/-- `t` has the engines and the clusters of `s`. -/
def SameRun (s t : State) : Prop := t.cores = s.cores ∧ t.clus = s.clus

theorem SameRun.refl (s : State) : SameRun s s := ⟨rfl, rfl⟩
theorem SameRun.trans {a b c : State} (h : SameRun a b) (k : SameRun b c) : SameRun a c := ⟨k.1.trans h.1, k.2.trans h.2⟩
theorem EvtOnly.sameRun {a b : State} (h : EvtOnly a b) : SameRun a b := ⟨h.cores, h.clus⟩

theorem correct_sameRun (core i : Nat) (w : List Nat) : SameRun s (correct s core i w) := by
  unfold correct
  dsimp only
  split
  · exact SameRun.refl s
  · exact SameRun.trans (b := modSlot s core i _) ⟨rfl, rfl⟩ (bumpBy_evtOnly _ _ _).sameRun

theorem countUe_sameRun (core i : Nat) (w : List Nat) : SameRun s (countUe s core i w) := by
  unfold countUe
  split
  · exact SameRun.refl s
  · dsimp only
    split
    · exact (bumpBy_evtOnly _ _ _).sameRun
    · exact (bumpBy_evtOnly _ _ _).sameRun.trans ⟨rfl, rfl⟩

theorem charge_sameRun (n : Nat) (f : Acc → Acc) : SameRun s (charge s n f) := by
  unfold charge
  dsimp only
  split
  · exact SameRun.refl s
  · exact ⟨rfl, rfl⟩

theorem countBytes_sameRun (n k : Nat) : SameRun s (countBytes s n k) := by
  unfold countBytes
  split
  · exact SameRun.refl s
  · exact charge_sameRun _ _

theorem readAll_sameRun (l : List Rd) : SameRun s (readAll s l) := by
  induction l generalizing s with
  | nil => exact SameRun.refl s
  | cons x l ih =>
    refine SameRun.trans ?_ ih
    dsimp only
    split
    · exact ((correct_sameRun _ _ _).trans (countUe_sameRun _ _ _)).trans (countBytes_sameRun _ _)
    · exact SameRun.refl s

/-! ## What each part of issuing does to its cluster -/

/-- What issuing an op keeps of its cluster until its effects are put in flight: place, parts done, effects and runs. -/
def SameIssue (c : Nat) (s t : State) : Prop :=
  (clu t c).icyc = (clu s c).icyc ∧ (clu t c).did = (clu s c).did ∧ (clu t c).effs = (clu s c).effs ∧ (clu t c).runs = (clu s c).runs

theorem SameIssue.refl (c : Nat) (s : State) : SameIssue c s s := ⟨rfl, rfl, rfl, rfl⟩
theorem SameIssue.trans {c : Nat} {a b d : State} (h : SameIssue c a b) (k : SameIssue c b d) : SameIssue c a d :=
  ⟨k.1.trans h.1, k.2.1.trans h.2.1, k.2.2.1.trans h.2.2.1, k.2.2.2.trans h.2.2.2⟩
theorem SameRun.issue {c : Nat} {a b : State} (h : SameRun a b) : SameIssue c a b := by
  unfold SameIssue; rw [clu_of_clus h.2]; exact ⟨rfl, rfl, rfl, rfl⟩

theorem chargePort_issue (c : Nat) (l : List Rd) : SameIssue c s (chargePort s c l) := by
  unfold chargePort SameIssue
  dsimp only
  split
  · exact ⟨rfl, rfl, rfl, rfl⟩
  · rw [clu_modClu_same]; exact ⟨rfl, rfl, rfl, rfl⟩

theorem chargePort_cores (c : Nat) (l : List Rd) : (chargePort s c l).cores = s.cores := by
  unfold chargePort
  dsimp only
  split <;> rfl

theorem bookUntil_cores (c k t : Nat) (u : List Nat) : (bookUntil s c k t u).cores = s.cores := rfl

theorem startAttn_issue (c k t : Nat) (u : List Nat) (r : AttnRun) :
    SameIssue c s (bookUntil (modClu s c fun x => { x with attn := x.attn ++ [r] }) c k t u) := by
  unfold SameIssue bookUntil; rw [clu_modClu_same, clu_modClu_same]; exact ⟨rfl, rfl, rfl, rfl⟩

/-- One plan starts: of the engines only its core's change, to what the plan says. -/
theorem startPlan_run (c : Nat) (p : Nat × Plan) :
    SameIssue c s (startPlan c s p) ∧ (startPlan c s p).cores = match p.2.post with | x :: _ => smSet {} s.cores p.1 x | [] => s.cores := by
  unfold startPlan
  dsimp only
  have h : ∀ (l : List AttnRun) (u : State),
      SameIssue c u (each u l fun s r => bookUntil (modClu s c fun x => { x with attn := x.attn ++ [r] }) c p.1
        (r.last + attnEnd (atFin r) (adOfmt r.desc)) [0, 1, 2]) ∧
      (each u l fun s r => bookUntil (modClu s c fun x => { x with attn := x.attn ++ [r] }) c p.1
        (r.last + attnEnd (atFin r) (adOfmt r.desc)) [0, 1, 2]).cores = u.cores := by
    intro l
    induction l with
    | nil => exact fun u => ⟨SameIssue.refl c u, rfl⟩
    | cons r l ih => exact fun u => ⟨(startAttn_issue c _ _ _ r).trans (ih _).1, (ih _).2⟩
  cases p.2.post with
  | nil => exact h _ _
  | cons x l => exact ⟨(show SameIssue c s (setCore s p.1 x) from ⟨rfl, rfl, rfl, rfl⟩).trans (h _ _).1, (h _ _).2⟩

theorem startPlans_issue (c : Nat) (ps : List (Nat × Plan)) : SameIssue c s (each s ps (startPlan c)) := by
  induction ps generalizing s with
  | nil => exact SameIssue.refl c s
  | cons p ps ih => exact (startPlan_run c p).1.trans ih

theorem coreAt_startPlan (c k : Nat) (p : Nat × Plan) (h : k ≠ p.1) : coreAt (startPlan c s p) k = coreAt s k := by
  unfold coreAt
  rw [(startPlan_run c p).2]
  split
  · rw [smGet_smSet]; simp [h]
  · rfl

theorem coreAt_startPlans_other (c k : Nat) (ps : List (Nat × Plan)) (h : k ∉ ps.map Prod.fst) :
    coreAt (each s ps (startPlan c)) k = coreAt s k := by
  induction ps generalizing s with
  | nil => rfl
  | cons p ps ih =>
    simp only [List.map_cons, List.mem_cons, not_or] at h
    exact (ih h.2).trans (coreAt_startPlan c k p h.1)

/-- Distinct cores' plans start: each engine that a plan changes stands as it says. -/
theorem coreAt_startPlans (c : Nat) (ps : List (Nat × Plan)) (hd : (ps.map Prod.fst).Nodup) {p : Nat × Plan} (hp : p ∈ ps) {x : Core}
    (hx : x ∈ p.2.post.head?) : coreAt (each s ps (startPlan c)) p.1 = x := by
  induction ps generalizing s with
  | nil => simp at hp
  | cons q ps ih =>
    simp only [List.map_cons, List.nodup_cons] at hd
    have e : each s (q :: ps) (startPlan c) = each (startPlan c s q) ps (startPlan c) := rfl
    rw [e]
    rcases List.mem_cons.mp hp with rfl | hp
    · rw [coreAt_startPlans_other c _ ps hd.1]
      unfold coreAt
      rw [(startPlan_run c p).2]
      cases hq : p.2.post with
      | nil => simp [hq] at hx
      | cons y r => simp [hq] at hx; subst hx; simp
    · exact ih hd.2 hp

theorem clu_markDid (c k : Nat) : clu (markDid s c k) c = { clu s c with did := k :: (clu s c).did } := by
  unfold markDid; rw [clu_modClu_same]; rfl

theorem clu_countOp (c : Nat) (us : USlot) (d : Nat) : clu (countOp s c us) d = clu s d := by
  unfold countOp
  dsimp only
  split
  · rfl
  · exact clu_of_clus (charge_sameRun _ _).2 d

theorem cores_countOp (c : Nat) (us : USlot) : (countOp s c us).cores = s.cores := by
  unfold countOp
  dsimp only
  split
  · rfl
  · exact (charge_sameRun _ _).1

theorem clu_later (c : Nat) (l : List (Nat × Eff)) :
    clu (later s c l) c = { clu s c with effs := (clu s c).effs ++ l.map fun p => ((clu s c).icyc + p.1, p.2) } := by
  unfold later
  split
  · rename_i h; subst h; simp
  · rw [clu_modClu_same]

theorem mem_insBy {α : Type} (key : α → Nat) (x y : α) (l : List α) : y ∈ insBy key x l ↔ y = x ∨ y ∈ l := by
  induction l with
  | nil => simp [insBy]
  | cons z l ih =>
    unfold insBy
    split
    · simp
    · simp [ih]; tauto

theorem mem_insAll (key : OpRun → Nat) (l a : List OpRun) (y : OpRun) : y ∈ l.foldl (fun a r => insBy key r a) a ↔ y ∈ a ∨ y ∈ l := by
  induction l generalizing a with
  | nil => simp
  | cons r l ih => simp [List.foldl_cons, ih, mem_insBy]; tauto

/-- Runs that begin join the cluster's; nothing else of it changes. -/
theorem clu_addRuns (c : Nat) (l : List OpRun) :
    (∀ r, r ∈ (clu (addRuns s c l) c).runs ↔ r ∈ (clu s c).runs ∨ r ∈ l) ∧ (clu (addRuns s c l) c).did = (clu s c).did ∧
      (clu (addRuns s c l) c).effs = (clu s c).effs ∧ (addRuns s c l).cores = s.cores := by
  unfold addRuns
  split
  · rename_i h; subst h; simp
  · rw [clu_modClu_same]; exact ⟨fun r => mem_insAll _ _ _ _, rfl, rfl, rfl⟩

theorem noteRemote_run (c k : Nat) (l : List Ref) : SameIssue c s (noteRemote s c k l) ∧ (noteRemote s c k l).cores = s.cores := by
  unfold noteRemote
  split
  · split
    · exact ⟨SameIssue.refl c s, rfl⟩
    · unfold SameIssue; rw [clu_modClu_same]; exact ⟨⟨rfl, rfl, rfl, rfl⟩, rfl⟩
  · exact ⟨SameIssue.refl c s, rfl⟩

/-! ## The op -/

/-- An op that issues: its part is done, its effects and runs are in flight, and no engine but those changed before. -/
theorem doneOp_run (c : Nat) (us : USlot) (effs : List (Nat × Eff)) (runs : List OpRun) :
    let t := doneOp s c us effs runs
    uCode us ∈ (clu t c).did ∧ (∀ p ∈ effs, ((clu s c).icyc + p.1, p.2) ∈ (clu t c).effs) ∧ (∀ r ∈ runs, r ∈ (clu t c).runs) ∧
      t.cores = s.cores := by
  dsimp only
  unfold doneOp
  have h := clu_addRuns (s := later (markDid (countOp s c us) c (uCode us)) c effs) c runs
  refine ⟨?_, ?_, fun r hr => (h.1 r).mpr (Or.inr hr), ?_⟩
  · rw [h.2.1, clu_later, clu_markDid]; simp
  · intro p hp
    rw [h.2.2.1, clu_later, clu_markDid, clu_countOp]
    simp only [List.mem_append, List.mem_map]
    exact Or.inr ⟨p, hp, rfl⟩
  · rw [h.2.2.2]
    have e : (later (markDid (countOp s c us) c (uCode us)) c effs).cores = (markDid (countOp s c us) c (uCode us)).cores := by
      unfold later; split <;> rfl
    rw [e]
    exact cores_countOp c us

theorem runPlans_inl {u : State} {c : Nat} {us : USlot} {l : List (Nat × Sum Nat Plan)} {k : Nat} (h : plans l = .inl k) :
    runPlans u c us l = clusFault u c k := by unfold runPlans; rw [h]

theorem runPlans_booked {u : State} {c : Nat} {us : USlot} {l : List (Nat × Sum Nat Plan)} {ps : List (Nat × Plan)} (h : plans l = .inr ps)
    (hd : doubleBooked u c us ps = true) : runPlans u c us l = clusFault u c 3 := by
  unfold runPlans; rw [h]; dsimp only; rw [hd]; rfl

/-- The slots of the plans' reads. -/
theorem planReads_refs (ps : List (Nat × Plan)) :
    (ps.flatMap fun p => p.2.reads).map (fun x => x.r) = ps.flatMap fun p => p.2.reads.map fun x => x.r := List.map_flatMap

theorem runPlans_wait {u : State} {c : Nat} {us : USlot} {l : List (Nat × Sum Nat Plan)} {ps : List (Nat × Plan)} {w : Wait}
    (h : plans l = .inr ps) (hd : doubleBooked u c us ps = false)
    (hw : waitRead u (ps.flatMap fun p => p.2.reads.map fun x => x.r) = some w) : runPlans u c us l = freezeOn u c w := by
  unfold runPlans withSlots; rw [h]; dsimp only; rw [hd, planReads_refs, hw]; rfl

theorem runPlans_bad {u : State} {c : Nat} {us : USlot} {l : List (Nat × Sum Nat Plan)} {ps : List (Nat × Plan)}
    (h : plans l = .inr ps) (hd : doubleBooked u c us ps = false)
    (hw : waitRead u (ps.flatMap fun p => p.2.reads.map fun x => x.r) = none)
    (hb : (ps.flatMap fun p => p.2.reads).any (fun x => !(rdBad u x).isEmpty) = true) :
    runPlans u c us l = clusFault (readAll u (ps.flatMap fun p => p.2.reads)) c 1 := by
  unfold runPlans withSlots; rw [h]; dsimp only; rw [hd, planReads_refs, hw]
  simp only [Bool.false_eq_true, if_false, waitWrite, List.findSome?_nil, hb, if_true]

/-- The op runs: its part is done, its effects, flags and runs are in flight, and every engine that a plan changes stands as it says. -/
theorem runPlans_done {u : State} {c : Nat} {us : USlot} {l : List (Nat × Sum Nat Plan)} {ps : List (Nat × Plan)}
    (h : plans l = .inr ps) (hd : doubleBooked u c us ps = false)
    (hw : waitRead u (ps.flatMap fun p => p.2.reads.map fun x => x.r) = none)
    (hb : (ps.flatMap fun p => p.2.reads).any (fun x => !(rdBad u x).isEmpty) = false) (hn : (l.map Prod.fst).Nodup) :
    let t := runPlans u c us l
    uCode us ∈ (clu t c).did ∧
      (∀ p ∈ ps.flatMap (fun p => p.2.effs ++ flagEff 0 p.1 p.2.sOf p.2.sNv), ((clu u c).icyc + p.1, p.2) ∈ (clu t c).effs) ∧
      (∀ r ∈ ps.flatMap (fun p => p.2.runs), r ∈ (clu t c).runs) ∧ ∀ p ∈ ps, ∀ x ∈ p.2.post.head?, coreAt t p.1 = x := by
  dsimp only
  unfold runPlans withSlots
  rw [h]
  dsimp only
  rw [hd, planReads_refs, hw]
  simp only [Bool.false_eq_true, if_false, waitWrite, List.findSome?_nil, hb]
  generalize hv : chargePort (readAll u (ps.flatMap fun p => p.2.reads)) c (ps.flatMap fun p => p.2.reads) = v
  have e1 : SameIssue c u v := by rw [← hv]; exact (readAll_sameRun _).issue.trans (chargePort_issue c _)
  have e2 := startPlans_issue (s := v) c ps
  have d := doneOp_run (s := each v ps (startPlan c)) c us (ps.flatMap fun p => p.2.effs ++ flagEff 0 p.1 p.2.sOf p.2.sNv) (ps.flatMap fun p => p.2.runs)
  dsimp only at d
  generalize doneOp (each v ps (startPlan c)) c us _ _ = w at d ⊢
  have n := noteRemote_run (s := w) c (ps.foldl (fun m p => max m (remoteCyc c 1 (p.2.reads.map fun x => x.r))) 0)
    (ps.flatMap fun p => p.2.reads.map fun x => x.r)
  obtain ⟨⟨-, n2, n3, n4⟩, n5⟩ := n
  refine ⟨by rw [n2]; exact d.1, fun p hp => ?_, fun r hr => by rw [n4]; exact d.2.2.1 r hr, fun p hp x hx => ?_⟩
  · rw [n3, ← e1.1, ← e2.1]; exact d.2.1 p hp
  · have ek : (ps.map Prod.fst).Nodup := by rw [plans_keys h]; exact hn
    have := coreAt_startPlans (s := v) c ps ek hp hx
    unfold coreAt at this ⊢
    rw [n5, d.2.2.2]; exact this

/-- An op that acts by plans of distinct cores in the state at issue does what `OpRuns` says. -/
theorem opRuns_of {i : Instr} {c : Nat} {us : USlot} {l : List (Nat × Sum Nat Plan)}
    (hi : exec i s = .next (runPlans (atIssue s c) c us l)) (hn : (l.map Prod.fst).Nodup) : OpRuns i s c us l := by
  refine ⟨fun k h => by rw [hi, runPlans_inl h], fun ps h => ⟨fun hd => by rw [hi, runPlans_booked h hd], fun hd => ⟨fun w hw => by rw [hi, runPlans_wait h hd hw],
    fun hw => ⟨fun hb => by rw [hi, runPlans_bad h hd hw hb], fun hb => ?_⟩⟩⟩⟩
  obtain ⟨d1, d2, d3, d4⟩ := runPlans_done h hd hw hb hn
  exact ⟨⟨_, hi, d1, d2⟩, ⟨_, hi, d4, d3⟩⟩

end Sys2Proof.Machine
end

