-- ==== Sys2Proof/Laws/Keeps.lean ====
section
/-!
SUPPORT. What no operation of the block ever does, whatever the command: touch the queue of waiting commands, break the canonical form of
a byte memory, lower an anti-rollback fuse counter (15_sirvi R425), hold more than 256 summit entries in SRAM (R420) or, short of a loss
of power, clear DEBUG_ACTIVE (13_parties R387) or take a summit sequence number back. `Keeps s t` says so of a state `t` reached from
`s`; each operation has one lemma, named after it, and the lemmas of the commands follow from these by chaining.
-/
namespace Sys2Proof.Machine

set_option Elab.async false

/-- The queue is as before, the byte memories stay in canonical form, no fuse counter is lower, the SRAM buffer holds at most 256
entries. -/
structure KeepsCold (s t : State) : Prop where
  queue : t.pending = s.pending
  mem   : memOk s = true → memOk t = true
  fuses : fusesUp s t
  sram  : sramOk s = true → sramOk t = true

/-- And DEBUG_ACTIVE, once set, stays set, and the next summit sequence number is not lower. -/
structure Keeps (s t : State) : Prop extends KeepsCold s t where
  debug : s.sirvi.dbg.isSome = true → t.sirvi.dbg.isSome = true
  seq   : s.sirvi.summit.next ≤ t.sirvi.summit.next

theorem Keeps.rfl' (s : State) : Keeps s s := ⟨⟨rfl, id, fun _ => Nat.le_refl _, id⟩, id, Nat.le_refl _⟩

theorem KeepsCold.trans {a b c : State} (h : KeepsCold a b) (k : KeepsCold b c) : KeepsCold a c :=
  ⟨k.queue.trans h.queue, fun x => k.mem (h.mem x), fun i => Nat.le_trans (h.fuses i) (k.fuses i), fun x => k.sram (h.sram x)⟩

theorem Keeps.trans {a b c : State} (h : Keeps a b) (k : Keeps b c) : Keeps a c :=
  ⟨h.toKeepsCold.trans k.toKeepsCold, fun x => k.debug (h.debug x), Nat.le_trans h.seq k.seq⟩

/-- An update of the other fields keeps what `Keeps` speaks of. -/
theorem Keeps.lit {s0 u : State}
    {marks : CycMarks} {free : Nat} {clk : Clk} {regs : SMap Word} {latch : SMap Word} {vfEn : SMap Word} {clw : SMap Nat} {vecs : SMap Vec}
    {msgs : List (Nat × Nat)} {rdata : Option Nat} {parts : SMap Part} {pacc : SMap PartyAcc} {lanes : SMap (Option Lane)}
    {strms : SMap Strm} {clus : SMap Clus} {slots : SMap Slot} {htab : SMap DWord} {bundles : SMap Bundle} {hbmBad : SMap Bool}
    {hbmCe : SMap Bool} {meeBad : SMap Bool}
    {emis : SMap (List EmRec)} {emLost : SMap Nat} {ings : SMap Ing} {ports : SMap Port} {keys : SMap KeySlot} {bg : SMap BgAct}
    {noc : SMap (List NocOp)} {cores : SMap Core} {lports : SMap LPort} {bly : SMap Bly} {sess : SMap Sess} {spdm : SMap SpdmRsp}
    {ide : SMap Ide} {stdy : SMap Stdy} {aer : SMap Nat}
    (h : Keeps s0 u) :
    Keeps s0 (State.mk
      marks u.pending free clk regs latch vfEn clw vecs msgs rdata parts pacc lanes strms clus slots htab bundles u.ccmem u.hbm hbmBad
      hbmCe meeBad u.hostMem emis emLost ings ports keys bg noc cores lports bly sess spdm ide stdy aer u.sirvi) :=
  h.trans ⟨⟨rfl, id, fun _ => Nat.le_refl _, id⟩, id, Nat.le_refl _⟩

/-- An update of the byte memories that keeps their canonical form. -/
theorem Keeps.ofMem {s0 t : State} (u : State) (a : t.pending = u.pending) (e : t.sirvi = u.sirvi) (m : memOk u = true → memOk t = true)
    (h : Keeps s0 u) : Keeps s0 t :=
  h.trans ⟨⟨a, m, fun i => by simp [e], fun x => by simpa [sramOk, e] using x⟩, fun x => by simpa [e] using x, by simp [e]⟩

theorem memOk_iff (s : State) : memOk s = true ↔
    smWf (fun _ => (0 : Byte)) s.hbm = true ∧ smWf (fun _ => (0 : Byte)) s.hostMem = true ∧ smWf (fun _ => (0 : Byte)) s.ccmem = true := by
  simp [memOk, and_assoc]

/-! ## Folds and conditions -/

section
variable {s0 s : State} {α : Type}

theorem ite_keeps {c : Prop} [Decidable c] {t : State} (h : Keeps s0 s) (k : Keeps s0 t) : Keeps s0 (if c then s else t) := by
  split
  · exact h
  · exact k

theorem foldl_keeps {f : State → α → State} {l : List α} (hf : ∀ x a, Keeps s0 x → Keeps s0 (f x a)) (h : Keeps s0 s) :
    Keeps s0 (l.foldl f s) := by
  induction l generalizing s with
  | nil => exact h
  | cons a l ih => exact ih (hf s a h)

theorem foldr_keeps {f : α → State → State} {l : List α} (hf : ∀ x a, Keeps s0 x → Keeps s0 (f a x)) (h : Keeps s0 s) :
    Keeps s0 (l.foldr f s) := by
  induction l with
  | nil => exact h
  | cons a l ih => exact hf _ a ih

theorem foldlFst_keeps {β : Type} {f : State × β → α → State × β} {l : List α} {p : State × β}
    (hf : ∀ x a, Keeps s0 x.1 → Keeps s0 (f x a).1) (h : Keeps s0 p.1) : Keeps s0 (l.foldl f p).1 := by
  induction l generalizing p with
  | nil => exact h
  | cons a l ih => exact ih (hf p a h)

theorem each_keeps {f : State → α → State} {l : List α} (hf : ∀ x a, Keeps s0 x → Keeps s0 (f x a)) (h : Keeps s0 s) :
    Keeps s0 (each s l f) := foldl_keeps hf h

theorem iff_keeps {c : Bool} {f : State → State} (hf : ∀ x, Keeps s0 x → Keeps s0 (f x)) (h : Keeps s0 s) : Keeps s0 (iff c s f) := by
  unfold iff; split
  · exact hf s h
  · exact h

theorem pfDo_keeps {f : State → State} (hf : ∀ x, Keeps s0 x → Keeps s0 (f x)) (h : Keeps s0 s) : Keeps s0 (pfDo s f) := by
  unfold pfDo; split
  · exact hf s h
  · exact h

theorem hostWr_keeps {r : Requester} {a : Nat} {f : State → State} (hf : ∀ x, Keeps s0 x → Keeps s0 (f x)) (h : Keeps s0 s) :
    Keeps s0 (hostWr s r a f) := by
  unfold hostWr; split
  · exact hf s h
  · exact h

theorem fresh_keeps (h : Keeps s0 s) : Keeps s0 (fresh s).2 := Keeps.lit h

end

/-! ## Interrupts and bytes -/

section
variable {s0 s : State}

theorem sendMsi_keeps (fn v : Nat) (h : Keeps s0 s) : Keeps s0 (sendMsi s fn v) := by
  unfold sendMsi; split <;> exact Keeps.lit h

theorem irqVec_keeps (a b : State) (c : Bool) (fn v : Nat) (h : Keeps s0 s) : Keeps s0 (irqVec a b c s fn v) := by
  unfold irqVec; split
  · exact sendMsi_keeps _ _ h
  · exact h

theorem irqSync_keeps (a : State) (pg : Nat) (c : Bool) (h : Keeps s0 s) : Keeps s0 (irqSync a s pg c) := by
  unfold irqSync; dsimp only
  refine foldl_keeps (fun x k hx => ?_) ?_
  · split
    · exact irqVec_keeps _ _ _ _ _ hx
    · exact hx
  · split
    · exact irqVec_keeps _ _ _ _ _ h
    · exact h

theorem irqSyncs_keeps (a : State) (pgs : List Nat) (h : Keeps s0 s) : Keeps s0 (irqSyncs a s pgs) :=
  foldl_keeps (fun _ _ hx => irqVec_keeps _ _ _ _ _ hx) h

theorem hbmPut_keeps (a : Nat) (bs : List Byte) (h : Keeps s0 s) : Keeps s0 (hbmPut s a bs) :=
  Keeps.ofMem s rfl rfl (fun m => by rw [memOk_iff] at m ⊢; exact ⟨memWf_write 0 a bs m.1, m.2⟩) h

theorem hostPut_keeps (fn a : Nat) (bs : List Byte) (h : Keeps s0 s) : Keeps s0 (hostPut s fn a bs) :=
  Keeps.ofMem s rfl rfl (fun m => by rw [memOk_iff] at m ⊢; exact ⟨m.1, memWf_write 0 (2 ^ 64 * fn + a) bs m.2.1, m.2.2⟩) h

/-- An update of Sirvi's own fields that leaves DEBUG_ACTIVE, the fuses and the summit buffer and sequence number alone. -/
theorem modSirvi_keeps {f : Sirvi → Sirvi} (d : (f s.sirvi).dbg = s.sirvi.dbg) (e : (f s.sirvi).fuses = s.sirvi.fuses)
    (b : (f s.sirvi).summit.buf = s.sirvi.summit.buf) (q : (f s.sirvi).summit.next = s.sirvi.summit.next) (h : Keeps s0 s) :
    Keeps s0 (modSirvi s f) :=
  h.trans ⟨⟨rfl, fun x => x, fun i => by simp [modSirvi, e], fun x => by simpa [sramOk, modSirvi, b] using x⟩,
    fun x => by simpa [modSirvi, d] using x, by simp [modSirvi, q]⟩

/-- A change of the summit register that keeps its bound and does not take its sequence number back. -/
theorem modSummit_keeps {f : Summit → Summit} (b : s.sirvi.summit.buf.length ≤ sumMax → (f s.sirvi.summit).buf.length ≤ sumMax)
    (q : s.sirvi.summit.next ≤ (f s.sirvi.summit).next) (h : Keeps s0 s) : Keeps s0 (modSummit s f) :=
  h.trans ⟨⟨rfl, fun x => x, fun i => by simp [modSummit, modSirvi], fun x => by
    simp only [sramOk, decide_eq_true_eq] at x; exact decide_eq_true (b x)⟩, fun x => x, q⟩

end

end Sys2Proof.Machine
end

