-- ==== Sys2Proof/Laws/KeepsBase.lean ====
section
/-!
SUPPORT. Registers, time, ticks and pitches: what each operation keeps (Laws/Keeps).
-/
namespace Sys2Proof.Machine

set_option Elab.async false

/-! ## Ops -/

theorem markEvt_keeps {s0 s : State} (pg : Nat) (bit : Nat) (h : Keeps s0 s) : Keeps s0 (markEvt s pg bit) := by
  unfold markEvt; try dsimp only
  repeat' (first | with_reducible assumption | intro _ | dsimp only | fail_if_no_progress (with_reducible apply Keeps.lit))

theorem wr_keeps {s0 s : State} (a : Nat) (v : Word) (h : Keeps s0 s) : Keeps s0 (wr s a v) := by
  unfold wr; try dsimp only
  repeat' (first | with_reducible assumption | intro _ | dsimp only | fail_if_no_progress (with_reducible apply Keeps.lit))

theorem wrN_keeps {s0 s : State} (a : Nat) (v : Nat) (h : Keeps s0 s) : Keeps s0 (wrN s a v) := by
  unfold wrN; try dsimp only
  repeat' (first | with_reducible assumption | intro _ | with_reducible apply wr_keeps)

theorem capture_keeps {s0 s : State} (pg : Nat) (bit : Nat) (test : Bool) (detail : Nat) (h : Keeps s0 s)
    : Keeps s0 (capture s pg bit test detail) := by
  unfold capture; try dsimp only
  repeat' (first | with_reducible assumption | intro _ | with_reducible apply wrN_keeps | with_reducible apply ite_keeps)

theorem setVec_keeps {s0 s : State} (fn : Nat) (v : Nat) (x : Vec) (h : Keeps s0 s) : Keeps s0 (setVec s fn v x) := by
  unfold setVec; try dsimp only
  repeat' (first | with_reducible assumption | intro _ | dsimp only | fail_if_no_progress (with_reducible apply Keeps.lit))

theorem setEvtT_keeps {s0 s : State} (pg : Nat) (bit : Nat) (test : Bool) (detail : Nat) (h : Keeps s0 s)
    : Keeps s0 (setEvtT s pg bit test detail) := by
  unfold setEvtT; try dsimp only
  repeat' (first
      | with_reducible assumption | intro _ | with_reducible apply markEvt_keeps | with_reducible apply wrN_keeps
      | with_reducible apply capture_keeps | with_reducible apply irqSync_keeps | with_reducible apply ite_keeps)

theorem wf_keeps {s0 s : State} (a : Nat) (lo : Nat) (len : Nat) (v : Nat) (h : Keeps s0 s) : Keeps s0 (wf s a lo len v) := by
  unfold wf; try dsimp only
  repeat' (first | with_reducible assumption | intro _ | with_reducible apply wrN_keeps)

theorem setTdi_keeps {s0 s : State} (n : Nat) (v : Nat) (h : Keeps s0 s) : Keeps s0 (setTdi s n v) := by
  unfold setTdi; try dsimp only
  repeat' (first | with_reducible assumption | intro _ | with_reducible apply wf_keeps | with_reducible apply irqSyncs_keeps)

theorem hostReadErr_keeps {s0 s : State} (fn : Nat) (h : Keeps s0 s) : Keeps s0 (hostReadErr s fn) := by
  unfold hostReadErr; try dsimp only
  repeat' (first
      | with_reducible assumption | intro _ | with_reducible apply fresh_keeps | dsimp only
      | fail_if_no_progress (with_reducible apply Keeps.lit))

theorem setEvt_keeps {s0 s : State} (pg : Nat) (bit : Nat) (detail : optParam Nat 0) (h : Keeps s0 s)
    : Keeps s0 (setEvt s pg bit detail) := by
  unfold setEvt; try dsimp only
  repeat' (first | with_reducible assumption | intro _ | with_reducible apply setEvtT_keeps)

theorem markCnt_keeps {s0 s : State} (a : Nat) (n : Nat) (h : Keeps s0 s) : Keeps s0 (markCnt s a n) := by
  unfold markCnt; try dsimp only
  repeat' (first | with_reducible assumption | intro _ | dsimp only | fail_if_no_progress (with_reducible apply Keeps.lit))

theorem setPacc_keeps {s0 s : State} (p : Nat) (x : PartyAcc) (h : Keeps s0 s) : Keeps s0 (setPacc s p x) := by
  unfold setPacc; try dsimp only
  repeat' (first | with_reducible assumption | intro _ | dsimp only | fail_if_no_progress (with_reducible apply Keeps.lit))

theorem charge_keeps {s0 s : State} (n : Nat) (f : Acc → Acc) (h : Keeps s0 s) : Keeps s0 (charge s n f) := by
  unfold charge; try dsimp only
  repeat' (first | with_reducible assumption | intro _ | with_reducible apply setPacc_keeps | with_reducible apply ite_keeps)

theorem setSlot_keeps {s0 s : State} (core : Nat) (i : Nat) (x : Slot) (h : Keeps s0 s) : Keeps s0 (setSlot s core i x) := by
  unfold setSlot; try dsimp only
  repeat' (first | with_reducible assumption | intro _ | dsimp only | fail_if_no_progress (with_reducible apply Keeps.lit))

theorem modSlot_keeps {s0 s : State} (core : Nat) (i : Nat) (f : Slot → Slot) (h : Keeps s0 s) : Keeps s0 (modSlot s core i f) := by
  unfold modSlot; try dsimp only
  repeat' (first | with_reducible assumption | intro _ | with_reducible apply setSlot_keeps)

theorem cntTo_keeps {s0 s : State} (pg : Nat) (off : Nat) (v : Nat) (h : Keeps s0 s) : Keeps s0 (cntTo s pg off v) := by
  unfold cntTo; try dsimp only
  repeat' (first | with_reducible assumption | intro _ | with_reducible apply wrN_keeps | dsimp only | split)

theorem clearCnt_keeps {s0 s : State} (pg : Nat) (off : Nat) (h : Keeps s0 s) : Keeps s0 (clearCnt s pg off) := by
  unfold clearCnt; try dsimp only
  repeat' (first | with_reducible assumption | intro _ | with_reducible apply cntTo_keeps)

theorem setPart_keeps {s0 s : State} (n : Nat) (p : Part) (h : Keeps s0 s) : Keeps s0 (setPart s n p) := by
  unfold setPart; try dsimp only
  repeat' (first | with_reducible assumption | intro _ | dsimp only | fail_if_no_progress (with_reducible apply Keeps.lit))

theorem wr64_keeps {s0 s : State} (a : Nat) (v : Nat) (h : Keeps s0 s) : Keeps s0 (wr64 s a v) := by
  unfold wr64; try dsimp only
  repeat' (first | with_reducible assumption | intro _ | with_reducible apply wrN_keeps)

theorem add64_keeps {s0 s : State} (a : Nat) (n : Nat) (h : Keeps s0 s) : Keeps s0 (add64 s a n) := by
  unfold add64; try dsimp only
  repeat' (first | with_reducible assumption | intro _ | with_reducible apply wr64_keeps | with_reducible apply ite_keeps)

theorem setClu_keeps {s0 s : State} (c : Nat) (x : Clus) (h : Keeps s0 s) : Keeps s0 (setClu s c x) := by
  unfold setClu; try dsimp only
  repeat' (first | with_reducible assumption | intro _ | dsimp only | fail_if_no_progress (with_reducible apply Keeps.lit))

theorem modClu_keeps {s0 s : State} (c : Nat) (f : Clus → Clus) (h : Keeps s0 s) : Keeps s0 (modClu s c f) := by
  unfold modClu; try dsimp only
  repeat' (first | with_reducible assumption | intro _ | with_reducible apply setClu_keeps)

theorem bumpBy_keeps {s0 s : State} (pg : Nat) (off : Nat) (n : Nat) (h : Keeps s0 s) : Keeps s0 (bumpBy s pg off n) := by
  unfold bumpBy; try dsimp only
  repeat' (first
      | with_reducible assumption | intro _ | with_reducible apply markCnt_keeps | with_reducible apply wrN_keeps
      | with_reducible apply setEvt_keeps | with_reducible apply ite_keeps | dsimp only | split)

theorem toTb_keeps {s0 s : State} (t : Nat) (h : Keeps s0 s) : Keeps s0 (toTb s t) := by
  unfold toTb; try dsimp only
  repeat' (first
      | with_reducible assumption | intro _ | with_reducible apply ite_keeps | dsimp only | split
      | fail_if_no_progress (with_reducible apply Keeps.lit))

theorem toTbI_keeps {s0 s : State} (t : Int) (h : Keeps s0 s) : Keeps s0 (toTbI s t) := by
  unfold toTbI; try dsimp only
  repeat' (first | with_reducible assumption | intro _ | with_reducible apply toTb_keeps)

theorem modPart_keeps {s0 s : State} (n : Nat) (f : Part → Part) (h : Keeps s0 s) : Keeps s0 (modPart s n f) := by
  unfold modPart; try dsimp only
  repeat' (first | with_reducible assumption | intro _ | with_reducible apply setPart_keeps)

theorem setJob_keeps {s0 s : State} (n : Nat) (j : Nat) (x : Job) (h : Keeps s0 s) : Keeps s0 (setJob s n j x) := by
  unfold setJob; try dsimp only
  repeat' (first | with_reducible assumption | intro _ | with_reducible apply modPart_keeps)

theorem countBytes_keeps {s0 s : State} (n : Nat) (k : Nat) (h : Keeps s0 s) : Keeps s0 (countBytes s n k) := by
  unfold countBytes; try dsimp only
  repeat' (first | with_reducible assumption | intro _ | with_reducible apply charge_keeps | with_reducible apply ite_keeps)

theorem setBundle_keeps {s0 s : State} (c : Nat) (i : Nat) (b : Bundle) (h : Keeps s0 s) : Keeps s0 (setBundle s c i b) := by
  unfold setBundle; try dsimp only
  repeat' (first | with_reducible assumption | intro _ | dsimp only | fail_if_no_progress (with_reducible apply Keeps.lit))

theorem bump_keeps {s0 s : State} (pg : Nat) (off : Nat) (h : Keeps s0 s) : Keeps s0 (bump s pg off) := by
  unfold bump; try dsimp only
  repeat' (first | with_reducible assumption | intro _ | with_reducible apply bumpBy_keeps)

theorem setHentry_keeps {s0 s : State} (c : Nat) (hh : Nat) (v : DWord) (h : Keeps s0 s) : Keeps s0 (setHentry s c hh v) := by
  unfold setHentry; try dsimp only
  repeat' (first | with_reducible assumption | intro _ | dsimp only | fail_if_no_progress (with_reducible apply Keeps.lit))

theorem modBly_keeps {s0 s : State} (n : Nat) (f : Bly → Bly) (h : Keeps s0 s) : Keeps s0 (modBly s n f) := by
  unfold modBly; try dsimp only
  repeat' (first | with_reducible assumption | intro _ | dsimp only | fail_if_no_progress (with_reducible apply Keeps.lit))

theorem passU_keeps {s0 s : State} (du : Nat) (h : Keeps s0 s) : Keeps s0 (passU s du) := by
  unfold passU; try dsimp only
  repeat' (first | with_reducible assumption | intro _ | dsimp only | fail_if_no_progress (with_reducible apply Keeps.lit))

theorem toCycle_keeps {s0 s : State} (c : Nat) (h : Keeps s0 s) : Keeps s0 (toCycle s c) := by
  unfold toCycle; try dsimp only
  repeat' (first | with_reducible assumption | intro _ | with_reducible apply passU_keeps)

theorem setLane_keeps {s0 s : State} (k : Nat) (x : Option Lane) (h : Keeps s0 s) : Keeps s0 (setLane s k x) := by
  unfold setLane; try dsimp only
  repeat' (first | with_reducible assumption | intro _ | dsimp only | fail_if_no_progress (with_reducible apply Keeps.lit))

theorem modLane_keeps {s0 s : State} (k : Nat) (f : Lane → Lane) (h : Keeps s0 s) : Keeps s0 (modLane s k f) := by
  unfold modLane; try dsimp only
  repeat' (first | with_reducible assumption | intro _ | with_reducible apply setLane_keeps | dsimp only | split)

theorem setStrm_keeps {s0 s : State} (hh : Nat) (x : Strm) (h : Keeps s0 s) : Keeps s0 (setStrm s hh x) := by
  unfold setStrm; try dsimp only
  repeat' (first | with_reducible assumption | intro _ | dsimp only | fail_if_no_progress (with_reducible apply Keeps.lit))

theorem modStrm_keeps {s0 s : State} (hh : Nat) (f : Strm → Strm) (h : Keeps s0 s) : Keeps s0 (modStrm s hh f) := by
  unfold modStrm; try dsimp only
  repeat' (first | with_reducible assumption | intro _ | with_reducible apply setStrm_keeps)

theorem modJob_keeps {s0 s : State} (n : Nat) (j : Nat) (f : Job → Job) (h : Keeps s0 s) : Keeps s0 (modJob s n j f) := by
  unfold modJob; try dsimp only
  repeat' (first | with_reducible assumption | intro _ | with_reducible apply setJob_keeps)

/-! ## Tick -/

theorem ptmFail_keeps {s0 s : State} (h : Keeps s0 s) : Keeps s0 (ptmFail s) := by
  unfold ptmFail; try dsimp only
  repeat' (first
      | with_reducible assumption | intro _ | with_reducible apply bump_keeps | with_reducible apply setEvt_keeps
      | with_reducible apply ite_keeps | dsimp only | split | fail_if_no_progress (with_reducible apply Keeps.lit))

theorem ptmTimeoutEff_keeps {s0 s : State} (h : Keeps s0 s) : Keeps s0 (ptmTimeoutEff s) := by
  unfold ptmTimeoutEff; try dsimp only
  repeat' (first
      | with_reducible assumption | intro _ | with_reducible apply ptmFail_keeps | with_reducible apply toTbI_keeps | dsimp only
      | split)

theorem acceptIn_keeps {s0 s : State} (t : Int) (h : Keeps s0 s) : Keeps s0 (acceptIn s t) := by
  unfold acceptIn; try dsimp only
  repeat' (first
      | with_reducible assumption | intro _ | with_reducible apply setEvt_keeps | with_reducible apply ite_keeps | dsimp only
      | split | fail_if_no_progress (with_reducible apply Keeps.lit))

theorem rejectIn_keeps {s0 s : State} (h : Keeps s0 s) : Keeps s0 (rejectIn s) := by
  unfold rejectIn; try dsimp only
  repeat' (first | with_reducible assumption | intro _ | with_reducible apply setEvt_keeps | with_reducible apply bump_keeps)

theorem tickInAt_keeps {s0 s : State} (t : Int) (h : Keeps s0 s) : Keeps s0 (tickInAt s t) := by
  unfold tickInAt; try dsimp only
  repeat' (first
      | with_reducible assumption | intro _ | with_reducible apply acceptIn_keeps | with_reducible apply rejectIn_keeps
      | with_reducible apply ite_keeps | dsimp only | split | fail_if_no_progress (with_reducible apply Keeps.lit))

theorem tickInEdgeEff_keeps {s0 s : State} (time : Nat) (high : Nat) (h : Keeps s0 s) : Keeps s0 (tickInEdgeEff time high s) := by
  unfold tickInEdgeEff; try dsimp only
  repeat' (first
      | with_reducible assumption | intro _ | with_reducible apply tickInAt_keeps | with_reducible apply toTb_keeps
      | with_reducible apply ite_keeps)

theorem edgeSource_keeps {s0 s : State} (fly : Bool) (h : Keeps s0 s) : Keeps s0 (edgeSource s fly) := by
  unfold edgeSource; try dsimp only
  repeat' (first
      | with_reducible assumption | intro _ | with_reducible apply bump_keeps | with_reducible apply setEvt_keeps
      | with_reducible apply ite_keeps | dsimp only | split | fail_if_no_progress (with_reducible apply Keeps.lit))

theorem fallbackTimeoutEff_keeps {s0 s : State} (h : Keeps s0 s) : Keeps s0 (fallbackTimeoutEff s) := by
  unfold fallbackTimeoutEff; try dsimp only
  repeat' (first
      | with_reducible assumption | intro _ | with_reducible apply toTbI_keeps | with_reducible apply setEvt_keeps | dsimp only
      | split | fail_if_no_progress (with_reducible apply Keeps.lit))

theorem takeForce_keeps {s0 s : State} (c : TickCfg) (x : Option Int) (h : Keeps s0 s) : Keeps s0 (takeForce s c x) := by
  unfold takeForce; try dsimp only
  repeat' (first
      | with_reducible assumption | intro _ | with_reducible apply ite_keeps | dsimp only | split
      | fail_if_no_progress (with_reducible apply Keeps.lit))

theorem tickApplyEff_keeps {s0 s : State} (h : Keeps s0 s) : Keeps s0 (tickApplyEff s) := by
  unfold tickApplyEff; try dsimp only
  repeat' (first
      | with_reducible assumption | intro _ | with_reducible apply setEvt_keeps | with_reducible apply takeForce_keeps
      | with_reducible apply ite_keeps | dsimp only | split | fail_if_no_progress (with_reducible apply Keeps.lit))

theorem tickCtrlEnEff_keeps {s0 s : State} (en : Bool) (h : Keeps s0 s) : Keeps s0 (tickCtrlEnEff en s) := by
  unfold tickCtrlEnEff; try dsimp only
  repeat' (first
      | with_reducible assumption | intro _ | with_reducible apply wf_keeps | with_reducible apply setEvt_keeps
      | with_reducible apply takeForce_keeps | with_reducible apply ite_keeps | dsimp only | split
      | fail_if_no_progress (with_reducible apply Keeps.lit))

theorem tbLoadEff_keeps {s0 s : State} (h : Keeps s0 s) : Keeps s0 (tbLoadEff s) := by
  unfold tbLoadEff; try dsimp only
  repeat' (first
      | with_reducible assumption | intro _ | with_reducible apply setEvt_keeps | with_reducible apply ite_keeps | dsimp only
      | split | fail_if_no_progress (with_reducible apply Keeps.lit))

theorem edgeOp_keeps {s0 s : State} (h : Keeps s0 s) : Keeps s0 (edgeOp s) := by
  unfold edgeOp; try dsimp only
  repeat' (first
      | with_reducible assumption | intro _ | with_reducible apply setEvt_keeps | with_reducible apply ite_keeps | dsimp only
      | split | fail_if_no_progress (with_reducible apply Keeps.lit))

theorem edgeClk_keeps {s0 s : State} (t : Int) (fly : Bool) (h : Keeps s0 s) : Keeps s0 (edgeClk s t fly) := by
  unfold edgeClk; try dsimp only
  repeat' (first
      | with_reducible assumption | intro _ | with_reducible apply toTbI_keeps | with_reducible apply edgeSource_keeps
      | with_reducible apply takeForce_keeps | with_reducible apply edgeOp_keeps | with_reducible apply ite_keeps | dsimp only
      | split | fail_if_no_progress (with_reducible apply Keeps.lit))

theorem ptmRequestEff_keeps {s0 s : State} (capEnable : Bool) (h : Keeps s0 s) : Keeps s0 (ptmRequestEff capEnable s) := by
  unfold ptmRequestEff; try dsimp only
  repeat' (first
      | with_reducible assumption | intro _ | with_reducible apply toTbI_keeps | with_reducible apply ptmFail_keeps
      | with_reducible apply ite_keeps | dsimp only | split | fail_if_no_progress (with_reducible apply Keeps.lit))

theorem relockEff_keeps {s0 s : State} (h : Keeps s0 s) : Keeps s0 (relockEff s) := by
  unfold relockEff; try dsimp only
  repeat' (first
      | with_reducible assumption | intro _ | with_reducible apply ite_keeps | dsimp only | split
      | fail_if_no_progress (with_reducible apply Keeps.lit))

theorem ptmResponseEff_keeps {s0 s : State} (offset : Int) (h : Keeps s0 s) : Keeps s0 (ptmResponseEff offset s) := by
  unfold ptmResponseEff; try dsimp only
  repeat' (first
      | with_reducible assumption | intro _ | with_reducible apply ptmFail_keeps | with_reducible apply fresh_keeps
      | with_reducible apply ite_keeps | dsimp only | split | fail_if_no_progress (with_reducible apply Keeps.lit))

/-! ## Emit -/

theorem pushRaw_keeps {s0 s : State} (n : Nat) (r : EmRec) (h : Keeps s0 s) : Keeps s0 (pushRaw s n r) := by
  unfold pushRaw; try dsimp only
  repeat' (first
      | with_reducible assumption | intro _ | with_reducible apply setEvt_keeps | with_reducible apply bump_keeps
      | with_reducible apply ite_keeps | dsimp only | split | fail_if_no_progress (with_reducible apply Keeps.lit))

theorem pushRec_keeps {s0 s : State} (n : Nat) (r : EmRec) (h : Keeps s0 s) : Keeps s0 (pushRec s n r) := by
  unfold pushRec; try dsimp only
  repeat' (first
      | with_reducible assumption | intro _ | with_reducible apply pushRaw_keeps | with_reducible apply ite_keeps | dsimp only
      | split | fail_if_no_progress (with_reducible apply Keeps.lit))

theorem strmEvent_keeps {s0 s : State} (hh : Nat) (code : Nat) (cause : Nat) (detail : Nat) (tick : Nat) (ts : Nat) (h : Keeps s0 s)
    : Keeps s0 (strmEvent s hh code cause detail tick ts) := by
  unfold strmEvent; try dsimp only
  repeat' (first | with_reducible assumption | intro _ | with_reducible apply pushRec_keeps)

theorem faultStrm_keeps {s0 s : State} (hh : Nat) (tick : Nat) (ts : Nat) (h : Keeps s0 s) : Keeps s0 (faultStrm s hh tick ts) := by
  unfold faultStrm; try dsimp only
  repeat' (first | with_reducible assumption | intro _ | with_reducible apply strmEvent_keeps | with_reducible apply modStrm_keeps)

/-! ## IngBase -/

theorem freeStore_keeps {s0 s : State} (c : Chunk) (h : Keeps s0 s) : Keeps s0 (freeStore s c) := by
  unfold freeStore; try dsimp only
  repeat' (first
      | with_reducible assumption | intro _ | with_reducible apply each_keeps | with_reducible apply modSlot_keeps | dsimp only
      | split)

theorem modIng_keeps {s0 s : State} (n : Nat) (f : Ing → Ing) (h : Keeps s0 s) : Keeps s0 (modIng s n f) := by
  unfold modIng; try dsimp only
  repeat' (first | with_reducible assumption | intro _ | dsimp only | fail_if_no_progress (with_reducible apply Keeps.lit))

theorem retireIdx_keeps {s0 s : State} (n : Nat) (i : Nat) (h : Keeps s0 s) : Keeps s0 (retireIdx s n i) := by
  unfold retireIdx; try dsimp only
  repeat' (first | with_reducible assumption | intro _ | with_reducible apply wrN_keeps | with_reducible apply modIng_keeps)

theorem retireChunk_keeps {s0 s : State} (n : Nat) (c : Chunk) (h : Keeps s0 s) : Keeps s0 (retireChunk s n c) := by
  unfold retireChunk; try dsimp only
  repeat' (first
      | with_reducible assumption | intro _ | with_reducible apply each_keeps | with_reducible apply freeStore_keeps
      | with_reducible apply retireIdx_keeps)

theorem retireAll_keeps {s0 s : State} (hh : Nat) (h : Keeps s0 s) : Keeps s0 (retireAll s hh) := by
  unfold retireAll; try dsimp only
  repeat' (first
      | with_reducible assumption | intro _ | with_reducible apply modStrm_keeps | with_reducible apply each_keeps
      | with_reducible apply retireChunk_keeps | with_reducible apply retireIdx_keeps)

/-! ## StreamBase -/

theorem giveBack_keeps {s0 s : State} (l : Lane) (h : Keeps s0 s) : Keeps s0 (giveBack s l) := by
  unfold giveBack; try dsimp only
  repeat' (first | with_reducible assumption | intro _ | with_reducible apply modStrm_keeps | with_reducible apply ite_keeps)

theorem clearLanes_keeps {s0 s : State} (n : Nat) (h : Keeps s0 s) : Keeps s0 (clearLanes s n) := by
  unfold clearLanes; try dsimp only
  repeat' (first
      | with_reducible assumption | intro _ | with_reducible apply each_keeps | with_reducible apply giveBack_keeps | dsimp only
      | fail_if_no_progress (with_reducible apply Keeps.lit))

theorem zeroSlots_keeps {s0 s : State} (l : List (Nat × Nat)) (full : Bool) (h : Keeps s0 s) : Keeps s0 (zeroSlots s l full) := by
  unfold zeroSlots; try dsimp only
  repeat' (first | with_reducible assumption | intro _ | with_reducible apply each_keeps | with_reducible apply setSlot_keeps)

theorem freePlaceOf_keeps {s0 s : State} (hh : Nat) (h : Keeps s0 s) : Keeps s0 (freePlaceOf s hh) := by
  unfold freePlaceOf; try dsimp only
  repeat' (first | with_reducible assumption | intro _ | with_reducible apply zeroSlots_keeps | with_reducible apply modStrm_keeps)

theorem tagSlots_keeps {s0 s : State} (l : List (Nat × Nat)) (full : Bool) (h : Keeps s0 s) : Keeps s0 (tagSlots s l full) := by
  unfold tagSlots; try dsimp only
  repeat' (first | with_reducible assumption | intro _ | with_reducible apply each_keeps | with_reducible apply modSlot_keeps)

theorem setSeq_keeps {s0 s : State} (hh : Nat) (q : Nat) (h : Keeps s0 s) : Keeps s0 (setSeq s hh q) := by
  unfold setSeq; try dsimp only
  repeat' (first | with_reducible assumption | intro _ | with_reducible apply modStrm_keeps)

theorem takePlace_keeps {s0 s : State} (hh : Nat) (p : Nat) (h : Keeps s0 s) : Keeps s0 (takePlace s hh p) := by
  unfold takePlace; try dsimp only
  repeat' (first | with_reducible assumption | intro _ | with_reducible apply modStrm_keeps | with_reducible apply zeroSlots_keeps)

theorem freeStrm_keeps {s0 s : State} (hh : Nat) (h : Keeps s0 s) : Keeps s0 (freeStrm s hh) := by
  unfold freeStrm; try dsimp only
  repeat' (first
      | with_reducible assumption | intro _ | with_reducible apply freePlaceOf_keeps | with_reducible apply retireAll_keeps
      | with_reducible apply setStrm_keeps)

/-! ## BgBase -/

theorem setBg_keeps {s0 s : State} (a : Nat) (x : BgAct) (h : Keeps s0 s) : Keeps s0 (setBg s a x) := by
  unfold setBg; try dsimp only
  repeat' (first | with_reducible assumption | intro _ | dsimp only | fail_if_no_progress (with_reducible apply Keeps.lit))

/-! ## Hbm -/

theorem markRow_keeps {s0 s : State} (a : Nat) (h : Keeps s0 s) : Keeps s0 (markRow s a) := by
  unfold markRow; try dsimp only
  repeat' (first | with_reducible assumption | intro _ | with_reducible apply setBg_keeps | with_reducible apply ite_keeps)

theorem rowCe_keeps {s0 s : State} (a : Nat) (h : Keeps s0 s) : Keeps s0 (rowCe s a) := by
  have h1 (m : SMap (List Nat)) : Keeps s0 (modSirvi s fun v => { v with ceRows := m }) := modSirvi_keeps rfl rfl rfl rfl h
  unfold rowCe; dsimp only
  split
  · exact markRow_keeps _ (h1 _)
  · exact h1 _

theorem hbmCeWord_keeps {s0 s : State} (w : Nat) (h : Keeps s0 s) : Keeps s0 (hbmCeWord s w) := by
  unfold hbmCeWord; try dsimp only
  repeat' (first
      | with_reducible assumption | intro _ | with_reducible apply rowCe_keeps | with_reducible apply bump_keeps | dsimp only
      | fail_if_no_progress (with_reducible apply Keeps.lit))

theorem hbmFix_keeps {s0 s : State} (a : Nat) (n : Nat) (h : Keeps s0 s) : Keeps s0 (hbmFix s a n) := by
  unfold hbmFix; try dsimp only
  repeat' (first | with_reducible assumption | intro _ | with_reducible apply each_keeps | with_reducible apply hbmCeWord_keeps)

theorem hbmUeWord_keeps {s0 s : State} (w : Nat) (h : Keeps s0 s) : Keeps s0 (hbmUeWord s w) := by
  unfold hbmUeWord; try dsimp only
  repeat' (first
      | with_reducible assumption | intro _ | with_reducible apply bump_keeps | with_reducible apply wrN_keeps
      | with_reducible apply markRow_keeps | with_reducible apply setEvt_keeps | with_reducible apply ite_keeps)

theorem hbmEcc_keeps {s0 s : State} (a : Nat) (n : Nat) (h : Keeps s0 s) : Keeps s0 (hbmEcc s a n) := by
  unfold hbmEcc; try dsimp only
  repeat' (first
      | with_reducible assumption | intro _ | with_reducible apply each_keeps | with_reducible apply hbmFix_keeps
      | with_reducible apply hbmUeWord_keeps)

theorem meeErr_keeps {s0 s : State} (g : Nat) (h : Keeps s0 s) : Keeps s0 (meeErr s g) := by
  unfold meeErr; try dsimp only
  repeat' (first | with_reducible assumption | intro _ | with_reducible apply setEvt_keeps | with_reducible apply bump_keeps)

theorem hbmUe_keeps {s0 s : State} (a : Nat) (n : Nat) (h : Keeps s0 s) : Keeps s0 (hbmUe s a n) := by
  unfold hbmUe; try dsimp only
  repeat' (first
      | with_reducible assumption | intro _ | with_reducible apply each_keeps | with_reducible apply hbmEcc_keeps
      | with_reducible apply meeErr_keeps)

theorem hbmWriteGran_keeps {s0 s : State} (a : Nat) (bs : List Byte) (lo0 : Nat) (hi0 : Nat) (g : Nat) (h : Keeps s0 s)
    : Keeps s0 (hbmWriteGran s a bs lo0 hi0 g).1 := by
  unfold hbmWriteGran; try dsimp only
  repeat' (first
      | with_reducible assumption | intro _ | with_reducible apply hbmPut_keeps | with_reducible apply hbmUe_keeps
      | with_reducible apply ite_keeps | dsimp only | split | fail_if_no_progress (with_reducible apply Keeps.lit))

theorem hbmEnds_keeps {s0 s : State} (a : Nat) (n : Nat) (lo0 : Nat) (hi0 : Nat) (h : Keeps s0 s) : Keeps s0 (hbmEnds s a n lo0 hi0) := by
  unfold hbmEnds; try dsimp only
  repeat' (first | with_reducible assumption | intro _ | with_reducible apply hbmFix_keeps | with_reducible apply ite_keeps)

theorem hbmWriteIn_keeps {s0 s : State} (a : Nat) (bs : List Byte) (lo0 : Nat) (hi0 : Nat) (h : Keeps s0 s)
    : Keeps s0 (hbmWriteIn s a bs lo0 hi0).1 := by
  unfold hbmWriteIn; try dsimp only
  repeat' (first
      | with_reducible assumption | intro _ | with_reducible apply hbmPut_keeps | with_reducible apply hbmEnds_keeps
      | with_reducible apply hbmWriteGran_keeps | with_reducible apply foldl_keeps | with_reducible apply foldlFst_keeps
      | with_reducible apply ite_keeps | dsimp only | split)

theorem hbmClear_keeps {s0 s : State} (a n : Nat) (h : Keeps s0 s) : Keeps s0 (hbmClear s a n) :=
  Keeps.ofMem s rfl rfl (fun m => by rw [memOk_iff] at m ⊢; exact ⟨smWf_filter _ _ m.1, m.2⟩) h

theorem hbmWrite_keeps {s0 s : State} (a : Nat) (bs : List Byte) (h : Keeps s0 s) : Keeps s0 (hbmWrite s a bs).1 := by
  unfold hbmWrite; try dsimp only
  repeat' (first | with_reducible assumption | intro _ | with_reducible apply hbmWriteIn_keeps)

/-! ## Operands -/

theorem countUe_keeps {s0 s : State} (core : Nat) (i : Nat) (words : List Nat) (h : Keeps s0 s) : Keeps s0 (countUe s core i words) := by
  unfold countUe; try dsimp only
  repeat' (first
      | with_reducible assumption | intro _ | with_reducible apply bumpBy_keeps | with_reducible apply wrN_keeps
      | with_reducible apply ite_keeps | dsimp only | split)

theorem correct_keeps {s0 s : State} (core : Nat) (i : Nat) (words : List Nat) (h : Keeps s0 s) : Keeps s0 (correct s core i words) := by
  unfold correct; try dsimp only
  repeat' (first
      | with_reducible assumption | intro _ | with_reducible apply bumpBy_keeps | with_reducible apply modSlot_keeps
      | with_reducible apply ite_keeps)

theorem readSlot_keeps {s0 s : State} (core : Nat) (i : Nat) (off : Nat) (n : Nat) (h : Keeps s0 s)
    : Keeps s0 (readSlot s core i off n) := by
  unfold readSlot; try dsimp only
  repeat' (first | with_reducible assumption | intro _ | with_reducible apply countUe_keeps | with_reducible apply correct_keeps)

theorem readAll_keeps {s0 s : State} (l : List Rd) (h : Keeps s0 s) : Keeps s0 (readAll s l) := by
  unfold readAll; try dsimp only
  repeat' (first
      | with_reducible assumption | intro _ | with_reducible apply each_keeps | with_reducible apply countBytes_keeps
      | with_reducible apply readSlot_keeps | dsimp only | split)

theorem readSlots_keeps {s0 s : State} (l : List (Nat × Nat)) (h : Keeps s0 s) : Keeps s0 (readSlots s l) := by
  unfold readSlots; try dsimp only
  repeat' (first | with_reducible assumption | intro _ | with_reducible apply each_keeps | with_reducible apply readSlot_keeps)

/-! ## Scrub -/

theorem scrubSlots_keeps {s0 s : State} (c : Nat) (lo : Nat) (hi : Nat) (h : Keeps s0 s) : Keeps s0 (scrubSlots s c lo hi) := by
  unfold scrubSlots; try dsimp only
  repeat' (first | with_reducible assumption | intro _ | with_reducible apply each_keeps | with_reducible apply readSlot_keeps)

theorem scrubUnits_keeps {s0 s : State} (a : Nat) (c : Nat) (k : Nat) (h : Keeps s0 s) : Keeps s0 (scrubUnits s a c k) := by
  unfold scrubUnits; try dsimp only
  repeat' (first
      | with_reducible assumption | intro _ | with_reducible apply setBg_keeps | with_reducible apply scrubSlots_keeps
      | with_reducible apply ite_keeps)

theorem scrubGrans_keeps {s0 s : State} (k : Nat) (h : Keeps s0 s) : Keeps s0 (scrubGrans s k) := by
  unfold scrubGrans; try dsimp only
  repeat' (first
      | with_reducible assumption | intro _ | with_reducible apply add64_keeps | with_reducible apply hbmEcc_keeps
      | with_reducible apply setBg_keeps)

theorem bgDo_keeps {s0 s : State} (n : Nat) (a : Nat) (cyc : Nat) (h : Keeps s0 s) : Keeps s0 (bgDo s n a cyc) := by
  unfold bgDo; try dsimp only
  repeat' (first
      | with_reducible assumption | intro _ | with_reducible apply scrubGrans_keeps | with_reducible apply each_keeps
      | with_reducible apply scrubUnits_keeps | with_reducible apply ite_keeps)

theorem bgClaims_keeps {s0 s : State} (n : Nat) (pool : Nat) (h : Keeps s0 s) : Keeps s0 (bgClaims s n pool).1 := by
  unfold bgClaims; try dsimp only
  repeat' (first
      | with_reducible assumption | intro _ | with_reducible apply bgDo_keeps | with_reducible apply foldl_keeps
      | with_reducible apply foldlFst_keeps | with_reducible apply ite_keeps | dsimp only | split)

theorem bgTakes_keeps {s0 s : State} (n : Nat) (len : Nat) (h : Keeps s0 s) : Keeps s0 (bgTakes s n len).1 := by
  unfold bgTakes; try dsimp only
  repeat' (first
      | with_reducible assumption | intro _ | with_reducible apply bgDo_keeps | with_reducible apply bump_keeps
      | with_reducible apply foldl_keeps | with_reducible apply foldlFst_keeps | with_reducible apply ite_keeps | dsimp only
      | split)

/-! ## Pitch -/

theorem abandonRx_keeps {s0 s : State} (n : Nat) (j : Nat) (h : Keeps s0 s) : Keeps s0 (abandonRx s n j) := by
  unfold abandonRx; try dsimp only
  repeat' (first
      | with_reducible assumption | intro _ | with_reducible apply each_keeps | with_reducible apply modBly_keeps
      | with_reducible apply modClu_keeps | with_reducible apply bump_keeps | with_reducible apply ite_keeps)

theorem countStalls_keeps {s0 s : State} (n : Nat) (p : Pitch) (e : Nat) (h : Keeps s0 s) : Keeps s0 (countStalls s n p e) := by
  unfold countStalls; try dsimp only
  repeat' (first | with_reducible assumption | intro _ | with_reducible apply modPart_keeps)

theorem abandonClus_keeps {s0 s : State} (j : Nat) (ls : List (Nat × Nat)) (c : Nat) (h : Keeps s0 s)
    : Keeps s0 (abandonClus s j ls c) := by
  unfold abandonClus; try dsimp only
  repeat' (first
      | with_reducible assumption | intro _ | with_reducible apply setClu_keeps | with_reducible apply bumpBy_keeps
      | with_reducible apply each_keeps | with_reducible apply modClu_keeps | with_reducible apply ite_keeps | dsimp only | split
      | fail_if_no_progress (with_reducible apply Keeps.lit))

theorem abandonRead_keeps {s0 s : State} (c : Nat) (h : Keeps s0 s) : Keeps s0 (abandonRead s c) := by
  unfold abandonRead; try dsimp only
  repeat' (first | with_reducible assumption | intro _ | with_reducible apply bump_keeps | with_reducible apply ite_keeps)

theorem tally_keeps {s0 s : State} (n : Nat) (j : Nat) (used : Nat) (ent : Nat) (h : Keeps s0 s) : Keeps s0 (tally s n j used ent) := by
  unfold tally; try dsimp only
  repeat' (first
      | with_reducible assumption | intro _ | with_reducible apply charge_keeps | with_reducible apply setPacc_keeps
      | with_reducible apply modJob_keeps | with_reducible apply ite_keeps)

theorem openSeg_keeps {s0 s : State} (n : Nat) (now : Nat) (h : Keeps s0 s) : Keeps s0 (openSeg s n now) := by
  unfold openSeg; try dsimp only
  repeat' (first | with_reducible assumption | intro _ | with_reducible apply bgClaims_keeps | with_reducible apply modPart_keeps)

theorem returnPool_keeps {s0 s : State} (n : Nat) (k : Nat) (h : Keeps s0 s) : Keeps s0 (returnPool s n k) := by
  unfold returnPool; try dsimp only
  repeat' (first | with_reducible assumption | intro _ | with_reducible apply modPart_keeps)

theorem endPitch_keeps {s0 s : State} (n : Nat) (e : Nat) (h : Keeps s0 s) : Keeps s0 (endPitch s n e) := by
  unfold endPitch; try dsimp only
  repeat' (first
      | with_reducible assumption | intro _ | with_reducible apply abandonRx_keeps | with_reducible apply each_keeps
      | with_reducible apply countStalls_keeps | with_reducible apply abandonClus_keeps | with_reducible apply modClu_keeps
      | with_reducible apply abandonRead_keeps | with_reducible apply modPart_keeps | with_reducible apply tally_keeps
      | with_reducible apply openSeg_keeps | with_reducible apply returnPool_keeps | with_reducible apply ite_keeps | dsimp only
      | split)

theorem dropReads_keeps {s0 s : State} (j : Nat) (c : Nat) (h : Keeps s0 s) : Keeps s0 (dropReads s j c) := by
  unfold dropReads; try dsimp only
  repeat' (first
      | with_reducible assumption | intro _ | with_reducible apply bump_keeps | with_reducible apply modClu_keeps
      | with_reducible apply ite_keeps | dsimp only | split)

theorem jobFault_keeps {s0 s : State} (n : Nat) (j : Nat) (cause : Nat) (h : Keeps s0 s) : Keeps s0 (jobFault s n j cause) := by
  unfold jobFault; try dsimp only
  repeat' (first
      | with_reducible assumption | intro _ | with_reducible apply endPitch_keeps | with_reducible apply each_keeps
      | with_reducible apply dropReads_keeps | with_reducible apply zeroSlots_keeps | with_reducible apply modLane_keeps
      | with_reducible apply faultStrm_keeps | with_reducible apply modJob_keeps | with_reducible apply setEvt_keeps
      | with_reducible apply bump_keeps | with_reducible apply ite_keeps | dsimp only | split)

theorem jobTeardownDoneEff_keeps {s0 s : State} (n : Nat) (j : Nat) (waited : Nat) (h : Keeps s0 s)
    : Keeps s0 (jobTeardownDoneEff n j waited s) := by
  unfold jobTeardownDoneEff; try dsimp only
  repeat' (first
      | with_reducible assumption | intro _ | with_reducible apply modJob_keeps | with_reducible apply modPart_keeps
      | with_reducible apply ite_keeps | dsimp only | split)

theorem grantBe_keeps {s0 s : State} (n : Nat) (e : Nat) (now : Nat) (h : Keeps s0 s) : Keeps s0 (grantBe s n e now).1 := by
  unfold grantBe; try dsimp only
  repeat' (first
      | with_reducible assumption | intro _ | with_reducible apply modPart_keeps | with_reducible apply foldl_keeps
      | with_reducible apply foldlFst_keeps | with_reducible apply ite_keeps | dsimp only | split)

theorem skipPitch_keeps {s0 s : State} (n : Nat) (e : Nat) (now : Nat) (h : Keeps s0 s) : Keeps s0 (skipPitch s n e now) := by
  unfold skipPitch; try dsimp only
  repeat' (first
      | with_reducible assumption | intro _ | with_reducible apply modPart_keeps | with_reducible apply tally_keeps
      | with_reducible apply grantBe_keeps | with_reducible apply returnPool_keeps | with_reducible apply openSeg_keeps
      | with_reducible apply ite_keeps)

theorem clusFault_keeps {s0 s : State} (c : Nat) (cause : Nat) (h : Keeps s0 s) : Keeps s0 (clusFault s c cause) := by
  unfold clusFault; try dsimp only
  repeat' (first | with_reducible assumption | intro _ | with_reducible apply jobFault_keeps)

theorem beginPitch_keeps {s0 s : State} (n : Nat) (e : Nat) (now : Nat) (h : Keeps s0 s) : Keeps s0 (beginPitch s n e now) := by
  unfold beginPitch; try dsimp only
  repeat' (first
      | with_reducible assumption | intro _ | with_reducible apply each_keeps | with_reducible apply modClu_keeps
      | with_reducible apply modPart_keeps | with_reducible apply grantBe_keeps | with_reducible apply bgTakes_keeps
      | with_reducible apply ite_keeps)

theorem pitchStartEff_keeps {s0 s : State} (n : Nat) (e : Nat) (h : Keeps s0 s) : Keeps s0 (pitchStartEff n e s) := by
  unfold pitchStartEff; try dsimp only
  repeat' (first
      | with_reducible assumption | intro _ | with_reducible apply toCycle_keeps | with_reducible apply skipPitch_keeps
      | with_reducible apply beginPitch_keeps | with_reducible apply ite_keeps)

end Sys2Proof.Machine
end

