-- ==== Sys2Proof/Laws/KeepsCluster.lean ====
section
/-!
SUPPORT. The clusters: sequencing, memory, engines, control cores: what each operation keeps (Laws/Keeps).
-/
namespace Sys2Proof.Machine

set_option Elab.async false

/-! ## InFlight -/

theorem slotEff_keeps {s0 s : State} (core : Nat) (i : Nat) (off : Nat) (bs : List Byte) (full : Option Bool) (h : Keeps s0 s)
    : Keeps s0 (slotEff s core i off bs full) := by
  unfold slotEff; try dsimp only
  repeat' (first
      | with_reducible assumption | intro _ | with_reducible apply correct_keeps | with_reducible apply countUe_keeps
      | with_reducible apply setSlot_keeps)

theorem setFlags_keeps {s0 s : State} (core : Nat) (fo : Bool) (fn : Bool) (h : Keeps s0 s) : Keeps s0 (setFlags s core fo fn) := by
  unfold setFlags; try dsimp only
  repeat' (first | with_reducible assumption | intro _ | with_reducible apply wrN_keeps | with_reducible apply ite_keeps)

theorem sumPush_keeps {s0 s : State} (c : Nat) (v : DWord) (h : Keeps s0 s) : Keeps s0 (sumPush s c v) := by
  unfold sumPush; try dsimp only
  repeat' (first
      | with_reducible assumption | intro _ | with_reducible apply modClu_keeps | with_reducible apply setEvt_keeps
      | with_reducible apply bump_keeps | with_reducible apply ite_keeps)

theorem setCore_keeps {s0 s : State} (k : Nat) (x : Core) (h : Keeps s0 s) : Keeps s0 (setCore s k x) := by
  unfold setCore; try dsimp only
  repeat' (first | with_reducible assumption | intro _ | dsimp only | fail_if_no_progress (with_reducible apply Keeps.lit))

theorem modCore_keeps {s0 s : State} (k : Nat) (f : Core → Core) (h : Keeps s0 s) : Keeps s0 (modCore s k f) := by
  unfold modCore; try dsimp only
  repeat' (first | with_reducible assumption | intro _ | with_reducible apply setCore_keeps)

theorem applyEff_keeps {s0 s : State} (c : Nat) (e : Eff) (h : Keeps s0 s) : Keeps s0 (applyEff s c e) := by
  unfold applyEff; try dsimp only
  repeat' (first
      | with_reducible assumption | intro _ | with_reducible apply countBytes_keeps | with_reducible apply slotEff_keeps
      | with_reducible apply clusFault_keeps | with_reducible apply modSlot_keeps | with_reducible apply setFlags_keeps
      | with_reducible apply sumPush_keeps | with_reducible apply modCore_keeps | with_reducible apply ite_keeps | dsimp only
      | split)

theorem landDue_keeps {s0 s : State} (c : Nat) (t : Nat) (frozen : Bool) (h : Keeps s0 s) : Keeps s0 (landDue s c t frozen) := by
  unfold landDue; try dsimp only
  repeat' (first
      | with_reducible assumption | intro _ | with_reducible apply setClu_keeps | with_reducible apply each_keeps
      | with_reducible apply applyEff_keeps | with_reducible apply ite_keeps)

theorem later_keeps {s0 s : State} (c : Nat) (l : List (Nat × Eff)) (h : Keeps s0 s) : Keeps s0 (later s c l) := by
  unfold later; try dsimp only
  repeat' (first | with_reducible assumption | intro _ | with_reducible apply modClu_keeps | with_reducible apply ite_keeps)

theorem freeze_keeps {s0 s : State} (c : Nat) (w : Wait) (cls : Nat) (h : Keeps s0 s) : Keeps s0 (freeze s c w cls) := by
  unfold freeze; try dsimp only
  repeat' (first | with_reducible assumption | intro _ | with_reducible apply modClu_keeps)

theorem freezeOn_keeps {s0 s : State} (c : Nat) (w : Wait) (h : Keeps s0 s) : Keeps s0 (freezeOn s c w) := by
  unfold freezeOn; try dsimp only
  repeat' (first | with_reducible assumption | intro _ | with_reducible apply landDue_keeps | with_reducible apply freeze_keeps)

theorem chargePort_keeps {s0 s : State} (c : Nat) (l : List Rd) (h : Keeps s0 s) : Keeps s0 (chargePort s c l) := by
  unfold chargePort; try dsimp only
  repeat' (first
      | with_reducible assumption | intro _ | with_reducible apply modClu_keeps | with_reducible apply foldl_keeps
      | with_reducible apply foldlFst_keeps | with_reducible apply ite_keeps)

/-! ## Runs -/

theorem gpPort_keeps {s0 s : State} (c : Nat) (l : List Rd) (r : OpRun) (p : GpPar) (h : Keeps s0 s) : Keeps s0 (gpPort s c l r p) := by
  unfold gpPort; try dsimp only
  repeat' (first
      | with_reducible assumption | intro _ | with_reducible apply chargePort_keeps | with_reducible apply foldl_keeps
      | with_reducible apply foldlFst_keeps | with_reducible apply ite_keeps | dsimp only | split)

theorem addStall_keeps {s0 s : State} (n : Nat) (a : Nat) (k : Nat) (cls : Nat) (h : Keeps s0 s) : Keeps s0 (addStall s n a k cls) := by
  unfold addStall; try dsimp only
  repeat' (first | with_reducible assumption | intro _ | with_reducible apply modPart_keeps)

theorem endStall_keeps {s0 s : State} (c : Nat) (k : Nat) (h : Keeps s0 s) : Keeps s0 (endStall s c k) := by
  unfold endStall; try dsimp only
  repeat' (first
      | with_reducible assumption | intro _ | with_reducible apply each_keeps | with_reducible apply modClu_keeps
      | with_reducible apply toCycle_keeps | with_reducible apply addStall_keeps | with_reducible apply ite_keeps)

theorem portStall_keeps {s0 s : State} (c : Nat) (a : Nat) (k : Nat) (h : Keeps s0 s) : Keeps s0 (portStall s c a k) := by
  unfold portStall; try dsimp only
  repeat' (first
      | with_reducible assumption | intro _ | with_reducible apply endStall_keeps | with_reducible apply modClu_keeps
      | with_reducible apply ite_keeps)

theorem addEffs_keeps {s0 s : State} (c : Nat) (l : List (Nat × Eff)) (h : Keeps s0 s) : Keeps s0 (addEffs s c l) := by
  unfold addEffs; try dsimp only
  repeat' (first | with_reducible assumption | intro _ | with_reducible apply modClu_keeps | with_reducible apply ite_keeps)

theorem noteRemote_keeps {s0 s : State} (c : Nat) (k : Nat) (l : List Ref) (h : Keeps s0 s) : Keeps s0 (noteRemote s c k l) := by
  unfold noteRemote; try dsimp only
  repeat' (first
      | with_reducible assumption | intro _ | with_reducible apply modClu_keeps | with_reducible apply ite_keeps | dsimp only
      | split)

theorem submitAll_keeps {s0 s : State} (c : Nat) (bs : List Byte) (h : Keeps s0 s) : Keeps s0 (submitAll s c bs) := by
  unfold submitAll; try dsimp only
  repeat' (first | with_reducible assumption | intro _ | with_reducible apply modClu_keeps)

theorem bookUntil_keeps {s0 s : State} (c : Nat) (core : Nat) (t : Nat) (units : List Nat) (h : Keeps s0 s)
    : Keeps s0 (bookUntil s c core t units) := by
  unfold bookUntil; try dsimp only
  repeat' (first | with_reducible assumption | intro _ | with_reducible apply modClu_keeps)

/-- Every state that an event of a run comes to keeps what `Keeps` speaks of. -/
def RanKeeps (s0 : State) : Ran → Prop
  | .wait _ => True
  | .fault s => Keeps s0 s
  | .on s _ => Keeps s0 s

theorem RanKeeps.wait {s0 : State} {w : Wait} : RanKeeps s0 (.wait w) := trivial
theorem RanKeeps.fault {s0 s : State} (h : Keeps s0 s) : RanKeeps s0 (.fault s) := h
theorem RanKeeps.on {s0 s : State} {r : OpRun} (h : Keeps s0 s) : RanKeeps s0 (.on s r) := h
theorem RanKeeps.ite {s0 : State} {p : Prop} [Decidable p] {a b : Ran} (h : RanKeeps s0 a) (k : RanKeeps s0 b) :
    RanKeeps s0 (if p then a else b) := by split <;> assumption

theorem runRead_keeps {s0 s : State} {c : Nat} {l : List Rd} {f : State → List Byte → Ran}
    (hf : ∀ t bs, Keeps s0 t → RanKeeps s0 (f t bs)) (h : Keeps s0 s) : RanKeeps s0 ((runRead s c l).andThen f) := by
  unfold runRead; dsimp only
  split
  · exact trivial
  · split
    · exact clusFault_keeps _ _ (readAll_keeps _ h)
    · exact hf _ _ (noteRemote_keeps _ _ _ (chargePort_keeps _ _ (readAll_keeps _ h)))

theorem streamOn_keeps {s0 s : State} (c : Nat) (r : OpRun) (h : Keeps s0 s) : RanKeeps s0 (streamOn s c r) := by
  unfold streamOn; dsimp only
  repeat' (first
      | with_reducible assumption | intro _ | with_reducible apply RanKeeps.wait | with_reducible apply RanKeeps.fault
      | with_reducible apply RanKeeps.on | with_reducible apply RanKeeps.ite | with_reducible apply ite_keeps
      | with_reducible apply addEffs_keeps)

theorem drainOut_keeps {s0 s : State} (c : Nat) (r : OpRun) (h : Keeps s0 s) : RanKeeps s0 (drainOut s c r) := by
  unfold drainOut; dsimp only
  repeat' (first
      | with_reducible assumption | intro _ | with_reducible apply RanKeeps.wait | with_reducible apply RanKeeps.fault
      | with_reducible apply RanKeeps.on | with_reducible apply RanKeeps.ite | with_reducible apply ite_keeps
      | with_reducible apply addEffs_keeps | with_reducible apply noteRemote_keeps | with_reducible apply chargePort_keeps
      | with_reducible apply readAll_keeps | with_reducible apply clusFault_keeps | with_reducible apply gpPort_keeps
      | with_reducible apply modCore_keeps | with_reducible apply setCore_keeps)

theorem chainGo_keeps {s0 s : State} (c : Nat) (r : OpRun) (p : GpPar) (j : Nat) (h : Keeps s0 s) : RanKeeps s0 (chainGo s c r p j) := by
  unfold chainGo; dsimp only
  repeat' (first
      | with_reducible assumption | intro _ | with_reducible apply RanKeeps.wait | with_reducible apply RanKeeps.fault
      | with_reducible apply RanKeeps.on | with_reducible apply RanKeeps.ite | with_reducible apply ite_keeps
      | with_reducible apply addEffs_keeps | with_reducible apply noteRemote_keeps | with_reducible apply chargePort_keeps
      | with_reducible apply readAll_keeps | with_reducible apply clusFault_keeps | with_reducible apply gpPort_keeps
      | with_reducible apply modCore_keeps | with_reducible apply setCore_keeps | with_reducible apply submitAll_keeps
      | with_reducible apply bookUntil_keeps | split)

theorem chainPars_keeps {s0 s : State} (c : Nat) (r : OpRun) (h : Keeps s0 s) : RanKeeps s0 (chainPars s c r) := by
  unfold chainPars; dsimp only
  repeat' (first
      | with_reducible assumption | intro _ | with_reducible apply RanKeeps.wait | with_reducible apply RanKeeps.fault
      | with_reducible apply RanKeeps.on | with_reducible apply RanKeeps.ite | with_reducible apply ite_keeps
      | with_reducible apply addEffs_keeps | with_reducible apply noteRemote_keeps | with_reducible apply chargePort_keeps
      | with_reducible apply readAll_keeps | with_reducible apply clusFault_keeps | with_reducible apply gpPort_keeps
      | with_reducible apply modCore_keeps | with_reducible apply setCore_keeps | with_reducible apply submitAll_keeps
      | with_reducible apply bookUntil_keeps | split)

theorem chainStep_keeps {s0 s : State} (c : Nat) (r : OpRun) (h : Keeps s0 s) : RanKeeps s0 (chainStep s c r) := by
  unfold chainStep; dsimp only
  repeat' (first
      | with_reducible assumption | intro _ | with_reducible apply RanKeeps.wait | with_reducible apply RanKeeps.fault
      | with_reducible apply RanKeeps.on | with_reducible apply RanKeeps.ite | with_reducible apply ite_keeps
      | with_reducible apply runRead_keeps | with_reducible apply chainPars_keeps | with_reducible apply chainGo_keeps)

/-- The next event of a run. -/
theorem runStep_keeps {s0 s : State} (c : Nat) (r : OpRun) (h : Keeps s0 s) : RanKeeps s0 (runStep s c r) := by
  unfold runStep tileStep streamStep drainStep copyStep dmaStep
  repeat' (first
      | with_reducible assumption | intro _ | with_reducible apply RanKeeps.wait | with_reducible apply RanKeeps.fault
      | with_reducible apply RanKeeps.on | with_reducible apply RanKeeps.ite | with_reducible apply ite_keeps
      | with_reducible apply runRead_keeps | with_reducible apply streamOn_keeps | with_reducible apply drainOut_keeps
      | with_reducible apply chainStep_keeps | with_reducible apply addEffs_keeps | with_reducible apply noteRemote_keeps
      | with_reducible apply chargePort_keeps | with_reducible apply readAll_keeps | with_reducible apply clusFault_keeps
      | with_reducible apply gpPort_keeps | with_reducible apply modCore_keeps | with_reducible apply setCore_keeps
      | with_reducible apply submitAll_keeps | with_reducible apply bookUntil_keeps | split)

theorem runOne_keeps {s0 s : State} (c : Nat) (i : Nat) (h : Keeps s0 s) : Keeps s0 (runOne c s i) := by
  unfold runOne
  refine ite_keeps h ?_
  split
  · exact h
  · rename_i r _
    refine ite_keeps h ?_
    have hr := runStep_keeps c r h
    split <;> rename_i e <;> rw [e] at hr
    · exact ite_keeps h (freeze_keeps _ _ _ h)
    · exact hr
    · exact modClu_keeps _ _ hr

theorem atRead_keeps {s0 s : State} (c : Nat) (l : List (Option (Nat × Nat))) (k : State → State) (h_k : ∀ x0, Keeps s0 x0 → Keeps s0
    (k x0)) (h : Keeps s0 s) : Keeps s0 (atRead s c l k) := by
  unfold atRead; try dsimp only
  repeat' (first
      | with_reducible assumption | intro _ | with_reducible apply h_k | with_reducible apply freeze_keeps
      | with_reducible apply clusFault_keeps | with_reducible apply readAll_keeps | with_reducible apply chargePort_keeps
      | with_reducible apply ite_keeps | dsimp only | split)

theorem putRun_keeps {s0 s : State} (c : Nat) (r : AttnRun) (h : Keeps s0 s) : Keeps s0 (putRun s c r) := by
  unfold putRun; try dsimp only
  repeat' (first | with_reducible assumption | intro _ | with_reducible apply modClu_keeps)

theorem atBlock_keeps {s0 s : State} (c : Nat) (r : AttnRun) (h : Keeps s0 s) : Keeps s0 (atBlock s c r) := by
  unfold atBlock; try dsimp only
  repeat' (first
      | with_reducible assumption | intro _ | with_reducible apply atRead_keeps | with_reducible apply tagSlots_keeps
      | with_reducible apply putRun_keeps | with_reducible apply addEffs_keeps | with_reducible apply ite_keeps)

theorem landPosts_keeps {s0 s : State} (c : Nat) (h : Keeps s0 s) : Keeps s0 (landPosts s c) := by
  unfold landPosts; try dsimp only
  repeat' (first
      | with_reducible assumption | intro _ | with_reducible apply each_keeps | with_reducible apply setClu_keeps
      | with_reducible apply applyEff_keeps | with_reducible apply ite_keeps)

theorem loadwMove_keeps {s0 s : State} (c : Nat) (r : OpRun) (room : Nat) (h : Keeps s0 s) : Keeps s0 (loadwMove s c r room).1 := by
  unfold loadwMove; try dsimp only
  repeat' (first
      | with_reducible assumption | intro _ | with_reducible apply noteRemote_keeps | with_reducible apply readAll_keeps
      | with_reducible apply clusFault_keeps | with_reducible apply addEffs_keeps | with_reducible apply ite_keeps | dsimp only
      | split)

theorem loadwServe_keeps {s0 s : State} (c : Nat) (core : Nat) (room : Nat) (h : Keeps s0 s) : Keeps s0 (loadwServe s c core room) := by
  unfold loadwServe; try dsimp only
  repeat' (first
      | with_reducible assumption | intro _ | with_reducible apply loadwMove_keeps | with_reducible apply modClu_keeps
      | with_reducible apply foldl_keeps | with_reducible apply foldlFst_keeps | with_reducible apply ite_keeps | dsimp only
      | split)

theorem loadwGate_keeps {s0 s : State} (k : Nat) (c : Nat) (h : Keeps s0 s) : Keeps s0 (loadwGate k s c) := by
  induction k generalizing s with
  | zero => exact h
  | succ k ih =>
    unfold loadwGate; dsimp only
    repeat' (first
        | with_reducible assumption | intro _ | with_reducible apply ih | with_reducible apply freezeOn_keeps
        | with_reducible apply loadwServe_keeps | with_reducible apply portStall_keeps | with_reducible apply foldl_keeps
        | with_reducible apply foldlFst_keeps | with_reducible apply each_keeps | with_reducible apply ite_keeps | dsimp only
        | split)

theorem runsPass_keeps {s0 s : State} (c : Nat) (h : Keeps s0 s) : Keeps s0 (runsPass s c) := by
  unfold runsPass; try dsimp only
  repeat' (first
      | with_reducible assumption | intro _ | with_reducible apply modClu_keeps | with_reducible apply each_keeps
      | with_reducible apply runOne_keeps | with_reducible apply ite_keeps)

theorem atFinish_keeps {s0 s : State} (c : Nat) (r : AttnRun) (h : Keeps s0 s) : Keeps s0 (atFinish s c r) := by
  unfold atFinish; try dsimp only
  repeat' (first
      | with_reducible assumption | intro _ | with_reducible apply atRead_keeps | with_reducible apply modClu_keeps
      | with_reducible apply modCore_keeps)

theorem atRunN_keeps {s0 s : State} (k c : Nat) (h : Keeps s0 s) : Keeps s0 (atRunN k s c) := by
  induction k generalizing s with
  | zero => exact h
  | succ k ih =>
    unfold atRunN; dsimp only
    repeat' (first
        | with_reducible assumption | intro _ | with_reducible apply ih | with_reducible apply atBlock_keeps
        | with_reducible apply atFinish_keeps | with_reducible apply foldl_keeps | with_reducible apply foldlFst_keeps
        | with_reducible apply each_keeps | with_reducible apply ite_keeps | dsimp only | split)

theorem atRun_keeps {s0 s : State} (c : Nat) (h : Keeps s0 s) : Keeps s0 (atRun s c) := by
  unfold atRun; try dsimp only
  repeat' (first | with_reducible assumption | intro _ | with_reducible apply atRunN_keeps | with_reducible apply ite_keeps)

theorem effsGate_keeps {s0 s : State} (c : Nat) (h : Keeps s0 s) : Keeps s0 (effsGate s c) := by
  unfold effsGate; try dsimp only
  repeat' (first | with_reducible assumption | intro _ | with_reducible apply freeze_keeps | dsimp only | split)

theorem enterCycle_keeps {s0 s : State} (c : Nat) (h : Keeps s0 s) : Keeps s0 (enterCycle s c) := by
  unfold enterCycle; try dsimp only
  repeat' (first
      | with_reducible assumption | intro _ | with_reducible apply loadwGate_keeps | with_reducible apply runsPass_keeps
      | with_reducible apply atRun_keeps | with_reducible apply effsGate_keeps | with_reducible apply landDue_keeps
      | with_reducible apply ite_keeps)

theorem applyFar_keeps {s0 s : State} (c : Nat) (h : Keeps s0 s) : Keeps s0 (applyFar s c) := by
  unfold applyFar; try dsimp only
  repeat' (first
      | with_reducible assumption | intro _ | with_reducible apply each_keeps | with_reducible apply modClu_keeps
      | with_reducible apply ite_keeps)

theorem addRuns_keeps {s0 s : State} (c : Nat) (l : List OpRun) (h : Keeps s0 s) : Keeps s0 (addRuns s c l) := by
  unfold addRuns; try dsimp only
  repeat' (first
      | with_reducible assumption | intro _ | with_reducible apply modClu_keeps | with_reducible apply foldl_keeps
      | with_reducible apply foldlFst_keeps | with_reducible apply ite_keeps)

theorem leaveCycle_keeps {s0 s : State} (c : Nat) (h : Keeps s0 s) : Keeps s0 (leaveCycle s c) := by
  unfold leaveCycle; try dsimp only
  repeat' (first
      | with_reducible assumption | intro _ | with_reducible apply each_keeps | with_reducible apply loadwServe_keeps
      | with_reducible apply landDue_keeps | with_reducible apply portStall_keeps | with_reducible apply modClu_keeps
      | with_reducible apply foldl_keeps | with_reducible apply foldlFst_keeps | with_reducible apply ite_keeps)

theorem remGate_keeps {s0 s : State} (c : Nat) (h : Keeps s0 s) : Keeps s0 (remGate s c) := by
  unfold remGate; try dsimp only
  repeat' (first
      | with_reducible assumption | intro _ | with_reducible apply freeze_keeps | with_reducible apply modClu_keeps | dsimp only
      | split)

theorem drainN_keeps {s0 s : State} (k : Nat) (e c : Nat) (h : Keeps s0 s) : Keeps s0 (drainN k e s c) := by
  induction k generalizing s with
  | zero => exact h
  | succ k ih =>
    unfold drainN; dsimp only
    repeat' (first
        | with_reducible assumption | intro _ | with_reducible apply ih | with_reducible apply landPosts_keeps
        | with_reducible apply leaveCycle_keeps | with_reducible apply enterCycle_keeps | with_reducible apply remGate_keeps
        | with_reducible apply applyFar_keeps | with_reducible apply modClu_keeps | with_reducible apply foldl_keeps
        | with_reducible apply foldlFst_keeps | with_reducible apply each_keeps | with_reducible apply ite_keeps | dsimp only
        | split)

/-! ## Sequencer -/

theorem pageCheck_keeps {s0 s : State} (c : Nat) (h : Keeps s0 s) : Keeps s0 (pageCheck s c) := by
  unfold pageCheck; try dsimp only
  repeat' (first | with_reducible assumption | intro _ | with_reducible apply freeze_keeps | with_reducible apply ite_keeps)

theorem finishHalt_keeps {s0 s : State} (c : Nat) (h : Keeps s0 s) : Keeps s0 (finishHalt s c) := by
  unfold finishHalt; try dsimp only
  repeat' (first | with_reducible assumption | intro _ | with_reducible apply modClu_keeps | with_reducible apply ite_keeps)

theorem altLateLanes_keeps {s0 s : State} (n : Nat) (j : Nat) (c : Nat) (h : Keeps s0 s) : Keeps s0 (altLateLanes s n j c) := by
  unfold altLateLanes; try dsimp only
  repeat' (first | with_reducible assumption | intro _ | with_reducible apply each_keeps | with_reducible apply modLane_keeps)

theorem sampleFor_keeps {s0 s : State} (c : Nat) (pc : Nat) (h : Keeps s0 s) : Keeps s0 (sampleFor s c pc) := by
  unfold sampleFor; try dsimp only
  repeat' (first
      | with_reducible assumption | intro _ | with_reducible apply modClu_keeps | with_reducible apply setEvt_keeps
      | with_reducible apply bump_keeps | with_reducible apply altLateLanes_keeps | with_reducible apply ite_keeps)

theorem sampleDue_keeps {s0 s : State} (c : Nat) (k : Ctl) (back : Bool) (h : Keeps s0 s) : Keeps s0 (sampleDue s c k back) := by
  unfold sampleDue; try dsimp only
  repeat' (first
      | with_reducible assumption | intro _ | with_reducible apply sampleFor_keeps | with_reducible apply ite_keeps | dsimp only
      | split)

theorem moveTo_keeps {s0 s : State} (c : Nat) (k : Ctl) (back : Bool) (h : Keeps s0 s) : Keeps s0 (moveTo s c k back) := by
  unfold moveTo; try dsimp only
  repeat' (first
      | with_reducible assumption | intro _ | with_reducible apply leaveCycle_keeps | with_reducible apply sampleDue_keeps
      | with_reducible apply setClu_keeps | with_reducible apply pageCheck_keeps | with_reducible apply enterCycle_keeps
      | with_reducible apply remGate_keeps | with_reducible apply applyFar_keeps | with_reducible apply ite_keeps)

theorem settleN_keeps {s0 s : State} (k c : Nat) (h : Keeps s0 s) : Keeps s0 (settleN k s c) := by
  induction k generalizing s with
  | zero => exact h
  | succ k ih =>
    unfold settleN; dsimp only
    repeat' (first
        | with_reducible assumption | intro _ | with_reducible apply ih | with_reducible apply moveTo_keeps
        | with_reducible apply foldl_keeps | with_reducible apply foldlFst_keeps | with_reducible apply each_keeps
        | with_reducible apply ite_keeps)

theorem settle_keeps {s0 s : State} (c : Nat) (h : Keeps s0 s) : Keeps s0 (settle s c) := by
  unfold settle; try dsimp only
  repeat' (first
      | with_reducible assumption | intro _ | with_reducible apply pageCheck_keeps | with_reducible apply enterCycle_keeps
      | with_reducible apply applyFar_keeps | with_reducible apply finishHalt_keeps | with_reducible apply drainN_keeps
      | with_reducible apply settleN_keeps | with_reducible apply ite_keeps)

theorem markDid_keeps {s0 s : State} (c : Nat) (k : Nat) (h : Keeps s0 s) : Keeps s0 (markDid s c k) := by
  unfold markDid; try dsimp only
  repeat' (first | with_reducible assumption | intro _ | with_reducible apply modClu_keeps | with_reducible apply toCycle_keeps)

theorem loopEEff_keeps {s0 s : State} (c : Nat) (h : Keeps s0 s) : Keeps s0 (loopEEff c s) := by
  unfold loopEEff; try dsimp only
  repeat' (first
      | with_reducible assumption | intro _ | with_reducible apply settle_keeps | with_reducible apply moveTo_keeps
      | with_reducible apply markDid_keeps | with_reducible apply ite_keeps)

theorem haltEff_keeps {s0 s : State} (c : Nat) (h : Keeps s0 s) : Keeps s0 (haltEff c s) := by
  unfold haltEff; try dsimp only
  repeat' (first
      | with_reducible assumption | intro _ | with_reducible apply settle_keeps | with_reducible apply markDid_keeps
      | with_reducible apply modClu_keeps | with_reducible apply ite_keeps)

theorem loopSEff_keeps {s0 s : State} (c : Nat) (h : Keeps s0 s) : Keeps s0 (loopSEff c s) := by
  unfold loopSEff; try dsimp only
  repeat' (first
      | with_reducible assumption | intro _ | with_reducible apply settle_keeps | with_reducible apply modClu_keeps
      | with_reducible apply markDid_keeps | with_reducible apply ite_keeps)

theorem bpEff_keeps {s0 s : State} (c : Nat) (h : Keeps s0 s) : Keeps s0 (bpEff c s) := by
  unfold bpEff; try dsimp only
  repeat' (first
      | with_reducible assumption | intro _ | with_reducible apply settle_keeps | with_reducible apply moveTo_keeps
      | with_reducible apply modClu_keeps | with_reducible apply markDid_keeps | with_reducible apply ite_keeps | dsimp only
      | split)

theorem flushClus_keeps {s0 s : State} (e : Nat) (c : Nat) (h : Keeps s0 s) : Keeps s0 (flushClus e s c) := by
  unfold flushClus; try dsimp only
  repeat' (first
      | with_reducible assumption | intro _ | with_reducible apply finishHalt_keeps | with_reducible apply drainN_keeps
      | with_reducible apply applyFar_keeps)

theorem runTo_keeps {s0 s : State} (n : Nat) (e : Nat) (h : Keeps s0 s) : Keeps s0 (runTo s n e) := by
  unfold runTo; try dsimp only
  repeat' (first
      | with_reducible assumption | intro _ | with_reducible apply each_keeps | with_reducible apply flushClus_keeps
      | with_reducible apply ite_keeps | dsimp only | split)

theorem loadwAfter_keeps {s0 s : State} (c : Nat) (h : Keeps s0 s) : Keeps s0 (loadwAfter s c) := by
  unfold loadwAfter; try dsimp only
  repeat' (first | with_reducible assumption | intro _ | with_reducible apply loadwServe_keeps | dsimp only | split)

theorem stallClearEff_keeps {s0 s : State} (c : Nat) (cycles : Nat) (h : Keeps s0 s) : Keeps s0 (stallClearEff c cycles s) := by
  unfold stallClearEff; try dsimp only
  repeat' (first
      | with_reducible assumption | intro _ | with_reducible apply settle_keeps | with_reducible apply loadwAfter_keeps
      | with_reducible apply endStall_keeps | with_reducible apply ite_keeps | dsimp only | split)

theorem cutPitch_keeps {s0 s : State} (n : Nat) (h : Keeps s0 s) : Keeps s0 (cutPitch s n) := by
  unfold cutPitch; try dsimp only
  repeat' (first
      | with_reducible assumption | intro _ | with_reducible apply endPitch_keeps | with_reducible apply runTo_keeps | dsimp only
      | split)

theorem pitchEndEff_keeps {s0 s : State} (n : Nat) (cycle : Nat) (h : Keeps s0 s) : Keeps s0 (pitchEndEff n cycle s) := by
  unfold pitchEndEff; try dsimp only
  repeat' (first
      | with_reducible assumption | intro _ | with_reducible apply toCycle_keeps | with_reducible apply each_keeps
      | with_reducible apply modClu_keeps | with_reducible apply endPitch_keeps | with_reducible apply foldl_keeps
      | with_reducible apply foldlFst_keeps | with_reducible apply ite_keeps | dsimp only | split)

theorem pitchLimitEff_keeps {s0 s : State} (n : Nat) (h : Keeps s0 s) : Keeps s0 (pitchLimitEff n s) := by
  unfold pitchLimitEff; try dsimp only
  repeat' (first
      | with_reducible assumption | intro _ | with_reducible apply pitchEndEff_keeps | with_reducible apply each_keeps
      | with_reducible apply flushClus_keeps | with_reducible apply endPitch_keeps | with_reducible apply toCycle_keeps
      | with_reducible apply setEvt_keeps | with_reducible apply bump_keeps | with_reducible apply ite_keeps | dsimp only | split)

theorem altselSampleEff_keeps {s0 s : State} (c : Nat) (h : Keeps s0 s) : Keeps s0 (altselSampleEff c s) := by
  unfold altselSampleEff; try dsimp only
  repeat' (first
      | with_reducible assumption | intro _ | with_reducible apply settle_keeps | with_reducible apply sampleFor_keeps
      | with_reducible apply ite_keeps | dsimp only | split)

/-! ## Dma -/

theorem descData_keeps {s0 s : State} (d : Desc) (k : Nat) (hostData : Option (List Byte)) (h : Keeps s0 s)
    : Keeps s0 (descData s d k hostData).1 := by
  unfold descData; try dsimp only
  repeat' (first
      | with_reducible assumption | intro _ | with_reducible apply readSlot_keeps | with_reducible apply hbmUe_keeps
      | with_reducible apply ite_keeps | dsimp only | split)

theorem descCharge_keeps {s0 s : State} (n : Nat) (d : Desc) (k : Nat) (h : Keeps s0 s) : Keeps s0 (descCharge s n d k) := by
  unfold descCharge; try dsimp only
  repeat' (first | with_reducible assumption | intro _ | with_reducible apply charge_keeps)

theorem descWrite_keeps {s0 s : State} (n : Nat) (d : Desc) (bs : List Byte) (h : Keeps s0 s) : Keeps s0 (descWrite s n d bs).1 := by
  unfold descWrite; try dsimp only
  repeat' (first
      | with_reducible assumption | intro _ | with_reducible apply slotEff_keeps | with_reducible apply hbmWriteIn_keeps
      | with_reducible apply hostPut_keeps | with_reducible apply ite_keeps | dsimp only | split)

theorem descMove_keeps {s0 s : State} (n : Nat) (d : Desc) (hostData : Option (List Byte)) (h : Keeps s0 s) :
    Keeps s0 (descMove s n d hostData).1 := by
  have hd := descData_keeps d (nextLen d) hostData h
  unfold descMove; dsimp only
  split <;> rename_i e <;> rw [e] at hd <;> dsimp only at hd ⊢
  repeat' (first
      | with_reducible assumption | intro _ | with_reducible apply descWrite_keeps | with_reducible apply descCharge_keeps
      | with_reducible apply modSlot_keeps | with_reducible apply hostReadErr_keeps | with_reducible apply foldl_keeps
      | with_reducible apply foldlFst_keeps | with_reducible apply each_keeps | with_reducible apply ite_keeps | dsimp only | split)

theorem setDq_keeps {s0 s : State} (c : Nat) (q : Nat) (l : List Desc) (h : Keeps s0 s) : Keeps s0 (setDq s c q l) := by
  unfold setDq; try dsimp only
  repeat' (first | with_reducible assumption | intro _ | with_reducible apply modClu_keeps)

theorem descRun_keeps {s0 s : State} (k : Nat) (c q i : Nat) (hostData : Option (List Byte)) (h : Keeps s0 s)
    : Keeps s0 (descRun k s c q i hostData).1 := by
  induction k generalizing s with
  | zero => exact h
  | succ k ih =>
    unfold descRun; dsimp only
    repeat' (first
        | with_reducible assumption | intro _ | with_reducible apply ih | with_reducible apply setDq_keeps
        | with_reducible apply descMove_keeps | with_reducible apply foldl_keeps | with_reducible apply foldlFst_keeps
        | with_reducible apply each_keeps | with_reducible apply ite_keeps | dsimp only | split)

theorem admitHeld_keeps {s0 s : State} (c : Nat) (h : Keeps s0 s) : Keeps s0 (admitHeld s c) := by
  unfold admitHeld; try dsimp only
  repeat' (first
      | with_reducible assumption | intro _ | with_reducible apply setClu_keeps | with_reducible apply ite_keeps | dsimp only
      | split)

theorem descriptorDoneEff_keeps {s0 s : State} (c : Nat) (q : Nat) (hostData : Option (List Byte)) (h : Keeps s0 s)
    : Keeps s0 (descriptorDoneEff c q hostData s) := by
  unfold descriptorDoneEff; try dsimp only
  repeat' (first
      | with_reducible assumption | intro _ | with_reducible apply descRun_keeps | with_reducible apply admitHeld_keeps
      | with_reducible apply setDq_keeps | with_reducible apply jobFault_keeps | with_reducible apply modClu_keeps
      | with_reducible apply ite_keeps | dsimp only | split)

theorem descriptorStartEff_keeps {s0 s : State} (c : Nat) (q : Nat) (h : Keeps s0 s) : Keeps s0 (descriptorStartEff c q s) := by
  unfold descriptorStartEff; try dsimp only
  repeat' (first
      | with_reducible assumption | intro _ | with_reducible apply jobFault_keeps | with_reducible apply setDq_keeps | dsimp only
      | split)

/-! ## OpBase -/

theorem remoteAccessDoneEff_keeps {s0 s : State} (c : Nat) (cycles : Nat) (h : Keeps s0 s)
    : Keeps s0 (remoteAccessDoneEff c cycles s) := by
  unfold remoteAccessDoneEff; try dsimp only
  repeat' (first
      | with_reducible assumption | intro _ | with_reducible apply settle_keeps | with_reducible apply endStall_keeps | dsimp only
      | split)

theorem countOp_keeps {s0 s : State} (c : Nat) (u : USlot) (h : Keeps s0 s) : Keeps s0 (countOp s c u) := by
  unfold countOp; try dsimp only
  repeat' (first
      | with_reducible assumption | intro _ | with_reducible apply charge_keeps | with_reducible apply foldl_keeps
      | with_reducible apply foldlFst_keeps | with_reducible apply ite_keeps)

theorem startPlan_keeps {s0 s : State} (c : Nat) (p : Nat × Plan) (h : Keeps s0 s) : Keeps s0 (startPlan c s p) := by
  unfold startPlan; try dsimp only
  repeat' (first
      | with_reducible assumption | intro _ | with_reducible apply setCore_keeps | with_reducible apply each_keeps
      | with_reducible apply bookUntil_keeps | with_reducible apply modClu_keeps | dsimp only | split)

theorem runOp_keeps {s0 s : State} (c : Nat) (u : USlot) (opc : Nat) (f : State → State) (h_f : ∀ x0, Keeps s0 x0 → Keeps s0 (f x0))
    (h : Keeps s0 s) : Keeps s0 (runOp s c u opc f) := by
  unfold runOp; try dsimp only
  repeat' (first
      | with_reducible assumption | intro _ | with_reducible apply h_f | with_reducible apply settle_keeps
      | with_reducible apply toCycle_keeps | with_reducible apply ite_keeps)

theorem doneOp_keeps {s0 s : State} (c : Nat) (u : USlot) (effs : List (Nat × Eff)) (runs : List OpRun) (h : Keeps s0 s)
    : Keeps s0 (doneOp s c u effs runs) := by
  unfold doneOp; try dsimp only
  repeat' (first
      | with_reducible assumption | intro _ | with_reducible apply addRuns_keeps | with_reducible apply later_keeps
      | with_reducible apply markDid_keeps | with_reducible apply countOp_keeps)

theorem asyncPortPromotionEff_keeps {s0 s : State} (core : Nat) (hbm : Bool) (h : Keeps s0 s)
    : Keeps s0 (asyncPortPromotionEff core hbm s) := by
  unfold asyncPortPromotionEff; try dsimp only
  repeat' (first
      | with_reducible assumption | intro _ | with_reducible apply settle_keeps | with_reducible apply endStall_keeps
      | with_reducible apply freeze_keeps | with_reducible apply ite_keeps)

theorem withSlots_keeps {s0 s : State} (c : Nat) (reads : List Rd) (writes : List Ref) {k : State → State} (h : Keeps s0 s)
    (hk : ∀ x, Keeps s0 x → Keeps s0 (k x)) : Keeps s0 (withSlots s c reads writes k) := by
  unfold withSlots
  repeat' (first
      | with_reducible assumption | intro _ | with_reducible apply hk | with_reducible apply freezeOn_keeps
      | with_reducible apply clusFault_keeps | with_reducible apply readAll_keeps | with_reducible apply chargePort_keeps
      | with_reducible apply foldl_keeps | with_reducible apply foldlFst_keeps | with_reducible apply each_keeps
      | with_reducible apply ite_keeps | dsimp only | split)

theorem runPlans_keeps {s0 s : State} (c : Nat) (u : USlot) (l : List (Nat × Sum Nat Plan)) (h : Keeps s0 s) :
    Keeps s0 (runPlans s c u l) := by
  unfold runPlans
  repeat' (first
      | with_reducible assumption | intro _ | with_reducible apply clusFault_keeps | with_reducible apply withSlots_keeps
      | with_reducible apply noteRemote_keeps | with_reducible apply doneOp_keeps | with_reducible apply startPlan_keeps
      | with_reducible apply foldl_keeps | with_reducible apply foldlFst_keeps | with_reducible apply each_keeps
      | with_reducible apply ite_keeps | dsimp only | split)

/-! ## LocalMem -/

theorem spTagOp_keeps {s0 s : State} (c : Nat) (h : Keeps s0 s) : Keeps s0 (spTagOp c s) := by
  unfold spTagOp; try dsimp only
  repeat' (first
      | with_reducible assumption | intro _ | with_reducible apply clusFault_keeps | with_reducible apply noteRemote_keeps
      | with_reducible apply doneOp_keeps | with_reducible apply foldl_keeps | with_reducible apply foldlFst_keeps
      | with_reducible apply ite_keeps | dsimp only | split)

theorem spTagEff_keeps {s0 s : State} (c : Nat) (h : Keeps s0 s) : Keeps s0 (spTagEff c s) := by
  unfold spTagEff; try dsimp only
  repeat' (first | with_reducible assumption | intro _ | with_reducible apply runOp_keeps | with_reducible apply spTagOp_keeps)

theorem nocSlot_keeps {s0 s : State} (n : Nat) (o : NocOp) (h : Keeps s0 s) : Keeps s0 (nocSlot s n o).1 := by
  unfold nocSlot; try dsimp only
  repeat' (first
      | with_reducible assumption | intro _ | with_reducible apply countBytes_keeps | with_reducible apply readSlot_keeps
      | with_reducible apply modSlot_keeps | with_reducible apply slotEff_keeps | with_reducible apply ite_keeps | dsimp only
      | split)

theorem spDmaOp_keeps {s0 s : State} (c : Nat) (h : Keeps s0 s) : Keeps s0 (spDmaOp c s) := by
  unfold spDmaOp; try dsimp only
  repeat' (first
      | with_reducible assumption | intro _ | with_reducible apply clusFault_keeps | with_reducible apply withSlots_keeps
      | with_reducible apply noteRemote_keeps | with_reducible apply doneOp_keeps | with_reducible apply ite_keeps | dsimp only
      | split)

theorem nocPush_keeps {s0 s : State} (core : Nat) (o : NocOp) (h : Keeps s0 s) : Keeps s0 (nocPush s core o) := by
  unfold nocPush; try dsimp only
  repeat' (first | with_reducible assumption | intro _ | dsimp only | fail_if_no_progress (with_reducible apply Keeps.lit))

theorem spCopyOp_keeps {s0 s : State} (c : Nat) (h : Keeps s0 s) : Keeps s0 (spCopyOp c s) := by
  unfold spCopyOp; try dsimp only
  repeat' (first
      | with_reducible assumption | intro _ | with_reducible apply clusFault_keeps | with_reducible apply withSlots_keeps
      | with_reducible apply noteRemote_keeps | with_reducible apply doneOp_keeps | with_reducible apply ite_keeps | dsimp only
      | split)

theorem spCopyEff_keeps {s0 s : State} (c : Nat) (h : Keeps s0 s) : Keeps s0 (spCopyEff c s) := by
  unfold spCopyEff; try dsimp only
  repeat' (first | with_reducible assumption | intro _ | with_reducible apply runOp_keeps | with_reducible apply spCopyOp_keeps)

theorem ncCopyOp_keeps {s0 s : State} (c : Nat) (h : Keeps s0 s) : Keeps s0 (ncCopyOp c s) := by
  unfold ncCopyOp; try dsimp only
  repeat' (first
      | with_reducible assumption | intro _ | with_reducible apply clusFault_keeps | with_reducible apply freezeOn_keeps
      | with_reducible apply nocPush_keeps | with_reducible apply markDid_keeps | with_reducible apply ite_keeps | dsimp only
      | split)

theorem ncCopyEff_keeps {s0 s : State} (c : Nat) (h : Keeps s0 s) : Keeps s0 (ncCopyEff c s) := by
  unfold ncCopyEff; try dsimp only
  repeat' (first | with_reducible assumption | intro _ | with_reducible apply runOp_keeps | with_reducible apply ncCopyOp_keeps)

theorem nocPop_keeps {s0 s : State} (core : Nat) (h : Keeps s0 s) : Keeps s0 (nocPop s core) := by
  unfold nocPop; try dsimp only
  repeat' (first | with_reducible assumption | intro _ | dsimp only | split | fail_if_no_progress (with_reducible apply Keeps.lit))

theorem spFillOp_keeps {s0 s : State} (c : Nat) (h : Keeps s0 s) : Keeps s0 (spFillOp c s) := by
  unfold spFillOp; try dsimp only
  repeat' (first
      | with_reducible assumption | intro _ | with_reducible apply clusFault_keeps | with_reducible apply noteRemote_keeps
      | with_reducible apply doneOp_keeps | with_reducible apply ite_keeps | dsimp only | split)

theorem spFillEff_keeps {s0 s : State} (c : Nat) (h : Keeps s0 s) : Keeps s0 (spFillEff c s) := by
  unfold spFillEff; try dsimp only
  repeat' (first | with_reducible assumption | intro _ | with_reducible apply runOp_keeps | with_reducible apply spFillOp_keeps)

theorem nocRun_keeps {s0 s : State} (k : Nat) (core n : Nat) (o : NocOp) (h : Keeps s0 s) : Keeps s0 (nocRun k s core n o) := by
  induction k generalizing s o with
  | zero => exact h
  | succ k ih =>
    unfold nocRun; dsimp only
    repeat' (first
        | with_reducible assumption | intro _ | with_reducible apply ih | with_reducible apply nocPop_keeps
        | with_reducible apply nocSlot_keeps | with_reducible apply toCycle_keeps | with_reducible apply jobFault_keeps
        | with_reducible apply foldl_keeps | with_reducible apply foldlFst_keeps | with_reducible apply each_keeps
        | with_reducible apply ite_keeps | dsimp only | split | fail_if_no_progress (with_reducible apply Keeps.lit))

theorem nocCopyEnd_keeps {s0 s : State} (core : Nat) (o : NocOp) (h : Keeps s0 s) : Keeps s0 (nocCopyEnd s core o) := by
  unfold nocCopyEnd; try dsimp only
  repeat' (first | with_reducible assumption | intro _ | with_reducible apply nocRun_keeps)

theorem spDmaEff_keeps {s0 s : State} (c : Nat) (h : Keeps s0 s) : Keeps s0 (spDmaEff c s) := by
  unfold spDmaEff; try dsimp only
  repeat' (first | with_reducible assumption | intro _ | with_reducible apply runOp_keeps | with_reducible apply spDmaOp_keeps)

/-! ## KeyBase -/

theorem setKeySlot_keeps {s0 s : State} (i : Nat) (x : KeySlot) (h : Keeps s0 s) : Keeps s0 (setKeySlot s i x) := by
  unfold setKeySlot; try dsimp only
  repeat' (first | with_reducible assumption | intro _ | dsimp only | fail_if_no_progress (with_reducible apply Keeps.lit))

/-! ## PartOps -/

theorem faultLanes_keeps {s0 s : State} (n : Nat) (h : Keeps s0 s) : Keeps s0 (faultLanes s n) := by
  unfold faultLanes; try dsimp only
  repeat' (first
      | with_reducible assumption | intro _ | with_reducible apply each_keeps | with_reducible apply faultStrm_keeps
      | with_reducible apply modLane_keeps)

theorem stopPitch_keeps {s0 s : State} (n : Nat) (h : Keeps s0 s) : Keeps s0 (stopPitch s n) := by
  unfold stopPitch; try dsimp only
  repeat' (first | with_reducible assumption | intro _ | with_reducible apply endPitch_keeps | dsimp only | split)

theorem setSt_keeps {s0 s : State} (n : Nat) (st : PState) (h : Keeps s0 s) : Keeps s0 (setSt s n st) := by
  unfold setSt; try dsimp only
  repeat' (first
      | with_reducible assumption | intro _ | with_reducible apply setEvt_keeps | with_reducible apply modPart_keeps
      | with_reducible apply ite_keeps)

theorem faultPart_keeps {s0 s : State} (n : Nat) (k : PartFaultCase) (h : Keeps s0 s) : Keeps s0 (faultPart s n k) := by
  unfold faultPart; try dsimp only
  repeat' (first
      | with_reducible assumption | intro _ | with_reducible apply faultLanes_keeps | with_reducible apply stopPitch_keeps
      | with_reducible apply modPart_keeps | with_reducible apply setSt_keeps | with_reducible apply setEvt_keeps
      | with_reducible apply ite_keeps | dsimp only | split)

theorem syncEff_keeps {s0 s : State} (c : Nat) (h : Keeps s0 s) : Keeps s0 (syncEff c s) := by
  unfold syncEff; try dsimp only
  repeat' (first
      | with_reducible assumption | intro _ | with_reducible apply settle_keeps | with_reducible apply modPart_keeps
      | with_reducible apply markDid_keeps | with_reducible apply faultPart_keeps | with_reducible apply ite_keeps)

theorem partFaultEff_keeps {s0 s : State} (n : Nat) (k : PartFaultCase) (h : Keeps s0 s) : Keeps s0 (partFaultEff n k s) := by
  unfold partFaultEff; try dsimp only
  repeat' (first
      | with_reducible assumption | intro _ | with_reducible apply faultPart_keeps | with_reducible apply ite_keeps | dsimp only
      | split)

theorem tdiError_keeps {s0 s : State} (n : Nat) (h : Keeps s0 s) : Keeps s0 (tdiError s n) := by
  unfold tdiError; try dsimp only
  repeat' (first
      | with_reducible assumption | intro _ | with_reducible apply setTdi_keeps | with_reducible apply setEvt_keeps
      | with_reducible apply bump_keeps | with_reducible apply faultPart_keeps | with_reducible apply ite_keeps)

/-! ## Switch -/

theorem runHandler_keeps {s0 s : State} (c : Nat) (hh : Hnd) (j : Nat) (h : Keeps s0 s) : Keeps s0 (runHandler s c hh j) := by
  unfold runHandler; try dsimp only
  repeat' (first | with_reducible assumption | intro _ | with_reducible apply modClu_keeps)

theorem switchMove_keeps {s0 s : State} (k : Nat) (n : Nat) (d : Desc) (h : Keeps s0 s) : Keeps s0 (switchMove k s n d).1 := by
  induction k generalizing s d with
  | zero => exact h
  | succ k ih =>
    unfold switchMove; dsimp only
    repeat' (first
        | with_reducible assumption | intro _ | with_reducible apply ih | with_reducible apply descMove_keeps
        | with_reducible apply foldl_keeps | with_reducible apply foldlFst_keeps | with_reducible apply each_keeps
        | with_reducible apply ite_keeps | dsimp only | split)

theorem rebind_keeps {s0 s : State} (n : Nat) (img : JobImg) (h : Keeps s0 s) : Keeps s0 (rebind s n img) := by
  unfold rebind; try dsimp only
  repeat' (first
      | with_reducible assumption | intro _ | with_reducible apply each_keeps | with_reducible apply setHentry_keeps
      | with_reducible apply foldl_keeps | with_reducible apply foldlFst_keeps | dsimp only
      | fail_if_no_progress (with_reducible apply Keeps.lit))

theorem startClus_keeps {s0 s : State} (n : Nat) (o : Nat) (c : Nat) (paged : Bool) (fresh : Bool) (frames : Nat) (h : Keeps s0 s)
    : Keeps s0 (startClus s n o c paged fresh frames) := by
  unfold startClus; try dsimp only
  repeat' (first | with_reducible assumption | intro _ | with_reducible apply modClu_keeps)

theorem clearCores_keeps {s0 s : State} (c : Nat) (h : Keeps s0 s) : Keeps s0 (clearCores s c) := by
  unfold clearCores; try dsimp only
  repeat' (first | with_reducible assumption | intro _ | with_reducible apply each_keeps | with_reducible apply setCore_keeps)

theorem putPage_keeps {s0 s : State} (c : Nat) (p : Nat) (img : JobImg) (bs : List Bundle) (h : Keeps s0 s)
    : Keeps s0 (putPage s c p img bs) := by
  unfold putPage; try dsimp only
  repeat' (first
      | with_reducible assumption | intro _ | with_reducible apply setBundle_keeps | with_reducible apply modClu_keeps
      | with_reducible apply foldl_keeps | with_reducible apply foldlFst_keeps | dsimp only | split)

theorem fetchPage_keeps {s0 s : State} (n : Nat) (c : Nat) (p : Nat) (img : JobImg) (h : Keeps s0 s)
    : Keeps s0 (fetchPage s n c p img).1 := by
  unfold fetchPage; try dsimp only
  repeat' (first
      | with_reducible assumption | intro _ | with_reducible apply charge_keeps | with_reducible apply hbmUe_keeps
      | with_reducible apply putPage_keeps | dsimp only | split)

theorem firstPages_keeps {s0 s : State} (n : Nat) (img : JobImg) (h : Keeps s0 s) : Keeps s0 (firstPages s n img).1 := by
  unfold firstPages; try dsimp only
  repeat' (first
      | with_reducible assumption | intro _ | with_reducible apply fetchPage_keeps | with_reducible apply foldl_keeps
      | with_reducible apply foldlFst_keeps | with_reducible apply ite_keeps | dsimp only | split)

theorem beginIssue_keeps {s0 s : State} (n : Nat) (p : Pitch) (extra : Nat) (fresh : Bool) (h : Keeps s0 s)
    : Keeps s0 (beginIssue s n p extra fresh) := by
  unfold beginIssue; try dsimp only
  repeat' (first
      | with_reducible assumption | intro _ | with_reducible apply tagSlots_keeps | with_reducible apply each_keeps
      | with_reducible apply startClus_keeps | with_reducible apply clearCores_keeps | with_reducible apply firstPages_keeps
      | with_reducible apply modPart_keeps | with_reducible apply toCycle_keeps | with_reducible apply freeze_keeps
      | with_reducible apply runHandler_keeps | with_reducible apply jobFault_keeps | with_reducible apply ite_keeps | dsimp only
      | split)

theorem switchDesc_keeps {s0 : State} (n c : Nat) (r : SwRes) (d : BitVec 512) (h : Keeps s0 r.s) : Keeps s0 (switchDesc n c r d).s := by
  unfold switchDesc
  repeat' (first
      | with_reducible assumption | intro _ | with_reducible apply switchMove_keeps | with_reducible apply foldl_keeps
      | with_reducible apply foldlFst_keeps | with_reducible apply each_keeps | with_reducible apply ite_keeps | dsimp only | split)

theorem switchLists_keeps {s0 s : State} (n : Nat) (f : Nat → List (BitVec 512)) (h : Keeps s0 s) : Keeps s0 (switchLists s n f).s := by
  have inner : ∀ (l : List (BitVec 512)) (c : Nat) (r : SwRes), Keeps s0 r.s → Keeps s0 (l.foldl (switchDesc n c) r).s := by
    intro l c
    induction l with
    | nil => exact fun r hr => hr
    | cons d l ih => exact fun r hr => ih _ (switchDesc_keeps n c r d hr)
  have outer : ∀ (l : List Nat) (r : SwRes), Keeps s0 r.s → Keeps s0 (l.foldl (fun r c => (f c).foldl (switchDesc n c) r) r).s := by
    intro l
    induction l with
    | nil => exact fun r hr => hr
    | cons c l ih => exact fun r hr => ih _ (inner (f c) c r hr)
  exact outer _ _ h

theorem switchJob_keeps {s0 s : State} (n : Nat) (p : Pitch) (extra : Nat) (h : Keeps s0 s) : Keeps s0 (switchJob s n p extra) := by
  unfold switchJob; extract_lets img out inn
  have ho : Keeps s0 out.s := by
    unfold out; split
    · exact switchLists_keeps _ _ h
    · exact h
  have hi : Keeps s0 inn.s := by
    unfold inn; split
    · exact ho
    · exact switchLists_keeps _ _ (rebind_keeps _ _ ho)
  clear_value inn
  repeat' (first
      | with_reducible assumption | intro _ | with_reducible apply jobFault_keeps | with_reducible apply beginIssue_keeps
      | with_reducible apply modPart_keeps | with_reducible apply foldl_keeps | with_reducible apply foldlFst_keeps
      | with_reducible apply each_keeps | with_reducible apply ite_keeps | dsimp only | split)

theorem switchDoneEff_keeps {s0 s : State} (n : Nat) (extra : Nat) (h : Keeps s0 s) : Keeps s0 (switchDoneEff n extra s) := by
  unfold switchDoneEff; try dsimp only
  repeat' (first
      | with_reducible assumption | intro _ | with_reducible apply beginIssue_keeps | with_reducible apply switchJob_keeps
      | with_reducible apply ite_keeps | dsimp only | split)

theorem bundlePageArrivalEff_keeps {s0 s : State} (c : Nat) (p : Nat) (h : Keeps s0 s) : Keeps s0 (bundlePageArrivalEff c p s) := by
  unfold bundlePageArrivalEff; try dsimp only
  repeat' (first
      | with_reducible assumption | intro _ | with_reducible apply settle_keeps | with_reducible apply fetchPage_keeps
      | with_reducible apply clusFault_keeps | with_reducible apply ite_keeps)

/-! ## MatrixEngine -/

theorem meOp_keeps {s0 s : State} (c : Nat) (opc : Nat) (plan : State → Nat → Nat → Nat → Nat ⊕ Plan) (h : Keeps s0 s)
    : Keeps s0 (meOp c opc plan s) := by
  unfold meOp; try dsimp only
  repeat' (first | with_reducible assumption | intro _ | with_reducible apply runOp_keeps | with_reducible apply runPlans_keeps)

/-! ## VectorEngine -/

theorem veFlagClearEff_keeps {s0 s : State} (c : Nat) (core : Nat) (v : Word) (h : Keeps s0 s)
    : Keeps s0 (veFlagClearEff c core v s) := by
  unfold veFlagClearEff; try dsimp only
  repeat' (first | with_reducible assumption | intro _ | with_reducible apply wr_keeps)

theorem summaryPostArrivalEff_keeps {s0 s : State} (c : Nat) (h : Keeps s0 s) : Keeps s0 (summaryPostArrivalEff c s) := by
  unfold summaryPostArrivalEff; try dsimp only
  repeat' (first
      | with_reducible assumption | intro _ | with_reducible apply setClu_keeps | with_reducible apply each_keeps
      | with_reducible apply applyEff_keeps | with_reducible apply ite_keeps | dsimp only | split)

theorem veOp_keeps {s0 s : State} (c : Nat) (opc : Nat) (plan : State → Nat → Nat → Nat → Nat → Nat ⊕ Plan) (h : Keeps s0 s)
    : Keeps s0 (veOp c opc plan s) := by
  unfold veOp; try dsimp only
  repeat' (first | with_reducible assumption | intro _ | with_reducible apply runOp_keeps | with_reducible apply runPlans_keeps)

theorem vflagEff_keeps {s0 s : State} (c : Nat) (h : Keeps s0 s) : Keeps s0 (vflagEff c s) := by
  unfold vflagEff; try dsimp only
  repeat' (first
      | with_reducible assumption | intro _ | with_reducible apply runOp_keeps | with_reducible apply runPlans_keeps
      | with_reducible apply each_keeps | with_reducible apply wrN_keeps | with_reducible apply ite_keeps)

/-! ## GatePipe -/

theorem gpChainEff_keeps {s0 s : State} (c : Nat) (h : Keeps s0 s) : Keeps s0 (gpChainEff c s) := by
  unfold gpChainEff; try dsimp only
  repeat' (first
      | with_reducible assumption | intro _ | with_reducible apply runOp_keeps | with_reducible apply clusFault_keeps
      | with_reducible apply runPlans_keeps | with_reducible apply ite_keeps)

/-! ## ControlCore -/

theorem ccAltselEff_keeps {s0 s : State} (c : Nat) (v : Word) (h : Keeps s0 s) : Keeps s0 (ccAltselEff c v s) := by
  unfold ccAltselEff; try dsimp only
  repeat' (first | with_reducible assumption | intro _ | with_reducible apply modClu_keeps | with_reducible apply ite_keeps)

theorem nextHandler_keeps {s0 s : State} (c : Nat) (h : Keeps s0 s) : Keeps s0 (nextHandler s c) := by
  unfold nextHandler; try dsimp only
  repeat' (first
      | with_reducible assumption | intro _ | with_reducible apply setClu_keeps | with_reducible apply runHandler_keeps
      | dsimp only | split)

theorem wfiEff_keeps {s0 s : State} (c : Nat) (h : Keeps s0 s) : Keeps s0 (wfiEff c s) := by
  unfold wfiEff; try dsimp only
  repeat' (first | with_reducible assumption | intro _ | with_reducible apply nextHandler_keeps | with_reducible apply ite_keeps)

theorem ccBelaySameEff_keeps {s0 s : State} (c : Nat) (v : Word) (h : Keeps s0 s) : Keeps s0 (ccBelaySameEff c v s) := by
  unfold ccBelaySameEff; try dsimp only
  repeat' (first | with_reducible assumption | intro _ | with_reducible apply modLane_keeps | with_reducible apply ite_keeps)

theorem makeLate_keeps {s0 s : State} (key : Nat) (cause : Nat) (h : Keeps s0 s) : Keeps s0 (makeLate s key cause) := by
  unfold makeLate; try dsimp only
  repeat' (first | with_reducible assumption | intro _ | with_reducible apply modLane_keeps)

theorem ccDeferEff_keeps {s0 s : State} (c : Nat) (v : Word) (h : Keeps s0 s) : Keeps s0 (ccDeferEff c v s) := by
  unfold ccDeferEff; try dsimp only
  repeat' (first | with_reducible assumption | intro _ | with_reducible apply makeLate_keeps | with_reducible apply ite_keeps)

theorem ccExceptionEff_keeps {s0 s : State} (c : Nat) (k : CcKind) (h : Keeps s0 s) : Keeps s0 (ccExceptionEff c k s) := by
  unfold ccExceptionEff; try dsimp only
  repeat' (first
      | with_reducible assumption | intro _ | with_reducible apply wrN_keeps | with_reducible apply setEvt_keeps
      | with_reducible apply bump_keeps | with_reducible apply jobFault_keeps | with_reducible apply nextHandler_keeps
      | with_reducible apply ite_keeps)

theorem summaryHandlerEff_keeps {s0 s : State} (c : Nat) (h : Keeps s0 s) : Keeps s0 (summaryHandlerEff c s) := by
  unfold summaryHandlerEff; try dsimp only
  repeat' (first | with_reducible assumption | intro _ | with_reducible apply runHandler_keeps | with_reducible apply ite_keeps)

theorem ccDescEff_keeps {s0 s : State} (c : Nat) (d : BitVec 512) (h : Keeps s0 s) : Keeps s0 (ccDescEff c d s) := by
  unfold ccDescEff; try dsimp only
  repeat' (first | with_reducible assumption | intro _ | with_reducible apply setClu_keeps | with_reducible apply ite_keeps)

theorem dispatchHandlers_keeps {s0 s : State} (n : Nat) (h : Keeps s0 s) : Keeps s0 (dispatchHandlers s n) := by
  unfold dispatchHandlers; try dsimp only
  repeat' (first
      | with_reducible assumption | intro _ | with_reducible apply each_keeps | with_reducible apply runHandler_keeps
      | with_reducible apply ite_keeps)

theorem ccSumPopEff_keeps {s0 s : State} (c : Nat) (h : Keeps s0 s) : Keeps s0 (ccSumPopEff c s) := by
  unfold ccSumPopEff; try dsimp only
  repeat' (first
      | with_reducible assumption | intro _ | with_reducible apply modClu_keeps | with_reducible apply ite_keeps | dsimp only
      | split | fail_if_no_progress (with_reducible apply Keeps.lit))

theorem stopDispatch_keeps {s0 s : State} (n : Nat) (h : Keeps s0 s) : Keeps s0 (stopDispatch s n) := by
  unfold stopDispatch; try dsimp only
  repeat' (first
      | with_reducible assumption | intro _ | with_reducible apply each_keeps | with_reducible apply setClu_keeps
      | with_reducible apply makeLate_keeps | with_reducible apply ite_keeps)

end Sys2Proof.Machine
end

