-- ==== Sys2Proof/Laws/KeepsStreams.lean ====
section
/-!
SUPPORT. Key-value pool, streams, loading, partitions, weight streams: what each operation keeps (Laws/Keeps).
-/
namespace Sys2Proof.Machine

set_option Elab.async false

/-! ## Kv -/

theorem setPte_keeps {s0 s : State} (n : Nat) (q : Nat) (i : Nat) (v : Nat) (h : Keeps s0 s) : Keeps s0 (setPte s n q i v) := by
  unfold setPte; try dsimp only
  repeat' (first | with_reducible assumption | intro _ | with_reducible apply hbmWrite_keeps)

theorem setCount_keeps {s0 s : State} (n : Nat) (p : Nat) (v : Nat) (h : Keeps s0 s) : Keeps s0 (setCount s n p v) := by
  unfold setCount; try dsimp only
  repeat' (first | with_reducible assumption | intro _ | with_reducible apply hbmWrite_keeps)

theorem kvReject_keeps {s0 s : State} (n : Nat) (cause : Nat) (h : Keeps s0 s) : Keeps s0 (kvReject s n cause) := by
  unfold kvReject; try dsimp only
  repeat' (first | with_reducible assumption | intro _ | with_reducible apply setEvt_keeps | with_reducible apply wf_keeps)

theorem kvLow_keeps {s0 s : State} (n : Nat) (h : Keeps s0 s) : Keeps s0 (kvLow s n) := by
  unfold kvLow; try dsimp only
  repeat' (first | with_reducible assumption | intro _ | with_reducible apply wf_keeps | with_reducible apply ite_keeps)

theorem kvDone_keeps {s0 s : State} (n : Nat) (h : Keeps s0 s) : Keeps s0 (kvDone s n) := by
  unfold kvDone; try dsimp only
  repeat' (first | with_reducible assumption | intro _ | with_reducible apply kvLow_keeps | with_reducible apply wf_keeps)

theorem clearTab_keeps {s0 s : State} (a : Nat) (cap : Nat) (h : Keeps s0 s) : Keeps s0 (clearTab s a cap) := by
  unfold clearTab; try dsimp only
  repeat' (first | with_reducible assumption | intro _ | with_reducible apply hbmClear_keeps)

theorem doSeqInit_keeps {s0 s : State} (n : Nat) (k : KvCmd) (h : Keeps s0 s) : Keeps s0 (doSeqInit s n k) := by
  unfold doSeqInit; try dsimp only
  repeat' (first
      | with_reducible assumption | intro _ | with_reducible apply kvReject_keeps | with_reducible apply kvDone_keeps
      | with_reducible apply hbmWrite_keeps | with_reducible apply clearTab_keeps | with_reducible apply ite_keeps)

theorem kvStop_keeps {s0 s : State} (n : Nat) (h : Keeps s0 s) : Keeps s0 (kvStop s n) := by
  unfold kvStop; try dsimp only
  repeat' (first | with_reducible assumption | intro _ | with_reducible apply wf_keeps)

theorem sdPut_keeps {s0 s : State} (n : Nat) (q : Nat) (off : Nat) (len : Nat) (v : Nat) (h : Keeps s0 s)
    : Keeps s0 (sdPut s n q off len v) := by
  unfold sdPut; try dsimp only
  repeat' (first | with_reducible assumption | intro _ | with_reducible apply hbmWrite_keeps)

theorem forkEntry_keeps {s0 : State} (n d q : Nat) (o : Option State) (i : Nat) (h : ∀ t, o = some t → Keeps s0 t) :
    ∀ t, forkEntry n d q o i = some t → Keeps s0 t := by
  intro t e
  unfold forkEntry at e
  cases o with
  | none => cases e
  | some s =>
    have h1 := h s rfl
    simp only [Option.bind_some] at e
    split at e
    · cases e; exact setPte_keeps _ _ _ _ h1
    · split at e
      · cases e
      · cases e; exact setCount_keeps _ _ _ (setPte_keeps _ _ _ _ h1)

theorem forkEntries_keeps {s0 : State} (n d q : Nat) (l : List Nat) (o : Option State) (h : ∀ t, o = some t → Keeps s0 t) :
    ∀ t, l.foldl (forkEntry n d q) o = some t → Keeps s0 t := by
  induction l generalizing o with
  | nil => exact h
  | cons i l ih => exact ih _ (forkEntry_keeps n d q o i h)

theorem doSeqFork_keeps {s0 s : State} (n : Nat) (k : KvCmd) (h : Keeps s0 s) : Keeps s0 (doSeqFork s n k) := by
  have hf := forkEntries_keeps n k.a0 k.a1 (List.range k.a2) (some s) (fun t e => by cases e; exact h)
  unfold doSeqFork; dsimp only
  repeat' (first
      | with_reducible assumption | intro _ | exact hf _ (by assumption) | with_reducible apply kvReject_keeps
      | with_reducible apply kvStop_keeps | with_reducible apply kvDone_keeps | with_reducible apply sdPut_keeps
      | with_reducible apply foldl_keeps | with_reducible apply foldlFst_keeps | with_reducible apply each_keeps
      | with_reducible apply ite_keeps | dsimp only | split)

theorem unref_keeps {s0 s : State} (n : Nat) (p : Nat) (h : Keeps s0 s) : Keeps s0 (unref s n p) := by
  unfold unref; try dsimp only
  repeat' (first
      | with_reducible assumption | intro _ | with_reducible apply setCount_keeps | with_reducible apply hbmWrite_keeps
      | with_reducible apply ite_keeps)

theorem setSdBit_keeps {s0 s : State} (n : Nat) (q : Nat) (i : Nat) (b : Bool) (h : Keeps s0 s) : Keeps s0 (setSdBit s n q i b) := by
  unfold setSdBit; try dsimp only
  repeat' (first | with_reducible assumption | intro _ | with_reducible apply sdPut_keeps)

theorem resetSeq_keeps {s0 s : State} (n : Nat) (q : Nat) (h : Keeps s0 s) : Keeps s0 (resetSeq s n q) := by
  unfold resetSeq; try dsimp only
  repeat' (first
      | with_reducible assumption | intro _ | with_reducible apply unref_keeps | with_reducible apply setPte_keeps
      | with_reducible apply setSdBit_keeps | with_reducible apply sdPut_keeps | with_reducible apply foldl_keeps
      | with_reducible apply foldlFst_keeps | with_reducible apply ite_keeps)

theorem doSeqReset_keeps {s0 s : State} (n : Nat) (k : KvCmd) (free : Bool) (h : Keeps s0 s) : Keeps s0 (doSeqReset s n k free) := by
  unfold doSeqReset; try dsimp only
  repeat' (first
      | with_reducible assumption | intro _ | with_reducible apply kvReject_keeps | with_reducible apply resetSeq_keeps
      | with_reducible apply kvDone_keeps | with_reducible apply setSdBit_keeps | with_reducible apply ite_keeps)

theorem kvRun_keeps {s0 s : State} (n : Nat) (h : Keeps s0 s) : Keeps s0 (kvRun s n) := by
  unfold kvRun; try dsimp only
  repeat' (first
      | with_reducible assumption | intro _ | with_reducible apply modPart_keeps | with_reducible apply kvReject_keeps
      | with_reducible apply doSeqInit_keeps | with_reducible apply doSeqFork_keeps | with_reducible apply doSeqReset_keeps
      | with_reducible apply ite_keeps | dsimp only | split)

theorem kvIgnored_keeps {s0 s : State} (n : Nat) (h : Keeps s0 s) : Keeps s0 (kvIgnored s n) := by
  unfold kvIgnored; try dsimp only
  repeat' (first | with_reducible assumption | intro _ | with_reducible apply setEvt_keeps)

theorem poolInitEff_keeps {s0 s : State} (n : Nat) (h : Keeps s0 s) : Keeps s0 (poolInitEff n s) := by
  unfold poolInitEff; try dsimp only
  repeat' (first
      | with_reducible assumption | intro _ | with_reducible apply kvIgnored_keeps | with_reducible apply kvReject_keeps
      | with_reducible apply hbmClear_keeps | with_reducible apply hbmWrite_keeps | with_reducible apply kvDone_keeps
      | with_reducible apply wf_keeps | with_reducible apply ite_keeps | dsimp only | split
      | fail_if_no_progress (with_reducible apply Keeps.lit))

theorem kvArgs_keeps {s0 s : State} (c : Nat) (a0 : Word) (a1 : Word) (h : Keeps s0 s) : Keeps s0 (kvArgs s c a0 a1) := by
  unfold kvArgs; try dsimp only
  repeat' (first | with_reducible assumption | intro _ | with_reducible apply modClu_keeps)

theorem kvAnswer_keeps {s0 s : State} (c : Nat) (cause : Nat) (r : List Nat) (h : Keeps s0 s) : Keeps s0 (kvAnswer s c cause r) := by
  unfold kvAnswer; try dsimp only
  repeat' (first | with_reducible assumption | intro _ | with_reducible apply modClu_keeps)

theorem kvUe_keeps {s0 s : State} (n : Nat) (c : Nat) (a : Nat) (len : Nat) (k : State → State) (h_k : ∀ x0, Keeps s0 x0 → Keeps s0
    (k x0)) (h : Keeps s0 s) : Keeps s0 (kvUe s n c a len k) := by
  unfold kvUe; try dsimp only
  repeat' (first
      | with_reducible assumption | intro _ | with_reducible apply h_k | with_reducible apply jobFault_keeps
      | with_reducible apply hbmUe_keeps | with_reducible apply ite_keeps)

theorem askRecompute_keeps {s0 s : State} (n : Nat) (q : Nat) (key : Nat) (h : Keeps s0 s) : Keeps s0 (askRecompute s n q key) := by
  unfold askRecompute; try dsimp only
  repeat' (first
      | with_reducible assumption | intro _ | with_reducible apply makeLate_keeps | with_reducible apply setSdBit_keeps
      | with_reducible apply modPart_keeps | with_reducible apply bump_keeps | with_reducible apply strmEvent_keeps
      | with_reducible apply ite_keeps)

theorem touchSeq_keeps {s0 s : State} (n : Nat) (q : Nat) (h : Keeps s0 s) : Keeps s0 (touchSeq s n q) := by
  unfold touchSeq; try dsimp only
  repeat' (first | with_reducible assumption | intro _ | with_reducible apply sdPut_keeps)

theorem kvInfoEff_keeps {s0 s : State} (c : Nat) (a0 : Word) (a1 : Word) (h : Keeps s0 s) : Keeps s0 (kvInfoEff c a0 a1 s) := by
  unfold kvInfoEff; try dsimp only
  repeat' (first
      | with_reducible assumption | intro _ | with_reducible apply kvArgs_keeps | with_reducible apply kvAnswer_keeps
      | with_reducible apply kvUe_keeps | with_reducible apply askRecompute_keeps | with_reducible apply touchSeq_keeps
      | with_reducible apply ite_keeps)

theorem kvCommit_keeps {s0 s : State} (n : Nat) (flipped : List Nat) (h : Keeps s0 s) : Keeps s0 (kvCommit s n flipped) := by
  unfold kvCommit; try dsimp only
  repeat' (first
      | with_reducible assumption | intro _ | with_reducible apply sdPut_keeps | with_reducible apply modPart_keeps
      | with_reducible apply foldl_keeps | with_reducible apply foldlFst_keeps | with_reducible apply ite_keeps)

theorem kvRecompEff_keeps {s0 s : State} (n : Nat) (h : Keeps s0 s) : Keeps s0 (kvRecompEff n s) := by
  unfold kvRecompEff; try dsimp only
  repeat' (first
      | with_reducible assumption | intro _ | with_reducible apply modPart_keeps | dsimp only | split
      | fail_if_no_progress (with_reducible apply Keeps.lit))

theorem kvPteEff_keeps {s0 s : State} (c : Nat) (a0 : Word) (a1 : Word) (h : Keeps s0 s) : Keeps s0 (kvPteEff c a0 a1 s) := by
  unfold kvPteEff; try dsimp only
  repeat' (first
      | with_reducible assumption | intro _ | with_reducible apply kvArgs_keeps | with_reducible apply kvAnswer_keeps
      | with_reducible apply kvUe_keeps | with_reducible apply ite_keeps)

theorem kvQueue_keeps {s0 s : State} (n : Nat) (cmd : Nat) (h : Keeps s0 s) : Keeps s0 (kvQueue n cmd s) := by
  unfold kvQueue; try dsimp only
  repeat' (first
      | with_reducible assumption | intro _ | with_reducible apply kvIgnored_keeps | with_reducible apply kvReject_keeps
      | with_reducible apply modPart_keeps | with_reducible apply wf_keeps | with_reducible apply ite_keeps)

theorem dropSeq_keeps {s0 s : State} (n : Nat) (q : Nat) (h : Keeps s0 s) : Keeps s0 (dropSeq s n q) := by
  unfold dropSeq; try dsimp only
  repeat' (first
      | with_reducible assumption | intro _ | with_reducible apply setPte_keeps | with_reducible apply unref_keeps
      | with_reducible apply bump_keeps | with_reducible apply setSdBit_keeps | with_reducible apply foldl_keeps
      | with_reducible apply foldlFst_keeps | with_reducible apply ite_keeps)

theorem kvReserved_keeps {s0 s : State} (n : Nat) (h : Keeps s0 s) : Keeps s0 (kvReserved n s) := by
  unfold kvReserved; try dsimp only
  repeat' (first
      | with_reducible assumption | intro _ | with_reducible apply kvIgnored_keeps | with_reducible apply kvReject_keeps
      | with_reducible apply ite_keeps)

theorem reservePage_keeps {s0 : State} (n q : Nat) (r : KvRes) (i : Nat) (h : Keeps s0 r.s) : Keeps s0 (reservePage n q r i).s := by
  unfold reservePage
  repeat' (first
      | with_reducible assumption | intro _ | with_reducible apply hbmUe_keeps | with_reducible apply kvStop_keeps
      | with_reducible apply bump_keeps | with_reducible apply charge_keeps | with_reducible apply setPte_keeps
      | with_reducible apply setCount_keeps | with_reducible apply unref_keeps | with_reducible apply hbmWrite_keeps
      | with_reducible apply foldl_keeps | with_reducible apply foldlFst_keeps | with_reducible apply each_keeps
      | with_reducible apply ite_keeps | dsimp only | split)

theorem reservePages_keeps {s0 : State} (n q : Nat) (l : List Nat) (r : KvRes) (h : Keeps s0 r.s)
    : Keeps s0 (l.foldl (reservePage n q) r).s := by
  induction l generalizing r with
  | nil => exact h
  | cons i l ih => exact ih _ (reservePage_keeps n q r i h)

theorem kvReserveEff_keeps {s0 s : State} (c : Nat) (a0 a1 : Word) (h : Keeps s0 s) : Keeps s0 (kvReserveEff c a0 a1 s) := by
  unfold kvReserveEff
  repeat' (first
      | with_reducible assumption | intro _ | with_reducible apply reservePages_keeps | with_reducible apply kvUe_keeps
      | with_reducible apply kvAnswer_keeps | with_reducible apply kvArgs_keeps | with_reducible apply askRecompute_keeps
      | with_reducible apply makeLate_keeps | with_reducible apply bump_keeps | with_reducible apply touchSeq_keeps
      | with_reducible apply jobFault_keeps | with_reducible apply kvLow_keeps | with_reducible apply modPart_keeps
      | with_reducible apply sdPut_keeps | with_reducible apply foldl_keeps | with_reducible apply foldlFst_keeps
      | with_reducible apply each_keeps | with_reducible apply ite_keeps)

theorem kvDrop_keeps {s0 s : State} (k n : Nat) (h : Keeps s0 s) : Keeps s0 (kvDrop k s n) := by
  induction k generalizing s with
  | zero => exact h
  | succ k ih =>
    unfold kvDrop
    repeat' (first
        | with_reducible assumption | intro _ | with_reducible apply ih | with_reducible apply wf_keeps
        | with_reducible apply dropSeq_keeps | with_reducible apply foldl_keeps | with_reducible apply foldlFst_keeps
        | with_reducible apply each_keeps | with_reducible apply ite_keeps | dsimp only | split)

theorem kvEdge_keeps {s0 s : State} (n : Nat) (flipped : List Nat) (h : Keeps s0 s) : Keeps s0 (kvEdge s n flipped) := by
  unfold kvEdge; try dsimp only
  repeat' (first
      | with_reducible assumption | intro _ | with_reducible apply kvRun_keeps | with_reducible apply modPart_keeps
      | with_reducible apply kvLow_keeps | with_reducible apply kvDrop_keeps | with_reducible apply kvCommit_keeps
      | with_reducible apply ite_keeps)

/-! ## Streams -/

theorem strmDone_keeps {s0 s : State} (n : Nat) (h : Keeps s0 s) : Keeps s0 (strmDone s n) := by
  unfold strmDone; try dsimp only
  repeat' (first | with_reducible assumption | intro _ | with_reducible apply wf_keeps)

theorem takeSeal_keeps {s0 s : State} (hh : Nat) (put : Option Seal → Strm → Strm) (h : Keeps s0 s) : Keeps s0 (takeSeal s hh put) := by
  unfold takeSeal; try dsimp only
  repeat' (first
      | with_reducible assumption | intro _ | with_reducible apply modStrm_keeps | with_reducible apply setKeySlot_keeps
      | dsimp only | split)

theorem sealNow_keeps {s0 s : State} (hh : Nat) (h : Keeps s0 s) : Keeps s0 (sealNow s hh) := by
  unfold sealNow; try dsimp only
  repeat' (first | with_reducible assumption | intro _ | with_reducible apply takeSeal_keeps)

theorem beginPark_keeps {s0 s : State} (hh : Nat) (h : Keeps s0 s) : Keeps s0 (beginPark s hh) := by
  unfold beginPark; try dsimp only
  repeat' (first
      | with_reducible assumption | intro _ | with_reducible apply modStrm_keeps | with_reducible apply iff_keeps
      | with_reducible apply sealNow_keeps)

theorem flushChunks_keeps {s0 s : State} (hh : Nat) (f : State → Chunk → State) (h_f : ∀ x0 x1, Keeps s0 x0 → Keeps s0 (f x0 x1))
    (h : Keeps s0 s) : Keeps s0 (flushChunks s hh f) := by
  unfold flushChunks; try dsimp only
  repeat' (first
      | with_reducible assumption | intro _ | with_reducible apply h_f | with_reducible apply each_keeps
      | with_reducible apply modStrm_keeps)

theorem strmReject_keeps {s0 s : State} (n : Nat) (hh : Nat) (cause : Nat) (h : Keeps s0 s) : Keeps s0 (strmReject s n hh cause) := by
  unfold strmReject; try dsimp only
  repeat' (first | with_reducible assumption | intro _ | with_reducible apply setEvt_keeps | with_reducible apply wf_keeps)

theorem xportFail_keeps {s0 s : State} (n : Nat) (hh : Nat) (cause : Nat) (h : Keeps s0 s) : Keeps s0 (xportFail s n hh cause) := by
  unfold xportFail; try dsimp only
  repeat' (first | with_reducible assumption | intro _ | with_reducible apply strmReject_keeps | with_reducible apply wf_keeps)

theorem sideFault_keeps {s0 s : State} (hh : Nat) (h : Keeps s0 s) : Keeps s0 (sideFault s hh) := by
  unfold sideFault; try dsimp only
  repeat' (first | with_reducible assumption | intro _ | with_reducible apply faultStrm_keeps)

theorem sideRead_keeps {s0 s : State} (hh : Nat) (h : Keeps s0 s) : Keeps s0 (sideRead s hh) := by
  unfold sideRead; try dsimp only
  repeat' (first | with_reducible assumption | intro _ | with_reducible apply countBytes_keeps | with_reducible apply readSlots_keeps)

theorem sideUe_keeps {s0 s : State} (hh : Nat) (h : Keeps s0 s) : Keeps s0 (sideUe s hh) := by
  unfold sideUe; try dsimp only
  repeat' (first | with_reducible assumption | intro _ | with_reducible apply sideFault_keeps | with_reducible apply sideRead_keeps)

theorem sealBlob_keeps {s0 s t : State} (i : Nat) (z : Option Seal) {b : List Byte} (h : Keeps s0 s) (e : sealBlob s i z = some (t, b)) :
    Keeps s0 t := by
  unfold sealBlob at e
  obtain ⟨q, -, e⟩ := Option.map_eq_some_iff.1 e
  simp only [Prod.mk.injEq] at e
  rw [← e.1]; exact sideRead_keeps _ h

theorem strmCharge_keeps {s0 s : State} (hh : Nat) (rdb : Nat) (wrb : Nat) (h : Keeps s0 s) : Keeps s0 (strmCharge s hh rdb wrb) := by
  unfold strmCharge; try dsimp only
  repeat' (first | with_reducible assumption | intro _ | with_reducible apply charge_keeps)

theorem xportEnd_keeps {s0 s : State} (n : Nat) (h : Keeps s0 s) : Keeps s0 (xportEnd s n) := by
  unfold xportEnd; try dsimp only
  repeat' (first | with_reducible assumption | intro _ | with_reducible apply wf_keeps)

theorem dropChunk_keeps {s0 s : State} (hh : Nat) (c : Chunk) (h : Keeps s0 s) : Keeps s0 (dropChunk s hh c) := by
  unfold dropChunk; try dsimp only
  repeat' (first
      | with_reducible assumption | intro _ | with_reducible apply strmEvent_keeps | with_reducible apply modStrm_keeps
      | with_reducible apply retireChunk_keeps)

theorem exportDoneEff_keeps {s0 s : State} (i : Nat) (h : Keeps s0 s) : Keeps s0 (exportDoneEff i s) := by
  have hs : ∀ z t b, sealBlob s i z = some (t, b) → Keeps s0 t := fun z t b e => sealBlob_keeps i z h e
  unfold exportDoneEff; dsimp only
  repeat' (first
      | with_reducible assumption | intro _ | exact hs _ _ _ (by assumption) | with_reducible apply sideUe_keeps
      | with_reducible apply modStrm_keeps | with_reducible apply strmCharge_keeps | with_reducible apply hbmWrite_keeps
      | with_reducible apply hbmUe_keeps | with_reducible apply xportFail_keeps | with_reducible apply xportEnd_keeps
      | with_reducible apply flushChunks_keeps | with_reducible apply dropChunk_keeps | with_reducible apply bump_keeps
      | with_reducible apply foldl_keeps | with_reducible apply foldlFst_keeps | with_reducible apply each_keeps
      | with_reducible apply ite_keeps | dsimp only | split)

theorem holdDrops_keeps {s0 s : State} (hh : Nat) (h : Keeps s0 s) : Keeps s0 (holdDrops s hh) := by
  unfold holdDrops; try dsimp only
  repeat' (first
      | with_reducible assumption | intro _ | with_reducible apply each_keeps | with_reducible apply modStrm_keeps
      | with_reducible apply bump_keeps | with_reducible apply dropChunk_keeps | with_reducible apply ite_keeps)

theorem holdDropEff_keeps {s0 s : State} (n : Nat) (hh : Nat) (h : Keeps s0 s) : Keeps s0 (holdDropEff n hh s) := by
  unfold holdDropEff; try dsimp only
  repeat' (first | with_reducible assumption | intro _ | with_reducible apply holdDrops_keeps | with_reducible apply ite_keeps)

theorem badChunk_keeps {s0 s : State} (hh : Nat) (c : Chunk) (h : Keeps s0 s) : Keeps s0 (badChunk hh s c) := by
  unfold badChunk; try dsimp only
  repeat' (first
      | with_reducible assumption | intro _ | with_reducible apply strmEvent_keeps | with_reducible apply modStrm_keeps
      | with_reducible apply retireChunk_keeps)

theorem strmOutcome_keeps {s0 s : State} (hh : Nat) (h : Keeps s0 s) : Keeps s0 (strmOutcome s hh) := by
  unfold strmOutcome; try dsimp only
  repeat' (first
      | with_reducible assumption | intro _ | with_reducible apply modStrm_keeps | with_reducible apply bump_keeps
      | with_reducible apply freePlaceOf_keeps | with_reducible apply flushChunks_keeps | with_reducible apply badChunk_keeps
      | with_reducible apply dropChunk_keeps | dsimp only | split)

theorem abandonBlob_keeps {s0 s : State} (i a : Nat) (b : Option (State × List Byte)) (h : Keeps s0 s)
    (hb : ∀ t x, b = some (t, x) → Keeps s0 t) : Keeps s0 (abandonBlob s i a b) := by
  unfold abandonBlob
  split
  · exact h
  · exact strmCharge_keeps _ _ _ (hbmWrite_keeps _ _ (fresh_keeps (hb _ _ rfl)))

theorem abandonXfer_keeps {s0 s : State} (i : Nat) (h : Keeps s0 s) : Keeps s0 (abandonXfer s i) := by
  unfold abandonXfer; extract_lets x idle s1
  have h1 : Keeps s0 s1 := by unfold s1; split <;> first | exact h | exact wf_keeps _ _ _ _ h
  have hs : ∀ t b, sealBlob s1 i x.sealQ = some (t, b) → Keeps s0 t := fun t b e => sealBlob_keeps i _ h1 e
  have hr : ∀ (b : List Byte) (t : State) (y : List Byte), some (s1, b) = some (t, y) → Keeps s0 t := fun b t y e => by cases e; exact h1
  clear_value s1
  split <;> first
    | exact h1
    | exact abandonBlob_keeps _ _ _ h1 hs
    | exact wf_keeps _ _ _ _ (abandonBlob_keeps _ _ _ h1 hs)
    | exact wf_keeps _ _ _ _ (abandonBlob_keeps _ _ _ h1 (hr _))

theorem closeNow_keeps {s0 s : State} (hh : Nat) (h : Keeps s0 s) : Keeps s0 (closeNow s hh) := by
  unfold closeNow; try dsimp only
  repeat' (first
      | with_reducible assumption | intro _ | with_reducible apply modBly_keeps | with_reducible apply abandonXfer_keeps
      | with_reducible apply modStrm_keeps | with_reducible apply retireAll_keeps)

theorem strmEdge_keeps {s0 s : State} (hh : Nat) (h : Keeps s0 s) : Keeps s0 (strmEdge s hh) := by
  unfold strmEdge; try dsimp only
  repeat' (first
      | with_reducible assumption | intro _ | with_reducible apply freeStrm_keeps | with_reducible apply strmOutcome_keeps
      | with_reducible apply closeNow_keeps | with_reducible apply modStrm_keeps | with_reducible apply ite_keeps)

theorem stepPark_keeps {s0 s : State} (hh : Nat) (h : Keeps s0 s) : Keeps s0 (stepPark s hh) := by
  unfold stepPark; try dsimp only
  repeat' (first | with_reducible assumption | intro _ | with_reducible apply beginPark_keeps | with_reducible apply ite_keeps)

theorem strmCmd_keeps {s0 s : State} (n : Nat) (code : Nat) (causes : State → Nat → List (Bool × Nat)) (f : State → Nat → State)
    (h_f : ∀ x0 x1, Keeps s0 x0 → Keeps s0 (f x0 x1)) (h : Keeps s0 s) : Keeps s0 (strmCmd n code causes f s) := by
  unfold strmCmd; try dsimp only
  repeat' (first
      | with_reducible assumption | intro _ | with_reducible apply h_f | with_reducible apply wf_keeps
      | with_reducible apply strmReject_keeps | with_reducible apply ite_keeps)

theorem openEff_keeps {s0 s : State} (n : Nat) (h : Keeps s0 s) : Keeps s0 (openEff n s) := by
  unfold openEff; try dsimp only
  repeat' (first
      | with_reducible assumption | intro _ | with_reducible apply strmCmd_keeps | with_reducible apply strmDone_keeps
      | with_reducible apply setStrm_keeps)

theorem request_keeps {s0 s : State} (n : Nat) (hh : Nat) (r : SReq) (h : Keeps s0 s) : Keeps s0 (request s n hh r) := by
  unfold request; try dsimp only
  repeat' (first
      | with_reducible assumption | intro _ | with_reducible apply wf_keeps | with_reducible apply modStrm_keeps | dsimp only
      | split)

theorem parkEff_keeps {s0 s : State} (n : Nat) (h : Keeps s0 s) : Keeps s0 (parkEff n s) := by
  unfold parkEff; try dsimp only
  repeat' (first
      | with_reducible assumption | intro _ | with_reducible apply strmCmd_keeps | with_reducible apply strmDone_keeps
      | with_reducible apply request_keeps)

theorem idleParkEff_keeps {s0 s : State} (n : Nat) (hh : Nat) (h : Keeps s0 s) : Keeps s0 (idleParkEff n hh s) := by
  unfold idleParkEff; try dsimp only
  repeat' (first | with_reducible assumption | intro _ | with_reducible apply beginPark_keeps | with_reducible apply ite_keeps)

theorem stepActivate_keeps {s0 s : State} (hh : Nat) (h : Keeps s0 s) : Keeps s0 (stepActivate s hh) := by
  unfold stepActivate; try dsimp only
  repeat' (first
      | with_reducible assumption | intro _ | with_reducible apply modStrm_keeps | with_reducible apply takePlace_keeps
      | with_reducible apply ite_keeps | dsimp only | split)

theorem strmReserved_keeps {s0 s : State} (n : Nat) (code : Nat) (h : Keeps s0 s) : Keeps s0 (strmReserved n code s) := by
  unfold strmReserved; try dsimp only
  repeat' (first | with_reducible assumption | intro _ | with_reducible apply strmCmd_keeps)

theorem importEff_keeps {s0 s : State} (n : Nat) (h : Keeps s0 s) : Keeps s0 (importEff n s) := by
  unfold importEff; try dsimp only
  repeat' (first
      | with_reducible assumption | intro _ | with_reducible apply strmCmd_keeps | with_reducible apply wf_keeps
      | with_reducible apply setStrm_keeps)

theorem closeEff_keeps {s0 s : State} (n : Nat) (h : Keeps s0 s) : Keeps s0 (closeEff n s) := by
  unfold closeEff; try dsimp only
  repeat' (first
      | with_reducible assumption | intro _ | with_reducible apply strmCmd_keeps | with_reducible apply strmDone_keeps
      | with_reducible apply modStrm_keeps)

theorem setcfgEff_keeps {s0 s : State} (n : Nat) (h : Keeps s0 s) : Keeps s0 (setcfgEff n s) := by
  unfold setcfgEff; try dsimp only
  repeat' (first
      | with_reducible assumption | intro _ | with_reducible apply strmCmd_keeps | with_reducible apply strmDone_keeps
      | with_reducible apply modStrm_keeps)

theorem strmsEdge_keeps {s0 s : State} (h : Keeps s0 s) : Keeps s0 (strmsEdge s) := by
  unfold strmsEdge; try dsimp only
  repeat' (first | with_reducible assumption | intro _ | with_reducible apply each_keeps | with_reducible apply strmEdge_keeps)

theorem unparkEff_keeps {s0 s : State} (n : Nat) (h : Keeps s0 s) : Keeps s0 (unparkEff n s) := by
  unfold unparkEff; try dsimp only
  repeat' (first
      | with_reducible assumption | intro _ | with_reducible apply strmCmd_keeps | with_reducible apply strmDone_keeps
      | with_reducible apply request_keeps)

theorem queryEff_keeps {s0 s : State} (n : Nat) (h : Keeps s0 s) : Keeps s0 (queryEff n s) := by
  unfold queryEff; try dsimp only
  repeat' (first
      | with_reducible assumption | intro _ | with_reducible apply strmCmd_keeps | with_reducible apply strmDone_keeps
      | with_reducible apply wr64_keeps | with_reducible apply wrN_keeps)

theorem stepExport_keeps {s0 s : State} (hh : Nat) (h : Keeps s0 s) : Keeps s0 (stepExport s hh) := by
  unfold stepExport; try dsimp only
  repeat' (first
      | with_reducible assumption | intro _ | with_reducible apply modStrm_keeps | with_reducible apply iff_keeps
      | with_reducible apply sealNow_keeps | with_reducible apply ite_keeps | dsimp only | split)

theorem queueWrites_keeps {s0 s : State} (h : Keeps s0 s) : Keeps s0 (queueWrites s) := by
  unfold queueWrites; try dsimp only
  repeat' (first
      | with_reducible assumption | intro _ | with_reducible apply each_keeps | with_reducible apply modStrm_keeps
      | with_reducible apply sealNow_keeps | with_reducible apply ite_keeps)

theorem putState_keeps {s0 s : State} (hh : Nat) (bs : List Byte) (h : Keeps s0 s) : Keeps s0 (putState s hh bs) := by
  unfold putState; try dsimp only
  repeat' (first
      | with_reducible assumption | intro _ | with_reducible apply countBytes_keeps | with_reducible apply slotEff_keeps
      | with_reducible apply foldl_keeps)

theorem importDoneEff_keeps {s0 s : State} (hh : Nat) (h : Keeps s0 s) : Keeps s0 (importDoneEff hh s) := by
  unfold importDoneEff; try dsimp only
  repeat' (first
      | with_reducible assumption | intro _ | with_reducible apply strmCharge_keeps | with_reducible apply hbmUe_keeps
      | with_reducible apply xportFail_keeps | with_reducible apply setStrm_keeps | with_reducible apply retireAll_keeps
      | with_reducible apply hbmWrite_keeps | with_reducible apply xportEnd_keeps | with_reducible apply modStrm_keeps
      | with_reducible apply setSeq_keeps | dsimp only | split)

theorem exportEff_keeps {s0 s : State} (n : Nat) (h : Keeps s0 s) : Keeps s0 (exportEff n s) := by
  unfold exportEff; try dsimp only
  repeat' (first
      | with_reducible assumption | intro _ | with_reducible apply strmCmd_keeps | with_reducible apply wf_keeps
      | with_reducible apply request_keeps)

theorem teardownStrms_keeps {s0 s : State} (n : Nat) (h : Keeps s0 s) : Keeps s0 (teardownStrms s n) := by
  unfold teardownStrms; try dsimp only
  repeat' (first
      | with_reducible assumption | intro _ | with_reducible apply each_keeps | with_reducible apply request_keeps
      | with_reducible apply closeNow_keeps | with_reducible apply ite_keeps | dsimp only | split)

theorem bivouacReadDoneEff_keeps {s0 s : State} (hh : Nat) (h : Keeps s0 s) : Keeps s0 (bivouacReadDoneEff hh s) := by
  unfold bivouacReadDoneEff; try dsimp only
  repeat' (first
      | with_reducible assumption | intro _ | with_reducible apply strmCharge_keeps | with_reducible apply hbmUe_keeps
      | with_reducible apply modStrm_keeps | with_reducible apply putState_keeps | with_reducible apply bump_keeps
      | with_reducible apply ite_keeps | dsimp only | split)

theorem bivouacWriteDoneEff_keeps {s0 s : State} (i : Nat) (h : Keeps s0 s) : Keeps s0 (bivouacWriteDoneEff i s) := by
  have hs : ∀ z t b, sealBlob s i z = some (t, b) → Keeps s0 t := fun z t b e => sealBlob_keeps i z h e
  unfold bivouacWriteDoneEff; dsimp only
  repeat' (first
      | with_reducible assumption | intro _ | exact hs _ _ _ (by assumption) | with_reducible apply sideUe_keeps
      | with_reducible apply modStrm_keeps | with_reducible apply strmCharge_keeps | with_reducible apply hbmWrite_keeps
      | with_reducible apply foldl_keeps | with_reducible apply foldlFst_keeps | with_reducible apply each_keeps
      | with_reducible apply ite_keeps | dsimp only | split)

theorem stepUnpark_keeps {s0 s : State} (hh : Nat) (h : Keeps s0 s) : Keeps s0 (stepUnpark s hh) := by
  unfold stepUnpark; try dsimp only
  repeat' (first
      | with_reducible assumption | intro _ | with_reducible apply modStrm_keeps | with_reducible apply takePlace_keeps
      | with_reducible apply ite_keeps | dsimp only | split)

theorem dispatchStrms_keeps {s0 s : State} (n : Nat) (h : Keeps s0 s) : Keeps s0 (dispatchStrms s n) := by
  unfold dispatchStrms; try dsimp only
  repeat' (first
      | with_reducible assumption | intro _ | with_reducible apply each_keeps | with_reducible apply holdDrops_keeps
      | with_reducible apply stepPark_keeps | with_reducible apply stepUnpark_keeps | with_reducible apply stepExport_keeps
      | with_reducible apply stepActivate_keeps)

/-! ## Loader -/

theorem ccPut_keeps {s0 s : State} (a : Nat) (bs : List Byte) (h : Keeps s0 s) : Keeps s0 { s with ccmem := memWrite 0 s.ccmem a bs } :=
  Keeps.ofMem s rfl rfl (fun m => by rw [memOk_iff] at m ⊢; exact ⟨m.1, m.2.1, memWf_write 0 _ _ m.2.2⟩) h

theorem compactCc_keeps {s0 s : State} (n : Nat) (h : Keeps s0 s) : Keeps s0 (compactCc s n) := by
  unfold compactCc; dsimp only
  refine foldlFst_keeps (fun x j hx => ?_) h
  dsimp only
  refine modJob_keeps _ _ _ (each_keeps (fun y c hy => modClu_keeps _ _ (ccPut_keeps _ _ hy)) hx)

theorem loadEnd_keeps {s0 s : State} (n : Nat) (j : Nat) (e : Option LoadErr) (ok : State → State) (h_ok : ∀ x0, Keeps s0 x0 → Keeps s0
    (ok x0)) (h : Keeps s0 s) : Keeps s0 (loadEnd s n j e ok) := by
  unfold loadEnd; try dsimp only
  repeat' (first
      | with_reducible assumption | intro _ | with_reducible apply h_ok | with_reducible apply modPart_keeps
      | with_reducible apply wrN_keeps | with_reducible apply setEvt_keeps | dsimp only | split)

theorem loadRead_keeps {s0 s : State} (n : Nat) (o : LoadOp) (h : Keeps s0 s) : Keeps s0 (loadRead s n o) := by
  unfold loadRead; try dsimp only
  repeat' (first | with_reducible assumption | intro _ | with_reducible apply hbmUe_keeps | with_reducible apply ite_keeps)

theorem ccRoom_keeps {s0 s : State} (n : Nat) (len : Nat) (h : Keeps s0 s) : Keeps s0 (ccRoom s n len).1 := by
  unfold ccRoom; try dsimp only
  repeat' (first
      | with_reducible assumption | intro _ | with_reducible apply compactCc_keeps | with_reducible apply ite_keeps | dsimp only
      | split)

theorem writePages_keeps {s0 s : State} (n : Nat) (p : List Byte) (addrs : List (List Nat)) (h : Keeps s0 s)
    : Keeps s0 (writePages s n p addrs).1 := by
  unfold writePages; try dsimp only
  repeat' (first
      | with_reducible assumption | intro _ | with_reducible apply hbmWrite_keeps | with_reducible apply foldl_keeps
      | with_reducible apply foldlFst_keeps | with_reducible apply ite_keeps)

theorem forgetJob_keeps {s0 s : State} (n : Nat) (j : Nat) (h : Keeps s0 s) : Keeps s0 (forgetJob s n j) := by
  unfold forgetJob; try dsimp only
  repeat' (first | with_reducible assumption | intro _ | with_reducible apply modPart_keeps)

theorem putSlice_keeps {s0 s : State} (c : Nat) (img : JobImg) (sl : List Bundle) (h : Keeps s0 s) : Keeps s0 (putSlice s c img sl) := by
  unfold putSlice; try dsimp only
  repeat' (first | with_reducible assumption | intro _ | with_reducible apply setBundle_keeps | with_reducible apply foldl_keeps)

theorem placeJob_keeps {s0 s : State} (n j : Nat) (h : Keeps s0 s) : Keeps s0 (placeJob s n j) := by
  unfold placeJob; dsimp only
  exact foldl_keeps (fun x q hx => putSlice_keeps _ _ _ hx) (each_keeps (fun x c hx => ccPut_keeps _ _ hx) h)

theorem install_keeps {s0 s : State} (n : Nat) (j : Nat) (p : List Byte) (h : Keeps s0 s) : Keeps s0 (install s n j p) := by
  unfold install; try dsimp only
  repeat' (first
      | with_reducible assumption | intro _ | with_reducible apply ccRoom_keeps | with_reducible apply writePages_keeps
      | with_reducible apply forgetJob_keeps | with_reducible apply modJob_keeps | with_reducible apply placeJob_keeps
      | with_reducible apply wrN_keeps | with_reducible apply ite_keeps)

theorem loadDoneEff_keeps {s0 s : State} (n : Nat) (h : Keeps s0 s) : Keeps s0 (loadDoneEff n s) := by
  unfold loadDoneEff
  split
  · exact h
  · refine ite_keeps h ?_
    split
    · exact loadEnd_keeps _ _ _ _ (fun x hx => hx) (loadRead_keeps _ _ h)
    · exact loadEnd_keeps _ _ _ _ (fun x hx => install_keeps _ _ _ hx) (loadRead_keeps _ _ h)

theorem placeAll_keeps {s0 s : State} (n : Nat) (h : Keeps s0 s) : Keeps s0 (placeAll s n) := by
  unfold placeAll; dsimp only
  refine each_keeps (fun x j hx => placeJob_keeps _ _ hx) ?_
  refine Keeps.ofMem s rfl rfl (fun m => ?_) h
  rw [memOk_iff] at m ⊢
  exact ⟨m.1, m.2.1, smWf_filter _ _ m.2.2⟩

theorem removeJob_keeps {s0 s : State} (n j : Nat) (h : Keeps s0 s) : Keeps s0 (removeJob s n j) := by
  unfold removeJob; dsimp only
  refine foldl_keeps (fun x k hx => wrN_keeps _ _ hx) (forgetJob_keeps _ _ (modJob_keeps _ _ _ (each_keeps (fun x c hx => ?_) h)))
  exact Keeps.ofMem x rfl rfl (fun m => by rw [memOk_iff] at m ⊢; exact ⟨m.1, m.2.1, smWf_filter _ _ m.2.2⟩) hx

theorem unloadDoneEff_keeps {s0 s : State} (n : Nat) (h : Keeps s0 s) : Keeps s0 (unloadDoneEff n s) := by
  unfold unloadDoneEff; try dsimp only
  repeat' (first
      | with_reducible assumption | intro _ | with_reducible apply loadEnd_keeps | with_reducible apply removeJob_keeps
      | with_reducible apply ite_keeps | dsimp only | split)

theorem loadIgnored_keeps {s0 s : State} (n : Nat) (h : Keeps s0 s) : Keeps s0 (loadIgnored s n) := by
  unfold loadIgnored; try dsimp only
  repeat' (first | with_reducible assumption | intro _ | with_reducible apply setEvt_keeps)

theorem loadStart_keeps {s0 s : State} (unload : Bool) (n : Nat) (j : Nat) (h : Keeps s0 s) : Keeps s0 (loadStart unload n j s) := by
  unfold loadStart; try dsimp only
  repeat' (first
      | with_reducible assumption | intro _ | with_reducible apply loadIgnored_keeps | with_reducible apply wrN_keeps
      | with_reducible apply modPart_keeps | with_reducible apply ite_keeps)

/-! ## Partitions -/

theorem cmdReject_keeps {s0 s : State} (n : Nat) (cause : Nat) (h : Keeps s0 s) : Keeps s0 (cmdReject s n cause) := by
  unfold cmdReject; try dsimp only
  repeat' (first | with_reducible assumption | intro _ | with_reducible apply setEvt_keeps | with_reducible apply modPart_keeps)

theorem partCmdReserved_keeps {s0 s : State} (n : Nat) (h : Keeps s0 s) : Keeps s0 (partCmdReserved n s) := by
  unfold partCmdReserved; try dsimp only
  repeat' (first | with_reducible assumption | intro _ | with_reducible apply cmdReject_keeps)

theorem ignoredWr_keeps {s0 s : State} (n : Nat) (off : Nat) (h : Keeps s0 s) : Keeps s0 (ignoredWr s n off) := by
  unfold ignoredWr; try dsimp only
  repeat' (first | with_reducible assumption | intro _ | with_reducible apply setEvt_keeps)

theorem partCmd_keeps {s0 s : State} (n : Nat) (ok : PState → Bool) (f : State → State) (h_f : ∀ x0, Keeps s0 x0 → Keeps s0 (f x0))
    (h : Keeps s0 s) : Keeps s0 (partCmd n ok f s) := by
  unfold partCmd; try dsimp only
  repeat' (first
      | with_reducible assumption | intro _ | with_reducible apply h_f | with_reducible apply cmdReject_keeps
      | with_reducible apply ite_keeps)

theorem judgeTbl_keeps {s0 s : State} (n : Nat) (t : Tbl) (h : Keeps s0 s) : Keeps s0 (judgeTbl s n t).1 := by
  unfold judgeTbl; try dsimp only
  repeat' (first
      | with_reducible assumption | intro _ | with_reducible apply modPart_keeps | with_reducible apply ite_keeps | dsimp only
      | split)

theorem swapTable_keeps {s0 s : State} (n : Nat) (h : Keeps s0 s) : Keeps s0 (swapTable s n) := by
  unfold swapTable; try dsimp only
  repeat' (first
      | with_reducible assumption | intro _ | with_reducible apply wr64_keeps | with_reducible apply wf_keeps
      | with_reducible apply setEvt_keeps | with_reducible apply modPart_keeps | with_reducible apply foldl_keeps)

theorem tblSwapEff_keeps {s0 s : State} (n : Nat) (h : Keeps s0 s) : Keeps s0 (tblSwapEff n s) := by
  unfold tblSwapEff; try dsimp only
  repeat' (first
      | with_reducible assumption | intro _ | with_reducible apply partCmd_keeps | with_reducible apply cmdReject_keeps
      | with_reducible apply judgeTbl_keeps | with_reducible apply modPart_keeps | with_reducible apply swapTable_keeps
      | with_reducible apply ite_keeps | dsimp only | split)

theorem pfTdiErr_keeps {s0 s : State} (n : Nat) (h : Keeps s0 s) : Keeps s0 (pfTdiErr s n) := by
  unfold pfTdiErr; try dsimp only
  repeat' (first | with_reducible assumption | intro _ | with_reducible apply tdiError_keeps | with_reducible apply ite_keeps)

theorem clearFree_keeps {s0 s : State} (ms : List Nat) (h : Keeps s0 s) : Keeps s0 (clearFree s ms) := by
  unfold clearFree; try dsimp only
  repeat' (first | with_reducible assumption | intro _ | dsimp only | fail_if_no_progress (with_reducible apply Keeps.lit))

theorem partCfgSet_keeps {s0 s : State} (n : Nat) (w : Nat) (v : Word) (h : Keeps s0 s) : Keeps s0 (partCfgSet n w v s) := by
  unfold partCfgSet; try dsimp only
  repeat' (first
      | with_reducible assumption | intro _ | with_reducible apply ignoredWr_keeps | with_reducible apply clearFree_keeps
      | with_reducible apply wrN_keeps | with_reducible apply ite_keeps)

theorem partCfgWriteEff_keeps {s0 s : State} (n : Nat) (w : Nat) (v : Word) (h : Keeps s0 s) : Keeps s0 (partCfgWriteEff n w v s) := by
  unfold partCfgWriteEff; try dsimp only
  repeat' (first | with_reducible assumption | intro _ | with_reducible apply pfTdiErr_keeps | with_reducible apply partCfgSet_keeps)

theorem waitCmd_keeps {s0 s : State} (c : PendCmd) (n : Nat) (k : Nat) (h : Keeps s0 s) : Keeps s0 (waitCmd c n k s) := by
  unfold waitCmd; try dsimp only
  repeat' (first | with_reducible assumption | intro _ | with_reducible apply modPart_keeps)

theorem resumeEff_keeps {s0 s : State} (n : Nat) (h : Keeps s0 s) : Keeps s0 (resumeEff n s) := by
  unfold resumeEff; try dsimp only
  repeat' (first | with_reducible assumption | intro _ | with_reducible apply partCmd_keeps | with_reducible apply waitCmd_keeps)

theorem startEff_keeps {s0 s : State} (n : Nat) (h : Keeps s0 s) : Keeps s0 (startEff n s) := by
  unfold startEff; try dsimp only
  repeat' (first
      | with_reducible assumption | intro _ | with_reducible apply partCmd_keeps | with_reducible apply cmdReject_keeps
      | with_reducible apply waitCmd_keeps | with_reducible apply ite_keeps)

theorem configureEff_keeps {s0 s : State} (n : Nat) (h : Keeps s0 s) : Keeps s0 (configureEff n s) := by
  unfold configureEff; try dsimp only
  repeat' (first | with_reducible assumption | intro _ | with_reducible apply partCmd_keeps | with_reducible apply setSt_keeps)

theorem stopEff_keeps {s0 s : State} (n : Nat) (h : Keeps s0 s) : Keeps s0 (stopEff n s) := by
  unfold stopEff; try dsimp only
  repeat' (first | with_reducible assumption | intro _ | with_reducible apply partCmd_keeps | with_reducible apply waitCmd_keeps)

theorem comYield_keeps {s0 s : State} (n : Nat) (h : Keeps s0 s) : Keeps s0 (comYield s n) := by
  unfold comYield; try dsimp only
  repeat' (first
      | with_reducible assumption | intro _ | with_reducible apply each_keeps | with_reducible apply cmdReject_keeps
      | with_reducible apply modPart_keeps | with_reducible apply setSt_keeps)

theorem tblLoEff_keeps {s0 s : State} (n : Nat) (shadow : Bool) (e : Nat) (v : Word) (h : Keeps s0 s)
    : Keeps s0 (tblLoEff n shadow e v s) := by
  unfold tblLoEff; try dsimp only
  repeat' (first | with_reducible assumption | intro _ | with_reducible apply modPart_keeps | with_reducible apply ite_keeps)

theorem beginZeroise_keeps {s0 s : State} (n : Nat) (h : Keeps s0 s) : Keeps s0 (beginZeroise s n) := by
  unfold beginZeroise; try dsimp only
  repeat' (first
      | with_reducible assumption | intro _ | with_reducible apply teardownStrms_keeps | with_reducible apply clearLanes_keeps
      | with_reducible apply stopPitch_keeps | with_reducible apply modPart_keeps | with_reducible apply setSt_keeps | dsimp only
      | fail_if_no_progress (with_reducible apply Keeps.lit))

theorem tblHiEff_keeps {s0 s : State} (n : Nat) (shadow : Bool) (e : Nat) (v : Word) (h : Keeps s0 s)
    : Keeps s0 (tblHiEff n shadow e v s) := by
  unfold tblHiEff; try dsimp only
  repeat' (first
      | with_reducible assumption | intro _ | with_reducible apply modPart_keeps | with_reducible apply wr_keeps
      | with_reducible apply ite_keeps)

theorem rearmEff_keeps {s0 s : State} (n : Nat) (j : Nat) (h : Keeps s0 s) : Keeps s0 (rearmEff n j s) := by
  unfold rearmEff; try dsimp only
  repeat' (first | with_reducible assumption | intro _ | with_reducible apply modJob_keeps)

theorem maintEff_keeps {s0 s : State} (n : Nat) (h : Keeps s0 s) : Keeps s0 (maintEff n s) := by
  unfold maintEff; try dsimp only
  repeat' (first | with_reducible assumption | intro _ | with_reducible apply partCmd_keeps | with_reducible apply waitCmd_keeps)

theorem teardownPart_keeps {s0 s : State} (n : Nat) (h : Keeps s0 s) : Keeps s0 (teardownPart s n) := by
  unfold teardownPart; try dsimp only
  repeat' (first
      | with_reducible assumption | intro _ | with_reducible apply modPart_keeps | with_reducible apply teardownStrms_keeps
      | with_reducible apply clearLanes_keeps | with_reducible apply stopPitch_keeps | with_reducible apply beginZeroise_keeps
      | with_reducible apply ite_keeps)

theorem teardownEff_keeps {s0 s : State} (n : Nat) (h : Keeps s0 s) : Keeps s0 (teardownEff n s) := by
  unfold teardownEff; try dsimp only
  repeat' (first
      | with_reducible assumption | intro _ | with_reducible apply pfTdiErr_keeps | with_reducible apply teardownPart_keeps
      | with_reducible apply cmdReject_keeps | with_reducible apply ite_keeps)

theorem reconfigEff_keeps {s0 s : State} (n : Nat) (h : Keeps s0 s) : Keeps s0 (reconfigEff n s) := by
  unfold reconfigEff; try dsimp only
  repeat' (first | with_reducible assumption | intro _ | with_reducible apply partCmd_keeps | with_reducible apply setSt_keeps)

theorem commitEff_keeps {s0 s : State} (n : Nat) (h : Keeps s0 s) : Keeps s0 (commitEff n s) := by
  unfold commitEff; try dsimp only
  repeat' (first
      | with_reducible assumption | intro _ | with_reducible apply partCmd_keeps | with_reducible apply cmdReject_keeps
      | with_reducible apply judgeTbl_keeps | with_reducible apply modPart_keeps | with_reducible apply setSt_keeps
      | with_reducible apply comYield_keeps | with_reducible apply each_keeps | with_reducible apply modClu_keeps
      | with_reducible apply placeAll_keeps | with_reducible apply ite_keeps | dsimp only | split)

/-! ## Expander -/

theorem expReject_keeps {s0 s : State} (n : Nat) (cmd : Nat) (err : Nat) (h : Keeps s0 s) : Keeps s0 (expReject s n cmd err) := by
  unfold expReject; try dsimp only
  repeat' (first
      | with_reducible assumption | intro _ | with_reducible apply wf_keeps | with_reducible apply setEvt_keeps
      | with_reducible apply bump_keeps)

theorem expStatus_keeps {s0 s : State} (n : Nat) (err : Nat) (cmd : Nat) (busy : Bool) (done : Bool) (pos : Nat) (h : Keeps s0 s)
    : Keeps s0 (expStatus s n err cmd busy done pos) := by
  unfold expStatus; try dsimp only
  repeat' (first | with_reducible assumption | intro _ | with_reducible apply wrN_keeps)

theorem expDone_keeps {s0 s : State} (n : Nat) (cmd : Nat) (h : Keeps s0 s) : Keeps s0 (expDone s n cmd) := by
  unfold expDone; try dsimp only
  repeat' (first | with_reducible assumption | intro _ | with_reducible apply expStatus_keeps)

theorem expUnregisterEff_keeps {s0 s : State} (n : Nat) (v : Word) (h : Keeps s0 s) : Keeps s0 (expUnregisterEff n v s) := by
  unfold expUnregisterEff; try dsimp only
  repeat' (first
      | with_reducible assumption | intro _ | with_reducible apply expReject_keeps | with_reducible apply modPart_keeps
      | with_reducible apply expDone_keeps | with_reducible apply wrN_keeps | with_reducible apply ite_keeps)

theorem expCount_keeps {s0 s : State} (n : Nat) (err : Nat) (h : Keeps s0 s) : Keeps s0 (expCount s n err) := by
  unfold expCount; try dsimp only
  repeat' (first | with_reducible assumption | intro _ | with_reducible apply bump_keeps | with_reducible apply ite_keeps)

theorem expReadFail_keeps {s0 s : State} (c : Nat) (j : Nat) (err : Nat) (h : Keeps s0 s) : Keeps s0 (expReadFail s c j err) := by
  unfold expReadFail; try dsimp only
  repeat' (first
      | with_reducible assumption | intro _ | with_reducible apply modClu_keeps | with_reducible apply expCount_keeps
      | with_reducible apply wf_keeps | with_reducible apply jobFault_keeps | with_reducible apply setEvt_keeps)

theorem expCharge_keeps {s0 s : State} (n : Nat) (k : Nat) (h : Keeps s0 s) : Keeps s0 (expCharge s n k) := by
  unfold expCharge; try dsimp only
  repeat' (first | with_reducible assumption | intro _ | with_reducible apply charge_keeps)

theorem expReadStartEff_keeps {s0 s : State} (c : Nat) (h : Keeps s0 s) : Keeps s0 (expReadStartEff c s) := by
  unfold expReadStartEff; try dsimp only
  repeat' (first
      | with_reducible assumption | intro _ | with_reducible apply setClu_keeps | with_reducible apply expReadFail_keeps
      | with_reducible apply expCharge_keeps | with_reducible apply ite_keeps | dsimp only | split)

theorem expEnd_keeps {s0 s : State} (n : Nat) (o : ExpLoad) (h : Keeps s0 s) : Keeps s0 (expEnd s n o) := by
  unfold expEnd; try dsimp only
  repeat' (first
      | with_reducible assumption | intro _ | with_reducible apply modPart_keeps | with_reducible apply hbmClear_keeps
      | with_reducible apply ite_keeps)

theorem expZeroise_keeps {s0 s : State} (n : Nat) (h : Keeps s0 s) : Keeps s0 (expZeroise s n) := by
  unfold expZeroise; try dsimp only
  repeat' (first
      | with_reducible assumption | intro _ | with_reducible apply wf_keeps | with_reducible apply expEnd_keeps
      | with_reducible apply wrN_keeps | with_reducible apply modPart_keeps | with_reducible apply cntTo_keeps
      | with_reducible apply foldl_keeps | with_reducible apply foldlFst_keeps | dsimp only | split)

theorem expBegin_keeps {s0 s : State} (n : Nat) (o : ExpLoad) (h : Keeps s0 s) : Keeps s0 (expBegin s n o) := by
  unfold expBegin; try dsimp only
  repeat' (first | with_reducible assumption | intro _ | with_reducible apply zeroSlots_keeps | with_reducible apply modPart_keeps)

theorem expLoadEff_keeps {s0 s : State} (n : Nat) (v : Word) (h : Keeps s0 s) : Keeps s0 (expLoadEff n v s) := by
  unfold expLoadEff; try dsimp only
  repeat' (first
      | with_reducible assumption | intro _ | with_reducible apply expReject_keeps | with_reducible apply wrN_keeps
      | with_reducible apply expCharge_keeps | with_reducible apply expBegin_keeps | with_reducible apply expStatus_keeps
      | with_reducible apply ite_keeps | dsimp only | split)

theorem expLoadFail_keeps {s0 s : State} (n : Nat) (o : ExpLoad) (err : Nat) (pos : Nat) (h : Keeps s0 s)
    : Keeps s0 (expLoadFail s n o err pos) := by
  unfold expLoadFail; try dsimp only
  repeat' (first
      | with_reducible assumption | intro _ | with_reducible apply zeroSlots_keeps | with_reducible apply expCount_keeps
      | with_reducible apply expStatus_keeps | with_reducible apply expEnd_keeps | with_reducible apply setEvt_keeps)

theorem putImage_keeps {s0 s : State} (n : Nat) (cores : List Nat) (slots : List Nat) (img : List Byte) (h : Keeps s0 s)
    : Keeps s0 (putImage s n cores slots img) := by
  unfold putImage; try dsimp only
  repeat' (first
      | with_reducible assumption | intro _ | with_reducible apply each_keeps | with_reducible apply countBytes_keeps
      | with_reducible apply setSlot_keeps | with_reducible apply foldl_keeps)

theorem loadStep_keeps {s0 s : State} (n : Nat) (h : Keeps s0 s) : Keeps s0 (loadStep n s) := by
  unfold loadStep; try dsimp only
  repeat' (first
      | with_reducible assumption | intro _ | with_reducible apply expCharge_keeps | with_reducible apply hbmUe_keeps
      | with_reducible apply expLoadFail_keeps | with_reducible apply putImage_keeps | with_reducible apply modPart_keeps
      | with_reducible apply expStatus_keeps | with_reducible apply expEnd_keeps | with_reducible apply ite_keeps | dsimp only
      | split)

theorem readStep_keeps {s0 s : State} (c : Nat) (h : Keeps s0 s) : Keeps s0 (readStep c s) := by
  unfold readStep; try dsimp only
  repeat' (first
      | with_reducible assumption | intro _ | with_reducible apply expCharge_keeps | with_reducible apply hbmUe_keeps
      | with_reducible apply expReadFail_keeps | with_reducible apply zeroSlots_keeps | with_reducible apply toCycle_keeps
      | with_reducible apply putImage_keeps | with_reducible apply modClu_keeps | with_reducible apply ite_keeps | dsimp only
      | split)

theorem expBlockDoneEff_keeps {s0 s : State} (w : ExpWho) (h : Keeps s0 s) : Keeps s0 (expBlockDoneEff w s) := by
  unfold expBlockDoneEff; try dsimp only
  repeat' (first
      | with_reducible assumption | intro _ | with_reducible apply loadStep_keeps | with_reducible apply readStep_keeps
      | dsimp only | split)

theorem stagingDoneEff_keeps {s0 s : State} (n : Nat) (h : Keeps s0 s) : Keeps s0 (stagingDoneEff n s) := by
  unfold stagingDoneEff; try dsimp only
  repeat' (first
      | with_reducible assumption | intro _ | with_reducible apply expCharge_keeps | with_reducible apply hbmUe_keeps
      | with_reducible apply expLoadFail_keeps | with_reducible apply charge_keeps | with_reducible apply hbmWrite_keeps
      | with_reducible apply expBegin_keeps | with_reducible apply ite_keeps | dsimp only | split)

theorem expRegisterEff_keeps {s0 s : State} (n : Nat) (v : Word) (h : Keeps s0 s) : Keeps s0 (expRegisterEff n v s) := by
  unfold expRegisterEff; try dsimp only
  repeat' (first
      | with_reducible assumption | intro _ | with_reducible apply expReject_keeps | with_reducible apply wrN_keeps
      | with_reducible apply modPart_keeps | with_reducible apply expCharge_keeps | with_reducible apply expDone_keeps
      | with_reducible apply foldl_keeps | with_reducible apply foldlFst_keeps | with_reducible apply ite_keeps | dsimp only
      | split)

theorem expReserved_keeps {s0 s : State} (n : Nat) (code : Nat) (h : Keeps s0 s) : Keeps s0 (expReserved n code s) := by
  unfold expReserved; try dsimp only
  repeat' (first | with_reducible assumption | intro _ | with_reducible apply expReject_keeps)

theorem ccExpCmdEff_keeps {s0 s : State} (c : Nat) (sel : Word) (dst : Word) (ring : Word) (h : Keeps s0 s)
    : Keeps s0 (ccExpCmdEff c sel dst ring s) := by
  unfold ccExpCmdEff; try dsimp only
  repeat' (first | with_reducible assumption | intro _ | with_reducible apply modClu_keeps | with_reducible apply ite_keeps)

end Sys2Proof.Machine
end

