-- ==== Sys2Proof/Laws/KeepsAudio.lean ====
section
/-!
SUPPORT. Ingest, front-end, emission and audio ports: what each operation keeps (Laws/Keeps).
-/
namespace Sys2Proof.Machine

set_option Elab.async false

/-! ## PortBase -/

theorem setPrt_keeps {s0 s : State} (p : Nat) (x : Port) (h : Keeps s0 s) : Keeps s0 (setPrt s p x) := by
  unfold setPrt; try dsimp only
  repeat' (first | with_reducible assumption | intro _ | dsimp only | fail_if_no_progress (with_reducible apply Keeps.lit))

theorem modPrt_keeps {s0 s : State} (p : Nat) (f : Port → Port) (h : Keeps s0 s) : Keeps s0 (modPrt s p f) := by
  unfold modPrt; try dsimp only
  repeat' (first | with_reducible assumption | intro _ | with_reducible apply setPrt_keeps)

/-! ## Ingest -/

theorem ingPiEff_keeps {s0 s : State} (n : Nat) (v : Word) (h : Keeps s0 s) : Keeps s0 (ingPiEff n v s) := by
  unfold ingPiEff; try dsimp only
  repeat' (first
      | with_reducible assumption | intro _ | with_reducible apply wr_keeps | with_reducible apply setEvt_keeps
      | with_reducible apply ite_keeps)

theorem groupRec_keeps {s0 s : State} (n : Nat) (i : Nat) (hh : Nat) (r : List Byte) (k : Src) (j : Judged) (h : Keeps s0 s)
    : Keeps s0 (groupRec s n i hh r k j) := by
  unfold groupRec; try dsimp only
  repeat' (first
      | with_reducible assumption | intro _ | with_reducible apply retireIdx_keeps | with_reducible apply bump_keeps
      | with_reducible apply modStrm_keeps | with_reducible apply ite_keeps)

theorem pushChunk_keeps {s0 s : State} (hh : Nat) (c : Chunk) (h : Keeps s0 s) : Keeps s0 (pushChunk s hh c) := by
  unfold pushChunk; try dsimp only
  repeat' (first
      | with_reducible assumption | intro _ | with_reducible apply badChunk_keeps | with_reducible apply dropChunk_keeps
      | with_reducible apply modStrm_keeps | with_reducible apply modIng_keeps | with_reducible apply ite_keeps)

theorem discardRec_keeps {s0 s : State} (n : Nat) (i : Nat) (bad : Bool) (h : Keeps s0 s) : Keeps s0 (discardRec s n i bad) := by
  unfold discardRec; try dsimp only
  repeat' (first
      | with_reducible assumption | intro _ | with_reducible apply retireIdx_keeps | with_reducible apply bump_keeps
      | with_reducible apply setEvt_keeps | with_reducible apply ite_keeps)

theorem retireRecs_keeps {s0 s : State} (n : Nat) (l : List SrcRec) (h : Keeps s0 s) : Keeps s0 (retireRecs s n l) := by
  unfold retireRecs; try dsimp only
  repeat' (first | with_reducible assumption | intro _ | with_reducible apply each_keeps | with_reducible apply retireIdx_keeps)

theorem takeRec_keeps {s0 s : State} (n : Nat) (i : Nat) (r : List Byte) (h : Keeps s0 s) : Keeps s0 (takeRec s n i r) := by
  unfold takeRec; try dsimp only
  repeat' (first
      | with_reducible assumption | intro _ | with_reducible apply discardRec_keeps | with_reducible apply strmEvent_keeps
      | with_reducible apply modStrm_keeps | with_reducible apply retireRecs_keeps | with_reducible apply groupRec_keeps
      | with_reducible apply pushChunk_keeps | with_reducible apply ite_keeps | dsimp only | split)

theorem ingestRecordEff_keeps {s0 s : State} (n : Nat) (rec : Option (List Byte)) (h : Keeps s0 s)
    : Keeps s0 (ingestRecordEff n rec s) := by
  unfold ingestRecordEff; try dsimp only
  repeat' (first
      | with_reducible assumption | intro _ | with_reducible apply modIng_keeps | with_reducible apply discardRec_keeps
      | with_reducible apply hostReadErr_keeps | with_reducible apply charge_keeps | with_reducible apply takeRec_keeps
      | with_reducible apply ite_keeps | dsimp only | split)

theorem releaseGroup_keeps {s0 s : State} (hh : Nat) (k : Nat) (w : Int) (h : Keeps s0 s) : Keeps s0 (releaseGroup s hh k w) := by
  unfold releaseGroup; try dsimp only
  repeat' (first
      | with_reducible assumption | intro _ | with_reducible apply modStrm_keeps | with_reducible apply pushChunk_keeps
      | with_reducible apply strmEvent_keeps | with_reducible apply foldl_keeps | with_reducible apply foldlFst_keeps
      | with_reducible apply ite_keeps)

theorem groupChunkReleaseEff_keeps {s0 s : State} (n : Nat) (hh : Nat) (h : Keeps s0 s) : Keeps s0 (groupChunkReleaseEff n hh s) := by
  unfold groupChunkReleaseEff; try dsimp only
  repeat' (first
      | with_reducible assumption | intro _ | with_reducible apply releaseGroup_keeps | with_reducible apply ite_keeps | dsimp only
      | split)

theorem fillChunk_keeps {s0 s : State} (n : Nat) (hh : Nat) (k : Nat) (h : Keeps s0 s) : Keeps s0 (fillChunk s n hh k) := by
  unfold fillChunk; try dsimp only
  repeat' (first
      | with_reducible assumption | intro _ | with_reducible apply modStrm_keeps | with_reducible apply pushChunk_keeps
      | with_reducible apply fresh_keeps | with_reducible apply ite_keeps | dsimp only | split)

theorem feOverrun_keeps {s0 s : State} (n : Nat) (h : Keeps s0 s) : Keeps s0 (feOverrun s n) := by
  unfold feOverrun; try dsimp only
  repeat' (first
      | with_reducible assumption | intro _ | with_reducible apply setEvt_keeps | with_reducible apply bump_keeps
      | with_reducible apply ite_keeps)

theorem cutoffPart_keeps {s0 s : State} (n : Nat) (k : Nat) (h : Keeps s0 s) : Keeps s0 (cutoffPart s n k) := by
  unfold cutoffPart; try dsimp only
  repeat' (first
      | with_reducible assumption | intro _ | with_reducible apply modIng_keeps | with_reducible apply each_keeps
      | with_reducible apply modStrm_keeps | with_reducible apply releaseGroup_keeps | with_reducible apply fillChunk_keeps
      | with_reducible apply ite_keeps | dsimp only | split)

theorem emCiEff_keeps {s0 s : State} (n : Nat) (v : Word) (h : Keeps s0 s) : Keeps s0 (emCiEff n v s) := by
  unfold emCiEff; try dsimp only
  repeat' (first
      | with_reducible assumption | intro _ | with_reducible apply wr_keeps | with_reducible apply setEvt_keeps
      | with_reducible apply ite_keeps)

/-! ## FrontEnd -/

theorem profCommitEff_keeps {s0 s : State} (n : Nat) (h : Keeps s0 s) : Keeps s0 (profCommitEff n s) := by
  unfold profCommitEff; try dsimp only
  repeat' (first
      | with_reducible assumption | intro _ | with_reducible apply setEvt_keeps | with_reducible apply wrN_keeps
      | with_reducible apply hbmUe_keeps | with_reducible apply modIng_keeps | with_reducible apply ite_keeps)

theorem profFetchEff_keeps {s0 s : State} (n : Nat) (h : Keeps s0 s) : Keeps s0 (profFetchEff n s) := by
  unfold profFetchEff; try dsimp only
  repeat' (first | with_reducible assumption | intro _ | with_reducible apply wrN_keeps | with_reducible apply foldl_keeps)

theorem reloadCtx_keeps {s0 s : State} (hh : Nat) (h : Keeps s0 s) : Keeps s0 (reloadCtx s hh) := by
  unfold reloadCtx; try dsimp only
  repeat' (first
      | with_reducible assumption | intro _ | with_reducible apply countBytes_keeps | with_reducible apply readSlots_keeps
      | with_reducible apply modStrm_keeps | with_reducible apply strmEvent_keeps | with_reducible apply bump_keeps
      | with_reducible apply ite_keeps)

theorem feStore_keeps {s0 s : State} (n : Nat) (hh : Nat) (i : Nat) (c : Chunk) (k : Option Nat) (h : Keeps s0 s)
    : Keeps s0 (feStore s n hh i c k) := by
  unfold feStore; try dsimp only
  repeat' (first
      | with_reducible assumption | intro _ | with_reducible apply setSlot_keeps | with_reducible apply modStrm_keeps
      | with_reducible apply countBytes_keeps | with_reducible apply foldl_keeps | with_reducible apply foldlFst_keeps
      | with_reducible apply ite_keeps | dsimp only | split)

theorem feChunkDoneEff_keeps {s0 s : State} (n : Nat) (hh : Nat) (h : Keeps s0 s) : Keeps s0 (feChunkDoneEff n hh s) := by
  unfold feChunkDoneEff; try dsimp only
  repeat' (first
      | with_reducible assumption | intro _ | with_reducible apply reloadCtx_keeps | with_reducible apply feStore_keeps
      | with_reducible apply ite_keeps | dsimp only | split)

theorem markReload_keeps {s0 s : State} (hh : Nat) (h : Keeps s0 s) : Keeps s0 (markReload s hh) := by
  unfold markReload; try dsimp only
  repeat' (first
      | with_reducible assumption | intro _ | with_reducible apply each_keeps | with_reducible apply freeStore_keeps
      | with_reducible apply modStrm_keeps | with_reducible apply ite_keeps)

theorem feTimeout_keeps {s0 s : State} (n : Nat) (hh : Nat) (h : Keeps s0 s) : Keeps s0 (feTimeout s n hh) := by
  unfold feTimeout; try dsimp only
  repeat' (first | with_reducible assumption | intro _ | with_reducible apply bump_keeps | with_reducible apply ite_keeps)

/-! ## Emission -/

theorem releaseEm_keeps {s0 s : State} (n : Nat) (h : Keeps s0 s) : Keeps s0 (releaseEm s n) := by
  unfold releaseEm; try dsimp only
  repeat' (first
      | with_reducible assumption | intro _ | with_reducible apply modIng_keeps | with_reducible apply ite_keeps | dsimp only
      | split | fail_if_no_progress (with_reducible apply Keeps.lit))

theorem emitRec_keeps {s0 s : State} (n : Nat) (r : EmRec) (lost : Bool) (h : Keeps s0 s) : Keeps s0 (emitRec s n r lost) := by
  unfold emitRec; try dsimp only
  repeat' (first
      | with_reducible assumption | intro _ | with_reducible apply setEvt_keeps | with_reducible apply bump_keeps
      | with_reducible apply wrN_keeps | with_reducible apply charge_keeps | with_reducible apply hostPut_keeps
      | with_reducible apply ite_keeps | dsimp only | split | fail_if_no_progress (with_reducible apply Keeps.lit))

theorem rowUe_keeps {s0 s : State} (n : Nat) (row : List (Nat × Nat)) (h : Keeps s0 s) : Keeps s0 (rowUe s n row) := by
  unfold rowUe; try dsimp only
  repeat' (first | with_reducible assumption | intro _ | with_reducible apply countBytes_keeps | with_reducible apply readSlots_keeps)

theorem stageTokens_keeps {s0 s : State} (key : Nat) (l : Lane) (h : Keeps s0 s) : Keeps s0 (stageTokens s key l) := by
  unfold stageTokens; try dsimp only
  repeat' (first
      | with_reducible assumption | intro _ | with_reducible apply each_keeps | with_reducible apply rowUe_keeps
      | with_reducible apply pushRec_keeps)

theorem emissionRingWriteEff_keeps {s0 s : State} (n : Nat) (lost : Nat) (h : Keeps s0 s) : Keeps s0 (emissionRingWriteEff n lost s) := by
  unfold emissionRingWriteEff; try dsimp only
  repeat' (first
      | with_reducible assumption | intro _ | with_reducible apply modIng_keeps | with_reducible apply emitRec_keeps
      | with_reducible apply setEvt_keeps | with_reducible apply foldl_keeps | with_reducible apply foldlFst_keeps
      | with_reducible apply ite_keeps | dsimp only | split | fail_if_no_progress (with_reducible apply Keeps.lit))

theorem concealed_keeps {s0 s : State} (hh : Nat) (c : Chunk) (h : Keeps s0 s) : Keeps s0 (concealed s hh c) := by
  unfold concealed; try dsimp only
  repeat' (first
      | with_reducible assumption | intro _ | with_reducible apply bump_keeps | with_reducible apply modStrm_keeps
      | with_reducible apply strmEvent_keeps | with_reducible apply ite_keeps | dsimp only | split)

theorem stampSeq_keeps {s0 s : State} (n : Nat) (h : Keeps s0 s) : Keeps s0 (stampSeq s n) := by
  unfold stampSeq; try dsimp only
  repeat' (first
      | with_reducible assumption | intro _ | with_reducible apply ite_keeps | dsimp only | split
      | fail_if_no_progress (with_reducible apply Keeps.lit))

/-! ## Ports -/

theorem pEvt_keeps {s0 s : State} (p : Nat) (bit : Nat) (d : optParam Nat 0) (h : Keeps s0 s) : Keeps s0 (pEvt s p bit d) := by
  unfold pEvt; try dsimp only
  repeat' (first | with_reducible assumption | intro _ | with_reducible apply setEvt_keeps)

theorem unlockOne_keeps {s0 s : State} (q : Nat) (h : Keeps s0 s) : Keeps s0 (unlockOne s q) := by
  unfold unlockOne; try dsimp only
  repeat' (first
      | with_reducible assumption | intro _ | with_reducible apply pEvt_keeps | with_reducible apply bump_keeps
      | with_reducible apply modPrt_keeps | with_reducible apply ite_keeps)

theorem stopPort_keeps {s0 s : State} (p : Nat) (h : Keeps s0 s) : Keeps s0 (stopPort s p) := by
  unfold stopPort; try dsimp only
  repeat' (first
      | with_reducible assumption | intro _ | with_reducible apply modPrt_keeps | with_reducible apply each_keeps
      | with_reducible apply unlockOne_keeps)

theorem keepFrame_keeps {s0 s : State} (p : Nat) (t : Nat) (xs : List Nat) (non : Bool) (wasLock : Bool) (h : Keeps s0 s)
    : Keeps s0 (keepFrame s p t xs non wasLock) := by
  unfold keepFrame; try dsimp only
  repeat' (first | with_reducible assumption | intro _ | with_reducible apply modPrt_keeps)

theorem applyCh_keeps {s0 s : State} (p : Nat) (ch : Nat) (h : Keeps s0 s) : Keeps s0 (applyCh s p ch) := by
  unfold applyCh; try dsimp only
  repeat' (first | with_reducible assumption | intro _ | with_reducible apply wrN_keeps | with_reducible apply modPrt_keeps)

theorem sendFrame_keeps {s0 s : State} (p : Nat) (h : Keeps s0 s) : Keeps s0 (sendFrame s p) := by
  unfold sendFrame; try dsimp only
  repeat' (first
      | with_reducible assumption | intro _ | with_reducible apply each_keeps | with_reducible apply applyCh_keeps
      | with_reducible apply modPrt_keeps | with_reducible apply ite_keeps)

theorem portMasterFrameEff_keeps {s0 s : State} (p : Nat) (slots : List Word) (h : Keeps s0 s)
    : Keeps s0 (portMasterFrameEff p slots s) := by
  unfold portMasterFrameEff; try dsimp only
  repeat' (first
      | with_reducible assumption | intro _ | with_reducible apply toTb_keeps | with_reducible apply keepFrame_keeps
      | with_reducible apply sendFrame_keeps | with_reducible apply ite_keeps)

theorem nonaudioEndEff_keeps {s0 s : State} (p : Nat) (h : Keeps s0 s) : Keeps s0 (nonaudioEndEff p s) := by
  unfold nonaudioEndEff; try dsimp only
  repeat' (first | with_reducible assumption | intro _ | with_reducible apply modPrt_keeps | with_reducible apply ite_keeps)

theorem loseLock_keeps {s0 s : State} (p : Nat) (h : Keeps s0 s) : Keeps s0 (loseLock s p) := by
  unfold loseLock; try dsimp only
  repeat' (first | with_reducible assumption | intro _ | with_reducible apply each_keeps | with_reducible apply unlockOne_keeps)

theorem gainLock_keeps {s0 s : State} (p : Nat) (h : Keeps s0 s) : Keeps s0 (gainLock s p) := by
  unfold gainLock; try dsimp only
  repeat' (first
      | with_reducible assumption | intro _ | with_reducible apply each_keeps | with_reducible apply pEvt_keeps
      | with_reducible apply modPrt_keeps)

theorem lockFrame_keeps {s0 s : State} (p : Nat) (t : Nat) (bad : Bool) (h : Keeps s0 s) : Keeps s0 (lockFrame s p t bad) := by
  unfold lockFrame; try dsimp only
  repeat' (first
      | with_reducible assumption | intro _ | with_reducible apply modPrt_keeps | with_reducible apply loseLock_keeps
      | with_reducible apply gainLock_keeps | with_reducible apply ite_keeps)

theorem latchCs_keeps {s0 s : State} (p : Nat) (off : Nat) (bits : List Bool) (h : Keeps s0 s) : Keeps s0 (latchCs s p off bits).1 := by
  unfold latchCs; try dsimp only
  repeat' (first
      | with_reducible assumption | intro _ | with_reducible apply bump_keeps | with_reducible apply wrN_keeps
      | with_reducible apply foldl_keeps | with_reducible apply foldlFst_keeps | with_reducible apply ite_keeps | dsimp only
      | split)

theorem declareNon_keeps {s0 s : State} (p : Nat) (t : Nat) (h : Keeps s0 s) : Keeps s0 (declareNon s p t) := by
  unfold declareNon; try dsimp only
  repeat' (first
      | with_reducible assumption | intro _ | with_reducible apply modPrt_keeps | with_reducible apply pEvt_keeps
      | with_reducible apply ite_keeps)

theorem csFrame_keeps {s0 s : State} (p : Nat) (f : FrameIn) (h : Keeps s0 s) : Keeps s0 (csFrame s p f) := by
  unfold csFrame; try dsimp only
  repeat' (first
      | with_reducible assumption | intro _ | with_reducible apply modPrt_keeps | with_reducible apply latchCs_keeps
      | with_reducible apply declareNon_keeps | with_reducible apply ite_keeps)

theorem aesFrame_keeps {s0 s : State} (p : Nat) (f : FrameIn) (wasLock : Bool) (h : Keeps s0 s) : Keeps s0 (aesFrame s p f wasLock) := by
  unfold aesFrame; try dsimp only
  repeat' (first
      | with_reducible assumption | intro _ | with_reducible apply csFrame_keeps | with_reducible apply bumpBy_keeps
      | with_reducible apply modPrt_keeps | with_reducible apply declareNon_keeps | with_reducible apply keepFrame_keeps
      | with_reducible apply ite_keeps)

theorem portFrameEff_keeps {s0 s : State} (p : Nat) (f0 : FrameIn) (h : Keeps s0 s) : Keeps s0 (portFrameEff p f0 s) := by
  unfold portFrameEff; try dsimp only
  repeat' (first
      | with_reducible assumption | intro _ | with_reducible apply toTb_keeps | with_reducible apply lockFrame_keeps
      | with_reducible apply aesFrame_keeps | with_reducible apply keepFrame_keeps | with_reducible apply each_keeps
      | with_reducible apply sendFrame_keeps | with_reducible apply ite_keeps)

theorem startPort_keeps {s0 s : State} (p : Nat) (h : Keeps s0 s) : Keeps s0 (startPort s p) := by
  unfold startPort; try dsimp only
  repeat' (first | with_reducible assumption | intro _ | with_reducible apply modPrt_keeps)

theorem portCfgEff_keeps {s0 s : State} (p : Nat) (v : Word) (h : Keeps s0 s) : Keeps s0 (portCfgEff p v s) := by
  unfold portCfgEff; try dsimp only
  repeat' (first
      | with_reducible assumption | intro _ | with_reducible apply pEvt_keeps | with_reducible apply stopPort_keeps
      | with_reducible apply wrN_keeps | with_reducible apply startPort_keeps | with_reducible apply ite_keeps)

theorem outEdge_keeps {s0 s : State} (p : Nat) (h : Keeps s0 s) : Keeps s0 (outEdge s p) := by
  unfold outEdge; try dsimp only
  repeat' (first | with_reducible assumption | intro _ | with_reducible apply modPrt_keeps | with_reducible apply ite_keeps)

theorem zcTimeoutEff_keeps {s0 s : State} (p : Nat) (ch : Nat) (h : Keeps s0 s) : Keeps s0 (zcTimeoutEff p ch s) := by
  unfold zcTimeoutEff; try dsimp only
  repeat' (first
      | with_reducible assumption | intro _ | with_reducible apply toTb_keeps | with_reducible apply pEvt_keeps
      | with_reducible apply bump_keeps | with_reducible apply applyCh_keeps | with_reducible apply ite_keeps)

theorem outPiEff_keeps {s0 s : State} (p : Nat) (v : Word) (h : Keeps s0 s) : Keeps s0 (outPiEff p v s) := by
  unfold outPiEff; try dsimp only
  repeat' (first
      | with_reducible assumption | intro _ | with_reducible apply wr_keeps | with_reducible apply pEvt_keeps
      | with_reducible apply ite_keeps)

theorem takeOut_keeps {s0 s : State} (p : Nat) (rec : Option (List Byte)) (h : Keeps s0 s) : Keeps s0 (takeOut s p rec) := by
  unfold takeOut; try dsimp only
  repeat' (first
      | with_reducible assumption | intro _ | with_reducible apply wrN_keeps | with_reducible apply pEvt_keeps
      | with_reducible apply bump_keeps | with_reducible apply modPrt_keeps | with_reducible apply hostReadErr_keeps
      | with_reducible apply ite_keeps | dsimp only | split)

theorem zcTmoEff_keeps {s0 s : State} (p : Nat) (v : Word) (h : Keeps s0 s) : Keeps s0 (zcTmoEff p v s) := by
  unfold zcTmoEff; try dsimp only
  repeat' (first
      | with_reducible assumption | intro _ | with_reducible apply wrN_keeps | with_reducible apply pEvt_keeps
      | with_reducible apply ite_keeps)

theorem portChunk_keeps {s0 s : State} (p : Nat) (hh : Nat) (k : Nat) (c : Int) (h : Keeps s0 s) : Keeps s0 (portChunk s p hh k c) := by
  unfold portChunk; try dsimp only
  repeat' (first | with_reducible assumption | intro _ | with_reducible apply modStrm_keeps | with_reducible apply pushChunk_keeps)

theorem portCutoff_keeps {s0 s : State} (k : Nat) (p : Nat) (h : Keeps s0 s) : Keeps s0 (portCutoff s k p) := by
  unfold portCutoff; try dsimp only
  repeat' (first
      | with_reducible assumption | intro _ | with_reducible apply bump_keeps | with_reducible apply each_keeps
      | with_reducible apply portChunk_keeps | with_reducible apply ite_keeps | dsimp only | split)

theorem zeroPorts_keeps {s0 s : State} (n : Nat) (h : Keeps s0 s) : Keeps s0 (zeroPorts s n) := by
  unfold zeroPorts; try dsimp only
  repeat' (first
      | with_reducible assumption | intro _ | with_reducible apply each_keeps | with_reducible apply wrN_keeps
      | with_reducible apply modPrt_keeps | with_reducible apply wf_keeps | with_reducible apply ite_keeps)

theorem portFrameTimeoutEff_keeps {s0 s : State} (p : Nat) (h : Keeps s0 s) : Keeps s0 (portFrameTimeoutEff p s) := by
  unfold portFrameTimeoutEff; try dsimp only
  repeat' (first
      | with_reducible assumption | intro _ | with_reducible apply modPrt_keeps | with_reducible apply loseLock_keeps
      | with_reducible apply toTb_keeps | with_reducible apply ite_keeps | dsimp only | split)

theorem chCtrlEff_keeps {s0 s : State} (p : Nat) (ch : Nat) (v : Word) (h : Keeps s0 s) : Keeps s0 (chCtrlEff p ch v s) := by
  unfold chCtrlEff; try dsimp only
  repeat' (first
      | with_reducible assumption | intro _ | with_reducible apply wrN_keeps | with_reducible apply applyCh_keeps
      | with_reducible apply wf_keeps | with_reducible apply modPrt_keeps | with_reducible apply ite_keeps)

theorem outCutoff_keeps {s0 s : State} (outs : List (Option (List Byte))) (p : Nat) (h : Keeps s0 s) : Keeps s0 (outCutoff outs s p) := by
  unfold outCutoff; try dsimp only
  repeat' (first
      | with_reducible assumption | intro _ | with_reducible apply takeOut_keeps | with_reducible apply pEvt_keeps
      | with_reducible apply bump_keeps | with_reducible apply modPrt_keeps | with_reducible apply ite_keeps)

/-! ## Timeouts -/

theorem tmoFault_keeps {s0 s : State} (c : Nat) (j : Nat) (h : Keeps s0 s) : Keeps s0 (tmoFault s c j) := by
  unfold tmoFault; try dsimp only
  repeat' (first | with_reducible assumption | intro _ | with_reducible apply jobFault_keeps | with_reducible apply bump_keeps)

theorem nocTmo_keeps {s0 s : State} (core : Nat) (h : Keeps s0 s) : Keeps s0 (nocTmo s core) := by
  unfold nocTmo; try dsimp only
  repeat' (first
      | with_reducible assumption | intro _ | with_reducible apply tmoFault_keeps | with_reducible apply toCycle_keeps
      | with_reducible apply ite_keeps | dsimp only | split)

theorem spUeCntClearEff_keeps {s0 s : State} (c : Nat) (h : Keeps s0 s) : Keeps s0 (spUeCntClearEff c s) := by
  unfold spUeCntClearEff; try dsimp only
  repeat' (first | with_reducible assumption | intro _ | with_reducible apply clearCnt_keeps | with_reducible apply wrN_keeps)

theorem staticTmo_keeps {s0 s : State} (c : Nat) (h : Keeps s0 s) : Keeps s0 (staticTmo s c) := by
  unfold staticTmo; try dsimp only
  repeat' (first
      | with_reducible assumption | intro _ | with_reducible apply tmoFault_keeps | with_reducible apply toCycle_keeps | dsimp only
      | split)

theorem descTmo_keeps {s0 s : State} (c : Nat) (q : Nat) (h : Keeps s0 s) : Keeps s0 (descTmo s c q) := by
  unfold descTmo; try dsimp only
  repeat' (first | with_reducible assumption | intro _ | with_reducible apply tmoFault_keeps | dsimp only | split)

theorem expTmo_keeps {s0 s : State} (c : Nat) (h : Keeps s0 s) : Keeps s0 (expTmo s c) := by
  unfold expTmo; try dsimp only
  repeat' (first
      | with_reducible assumption | intro _ | with_reducible apply tmoFault_keeps | with_reducible apply ite_keeps | dsimp only
      | split)

theorem linkTmo_keeps {s0 s : State} (n : Nat) (h : Keeps s0 s) : Keeps s0 (linkTmo s n) := by
  unfold linkTmo; try dsimp only
  repeat' (first
      | with_reducible assumption | intro _ | with_reducible apply tmoFault_keeps | with_reducible apply modBly_keeps | dsimp only
      | split)

theorem engineTmo_keeps {s0 s : State} (hh : Nat) (h : Keeps s0 s) : Keeps s0 (engineTmo s hh) := by
  unfold engineTmo; try dsimp only
  repeat' (first
      | with_reducible assumption | intro _ | with_reducible apply sideFault_keeps | with_reducible apply modStrm_keeps
      | with_reducible apply xportFail_keeps | with_reducible apply modBly_keeps | with_reducible apply ite_keeps | dsimp only
      | split)

theorem tagTimeoutEff_keeps {s0 s : State} (w : TmoOf) (h : Keeps s0 s) : Keeps s0 (tagTimeoutEff w s) := by
  unfold tagTimeoutEff; try dsimp only
  repeat' (first
      | with_reducible assumption | intro _ | with_reducible apply staticTmo_keeps | with_reducible apply descTmo_keeps
      | with_reducible apply nocTmo_keeps | with_reducible apply expTmo_keeps | with_reducible apply feTimeout_keeps
      | with_reducible apply linkTmo_keeps | with_reducible apply engineTmo_keeps | dsimp only | split)

theorem tagTmoEff_keeps {s0 s : State} (n : Nat) (v : Word) (h : Keeps s0 s) : Keeps s0 (tagTmoEff n v s) := by
  unfold tagTmoEff; try dsimp only
  repeat' (first
      | with_reducible assumption | intro _ | with_reducible apply ignoredWr_keeps | with_reducible apply wrN_keeps
      | with_reducible apply ite_keeps)

end Sys2Proof.Machine
end

