-- ==== Sys2Proof/Laws/KeepsParty.lean ====
section
/-!
SUPPORT. Summit register, keys, SPDM, links, collectives, belay: what each operation keeps (Laws/Keeps).
-/
namespace Sys2Proof.Machine

set_option Elab.async false

/-! ## Summit -/

theorem sumAdd_keeps {s0 s : State} (typ origin party keyid detail : Nat) (payload : List Byte) (b : s.sirvi.summit.buf.length < sumMax)
    (h : Keeps s0 s) : Keeps s0 (sumAdd s typ origin party keyid detail payload) := by
  unfold sumAdd
  refine modSummit_keeps (fun _ => ?_) (Nat.le_succ _) h
  simp only [List.length_append, List.length_singleton]; omega

theorem sumFlush_keeps {s0 s : State} (h : Keeps s0 s) : Keeps s0 (sumFlush s) := by
  have h1 : Keeps s0 (modSummit s fun v => { v with buf := [], sectors := v.buf.foldl sectorAdd v.sectors }) :=
    modSummit_keeps (fun _ => Nat.zero_le _) (Nat.le_refl _) h
  unfold sumFlush; dsimp only
  split
  · exact h1
  · refine modSummit_keeps (fun x => x) (Nat.le_refl _) (sumAdd_keeps _ _ _ _ _ _ ?_ h1)
    simp [modSummit, modSirvi, sumMax]

/-- After a flush the SRAM buffer has room. -/
theorem sumFlush_room (s : State) : (sumFlush s).sirvi.summit.buf.length < sumMax := by
  unfold sumFlush; dsimp only
  split
  · simp [modSummit, modSirvi, sumMax]
  · simp [modSummit, modSirvi, sumAdd, sumMax]

theorem summitFlushEff_keeps {s0 s : State} (h : Keeps s0 s) : Keeps s0 (summitFlushEff s) := by
  unfold summitFlushEff; try dsimp only
  repeat' (first | with_reducible assumption | intro _ | with_reducible apply sumFlush_keeps | with_reducible apply ite_keeps)

theorem sumCmd_keeps {s0 s : State} (typ origin party keyid detail : Nat) (payload : List Byte) (h : Keeps s0 s) :
    Keeps s0 (sumCmd s typ origin party keyid detail payload) := by
  unfold sumCmd
  split
  · exact sumAdd_keeps _ _ _ _ _ _ (sumFlush_room s) (sumFlush_keeps h)
  · exact sumAdd_keeps _ _ _ _ _ _ (by omega) h

theorem sumDev_keeps {s0 s : State} (typ party detail : Nat) (payload : List Byte) (h : Keeps s0 s) :
    Keeps s0 (sumDev s typ party detail payload) := by
  unfold sumDev
  split
  · exact modSummit_keeps (fun x => x) (Nat.le_refl _) h
  · exact sumAdd_keeps _ _ _ _ _ _ (by omega) h

/-! ## Keys -/

theorem setShield_keeps {s0 s : State} (p : Nat) (b : Bool) (h : Keeps s0 s) : Keeps s0 (setShield s p b) := by
  unfold setShield; try dsimp only
  repeat' (first | with_reducible assumption | intro _ | with_reducible apply wf_keeps | with_reducible apply irqSyncs_keeps)

theorem setRsp_keeps {s0 s : State} (e : Nat) (r : SpdmRsp) (h : Keeps s0 s) : Keeps s0 (setRsp s e r) := by
  unfold setRsp; try dsimp only
  repeat' (first | with_reducible assumption | intro _ | dsimp only | fail_if_no_progress (with_reducible apply Keeps.lit))

theorem keyReq_keeps {s0 s : State} (session : Nat) (slot : Nat) (pend : Bool) (chk : State → Nat) (f : State → State)
    (h_f : ∀ x0, Keeps s0 x0 → Keeps s0 (f x0)) (h : Keeps s0 s) : Keeps s0 (keyReq session slot pend chk f s) := by
  unfold keyReq; try dsimp only
  repeat' (first
      | with_reducible assumption | intro _ | with_reducible apply h_f | with_reducible apply setRsp_keeps
      | with_reducible apply ite_keeps)

theorem keyEntry_keeps {s0 s : State} (typ : Nat) (slot : Nat) (id : Nat) (payload : List Byte) (h : Keeps s0 s)
    : Keeps s0 (keyEntry s typ slot id payload) := by
  unfold keyEntry; try dsimp only
  repeat' (first | with_reducible assumption | intro _ | with_reducible apply sumCmd_keeps)

theorem tearParty_keeps {s0 s : State} (p : Nat) (h : Keeps s0 s) : Keeps s0 (tearParty s p) := by
  unfold tearParty; try dsimp only
  repeat' (first
      | with_reducible assumption | intro _ | with_reducible apply each_keeps | with_reducible apply teardownPart_keeps
      | with_reducible apply ite_keeps)

theorem modStdy_keeps {s0 s : State} (p : Nat) (f : Stdy → Stdy) (h : Keeps s0 s) : Keeps s0 (modStdy s p f) := by
  unfold modStdy; try dsimp only
  repeat' (first | with_reducible assumption | intro _ | dsimp only | fail_if_no_progress (with_reducible apply Keeps.lit))

theorem policySetEff_keeps {s0 s : State} (session : Nat) (slot : Nat) (shield : Bool) (reqTdi : Bool) (h : Keeps s0 s)
    : Keeps s0 (policySetEff session slot shield reqTdi s) := by
  unfold policySetEff; try dsimp only
  repeat' (first
      | with_reducible assumption | intro _ | with_reducible apply keyReq_keeps | with_reducible apply modStdy_keeps
      | with_reducible apply keyEntry_keeps | with_reducible apply setShield_keeps | with_reducible apply wf_keeps)

theorem putBudgets_keeps {s0 s : State} (p : Nat) (b : List Nat) (emit : Nat) (pavg : Nat) (h : Keeps s0 s)
    : Keeps s0 (putBudgets s p b emit pavg) := by
  unfold putBudgets; try dsimp only
  repeat' (first
      | with_reducible assumption | intro _ | with_reducible apply each_keeps | with_reducible apply wr64_keeps
      | with_reducible apply wf_keeps)

theorem clearSteady_keeps {s0 s : State} (p : Nat) (h : Keeps s0 s) : Keeps s0 (clearSteady s p) := by
  unfold clearSteady; try dsimp only
  repeat' (first
      | with_reducible assumption | intro _ | with_reducible apply modStdy_keeps | with_reducible apply wrN_keeps
      | with_reducible apply setShield_keeps | with_reducible apply each_keeps | with_reducible apply wr64_keeps)

theorem dropWindow_keeps {s0 s : State} (p : Nat) (h : Keeps s0 s) : Keeps s0 (dropWindow s p) := by
  unfold dropWindow; try dsimp only
  repeat' (first
      | with_reducible assumption | intro _ | with_reducible apply wrN_keeps | with_reducible apply hbmClear_keeps
      | with_reducible apply ite_keeps)

theorem eraseSlot_keeps {s0 s : State} (i : Nat) (h : Keeps s0 s) : Keeps s0 (eraseSlot s i) := by
  unfold eraseSlot; try dsimp only
  repeat' (first
      | with_reducible assumption | intro _ | with_reducible apply dropWindow_keeps | with_reducible apply setKeySlot_keeps
      | with_reducible apply ite_keeps)

theorem keyEraseCompleteEff_keeps {s0 s : State} (slot : Nat) (h : Keeps s0 s) : Keeps s0 (keyEraseCompleteEff slot s) := by
  unfold keyEraseCompleteEff; try dsimp only
  repeat' (first
      | with_reducible assumption | intro _ | with_reducible apply setRsp_keeps | with_reducible apply clearSteady_keeps
      | with_reducible apply eraseSlot_keeps | with_reducible apply keyEntry_keeps | with_reducible apply ite_keeps)

theorem steadyClearEff_keeps {s0 s : State} (session : Nat) (slot : Nat) (h : Keeps s0 s) : Keeps s0 (steadyClearEff session slot s) := by
  unfold steadyClearEff; try dsimp only
  repeat' (first
      | with_reducible assumption | intro _ | with_reducible apply keyReq_keeps | with_reducible apply keyEntry_keeps
      | with_reducible apply modStdy_keeps | with_reducible apply wf_keeps)

theorem keySetEff_keeps {s0 s : State} (session : Nat) (slot : Nat) (id : DWord) (key : List Byte) (h : Keeps s0 s)
    : Keeps s0 (keySetEff session slot id key s) := by
  unfold keySetEff; try dsimp only
  repeat' (first
      | with_reducible assumption | intro _ | with_reducible apply keyReq_keeps | with_reducible apply setKeySlot_keeps
      | with_reducible apply keyEntry_keeps)

theorem ptySteadyAckEff_keeps {s0 s : State} (p : Nat) (v : Word) (h : Keeps s0 s) : Keeps s0 (ptySteadyAckEff p v s) := by
  unfold ptySteadyAckEff; try dsimp only
  repeat' (first
      | with_reducible assumption | intro _ | with_reducible apply modStdy_keeps | with_reducible apply sumCmd_keeps
      | with_reducible apply ite_keeps)

theorem rotateEdge_keeps {s0 s : State} (i : Nat) (h : Keeps s0 s) : Keeps s0 (rotateEdge s i) := by
  unfold rotateEdge; try dsimp only
  repeat' (first | with_reducible assumption | intro _ | with_reducible apply setKeySlot_keeps | dsimp only | split)

theorem steadyEdge_keeps {s0 s : State} (p : Nat) (h : Keeps s0 s) : Keeps s0 (steadyEdge s p) := by
  unfold steadyEdge; try dsimp only
  repeat' (first
      | with_reducible assumption | intro _ | with_reducible apply setShield_keeps | with_reducible apply modStdy_keeps
      | with_reducible apply wf_keeps | with_reducible apply putBudgets_keeps | with_reducible apply sumCmd_keeps
      | with_reducible apply ite_keeps | dsimp only | split)

theorem partiesEdge_keeps {s0 s : State} (h : Keeps s0 s) : Keeps s0 (partiesEdge s) := by
  unfold partiesEdge; try dsimp only
  repeat' (first
      | with_reducible assumption | intro _ | with_reducible apply each_keeps | with_reducible apply rotateEdge_keeps
      | with_reducible apply steadyEdge_keeps)

theorem keyRotateEff_keeps {s0 s : State} (session : Nat) (slot : Nat) (id : DWord) (key : List Byte) (h : Keeps s0 s)
    : Keeps s0 (keyRotateEff session slot id key s) := by
  unfold keyRotateEff; try dsimp only
  repeat' (first
      | with_reducible assumption | intro _ | with_reducible apply keyReq_keeps | with_reducible apply setKeySlot_keeps
      | with_reducible apply keyEntry_keeps)

theorem keyDropOldEff_keeps {s0 s : State} (session : Nat) (slot : Nat) (h : Keeps s0 s) : Keeps s0 (keyDropOldEff session slot s) := by
  unfold keyDropOldEff; try dsimp only
  repeat' (first
      | with_reducible assumption | intro _ | with_reducible apply keyReq_keeps | with_reducible apply setKeySlot_keeps
      | with_reducible apply keyEntry_keeps)

theorem keyEraseEff_keeps {s0 s : State} (session : Nat) (slot : Nat) (h : Keeps s0 s) : Keeps s0 (keyEraseEff session slot s) := by
  unfold keyEraseEff; try dsimp only
  repeat' (first
      | with_reducible assumption | intro _ | with_reducible apply setRsp_keeps | with_reducible apply tearParty_keeps
      | with_reducible apply setKeySlot_keeps | with_reducible apply ite_keeps)

theorem setSess_keeps {s0 s : State} (i : Nat) (x : Sess) (h : Keeps s0 s) : Keeps s0 (setSess s i x) := by
  unfold setSess; try dsimp only
  repeat' (first | with_reducible assumption | intro _ | dsimp only | fail_if_no_progress (with_reducible apply Keeps.lit))

theorem steadySetEff_keeps {s0 s : State} (session : Nat) (slot : Nat) (budgets : List DWord) (emit : Nat) (pavg : Nat)
    (h : Keeps s0 s) : Keeps s0 (steadySetEff session slot budgets emit pavg s) := by
  unfold steadySetEff; try dsimp only
  repeat' (first
      | with_reducible assumption | intro _ | with_reducible apply keyReq_keeps | with_reducible apply keyEntry_keeps
      | with_reducible apply wf_keeps | with_reducible apply modStdy_keeps | with_reducible apply putBudgets_keeps
      | with_reducible apply ite_keeps)

/-! ## Spdm -/

theorem spdmDo_keeps {s0 s : State} (e : Nat) (f : State → State) (h_f : ∀ x0, Keeps s0 x0 → Keeps s0 (f x0)) (h : Keeps s0 s)
    : Keeps s0 (spdmDo e f s) := by
  unfold spdmDo; try dsimp only
  repeat' (first | with_reducible assumption | intro _ | with_reducible apply h_f | with_reducible apply ite_keeps)

theorem sessDo_keeps {s0 s : State} (e : Nat) (i : Nat) (ok : Sess → Bool) (f : State → State) (h_f : ∀ x0, Keeps s0 x0 → Keeps s0
    (f x0)) (h : Keeps s0 s) : Keeps s0 (sessDo e i ok f s) := by
  unfold sessDo; try dsimp only
  repeat' (first
      | with_reducible assumption | intro _ | with_reducible apply h_f | with_reducible apply spdmDo_keeps
      | with_reducible apply setRsp_keeps | with_reducible apply ite_keeps)

theorem setIde_keeps {s0 s : State} (k : Nat) (x : Ide) (h : Keeps s0 s) : Keeps s0 (setIde s k x) := by
  unfold setIde; try dsimp only
  repeat' (first | with_reducible assumption | intro _ | dsimp only | fail_if_no_progress (with_reducible apply Keeps.lit))

theorem kSetGoEff_keeps {s0 s : State} (e : Nat) (i : Nat) (k : Nat) (set : Bool) (h : Keeps s0 s)
    : Keeps s0 (kSetGoEff e i k set s) := by
  unfold kSetGoEff; try dsimp only
  repeat' (first
      | with_reducible assumption | intro _ | with_reducible apply sessDo_keeps | with_reducible apply setRsp_keeps
      | with_reducible apply wf_keeps | with_reducible apply setIde_keeps | with_reducible apply ite_keeps)

theorem startInterfaceEff_keeps {s0 s : State} (k : Nat) (i : Nat) (h : Keeps s0 s) : Keeps s0 (startInterfaceEff k i s) := by
  unfold startInterfaceEff; try dsimp only
  repeat' (first
      | with_reducible assumption | intro _ | with_reducible apply sessDo_keeps | with_reducible apply setRsp_keeps
      | with_reducible apply setTdi_keeps | with_reducible apply ite_keeps)

theorem spdmAsk_keeps {s0 s : State} (e : Nat) (r : State → SpdmRsp) (h : Keeps s0 s) : Keeps s0 (spdmAsk e r s) := by
  unfold spdmAsk; try dsimp only
  repeat' (first | with_reducible assumption | intro _ | with_reducible apply spdmDo_keeps | with_reducible apply setRsp_keeps)

theorem spdmSummitReadEff_keeps {s0 s : State} (e : Nat) (first : Nat) (h : Keeps s0 s) : Keeps s0 (spdmSummitReadEff e first s) := by
  unfold spdmSummitReadEff; try dsimp only
  repeat' (first | with_reducible assumption | intro _ | with_reducible apply spdmAsk_keeps)

theorem ideKmEff_keeps {s0 s : State} (e : Nat) (i : Nat) (k : Nat) (set : Bool) (key : List Byte) (h : Keeps s0 s)
    : Keeps s0 (ideKmEff e i k set key s) := by
  unfold ideKmEff; try dsimp only
  repeat' (first
      | with_reducible assumption | intro _ | with_reducible apply sessDo_keeps | with_reducible apply setRsp_keeps
      | with_reducible apply setIde_keeps)

theorem endSessionEff_keeps {s0 s : State} (e : Nat) (i : Nat) (h : Keeps s0 s) : Keeps s0 (endSessionEff e i s) := by
  unfold endSessionEff; try dsimp only
  repeat' (first
      | with_reducible assumption | intro _ | with_reducible apply sessDo_keeps | with_reducible apply setRsp_keeps
      | with_reducible apply setSess_keeps)

theorem challengeEff_keeps {s0 s : State} (e : Nat) (nonce : List Byte) (h : Keeps s0 s) : Keeps s0 (challengeEff e nonce s) := by
  unfold challengeEff; try dsimp only
  repeat' (first | with_reducible assumption | intro _ | with_reducible apply spdmAsk_keeps)

theorem keyExchangeEff_keeps {s0 s : State} (e : Nat) (hh : List Byte) (h : Keeps s0 s) : Keeps s0 (keyExchangeEff e hh s) := by
  unfold keyExchangeEff; try dsimp only
  repeat' (first
      | with_reducible assumption | intro _ | with_reducible apply spdmDo_keeps | with_reducible apply setRsp_keeps
      | with_reducible apply setSess_keeps | dsimp only | split)

theorem negotiateAlgorithmsEff_keeps {s0 s : State} (e : Nat) (h : Keeps s0 s) : Keeps s0 (negotiateAlgorithmsEff e s) := by
  unfold negotiateAlgorithmsEff; try dsimp only
  repeat' (first | with_reducible assumption | intro _ | with_reducible apply spdmAsk_keeps)

theorem lockInterfaceEff_keeps {s0 s : State} (k : Nat) (i : Nat) (h : Keeps s0 s) : Keeps s0 (lockInterfaceEff k i s) := by
  unfold lockInterfaceEff; try dsimp only
  repeat' (first
      | with_reducible assumption | intro _ | with_reducible apply sessDo_keeps | with_reducible apply setRsp_keeps
      | with_reducible apply setTdi_keeps | with_reducible apply ite_keeps)

theorem getCertificateEff_keeps {s0 s : State} (e : Nat) (h : Keeps s0 s) : Keeps s0 (getCertificateEff e s) := by
  unfold getCertificateEff; try dsimp only
  repeat' (first | with_reducible assumption | intro _ | with_reducible apply spdmAsk_keeps)

theorem spdmHeartbeatEff_keeps {s0 s : State} (e : Nat) (i : Nat) (h : Keeps s0 s) : Keeps s0 (spdmHeartbeatEff e i s) := by
  unfold spdmHeartbeatEff; try dsimp only
  repeat' (first | with_reducible assumption | intro _ | with_reducible apply sessDo_keeps | with_reducible apply setRsp_keeps)

theorem getDigestsEff_keeps {s0 s : State} (e : Nat) (h : Keeps s0 s) : Keeps s0 (getDigestsEff e s) := by
  unfold getDigestsEff; try dsimp only
  repeat' (first | with_reducible assumption | intro _ | with_reducible apply spdmAsk_keeps)

theorem getVersionEff_keeps {s0 s : State} (e : Nat) (h : Keeps s0 s) : Keeps s0 (getVersionEff e s) := by
  unfold getVersionEff; try dsimp only
  repeat' (first | with_reducible assumption | intro _ | with_reducible apply spdmAsk_keeps)

theorem stopInterfaceEff_keeps {s0 s : State} (k : Nat) (i : Nat) (h : Keeps s0 s) : Keeps s0 (stopInterfaceEff k i s) := by
  unfold stopInterfaceEff; try dsimp only
  repeat' (first
      | with_reducible assumption | intro _ | with_reducible apply sessDo_keeps | with_reducible apply setTdi_keeps
      | with_reducible apply tdiError_keeps | with_reducible apply setRsp_keeps | with_reducible apply ite_keeps)

theorem finishEff_keeps {s0 s : State} (e : Nat) (i : Nat) (auth : Bool) (h : Keeps s0 s) : Keeps s0 (finishEff e i auth s) := by
  unfold finishEff; try dsimp only
  repeat' (first
      | with_reducible assumption | intro _ | with_reducible apply sessDo_keeps | with_reducible apply setRsp_keeps
      | with_reducible apply setSess_keeps)

theorem getCapabilitiesEff_keeps {s0 s : State} (e : Nat) (h : Keeps s0 s) : Keeps s0 (getCapabilitiesEff e s) := by
  unfold getCapabilitiesEff; try dsimp only
  repeat' (first | with_reducible assumption | intro _ | with_reducible apply spdmAsk_keeps)

theorem keyUpdateEff_keeps {s0 s : State} (e : Nat) (i : Nat) (h : Keeps s0 s) : Keeps s0 (keyUpdateEff e i s) := by
  unfold keyUpdateEff; try dsimp only
  repeat' (first
      | with_reducible assumption | intro _ | with_reducible apply sessDo_keeps | with_reducible apply setRsp_keeps
      | with_reducible apply setSess_keeps)

theorem getMeasurementsEff_keeps {s0 s : State} (e : Nat) (block : Nat) (nonce : List Byte) (h : Keeps s0 s)
    : Keeps s0 (getMeasurementsEff e block nonce s) := by
  unfold getMeasurementsEff; try dsimp only
  repeat' (first | with_reducible assumption | intro _ | with_reducible apply spdmAsk_keeps)

theorem ideEnd_keeps {s0 s : State} (k : Nat) (h : Keeps s0 s) : Keeps s0 (ideEnd s k) := by
  unfold ideEnd; try dsimp only
  repeat' (first
      | with_reducible assumption | intro _ | with_reducible apply wf_keeps | with_reducible apply setIde_keeps
      | with_reducible apply tdiError_keeps | with_reducible apply ite_keeps)

/-! ## LinkBase -/

theorem chargeRx_keeps {s0 s : State} (n : Nat) (len : Nat) (h : Keeps s0 s) : Keeps s0 (chargeRx s n len) := by
  unfold chargeRx; try dsimp only
  repeat' (first | with_reducible assumption | intro _ | with_reducible apply charge_keeps)

theorem setLk_keeps {s0 s : State} (p : Nat) (st : Nat) (h : Keeps s0 s) : Keeps s0 (setLk s p st) := by
  unfold setLk; try dsimp only
  repeat' (first | with_reducible assumption | intro _ | with_reducible apply wf_keeps)

theorem modLport_keeps {s0 s : State} (p : Nat) (f : LPort → LPort) (h : Keeps s0 s) : Keeps s0 (modLport s p f) := by
  unfold modLport; try dsimp only
  repeat' (first | with_reducible assumption | intro _ | dsimp only | fail_if_no_progress (with_reducible apply Keeps.lit))

theorem abandonSend_keeps {s0 s : State} (core : Nat) (h : Keeps s0 s) : Keeps s0 (abandonSend s core) := by
  unfold abandonSend; try dsimp only
  repeat' (first | with_reducible assumption | intro _ | with_reducible apply bump_keeps)

theorem msgLost_keeps {s0 s : State} (m : TxMsg) (h : Keeps s0 s) : Keeps s0 (msgLost s m) := by
  unfold msgLost; try dsimp only
  repeat' (first
      | with_reducible assumption | intro _ | with_reducible apply jobFault_keeps | with_reducible apply abandonSend_keeps
      | with_reducible apply modBly_keeps | with_reducible apply bump_keeps | with_reducible apply ite_keeps | dsimp only | split)

theorem lkDrop_keeps {s0 s : State} (p : Nat) (h : Keeps s0 s) : Keeps s0 (lkDrop s p) := by
  unfold lkDrop; try dsimp only
  repeat' (first
      | with_reducible assumption | intro _ | with_reducible apply each_keeps | with_reducible apply modLport_keeps
      | with_reducible apply msgLost_keeps)

theorem chargeTx_keeps {s0 s : State} (n : Nat) (len : Nat) (h : Keeps s0 s) : Keeps s0 (chargeTx s n len) := by
  unfold chargeTx; try dsimp only
  repeat' (first | with_reducible assumption | intro _ | with_reducible apply charge_keeps)

theorem lkBump_keeps {s0 s : State} (p : Nat) (o : Nat) (h : Keeps s0 s) : Keeps s0 (lkBump s p o) := by
  unfold lkBump; try dsimp only
  repeat' (first | with_reducible assumption | intro _ | with_reducible apply bump_keeps)

theorem lkAuthFail_keeps {s0 s : State} (p : Nat) (h : Keeps s0 s) : Keeps s0 (lkAuthFail s p) := by
  unfold lkAuthFail; try dsimp only
  repeat' (first
      | with_reducible assumption | intro _ | with_reducible apply sumDev_keeps | with_reducible apply setEvt_keeps
      | with_reducible apply lkBump_keeps)

theorem sendOn_keeps {s0 s : State} (p : Nat) (hh : MHead) (body : List Byte) (owner : Nat) (fwd : Bool) (h : Keeps s0 s)
    : Keeps s0 (sendOn s p hh body owner fwd) := by
  unfold sendOn; try dsimp only
  repeat' (first | with_reducible assumption | intro _ | with_reducible apply modLport_keeps)

theorem sendMsg_keeps {s0 s t : State} (n d c : Nat) (m : MHead) (body : List Byte) (owner : Nat) (h : Keeps s0 s)
    (e : sendMsg s n d c m body owner = some t) : Keeps s0 t := by
  unfold sendMsg at e
  obtain ⟨p, -, rfl⟩ := Option.map_eq_some_iff.1 e
  exact chargeTx_keeps _ _ (sendOn_keeps _ _ _ _ _ h)

theorem lkDown_keeps {s0 s : State} (p : Nat) (cause : Nat) (h : Keeps s0 s) : Keeps s0 (lkDown s p cause) := by
  unfold lkDown; try dsimp only
  repeat' (first
      | with_reducible assumption | intro _ | with_reducible apply wf_keeps | with_reducible apply setLk_keeps
      | with_reducible apply setEvt_keeps | with_reducible apply lkBump_keeps | with_reducible apply lkDrop_keeps)

/-! ## Collective -/

theorem collTmoEff_keeps {s0 s : State} (n : Nat) (v : Word) (h : Keeps s0 s) : Keeps s0 (collTmoEff n v s) := by
  unfold collTmoEff; try dsimp only
  repeat' (first
      | with_reducible assumption | intro _ | with_reducible apply setEvt_keeps | with_reducible apply wrN_keeps
      | with_reducible apply ite_keeps)

theorem rxWrite_keeps {s0 s : State} (n : Nat) (l : List (Nat × Nat × List Byte)) (held : List (Nat × Nat)) (h : Keeps s0 s) :
    Keeps s0 (rxWrite n l held s).1 := by
  induction l generalizing s with
  | nil => exact h
  | cons q l ih =>
    unfold rxWrite
    repeat' (first
        | with_reducible assumption | intro _ | with_reducible apply ih | with_reducible apply countBytes_keeps
        | with_reducible apply slotEff_keeps | with_reducible apply foldl_keeps | with_reducible apply foldlFst_keeps
        | with_reducible apply each_keeps | with_reducible apply ite_keeps | dsimp only | split)

theorem rxPump_keeps {s0 s : State} (n : Nat) (h : Keeps s0 s) : Keeps s0 (rxPump s n) := by
  unfold rxPump; try dsimp only
  repeat' (first
      | with_reducible assumption | intro _ | with_reducible apply rxWrite_keeps | with_reducible apply modBly_keeps
      | with_reducible apply foldl_keeps | with_reducible apply foldlFst_keeps | with_reducible apply ite_keeps)

theorem sendMsgD_keeps {s0 s u : State} (n d c : Nat) (m : MHead) (body : List Byte) (owner : Nat) (h : Keeps s0 s) (hu : Keeps s0 u) :
    Keeps s0 ((sendMsg s n d c m body owner).getD u) := by
  cases e : sendMsg s n d c m body owner with
  | none => exact hu
  | some t => exact sendMsg_keeps _ _ _ _ _ _ h e

theorem sendGive_keeps {s0 s : State} (core : Nat) (o : NocOp) (h : Keeps s0 s) : Keeps s0 (sendGive s core o) := by
  unfold sendGive; dsimp only
  exact sendMsgD_keeps _ _ _ _ _ _ h (jobFault_keeps _ _ _ h)

theorem nocHead_keeps {s0 s : State} (core : Nat) (o : NocOp) (h : Keeps s0 s) : Keeps s0 (nocHead s core o) := by
  unfold nocHead; try dsimp only
  repeat' (first | with_reducible assumption | intro _ | dsimp only | fail_if_no_progress (with_reducible apply Keeps.lit))

theorem nocRead_keeps {s0 s : State} (l : List (Nat × Nat)) (h : Keeps s0 s) : Keeps s0 (nocRead s l) := by
  unfold nocRead; try dsimp only
  repeat' (first
      | with_reducible assumption | intro _ | with_reducible apply each_keeps | with_reducible apply readSlots_keeps
      | with_reducible apply countBytes_keeps)

theorem sendGo_keeps {s0 s : State} (k : Nat) (core : Nat) (o : NocOp) (h : Keeps s0 s) : Keeps s0 (sendGo k s core o) := by
  induction k generalizing s o with
  | zero => exact h
  | succ k ih =>
    unfold sendGo; dsimp only
    repeat' (first
        | with_reducible assumption | intro _ | with_reducible apply ih | with_reducible apply sendGive_keeps
        | with_reducible apply nocPop_keeps | with_reducible apply nocHead_keeps | with_reducible apply jobFault_keeps
        | with_reducible apply nocRead_keeps | with_reducible apply modSlot_keeps | with_reducible apply foldl_keeps
        | with_reducible apply foldlFst_keeps | with_reducible apply each_keeps | with_reducible apply ite_keeps | dsimp only
        | split)

theorem collTake_keeps {s0 s t : State} (core : Nat) (o : NocOp) (x n : Nat) {b : List Byte} (h : Keeps s0 s)
    (e : collTake s core o x n = some (t, b)) : Keeps s0 t := by
  unfold collTake at e
  obtain ⟨i, -, e⟩ := Option.map_eq_some_iff.1 e
  simp only [Prod.mk.injEq] at e
  rw [← e.1]; exact modBly_keeps _ _ h

theorem putWords_keeps {s0 s : State} (o : NocOp) (l : List (Nat × Nat)) (ws : List (List Nat)) (h : Keeps s0 s)
    : Keeps s0 (putWords s o l ws) := by
  unfold putWords; try dsimp only
  repeat' (first
      | with_reducible assumption | intro _ | with_reducible apply each_keeps | with_reducible apply countBytes_keeps
      | with_reducible apply slotEff_keeps | with_reducible apply ite_keeps)

theorem collStep_keeps {s0 s : State} (core : Nat) (o : NocOp) (x : Nat) (n : Nat) (m : Nat) (body : List Byte) (h : Keeps s0 s)
    : Keeps s0 (collStep s core o x n m body) := by
  unfold collStep; try dsimp only
  repeat' (first
      | with_reducible assumption | intro _ | with_reducible apply setFlags_keeps | with_reducible apply putWords_keeps
      | with_reducible apply nocPop_keeps | with_reducible apply nocHead_keeps | with_reducible apply ite_keeps)

theorem collAlone_keeps {s0 s : State} (core : Nat) (o : NocOp) (h : Keeps s0 s) : Keeps s0 (collAlone s core o) := by
  unfold collAlone; try dsimp only
  repeat' (first
      | with_reducible assumption | intro _ | with_reducible apply putWords_keeps | with_reducible apply nocPop_keeps
      | with_reducible apply setFlags_keeps | with_reducible apply ite_keeps)

theorem collFail_keeps {s0 s : State} (core : Nat) (o : NocOp) (h : Keeps s0 s) : Keeps s0 (collFail s core o) := by
  unfold collFail; try dsimp only
  repeat' (first
      | with_reducible assumption | intro _ | with_reducible apply jobFault_keeps | with_reducible apply bump_keeps
      | with_reducible apply nocPop_keeps)

theorem collSend_keeps {s0 s : State} (core : Nat) (o : NocOp) (x n m : Nat) (h : Keeps s0 s) :
    Keeps s0 (collSend s core o x n m).1 := by
  unfold collSend; dsimp only
  split
  · exact h
  · rename_i s1 e
    have h1 := sendMsg_keeps _ _ _ _ _ _ h e
    repeat' (first
        | with_reducible assumption | intro _ | with_reducible apply setFlags_keeps | with_reducible apply nocHead_keeps
        | with_reducible apply putWords_keeps | with_reducible apply foldl_keeps | with_reducible apply foldlFst_keeps
        | with_reducible apply each_keeps | with_reducible apply ite_keeps)

theorem collGo_keeps {s0 s : State} (k core : Nat) (h : Keeps s0 s) : Keeps s0 (collGo k s core) := by
  induction k generalizing s with
  | zero => exact h
  | succ k ih =>
    have ht : ∀ o x n t b, collTake s core o x n = some (t, b) → Keeps s0 t := fun o x n t b e => collTake_keeps _ _ _ _ h e
    unfold collGo; dsimp only
    repeat' (first
        | with_reducible assumption | intro _ | with_reducible apply ih | exact ht _ _ _ _ _ (by assumption)
        | with_reducible apply jobFault_keeps | with_reducible apply nocRead_keeps | with_reducible apply collAlone_keeps
        | with_reducible apply collFail_keeps | with_reducible apply collSend_keeps | with_reducible apply collStep_keeps
        | with_reducible apply foldl_keeps | with_reducible apply foldlFst_keeps | with_reducible apply each_keeps
        | with_reducible apply ite_keeps | dsimp only | split)

theorem collRun_keeps {s0 s : State} (core : Nat) (h : Keeps s0 s) : Keeps s0 (collRun s core) := by
  unfold collRun; try dsimp only
  repeat' (first | with_reducible assumption | intro _ | with_reducible apply collGo_keeps)

theorem nocGo_keeps {s0 s : State} (core : Nat) (h : Keeps s0 s) : Keeps s0 (nocGo s core) := by
  unfold nocGo; try dsimp only
  repeat' (first
      | with_reducible assumption | intro _ | with_reducible apply nocCopyEnd_keeps | with_reducible apply sendGo_keeps
      | with_reducible apply collRun_keeps | dsimp only | split)

theorem nocCopyDoneEff_keeps {s0 s : State} (core : Nat) (h : Keeps s0 s) : Keeps s0 (nocCopyDoneEff core s) := by
  unfold nocCopyDoneEff; try dsimp only
  repeat' (first | with_reducible assumption | intro _ | with_reducible apply rxPump_keeps | with_reducible apply nocGo_keeps)

theorem recvSend_keeps {s0 s : State} (p : Nat) (hh : MHead) (body : List Byte) (h : Keeps s0 s) : Keeps s0 (recvSend s p hh body) := by
  unfold recvSend; try dsimp only
  repeat' (first
      | with_reducible assumption | intro _ | with_reducible apply lkBump_keeps | with_reducible apply rxPump_keeps
      | with_reducible apply modBly_keeps | with_reducible apply chargeRx_keeps | with_reducible apply ite_keeps | dsimp only
      | split)

theorem lkSendOp_keeps {s0 s : State} (c : Nat) (h : Keeps s0 s) : Keeps s0 (lkSendOp c s) := by
  unfold lkSendOp; try dsimp only
  repeat' (first
      | with_reducible assumption | intro _ | with_reducible apply clusFault_keeps | with_reducible apply freezeOn_keeps
      | with_reducible apply nocPush_keeps | with_reducible apply markDid_keeps | with_reducible apply nocGo_keeps
      | with_reducible apply ite_keeps | dsimp only | split)

theorem lkCollOp_keeps {s0 s : State} (c : Nat) (h : Keeps s0 s) : Keeps s0 (lkCollOp c s) := by
  unfold lkCollOp; try dsimp only
  repeat' (first
      | with_reducible assumption | intro _ | with_reducible apply clusFault_keeps | with_reducible apply freezeOn_keeps
      | with_reducible apply each_keeps | with_reducible apply markDid_keeps | with_reducible apply nocPush_keeps
      | with_reducible apply nocGo_keeps | with_reducible apply ite_keeps | dsimp only | split)

theorem collTimeoutEff_keeps {s0 s : State} (c : Nat) (h : Keeps s0 s) : Keeps s0 (collTimeoutEff c s) := by
  unfold collTimeoutEff; try dsimp only
  repeat' (first | with_reducible assumption | intro _ | with_reducible apply collFail_keeps | dsimp only | split)

theorem lkSendEff_keeps {s0 s : State} (c : Nat) (h : Keeps s0 s) : Keeps s0 (lkSendEff c s) := by
  unfold lkSendEff; try dsimp only
  repeat' (first | with_reducible assumption | intro _ | with_reducible apply runOp_keeps | with_reducible apply lkSendOp_keeps)

theorem lkCollEff_keeps {s0 s : State} (c : Nat) (h : Keeps s0 s) : Keeps s0 (lkCollEff c s) := by
  unfold lkCollEff; try dsimp only
  repeat' (first | with_reducible assumption | intro _ | with_reducible apply runOp_keeps | with_reducible apply lkCollOp_keeps)

theorem recvColl_keeps {s0 s : State} (p : Nat) (hh : MHead) (body : List Byte) (h : Keeps s0 s) : Keeps s0 (recvColl s p hh body) := by
  unfold recvColl; try dsimp only
  repeat' (first
      | with_reducible assumption | intro _ | with_reducible apply lkBump_keeps | with_reducible apply collRun_keeps
      | with_reducible apply modBly_keeps | with_reducible apply chargeRx_keeps | dsimp only | split)

/-! ## Belay -/

theorem blyReject_keeps {s0 s : State} (n : Nat) (h : Keeps s0 s) : Keeps s0 (blyReject s n) := by
  unfold blyReject; try dsimp only
  repeat' (first | with_reducible assumption | intro _ | with_reducible apply bump_keeps)

theorem reseal_keeps {s0 s t : State} (n i : Nat) (x : BlyEnt) {b : List Byte} (h : Keeps s0 s) (e : reseal s n i x = some (t, b)) :
    Keeps s0 t := by
  unfold reseal at e; dsimp only at e
  split at e
  · split at e
    · exact absurd e (by simp)
    · split at e
      · obtain ⟨z, -, e⟩ := Option.map_eq_some_iff.1 e
        simp only [Prod.mk.injEq] at e
        rw [← e.1]; exact setKeySlot_keeps _ _ h
      · exact absurd e (by simp)
  · exact absurd e (by simp)

theorem promoteOne_keeps {s0 s : State} (n : Nat) (p : Nat × BlyEnt) (h : Keeps s0 s) : Keeps s0 (promoteOne n s p) := by
  unfold promoteOne; extract_lets i e s1
  have h1 : Keeps s0 s1 := by
    unfold s1; split
    · exact hbmUe_keeps _ _ h
    · exact h
  have hs : ∀ t b, reseal s1 n p.1 e = some (t, b) → Keeps s0 t := fun t b e => reseal_keeps _ _ _ h1 e
  clear_value s1
  repeat' (first
      | with_reducible assumption | intro _ | exact hs _ _ (by assumption) | with_reducible apply blyReject_keeps
      | with_reducible apply charge_keeps | with_reducible apply hbmWrite_keeps | with_reducible apply setSeq_keeps
      | with_reducible apply setStrm_keeps | with_reducible apply foldl_keeps | with_reducible apply foldlFst_keeps
      | with_reducible apply each_keeps | with_reducible apply ite_keeps | dsimp only | split)

theorem warmPromotionEff_keeps {s0 s : State} (n : Nat) (h : Keeps s0 s) : Keeps s0 (warmPromotionEff n s) := by
  unfold warmPromotionEff; try dsimp only
  repeat' (first
      | with_reducible assumption | intro _ | with_reducible apply each_keeps | with_reducible apply modBly_keeps
      | with_reducible apply promoteOne_keeps | with_reducible apply ite_keeps)

theorem setBlyStat_keeps {s0 s : State} (n : Nat) (i : Nat) (v : Bool) (h : Keeps s0 s) : Keeps s0 (setBlyStat s n i v) := by
  unfold setBlyStat; try dsimp only
  repeat' (first | with_reducible assumption | intro _ | with_reducible apply wf_keeps)

theorem clearEff_keeps {s0 s : State} (n : Nat) (h : Keeps s0 s) : Keeps s0 (clearEff n s) := by
  unfold clearEff; try dsimp only
  repeat' (first | with_reducible assumption | intro _ | with_reducible apply setBlyStat_keeps)

theorem blySend_keeps {s0 s t : State} (n c : Nat) (k : MKind) (slice j : Nat) (body : List Byte) (owner : Nat) (h : Keeps s0 s)
    (e : blySend s n c k slice j body owner = some t) : Keeps s0 t := sendMsg_keeps _ _ _ _ _ _ h e

theorem blySendD_keeps {s0 s u : State} (n c : Nat) (k : MKind) (slice j : Nat) (body : List Byte) (owner : Nat) (h : Keeps s0 s)
    (hu : Keeps s0 u) : Keeps s0 ((blySend s n c k slice j body owner).getD u) := by
  cases e : blySend s n c k slice j body owner with
  | none => exact hu
  | some t => exact blySend_keeps _ _ _ _ _ _ _ h e

theorem blyReleases_keeps {s0 s : State} (n : Nat) (h : Keeps s0 s) : Keeps s0 (blyReleases s n) := by
  unfold blyReleases; dsimp only
  repeat' (first
      | with_reducible assumption | intro _ | with_reducible apply blySendD_keeps | with_reducible apply modBly_keeps
      | with_reducible apply foldl_keeps | with_reducible apply foldlFst_keeps | with_reducible apply each_keeps
      | with_reducible apply ite_keeps)

theorem blyDetect_keeps {s0 s : State} (n : Nat) (h : Keeps s0 s) : Keeps s0 (blyDetect s n) := by
  unfold blyDetect; try dsimp only
  repeat' (first
      | with_reducible assumption | intro _ | with_reducible apply modBly_keeps | with_reducible apply setBlyStat_keeps
      | with_reducible apply sumDev_keeps | with_reducible apply setEvt_keeps)

theorem bhbTimeoutEff_keeps {s0 s : State} (n : Nat) (h : Keeps s0 s) : Keeps s0 (bhbTimeoutEff n s) := by
  unfold bhbTimeoutEff; try dsimp only
  repeat' (first | with_reducible assumption | intro _ | with_reducible apply blyDetect_keeps | with_reducible apply ite_keeps)

theorem promoteEff_keeps {s0 s : State} (n : Nat) (h : Keeps s0 s) : Keeps s0 (promoteEff n s) := by
  unfold promoteEff; try dsimp only
  repeat' (first | with_reducible assumption | intro _ | with_reducible apply blyDetect_keeps | with_reducible apply ite_keeps)

theorem blyDiverge_keeps {s0 s : State} (n : Nat) (h : Keeps s0 s) : Keeps s0 (blyDiverge s n) := by
  unfold blyDiverge; try dsimp only
  repeat' (first
      | with_reducible assumption | intro _ | with_reducible apply setBlyStat_keeps | with_reducible apply setEvt_keeps
      | with_reducible apply ite_keeps)

theorem hotPromotionEff_keeps {s0 s : State} (n : Nat) (h : Keeps s0 s) : Keeps s0 (hotPromotionEff n s) := by
  unfold hotPromotionEff; try dsimp only
  repeat' (first
      | with_reducible assumption | intro _ | with_reducible apply blyDiverge_keeps | with_reducible apply setBlyStat_keeps
      | with_reducible apply modIng_keeps | with_reducible apply modBly_keeps | with_reducible apply ite_keeps | dsimp only | split
      | fail_if_no_progress (with_reducible apply Keeps.lit))

theorem forward_keeps {s0 s : State} (p : Nat) (hh : MHead) (body : List Byte) (h : Keeps s0 s) : Keeps s0 (forward s p hh body) := by
  unfold forward; try dsimp only
  repeat' (first
      | with_reducible assumption | intro _ | with_reducible apply add64_keeps | with_reducible apply sendOn_keeps | dsimp only
      | split)

theorem recvBlob_keeps {s0 s : State} (hh : MHead) (b : List Byte) (h : Keeps s0 s) : Keeps s0 (recvBlob s hh b) := by
  unfold recvBlob; try dsimp only
  repeat' (first
      | with_reducible assumption | intro _ | with_reducible apply blyReject_keeps | with_reducible apply bump_keeps
      | with_reducible apply charge_keeps | with_reducible apply hbmWrite_keeps | with_reducible apply chargeRx_keeps
      | with_reducible apply modBly_keeps | with_reducible apply ite_keeps | dsimp only | split)

theorem holdShadows_keeps {s0 s : State} (n : Nat) (h : Keeps s0 s) : Keeps s0 (holdShadows s n) := by
  unfold holdShadows; try dsimp only
  repeat' (first
      | with_reducible assumption | intro _ | with_reducible apply modBly_keeps | with_reducible apply ite_keeps | dsimp only
      | split | fail_if_no_progress (with_reducible apply Keeps.lit))

theorem sendAdv_keeps {s0 s : State} (n i : Nat) (h : Keeps s0 s) : Keeps s0 (sendAdv s n i) := by
  unfold sendAdv; dsimp only
  exact blySendD_keeps _ _ _ _ _ _ _ h h

theorem blobLost_keeps {s0 s : State} (n : Nat) (hh : Nat) (h : Keeps s0 s) : Keeps s0 (blobLost s n hh) := by
  unfold blobLost; try dsimp only
  repeat' (first | with_reducible assumption | intro _ | with_reducible apply modBly_keeps | with_reducible apply bump_keeps)

theorem sendBlob_keeps {s0 s : State} (n i : Nat) (h : Keeps s0 s) : Keeps s0 (sendBlob s n i) := by
  unfold sendBlob; extract_lets s1 s2
  have h2 : Keeps s0 s2 := modBly_keeps _ _ (ite_keeps h (takeSeal_keeps _ _ h))
  clear_value s2
  split
  · exact modBly_keeps _ _ h2
  · split
    · exact modBly_keeps _ _ (sideUe_keeps _ h2)
    · split
      · exact h2
      · rename_i e
        have h3 := sealBlob_keeps _ _ h2 e
        split
        · exact blobLost_keeps _ _ h3
        · rename_i e2
          exact modBly_keeps _ _ (blySend_keeps _ _ _ _ _ _ _ h3 e2)

theorem blyFlip_keeps {s0 s : State} (n : Nat) (l : Lane) (h : Keeps s0 s) : Keeps s0 (blyFlip s n l) := by
  unfold blyFlip; try dsimp only
  repeat' (first
      | with_reducible assumption | intro _ | with_reducible apply sendAdv_keeps | with_reducible apply sendBlob_keeps
      | with_reducible apply ite_keeps)

theorem bhbSendEff_keeps {s0 s : State} (n : Nat) (h : Keeps s0 s) : Keeps s0 (bhbSendEff n s) := by
  unfold bhbSendEff
  split
  · split
    · rename_i e; exact setBlyStat_keeps _ _ _ (blySend_keeps _ _ _ _ _ _ _ h e)
    · exact setBlyStat_keeps _ _ _ h
  · exact h

theorem recvRelease_keeps {s0 s : State} (hh : MHead) (b : List Byte) (h : Keeps s0 s) : Keeps s0 (recvRelease s hh b) := by
  unfold recvRelease; try dsimp only
  repeat' (first
      | with_reducible assumption | intro _ | with_reducible apply blyReject_keeps | with_reducible apply modBly_keeps
      | with_reducible apply chargeRx_keeps | with_reducible apply ite_keeps | dsimp only | split)

theorem recvAdv_keeps {s0 s : State} (hh : MHead) (b : List Byte) (h : Keeps s0 s) : Keeps s0 (recvAdv s hh b) := by
  unfold recvAdv; try dsimp only
  repeat' (first
      | with_reducible assumption | intro _ | with_reducible apply blyReject_keeps | with_reducible apply chargeRx_keeps
      | with_reducible apply modBly_keeps | with_reducible apply ite_keeps | dsimp only | split)

theorem recvBhb_keeps {s0 s : State} (hh : MHead) (b : List Byte) (h : Keeps s0 s) : Keeps s0 (recvBhb s hh b) := by
  unfold recvBhb; try dsimp only
  repeat' (first
      | with_reducible assumption | intro _ | with_reducible apply chargeRx_keeps | with_reducible apply blyReject_keeps
      | with_reducible apply ite_keeps)

theorem recvBelay_keeps {s0 s : State} (p : Nat) (hh : MHead) (body : List Byte) (h : Keeps s0 s) : Keeps s0 (recvBelay s p hh body) := by
  unfold recvBelay; try dsimp only
  repeat' (first
      | with_reducible assumption | intro _ | with_reducible apply forward_keeps | with_reducible apply recvBlob_keeps
      | with_reducible apply recvAdv_keeps | with_reducible apply recvRelease_keeps | with_reducible apply recvBhb_keeps
      | with_reducible apply ite_keeps | dsimp only | split)

theorem blyAtFlip_keeps {s0 s : State} (n : Nat) (h : Keeps s0 s) : Keeps s0 (blyAtFlip s n) := by
  unfold blyAtFlip; try dsimp only
  repeat' (first | with_reducible assumption | intro _ | with_reducible apply blyDiverge_keeps | with_reducible apply holdShadows_keeps)

/-! ## Links -/

theorem attestDoneEff_keeps {s0 s : State} (p : Nat) (r : AttestResult) (h : Keeps s0 s) : Keeps s0 (attestDoneEff p r s) := by
  unfold attestDoneEff; try dsimp only
  repeat' (first
      | with_reducible assumption | intro _ | with_reducible apply lkDown_keeps | with_reducible apply lkAuthFail_keeps
      | with_reducible apply wrN_keeps | with_reducible apply setEvt_keeps | with_reducible apply setLk_keeps
      | with_reducible apply ite_keeps | dsimp only | split)

theorem lkTrain_keeps {s0 s : State} (p : Nat) (h : Keeps s0 s) : Keeps s0 (lkTrain s p) := by
  unfold lkTrain; try dsimp only
  repeat' (first
      | with_reducible assumption | intro _ | with_reducible apply modLport_keeps | with_reducible apply wrN_keeps
      | with_reducible apply setLk_keeps)

theorem linkRetryEff_keeps {s0 s : State} (p : Nat) (h : Keeps s0 s) : Keeps s0 (linkRetryEff p s) := by
  unfold linkRetryEff; try dsimp only
  repeat' (first | with_reducible assumption | intro _ | with_reducible apply lkTrain_keeps | with_reducible apply ite_keeps)

theorem trainingTimeoutEff_keeps {s0 s : State} (p : Nat) (h : Keeps s0 s) : Keeps s0 (trainingTimeoutEff p s) := by
  unfold trainingTimeoutEff; try dsimp only
  repeat' (first | with_reducible assumption | intro _ | with_reducible apply lkDown_keeps | with_reducible apply ite_keeps)

theorem lkCtrlEff_keeps {s0 s : State} (p : Nat) (v : Word) (h : Keeps s0 s) : Keeps s0 (lkCtrlEff p v s) := by
  unfold lkCtrlEff; try dsimp only
  repeat' (first
      | with_reducible assumption | intro _ | with_reducible apply wrN_keeps | with_reducible apply wf_keeps
      | with_reducible apply setLk_keeps | with_reducible apply lkDrop_keeps | with_reducible apply lkTrain_keeps
      | with_reducible apply lkDown_keeps | with_reducible apply ite_keeps)

theorem attestTimeoutEff_keeps {s0 s : State} (p : Nat) (h : Keeps s0 s) : Keeps s0 (attestTimeoutEff p s) := by
  unfold attestTimeoutEff; try dsimp only
  repeat' (first | with_reducible assumption | intro _ | with_reducible apply lkDown_keeps | with_reducible apply ite_keeps)

theorem deliver_keeps {s0 s : State} (p : Nat) (b : List Byte) (h : Keeps s0 s) : Keeps s0 (deliver p s b) := by
  unfold deliver; try dsimp only
  repeat' (first
      | with_reducible assumption | intro _ | with_reducible apply recvSend_keeps | with_reducible apply recvColl_keeps
      | with_reducible apply recvBelay_keeps | dsimp only | split)

theorem sendNak_keeps {s0 s : State} (p : Nat) (h : Keeps s0 s) : Keeps s0 (sendNak s p) := by
  unfold sendNak; try dsimp only
  repeat' (first | with_reducible assumption | intro _ | with_reducible apply modLport_keeps)

theorem takeNak_keeps {s0 s : State} (p : Nat) (ack : Nat) (h : Keeps s0 s) : Keeps s0 (takeNak s p ack) := by
  unfold takeNak; try dsimp only
  repeat' (first
      | with_reducible assumption | intro _ | with_reducible apply lkDown_keeps | with_reducible apply lkBump_keeps
      | with_reducible apply modLport_keeps | with_reducible apply ite_keeps)

theorem flitAct_keeps {s0 s : State} (p : Nat) (f : Flit) (good : Bool) (h : Keeps s0 s) : Keeps s0 (flitAct s p f good) := by
  unfold flitAct; try dsimp only
  repeat' (first
      | with_reducible assumption | intro _ | with_reducible apply modLport_keeps | with_reducible apply each_keeps
      | with_reducible apply deliver_keeps | with_reducible apply lkDown_keeps | with_reducible apply lkAuthFail_keeps
      | with_reducible apply ite_keeps)

theorem rxFlit_keeps {s0 s : State} (p : Nat) (f : Flit) (good : Bool) (h : Keeps s0 s) : Keeps s0 (rxFlit s p f good) := by
  unfold rxFlit; try dsimp only
  repeat' (first
      | with_reducible assumption | intro _ | with_reducible apply sendNak_keeps | with_reducible apply lkBump_keeps
      | with_reducible apply lkDown_keeps | with_reducible apply lkAuthFail_keeps | with_reducible apply modLport_keeps
      | with_reducible apply takeNak_keeps | with_reducible apply flitAct_keeps | with_reducible apply ite_keeps)

theorem flitEff_keeps {s0 s : State} (p : Nat) (f : Flit) (fits : Bool) (good : Bool) (h : Keeps s0 s)
    : Keeps s0 (flitEff p f fits good s) := by
  unfold flitEff; try dsimp only
  repeat' (first | with_reducible assumption | intro _ | with_reducible apply rxFlit_keeps | with_reducible apply ite_keeps)

theorem heartbeatSendEff_keeps {s0 s : State} (p : Nat) (h : Keeps s0 s) : Keeps s0 (heartbeatSendEff p s) := by
  unfold heartbeatSendEff; try dsimp only
  repeat' (first | with_reducible assumption | intro _ | with_reducible apply modLport_keeps | with_reducible apply ite_keeps)

theorem linkRetuneEff_keeps {s0 s : State} (h : Keeps s0 s) : Keeps s0 (linkRetuneEff s) := by
  unfold linkRetuneEff; try dsimp only
  repeat' (first
      | with_reducible assumption | intro _ | with_reducible apply fresh_keeps | with_reducible apply each_keeps
      | with_reducible apply modSirvi_keeps | with_reducible apply modLport_keeps | with_reducible apply ite_keeps | dsimp only)

theorem heartbeatTimeoutEff_keeps {s0 s : State} (p : Nat) (h : Keeps s0 s) : Keeps s0 (heartbeatTimeoutEff p s) := by
  unfold heartbeatTimeoutEff; try dsimp only
  repeat' (first | with_reducible assumption | intro _ | with_reducible apply lkDown_keeps | with_reducible apply ite_keeps)

theorem trainingDoneEff_keeps {s0 s : State} (p : Nat) (h : Keeps s0 s) : Keeps s0 (trainingDoneEff p s) := by
  unfold trainingDoneEff; try dsimp only
  repeat' (first
      | with_reducible assumption | intro _ | with_reducible apply wf_keeps | with_reducible apply setLk_keeps
      | with_reducible apply ite_keeps)

/-! ## Zeroise -/

theorem dropSess_keeps {s0 s : State} (e : Nat) (h : Keeps s0 s) : Keeps s0 (dropSess s e) := by
  unfold dropSess; try dsimp only
  repeat' (first | with_reducible assumption | intro _ | with_reducible apply each_keeps | with_reducible apply setSess_keeps)

theorem dropRegs_keeps {s0 s : State} (f : Nat → Bool) (h : Keeps s0 s) : Keeps s0 (dropRegs s f) := by
  unfold dropRegs; try dsimp only
  repeat' (first | with_reducible assumption | intro _ | dsimp only | fail_if_no_progress (with_reducible apply Keeps.lit))

theorem vfClear_keeps {s0 s : State} (k : Nat) (h : Keeps s0 s) : Keeps s0 (vfClear s k) := by
  unfold vfClear; try dsimp only
  repeat' (first | with_reducible assumption | intro _ | dsimp only | fail_if_no_progress (with_reducible apply Keeps.lit))

theorem unprocessStrms_keeps {s0 s : State} (n : Nat) (h : Keeps s0 s) : Keeps s0 (unprocessStrms s n) := by
  unfold unprocessStrms; try dsimp only
  repeat' (first | with_reducible assumption | intro _ | with_reducible apply each_keeps | with_reducible apply modStrm_keeps)

theorem zeroClusters_keeps {s0 s : State} (ms : List Nat) (h : Keeps s0 s) : Keeps s0 (zeroClusters s ms) := by
  refine Keeps.ofMem s rfl rfl (fun m => ?_) h
  rw [memOk_iff] at m ⊢
  exact ⟨m.1, m.2.1, smWf_filter _ _ m.2.2⟩

theorem zeroiseAll_keeps {s0 s : State} (n : Nat) (h : Keeps s0 s) : Keeps s0 (zeroiseAll s n) := by
  unfold zeroiseAll; try dsimp only
  repeat' (first
      | with_reducible assumption | intro _ | with_reducible apply wf_keeps | with_reducible apply zeroPorts_keeps
      | with_reducible apply expZeroise_keeps | with_reducible apply unprocessStrms_keeps | with_reducible apply modPart_keeps
      | with_reducible apply dropRegs_keeps | with_reducible apply zeroClusters_keeps | with_reducible apply modIng_keeps
      | with_reducible apply modBly_keeps | with_reducible apply wrN_keeps | dsimp only
      | fail_if_no_progress (with_reducible apply Keeps.lit))

theorem zeroiseEnd_keeps {s0 s : State} (n : Nat) (h : Keeps s0 s) : Keeps s0 (zeroiseEnd s n) := by
  unfold zeroiseEnd; try dsimp only
  repeat' (first
      | with_reducible assumption | intro _ | with_reducible apply setEvt_keeps | with_reducible apply setSt_keeps
      | with_reducible apply modPart_keeps | with_reducible apply zeroiseAll_keeps | with_reducible apply ite_keeps)

theorem zeroiseDoneEff_keeps {s0 s : State} (n : Nat) (h : Keeps s0 s) : Keeps s0 (zeroiseDoneEff n s) := by
  unfold zeroiseDoneEff; try dsimp only
  repeat' (first | with_reducible assumption | intro _ | with_reducible apply zeroiseEnd_keeps | with_reducible apply ite_keeps)

theorem vfFlrEff_keeps {s0 s : State} (k : Nat) (h : Keeps s0 s) : Keeps s0 (vfFlrEff k s) := by
  unfold vfFlrEff; try dsimp only
  repeat' (first
      | with_reducible assumption | intro _ | with_reducible apply ideEnd_keeps | with_reducible apply pfTdiErr_keeps
      | with_reducible apply bump_keeps | with_reducible apply vfClear_keeps | with_reducible apply dropSess_keeps
      | with_reducible apply setEvt_keeps | with_reducible apply modPart_keeps | with_reducible apply teardownPart_keeps
      | with_reducible apply ite_keeps)

end Sys2Proof.Machine
end

