-- ==== Sys2Proof/Laws/KeepsSirvi.lean ====
section
/-!
SUPPORT. Sirvi: mailbox, boot and resets, sensors, background work, host: what each operation keeps (Laws/Keeps).
-/
namespace Sys2Proof.Machine

set_option Elab.async false

/-! ## Mailbox -/

theorem mbHold_keeps {s0 s : State} (i : Instr) (bmc : Bool) (h : Keeps s0 s) : Keeps s0 (mbHold i bmc s) := by
  unfold mbHold; try dsimp only
  repeat' (first
      | with_reducible assumption | intro _ | with_reducible apply modSirvi_keeps | with_reducible apply setEvt_keeps
      | with_reducible apply ite_keeps | dsimp only)

theorem putBuf_keeps {s0 s : State} (bs : List Byte) (h : Keeps s0 s) : Keeps s0 (putBuf s bs) := by
  unfold putBuf; try dsimp only
  repeat' (first | with_reducible assumption | intro _ | with_reducible apply wrN_keeps | with_reducible apply foldl_keeps)

theorem mbReply_keeps {s0 s : State} (bmc : Bool) (code : Nat) (status : Nat) (content : List Byte) (h : Keeps s0 s)
    : Keeps s0 (mbReply s bmc code status content) := by
  unfold mbReply; try dsimp only
  repeat' (first
      | with_reducible assumption | intro _ | with_reducible apply modSirvi_keeps | with_reducible apply wrN_keeps
      | with_reducible apply putBuf_keeps | with_reducible apply setEvt_keeps | with_reducible apply foldl_keeps
      | with_reducible apply foldlFst_keeps | with_reducible apply ite_keeps | dsimp only)

theorem mbDo_keeps {s0 s : State} (i : Instr) (bmc : Bool) (code : Nat) (f : State → Nat × State × List Byte)
    (h_f : ∀ x0, Keeps s0 x0 → Keeps s0 (f x0).2.1) (h : Keeps s0 s) : Keeps s0 (mbDo i bmc code f s) := by
  unfold mbDo; try dsimp only
  repeat' (first
      | with_reducible assumption | intro _ | with_reducible apply h_f | with_reducible apply mbHold_keeps
      | with_reducible apply mbReply_keeps | with_reducible apply ite_keeps)

theorem imgPutEff_keeps {s0 s : State} (bmc : Bool) (name : List Byte) (obj : Option (List Byte)) (h : Keeps s0 s)
    : Keeps s0 (imgPutEff bmc name obj s) := by
  unfold imgPutEff; try dsimp only
  repeat' (first
      | with_reducible assumption | intro _ | with_reducible apply mbDo_keeps | with_reducible apply modSirvi_keeps
      | with_reducible apply foldl_keeps | with_reducible apply foldlFst_keeps | with_reducible apply ite_keeps | dsimp only
      | split)

theorem summitInfoEff_keeps {s0 s : State} (bmc : Bool) (h : Keeps s0 s) : Keeps s0 (summitInfoEff bmc s) := by
  unfold summitInfoEff; try dsimp only
  repeat' (first | with_reducible assumption | intro _ | with_reducible apply mbDo_keeps)

theorem mbAct_keeps {s0 s : State} (i : Instr) (bmc : Bool) (code : Nat) (chk : State → List (Bool × Nat)) (f : State → State)
    (h_f : ∀ x0, Keeps s0 x0 → Keeps s0 (f x0)) (h : Keeps s0 s) : Keeps s0 (mbAct i bmc code chk f s) := by
  unfold mbAct; try dsimp only
  repeat' (first | with_reducible assumption | intro _ | with_reducible apply h_f | with_reducible apply mbDo_keeps | dsimp only | split)

theorem fuseFold (f : Nat → Nat) (l : List Nat) (m : SMap Nat) (i : Nat) :
    smGet 0 m i ≤ smGet 0 (l.foldl (fun m i => smSet 0 m i (max (smGet 0 m i) (f i))) m) i := by
  induction l generalizing m with
  | nil => exact Nat.le_refl _
  | cons a l ih =>
    refine Nat.le_trans ?_ (ih _)
    rw [smGet_smSet]
    split
    · rename_i e; subst e; exact Nat.le_max_left _ _
    · exact Nat.le_refl _

theorem fuseUp_keeps {s0 s : State} (f : Nat → Nat) (l : List Nat) (h : Keeps s0 s) :
    Keeps s0 (modSirvi s fun v => { v with fuses := l.foldl (fun m i => smSet 0 m i (max (smGet 0 m i) (f i))) v.fuses }) :=
  h.trans ⟨⟨rfl, id, fun i => fuseFold f l _ i, id⟩, id, Nat.le_refl _⟩

theorem fwCommitEff_keeps {s0 s : State} (bmc : Bool) (h : Keeps s0 s) : Keeps s0 (fwCommitEff bmc s) := by
  unfold fwCommitEff
  exact mbAct_keeps _ _ _ _ _ (fun x hx => fuseUp_keeps _ _ (sumCmd_keeps _ _ _ _ _ _ hx)) h

theorem dropWk_keeps {s0 s : State} (p : Nat) (h : Keeps s0 s) : Keeps s0 (dropWk s p) := by
  unfold dropWk; try dsimp only
  repeat' (first | with_reducible assumption | intro _ | with_reducible apply setKeySlot_keeps | dsimp only | split)

theorem noHbm_keeps {s0 t : State} (s : State) (a : t.pending = s.pending) (e : t.sirvi = s.sirvi) (b : t.hbm = [])
    (c : t.hostMem = s.hostMem) (d : t.ccmem = s.ccmem) (h : Keeps s0 s) : Keeps s0 t :=
  Keeps.ofMem s a e (fun m => by rw [memOk_iff] at m ⊢; rw [b, c, d]; exact ⟨rfl, m.2⟩) h

theorem changeMap_keeps {s0 s : State} (h : Keeps s0 s) : Keeps s0 (changeMap s) :=
  each_keeps (fun _ _ hx => dropWk_keeps _ (wrN_keeps _ _ hx)) (noHbm_keeps s rfl rfl rfl rfl rfl h)

theorem putMap_keeps {s0 s : State} (map : Nat) (g : List (BitVec 16)) (h : Keeps s0 s) : Keeps s0 (putMap s map g) := by
  unfold putMap; try dsimp only
  repeat' (first
      | with_reducible assumption | intro _ | with_reducible apply changeMap_keeps | with_reducible apply wrN_keeps
      | with_reducible apply foldl_keeps | with_reducible apply foldlFst_keeps | with_reducible apply ite_keeps)

theorem modSens_keeps {s0 s : State} (f : Sens → Sens) (h : Keeps s0 s) : Keeps s0 (modSens s f) := by
  unfold modSens; try dsimp only
  repeat' (first | with_reducible assumption | intro _ | with_reducible apply modSirvi_keeps | dsimp only)

theorem clearAcc_keeps {s0 s : State} (p : Nat) (h : Keeps s0 s) : Keeps s0 (clearAcc s p) := by
  unfold clearAcc; try dsimp only
  repeat' (first
      | with_reducible assumption | intro _ | with_reducible apply dropRegs_keeps | dsimp only
      | fail_if_no_progress (with_reducible apply Keeps.lit))

theorem ksBindEff_keeps {s0 s : State} (bmc : Bool) (slot : Nat) (party : Nat) (hh : List Byte) (h : Keeps s0 s)
    : Keeps s0 (ksBindEff bmc slot party hh s) := by
  unfold ksBindEff; try dsimp only
  repeat' (first
      | with_reducible assumption | intro _ | with_reducible apply mbAct_keeps | with_reducible apply setKeySlot_keeps
      | with_reducible apply clearAcc_keeps | with_reducible apply sumCmd_keeps)

theorem hbmMapEff_keeps {s0 s : State} (bmc : Bool) (map : Nat) (g : List (BitVec 16)) (h : Keeps s0 s)
    : Keeps s0 (hbmMapEff bmc map g s) := by
  unfold hbmMapEff; try dsimp only
  repeat' (first
      | with_reducible assumption | intro _ | with_reducible apply mbAct_keeps | with_reducible apply putMap_keeps
      | with_reducible apply sumCmd_keeps)

theorem pwrLimitEff_keeps {s0 s : State} (bmc : Bool) (w : Nat) (h : Keeps s0 s) : Keeps s0 (pwrLimitEff bmc w s) := by
  unfold pwrLimitEff; try dsimp only
  repeat' (first | with_reducible assumption | intro _ | with_reducible apply mbAct_keeps | with_reducible apply modSens_keeps)

theorem ksUnbindEff_keeps {s0 s : State} (bmc : Bool) (slot : Nat) (h : Keeps s0 s) : Keeps s0 (ksUnbindEff bmc slot s) := by
  unfold ksUnbindEff; try dsimp only
  repeat' (first
      | with_reducible assumption | intro _ | with_reducible apply mbAct_keeps | with_reducible apply setKeySlot_keeps
      | with_reducible apply sumCmd_keeps)

theorem imgDelEff_keeps {s0 s : State} (bmc : Bool) (name : List Byte) (h : Keeps s0 s) : Keeps s0 (imgDelEff bmc name s) := by
  unfold imgDelEff; try dsimp only
  repeat' (first | with_reducible assumption | intro _ | with_reducible apply mbAct_keeps | with_reducible apply modSirvi_keeps | dsimp only)

theorem mbUnknown_keeps {s0 s : State} (code : Nat) (h : Keeps s0 s) : Keeps s0 (mbUnknown code s) := by
  unfold mbUnknown; try dsimp only
  repeat' (first | with_reducible assumption | intro _ | with_reducible apply mbDo_keeps)

theorem infoEff_keeps {s0 s : State} (bmc : Bool) (h : Keeps s0 s) : Keeps s0 (infoEff bmc s) := by
  unfold infoEff; try dsimp only
  repeat' (first | with_reducible assumption | intro _ | with_reducible apply mbDo_keeps)

theorem summitReadEff_keeps {s0 s : State} (bmc : Bool) (first : Nat) (h : Keeps s0 s) : Keeps s0 (summitReadEff bmc first s) := by
  unfold summitReadEff; try dsimp only
  repeat' (first | with_reducible assumption | intro _ | with_reducible apply mbDo_keeps)

theorem sensorLimitEff_keeps {s0 s : State} (bmc : Bool) (sensor : Nat) (kind : Nat) (v : Int) (h : Keeps s0 s)
    : Keeps s0 (sensorLimitEff bmc sensor kind v s) := by
  unfold sensorLimitEff; try dsimp only
  repeat' (first | with_reducible assumption | intro _ | with_reducible apply mbAct_keeps | with_reducible apply modSens_keeps)

theorem imgGetEff_keeps {s0 s : State} (bmc : Bool) (p : Nat) (name : List Byte) (a : Nat) (h : Keeps s0 s)
    : Keeps s0 (imgGetEff bmc p name a s) := by
  unfold imgGetEff; try dsimp only
  repeat' (first
      | with_reducible assumption | intro _ | with_reducible apply mbDo_keeps | with_reducible apply hbmWrite_keeps
      | with_reducible apply ite_keeps | dsimp only | split)

theorem fwActivateEff_keeps {s0 s : State} (bmc : Bool) (b : Bool) (h : Keeps s0 s) : Keeps s0 (fwActivateEff bmc b s) := by
  unfold fwActivateEff; try dsimp only
  repeat' (first
      | with_reducible assumption | intro _ | with_reducible apply mbAct_keeps | with_reducible apply modSirvi_keeps
      | with_reducible apply sumCmd_keeps | dsimp only)

theorem debugConsentEff_keeps {s0 s : State} (bmc : Bool) (g : List Byte) (h : Keeps s0 s) : Keeps s0 (debugConsentEff bmc g s) := by
  unfold debugConsentEff; try dsimp only
  repeat' (first
      | with_reducible assumption | intro _ | with_reducible apply mbHold_keeps | with_reducible apply mbReply_keeps
      | with_reducible apply sumCmd_keeps | with_reducible apply each_keeps | with_reducible apply teardownPart_keeps
      | with_reducible apply modSirvi_keeps | with_reducible apply ite_keeps | dsimp only)

theorem eraseAll_keeps {s0 s : State} (h : Keeps s0 s) : Keeps s0 (eraseAll s) := by
  unfold eraseAll; try dsimp only
  repeat' (first | with_reducible assumption | intro _ | with_reducible apply each_keeps | with_reducible apply eraseSlot_keeps)

theorem spanSetEff_keeps {s0 s : State} (bmc : Bool) (coord : Word) (dims : Word) (h : Keeps s0 s)
    : Keeps s0 (spanSetEff bmc coord dims s) := by
  unfold spanSetEff; try dsimp only
  repeat' (first
      | with_reducible assumption | intro _ | with_reducible apply mbAct_keeps | with_reducible apply wrN_keeps
      | with_reducible apply sumCmd_keeps)

theorem debugNonceEff_keeps {s0 s : State} (bmc : Bool) (h : Keeps s0 s) : Keeps s0 (debugNonceEff bmc s) := by
  unfold debugNonceEff; try dsimp only
  repeat' (first | with_reducible assumption | intro _ | with_reducible apply mbDo_keeps | with_reducible apply modSirvi_keeps | dsimp only)

theorem setFw_keeps {s0 s : State} (b : Bool) (x : FwSlot) (h : Keeps s0 s) : Keeps s0 (setFw s b x) := by
  unfold setFw; try dsimp only
  repeat' (first
      | with_reducible assumption | intro _ | with_reducible apply modSirvi_keeps | with_reducible apply ite_keeps | dsimp only
      | split)

theorem putRegions_keeps {s0 s : State} (p : Nat) (l : List (Nat × Nat)) (h : Keeps s0 s) : Keeps s0 (putRegions s p l) := by
  unfold putRegions; try dsimp only
  repeat' (first | with_reducible assumption | intro _ | with_reducible apply wrN_keeps | with_reducible apply foldl_keeps)

theorem putWin_keeps {s0 s : State} (w : Nat) (a : Nat) (n : Nat) (ctrl : Nat) (h : Keeps s0 s) : Keeps s0 (putWin s w a n ctrl) := by
  unfold putWin; try dsimp only
  repeat' (first | with_reducible assumption | intro _ | with_reducible apply wrN_keeps | with_reducible apply wr64_keeps)

theorem winEntry_keeps {s0 s : State} (bmc : Bool) (typ : Nat) (p : Nat) (slot : Nat) (a : Nat) (n : Nat) (h : Keeps s0 s)
    : Keeps s0 (winEntry s bmc typ p slot a n) := by
  unfold winEntry; try dsimp only
  repeat' (first | with_reducible assumption | intro _ | with_reducible apply sumCmd_keeps)

theorem winCreateEff_keeps {s0 s : State} (bmc : Bool) (p : Nat) (a : Nat) (n : Nat) (slot : Nat) (h : Keeps s0 s)
    : Keeps s0 (winCreateEff bmc p a n slot s) := by
  unfold winCreateEff; try dsimp only
  repeat' (first
      | with_reducible assumption | intro _ | with_reducible apply mbAct_keeps | with_reducible apply putRegions_keeps
      | with_reducible apply putWin_keeps | with_reducible apply winEntry_keeps | with_reducible apply modSirvi_keeps
      | with_reducible apply setKeySlot_keeps | dsimp only)

theorem bgCfgEff_keeps {s0 s : State} (bmc : Bool) (thr : Nat) (hp : Nat) (h : Keeps s0 s) : Keeps s0 (bgCfgEff bmc thr hp s) := by
  unfold bgCfgEff; try dsimp only
  repeat' (first | with_reducible assumption | intro _ | with_reducible apply mbAct_keeps | with_reducible apply wrN_keeps)

theorem winRemoveEff_keeps {s0 s : State} (bmc : Bool) (p : Nat) (h : Keeps s0 s) : Keeps s0 (winRemoveEff bmc p s) := by
  unfold winRemoveEff; try dsimp only
  repeat' (first
      | with_reducible assumption | intro _ | with_reducible apply mbAct_keeps | with_reducible apply dropWk_keeps
      | with_reducible apply dropWindow_keeps | with_reducible apply winEntry_keeps)

theorem regionSetEff_keeps {s0 s : State} (bmc : Bool) (p : Nat) (l : List (Nat × Nat)) (h : Keeps s0 s)
    : Keeps s0 (regionSetEff bmc p l s) := by
  unfold regionSetEff; try dsimp only
  repeat' (first | with_reducible assumption | intro _ | with_reducible apply mbAct_keeps | with_reducible apply putRegions_keeps)

theorem allIdeEnd_keeps {s0 s : State} (h : Keeps s0 s) : Keeps s0 (allIdeEnd s) := by
  unfold allIdeEnd; try dsimp only
  repeat' (first | with_reducible assumption | intro _ | with_reducible apply each_keeps | with_reducible apply ideEnd_keeps)

theorem clearHbm_keeps {s0 s : State} (h : Keeps s0 s) : Keeps s0 (clearHbm s) := noHbm_keeps s rfl rfl rfl rfl rfl h

theorem setDebug_keeps {s0 s : State} (scope : Nat) (h : Keeps s0 s) :
    Keeps s0 (modSirvi s fun v => { v with dbg := some scope, dbgReq := none, devKey := none }) :=
  h.trans ⟨⟨rfl, id, fun _ => Nat.le_refl _, id⟩, fun _ => rfl, Nat.le_refl _⟩

theorem debugEnteredEff_keeps {s0 s : State} (h : Keeps s0 s) : Keeps s0 (debugEnteredEff s) := by
  unfold debugEnteredEff; dsimp only
  repeat' (first
      | with_reducible assumption | intro _ | with_reducible apply mbReply_keeps | with_reducible apply setDebug_keeps
      | with_reducible apply sumCmd_keeps | with_reducible apply clearHbm_keeps | with_reducible apply eraseAll_keeps
      | with_reducible apply allIdeEnd_keeps | with_reducible apply tdiError_keeps | with_reducible apply foldl_keeps
      | with_reducible apply foldlFst_keeps | with_reducible apply each_keeps | with_reducible apply ite_keeps | dsimp only | split
      | fail_if_no_progress (with_reducible apply Keeps.lit))

theorem imgListEff_keeps {s0 s : State} (bmc : Bool) (h : Keeps s0 s) : Keeps s0 (imgListEff bmc s) := by
  unfold imgListEff; try dsimp only
  repeat' (first | with_reducible assumption | intro _ | with_reducible apply mbDo_keeps)

theorem winResizeEff_keeps {s0 s : State} (bmc : Bool) (p : Nat) (a : Nat) (n : Nat) (h : Keeps s0 s)
    : Keeps s0 (winResizeEff bmc p a n s) := by
  unfold winResizeEff; try dsimp only
  repeat' (first
      | with_reducible assumption | intro _ | with_reducible apply mbAct_keeps | with_reducible apply winEntry_keeps
      | with_reducible apply hbmClear_keeps | with_reducible apply putWin_keeps)

theorem fwStageEff_keeps {s0 s : State} (bmc : Bool) (image : Option (List Byte)) (h : Keeps s0 s)
    : Keeps s0 (fwStageEff bmc image s) := by
  unfold fwStageEff; try dsimp only
  repeat' (first
      | with_reducible assumption | intro _ | with_reducible apply mbDo_keeps | with_reducible apply setFw_keeps
      | with_reducible apply sumCmd_keeps | with_reducible apply ite_keeps | dsimp only | split)

/-! ## Boot -/

theorem zeroiseEvery_keeps {s0 s : State} (h : Keeps s0 s) : Keeps s0 (zeroiseEvery s) := by
  unfold zeroiseEvery; try dsimp only
  repeat' (first
      | with_reducible assumption | intro _ | with_reducible apply each_keeps | with_reducible apply zeroiseEnd_keeps
      | with_reducible apply beginZeroise_keeps)

theorem warmReset_keeps {s0 s : State} (c : WarmCause) (h : Keeps s0 s) : Keeps s0 (warmReset s c) := by
  have hz := zeroiseEvery_keeps (sumDev_keeps 0x0004 0 0 (resetPayload 2 (warmCode c) 0) h)
  unfold warmReset; dsimp only
  refine wrN_keeps _ _ (hz.trans ⟨⟨rfl, fun m => ?_, fun _ => Nat.le_refl _, id⟩, id, Nat.le_refl _⟩)
  rw [memOk_iff] at m ⊢
  exact ⟨m.1, m.2.1, rfl⟩

theorem warmAt_keeps {s0 s : State} (c : WarmCause) (h : Keeps s0 s) : Keeps s0 (warmAt s c) := by
  unfold warmAt; try dsimp only
  repeat' (first
      | with_reducible assumption | intro _ | with_reducible apply modSirvi_keeps | with_reducible apply warmReset_keeps
      | with_reducible apply ite_keeps | dsimp only | split)

theorem makeDevArea_keeps {s0 s : State} (h : Keeps s0 s) : Keeps s0 (makeDevArea s) := by
  unfold makeDevArea; try dsimp only
  repeat' (first
      | with_reducible assumption | intro _ | with_reducible apply putWin_keeps | with_reducible apply modSirvi_keeps
      | with_reducible apply ite_keeps | dsimp only)

theorem deviceReadyEff_keeps {s0 s : State} (h : Keeps s0 s) : Keeps s0 (deviceReadyEff s) := by
  unfold deviceReadyEff; try dsimp only
  repeat' (first
      | with_reducible assumption | intro _ | with_reducible apply warmReset_keeps | with_reducible apply makeDevArea_keeps
      | with_reducible apply setEvt_keeps | with_reducible apply modSirvi_keeps | with_reducible apply ite_keeps | dsimp only
      | split)

theorem bare_keeps {s0 s : State} (v : Sirvi) (d : v.dbg = s.sirvi.dbg) (e : v.fuses = s.sirvi.fuses)
    (b : v.summit.buf = s.sirvi.summit.buf) (q : v.summit.next = s.sirvi.summit.next) (h : Keeps s0 s) : Keeps s0 (bare s v) :=
  h.trans ⟨⟨rfl, fun m => by rw [memOk_iff] at m ⊢; exact ⟨rfl, m.2.1, rfl⟩, fun i => by simp [bare, e], fun x => by
    simpa [sramOk, bare, b] using x⟩, fun x => by simpa [bare, d] using x, by simp [bare, q]⟩

theorem powerOff_cold (s : State) (b : Boot) : KeepsCold s (powerOff s b) := by
  refine ⟨rfl, fun m => ?_, fun i => Nat.le_refl _, fun x => ?_⟩
  · rw [memOk_iff] at m ⊢; exact ⟨rfl, m.2.1, rfl⟩
  · simp only [powerOff, bare, loseBuf, sramOk, decide_eq_true_eq] at x ⊢
    split
    · exact x
    · exact Nat.zero_le _

theorem romBoot_keeps {s0 s : State} (h : Keeps s0 s) : Keeps s0 (romBoot s) := by
  unfold romBoot; try dsimp only
  repeat' (first
      | with_reducible assumption | intro _ | with_reducible apply modSirvi_keeps | with_reducible apply sumDev_keeps
      | with_reducible apply ite_keeps | dsimp only)

theorem sirviReset_keeps {s0 s : State} (origin : Nat) (cause : Nat) (mon : Nat) (h : Keeps s0 s)
    : Keeps s0 (sirviReset s origin cause mon) := by
  unfold sirviReset; try dsimp only
  repeat' (first
      | with_reducible assumption | intro _ | with_reducible apply sumFlush_keeps | with_reducible apply sumCmd_keeps
      | with_reducible apply bare_keeps | with_reducible apply wrN_keeps | with_reducible apply romBoot_keeps
      | with_reducible apply ite_keeps | dsimp only | split | fail_if_no_progress (with_reducible apply Keeps.lit) | rfl)

theorem sirviResetAt_keeps {s0 s : State} (cause : Nat) (mon : Nat) (h : Keeps s0 s) : Keeps s0 (sirviResetAt s cause mon) := by
  unfold sirviResetAt; try dsimp only
  repeat' (first
      | with_reducible assumption | intro _ | with_reducible apply modSirvi_keeps | with_reducible apply sirviReset_keeps
      | with_reducible apply ite_keeps | dsimp only)

theorem pwrgoodAssertEff_keeps {s0 s : State} (smbus : Bool) (maddr : Nat) (h : Keeps s0 s)
    : Keeps s0 (pwrgoodAssertEff smbus maddr s) := by
  unfold pwrgoodAssertEff; try dsimp only
  repeat' (first
      | with_reducible assumption | intro _ | with_reducible apply romBoot_keeps | with_reducible apply modSirvi_keeps
      | with_reducible apply ite_keeps | dsimp only)

theorem pldmEventEnableEff_keeps {s0 s : State} (h : Keeps s0 s) : Keeps s0 (pldmEventEnableEff s) := by
  unfold pldmEventEnableEff; try dsimp only
  repeat' (first | with_reducible assumption | intro _ | with_reducible apply modSirvi_keeps | with_reducible apply ite_keeps | dsimp only)

theorem devResetEff_keeps {s0 s : State} (bmc : Bool) (h : Keeps s0 s) : Keeps s0 (devResetEff bmc s) := by
  unfold devResetEff; try dsimp only
  repeat' (first
      | with_reducible assumption | intro _ | with_reducible apply mbHold_keeps | with_reducible apply mbReply_keeps
      | with_reducible apply sirviReset_keeps | with_reducible apply ite_keeps)

theorem mbRun_keeps {s0 s : State} (i : Instr) (h : Keeps s0 s) : Keeps s0 (mbRun s i) := by
  unfold mbRun; try dsimp only
  repeat' (first
      | with_reducible assumption | intro _ | with_reducible apply infoEff_keeps | with_reducible apply devResetEff_keeps
      | with_reducible apply ksBindEff_keeps | with_reducible apply ksUnbindEff_keeps | with_reducible apply winCreateEff_keeps
      | with_reducible apply winResizeEff_keeps | with_reducible apply winRemoveEff_keeps | with_reducible apply regionSetEff_keeps
      | with_reducible apply hbmMapEff_keeps | with_reducible apply spanSetEff_keeps | with_reducible apply sensorLimitEff_keeps
      | with_reducible apply pwrLimitEff_keeps | with_reducible apply bgCfgEff_keeps | with_reducible apply fwStageEff_keeps
      | with_reducible apply fwActivateEff_keeps | with_reducible apply fwCommitEff_keeps
      | with_reducible apply summitInfoEff_keeps | with_reducible apply summitReadEff_keeps | with_reducible apply imgPutEff_keeps
      | with_reducible apply imgGetEff_keeps | with_reducible apply imgDelEff_keeps | with_reducible apply imgListEff_keeps
      | with_reducible apply debugNonceEff_keeps | with_reducible apply debugConsentEff_keeps | dsimp only | split)

theorem mbDrain_keeps {s0 s : State} (h : Keeps s0 s) : Keeps s0 (mbDrain s) := by
  unfold mbDrain; try dsimp only
  repeat' (first
      | with_reducible assumption | intro _ | with_reducible apply each_keeps | with_reducible apply modSirvi_keeps
      | with_reducible apply mbRun_keeps | dsimp only)

theorem debugThenReset_keeps {s0 s : State} (h : Keeps s0 s) : Keeps s0 (debugThenReset s) := by
  unfold debugThenReset; try dsimp only
  repeat' (first
      | with_reducible assumption | intro _ | with_reducible apply debugEnteredEff_keeps | with_reducible apply sirviReset_keeps
      | with_reducible apply mbDrain_keeps | with_reducible apply warmReset_keeps | with_reducible apply ite_keeps | dsimp only
      | split)

theorem fwWatchdogEff_keeps {s0 s : State} (h : Keeps s0 s) : Keeps s0 (fwWatchdogEff s) := by
  unfold fwWatchdogEff; try dsimp only
  repeat' (first
      | with_reducible assumption | intro _ | with_reducible apply modSirvi_keeps | with_reducible apply sumDev_keeps
      | with_reducible apply ite_keeps | dsimp only | split)

theorem pldmEvent_keeps {s0 s : State} (kind : Nat) (sensor : Nat) (h : Keeps s0 s) : Keeps s0 (pldmEvent s kind sensor) := by
  unfold pldmEvent; try dsimp only
  repeat' (first | with_reducible assumption | intro _ | with_reducible apply modSirvi_keeps | with_reducible apply ite_keeps | dsimp only)

theorem thermtripEff_keeps {s0 s : State} (h : Keeps s0 s) : Keeps s0 (thermtripEff s) := by
  unfold thermtripEff; try dsimp only
  repeat' (first
      | with_reducible assumption | intro _ | with_reducible apply fresh_keeps | with_reducible apply pldmEvent_keeps
      | with_reducible apply sumDev_keeps | with_reducible apply bare_keeps | with_reducible apply ite_keeps | dsimp only | split
      | fail_if_no_progress (with_reducible apply Keeps.lit))

theorem refclkLinkLossEff_keeps {s0 s : State} (h : Keeps s0 s) : Keeps s0 (refclkLinkLossEff s) := by
  unfold refclkLinkLossEff; try dsimp only
  repeat' (first | with_reducible assumption | intro _ | with_reducible apply sirviResetAt_keeps | dsimp only | split)

theorem refclkPcieLossEff_keeps {s0 s : State} (h : Keeps s0 s) : Keeps s0 (refclkPcieLossEff s) := by
  unfold refclkPcieLossEff; try dsimp only
  repeat' (first | with_reducible assumption | intro _ | with_reducible apply warmAt_keeps | with_reducible apply ite_keeps)

theorem perstNDeassertEff_keeps {s0 s : State} (h : Keeps s0 s) : Keeps s0 (perstNDeassertEff s) := by
  unfold perstNDeassertEff; try dsimp only
  repeat' (first | with_reducible assumption | intro _ | with_reducible apply modSirvi_keeps | with_reducible apply ite_keeps | dsimp only)

theorem p54vUndervoltageEff_cold (s : State) : KeepsCold s (p54vUndervoltageEff s) := by
  unfold p54vUndervoltageEff
  split
  · exact (Keeps.rfl' s).toKeepsCold
  · exact powerOff_cold s _

theorem sirviReadyEff_keeps {s0 s : State} (h : Keeps s0 s) : Keeps s0 (sirviReadyEff s) := by
  unfold sirviReadyEff; dsimp only
  refine ite_keeps (modSirvi_keeps rfl rfl rfl rfl (sumDev_keeps _ _ _ _ (ite_keeps ?_ h))) h
  exact modSummit_keeps (fun x => x) (Nat.le_refl _) (sumDev_keeps _ _ _ _ h)

theorem voltFault_keeps {s0 s : State} (sensor : Nat) (h : Keeps s0 s) : Keeps s0 (voltFault s sensor) := by
  unfold voltFault; try dsimp only
  repeat' (first
      | with_reducible assumption | intro _ | with_reducible apply sirviResetAt_keeps | with_reducible apply pldmEvent_keeps
      | with_reducible apply setEvt_keeps)

theorem railTimeoutEff_keeps {s0 s : State} (r : Rail) (h : Keeps s0 s) : Keeps s0 (railTimeoutEff r s) := by
  unfold railTimeoutEff; try dsimp only
  repeat' (first | with_reducible assumption | intro _ | with_reducible apply voltFault_keeps | with_reducible apply ite_keeps)

theorem pldmEventAcknowledgeEff_keeps {s0 s : State} (h : Keeps s0 s) : Keeps s0 (pldmEventAcknowledgeEff s) := by
  unfold pldmEventAcknowledgeEff; try dsimp only
  repeat' (first | with_reducible assumption | intro _ | with_reducible apply modSirvi_keeps | dsimp only)

theorem pwrgoodDeassertEff_cold (s : State) : KeepsCold s (pwrgoodDeassertEff s) := by
  unfold pwrgoodDeassertEff
  split
  · exact (Keeps.rfl' s).toKeepsCold
  · exact powerOff_cold s _

theorem warmResetEff_keeps {s0 s : State} (c : WarmCause) (h : Keeps s0 s) : Keeps s0 (warmResetEff c s) := by
  unfold warmResetEff; try dsimp only
  repeat' (first
      | with_reducible assumption | intro _ | with_reducible apply warmAt_keeps | with_reducible apply modSirvi_keeps
      | with_reducible apply ite_keeps | dsimp only | split)

/-! ## Sensors -/

theorem opCause_keeps {s0 s : State} (thermal : Bool) (h : Keeps s0 s) : Keeps s0 (opCause s thermal) := by
  unfold opCause; try dsimp only
  repeat' (first | with_reducible assumption | intro _ | with_reducible apply wrN_keeps)

theorem powerLimitStepEff_keeps {s0 s : State} (h : Keeps s0 s) : Keeps s0 (powerLimitStepEff s) := by
  unfold powerLimitStepEff; try dsimp only
  repeat' (first
      | with_reducible assumption | intro _ | with_reducible apply modSens_keeps | with_reducible apply opCause_keeps
      | with_reducible apply pldmEvent_keeps | with_reducible apply setEvt_keeps | with_reducible apply bump_keeps
      | with_reducible apply ite_keeps | dsimp only | split | fail_if_no_progress (with_reducible apply Keeps.lit))

theorem warnAt_keeps {s0 s : State} (i : Nat) (above : Bool) (h : Keeps s0 s) : Keeps s0 (warnAt s i above) := by
  unfold warnAt; try dsimp only
  repeat' (first
      | with_reducible assumption | intro _ | with_reducible apply pldmEvent_keeps | with_reducible apply setEvt_keeps
      | with_reducible apply modSens_keeps | with_reducible apply ite_keeps)

theorem tempStep_keeps {s0 s : State} (rs : Readings) (i : Nat) (h : Keeps s0 s) : Keeps s0 (tempStep rs s i) := by
  unfold tempStep; try dsimp only
  repeat' (first | with_reducible assumption | intro _ | with_reducible apply warnAt_keeps | with_reducible apply wrN_keeps)

theorem pointEdge_keeps {s0 s : State} (h : Keeps s0 s) : Keeps s0 (pointEdge s) := by
  unfold pointEdge; try dsimp only
  repeat' (first
      | with_reducible assumption | intro _ | with_reducible apply pldmEvent_keeps | with_reducible apply setEvt_keeps
      | with_reducible apply bump_keeps | with_reducible apply opCause_keeps | with_reducible apply modSens_keeps
      | with_reducible apply sumDev_keeps | with_reducible apply ite_keeps | dsimp only | split
      | fail_if_no_progress (with_reducible apply Keeps.lit))

theorem samplePower_keeps {s0 s : State} (rs : Readings) (h : Keeps s0 s) : Keeps s0 (samplePower s rs).2 := by
  unfold samplePower; try dsimp only
  repeat' (first
      | with_reducible assumption | intro _ | with_reducible apply fresh_keeps | with_reducible apply ite_keeps | dsimp only
      | split)

theorem powerStep_keeps {s0 s : State} (rs : Readings) (h : Keeps s0 s) : Keeps s0 (powerStep s rs) := by
  unfold powerStep; try dsimp only
  repeat' (first
      | with_reducible assumption | intro _ | with_reducible apply samplePower_keeps | with_reducible apply modSens_keeps
      | with_reducible apply wrN_keeps | with_reducible apply each_keeps | with_reducible apply ite_keeps)

theorem voltStep_keeps {s0 s : State} (rs : Readings) (i : Nat) (h : Keeps s0 s) : Keeps s0 (voltStep rs s i) := by
  unfold voltStep; try dsimp only
  repeat' (first
      | with_reducible assumption | intro _ | with_reducible apply warnAt_keeps | with_reducible apply wrN_keeps
      | with_reducible apply modSens_keeps | with_reducible apply ite_keeps | dsimp only | split)

theorem senJudge_keeps {s0 s : State} (rs : Readings) (i : Nat) (h : Keeps s0 s) : Keeps s0 (senJudge rs s i) := by
  unfold senJudge; try dsimp only
  repeat' (first
      | with_reducible assumption | intro _ | with_reducible apply modSens_keeps | with_reducible apply wf_keeps
      | with_reducible apply setEvt_keeps | with_reducible apply bump_keeps | with_reducible apply pldmEvent_keeps
      | with_reducible apply sumDev_keeps | with_reducible apply ite_keeps)

theorem curStep_keeps {s0 s : State} (rs : Readings) (i : Nat) (h : Keeps s0 s) : Keeps s0 (curStep rs s i) := by
  unfold curStep; try dsimp only
  repeat' (first | with_reducible assumption | intro _ | with_reducible apply wrN_keeps | with_reducible apply ite_keeps | dsimp only | split)

theorem pointStep_keeps {s0 s : State} (rs : Readings) (h : Keeps s0 s) : Keeps s0 (pointStep s rs) := by
  unfold pointStep; try dsimp only
  repeat' (first | with_reducible assumption | intro _ | with_reducible apply modSens_keeps)

theorem sensorSampleEff_keeps {s0 s : State} (rs : Readings) (h : Keeps s0 s) : Keeps s0 (sensorSampleEff rs s) := by
  unfold sensorSampleEff; extract_lets r s1 s2 s3 s4
  have h1 : Keeps s0 s1 := each_keeps (fun x a hx => senJudge_keeps _ _ hx) h
  have h2 : Keeps s0 s2 := each_keeps (fun x a hx => voltStep_keeps _ _ hx) (each_keeps (fun x a hx => tempStep_keeps _ _ hx) h1)
  have h3 : Keeps s0 s3 := by
    unfold s3; split
    · exact each_keeps (fun x a hx => curStep_keeps _ _ hx) h2
    · exact h2
  have h4 : Keeps s0 s4 := pointStep_keeps _ (powerStep_keeps _ h3)
  clear_value s4
  repeat' (first
      | with_reducible assumption | intro _ | with_reducible apply voltFault_keeps | with_reducible apply modSens_keeps
      | with_reducible apply foldl_keeps | with_reducible apply foldlFst_keeps | with_reducible apply each_keeps
      | with_reducible apply ite_keeps | dsimp only | split)

/-! ## Background -/

theorem setStage_keeps {s0 s : State} (a : Nat) (st : Nat) (h : Keeps s0 s) : Keeps s0 (setStage s a st) := by
  unfold setStage; try dsimp only
  repeat' (first
      | with_reducible assumption | intro _ | with_reducible apply setBg_keeps | with_reducible apply wf_keeps
      | with_reducible apply setEvt_keeps | with_reducible apply ite_keeps)

theorem exhaust_keeps {s0 s : State} (st : Nat) (h : Keeps s0 s) : Keeps s0 (exhaust s st) := by
  unfold exhaust; try dsimp only
  repeat' (first | with_reducible assumption | intro _ | with_reducible apply wf_keeps | with_reducible apply ite_keeps)

theorem rowSpareDoneEff_keeps {s0 s : State} (h : Keeps s0 s) : Keeps s0 (rowSpareDoneEff s) := by
  unfold rowSpareDoneEff; try dsimp only
  repeat' (first
      | with_reducible assumption | intro _ | with_reducible apply each_keeps | with_reducible apply exhaust_keeps
      | with_reducible apply setBg_keeps | with_reducible apply modSirvi_keeps | with_reducible apply setEvt_keeps
      | with_reducible apply wrN_keeps | with_reducible apply ite_keeps | dsimp only | split)

theorem bgSlipEff_keeps {s0 s : State} (h : Keeps s0 s) : Keeps s0 (bgSlipEff s) := by
  unfold bgSlipEff; try dsimp only
  repeat' (first
      | with_reducible assumption | intro _ | with_reducible apply setEvt_keeps | with_reducible apply bump_keeps
      | with_reducible apply ite_keeps)

theorem scrubClus_keeps {s0 s : State} (a : Nat) (h : Keeps s0 s) : Keeps s0 (scrubClus s a) := by
  unfold scrubClus; try dsimp only
  repeat' (first | with_reducible assumption | intro _ | with_reducible apply each_keeps | with_reducible apply scrubUnits_keeps)

theorem scratchpadScrubEff_keeps {s0 s : State} (h : Keeps s0 s) : Keeps s0 (scratchpadScrubEff s) := by
  unfold scratchpadScrubEff; try dsimp only
  repeat' (first | with_reducible assumption | intro _ | with_reducible apply scrubClus_keeps | with_reducible apply ite_keeps)

theorem thermalCalibrationEff_keeps {s0 s : State} (h : Keeps s0 s) : Keeps s0 (thermalCalibrationEff s) := by
  unfold thermalCalibrationEff; try dsimp only
  repeat' (first | with_reducible assumption | intro _ | with_reducible apply modSirvi_keeps | with_reducible apply ite_keeps | dsimp only)

theorem hbmScrubEff_keeps {s0 s : State} (h : Keeps s0 s) : Keeps s0 (hbmScrubEff s) := by
  unfold hbmScrubEff; try dsimp only
  repeat' (first | with_reducible assumption | intro _ | with_reducible apply scrubGrans_keeps | with_reducible apply ite_keeps)

theorem bgUncov_keeps {s0 s : State} (a : Nat) (thr : Nat) (h : Keeps s0 s) : Keeps s0 (bgUncov s a thr).1 := by
  unfold bgUncov; try dsimp only
  repeat' (first
      | with_reducible assumption | intro _ | with_reducible apply wr64_keeps | with_reducible apply wrN_keeps
      | with_reducible apply foldl_keeps | with_reducible apply foldlFst_keeps | with_reducible apply ite_keeps | dsimp only
      | split)

theorem enterStarved_keeps {s0 s : State} (a : Nat) (lag : Nat) (thr : Nat) (h : Keeps s0 s) : Keeps s0 (enterStarved s a lag thr) := by
  unfold enterStarved; try dsimp only
  repeat' (first
      | with_reducible assumption | intro _ | with_reducible apply bgUncov_keeps | with_reducible apply setStage_keeps
      | with_reducible apply sumDev_keeps | with_reducible apply setEvt_keeps | with_reducible apply bump_keeps)

theorem enterNormal_keeps {s0 s : State} (a : Nat) (h : Keeps s0 s) : Keeps s0 (enterNormal s a) := by
  unfold enterNormal; try dsimp only
  repeat' (first
      | with_reducible assumption | intro _ | with_reducible apply setStage_keeps | with_reducible apply wrN_keeps
      | with_reducible apply wr64_keeps | with_reducible apply foldl_keeps | with_reducible apply foldlFst_keeps
      | with_reducible apply ite_keeps)

theorem stageEdge_keeps {s0 s : State} (a : Nat) (h : Keeps s0 s) : Keeps s0 (stageEdge s a) := by
  unfold stageEdge; try dsimp only
  repeat' (first
      | with_reducible assumption | intro _ | with_reducible apply wrN_keeps | with_reducible apply wf_keeps
      | with_reducible apply enterNormal_keeps | with_reducible apply setStage_keeps | with_reducible apply setBg_keeps
      | with_reducible apply enterStarved_keeps | with_reducible apply foldl_keeps | with_reducible apply foldlFst_keeps
      | with_reducible apply ite_keeps)

theorem passEdge_keeps {s0 s : State} (a : Nat) (h : Keeps s0 s) : Keeps s0 (passEdge s a) := by
  unfold passEdge; try dsimp only
  repeat' (first | with_reducible assumption | intro _ | with_reducible apply setBg_keeps | with_reducible apply ite_keeps)

theorem bgEdge_keeps {s0 s : State} (h : Keeps s0 s) : Keeps s0 (bgEdge s) := by
  unfold bgEdge; try dsimp only
  repeat' (first
      | with_reducible assumption | intro _ | with_reducible apply stageEdge_keeps | with_reducible apply passEdge_keeps
      | with_reducible apply foldl_keeps | with_reducible apply foldlFst_keeps | with_reducible apply ite_keeps)

theorem wearLevellingEff_keeps {s0 s : State} (h : Keeps s0 s) : Keeps s0 (wearLevellingEff s) := by
  unfold wearLevellingEff; try dsimp only
  repeat' (first
      | with_reducible assumption | intro _ | with_reducible apply fresh_keeps | with_reducible apply wrN_keeps
      | with_reducible apply modSirvi_keeps | with_reducible apply ite_keeps | dsimp only)

theorem energyCalibrationEff_keeps {s0 s : State} (h : Keeps s0 s) : Keeps s0 (energyCalibrationEff s) := by
  unfold energyCalibrationEff; try dsimp only
  repeat' (first | with_reducible assumption | intro _ | with_reducible apply modSirvi_keeps | with_reducible apply ite_keeps | dsimp only)

theorem clusterScrubEff_keeps {s0 s : State} (h : Keeps s0 s) : Keeps s0 (clusterScrubEff s) := by
  unfold clusterScrubEff; try dsimp only
  repeat' (first | with_reducible assumption | intro _ | with_reducible apply scrubClus_keeps | with_reducible apply ite_keeps)

/-! ## Host -/

theorem internalErrorEff_keeps {s0 s : State} (u : HostUnit) (h : Keeps s0 s) : Keeps s0 (internalErrorEff u s) := by
  unfold internalErrorEff; try dsimp only
  repeat' (first | with_reducible assumption | intro _ | dsimp only | split | fail_if_no_progress (with_reducible apply Keeps.lit))

theorem vfRemove_keeps {s0 s : State} (k : Nat) (h : Keeps s0 s) : Keeps s0 (vfRemove s k) := by
  unfold vfRemove; try dsimp only
  repeat' (first
      | with_reducible assumption | intro _ | with_reducible apply vfClear_keeps | with_reducible apply dropSess_keeps
      | with_reducible apply ideEnd_keeps | with_reducible apply setTdi_keeps | with_reducible apply ite_keeps)

theorem vfEnableEff_keeps {s0 s : State} (on : Bool) (num : Nat) (h : Keeps s0 s) : Keeps s0 (vfEnableEff on num s) := by
  unfold vfEnableEff; try dsimp only
  repeat' (first
      | with_reducible assumption | intro _ | with_reducible apply wrN_keeps | with_reducible apply each_keeps
      | with_reducible apply vfRemove_keeps | with_reducible apply ite_keeps)

theorem unmaskVec_keeps {s0 s : State} (fn : Nat) (v : Nat) (h : Keeps s0 s) : Keeps s0 (unmaskVec s fn v) := by
  unfold unmaskVec; try dsimp only
  repeat' (first
      | with_reducible assumption | intro _ | with_reducible apply setVec_keeps | with_reducible apply sendMsi_keeps
      | with_reducible apply ite_keeps)

theorem msixUnmaskEff_keeps {s0 s : State} (fn : Nat) (v : Nat) (h : Keeps s0 s) : Keeps s0 (msixUnmaskEff fn v s) := by
  unfold msixUnmaskEff; try dsimp only
  repeat' (first | with_reducible assumption | intro _ | with_reducible apply unmaskVec_keeps | with_reducible apply ite_keeps)

theorem clwSelEff_keeps {s0 s : State} (k : Nat) (v : Word) (h : Keeps s0 s) : Keeps s0 (clwSelEff k v s) := by
  unfold clwSelEff; try dsimp only
  repeat' (first
      | with_reducible assumption | intro _ | with_reducible apply ite_keeps | dsimp only | split
      | fail_if_no_progress (with_reducible apply Keeps.lit))

end Sys2Proof.Machine
end

