-- ==== Sys2Proof/Laws/KeepsEdge.lean ====
section
/-!
SUPPORT. The tick edge, the flip, register writes, the control cores' programs: what each operation keeps (Laws/Keeps).
-/
namespace Sys2Proof.Machine

set_option Elab.async false

/-! ## Binding -/

theorem putContext_keeps {s0 s : State} (hh : Nat) (p : List Byte) (c : Chunk) (h : Keeps s0 s) : Keeps s0 (putContext s hh p c) := by
  unfold putContext; try dsimp only
  repeat' (first
      | with_reducible assumption | intro _ | with_reducible apply setSlot_keeps | with_reducible apply foldl_keeps
      | with_reducible apply foldlFst_keeps | with_reducible apply ite_keeps)

theorem copyFeatures_keeps {s0 s : State} (p : List Byte) (key : Nat) (c : Chunk) (h : Keeps s0 s)
    : Keeps s0 (copyFeatures s p key c) := by
  unfold copyFeatures; try dsimp only
  repeat' (first
      | with_reducible assumption | intro _ | with_reducible apply countBytes_keeps | with_reducible apply setSlot_keeps
      | with_reducible apply readSlot_keeps | with_reducible apply foldl_keeps | with_reducible apply foldlFst_keeps | dsimp only
      | split)

theorem bindLane_keeps {s0 s : State} (n : Nat) (j : Nat) (c : Nat) (l : Nat) (hh : Nat) (stolen : Bool) (h : Keeps s0 s)
    : Keeps s0 (bindLane s n j c l hh stolen) := by
  unfold bindLane; try dsimp only
  repeat' (first
      | with_reducible assumption | intro _ | with_reducible apply setLane_keeps | with_reducible apply modStrm_keeps
      | with_reducible apply tagSlots_keeps | with_reducible apply putContext_keeps | with_reducible apply copyFeatures_keeps
      | with_reducible apply retireChunk_keeps | with_reducible apply concealed_keeps | with_reducible apply ite_keeps | dsimp only
      | split)

theorem bindRun_keeps {s0 s : State} (n j c : Nat) (stolen : Bool) (l : List Nat) (h : Keeps s0 s) :
    Keeps s0 (bindRun n j c stolen l s).1 := by
  induction l generalizing s with
  | nil => exact h
  | cons a l ih =>
    unfold bindRun
    split
    · exact h
    · exact ih (bindLane_keeps _ _ _ _ _ _ h)

theorem agePart_keeps {s0 s : State} (n : Nat) (h : Keeps s0 s) : Keeps s0 (agePart s n) := by
  unfold agePart; try dsimp only
  repeat' (first | with_reducible assumption | intro _ | with_reducible apply each_keeps | with_reducible apply modStrm_keeps)

theorem bindSteal_keeps {s0 s : State} (n : Nat) (q : Nat × Nat × List Nat) (h : Keeps s0 s) : Keeps s0 (bindSteal n s q) := by
  unfold bindSteal; try dsimp only
  repeat' (first
      | with_reducible assumption | intro _ | with_reducible apply bindRun_keeps | with_reducible apply modPart_keeps
      | with_reducible apply foldl_keeps | with_reducible apply foldlFst_keeps | with_reducible apply ite_keeps | dsimp only
      | split)

theorem markUnbound_keeps {s0 s : State} (n : Nat) (h : Keeps s0 s) : Keeps s0 (markUnbound s n) := by
  unfold markUnbound; try dsimp only
  repeat' (first
      | with_reducible assumption | intro _ | with_reducible apply each_keeps | with_reducible apply modStrm_keeps
      | with_reducible apply ite_keeps)

theorem bindHome_keeps {s0 : State} (n : Nat) (r : State × Excess) (q : Nat × Nat) (h : Keeps s0 r.1) :
    Keeps s0 (bindHome n r q).1 := bindRun_keeps _ _ _ _ _ h

theorem idleEdge_keeps {s0 s : State} (h : Keeps s0 s) : Keeps s0 (idleEdge s) := by
  unfold idleEdge; try dsimp only
  repeat' (first | with_reducible assumption | intro _ | with_reducible apply each_keeps | with_reducible apply modStrm_keeps)

theorem fillRows_keeps {s0 s : State} (n : Nat) (j : Nat) (c : Nat) (h : Keeps s0 s) : Keeps s0 (fillRows s n j c) := by
  unfold fillRows; try dsimp only
  repeat' (first | with_reducible assumption | intro _ | with_reducible apply each_keeps | with_reducible apply zeroSlots_keeps)

theorem bindPart_keeps {s0 s : State} (n : Nat) (h : Keeps s0 s) : Keeps s0 (bindPart s n) := by
  unfold bindPart; dsimp only
  refine markUnbound_keeps _ (each_keeps (fun x q hx => fillRows_keeps _ _ _ hx) (foldl_keeps (fun x q hx => bindSteal_keeps _ _ hx) ?_))
  have hm : Keeps s0 (modPart s n fun p => { p with stolen := 0 }) := modPart_keeps _ _ h
  exact foldlFst_keeps (f := bindHome n) (fun x q hx => bindHome_keeps n x q hx) hm

/-! ## Flip -/

theorem lateCopy_keeps {s0 s : State} (k : Nat) (h : Keeps s0 s) : Keeps s0 (lateCopy s k) := by
  unfold lateCopy; try dsimp only
  repeat' (first | with_reducible assumption | intro _ | with_reducible apply modLane_keeps)

theorem lateCopies_keeps {s0 s : State} (h : Keeps s0 s) : Keeps s0 (lateCopies s) := by
  unfold lateCopies; try dsimp only
  repeat' (first
      | with_reducible assumption | intro _ | with_reducible apply fresh_keeps | with_reducible apply each_keeps
      | with_reducible apply lateCopy_keeps | with_reducible apply ite_keeps)

theorem firstSeg_keeps {s0 s : State} (n : Nat) (h : Keeps s0 s) : Keeps s0 (firstSeg s n) := by
  unfold firstSeg; try dsimp only
  repeat' (first | with_reducible assumption | intro _ | with_reducible apply openSeg_keeps | with_reducible apply ite_keeps)

theorem dispatchEndEff_keeps {s0 s : State} (h : Keeps s0 s) : Keeps s0 (dispatchEndEff s) := by
  unfold dispatchEndEff; try dsimp only
  repeat' (first
      | with_reducible assumption | intro _ | with_reducible apply lateCopies_keeps | with_reducible apply toCycle_keeps
      | with_reducible apply each_keeps | with_reducible apply stopDispatch_keeps | with_reducible apply setEvt_keeps
      | with_reducible apply bump_keeps | with_reducible apply firstSeg_keeps | with_reducible apply ite_keeps | dsimp only | split
      | fail_if_no_progress (with_reducible apply Keeps.lit))

theorem flipLane_keeps {s0 s : State} (key : Nat) (l : Lane) (h : Keeps s0 s) : Keeps s0 (flipLane s key l) := by
  unfold flipLane; try dsimp only
  repeat' (first
      | with_reducible assumption | intro _ | with_reducible apply setSeq_keeps | with_reducible apply modStrm_keeps
      | with_reducible apply concealed_keeps | with_reducible apply retireChunk_keeps | with_reducible apply blyFlip_keeps
      | with_reducible apply stageTokens_keeps)

theorem lateStrm_keeps {s0 s : State} (n : Nat) (hh : Nat) (cause : Nat) (tick : Nat) (ts : Nat) (h : Keeps s0 s)
    : Keeps s0 (lateStrm s n hh cause tick ts) := by
  unfold lateStrm; try dsimp only
  repeat' (first
      | with_reducible assumption | intro _ | with_reducible apply modStrm_keeps | with_reducible apply bump_keeps
      | with_reducible apply setEvt_keeps | with_reducible apply strmEvent_keeps | with_reducible apply ite_keeps)

theorem missLane_keeps {s0 s : State} (key : Nat) (l : Lane) (h : Keeps s0 s) : Keeps s0 (missLane s key l) := by
  unfold missLane; try dsimp only
  repeat' (first
      | with_reducible assumption | intro _ | with_reducible apply lateStrm_keeps | with_reducible apply giveBack_keeps
      | with_reducible apply ite_keeps)

theorem missStrm_keeps {s0 s : State} (n : Nat) (hh : Nat) (h : Keeps s0 s) : Keeps s0 (missStrm s n hh) := by
  unfold missStrm; try dsimp only
  repeat' (first | with_reducible assumption | intro _ | with_reducible apply modStrm_keeps | with_reducible apply lateStrm_keeps)

theorem flipPart_keeps {s0 s : State} (n : Nat) (h : Keeps s0 s) : Keeps s0 (flipPart s n) := by
  unfold flipPart; try dsimp only
  repeat' (first
      | with_reducible assumption | intro _ | with_reducible apply each_keeps | with_reducible apply flipLane_keeps
      | with_reducible apply missLane_keeps | with_reducible apply missStrm_keeps | with_reducible apply blyAtFlip_keeps
      | with_reducible apply stampSeq_keeps | with_reducible apply blyReleases_keeps | with_reducible apply kvEdge_keeps
      | with_reducible apply modPart_keeps | with_reducible apply releaseEm_keeps | dsimp only
      | fail_if_no_progress (with_reducible apply Keeps.lit))

theorem flipEff_keeps {s0 s : State} (h : Keeps s0 s) : Keeps s0 (flipEff s) := by
  unfold flipEff; try dsimp only
  repeat' (first
      | with_reducible assumption | intro _ | with_reducible apply toCycle_keeps | with_reducible apply each_keeps
      | with_reducible apply flipPart_keeps | with_reducible apply queueWrites_keeps | with_reducible apply ite_keeps | dsimp only
      | split | fail_if_no_progress (with_reducible apply Keeps.lit))

theorem fixFlipSet_keeps {s0 s : State} (n : Nat) (h : Keeps s0 s) : Keeps s0 (fixFlipSet s n) := by
  unfold fixFlipSet; try dsimp only
  repeat' (first | with_reducible assumption | intro _ | with_reducible apply modPart_keeps)

theorem limitPitches_keeps {s0 s : State} (h : Keeps s0 s) : Keeps s0 (limitPitches s) := by
  unfold limitPitches; try dsimp only
  repeat' (first
      | with_reducible assumption | intro _ | with_reducible apply each_keeps | with_reducible apply runTo_keeps
      | with_reducible apply pitchLimitEff_keeps)

theorem commitWindowOpenEff_keeps {s0 s : State} (h : Keeps s0 s) : Keeps s0 (commitWindowOpenEff s) := by
  unfold commitWindowOpenEff; try dsimp only
  repeat' (first
      | with_reducible assumption | intro _ | with_reducible apply limitPitches_keeps | with_reducible apply toCycle_keeps
      | with_reducible apply each_keeps | with_reducible apply fixFlipSet_keeps | with_reducible apply ite_keeps | dsimp only
      | split | fail_if_no_progress (with_reducible apply Keeps.lit))

/-! ## Edge -/

theorem slowEdge_keeps {s0 s : State} (n : Nat) (h : Keeps s0 s) : Keeps s0 (slowEdge s n) := by
  unfold slowEdge; try dsimp only
  repeat' (first
      | with_reducible assumption | intro _ | with_reducible apply wrN_keeps | with_reducible apply modPart_keeps
      | with_reducible apply setEvt_keeps | with_reducible apply bump_keeps | with_reducible apply foldl_keeps
      | with_reducible apply foldlFst_keeps | with_reducible apply ite_keeps)

theorem accAdvance_keeps {s0 s : State} (p : Nat) (a : Acc) (h : Keeps s0 s) : Keeps s0 (accAdvance s p a) := by
  unfold accAdvance; try dsimp only
  repeat' (first
      | with_reducible assumption | intro _ | with_reducible apply add64_keeps | with_reducible apply setPacc_keeps
      | with_reducible apply foldl_keeps | with_reducible apply foldlFst_keeps | with_reducible apply ite_keeps)

theorem partyEdge_keeps {s0 s : State} (ticked : Bool) (p : Nat) (h : Keeps s0 s) : Keeps s0 (partyEdge ticked s p) := by
  unfold partyEdge; try dsimp only
  repeat' (first
      | with_reducible assumption | intro _ | with_reducible apply accAdvance_keeps | with_reducible apply add64_keeps
      | with_reducible apply setPacc_keeps | with_reducible apply wr64_keeps)

theorem tickTotals_keeps {s0 s : State} (h : Keeps s0 s) : Keeps s0 (tickTotals s) := by
  unfold tickTotals; try dsimp only
  repeat' (first
      | with_reducible assumption | intro _ | with_reducible apply each_keeps | with_reducible apply slowEdge_keeps
      | with_reducible apply partyEdge_keeps | with_reducible apply add64_keeps | with_reducible apply ite_keeps)

theorem sumsReset_keeps {s0 s : State} (n : Nat) (h : Keeps s0 s) : Keeps s0 (sumsReset s n) := by
  unfold sumsReset; try dsimp only
  repeat' (first | with_reducible assumption | intro _ | with_reducible apply modPart_keeps)

theorem jobEdge_keeps {s0 s : State} (n : Nat) (j : Nat) (h : Keeps s0 s) : Keeps s0 (jobEdge s n j) := by
  unfold jobEdge; try dsimp only
  repeat' (first
      | with_reducible assumption | intro _ | with_reducible apply setJob_keeps | with_reducible apply setEvt_keeps
      | with_reducible apply ite_keeps)

theorem indexEdge_keeps {s0 s : State} (n : Nat) (h : Keeps s0 s) : Keeps s0 (indexEdge s n) := by
  unfold indexEdge; try dsimp only
  repeat' (first
      | with_reducible assumption | intro _ | with_reducible apply modPart_keeps | with_reducible apply swapTable_keeps
      | with_reducible apply ite_keeps)

theorem cmdEdge_keeps {s0 s : State} (n : Nat) (h : Keeps s0 s) : Keeps s0 (cmdEdge s n) := by
  unfold cmdEdge; try dsimp only
  repeat' (first
      | with_reducible assumption | intro _ | with_reducible apply modPart_keeps | with_reducible apply setSt_keeps
      | with_reducible apply ite_keeps | dsimp only | split)

theorem stateEdge_keeps {s0 s : State} (n : Nat) (h : Keeps s0 s) : Keeps s0 (stateEdge s n) := by
  unfold stateEdge; try dsimp only
  repeat' (first
      | with_reducible assumption | intro _ | with_reducible apply beginZeroise_keeps | with_reducible apply setSt_keeps
      | with_reducible apply modPart_keeps | with_reducible apply indexEdge_keeps | with_reducible apply cmdEdge_keeps
      | with_reducible apply swapTable_keeps | with_reducible apply ite_keeps)

theorem partReset_keeps {s0 s : State} (n : Nat) (h : Keeps s0 s) : Keeps s0 (partReset s n) := by
  unfold partReset; try dsimp only
  repeat' (first
      | with_reducible assumption | intro _ | with_reducible apply modPart_keeps | with_reducible apply sumsReset_keeps
      | with_reducible apply each_keeps | with_reducible apply modClu_keeps)

theorem partEdge_keeps {s0 s : State} (n : Nat) (h : Keeps s0 s) : Keeps s0 (partEdge s n) := by
  unfold partEdge; try dsimp only
  repeat' (first
      | with_reducible assumption | intro _ | with_reducible apply sumsReset_keeps | with_reducible apply clearLanes_keeps
      | with_reducible apply each_keeps | with_reducible apply jobEdge_keeps | with_reducible apply stateEdge_keeps
      | with_reducible apply partReset_keeps | with_reducible apply rxPump_keeps | with_reducible apply ite_keeps)

theorem carriedFaults_keeps {s0 s : State} (n : Nat) (h : Keeps s0 s) : Keeps s0 (carriedFaults s n) := by
  unfold carriedFaults; try dsimp only
  repeat' (first
      | with_reducible assumption | intro _ | with_reducible apply each_keeps | with_reducible apply faultStrm_keeps
      | with_reducible apply modLane_keeps)

theorem dispatchPart_keeps {s0 s : State} (n : Nat) (h : Keeps s0 s) : Keeps s0 (dispatchPart s n) := by
  unfold dispatchPart; try dsimp only
  repeat' (first
      | with_reducible assumption | intro _ | with_reducible apply dispatchStrms_keeps | with_reducible apply agePart_keeps
      | with_reducible apply feOverrun_keeps | with_reducible apply dispatchHandlers_keeps
      | with_reducible apply carriedFaults_keeps | with_reducible apply bindPart_keeps | with_reducible apply each_keeps
      | with_reducible apply holdDrops_keeps | with_reducible apply ite_keeps)

theorem deviceEdge_keeps {s0 s : State} (t : Int) (fly : Bool) (h : Keeps s0 s) : Keeps s0 (deviceEdge s t fly) := by
  unfold deviceEdge; try dsimp only
  repeat' (first
      | with_reducible assumption | intro _ | with_reducible apply each_keeps | with_reducible apply toTbI_keeps
      | with_reducible apply cutPitch_keeps | with_reducible apply tickTotals_keeps | with_reducible apply pointEdge_keeps
      | with_reducible apply partiesEdge_keeps | with_reducible apply edgeClk_keeps | with_reducible apply strmsEdge_keeps
      | with_reducible apply idleEdge_keeps | with_reducible apply markReload_keeps | with_reducible apply bgEdge_keeps
      | with_reducible apply partEdge_keeps | with_reducible apply outEdge_keeps | with_reducible apply dispatchPart_keeps)

theorem ingestCutoffEff_keeps {s0 s : State} (outs : List (Option (List Byte))) (h : Keeps s0 s) : Keeps s0 (ingestCutoffEff outs s) := by
  unfold ingestCutoffEff; try dsimp only
  repeat' (first
      | with_reducible assumption | intro _ | with_reducible apply toTbI_keeps | with_reducible apply each_keeps
      | with_reducible apply cutoffPart_keeps | with_reducible apply portCutoff_keeps | with_reducible apply outCutoff_keeps
      | with_reducible apply ite_keeps | dsimp only | split | fail_if_no_progress (with_reducible apply Keeps.lit))

theorem edgeEff_keeps {s0 s : State} (fly : Bool) (h : Keeps s0 s) : Keeps s0 (edgeEff fly s) := by
  unfold edgeEff; try dsimp only
  repeat' (first
      | with_reducible assumption | intro _ | with_reducible apply deviceEdge_keeps | with_reducible apply ite_keeps | dsimp only
      | split)

theorem flywheelEdgeEff_keeps {s0 s : State} (h : Keeps s0 s) : Keeps s0 (flywheelEdgeEff s) := by
  unfold flywheelEdgeEff; try dsimp only
  repeat' (first | with_reducible assumption | intro _ | with_reducible apply edgeEff_keeps)

theorem tickEdgeEff_keeps {s0 s : State} (h : Keeps s0 s) : Keeps s0 (tickEdgeEff s) := by
  unfold tickEdgeEff; try dsimp only
  repeat' (first | with_reducible assumption | intro _ | with_reducible apply edgeEff_keeps)

/-! ## Registers -/

theorem evtEnWord_keeps {s0 s : State} (r : Requester) (p : PageT) (pg : Nat) (v : Nat) (h : Keeps s0 s)
    : Keeps s0 (evtEnWord r p pg v s) := by
  unfold evtEnWord; try dsimp only
  repeat' (first
      | with_reducible assumption | intro _ | with_reducible apply wrN_keeps | with_reducible apply irqSync_keeps | dsimp only
      | split | fail_if_no_progress (with_reducible apply Keeps.lit))

theorem headWrite_keeps {s0 s : State} (r : Requester) (addr : Nat) (ok : PageT → Nat → Bool) (f : PageT → Nat → State → State)
    (h_f : ∀ x0 x1 x2, Keeps s0 x2 → Keeps s0 (f x0 x1 x2)) (h : Keeps s0 s) : Keeps s0 (headWrite r addr ok f s) := by
  unfold headWrite; try dsimp only
  repeat' (first | with_reducible assumption | intro _ | with_reducible apply h_f | with_reducible apply ite_keeps | dsimp only | split)

theorem lockWord_keeps {s0 s : State} (pg : Nat) (v : Nat) (h : Keeps s0 s) : Keeps s0 (lockWord pg v s) := by
  unfold lockWord; try dsimp only
  repeat' (first | with_reducible assumption | intro _ | with_reducible apply wrN_keeps | with_reducible apply ite_keeps)

theorem pgLockEff_keeps {s0 s : State} (r : Requester) (addr : Nat) (v : Word) (h : Keeps s0 s) : Keeps s0 (pgLockEff r addr v s) := by
  unfold pgLockEff; try dsimp only
  repeat' (first | with_reducible assumption | intro _ | with_reducible apply headWrite_keeps | with_reducible apply lockWord_keeps)

theorem evtClearWord_keeps {s0 s : State} (pg : Nat) (v : Nat) (h : Keeps s0 s) : Keeps s0 (evtClearWord pg v s) := by
  unfold evtClearWord; try dsimp only
  repeat' (first
      | with_reducible assumption | intro _ | with_reducible apply wrN_keeps | with_reducible apply each_keeps
      | with_reducible apply irqSync_keeps | with_reducible apply ite_keeps)

theorem evtSetWord_keeps {s0 s : State} (p : PageT) (pg : Nat) (v : Nat) (h : Keeps s0 s) : Keeps s0 (evtSetWord p pg v s) := by
  unfold evtSetWord; try dsimp only
  repeat' (first | with_reducible assumption | intro _ | with_reducible apply each_keeps | with_reducible apply setEvtT_keeps)

theorem clearWith_keeps {s0 s : State} (p : PageT) (pg : Nat) (o : Nat) (h : Keeps s0 s) : Keeps s0 (clearWith s p pg o) := by
  unfold clearWith; try dsimp only
  repeat' (first | with_reducible assumption | intro _ | with_reducible apply wrN_keeps | with_reducible apply ite_keeps | dsimp only | split)

theorem cntWrite_keeps {s0 s : State} (p : PageT) (a : Nat) (v : Nat) (h : Keeps s0 s) : Keeps s0 (cntWrite s p a v) := by
  unfold cntWrite; try dsimp only
  repeat' (first
      | with_reducible assumption | intro _ | with_reducible apply clearWith_keeps | with_reducible apply clearCnt_keeps
      | with_reducible apply ite_keeps)

theorem plainWrite_keeps {s0 s : State} (a : Nat) (r : RegRow) (v : Nat) (h : Keeps s0 s) : Keeps s0 (plainWrite s a r v) := by
  unfold plainWrite; try dsimp only
  repeat' (first | with_reducible assumption | intro _ | with_reducible apply wrN_keeps)

theorem typedWrite_keeps {s0 s : State} (p : PageT) (a : Nat) (v : Nat) (h : Keeps s0 s) : Keeps s0 (typedWrite s p a v) := by
  unfold typedWrite; try dsimp only
  repeat' (first
      | with_reducible assumption | intro _ | with_reducible apply wrN_keeps | with_reducible apply cntWrite_keeps
      | with_reducible apply plainWrite_keeps | dsimp only | split)

theorem tickWrite_keeps {s0 s : State} (a : Nat) (v : Nat) (h : Keeps s0 s) : Keeps s0 (tickWrite a v s) := by
  unfold tickWrite; try dsimp only
  repeat' (first
      | with_reducible assumption | intro _ | with_reducible apply iff_keeps | with_reducible apply typedWrite_keeps
      | with_reducible apply tbLoadEff_keeps | with_reducible apply tickCtrlEnEff_keeps | with_reducible apply tickApplyEff_keeps
      | with_reducible apply relockEff_keeps | with_reducible apply ite_keeps)

theorem eventsWrite_keeps {s0 s : State} (a : Nat) (v : Nat) (h : Keeps s0 s) : Keeps s0 (eventsWrite a v s) := by
  unfold eventsWrite; try dsimp only
  repeat' (first
      | with_reducible assumption | intro _ | with_reducible apply irqSync_keeps | with_reducible apply typedWrite_keeps
      | with_reducible apply ite_keeps)

theorem partCmdWord_keeps {s0 s : State} (n : Nat) (code : Nat) (h : Keeps s0 s) : Keeps s0 (partCmdWord n code s) := by
  unfold partCmdWord; try dsimp only
  repeat' (first
      | with_reducible assumption | intro _ | with_reducible apply configureEff_keeps | with_reducible apply commitEff_keeps
      | with_reducible apply startEff_keeps | with_reducible apply stopEff_keeps | with_reducible apply maintEff_keeps
      | with_reducible apply resumeEff_keeps | with_reducible apply reconfigEff_keeps | with_reducible apply teardownEff_keeps
      | with_reducible apply tblSwapEff_keeps | with_reducible apply partCmdReserved_keeps | dsimp only | split)

theorem jobCtrlWord_keeps {s0 s : State} (n : Nat) (j : Nat) (a : Nat) (v : Nat) (h : Keeps s0 s) : Keeps s0 (jobCtrlWord n j a v s) := by
  unfold jobCtrlWord; try dsimp only
  repeat' (first
      | with_reducible assumption | intro _ | with_reducible apply ignoredWr_keeps | with_reducible apply iff_keeps
      | with_reducible apply typedWrite_keeps | with_reducible apply rearmEff_keeps | with_reducible apply ite_keeps)

theorem loadCmdWord_keeps {s0 s : State} (n : Nat) (v : Nat) (h : Keeps s0 s) : Keeps s0 (loadCmdWord n v s) := by
  unfold loadCmdWord; try dsimp only
  repeat' (first
      | with_reducible assumption | intro _ | with_reducible apply loadIgnored_keeps | with_reducible apply loadStart_keeps
      | with_reducible apply ite_keeps)

theorem strmCmdWord_keeps {s0 s : State} (n : Nat) (code : Nat) (h : Keeps s0 s) : Keeps s0 (strmCmdWord n code s) := by
  unfold strmCmdWord; try dsimp only
  repeat' (first
      | with_reducible assumption | intro _ | with_reducible apply openEff_keeps | with_reducible apply closeEff_keeps
      | with_reducible apply parkEff_keeps | with_reducible apply unparkEff_keeps | with_reducible apply exportEff_keeps
      | with_reducible apply importEff_keeps | with_reducible apply setcfgEff_keeps | with_reducible apply queryEff_keeps
      | with_reducible apply strmReserved_keeps | dsimp only | split)

theorem kvCmdWord_keeps {s0 s : State} (n : Nat) (code : Nat) (h : Keeps s0 s) : Keeps s0 (kvCmdWord n code s) := by
  unfold kvCmdWord; try dsimp only
  repeat' (first
      | with_reducible assumption | intro _ | with_reducible apply kvQueue_keeps | with_reducible apply poolInitEff_keeps
      | with_reducible apply kvReserved_keeps | dsimp only | split)

theorem stateWrite_keeps {s0 s : State} (ok : Bool) (n : Nat) (a : Nat) (v : Nat) (h : Keeps s0 s)
    : Keeps s0 (stateWrite ok n a v s) := by
  unfold stateWrite; try dsimp only
  repeat' (first
      | with_reducible assumption | intro _ | with_reducible apply typedWrite_keeps | with_reducible apply ignoredWr_keeps
      | with_reducible apply ite_keeps)

theorem partWrite_keeps {s0 s : State} (n a v : Nat) (h : Keeps s0 s) : Keeps s0 (partWrite n a v s) := by
  unfold partWrite; extract_lets o w st
  clear_value o w st
  repeat' (first
      | with_reducible assumption | intro _ | with_reducible apply partCfgSet_keeps | with_reducible apply partCmdWord_keeps
      | with_reducible apply jobCtrlWord_keeps | with_reducible apply loadCmdWord_keeps | with_reducible apply strmCmdWord_keeps
      | with_reducible apply kvCmdWord_keeps | with_reducible apply kvLow_keeps | with_reducible apply stateWrite_keeps
      | with_reducible apply tagTmoEff_keeps | with_reducible apply collTmoEff_keeps | with_reducible apply promoteEff_keeps
      | with_reducible apply clearEff_keeps | with_reducible apply typedWrite_keeps | with_reducible apply iff_keeps
      | with_reducible apply ite_keeps)

theorem tableWrite_keeps {s0 s : State} (n : Nat) (a : Nat) (v : Nat) (h : Keeps s0 s) : Keeps s0 (tableWrite n a v s) := by
  unfold tableWrite; try dsimp only
  repeat' (first
      | with_reducible assumption | intro _ | with_reducible apply tblLoEff_keeps | with_reducible apply tblHiEff_keeps
      | with_reducible apply typedWrite_keeps | with_reducible apply ite_keeps)

theorem ingestWrite_keeps {s0 s : State} (n : Nat) (a : Nat) (v : Nat) (h : Keeps s0 s) : Keeps s0 (ingestWrite n a v s) := by
  unfold ingestWrite; try dsimp only
  repeat' (first
      | with_reducible assumption | intro _ | with_reducible apply ingPiEff_keeps | with_reducible apply emCiEff_keeps
      | with_reducible apply iff_keeps | with_reducible apply profCommitEff_keeps | with_reducible apply profFetchEff_keeps
      | with_reducible apply typedWrite_keeps | with_reducible apply ite_keeps)

theorem portWrite_keeps {s0 s : State} (t : PageT) (p : Nat) (a : Nat) (v : Nat) (h : Keeps s0 s) : Keeps s0 (portWrite t p a v s) := by
  unfold portWrite; try dsimp only
  repeat' (first
      | with_reducible assumption | intro _ | with_reducible apply portCfgEff_keeps | with_reducible apply zcTmoEff_keeps
      | with_reducible apply outPiEff_keeps | with_reducible apply chCtrlEff_keeps | with_reducible apply typedWrite_keeps
      | with_reducible apply ite_keeps)

theorem expCmdWord_keeps {s0 s : State} (n : Nat) (v : Nat) (h : Keeps s0 s) : Keeps s0 (expCmdWord n v s) := by
  unfold expCmdWord; try dsimp only
  repeat' (first
      | with_reducible assumption | intro _ | with_reducible apply expLoadEff_keeps | with_reducible apply expRegisterEff_keeps
      | with_reducible apply expUnregisterEff_keeps | with_reducible apply expReserved_keeps | dsimp only | split)

theorem mbCmdWord_keeps {s0 s : State} (code : Nat) (h : Keeps s0 s) : Keeps s0 (mbCmdWord code s) := by
  unfold mbCmdWord; try dsimp only
  repeat' (first
      | with_reducible assumption | intro _ | with_reducible apply infoEff_keeps | with_reducible apply devResetEff_keeps
      | with_reducible apply fwCommitEff_keeps | with_reducible apply summitInfoEff_keeps | with_reducible apply imgListEff_keeps
      | with_reducible apply debugNonceEff_keeps | with_reducible apply mbHold_keeps | with_reducible apply mbUnknown_keeps
      | with_reducible apply ite_keeps | dsimp only | split)

theorem blockWrite_keeps {s0 s : State} (p : PageT) (i : Nat) (a : Nat) (v : Nat) (h : Keeps s0 s) : Keeps s0 (blockWrite p i a v s) := by
  unfold blockWrite; try dsimp only
  repeat' (first
      | with_reducible assumption | intro _ | with_reducible apply tickWrite_keeps | with_reducible apply eventsWrite_keeps
      | with_reducible apply veFlagClearEff_keeps | with_reducible apply typedWrite_keeps | with_reducible apply partWrite_keeps
      | with_reducible apply tableWrite_keeps | with_reducible apply ptySteadyAckEff_keeps | with_reducible apply ingestWrite_keeps
      | with_reducible apply portWrite_keeps | with_reducible apply lkCtrlEff_keeps | with_reducible apply expCmdWord_keeps
      | with_reducible apply mbCmdWord_keeps | with_reducible apply ite_keeps | dsimp only | split)

theorem pageWrite_keeps {s0 s : State} (r : Requester) (p : PageT) (i : Nat) (a : Nat) (v : Nat) (h : Keeps s0 s)
    : Keeps s0 (pageWrite r p i a v s) := by
  unfold pageWrite; try dsimp only
  repeat' (first
      | with_reducible assumption | intro _ | with_reducible apply evtClearWord_keeps | with_reducible apply evtEnWord_keeps
      | with_reducible apply evtSetWord_keeps | with_reducible apply lockWord_keeps | with_reducible apply blockWrite_keeps
      | with_reducible apply ite_keeps)

theorem pgEvtsetEff_keeps {s0 s : State} (r : Requester) (addr : Nat) (v : Word) (h : Keeps s0 s)
    : Keeps s0 (pgEvtsetEff r addr v s) := by
  unfold pgEvtsetEff; try dsimp only
  repeat' (first | with_reducible assumption | intro _ | with_reducible apply headWrite_keeps | with_reducible apply evtSetWord_keeps)

theorem eventCounterWriteEff_keeps {s0 s : State} (r : Requester) (addr : Nat) (v : Word) (h : Keeps s0 s)
    : Keeps s0 (eventCounterWriteEff r addr v s) := by
  unfold eventCounterWriteEff; try dsimp only
  repeat' (first | with_reducible assumption | intro _ | with_reducible apply headWrite_keeps | with_reducible apply cntWrite_keeps)

theorem readWord_keeps {s0 s : State} (r : Requester) (a : Nat) (h : Keeps s0 s) : Keeps s0 (readWord r a s) := by
  unfold readWord; try dsimp only
  repeat' (first
      | with_reducible assumption | intro _ | with_reducible apply kvRecompEff_keeps | with_reducible apply ite_keeps | dsimp only
      | split | fail_if_no_progress (with_reducible apply Keeps.lit))

theorem loReadEff_keeps {s0 s : State} (r : Requester) (addr : Nat) (h : Keeps s0 s) : Keeps s0 (loReadEff r addr s) := by
  unfold loReadEff; try dsimp only
  repeat' (first | with_reducible assumption | intro _ | with_reducible apply readWord_keeps)

theorem msixWrite_keeps {s0 s : State} (fn : Nat) (o : Nat) (v : Nat) (h : Keeps s0 s) : Keeps s0 (msixWrite fn o v s) := by
  unfold msixWrite; try dsimp only
  repeat' (first
      | with_reducible assumption | intro _ | with_reducible apply wrN_keeps | with_reducible apply setVec_keeps
      | with_reducible apply unmaskVec_keeps | with_reducible apply ite_keeps)

theorem tdiFirst_keeps {s0 s : State} (r : Requester) (a : Nat) (h : Keeps s0 s) : Keeps s0 (tdiFirst s r a) := by
  unfold tdiFirst; try dsimp only
  repeat' (first
      | with_reducible assumption | intro _ | with_reducible apply pfTdiErr_keeps | with_reducible apply ite_keeps | dsimp only
      | split)

theorem hostRegWrite_keeps {s0 s : State} (r : Requester) (a : Nat) (v : Nat) (h : Keeps s0 s) : Keeps s0 (hostRegWrite r a v s) := by
  unfold hostRegWrite; try dsimp only
  repeat' (first
      | with_reducible assumption | intro _ | with_reducible apply cmdReject_keeps | with_reducible apply tdiFirst_keeps
      | with_reducible apply pageWrite_keeps | with_reducible apply ite_keeps | dsimp only | split)

theorem wordWrite_keeps {s0 s : State} (r : Requester) (a : Nat) (v : Nat) (h : Keeps s0 s) : Keeps s0 (wordWrite r a v s) := by
  unfold wordWrite; try dsimp only
  repeat' (first
      | with_reducible assumption | intro _ | with_reducible apply msixWrite_keeps | with_reducible apply clwSelEff_keeps
      | with_reducible apply hostRegWrite_keeps | with_reducible apply ite_keeps | dsimp only | split)

theorem registerWriteEff_keeps {s0 s : State} (r : Requester) (addr : Nat) (len : Nat) (allBytes : Bool) (data : DWord)
    (h : Keeps s0 s) : Keeps s0 (registerWriteEff r addr len allBytes data s) := by
  unfold registerWriteEff; try dsimp only
  repeat' (first | with_reducible assumption | intro _ | with_reducible apply wordWrite_keeps | with_reducible apply ite_keeps)

theorem pgEvtClearEff_keeps {s0 s : State} (r : Requester) (addr : Nat) (v : Word) (h : Keeps s0 s)
    : Keeps s0 (pgEvtClearEff r addr v s) := by
  unfold pgEvtClearEff; try dsimp only
  repeat' (first | with_reducible assumption | intro _ | with_reducible apply headWrite_keeps | with_reducible apply evtClearWord_keeps)

/-! ## CoreRun -/

theorem ccJump_keeps {s0 s : State} (c : Nat) (pc : Nat) (h : Keeps s0 s) : Keeps s0 (ccJump s c pc) := by
  unfold ccJump; try dsimp only
  repeat' (first | with_reducible assumption | intro _ | with_reducible apply modClu_keeps)

theorem xSet_keeps {s0 s : State} (c : Nat) (i : Nat) (v : Word) (h : Keeps s0 s) : Keeps s0 (xSet s c i v) := by
  unfold xSet; try dsimp only
  repeat' (first | with_reducible assumption | intro _ | with_reducible apply modClu_keeps | with_reducible apply ite_keeps)

theorem ccResult_keeps {s0 s : State} (c : Nat) (pc : Nat) (rdn : Nat) (v : Option Word) (h : Keeps s0 s)
    : Keeps s0 (ccResult s c pc rdn v) := by
  unfold ccResult; try dsimp only
  repeat' (first
      | with_reducible assumption | intro _ | with_reducible apply ccJump_keeps | with_reducible apply xSet_keeps
      | with_reducible apply ccExceptionEff_keeps | dsimp only | split)

theorem ccSystem_keeps {s0 s : State} (c : Nat) (w : Nat) (h : Keeps s0 s) : Keeps s0 (ccSystem s c w) := by
  unfold ccSystem; try dsimp only
  repeat' (first
      | with_reducible assumption | intro _ | with_reducible apply wfiEff_keeps | with_reducible apply ccExceptionEff_keeps
      | with_reducible apply ite_keeps)

theorem ccGoto_keeps {s0 s : State} (c : Nat) (rdn : Nat) (link : Word) (target : Nat) (h : Keeps s0 s)
    : Keeps s0 (ccGoto s c rdn link target) := by
  unfold ccGoto; try dsimp only
  repeat' (first
      | with_reducible assumption | intro _ | with_reducible apply ccExceptionEff_keeps | with_reducible apply ccJump_keeps
      | with_reducible apply xSet_keeps | with_reducible apply ite_keeps)

theorem ccWinLoad_keeps {s0 s : State} (c : Nat) (o : Nat) (h : Keeps s0 s) : Keeps s0 (ccWinLoad s c o).2 := by
  unfold ccWinLoad; try dsimp only
  repeat' (first
      | with_reducible assumption | intro _ | with_reducible apply ccSumPopEff_keeps | with_reducible apply ite_keeps | dsimp only
      | split | fail_if_no_progress (with_reducible apply Keeps.lit))

theorem ccLoad_keeps {s0 s : State} (c : Nat) (pc : Nat) (rdn : Nat) (a : Nat) (n : Nat) (u : Bool) (h : Keeps s0 s)
    : Keeps s0 (ccLoad s c pc rdn a n u) := by
  unfold ccLoad; try dsimp only
  repeat' (first
      | with_reducible assumption | intro _ | with_reducible apply ccJump_keeps | with_reducible apply xSet_keeps
      | with_reducible apply ccWinLoad_keeps | with_reducible apply ccExceptionEff_keeps | dsimp only | split)

theorem ccDescWord_keeps {s0 s : State} (c : Nat) (i : Nat) (v : Word) (h : Keeps s0 s) : Keeps s0 (ccDescWord c i v s) := by
  unfold ccDescWord; try dsimp only
  repeat' (first
      | with_reducible assumption | intro _ | with_reducible apply modClu_keeps | with_reducible apply ccDescEff_keeps
      | with_reducible apply ite_keeps)

theorem ccKvWord_keeps {s0 s : State} (c : Nat) (code : Nat) (h : Keeps s0 s) : Keeps s0 (ccKvWord c code s) := by
  unfold ccKvWord; try dsimp only
  repeat' (first
      | with_reducible assumption | intro _ | with_reducible apply kvInfoEff_keeps | with_reducible apply kvPteEff_keeps
      | with_reducible apply kvReserveEff_keeps | with_reducible apply kvAnswer_keeps | dsimp only | split)

theorem ccWinStore_keeps {s0 s : State} (c : Nat) (o : Nat) (v : Word) (h : Keeps s0 s) : Keeps s0 (ccWinStore c o v s) := by
  unfold ccWinStore; try dsimp only
  repeat' (first
      | with_reducible assumption | intro _ | with_reducible apply modClu_keeps | with_reducible apply ccDescWord_keeps
      | with_reducible apply ccAltselEff_keeps | with_reducible apply ccDeferEff_keeps | with_reducible apply ccKvWord_keeps
      | with_reducible apply ccExpCmdEff_keeps | with_reducible apply ccBelaySameEff_keeps | with_reducible apply ite_keeps
      | dsimp only | split)

theorem ccStore_keeps {s0 s : State} (c pc a n : Nat) (v : Word) (h : Keeps s0 s) : Keeps s0 (ccStore s c pc a n v) := by
  unfold ccStore
  split
  · exact ccJump_keeps _ _ (ccPut_keeps _ _ h)
  · repeat' (first | with_reducible assumption | intro _ | with_reducible apply ccWinStore_keeps | with_reducible apply ccJump_keeps | with_reducible apply foldl_keeps | with_reducible apply foldlFst_keeps | with_reducible apply each_keeps | with_reducible apply ite_keeps)
  · exact ccExceptionEff_keeps _ _ h

theorem ccInstr_keeps {s0 s : State} (c : Nat) (pc : Nat) (w : Nat) (h : Keeps s0 s) : Keeps s0 (ccInstr s c pc w) := by
  unfold ccInstr; try dsimp only
  repeat' (first
      | with_reducible assumption | intro _ | with_reducible apply ccResult_keeps | with_reducible apply ccGoto_keeps
      | with_reducible apply ccExceptionEff_keeps | with_reducible apply ccJump_keeps | with_reducible apply ccLoad_keeps
      | with_reducible apply ccStore_keeps | with_reducible apply ccSystem_keeps | with_reducible apply ite_keeps | dsimp only
      | split)

theorem ccStep_keeps {s0 s : State} (c : Nat) (h : Keeps s0 s) : Keeps s0 (ccStep s c) := by
  unfold ccStep; try dsimp only
  repeat' (first
      | with_reducible assumption | intro _ | with_reducible apply ccExceptionEff_keeps | with_reducible apply ccInstr_keeps
      | with_reducible apply ite_keeps)

theorem ccStepAll_keeps {s0 s : State} (h : Keeps s0 s) : Keeps s0 (ccStepAll s) := by
  unfold ccStepAll; try dsimp only
  repeat' (first | with_reducible assumption | intro _ | with_reducible apply each_keeps | with_reducible apply ccStep_keeps)

theorem idleEff_keeps {s0 s : State} (h : Keeps s0 s) : Keeps s0 (idleEff s) := by
  unfold idleEff; try dsimp only
  repeat' (first
      | with_reducible assumption | intro _ | with_reducible apply ccStepAll_keeps | with_reducible apply passU_keeps
      | with_reducible apply ite_keeps)

end Sys2Proof.Machine
end

