-- ==== Sys2Proof/Laws/KeepsCommands.lean ====
section
/-!
SUPPORT. Each command of the table: what each operation keeps (Laws/Keeps).
-/
namespace Sys2Proof.Machine

set_option Elab.async false

theorem execPtmTimeout_keeps {s t : State} (e : execPtmTimeout s = .next t) : Keeps s t := by
  unfold execPtmTimeout at e; injection e with e; subst e
  repeat' (first | exact Keeps.rfl' s | with_reducible assumption | intro _ | with_reducible apply ptmTimeoutEff_keeps)

theorem execTickInEdge_keeps {s t : State} (time : Nat) (high : Nat) (e : execTickInEdge time high s = .next t) : Keeps s t := by
  unfold execTickInEdge at e; injection e with e; subst e
  repeat' (first | exact Keeps.rfl' s | with_reducible assumption | intro _ | with_reducible apply tickInEdgeEff_keeps)

theorem execFallbackTimeout_keeps {s t : State} (e : execFallbackTimeout s = .next t) : Keeps s t := by
  unfold execFallbackTimeout at e; injection e with e; subst e
  repeat' (first | exact Keeps.rfl' s | with_reducible assumption | intro _ | with_reducible apply fallbackTimeoutEff_keeps)

theorem execTickApply_keeps {s t : State} (e : execTickApply s = .next t) : Keeps s t := by
  unfold execTickApply at e; injection e with e; subst e
  repeat' (first
      | exact Keeps.rfl' s | with_reducible assumption | intro _ | with_reducible apply pfDo_keeps
      | with_reducible apply tickApplyEff_keeps)

theorem execTickCtrlEn_keeps {s t : State} (en : Bool) (e : execTickCtrlEn en s = .next t) : Keeps s t := by
  unfold execTickCtrlEn at e; injection e with e; subst e
  repeat' (first
      | exact Keeps.rfl' s | with_reducible assumption | intro _ | with_reducible apply pfDo_keeps
      | with_reducible apply tickCtrlEnEff_keeps)

theorem execPtmResponse_keeps {s t : State} (offset : Int) (e : execPtmResponse offset s = .next t) : Keeps s t := by
  unfold execPtmResponse at e; injection e with e; subst e
  repeat' (first | exact Keeps.rfl' s | with_reducible assumption | intro _ | with_reducible apply ptmResponseEff_keeps)

theorem execTbLoad_keeps {s t : State} (e : execTbLoad s = .next t) : Keeps s t := by
  unfold execTbLoad at e; injection e with e; subst e
  repeat' (first
      | exact Keeps.rfl' s | with_reducible assumption | intro _ | with_reducible apply pfDo_keeps
      | with_reducible apply tbLoadEff_keeps)

theorem execPtmRequest_keeps {s t : State} (capEnable : Bool) (e : execPtmRequest capEnable s = .next t) : Keeps s t := by
  unfold execPtmRequest at e; injection e with e; subst e
  repeat' (first | exact Keeps.rfl' s | with_reducible assumption | intro _ | with_reducible apply ptmRequestEff_keeps)

theorem execRelock_keeps {s t : State} (e : execRelock s = .next t) : Keeps s t := by
  unfold execRelock at e; injection e with e; subst e
  repeat' (first
      | exact Keeps.rfl' s | with_reducible assumption | intro _ | with_reducible apply pfDo_keeps
      | with_reducible apply relockEff_keeps)

theorem execJobTeardownDone_keeps {s t : State} (n : Fin 16) (j : Fin 16) (waited : Nat)
    (e : execJobTeardownDone n j waited s = .next t) : Keeps s t := by
  unfold execJobTeardownDone at e; injection e with e; subst e
  repeat' (first | exact Keeps.rfl' s | with_reducible assumption | intro _ | with_reducible apply jobTeardownDoneEff_keeps)

theorem execPitchStart_keeps {s t : State} (n : Fin 16) (e_ : Fin 64) (e : execPitchStart n e_ s = .next t) : Keeps s t := by
  unfold execPitchStart at e; injection e with e; subst e
  repeat' (first | exact Keeps.rfl' s | with_reducible assumption | intro _ | with_reducible apply pitchStartEff_keeps)

theorem execLoopE_keeps {s t : State} (c : Fin 256) (e : execLoopE c s = .next t) : Keeps s t := by
  unfold execLoopE at e; injection e with e; subst e
  repeat' (first | exact Keeps.rfl' s | with_reducible assumption | intro _ | with_reducible apply loopEEff_keeps)

theorem execHalt_keeps {s t : State} (c : Fin 256) (e : execHalt c s = .next t) : Keeps s t := by
  unfold execHalt at e; injection e with e; subst e
  repeat' (first | exact Keeps.rfl' s | with_reducible assumption | intro _ | with_reducible apply haltEff_keeps)

theorem execLoopS_keeps {s t : State} (c : Fin 256) (e : execLoopS c s = .next t) : Keeps s t := by
  unfold execLoopS at e; injection e with e; subst e
  repeat' (first | exact Keeps.rfl' s | with_reducible assumption | intro _ | with_reducible apply loopSEff_keeps)

theorem execStallClear_keeps {s t : State} (c : Fin 256) (cycles : Nat) (e : execStallClear c cycles s = .next t) : Keeps s t := by
  unfold execStallClear at e; injection e with e; subst e
  repeat' (first | exact Keeps.rfl' s | with_reducible assumption | intro _ | with_reducible apply stallClearEff_keeps)

theorem execPitchEnd_keeps {s t : State} (n : Fin 16) (cycle : Nat) (e : execPitchEnd n cycle s = .next t) : Keeps s t := by
  unfold execPitchEnd at e; injection e with e; subst e
  repeat' (first | exact Keeps.rfl' s | with_reducible assumption | intro _ | with_reducible apply pitchEndEff_keeps)

theorem execPitchLimit_keeps {s t : State} (n : Fin 16) (e : execPitchLimit n s = .next t) : Keeps s t := by
  unfold execPitchLimit at e; injection e with e; subst e
  repeat' (first | exact Keeps.rfl' s | with_reducible assumption | intro _ | with_reducible apply pitchLimitEff_keeps)

theorem execAltselSample_keeps {s t : State} (c : Fin 256) (e : execAltselSample c s = .next t) : Keeps s t := by
  unfold execAltselSample at e; injection e with e; subst e
  repeat' (first | exact Keeps.rfl' s | with_reducible assumption | intro _ | with_reducible apply altselSampleEff_keeps)

theorem execBp_keeps {s t : State} (c : Fin 256) (e : execBp c s = .next t) : Keeps s t := by
  unfold execBp at e; injection e with e; subst e
  repeat' (first | exact Keeps.rfl' s | with_reducible assumption | intro _ | with_reducible apply bpEff_keeps)

theorem execDescriptorStart_keeps {s t : State} (c : Fin 256) (q : Fin 2) (e : execDescriptorStart c q s = .next t) : Keeps s t := by
  unfold execDescriptorStart at e; injection e with e; subst e
  repeat' (first | exact Keeps.rfl' s | with_reducible assumption | intro _ | with_reducible apply descriptorStartEff_keeps)

theorem execDescriptorDone_keeps {s t : State} (c : Fin 256) (q : Fin 2) (hostData : Option (List Byte))
    (e : execDescriptorDone c q hostData s = .next t) : Keeps s t := by
  unfold execDescriptorDone at e; injection e with e; subst e
  repeat' (first | exact Keeps.rfl' s | with_reducible assumption | intro _ | with_reducible apply descriptorDoneEff_keeps)

theorem execRemoteAccessDone_keeps {s t : State} (c : Fin 256) (cycles : Nat) (e : execRemoteAccessDone c cycles s = .next t)
    : Keeps s t := by
  unfold execRemoteAccessDone at e; injection e with e; subst e
  repeat' (first | exact Keeps.rfl' s | with_reducible assumption | intro _ | with_reducible apply remoteAccessDoneEff_keeps)

theorem execAsyncPortPromotion_keeps {s t : State} (core : Fin 4096) (hbm : Bool) (e : execAsyncPortPromotion core hbm s = .next t)
    : Keeps s t := by
  unfold execAsyncPortPromotion at e; injection e with e; subst e
  repeat' (first | exact Keeps.rfl' s | with_reducible assumption | intro _ | with_reducible apply asyncPortPromotionEff_keeps)

theorem execSpTag_keeps {s t : State} (c : Fin 256) (e : execSpTag c s = .next t) : Keeps s t := by
  unfold execSpTag at e; injection e with e; subst e
  repeat' (first | exact Keeps.rfl' s | with_reducible assumption | intro _ | with_reducible apply spTagEff_keeps)

theorem execNcCopy_keeps {s t : State} (c : Fin 256) (e : execNcCopy c s = .next t) : Keeps s t := by
  unfold execNcCopy at e; injection e with e; subst e
  repeat' (first | exact Keeps.rfl' s | with_reducible assumption | intro _ | with_reducible apply ncCopyEff_keeps)

theorem execSpFill_keeps {s t : State} (c : Fin 256) (e : execSpFill c s = .next t) : Keeps s t := by
  unfold execSpFill at e; injection e with e; subst e
  repeat' (first | exact Keeps.rfl' s | with_reducible assumption | intro _ | with_reducible apply spFillEff_keeps)

theorem execSpDma_keeps {s t : State} (c : Fin 256) (e : execSpDma c s = .next t) : Keeps s t := by
  unfold execSpDma at e; injection e with e; subst e
  repeat' (first | exact Keeps.rfl' s | with_reducible assumption | intro _ | with_reducible apply spDmaEff_keeps)

theorem execSpCopy_keeps {s t : State} (c : Fin 256) (e : execSpCopy c s = .next t) : Keeps s t := by
  unfold execSpCopy at e; injection e with e; subst e
  repeat' (first | exact Keeps.rfl' s | with_reducible assumption | intro _ | with_reducible apply spCopyEff_keeps)

theorem execSync_keeps {s t : State} (c : Fin 256) (e : execSync c s = .next t) : Keeps s t := by
  unfold execSync at e; injection e with e; subst e
  repeat' (first | exact Keeps.rfl' s | with_reducible assumption | intro _ | with_reducible apply syncEff_keeps)

theorem execPartFault_keeps {s t : State} (n : Fin 16) (k : PartFaultCase) (e : execPartFault n k s = .next t) : Keeps s t := by
  unfold execPartFault at e; injection e with e; subst e
  repeat' (first | exact Keeps.rfl' s | with_reducible assumption | intro _ | with_reducible apply partFaultEff_keeps)

theorem execBundlePageArrival_keeps {s t : State} (c : Fin 256) (page : Nat) (e : execBundlePageArrival c page s = .next t)
    : Keeps s t := by
  unfold execBundlePageArrival at e; injection e with e; subst e
  repeat' (first | exact Keeps.rfl' s | with_reducible assumption | intro _ | with_reducible apply bundlePageArrivalEff_keeps)

theorem execSwitchDone_keeps {s t : State} (n : Fin 16) (extra : Nat) (e : execSwitchDone n extra s = .next t) : Keeps s t := by
  unfold execSwitchDone at e; injection e with e; subst e
  repeat' (first | exact Keeps.rfl' s | with_reducible assumption | intro _ | with_reducible apply switchDoneEff_keeps)

theorem execMeMode_keeps {s t : State} (c : Fin 256) (e : execMeMode c s = .next t) : Keeps s t := by
  unfold execMeMode at e; injection e with e; subst e
  repeat' (first | exact Keeps.rfl' s | with_reducible assumption | intro _ | with_reducible apply meOp_keeps)

theorem execMeStream_keeps {s t : State} (c : Fin 256) (e : execMeStream c s = .next t) : Keeps s t := by
  unfold execMeStream at e; injection e with e; subst e
  repeat' (first | exact Keeps.rfl' s | with_reducible assumption | intro _ | with_reducible apply meOp_keeps)

theorem execMeLoadw_keeps {s t : State} (c : Fin 256) (e : execMeLoadw c s = .next t) : Keeps s t := by
  unfold execMeLoadw at e; injection e with e; subst e
  repeat' (first | exact Keeps.rfl' s | with_reducible assumption | intro _ | with_reducible apply meOp_keeps)

theorem execMeCbook_keeps {s t : State} (c : Fin 256) (e : execMeCbook c s = .next t) : Keeps s t := by
  unfold execMeCbook at e; injection e with e; subst e
  repeat' (first | exact Keeps.rfl' s | with_reducible assumption | intro _ | with_reducible apply meOp_keeps)

theorem execMeDrain_keeps {s t : State} (c : Fin 256) (e : execMeDrain c s = .next t) : Keeps s t := by
  unfold execMeDrain at e; injection e with e; subst e
  repeat' (first | exact Keeps.rfl' s | with_reducible assumption | intro _ | with_reducible apply meOp_keeps)

theorem execMeAttn_keeps {s t : State} (c : Fin 256) (e : execMeAttn c s = .next t) : Keeps s t := by
  unfold execMeAttn at e; injection e with e; subst e
  repeat' (first | exact Keeps.rfl' s | with_reducible assumption | intro _ | with_reducible apply meOp_keeps)

theorem execSummaryPostArrival_keeps {s t : State} (c : Fin 256) (e : execSummaryPostArrival c s = .next t) : Keeps s t := by
  unfold execSummaryPostArrival at e; injection e with e; subst e
  repeat' (first | exact Keeps.rfl' s | with_reducible assumption | intro _ | with_reducible apply summaryPostArrivalEff_keeps)

theorem execVst_keeps {s t : State} (c : Fin 256) (e : execVst c s = .next t) : Keeps s t := by
  unfold execVst at e; injection e with e; subst e
  repeat' (first | exact Keeps.rfl' s | with_reducible assumption | intro _ | with_reducible apply veOp_keeps)

theorem execVmax_keeps {s t : State} (c : Fin 256) (e : execVmax c s = .next t) : Keeps s t := by
  unfold execVmax at e; injection e with e; subst e
  repeat' (first | exact Keeps.rfl' s | with_reducible assumption | intro _ | with_reducible apply veOp_keeps)

theorem execVsetvl_keeps {s t : State} (c : Fin 256) (e : execVsetvl c s = .next t) : Keeps s t := by
  unfold execVsetvl at e; injection e with e; subst e
  repeat' (first | exact Keeps.rfl' s | with_reducible assumption | intro _ | with_reducible apply veOp_keeps)

theorem execVfn_keeps {s t : State} (c : Fin 256) (e : execVfn c s = .next t) : Keeps s t := by
  unfold execVfn at e; injection e with e; subst e
  repeat' (first | exact Keeps.rfl' s | with_reducible assumption | intro _ | with_reducible apply veOp_keeps)

theorem execVred_keeps {s t : State} (c : Fin 256) (e : execVred c s = .next t) : Keeps s t := by
  unfold execVred at e; injection e with e; subst e
  repeat' (first | exact Keeps.rfl' s | with_reducible assumption | intro _ | with_reducible apply veOp_keeps)

theorem execVmov_keeps {s t : State} (c : Fin 256) (e : execVmov c s = .next t) : Keeps s t := by
  unfold execVmov at e; injection e with e; subst e
  repeat' (first | exact Keeps.rfl' s | with_reducible assumption | intro _ | with_reducible apply veOp_keeps)

theorem execVxor_keeps {s t : State} (c : Fin 256) (e : execVxor c s = .next t) : Keeps s t := by
  unfold execVxor at e; injection e with e; subst e
  repeat' (first | exact Keeps.rfl' s | with_reducible assumption | intro _ | with_reducible apply veOp_keeps)

theorem execVtred_keeps {s t : State} (c : Fin 256) (e : execVtred c s = .next t) : Keeps s t := by
  unfold execVtred at e; injection e with e; subst e
  repeat' (first | exact Keeps.rfl' s | with_reducible assumption | intro _ | with_reducible apply veOp_keeps)

theorem execVmul_keeps {s t : State} (c : Fin 256) (e : execVmul c s = .next t) : Keeps s t := by
  unfold execVmul at e; injection e with e; subst e
  repeat' (first | exact Keeps.rfl' s | with_reducible assumption | intro _ | with_reducible apply veOp_keeps)

theorem execVflag_keeps {s t : State} (c : Fin 256) (e : execVflag c s = .next t) : Keeps s t := by
  unfold execVflag at e; injection e with e; subst e
  repeat' (first | exact Keeps.rfl' s | with_reducible assumption | intro _ | with_reducible apply vflagEff_keeps)

theorem execVtile_keeps {s t : State} (c : Fin 256) (e : execVtile c s = .next t) : Keeps s t := by
  unfold execVtile at e; injection e with e; subst e
  repeat' (first | exact Keeps.rfl' s | with_reducible assumption | intro _ | with_reducible apply veOp_keeps)

theorem execVor_keeps {s t : State} (c : Fin 256) (e : execVor c s = .next t) : Keeps s t := by
  unfold execVor at e; injection e with e; subst e
  repeat' (first | exact Keeps.rfl' s | with_reducible assumption | intro _ | with_reducible apply veOp_keeps)

theorem execVmin_keeps {s t : State} (c : Fin 256) (e : execVmin c s = .next t) : Keeps s t := by
  unfold execVmin at e; injection e with e; subst e
  repeat' (first | exact Keeps.rfl' s | with_reducible assumption | intro _ | with_reducible apply veOp_keeps)

theorem execVabs_keeps {s t : State} (c : Fin 256) (e : execVabs c s = .next t) : Keeps s t := by
  unfold execVabs at e; injection e with e; subst e
  repeat' (first | exact Keeps.rfl' s | with_reducible assumption | intro _ | with_reducible apply veOp_keeps)

theorem execVadd_keeps {s t : State} (c : Fin 256) (e : execVadd c s = .next t) : Keeps s t := by
  unfold execVadd at e; injection e with e; subst e
  repeat' (first | exact Keeps.rfl' s | with_reducible assumption | intro _ | with_reducible apply veOp_keeps)

theorem execVld_keeps {s t : State} (c : Fin 256) (e : execVld c s = .next t) : Keeps s t := by
  unfold execVld at e; injection e with e; subst e
  repeat' (first | exact Keeps.rfl' s | with_reducible assumption | intro _ | with_reducible apply veOp_keeps)

theorem execVcvt_keeps {s t : State} (c : Fin 256) (e : execVcvt c s = .next t) : Keeps s t := by
  unfold execVcvt at e; injection e with e; subst e
  repeat' (first | exact Keeps.rfl' s | with_reducible assumption | intro _ | with_reducible apply veOp_keeps)

theorem execVneg_keeps {s t : State} (c : Fin 256) (e : execVneg c s = .next t) : Keeps s t := by
  unfold execVneg at e; injection e with e; subst e
  repeat' (first | exact Keeps.rfl' s | with_reducible assumption | intro _ | with_reducible apply veOp_keeps)

theorem execVsel_keeps {s t : State} (c : Fin 256) (e : execVsel c s = .next t) : Keeps s t := by
  unfold execVsel at e; injection e with e; subst e
  repeat' (first | exact Keeps.rfl' s | with_reducible assumption | intro _ | with_reducible apply veOp_keeps)

theorem execVand_keeps {s t : State} (c : Fin 256) (e : execVand c s = .next t) : Keeps s t := by
  unfold execVand at e; injection e with e; subst e
  repeat' (first | exact Keeps.rfl' s | with_reducible assumption | intro _ | with_reducible apply veOp_keeps)

theorem execVfma_keeps {s t : State} (c : Fin 256) (e : execVfma c s = .next t) : Keeps s t := by
  unfold execVfma at e; injection e with e; subst e
  repeat' (first | exact Keeps.rfl' s | with_reducible assumption | intro _ | with_reducible apply veOp_keeps)

theorem execVcmp_keeps {s t : State} (c : Fin 256) (e : execVcmp c s = .next t) : Keeps s t := by
  unfold execVcmp at e; injection e with e; subst e
  repeat' (first | exact Keeps.rfl' s | with_reducible assumption | intro _ | with_reducible apply veOp_keeps)

theorem execVsrl_keeps {s t : State} (c : Fin 256) (e : execVsrl c s = .next t) : Keeps s t := by
  unfold execVsrl at e; injection e with e; subst e
  repeat' (first | exact Keeps.rfl' s | with_reducible assumption | intro _ | with_reducible apply veOp_keeps)

theorem execVsra_keeps {s t : State} (c : Fin 256) (e : execVsra c s = .next t) : Keeps s t := by
  unfold execVsra at e; injection e with e; subst e
  repeat' (first | exact Keeps.rfl' s | with_reducible assumption | intro _ | with_reducible apply veOp_keeps)

theorem execVrcp_keeps {s t : State} (c : Fin 256) (e : execVrcp c s = .next t) : Keeps s t := by
  unfold execVrcp at e; injection e with e; subst e
  repeat' (first | exact Keeps.rfl' s | with_reducible assumption | intro _ | with_reducible apply veOp_keeps)

theorem execVrsqrt_keeps {s t : State} (c : Fin 256) (e : execVrsqrt c s = .next t) : Keeps s t := by
  unfold execVrsqrt at e; injection e with e; subst e
  repeat' (first | exact Keeps.rfl' s | with_reducible assumption | intro _ | with_reducible apply veOp_keeps)

theorem execVpost_keeps {s t : State} (c : Fin 256) (e : execVpost c s = .next t) : Keeps s t := by
  unfold execVpost at e; injection e with e; subst e
  repeat' (first | exact Keeps.rfl' s | with_reducible assumption | intro _ | with_reducible apply veOp_keeps)

theorem execVbcast_keeps {s t : State} (c : Fin 256) (e : execVbcast c s = .next t) : Keeps s t := by
  unfold execVbcast at e; injection e with e; subst e
  repeat' (first | exact Keeps.rfl' s | with_reducible assumption | intro _ | with_reducible apply veOp_keeps)

theorem execVexpn_keeps {s t : State} (c : Fin 256) (e : execVexpn c s = .next t) : Keeps s t := by
  unfold execVexpn at e; injection e with e; subst e
  repeat' (first | exact Keeps.rfl' s | with_reducible assumption | intro _ | with_reducible apply veOp_keeps)

theorem execVsub_keeps {s t : State} (c : Fin 256) (e : execVsub c s = .next t) : Keeps s t := by
  unfold execVsub at e; injection e with e; subst e
  repeat' (first | exact Keeps.rfl' s | with_reducible assumption | intro _ | with_reducible apply veOp_keeps)

theorem execVshl_keeps {s t : State} (c : Fin 256) (e : execVshl c s = .next t) : Keeps s t := by
  unfold execVshl at e; injection e with e; subst e
  repeat' (first | exact Keeps.rfl' s | with_reducible assumption | intro _ | with_reducible apply veOp_keeps)

theorem execGpChain_keeps {s t : State} (c : Fin 256) (e : execGpChain c s = .next t) : Keeps s t := by
  unfold execGpChain at e; injection e with e; subst e
  repeat' (first | exact Keeps.rfl' s | with_reducible assumption | intro _ | with_reducible apply gpChainEff_keeps)

theorem execCcAltsel_keeps {s t : State} (c : Fin 256) (v : Word) (e : execCcAltsel c v s = .next t) : Keeps s t := by
  unfold execCcAltsel at e; injection e with e; subst e
  repeat' (first | exact Keeps.rfl' s | with_reducible assumption | intro _ | with_reducible apply ccAltselEff_keeps)

theorem execWfi_keeps {s t : State} (c : Fin 256) (e : execWfi c s = .next t) : Keeps s t := by
  unfold execWfi at e; injection e with e; subst e
  repeat' (first | exact Keeps.rfl' s | with_reducible assumption | intro _ | with_reducible apply wfiEff_keeps)

theorem execCcDefer_keeps {s t : State} (c : Fin 256) (v : Word) (e : execCcDefer c v s = .next t) : Keeps s t := by
  unfold execCcDefer at e; injection e with e; subst e
  repeat' (first | exact Keeps.rfl' s | with_reducible assumption | intro _ | with_reducible apply ccDeferEff_keeps)

theorem execSummaryHandler_keeps {s t : State} (c : Fin 256) (e : execSummaryHandler c s = .next t) : Keeps s t := by
  unfold execSummaryHandler at e; injection e with e; subst e
  repeat' (first | exact Keeps.rfl' s | with_reducible assumption | intro _ | with_reducible apply summaryHandlerEff_keeps)

theorem execCcSumPop_keeps {s t : State} (c : Fin 256) (e : execCcSumPop c s = .next t) : Keeps s t := by
  unfold execCcSumPop at e; injection e with e; subst e
  repeat' (first | exact Keeps.rfl' s | with_reducible assumption | intro _ | with_reducible apply ccSumPopEff_keeps)

theorem execCcDesc_keeps {s t : State} (c : Fin 256) (d : BitVec 512) (e : execCcDesc c d s = .next t) : Keeps s t := by
  unfold execCcDesc at e; injection e with e; subst e
  repeat' (first | exact Keeps.rfl' s | with_reducible assumption | intro _ | with_reducible apply ccDescEff_keeps)

theorem execCcException_keeps {s t : State} (c : Fin 256) (k : CcKind) (e : execCcException c k s = .next t) : Keeps s t := by
  unfold execCcException at e; injection e with e; subst e
  repeat' (first | exact Keeps.rfl' s | with_reducible assumption | intro _ | with_reducible apply ccExceptionEff_keeps)

theorem execCcBelaySame_keeps {s t : State} (c : Fin 256) (v : Word) (e : execCcBelaySame c v s = .next t) : Keeps s t := by
  unfold execCcBelaySame at e; injection e with e; subst e
  repeat' (first | exact Keeps.rfl' s | with_reducible assumption | intro _ | with_reducible apply ccBelaySameEff_keeps)

theorem execPoolInit_keeps {s t : State} (r : Requester) (n : Fin 16) (e : execPoolInit r n s = .next t) : Keeps s t := by
  unfold execPoolInit at e; injection e with e; subst e
  repeat' (first
      | exact Keeps.rfl' s | with_reducible assumption | intro _ | with_reducible apply hostWr_keeps
      | with_reducible apply poolInitEff_keeps)

theorem execKvRecomp_keeps {s t : State} (r : Requester) (n : Fin 16) (e : execKvRecomp r n s = .next t) : Keeps s t := by
  unfold execKvRecomp at e; injection e with e; subst e
  repeat' (first
      | exact Keeps.rfl' s | with_reducible assumption | intro _ | with_reducible apply kvRecompEff_keeps
      | with_reducible apply ite_keeps | dsimp only | split | fail_if_no_progress (with_reducible apply Keeps.lit))

theorem execSeqReset_keeps {s t : State} (r : Requester) (n : Fin 16) (e : execSeqReset r n s = .next t) : Keeps s t := by
  unfold execSeqReset at e; injection e with e; subst e
  repeat' (first
      | exact Keeps.rfl' s | with_reducible assumption | intro _ | with_reducible apply hostWr_keeps
      | with_reducible apply kvQueue_keeps)

theorem execSeqFork_keeps {s t : State} (r : Requester) (n : Fin 16) (e : execSeqFork r n s = .next t) : Keeps s t := by
  unfold execSeqFork at e; injection e with e; subst e
  repeat' (first
      | exact Keeps.rfl' s | with_reducible assumption | intro _ | with_reducible apply hostWr_keeps
      | with_reducible apply kvQueue_keeps)

theorem execKvInfo_keeps {s t : State} (c : Fin 256) (a0 : Word) (a1 : Word) (e : execKvInfo c a0 a1 s = .next t) : Keeps s t := by
  unfold execKvInfo at e; injection e with e; subst e
  repeat' (first | exact Keeps.rfl' s | with_reducible assumption | intro _ | with_reducible apply kvInfoEff_keeps)

theorem execSeqInit_keeps {s t : State} (r : Requester) (n : Fin 16) (e : execSeqInit r n s = .next t) : Keeps s t := by
  unfold execSeqInit at e; injection e with e; subst e
  repeat' (first
      | exact Keeps.rfl' s | with_reducible assumption | intro _ | with_reducible apply hostWr_keeps
      | with_reducible apply kvQueue_keeps)

theorem execSeqFree_keeps {s t : State} (r : Requester) (n : Fin 16) (e : execSeqFree r n s = .next t) : Keeps s t := by
  unfold execSeqFree at e; injection e with e; subst e
  repeat' (first
      | exact Keeps.rfl' s | with_reducible assumption | intro _ | with_reducible apply hostWr_keeps
      | with_reducible apply kvQueue_keeps)

theorem execKvPte_keeps {s t : State} (c : Fin 256) (a0 : Word) (a1 : Word) (e : execKvPte c a0 a1 s = .next t) : Keeps s t := by
  unfold execKvPte at e; injection e with e; subst e
  repeat' (first | exact Keeps.rfl' s | with_reducible assumption | intro _ | with_reducible apply kvPteEff_keeps)

theorem execKvReserve_keeps {s t : State} (c : Fin 256) (a0 : Word) (a1 : Word) (e : execKvReserve c a0 a1 s = .next t) : Keeps s t := by
  unfold execKvReserve at e; injection e with e; subst e
  repeat' (first | exact Keeps.rfl' s | with_reducible assumption | intro _ | with_reducible apply kvReserveEff_keeps)

theorem execHoldDrop_keeps {s t : State} (n : Fin 16) (h_ : BitVec 20) (e : execHoldDrop n h_ s = .next t) : Keeps s t := by
  unfold execHoldDrop at e; injection e with e; subst e
  repeat' (first | exact Keeps.rfl' s | with_reducible assumption | intro _ | with_reducible apply holdDropEff_keeps)

theorem execIdlePark_keeps {s t : State} (n : Fin 16) (h_ : BitVec 20) (e : execIdlePark n h_ s = .next t) : Keeps s t := by
  unfold execIdlePark at e; injection e with e; subst e
  repeat' (first | exact Keeps.rfl' s | with_reducible assumption | intro _ | with_reducible apply idleParkEff_keeps)

theorem execStrmClose_keeps {s t : State} (r : Requester) (n : Fin 16) (e : execStrmClose r n s = .next t) : Keeps s t := by
  unfold execStrmClose at e; injection e with e; subst e
  repeat' (first
      | exact Keeps.rfl' s | with_reducible assumption | intro _ | with_reducible apply hostWr_keeps
      | with_reducible apply closeEff_keeps)

theorem execStrmSetcfg_keeps {s t : State} (r : Requester) (n : Fin 16) (e : execStrmSetcfg r n s = .next t) : Keeps s t := by
  unfold execStrmSetcfg at e; injection e with e; subst e
  repeat' (first
      | exact Keeps.rfl' s | with_reducible assumption | intro _ | with_reducible apply hostWr_keeps
      | with_reducible apply setcfgEff_keeps)

theorem execStrmImport_keeps {s t : State} (r : Requester) (n : Fin 16) (e : execStrmImport r n s = .next t) : Keeps s t := by
  unfold execStrmImport at e; injection e with e; subst e
  repeat' (first
      | exact Keeps.rfl' s | with_reducible assumption | intro _ | with_reducible apply hostWr_keeps
      | with_reducible apply importEff_keeps)

theorem execStrmPark_keeps {s t : State} (r : Requester) (n : Fin 16) (e : execStrmPark r n s = .next t) : Keeps s t := by
  unfold execStrmPark at e; injection e with e; subst e
  repeat' (first
      | exact Keeps.rfl' s | with_reducible assumption | intro _ | with_reducible apply hostWr_keeps
      | with_reducible apply parkEff_keeps)

theorem execStrmQuery_keeps {s t : State} (r : Requester) (n : Fin 16) (e : execStrmQuery r n s = .next t) : Keeps s t := by
  unfold execStrmQuery at e; injection e with e; subst e
  repeat' (first
      | exact Keeps.rfl' s | with_reducible assumption | intro _ | with_reducible apply hostWr_keeps
      | with_reducible apply queryEff_keeps)

theorem execImportDone_keeps {s t : State} (h_ : BitVec 20) (e : execImportDone h_ s = .next t) : Keeps s t := by
  unfold execImportDone at e; injection e with e; subst e
  repeat' (first | exact Keeps.rfl' s | with_reducible assumption | intro _ | with_reducible apply importDoneEff_keeps)

theorem execExportDone_keeps {s t : State} (h_ : BitVec 20) (e : execExportDone h_ s = .next t) : Keeps s t := by
  unfold execExportDone at e; injection e with e; subst e
  repeat' (first | exact Keeps.rfl' s | with_reducible assumption | intro _ | with_reducible apply exportDoneEff_keeps)

theorem execBivouacReadDone_keeps {s t : State} (h_ : BitVec 20) (e : execBivouacReadDone h_ s = .next t) : Keeps s t := by
  unfold execBivouacReadDone at e; injection e with e; subst e
  repeat' (first | exact Keeps.rfl' s | with_reducible assumption | intro _ | with_reducible apply bivouacReadDoneEff_keeps)

theorem execStrmUnpark_keeps {s t : State} (r : Requester) (n : Fin 16) (e : execStrmUnpark r n s = .next t) : Keeps s t := by
  unfold execStrmUnpark at e; injection e with e; subst e
  repeat' (first
      | exact Keeps.rfl' s | with_reducible assumption | intro _ | with_reducible apply hostWr_keeps
      | with_reducible apply unparkEff_keeps)

theorem execStrmExport_keeps {s t : State} (r : Requester) (n : Fin 16) (e : execStrmExport r n s = .next t) : Keeps s t := by
  unfold execStrmExport at e; injection e with e; subst e
  repeat' (first
      | exact Keeps.rfl' s | with_reducible assumption | intro _ | with_reducible apply hostWr_keeps
      | with_reducible apply exportEff_keeps)

theorem execStrmOpen_keeps {s t : State} (r : Requester) (n : Fin 16) (e : execStrmOpen r n s = .next t) : Keeps s t := by
  unfold execStrmOpen at e; injection e with e; subst e
  repeat' (first
      | exact Keeps.rfl' s | with_reducible assumption | intro _ | with_reducible apply hostWr_keeps
      | with_reducible apply openEff_keeps)

theorem execBivouacWriteDone_keeps {s t : State} (h_ : BitVec 20) (e : execBivouacWriteDone h_ s = .next t) : Keeps s t := by
  unfold execBivouacWriteDone at e; injection e with e; subst e
  repeat' (first | exact Keeps.rfl' s | with_reducible assumption | intro _ | with_reducible apply bivouacWriteDoneEff_keeps)

theorem execLoad_keeps {s t : State} (r : Requester) (n : Fin 16) (j : Fin 16) (e : execLoad r n j s = .next t) : Keeps s t := by
  unfold execLoad at e; injection e with e; subst e
  repeat' (first
      | exact Keeps.rfl' s | with_reducible assumption | intro _ | with_reducible apply hostWr_keeps
      | with_reducible apply loadStart_keeps)

theorem execUnload_keeps {s t : State} (r : Requester) (n : Fin 16) (j : Fin 16) (e : execUnload r n j s = .next t) : Keeps s t := by
  unfold execUnload at e; injection e with e; subst e
  repeat' (first
      | exact Keeps.rfl' s | with_reducible assumption | intro _ | with_reducible apply hostWr_keeps
      | with_reducible apply loadStart_keeps)

theorem execUnloadDone_keeps {s t : State} (n : Fin 16) (e : execUnloadDone n s = .next t) : Keeps s t := by
  unfold execUnloadDone at e; injection e with e; subst e
  repeat' (first | exact Keeps.rfl' s | with_reducible assumption | intro _ | with_reducible apply unloadDoneEff_keeps)

theorem execLoadDone_keeps {s t : State} (n : Fin 16) (e : execLoadDone n s = .next t) : Keeps s t := by
  unfold execLoadDone at e; injection e with e; subst e
  repeat' (first | exact Keeps.rfl' s | with_reducible assumption | intro _ | with_reducible apply loadDoneEff_keeps)

theorem execStart_keeps {s t : State} (n : Fin 16) (e : execStart n s = .next t) : Keeps s t := by
  unfold execStart at e; injection e with e; subst e
  repeat' (first
      | exact Keeps.rfl' s | with_reducible assumption | intro _ | with_reducible apply pfDo_keeps
      | with_reducible apply startEff_keeps)

theorem execConfigure_keeps {s t : State} (n : Fin 16) (e : execConfigure n s = .next t) : Keeps s t := by
  unfold execConfigure at e; injection e with e; subst e
  repeat' (first
      | exact Keeps.rfl' s | with_reducible assumption | intro _ | with_reducible apply cmdReject_keeps
      | with_reducible apply pfDo_keeps | with_reducible apply configureEff_keeps | with_reducible apply ite_keeps)

theorem execTblEntryLoWrite_keeps {s t : State} (n : Fin 16) (shadow : Bool) (e_ : Fin 64) (v : Word)
    (e : execTblEntryLoWrite n shadow e_ v s = .next t) : Keeps s t := by
  unfold execTblEntryLoWrite at e; injection e with e; subst e
  repeat' (first
      | exact Keeps.rfl' s | with_reducible assumption | intro _ | with_reducible apply pfDo_keeps
      | with_reducible apply tblLoEff_keeps)

theorem execPartCfgWrite_keeps {s t : State} (n : Fin 16) (w : Fin 9) (v : Word) (e : execPartCfgWrite n w v s = .next t)
    : Keeps s t := by
  unfold execPartCfgWrite at e; injection e with e; subst e
  repeat' (first
      | exact Keeps.rfl' s | with_reducible assumption | intro _ | with_reducible apply pfDo_keeps
      | with_reducible apply partCfgWriteEff_keeps)

theorem execTblEntryHiWrite_keeps {s t : State} (n : Fin 16) (shadow : Bool) (e_ : Fin 64) (v : Word)
    (e : execTblEntryHiWrite n shadow e_ v s = .next t) : Keeps s t := by
  unfold execTblEntryHiWrite at e; injection e with e; subst e
  repeat' (first
      | exact Keeps.rfl' s | with_reducible assumption | intro _ | with_reducible apply pfDo_keeps
      | with_reducible apply tblHiEff_keeps)

theorem execMaint_keeps {s t : State} (n : Fin 16) (e : execMaint n s = .next t) : Keeps s t := by
  unfold execMaint at e; injection e with e; subst e
  repeat' (first
      | exact Keeps.rfl' s | with_reducible assumption | intro _ | with_reducible apply pfDo_keeps
      | with_reducible apply maintEff_keeps)

theorem execResume_keeps {s t : State} (n : Fin 16) (e : execResume n s = .next t) : Keeps s t := by
  unfold execResume at e; injection e with e; subst e
  repeat' (first
      | exact Keeps.rfl' s | with_reducible assumption | intro _ | with_reducible apply pfDo_keeps
      | with_reducible apply resumeEff_keeps)

theorem execRearm_keeps {s t : State} (n : Fin 16) (j : Fin 16) (e : execRearm n j s = .next t) : Keeps s t := by
  unfold execRearm at e; injection e with e; subst e
  repeat' (first
      | exact Keeps.rfl' s | with_reducible assumption | intro _ | with_reducible apply pfDo_keeps
      | with_reducible apply rearmEff_keeps)

theorem execTblSwap_keeps {s t : State} (n : Fin 16) (e : execTblSwap n s = .next t) : Keeps s t := by
  unfold execTblSwap at e; injection e with e; subst e
  repeat' (first
      | exact Keeps.rfl' s | with_reducible assumption | intro _ | with_reducible apply pfDo_keeps
      | with_reducible apply tblSwapEff_keeps)

theorem execStop_keeps {s t : State} (n : Fin 16) (e : execStop n s = .next t) : Keeps s t := by
  unfold execStop at e; injection e with e; subst e
  repeat' (first
      | exact Keeps.rfl' s | with_reducible assumption | intro _ | with_reducible apply pfDo_keeps
      | with_reducible apply stopEff_keeps)

theorem execCommit_keeps {s t : State} (n : Fin 16) (e : execCommit n s = .next t) : Keeps s t := by
  unfold execCommit at e; injection e with e; subst e
  repeat' (first
      | exact Keeps.rfl' s | with_reducible assumption | intro _ | with_reducible apply pfDo_keeps
      | with_reducible apply commitEff_keeps)

theorem execTeardown_keeps {s t : State} (n : Fin 16) (e : execTeardown n s = .next t) : Keeps s t := by
  unfold execTeardown at e; injection e with e; subst e
  repeat' (first
      | exact Keeps.rfl' s | with_reducible assumption | intro _ | with_reducible apply pfDo_keeps
      | with_reducible apply teardownEff_keeps)

theorem execReconfig_keeps {s t : State} (n : Fin 16) (e : execReconfig n s = .next t) : Keeps s t := by
  unfold execReconfig at e; injection e with e; subst e
  repeat' (first
      | exact Keeps.rfl' s | with_reducible assumption | intro _ | with_reducible apply pfDo_keeps
      | with_reducible apply reconfigEff_keeps)

theorem execExpUnregister_keeps {s t : State} (r : Requester) (n : Fin 16) (v : Word) (e : execExpUnregister r n v s = .next t)
    : Keeps s t := by
  unfold execExpUnregister at e; injection e with e; subst e
  repeat' (first
      | exact Keeps.rfl' s | with_reducible assumption | intro _ | with_reducible apply hostWr_keeps
      | with_reducible apply expUnregisterEff_keeps)

theorem execExpReadStart_keeps {s t : State} (c : Fin 256) (e : execExpReadStart c s = .next t) : Keeps s t := by
  unfold execExpReadStart at e; injection e with e; subst e
  repeat' (first | exact Keeps.rfl' s | with_reducible assumption | intro _ | with_reducible apply expReadStartEff_keeps)

theorem execExpBlockDone_keeps {s t : State} (w : ExpWho) (e : execExpBlockDone w s = .next t) : Keeps s t := by
  unfold execExpBlockDone at e; injection e with e; subst e
  repeat' (first | exact Keeps.rfl' s | with_reducible assumption | intro _ | with_reducible apply expBlockDoneEff_keeps)

theorem execExp16StagingDone_keeps {s t : State} (n : Fin 16) (e : execExp16StagingDone n s = .next t) : Keeps s t := by
  unfold execExp16StagingDone at e; injection e with e; subst e
  repeat' (first | exact Keeps.rfl' s | with_reducible assumption | intro _ | with_reducible apply stagingDoneEff_keeps)

theorem execExpRegister_keeps {s t : State} (r : Requester) (n : Fin 16) (v : Word) (e : execExpRegister r n v s = .next t)
    : Keeps s t := by
  unfold execExpRegister at e; injection e with e; subst e
  repeat' (first
      | exact Keeps.rfl' s | with_reducible assumption | intro _ | with_reducible apply hostWr_keeps
      | with_reducible apply expRegisterEff_keeps)

theorem execExpLoad_keeps {s t : State} (r : Requester) (n : Fin 16) (v : Word) (e : execExpLoad r n v s = .next t) : Keeps s t := by
  unfold execExpLoad at e; injection e with e; subst e
  repeat' (first
      | exact Keeps.rfl' s | with_reducible assumption | intro _ | with_reducible apply hostWr_keeps
      | with_reducible apply expLoadEff_keeps)

theorem execCcExpCmd_keeps {s t : State} (c : Fin 256) (sel : Word) (dst : Word) (ring : Word)
    (e : execCcExpCmd c sel dst ring s = .next t) : Keeps s t := by
  unfold execCcExpCmd at e; injection e with e; subst e
  repeat' (first | exact Keeps.rfl' s | with_reducible assumption | intro _ | with_reducible apply ccExpCmdEff_keeps)

theorem execIngPi_keeps {s t : State} (r : Requester) (n : Fin 16) (v : Word) (e : execIngPi r n v s = .next t) : Keeps s t := by
  unfold execIngPi at e; injection e with e; subst e
  repeat' (first
      | exact Keeps.rfl' s | with_reducible assumption | intro _ | with_reducible apply hostWr_keeps
      | with_reducible apply ingPiEff_keeps)

theorem execIngestRecord_keeps {s t : State} (n : Fin 16) (rec : Option (List Byte)) (e : execIngestRecord n rec s = .next t)
    : Keeps s t := by
  unfold execIngestRecord at e; injection e with e; subst e
  repeat' (first | exact Keeps.rfl' s | with_reducible assumption | intro _ | with_reducible apply ingestRecordEff_keeps)

theorem execGroupChunkRelease_keeps {s t : State} (n : Fin 16) (h_ : BitVec 20) (e : execGroupChunkRelease n h_ s = .next t)
    : Keeps s t := by
  unfold execGroupChunkRelease at e; injection e with e; subst e
  repeat' (first | exact Keeps.rfl' s | with_reducible assumption | intro _ | with_reducible apply groupChunkReleaseEff_keeps)

theorem execEmCi_keeps {s t : State} (r : Requester) (n : Fin 16) (v : Word) (e : execEmCi r n v s = .next t) : Keeps s t := by
  unfold execEmCi at e; injection e with e; subst e
  repeat' (first
      | exact Keeps.rfl' s | with_reducible assumption | intro _ | with_reducible apply hostWr_keeps
      | with_reducible apply emCiEff_keeps)

theorem execProfFetch_keeps {s t : State} (r : Requester) (n : Fin 16) (e : execProfFetch r n s = .next t) : Keeps s t := by
  unfold execProfFetch at e; injection e with e; subst e
  repeat' (first
      | exact Keeps.rfl' s | with_reducible assumption | intro _ | with_reducible apply hostWr_keeps
      | with_reducible apply profFetchEff_keeps)

theorem execFeChunkDone_keeps {s t : State} (n : Fin 16) (h_ : BitVec 20) (e : execFeChunkDone n h_ s = .next t) : Keeps s t := by
  unfold execFeChunkDone at e; injection e with e; subst e
  repeat' (first | exact Keeps.rfl' s | with_reducible assumption | intro _ | with_reducible apply feChunkDoneEff_keeps)

theorem execProfCommit_keeps {s t : State} (r : Requester) (n : Fin 16) (e : execProfCommit r n s = .next t) : Keeps s t := by
  unfold execProfCommit at e; injection e with e; subst e
  repeat' (first
      | exact Keeps.rfl' s | with_reducible assumption | intro _ | with_reducible apply hostWr_keeps
      | with_reducible apply profCommitEff_keeps)

theorem execEmissionRingWrite_keeps {s t : State} (n : Fin 16) (lost : Nat) (e : execEmissionRingWrite n lost s = .next t)
    : Keeps s t := by
  unfold execEmissionRingWrite at e; injection e with e; subst e
  repeat' (first | exact Keeps.rfl' s | with_reducible assumption | intro _ | with_reducible apply emissionRingWriteEff_keeps)

theorem execNonaudioEnd_keeps {s t : State} (p : Fin 16) (e : execNonaudioEnd p s = .next t) : Keeps s t := by
  unfold execNonaudioEnd at e; injection e with e; subst e
  repeat' (first | exact Keeps.rfl' s | with_reducible assumption | intro _ | with_reducible apply nonaudioEndEff_keeps)

theorem execPortFrame_keeps {s t : State} (p : Fin 16) (f : FrameIn) (e : execPortFrame p f s = .next t) : Keeps s t := by
  unfold execPortFrame at e; injection e with e; subst e
  repeat' (first | exact Keeps.rfl' s | with_reducible assumption | intro _ | with_reducible apply portFrameEff_keeps)

theorem execPortCfg_keeps {s t : State} (p : Fin 16) (v : Word) (e : execPortCfg p v s = .next t) : Keeps s t := by
  unfold execPortCfg at e; injection e with e; subst e
  repeat' (first
      | exact Keeps.rfl' s | with_reducible assumption | intro _ | with_reducible apply pfDo_keeps
      | with_reducible apply portCfgEff_keeps)

theorem execOutPi_keeps {s t : State} (p : Fin 16) (v : Word) (e : execOutPi p v s = .next t) : Keeps s t := by
  unfold execOutPi at e; injection e with e; subst e
  repeat' (first
      | exact Keeps.rfl' s | with_reducible assumption | intro _ | with_reducible apply pfDo_keeps
      | with_reducible apply outPiEff_keeps)

theorem execZcTmo_keeps {s t : State} (p : Fin 16) (v : Word) (e : execZcTmo p v s = .next t) : Keeps s t := by
  unfold execZcTmo at e; injection e with e; subst e
  repeat' (first
      | exact Keeps.rfl' s | with_reducible assumption | intro _ | with_reducible apply pfDo_keeps
      | with_reducible apply zcTmoEff_keeps)

theorem execChCtrl_keeps {s t : State} (p : Fin 16) (ch : Fin 32) (v : Word) (e : execChCtrl p ch v s = .next t) : Keeps s t := by
  unfold execChCtrl at e; injection e with e; subst e
  repeat' (first
      | exact Keeps.rfl' s | with_reducible assumption | intro _ | with_reducible apply pfDo_keeps
      | with_reducible apply chCtrlEff_keeps)

theorem execPortMasterFrame_keeps {s t : State} (p : Fin 16) (slots : List Word) (e : execPortMasterFrame p slots s = .next t)
    : Keeps s t := by
  unfold execPortMasterFrame at e; injection e with e; subst e
  repeat' (first | exact Keeps.rfl' s | with_reducible assumption | intro _ | with_reducible apply portMasterFrameEff_keeps)

theorem execPortFrameTimeout_keeps {s t : State} (p : Fin 16) (e : execPortFrameTimeout p s = .next t) : Keeps s t := by
  unfold execPortFrameTimeout at e; injection e with e; subst e
  repeat' (first | exact Keeps.rfl' s | with_reducible assumption | intro _ | with_reducible apply portFrameTimeoutEff_keeps)

theorem execZcTimeout_keeps {s t : State} (p : Fin 16) (ch : Fin 32) (e : execZcTimeout p ch s = .next t) : Keeps s t := by
  unfold execZcTimeout at e; injection e with e; subst e
  repeat' (first | exact Keeps.rfl' s | with_reducible assumption | intro _ | with_reducible apply zcTimeoutEff_keeps)

theorem execSpUeCntClear_keeps {s t : State} (r : Requester) (c : Fin 256) (e : execSpUeCntClear r c s = .next t) : Keeps s t := by
  unfold execSpUeCntClear at e; injection e with e; subst e
  repeat' (first
      | exact Keeps.rfl' s | with_reducible assumption | intro _ | with_reducible apply hostWr_keeps
      | with_reducible apply spUeCntClearEff_keeps)

theorem execTagTimeout_keeps {s t : State} (w : TmoOf) (e : execTagTimeout w s = .next t) : Keeps s t := by
  unfold execTagTimeout at e; injection e with e; subst e
  repeat' (first | exact Keeps.rfl' s | with_reducible assumption | intro _ | with_reducible apply tagTimeoutEff_keeps)

theorem execTagTmo_keeps {s t : State} (n : Fin 16) (v : Word) (e : execTagTmo n v s = .next t) : Keeps s t := by
  unfold execTagTmo at e; injection e with e; subst e
  repeat' (first
      | exact Keeps.rfl' s | with_reducible assumption | intro _ | with_reducible apply pfDo_keeps
      | with_reducible apply tagTmoEff_keeps)

theorem execSummitFlush_keeps {s t : State} (e : execSummitFlush s = .next t) : Keeps s t := by
  unfold execSummitFlush at e; injection e with e; subst e
  repeat' (first | exact Keeps.rfl' s | with_reducible assumption | intro _ | with_reducible apply summitFlushEff_keeps)

theorem execPolicySet_keeps {s t : State} (session : Nat) (slot : Fin 16) (shield : Bool) (reqTdi : Bool)
    (e : execPolicySet session slot shield reqTdi s = .next t) : Keeps s t := by
  unfold execPolicySet at e; injection e with e; subst e
  repeat' (first | exact Keeps.rfl' s | with_reducible assumption | intro _ | with_reducible apply policySetEff_keeps)

theorem execPtySteadyAck_keeps {s t : State} (r : Requester) (p : Fin 16) (v : Word) (e : execPtySteadyAck r p v s = .next t)
    : Keeps s t := by
  unfold execPtySteadyAck at e; injection e with e; subst e
  repeat' (first
      | exact Keeps.rfl' s | with_reducible assumption | intro _ | with_reducible apply hostWr_keeps
      | with_reducible apply ptySteadyAckEff_keeps)

theorem execKeySet_keeps {s t : State} (session : Nat) (slot : Fin 16) (id : DWord) (key : List Byte)
    (e : execKeySet session slot id key s = .next t) : Keeps s t := by
  unfold execKeySet at e; injection e with e; subst e
  repeat' (first | exact Keeps.rfl' s | with_reducible assumption | intro _ | with_reducible apply keySetEff_keeps)

theorem execKeyEraseComplete_keeps {s t : State} (slot : Fin 16) (e : execKeyEraseComplete slot s = .next t) : Keeps s t := by
  unfold execKeyEraseComplete at e; injection e with e; subst e
  repeat' (first | exact Keeps.rfl' s | with_reducible assumption | intro _ | with_reducible apply keyEraseCompleteEff_keeps)

theorem execKeyDropOld_keeps {s t : State} (session : Nat) (slot : Fin 16) (e : execKeyDropOld session slot s = .next t) : Keeps s t := by
  unfold execKeyDropOld at e; injection e with e; subst e
  repeat' (first | exact Keeps.rfl' s | with_reducible assumption | intro _ | with_reducible apply keyDropOldEff_keeps)

theorem execKeyRotate_keeps {s t : State} (session : Nat) (slot : Fin 16) (id : DWord) (key : List Byte)
    (e : execKeyRotate session slot id key s = .next t) : Keeps s t := by
  unfold execKeyRotate at e; injection e with e; subst e
  repeat' (first | exact Keeps.rfl' s | with_reducible assumption | intro _ | with_reducible apply keyRotateEff_keeps)

theorem execSteadySet_keeps {s t : State} (session : Nat) (slot : Fin 16) (budgets : List DWord) (emit : Nat) (pavg : Nat)
    (e : execSteadySet session slot budgets emit pavg s = .next t) : Keeps s t := by
  unfold execSteadySet at e; injection e with e; subst e
  repeat' (first | exact Keeps.rfl' s | with_reducible assumption | intro _ | with_reducible apply steadySetEff_keeps)

theorem execSteadyClear_keeps {s t : State} (session : Nat) (slot : Fin 16) (e : execSteadyClear session slot s = .next t)
    : Keeps s t := by
  unfold execSteadyClear at e; injection e with e; subst e
  repeat' (first | exact Keeps.rfl' s | with_reducible assumption | intro _ | with_reducible apply steadyClearEff_keeps)

theorem execKeyErase_keeps {s t : State} (session : Nat) (slot : Fin 16) (e : execKeyErase session slot s = .next t) : Keeps s t := by
  unfold execKeyErase at e; injection e with e; subst e
  repeat' (first | exact Keeps.rfl' s | with_reducible assumption | intro _ | with_reducible apply keyEraseEff_keeps)

theorem execStartInterface_keeps {s t : State} (k : Fin 16) (i : Nat) (e : execStartInterface k i s = .next t) : Keeps s t := by
  unfold execStartInterface at e; injection e with e; subst e
  repeat' (first | exact Keeps.rfl' s | with_reducible assumption | intro _ | with_reducible apply startInterfaceEff_keeps)

theorem execKSetGo_keeps {s t : State} (e_ : Endpoint) (i : Nat) (k : Fin 18) (set : Bool) (e : execKSetGo e_ i k set s = .next t)
    : Keeps s t := by
  unfold execKSetGo at e; injection e with e; subst e
  repeat' (first | exact Keeps.rfl' s | with_reducible assumption | intro _ | with_reducible apply kSetGoEff_keeps)

theorem execKeyExchange_keeps {s t : State} (e_ : Endpoint) (h_ : List Byte) (e : execKeyExchange e_ h_ s = .next t) : Keeps s t := by
  unfold execKeyExchange at e; injection e with e; subst e
  repeat' (first | exact Keeps.rfl' s | with_reducible assumption | intro _ | with_reducible apply keyExchangeEff_keeps)

theorem execLockInterface_keeps {s t : State} (k : Fin 16) (i : Nat) (e : execLockInterface k i s = .next t) : Keeps s t := by
  unfold execLockInterface at e; injection e with e; subst e
  repeat' (first | exact Keeps.rfl' s | with_reducible assumption | intro _ | with_reducible apply lockInterfaceEff_keeps)

theorem execChallenge_keeps {s t : State} (e_ : Endpoint) (nonce : List Byte) (e : execChallenge e_ nonce s = .next t) : Keeps s t := by
  unfold execChallenge at e; injection e with e; subst e
  repeat' (first | exact Keeps.rfl' s | with_reducible assumption | intro _ | with_reducible apply challengeEff_keeps)

theorem execSpdmHeartbeat_keeps {s t : State} (e_ : Endpoint) (i : Nat) (e : execSpdmHeartbeat e_ i s = .next t) : Keeps s t := by
  unfold execSpdmHeartbeat at e; injection e with e; subst e
  repeat' (first | exact Keeps.rfl' s | with_reducible assumption | intro _ | with_reducible apply spdmHeartbeatEff_keeps)

theorem execStopInterface_keeps {s t : State} (k : Fin 16) (i : Nat) (e : execStopInterface k i s = .next t) : Keeps s t := by
  unfold execStopInterface at e; injection e with e; subst e
  repeat' (first | exact Keeps.rfl' s | with_reducible assumption | intro _ | with_reducible apply stopInterfaceEff_keeps)

theorem execFinish_keeps {s t : State} (e_ : Endpoint) (i : Nat) (auth : Bool) (e : execFinish e_ i auth s = .next t) : Keeps s t := by
  unfold execFinish at e; injection e with e; subst e
  repeat' (first | exact Keeps.rfl' s | with_reducible assumption | intro _ | with_reducible apply finishEff_keeps)

theorem execEndSession_keeps {s t : State} (e_ : Endpoint) (i : Nat) (e : execEndSession e_ i s = .next t) : Keeps s t := by
  unfold execEndSession at e; injection e with e; subst e
  repeat' (first | exact Keeps.rfl' s | with_reducible assumption | intro _ | with_reducible apply endSessionEff_keeps)

theorem execGetDigests_keeps {s t : State} (e_ : Endpoint) (e : execGetDigests e_ s = .next t) : Keeps s t := by
  unfold execGetDigests at e; injection e with e; subst e
  repeat' (first | exact Keeps.rfl' s | with_reducible assumption | intro _ | with_reducible apply getDigestsEff_keeps)

theorem execGetCertificate_keeps {s t : State} (e_ : Endpoint) (e : execGetCertificate e_ s = .next t) : Keeps s t := by
  unfold execGetCertificate at e; injection e with e; subst e
  repeat' (first | exact Keeps.rfl' s | with_reducible assumption | intro _ | with_reducible apply getCertificateEff_keeps)

theorem execSpdmSummitRead_keeps {s t : State} (e_ : Endpoint) (first : Nat) (e : execSpdmSummitRead e_ first s = .next t)
    : Keeps s t := by
  unfold execSpdmSummitRead at e; injection e with e; subst e
  repeat' (first | exact Keeps.rfl' s | with_reducible assumption | intro _ | with_reducible apply spdmSummitReadEff_keeps)

theorem execGetCapabilities_keeps {s t : State} (e_ : Endpoint) (e : execGetCapabilities e_ s = .next t) : Keeps s t := by
  unfold execGetCapabilities at e; injection e with e; subst e
  repeat' (first | exact Keeps.rfl' s | with_reducible assumption | intro _ | with_reducible apply getCapabilitiesEff_keeps)

theorem execKeyUpdate_keeps {s t : State} (e_ : Endpoint) (i : Nat) (e : execKeyUpdate e_ i s = .next t) : Keeps s t := by
  unfold execKeyUpdate at e; injection e with e; subst e
  repeat' (first | exact Keeps.rfl' s | with_reducible assumption | intro _ | with_reducible apply keyUpdateEff_keeps)

theorem execIdeKm_keeps {s t : State} (e_ : Endpoint) (i : Nat) (k : Fin 18) (set : Bool) (key : List Byte)
    (e : execIdeKm e_ i k set key s = .next t) : Keeps s t := by
  unfold execIdeKm at e; injection e with e; subst e
  repeat' (first | exact Keeps.rfl' s | with_reducible assumption | intro _ | with_reducible apply ideKmEff_keeps)

theorem execGetMeasurements_keeps {s t : State} (e_ : Endpoint) (block : Nat) (nonce : List Byte)
    (e : execGetMeasurements e_ block nonce s = .next t) : Keeps s t := by
  unfold execGetMeasurements at e; injection e with e; subst e
  repeat' (first | exact Keeps.rfl' s | with_reducible assumption | intro _ | with_reducible apply getMeasurementsEff_keeps)

theorem execGetVersion_keeps {s t : State} (e_ : Endpoint) (e : execGetVersion e_ s = .next t) : Keeps s t := by
  unfold execGetVersion at e; injection e with e; subst e
  repeat' (first | exact Keeps.rfl' s | with_reducible assumption | intro _ | with_reducible apply getVersionEff_keeps)

theorem execNegotiateAlgorithms_keeps {s t : State} (e_ : Endpoint) (e : execNegotiateAlgorithms e_ s = .next t) : Keeps s t := by
  unfold execNegotiateAlgorithms at e; injection e with e; subst e
  repeat' (first | exact Keeps.rfl' s | with_reducible assumption | intro _ | with_reducible apply negotiateAlgorithmsEff_keeps)

theorem execCollTmo_keeps {s t : State} (n : Fin 16) (v : Word) (e : execCollTmo n v s = .next t) : Keeps s t := by
  unfold execCollTmo at e; injection e with e; subst e
  repeat' (first
      | exact Keeps.rfl' s | with_reducible assumption | intro _ | with_reducible apply pfDo_keeps
      | with_reducible apply collTmoEff_keeps)

theorem execNocCopyDone_keeps {s t : State} (core : Fin 4096) (e : execNocCopyDone core s = .next t) : Keeps s t := by
  unfold execNocCopyDone at e; injection e with e; subst e
  repeat' (first | exact Keeps.rfl' s | with_reducible assumption | intro _ | with_reducible apply nocCopyDoneEff_keeps)

theorem execLkSend_keeps {s t : State} (c : Fin 256) (e : execLkSend c s = .next t) : Keeps s t := by
  unfold execLkSend at e; injection e with e; subst e
  repeat' (first | exact Keeps.rfl' s | with_reducible assumption | intro _ | with_reducible apply lkSendEff_keeps)

theorem execLkColl_keeps {s t : State} (c : Fin 256) (e : execLkColl c s = .next t) : Keeps s t := by
  unfold execLkColl at e; injection e with e; subst e
  repeat' (first | exact Keeps.rfl' s | with_reducible assumption | intro _ | with_reducible apply lkCollEff_keeps)

theorem execCollTimeout_keeps {s t : State} (c : Fin 256) (e : execCollTimeout c s = .next t) : Keeps s t := by
  unfold execCollTimeout at e; injection e with e; subst e
  repeat' (first | exact Keeps.rfl' s | with_reducible assumption | intro _ | with_reducible apply collTimeoutEff_keeps)

theorem execWarmPromotion_keeps {s t : State} (n : Fin 16) (e : execWarmPromotion n s = .next t) : Keeps s t := by
  unfold execWarmPromotion at e; injection e with e; subst e
  repeat' (first | exact Keeps.rfl' s | with_reducible assumption | intro _ | with_reducible apply warmPromotionEff_keeps)

theorem execBhbTimeout_keeps {s t : State} (n : Fin 16) (e : execBhbTimeout n s = .next t) : Keeps s t := by
  unfold execBhbTimeout at e; injection e with e; subst e
  repeat' (first | exact Keeps.rfl' s | with_reducible assumption | intro _ | with_reducible apply bhbTimeoutEff_keeps)

theorem execPromote_keeps {s t : State} (n : Fin 16) (e : execPromote n s = .next t) : Keeps s t := by
  unfold execPromote at e; injection e with e; subst e
  repeat' (first
      | exact Keeps.rfl' s | with_reducible assumption | intro _ | with_reducible apply pfDo_keeps
      | with_reducible apply promoteEff_keeps)

theorem execHotPromotion_keeps {s t : State} (n : Fin 16) (e : execHotPromotion n s = .next t) : Keeps s t := by
  unfold execHotPromotion at e; injection e with e; subst e
  repeat' (first | exact Keeps.rfl' s | with_reducible assumption | intro _ | with_reducible apply hotPromotionEff_keeps)

theorem execClear_keeps {s t : State} (n : Fin 16) (e : execClear n s = .next t) : Keeps s t := by
  unfold execClear at e; injection e with e; subst e
  repeat' (first
      | exact Keeps.rfl' s | with_reducible assumption | intro _ | with_reducible apply pfDo_keeps
      | with_reducible apply clearEff_keeps)

theorem execBhbSend_keeps {s t : State} (n : Fin 16) (e : execBhbSend n s = .next t) : Keeps s t := by
  unfold execBhbSend at e; injection e with e; subst e
  repeat' (first | exact Keeps.rfl' s | with_reducible assumption | intro _ | with_reducible apply bhbSendEff_keeps)

theorem execAttestDone_keeps {s t : State} (p : Fin 20) (r : AttestResult) (e : execAttestDone p r s = .next t) : Keeps s t := by
  unfold execAttestDone at e; injection e with e; subst e
  repeat' (first | exact Keeps.rfl' s | with_reducible assumption | intro _ | with_reducible apply attestDoneEff_keeps)

theorem execLinkRetry_keeps {s t : State} (p : Fin 20) (e : execLinkRetry p s = .next t) : Keeps s t := by
  unfold execLinkRetry at e; injection e with e; subst e
  repeat' (first | exact Keeps.rfl' s | with_reducible assumption | intro _ | with_reducible apply linkRetryEff_keeps)

theorem execTrainingTimeout_keeps {s t : State} (p : Fin 20) (e : execTrainingTimeout p s = .next t) : Keeps s t := by
  unfold execTrainingTimeout at e; injection e with e; subst e
  repeat' (first | exact Keeps.rfl' s | with_reducible assumption | intro _ | with_reducible apply trainingTimeoutEff_keeps)

theorem execLkCtrl_keeps {s t : State} (p : Fin 20) (v : Word) (e : execLkCtrl p v s = .next t) : Keeps s t := by
  unfold execLkCtrl at e; injection e with e; subst e
  repeat' (first
      | exact Keeps.rfl' s | with_reducible assumption | intro _ | with_reducible apply pfDo_keeps
      | with_reducible apply lkCtrlEff_keeps)

theorem execAttestTimeout_keeps {s t : State} (p : Fin 20) (e : execAttestTimeout p s = .next t) : Keeps s t := by
  unfold execAttestTimeout at e; injection e with e; subst e
  repeat' (first | exact Keeps.rfl' s | with_reducible assumption | intro _ | with_reducible apply attestTimeoutEff_keeps)

theorem execMgmt_keeps {s t : State} (p : Fin 20) (f : Flit) (e : execMgmt p f s = .next t) : Keeps s t := by
  unfold execMgmt at e; injection e with e; subst e
  repeat' (first | exact Keeps.rfl' s | with_reducible assumption | intro _ | with_reducible apply flitEff_keeps)

theorem execBhb_keeps {s t : State} (p : Fin 20) (f : Flit) (e : execBhb p f s = .next t) : Keeps s t := by
  unfold execBhb at e; injection e with e; subst e
  repeat' (first | exact Keeps.rfl' s | with_reducible assumption | intro _ | with_reducible apply flitEff_keeps)

theorem execBlob_keeps {s t : State} (p : Fin 20) (f : Flit) (e : execBlob p f s = .next t) : Keeps s t := by
  unfold execBlob at e; injection e with e; subst e
  repeat' (first | exact Keeps.rfl' s | with_reducible assumption | intro _ | with_reducible apply flitEff_keeps)

theorem execIdle_keeps {s t : State} (p : Fin 20) (f : Flit) (e : execIdle p f s = .next t) : Keeps s t := by
  unfold execIdle at e; injection e with e; subst e
  repeat' (first | exact Keeps.rfl' s | with_reducible assumption | intro _ | with_reducible apply flitEff_keeps)

theorem execColl_keeps {s t : State} (p : Fin 20) (f : Flit) (e : execColl p f s = .next t) : Keeps s t := by
  unfold execColl at e; injection e with e; subst e
  repeat' (first | exact Keeps.rfl' s | with_reducible assumption | intro _ | with_reducible apply flitEff_keeps)

theorem execRelease_keeps {s t : State} (p : Fin 20) (f : Flit) (e : execRelease p f s = .next t) : Keeps s t := by
  unfold execRelease at e; injection e with e; subst e
  repeat' (first | exact Keeps.rfl' s | with_reducible assumption | intro _ | with_reducible apply flitEff_keeps)

theorem execLinkRetune_keeps {s t : State} (e : execLinkRetune s = .next t) : Keeps s t := by
  unfold execLinkRetune at e; injection e with e; subst e
  repeat' (first | exact Keeps.rfl' s | with_reducible assumption | intro _ | with_reducible apply linkRetuneEff_keeps)

theorem execSend_keeps {s t : State} (p : Fin 20) (f : Flit) (e : execSend p f s = .next t) : Keeps s t := by
  unfold execSend at e; injection e with e; subst e
  repeat' (first | exact Keeps.rfl' s | with_reducible assumption | intro _ | with_reducible apply flitEff_keeps)

theorem execHeartbeat_keeps {s t : State} (p : Fin 20) (f : Flit) (good : Bool) (e : execHeartbeat p f good s = .next t) : Keeps s t := by
  unfold execHeartbeat at e; injection e with e; subst e
  repeat' (first | exact Keeps.rfl' s | with_reducible assumption | intro _ | with_reducible apply flitEff_keeps)

theorem execTrainingDone_keeps {s t : State} (p : Fin 20) (e : execTrainingDone p s = .next t) : Keeps s t := by
  unfold execTrainingDone at e; injection e with e; subst e
  repeat' (first | exact Keeps.rfl' s | with_reducible assumption | intro _ | with_reducible apply trainingDoneEff_keeps)

theorem execHeartbeatTimeout_keeps {s t : State} (p : Fin 20) (e : execHeartbeatTimeout p s = .next t) : Keeps s t := by
  unfold execHeartbeatTimeout at e; injection e with e; subst e
  repeat' (first | exact Keeps.rfl' s | with_reducible assumption | intro _ | with_reducible apply heartbeatTimeoutEff_keeps)

theorem execTag_keeps {s t : State} (p : Fin 20) (f : Flit) (good : Bool) (e : execTag p f good s = .next t) : Keeps s t := by
  unfold execTag at e; injection e with e; subst e
  repeat' (first | exact Keeps.rfl' s | with_reducible assumption | intro _ | with_reducible apply flitEff_keeps)

theorem execAdv_keeps {s t : State} (p : Fin 20) (f : Flit) (e : execAdv p f s = .next t) : Keeps s t := by
  unfold execAdv at e; injection e with e; subst e
  repeat' (first | exact Keeps.rfl' s | with_reducible assumption | intro _ | with_reducible apply flitEff_keeps)

theorem execNak_keeps {s t : State} (p : Fin 20) (f : Flit) (e : execNak p f s = .next t) : Keeps s t := by
  unfold execNak at e; injection e with e; subst e
  repeat' (first | exact Keeps.rfl' s | with_reducible assumption | intro _ | with_reducible apply flitEff_keeps)

theorem execHeartbeatSend_keeps {s t : State} (p : Fin 20) (e : execHeartbeatSend p s = .next t) : Keeps s t := by
  unfold execHeartbeatSend at e; injection e with e; subst e
  repeat' (first | exact Keeps.rfl' s | with_reducible assumption | intro _ | with_reducible apply heartbeatSendEff_keeps)

theorem execVfFlr_keeps {s t : State} (k : Fin 16) (e : execVfFlr k s = .next t) : Keeps s t := by
  unfold execVfFlr at e; injection e with e; subst e
  repeat' (first | exact Keeps.rfl' s | with_reducible assumption | intro _ | with_reducible apply vfFlrEff_keeps)

theorem execZeroiseDone_keeps {s t : State} (n : Fin 16) (e : execZeroiseDone n s = .next t) : Keeps s t := by
  unfold execZeroiseDone at e; injection e with e; subst e
  repeat' (first | exact Keeps.rfl' s | with_reducible assumption | intro _ | with_reducible apply zeroiseDoneEff_keeps)

theorem execSummitInfo_keeps {s t : State} (bmc : Bool) (e : execSummitInfo bmc s = .next t) : Keeps s t := by
  unfold execSummitInfo at e; injection e with e; subst e
  repeat' (first | exact Keeps.rfl' s | with_reducible assumption | intro _ | with_reducible apply summitInfoEff_keeps)

theorem execKsBind_keeps {s t : State} (bmc : Bool) (slot : Nat) (party : Nat) (h_ : List Byte)
    (e : execKsBind bmc slot party h_ s = .next t) : Keeps s t := by
  unfold execKsBind at e; injection e with e; subst e
  repeat' (first | exact Keeps.rfl' s | with_reducible assumption | intro _ | with_reducible apply ksBindEff_keeps)

theorem execPwrLimit_keeps {s t : State} (bmc : Bool) (w : Nat) (e : execPwrLimit bmc w s = .next t) : Keeps s t := by
  unfold execPwrLimit at e; injection e with e; subst e
  repeat' (first | exact Keeps.rfl' s | with_reducible assumption | intro _ | with_reducible apply pwrLimitEff_keeps)

theorem execImgPut_keeps {s t : State} (bmc : Bool) (name : List Byte) (obj : Option (List Byte))
    (e : execImgPut bmc name obj s = .next t) : Keeps s t := by
  unfold execImgPut at e; injection e with e; subst e
  repeat' (first | exact Keeps.rfl' s | with_reducible assumption | intro _ | with_reducible apply imgPutEff_keeps)

theorem execKsUnbind_keeps {s t : State} (bmc : Bool) (slot : Nat) (e : execKsUnbind bmc slot s = .next t) : Keeps s t := by
  unfold execKsUnbind at e; injection e with e; subst e
  repeat' (first | exact Keeps.rfl' s | with_reducible assumption | intro _ | with_reducible apply ksUnbindEff_keeps)

theorem execImgDel_keeps {s t : State} (bmc : Bool) (name : List Byte) (e : execImgDel bmc name s = .next t) : Keeps s t := by
  unfold execImgDel at e; injection e with e; subst e
  repeat' (first | exact Keeps.rfl' s | with_reducible assumption | intro _ | with_reducible apply imgDelEff_keeps)

theorem execInfo_keeps {s t : State} (bmc : Bool) (e : execInfo bmc s = .next t) : Keeps s t := by
  unfold execInfo at e; injection e with e; subst e
  repeat' (first | exact Keeps.rfl' s | with_reducible assumption | intro _ | with_reducible apply infoEff_keeps)

theorem execSummitRead_keeps {s t : State} (bmc : Bool) (first : Nat) (e : execSummitRead bmc first s = .next t) : Keeps s t := by
  unfold execSummitRead at e; injection e with e; subst e
  repeat' (first | exact Keeps.rfl' s | with_reducible assumption | intro _ | with_reducible apply summitReadEff_keeps)

theorem execSensorLimit_keeps {s t : State} (bmc : Bool) (sensor : Nat) (kind : Nat) (v : Int)
    (e : execSensorLimit bmc sensor kind v s = .next t) : Keeps s t := by
  unfold execSensorLimit at e; injection e with e; subst e
  repeat' (first | exact Keeps.rfl' s | with_reducible assumption | intro _ | with_reducible apply sensorLimitEff_keeps)

theorem execDebugConsent_keeps {s t : State} (bmc : Bool) (g : List Byte) (e : execDebugConsent bmc g s = .next t) : Keeps s t := by
  unfold execDebugConsent at e; injection e with e; subst e
  repeat' (first | exact Keeps.rfl' s | with_reducible assumption | intro _ | with_reducible apply debugConsentEff_keeps)

theorem execDebugNonce_keeps {s t : State} (bmc : Bool) (e : execDebugNonce bmc s = .next t) : Keeps s t := by
  unfold execDebugNonce at e; injection e with e; subst e
  repeat' (first | exact Keeps.rfl' s | with_reducible assumption | intro _ | with_reducible apply debugNonceEff_keeps)

theorem execFwCommit_keeps {s t : State} (bmc : Bool) (e : execFwCommit bmc s = .next t) : Keeps s t := by
  unfold execFwCommit at e; injection e with e; subst e
  repeat' (first | exact Keeps.rfl' s | with_reducible assumption | intro _ | with_reducible apply fwCommitEff_keeps)

theorem execBgCfg_keeps {s t : State} (bmc : Bool) (thr : Nat) (hp : Nat) (e : execBgCfg bmc thr hp s = .next t) : Keeps s t := by
  unfold execBgCfg at e; injection e with e; subst e
  repeat' (first | exact Keeps.rfl' s | with_reducible assumption | intro _ | with_reducible apply bgCfgEff_keeps)

theorem execWinRemove_keeps {s t : State} (bmc : Bool) (p : Nat) (e : execWinRemove bmc p s = .next t) : Keeps s t := by
  unfold execWinRemove at e; injection e with e; subst e
  repeat' (first | exact Keeps.rfl' s | with_reducible assumption | intro _ | with_reducible apply winRemoveEff_keeps)

theorem execImgList_keeps {s t : State} (bmc : Bool) (e : execImgList bmc s = .next t) : Keeps s t := by
  unfold execImgList at e; injection e with e; subst e
  repeat' (first | exact Keeps.rfl' s | with_reducible assumption | intro _ | with_reducible apply imgListEff_keeps)

theorem execWinResize_keeps {s t : State} (bmc : Bool) (p : Nat) (a : Nat) (n : Nat) (e : execWinResize bmc p a n s = .next t)
    : Keeps s t := by
  unfold execWinResize at e; injection e with e; subst e
  repeat' (first | exact Keeps.rfl' s | with_reducible assumption | intro _ | with_reducible apply winResizeEff_keeps)

theorem execHbmMap_keeps {s t : State} (bmc : Bool) (map : Nat) (g : List (BitVec 16)) (e : execHbmMap bmc map g s = .next t)
    : Keeps s t := by
  unfold execHbmMap at e; injection e with e; subst e
  repeat' (first | exact Keeps.rfl' s | with_reducible assumption | intro _ | with_reducible apply hbmMapEff_keeps)

theorem execSpanSet_keeps {s t : State} (bmc : Bool) (coord : Word) (dims : Word) (e : execSpanSet bmc coord dims s = .next t)
    : Keeps s t := by
  unfold execSpanSet at e; injection e with e; subst e
  repeat' (first | exact Keeps.rfl' s | with_reducible assumption | intro _ | with_reducible apply spanSetEff_keeps)

theorem execFwActivate_keeps {s t : State} (bmc : Bool) (b : Bool) (e : execFwActivate bmc b s = .next t) : Keeps s t := by
  unfold execFwActivate at e; injection e with e; subst e
  repeat' (first | exact Keeps.rfl' s | with_reducible assumption | intro _ | with_reducible apply fwActivateEff_keeps)

theorem execWinCreate_keeps {s t : State} (bmc : Bool) (p : Nat) (a : Nat) (n : Nat) (slot : Nat)
    (e : execWinCreate bmc p a n slot s = .next t) : Keeps s t := by
  unfold execWinCreate at e; injection e with e; subst e
  repeat' (first | exact Keeps.rfl' s | with_reducible assumption | intro _ | with_reducible apply winCreateEff_keeps)

theorem execImgGet_keeps {s t : State} (bmc : Bool) (p : Nat) (name : List Byte) (a : Nat) (e : execImgGet bmc p name a s = .next t)
    : Keeps s t := by
  unfold execImgGet at e; injection e with e; subst e
  repeat' (first | exact Keeps.rfl' s | with_reducible assumption | intro _ | with_reducible apply imgGetEff_keeps)

theorem execFwStage_keeps {s t : State} (bmc : Bool) (image : Option (List Byte)) (e : execFwStage bmc image s = .next t)
    : Keeps s t := by
  unfold execFwStage at e; injection e with e; subst e
  repeat' (first | exact Keeps.rfl' s | with_reducible assumption | intro _ | with_reducible apply fwStageEff_keeps)

theorem execRegionSet_keeps {s t : State} (bmc : Bool) (p : Nat) (l : List (Nat × Nat)) (e : execRegionSet bmc p l s = .next t)
    : Keeps s t := by
  unfold execRegionSet at e; injection e with e; subst e
  repeat' (first | exact Keeps.rfl' s | with_reducible assumption | intro _ | with_reducible apply regionSetEff_keeps)

theorem execPldmEventEnable_keeps {s t : State} (e : execPldmEventEnable s = .next t) : Keeps s t := by
  unfold execPldmEventEnable at e; injection e with e; subst e
  repeat' (first | exact Keeps.rfl' s | with_reducible assumption | intro _ | with_reducible apply pldmEventEnableEff_keeps)

theorem execThermtrip_keeps {s t : State} (e : execThermtrip s = .next t) : Keeps s t := by
  unfold execThermtrip at e; injection e with e; subst e
  repeat' (first | exact Keeps.rfl' s | with_reducible assumption | intro _ | with_reducible apply thermtripEff_keeps)

theorem execRefclkPcieLoss_keeps {s t : State} (e : execRefclkPcieLoss s = .next t) : Keeps s t := by
  unfold execRefclkPcieLoss at e; injection e with e; subst e
  repeat' (first | exact Keeps.rfl' s | with_reducible assumption | intro _ | with_reducible apply refclkPcieLossEff_keeps)

theorem execPerstNDeassert_keeps {s t : State} (e : execPerstNDeassert s = .next t) : Keeps s t := by
  unfold execPerstNDeassert at e; injection e with e; subst e
  repeat' (first | exact Keeps.rfl' s | with_reducible assumption | intro _ | with_reducible apply perstNDeassertEff_keeps)

theorem execRefclkLinkLoss_keeps {s t : State} (e : execRefclkLinkLoss s = .next t) : Keeps s t := by
  unfold execRefclkLinkLoss at e; injection e with e; subst e
  repeat' (first | exact Keeps.rfl' s | with_reducible assumption | intro _ | with_reducible apply refclkLinkLossEff_keeps)

theorem execDebugEntered_keeps {s t : State} (e : execDebugEntered s = .next t) : Keeps s t := by
  unfold execDebugEntered at e; injection e with e; subst e
  repeat' (first | exact Keeps.rfl' s | with_reducible assumption | intro _ | with_reducible apply debugThenReset_keeps)

theorem execDevReset_keeps {s t : State} (bmc : Bool) (e : execDevReset bmc s = .next t) : Keeps s t := by
  unfold execDevReset at e; injection e with e; subst e
  repeat' (first | exact Keeps.rfl' s | with_reducible assumption | intro _ | with_reducible apply devResetEff_keeps)

theorem execSirviReady_keeps {s t : State} (e : execSirviReady s = .next t) : Keeps s t := by
  unfold execSirviReady at e; injection e with e; subst e
  repeat' (first | exact Keeps.rfl' s | with_reducible assumption | intro _ | with_reducible apply sirviReadyEff_keeps)

theorem execFwWatchdog_keeps {s t : State} (e : execFwWatchdog s = .next t) : Keeps s t := by
  unfold execFwWatchdog at e; injection e with e; subst e
  repeat' (first | exact Keeps.rfl' s | with_reducible assumption | intro _ | with_reducible apply fwWatchdogEff_keeps)

theorem execPldmEventAcknowledge_keeps {s t : State} (e : execPldmEventAcknowledge s = .next t) : Keeps s t := by
  unfold execPldmEventAcknowledge at e; injection e with e; subst e
  repeat' (first | exact Keeps.rfl' s | with_reducible assumption | intro _ | with_reducible apply pldmEventAcknowledgeEff_keeps)

theorem execPwrgoodAssert_keeps {s t : State} (smbus : Bool) (maddr : Fin 8) (e : execPwrgoodAssert smbus maddr s = .next t)
    : Keeps s t := by
  unfold execPwrgoodAssert at e; injection e with e; subst e
  repeat' (first | exact Keeps.rfl' s | with_reducible assumption | intro _ | with_reducible apply pwrgoodAssertEff_keeps)

theorem execPwrgoodDeassert_cold {s t : State} (e : execPwrgoodDeassert s = .next t) : KeepsCold s t := by
  unfold execPwrgoodDeassert at e; injection e with e; subst e
  exact pwrgoodDeassertEff_cold s

theorem execRailTimeout_keeps {s t : State} (r : Rail) (e : execRailTimeout r s = .next t) : Keeps s t := by
  unfold execRailTimeout at e; injection e with e; subst e
  repeat' (first | exact Keeps.rfl' s | with_reducible assumption | intro _ | with_reducible apply railTimeoutEff_keeps)

theorem execWarmReset_keeps {s t : State} (c : WarmCause) (e : execWarmReset c s = .next t) : Keeps s t := by
  unfold execWarmReset at e; injection e with e; subst e
  repeat' (first | exact Keeps.rfl' s | with_reducible assumption | intro _ | with_reducible apply warmResetEff_keeps)

theorem execDeviceReady_keeps {s t : State} (e : execDeviceReady s = .next t) : Keeps s t := by
  unfold execDeviceReady at e; injection e with e; subst e
  repeat' (first | exact Keeps.rfl' s | with_reducible assumption | intro _ | with_reducible apply deviceReadyEff_keeps)

theorem execP54vUndervoltage_cold {s t : State} (e : execP54vUndervoltage s = .next t) : KeepsCold s t := by
  unfold execP54vUndervoltage at e; injection e with e; subst e
  exact p54vUndervoltageEff_cold s

theorem execSensorSample_keeps {s t : State} (rs : Readings) (e : execSensorSample rs s = .next t) : Keeps s t := by
  unfold execSensorSample at e; injection e with e; subst e
  repeat' (first | exact Keeps.rfl' s | with_reducible assumption | intro _ | with_reducible apply sensorSampleEff_keeps)

theorem execPowerLimitStep_keeps {s t : State} (e : execPowerLimitStep s = .next t) : Keeps s t := by
  unfold execPowerLimitStep at e; injection e with e; subst e
  repeat' (first | exact Keeps.rfl' s | with_reducible assumption | intro _ | with_reducible apply powerLimitStepEff_keeps)

theorem execScratchpadScrub_keeps {s t : State} (e : execScratchpadScrub s = .next t) : Keeps s t := by
  unfold execScratchpadScrub at e; injection e with e; subst e
  repeat' (first | exact Keeps.rfl' s | with_reducible assumption | intro _ | with_reducible apply scratchpadScrubEff_keeps)

theorem execHbmScrub_keeps {s t : State} (e : execHbmScrub s = .next t) : Keeps s t := by
  unfold execHbmScrub at e; injection e with e; subst e
  repeat' (first | exact Keeps.rfl' s | with_reducible assumption | intro _ | with_reducible apply hbmScrubEff_keeps)

theorem execWearLevelling_keeps {s t : State} (e : execWearLevelling s = .next t) : Keeps s t := by
  unfold execWearLevelling at e; injection e with e; subst e
  repeat' (first | exact Keeps.rfl' s | with_reducible assumption | intro _ | with_reducible apply wearLevellingEff_keeps)

theorem execThermalCalibration_keeps {s t : State} (e : execThermalCalibration s = .next t) : Keeps s t := by
  unfold execThermalCalibration at e; injection e with e; subst e
  repeat' (first | exact Keeps.rfl' s | with_reducible assumption | intro _ | with_reducible apply thermalCalibrationEff_keeps)

theorem execRowSpareDone_keeps {s t : State} (e : execRowSpareDone s = .next t) : Keeps s t := by
  unfold execRowSpareDone at e; injection e with e; subst e
  repeat' (first | exact Keeps.rfl' s | with_reducible assumption | intro _ | with_reducible apply rowSpareDoneEff_keeps)

theorem execBgSlip_keeps {s t : State} (e : execBgSlip s = .next t) : Keeps s t := by
  unfold execBgSlip at e; injection e with e; subst e
  repeat' (first | exact Keeps.rfl' s | with_reducible assumption | intro _ | with_reducible apply bgSlipEff_keeps)

theorem execEnergyCalibration_keeps {s t : State} (e : execEnergyCalibration s = .next t) : Keeps s t := by
  unfold execEnergyCalibration at e; injection e with e; subst e
  repeat' (first | exact Keeps.rfl' s | with_reducible assumption | intro _ | with_reducible apply energyCalibrationEff_keeps)

theorem execClusterScrub_keeps {s t : State} (e : execClusterScrub s = .next t) : Keeps s t := by
  unfold execClusterScrub at e; injection e with e; subst e
  repeat' (first | exact Keeps.rfl' s | with_reducible assumption | intro _ | with_reducible apply clusterScrubEff_keeps)

theorem execUncorrectableInternalError_keeps {s t : State} (u : HostUnit) (e : execUncorrectableInternalError u s = .next t)
    : Keeps s t := by
  unfold execUncorrectableInternalError at e; injection e with e; subst e
  repeat' (first | exact Keeps.rfl' s | with_reducible assumption | intro _ | with_reducible apply internalErrorEff_keeps)

theorem execVfEnable_keeps {s t : State} (on : Bool) (num : Fin 17) (e : execVfEnable on num s = .next t) : Keeps s t := by
  unfold execVfEnable at e; injection e with e; subst e
  repeat' (first | exact Keeps.rfl' s | with_reducible assumption | intro _ | with_reducible apply vfEnableEff_keeps)

theorem execMsixUnmask_keeps {s t : State} (fn : Fin 17) (v : Fin 1024) (e : execMsixUnmask fn v s = .next t) : Keeps s t := by
  unfold execMsixUnmask at e; injection e with e; subst e
  repeat' (first | exact Keeps.rfl' s | with_reducible assumption | intro _ | with_reducible apply msixUnmaskEff_keeps)

theorem execClwSel_keeps {s t : State} (k : Fin 16) (v : Word) (e : execClwSel k v s = .next t) : Keeps s t := by
  unfold execClwSel at e; injection e with e; subst e
  repeat' (first | exact Keeps.rfl' s | with_reducible assumption | intro _ | with_reducible apply clwSelEff_keeps)

theorem execFlip_keeps {s t : State} (e : execFlip s = .next t) : Keeps s t := by
  unfold execFlip at e; injection e with e; subst e
  repeat' (first | exact Keeps.rfl' s | with_reducible assumption | intro _ | with_reducible apply flipEff_keeps)

theorem execCommitWindowOpen_keeps {s t : State} (e : execCommitWindowOpen s = .next t) : Keeps s t := by
  unfold execCommitWindowOpen at e; injection e with e; subst e
  repeat' (first | exact Keeps.rfl' s | with_reducible assumption | intro _ | with_reducible apply commitWindowOpenEff_keeps)

theorem execDispatchEnd_keeps {s t : State} (e : execDispatchEnd s = .next t) : Keeps s t := by
  unfold execDispatchEnd at e; injection e with e; subst e
  repeat' (first | exact Keeps.rfl' s | with_reducible assumption | intro _ | with_reducible apply dispatchEndEff_keeps)

theorem execTickEdge_keeps {s t : State} (e : execTickEdge s = .next t) : Keeps s t := by
  unfold execTickEdge at e; injection e with e; subst e
  repeat' (first | exact Keeps.rfl' s | with_reducible assumption | intro _ | with_reducible apply tickEdgeEff_keeps)

theorem execFlywheelEdge_keeps {s t : State} (e : execFlywheelEdge s = .next t) : Keeps s t := by
  unfold execFlywheelEdge at e; injection e with e; subst e
  repeat' (first | exact Keeps.rfl' s | with_reducible assumption | intro _ | with_reducible apply flywheelEdgeEff_keeps)

theorem execIngestCutoff_keeps {s t : State} (outs : List (Option (List Byte))) (e : execIngestCutoff outs s = .next t) : Keeps s t := by
  unfold execIngestCutoff at e; injection e with e; subst e
  repeat' (first | exact Keeps.rfl' s | with_reducible assumption | intro _ | with_reducible apply ingestCutoffEff_keeps)

theorem execEventCounterWrite_keeps {s t : State} (r : Requester) (addr : Nat) (v : Word)
    (e : execEventCounterWrite r addr v s = .next t) : Keeps s t := by
  unfold execEventCounterWrite at e; injection e with e; subst e
  repeat' (first | exact Keeps.rfl' s | with_reducible assumption | intro _ | with_reducible apply eventCounterWriteEff_keeps)

theorem execLoRead_keeps {s t : State} (r : Requester) (addr : Nat) (e : execLoRead r addr s = .next t) : Keeps s t := by
  unfold execLoRead at e; injection e with e; subst e
  repeat' (first | exact Keeps.rfl' s | with_reducible assumption | intro _ | with_reducible apply loReadEff_keeps)

theorem execVeFlagClear_keeps {s t : State} (r : Requester) (c : Fin 256) (core : Fin 16) (v : Word)
    (e : execVeFlagClear r c core v s = .next t) : Keeps s t := by
  unfold execVeFlagClear at e; injection e with e; subst e
  repeat' (first
      | exact Keeps.rfl' s | with_reducible assumption | intro _ | with_reducible apply hostWr_keeps
      | with_reducible apply veFlagClearEff_keeps)

theorem execPgLock_keeps {s t : State} (r : Requester) (addr : Nat) (v : Word) (e : execPgLock r addr v s = .next t) : Keeps s t := by
  unfold execPgLock at e; injection e with e; subst e
  repeat' (first | exact Keeps.rfl' s | with_reducible assumption | intro _ | with_reducible apply pgLockEff_keeps)

theorem execRegisterWrite_keeps {s t : State} (r : Requester) (addr : Nat) (len : Nat) (allBytes : Bool) (data : DWord)
    (e : execRegisterWrite r addr len allBytes data s = .next t) : Keeps s t := by
  unfold execRegisterWrite at e; injection e with e; subst e
  repeat' (first | exact Keeps.rfl' s | with_reducible assumption | intro _ | with_reducible apply registerWriteEff_keeps)

theorem execPgEvtset_keeps {s t : State} (r : Requester) (addr : Nat) (v : Word) (e : execPgEvtset r addr v s = .next t) : Keeps s t := by
  unfold execPgEvtset at e; injection e with e; subst e
  repeat' (first | exact Keeps.rfl' s | with_reducible assumption | intro _ | with_reducible apply pgEvtsetEff_keeps)

theorem execPgEvtClear_keeps {s t : State} (r : Requester) (addr : Nat) (v : Word) (e : execPgEvtClear r addr v s = .next t)
    : Keeps s t := by
  unfold execPgEvtClear at e; injection e with e; subst e
  repeat' (first | exact Keeps.rfl' s | with_reducible assumption | intro _ | with_reducible apply pgEvtClearEff_keeps)

end Sys2Proof.Machine
end

