-- ==== Sys2Proof/Tests/Slice0.lean ====
section
/-!
SUPPORT. Tests: small states that meet the hypotheses of the statements, ill-formed commands that `wellFormed` refuses, and single commands
whose outcome the spec's own worked examples give.
-/
namespace Sys2Proof.Machine

set_option Elab.async false

/-! ## Small states -/

/-- A ready device whose host is up. -/
def w0 : State := modSirvi State.reset fun v => { v with boot := .ready, perst := false }

/-- Register words put in place. -/
def withRegs (s : State) (l : List (Nat × Nat)) : State := l.foldl (fun s p => wrN s p.1 p.2) s

/-- And a slot bound to party 1 with its key, and a finished session of its requester. -/
def wKey : State :=
  setSess (setKeySlot w0 0 { party := 1, reqHash := [1], keyid := 5, pk := some [7] }) 0 { live := true, hash := [1], done := true, auth := true }

/-- And partition 0, of party 1, with the member cluster 0. -/
def wPart (st : PState) : State :=
  modPart (withRegs wKey [(partPg 0 + 0x100, 0x100), (partPg 0 + 0x110, 1)]) 0 fun p => { p with st := st }

def wCommit : State := wPart .configuring
def wCommit2 : State :=
  let s := withRegs wCommit [(partPg 1 + 0x110, 1)]
  modPart s 1 fun p => { p with st := .ready, comAt := some (comNow s) }

/-- READY or RUNNING, with ticks. -/
def wTicks (st : PState) : State :=
  let s := wrN (wPart st) (tickPg + 0x124) 1
  { s with clk := { s.clk with run := true } }
def wReady : State := wTicks .ready
def wRun : State := wTicks .running

/-- The pitches of a tick, with entry 0 of the table, of job 0, still to run. -/
def wEntry (be : Bool) : State :=
  let s := withRegs wRun [(tblPg 0 + 0x100, 60000 * 2 ^ 26 % 2 ^ 32 + 1000), (tblPg 0 + 0x104, 60000 / 2 ^ 6 + 2 ^ 31 + b2n be * 2 ^ 30)]
  { s with clk := { s.clk with phase := .pitches } }

/-- Its pitch runs, not yet switched; or issues its bundles in cluster 0. -/
def wPitch : State := modPart (wEntry false) 0 fun p => { p with pitch := some { limit := 1000000 } }
def wIssue : State :=
  modClu (modPart wPitch 0 fun p => { p with pitch := some { limit := 1000000, t0 := some 0 } }) 0 fun x => { x with run := true }

/-- Handle entries of party 1, core-scope, 64 slots. -/
def wHandle (cluster core first : Nat) : DWord := BitVec.ofNat 64 (2 ^ 63 + 2 ^ 58 + 2 ^ 57 + core * 2 ^ 53 + cluster * 2 ^ 45 + first * 2 ^ 35 + 64 * 2 ^ 24)

/-- The first bundle is given; handles 0, 1 and 2 name core 0 from slot 0, core 0 from slot 1, and core 0 of cluster 1; slot 0 is FULL. -/
def wOp (b : Nat) : State :=
  let s := wrN wIssue (partPg 0 + 0x110) 3
  modSlot { s with bundles := [(0, BitVec.ofNat 512 b)], htab := [(0, wHandle 0 0 0), (1, wHandle 0 0 1), (2, wHandle 1 0 0)] } 0 0
    fun x => { x with full := true }

/-- Another cluster of the partition has reported a SYNC of another bundle. -/
def wOp2 (b : Nat) : State := modPart (wOp b) 0 fun p => { p with syncs := [(1, 5)] }

def wVe (op bits : Nat) : State := wOp (op * 2 ^ 344 + bits * 2 ^ 256 + 2 ^ 464)
def wGp (together : Bool) : State := wOp (2 ^ 248 + 2 ^ 448 + if together then 5 * 2 ^ 440 + 2 ^ 388 + 2 ^ 480 else 0)
def wMe (op bits : Nat) : State := wOp (op * 2 ^ 440 + bits * 2 ^ 352 + 2 ^ 480)
def wLm (op bits : Nat) : State := wOp (op * 2 ^ 184 + bits * 2 ^ 128)
def wNcOp (op : Nat) : State := wOp (op * 2 ^ 120)
def wNc (bits : Nat) : State := wOp (2 ^ 120 + bits * 2 ^ 64)

/-- A collective of one slot on the ring of one device whose links stand in the map. -/
def wCollOp : State := wrN (wOp (0x48 * 2 ^ 120 + 2 ^ 16)) (partPg 0 + 0x408) 0x30000

/-- Stream 5, ACTIVE, of party 1 in partition 0, whose job 0 has lanes in cluster 0; the party's window and its regions 0 and 1. -/
def wStrm : State :=
  let s := withRegs wRun [(partPg 0 + 0x300, 5), (hbmPg + 0x228, 0x100000), (hbmPg + 0x230, 0x80000001),
    (hbmPg + 0x644, 0x10), (hbmPg + 0x648, 0x10), (hbmPg + 0x64C, 0x10)]
  setStrm (modJob s 0 0 fun x => { x with loaded := true, img := { clusters := [0], g := [1] } }) 5 { st := .active, party := 1, hold := 1 }

/-- A handler runs in cluster 0 in the dispatch window; sequence 0 is valid with 2 tokens, its lane is bound. -/
def wKv : State :=
  let s := withRegs (modPart wStrm 0 fun p => { p with pitch := some {} })
    [(partPg 0 + 0x380, 0x10000), (partPg 0 + 0x388, 0x80000000), (partPg 0 + 0x390, 0x11000)]
  let t := modClu { s with clk := { s.clk with phase := .dispatch }, lanes := [(laneKey 0 0 0 0, some {})] } 0
    fun x => { x with run := true, hnd := some (.pitch, 0) }
  (hbmPut (hbmPut t 0x11004 [2]) 0x11013 [0x80])

/-- Rings of 16 entries of 256 bytes, one record in the ingest ring. -/
def wIng : State := modIng (withRegs wStrm [(ingPg 0 + 0x108, 0x80040008), (ingPg 0 + 0x10C, 1), (ingPg 0 + 0x128, 0x80040008)]) 0 fun g => { g with profs := [(0, List.replicate 22 0 ++ [1])] }

/-- A record without payload for stream 5. -/
def wRec : List Byte := [0x5A, 0x7C, 1, 0, 5, 0, 0, 0] ++ List.replicate 20 0 ++ natLe 4 2143237662

/-- Stream 5 gathers a group, before the cut-off of an edge to come. -/
def wGroup : State :=
  let s := modIng (modStrm wStrm 5 fun x => { x with inp := { srcs := [{}] } }) 0 fun g => { g with profs := [(0, [0x11])] }
  { s with clk := { s.clk with lastEdge := some 0 } }

/-- Port 0 a locked master, silent; port 8 an AES3 receiver. -/
def wPort : State :=
  modPrt (withRegs w0 [(portPg 0 + 0x100, 0x80000000), (portPg 0 + 0x128, 0x80040008), (portPg 8 + 0x100, 0x80001030)]) 0 fun x => { x with lock := true }

/-- VF 1 is enabled with a secure IDE stream; port 0 of the links is UP; an idle flit. -/
def wVf : State := withRegs w0 [(funcsPg + 0x100, 0x101), (funcsPg + 0x108, 2)]
def wLink : State := setLk w0 0 3
def wFlit0 : Flit :=
  { fecOk := true, typ := 0, vc := 0, nak := false, mstart := false, zero := 0, seq := 0, epoch := 0, ack := 0, credit := 0
    payload := List.replicate 496 0, crc := 0 }

theorem crcBit_lt (c : Nat) (h : c < 2 ^ 32) : crcBit c < 2 ^ 32 := by
  unfold crcBit
  split
  · exact Nat.xor_lt_two_pow (by omega) (by decide +kernel)
  · omega

theorem crcByte_lt (c : Nat) (b : Byte) (h : c < 2 ^ 32) : crcByte c b < 2 ^ 32 := by
  have h0 : Nat.xor c b.toNat < 2 ^ 32 := Nat.xor_lt_two_pow h (by have := b.isLt; omega)
  have go : ∀ (l : List Nat) (x : Nat), x < 2 ^ 32 → l.foldl (fun c _ => crcBit c) x < 2 ^ 32 := by
    intro l
    induction l with
    | nil => exact fun x hx => hx
    | cons a l ih => exact fun x hx => ih _ (crcBit_lt x hx)
  exact go _ _ h0

theorem crc32c_lt (bs : List Byte) : crc32c bs < 2 ^ 32 := by
  have go : ∀ (l : List Byte) (x : Nat), x < 2 ^ 32 → l.foldl crcByte x < 2 ^ 32 := by
    intro l
    induction l with
    | nil => exact fun x hx => hx
    | cons a l ih => exact fun x hx => ih _ (crcByte_lt x a hx)
  exact Nat.xor_lt_two_pow (go bs _ (by decide +kernel)) (by decide +kernel)

theorem flitBytes_crc (f : Flit) (x : Word) : flitBytes { f with crc := x } = flitBytes f := rfl

theorem flitCrcOk_of_crc (f : Flit) (h1 : f.fecOk = true) (h2 : f.payload.length = 496) :
    flitCrcOk { f with crc := BitVec.ofNat 32 (crc32c (flitBytes f)) } = true := by
  unfold flitCrcOk
  simp only [Bool.and_eq_true, decide_eq_true_eq]
  exact ⟨⟨h1, h2⟩, by rw [flitBytes_crc, BitVec.toNat_ofNat, Nat.mod_eq_of_lt (crc32c_lt _)]⟩

/-! ## The hypotheses of the statements are met -/

theorem wit_StepRunsTheFrontCommand : ({ w0 with pending := [.relock] } : State).pending = [.relock] ∧ w0.pending = [] := by decide +kernel

theorem wit_HeaderRegisterCommandsAct :
    (xlate w0 .pf 0x10001C = some 0x10001C ∧ (pageAt (0x10001C / 4096)).isSome ∧ wOk w0 .pf 0x10001C = true) ∧
    (wOk w0 .pf 0x1014 = true ∧ wOk w0 .pf 0x1030 = true) ∧ (wOk w0 .pf 0x1160 = true ∧ isCnt .tick 0x160 = true) := by decide +kernel

theorem wit_RegisterWritesFollowTheirAccessType :
    (pageAt (0x230100 / 4096) = some (.oper, 0) ∧ (regAt .oper 0x100).isSome = true ∧ wOk w0 .pf 0x230100 = true) ∧
    (((List.range 4096).map fun o => regAt .oper o).any fun r => (r.map fun x => decide (x.kind = .plain)) = some true) = true ∧
    wOk w0 .sirvi 0x230100 = true := by decide +kernel

theorem wit_LoReadLatchesTheHighHalf :
    (msixAt .pf 0x1138 = none ∧ xlate w0 .pf 0x1138 = some 0x1138 ∧ ((regAt .tick 0x138).map RegRow.half) = some .lo) ∧
    (rOk w0 .pf 0x113C = true ∧ ((regAt .tick 0x13C).map RegRow.half) = some .hi) := by decide +kernel

theorem wit_TickConfigurationTakesForce :
    (hostReady w0 = true ∧ anyActive w0 = false ∧ cfgOk (cfgReg w0) = true ∧ tickEn w0 = false) ∧
    (hostReady wRun = true ∧ anyActive wRun = true ∧ tickEn wRun = true) ∧
    (let s := wr w0 (tickPg + 0x124) 1; hostReady s = true ∧ tickEn s = true ∧ anyActive s = false) ∧
    (let s := wr w0 (tickPg + 0x120) 0; hostReady s = true ∧ cfgOk (cfgReg s) = false) ∧
    (let s := { w0 with clk := { srcNow := 3 } }; hostReady s = true ∧ s.clk.srcNow = 3) := by decide +kernel

theorem wit_PtmRequestsAndFailures :
    (let s := wr w0 (tickPg + 0x110) 0x41; rb s (tickPg + 0x110) 0 = true ∧ s.clk.ptmOut = none ∧ s.clk.tb ≤ s.clk.ptmNext) ∧
    (let s := { w0 with clk := { ptmOut := some 0, ptmFails := 15 } }; s.clk.ptmOut = some 0 ∧ s.clk.ptmFails = 15 ∧ (s.clk.tb : Int) ≤ 0 + 1000000 * uNs) ∧
    (let s := { w0 with clk := { ptmOut := some 0, tb := 1000000 * uNs + 1 } }; s.clk.ptmOut = some 0 ∧ (0 : Int) + 1000000 * uNs < s.clk.tb) := by decide +kernel

theorem wit_TickInEdgesAreJudgedByTheWindow :
    (let s := { wr w0 (tickPg + 0x124) 1 with clk := { srcNow := 1, lastEdge := some 0 } }
     tickEn s = true ∧ s.clk.toFb = false ∧ s.clk.due = none ∧ s.clk.lastEdge = some 0 ∧ s.clk.tb ≤ 9990000 * uNs ∧
       0 + perNow s ≤ 9990000 * uNs + perNow s / 1000 ∧ 9990000 * uNs ≤ 0 + perNow s + perNow s / 1000 ∧
       ¬(0 + perNow s ≤ 9989999 * uNs + perNow s / 1000)) ∧
    (let s := { wr w0 (tickPg + 0x124) 1 with clk := { srcNow := 1 } }
     tickEn s = true ∧ s.clk.due = none ∧ s.clk.srcNow = 1 ∧ s.clk.lastEdge = none ∧ (s.clk.tb : Int) ≤ s.clk.enAt + 64 * perNow s) := by decide +kernel

theorem wit_EdgesRunTheTick :
    (let s := { wr w0 (tickPg + 0x124) 1 with clk := { gridFrom := 5 } }
     nextEdge s = some ((perNow s : Int), false) ∧ edgeReady s = true ∧ (s.clk.tb : Int) ≤ perNow s ∧ ∀ n < 16, (part s n).pitch = none) ∧
    (let s := { wr w0 (tickPg + 0x124) 1 with clk := { srcNow := 1, lastEdge := some 0, phase := .guard, cutDone := true } }
     (nextEdge s).map Prod.snd = some true ∧ edgeReady s = true ∧ s.clk.wait = none ∧ s.clk.fly = 0) ∧
    (let s := { wr w0 (tickPg + 0x124) 1 with clk := { lastEdge := some 0, phase := .pitches } }
     (predicted s).isSome ∧ s.clk.cutDone = false ∧ s.clk.phase ≠ .stopped) := by decide +kernel

/-- And of the clauses on lanes, the commit window, the flip and the cut-off. -/
theorem wit_EdgesRunTheTick_windows :
    (let s := { wIng with clk := { phase := .dispatch }, lanes := [(laneKey 0 0 0 0, some { handle := 5 })] }
     s.clk.phase = .dispatch ∧ (copyLanes s)[0]? = some (laneKey 0 0 0 0) ∧ (lane s (laneKey 0 0 0 0)).map Lane.late = some none ∧ (part s 0).st = .running ∧ steadyOf s 0 = false) ∧
    (let s := { wRun with clk := { phase := .pitches } }; s.clk.phase = .pitches ∧ (part s 0).st = .running) ∧
    (let x : Lane := { handle := 5 }
     let s := { modPart wRun 0 fun p => { p with flipSet := some [laneKey 0 0 0 0] } with
       clk := { phase := .commit }, lanes := [(laneKey 0 0 0 0, some x)] }
     s.clk.phase = .commit ∧ s.lanes.filter (fun p => p.2.map Lane.handle = some x.handle) = [(laneKey 0 0 0 0, some x)] ∧
       lanePart (laneKey 0 0 0 0) < 16 ∧ (part s 0).st ≠ .off ∧ x.fault = false ∧ laneKey 0 0 0 0 ∈ (part s 0).flipSet.getD []) ∧
    (let s := { wIng with clk := { wIng.clk with lastEdge := some 0, phase := .pitches } }
     (predicted s).isSome ∧ s.clk.cutDone = false ∧ s.clk.phase ≠ .stopped ∧ activeSt (part s 0).st = true ∧ (ing s 0).cuts = [] ∧
       sdiff (ing s 0).rd (rdN s (ingPg 0 + 0x10C)) < 0) := by decide +kernel

theorem wit_PartitionCommandsMoveTheState :
    (hostReady w0 = true ∧ cmdPend w0 0 = false ∧ (part w0 0).st = .off) ∧
    (hostReady wReady = true ∧ cmdPend wReady 0 = false ∧ (part wReady 0).st = .ready ∧ wReady.clk.run = true) ∧
    (hostReady wRun = true ∧ cmdPend wRun 0 = false ∧ (part wRun 0).st = .running) ∧
    (let s := modPart w0 0 fun p => { p with st := .maintenance }; hostReady s = true ∧ cmdPend s 0 = false ∧ (part s 0).st = .maintenance) ∧
    (let s := modPart w0 0 fun p => { p with cmd := some (.start, 0) }; (part s 0).cmd = some (.start, s.clk.num)) ∧
    ({ w0 with clk := { phase := .dispatch } } : State).clk.phase = .dispatch ∧ ({ w0 with clk := { phase := .commit } } : State).clk.phase = .commit := by decide +kernel

theorem wit_PendingCommandsBarAllButTeardown :
    let s := modPart wReady 0 fun p => { p with cmd := some (.start, 1) }
    (part s 0).cmd.isSome = true ∧ hostReady s = true ∧ tearable (part s 0).st = true := by decide +kernel

theorem wit_SimultaneousCommitsYieldToTheLowerPartition :
    (let s := wCommit2; 0 ∈ members s 0 ∧ isMember s 1 0 = true ∧ hostReady s = true ∧ (part s 1).st = .ready ∧
      (part s 1).comAt = some (comNow s) ∧ commitChecks s 0 = true) ∧
    (let s := modPart (modPart wCommit2 0 fun p => { p with st := .ready }) 1 fun p => { p with st := .configuring, comAt := none }
     holds (part s 0).st = true ∧ (part s 1).st = .configuring ∧ cmdPend s 1 = false ∧ s.clk.wait = none ∧
       connected (members s 1) = true ∧ 0 ∈ members s 1) := by decide +kernel

theorem wit_CommitSwapTeardownAndZeroise :
    (hostReady wCommit = true ∧ commitChecks wCommit 0 = true) ∧
    (let s := modPart w0 0 fun p => { p with st := .configuring }
     (part s 0).st = .configuring ∧ cmdPend s 0 = false ∧ s.clk.wait = none ∧ connected (members s 0) = false) ∧
    (let s := modPart (modPart wCommit2 0 fun p => { p with st := .ready }) 1 fun p => { p with st := .configuring, comAt := none }
     (part s 1).st = .configuring ∧ cmdPend s 1 = false ∧ s.clk.wait = none ∧ connected (members s 1) = true ∧ membersTaken s 1 = true) ∧
    (hostReady wReady = true ∧ activeSt (part wReady 0).st = true ∧ cmdPend wReady 0 = false ∧ (part wReady 0).tblPend = false ∧
      (judgeTbl wReady 0 (shadowTbl wReady 0)).2 = none ∧ tearable (part wReady 0).st = true ∧ wReady.clk.phase ≠ .commit) ∧
    (let s := modPart wCommit 0 fun p => { p with st := .zeroising }; (part s 0).st = .zeroising ∧ 0 ∈ members s 0 ∧ taken s 0 0 = false) := by decide +kernel

theorem wit_PartitionFaultsResetsAndTableWrites :
    (activeSt (part wReady 0).st = true ∧ wReady.clk.phase ≠ .commit ∧ isMember wReady 0 0 = true) ∧
    (let s := wr wReady (funcsPg + 0x100) 0x101; hostUp s = true ∧ 0 < numVfs s ∧ tearable (part s 0).st = true) ∧
    (let s := modPart w0 0 fun p => { p with st := .configuring }
     hostReady s = true ∧ locked s (partPg 0) = false ∧ (part s 0).st = .configuring ∧ loadedJobs s 0 = [] ∧ entOpen s 0 false = true) ∧
    (hostReady w0 = true ∧ locked w0 (partPg 0) = false ∧ (part w0 0).st = .off) := by decide +kernel

theorem wit_PitchesStartSwitchAndEnd :
    (let s := wEntry false; pitchStartOk s 0 0 = true ∧ (job s 0 (teJob (tblEntry s 0 0))).halted = false ∧ teBe (tblEntry s 0 0) = false) ∧
    (let s := modJob (wEntry false) 0 0 fun x => { x with halted := true }
     pitchStartOk s 0 0 = true ∧ (job s 0 (teJob (tblEntry s 0 0))).halted = true) ∧
    (let s := wEntry true; pitchStartOk s 0 0 = true ∧ teBe (tblEntry s 0 0) = true ∧ steadyOf s 0 = false) ∧
    (let s := modPart (wEntry true) 0 fun p => { p with seg := some { segEnd := 900000, pool := 8, left := [(0, 1000, 1)] } }
     pitchStartOk s 0 0 = true ∧ (part s 0).seg.isSome = true) := by decide +kernel

theorem wit_PitchesStartSwitchAndEnd_run :
    (let s := wPitch; ((part s 0).pitch.map Pitch.t0) = some none ∧ tearBusy s 0 = false ∧
      ((part s 0).pitch.map fun p => decide (t0Of s 0 p 0 < p.limit)) = some true ∧
      transfersLeft s 0 ((part s 0).lastJob.getD 16) (attnSlots s 0 (job s 0 0).img) = false ∧
      (job s 0 0).img.paged = false ∧ (part s 0).lastJob = none ∧ listOf (job s 0 0).img.fetchList (job s 0 0).img 0 = [] ∧
      ((part s 0).pitch.map fun p => beforeEnd s p.limit) = some true ∧ ((part s 0).pitch.map (pitchHalted s 0)) = some false) ∧
    (let s := modClu wIssue 0 fun x => { x with halted := true }
     ((part s 0).pitch.map fun p => p.t0.isSome && beforeEnd s p.limit) = some true ∧ (∀ c ∈ members s 0, clusDone s c = true)) ∧
    (let s := modJob wPitch 0 0 fun x => { x with busy := some 0 }; (job s 0 0).busy.isSome = true) := by decide +kernel

theorem wit_LoaderCommandsCheckAndInstall :
    (wOk wReady .pf (partPg 0 + 0x28C) = true ∧ rb wReady (loadStat 0) 1 = false) ∧
    (let s := wr wReady (loadStat 0) 2; wOk s .pf (partPg 0 + 0x28C) = true ∧ rb s (loadStat 0) 1 = true) ∧
    (let o : LoadOp := { unload := false, job := 0, addr := 0, len := 0 }
     let s := modPart wReady 0 fun p => { p with loadOp := some o }
     (part s 0).loadOp = some o ∧ (match loadFind s 0 o with | .inl e => decide (e.code = 2 ∧ e.slice < 256) | .inr _ => false) = true) ∧
    (let o : LoadOp := { unload := true, job := 0, addr := 0, len := 0 }
     check1 (modJob wReady 0 0 fun x => { x with loaded := true }) 0 o.job true = true ∧ check1 wReady 0 o.job true = false) := by decide +kernel

theorem wit_SequencersRunLoopsBranchesAndHalt :
    (canDo (settle (wOp (2 ^ 508)) 0) 0 0 = true) ∧
    (canDo (settle (wOp (2 ^ 507)) 0) 0 3 = true ∧ bLoopE (curBundle (settle (wOp (2 ^ 507)) 0) 0) = true) ∧
    (let s := modClu (wOp (2 ^ 509)) 0 fun x => { x with sel := some (0, true) }
     (clu (settle s 0) 0).sel = some ((clu (settle s 0) 0).pc, true) ∧ canDo (settle s 0) 0 1 = true) := by decide +kernel

theorem wit_SequencersRunLoopsBranchesAndHalt_more :
    (let u := settle (wOp (2 ^ 509)) 0
     (clu u 0).run = true ∧ (clu u 0).halting = false ∧ (clu u 0).wait = none ∧ (clu u 0).sel = none ∧ (clu u 0).altV = false ∧
       findBp u 0 17 (ctlOf (clu u 0)) ((clu u 0).did.contains 0) = some 0) ∧
    (let u := settle (wOp (2 ^ 511)) 0; canDo u 0 3 = true ∧ bHalt (curBundle u 0) = true ∧ inFlight u 0 = false ∧ (clu u 0).far = []) ∧
    (let u := settle (wOp (2 ^ 510)) 0; canDo u 0 2 = true ∧ syncDiffers u (curPart u 0) 0 (clu u 0).pc = false) ∧
    (let s := modClu (wOp (2 ^ 508)) 0 fun x => { x with wait := some (.slotEmpty 0 1) }
     (clu s 0).wait = some (.slotEmpty 0 1) ∧ waitOver s 0 (.slotEmpty 0 1) = true ∧ 1 ∈ members s (clu s 0).part ∧ (clu s 0).halting = false ∧
       inFlight s 0 = false ∧ (clu s 0).far = [] ∧ (curImg s 0).paged = false ∧ bundleDone s 0 = false) := by decide +kernel

theorem wit_SequencersRunLoopsBranchesAndHalt_lockstep :
    let s := wOp2 (2 ^ 510)
    let u := settle s 0
    canDo u 0 2 = true ∧ syncDiffers u (curPart u 0) 0 (clu u 0).pc = true ∧ activeSt (part u (curPart u 0)).st = true ∧
      u.clk.phase ≠ .commit := by decide +kernel

theorem wit_ControlCoreWindowActs :
    let s := { modClu wIssue 0 fun x => { x with hnd := some (.pitch, 0), sum := [5] } with
      lanes := [(laneKey 0 0 0 0, some {})], clk := { phase := .dispatch } }
    ccRuns s 0 = true ∧ (clu s 0).q0.length < 64 ∧ s.clk.phase = .dispatch ∧
      (lane s (laneKey (clu s 0).part (ccJob s 0) 0 (wfld 0 0 9))).isSome = true ∧ (clu s 0).sum = [5] ∧ (clu s 0).hndQ = [] ∧
      ccRuns (modClu s 0 fun x => { x with sum := [], hndQ := [(.summary, 0)], q0 := List.replicate 64 { d := 0 } }) 0 = true ∧
      (clu (modClu s 0 fun x => { x with hnd := none }) 0).run = true := by decide +kernel

theorem wit_ControlCoreWindowActs_post :
    let s := modClu wIssue 0 fun x => { x with effs := [(0, .post 7)] }
    (clu s 0).effs = [(0, .post 7)] ∧ 0 ≤ (clu s 0).icyc ∧ (clu s 0).sum.length < 256 := by decide +kernel

theorem wit_VectorMovesAndMasksWriteTheirResult :
    (let s := wVe 0x01 0; veReady s 0 0x01 = true) ∧ (let s := wVe 0x04 0; veReady s 0 0x04 = true) ∧
    (let s := wVe 0x05 0; veReady s 0 0x05 = true ∧ fld (slotBits (atIssue s 0) 0 .ve) 54 6 = 0) ∧
    (let s := wVe 0x05 (63 * 2 ^ 54); canOp (settle s 0) 0 .ve 0x05 = true ∧ 32 ≤ fld (slotBits (atIssue s 0) 0 .ve) 54 6 ∧
      veCores (atIssue s 0) 0 ≠ []) := by decide +kernel

theorem wit_VectorMovesAndMasksWriteTheirResult_masks :
    (let s := wVe 0x06 0; veReady s 0 0x06 = true ∧ 0 ∈ veCores (atIssue s 0) 0) ∧
    (let s := wVe 0x07 0; veReady s 0 0x07 = true ∧ fld (slotBits (atIssue s 0) 0 .ve) 57 3 ≤ 5 ∧
      live (coreAt (atIssue s 0) 0) 0 0 0 = true) ∧
    (let s := wVe 0x07 (7 * 2 ^ 57); canOp (settle s 0) 0 .ve 0x07 = true ∧ 5 < fld (slotBits (atIssue s 0) 0 .ve) 57 3) := by decide +kernel

theorem wit_VectorArithmeticWritesAndFlags :
    [0x08, 0x09, 0x0A, 0x0B].all (fun o => veReady (wVe o 0) 0 o) = true ∧ 0 ∈ veCores (atIssue (wVe 0x08 0) 0) 0 := by decide +kernel

theorem wit_VectorArithmeticWritesAndFlags_more :
    [0x0C, 0x0D, 0x0E, 0x0F].all (fun o => veReady (wVe o 0) 0 o) = true := by decide +kernel

theorem wit_VectorBitOpsAndShifts :
    [0x10, 0x11, 0x12].all (fun o => veReady (wVe o 0) 0 o) = true ∧
    [0x13, 0x14, 0x15].all (fun o => veReady (wVe o 0) 0 o) = true := by decide +kernel

theorem wit_VectorFunctionsReductionsAndTiles :
    [0x18, 0x19, 0x1A, 0x20, 0x21, 0x22].all (fun o => veReady (wVe o 0) 0 o) = true ∧ 0 ∈ veCores (atIssue (wVe 0x18 0) 0) 0 ∧
    0 < fld (slotBits (atIssue (wVe 0x22 (2 ^ 51)) 0) 0 .ve) 51 5 ∧ veReady (wVe 0x22 (2 ^ 51)) 0 0x22 = true ∧
    veTY (slotBits (atIssue (wVe 0x18 0) 0) 0 .ve) = 0 ∧ fld (slotBits (atIssue (wVe 0x18 0) 0) 0 .ve) 57 3 = 0 := by decide +kernel

theorem wit_VectorFunctionsReductionsAndTiles_bad :
    let s := wVe 0x22 (7 * 2 ^ 57)
    canOp (settle s 0) 0 .ve 0x22 = true ∧ 5 < fld (slotBits (atIssue s 0) 0 .ve) 57 3 ∧ veCores (atIssue s 0) 0 ≠ [] := by decide +kernel

theorem wit_VectorConversionsPostsAndFlags :
    [0x28, 0x29, 0x30, 0x31].all (fun o => veReady (wVe o 0) 0 o) = true ∧ 0 ∈ veCores (atIssue (wVe 0x28 0) 0) 0 ∧
    bitAt (slotBits (atIssue (wVe 0x31 (2 ^ 59)) 0) 0 .ve) 59 = true := by decide +kernel

theorem wit_VectorConversionsPostsAndFlags_bad :
    (let s := wVe 0x28 (3 * 2 ^ 58); canOp (settle s 0) 0 .ve 0x28 = true ∧ fld (slotBits (atIssue s 0) 0 .ve) 58 2 = 3) ∧
    (let s := wVe 0x29 (15 * 2 ^ 56); canOp (settle s 0) 0 .ve 0x29 = true ∧ 10 < fld (slotBits (atIssue s 0) 0 .ve) 56 4) := by decide +kernel

theorem wit_LoadsStoresAndGateChains :
    canOp (settle (wVe 0x02 0) 0) 0 .ve 0x02 = true ∧ canOp (settle (wVe 0x03 0) 0) 0 .ve 0x03 = true ∧ 0 ∈ veCores (atIssue (wVe 0x02 0) 0) 0 ∧
    wOk w0 .pf (clPg 0 + 0x140 + 4 * 0) = true := by decide +kernel

theorem wit_LoadsStoresAndGateChains_chain :
    (let s := wGp false; canOp (settle s 0) 0 .gp 1 = true ∧ gpTogether (curBundle (atIssue s 0) 0) = false) ∧
    (let s := wGp true; canOp (settle s 0) 0 .gp 1 = true ∧ gpTogether (curBundle (atIssue s 0) 0) = true) := by decide +kernel

theorem wit_MatrixEngineOpsRun :
    [1, 2, 3, 4, 5, 16].all (fun o => canOp (settle (wMe o 0) 0) 0 .me o) = true ∧ 0 ∈ meCores (atIssue (wMe 1 0) 0) 0 ∧
    fld (slotBits (atIssue (wMe 1 0) 0) 0 .me) 85 3 < 5 ∧ bookedNow (atIssue (wMe 1 0) 0) 0 0 0 = false ∧
    5 ≤ fld (slotBits (atIssue (wMe 1 (7 * 2 ^ 85)) 0) 0 .me) 85 3 := by decide +kernel

theorem wit_MatrixEngineOpsRun_plans :
    (let u := atIssue (wMe 4 0) 0; let w := slotBits u 0 .me
     isTa (coreAt u 0).mode = false ∧ (opSlots u 0 0 (fld w 64 24) (meTileSlots 0) false).isSome ∧ (streamPlan u 0 0 w).isRight ∧
      proKind w = 0) ∧
    (let u := setCore (atIssue (wMe 2 0) 0) 0 { coreAt (atIssue (wMe 2 0) 0) 0 with mode := 1 }
     isTa (coreAt u 0).mode = true ∧ (opSlots u 0 0 (fld (slotBits u 0 .me) 64 24) 1 false).isSome) := by decide +kernel

theorem wit_MatrixEngineOpsRun_runs :
    (let t := modSlot wIssue 0 0 fun x => { x with full := true }; let r : OpRun := { kind := .loadw, src := [some (0, 0)] }
     r.next ≠ 0 ∧ 256 - r.part ≤ 256 ∧ refFull t (loadwAt r) = true ∧ rdBad t { r := loadwAt r } = [] ∧ r.got.length < meRowW r.mode * 1 ∧
      meRowW r.mode * 1 ≤ 256) ∧
    (let t := modSlot wIssue 0 0 fun x => { x with full := true }
     let r : OpRun := { kind := .stream, src := [some (0, 0)], nb := 8, next := 7 }
     r.next = itemStep r.mode * 7 ∧ proKind r.bits = 0 ∧ waitRead t [(itemRd r.mode r.src 7).r] = none ∧
      rdBad t (itemRd r.mode r.src 7) = []) ∧
    (let r : OpRun := { kind := .stream, bits := 2 ^ 33, next := 32, items := [([], 0)] }
     r.next = 1 + itemStep r.mode * 31 ∧ srSwap r.bits = true ∧ r.items[0]? = some ([], 0)) ∧
    (let r : OpRun := { kind := .drain, next := 2 }; r.next ≠ 1 ∧ bitAt r.bits 36 = false) := by decide +kernel

theorem wit_LocalMemoryOpsRun :
    (let s := wLm 1 0; let u := atIssue s 0; canOp (settle s 0) 0 .lm 1 = true ∧
      lmSlots u 0 (fld (slotBits u 0 .lm) 32 24) 1 true = some [[.slot 0 0]]) ∧
    canOp (settle (wLm 3 0) 0) 0 .lm 3 = true := by decide +kernel

theorem wit_LocalMemoryOpsRun_copy :
    let s := wLm 2 (2 ^ 33); let u := atIssue s 0; let w := slotBits u 0 .lm
    canOp (settle s 0) 0 .lm 2 = true ∧ lmSlots u 0 (fld w 8 24) 1 false = some [[.slot 0 0]] ∧
    lmSlots u 0 (fld w 32 24) 1 true = some [[.slot 0 1]] ∧ sameCore [.slot 0 0] [.slot 0 1] = true ∧
    sharesSlot [.slot 0 0] [.slot 0 1] = false ∧ remoteSlot 0 [.slot 0 0, .slot 0 1] = none := by decide +kernel

theorem wit_LocalMemoryOpsRun_far :
    let s := wLm 2 (2 * 2 ^ 22 + 2 * 2 ^ 46 + 2 ^ 33); let u := modSlot (atIssue s 0) 16 0 fun x => { x with full := true }
    let w := slotBits u 0 .lm
    canOp (settle s 0) 0 .lm 2 = true ∧ lmSlots u 0 (fld w 8 24) 1 false = some [[.slot 16 0]] ∧
    lmSlots u 0 (fld w 32 24) 1 true = some [[.slot 16 1]] ∧ (remoteSlot 0 [.slot 16 0, .slot 16 1]).isSome = true ∧
    waitRead u [.slot 16 0] = none ∧ waitWrite u [.slot 16 1] = none ∧ rdBad u { r := .slot 16 0 } = [] := by decide +kernel

theorem wit_LocalMemoryOpsRun_dma :
    (let s := wLm 4 0; let u := atIssue s 0; canOp (settle s 0) 0 .lm 4 = true ∧
      lmSlots u 0 (fld (slotBits u 0 .lm) 32 24) 1 false = some [[.slot 0 0]]) ∧
    (let u := atIssue (wLm 4 (2 ^ 31 + 3 * 2 ^ 28)) 0; 4 < fld (slotBits u 0 .lm) 30 2 + (fld (slotBits u 0 .lm) 28 2 + 1)) ∧
    (let t := modSlot wIssue 0 0 fun x => { x with full := true }
     let r : OpRun := { kind := .copy, src := [some (0, 0)], dst := [some (0, 1)] }
     r.next = 1 + 2 * 0 ∧ waitRead t [(keptRd r.src 0 0 256).r] = none ∧ rdBad t (keptRd r.src 0 0 256) = [] ∧
      nth none r.dst 0 = some (0, 1) ∧ (clu t 0).q1.length + 1 ≤ 64) := by decide +kernel

theorem wit_NocCopiesAndRemoteAccesses :
    (let s := wNc (2 * 2 ^ 22 + 2 ^ 46); let u := atIssue s 0; let w := slotBits u 0 .nc
     canOp (settle s 0) 0 .nc 1 = true ∧ ncSlots u 0 (fld w 8 24) 1 false = some [(16, 0)] ∧
      ncSlots u 0 (fld w 32 24) 1 true = some [(0, 1)] ∧ smGet [] u.noc 0 = []) ∧
    (let s := wNc 0; let u := atIssue s 0; let w := slotBits u 0 .nc; let a := ncCore (hentry u 0 (refHandle (fld w 8 24)))
     canOp (settle s 0) 0 .nc 1 = true ∧ a / 16 = 0) := by decide +kernel

theorem wit_NocCopiesAndRemoteAccesses_done :
    let o : NocOp := { kind := .copy, src := [(16, 0)], dst := [(0, 1)] }
    let s := modSlot { wIssue with noc := [(0, [o])] } 16 0 fun x => { x with full := true }
    smGet [] s.noc 0 = [o] ∧ (bly s (curPart s 0)).rx = [] ∧ nocWaits s o = false ∧ nocWaits wIssue o = true ∧
    (∀ q ∈ o.src, (slotAt s q.1 q.2).full = true ∧ (slotAt s q.1 q.2).poison = 0) ∧ (∀ q ∈ o.dst, asyncEmpty s q.1 q.2 = true) ∧
    (∀ q ∈ o.src ++ o.dst, q.2 < 1024) ∧ o.src.Nodup ∧ o.dst.Nodup ∧ (∀ q ∈ o.src, q ∉ o.dst) ∧
    (clu s 0).run = true ∧ (clu s 0).halted = false ∧ (clu s 0).wait.isNone = true ∧ heldBack s 0 = false ∧
    hasFaulted s (curPart s 0) o.job = false ∧
    (slotAt (modSlot s 16 0 fun x => { x with poison := 1 }) 16 0).poison ≠ 0 ∧
    (clu (modClu s 0 fun x => { x with wait := some (.remote 16 0 18) }) 0).wait = some (.remote 16 0 18) := by decide +kernel

theorem wit_TransfersStartEndAndTimeOut :
    (let s := modClu wIssue 0 fun x => { x with q1 := [{ d := 0 }] }
     nextDesc (dq s 0 1) = some 0 ∧ (match descCheck s (curPart s 0) 0 0 with | .inl k => decide (k = 3) | .inr _ => false) = true) ∧
    (let d : Desc := { d := BitVec.ofNat 512 (8 * 2 ^ 32), started := true }; let s := modClu wIssue 0 fun x => { x with q1 := [d] }
     readyDesc s (dq s 0 1) = some 0 ∧ descDone d = false) ∧
    (let s := modClu wIssue 0 fun x => { x with q1 := [{ d := 0, started := true, src := [(0, 0, 0, 8)] }] }
     ((dq s 0 1).find? fun d => d.started && descWaits s d).isSome) ∧
    (wOk w0 .pf (clPg 0 + 0x184) = true ∧ hostReady w0 = true) := by decide +kernel

theorem wit_TransfersStartEndAndTimeOut_more :
    (let s := modClu wIssue 0 fun x => { x with wait := some (.slotFull 0 0) }; (clu s 0).wait = some (.slotFull 0 0)) ∧
    (let o : NocOp := { kind := .copy, src := [(16, 0)], dst := [(0, 1)] }; nocWaits { wIssue with noc := [(0, [o])] } o = true) ∧
    (asyncEmpty (modSlot wIssue 0 0 fun x => { x with full := true }) 0 0 = false) ∧
    hasFaulted wIssue (curPart wIssue 0) 0 = false := by decide +kernel

theorem wit_StreamCommandsAreCheckedThenAct :
    (wOk wStrm .pf (partPg 0 + 0x304) = true ∧ rb wStrm (strmStat 0) 1 = false ∧ rf wStrm (partPg 0 + 0x300) 0 20 = 5 ∧
      (strm wStrm 5).st = .active ∧ (strm wStrm 5).part = 0 ∧ steadyOf wStrm 0 = false ∧ hasKey wStrm (partParty wStrm 0) = true ∧
      strmXaddr wStrm 0 % 64 = 0 ∧ inWindow wStrm (partParty wStrm 0) (strmXaddr wStrm 0) (blobLen wStrm (strm wStrm 5)) = true) ∧
    (let s := wr wStrm (partPg 0 + 0x300) 0; wOk s .pf (partPg 0 + 0x304) = true ∧ rf s (partPg 0 + 0x300) 0 20 = 0) := by decide +kernel

theorem wit_StreamCommandsAreCheckedThenAct_more :
    (let s := setStrm wStrm 5 {}; (strm s 5).st = .free ∧ jobHomeOk s 0 = true ∧ strmBiv s 0 % 64 = 0 ∧ activeSt (part s 0).st = true ∧
      hasKey s (partParty s 0) = true ∧ inRegion s (partParty s 0) 0 (strmBiv s 0) (newBlobLen s 0 5) = true ∧
      strmXaddr s 0 % 64 = 0 ∧ inWindow s (partParty s 0) (strmXaddr s 0) (newBlobLen s 0 5) = true) ∧
    (let s := modStrm wStrm 5 fun x => { x with st := .parked }; (strm s 5).st = .parked ∧ (strm s 5).bad = false ∧
      activeSt (part s 0).st = true) ∧
    (let s := modStrm wStrm 5 fun x => { x with part := 1 }; (strm s 5).part ≠ 0 ∧ (strm s 5).st = .active) ∧
    (let s := modStrm (wf wStrm (strmStat 0) 1 1 1) 5 fun x => { x with req := .xport 0 }
     wOk s .pf (partPg 0 + 0x304) = true ∧ rb s (strmStat 0) 1 = true ∧ rf s (partPg 0 + 0x300) 0 20 = 5 ∧ (strm s 5).st = .active ∧
      xportWaits (strm s 5) = true) := by decide +kernel

theorem wit_StreamTransfersComplete :
    (let s := modStrm wStrm 5 fun x => { x with st := .parking, xfer := .write true }
     sideBad s 5 = false ∧ s.hbmBad = [] ∧ s.meeBad = [] ∧ (strm s 5).st = .parking) ∧
    (let s := modStrm wStrm 5 fun x => { x with st := .unparking, xfer := .read }; checkBlob s 5 (strm s 5).biv = none) ∧
    (let s := modStrm wStrm 5 fun x => { x with st := .moving, xfer := .imprt 0 }; importCause s 5 0 = some 8 ∧ (strm s 5).part < 16) ∧
    (let s := { modStrm wStrm 5 fun x => { x with idlePark := 1, idle := 1 } with clk := { phase := .dispatch } }
     s.clk.phase = .dispatch ∧ (strm s 5).part = 0 ∧ idleDue s 5 = true) := by decide +kernel

theorem wit_StreamTransfersComplete_sealed :
    let s := modStrm wStrm 5 fun x => { x with st := .moving, xfer := .xport 0 true, sealQ := some { id := 0, key := [], iv := 0 } }
    sideFull s 5 = true ∧ sideBad s 5 = false ∧ (strm s 5).sealQ.isSome = true ∧ (slotOfParty s 1).isSome = true ∧
      ((slotOfParty s 1).map fun i => (keySlot s i).pk.isSome) = some true ∧ (strm s 5).party = 1 := by decide +kernel

theorem wit_KvEngineAnswersControlCores :
    (let s := wKv; ccRuns s 0 = true ∧ kvPre s 0 0 = 0 ∧ hbmPoison s (sdAddr s 0 0) 64 = false ∧ sdDropped s 0 0 = false ∧
      wfld 0 0 22 < sdCap s 0 0 ∧ sdCap s 0 0 ≤ wfld 5 0 22 ∧ s.clk.phase = .dispatch ∧ (lane s (kvLane s 0 0x80000000)).isSome = true ∧
      bitAt (0x80000000 : Word).toNat 31 = true ∧ (part s 0).kvRes.any (fun p => p.1 = 0) = false) ∧
    ccRuns wKv 0 = true ∧ kvPre wKv 0 (wfld 7 0 20) = 1 := by decide +kernel

theorem wit_KvEngineAnswersControlCores_more :
    (let s := setSdBit wKv 0 0 29 true; sdDropped s 0 0 = true ∧ (lane s (kvLane s 0 0x80000000)).isSome = true) ∧
    (let s := modPart wKv 0 fun p => { p with kvRes := [(0, 0)] }; (part s 0).kvRes.any (fun p => p.1 = 0) = true) ∧
    (let s := { wKv with hbmBad := [(sdAddr wKv 0 0 / 8, true)] }; kvPre s 0 0 = 0 ∧ hbmPoison s (sdAddr s 0 0) 64 = true) := by decide +kernel

theorem wit_KvHostCommandsQueueOrRun :
    (wOk wKv .pf (partPg 0 + 0x3A0) = true ∧ kvBusy wKv 0 = false ∧ kvOn wKv 0 = true ∧ rOk wKv .pf (partPg 0 + 0x3C0) = true) ∧
    (let s := modPart wKv 0 fun p => { p with st := .ready }
     (part s 0).st = .ready ∧ kvRegion s 0 (kvBase s 0) (kvEnd s 0 - kvBase s 0) = true ∧
      kvRegion s 0 (kvSeqBase s 0) (64 * kvSeqs s 0) = true) ∧
    (wOk w0 .pf (partPg 0 + 0x3A0) = true ∧ kvBusy w0 0 = false ∧ kvOn w0 0 = false) ∧
    (let s := wf wKv (partPg 0 + 0x3B8) 1 1 1; kvBusy s 0 = true) ∧
    (let s := modPart wKv 0 fun p => { p with kvRq := [3] }; (part s 0).kvRq = [3]) := by decide +kernel

theorem wit_ExpanderLoadsAndRegisters :
    (wOk wStrm .pf (expPg 0 + 0x100) = true ∧ rb wStrm (expStat 0) 1 = false ∧
      (match expLoadCheck wStrm 0 0 with | .inl k => decide (k = 2 ∨ k = 6 ∨ k = 1) | .inr _ => false) = true ∧ (job wStrm 0 1).loaded = false ∧
      entryRead wStrm 0 0 = false) ∧
    (let s := wr wStrm (expStat 0) 2; rb s (expStat 0) 1 = true ∧ wOk s .pf (expPg 0 + 0x100) = true) ∧
    (let o : ExpLoad := { cmd := 0, dst := 0, src := 0, len := 0, kind := .exp16 }
     let s := modPart wStrm 0 fun p => { p with expLoad := some o }
     (part s 0).expLoad = some o ∧ o.kind ≠ .wrap ∧ (clu s o.clus).expQ = [] ∧ (clu s o.clus).expRun = none ∧
      loadSt (part s 0).st = true ∧ (loadBlock s 0 o).2.2 = .bad 11) := by decide +kernel

theorem wit_ExpanderLoadsAndRegisters_wrap :
    let o : ExpLoad := { cmd := 0, dst := 0, src := 0, len := 0, kind := .wrap }
    let s := modPart wStrm 0 fun p => { p with expLoad := some o }
    (part s 0).expLoad = some o ∧ keyById s (partParty s 0) (bf (hbmRead s 0 128) 0x18 8) labelImg = none := by decide +kernel

theorem wit_ExpanderReadsAtUse :
    let s := modClu wIssue 0 fun x => { x with hnd := some (.pitch, 0), expQ := [{}] }
    ccRuns s 0 = true ∧ (clu s 0).expQ = [{}] ∧ (clu s 0).expRun = none ∧ rb s (expTblA (curPart s 0) 0) 31 = false ∧
    (let u := modClu s 0 fun x => { x with expRun := some {} }
     (clu u 0).expRun = some {} ∧ (match (readBlock u 0 {}).2.2 with | .bad k => decide (k = 9 ∨ k = 10) | .good _ => false) = true) ∧
    hasFaulted s (curPart s 0) 0 = false := by decide +kernel

theorem wit_RingsRecordsAndEmission :
    (wOk wIng .pf (ingPg 0 + 0x10C) = true ∧ wOk wIng .pf (ingPg 0 + 0x130) = true ∧ 0 ≤ sdiff 2 (rdN wIng (ingPg 0 + 0x10C)) ∧
      (2 + 2 ^ 32 - rdN wIng (ingPg 0 + 0x110)) % 2 ^ 32 ≤ ringN (rdN wIng (ingPg 0 + 0x108)) ∧ sdiff 0 (rdN wIng (ingPg 0 + 0x10C)) < 0) ∧
    (activeSt (part wIng 0).st = true ∧ ringOn (rdN wIng (ingPg 0 + 0x108)) = true ∧ (ing wIng 0).rd ≠ rdN wIng (ingPg 0 + 0x10C) ∧
      rcOk1 256 [] = false) ∧
    (let s := modIng { wIng with emis := [(0, [{}])] } 0 fun g => { g with emGo := [1] }
     min (emReleased s 0) (emFree s 0) = 1 ∧ ringOn (rdN s (ingPg 0 + 0x128)) = true ∧
      recSize {} ≤ ringSz (rdN s (ingPg 0 + 0x128))) := by decide +kernel

theorem wit_RingsRecordsAndEmission_record :
    let s := wIng
    rcOk1 (ringSz (rdN s (ingPg 0 + 0x108))) wRec = true ∧ handleBad s 0 wRec = false ∧ rcHandle wRec = 5 ∧ pfGroup (profOf s 5) = false ∧
      (strm s 5).bad = false ∧ (strm s 5).st ≠ .moving ∧ seqKind (srcOf (strm s 5) 0) (rcDisc wRec) (rcSeq wRec) (pfGap (profOf s 5)) ≠ .old := by decide +kernel

theorem wit_GroupsFeaturesAndProfiles :
    (wOk wIng .pf (ingPg 0 + 0x144) = true ∧ profErr wIng 0 0 (profData wIng 0) = 1) ∧
    (let s := wIng; activeSt (part s 0).st = true ∧ (strm s 5).part = 0 ∧ (strm s 5).st ≠ .free ∧ nextRaw (strm (reloadCtx s 5) 5) = none) ∧
    (let s := modStrm (wrN wIng (ingPg 0 + 0x118) 16) 5 fun x => { x with queue := [{ pres := true }] }; (nextRaw (strm (reloadCtx s 5) 5)).isSome = true ∧
      pfInRow (profOf (reloadCtx s 5) 5) + ctxSlots (profOf (reloadCtx s 5) 5) ≠ 0 ∧ feTurn s 0 5 = true) := by decide +kernel

theorem wit_GroupsFeaturesAndProfiles_group :
    let s := wGroup
    (cutNs s).isSome = true ∧ activeSt (part s 0).st = true ∧ (strm s 5).part = 0 ∧ grouping s 5 = true ∧ s.clk.cutDone = false ∧
      (strm s 5).inp.gtick ≠ some (numAfter s 1) := by decide +kernel

theorem wit_PortsSendReceiveAndLock :
    (pcEn (pCfg wPort 0) = true ∧ pcClk (pCfg wPort 0) = 0 ∧ hasOut 0 = true ∧ (prt wPort 0).lock = true) ∧
    (let s := modPrt wPort 8 fun x => { x with good := 63 }
     slavePort s 8 = true ∧ (prt s 8).lock = false ∧ (prt s 8).good = 63 ∧ (prt s 8).times = []) ∧
    (let s := modPrt wPort 8 fun x => { x with good := 63, times := [0] }
     (prt s 8).times = [0] ∧ nearPeriod (pHz s 8) (tbNs (toTb s (tbNs (toTb s ((1000000000 / pHz s 8) * uNs)) * uNs)) - 0) = true) ∧
    (let s := modPrt wPort 8 fun x => { x with lock := true, times := [0] }
     (prt s 8).times = [0] ∧ slavePort s 8 = true ∧ (prt s 8).lock = true ∧ pHz s 8 ≠ 0) ∧
    (let s := modPrt wPort 8 fun x => { x with non := true }; (prt s 8).non = true ∧ (prt s 8).csBad = false ∧
      (prt s 8).since = 8192) := by decide +kernel

theorem wit_PortRegistersAreChecked :
    hostReady wPort = true ∧ rb wPort (portPg 1 + 0x30) 0 = false ∧ pcEn (pCfg wPort 1) = false ∧ pCfgBad 1 (Nat.land 0x80000001 pCfgMask) = false ∧
    pCfgBad 1 (Nat.land 0x80060000 pCfgMask) = true ∧ pcEn (pCfg wPort 0) = true ∧ hasOut 0 = true ∧
    piOk (rdN wPort (portPg 0 + 0x128)) (rdN wPort (portPg 0 + 0x12C)) (rdN wPort (portPg 0 + 0x130)) 1 = true ∧
    chPend wPort 0 0 = false ∧ (prt wPort 0).isSil = true ∧
    chPend (modPrt wPort 0 fun x => { x with pend := [(0, 5)] }) 0 0 = true := by decide +kernel

theorem wit_SpdmResponderAnswersAndKeepsSessions :
    epUp w0 0 = true ∧ epUp State.reset 0 = false ∧ (sess w0 0).live = false ∧
    (let s := setSess w0 0 { live := true, ep := 0 }; (sess s 0).live = true ∧ (sess s 0).ep = 0 ∧ (sess s 0).done = false ∧ epUp s 0 = true) ∧
    (let s := setSess w0 0 { live := true, ep := 0, done := true }; (sess s 0).done = true ∧ ¬((sess s 0).ep = 1)) ∧
    (let s := { w0 with sess := (List.range 8).map fun i => (i, { live := true }) }; ∀ i, i < 8 → (sess s i).live = true) ∧
    (measBlock w0 7).isSome = true := by decide +kernel

theorem wit_KeyServiceRequestsActOnTheirSlot :
    (sirviUp wKey = true ∧ mbBusy wKey = false ∧ (sess wKey 0).live = true ∧ dbgOn wKey = false ∧ keyAuth wKey 0 0 = true ∧ keyAuth wKey 0 1 = false ∧
      (keySlot wKey 0).pk.isSome = true ∧ (keySlot wKey 0).erasing = false ∧ (keySlot wKey 0).rot = none ∧ (keySlot wKey 0).rk = none) ∧
    (let s := setKeySlot wKey 0 { keySlot wKey 0 with pk := none }; keyAuth s 0 0 = true ∧ (keySlot s 0).pk = none ∧
      idHeld s 0 7 = false ∧ (List.replicate 32 (0 : Byte)).length = 32) ∧
    (let s := setKeySlot wKey 0 { keySlot wKey 0 with erasing := true }; (keySlot s 0).erasing = true ∧
      partsOfParty s (keySlot s 0).party = [] ∧ (keySlot s 0).party ≠ 0) ∧
    (idHeld wKey 0 9 = false ∧ (keySlot wKey 0).keyid ≠ 9 ∧ (keySlot wKey 0).rkeyid ≠ 9) := by decide +kernel

theorem wit_PolicyAndSteadyModeRequests :
    (sirviUp wKey = true ∧ mbBusy wKey = false ∧ (sess wKey 0).live = true ∧ dbgOn wKey = false ∧ keyAuth wKey 0 0 = true ∧ (keySlot wKey 0).erasing = false ∧
      (keySlot wKey 0).party ≤ 16 ∧ (keySlot wKey 0).pk.isSome = true ∧ steadyOn wKey 1 = false) ∧
    (let s := wr wKey (ptyPg 1 + 0x218) 0x40010000
     wOk s .pf (ptyPg 1 + 0x21C) = true ∧ rb s (ptyPg 1 + 0x218) 30 = true ∧ fld 0x101 0 8 = rf s (ptyPg 1 + 0x218) 16 8 ∧
      bitAt 0x101 8 = true) ∧
    steadyOn (wr wKey (ptyPg 1 + 0x218) 0x80000000) 1 = true ∧
    (let s := setKeySlot wKey 0 { keySlot wKey 0 with pk := none }; keyAuth s 0 0 = true ∧ (keySlot s 0).pk = none) := by decide +kernel

theorem wit_IdeTdispAndDebugEntry :
    (let s := setSess w0 0 { live := true, ep := 0, done := true }
     epUp s 0 = true ∧ (sess s 0).live = true ∧ (sess s 0).ep = 0 ∧ (sess s 0).done = true ∧ ideOwner 0 = 0 ∧ (ide s 0).k0 = []) ∧
    (let s := setSess wVf 0 { live := true, ep := 1, done := true }
     epUp s 1 = true ∧ (sess s 0).ep = 0 + 1 ∧ tdi s 0 = 0 ∧ ideSecure s 0 = true ∧ tdi (setTdi s 0 1) 0 = 1) ∧
    (mbUp w0 true 0x70 = true ∧ mbUp w0 true 0x71 = true ∧ mbBusy w0 = false ∧ dbgOn w0 = false ∧ grantOk w0 [] = false) ∧
    (let s := modSirvi w0 fun v => { v with dbgReq := some (0, true) }; s.sirvi.dbgReq = some (0, true) ∧ allOff s = true ∧ mbBusy s = true ∧ s.sirvi.swait = none ∧ s.sirvi.wait = none ∧
      s.sirvi.mbq = []) := by decide +kernel

theorem wit_LinkPortsTrainAttestAndFall :
    (hostReady w0 = true ∧ lkState w0 0 = 0 ∧ rb w0 (lkReg 0 0) 0 = false ∧ bitAt (1 : Word).toNat 0 = true ∧ bitAt (1 : Word).toNat 1 = false) ∧
    lkState (setLk w0 0 1) 0 = 1 ∧ lkState (setLk w0 0 2) 0 = 2 ∧ lkRx (setLk w0 0 3) 0 = true ∧ lkState (setLk w0 0 4) 0 = 4 ∧
    nextCoord w0 0 < 256 ∧ (let s := wr w0 (lkReg 0 0) 1; rb s (lkReg 0 0) 0 = true ∧ rb s (lkReg 0 0) 1 = false ∧ lkState s 0 = 0) := by decide +kernel

theorem wit_FlitsPassTheChecksInOrder :
    let f : Flit := { wFlit0 with fecOk := false, nak := true }
    lkRx wLink 0 = true ∧ flitCrcOk f = false ∧ rowFits f 4 = true ∧ rowFits f 2 = true ∧ rowFits f 0 = true ∧ rowFits f 3 = true ∧
    kindFits f .send = true ∧ kindFits f .coll = true ∧ kindFits f .blob = true ∧ kindFits f .adv = true ∧ kindFits f .release = true ∧
    kindFits f .bhb = true := by decide +kernel

theorem wit_FlitsPassTheChecksInOrder_good :
    let f : Flit := { wFlit0 with crc := BitVec.ofNat 32 (crc32c (flitBytes wFlit0)) }
    lkRx wLink 0 = true ∧ flitCrcOk f = true ∧ flitLegal f = true ∧ rowFits f 0 = true ∧ flitSeqd f = false ∧
    f.epoch.toNat = (lport wLink 0).rxEp ∧ f.typ = 0 ∧ f.nak = false := by
  refine ⟨by decide +kernel, flitCrcOk_of_crc _ rfl List.length_replicate, by decide +kernel, ?_, by decide +kernel, by decide +kernel, by decide +kernel, by decide +kernel⟩
  unfold rowFits
  rw [Bool.or_eq_true]
  exact .inr (by decide +kernel)

theorem wit_LinkOpsAndCollectiveTimeouts :
    (let s := wNcOp 0x40; canOp (settle s 0) 0 .nc 0x40 = true ∧ (ncSlots (atIssue s 0) 0 (fld (slotBits (atIssue s 0) 0 .nc) 32 24) 1 false).isSome ∧
      ncCore (hentry (atIssue s 0) 0 0) / 16 = 0 ∧ smGet [] (atIssue s 0).noc 0 = []) ∧
    canOp (settle (wNcOp 0x48) 0) 0 .nc 0x48 = true ∧ fld (bImm (curBundle (atIssue (wNcOp 0x48) 0) 0)) 0 11 = 0 ∧ hostReady w0 = true := by decide +kernel

theorem wit_LinkOpsAndCollectiveTimeouts_coll :
    (let o : NocOp := { kind := .coll, src := [], dst := [], coll := { sent := true } }
     let s := { wIssue with noc := [(0, [o])] }
     smGet [] s.noc 0 = [o] ∧ o.kind = .coll ∧ o.coll.sent = true ∧ collHere s o = false ∧ hasFaulted s (curPart s 0) o.job = false) ∧
    (let u := atIssue wCollOp 0; let w := slotBits u 0 .nc; canOp (settle wCollOp 0) 0 .nc 0x48 = true ∧ fld (bImm (curBundle u 0)) 0 11 = 1 ∧
      (collOps u 0 (fld w 32 24) (fld w 8 24) 1 1).isSome = true) := by decide +kernel

theorem wit_BelayDetectsAndPromotes :
    (let s := wr (wr wRun (blyReg 0 0x440) 0x80000000) (blyReg 0 0x444) 0x80000000
     rb s (blyReg 0 0x440) 31 = true ∧ activeSt (part s 0).st = true ∧ blyRxOn s 0 = true ∧ blyStat s 0 2 = false ∧
      (blySend s 0 (partOrigin s 0) .bhb 0 0 (natLe 8 0) 0).isSome = false ∧ hostReady s = true) ∧
    (let s := modBly wRun 0 fun b => { b with warm := true, hot := true }; (bly s 0).warm = true ∧ (bly s 0).hot = true ∧ (bly s 0).ents = []) := by decide +kernel

theorem wit_MailboxCommandsAreTakenAndAnswered :
    mbUp State.reset false 1 = false ∧ mbUp w0 false 1 = true ∧ mbBusy w0 = false ∧ w0.sirvi.boot ≠ .tripped ∧
    mbBusy (modSirvi w0 fun v => { v with dbgReq := some (0, true) }) = true ∧
    (let s := modSirvi w0 fun v => { v with boot := .tripped }; mbUp s true 2 = true ∧ mbBusy s = false ∧ s.sirvi.boot = .tripped) := by decide +kernel

theorem wit_WindowCommandsCheckThenAct :
    let s := setKeySlot w0 0 { party := 1 }
    let t := putWin s 1 0 8192 (2 ^ 31 + 1)
    mbUp s false 0x20 = true ∧ mbBusy s = false ∧ dbgOn s = false ∧ slotOfParty s 1 = some 0 ∧ slotOfParty s 2 = none ∧ (keySlot s 1).party = 0 ∧
    winFree s 1 = true ∧ winValid s 1 = false ∧ winFits s 1 0 8192 = true ∧ winApart s 1 0 8192 = true ∧
    winFits s 1 1 8192 = false ∧ winValid t 1 = true ∧ winFree t 1 = true ∧ winFits t 2 4096 4096 = true ∧ winApart t 2 4096 4096 = false ∧
    regionsOk 8192 (List.replicate 6 (0, 0)) = true ∧ regionsOk 8192 [] = false ∧ regionsOk 8192 (regionsOf t 1) = true ∧ winSize t 1 = 8192 ∧
    groupsOk (List.replicate 16 0) = true ∧ groupsOk [] = false ∧ devRdy s = true ∧ allOff s = true ∧ rf s (hbmPg + 0x100) 0 1 = 0 ∧
    (∀ k, k < 16 → windowsIn (putMap s 0 (List.replicate 16 0)) (k + 1) = true) := by decide +kernel

theorem wit_LimitsFirmwareAndImagesAreKept :
    mbBusy w0 = false ∧ sirviUp w0 = true ∧ pageUp w0 .mbox = true ∧ lkState w0 0 = 0 ∧ limDefault 0 0 = some 1520 ∧ limDefault 0 2 = none ∧
    limDefault 0 1 = some 1680 ∧ (fwSlot w0 true).valid = false ∧
    (let s := modSirvi w0 fun v => { v with run := some false, sel := false, fell := false, slotA := { image := [], valid := true } }
     (fwSlot s false).valid = true ∧ s.sirvi.run = some s.sirvi.sel ∧ s.sirvi.fell = false) ∧
    svnOk w0 [] = true ∧ imgFind w0 [1] = none ∧ imgOk (natLe 4 0x54394A50 ++ natLe 4 0 ++ natLe 8 16) = true ∧ imgDrop w0 [1] = [] ∧
    (let s := putWin (modSirvi w0 fun v => { v with store := [{ name := [1], obj := [7] }] }) 1 0 8192 (2 ^ 31 + 1)
     (imgFind s [1]).isSome = true ∧ winValid s 1 = true ∧ inGeneral s 1 0 1 = true ∧ devRdy s = true) := by decide +kernel

theorem wit_PowerAndBootSteps :
    let s (b : Boot) := modSirvi State.reset fun v => { v with boot := b }
    (s .off).sirvi.boot = .off ∧ slotPass (s .off) false = true ∧ slotPass (s .off) true = false ∧
    slotPass (modSirvi (s .off) fun v => { v with slotA := {}, slotB := { valid := true } }) false = false ∧
    slotPass (modSirvi (s .off) fun v => { v with slotA := {}, slotB := { valid := true } }) true = true ∧
    State.reset.sirvi.boot = .rom ∧ State.reset.sirvi.run = some State.reset.sirvi.sel ∧ State.reset.sirvi.fell = false ∧
    (s .sirvi).sirvi.wait = none ∧ mbBusy (s .sirvi) = false ∧ mbBusy State.reset = false ∧ w0.sirvi.boot = .ready := by decide +kernel

theorem wit_ResetsTakeTheirKindOfReset :
    w0.sirvi.boot = .ready ∧ mbBusy w0 = false ∧ w0.sirvi.perst = false ∧ hostUp w0 = true ∧
    (let s := modSirvi w0 fun v => { v with boot := .sirvi }; s.sirvi.boot = .sirvi ∧ s.sirvi.perst = false ∧ hostUp s = true) ∧
    (let s := modSirvi w0 fun v => { v with boot := .tripped }; s.sirvi.boot = .tripped ∧ s.sirvi.perst = false) ∧
    (let s := modSirvi w0 fun v => { v with boot := .sirvi, wait := some .perst }; s.sirvi.wait = some .perst) ∧
    mbBusy (modSirvi w0 fun v => { v with dbgReq := some (0, true) }) = true := by decide +kernel

theorem wit_SensorsLimitsAndTheSummitFlush :
    w0.sirvi.boot = .ready ∧ senFaulty w0 0 = false ∧ senFaulty w0 95 = false ∧ inRange 0 400 = true ∧ inRange 64 400 = true ∧
    State.reset.sirvi.boot ≠ .sirvi ∧ State.reset.sirvi.boot ≠ .ready ∧ sirviUp w0 = true ∧ w0.sirvi.summit.gap = 0 ∧ sirviUp State.reset = false ∧
    (let s := modSens w0 fun x => { x with excess := true }; s.sirvi.sens.excess = true ∧ opComing s = 0) ∧
    opComing { w0 with clk := { cfg := { opfloor := 1 } } } < 1 ∧ limOf w0 0 1 ≤ 1680 := by decide +kernel

/-- A sample of good readings exists. -/
theorem wit_SensorsLimitsAndTheSummitFlush_readings :
    let rs : Readings := (List.range 96).map fun i => if i < 72 then some 400 else if i < 88 then some (Config.nominalMv (i - 72)) else some 0
    reading rs 0 = some 400 ∧ reading rs 72 = some (Config.nominalMv 0 : Int) ∧ voltOver w0 (Config.nominalMv 0 : Int) 72 3 = false ∧
    inRange 72 (Config.nominalMv 0 : Int) = true := by
  refine ⟨rfl, rfl, ?_, ?_⟩
  · have h : limOf w0 72 3 = 100 := by decide +kernel
    unfold voltOver
    rw [h, Int.sub_self]
    exact decide_eq_false (by simp only [Int.natAbs_zero]; omega)
  · show (decide (0 ≤ (Config.nominalMv 0 : Int)) && decide ((Config.nominalMv 0 : Int) ≤ 2 * (Config.nominalMv 0 : Int))) = true
    rw [Bool.and_eq_true]
    exact ⟨decide_eq_true (by omega), decide_eq_true (by omega)⟩

theorem wit_HostFunctionsSelectUnmaskEnableAndAcknowledge :
    let s := wr w0 (funcsPg + 0x100) 0x102
    hostReady s = true ∧ numVfs s = 2 ∧ hostUp s = true ∧ hostReady State.reset = false ∧ vecCount (0 : Fin 17) = 1024 ∧ sirviUp s = true ∧
    numVfs w0 = 0 := by decide +kernel

theorem wit_BackgroundWorkIsDoneAndCounted :
    devRdy w0 = true ∧ sirviUp w0 = true ∧ (bgAct w0 3).rows = [] ∧ senFaulty w0 88 = false ∧ rdN w0 (bgPg + 0x188) = 0 ∧ sirviUp State.reset = false ∧
    (let s := setBg w0 3 { rows := [(0, 0, 0)] }; (bgAct s 3).rows = [] ++ (0, 0, 0) :: [] ∧ smGet 0 s.sirvi.spares (pchanOf s 0) < 16) ∧
    (let s := modSirvi (setBg w0 3 { rows := [(0, 0, 0)] }) fun v => { v with spares := (List.range 32).map fun i => (i, 16) }
     (bgAct s 3).rows ≠ [] ∧ ¬(smGet 0 s.sirvi.spares (pchanOf s 0) < 16) ∧ 512 ≤ sparesUsed s (stackOf s 0)) ∧
    senFaulty (wf w0 (senPg + 0x29C) 0 1 1) 88 = true := by decide +kernel

theorem wit_StepKeepsMemoriesAndTheSummitBuffer :
    let s : State := { wRun with pending := [.relock] }
    step s = exec .relock wRun ∧ memOk s = true ∧ sramOk s = true ∧ queueOk s = true := by
  refine ⟨rfl, ?_⟩; decide +kernel

theorem wit_FusesRiseAndDebugEndsOnlyWithPower :
    let s : State := { (modSirvi w0 fun v => { v with dbg := some 1 }) with pending := [.summitFlush] }
    step s = exec .summitFlush { s with pending := [] } ∧ s.sirvi.dbg.isSome = true ∧ s.sirvi.boot ≠ .off ∧
      s.pending.head? ≠ some .pwrgoodDeassert ∧ s.pending.head? ≠ some .p54vUndervoltage := by
  refine ⟨rfl, ?_⟩; decide +kernel

theorem wit_OnlyTheirCommandsChangeHostMemoryAndKeys : exec .relock wRun = .next (relockEff wRun) := rfl

theorem wit_CommandsChangeOnlyTheStateOfTheirFamily :
    exec (.getVersion 0) w0 = .next (getVersionEff 0 w0) ∧ epUp w0 0 = true := ⟨rfl, by decide +kernel⟩

/-! ## Commands that `wellFormed` refuses: one for each check -/

/-- A flit without payload. -/
def wFlitShort : Flit := { wFlit0 with payload := [] }

theorem test_illFormed_refused :
    [Instr.ingestCutoff [], .ingestRecord 0 (some (List.replicate 65537 0)), .portMasterFrame 0 (List.replicate 33 0), .challenge 0 [],
      .getMeasurements 0 256 (List.replicate 32 0), .getMeasurements 0 0 [], .keyExchange 0 [], .keySet 0 0 0 [], .keyRotate 0 0 0 [],
      .steadySet 0 0 [] 0 0].map wellFormed = List.replicate 10 false := by decide +kernel

theorem test_illFormed_refused_more :
    [Instr.portFrame 0 ⟨0, List.replicate 33 0, false, true, true, false, false, false⟩, .ksBind false 0 1 [], .regionSet false 1 [], .hbmMap false 0 [], .sensorSample [], .ideKm 0 0 0 false []].map wellFormed =
      List.replicate 6 false := by decide +kernel

theorem test_illFormed_refused_flits :
    [Instr.mgmt 0 wFlitShort, .tag 0 wFlitShort true, .nak 0 wFlitShort, .heartbeat 0 wFlitShort true, .send 0 wFlitShort,
      .coll 0 wFlitShort, .blob 0 wFlitShort, .adv 0 wFlitShort, .release 0 wFlitShort, .bhb 0 wFlitShort, .idle 0 wFlitShort].map
      wellFormed = List.replicate 11 false := by decide +kernel

theorem test_wellFormed_taken : wellFormed (.challenge 0 (List.replicate 32 0)) = true ∧ wellFormed (.keyExchange 0 (List.replicate 48 0)) = true ∧
    wellFormed .tickEdge = true := by decide +kernel

/-! ## Worked examples of the spec -/

/-- 02_partitions_pitches, "a decoder pitch": job 0 fetches 2,097,152 bytes and has 96 handles, job 1 evicts 1,048,576. -/
def wDecoder : State := withRegs wCommit [(tblPg 0 + 0x604, 2097152), (tblPg 0 + 0x60C, 96), (tblPg 0 + 0x628, 1048576)]

theorem test_switchTime_shared : tSwitch wDecoder 0 0 (some 1) = 65604 := by decide +kernel

/-- The same with 16 clusters and 64 pseudo-channels of the ISOLATED map. -/
theorem test_switchTime_isolated :
    tSwitch (withRegs wDecoder [(partPg 0 + 0x110, 0xFFFF), (hbmPg + 0x100, 1), (hbmPg + 0x140, 0xF)]) 0 0 (some 1) = 18417 := by decide +kernel

/-- To a resident job with the same 96 handles. -/
theorem test_switchTime_resident : tSwitch (withRegs wCommit [(tblPg 0 + 0x60C, 96)]) 0 0 (some 1) = 2688 := by decide +kernel

/-- 09_memory, "decoding two addresses". -/
theorem test_hbmStack :
    stackOf w0 0x123456780 = 6 ∧ stackOf (withRegs w0 [(hbmPg + 0x100, 1)]) 0x123456780 = 7 ∧
    stackOf (withRegs w0 [(hbmPg + 0x100, 1)]) 60000000256 = 1 := by decide +kernel

/-- 00_scope R11: a counter at 0xFFFFFFFE that receives three increments holds its maximum, with SAT set. -/
theorem test_counterHolds :
    let t := bumpBy (withRegs w0 [(tickPg + 0x160, 0xFFFFFFFE)]) tickPg 0x160 3
    rdN t (tickPg + 0x160) = 0xFFFFFFFF ∧ ((regAt .tick 0x160).map fun r => match r.kind with | .cnt a b _ => rb t (tickPg + a) b | _ => false) = some true := by
  decide +kernel

/-- 05_number_formats, "one item converted to I8E": max-abs 3.2 gives exponent −5; the codes of 0.75, −3.2, 1.9, 0, −0.004, 0.078125,
3.19, −1.1. -/
theorem test_i8e_item :
    (expOf32 127 (-128) 0x404CCCCD).1 = -5 ∧
    [0x3F400000, 0xC04CCCCD, 0x3FF33333, 0, 0xBB83126F, 0x3DA00000, 0x404C28F6, 0xBF8CCCCD].map (fun w => (codeOf 127 (-5) w).1) =
      [24, -102, 61, 0, 0, 2, 102, -35] := by decide +kernel

/-- 06_vector_gate_fusion, "the two orders": sums of squares in the order of the columns and in the tree's. -/
theorem test_sumOrders :
    f32Add (f32Add 0x4B800000 0x3F800000) 0x3F800000 = 0x4B800000 ∧ f32Add 0x4B800000 (f32Add 0x3F800000 0x3F800000) = 0x4B800001 := by decide +kernel

/-! ## Single commands -/

theorem test_decodeTableWord_none : decodeTableWord 32 0 = none ∧ step (w0.withFetchWord 32 0) = step w0 := ⟨rfl, rfl⟩

/-- CONFIGURE of an OFF partition (R41, R43). -/
theorem test_configure : Gives (.configure 3) w0 fun t => (part t 3).st = .configuring ∧ (part t 2).st = .off := ⟨_, rfl, by decide +kernel⟩

/-- START of a READY partition waits for the edge (R43); a second command is barred with cause 7 (R47). -/
theorem test_start_waits : Gives (.start 0) wReady fun t => (part t 0).st = .ready ∧ cmdPend t 0 = true := ⟨_, rfl, by decide +kernel⟩

theorem test_second_command_barred :
    Gives (.stop 0) (modPart wReady 0 fun p => { p with cmd := some (.start, 1) }) fun t => (part t 0).rej = 7 := ⟨_, rfl, by decide +kernel⟩

/-- VADD of two rows of 1.0 (R160). -/
theorem test_vadd :
    let one : VReg := BitVec.ofNat 1024 ((List.range 32).foldl (fun a i => a + 0x3F800000 * 2 ^ (32 * i)) 0)
    let s := setCore (wVe 0x08 (0 + 2 * 2 ^ 8)) 0 { v := [(0, one)] }
    Gives (.vadd 0) s fun t => uCode .ve ∈ (clu t 0).did ∧
      ((clu t 0).effs.any fun e => match e.2 with | .vreg 0 _ _ v => fld v.toNat 0 32 = 0x40000000 | _ => false) = true := ⟨_, rfl, by decide +kernel⟩

/-- PWR_LIMIT above TDP is refused with status 2 (15_sirvi R429). -/
theorem test_pwrLimit : Gives (.pwrLimit true 1300) w0 fun t => (t.sirvi.mctp.map MbRsp.status) = some 2 ∧ t.sirvi.sens.pwr = 1200 := ⟨_, rfl, by decide +kernel⟩

end Sys2Proof.Machine
end

section
/-!
PROOFS. Reset, totality, and the host's register accesses (00_scope R4-R11; 16_host_registers R445).
-/
namespace Sys2Proof.Machine

/-! ## Reset and totality -/

/-- Settles O2: every component of the state after reset is empty, so each reading is that of an unlisted key. -/
theorem resetLeavesEveryPartitionOffAndMemoryEmpty : Obligations.ResetLeavesEveryPartitionOffAndMemoryEmpty :=
  ⟨fun _ => rfl, fun _ => rfl, rfl, rfl, fun _ => rfl, fun _ => ⟨rfl, rfl⟩, rfl, rfl⟩

/-- Settles O3: the arm of each command is the next state that its meaning computes. -/
theorem everyCommandCompletes : Obligations.EveryCommandCompletes := by
  intro c s
  cases c <;> exact ⟨_, rfl⟩

/-! ## Bits of a masked word (R4) -/

theorem add_eq_lor_of_land_eq_zero {a b : Nat} (h : a &&& b = 0) : a + b = a ||| b := by
  have w : a + b < 2 ^ (a + b) := Nat.lt_two_pow_self
  have ha : a < 2 ^ (a + b) := by omega
  have hb : b < 2 ^ (a + b) := by omega
  have k := congrArg BitVec.toNat (BitVec.add_eq_or_of_and_eq_zero (BitVec.ofNat (a + b) a) (BitVec.ofNat (a + b) b) (by
    rw [← BitVec.ofNat_and, h]))
  rw [← BitVec.ofNat_or, ← BitVec.ofNat_add] at k
  simpa [Nat.mod_eq_of_lt w, Nat.mod_eq_of_lt ha, Nat.mod_eq_of_lt hb] using k

/-- Taking away bits that are set borrows nothing. -/
theorem without_eq_ldiff (v m : Nat) : without v m = Nat.ldiff v m := by
  have hd : Nat.ldiff v m &&& (v &&& m) = 0 := Nat.eq_of_testBit_eq fun i => by
    simp only [Nat.testBit_and, Nat.testBit_ldiff, Nat.zero_testBit]; cases v.testBit i <;> cases m.testBit i <;> rfl
  have hs : Nat.ldiff v m ||| (v &&& m) = v := Nat.eq_of_testBit_eq fun i => by
    simp only [Nat.testBit_or, Nat.testBit_and, Nat.testBit_ldiff]; cases v.testBit i <;> cases m.testBit i <;> rfl
  have e : Nat.ldiff v m + Nat.land v m = v := (add_eq_lor_of_land_eq_zero hd).trans hs
  unfold without
  omega

theorem bitAt_without (v m b : Nat) : bitAt (without v m) b = (bitAt v b && !bitAt m b) := by
  rw [without_eq_ldiff]; exact Nat.testBit_ldiff v m b

theorem bitAt_land (v m b : Nat) : bitAt (Nat.land v m) b = (bitAt v b && bitAt m b) := Nat.testBit_and v m b

theorem bitAt_lor (v m b : Nat) : bitAt (Nat.lor v m) b = (bitAt v b || bitAt m b) := Nat.testBit_or v m b

@[simp] theorem bitAt_zero (b : Nat) : bitAt 0 b = false := Nat.zero_testBit b

/-- A word written under a mask: the masked bits are the new ones, the others stay. -/
theorem bitAt_maskWrite (x v m b : Nat) :
    bitAt (without x m + Nat.land v m) b = if bitAt m b then bitAt v b else bitAt x b := by
  have hd : without x m &&& Nat.land v m = 0 := Nat.eq_of_testBit_eq fun i => by
    have h := bitAt_without x m i
    have k := bitAt_land v m i
    unfold bitAt at h k
    rw [Nat.testBit_and, h, k, Nat.zero_testBit]
    cases x.testBit i <;> cases m.testBit i <;> cases v.testBit i <;> rfl
  rw [add_eq_lor_of_land_eq_zero hd]
  change bitAt (Nat.lor _ _) b = _
  rw [bitAt_lor, bitAt_without, bitAt_land]
  cases bitAt m b <;> simp

theorem without_le (v m : Nat) : without v m ≤ v := Nat.sub_le v _

theorem rb_wrN_same (s : State) (a v b : Nat) (h : b < 32) : rb (wrN s a v) a b = bitAt v b := by
  unfold rb; rw [rdN_wrN_same, bitAt_mod_word v b h]

theorem rd_wrN_ne (s : State) {a b : Nat} (v : Nat) (h : b ≠ a) : rd (wrN s a v) b = rd s b := rd_wr_ne _ h

/-! ## Single header registers and counters (R5-R11) -/

/-- A header write that names a register of a page which takes it acts on that register. -/
theorem headWrite_of {s : State} {r : Requester} {addr a : Nat} {p : PageT} {i : Nat} {ok : PageT → Nat → Bool} {f : PageT → Nat → State → State}
    (hx : xlate s r addr = some a) (hp : pageAt (a / 4096) = some (p, i)) (hw : wOk s r a = true) (ho : ok p (a % 4096) = true) :
    headWrite r addr ok f s = f p a s := by
  simp [headWrite, hx, hp, hw, ho]

/-- A test event adds its bit to PG_EVT. -/
theorem rb_setEvtT_iff (s : State) (pg bit b d : Nat) (test : Bool) (h : b < 32) :
    rb (setEvtT s pg bit test d) (pg + 0x14) b = (rb s (pg + 0x14) b || decide (bit = b)) := by
  unfold rb
  rw [rdN_setEvtT_evt, bitAt_mod_word _ _ h, bitAt_lor]
  congr 1
  exact Nat.testBit_two_pow

/-- PG_EVTSET sets the bits written 1 that the page has and clears none. -/
theorem rb_evtSetFold (pg b : Nat) (h : b < 32) (l : List Nat) (s : State) :
    rb (each s l fun s k => setEvtT s pg k true 0) (pg + 0x14) b = (rb s (pg + 0x14) b || decide (b ∈ l)) := by
  unfold each
  induction l generalizing s with
  | nil => simp
  | cons k l ih =>
    rw [List.foldl_cons, ih, rb_setEvtT_iff _ _ _ _ _ _ h, Bool.or_assoc, ← Bool.decide_or]
    simp [eq_comm]

theorem rb_evtSetWord (p : PageT) (pg v b : Nat) (s : State) (h : b < 32) (hv : bitAt v b = true) (hp : bitAt (evtBits p) b = true) :
    rb (evtSetWord p pg v s) (pg + 0x14) b = true := by
  unfold evtSetWord
  rw [rb_evtSetFold _ _ h]
  simp [h, hv, hp]

/-- A write of PG_EVT clears the bits written 1 that hardware has not set in the same cycle (R7); a released capture lies elsewhere. -/
theorem rdN_evtClearWord (pg v : Nat) (s : State) :
    rdN (evtClearWord pg v s) (pg + 0x14) = without (rdN s (pg + 0x14)) (without v (smGet 0 (marksNow s).evt pg)) := by
  have hlt := Nat.lt_of_le_of_lt (without_le (rdN s (pg + 0x14)) (without v (smGet 0 (marksNow s).evt pg))) (rdN_lt (s := s) (pg + 0x14))
  unfold evtClearWord
  dsimp only
  rw [rdN_irqSync]
  split
  · simpa [each, rdN_wrN] using hlt
  · rw [rdN_wrN_same, Nat.mod_eq_of_lt hlt]

/-- No counter of a row lies on its own saturation register. -/
def RegRow.satApart (p : PageT) (r : RegRow) : Bool :=
  match r.kind with
  | .cnt sat _ _ => (List.range r.count).all fun k =>
      decide (sat + (if p = .link then ((r.off + r.stride * k) / 0x100 - 1) * 0x100 else 0) ≠ r.off + r.stride * k)
  | _ => true

theorem rows_satApart (p : PageT) : ((pageRows p).all (RegRow.satApart p) && headerRows.all (RegRow.satApart p)) = true := by
  cases p <;> decide +kernel

theorem findRow_some {o : Nat} {l : List RegRow} {r : RegRow} (h : findRow o l = some r) :
    r ∈ l ∧ r.off ≤ o ∧ o < r.off + r.count * r.stride ∧ (o - r.off) % r.stride = 0 := by
  induction l with
  | nil => simp [findRow] at h
  | cons q l ih =>
    unfold findRow at h
    split at h
    · obtain rfl := Option.some.inj h
      rename_i k
      exact ⟨List.mem_cons_self, k⟩
    · exact (ih h).imp_left (List.mem_cons_of_mem _)

/-- The saturation register of a counter is not the counter itself. -/
theorem satAddr_ne {p : PageT} {o sat bit evt : Nat} {r : RegRow} (h : regAt p o = some r) (hk : r.kind = .cnt sat bit evt) (pg : Nat) :
    satAddr p pg o sat ≠ pg + o := by
  have hrow : r.satApart p = true ∧ r.off ≤ o ∧ o < r.off + r.count * r.stride ∧ (o - r.off) % r.stride = 0 := by
    have ha := rows_satApart p
    rw [Bool.and_eq_true, List.all_eq_true, List.all_eq_true] at ha
    unfold regAt at h
    split at h
    · cases h
    · split at h
      · exact (findRow_some h).imp_left (ha.2 r)
      · exact (findRow_some h).imp_left (ha.1 r)
  obtain ⟨hs, hlo, hhi, hm⟩ := hrow
  have hidx : r.off + r.stride * ((o - r.off) / r.stride) = o := by
    have := Nat.div_add_mod (o - r.off) r.stride; omega
  have hk' : (o - r.off) / r.stride < r.count := Nat.div_lt_of_lt_mul (by rw [Nat.mul_comm]; omega)
  simp only [RegRow.satApart, hk, List.all_eq_true, List.mem_range] at hs
  have := of_decide_eq_true (hs _ hk')
  rw [hidx] at this
  unfold satAddr
  omega

theorem isCnt_row {p : PageT} {o : Nat} (h : isCnt p o = true) : ∃ r sat bit evt, regAt p o = some r ∧ r.kind = .cnt sat bit evt := by
  unfold isCnt at h
  split at h
  · rename_i e; exact ⟨_, _, _, _, e, rfl⟩
  · cases h

/-- A counter put at a value reads it. -/
theorem rdN_cntTo (s : State) {p : PageT} {pg o v i : Nat} (hp : pageAt (pg / 4096) = some (p, i)) (hc : isCnt p o = true) (hv : v < 2 ^ 32) :
    rdN (cntTo s pg o v) (pg + o) = v := by
  obtain ⟨⟨off, n, d, k, rw', rwl, rst, hf⟩, sat, bit, evt, hr, rfl⟩ := isCnt_row hc
  unfold cntTo
  rw [hp]
  dsimp only
  rw [hr]
  dsimp only
  rw [rdN_wrN_ne _ (satAddr_ne hr rfl pg).symm, rdN_wrN_same, Nat.mod_eq_of_lt hv]

/-- What a cleared counter releases with it is not the counter. -/
theorem rdN_clearWith (s : State) (p : PageT) (pg o : Nat) : rdN (clearWith s p pg o) (pg + o) = rdN s (pg + o) := by
  unfold clearWith
  split
  · split
    · rw [rdN_wrN_ne _ (by omega), rdN_wrN_ne _ (by omega)]
    · rfl
  · split
    · rw [rdN_wrN_ne _ (by omega)]
    · rfl
  · rfl

/-- An event counter written with zero reads what falls in the same cycle (R11). -/
theorem rdN_cntWrite_zero (s : State) {p : PageT} {a i : Nat} (hp : pageAt (a / 4096) = some (p, i)) (hc : isCnt p (a % 4096) = true) :
    rdN (cntWrite s p a 0) a = min (smGet 0 (marksNow s).cnt a) 0xFFFFFFFE := by
  have ea : a - a % 4096 + a % 4096 = a := Nat.sub_add_cancel (Nat.mod_le _ _)
  have ep : pageAt ((a - a % 4096) / 4096) = some (p, i) := by rw [← hp]; congr 1; omega
  calc rdN (cntWrite s p a 0) a
      = rdN (cntWrite s p a 0) (a - a % 4096 + a % 4096) := by rw [ea]
    _ = rdN (clearCnt s (a - a % 4096) (a % 4096)) (a - a % 4096 + a % 4096) := rdN_clearWith _ p _ _
    _ = min (smGet 0 (marksNow s).cnt (a - a % 4096 + a % 4096)) 0xFFFFFFFE := rdN_cntTo s ep hc (by omega)
    _ = min (smGet 0 (marksNow s).cnt a) 0xFFFFFFFE := by rw [ea]

theorem cntWrite_ne_zero (s : State) (p : PageT) (a : Nat) {v : Nat} (h : v ≠ 0) : cntWrite s p a v = s := if_neg h

/-- Settles O4: each of the four rows is its header write on the page named. -/
theorem headerRegisterCommandsAct : Obligations.HeaderRegisterCommandsAct := by
  intro r addr v s a p i hx hp hw
  refine ⟨fun ho => ⟨_, rfl, fun b hb hv he => ?_⟩, fun ho => ⟨_, rfl, ?_⟩, fun ho => ⟨_, rfl, fun hv => ?_, fun hv => ?_⟩,
    fun hc => ⟨_, rfl, fun hv => ?_, fun hv => ?_⟩⟩
  · unfold pgEvtsetEff
    rw [headWrite_of hx hp hw (by simpa using ho), show a - a % 4096 = a - 0x1C by omega]
    exact rb_evtSetWord p _ _ _ s hb hv he
  · unfold pgEvtClearEff
    rw [headWrite_of hx hp hw (by simpa using ho)]
    have h := rdN_evtClearWord (a - 0x14) v.toNat s
    rw [show a - 0x14 + 0x14 = a by omega] at h
    rw [show a - a % 4096 = a - 0x14 by omega]
    exact h
  · unfold pgLockEff
    rw [headWrite_of hx hp hw (by simpa using ho), lockWord, if_pos hv, show a - a % 4096 + 0x30 = a by omega, rdN_wrN_same]
    rfl
  · unfold pgLockEff
    rw [headWrite_of hx hp hw (by simpa using ho), lockWord, hv]
    rfl
  · unfold eventCounterWriteEff
    rw [headWrite_of hx hp hw hc, hv]
    exact rdN_cntWrite_zero s hp hc
  · unfold eventCounterWriteEff
    rw [headWrite_of hx hp hw hc, cntWrite_ne_zero s p a hv]

/-! ## Register writes (R4, R445) -/

/-- The operator-class pages whose block registers only hold what is written. -/
def holdingPages : List PageT := [.oper, .hbm, .stack, .span, .mee, .sens, .bg, .ident, .funcs]

theorem blockWrite_holding {p : PageT} (h : p ∈ holdingPages) (i a v : Nat) (s : State) : blockWrite p i a v s = typedWrite s p a v := by
  simp only [holdingPages, List.mem_cons, List.not_mem_nil, or_false] at h
  rcases h with rfl | rfl | rfl | rfl | rfl | rfl | rfl | rfl | rfl <;> rfl

theorem pageWrite_block {a : Nat} (h : 0x100 ≤ a % 4096) (r : Requester) (p : PageT) (i v : Nat) (s : State) :
    pageWrite r p i a v s = blockWrite p i a v s := by
  unfold pageWrite
  simp only [show a % 4096 ≠ 0x14 by omega, show a % 4096 ≠ 0x18 by omega, show a % 4096 ≠ 0x1C by omega, show a % 4096 ≠ 0x30 by omega,
    show ¬a % 4096 < 0x100 by omega, if_false]

/-- The partition pages are the ones at 0x200000 to 0x20FFFF. -/
theorem pageAt_part {a : Nat} (h : 0x200000 ≤ a) (h' : a < 0x210000) : pageAt (a / 4096) = some (.part, a / 4096 - 0x200) := by
  have h1 : 0x200 ≤ a / 4096 := by omega
  have h2 : a / 4096 < 0x210 := by omega
  generalize a / 4096 = k at h1 h2
  unfold pageAt
  simp only [show k ≠ 0 by omega, show k ≠ 1 by omega, show k ≠ 2 by omega, show k ≠ 3 by omega, show ¬k < 0x100 by omega,
    show ¬k < 0x200 by omega, h2, if_false, if_true]

/-- Only a partition page holds PART_CMD. -/
theorem earlyConfigure_holding {a : Nat} {p : PageT} {i : Nat} (hp : pageAt (a / 4096) = some (p, i)) (h : p ∈ holdingPages)
    (s : State) (r : Requester) (v : Nat) : earlyConfigure s r a v = false := by
  by_contra hc
  simp only [Bool.not_eq_false, earlyConfigure, Bool.and_eq_true, decide_eq_true_eq] at hc
  obtain ⟨⟨⟨⟨-, hlo⟩, hhi⟩, -⟩, -⟩ := hc
  rw [pageAt_part hlo hhi] at hp
  obtain ⟨rfl, -⟩ := Prod.mk.inj (Option.some.inj hp)
  exact absurd h (by decide)

/-- The registers of these pages guard no TDI. -/
theorem tdiFirst_holding {a : Nat} {p : PageT} {i : Nat} (hp : pageAt (a / 4096) = some (p, i)) (h : p ∈ holdingPages)
    (s : State) (r : Requester) : tdiFirst s r a = s := by
  have hg : tdiGuard a = none := by
    unfold tdiGuard
    rw [hp]
    simp only [holdingPages, List.mem_cons, List.not_mem_nil, or_false] at h
    rcases h with rfl | rfl | rfl | rfl | rfl | rfl | rfl | rfl | rfl <;> rfl
  cases r with
  | pf => simp [tdiFirst, hg]
  | vf k => rfl
  | sirvi => rfl

/-- An aligned word write of the PF or of Sirvi to such a page is the typed write of its register. -/
theorem wordWrite_holding {s : State} {q : Requester} {a : Nat} {p : PageT} {i : Nat} (hq : q = .pf ∨ q = .sirvi) (ha : a < 0x4000000)
    (ho : 0x100 ≤ a % 4096) (hp : pageAt (a / 4096) = some (p, i)) (hw : wOk s q a = true) (h : p ∈ holdingPages) (v : Nat) :
    wordWrite q a v s = typedWrite s p a v := by
  have e : hostRegWrite q a v s = typedWrite s p a v := by
    simp only [hostRegWrite, earlyConfigure_holding hp h, tdiFirst_holding hp h, hp, hw, pageWrite_block ho, blockWrite_holding h,
      Bool.false_eq_true, if_false, if_true]
  rcases hq with rfl | rfl
  · have hm : msixAt .pf a = none := by simp [msixAt, show ¬0x4000000 ≤ a by omega, show ¬0x4008000 ≤ a by omega]
    simp [wordWrite, hm, xlate, ha, e]
  · simp [wordWrite, msixAt, xlate, ha, e]

theorem registerWrite_four {r : Requester} {a : Nat} (ha : a % 4 = 0) (v : DWord) (s : State) :
    registerWriteEff r a 4 true v s = wordWrite r a (v.toNat % 2 ^ 32) s := by simp [registerWriteEff, ha]

theorem registerWrite_eight {r : Requester} {a : Nat} (ha : a % 8 = 0) (v : DWord) (s : State) :
    registerWriteEff r a 8 true v s = wordWrite r (a + 4) (v.toNat / 2 ^ 32) (wordWrite r a (v.toNat % 2 ^ 32) s) := by
  simp [registerWriteEff, ha]

section
variable {s : State} {p : PageT} {a : Nat} {r : RegRow} (hr : regAt p (a % 4096) = some r)
include hr

/-- A plain register takes the written bits that are RW, or RWL while the page is not locked. -/
theorem rb_typedWrite_plain (hk : r.kind = .plain) (v : Nat) {b : Nat} (hb : b < 32) :
    rb (typedWrite s p a v) a b = if bitAt r.rw b || (bitAt r.rwl b && !locked s (a - a % 4096)) then bitAt v b else rb s a b := by
  have e : typedWrite s p a v = plainWrite s a r v := by simp [typedWrite, hr, hk]
  rw [e, plainWrite, rb_wrN_same _ _ _ _ hb, bitAt_maskWrite, bitAt_lor]
  cases locked s (a - a % 4096) <;> simp [rb]

/-- A write-1-to-clear register loses the writable bits written 1. -/
theorem rb_typedWrite_w1c (hk : r.kind = .w1c) (v : Nat) {b : Nat} (hb : b < 32) :
    rb (typedWrite s p a v) a b = (rb s a b && !(bitAt r.rw b && bitAt v b)) := by
  have e : typedWrite s p a v = wrN s a (without (rdN s a) (Nat.land v r.rw)) := by simp [typedWrite, hr, hk]
  rw [e, rb_wrN_same _ _ _ _ hb, bitAt_without, bitAt_land, Bool.and_comm (bitAt v b)]
  rfl

/-- Neither kind changes another register. -/
theorem rd_typedWrite_ne (hk : r.kind = .plain ∨ r.kind = .w1c) (v : Nat) {x : Nat} (hx : x ≠ a) : rd (typedWrite s p a v) x = rd s x := by
  rcases hk with hk | hk
  · simp [typedWrite, hr, hk, plainWrite, rd_wrN_ne _ _ hx]
  · simp [typedWrite, hr, hk, rd_wrN_ne _ _ hx]

/-- Write-only and sticky registers, and a counter written with another value than zero, take nothing. -/
theorem typedWrite_ignored {v : Nat} (hk : r.kind = .wo ∨ r.kind = .ros ∨ ((∃ x y z, r.kind = .cnt x y z) ∧ v ≠ 0)) :
    typedWrite s p a v = s := by
  rcases hk with hk | hk | ⟨⟨x, y, z, hk⟩, hv⟩
  · simp [typedWrite, hr, hk]
  · simp [typedWrite, hr, hk]
  · simp [typedWrite, hr, hk, cntWrite_ne_zero s p a hv]

end

/-- Settles O5: an aligned write that reaches a holding page is the typed write of its register, and the other lengths and byte enables
are told apart before any register is reached. -/
theorem registerWritesFollowTheirAccessType : Obligations.RegisterWritesFollowTheirAccessType := by
  refine ⟨?_, fun r a len v s => rfl, fun r a len b v s h4 h8 => ?_, fun r a v s ha => ?_⟩
  · intro s q a v p i r hq ha ha4 ho hp hr hw hmem
    have e : exec (.registerWrite q a 4 true v) s = .next (typedWrite s p a (v.toNat % 2 ^ 32)) := by
      rw [← wordWrite_holding hq ha ho hp hw hmem, ← registerWrite_four ha4]; rfl
    refine ⟨fun hk => ⟨_, e, fun b hb => ?_, fun x hx => rd_typedWrite_ne hr (.inl hk) _ hx⟩,
      fun hk => ⟨_, e, fun b hb => ?_, fun x hx => rd_typedWrite_ne hr (.inr hk) _ hx⟩, fun hk => ?_⟩
    · rw [rb_typedWrite_plain hr hk _ hb, bitAt_mod_word _ _ hb]
    · rw [rb_typedWrite_w1c hr hk _ hb, bitAt_mod_word _ _ hb]
    · rw [e, typedWrite_ignored hr hk]
  · change Host.Outcome.next (registerWriteEff r a len b v s) = _
    cases b <;> simp [registerWriteEff, h4, h8]
  · refine ⟨_, rfl, ?_⟩
    have hs : (v >>> 32).toNat % 2 ^ 32 = v.toNat / 2 ^ 32 := by
      rw [BitVec.toNat_ushiftRight, Nat.shiftRight_eq_div_pow]
      have := v.isLt
      omega
    change Host.Outcome.next (registerWriteEff r a 8 true v s) =
      Host.Outcome.next (registerWriteEff r (a + 4) 4 true (v >>> 32) (registerWriteEff r a 4 true v s))
    rw [registerWrite_eight ha, registerWrite_four (by omega), registerWrite_four (by omega), hs]

/-! ## Reads of LO/HI pairs (R9) -/

section
variable {r : Requester} {a x : Nat} {p : PageT} {i : Nat} {row : RegRow} (s : State) (hm : msixAt r a = none)
  (hk : ∀ k, r = .vf k → a < 0x5000 ∨ 0x6000 ≤ a) (hx : xlate s r a = some x) (hp : pageAt (x / 4096) = some (p, i))
  (hr : regAt p (x % 4096) = some row) (hn : ¬(p = .part ∧ x % 4096 = 0x3C0))
include hm hk hx hp hr hn

/-- A read of a LO gives its word and latches the HI for the requester. -/
theorem readWord_lo (hh : row.half = .lo) : readWord r a s =
    { s with rdata := some (viewWord s r x), latch := smSet 0 s.latch (latchNo r) (BitVec.ofNat 32 (viewWord s r (x + 4))) } := by
  cases r with
  | vf k =>
    have hd : ¬(0x5000 ≤ a ∧ a < 0x6000) := by have := hk k rfl; omega
    simp [readWord, hm, hd, hx, hp, hn, hr, hh]
  | pf => simp [readWord, hm, hx, hp, hn, hr, hh]
  | sirvi => simp [readWord, hm, hx, hp, hn, hr, hh]

/-- A read of a HI that the requester may read gives its latch. -/
theorem readWord_hi (hh : row.half = .hi) (hok : rOk s r x = true) :
    readWord r a s = { s with rdata := some (smGet 0 s.latch (latchNo r)).toNat } := by
  cases r with
  | vf k =>
    have hd : ¬(0x5000 ≤ a ∧ a < 0x6000) := by have := hk k rfl; omega
    simp [readWord, hm, hd, hx, hp, hn, hr, hh, hok]
  | pf => simp [readWord, hm, hx, hp, hn, hr, hh, hok]
  | sirvi => simp [readWord, hm, hx, hp, hn, hr, hh, hok]

end

/-- Settles O6: the LO arm of a read writes the requester's latch, the HI arm reads it. -/
theorem loReadLatchesTheHighHalf : Obligations.LoReadLatchesTheHighHalf := by
  intro r a x p i row s ha hm hk hx hp hr hn
  have e : exec (.loRead r a) s = .next (readWord r a s) := by
    change Host.Outcome.next (readWord r (a - a % 4) s) = _
    rw [ha, Nat.sub_zero]
  refine ⟨fun hh => ⟨_, e, ?_⟩, fun hh hok => ⟨_, e, ?_⟩⟩
  · rw [readWord_lo s hm hk hx hp hr hn hh]
    exact ⟨rfl, smGet_smSet_same _ _ _ _, fun k hne => smGet_smSet_ne _ _ _ hne, rfl⟩
  · rw [readWord_hi s hm hk hx hp hr hn hh hok]
    exact ⟨rfl, rfl, rfl⟩

end Sys2Proof.Machine
end

section
/-!
SUPPORT. Frames: which components of the state an operation can change. `Only F s t` says that `t` differs from `s` in the
components `F` alone. Each operation's lemma `…_frame` lets an `Only F` look through the operation when its components lie in `F`;
a command's frame is then found by walking from its result back to the state it met.
-/
namespace Sys2Proof.Machine

/-- The components of the state. -/
inductive Comp where
  | marks | pending | free | clk | regs | latch | vfEn | clw | vecs | msgs | rdata | parts | pacc | lanes | strms | clus
  | slots | htab | bundles | ccmem | hbm | hbmBad | hbmCe | meeBad | hostMem | emis | emLost | ings | ports | keys | bg
  | noc | cores | lports | bly | sess | spdm | ide | stdy | aer | sirvi
  deriving DecidableEq

/-- The two states agree in a component. -/
def Comp.Same (s t : State) : Comp → Prop
  | .marks => t.marks = s.marks
  | .pending => t.pending = s.pending
  | .free => t.free = s.free
  | .clk => t.clk = s.clk
  | .regs => t.regs = s.regs
  | .latch => t.latch = s.latch
  | .vfEn => t.vfEn = s.vfEn
  | .clw => t.clw = s.clw
  | .vecs => t.vecs = s.vecs
  | .msgs => t.msgs = s.msgs
  | .rdata => t.rdata = s.rdata
  | .parts => t.parts = s.parts
  | .pacc => t.pacc = s.pacc
  | .lanes => t.lanes = s.lanes
  | .strms => t.strms = s.strms
  | .clus => t.clus = s.clus
  | .slots => t.slots = s.slots
  | .htab => t.htab = s.htab
  | .bundles => t.bundles = s.bundles
  | .ccmem => t.ccmem = s.ccmem
  | .hbm => t.hbm = s.hbm
  | .hbmBad => t.hbmBad = s.hbmBad
  | .hbmCe => t.hbmCe = s.hbmCe
  | .meeBad => t.meeBad = s.meeBad
  | .hostMem => t.hostMem = s.hostMem
  | .emis => t.emis = s.emis
  | .emLost => t.emLost = s.emLost
  | .ings => t.ings = s.ings
  | .ports => t.ports = s.ports
  | .keys => t.keys = s.keys
  | .bg => t.bg = s.bg
  | .noc => t.noc = s.noc
  | .cores => t.cores = s.cores
  | .lports => t.lports = s.lports
  | .bly => t.bly = s.bly
  | .sess => t.sess = s.sess
  | .spdm => t.spdm = s.spdm
  | .ide => t.ide = s.ide
  | .stdy => t.stdy = s.stdy
  | .aer => t.aer = s.aer
  | .sirvi => t.sirvi = s.sirvi

/-- `s` with the components `F` of `t`. -/
def graft (F : List Comp) (s t : State) : State where
  marks := if .marks ∈ F then t.marks else s.marks
  pending := if .pending ∈ F then t.pending else s.pending
  free := if .free ∈ F then t.free else s.free
  clk := if .clk ∈ F then t.clk else s.clk
  regs := if .regs ∈ F then t.regs else s.regs
  latch := if .latch ∈ F then t.latch else s.latch
  vfEn := if .vfEn ∈ F then t.vfEn else s.vfEn
  clw := if .clw ∈ F then t.clw else s.clw
  vecs := if .vecs ∈ F then t.vecs else s.vecs
  msgs := if .msgs ∈ F then t.msgs else s.msgs
  rdata := if .rdata ∈ F then t.rdata else s.rdata
  parts := if .parts ∈ F then t.parts else s.parts
  pacc := if .pacc ∈ F then t.pacc else s.pacc
  lanes := if .lanes ∈ F then t.lanes else s.lanes
  strms := if .strms ∈ F then t.strms else s.strms
  clus := if .clus ∈ F then t.clus else s.clus
  slots := if .slots ∈ F then t.slots else s.slots
  htab := if .htab ∈ F then t.htab else s.htab
  bundles := if .bundles ∈ F then t.bundles else s.bundles
  ccmem := if .ccmem ∈ F then t.ccmem else s.ccmem
  hbm := if .hbm ∈ F then t.hbm else s.hbm
  hbmBad := if .hbmBad ∈ F then t.hbmBad else s.hbmBad
  hbmCe := if .hbmCe ∈ F then t.hbmCe else s.hbmCe
  meeBad := if .meeBad ∈ F then t.meeBad else s.meeBad
  hostMem := if .hostMem ∈ F then t.hostMem else s.hostMem
  emis := if .emis ∈ F then t.emis else s.emis
  emLost := if .emLost ∈ F then t.emLost else s.emLost
  ings := if .ings ∈ F then t.ings else s.ings
  ports := if .ports ∈ F then t.ports else s.ports
  keys := if .keys ∈ F then t.keys else s.keys
  bg := if .bg ∈ F then t.bg else s.bg
  noc := if .noc ∈ F then t.noc else s.noc
  cores := if .cores ∈ F then t.cores else s.cores
  lports := if .lports ∈ F then t.lports else s.lports
  bly := if .bly ∈ F then t.bly else s.bly
  sess := if .sess ∈ F then t.sess else s.sess
  spdm := if .spdm ∈ F then t.spdm else s.spdm
  ide := if .ide ∈ F then t.ide else s.ide
  stdy := if .stdy ∈ F then t.stdy else s.stdy
  aer := if .aer ∈ F then t.aer else s.aer
  sirvi := if .sirvi ∈ F then t.sirvi else s.sirvi

/-- `t` is `s` but for the components `F`. -/
def Only (F : List Comp) (s t : State) : Prop := ∀ k, k ∉ F → k.Same s t

theorem Comp.Same.refl (s : State) (k : Comp) : k.Same s s := by cases k <;> rfl

theorem Comp.Same.symm {s t : State} {k : Comp} (h : k.Same s t) : k.Same t s := by cases k <;> exact Eq.symm h

theorem Comp.Same.trans {s t u : State} {k : Comp} (h : k.Same s t) (h' : k.Same t u) : k.Same s u := by
  cases k <;> exact Eq.trans h' h

/-- States that agree in every component are equal. -/
theorem State.eq_of_same {s t : State} (h : ∀ k, Comp.Same s t k) : t = s := by
  cases s; cases t
  simp only [State.mk.injEq]
  exact ⟨h .marks, h .pending, h .free, h .clk, h .regs, h .latch, h .vfEn, h .clw, h .vecs, h .msgs, h .rdata, h .parts, h
    .pacc, h .lanes, h .strms, h .clus, h .slots, h .htab, h .bundles, h .ccmem, h .hbm, h .hbmBad, h .hbmCe, h .meeBad,
    h .hostMem, h .emis, h .emLost, h .ings, h .ports, h .keys, h .bg, h .noc, h .cores, h .lports, h .bly, h .sess, h
    .spdm, h .ide, h .stdy, h .aer, h .sirvi⟩

section
variable {F G : List Comp} {s0 s t u : State}

@[simp] theorem Only.refl (F : List Comp) (s : State) : Only F s s := fun k _ => Comp.Same.refl s k

theorem Only.trans (h : Only F s0 s) (h' : Only F s t) : Only F s0 t := fun k hk => (h k hk).trans (h' k hk)

theorem Only.mono (h : Only G s t) (sub : G ⊆ F) : Only F s t := fun k hk => h k fun hg => hk (sub hg)

/-- What an operation does within `F` is not seen by `Only F`. -/
theorem Only.iff (h : Only G s t) (sub : G ⊆ F) : Only F s0 t ↔ Only F s0 s :=
  ⟨fun k => k.trans fun c hc => ((h.mono sub) c hc).symm, fun k => k.trans (h.mono sub)⟩

/-- The same for an operation given as a function. -/
theorem Only.app {f : State → State} (hf : ∀ s, Only F s (f s)) : Only F s0 (f s) ↔ Only F s0 s :=
  Only.iff (hf s) (List.Subset.refl F)

/-- An update of components of `F`, written out, is within `F`: it is its own graft. -/
theorem Only.graft (F : List Comp) (s t : State) : Only F s (graft F s t) := fun k hk => by
  cases k <;> exact if_neg hk

/-- A state that differs from `s` within `F` is `s` with its own components `F`. -/
theorem Only.eq_graft (h : Only F s t) : t = Machine.graft F s t :=
  State.eq_of_same fun k => by
    by_cases hk : k ∈ F
    · cases k <;> exact (if_pos hk).symm
    · exact (Only.graft F s t k hk).symm.trans (h k hk)

/-! ## Updates of one field, of two, and conditions -/

@[simp] theorem only_marks {x} (sub : [.marks] ⊆ F) : Only F s0 { s with marks := x } ↔ Only F s0 s :=
  Only.iff (Only.graft [.marks] s { s with marks := x }) sub

@[simp] theorem only_free {x} (sub : [.free] ⊆ F) : Only F s0 { s with free := x } ↔ Only F s0 s :=
  Only.iff (Only.graft [.free] s { s with free := x }) sub

@[simp] theorem only_clk {x} (sub : [.clk] ⊆ F) : Only F s0 { s with clk := x } ↔ Only F s0 s :=
  Only.iff (Only.graft [.clk] s { s with clk := x }) sub

@[simp] theorem only_regs {x} (sub : [.regs] ⊆ F) : Only F s0 { s with regs := x } ↔ Only F s0 s :=
  Only.iff (Only.graft [.regs] s { s with regs := x }) sub

@[simp] theorem only_clw {x} (sub : [.clw] ⊆ F) : Only F s0 { s with clw := x } ↔ Only F s0 s :=
  Only.iff (Only.graft [.clw] s { s with clw := x }) sub

@[simp] theorem only_vecs {x} (sub : [.vecs] ⊆ F) : Only F s0 { s with vecs := x } ↔ Only F s0 s :=
  Only.iff (Only.graft [.vecs] s { s with vecs := x }) sub

@[simp] theorem only_msgs {x} (sub : [.msgs] ⊆ F) : Only F s0 { s with msgs := x } ↔ Only F s0 s :=
  Only.iff (Only.graft [.msgs] s { s with msgs := x }) sub

@[simp] theorem only_rdata {x} (sub : [.rdata] ⊆ F) : Only F s0 { s with rdata := x } ↔ Only F s0 s :=
  Only.iff (Only.graft [.rdata] s { s with rdata := x }) sub

@[simp] theorem only_parts {x} (sub : [.parts] ⊆ F) : Only F s0 { s with parts := x } ↔ Only F s0 s :=
  Only.iff (Only.graft [.parts] s { s with parts := x }) sub

@[simp] theorem only_pacc {x} (sub : [.pacc] ⊆ F) : Only F s0 { s with pacc := x } ↔ Only F s0 s :=
  Only.iff (Only.graft [.pacc] s { s with pacc := x }) sub

@[simp] theorem only_lanes {x} (sub : [.lanes] ⊆ F) : Only F s0 { s with lanes := x } ↔ Only F s0 s :=
  Only.iff (Only.graft [.lanes] s { s with lanes := x }) sub

@[simp] theorem only_strms {x} (sub : [.strms] ⊆ F) : Only F s0 { s with strms := x } ↔ Only F s0 s :=
  Only.iff (Only.graft [.strms] s { s with strms := x }) sub

@[simp] theorem only_clus {x} (sub : [.clus] ⊆ F) : Only F s0 { s with clus := x } ↔ Only F s0 s :=
  Only.iff (Only.graft [.clus] s { s with clus := x }) sub

@[simp] theorem only_slots {x} (sub : [.slots] ⊆ F) : Only F s0 { s with slots := x } ↔ Only F s0 s :=
  Only.iff (Only.graft [.slots] s { s with slots := x }) sub

@[simp] theorem only_bundles {x} (sub : [.bundles] ⊆ F) : Only F s0 { s with bundles := x } ↔ Only F s0 s :=
  Only.iff (Only.graft [.bundles] s { s with bundles := x }) sub

@[simp] theorem only_hbmCe {x} (sub : [.hbmCe] ⊆ F) : Only F s0 { s with hbmCe := x } ↔ Only F s0 s :=
  Only.iff (Only.graft [.hbmCe] s { s with hbmCe := x }) sub

@[simp] theorem only_ings {x} (sub : [.ings] ⊆ F) : Only F s0 { s with ings := x } ↔ Only F s0 s :=
  Only.iff (Only.graft [.ings] s { s with ings := x }) sub

@[simp] theorem only_ports {x} (sub : [.ports] ⊆ F) : Only F s0 { s with ports := x } ↔ Only F s0 s :=
  Only.iff (Only.graft [.ports] s { s with ports := x }) sub

@[simp] theorem only_keys {x} (sub : [.keys] ⊆ F) : Only F s0 { s with keys := x } ↔ Only F s0 s :=
  Only.iff (Only.graft [.keys] s { s with keys := x }) sub

@[simp] theorem only_bg {x} (sub : [.bg] ⊆ F) : Only F s0 { s with bg := x } ↔ Only F s0 s :=
  Only.iff (Only.graft [.bg] s { s with bg := x }) sub

@[simp] theorem only_noc {x} (sub : [.noc] ⊆ F) : Only F s0 { s with noc := x } ↔ Only F s0 s :=
  Only.iff (Only.graft [.noc] s { s with noc := x }) sub

@[simp] theorem only_cores {x} (sub : [.cores] ⊆ F) : Only F s0 { s with cores := x } ↔ Only F s0 s :=
  Only.iff (Only.graft [.cores] s { s with cores := x }) sub

@[simp] theorem only_lports {x} (sub : [.lports] ⊆ F) : Only F s0 { s with lports := x } ↔ Only F s0 s :=
  Only.iff (Only.graft [.lports] s { s with lports := x }) sub

@[simp] theorem only_bly {x} (sub : [.bly] ⊆ F) : Only F s0 { s with bly := x } ↔ Only F s0 s :=
  Only.iff (Only.graft [.bly] s { s with bly := x }) sub

@[simp] theorem only_sess {x} (sub : [.sess] ⊆ F) : Only F s0 { s with sess := x } ↔ Only F s0 s :=
  Only.iff (Only.graft [.sess] s { s with sess := x }) sub

@[simp] theorem only_spdm {x} (sub : [.spdm] ⊆ F) : Only F s0 { s with spdm := x } ↔ Only F s0 s :=
  Only.iff (Only.graft [.spdm] s { s with spdm := x }) sub

@[simp] theorem only_ide {x} (sub : [.ide] ⊆ F) : Only F s0 { s with ide := x } ↔ Only F s0 s :=
  Only.iff (Only.graft [.ide] s { s with ide := x }) sub

@[simp] theorem only_stdy {x} (sub : [.stdy] ⊆ F) : Only F s0 { s with stdy := x } ↔ Only F s0 s :=
  Only.iff (Only.graft [.stdy] s { s with stdy := x }) sub

@[simp] theorem only_aer {x} (sub : [.aer] ⊆ F) : Only F s0 { s with aer := x } ↔ Only F s0 s :=
  Only.iff (Only.graft [.aer] s { s with aer := x }) sub

@[simp] theorem only_sirvi {x} (sub : [.sirvi] ⊆ F) : Only F s0 { s with sirvi := x } ↔ Only F s0 s :=
  Only.iff (Only.graft [.sirvi] s { s with sirvi := x }) sub

@[simp] theorem only_staged {x y} (sub : [.emis, .emLost] ⊆ F) : Only F s0 { s with emis := x, emLost := y } ↔ Only F s0 s :=
  Only.iff (Only.graft [.emis, .emLost] s { s with emis := x, emLost := y }) sub

@[simp] theorem only_readout {x y} (sub : [.latch, .rdata] ⊆ F) : Only F s0 { s with latch := x, rdata := y } ↔ Only F s0 s :=
  Only.iff (Only.graft [.latch, .rdata] s { s with latch := x, rdata := y }) sub

@[simp] theorem only_ite {c : Prop} [Decidable c] :
    Only F s0 (if c then s else t) ↔ (c → Only F s0 s) ∧ (¬c → Only F s0 t) := by
  split <;> simp [*]

/-! ## Folds -/

@[simp] theorem each_frame {α : Type} {l : List α} {f : State → α → State} (hf : ∀ s a, Only F s (f s a)) :
    Only F s0 (each s l f) ↔ Only F s0 s := by
  refine Only.iff ?_ (List.Subset.refl _)
  unfold each
  induction l generalizing s with
  | nil => exact Only.refl F s
  | cons a l ih => exact (hf s a).trans ih

@[simp] theorem foldl_frame {α : Type} {l : List α} {f : State → α → State} (hf : ∀ s a, Only F s (f s a)) :
    Only F s0 (l.foldl f s) ↔ Only F s0 s := each_frame hf

/-- A fold that carries the state with something else. -/
@[simp] theorem foldlFst_frame {α β : Type} {l : List α} {f : State × β → α → State × β} {p : State × β}
    (hf : ∀ p a, Only F p.1 (f p a).1) : Only F s0 (l.foldl f p).1 ↔ Only F s0 p.1 := by
  refine Only.iff ?_ (List.Subset.refl _)
  induction l generalizing p with
  | nil => exact Only.refl F _
  | cons a l ih => exact (hf p a).trans ih

/-! ## The components of the large families -/

/-- What an event writes: the page's registers, the marks of the cycle and the interrupts (R7, R8, R455). -/
abbrev evtComps : List Comp := [.marks, .regs, .vecs, .msgs]

/-- What the ops of a bundle and the sequencer write. -/
abbrev clusterComps : List Comp :=
  [.marks, .clk, .regs, .vecs, .msgs, .parts, .pacc, .lanes, .strms, .clus, .slots, .hbmCe, .emis, .emLost, .bg, .noc, .cores, .bly, .sirvi]

/-! ## Ops -/

@[simp] theorem wr_frame {a : Nat} {v : Word} (sub : [.regs] ⊆ F) : Only F s0 (wr s a v) ↔ Only F s0 s :=
  Only.iff (by simp [wr]) sub

@[simp] theorem wrN_frame {a v : Nat} (sub : [.regs] ⊆ F) : Only F s0 (wrN s a v) ↔ Only F s0 s :=
  Only.iff (by simp [wrN]) sub

@[simp] theorem wf_frame {a lo len v : Nat} (sub : [.regs] ⊆ F) : Only F s0 (wf s a lo len v) ↔ Only F s0 s :=
  Only.iff (by simp [wf]) sub

@[simp] theorem wr64_frame {a v : Nat} (sub : [.regs] ⊆ F) : Only F s0 (wr64 s a v) ↔ Only F s0 s :=
  Only.iff (by simp [wr64]) sub

@[simp] theorem add64_frame {a n : Nat} (sub : [.regs] ⊆ F) : Only F s0 (add64 s a n) ↔ Only F s0 s :=
  Only.iff (by simp [add64]) sub

@[simp] theorem setPart_frame {n : Nat} {p : Part} (sub : [.parts] ⊆ F) : Only F s0 (setPart s n p) ↔ Only F s0 s :=
  Only.iff (by simp [setPart]) sub

@[simp] theorem modPart_frame {n : Nat} {f : Part → Part} (sub : [.parts] ⊆ F) : Only F s0 (modPart s n f) ↔ Only F s0 s :=
  Only.iff (by simp [modPart]) sub

@[simp] theorem setJob_frame {n j : Nat} {x : Job} (sub : [.parts] ⊆ F) : Only F s0 (setJob s n j x) ↔ Only F s0 s :=
  Only.iff (by simp [setJob]) sub

@[simp] theorem modJob_frame {n j : Nat} {f : Job → Job} (sub : [.parts] ⊆ F) : Only F s0 (modJob s n j f) ↔ Only F s0 s :=
  Only.iff (by simp [modJob]) sub

@[simp] theorem setStrm_frame {hh : Nat} {x : Strm} (sub : [.strms] ⊆ F) : Only F s0 (setStrm s hh x) ↔ Only F s0 s :=
  Only.iff (by simp [setStrm]) sub

@[simp] theorem modStrm_frame {hh : Nat} {f : Strm → Strm} (sub : [.strms] ⊆ F) : Only F s0 (modStrm s hh f) ↔ Only F s0 s :=
  Only.iff (by simp [modStrm]) sub

@[simp] theorem setClu_frame {c : Nat} {x : Clus} (sub : [.clus] ⊆ F) : Only F s0 (setClu s c x) ↔ Only F s0 s :=
  Only.iff (by simp [setClu]) sub

@[simp] theorem modClu_frame {c : Nat} {f : Clus → Clus} (sub : [.clus] ⊆ F) : Only F s0 (modClu s c f) ↔ Only F s0 s :=
  Only.iff (by simp [modClu]) sub

@[simp] theorem setLane_frame {k : Nat} {x : Option Lane} (sub : [.lanes] ⊆ F) : Only F s0 (setLane s k x) ↔ Only F s0 s :=
  Only.iff (by simp [setLane]) sub

@[simp] theorem modLane_frame {k : Nat} {f : Lane → Lane} (sub : [.lanes] ⊆ F) : Only F s0 (modLane s k f) ↔ Only F s0 s := by
  refine Only.iff ?_ sub
  unfold modLane
  split <;> simp

@[simp] theorem setSlot_frame {core i : Nat} {x : Slot} (sub : [.slots] ⊆ F) : Only F s0 (setSlot s core i x) ↔ Only F s0 s :=
  Only.iff (by simp [setSlot]) sub

@[simp] theorem modSlot_frame {core i : Nat} {f : Slot → Slot} (sub : [.slots] ⊆ F) : Only F s0 (modSlot s core i f) ↔ Only F s0 s :=
  Only.iff (by simp [modSlot]) sub

@[simp] theorem setBundle_frame {c i : Nat} {b : Bundle} (sub : [.bundles] ⊆ F) : Only F s0 (setBundle s c i b) ↔ Only F s0 s :=
  Only.iff (by simp [setBundle]) sub

@[simp] theorem fresh_frame (sub : [.free] ⊆ F) : Only F s0 (fresh s).2 ↔ Only F s0 s :=
  Only.iff (by simp [fresh]) sub

@[simp] theorem markEvt_frame {pg bit : Nat} (sub : [.marks] ⊆ F) : Only F s0 (markEvt s pg bit) ↔ Only F s0 s :=
  Only.iff (by simp [markEvt]) sub

@[simp] theorem markCnt_frame {a n : Nat} (sub : [.marks] ⊆ F) : Only F s0 (markCnt s a n) ↔ Only F s0 s :=
  Only.iff (by simp [markCnt]) sub

@[simp] theorem passU_frame {du : Nat} (sub : [.clk] ⊆ F) : Only F s0 (passU s du) ↔ Only F s0 s :=
  Only.iff (by simp [passU]) sub

@[simp] theorem toCycle_frame {c : Nat} (sub : [.clk] ⊆ F) : Only F s0 (toCycle s c) ↔ Only F s0 s :=
  Only.iff (by simp [toCycle]) sub

@[simp] theorem toTb_frame {t : Nat} (sub : [.clk] ⊆ F) : Only F s0 (toTb s t) ↔ Only F s0 s :=
  Only.iff (by simp [toTb]) sub

@[simp] theorem toTbI_frame {t : Int} (sub : [.clk] ⊆ F) : Only F s0 (toTbI s t) ↔ Only F s0 s :=
  Only.iff (by simp [toTbI]) sub

@[simp] theorem setPacc_frame {p : Nat} {x : PartyAcc} (sub : [.pacc] ⊆ F) : Only F s0 (setPacc s p x) ↔ Only F s0 s :=
  Only.iff (by simp [setPacc]) sub

@[simp] theorem charge_frame {n : Nat} {f : Acc → Acc} (sub : [.pacc] ⊆ F) : Only F s0 (charge s n f) ↔ Only F s0 s :=
  Only.iff (by simp [charge]) sub

@[simp] theorem countBytes_frame {n k : Nat} (sub : [.pacc] ⊆ F) : Only F s0 (countBytes s n k) ↔ Only F s0 s :=
  Only.iff (by simp [countBytes]) sub

@[simp] theorem pfDo_frame {f : State → State} (hf : ∀ s, Only F s (f s)) : Only F s0 (pfDo s f) ↔ Only F s0 s :=
  Only.iff (by unfold pfDo; split <;> simp [Only.app hf]) (List.Subset.refl F)

@[simp] theorem setVec_frame {fn v : Nat} {x : Vec} (sub : [.vecs] ⊆ F) : Only F s0 (setVec s fn v x) ↔ Only F s0 s :=
  Only.iff (by simp [setVec]) sub

@[simp] theorem sendMsi_frame {fn v : Nat} (sub : [.msgs, .vecs] ⊆ F) : Only F s0 (sendMsi s fn v) ↔ Only F s0 s :=
  Only.iff (by unfold sendMsi; split <;> simp) sub

@[simp] theorem irqVec_frame {a b : State} {c : Bool} {fn v : Nat} (sub : [.vecs, .msgs] ⊆ F) :
    Only F s0 (irqVec a b c s fn v) ↔ Only F s0 s :=
  Only.iff (by simp [irqVec]) sub

@[simp] theorem irqSync_frame {a : State} {pg : Nat} {c : Bool} (sub : [.vecs, .msgs] ⊆ F) :
    Only F s0 (irqSync a s pg c) ↔ Only F s0 s := by
  refine Only.iff ?_ sub
  unfold irqSync
  refine (foldl_frame fun s k => ?_).2 (by simp)
  split <;> simp

@[simp] theorem irqSyncs_frame {a : State} {pgs : List Nat} (sub : [.vecs, .msgs] ⊆ F) : Only F s0 (irqSyncs a s pgs) ↔ Only F s0 s :=
  Only.iff (by simp [irqSyncs]) sub

@[simp] theorem setTdi_frame {n v : Nat} (sub : [.regs, .vecs, .msgs] ⊆ F) : Only F s0 (setTdi s n v) ↔ Only F s0 s :=
  Only.iff (by simp [setTdi]) sub

@[simp] theorem capture_frame {pg bit : Nat} {test : Bool} {detail : Nat} (sub : [.regs] ⊆ F) :
    Only F s0 (capture s pg bit test detail) ↔ Only F s0 s := by
  refine Only.iff ?_ (List.Subset.refl F)
  unfold capture
  split
  · simp
  · exact (wrN_frame sub).2 ((wrN_frame sub).2 ((wrN_frame sub).2 ((wrN_frame sub).2 (Only.refl F s))))

@[simp] theorem setEvtT_frame {pg bit : Nat} {test : Bool} {detail : Nat} (sub : evtComps ⊆ F) :
    Only F s0 (setEvtT s pg bit test detail) ↔ Only F s0 s :=
  Only.iff (by simp [setEvtT]) sub

@[simp] theorem setEvt_frame {pg bit detail : Nat} (sub : evtComps ⊆ F) : Only F s0 (setEvt s pg bit detail) ↔ Only F s0 s :=
  Only.iff (by simp [setEvt]) sub

@[simp] theorem bumpBy_frame {pg off n : Nat} (sub : evtComps ⊆ F) : Only F s0 (bumpBy s pg off n) ↔ Only F s0 s := by
  refine Only.iff ?_ sub
  unfold bumpBy
  split
  · simp
  · split <;> simp

@[simp] theorem bump_frame {pg off : Nat} (sub : evtComps ⊆ F) : Only F s0 (bump s pg off) ↔ Only F s0 s :=
  Only.iff (by simp [bump]) sub

@[simp] theorem cntTo_frame {pg off v : Nat} (sub : [.regs] ⊆ F) : Only F s0 (cntTo s pg off v) ↔ Only F s0 s := by
  refine Only.iff ?_ sub
  unfold cntTo
  split
  · simp
  · split <;> simp

@[simp] theorem clearCnt_frame {pg off : Nat} (sub : [.regs] ⊆ F) : Only F s0 (clearCnt s pg off) ↔ Only F s0 s :=
  Only.iff (by simp [clearCnt]) sub

@[simp] theorem iff_frame {c : Bool} {f : State → State} (hf : ∀ s, Only F s (f s)) : Only F s0 (iff c s f) ↔ Only F s0 s :=
  Only.iff (by unfold iff; split <;> simp [Only.app hf]) (List.Subset.refl F)

@[simp] theorem modBly_frame {n : Nat} {f : Bly → Bly} (sub : [.bly] ⊆ F) : Only F s0 (modBly s n f) ↔ Only F s0 s :=
  Only.iff (by simp [modBly]) sub

/-! ## Access -/

@[simp] theorem hostWr_frame {r : Requester} {a : Nat} {f : State → State} (hf : ∀ s, Only F s (f s)) :
    Only F s0 (hostWr s r a f) ↔ Only F s0 s :=
  Only.iff (by unfold hostWr; split <;> simp [Only.app hf]) (List.Subset.refl F)

/-! ## KeyBase -/

@[simp] theorem setKeySlot_frame {i : Nat} {x : KeySlot} (sub : [.keys] ⊆ F) : Only F s0 (setKeySlot s i x) ↔ Only F s0 s :=
  Only.iff (by simp [setKeySlot]) sub

/-! ## BgBase -/

@[simp] theorem setBg_frame {a : Nat} {x : BgAct} (sub : [.bg] ⊆ F) : Only F s0 (setBg s a x) ↔ Only F s0 s :=
  Only.iff (by simp [setBg]) sub

/-! ## Hbm -/

@[simp] theorem markRow_frame {a : Nat} (sub : [.bg] ⊆ F) : Only F s0 (markRow s a) ↔ Only F s0 s :=
  Only.iff (by simp [markRow]) sub

@[simp] theorem hbmUeWord_frame {w : Nat} (sub : [.marks, .regs, .vecs, .msgs, .bg] ⊆ F) : Only F s0 (hbmUeWord s w) ↔ Only F s0 s :=
  Only.iff (by simp [hbmUeWord]) sub

@[simp] theorem rowCe_frame {a : Nat} (sub : [.bg, .sirvi] ⊆ F) : Only F s0 (rowCe s a) ↔ Only F s0 s :=
  Only.iff (by simp [rowCe]) sub

@[simp] theorem hbmCeWord_frame {w : Nat} (sub : [.marks, .regs, .vecs, .msgs, .hbmCe, .bg, .sirvi] ⊆ F) :
    Only F s0 (hbmCeWord s w) ↔ Only F s0 s :=
  Only.iff (by simp [hbmCeWord]) sub

@[simp] theorem hbmFix_frame {a n : Nat} (sub : [.marks, .regs, .vecs, .msgs, .hbmCe, .bg, .sirvi] ⊆ F) :
    Only F s0 (hbmFix s a n) ↔ Only F s0 s :=
  Only.iff (by simp [hbmFix]) sub

@[simp] theorem hbmEcc_frame {a n : Nat} (sub : [.marks, .regs, .vecs, .msgs, .hbmCe, .bg, .sirvi] ⊆ F) :
    Only F s0 (hbmEcc s a n) ↔ Only F s0 s :=
  Only.iff (by simp [hbmEcc]) sub

@[simp] theorem meeErr_frame {g : Nat} (sub : evtComps ⊆ F) : Only F s0 (meeErr s g) ↔ Only F s0 s :=
  Only.iff (by simp [meeErr]) sub

@[simp] theorem hbmUe_frame {a n : Nat} (sub : [.marks, .regs, .vecs, .msgs, .hbmCe, .bg, .sirvi] ⊆ F) :
    Only F s0 (hbmUe s a n) ↔ Only F s0 s :=
  Only.iff (by simp [hbmUe]) sub

@[simp] theorem hbmClear_frame {a n : Nat} (sub : [.hbm, .hbmBad, .hbmCe, .meeBad] ⊆ F) : Only F s0 (hbmClear s a n) ↔ Only F s0 s :=
  Only.iff (Only.graft _ s (hbmClear s a n)) sub

/-! ## Emit -/

@[simp] theorem pushRaw_frame {n : Nat} {r : EmRec} (sub : [.marks, .regs, .vecs, .msgs, .emis, .emLost] ⊆ F) :
    Only F s0 (pushRaw s n r) ↔ Only F s0 s :=
  Only.iff (by simp [pushRaw]) sub

@[simp] theorem pushRec_frame {n : Nat} {r : EmRec} (sub : [.marks, .regs, .vecs, .msgs, .emis, .emLost] ⊆ F) :
    Only F s0 (pushRec s n r) ↔ Only F s0 s :=
  Only.iff (by simp [pushRec]) sub

@[simp] theorem strmEvent_frame {hh code cause detail tick ts : Nat} (sub : [.marks, .regs, .vecs, .msgs, .emis, .emLost] ⊆ F) :
    Only F s0 (strmEvent s hh code cause detail tick ts) ↔ Only F s0 s :=
  Only.iff (by simp [strmEvent]) sub

@[simp] theorem faultStrm_frame {hh tick ts : Nat} (sub : [.marks, .regs, .vecs, .msgs, .strms, .emis, .emLost] ⊆ F) :
    Only F s0 (faultStrm s hh tick ts) ↔ Only F s0 s :=
  Only.iff (by simp [faultStrm]) sub

/-! ## IngBase -/

@[simp] theorem modIng_frame {n : Nat} {f : Ing → Ing} (sub : [.ings] ⊆ F) : Only F s0 (modIng s n f) ↔ Only F s0 s :=
  Only.iff (by simp [modIng]) sub

/-! ## StreamBase -/

@[simp] theorem zeroSlots_frame {l : List (Nat × Nat)} {full : Bool} (sub : [.slots] ⊆ F) :
    Only F s0 (zeroSlots s l full) ↔ Only F s0 s :=
  Only.iff (by simp [zeroSlots]) sub

@[simp] theorem tagSlots_frame {l : List (Nat × Nat)} {full : Bool} (sub : [.slots] ⊆ F) : Only F s0 (tagSlots s l full) ↔ Only F s0 s :=
  Only.iff (by simp [tagSlots]) sub

/-! ## Operands -/

@[simp] theorem countUe_frame {core i : Nat} {words : List Nat} (sub : evtComps ⊆ F) :
    Only F s0 (countUe s core i words) ↔ Only F s0 s := by
  refine Only.iff ?_ sub
  unfold countUe
  split <;> simp

@[simp] theorem correct_frame {core i : Nat} {words : List Nat} (sub : [.marks, .regs, .vecs, .msgs, .slots] ⊆ F) :
    Only F s0 (correct s core i words) ↔ Only F s0 s :=
  Only.iff (by simp [correct]) sub

@[simp] theorem readSlot_frame {core i off n : Nat} (sub : [.marks, .regs, .vecs, .msgs, .slots] ⊆ F) :
    Only F s0 (readSlot s core i off n) ↔ Only F s0 s :=
  Only.iff (by simp [readSlot]) sub

@[simp] theorem readAll_frame {l : List Rd} (sub : [.marks, .regs, .vecs, .msgs, .pacc, .slots] ⊆ F) :
    Only F s0 (readAll s l) ↔ Only F s0 s := by
  refine Only.iff ?_ sub
  refine (each_frame fun s x => ?_).2 (Only.refl _ s)
  split <;> simp

/-! ## Scrub -/

@[simp] theorem scrubSlots_frame {c lo hi : Nat} (sub : [.marks, .regs, .vecs, .msgs, .slots] ⊆ F) :
    Only F s0 (scrubSlots s c lo hi) ↔ Only F s0 s :=
  Only.iff (by simp [scrubSlots]) sub

@[simp] theorem scrubUnits_frame {a c k : Nat} (sub : [.marks, .regs, .vecs, .msgs, .slots, .bg] ⊆ F) :
    Only F s0 (scrubUnits s a c k) ↔ Only F s0 s :=
  Only.iff (by simp [scrubUnits]) sub

@[simp] theorem scrubGrans_frame {k : Nat} (sub : [.marks, .regs, .vecs, .msgs, .hbmCe, .bg, .sirvi] ⊆ F) :
    Only F s0 (scrubGrans s k) ↔ Only F s0 s :=
  Only.iff (by simp [scrubGrans]) sub

@[simp] theorem bgDo_frame {n a cyc : Nat} (sub : [.marks, .regs, .vecs, .msgs, .slots, .hbmCe, .bg, .sirvi] ⊆ F) :
    Only F s0 (bgDo s n a cyc) ↔ Only F s0 s :=
  Only.iff (by simp [bgDo]) sub

@[simp] theorem bgClaims_frame {n pool : Nat} (sub : [.marks, .regs, .vecs, .msgs, .slots, .hbmCe, .bg, .sirvi] ⊆ F) :
    Only F s0 (bgClaims s n pool).1 ↔ Only F s0 s := by
  refine Only.iff ?_ sub
  unfold bgClaims
  refine (foldlFst_frame fun p a => ?_).2 (Only.refl _ s)
  dsimp only
  split <;> simp

/-! ## Pitch -/

@[simp] theorem openSeg_frame {n now : Nat} (sub : [.marks, .regs, .vecs, .msgs, .parts, .slots, .hbmCe, .bg, .sirvi] ⊆ F) :
    Only F s0 (openSeg s n now) ↔ Only F s0 s :=
  Only.iff (by simp [openSeg]) sub

@[simp] theorem returnPool_frame {n k : Nat} (sub : [.parts] ⊆ F) : Only F s0 (returnPool s n k) ↔ Only F s0 s :=
  Only.iff (by simp [returnPool]) sub

@[simp] theorem abandonClus_frame {j : Nat} {ls : List (Nat × Nat)} {c : Nat} (sub : [.marks, .regs, .vecs, .msgs, .clus, .noc] ⊆ F) :
    Only F s0 (abandonClus s j ls c) ↔ Only F s0 s :=
  Only.iff (by simp [abandonClus]) sub

@[simp] theorem abandonRead_frame {c : Nat} (sub : evtComps ⊆ F) : Only F s0 (abandonRead s c) ↔ Only F s0 s :=
  Only.iff (by simp [abandonRead]) sub

@[simp] theorem abandonRx_frame {n j : Nat} (sub : [.marks, .regs, .vecs, .msgs, .clus, .bly] ⊆ F) :
    Only F s0 (abandonRx s n j) ↔ Only F s0 s :=
  Only.iff (by simp [abandonRx]) sub

@[simp] theorem tally_frame {n j used ent : Nat} (sub : [.parts, .pacc] ⊆ F) : Only F s0 (tally s n j used ent) ↔ Only F s0 s :=
  Only.iff (by simp [tally]) sub

@[simp] theorem countStalls_frame {n : Nat} {p : Pitch} {e : Nat} (sub : [.parts] ⊆ F) : Only F s0 (countStalls s n p e) ↔ Only F s0 s :=
  Only.iff (by simp [countStalls]) sub

@[simp] theorem endPitch_frame {n e : Nat} (sub : clusterComps ⊆ F) : Only F s0 (endPitch s n e) ↔ Only F s0 s := by
  refine Only.iff ?_ sub
  unfold endPitch
  split <;> simp

@[simp] theorem dropReads_frame {j c : Nat} (sub : [.marks, .regs, .vecs, .msgs, .clus] ⊆ F) :
    Only F s0 (dropReads s j c) ↔ Only F s0 s := by
  refine Only.iff ?_ sub
  unfold dropReads
  dsimp only
  split <;> simp

@[simp] theorem jobFault_frame {n j cause : Nat} (sub : clusterComps ⊆ F) :
    Only F s0 (jobFault s n j cause) ↔ Only F s0 s := by
  refine Only.iff ?_ sub
  unfold jobFault
  split
  · simp
  · extract_lets lanes s1 s2 s3 late s4 d s5
    have h1 : Only clusterComps s s1 := by
      unfold s1
      split
      · split <;> simp
      · simp
    have h5 : Only clusterComps s s5 := by simp [s5, s4, s3, s2, h1]
    split <;> simp [h5]

@[simp] theorem clusFault_frame {c cause : Nat} (sub : clusterComps ⊆ F) : Only F s0 (clusFault s c cause) ↔ Only F s0 s :=
  Only.iff (by simp [clusFault]) sub

@[simp] theorem jobTeardownDoneEff_frame {n j waited : Nat} (sub : [.parts] ⊆ F) :
    Only F s0 (jobTeardownDoneEff n j waited s) ↔ Only F s0 s := by
  refine Only.iff ?_ sub
  unfold jobTeardownDoneEff
  dsimp only
  split
  · simp
  · split <;> simp

/-! ## InFlight -/

@[simp] theorem slotEff_frame {core i off : Nat} {bs : List Byte} {full : Option Bool} (sub : [.marks, .regs, .vecs, .msgs, .slots] ⊆ F) :
    Only F s0 (slotEff s core i off bs full) ↔ Only F s0 s :=
  Only.iff (by simp [slotEff]) sub

@[simp] theorem setCore_frame {k : Nat} {x : Core} (sub : [.cores] ⊆ F) : Only F s0 (setCore s k x) ↔ Only F s0 s :=
  Only.iff (by simp [setCore]) sub

@[simp] theorem modCore_frame {k : Nat} {f : Core → Core} (sub : [.cores] ⊆ F) : Only F s0 (modCore s k f) ↔ Only F s0 s :=
  Only.iff (by simp [modCore]) sub

@[simp] theorem sumPush_frame {c : Nat} {v : DWord} (sub : [.marks, .regs, .vecs, .msgs, .clus] ⊆ F) :
    Only F s0 (sumPush s c v) ↔ Only F s0 s :=
  Only.iff (by simp [sumPush]) sub

@[simp] theorem setFlags_frame {core : Nat} {fo fn : Bool} (sub : [.regs] ⊆ F) : Only F s0 (setFlags s core fo fn) ↔ Only F s0 s :=
  Only.iff (by simp [setFlags]) sub

@[simp] theorem applyEff_frame {c : Nat} {e : Eff} (sub : clusterComps ⊆ F) : Only F s0 (applyEff s c e) ↔ Only F s0 s := by
  refine Only.iff ?_ sub
  unfold applyEff
  split
  · simp
  · simp
  · simp
  · simp
  · split <;> simp

@[simp] theorem landDue_frame {c t : Nat} {frozen : Bool} (sub : clusterComps ⊆ F) : Only F s0 (landDue s c t frozen) ↔ Only F s0 s :=
  Only.iff (by simp [landDue]) sub

@[simp] theorem later_frame {c : Nat} {l : List (Nat × Eff)} (sub : [.clus] ⊆ F) : Only F s0 (later s c l) ↔ Only F s0 s :=
  Only.iff (by simp [later]) sub

@[simp] theorem freeze_frame {c : Nat} {w : Wait} {cls : Nat} (sub : [.clus] ⊆ F) : Only F s0 (freeze s c w cls) ↔ Only F s0 s :=
  Only.iff (by simp [freeze]) sub

@[simp] theorem freezeOn_frame {c : Nat} {w : Wait} (sub : clusterComps ⊆ F) : Only F s0 (freezeOn s c w) ↔ Only F s0 s :=
  Only.iff (by simp [freezeOn]) sub

@[simp] theorem chargePort_frame {c : Nat} {l : List Rd} (sub : [.clus] ⊆ F) : Only F s0 (chargePort s c l) ↔ Only F s0 s :=
  Only.iff (by simp [chargePort]) sub

/-! ## Runs -/

@[simp] theorem addStall_frame {n a k cls : Nat} (sub : [.parts] ⊆ F) : Only F s0 (addStall s n a k cls) ↔ Only F s0 s :=
  Only.iff (by simp [addStall]) sub

@[simp] theorem endStall_frame {c k : Nat} (sub : [.clk, .parts, .clus] ⊆ F) : Only F s0 (endStall s c k) ↔ Only F s0 s :=
  Only.iff (by simp [endStall]) sub

@[simp] theorem applyFar_frame {c : Nat} (sub : [.clus] ⊆ F) : Only F s0 (applyFar s c) ↔ Only F s0 s :=
  Only.iff (by simp [applyFar]) sub

@[simp] theorem portStall_frame {c a k : Nat} (sub : [.clk, .parts, .clus] ⊆ F) : Only F s0 (portStall s c a k) ↔ Only F s0 s :=
  Only.iff (by simp [portStall]) sub

@[simp] theorem noteRemote_frame {c k : Nat} {l : List Ref} (sub : [.clus] ⊆ F) : Only F s0 (noteRemote s c k l) ↔ Only F s0 s := by
  refine Only.iff ?_ sub
  unfold noteRemote
  split <;> simp

/-- What a cycle of a run leaves has changed the components `F` at most. -/
def Ran.Only (F : List Comp) (s : State) : Ran → Prop
  | .wait _ => True
  | .fault t => Machine.Only F s t
  | .on t _ => Machine.Only F s t

@[simp] theorem Ran.only_wait {w : Wait} : Ran.Only F s (.wait w) ↔ True := Iff.rfl
@[simp] theorem Ran.only_fault : Ran.Only F s (.fault t) ↔ Machine.Only F s t := Iff.rfl
@[simp] theorem Ran.only_on {r : OpRun} : Ran.Only F s (.on t r) ↔ Machine.Only F s t := Iff.rfl

theorem Ran.Only.of {r : Ran} (h : Machine.Only F s0 s) (k : Ran.Only F s r) : Ran.Only F s0 r := by
  cases r with
  | wait w => trivial
  | fault t => exact Machine.Only.trans h k
  | on t r => exact Machine.Only.trans h k

@[simp] theorem Ran.only_ite {c : Prop} [Decidable c] {a b : Ran} :
    Ran.Only F s (if c then a else b) ↔ (c → Ran.Only F s a) ∧ (¬c → Ran.Only F s b) := by
  split <;> simp [*]

@[simp] theorem runRead_frame {c : Nat} {l : List Rd} {f : State → List Byte → Ran} (sub : clusterComps ⊆ F)
    (hf : ∀ s bs, Ran.Only F s (f s bs)) : Ran.Only F s ((runRead s c l).andThen f) := by
  simp only [clusterComps, List.cons_subset] at sub
  unfold runRead
  split
  · trivial
  · dsimp only
    split
    · change Machine.Only F s _; simp [sub]
    · exact Ran.Only.of (by simp [sub]) (hf _ _)

@[simp] theorem addEffs_frame {c : Nat} {l : List (Nat × Eff)} (sub : [.clus] ⊆ F) : Only F s0 (addEffs s c l) ↔ Only F s0 s :=
  Only.iff (by simp [addEffs]) sub

@[simp] theorem bookUntil_frame {c core t : Nat} {units : List Nat} (sub : [.clus] ⊆ F) :
    Only F s0 (bookUntil s c core t units) ↔ Only F s0 s :=
  Only.iff (by simp [bookUntil]) sub

@[simp] theorem streamOn_frame {c : Nat} {r : OpRun} : Ran.Only clusterComps s (streamOn s c r) := by
  simp [streamOn]

@[simp] theorem streamStep_frame {c : Nat} {r : OpRun} : Ran.Only clusterComps s (streamStep s c r) := by
  unfold streamStep
  dsimp only
  split
  · exact runRead_frame (List.Subset.refl _) fun s bs => Ran.Only.of (by simp) streamOn_frame
  · exact streamOn_frame

@[simp] theorem drainOut_frame {c : Nat} {r : OpRun} : Ran.Only clusterComps s (drainOut s c r) := by
  simp [drainOut]

@[simp] theorem drainStep_frame {c : Nat} {r : OpRun} : Ran.Only clusterComps s (drainStep s c r) := by
  simp [drainStep]

@[simp] theorem gpPort_frame {c : Nat} {l : List Rd} {r : OpRun} {p : GpPar} (sub : [.clus] ⊆ F) :
    Only F s0 (gpPort s c l r p) ↔ Only F s0 s := by
  refine Only.iff ?_ sub
  unfold gpPort
  split <;> simp

@[simp] theorem chainGo_frame {c : Nat} {r : OpRun} {p : GpPar} {j : Nat} : Ran.Only clusterComps s (chainGo s c r p j) := by
  unfold chainGo
  dsimp only
  split
  · trivial
  · simp

@[simp] theorem chainPars_frame {c : Nat} {r : OpRun} : Ran.Only clusterComps s (chainPars s c r) := by
  unfold chainPars
  dsimp only
  split <;> simp

@[simp] theorem chainStep_frame {c : Nat} {r : OpRun} : Ran.Only clusterComps s (chainStep s c r) := by
  simp [chainStep]

@[simp] theorem tileStep_frame {c : Nat} {r : OpRun} : Ran.Only clusterComps s (tileStep s c r) := by
  simp [tileStep]

@[simp] theorem copyStep_frame {c : Nat} {r : OpRun} : Ran.Only clusterComps s (copyStep s c r) := by
  simp [copyStep]

@[simp] theorem submitAll_frame {c : Nat} {bs : List Byte} (sub : [.clus] ⊆ F) : Only F s0 (submitAll s c bs) ↔ Only F s0 s :=
  Only.iff (by simp [submitAll]) sub

@[simp] theorem dmaStep_frame {c : Nat} {r : OpRun} : Ran.Only clusterComps s (dmaStep s c r) := by
  simp [dmaStep]

@[simp] theorem loadwMove_frame {c : Nat} {r : OpRun} {room : Nat} (sub : clusterComps ⊆ F) :
    Only F s0 (loadwMove s c r room).1 ↔ Only F s0 s := by
  refine Only.iff ?_ sub
  unfold loadwMove
  dsimp only
  split
  · simp
  · split
    · simp
    · split <;> simp

@[simp] theorem loadwServe_frame {c core room : Nat} (sub : clusterComps ⊆ F) : Only F s0 (loadwServe s c core room) ↔ Only F s0 s := by
  refine Only.iff ?_ sub
  unfold loadwServe
  refine (foldlFst_frame fun a i => ?_).2 (Only.refl _ s)
  split
  · dsimp only
    split <;> simp
  · simp

@[simp] theorem loadwGate_frame {k c : Nat} (sub : clusterComps ⊆ F) :
    Only F s0 (loadwGate k s c) ↔ Only F s0 s := by
  refine Only.iff ?_ sub
  induction k generalizing s with
  | zero => exact Only.refl _ s
  | succ k ih =>
    unfold loadwGate
    split
    · simp
    · split
      · simp
      · dsimp only
        split
        · exact Only.trans (by simp) ih
        · simp

@[simp] theorem runStep_frame {c : Nat} {r : OpRun} : Ran.Only clusterComps s (runStep s c r) := by
  unfold runStep
  cases r.kind <;> simp

@[simp] theorem runOne_frame {c i : Nat} (sub : clusterComps ⊆ F) :
    Only F s0 (runOne c s i) ↔ Only F s0 s := by
  refine Only.iff ?_ sub
  unfold runOne
  split
  · simp
  · split
    · simp
    · rename_i r _
      split
      · simp
      · have h := runStep_frame (s := s) (c := c) (r := r)
        generalize runStep s c r = o at h
        cases o with
        | wait w => simp
        | fault t => exact h
        | on t r => simpa using h

@[simp] theorem runsPass_frame {c : Nat} (sub : clusterComps ⊆ F) : Only F s0 (runsPass s c) ↔ Only F s0 s :=
  Only.iff (by simp [runsPass]) sub

@[simp] theorem addRuns_frame {c : Nat} {l : List OpRun} (sub : [.clus] ⊆ F) : Only F s0 (addRuns s c l) ↔ Only F s0 s :=
  Only.iff (by simp [addRuns]) sub

@[simp] theorem putRun_frame {c : Nat} {r : AttnRun} (sub : [.clus] ⊆ F) : Only F s0 (putRun s c r) ↔ Only F s0 s :=
  Only.iff (by simp [putRun]) sub

@[simp] theorem atRead_frame {c : Nat} {l : List (Option (Nat × Nat))} {k : State → State}
    (sub : clusterComps ⊆ F) (hk : ∀ s, Only F s (k s)) :
    Only F s0 (atRead s c l k) ↔ Only F s0 s := by
  simp only [clusterComps, List.cons_subset] at sub
  refine Only.iff ?_ (List.Subset.refl F)
  unfold atRead
  split
  · simp [sub]
  · dsimp only; split <;> simp [sub, Only.app hk]

@[simp] theorem atBlock_frame {c : Nat} {r : AttnRun} (sub : clusterComps ⊆ F) : Only F s0 (atBlock s c r) ↔ Only F s0 s :=
  Only.iff (by simp [atBlock]) sub

@[simp] theorem atFinish_frame {c : Nat} {r : AttnRun} (sub : clusterComps ⊆ F) : Only F s0 (atFinish s c r) ↔ Only F s0 s :=
  Only.iff (by simp [atFinish]) sub

@[simp] theorem atRunN_frame {k c : Nat} (sub : clusterComps ⊆ F) :
    Only F s0 (atRunN k s c) ↔ Only F s0 s := by
  refine Only.iff ?_ sub
  induction k generalizing s with
  | zero => exact Only.refl _ s
  | succ k ih =>
    unfold atRunN
    dsimp only
    split
    · simp
    · split
      · simp
      · exact Only.trans (by simp) ih

@[simp] theorem atRun_frame {c : Nat} (sub : clusterComps ⊆ F) : Only F s0 (atRun s c) ↔ Only F s0 s :=
  Only.iff (by simp [atRun]) sub

@[simp] theorem leaveCycle_frame {c : Nat} (sub : clusterComps ⊆ F) : Only F s0 (leaveCycle s c) ↔ Only F s0 s :=
  Only.iff (by simp [leaveCycle]) sub

@[simp] theorem effsGate_frame {c : Nat} (sub : [.clus] ⊆ F) : Only F s0 (effsGate s c) ↔ Only F s0 s := by
  refine Only.iff ?_ sub
  unfold effsGate
  dsimp only
  split <;> simp

@[simp] theorem remGate_frame {c : Nat} (sub : [.clus] ⊆ F) : Only F s0 (remGate s c) ↔ Only F s0 s := by
  refine Only.iff ?_ sub
  unfold remGate
  split <;> simp

@[simp] theorem enterCycle_frame {c : Nat} (sub : clusterComps ⊆ F) : Only F s0 (enterCycle s c) ↔ Only F s0 s :=
  Only.iff (by simp [enterCycle]) sub

@[simp] theorem landPosts_frame {c : Nat} (sub : clusterComps ⊆ F) : Only F s0 (landPosts s c) ↔ Only F s0 s :=
  Only.iff (by simp [landPosts]) sub

@[simp] theorem drainN_frame {k e c : Nat} (sub : clusterComps ⊆ F) :
    Only F s0 (drainN k e s c) ↔ Only F s0 s := by
  refine Only.iff ?_ sub
  induction k generalizing s with
  | zero => exact Only.refl _ s
  | succ k ih =>
    unfold drainN
    dsimp only
    split
    · simp
    · split
      · simp
      · split
        · simp
        · exact Only.trans (by simp) ih

/-! ## Sequencer -/

@[simp] theorem altLateLanes_frame {n j c : Nat} (sub : [.lanes] ⊆ F) : Only F s0 (altLateLanes s n j c) ↔ Only F s0 s :=
  Only.iff (by simp [altLateLanes]) sub

@[simp] theorem sampleFor_frame {c pc : Nat} (sub : [.marks, .regs, .vecs, .msgs, .lanes, .clus] ⊆ F) :
    Only F s0 (sampleFor s c pc) ↔ Only F s0 s := by
  refine Only.iff ?_ sub
  unfold sampleFor
  extract_lets x bpid good s1
  have h1 : Only [.marks, .regs, .vecs, .msgs, .lanes, .clus] s s1 := (modClu_frame (by simp)).2 (Only.refl _ s)
  split
  · exact h1
  · next s2 s3 _ =>
    have h2 : Only [.marks, .regs, .vecs, .msgs, .lanes, .clus] s s2 := by
      simp only [s2]
      split <;> simp [h1]
    have h3 : Only [.marks, .regs, .vecs, .msgs, .lanes, .clus] s s3 := (modClu_frame (by simp)).2 h2
    simp [h3]

@[simp] theorem sampleDue_frame {c : Nat} {k : Ctl} {back : Bool} (sub : [.marks, .regs, .vecs, .msgs, .lanes, .clus] ⊆ F) :
    Only F s0 (sampleDue s c k back) ↔ Only F s0 s := by
  refine Only.iff ?_ sub
  unfold sampleDue
  split
  · simp
  · split <;> simp

@[simp] theorem pageCheck_frame {c : Nat} (sub : [.clus] ⊆ F) : Only F s0 (pageCheck s c) ↔ Only F s0 s :=
  Only.iff (by simp [pageCheck]) sub

@[simp] theorem moveTo_frame {c : Nat} {k : Ctl} {back : Bool} (sub : clusterComps ⊆ F) : Only F s0 (moveTo s c k back) ↔ Only F s0 s :=
  Only.iff (by simp [moveTo]) sub

@[simp] theorem settleN_frame {k c : Nat} (sub : clusterComps ⊆ F) :
    Only F s0 (settleN k s c) ↔ Only F s0 s := by
  refine Only.iff ?_ sub
  induction k generalizing s with
  | zero => exact Only.refl _ s
  | succ k ih =>
    unfold settleN
    dsimp only
    split
    · split
      · simp
      · exact Only.trans (by simp) ih
    · simp

@[simp] theorem finishHalt_frame {c : Nat} (sub : [.clus] ⊆ F) : Only F s0 (finishHalt s c) ↔ Only F s0 s :=
  Only.iff (by simp [finishHalt]) sub

@[simp] theorem settle_frame {c : Nat} (sub : clusterComps ⊆ F) : Only F s0 (settle s c) ↔ Only F s0 s :=
  Only.iff (by simp [settle]) sub

@[simp] theorem markDid_frame {c k : Nat} (sub : [.clk, .clus] ⊆ F) : Only F s0 (markDid s c k) ↔ Only F s0 s :=
  Only.iff (by simp [markDid]) sub

@[simp] theorem loadwAfter_frame {c : Nat} (sub : clusterComps ⊆ F) : Only F s0 (loadwAfter s c) ↔ Only F s0 s := by
  refine Only.iff ?_ sub
  unfold loadwAfter
  split <;> simp

@[simp] theorem stallClearEff_frame {c cycles : Nat} (sub : clusterComps ⊆ F) : Only F s0 (stallClearEff c cycles s) ↔ Only F s0 s := by
  refine Only.iff ?_ sub
  unfold stallClearEff
  split <;> simp

@[simp] theorem loopSEff_frame {c : Nat} (sub : clusterComps ⊆ F) : Only F s0 (loopSEff c s) ↔ Only F s0 s :=
  Only.iff (by simp [loopSEff]) sub

@[simp] theorem loopEEff_frame {c : Nat} (sub : clusterComps ⊆ F) : Only F s0 (loopEEff c s) ↔ Only F s0 s :=
  Only.iff (by simp [loopEEff]) sub

@[simp] theorem bpEff_frame {c : Nat} (sub : clusterComps ⊆ F) : Only F s0 (bpEff c s) ↔ Only F s0 s := by
  refine Only.iff ?_ sub
  unfold bpEff
  dsimp only
  split <;> simp

@[simp] theorem altselSampleEff_frame {c : Nat} (sub : clusterComps ⊆ F) : Only F s0 (altselSampleEff c s) ↔ Only F s0 s := by
  refine Only.iff ?_ sub
  unfold altselSampleEff
  dsimp only
  split
  · split <;> simp
  · simp

@[simp] theorem haltEff_frame {c : Nat} (sub : clusterComps ⊆ F) : Only F s0 (haltEff c s) ↔ Only F s0 s :=
  Only.iff (by simp [haltEff]) sub

@[simp] theorem pitchEndEff_frame {n cycle : Nat} (sub : clusterComps ⊆ F) : Only F s0 (pitchEndEff n cycle s) ↔ Only F s0 s := by
  refine Only.iff ?_ sub
  unfold pitchEndEff
  split <;> simp

@[simp] theorem flushClus_frame {e c : Nat} (sub : clusterComps ⊆ F) : Only F s0 (flushClus e s c) ↔ Only F s0 s :=
  Only.iff (by simp [flushClus]) sub

@[simp] theorem pitchLimitEff_frame {n : Nat} (sub : clusterComps ⊆ F) : Only F s0 (pitchLimitEff n s) ↔ Only F s0 s := by
  refine Only.iff ?_ sub
  unfold pitchLimitEff
  split <;> simp

@[simp] theorem runTo_frame {n e : Nat} (sub : clusterComps ⊆ F) : Only F s0 (runTo s n e) ↔ Only F s0 s := by
  refine Only.iff ?_ sub
  unfold runTo
  split <;> simp

/-! ## OpBase -/

@[simp] theorem runOp_frame {c : Nat} {u : USlot} {opc : Nat} {f : State → State}
    (sub : .clk :: clusterComps ⊆ F) (hf : ∀ s, Only F s (f s)) :
    Only F s0 (runOp s c u opc f) ↔ Only F s0 s := by
  simp only [clusterComps, List.cons_subset] at sub
  exact Only.iff (by unfold runOp; dsimp only; split <;> simp [sub, Only.app hf]) (List.Subset.refl F)

@[simp] theorem countOp_frame {c : Nat} {u : USlot} (sub : [.pacc] ⊆ F) : Only F s0 (countOp s c u) ↔ Only F s0 s :=
  Only.iff (by simp [countOp]) sub

@[simp] theorem doneOp_frame {c : Nat} {u : USlot} {effs : List (Nat × Eff)} {runs : List OpRun} (sub : [.clk, .pacc, .clus] ⊆ F) :
    Only F s0 (doneOp s c u effs runs) ↔ Only F s0 s :=
  Only.iff (by simp [doneOp]) sub

@[simp] theorem withSlots_frame {c : Nat} {reads : List Rd} {writes : List Ref} {k : State → State}
    (sub : clusterComps ⊆ F) (hk : ∀ s, Only F s (k s)) :
    Only F s0 (withSlots s c reads writes k) ↔ Only F s0 s := by
  simp only [clusterComps, List.cons_subset] at sub
  refine Only.iff ?_ (List.Subset.refl F)
  unfold withSlots
  split
  · simp [sub]
  · simp [sub]
  · split <;> simp [sub, Only.app hk]

@[simp] theorem startPlan_frame {c : Nat} {p : Nat × Plan} (sub : [.clus, .cores] ⊆ F) : Only F s0 (startPlan c s p) ↔ Only F s0 s := by
  refine Only.iff ?_ sub
  unfold startPlan
  split <;> simp

@[simp] theorem runPlans_frame {c : Nat} {u : USlot} {l : List (Nat × Sum Nat Plan)} (sub : clusterComps ⊆ F) :
    Only F s0 (runPlans s c u l) ↔ Only F s0 s := by
  refine Only.iff ?_ sub
  unfold runPlans
  split
  · simp
  · split
    · simp
    · exact (withSlots_frame (List.Subset.refl _) fun s => by simp).2 (Only.refl _ s)

@[simp] theorem remoteAccessDoneEff_frame {c cycles : Nat} (sub : clusterComps ⊆ F) :
    Only F s0 (remoteAccessDoneEff c cycles s) ↔ Only F s0 s := by
  refine Only.iff ?_ sub
  unfold remoteAccessDoneEff
  split <;> simp

@[simp] theorem asyncPortPromotionEff_frame {core : Nat} {hbm : Bool} (sub : clusterComps ⊆ F) :
    Only F s0 (asyncPortPromotionEff core hbm s) ↔ Only F s0 s :=
  Only.iff (by simp [asyncPortPromotionEff]) sub

/-! ## LocalMem -/

@[simp] theorem spFillOp_frame {c : Nat} (sub : clusterComps ⊆ F) :
    Only F s0 (spFillOp c s) ↔ Only F s0 s := by
  refine Only.iff ?_ sub
  unfold spFillOp
  extract_lets w fill
  split <;> simp

@[simp] theorem spFillEff_frame {c : Nat} (sub : clusterComps ⊆ F) : Only F s0 (spFillEff c s) ↔ Only F s0 s :=
  Only.iff (by simp [spFillEff]) sub

@[simp] theorem spTagOp_frame {c : Nat} (sub : clusterComps ⊆ F) : Only F s0 (spTagOp c s) ↔ Only F s0 s := by
  refine Only.iff ?_ sub
  unfold spTagOp
  dsimp only
  split <;> simp

@[simp] theorem spTagEff_frame {c : Nat} (sub : clusterComps ⊆ F) : Only F s0 (spTagEff c s) ↔ Only F s0 s :=
  Only.iff (by simp [spTagEff]) sub

@[simp] theorem spCopyOp_frame {c : Nat} (sub : clusterComps ⊆ F) : Only F s0 (spCopyOp c s) ↔ Only F s0 s := by
  refine Only.iff ?_ sub
  unfold spCopyOp
  dsimp only
  split <;> simp

@[simp] theorem spCopyEff_frame {c : Nat} (sub : clusterComps ⊆ F) : Only F s0 (spCopyEff c s) ↔ Only F s0 s :=
  Only.iff (by simp [spCopyEff]) sub

@[simp] theorem spDmaOp_frame {c : Nat} (sub : clusterComps ⊆ F) : Only F s0 (spDmaOp c s) ↔ Only F s0 s := by
  refine Only.iff ?_ sub
  unfold spDmaOp
  dsimp only
  split
  · simp
  · split
    · simp
    · split <;> simp

@[simp] theorem spDmaEff_frame {c : Nat} (sub : clusterComps ⊆ F) : Only F s0 (spDmaEff c s) ↔ Only F s0 s :=
  Only.iff (by simp [spDmaEff]) sub

@[simp] theorem nocPush_frame {core : Nat} {o : NocOp} (sub : [.noc] ⊆ F) : Only F s0 (nocPush s core o) ↔ Only F s0 s :=
  Only.iff (by simp [nocPush]) sub

@[simp] theorem ncCopyOp_frame {c : Nat} (sub : clusterComps ⊆ F) : Only F s0 (ncCopyOp c s) ↔ Only F s0 s := by
  refine Only.iff ?_ sub
  unfold ncCopyOp
  dsimp only
  split <;> simp

@[simp] theorem ncCopyEff_frame {c : Nat} (sub : clusterComps ⊆ F) : Only F s0 (ncCopyEff c s) ↔ Only F s0 s :=
  Only.iff (by simp [ncCopyEff]) sub

/-! ## PartOps -/

@[simp] theorem setSt_frame {n : Nat} {st : PState} (sub : [.marks, .regs, .vecs, .msgs, .parts] ⊆ F) :
    Only F s0 (setSt s n st) ↔ Only F s0 s :=
  Only.iff (by simp [setSt]) sub

@[simp] theorem stopPitch_frame {n : Nat} (sub : clusterComps ⊆ F) : Only F s0 (stopPitch s n) ↔ Only F s0 s := by
  refine Only.iff ?_ sub
  unfold stopPitch
  split <;> simp

@[simp] theorem faultLanes_frame {n : Nat} (sub : [.marks, .regs, .vecs, .msgs, .lanes, .strms, .emis, .emLost] ⊆ F) :
    Only F s0 (faultLanes s n) ↔ Only F s0 s :=
  Only.iff (by simp [faultLanes]) sub

@[simp] theorem faultPart_frame {n : Nat} {k : PartFaultCase} (sub : clusterComps ⊆ F) : Only F s0 (faultPart s n k) ↔ Only F s0 s := by
  refine Only.iff ?_ sub
  unfold faultPart
  split <;> simp

@[simp] theorem syncEff_frame {c : Nat} (sub : clusterComps ⊆ F) : Only F s0 (syncEff c s) ↔ Only F s0 s :=
  Only.iff (by simp [syncEff]) sub

/-! ## Switch -/

@[simp] theorem putPage_frame {c p : Nat} {img : JobImg} {bs : List Bundle} (sub : [.clus, .bundles] ⊆ F) :
    Only F s0 (putPage s c p img bs) ↔ Only F s0 s := by
  refine Only.iff ?_ sub
  unfold putPage
  split <;> simp

@[simp] theorem fetchPage_frame {n c p : Nat} {img : JobImg}
    (sub : [.marks, .regs, .vecs, .msgs, .pacc, .clus, .bundles, .hbmCe, .bg, .sirvi] ⊆ F) :
    Only F s0 (fetchPage s n c p img).1 ↔ Only F s0 s := by
  refine Only.iff ?_ sub
  unfold fetchPage
  split
  · simp
  · dsimp only
    split <;> simp

@[simp] theorem bundlePageArrivalEff_frame {c p : Nat}
    (sub : [.marks, .clk, .regs, .vecs, .msgs, .parts, .pacc, .lanes, .strms, .clus, .slots, .bundles, .hbmCe, .emis, .emLost, .bg, .noc,
      .cores, .bly, .sirvi] ⊆ F) :
    Only F s0 (bundlePageArrivalEff c p s) ↔ Only F s0 s :=
  Only.iff (by simp [bundlePageArrivalEff]) sub

@[simp] theorem runHandler_frame {c : Nat} {hh : Hnd} {j : Nat} (sub : [.clus] ⊆ F) : Only F s0 (runHandler s c hh j) ↔ Only F s0 s :=
  Only.iff (by simp [runHandler]) sub

/-! ## ControlCore -/

@[simp] theorem nextHandler_frame {c : Nat} (sub : [.clus] ⊆ F) : Only F s0 (nextHandler s c) ↔ Only F s0 s := by
  refine Only.iff ?_ sub
  unfold nextHandler
  dsimp only
  split <;> simp

@[simp] theorem wfiEff_frame {c : Nat} (sub : [.clus] ⊆ F) : Only F s0 (wfiEff c s) ↔ Only F s0 s :=
  Only.iff (by simp [wfiEff]) sub

@[simp] theorem summaryHandlerEff_frame {c : Nat} (sub : [.clus] ⊆ F) : Only F s0 (summaryHandlerEff c s) ↔ Only F s0 s :=
  Only.iff (by simp [summaryHandlerEff]) sub

@[simp] theorem ccAltselEff_frame {c : Nat} {v : Word} (sub : [.clus] ⊆ F) : Only F s0 (ccAltselEff c v s) ↔ Only F s0 s :=
  Only.iff (by simp [ccAltselEff]) sub

@[simp] theorem ccDescEff_frame {c : Nat} {d : BitVec 512} (sub : [.clus] ⊆ F) : Only F s0 (ccDescEff c d s) ↔ Only F s0 s :=
  Only.iff (by simp [ccDescEff]) sub

@[simp] theorem makeLate_frame {key cause : Nat} (sub : [.lanes] ⊆ F) : Only F s0 (makeLate s key cause) ↔ Only F s0 s :=
  Only.iff (by simp [makeLate]) sub

@[simp] theorem ccDeferEff_frame {c : Nat} {v : Word} (sub : [.lanes] ⊆ F) : Only F s0 (ccDeferEff c v s) ↔ Only F s0 s :=
  Only.iff (by simp [ccDeferEff]) sub

@[simp] theorem ccSumPopEff_frame {c : Nat} (sub : [.latch, .rdata, .clus] ⊆ F) :
    Only F s0 (ccSumPopEff c s) ↔ Only F s0 s := by
  refine Only.iff ?_ sub
  unfold ccSumPopEff
  split
  · split
    · simp
    · exact (only_readout (by simp)).2 (by simp)
  · simp

@[simp] theorem ccBelaySameEff_frame {c : Nat} {v : Word} (sub : [.lanes] ⊆ F) : Only F s0 (ccBelaySameEff c v s) ↔ Only F s0 s :=
  Only.iff (by simp [ccBelaySameEff]) sub

/-! ## Kv -/

@[simp] theorem kvReject_frame {n cause : Nat} (sub : evtComps ⊆ F) : Only F s0 (kvReject s n cause) ↔ Only F s0 s :=
  Only.iff (by simp [kvReject]) sub

@[simp] theorem kvIgnored_frame {n : Nat} (sub : evtComps ⊆ F) : Only F s0 (kvIgnored s n) ↔ Only F s0 s :=
  Only.iff (by simp [kvIgnored]) sub

@[simp] theorem kvQueue_frame {n cmd : Nat} (sub : [.marks, .regs, .vecs, .msgs, .parts] ⊆ F) :
    Only F s0 (kvQueue n cmd s) ↔ Only F s0 s :=
  Only.iff (by simp [kvQueue]) sub

@[simp] theorem kvRecompEff_frame {n : Nat} (sub : [.rdata, .parts] ⊆ F) : Only F s0 (kvRecompEff n s) ↔ Only F s0 s := by
  refine Only.iff ?_ sub
  unfold kvRecompEff
  split
  · simp
  · exact (only_rdata (by simp)).2 (by simp)

/-! ## Loader -/

@[simp] theorem loadIgnored_frame {n : Nat} (sub : evtComps ⊆ F) : Only F s0 (loadIgnored s n) ↔ Only F s0 s :=
  Only.iff (by simp [loadIgnored]) sub

@[simp] theorem loadStart_frame {unload : Bool} {n j : Nat} (sub : [.marks, .regs, .vecs, .msgs, .parts] ⊆ F) :
    Only F s0 (loadStart unload n j s) ↔ Only F s0 s :=
  Only.iff (by simp [loadStart]) sub

/-! ## Streams -/

@[simp] theorem takeSeal_frame {hh : Nat} {put : Option Seal → Strm → Strm} (sub : [.strms, .keys] ⊆ F) :
    Only F s0 (takeSeal s hh put) ↔ Only F s0 s := by
  refine Only.iff ?_ sub
  unfold takeSeal
  split
  · simp
  · dsimp only
    split <;> simp

@[simp] theorem sealNow_frame {hh : Nat} (sub : [.strms, .keys] ⊆ F) : Only F s0 (sealNow s hh) ↔ Only F s0 s :=
  Only.iff (by simp [sealNow]) sub

@[simp] theorem strmReject_frame {n hh cause : Nat} (sub : evtComps ⊆ F) : Only F s0 (strmReject s n hh cause) ↔ Only F s0 s :=
  Only.iff (by simp [strmReject]) sub

@[simp] theorem strmDone_frame {n : Nat} (sub : [.regs] ⊆ F) : Only F s0 (strmDone s n) ↔ Only F s0 s :=
  Only.iff (by simp [strmDone]) sub

@[simp] theorem request_frame {n hh : Nat} {r : SReq} (sub : [.regs, .strms] ⊆ F) : Only F s0 (request s n hh r) ↔ Only F s0 s := by
  refine Only.iff ?_ sub
  unfold request
  split <;> simp

@[simp] theorem strmCmd_frame {n code : Nat} {causes : State → Nat → List (Bool × Nat)} {f : State → Nat → State}
    (sub : evtComps ⊆ F)
    (hf : ∀ s h, Only F s (f s h)) : Only F s0 (strmCmd n code causes f s) ↔ Only F s0 s := by
  simp only [evtComps, List.cons_subset] at sub
  have hf' : ∀ h, ∀ s, Only F s (f s h) := fun h s => hf s h
  exact Only.iff (by unfold strmCmd; dsimp only; split <;> simp [Only.app (hf' _), sub]) (List.Subset.refl F)

@[simp] theorem openEff_frame {n : Nat} (sub : [.marks, .regs, .vecs, .msgs, .strms] ⊆ F) : Only F s0 (openEff n s) ↔ Only F s0 s :=
  Only.iff (by simp [openEff]) sub

@[simp] theorem closeEff_frame {n : Nat} (sub : [.marks, .regs, .vecs, .msgs, .strms] ⊆ F) : Only F s0 (closeEff n s) ↔ Only F s0 s :=
  Only.iff (by simp [closeEff]) sub

@[simp] theorem parkEff_frame {n : Nat} (sub : [.marks, .regs, .vecs, .msgs, .strms] ⊆ F) : Only F s0 (parkEff n s) ↔ Only F s0 s :=
  Only.iff (by simp [parkEff]) sub

@[simp] theorem unparkEff_frame {n : Nat} (sub : [.marks, .regs, .vecs, .msgs, .strms] ⊆ F) : Only F s0 (unparkEff n s) ↔ Only F s0 s :=
  Only.iff (by simp [unparkEff]) sub

@[simp] theorem exportEff_frame {n : Nat} (sub : [.marks, .regs, .vecs, .msgs, .strms] ⊆ F) : Only F s0 (exportEff n s) ↔ Only F s0 s :=
  Only.iff (by simp [exportEff]) sub

@[simp] theorem importEff_frame {n : Nat} (sub : [.marks, .regs, .vecs, .msgs, .strms] ⊆ F) : Only F s0 (importEff n s) ↔ Only F s0 s :=
  Only.iff (by simp [importEff]) sub

@[simp] theorem setcfgEff_frame {n : Nat} (sub : [.marks, .regs, .vecs, .msgs, .strms] ⊆ F) : Only F s0 (setcfgEff n s) ↔ Only F s0 s :=
  Only.iff (by simp [setcfgEff]) sub

@[simp] theorem queryEff_frame {n : Nat} (sub : evtComps ⊆ F) : Only F s0 (queryEff n s) ↔ Only F s0 s :=
  Only.iff (by simp [queryEff]) sub

@[simp] theorem beginPark_frame {hh : Nat} (sub : [.strms, .keys] ⊆ F) : Only F s0 (beginPark s hh) ↔ Only F s0 s :=
  Only.iff (by simp [beginPark]) sub

@[simp] theorem idleParkEff_frame {n hh : Nat} (sub : [.strms, .keys] ⊆ F) : Only F s0 (idleParkEff n hh s) ↔ Only F s0 s :=
  Only.iff (by simp [idleParkEff]) sub

/-! ## Partitions -/

@[simp] theorem judgeTbl_frame {n : Nat} {t : Tbl} (sub : [.parts] ⊆ F) : Only F s0 (judgeTbl s n t).1 ↔ Only F s0 s := by
  refine Only.iff ?_ sub
  unfold judgeTbl
  dsimp only
  split
  · simp
  · split <;> simp

@[simp] theorem cmdReject_frame {n cause : Nat} (sub : [.marks, .regs, .vecs, .msgs, .parts] ⊆ F) :
    Only F s0 (cmdReject s n cause) ↔ Only F s0 s :=
  Only.iff (by simp [cmdReject]) sub

@[simp] theorem partCmd_frame {n : Nat} {ok : PState → Bool} {f : State → State} (sub : [.marks, .msgs, .parts, .regs, .vecs] ⊆ F)
    (hf : ∀ s, Only F s (f s)) : Only F s0 (partCmd n ok f s) ↔ Only F s0 s := by
  simp only [List.cons_subset] at sub
  exact Only.iff (by unfold partCmd; split <;> simp [Only.app hf, sub]) (List.Subset.refl F)

@[simp] theorem configureEff_frame {n : Nat} (sub : [.marks, .regs, .vecs, .msgs, .parts] ⊆ F) :
    Only F s0 (configureEff n s) ↔ Only F s0 s :=
  Only.iff (by simp [configureEff]) sub

@[simp] theorem waitCmd_frame {c : PendCmd} {n k : Nat} (sub : [.parts] ⊆ F) : Only F s0 (waitCmd c n k s) ↔ Only F s0 s :=
  Only.iff (by simp [waitCmd]) sub

@[simp] theorem startEff_frame {n : Nat} (sub : [.marks, .regs, .vecs, .msgs, .parts] ⊆ F) : Only F s0 (startEff n s) ↔ Only F s0 s :=
  Only.iff (by simp [startEff]) sub

@[simp] theorem stopEff_frame {n : Nat} (sub : [.marks, .regs, .vecs, .msgs, .parts] ⊆ F) : Only F s0 (stopEff n s) ↔ Only F s0 s :=
  Only.iff (by simp [stopEff]) sub

@[simp] theorem maintEff_frame {n : Nat} (sub : [.marks, .regs, .vecs, .msgs, .parts] ⊆ F) : Only F s0 (maintEff n s) ↔ Only F s0 s :=
  Only.iff (by simp [maintEff]) sub

@[simp] theorem resumeEff_frame {n : Nat} (sub : [.marks, .regs, .vecs, .msgs, .parts] ⊆ F) : Only F s0 (resumeEff n s) ↔ Only F s0 s :=
  Only.iff (by simp [resumeEff]) sub

@[simp] theorem reconfigEff_frame {n : Nat} (sub : [.marks, .regs, .vecs, .msgs, .parts] ⊆ F) :
    Only F s0 (reconfigEff n s) ↔ Only F s0 s :=
  Only.iff (by simp [reconfigEff]) sub

@[simp] theorem swapTable_frame {n : Nat} (sub : [.marks, .regs, .vecs, .msgs, .parts] ⊆ F) : Only F s0 (swapTable s n) ↔ Only F s0 s :=
  Only.iff (by simp [swapTable]) sub

@[simp] theorem tblSwapEff_frame {n : Nat} (sub : [.marks, .regs, .vecs, .msgs, .parts] ⊆ F) :
    Only F s0 (tblSwapEff n s) ↔ Only F s0 s := by
  refine Only.iff ?_ sub
  refine (partCmd_frame (by simp) fun s => ?_).2 (Only.refl _ s)
  split
  · simp
  · dsimp only
    split
    · simp
    · simp

@[simp] theorem ignoredWr_frame {n off : Nat} (sub : evtComps ⊆ F) : Only F s0 (ignoredWr s n off) ↔ Only F s0 s :=
  Only.iff (by simp [ignoredWr]) sub

@[simp] theorem tblLoEff_frame {n : Nat} {shadow : Bool} {e : Nat} {v : Word} (sub : [.parts] ⊆ F) :
    Only F s0 (tblLoEff n shadow e v s) ↔ Only F s0 s :=
  Only.iff (by simp [tblLoEff]) sub

@[simp] theorem tblHiEff_frame {n : Nat} {shadow : Bool} {e : Nat} {v : Word} (sub : [.regs, .parts] ⊆ F) :
    Only F s0 (tblHiEff n shadow e v s) ↔ Only F s0 s :=
  Only.iff (by simp [tblHiEff]) sub

@[simp] theorem rearmEff_frame {n j : Nat} (sub : [.parts] ⊆ F) : Only F s0 (rearmEff n j s) ↔ Only F s0 s :=
  Only.iff (by simp [rearmEff]) sub

/-! ## PortBase -/

@[simp] theorem setPrt_frame {p : Nat} {x : Port} (sub : [.ports] ⊆ F) : Only F s0 (setPrt s p x) ↔ Only F s0 s :=
  Only.iff (by simp [setPrt]) sub

@[simp] theorem modPrt_frame {p : Nat} {f : Port → Port} (sub : [.ports] ⊆ F) : Only F s0 (modPrt s p f) ↔ Only F s0 s :=
  Only.iff (by simp [modPrt]) sub

/-! ## Tick -/

@[simp] theorem tbLoadEff_frame (sub : [.marks, .clk, .regs, .vecs, .msgs] ⊆ F) : Only F s0 (tbLoadEff s) ↔ Only F s0 s :=
  Only.iff (by simp [tbLoadEff]) sub

@[simp] theorem ptmFail_frame (sub : [.marks, .clk, .regs, .vecs, .msgs] ⊆ F) : Only F s0 (ptmFail s) ↔ Only F s0 s := by
  refine Only.iff ?_ sub
  unfold ptmFail
  dsimp only
  split
  · refine (setEvt_frame (by simp)).2 ((only_clk (by simp)).2 ?_)
    simp
  · simp

@[simp] theorem ptmRequestEff_frame {capEnable : Bool} (sub : [.marks, .clk, .regs, .vecs, .msgs] ⊆ F) :
    Only F s0 (ptmRequestEff capEnable s) ↔ Only F s0 s :=
  Only.iff (by simp [ptmRequestEff]) sub

@[simp] theorem ptmResponseEff_frame {offset : Int} (sub : [.marks, .free, .clk, .regs, .vecs, .msgs] ⊆ F) :
    Only F s0 (ptmResponseEff offset s) ↔ Only F s0 s := by
  refine Only.iff ?_ sub
  unfold ptmResponseEff
  split <;> simp

@[simp] theorem ptmTimeoutEff_frame (sub : [.marks, .clk, .regs, .vecs, .msgs] ⊆ F) : Only F s0 (ptmTimeoutEff s) ↔ Only F s0 s := by
  refine Only.iff ?_ sub
  unfold ptmTimeoutEff
  split <;> simp

@[simp] theorem takeForce_frame {c : TickCfg} {x : Option Int} (sub : [.clk] ⊆ F) : Only F s0 (takeForce s c x) ↔ Only F s0 s := by
  refine Only.iff ?_ sub
  unfold takeForce
  split <;> simp

@[simp] theorem tickApplyEff_frame (sub : [.marks, .clk, .regs, .vecs, .msgs] ⊆ F) : Only F s0 (tickApplyEff s) ↔ Only F s0 s :=
  Only.iff (by simp [tickApplyEff]) sub

@[simp] theorem tickCtrlEnEff_frame {en : Bool} (sub : [.marks, .clk, .regs, .vecs, .msgs] ⊆ F) :
    Only F s0 (tickCtrlEnEff en s) ↔ Only F s0 s := by
  refine Only.iff ?_ sub
  unfold tickCtrlEnEff
  dsimp only
  split
  · split
    · simp
    · exact (only_clk (by simp)).2 (by simp)
  · split
    · simp
    · split
      · simp
      · split
        · refine (takeForce_frame (by simp)).2 ((only_clk (by simp)).2 ?_)
          simp
        · exact (only_clk (by simp)).2 (by simp)

@[simp] theorem relockEff_frame (sub : [.clk] ⊆ F) : Only F s0 (relockEff s) ↔ Only F s0 s :=
  Only.iff (by simp [relockEff]) sub

@[simp] theorem acceptIn_frame {t : Int} (sub : [.marks, .clk, .regs, .vecs, .msgs] ⊆ F) : Only F s0 (acceptIn s t) ↔ Only F s0 s :=
  Only.iff (by simp [acceptIn]) sub

@[simp] theorem rejectIn_frame (sub : evtComps ⊆ F) : Only F s0 (rejectIn s) ↔ Only F s0 s :=
  Only.iff (by simp [rejectIn]) sub

@[simp] theorem tickInAt_frame {t : Int} (sub : [.marks, .clk, .regs, .vecs, .msgs] ⊆ F) : Only F s0 (tickInAt s t) ↔ Only F s0 s := by
  refine Only.iff ?_ sub
  unfold tickInAt
  dsimp only
  split
  · simp
  · split
    · simp
    · split
      · simp
      · split
        · simp
        · split
          · simp
          · split <;> simp

@[simp] theorem tickInEdgeEff_frame {time high : Nat} (sub : [.marks, .clk, .regs, .vecs, .msgs] ⊆ F) :
    Only F s0 (tickInEdgeEff time high s) ↔ Only F s0 s :=
  Only.iff (by simp [tickInEdgeEff]) sub

@[simp] theorem fallbackTimeoutEff_frame (sub : [.marks, .clk, .regs, .vecs, .msgs] ⊆ F) :
    Only F s0 (fallbackTimeoutEff s) ↔ Only F s0 s := by
  refine Only.iff ?_ sub
  unfold fallbackTimeoutEff
  split <;> simp

/-! ## Ingest -/

@[simp] theorem ingPiEff_frame {n : Nat} {v : Word} (sub : evtComps ⊆ F) : Only F s0 (ingPiEff n v s) ↔ Only F s0 s :=
  Only.iff (by simp [ingPiEff]) sub

@[simp] theorem emCiEff_frame {n : Nat} {v : Word} (sub : evtComps ⊆ F) : Only F s0 (emCiEff n v s) ↔ Only F s0 s :=
  Only.iff (by simp [emCiEff]) sub

/-! ## Summit -/

@[simp] theorem modSirvi_frame {f : Sirvi → Sirvi} (sub : [.sirvi] ⊆ F) : Only F s0 (modSirvi s f) ↔ Only F s0 s :=
  Only.iff (by simp [modSirvi]) sub

@[simp] theorem modSummit_frame {f : Summit → Summit} (sub : [.sirvi] ⊆ F) : Only F s0 (modSummit s f) ↔ Only F s0 s :=
  Only.iff (by simp [modSummit]) sub

@[simp] theorem sumAdd_frame {typ origin party keyid detail : Nat} {payload : List Byte} (sub : [.sirvi] ⊆ F) :
    Only F s0 (sumAdd s typ origin party keyid detail payload) ↔ Only F s0 s :=
  Only.iff (by simp [sumAdd]) sub

@[simp] theorem sumFlush_frame  (sub : [.sirvi] ⊆ F) :
    Only F s0 (sumFlush s) ↔ Only F s0 s := by
  refine Only.iff ?_ sub
  unfold sumFlush
  dsimp only
  split <;> simp

@[simp] theorem sumCmd_frame {typ origin party keyid detail : Nat} {payload : List Byte} (sub : [.sirvi] ⊆ F) :
    Only F s0 (sumCmd s typ origin party keyid detail payload) ↔ Only F s0 s :=
  Only.iff (by simp [sumCmd]) sub

@[simp] theorem sumDev_frame {typ party detail : Nat} {payload : List Byte} (sub : [.sirvi] ⊆ F) :
    Only F s0 (sumDev s typ party detail payload) ↔ Only F s0 s :=
  Only.iff (by simp [sumDev]) sub

@[simp] theorem summitFlushEff_frame (sub : [.sirvi] ⊆ F) : Only F s0 (summitFlushEff s) ↔ Only F s0 s :=
  Only.iff (by simp [summitFlushEff]) sub

/-! ## LinkBase -/

@[simp] theorem modLport_frame {p : Nat} {f : LPort → LPort} (sub : [.lports] ⊆ F) : Only F s0 (modLport s p f) ↔ Only F s0 s :=
  Only.iff (by simp [modLport]) sub

@[simp] theorem setLk_frame {p st : Nat} (sub : [.regs] ⊆ F) : Only F s0 (setLk s p st) ↔ Only F s0 s :=
  Only.iff (by simp [setLk]) sub

@[simp] theorem sendOn_frame {p : Nat} {hh : MHead} {body : List Byte} {owner : Nat} {fwd : Bool} (sub : [.lports] ⊆ F) :
    Only F s0 (sendOn s p hh body owner fwd) ↔ Only F s0 s :=
  Only.iff (by simp [sendOn]) sub

@[simp] theorem chargeTx_frame {n len : Nat} (sub : [.pacc] ⊆ F) : Only F s0 (chargeTx s n len) ↔ Only F s0 s :=
  Only.iff (by simp [chargeTx]) sub

theorem sendMsg_frame {n d c : Nat} {h : MHead} {body : List Byte} {owner : Nat} (e : sendMsg s n d c h body owner = some t) :
    Only [.lports, .pacc] s t := by
  unfold sendMsg at e
  obtain ⟨p, -, rfl⟩ := Option.map_eq_some_iff.1 e
  simp

/-! ## Collective -/

@[simp] theorem collTmoEff_frame {n : Nat} {v : Word} (sub : evtComps ⊆ F) : Only F s0 (collTmoEff n v s) ↔ Only F s0 s :=
  Only.iff (by simp [collTmoEff]) sub

/-! ## FrontEnd -/

@[simp] theorem profFetchEff_frame {n : Nat} (sub : [.regs] ⊆ F) : Only F s0 (profFetchEff n s) ↔ Only F s0 s :=
  Only.iff (by simp [profFetchEff]) sub

/-! ## Belay -/

@[simp] theorem setBlyStat_frame {n i : Nat} {v : Bool} (sub : [.regs] ⊆ F) : Only F s0 (setBlyStat s n i v) ↔ Only F s0 s :=
  Only.iff (by simp [setBlyStat]) sub

theorem blySend_frame {n c : Nat} {k : MKind} {slice j : Nat} {body : List Byte} {owner : Nat}
    (e : blySend s n c k slice j body owner = some t) : Only [.lports, .pacc] s t := sendMsg_frame e

@[simp] theorem bhbSendEff_frame {n : Nat} (sub : [.regs, .pacc, .lports] ⊆ F) :
    Only F s0 (bhbSendEff n s) ↔ Only F s0 s := by
  refine Only.iff ?_ sub
  unfold bhbSendEff
  split
  · split
    · rename_i e
      have h := (blySend_frame e).mono (F := [.regs, .pacc, .lports]) (by simp)
      simpa using h
    · simp
  · simp

@[simp] theorem blyDetect_frame {n : Nat} (sub : [.marks, .regs, .vecs, .msgs, .bly, .sirvi] ⊆ F) :
    Only F s0 (blyDetect s n) ↔ Only F s0 s :=
  Only.iff (by simp [blyDetect]) sub

@[simp] theorem bhbTimeoutEff_frame {n : Nat} (sub : [.marks, .regs, .vecs, .msgs, .bly, .sirvi] ⊆ F) :
    Only F s0 (bhbTimeoutEff n s) ↔ Only F s0 s :=
  Only.iff (by simp [bhbTimeoutEff]) sub

@[simp] theorem promoteEff_frame {n : Nat} (sub : [.marks, .regs, .vecs, .msgs, .bly, .sirvi] ⊆ F) :
    Only F s0 (promoteEff n s) ↔ Only F s0 s :=
  Only.iff (by simp [promoteEff]) sub

@[simp] theorem clearEff_frame {n : Nat} (sub : [.regs] ⊆ F) : Only F s0 (clearEff n s) ↔ Only F s0 s :=
  Only.iff (by simp [clearEff]) sub

/-! ## Links -/

@[simp] theorem lkTrain_frame {p : Nat} (sub : [.regs, .lports] ⊆ F) : Only F s0 (lkTrain s p) ↔ Only F s0 s :=
  Only.iff (by simp [lkTrain]) sub

@[simp] theorem trainingDoneEff_frame {p : Nat} (sub : [.regs] ⊆ F) : Only F s0 (trainingDoneEff p s) ↔ Only F s0 s :=
  Only.iff (by simp [trainingDoneEff]) sub

@[simp] theorem linkRetryEff_frame {p : Nat} (sub : [.regs, .lports] ⊆ F) : Only F s0 (linkRetryEff p s) ↔ Only F s0 s :=
  Only.iff (by simp [linkRetryEff]) sub

@[simp] theorem heartbeatSendEff_frame {p : Nat} (sub : [.lports] ⊆ F) : Only F s0 (heartbeatSendEff p s) ↔ Only F s0 s :=
  Only.iff (by simp [heartbeatSendEff]) sub

@[simp] theorem linkRetuneEff_frame (sub : [.free, .lports, .sirvi] ⊆ F) : Only F s0 (linkRetuneEff s) ↔ Only F s0 s :=
  Only.iff (by simp [linkRetuneEff]) sub

/-! ## Ports -/

@[simp] theorem pEvt_frame {p bit d : Nat} (sub : evtComps ⊆ F) : Only F s0 (pEvt s p bit d) ↔ Only F s0 s :=
  Only.iff (by simp [pEvt]) sub

@[simp] theorem unlockOne_frame {q : Nat} (sub : [.marks, .regs, .vecs, .msgs, .ports] ⊆ F) : Only F s0 (unlockOne s q) ↔ Only F s0 s :=
  Only.iff (by simp [unlockOne]) sub

@[simp] theorem loseLock_frame {p : Nat} (sub : [.marks, .regs, .vecs, .msgs, .ports] ⊆ F) : Only F s0 (loseLock s p) ↔ Only F s0 s :=
  Only.iff (by simp [loseLock]) sub

@[simp] theorem startPort_frame {p : Nat} (sub : [.ports] ⊆ F) : Only F s0 (startPort s p) ↔ Only F s0 s :=
  Only.iff (by simp [startPort]) sub

@[simp] theorem stopPort_frame {p : Nat} (sub : [.marks, .regs, .vecs, .msgs, .ports] ⊆ F) : Only F s0 (stopPort s p) ↔ Only F s0 s :=
  Only.iff (by simp [stopPort]) sub

@[simp] theorem portCfgEff_frame {p : Nat} {v : Word} (sub : [.marks, .regs, .vecs, .msgs, .ports] ⊆ F) :
    Only F s0 (portCfgEff p v s) ↔ Only F s0 s :=
  Only.iff (by simp [portCfgEff]) sub

@[simp] theorem applyCh_frame {p ch : Nat} (sub : [.regs, .ports] ⊆ F) : Only F s0 (applyCh s p ch) ↔ Only F s0 s :=
  Only.iff (by simp [applyCh]) sub

@[simp] theorem chCtrlEff_frame {p ch : Nat} {v : Word} (sub : [.regs, .ports] ⊆ F) : Only F s0 (chCtrlEff p ch v s) ↔ Only F s0 s :=
  Only.iff (by simp [chCtrlEff]) sub

@[simp] theorem zcTimeoutEff_frame {p ch : Nat} (sub : [.marks, .clk, .regs, .vecs, .msgs, .ports] ⊆ F) :
    Only F s0 (zcTimeoutEff p ch s) ↔ Only F s0 s :=
  Only.iff (by simp [zcTimeoutEff]) sub

@[simp] theorem zcTmoEff_frame {p : Nat} {v : Word} (sub : evtComps ⊆ F) : Only F s0 (zcTmoEff p v s) ↔ Only F s0 s :=
  Only.iff (by simp [zcTmoEff]) sub

@[simp] theorem sendFrame_frame {p : Nat} (sub : [.regs, .ports] ⊆ F) : Only F s0 (sendFrame s p) ↔ Only F s0 s :=
  Only.iff (by simp [sendFrame]) sub

@[simp] theorem gainLock_frame {p : Nat} (sub : [.marks, .regs, .vecs, .msgs, .ports] ⊆ F) : Only F s0 (gainLock s p) ↔ Only F s0 s :=
  Only.iff (by simp [gainLock]) sub

@[simp] theorem lockFrame_frame {p t : Nat} {bad : Bool} (sub : [.marks, .regs, .vecs, .msgs, .ports] ⊆ F) :
    Only F s0 (lockFrame s p t bad) ↔ Only F s0 s :=
  Only.iff (by simp [lockFrame]) sub

@[simp] theorem keepFrame_frame {p t : Nat} {xs : List Nat} {non wasLock : Bool} (sub : [.ports] ⊆ F) :
    Only F s0 (keepFrame s p t xs non wasLock) ↔ Only F s0 s :=
  Only.iff (by simp [keepFrame]) sub

@[simp] theorem latchCs_frame {p off : Nat} {bits : List Bool} (sub : evtComps ⊆ F) :
    Only F s0 (latchCs s p off bits).1 ↔ Only F s0 s := by
  refine Only.iff ?_ sub
  unfold latchCs
  dsimp only
  split <;> simp

@[simp] theorem declareNon_frame {p t : Nat} (sub : [.marks, .regs, .vecs, .msgs, .ports] ⊆ F) :
    Only F s0 (declareNon s p t) ↔ Only F s0 s :=
  Only.iff (by simp [declareNon]) sub

@[simp] theorem csFrame_frame {p : Nat} {f : FrameIn} (sub : [.marks, .regs, .vecs, .msgs, .ports] ⊆ F) :
    Only F s0 (csFrame s p f) ↔ Only F s0 s :=
  Only.iff (by simp [csFrame]) sub

@[simp] theorem aesFrame_frame {p : Nat} {f : FrameIn} {wasLock : Bool} (sub : [.marks, .regs, .vecs, .msgs, .ports] ⊆ F) :
    Only F s0 (aesFrame s p f wasLock) ↔ Only F s0 s :=
  Only.iff (by simp [aesFrame]) sub

@[simp] theorem portFrameEff_frame {p : Nat} {f0 : FrameIn} (sub : [.marks, .clk, .regs, .vecs, .msgs, .ports] ⊆ F) :
    Only F s0 (portFrameEff p f0 s) ↔ Only F s0 s :=
  Only.iff (by simp [portFrameEff]) sub

@[simp] theorem portFrameTimeoutEff_frame {p : Nat} (sub : [.marks, .clk, .regs, .vecs, .msgs, .ports] ⊆ F) :
    Only F s0 (portFrameTimeoutEff p s) ↔ Only F s0 s := by
  refine Only.iff ?_ sub
  unfold portFrameTimeoutEff
  split <;> simp

@[simp] theorem nonaudioEndEff_frame {p : Nat} (sub : [.ports] ⊆ F) : Only F s0 (nonaudioEndEff p s) ↔ Only F s0 s :=
  Only.iff (by simp [nonaudioEndEff]) sub

@[simp] theorem portMasterFrameEff_frame {p : Nat} {slots : List Word} (sub : [.clk, .regs, .ports] ⊆ F) :
    Only F s0 (portMasterFrameEff p slots s) ↔ Only F s0 s :=
  Only.iff (by simp [portMasterFrameEff]) sub

@[simp] theorem outPiEff_frame {p : Nat} {v : Word} (sub : evtComps ⊆ F) : Only F s0 (outPiEff p v s) ↔ Only F s0 s :=
  Only.iff (by simp [outPiEff]) sub

@[simp] theorem zeroPorts_frame {n : Nat} (sub : [.regs, .ports] ⊆ F) : Only F s0 (zeroPorts s n) ↔ Only F s0 s := by
  refine Only.iff ?_ sub
  refine (each_frame fun s p => ?_).2 (Only.refl _ s)
  dsimp only
  split <;> simp

/-! ## Keys -/

@[simp] theorem setSess_frame {i : Nat} {x : Sess} (sub : [.sess] ⊆ F) : Only F s0 (setSess s i x) ↔ Only F s0 s :=
  Only.iff (by simp [setSess]) sub

@[simp] theorem setRsp_frame {e : Nat} {r : SpdmRsp} (sub : [.spdm] ⊆ F) : Only F s0 (setRsp s e r) ↔ Only F s0 s :=
  Only.iff (by simp [setRsp]) sub

@[simp] theorem modStdy_frame {p : Nat} {f : Stdy → Stdy} (sub : [.stdy] ⊆ F) : Only F s0 (modStdy s p f) ↔ Only F s0 s :=
  Only.iff (by simp [modStdy]) sub

@[simp] theorem keyReq_frame {session slot : Nat} {pend : Bool} {chk : State → Nat} {f : State → State}
    (sub : [.spdm] ⊆ F)
    (hf : ∀ s, Only F s (f s)) : Only F s0 (keyReq session slot pend chk f s) ↔ Only F s0 s := by
  simp only [List.cons_subset] at sub
  refine Only.iff ?_ (List.Subset.refl F)
  unfold keyReq; dsimp only
  split
  · simp
  · split <;> simp [Only.app hf, sub]

@[simp] theorem keyEntry_frame {typ slot id : Nat} {payload : List Byte} (sub : [.sirvi] ⊆ F) :
    Only F s0 (keyEntry s typ slot id payload) ↔ Only F s0 s :=
  Only.iff (by simp [keyEntry]) sub

@[simp] theorem keySetEff_frame {session slot : Nat} {id : DWord} {key : List Byte} (sub : [.keys, .spdm, .sirvi] ⊆ F) :
    Only F s0 (keySetEff session slot id key s) ↔ Only F s0 s :=
  Only.iff (by simp [keySetEff]) sub

@[simp] theorem keyRotateEff_frame {session slot : Nat} {id : DWord} {key : List Byte} (sub : [.keys, .spdm, .sirvi] ⊆ F) :
    Only F s0 (keyRotateEff session slot id key s) ↔ Only F s0 s :=
  Only.iff (by simp [keyRotateEff]) sub

@[simp] theorem keyDropOldEff_frame {session slot : Nat} (sub : [.keys, .spdm, .sirvi] ⊆ F) :
    Only F s0 (keyDropOldEff session slot s) ↔ Only F s0 s :=
  Only.iff (by simp [keyDropOldEff]) sub

@[simp] theorem setShield_frame {p : Nat} {b : Bool} (sub : [.regs, .vecs, .msgs] ⊆ F) : Only F s0 (setShield s p b) ↔ Only F s0 s :=
  Only.iff (by simp [setShield]) sub

@[simp] theorem policySetEff_frame {session slot : Nat} {shield reqTdi : Bool} (sub : [.regs, .vecs, .msgs, .spdm, .stdy, .sirvi] ⊆ F) :
    Only F s0 (policySetEff session slot shield reqTdi s) ↔ Only F s0 s :=
  Only.iff (by simp [policySetEff]) sub

@[simp] theorem putBudgets_frame {p : Nat} {b : List Nat} {emit pavg : Nat} (sub : [.regs] ⊆ F) :
    Only F s0 (putBudgets s p b emit pavg) ↔ Only F s0 s :=
  Only.iff (by simp [putBudgets]) sub

@[simp] theorem steadySetEff_frame {session slot : Nat} {budgets : List DWord} {emit pavg : Nat}
    (sub : [.regs, .spdm, .stdy, .sirvi] ⊆ F) :
    Only F s0 (steadySetEff session slot budgets emit pavg s) ↔ Only F s0 s :=
  Only.iff (by simp [steadySetEff]) sub

@[simp] theorem steadyClearEff_frame {session slot : Nat} (sub : [.regs, .spdm, .stdy, .sirvi] ⊆ F) :
    Only F s0 (steadyClearEff session slot s) ↔ Only F s0 s :=
  Only.iff (by simp [steadyClearEff]) sub

@[simp] theorem ptySteadyAckEff_frame {p : Nat} {v : Word} (sub : [.stdy, .sirvi] ⊆ F) :
    Only F s0 (ptySteadyAckEff p v s) ↔ Only F s0 s :=
  Only.iff (by simp [ptySteadyAckEff]) sub

/-! ## Spdm -/

@[simp] theorem spdmDo_frame {e : Nat} {f : State → State} (hf : ∀ s, Only F s (f s)) : Only F s0 (spdmDo e f s) ↔ Only F s0 s :=
  Only.iff (by unfold spdmDo; split <;> simp [Only.app hf]) (List.Subset.refl F)

@[simp] theorem spdmAsk_frame {e : Nat} {r : State → SpdmRsp} (sub : [.spdm] ⊆ F) : Only F s0 (spdmAsk e r s) ↔ Only F s0 s :=
  Only.iff (by simp [spdmAsk]) sub

@[simp] theorem getVersionEff_frame {e : Nat} (sub : [.spdm] ⊆ F) : Only F s0 (getVersionEff e s) ↔ Only F s0 s :=
  Only.iff (by simp [getVersionEff]) sub

@[simp] theorem getCapabilitiesEff_frame {e : Nat} (sub : [.spdm] ⊆ F) : Only F s0 (getCapabilitiesEff e s) ↔ Only F s0 s :=
  Only.iff (by simp [getCapabilitiesEff]) sub

@[simp] theorem negotiateAlgorithmsEff_frame {e : Nat} (sub : [.spdm] ⊆ F) : Only F s0 (negotiateAlgorithmsEff e s) ↔ Only F s0 s :=
  Only.iff (by simp [negotiateAlgorithmsEff]) sub

@[simp] theorem getDigestsEff_frame {e : Nat} (sub : [.spdm] ⊆ F) : Only F s0 (getDigestsEff e s) ↔ Only F s0 s :=
  Only.iff (by simp [getDigestsEff]) sub

@[simp] theorem getCertificateEff_frame {e : Nat} (sub : [.spdm] ⊆ F) : Only F s0 (getCertificateEff e s) ↔ Only F s0 s :=
  Only.iff (by simp [getCertificateEff]) sub

@[simp] theorem challengeEff_frame {e : Nat} {nonce : List Byte} (sub : [.spdm] ⊆ F) : Only F s0 (challengeEff e nonce s) ↔ Only F s0 s :=
  Only.iff (by simp [challengeEff]) sub

@[simp] theorem getMeasurementsEff_frame {e block : Nat} {nonce : List Byte} (sub : [.spdm] ⊆ F) :
    Only F s0 (getMeasurementsEff e block nonce s) ↔ Only F s0 s :=
  Only.iff (by simp [getMeasurementsEff]) sub

@[simp] theorem keyExchangeEff_frame {e : Nat} {h : List Byte} (sub : [.sess, .spdm] ⊆ F) :
    Only F s0 (keyExchangeEff e h s) ↔ Only F s0 s := by
  refine Only.iff ?_ sub
  refine (spdmDo_frame fun s => ?_).2 (Only.refl _ s)
  split <;> simp

@[simp] theorem sessDo_frame {e i : Nat} {ok : Sess → Bool} {f : State → State} (sub : [.spdm] ⊆ F) (hf : ∀ s, Only F s (f s)) :
    Only F s0 (sessDo e i ok f s) ↔ Only F s0 s := by
  simp only [List.cons_subset] at sub
  exact spdmDo_frame fun s => by split <;> simp [Only.app hf, sub]

@[simp] theorem finishEff_frame {e i : Nat} {auth : Bool} (sub : [.sess, .spdm] ⊆ F) : Only F s0 (finishEff e i auth s) ↔ Only F s0 s :=
  Only.iff (by simp [finishEff]) sub

@[simp] theorem spdmHeartbeatEff_frame {e i : Nat} (sub : [.spdm] ⊆ F) : Only F s0 (spdmHeartbeatEff e i s) ↔ Only F s0 s :=
  Only.iff (by simp [spdmHeartbeatEff]) sub

@[simp] theorem keyUpdateEff_frame {e i : Nat} (sub : [.sess, .spdm] ⊆ F) : Only F s0 (keyUpdateEff e i s) ↔ Only F s0 s :=
  Only.iff (by simp [keyUpdateEff]) sub

@[simp] theorem endSessionEff_frame {e i : Nat} (sub : [.sess, .spdm] ⊆ F) : Only F s0 (endSessionEff e i s) ↔ Only F s0 s :=
  Only.iff (by simp [endSessionEff]) sub

@[simp] theorem spdmSummitReadEff_frame {e first : Nat} (sub : [.spdm] ⊆ F) : Only F s0 (spdmSummitReadEff e first s) ↔ Only F s0 s :=
  Only.iff (by simp [spdmSummitReadEff]) sub

@[simp] theorem setIde_frame {k : Nat} {x : Ide} (sub : [.ide] ⊆ F) : Only F s0 (setIde s k x) ↔ Only F s0 s :=
  Only.iff (by simp [setIde]) sub

@[simp] theorem ideKmEff_frame {e i k : Nat} {set : Bool} {key : List Byte} (sub : [.spdm, .ide] ⊆ F) :
    Only F s0 (ideKmEff e i k set key s) ↔ Only F s0 s :=
  Only.iff (by simp [ideKmEff]) sub

@[simp] theorem kSetGoEff_frame {e i k : Nat} {set : Bool} (sub : [.regs, .spdm, .ide] ⊆ F) :
    Only F s0 (kSetGoEff e i k set s) ↔ Only F s0 s :=
  Only.iff (by simp [kSetGoEff]) sub

@[simp] theorem lockInterfaceEff_frame {k i : Nat} (sub : [.regs, .vecs, .msgs, .spdm] ⊆ F) :
    Only F s0 (lockInterfaceEff k i s) ↔ Only F s0 s :=
  Only.iff (by simp [lockInterfaceEff]) sub

@[simp] theorem startInterfaceEff_frame {k i : Nat} (sub : [.regs, .vecs, .msgs, .spdm] ⊆ F) :
    Only F s0 (startInterfaceEff k i s) ↔ Only F s0 s :=
  Only.iff (by simp [startInterfaceEff]) sub

/-! ## Expander -/

@[simp] theorem expStatus_frame {n err cmd : Nat} {busy done : Bool} {pos : Nat} (sub : [.regs] ⊆ F) :
    Only F s0 (expStatus s n err cmd busy done pos) ↔ Only F s0 s :=
  Only.iff (by simp [expStatus]) sub

@[simp] theorem expReject_frame {n cmd err : Nat} (sub : evtComps ⊆ F) : Only F s0 (expReject s n cmd err) ↔ Only F s0 s :=
  Only.iff (by simp [expReject]) sub

@[simp] theorem expDone_frame {n cmd : Nat} (sub : [.regs] ⊆ F) : Only F s0 (expDone s n cmd) ↔ Only F s0 s :=
  Only.iff (by simp [expDone]) sub

@[simp] theorem expCharge_frame {n k : Nat} (sub : [.pacc] ⊆ F) : Only F s0 (expCharge s n k) ↔ Only F s0 s :=
  Only.iff (by simp [expCharge]) sub

@[simp] theorem expEnd_frame {n : Nat} {o : ExpLoad} (sub : [.parts, .hbm, .hbmBad, .hbmCe, .meeBad] ⊆ F) :
    Only F s0 (expEnd s n o) ↔ Only F s0 s :=
  Only.iff (by simp [expEnd]) sub

@[simp] theorem expRegisterEff_frame {n : Nat} {v : Word} (sub : [.marks, .regs, .vecs, .msgs, .parts, .pacc] ⊆ F) :
    Only F s0 (expRegisterEff n v s) ↔ Only F s0 s := by
  refine Only.iff ?_ sub
  unfold expRegisterEff
  dsimp only
  split
  · simp
  · split <;> simp

@[simp] theorem expUnregisterEff_frame {n : Nat} {v : Word} (sub : [.marks, .regs, .vecs, .msgs, .parts] ⊆ F) :
    Only F s0 (expUnregisterEff n v s) ↔ Only F s0 s :=
  Only.iff (by simp [expUnregisterEff]) sub

@[simp] theorem ccExpCmdEff_frame {c : Nat} {sel dst ring : Word} (sub : [.clus] ⊆ F) :
    Only F s0 (ccExpCmdEff c sel dst ring s) ↔ Only F s0 s :=
  Only.iff (by simp [ccExpCmdEff]) sub

@[simp] theorem expZeroise_frame {n : Nat} (sub : [.regs, .parts, .hbm, .hbmBad, .hbmCe, .meeBad] ⊆ F) :
    Only F s0 (expZeroise s n) ↔ Only F s0 s := by
  refine Only.iff ?_ sub
  unfold expZeroise
  split <;> simp

/-! ## Timeouts -/

@[simp] theorem tagTmoEff_frame {n : Nat} {v : Word} (sub : evtComps ⊆ F) : Only F s0 (tagTmoEff n v s) ↔ Only F s0 s :=
  Only.iff (by simp [tagTmoEff]) sub

@[simp] theorem spUeCntClearEff_frame {c : Nat} (sub : [.regs] ⊆ F) : Only F s0 (spUeCntClearEff c s) ↔ Only F s0 s :=
  Only.iff (by simp [spUeCntClearEff]) sub

/-! ## Zeroise -/

@[simp] theorem dropRegs_frame {f : Nat → Bool} (sub : [.regs] ⊆ F) : Only F s0 (dropRegs s f) ↔ Only F s0 s :=
  Only.iff (by simp [dropRegs]) sub

@[simp] theorem zeroClusters_frame {ms : List Nat} (sub : [.clus, .slots, .htab, .bundles, .ccmem, .noc, .cores] ⊆ F) :
    Only F s0 (zeroClusters s ms) ↔ Only F s0 s :=
  Only.iff (Only.graft _ s (zeroClusters s ms)) sub

@[simp] theorem unprocessStrms_frame {n : Nat} (sub : [.strms] ⊆ F) : Only F s0 (unprocessStrms s n) ↔ Only F s0 s :=
  Only.iff (by simp [unprocessStrms]) sub

@[simp] theorem zeroiseAll_frame {n : Nat}
    (sub : [.regs, .parts, .strms, .clus, .slots, .htab, .bundles, .ccmem, .hbm, .hbmBad, .hbmCe, .meeBad, .emis, .emLost, .ings, .ports,
      .noc, .cores, .bly] ⊆ F) :
    Only F s0 (zeroiseAll s n) ↔ Only F s0 s := by
  refine Only.iff ?_ sub
  unfold zeroiseAll
  dsimp only
  refine (modBly_frame (by simp)).2 ((wrN_frame (by simp)).2 ((modIng_frame (by simp)).2 ((only_staged (by simp)).2 ?_)))
  simp

@[simp] theorem zeroiseEnd_frame {n : Nat}
    (sub : [.marks, .regs, .vecs, .msgs, .parts, .strms, .clus, .slots, .htab, .bundles, .ccmem, .hbm, .hbmBad, .hbmCe, .meeBad, .emis,
      .emLost, .ings, .ports, .noc, .cores, .bly] ⊆ F) :
    Only F s0 (zeroiseEnd s n) ↔ Only F s0 s :=
  Only.iff (by simp [zeroiseEnd]) sub

@[simp] theorem zeroiseDoneEff_frame {n : Nat}
    (sub : [.marks, .regs, .vecs, .msgs, .parts, .strms, .clus, .slots, .htab, .bundles, .ccmem, .hbm, .hbmBad, .hbmCe, .meeBad, .emis,
      .emLost, .ings, .ports, .noc, .cores, .bly] ⊆ F) :
    Only F s0 (zeroiseDoneEff n s) ↔ Only F s0 s :=
  Only.iff (by simp [zeroiseDoneEff]) sub

/-! ## Mailbox -/

@[simp] theorem putBuf_frame {bs : List Byte} (sub : [.regs] ⊆ F) : Only F s0 (putBuf s bs) ↔ Only F s0 s :=
  Only.iff (by simp [putBuf]) sub

@[simp] theorem mbReply_frame {bmc : Bool} {code status : Nat} {content : List Byte} (sub : [.marks, .regs, .vecs, .msgs, .sirvi] ⊆ F) :
    Only F s0 (mbReply s bmc code status content) ↔ Only F s0 s :=
  Only.iff (by simp [mbReply]) sub

@[simp] theorem mbHold_frame {i : Instr} {bmc : Bool} (sub : [.marks, .regs, .vecs, .msgs, .sirvi] ⊆ F) :
    Only F s0 (mbHold i bmc s) ↔ Only F s0 s :=
  Only.iff (by simp [mbHold]) sub

@[simp] theorem mbDo_frame {i : Instr} {bmc : Bool} {code : Nat} {f : State → Nat × State × List Byte}
    (sub : [.marks, .msgs, .regs, .sirvi, .vecs] ⊆ F) (hf : ∀ s, Only F s (f s).2.1) :
    Only F s0 (mbDo i bmc code f s) ↔ Only F s0 s := by
  simp only [List.cons_subset] at sub
  refine Only.iff ?_ (List.Subset.refl F)
  unfold mbDo; dsimp only
  split
  · simp
  · split <;> simp [Only.app hf, sub]

@[simp] theorem mbAct_frame {i : Instr} {bmc : Bool} {code : Nat} {chk : State → List (Bool × Nat)} {f : State → State}
    (sub : [.marks, .msgs, .regs, .sirvi, .vecs] ⊆ F) (hf : ∀ s, Only F s (f s)) :
    Only F s0 (mbAct i bmc code chk f s) ↔ Only F s0 s :=
  mbDo_frame sub fun s => by split <;> simp [Only.app hf]

@[simp] theorem infoEff_frame {bmc : Bool} (sub : [.marks, .regs, .vecs, .msgs, .sirvi] ⊆ F) : Only F s0 (infoEff bmc s) ↔ Only F s0 s :=
  Only.iff (by simp [infoEff]) sub

@[simp] theorem summitInfoEff_frame {bmc : Bool} (sub : [.marks, .regs, .vecs, .msgs, .sirvi] ⊆ F) :
    Only F s0 (summitInfoEff bmc s) ↔ Only F s0 s :=
  Only.iff (by simp [summitInfoEff]) sub

@[simp] theorem summitReadEff_frame {bmc : Bool} {first : Nat} (sub : [.marks, .regs, .vecs, .msgs, .sirvi] ⊆ F) :
    Only F s0 (summitReadEff bmc first s) ↔ Only F s0 s :=
  Only.iff (by simp [summitReadEff]) sub

@[simp] theorem ksUnbindEff_frame {bmc : Bool} {slot : Nat} (sub : [.marks, .regs, .vecs, .msgs, .keys, .sirvi] ⊆ F) :
    Only F s0 (ksUnbindEff bmc slot s) ↔ Only F s0 s :=
  Only.iff (by simp [ksUnbindEff]) sub

@[simp] theorem putWin_frame {w a n ctrl : Nat} (sub : [.regs] ⊆ F) : Only F s0 (putWin s w a n ctrl) ↔ Only F s0 s :=
  Only.iff (by simp [putWin]) sub

@[simp] theorem putRegions_frame {p : Nat} {l : List (Nat × Nat)} (sub : [.regs] ⊆ F) : Only F s0 (putRegions s p l) ↔ Only F s0 s :=
  Only.iff (by simp [putRegions]) sub

@[simp] theorem winEntry_frame {bmc : Bool} {typ p slot a n : Nat} (sub : [.sirvi] ⊆ F) :
    Only F s0 (winEntry s bmc typ p slot a n) ↔ Only F s0 s :=
  Only.iff (by simp [winEntry]) sub

@[simp] theorem winCreateEff_frame {bmc : Bool} {p a n slot : Nat} (sub : [.marks, .regs, .vecs, .msgs, .keys, .sirvi] ⊆ F) :
    Only F s0 (winCreateEff bmc p a n slot s) ↔ Only F s0 s :=
  Only.iff (by simp [winCreateEff]) sub

@[simp] theorem regionSetEff_frame {bmc : Bool} {p : Nat} {l : List (Nat × Nat)} (sub : [.marks, .regs, .vecs, .msgs, .sirvi] ⊆ F) :
    Only F s0 (regionSetEff bmc p l s) ↔ Only F s0 s :=
  Only.iff (by simp [regionSetEff]) sub

@[simp] theorem spanSetEff_frame {bmc : Bool} {coord dims : Word} (sub : [.marks, .regs, .vecs, .msgs, .sirvi] ⊆ F) :
    Only F s0 (spanSetEff bmc coord dims s) ↔ Only F s0 s :=
  Only.iff (by simp [spanSetEff]) sub

@[simp] theorem modSens_frame {f : Sens → Sens} (sub : [.sirvi] ⊆ F) : Only F s0 (modSens s f) ↔ Only F s0 s :=
  Only.iff (by simp [modSens]) sub

@[simp] theorem sensorLimitEff_frame {bmc : Bool} {sensor kind : Nat} {v : Int} (sub : [.marks, .regs, .vecs, .msgs, .sirvi] ⊆ F) :
    Only F s0 (sensorLimitEff bmc sensor kind v s) ↔ Only F s0 s :=
  Only.iff (by simp [sensorLimitEff]) sub

@[simp] theorem pwrLimitEff_frame {bmc : Bool} {w : Nat} (sub : [.marks, .regs, .vecs, .msgs, .sirvi] ⊆ F) :
    Only F s0 (pwrLimitEff bmc w s) ↔ Only F s0 s :=
  Only.iff (by simp [pwrLimitEff]) sub

@[simp] theorem bgCfgEff_frame {bmc : Bool} {thr hp : Nat} (sub : [.marks, .regs, .vecs, .msgs, .sirvi] ⊆ F) :
    Only F s0 (bgCfgEff bmc thr hp s) ↔ Only F s0 s :=
  Only.iff (by simp [bgCfgEff]) sub

@[simp] theorem setFw_frame {b : Bool} {x : FwSlot} (sub : [.sirvi] ⊆ F) : Only F s0 (setFw s b x) ↔ Only F s0 s :=
  Only.iff (by simp [setFw]) sub

@[simp] theorem fwStageEff_frame {bmc : Bool} {image : Option (List Byte)} (sub : [.marks, .regs, .vecs, .msgs, .sirvi] ⊆ F) :
    Only F s0 (fwStageEff bmc image s) ↔ Only F s0 s := by
  refine Only.iff ?_ sub
  refine (mbDo_frame (by simp) fun s => ?_).2 (Only.refl _ s)
  split
  · simp
  · split
    · simp
    · split <;> simp

@[simp] theorem fwActivateEff_frame {bmc b : Bool} (sub : [.marks, .regs, .vecs, .msgs, .sirvi] ⊆ F) :
    Only F s0 (fwActivateEff bmc b s) ↔ Only F s0 s :=
  Only.iff (by simp [fwActivateEff]) sub

@[simp] theorem fwCommitEff_frame {bmc : Bool} (sub : [.marks, .regs, .vecs, .msgs, .sirvi] ⊆ F) :
    Only F s0 (fwCommitEff bmc s) ↔ Only F s0 s :=
  Only.iff (by simp [fwCommitEff]) sub

@[simp] theorem imgPutEff_frame {bmc : Bool} {name : List Byte} {obj : Option (List Byte)} (sub : [.marks, .regs, .vecs, .msgs, .sirvi] ⊆ F) :
    Only F s0 (imgPutEff bmc name obj s) ↔ Only F s0 s := by
  refine Only.iff ?_ sub
  refine (mbDo_frame (by simp) fun s => ?_).2 (Only.refl _ s)
  split
  · simp
  · dsimp only
    split
    · simp
    · split <;> simp

@[simp] theorem imgDelEff_frame {bmc : Bool} {name : List Byte} (sub : [.marks, .regs, .vecs, .msgs, .sirvi] ⊆ F) :
    Only F s0 (imgDelEff bmc name s) ↔ Only F s0 s :=
  Only.iff (by simp [imgDelEff]) sub

@[simp] theorem imgListEff_frame {bmc : Bool} (sub : [.marks, .regs, .vecs, .msgs, .sirvi] ⊆ F) :
    Only F s0 (imgListEff bmc s) ↔ Only F s0 s :=
  Only.iff (by simp [imgListEff]) sub

@[simp] theorem debugNonceEff_frame {bmc : Bool} (sub : [.marks, .regs, .vecs, .msgs, .sirvi] ⊆ F) :
    Only F s0 (debugNonceEff bmc s) ↔ Only F s0 s :=
  Only.iff (by simp [debugNonceEff]) sub

/-! ## Boot -/

@[simp] theorem romBoot_frame (sub : [.sirvi] ⊆ F) : Only F s0 (romBoot s) ↔ Only F s0 s :=
  Only.iff (by simp [romBoot]) sub

@[simp] theorem perstNDeassertEff_frame (sub : [.sirvi] ⊆ F) : Only F s0 (perstNDeassertEff s) ↔ Only F s0 s :=
  Only.iff (by simp [perstNDeassertEff]) sub

@[simp] theorem pwrgoodAssertEff_frame {smbus : Bool} {maddr : Nat} (sub : [.sirvi] ⊆ F) :
    Only F s0 (pwrgoodAssertEff smbus maddr s) ↔ Only F s0 s :=
  Only.iff (by simp [pwrgoodAssertEff]) sub

@[simp] theorem pldmEvent_frame {kind sensor : Nat} (sub : [.sirvi] ⊆ F) : Only F s0 (pldmEvent s kind sensor) ↔ Only F s0 s :=
  Only.iff (by simp [pldmEvent]) sub

@[simp] theorem fwWatchdogEff_frame (sub : [.sirvi] ⊆ F) : Only F s0 (fwWatchdogEff s) ↔ Only F s0 s := by
  refine Only.iff ?_ sub
  unfold fwWatchdogEff
  split <;> simp

@[simp] theorem sirviReadyEff_frame (sub : [.sirvi] ⊆ F) : Only F s0 (sirviReadyEff s) ↔ Only F s0 s :=
  Only.iff (by simp [sirviReadyEff]) sub

@[simp] theorem pldmEventEnableEff_frame (sub : [.sirvi] ⊆ F) : Only F s0 (pldmEventEnableEff s) ↔ Only F s0 s :=
  Only.iff (by simp [pldmEventEnableEff]) sub

@[simp] theorem pldmEventAcknowledgeEff_frame (sub : [.sirvi] ⊆ F) : Only F s0 (pldmEventAcknowledgeEff s) ↔ Only F s0 s :=
  Only.iff (by simp [pldmEventAcknowledgeEff]) sub

/-! ## Sensors -/

@[simp] theorem opCause_frame {thermal : Bool} (sub : [.regs] ⊆ F) : Only F s0 (opCause s thermal) ↔ Only F s0 s :=
  Only.iff (by simp [opCause]) sub

@[simp] theorem powerLimitStepEff_frame (sub : [.marks, .clk, .regs, .vecs, .msgs, .sirvi] ⊆ F) :
    Only F s0 (powerLimitStepEff s) ↔ Only F s0 s :=
  Only.iff (by simp [powerLimitStepEff]) sub

/-! ## Background -/

@[simp] theorem scrubClus_frame {a : Nat} (sub : [.marks, .regs, .vecs, .msgs, .slots, .bg] ⊆ F) :
    Only F s0 (scrubClus s a) ↔ Only F s0 s :=
  Only.iff (by simp [scrubClus]) sub

@[simp] theorem scratchpadScrubEff_frame (sub : [.marks, .regs, .vecs, .msgs, .slots, .bg] ⊆ F) :
    Only F s0 (scratchpadScrubEff s) ↔ Only F s0 s :=
  Only.iff (by simp [scratchpadScrubEff]) sub

@[simp] theorem clusterScrubEff_frame (sub : [.marks, .regs, .vecs, .msgs, .slots, .bg] ⊆ F) :
    Only F s0 (clusterScrubEff s) ↔ Only F s0 s :=
  Only.iff (by simp [clusterScrubEff]) sub

@[simp] theorem exhaust_frame {st : Nat} (sub : [.regs] ⊆ F) : Only F s0 (exhaust s st) ↔ Only F s0 s :=
  Only.iff (by simp [exhaust]) sub

@[simp] theorem rowSpareDoneEff_frame (sub : [.marks, .regs, .vecs, .msgs, .bg, .sirvi] ⊆ F) :
    Only F s0 (rowSpareDoneEff s) ↔ Only F s0 s := by
  refine Only.iff ?_ sub
  unfold rowSpareDoneEff
  dsimp only
  split
  · simp
  · split <;> simp

@[simp] theorem thermalCalibrationEff_frame (sub : [.sirvi] ⊆ F) : Only F s0 (thermalCalibrationEff s) ↔ Only F s0 s :=
  Only.iff (by simp [thermalCalibrationEff]) sub

@[simp] theorem energyCalibrationEff_frame (sub : [.sirvi] ⊆ F) : Only F s0 (energyCalibrationEff s) ↔ Only F s0 s :=
  Only.iff (by simp [energyCalibrationEff]) sub

@[simp] theorem wearLevellingEff_frame (sub : [.free, .regs, .sirvi] ⊆ F) : Only F s0 (wearLevellingEff s) ↔ Only F s0 s :=
  Only.iff (by simp [wearLevellingEff]) sub

@[simp] theorem bgSlipEff_frame (sub : evtComps ⊆ F) : Only F s0 (bgSlipEff s) ↔ Only F s0 s :=
  Only.iff (by simp [bgSlipEff]) sub

/-! ## Flip -/

@[simp] theorem limitPitches_frame (sub : clusterComps ⊆ F) : Only F s0 (limitPitches s) ↔ Only F s0 s :=
  Only.iff (by simp [limitPitches]) sub

@[simp] theorem fixFlipSet_frame {n : Nat} (sub : [.parts] ⊆ F) : Only F s0 (fixFlipSet s n) ↔ Only F s0 s :=
  Only.iff (by simp [fixFlipSet]) sub

@[simp] theorem commitWindowOpenEff_frame (sub : clusterComps ⊆ F) : Only F s0 (commitWindowOpenEff s) ↔ Only F s0 s :=
  Only.iff (by simp [commitWindowOpenEff]) sub

/-! ## MatrixEngine -/

@[simp] theorem meOp_frame {c opc : Nat} {plan : State → Nat → Nat → Nat → Nat ⊕ Plan} (sub : clusterComps ⊆ F) :
    Only F s0 (meOp c opc plan s) ↔ Only F s0 s :=
  Only.iff (by simp [meOp]) sub

/-! ## GatePipe -/

@[simp] theorem gpChainEff_frame {c : Nat} (sub : clusterComps ⊆ F) : Only F s0 (gpChainEff c s) ↔ Only F s0 s :=
  Only.iff (by simp [gpChainEff]) sub

/-! ## Host -/

@[simp] theorem clwSelEff_frame {k : Nat} {v : Word} (sub : [.clw] ⊆ F) : Only F s0 (clwSelEff k v s) ↔ Only F s0 s :=
  Only.iff (by simp [clwSelEff]) sub

@[simp] theorem unmaskVec_frame {fn v : Nat} (sub : [.vecs, .msgs] ⊆ F) : Only F s0 (unmaskVec s fn v) ↔ Only F s0 s :=
  Only.iff (by simp [unmaskVec]) sub

@[simp] theorem msixUnmaskEff_frame {fn v : Nat} (sub : [.vecs, .msgs] ⊆ F) : Only F s0 (msixUnmaskEff fn v s) ↔ Only F s0 s :=
  Only.iff (by simp [msixUnmaskEff]) sub

@[simp] theorem internalErrorEff_frame {u : HostUnit} (sub : [.aer] ⊆ F) : Only F s0 (internalErrorEff u s) ↔ Only F s0 s := by
  refine Only.iff ?_ sub
  unfold internalErrorEff
  split <;> simp

/-! ## VectorEngine -/

@[simp] theorem veOp_frame {c opc : Nat} {plan : State → Nat → Nat → Nat → Nat → Nat ⊕ Plan} (sub : clusterComps ⊆ F) :
    Only F s0 (veOp c opc plan s) ↔ Only F s0 s :=
  Only.iff (by simp [veOp]) sub

@[simp] theorem vflagEff_frame {c : Nat} (sub : clusterComps ⊆ F) :
    Only F s0 (vflagEff c s) ↔ Only F s0 s := by
  refine Only.iff ?_ sub
  refine (runOp_frame (by simp) fun s => ?_).2 (Only.refl _ s)
  dsimp only
  split <;> simp

@[simp] theorem veFlagClearEff_frame {c core : Nat} {v : Word} (sub : [.regs] ⊆ F) :
    Only F s0 (veFlagClearEff c core v s) ↔ Only F s0 s :=
  Only.iff (by simp [veFlagClearEff]) sub

@[simp] theorem summaryPostArrivalEff_frame {c : Nat} (sub : clusterComps ⊆ F) : Only F s0 (summaryPostArrivalEff c s) ↔ Only F s0 s := by
  refine Only.iff ?_ sub
  unfold summaryPostArrivalEff
  dsimp only
  split <;> simp

/-! ## Registers -/

@[simp] theorem clearWith_frame {p : PageT} {pg o : Nat} (sub : [.regs] ⊆ F) : Only F s0 (clearWith s p pg o) ↔ Only F s0 s := by
  refine Only.iff ?_ sub
  unfold clearWith
  split <;> simp

@[simp] theorem cntWrite_frame {p : PageT} {a v : Nat} (sub : [.regs] ⊆ F) : Only F s0 (cntWrite s p a v) ↔ Only F s0 s :=
  Only.iff (by simp [cntWrite]) sub

@[simp] theorem evtSetWord_frame {p : PageT} {pg v : Nat} (sub : evtComps ⊆ F) : Only F s0 (evtSetWord p pg v s) ↔ Only F s0 s :=
  Only.iff (by simp [evtSetWord]) sub

@[simp] theorem evtClearWord_frame {pg v : Nat} (sub : [.regs, .vecs, .msgs] ⊆ F) : Only F s0 (evtClearWord pg v s) ↔ Only F s0 s :=
  Only.iff (by simp [evtClearWord]) sub

@[simp] theorem lockWord_frame {pg v : Nat} (sub : [.regs] ⊆ F) : Only F s0 (lockWord pg v s) ↔ Only F s0 s :=
  Only.iff (by simp [lockWord]) sub

@[simp] theorem headWrite_frame {r : Requester} {addr : Nat} {ok : PageT → Nat → Bool} {f : PageT → Nat → State → State}
    (hf : ∀ p a s, Only F s (f p a s)) : Only F s0 (headWrite r addr ok f s) ↔ Only F s0 s := by
  refine Only.iff ?_ (List.Subset.refl F)
  unfold headWrite
  split
  · simp
  · split
    · simp
    · split <;> simp [Only.app (hf _ _)]

@[simp] theorem pgEvtsetEff_frame {r : Requester} {addr : Nat} {v : Word} (sub : evtComps ⊆ F) :
    Only F s0 (pgEvtsetEff r addr v s) ↔ Only F s0 s :=
  Only.iff (by simp [pgEvtsetEff]) sub

@[simp] theorem pgEvtClearEff_frame {r : Requester} {addr : Nat} {v : Word} (sub : [.regs, .vecs, .msgs] ⊆ F) :
    Only F s0 (pgEvtClearEff r addr v s) ↔ Only F s0 s :=
  Only.iff (by simp [pgEvtClearEff]) sub

@[simp] theorem pgLockEff_frame {r : Requester} {addr : Nat} {v : Word} (sub : [.regs] ⊆ F) :
    Only F s0 (pgLockEff r addr v s) ↔ Only F s0 s :=
  Only.iff (by simp [pgLockEff]) sub

@[simp] theorem eventCounterWriteEff_frame {r : Requester} {addr : Nat} {v : Word} (sub : [.regs] ⊆ F) :
    Only F s0 (eventCounterWriteEff r addr v s) ↔ Only F s0 s :=
  Only.iff (by simp [eventCounterWriteEff]) sub

@[simp] theorem readWord_frame {r : Requester} {a : Nat} (sub : [.latch, .rdata, .parts] ⊆ F) :
    Only F s0 (readWord r a s) ↔ Only F s0 s := by
  refine Only.iff ?_ sub
  unfold readWord
  split
  · simp
  · split
    · simp
    · split
      · simp
      · split
        · simp
        · split
          · simp
          · split <;> simp

@[simp] theorem loReadEff_frame {r : Requester} {addr : Nat} (sub : [.latch, .rdata, .parts] ⊆ F) :
    Only F s0 (loReadEff r addr s) ↔ Only F s0 s :=
  Only.iff (by simp [loReadEff]) sub

/-! ## The commands -/

/-- A command that answers `u`, which is within `F` of `s`, changes nothing else. -/
theorem eq_graft_of_exec (F : List Comp) (e : (Host.Outcome.next u : Out) = .next t) (h : Only F s u) : t = graft F s t := by
  obtain rfl := Host.Outcome.next.inj e
  exact h.eq_graft

end

/-- Settles O60: the meaning of each command named stays within the components of its family. -/
theorem commandsChangeOnlyTheStateOfTheirFamily : Obligations.CommandsChangeOnlyTheStateOfTheirFamily := by
  intro c s t e
  cases c
  case pgLock | eventCounterWrite | veFlagClear | spUeCntClear | profFetch | trainingDone | clear =>
    exact eq_graft_of_exec [.regs] e (by simp)
  case tblEntryLoWrite | rearm | jobTeardownDone =>
    exact eq_graft_of_exec [.parts] e (by simp)
  case summaryHandler | wfi | ccAltsel | ccDesc | ccExpCmd =>
    exact eq_graft_of_exec [.clus] e (by simp)
  case ccDefer | ccBelaySame =>
    exact eq_graft_of_exec [.lanes] e (by simp)
  case getVersion | getCapabilities | negotiateAlgorithms | getDigests | getCertificate | challenge | getMeasurements
    | spdmHeartbeat | spdmSummitRead =>
    exact eq_graft_of_exec [.spdm] e (by simp)
  case summitFlush | pwrgoodAssert | fwWatchdog | sirviReady | thermalCalibration | energyCalibration | perstNDeassert
    | pldmEventAcknowledge | pldmEventEnable =>
    exact eq_graft_of_exec [.sirvi] e (by simp)
  case clwSel =>
    exact eq_graft_of_exec [.clw] e (by simp)
  case uncorrectableInternalError =>
    exact eq_graft_of_exec [.aer] e (by simp)
  case idlePark =>
    exact eq_graft_of_exec [.strms, .keys] e (by simp)
  case keyExchange | finish | keyUpdate | endSession =>
    exact eq_graft_of_exec [.sess, .spdm] e (by simp)
  case loRead | kvRecomp =>
    exact eq_graft_of_exec [.latch, .rdata, .parts] e (by simp)
  case ccSumPop =>
    exact eq_graft_of_exec [.latch, .rdata, .clus] e (by simp)
  case portMasterFrame | relock | chCtrl | nonaudioEnd =>
    exact eq_graft_of_exec [.clk, .regs, .ports] e (by simp)
  case keySet | keyRotate | keyDropOld =>
    exact eq_graft_of_exec [.keys, .spdm, .sirvi] e (by simp)
  case kSetGo | ideKm =>
    exact eq_graft_of_exec [.regs, .spdm, .ide] e (by simp)
  case linkRetune =>
    exact eq_graft_of_exec [.free, .lports, .sirvi] e (by simp)
  case wearLevelling =>
    exact eq_graft_of_exec [.free, .regs, .sirvi] e (by simp)
  case pgEvtset | strmQuery | tagTmo | ingPi | emCi | outPi | zcTmo | collTmo | bgSlip | pgEvtClear | msixUnmask =>
    exact eq_graft_of_exec evtComps e (by simp)
  case steadySet | steadyClear | ptySteadyAck =>
    exact eq_graft_of_exec [.regs, .spdm, .stdy, .sirvi] e (by simp)
  case bhbSend | linkRetry | heartbeatSend =>
    exact eq_graft_of_exec [.regs, .msgs, .pacc, .lports] e (by simp)
  case tbLoad | ptmRequest | ptmTimeout | tickApply | tickCtrlEn | tickInEdge | fallbackTimeout =>
    exact eq_graft_of_exec [.marks, .clk, .regs, .vecs, .msgs] e (by simp)
  case configure | start | stop | maint | resume | reconfig | tblSwap | load | unload | seqInit | seqFork | seqReset | seqFree
    | expUnregister | tblEntryHiWrite =>
    exact eq_graft_of_exec [.marks, .regs, .vecs, .msgs, .parts] e (by simp)
  case strmOpen | strmClose | strmPark | strmUnpark | strmExport | strmImport | strmSetcfg =>
    exact eq_graft_of_exec [.marks, .regs, .vecs, .msgs, .strms] e (by simp)
  case debugNonce | info | regionSet | spanSet | sensorLimit | pwrLimit | bgCfg | fwStage | fwActivate | fwCommit | summitInfo
    | summitRead | imgPut | imgDel | imgList =>
    exact eq_graft_of_exec [.marks, .regs, .vecs, .msgs, .sirvi] e (by simp)
  case ptmResponse =>
    exact eq_graft_of_exec [.marks, .free, .clk, .regs, .vecs, .msgs] e (by simp)
  case expRegister =>
    exact eq_graft_of_exec [.marks, .regs, .vecs, .msgs, .parts, .pacc] e (by simp)
  case portFrame | portFrameTimeout | zcTimeout | portCfg =>
    exact eq_graft_of_exec [.marks, .clk, .regs, .vecs, .msgs, .ports] e (by simp)
  case policySet | lockInterface | startInterface =>
    exact eq_graft_of_exec [.regs, .vecs, .msgs, .spdm, .stdy, .sirvi] e (by simp)
  case bhbTimeout | promote =>
    exact eq_graft_of_exec [.marks, .regs, .vecs, .msgs, .bly, .sirvi] e (by simp)
  case ksUnbind | winCreate =>
    exact eq_graft_of_exec [.marks, .regs, .vecs, .msgs, .keys, .sirvi] e (by simp)
  case powerLimitStep =>
    exact eq_graft_of_exec [.marks, .clk, .regs, .vecs, .msgs, .sirvi] e (by simp)
  case scratchpadScrub | clusterScrub =>
    exact eq_graft_of_exec [.marks, .regs, .vecs, .msgs, .slots, .bg] e (by simp)
  case rowSpareDone =>
    exact eq_graft_of_exec [.marks, .regs, .vecs, .msgs, .bg, .sirvi] e (by simp)
  case commitWindowOpen | pitchLimit | loopS | loopE | bp | altselSample | halt | sync | stallClear | meMode | meCbook | meLoadw
    | meStream | meDrain | meAttn | vsetvl | vld | vst | vmov | vbcast | vsel | vcmp | vadd | vsub | vmul | vfma | vmax | vmin
    | vabs | vneg | vand | vor | vxor | vshl | vsra | vsrl | vrcp | vrsqrt | vfn | vred | vtred | vtile | vexpn | vcvt | vpost
    | vflag | gpChain | spFill | spCopy | spTag | spDma | ncCopy | remoteAccessDone | asyncPortPromotion | summaryPostArrival =>
    exact eq_graft_of_exec clusterComps e (by simp)
  case bundlePageArrival =>
    exact eq_graft_of_exec (.bundles :: clusterComps) e (by simp)
  case zeroiseDone =>
    exact eq_graft_of_exec
      [.marks, .regs, .vecs, .msgs, .parts, .strms, .clus, .slots, .htab, .bundles, .ccmem, .hbm, .hbmBad, .hbmCe, .meeBad, .emis,
        .emLost, .ings, .ports, .noc, .cores, .bly] e (by simp)
  all_goals trivial

end Sys2Proof.Machine
end

section
/-!
PROOFS. The tick configuration, PTM and TICK_IN (01_tick R13-R23).
-/
namespace Sys2Proof.Machine

/-! ## What the updates of the tick generator read as -/

/-- On a ready device a PF register write takes effect. -/
theorem pfDo_of_ready {s : State} (h : hostReady s = true) (f : State → State) : pfDo s f = f s := if_pos h

/-- An update of the clock alone leaves the registers. -/
theorem rb_clk (s : State) (k : Clk) (a i : Nat) : rb { s with clk := k } a i = rb s a i := rfl

/-- EN reads what was written to it. -/
theorem tickEn_wf (s : State) (v : Nat) : tickEn (wf s (tickPg + 0x124) 0 1 v) = bitAt v 0 := by
  unfold tickEn
  rw [rb_wf _ _ _ _ _ _ (by decide)]
  rfl

/-- Outside an edge a copy that takes force becomes the fields in force, and none waits. -/
theorem takeForce_none_cfg (s : State) (c : TickCfg) : (takeForce s c none).clk.cfg = c ∧ (takeForce s c none).clk.wait = none := ⟨rfl, rfl⟩

/-! ## LOAD, APPLY, EN and RELOCK (R13, R16, R22, R474) -/

/-- A register write of the PF that the ready device carries out. -/
theorem gives_of_pfDo {c : Instr} {s : State} {f : State → State} {P : State → Prop} (h : hostReady s = true)
    (e : exec c s = .next (pfDo s f)) (p : P (f s)) : Gives c s P :=
  ⟨f s, by rw [e, pfDo_of_ready h], p⟩

theorem tbLoad_idle {s : State} (h : hostReady s = true) (ha : anyActive s = false) : Gives .tbLoad s fun t =>
    t.clk.tb = rd64 s (tickPg + 0x108) * uNs ∧ t.clk.tbValid = true ∧ t.regs = s.regs := by
  refine gives_of_pfDo h rfl ?_
  simp [tbLoadEff, ha]

theorem tbLoad_active {s : State} (h : hostReady s = true) (ha : anyActive s = true) : Gives .tbLoad s fun t =>
    t.clk = s.clk ∧ rb t (tickPg + 0x14) 9 = true := by
  refine gives_of_pfDo h rfl ?_
  rw [tbLoadEff, if_pos ha]
  exact ⟨by simp, rb_setEvt _ _ _ (by decide)⟩

theorem tickApply_legal {s : State} (h : hostReady s = true) (ha : anyActive s = false) (hc : cfgOk (cfgReg s) = true) :
    Gives .tickApply s fun t => t.clk.cfgRej = false ∧ (tickEn s = false → t.clk.cfg = cfgReg s) ∧
      (tickEn s = true → t.clk.cfg = s.clk.cfg ∧ t.clk.wait = some (cfgReg s)) := by
  refine gives_of_pfDo h rfl ?_
  cases he : tickEn s <;> simp [tickApplyEff, ha, hc, he, takeForce]

theorem tickApply_refused {s : State} (h : hostReady s = true) (hr : anyActive s = true ∨ cfgOk (cfgReg s) = false) :
    Gives .tickApply s fun t => t.clk.cfg = s.clk.cfg ∧ t.clk.wait = s.clk.wait ∧ t.clk.cfgRej = true ∧
      rb t (tickPg + 0x14) 9 = true := by
  refine gives_of_pfDo h rfl ?_
  have hb : (anyActive s || !cfgOk (cfgReg s)) = true := by rcases hr with e | e <;> simp [e]
  rw [tickApplyEff, if_pos hb]
  exact ⟨by simp, by simp, by simp, rb_setEvt _ _ _ (by decide)⟩

theorem tickCtrlEn_set {s : State} (h : hostReady s = true) (he : tickEn s = false) : Gives (.tickCtrlEn true) s fun t =>
    tickEn t = true ∧ t.clk.srcNow = s.clk.cfg.src ∧ t.clk.run = decide (s.clk.cfg.src = 0) ∧ t.clk.lastEdge = none ∧
      t.clk.relocking = false := by
  refine gives_of_pfDo h rfl ?_
  rw [tickCtrlEnEff, if_pos rfl, if_neg (by simp [he])]
  exact ⟨tickEn_wf s 1, rfl, rfl, rfl, rfl⟩

theorem tickCtrlEn_clear {s : State} (h : hostReady s = true) (he : tickEn s = true) (ha : anyActive s = false) :
    Gives (.tickCtrlEn false) s fun t => tickEn t = false ∧ t.clk.run = false ∧ t.clk.fly = 0 ∧ t.clk.num = s.clk.num ∧
      ∀ c, s.clk.wait = some c → t.clk.cfg = c ∧ t.clk.wait = none := by
  refine gives_of_pfDo h rfl ?_
  simp only [tickCtrlEnEff, he, ha, Bool.false_eq_true, if_false, Bool.not_true, wf_clk]
  cases hw : s.clk.wait with
  | none => exact ⟨tickEn_wf s 0, rfl, rfl, rfl, nofun⟩
  | some c => exact ⟨tickEn_wf s 0, rfl, rfl, rfl, fun c' e => by cases e; exact takeForce_none_cfg _ c⟩

theorem relock_fallback {s : State} (h : hostReady s = true) (h3 : s.clk.srcNow = 3) : Gives .relock s fun t => t.clk.relocking = true := by
  refine gives_of_pfDo h rfl ?_
  rw [relockEff, if_pos h3]

/-- Settles O7: each register write of the ready device is the tick generator's update of its case. -/
theorem tickConfigurationTakesForce : Obligations.TickConfigurationTakesForce := fun _ h =>
  ⟨tbLoad_idle h, tbLoad_active h, tickApply_legal h, tickApply_refused h, tickCtrlEn_set h, tickCtrlEn_clear h, relock_fallback h⟩

/-! ## PTM (R13, R14, R451) -/

theorem toTbI_tb {s : State} {t : Int} (h : (s.clk.tb : Int) ≤ t) : ((toTbI s t).clk.tb : Int) = t := by
  unfold toTbI
  rw [toTb_tb (by omega)]
  omega

/-- Waiting for a time moves the timebase, the remainder of the slew and the cycle count only. -/
theorem toTb_form (s : State) (t : Nat) : ∃ tb rem cyc, toTb s t = { s with clk := { s.clk with tb := tb, rem := rem, cyc := cyc } } := by
  unfold toTb
  split
  · exact ⟨_, _, _, rfl⟩
  · exact ⟨_, _, _, rfl⟩

/-- `t` differs from `s` by the passing of time: its clock is that of `s` but for the timebase, the remainder of the slew and the cycle
count. -/
def Timed (s t : State) : Prop := t.clk = { s.clk with tb := t.clk.tb, rem := t.clk.rem, cyc := t.clk.cyc }

theorem timed_toTb (s : State) (t : Nat) : Timed s (toTb s t) := by
  obtain ⟨tb, rem, cyc, e⟩ := toTb_form s t
  rw [e]
  exact rfl

theorem toTbI_form (s : State) (t : Int) : ∃ tb rem cyc, toTbI s t = { s with clk := { s.clk with tb := tb, rem := rem, cyc := cyc } } :=
  toTb_form s t.toNat

/-- A failed request is no longer outstanding and is counted; the 16th in a row loses PTM. -/
theorem ptmFail_clk (s : State) : (ptmFail s).clk.ptmOut = none ∧ (ptmFail s).clk.ptmFails = s.clk.ptmFails + 1 ∧
    (s.clk.ptmFails = 15 → (ptmFail s).clk.ptmOk = false ∧ rb (ptmFail s) (tickPg + 0x14) 6 = true) := by
  unfold ptmFail
  by_cases h : s.clk.ptmFails = 15
  · simp [h, rb_setEvt]
  · simp [h]

theorem ptmRequest_due {s : State} (he : rb s (tickPg + 0x110) 0 = true) (ho : s.clk.ptmOut = none) (ht : (s.clk.tb : Int) ≤ s.clk.ptmNext) :
    (Gives (.ptmRequest true) s fun t => t.clk.ptmOut = some s.clk.ptmNext ∧ (t.clk.tb : Int) = s.clk.ptmNext ∧
      t.clk.ptmNext = s.clk.ptmNext + 1000000 * uNs * 2 ^ rf s (tickPg + 0x110) 4 3) ∧
    Gives (.ptmRequest false) s fun t => t.clk.ptmOut = none ∧ t.clk.ptmFails = s.clk.ptmFails + 1 := by
  have htb := toTbI_tb ht
  refine ⟨⟨_, rfl, ?_⟩, ⟨_, rfl, ?_⟩⟩
  · simp [ptmRequestEff, he, ho, htb]
  · obtain ⟨tb, rem, cyc, e⟩ := toTbI_form s s.clk.ptmNext
    simp only [ptmRequestEff, he, ho, Option.isNone_none, Bool.and_true, if_true, Bool.false_eq_true, if_false, e]
    obtain ⟨hout, hfails, -⟩ := ptmFail_clk _
    exact ⟨hout, hfails⟩

theorem ptmResponse_inTime {s : State} {x : Int} (o : Int) (hx : s.clk.ptmOut = some x) (ht : (s.clk.tb : Int) ≤ x + 1000000 * uNs) :
    Gives (.ptmResponse o) s fun t => t.clk.tb = s.clk.tb ∧ t.clk.ptmOk = true ∧ t.clk.ptmFails = 0 ∧ t.clk.ptmOut = none ∧
      t.clk.ptmOfs = clampI (-(2 ^ 31 - 1)) (2 ^ 31 - 1) o ∧ -100000 ≤ t.clk.rate ∧ t.clk.rate ≤ 100000 := by
  refine ⟨_, rfl, ?_⟩
  rw [ptmResponseEff, hx]
  simp only [if_neg (not_lt.mpr ht), true_and]
  omega

theorem ptmResponse_late {s : State} {x : Int} (o : Int) (hx : s.clk.ptmOut = some x) (ht : x + 1000000 * uNs < s.clk.tb) :
    Gives (.ptmResponse o) s fun t => t.clk.ptmOut = none ∧ t.clk.ptmFails = s.clk.ptmFails + 1 := by
  refine ⟨_, rfl, ?_⟩
  simp only [ptmResponseEff, hx, ht, if_true]
  obtain ⟨hout, hfails, -⟩ := ptmFail_clk s
  exact ⟨hout, hfails⟩

theorem ptmTimeout_fails {s : State} (h : s.clk.ptmOut.isSome = true) : Gives .ptmTimeout s fun t =>
    t.clk.ptmOut = none ∧ t.clk.ptmFails = s.clk.ptmFails + 1 ∧
    (s.clk.ptmFails = 15 → t.clk.ptmOk = false ∧ rb t (tickPg + 0x14) 6 = true) := by
  obtain ⟨x, hx⟩ := Option.isSome_iff_exists.1 h
  refine ⟨_, rfl, ?_⟩
  obtain ⟨tb, rem, cyc, e⟩ := toTbI_form s (x + 1000000 * uNs)
  simp only [ptmTimeoutEff, hx, e]
  exact ptmFail_clk _

/-- Settles O8: a request, a response and a timeout each by the outstanding request they meet. -/
theorem ptmRequestsAndFailures : Obligations.PtmRequestsAndFailures :=
  ⟨fun _ => ptmRequest_due, fun _ o _ => ptmResponse_inTime o, fun _ o _ => ptmResponse_late o, fun _ => ptmTimeout_fails⟩

/-! ## TICK_IN (R18, R20, R23) -/

theorem acceptIn_clk (s : State) (t : Int) : (acceptIn s t).clk.due = some (t + 200 * uNs) ∧ (acceptIn s t).clk.fly = 0 ∧
    (s.clk.srcNow = 1 ∨ s.clk.srcNow = 2 → (acceptIn s t).clk.srcNow = 1) ∧ (acceptIn s t).clk.tb = s.clk.tb ∧
    (s.clk.fly ≠ 0 → rb (acceptIn s t) (tickPg + 0x14) 3 = true) := by
  unfold acceptIn
  by_cases h : s.clk.fly = 0
  · simp [h]
    omega
  · simp [h, rb_setEvt]
    omega

theorem rejectIn_clk (s : State) : (rejectIn s).clk = s.clk ∧ rb (rejectIn s) (tickPg + 0x14) 0 = true :=
  ⟨by simp [rejectIn], rb_setEvt _ _ _ (by decide)⟩

/-- With a device edge behind and none due, the window of that edge judges (R18). -/
theorem tickInAt_judged {s : State} {e : Int} (t : Int) (hen : tickEn s = true) (hs : s.clk.srcNow = 1 ∨ s.clk.srcNow = 2)
    (hfb : s.clk.toFb = false) (hd : s.clk.due = none) (he : s.clk.lastEdge = some e) :
    tickInAt s t = if inWin s e t then acceptIn s t else rejectIn s := by
  rcases hs with h | h <;> simp [tickInAt, hen, h, hfb, hd, he]

theorem inWin_iff (s : State) (e t : Int) :
    inWin s e t = true ↔ e + perNow s ≤ t + perNow s / 1000 ∧ t ≤ e + perNow s + perNow s / 1000 := by simp [inWin]

theorem inWin_timed {s u : State} (h : Timed s u) (e t : Int) : inWin u e t = inWin s e t := by
  have hp : perNow u = perNow s := (congrArg (fun k : Clk => perU k.cfg.period) h).trans rfl
  rw [inWin, inWin, hp]

theorem tickEn_toTb (s : State) (t : Nat) : tickEn (toTb s t) = tickEn s := by
  obtain ⟨tb, rem, cyc, e⟩ := toTb_form s t
  rw [e]
  rfl

theorem fallbackTimeout_none {s : State} (hen : tickEn s = true) (hd : s.clk.due = none) (h1 : s.clk.srcNow = 1) (he : s.clk.lastEdge = none)
    (ht : (s.clk.tb : Int) ≤ s.clk.enAt + 64 * perNow s) : Gives .fallbackTimeout s fun t =>
      t.clk.srcNow = 3 ∧ t.clk.run = true ∧ (t.clk.tb : Int) = s.clk.enAt + 64 * perNow s ∧ t.clk.fbEdge.isSome = true ∧
        rb t (tickPg + 0x14) 2 = true := by
  have hf : fallbackAt s = some (s.clk.enAt + 64 * perNow s) := by simp [fallbackAt, hen, hd, h1, he]
  refine ⟨_, rfl, ?_⟩
  simp only [fallbackTimeoutEff, hf]
  refine ⟨by simp, by simp, ?_, by simp, rb_setEvt _ _ _ (by decide)⟩
  rw [setEvt_clk]
  exact toTbI_tb ht

/-- Settles O9: the edge is taken at its time, where the window of the previous device edge tells acceptance from rejection. -/
theorem tickInEdgesAreJudgedByTheWindow : Obligations.TickInEdgesAreJudgedByTheWindow := by
  refine ⟨?_, fun s time high h => congrArg Host.Outcome.next (if_pos h), fun s => fallbackTimeout_none⟩
  intro s time high e x hx hen hs hfb hd he ht hh
  have hclk := timed_toTb s (time * uNs)
  have hat : tickInEdgeEff time high s = if inWin s e x then acceptIn (toTb s (time * uNs)) x else rejectIn (toTb s (time * uNs)) := by
    rw [tickInEdgeEff, if_neg (by omega), toTb_tb ht, ← hx, ← inWin_timed hclk]
    exact tickInAt_judged x ((tickEn_toTb s _).trans hen) (by rwa [congrArg Clk.srcNow hclk]) ((congrArg Clk.toFb hclk).trans hfb)
      ((congrArg Clk.due hclk).trans hd) ((congrArg Clk.lastEdge hclk).trans he)
  refine ⟨fun hw => ⟨_, rfl, ?_⟩, fun hw => ⟨_, rfl, ?_⟩⟩
  · rw [hat, if_pos ((inWin_iff s e x).2 hw)]
    obtain ⟨hdue, hfly, hsrc, htb, hevt⟩ := acceptIn_clk (toTb s (time * uNs)) x
    rw [congrArg Clk.srcNow hclk] at hsrc
    rw [congrArg Clk.fly hclk] at hevt
    exact ⟨hdue, hfly, hsrc hs, htb.trans (toTb_tb ht), hevt⟩
  · rw [hat, if_neg (mt (inWin_iff s e x).1 hw)]
    obtain ⟨hrej, hevt⟩ := rejectIn_clk (toTb s (time * uNs))
    have hk := hrej.trans hclk
    exact ⟨(congrArg Clk.due hk).trans hd, (congrArg Clk.fly hk).trans rfl, hevt⟩

end Sys2Proof.Machine
end

section
/-!
PROOFS. Sensor samples, the power step and the summit flush (01_tick R24; 15_sirvi R416-R422).
-/
namespace Sys2Proof.Machine

/-! ## Folds over the state -/

/-- What every step of a fold keeps, the fold keeps. -/
theorem each_inv {α : Type} {P : State → Prop} {l : List α} {f : State → α → State} {s : State}
    (hf : ∀ u b, b ∈ l → P u → P (f u b)) (h : P s) : P (each s l f) := by
  unfold each
  induction l generalizing s with
  | nil => exact h
  | cons b l ih => exact ih (fun u c hc => hf u c (List.mem_cons_of_mem _ hc)) (hf s b List.mem_cons_self h)

/-- A fold reaches `Q` when the step at one of its elements establishes it under the invariant and no step loses it. -/
theorem each_reaches {α : Type} {P Q : State → Prop} {l : List α} {f : State → α → State} {s : State} {a : α} (ha : a ∈ l) (h : P s)
    (hP : ∀ u b, b ∈ l → P u → P (f u b)) (hit : ∀ u, P u → Q (f u a)) (hQ : ∀ u b, b ∈ l → P u → Q u → Q (f u b)) : Q (each s l f) := by
  unfold each
  induction l generalizing s with
  | nil => cases ha
  | cons b l ih =>
    have hP' := fun u c (hc : c ∈ l) => hP u c (List.mem_cons_of_mem _ hc)
    have hQ' := fun u c (hc : c ∈ l) => hQ u c (List.mem_cons_of_mem _ hc)
    have hb := hP s b List.mem_cons_self h
    rcases List.mem_cons.1 ha with rfl | ha
    · exact (each_inv (P := fun u => P u ∧ Q u) (fun u c hc ⟨p, q⟩ => ⟨hP' u c hc p, hQ' u c hc p q⟩) ⟨hb, hit s h⟩).2
    · exact ih ha hb hP' hQ'

/-- A fold whose steps change nothing changes nothing. -/
theorem each_eq_self {α : Type} {l : List α} {f : State → α → State} {s : State} (hf : ∀ b ∈ l, f s b = s) : each s l f = s := by
  refine each_inv (P := fun u => u = s) (fun u b hb e => ?_) rfl
  rw [e, hf b hb]

/-! ## Reading Sirvi's state -/

@[simp] theorem rdN_modSens (s : State) (f : Sens → Sens) (a : Nat) : rdN (modSens s f) a = rdN s a := rfl

@[simp] theorem modSens_sens (s : State) (f : Sens → Sens) : (modSens s f).sirvi.sens = f s.sirvi.sens := rfl

@[simp] theorem modSens_boot (s : State) (f : Sens → Sens) : (modSens s f).sirvi.boot = s.sirvi.boot := rfl

/-- A PLDM event joins those that Sirvi holds, and changes nothing else. -/
theorem pldmEvent_form (s : State) (kind sensor : Nat) : ∃ l, pldmEvent s kind sensor = modSirvi s fun v => { v with pldm := l } := by
  unfold pldmEvent
  split
  · exact ⟨_, rfl⟩
  · exact ⟨s.sirvi.pldm, rfl⟩

@[simp] theorem pldmEvent_sens (s : State) (kind sensor : Nat) : (pldmEvent s kind sensor).sirvi.sens = s.sirvi.sens := by
  obtain ⟨l, e⟩ := pldmEvent_form s kind sensor; rw [e]; rfl

@[simp] theorem pldmEvent_boot (s : State) (kind sensor : Nat) : (pldmEvent s kind sensor).sirvi.boot = s.sirvi.boot := by
  obtain ⟨l, e⟩ := pldmEvent_form s kind sensor; rw [e]; rfl

@[simp] theorem pldmEvent_clk (s : State) (kind sensor : Nat) : (pldmEvent s kind sensor).clk = s.clk := by
  obtain ⟨l, e⟩ := pldmEvent_form s kind sensor; rw [e]; rfl

@[simp] theorem rdN_pldmEvent (s : State) (kind sensor a : Nat) : rdN (pldmEvent s kind sensor) a = rdN s a := by
  obtain ⟨l, e⟩ := pldmEvent_form s kind sensor; rw [e]; rfl

/-! ## What the steps of a sample keep -/

/-- `t` agrees with `s` in what judges readings: the boot state, the limits, and the sensor page from its fault registers on. -/
structure SameJudge (s t : State) : Prop where
  boot : t.sirvi.boot = s.sirvi.boot
  lims : t.sirvi.sens.lims = s.sirvi.sens.lims
  regs : ∀ a, senPg + 0x290 ≤ a → rdN t a = rdN s a

theorem SameJudge.rfl' (s : State) : SameJudge s s := ⟨rfl, rfl, fun _ _ => rfl⟩

theorem SameJudge.trans {a b c : State} (h : SameJudge a b) (k : SameJudge b c) : SameJudge a c :=
  ⟨k.boot.trans h.boot, k.lims.trans h.lims, fun i hi => (k.regs i hi).trans (h.regs i hi)⟩

theorem SameJudge.limOf {s t : State} (h : SameJudge s t) (i k : Nat) : limOf t i k = limOf s i k := by
  unfold Machine.limOf; rw [h.lims]

theorem SameJudge.voltOver {s t : State} (h : SameJudge s t) (v : Int) (i k : Nat) : voltOver t v i k = voltOver s v i k := by
  unfold Machine.voltOver; rw [h.limOf]

theorem SameJudge.senFaulty {s t : State} (h : SameJudge s t) (i : Nat) : senFaulty t i = senFaulty s i := by
  have ha : senPg + 0x290 ≤ (faultBit i).1 := by
    unfold faultBit; split
    · exact Nat.le_add_right _ _
    · split <;> simp
  unfold Machine.senFaulty rb
  rw [h.regs _ ha]

theorem sameJudge_each {α : Type} {l : List α} {f : State → α → State} (hf : ∀ s a, a ∈ l → SameJudge s (f s a)) (s : State) :
    SameJudge s (each s l f) :=
  each_inv (P := SameJudge s) (fun u a ha h => h.trans (hf u a ha)) (.rfl' s)

theorem sameJudge_wrN (s : State) {a : Nat} (v : Nat) (h : a < senPg + 0x290) : SameJudge s (wrN s a v) :=
  ⟨rfl, rfl, fun b hb => rdN_wrN_ne v (by omega)⟩

theorem sameJudge_modSens (s : State) {f : Sens → Sens} (h : (f s.sirvi.sens).lims = s.sirvi.sens.lims) : SameJudge s (modSens s f) :=
  ⟨rfl, h, fun _ _ => rfl⟩

/-- A warning touches the header of the sensor page and the marks of the warnings. -/
theorem sameJudge_warnAt (s : State) (i : Nat) (above : Bool) : SameJudge s (warnAt s i above) := by
  unfold warnAt
  split
  · exact ⟨by simp, by simp, fun a ha => by rw [rdN_pldmEvent, rdN_setEvt_ne _ _ _ _ (by omega)]; rfl⟩
  · split
    · exact .rfl' s
    · exact sameJudge_modSens s rfl

theorem rdN_warnAt (s : State) (i : Nat) (above : Bool) {a : Nat} (h : senPg + 0x30 ≤ a) : rdN (warnAt s i above) a = rdN s a := by
  unfold warnAt
  split
  · rw [rdN_pldmEvent, rdN_setEvt_ne _ _ _ _ (by omega)]; rfl
  · split
    · rfl
    · rfl

@[simp] theorem warnAt_volt (s : State) (i : Nat) (above : Bool) : (warnAt s i above).sirvi.sens.volt = s.sirvi.sens.volt := by
  unfold warnAt
  split
  · simp
  · split <;> simp

/-! ## Temperatures -/

/-- The register of a temperature. -/
def tempReg (i : Nat) : Nat := if i < 64 then senPg + 0x100 + 4 * i else senPg + 0x200 + 4 * (i - 64)

theorem tempReg_range {i : Nat} (h : i < 72) : senPg + 0x100 ≤ tempReg i ∧ tempReg i < senPg + 0x220 := by
  unfold tempReg; split <;> omega

theorem tempReg_inj {i j : Nat} (hi : i < 72) (hj : j < 72) (h : tempReg i = tempReg j) : i = j := by
  unfold tempReg at h; split at h <;> split at h <;> omega

theorem sameJudge_tempStep (rs : Readings) (s : State) {i : Nat} (h : i < 72) : SameJudge s (tempStep rs s i) :=
  (sameJudge_wrN s _ (by have := tempReg_range h; unfold tempReg at this; omega)).trans (sameJudge_warnAt _ _ _)

theorem rdN_tempStep (rs : Readings) (s : State) (i : Nat) {a : Nat} (h : senPg + 0x30 ≤ a) :
    rdN (tempStep rs s i) a = if a = tempReg i then lowBits 16 (temp s rs i) % 2 ^ 32 else rdN s a := by
  unfold tempStep
  dsimp only
  rw [rdN_warnAt _ _ _ h, rdN_wrN]
  rfl

theorem lowBits_lt (n : Nat) (v : Int) : lowBits n v < 2 ^ n := by
  have h : (0 : Int) < 2 ^ n := by positivity
  have := Int.emod_nonneg v h.ne'
  have := Int.emod_lt_of_pos v h
  unfold lowBits
  zify
  omega

theorem lowBits_word (v : Int) : lowBits 16 v % 2 ^ 32 = lowBits 16 v := Nat.mod_eq_of_lt ((lowBits_lt 16 v).trans (by decide))

/-- A sensor that is not faulty counts with its reading. -/
theorem temp_good {s : State} {rs : Readings} {i : Nat} {v : Int} (h : senFaulty s i = false) (hr : reading rs i = some v) : temp s rs i = v := by
  simp [temp, h, hr]

/-- The temperature steps of a good sample show every reading. -/
theorem rdN_tempSteps {s : State} {rs : Readings} {l : List Nat} (hl : ∀ j ∈ l, j < 72) {i : Nat} (hi : i ∈ l) {v : Int}
    (hf : senFaulty s i = false) (hr : reading rs i = some v) : rdN (each s l (tempStep rs)) (tempReg i) = lowBits 16 v := by
  have h72 := hl i hi
  have hlo := (tempReg_range h72).1
  have hit : ∀ u, SameJudge s u → rdN (tempStep rs u i) (tempReg i) = lowBits 16 v := fun u hu => by
    rw [rdN_tempStep _ _ _ (by omega), if_pos rfl, temp_good ((hu.senFaulty i).trans hf) hr, lowBits_word]
  refine each_reaches (P := SameJudge s) (Q := fun u => rdN u (tempReg i) = lowBits 16 v) hi (.rfl' s)
    (fun u j hj hu => hu.trans (sameJudge_tempStep rs u (hl j hj))) hit fun u j hj hu q => ?_
  by_cases e : i = j
  · rw [← e]; exact hit u hu
  · rw [rdN_tempStep _ _ _ (by omega), if_neg fun h => e (tempReg_inj h72 (hl j hj) h), q]

/-! ## Voltages -/

/-- What the step of a voltage writes. -/
theorem voltStep_of {s : State} {rs : Readings} {i : Nat} {v : Int} (hr : reading rs i = some v) (ho : voltOver s v i 3 = false) :
    voltStep rs s i = modSens (warnAt (wrN s (senPg + 0x220 + 4 * (i - 72)) (lowBits 16 v)) i (voltOver s v i 2))
      fun x => { x with volt := smSet 0 x.volt i 0 } := by
  simp [voltStep, hr, ho]

theorem rdN_voltStep (rs : Readings) (s : State) (i : Nat) {a : Nat} (h : senPg + 0x30 ≤ a) (hn : a ≠ senPg + 0x220 + 4 * (i - 72)) :
    rdN (voltStep rs s i) a = rdN s a := by
  unfold voltStep
  split
  · rfl
  · dsimp only
    rw [rdN_modSens, rdN_warnAt _ _ _ h, rdN_wrN_ne _ hn]

theorem sameJudge_voltStep (rs : Readings) (s : State) {i : Nat} (h : i < 88) : SameJudge s (voltStep rs s i) := by
  unfold voltStep
  split
  · exact .rfl' s
  · exact ((sameJudge_wrN s _ (by omega)).trans (sameJudge_warnAt _ _ _)).trans (sameJudge_modSens _ rfl)

section
variable {s : State} {rs : Readings} {l : List Nat} (hl : ∀ j ∈ l, 72 ≤ j ∧ j < 88)
  (ho : ∀ j v, j ∈ l → reading rs j = some v → voltOver s v j 3 = false)
include hl ho

/-- The voltage steps of a sample within the fault limits show every reading. -/
theorem rdN_voltSteps {i : Nat} (hi : i ∈ l) {v : Int} (hr : reading rs i = some v) :
    rdN (each s l (voltStep rs)) (senPg + 0x220 + 4 * (i - 72)) = lowBits 16 v := by
  have hit : ∀ u, SameJudge s u → rdN (voltStep rs u i) (senPg + 0x220 + 4 * (i - 72)) = lowBits 16 v := fun u hu => by
    rw [voltStep_of hr ((hu.voltOver v i 3).trans (ho i v hi hr)), rdN_modSens, rdN_warnAt _ _ _ (by omega), rdN_wrN_same, lowBits_word]
  refine each_reaches (P := SameJudge s) (Q := fun u => rdN u (senPg + 0x220 + 4 * (i - 72)) = lowBits 16 v) hi (.rfl' s)
    (fun u j hj hu => hu.trans (sameJudge_voltStep rs u (hl j hj).2)) hit fun u j hj hu q => ?_
  by_cases e : i = j
  · rw [← e]; exact hit u hu
  · have := hl i hi
    have := hl j hj
    rw [rdN_voltStep _ _ _ (by omega) (by omega), q]

/-- And no voltage counts towards a fault after it. -/
theorem volt_voltSteps {i : Nat} (hi : i ∈ l) (hg : ∀ j ∈ l, ∃ v, reading rs j = some v) :
    smGet 0 (each s l (voltStep rs)).sirvi.sens.volt i = 0 := by
  have step : ∀ u j, j ∈ l → SameJudge s u → smGet 0 (voltStep rs u j).sirvi.sens.volt i = if i = j then 0 else smGet 0 u.sirvi.sens.volt i :=
    fun u j hj hu => by
      obtain ⟨v, hr⟩ := hg j hj
      rw [voltStep_of hr ((hu.voltOver v j 3).trans (ho j v hj hr)), modSens_sens]
      simp [smGet_smSet]
  refine each_reaches (P := SameJudge s) (Q := fun u => smGet 0 u.sirvi.sens.volt i = 0) hi (.rfl' s)
    (fun u j hj hu => hu.trans (sameJudge_voltStep rs u (hl j hj).2)) (fun u hu => by rw [step u i hi hu, if_pos rfl])
    fun u j hj hu q => ?_
  rw [step u j hj hu, q, ite_self]

end

/-! ## Currents, power and the operating point -/

/-- `t` is `s` but for the registers of currents and power, a free value and the counts that no voltage is judged by. -/
structure PowerOnly (s t : State) : Prop extends SameJudge s t where
  low : ∀ a, a < senPg + 0x260 → rdN t a = rdN s a
  volt : t.sirvi.sens.volt = s.sirvi.sens.volt

theorem PowerOnly.rfl' (s : State) : PowerOnly s s := ⟨.rfl' s, fun _ _ => rfl, rfl⟩

theorem PowerOnly.trans {a b c : State} (h : PowerOnly a b) (k : PowerOnly b c) : PowerOnly a c :=
  ⟨h.toSameJudge.trans k.toSameJudge, fun i hi => (k.low i hi).trans (h.low i hi), k.volt.trans h.volt⟩

theorem powerOnly_each {α : Type} {l : List α} {f : State → α → State} (hf : ∀ s a, a ∈ l → PowerOnly s (f s a)) (s : State) :
    PowerOnly s (each s l f) :=
  each_inv (P := PowerOnly s) (fun u a ha h => h.trans (hf u a ha)) (.rfl' s)

theorem powerOnly_wrN (s : State) {a : Nat} (v : Nat) (h : senPg + 0x260 ≤ a ∧ a < senPg + 0x290) : PowerOnly s (wrN s a v) :=
  ⟨sameJudge_wrN s v h.2, fun _ hb => rdN_wrN_ne v (by omega), rfl⟩

theorem powerOnly_modSens (s : State) {f : Sens → Sens} (h : (f s.sirvi.sens).lims = s.sirvi.sens.lims)
    (k : (f s.sirvi.sens).volt = s.sirvi.sens.volt) : PowerOnly s (modSens s f) :=
  ⟨sameJudge_modSens s h, fun _ _ => rfl, k⟩

theorem powerOnly_curStep (rs : Readings) (s : State) {i : Nat} (h : i < 96) : PowerOnly s (curStep rs s i) := by
  unfold curStep
  split
  · split
    · exact .rfl' s
    · exact powerOnly_wrN s _ (by omega)
  · exact .rfl' s

theorem powerOnly_samplePower (s : State) (rs : Readings) : PowerOnly s (samplePower s rs).2 := by
  unfold samplePower
  split
  · exact ⟨⟨rfl, rfl, fun _ _ => rfl⟩, fun _ _ => rfl, rfl⟩
  · exact .rfl' s

theorem powerOnly_powerStep (s : State) (rs : Readings) : PowerOnly s (powerStep s rs) := by
  refine (powerOnly_samplePower s rs).trans ?_
  unfold powerStep
  dsimp only
  generalize (samplePower s rs).2 = u
  split
  · exact powerOnly_modSens u rfl rfl
  · split
    · exact (powerOnly_modSens u rfl rfl).trans (powerOnly_wrN _ _ (by omega))
    · refine ((powerOnly_modSens u rfl rfl).trans (powerOnly_wrN _ _ (by omega))).trans (powerOnly_each (fun w k hk => ?_) _)
      exact powerOnly_wrN w _ (by have := List.mem_range.1 hk; omega)

theorem powerOnly_pointStep (s : State) (rs : Readings) : PowerOnly s (pointStep s rs) := by
  unfold pointStep
  exact powerOnly_modSens s rfl rfl

/-- A sample of good sensors is hot just when some temperature has reached its throttle limit. -/
theorem pointStep_hot {s : State} {rs : Readings} (hf : ∀ i, i < 72 → senFaulty s i = false) (hg : ∀ i, i < 72 → ∃ v, reading rs i = some v) :
    (pointStep s rs).sirvi.sens.hot = true ↔ ∃ i v, i < 72 ∧ reading rs i = some v ∧ limOf s i 1 ≤ v := by
  have hot : (pointStep s rs).sirvi.sens.hot = ((List.range 72).find? fun i => decide (limOf s i 1 ≤ temp s rs i)).isSome := rfl
  rw [hot, List.find?_isSome]
  constructor
  · rintro ⟨i, hi, h⟩
    have hi := List.mem_range.1 hi
    obtain ⟨v, hr⟩ := hg i hi
    rw [temp_good (hf i hi) hr, decide_eq_true_eq] at h
    exact ⟨i, v, hi, hr, h⟩
  · rintro ⟨i, v, hi, hr, h⟩
    exact ⟨i, List.mem_range.2 hi, by rw [temp_good (hf i hi) hr]; exact decide_eq_true h⟩

/-! ## SENSOR_SAMPLE -/

/-- A good reading of a sensor that is not faulty judges nothing. -/
theorem senJudge_good {s : State} {rs : Readings} {i : Nat} (hf : senFaulty s i = false) (hg : goodRead rs i = true) : senJudge rs s i = s := by
  simp [senJudge, hf, hg]

theorem reading_of_good {rs : Readings} {i : Nat} (h : goodRead rs i = true) : ∃ v, reading rs i = some v := by
  unfold goodRead at h
  split at h
  · exact ⟨_, ‹_›⟩
  · cases h

/-- The sensors from `a` on, `n` of them. -/
def sensorsFrom (a n : Nat) : List Nat := (List.range n).map fun k => a + k

theorem mem_sensorsFrom {a n i : Nat} : i ∈ sensorsFrom a n ↔ a ≤ i ∧ i < a + n := by
  simp only [sensorsFrom, List.mem_map, List.mem_range]
  exact ⟨fun ⟨k, hk, e⟩ => by omega, fun h => ⟨i - a, by omega⟩⟩

/-- The state in which a sample has shown every temperature and voltage. -/
def sampleShown (rs : Readings) (s : State) : State :=
  each (each s (sensorsFrom 0 72) (tempStep rs)) (sensorsFrom 72 16) (voltStep rs)

/-- And the state in which the currents, the power and the operating point are judged; `s` is the state that met the sample. -/
def samplePointed (rs : Readings) (s u : State) : State :=
  pointStep (powerStep (if pavg s = 0 then each u (sensorsFrom 88 8) (curStep rs) else u) rs) rs

/-- What ends a sample: a reset at the tenth reading of a voltage beyond its fault limits. -/
def sampleEnd (s : State) : State :=
  match (sensorsFrom 72 16).find? fun i => decide (10 ≤ smGet 0 s.sirvi.sens.volt i) with
  | some i => voltFault (modSens s fun x => { x with volt := [] }) i
  | none => s

theorem sensorSampleEff_of {rs : Readings} {s : State} (hb : s.sirvi.boot = .sirvi ∨ s.sirvi.boot = .ready) :
    sensorSampleEff rs s = sampleEnd (samplePointed rs s (sampleShown rs (each s (sensorsFrom 0 96) (senJudge rs)))) := by
  unfold sensorSampleEff sampleEnd samplePointed sampleShown sensorsFrom
  exact (if_pos hb).trans rfl

theorem sameJudge_tempSteps (rs : Readings) (s : State) : SameJudge s (each s (sensorsFrom 0 72) (tempStep rs)) :=
  sameJudge_each (fun u _ hi => sameJudge_tempStep rs u (by have := mem_sensorsFrom.1 hi; omega)) s

theorem sameJudge_sampleShown (rs : Readings) (s : State) : SameJudge s (sampleShown rs s) :=
  (sameJudge_tempSteps rs s).trans (sameJudge_each (fun u _ hi => sameJudge_voltStep rs u (by have := mem_sensorsFrom.1 hi; omega)) _)

/-- The currents of a sample outside steady mode, then its power. -/
theorem powerOnly_sampled (rs : Readings) (s u : State) :
    PowerOnly u (powerStep (if pavg s = 0 then each u (sensorsFrom 88 8) (curStep rs) else u) rs) := by
  refine PowerOnly.trans ?_ (powerOnly_powerStep _ rs)
  split
  · exact powerOnly_each (fun u _ hi => powerOnly_curStep rs u (by have := mem_sensorsFrom.1 hi; omega)) u
  · exact .rfl' u

theorem powerOnly_samplePointed (rs : Readings) (s u : State) : PowerOnly u (samplePointed rs s u) :=
  (powerOnly_sampled rs s u).trans (powerOnly_pointStep _ rs)

section
variable {s : State} {rs : Readings} (hb : s.sirvi.boot = .sirvi ∨ s.sirvi.boot = .ready)
  (hg : ∀ i, i < 96 → senFaulty s i = false ∧ goodRead rs i = true)
  (hv : ∀ i v, 72 ≤ i → i < 88 → reading rs i = some v → voltOver s v i 3 = false)

include hv in
/-- Within the fault limits no voltage counts towards a fault. -/
theorem volt_sampleShown (hg : ∀ i, i < 96 → goodRead rs i = true) {i : Nat} (hi : i ∈ sensorsFrom 72 16) :
    smGet 0 (sampleShown rs s).sirvi.sens.volt i = 0 := by
  have hj := sameJudge_tempSteps rs s
  exact volt_voltSteps (fun j hj => by have := mem_sensorsFrom.1 hj; omega)
    (fun j v hj' hr => (hj.voltOver v j 3).trans (by have := mem_sensorsFrom.1 hj'; exact hv j v (by omega) (by omega) hr)) hi
    fun j hj => reading_of_good (hg j (by have := mem_sensorsFrom.1 hj; omega))

include hb hg hv in
/-- A sample of good sensors within the fault limits resets nothing: it shows its readings and finds what is due. -/
theorem sensorSample_good : sensorSampleEff rs s = samplePointed rs s (sampleShown rs s) := by
  have h1 : each s (sensorsFrom 0 96) (senJudge rs) = s :=
    each_eq_self fun i hi => by
      have := mem_sensorsFrom.1 hi
      exact senJudge_good (hg i (by omega)).1 (hg i (by omega)).2
  have hnone : (sensorsFrom 72 16).find? (fun i => decide (10 ≤ smGet 0 (samplePointed rs s (sampleShown rs s)).sirvi.sens.volt i)) = none := by
    rw [List.find?_eq_none]
    intro i hi
    rw [(powerOnly_samplePointed rs s _).volt, volt_sampleShown hv (fun j hj => (hg j hj).2) hi]
    decide
  rw [sensorSampleEff_of hb, h1, sampleEnd, hnone]

end

section
variable {s : State} {rs : Readings}

/-- The temperature registers after a good sample. -/
theorem rdN_samplePointed_temp (hf : ∀ i, i < 96 → senFaulty s i = false) {i : Nat} {v : Int} (h : i < 72) (hr : reading rs i = some v) :
    rdN (samplePointed rs s (sampleShown rs s)) (tempReg i) = lowBits 16 v := by
  have hi := tempReg_range h
  have keep : ∀ u j, j ∈ sensorsFrom 72 16 → rdN u (tempReg i) = lowBits 16 v → rdN (voltStep rs u j) (tempReg i) = lowBits 16 v :=
    fun u j hj q => by rw [rdN_voltStep _ _ _ (by omega) (by omega), q]
  rw [(powerOnly_samplePointed rs s _).low _ (by omega)]
  exact each_inv (P := fun u => rdN u (tempReg i) = lowBits 16 v) keep
    (rdN_tempSteps (fun j hj => by have := mem_sensorsFrom.1 hj; omega) (mem_sensorsFrom.2 (by omega)) (hf i (by omega)) hr)

/-- The voltage registers after a good sample within the fault limits. -/
theorem rdN_samplePointed_volt (hv : ∀ i v, 72 ≤ i → i < 88 → reading rs i = some v → voltOver s v i 3 = false) {i : Nat} {v : Int}
    (h : i < 16) (hr : reading rs (72 + i) = some v) : rdN (samplePointed rs s (sampleShown rs s)) (senPg + 0x220 + 4 * i) = lowBits 16 v := by
  rw [(powerOnly_samplePointed rs s _).low _ (by omega)]
  have e := rdN_voltSteps (s := each s (sensorsFrom 0 72) (tempStep rs)) (rs := rs) (l := sensorsFrom 72 16)
    (fun j hj => by have := mem_sensorsFrom.1 hj; omega)
    (fun j v hj hr => ((sameJudge_tempSteps rs s).voltOver v j 3).trans (by have := mem_sensorsFrom.1 hj; exact hv j v (by omega) (by omega) hr))
    (mem_sensorsFrom.2 (show 72 ≤ 72 + i ∧ 72 + i < 72 + 16 by omega)) hr
  rwa [show 72 + i - 72 = i by omega] at e

/-- What a good sample finds of the throttle limits. -/
theorem samplePointed_hot (hg : ∀ i, i < 96 → senFaulty s i = false ∧ goodRead rs i = true) :
    (samplePointed rs s (sampleShown rs s)).sirvi.sens.hot = true ↔ ∃ i v, i < 72 ∧ reading rs i = some v ∧ limOf s i 1 ≤ v := by
  have hj := (sameJudge_sampleShown rs s).trans (powerOnly_sampled rs s (sampleShown rs s)).toSameJudge
  refine (pointStep_hot (fun i hi => (hj.senFaulty i).trans (hg i (by omega)).1) fun i hi => reading_of_good (hg i (by omega)).2).trans ?_
  simp only [hj.limOf]

end

/-! ## The power step -/

theorem powerLimitStep_lowers {s : State} (hu : sirviUp s = true) (hx : s.sirvi.sens.excess = true) (h : opComing s < s.clk.cfg.opfloor) :
    Gives .powerLimitStep s fun t => t.clk.opNext = some (opComing s + 1, false) ∧ rdN t (senPg + 0x284) = 4 ∧
      t.sirvi.sens.excess = false := by
  have e : powerLimitStepEff s =
      opCause { modSens s fun x => { x with excess := false } with clk := { s.clk with opNext := some (opComing s + 1, false) } } false := by
    unfold powerLimitStepEff
    rw [if_pos (by rw [hu, hx]; rfl)]
    exact if_pos h
  refine ⟨_, rfl, ?_⟩
  rw [e]
  exact ⟨rfl, rdN_wrN_same _ _, rfl⟩

theorem powerLimitStep_counts {s : State} (hu : sirviUp s = true) (hx : s.sirvi.sens.excess = true) (h : s.clk.cfg.opfloor ≤ opComing s) :
    Gives .powerLimitStep s fun t => t.clk.opNext = s.clk.opNext ∧ rb t (senPg + 0x14) 3 = true ∧ t.sirvi.sens.excess = false := by
  have e : powerLimitStepEff s = pldmEvent (setEvt (bump (modSens s fun x => { x with excess := false }) senPg 0x2C8) senPg 3) 3 0 := by
    unfold powerLimitStepEff
    rw [if_pos (by rw [hu, hx]; rfl)]
    exact if_neg (not_lt.2 h)
  refine ⟨_, rfl, ?_⟩
  rw [e]
  refine ⟨by simp [modSens], ?_, by simp⟩
  unfold rb
  rw [rdN_pldmEvent]
  exact rb_setEvt _ _ _ (by decide)

theorem powerLimitStep_idle {s : State} (h : sirviUp s = false ∨ s.sirvi.sens.excess = false) : exec .powerLimitStep s = .next s := by
  refine congrArg Host.Outcome.next (if_neg ?_)
  rcases h with e | e <;> simp [e]

/-! ## The summit flush -/

/-- While a sector is left, an entry added to the sectors follows those retained. -/
theorem sectorAdd_flatten {l : List (List (List Byte))} {e : List Byte} (h : l.length < 128) :
    (sectorAdd l e).flatten = l.flatten ++ [e] ∧ (sectorAdd l e).length ≤ l.length + 1 := by
  unfold sectorAdd
  dsimp only
  split
  case isTrue c =>
    have hne := c.1
    rw [List.getLastD_eq_getLast?, List.getLast?_eq_some_getLast hne, Option.getD_some]
    refine ⟨?_, by simp⟩
    have hl : l.flatten = (l.dropLast ++ [l.getLast hne]).flatten := by rw [List.dropLast_append_getLast hne]
    rw [hl]
    simp
  case isFalse c =>
    rw [if_neg (by omega)]
    simp

/-- Entries written while sectors last are all retained, in order. -/
theorem sectorAdds_flatten (b : List (List Byte)) (l : List (List (List Byte))) (h : l.length + b.length ≤ 128) :
    (b.foldl sectorAdd l).flatten = l.flatten ++ b := by
  induction b generalizing l with
  | nil => simp
  | cons e b ih =>
    rw [List.length_cons] at h
    obtain ⟨hf, hn⟩ := sectorAdd_flatten (e := e) (show l.length < 128 by omega)
    rw [List.foldl_cons, ih _ (by omega), hf, List.append_assoc]
    rfl

theorem summitFlush_clean {s : State} (hu : sirviUp s = true) (hg : s.sirvi.summit.gap = 0) : Gives .summitFlush s fun t =>
    t.sirvi.summit.buf = [] ∧ t.sirvi.summit.next = s.sirvi.summit.next ∧ t.sirvi.summit.head = s.sirvi.summit.head ∧
      (s.sirvi.summit.sectors.length + s.sirvi.summit.buf.length ≤ 128 → sumAll t = sumAll s) := by
  have e : summitFlushEff s = modSummit s fun v => { v with buf := [], sectors := v.buf.foldl sectorAdd v.sectors } :=
    (if_pos hu).trans (if_pos hg)
  refine ⟨_, rfl, ?_⟩
  rw [e]
  refine ⟨rfl, rfl, rfl, fun h => ?_⟩
  change (s.sirvi.summit.buf.foldl sectorAdd s.sirvi.summit.sectors).flatten ++ [] = _
  rw [sectorAdds_flatten _ _ h, List.append_nil]
  rfl

theorem summitFlush_gap {s : State} (hu : sirviUp s = true) (hg : s.sirvi.summit.gap ≠ 0) : Gives .summitFlush s fun t =>
    t.sirvi.summit.buf.length = 1 ∧ t.sirvi.summit.next = s.sirvi.summit.next + 1 ∧ t.sirvi.summit.gap = 0 := by
  refine ⟨_, rfl, ?_⟩
  rw [show summitFlushEff s = sumFlush s from if_pos hu]
  unfold sumFlush
  dsimp only
  split
  · exact absurd ‹_› hg
  · exact ⟨rfl, rfl, rfl⟩

/-- Settles O54: a good sample judges nothing and ends in its point step, a second over the limit lowers or counts, a flush appends. -/
theorem sensorsLimitsAndTheSummitFlush : Obligations.SensorsLimitsAndTheSummitFlush := by
  refine ⟨fun s rs hb hg hv => ⟨_, rfl, ?_⟩, fun s rs h h' => ?_, fun s => ⟨fun hu hx => ⟨powerLimitStep_lowers hu hx,
    powerLimitStep_counts hu hx⟩, powerLimitStep_idle⟩, fun s => ⟨summitFlush_clean, summitFlush_gap,
    fun h => congrArg Host.Outcome.next (if_neg (by simp [h]))⟩⟩
  · rw [sensorSample_good hb hg hv]
    refine ⟨(powerOnly_samplePointed rs s _).boot.trans (sameJudge_sampleShown rs s).boot, fun i v hi hr => ?_, fun i v hi hr => ?_,
      fun i v => rdN_samplePointed_volt hv, samplePointed_hot hg⟩
    · have := rdN_samplePointed_temp (fun i hi => (hg i hi).1) (by omega) hr
      rwa [tempReg, if_pos hi] at this
    · have := rdN_samplePointed_temp (fun i hi => (hg i hi).1) (show 64 + i < 72 by omega) hr
      rwa [tempReg, if_neg (by omega), show 64 + i - 64 = i by omega] at this
  · refine congrArg Host.Outcome.next (if_neg ?_)
    rintro (e | e)
    · exact h e
    · exact h' e

end Sys2Proof.Machine
end

section
/-!
SUPPORT. Views: what of the state a reader looks at. `Same v s t` says that the view `v` reads the same in `s` and in `t`. A view is `Calm` when
the work of streams, lanes, HBM, slots and events does not reach it: it may look at the clock, the registers of the first two pages, the
lanes, the flip sets of the partitions and the SEQ and the sides of the streams. Each operation that stays away from these has one
lemma `…_calm`, which lets `Same v` look through it.
-/
namespace Sys2Proof.Machine

section
variable {α : Type} {v : State → α} {F : List Comp} {s0 s t : State}

/-! ## The same view -/

/-- The view reads the same in both states. -/
def Same (v : State → α) (s t : State) : Prop := v t = v s

@[simp] theorem same_refl (v : State → α) (s : State) : Same v s s := rfl

theorem Same.trans {u : State} (h : Same v s t) (k : Same v t u) : Same v s u := Eq.trans k h

theorem Same.iff (h : Same v s t) : Same v s0 t ↔ Same v s0 s := ⟨fun k => Eq.trans (Eq.symm h) k, fun k => k.trans h⟩

@[simp] theorem same_ite {c : Prop} [Decidable c] : Same v s0 (if c then s else t) ↔ (c → Same v s0 s) ∧ (¬c → Same v s0 t) := by
  split <;> simp [*]

@[simp] theorem each_same {β : Type} {l : List β} {f : State → β → State} (hf : ∀ s a, Same v s (f s a)) :
    Same v s0 (each s l f) ↔ Same v s0 s :=
  Same.iff (each_inv (P := Same v s) (fun u a _ h => h.trans (hf u a)) (same_refl v s))

@[simp] theorem foldl_same {β : Type} {l : List β} {f : State → β → State} (hf : ∀ s a, Same v s (f s a)) :
    Same v s0 (l.foldl f s) ↔ Same v s0 s := each_same hf

/-- A fold that carries the state with something else. -/
theorem foldlFst_same {β γ : Type} {l : List β} {f : State × γ → β → State × γ} {p : State × γ} (hf : ∀ p a, Same v p.1 (f p a).1) :
    Same v s0 (l.foldl f p).1 ↔ Same v s0 p.1 := by
  refine Same.iff ?_
  induction l generalizing p with
  | nil => exact same_refl v _
  | cons a l ih => exact (hf p a).trans ih

/-! ## Calm views -/

/-- The components that no calm view looks at. -/
abbrev quietComps : List Comp :=
  [.marks, .pending, .free, .latch, .vfEn, .clw, .vecs, .msgs, .rdata, .pacc, .clus, .slots, .htab, .bundles, .ccmem, .hbm, .hbmBad, .hbmCe,
    .meeBad, .hostMem, .emis, .emLost, .ings, .ports, .keys, .bg, .noc, .cores, .lports, .bly, .sess, .spdm, .ide, .stdy, .aer, .sirvi]

/-- The address lies beyond the tick page. -/
def High (a : Nat) : Prop := 0x2000 ≤ a

/-- What of a stream its flip changes (07_streams_state R199). -/
def Strm.core (x : Strm) : Nat × Nat × Nat := (x.seq, x.lastSeq, x.side)

/-- The view looks at none of the quiet components, at no register beyond the tick page, of a partition at its flip set at most, and of a
stream at its SEQ and side at most. -/
structure Calm (v : State → α) : Prop where
  comps : ∀ s t, Only quietComps s t → v t = v s
  regs : ∀ s a w, High a → v (wr s a w) = v s
  parts : ∀ s n p, p.flipSet = (part s n).flipSet → v (setPart s n p) = v s
  strms : ∀ s h x, Strm.core x = Strm.core (strm s h) → v (setStrm s h x) = v s

/-- The clock and the registers of the first two pages. -/
def stillView (s : State) : Clk × (Fin 0x2000 → Nat) := (s.clk, fun a => rdN s a.val)

/-- The clock, the lanes, the flip sets and what a flip changes of the streams. -/
def flipView (s : State) : Clk × SMap (Option Lane) × (Nat → Option (List Nat)) × (Nat → Nat × Nat × Nat) :=
  (s.clk, s.lanes, fun n => (part s n).flipSet, fun h => Strm.core (strm s h))

theorem calm_still : Calm stillView where
  comps s t h := by
    have hc : t.clk = s.clk := h .clk (by decide)
    have hr : t.regs = s.regs := h .regs (by decide)
    simp only [stillView, hc, rdN_of_regs hr]
  regs s a w h := by
    have hr : (fun b : Fin 0x2000 => rdN (wr s a w) b.val) = fun b => rdN s b.val := by
      funext b
      unfold rdN
      rw [rd_wr_ne]
      have := b.isLt
      unfold High at h
      omega
    exact congrArg (Prod.mk s.clk) hr
  parts _ _ _ _ := rfl
  strms _ _ _ _ := rfl

theorem calm_flip : Calm flipView where
  comps s t h := by
    have hc : t.clk = s.clk := h .clk (by decide)
    have hl : t.lanes = s.lanes := h .lanes (by decide)
    simp only [flipView, hc, hl, part_of_parts (h .parts (by decide)), strm_of_strms (h .strms (by decide))]
  regs _ _ _ _ := rfl
  parts s n p h := by
    have hp : (fun m => (part (setPart s n p) m).flipSet) = fun m => (part s m).flipSet := by
      funext m
      rw [part_setPart]
      split
      · rw [h, ‹m = n›]
      · rfl
    exact congrArg (fun x => (s.clk, s.lanes, x, fun h => Strm.core (strm s h))) hp
  strms s h x hx := by
    have hs : (fun g => Strm.core (strm (setStrm s h x) g)) = fun g => Strm.core (strm s g) := by
      funext g
      rw [strm_setStrm]
      split
      · rw [hx, ‹g = h›]
      · rfl
    exact congrArg (fun y => (s.clk, s.lanes, (fun n => (part s n).flipSet), y)) hs

/-! ## Addresses beyond the tick page -/

@[simp] theorem high_clPg (n o : Nat) : High (clPg n + o) := by unfold High clPg; omega
@[simp] theorem high_partPg (n o : Nat) : High (partPg n + o) := by unfold High partPg; omega
@[simp] theorem high_tblPg (n o : Nat) : High (tblPg n + o) := by unfold High tblPg; omega
@[simp] theorem high_ptyPg (n o : Nat) : High (ptyPg n + o) := by unfold High ptyPg; omega
@[simp] theorem high_ingPg (n o : Nat) : High (ingPg n + o) := by unfold High ingPg; omega
@[simp] theorem high_stkPg (n o : Nat) : High (stkPg n + o) := by unfold High stkPg; omega
@[simp] theorem high_bgPg (o : Nat) : High (bgPg + o) := by unfold High bgPg; omega
@[simp] theorem high_page_clPg (n : Nat) : High (clPg n) := high_clPg n 0
@[simp] theorem high_page_partPg (n : Nat) : High (partPg n) := high_partPg n 0
@[simp] theorem high_page_ptyPg (n : Nat) : High (ptyPg n) := high_ptyPg n 0
@[simp] theorem high_page_ingPg (n : Nat) : High (ingPg n) := high_ingPg n 0
@[simp] theorem high_page_stkPg (n : Nat) : High (stkPg n) := high_stkPg n 0
@[simp] theorem high_page_bgPg : High bgPg := high_bgPg 0

theorem High.add {a : Nat} (h : High a) (b : Nat) : High (a + b) := Nat.le_trans h (Nat.le_add_right a b)

/-! ## Operations that a calm view does not see -/

theorem Calm.iff_only (hv : Calm v) (h : Only quietComps s t) : Same v s0 t ↔ Same v s0 s := Same.iff (hv.comps s t h)

theorem hbmPut_only (s : State) (a : Nat) (l : List Byte) : Only [.hbm, .hbmCe] s (hbmPut s a l) :=
  Only.graft [.hbm, .hbmCe] s (hbmPut s a l)

theorem hbmClear_only (s : State) (a n : Nat) : Only [.hbm, .hbmBad, .hbmCe, .meeBad] s (hbmClear s a n) :=
  Only.graft [.hbm, .hbmBad, .hbmCe, .meeBad] s (hbmClear s a n)

theorem unpoison_only (s : State) (b m : SMap Bool) : Only [.hbmBad, .meeBad] s { s with hbmBad := b, meeBad := m } :=
  Only.graft [.hbmBad, .meeBad] s { s with hbmBad := b, meeBad := m }

section
variable (hv : Calm v)
include hv

@[simp] theorem wr_calm {a : Nat} {w : Word} (h : High a) : Same v s0 (wr s a w) ↔ Same v s0 s := Same.iff (hv.regs s a w h)

@[simp] theorem wrN_calm {a w : Nat} (h : High a) : Same v s0 (wrN s a w) ↔ Same v s0 s := wr_calm hv h

@[simp] theorem wf_calm {a lo len w : Nat} (h : High a) : Same v s0 (wf s a lo len w) ↔ Same v s0 s := wrN_calm hv h

@[simp] theorem wr64_calm {a w : Nat} (h : High a) : Same v s0 (wr64 s a w) ↔ Same v s0 s := by
  rw [wr64, wrN_calm hv (h.add 4), wrN_calm hv h]

@[simp] theorem add64_calm {a n : Nat} (h : High a) : Same v s0 (add64 s a n) ↔ Same v s0 s := by
  unfold add64
  split
  · rfl
  · exact wr64_calm hv h

@[simp] theorem setPart_calm {n : Nat} {p : Part} (h : p.flipSet = (part s n).flipSet) : Same v s0 (setPart s n p) ↔ Same v s0 s :=
  Same.iff (hv.parts s n p h)

@[simp] theorem modPart_calm {n : Nat} {f : Part → Part} (h : ∀ p, (f p).flipSet = p.flipSet) : Same v s0 (modPart s n f) ↔ Same v s0 s :=
  setPart_calm hv (h _)

@[simp] theorem modStrm_calm {h : Nat} {f : Strm → Strm}
    (hf : ∀ x, (f x).seq = x.seq ∧ (f x).lastSeq = x.lastSeq ∧ (f x).side = x.side) : Same v s0 (modStrm s h f) ↔ Same v s0 s := by
  obtain ⟨hq, hl, hs⟩ := hf (strm s h)
  exact Same.iff (hv.strms s h _ (by rw [Strm.core, hq, hl, hs]; rfl))

@[simp] theorem setJob_calm {n j : Nat} {x : Job} : Same v s0 (setJob s n j x) ↔ Same v s0 s := modPart_calm hv fun _ => rfl

@[simp] theorem modJob_calm {n j : Nat} {f : Job → Job} : Same v s0 (modJob s n j f) ↔ Same v s0 s := setJob_calm hv

@[simp] theorem setSlot_calm {c i : Nat} {x : Slot} : Same v s0 (setSlot s c i x) ↔ Same v s0 s := hv.iff_only (by simp)

@[simp] theorem modSlot_calm {c i : Nat} {f : Slot → Slot} : Same v s0 (modSlot s c i f) ↔ Same v s0 s := hv.iff_only (by simp)

@[simp] theorem zeroSlots_calm {l : List (Nat × Nat)} {b : Bool} : Same v s0 (zeroSlots s l b) ↔ Same v s0 s := hv.iff_only (by simp)

@[simp] theorem tagSlots_calm {l : List (Nat × Nat)} {b : Bool} : Same v s0 (tagSlots s l b) ↔ Same v s0 s := hv.iff_only (by simp)

@[simp] theorem modClu_calm {c : Nat} {f : Clus → Clus} : Same v s0 (modClu s c f) ↔ Same v s0 s := hv.iff_only (by simp)

@[simp] theorem setClu_calm {c : Nat} {x : Clus} : Same v s0 (setClu s c x) ↔ Same v s0 s := hv.iff_only (by simp)

@[simp] theorem modBly_calm {n : Nat} {f : Bly → Bly} : Same v s0 (modBly s n f) ↔ Same v s0 s := hv.iff_only (by simp)

@[simp] theorem modIng_calm {n : Nat} {f : Ing → Ing} : Same v s0 (modIng s n f) ↔ Same v s0 s := hv.iff_only (by simp)

@[simp] theorem modPrt_calm {p : Nat} {f : Port → Port} : Same v s0 (modPrt s p f) ↔ Same v s0 s := hv.iff_only (by simp)

@[simp] theorem setKeySlot_calm {i : Nat} {x : KeySlot} : Same v s0 (setKeySlot s i x) ↔ Same v s0 s := hv.iff_only (by simp)

@[simp] theorem modStdy_calm {p : Nat} {f : Stdy → Stdy} : Same v s0 (modStdy s p f) ↔ Same v s0 s := hv.iff_only (by simp)

@[simp] theorem setBg_calm {a : Nat} {x : BgAct} : Same v s0 (setBg s a x) ↔ Same v s0 s := hv.iff_only (by simp)

@[simp] theorem setPacc_calm {p : Nat} {x : PartyAcc} : Same v s0 (setPacc s p x) ↔ Same v s0 s := hv.iff_only (by simp)

@[simp] theorem charge_calm {n : Nat} {f : Acc → Acc} : Same v s0 (charge s n f) ↔ Same v s0 s := hv.iff_only (by simp)

@[simp] theorem countBytes_calm {n k : Nat} : Same v s0 (countBytes s n k) ↔ Same v s0 s := hv.iff_only (by simp)

@[simp] theorem strmCharge_calm {h a b : Nat} : Same v s0 (strmCharge s h a b) ↔ Same v s0 s := hv.iff_only (by simp [strmCharge])

@[simp] theorem fresh_calm : Same v s0 (fresh s).2 ↔ Same v s0 s := hv.iff_only (by simp)

@[simp] theorem irqSync_calm {a : State} {pg : Nat} {c : Bool} : Same v s0 (irqSync a s pg c) ↔ Same v s0 s := hv.iff_only (by simp)

@[simp] theorem irqSyncs_calm {a : State} {pgs : List Nat} : Same v s0 (irqSyncs a s pgs) ↔ Same v s0 s := hv.iff_only (by simp)

@[simp] theorem markEvt_calm {pg bit : Nat} : Same v s0 (markEvt s pg bit) ↔ Same v s0 s := hv.iff_only (by simp)

@[simp] theorem markCnt_calm {a n : Nat} : Same v s0 (markCnt s a n) ↔ Same v s0 s := hv.iff_only (by simp)

@[simp] theorem markRow_calm {a : Nat} : Same v s0 (markRow s a) ↔ Same v s0 s := hv.iff_only (by simp)

@[simp] theorem rowCe_calm {a : Nat} : Same v s0 (rowCe s a) ↔ Same v s0 s := hv.iff_only (by simp)

@[simp] theorem sumCmd_calm {a b c d e : Nat} {l : List Byte} : Same v s0 (sumCmd s a b c d e l) ↔ Same v s0 s := hv.iff_only (by simp)

@[simp] theorem sumDev_calm {a b c : Nat} {l : List Byte} : Same v s0 (sumDev s a b c l) ↔ Same v s0 s := hv.iff_only (by simp)

@[simp] theorem runHandler_calm {c j : Nat} {h : Hnd} : Same v s0 (runHandler s c h j) ↔ Same v s0 s := hv.iff_only (by simp)

@[simp] theorem hbmPut_calm {a : Nat} {l : List Byte} : Same v s0 (hbmPut s a l) ↔ Same v s0 s :=
  hv.iff_only ((hbmPut_only s a l).mono (by simp))

/-! ## Events and counters -/

@[simp] theorem capture_calm {pg bit d : Nat} {test : Bool} (h : High pg) : Same v s0 (capture s pg bit test d) ↔ Same v s0 s := by
  unfold capture
  split
  · rfl
  · rw [wrN_calm hv (h.add _), wrN_calm hv (h.add _), wrN_calm hv (h.add _), wrN_calm hv (h.add _)]

@[simp] theorem setEvt_calm {pg bit d : Nat} (h : High pg) : Same v s0 (setEvt s pg bit d) ↔ Same v s0 s := by
  refine Same.iff ?_
  unfold setEvt setEvtT
  dsimp only
  rw [irqSync_calm hv]
  split <;> simp [hv, h, h.add]

@[simp] theorem bumpBy_calm {pg off n : Nat} (h : High pg) : Same v s0 (bumpBy s pg off n) ↔ Same v s0 s := by
  refine Same.iff ?_
  unfold bumpBy
  split
  · rfl
  · split
    · have hs : ∀ p sat, High (satAddr p pg off sat) := fun p sat => (h.add sat).add _
      simp [hv, h, h.add, hs]
    · rfl

@[simp] theorem bump_calm {pg off : Nat} (h : High pg) : Same v s0 (bump s pg off) ↔ Same v s0 s := bumpBy_calm hv h

@[simp] theorem pushRaw_calm {n : Nat} {r : EmRec} : Same v s0 (pushRaw s n r) ↔ Same v s0 s := by
  refine Same.iff ?_
  unfold pushRaw
  split
  · exact hv.comps _ _ (by simp)
  · simp only [setEvt_calm hv (high_page_ingPg n), bump_calm hv (high_page_ingPg n)]
    exact hv.comps _ _ (by simp)

@[simp] theorem pushRec_calm {n : Nat} {r : EmRec} : Same v s0 (pushRec s n r) ↔ Same v s0 s := by
  refine Same.iff ?_
  unfold pushRec
  dsimp only
  split
  · simp only [pushRaw_calm hv]
    exact hv.comps _ _ (by simp)
  · simp [hv]

@[simp] theorem strmEvent_calm {h a b c d e : Nat} : Same v s0 (strmEvent s h a b c d e) ↔ Same v s0 s := pushRec_calm hv

@[simp] theorem faultStrm_calm {h tick ts : Nat} : Same v s0 (faultStrm s h tick ts) ↔ Same v s0 s := by
  simp [faultStrm, hv]

/-! ## Scratchpad and HBM -/

@[simp] theorem countUe_calm {core i : Nat} {l : List Nat} : Same v s0 (countUe s core i l) ↔ Same v s0 s := by
  refine Same.iff ?_
  unfold countUe
  split
  · rfl
  · simp [hv]

@[simp] theorem correct_calm {core i : Nat} {l : List Nat} : Same v s0 (correct s core i l) ↔ Same v s0 s := Same.iff (by simp [correct, hv])

@[simp] theorem readSlot_calm {core i off n : Nat} : Same v s0 (readSlot s core i off n) ↔ Same v s0 s := by
  rw [readSlot, countUe_calm hv, correct_calm hv]

@[simp] theorem readSlots_calm {l : List (Nat × Nat)} : Same v s0 (readSlots s l) ↔ Same v s0 s := Same.iff (by simp [readSlots, hv])

@[simp] theorem slotEff_calm {core i off : Nat} {l : List Byte} {b : Option Bool} : Same v s0 (slotEff s core i off l b) ↔ Same v s0 s := by
  simp [slotEff, hv]

@[simp] theorem freeStore_calm {c : Chunk} : Same v s0 (freeStore s c) ↔ Same v s0 s := by
  refine Same.iff ?_
  unfold freeStore
  split <;> simp [hv]

@[simp] theorem hbmCeWord_calm {w : Nat} : Same v s0 (hbmCeWord s w) ↔ Same v s0 s := by
  rw [hbmCeWord, rowCe_calm hv, bump_calm hv (high_page_stkPg _)]
  exact hv.iff_only (by simp)

@[simp] theorem hbmFix_calm {a n : Nat} : Same v s0 (hbmFix s a n) ↔ Same v s0 s := Same.iff (by simp [hbmFix, hv])

@[simp] theorem hbmEnds_calm {a n lo hi : Nat} : Same v s0 (hbmEnds s a n lo hi) ↔ Same v s0 s := Same.iff (by simp [hbmEnds, hv])

@[simp] theorem hbmUeWord_calm {w : Nat} : Same v s0 (hbmUeWord s w) ↔ Same v s0 s := Same.iff (by simp [hbmUeWord, hv])

@[simp] theorem hbmEcc_calm {a n : Nat} : Same v s0 (hbmEcc s a n) ↔ Same v s0 s := Same.iff (by simp [hbmEcc, hv])

@[simp] theorem meeErr_calm {g : Nat} : Same v s0 (meeErr s g) ↔ Same v s0 s := by
  have h : High meePg := by unfold High; decide
  rw [meeErr, setEvt_calm hv h, bump_calm hv h]

@[simp] theorem hbmUe_calm {a n : Nat} : Same v s0 (hbmUe s a n) ↔ Same v s0 s := Same.iff (by simp [hbmUe, hv])

@[simp] theorem hbmWriteGran_calm {a lo hi g : Nat} {l : List Byte} : Same v s0 (hbmWriteGran s a l lo hi g).1 ↔ Same v s0 s := by
  refine Same.iff ?_
  unfold hbmWriteGran
  dsimp only
  split
  · simp [hv]
  · split
    · rw [hbmPut_calm hv]
      exact hv.comps _ _ ((unpoison_only s _ _).mono (by simp))
    · simp [hv]

@[simp] theorem hbmWriteIn_calm {a lo hi : Nat} {l : List Byte} : Same v s0 (hbmWriteIn s a l lo hi).1 ↔ Same v s0 s := by
  refine Same.iff ?_
  unfold hbmWriteIn
  split
  · rfl
  · split
    · simp [hv]
    · exact (foldlFst_same fun p k => by simp [hv]).2 (by simp [hv])

@[simp] theorem hbmWrite_calm {a : Nat} {l : List Byte} : Same v s0 (hbmWrite s a l).1 ↔ Same v s0 s := hbmWriteIn_calm hv

@[simp] theorem hbmClear_calm {a n : Nat} : Same v s0 (hbmClear s a n) ↔ Same v s0 s :=
  hv.iff_only ((hbmClear_only s a n).mono (by simp))

/-! ## Background work, slack and pitches -/

@[simp] theorem scrubGrans_calm {k : Nat} : Same v s0 (scrubGrans s k) ↔ Same v s0 s := by
  have h : High (operPg + 0x110) := by unfold High; decide
  rw [scrubGrans, add64_calm hv h, hbmEcc_calm hv, setBg_calm hv]

@[simp] theorem scrubSlots_calm {c lo hi : Nat} : Same v s0 (scrubSlots s c lo hi) ↔ Same v s0 s := Same.iff (by simp [scrubSlots, hv])

@[simp] theorem scrubUnits_calm {a c k : Nat} : Same v s0 (scrubUnits s a c k) ↔ Same v s0 s := Same.iff (by simp [scrubUnits, hv])

@[simp] theorem bgDo_calm {n a cyc : Nat} : Same v s0 (bgDo s n a cyc) ↔ Same v s0 s := Same.iff (by simp [bgDo, hv])

@[simp] theorem bgClaims_calm {n pool : Nat} : Same v s0 (bgClaims s n pool).1 ↔ Same v s0 s :=
  foldlFst_same fun p a => by dsimp only; split <;> simp [hv]

@[simp] theorem openSeg_calm {n now : Nat} : Same v s0 (openSeg s n now) ↔ Same v s0 s := Same.iff (by simp [openSeg, hv])

@[simp] theorem abandonClus_calm {j c : Nat} {ls : List (Nat × Nat)} : Same v s0 (abandonClus s j ls c) ↔ Same v s0 s := by
  refine Same.iff ?_
  unfold abandonClus
  dsimp only
  rw [each_same, bumpBy_calm hv (high_page_clPg c), setClu_calm hv]
  · exact same_refl v s
  · intro u i
    split
    · rw [modClu_calm hv, bumpBy_calm hv (high_page_clPg c)]
      exact hv.comps _ _ (by simp)
    · rfl

@[simp] theorem abandonRead_calm {c : Nat} : Same v s0 (abandonRead s c) ↔ Same v s0 s := Same.iff (by simp [abandonRead, hv])

@[simp] theorem abandonRx_calm {n j : Nat} : Same v s0 (abandonRx s n j) ↔ Same v s0 s := Same.iff (by simp [abandonRx, hv])

@[simp] theorem tally_calm {n j a b : Nat} : Same v s0 (tally s n j a b) ↔ Same v s0 s := Same.iff (by simp [tally, hv])

@[simp] theorem countStalls_calm {n e : Nat} {p : Pitch} : Same v s0 (countStalls s n p e) ↔ Same v s0 s :=
  Same.iff (by simp [countStalls, hv])

@[simp] theorem returnPool_calm {n k : Nat} : Same v s0 (returnPool s n k) ↔ Same v s0 s := by simp [returnPool, hv]

@[simp] theorem endPitch_calm {n e : Nat} : Same v s0 (endPitch s n e) ↔ Same v s0 s := by
  refine Same.iff ?_
  unfold endPitch
  split
  · rfl
  · simp [hv]

@[simp] theorem stopPitch_calm {n : Nat} : Same v s0 (stopPitch s n) ↔ Same v s0 s := by
  unfold stopPitch
  split
  · exact endPitch_calm hv
  · rfl

end

end

end Sys2Proof.Machine
end

section
/-!
SUPPORT. The operations of the edge and of the flip that no calm view sees: streams and their chunks, ingest and emission, links and belay, the KV
engine, background work, and what the edge counts (01_tick R25-R32; 07_streams_state R193-R202; 08_attention R221-R226).
-/
namespace Sys2Proof.Machine

section
variable {α : Type} {v : State → α} {s0 s t : State} (hv : Calm v)
include hv

/-! ## Streams and chunks -/

@[simp] theorem retireIdx_calm {n i : Nat} : Same v s0 (retireIdx s n i) ↔ Same v s0 s := Same.iff (by simp [retireIdx, hv])

@[simp] theorem retireChunk_calm {n : Nat} {c : Chunk} : Same v s0 (retireChunk s n c) ↔ Same v s0 s := Same.iff (by simp [retireChunk, hv])

@[simp] theorem retireAll_calm {h : Nat} : Same v s0 (retireAll s h) ↔ Same v s0 s := Same.iff (by simp [retireAll, hv])

@[simp] theorem badChunk_calm {h : Nat} {c : Chunk} : Same v s0 (badChunk h s c) ↔ Same v s0 s := Same.iff (by simp [badChunk, hv])

@[simp] theorem dropChunk_calm {h : Nat} {c : Chunk} : Same v s0 (dropChunk s h c) ↔ Same v s0 s := Same.iff (by simp [dropChunk, hv])

@[simp] theorem flushChunks_calm {h : Nat} {f : State → Chunk → State} (hf : ∀ s c, Same v s (f s c)) :
    Same v s0 (flushChunks s h f) ↔ Same v s0 s := by
  rw [flushChunks, each_same hf]
  simp [hv]

@[simp] theorem freePlaceOf_calm {h : Nat} : Same v s0 (freePlaceOf s h) ↔ Same v s0 s := Same.iff (by simp [freePlaceOf, hv])

@[simp] theorem strmOutcome_calm {h : Nat} : Same v s0 (strmOutcome s h) ↔ Same v s0 s := by
  refine Same.iff ?_
  unfold strmOutcome
  dsimp only
  cases (strm s h).done <;> simp [hv]

@[simp] theorem sideRead_calm {h : Nat} : Same v s0 (sideRead s h) ↔ Same v s0 s := Same.iff (by simp [sideRead, hv])

/-- A sealed blob, where it is formed, leaves the state in which its side has been read. -/
theorem sealBlob_calm {h : Nat} {z : Option Seal} {b : State × List Byte} (e : sealBlob s h z = some b) : Same v s b.1 := by
  unfold sealBlob at e
  obtain ⟨z', -, rfl⟩ := Option.map_eq_some_iff.1 e
  exact (sideRead_calm hv).2 (same_refl v s)

/-- An abandoned blob write has read its side, where it had one, and written a part of the blob. -/
theorem abandonBlob_calm {h a : Nat} {b : Option (State × List Byte)} (hb : ∀ p, b = some p → Same v s p.1) :
    Same v s (abandonBlob s h a b) := by
  unfold abandonBlob
  split
  · exact same_refl v s
  · simpa [hv] using hb _ rfl

@[simp] theorem abandonXfer_calm {h : Nat} : Same v s0 (abandonXfer s h) ↔ Same v s0 s := by
  have hidle : ∀ (u : State) n, Same v u (wf u (strmStat n) 1 1 0) := fun u n => by simp [strmStat, hv]
  have hseal : ∀ (u : State) z a, Same v u (abandonBlob u h a (sealBlob u h z)) := fun u z a => abandonBlob_calm hv fun p e => sealBlob_calm hv e
  have hput : ∀ (u : State) a l, Same v u (abandonBlob u h a (some (u, l))) := fun u a l =>
    abandonBlob_calm hv fun p e => by cases e; exact same_refl v u
  refine Same.iff ?_
  unfold abandonXfer
  extract_lets x hidle' s1
  have h1 : Same v s s1 := by
    unfold s1
    split
    · exact hidle s _
    all_goals exact same_refl v s
  split
  · exact h1
  · exact h1
  · exact h1
  · exact h1.trans (hseal s1 _ _)
  · exact (h1.trans (hseal s1 _ _)).trans (hidle _ _)
  · exact (h1.trans (hput s1 _ _)).trans (hidle _ _)
  · exact (h1.trans (hput s1 _ _)).trans (hidle _ _)

@[simp] theorem closeNow_calm {h : Nat} : Same v s0 (closeNow s h) ↔ Same v s0 s := Same.iff (by simp [closeNow, hv])

@[simp] theorem request_calm {n h : Nat} {r : SReq} : Same v s0 (request s n h r) ↔ Same v s0 s := by
  refine Same.iff ?_
  unfold request
  dsimp only
  split <;> simp [hv, strmStat]

@[simp] theorem teardownStrms_calm {n : Nat} : Same v s0 (teardownStrms s n) ↔ Same v s0 s :=
  each_same fun u h => by cases (strm u h).st <;> simp [hv]

@[simp] theorem idleEdge_calm : Same v s0 (idleEdge s) ↔ Same v s0 s := Same.iff (by simp [idleEdge, hv])

@[simp] theorem markReload_calm {h : Nat} : Same v s0 (markReload s h) ↔ Same v s0 s := Same.iff (by simp [markReload, hv])

@[simp] theorem giveBack_calm {l : Lane} : Same v s0 (giveBack s l) ↔ Same v s0 s := Same.iff (by simp [giveBack, hv])

@[simp] theorem holdDrops_calm {h : Nat} : Same v s0 (holdDrops s h) ↔ Same v s0 s := Same.iff (by simp [holdDrops, hv])

@[simp] theorem takeSeal_calm {h : Nat} {put : Option Seal → Strm → Strm}
    (hp : ∀ z x, (put z x).seq = x.seq ∧ (put z x).lastSeq = x.lastSeq ∧ (put z x).side = x.side) :
    Same v s0 (takeSeal s h put) ↔ Same v s0 s := by
  refine Same.iff ?_
  unfold takeSeal
  split
  · simp [hv, hp]
  · dsimp only
    split <;> simp [hv, hp]

@[simp] theorem sealNow_calm {h : Nat} : Same v s0 (sealNow s h) ↔ Same v s0 s := takeSeal_calm hv fun _ _ => ⟨rfl, rfl, rfl⟩

@[simp] theorem queueWrites_calm : Same v s0 (queueWrites s) ↔ Same v s0 s := Same.iff (by simp [queueWrites, hv])

@[simp] theorem stepPark_calm {h : Nat} : Same v s0 (stepPark s h) ↔ Same v s0 s := Same.iff (by simp [stepPark, beginPark, iff, hv])

@[simp] theorem stepExport_calm {h : Nat} : Same v s0 (stepExport s h) ↔ Same v s0 s := by
  refine Same.iff ?_
  unfold stepExport
  dsimp only
  cases (strm s h).req <;> simp [iff, hv]

@[simp] theorem agePart_calm {n : Nat} : Same v s0 (agePart s n) ↔ Same v s0 s := Same.iff (by simp [agePart, hv])

@[simp] theorem markUnbound_calm {n : Nat} : Same v s0 (markUnbound s n) ↔ Same v s0 s := Same.iff (by simp [markUnbound, hv])

@[simp] theorem concealed_calm {h : Nat} {c : Chunk} : Same v s0 (concealed s h c) ↔ Same v s0 s := by
  refine Same.iff ?_
  unfold concealed
  split <;> simp [hv]

/-! ## The dispatch -/

@[simp] theorem feOverrun_calm {n : Nat} : Same v s0 (feOverrun s n) ↔ Same v s0 s := Same.iff (by simp [feOverrun, hv])

@[simp] theorem dispatchHandlers_calm {n : Nat} : Same v s0 (dispatchHandlers s n) ↔ Same v s0 s :=
  each_same fun u c => (each_same fun w j => by simp [hv]).2 (same_refl v u)

@[simp] theorem putContext_calm {h : Nat} {p : List Byte} {c : Chunk} : Same v s0 (putContext s h p c) ↔ Same v s0 s :=
  Same.iff (by simp [putContext, hv])

@[simp] theorem copyFeatures_calm {k : Nat} {p : List Byte} {c : Chunk} : Same v s0 (copyFeatures s p k c) ↔ Same v s0 s := by
  refine Same.iff ?_
  unfold copyFeatures
  split <;> simp [hv]

@[simp] theorem fillRows_calm {n j c : Nat} : Same v s0 (fillRows s n j c) ↔ Same v s0 s :=
  each_same fun u r => (each_same fun w l => by simp [hv]).2 (same_refl v u)

/-! ## Parties, background work and outputs at the edge -/

@[simp] theorem rotateEdge_calm {i : Nat} : Same v s0 (rotateEdge s i) ↔ Same v s0 s := by
  refine Same.iff ?_
  unfold rotateEdge
  dsimp only
  split <;> simp [hv]

@[simp] theorem setShield_calm {p : Nat} {b : Bool} : Same v s0 (setShield s p b) ↔ Same v s0 s := Same.iff (by simp [setShield, hv])

@[simp] theorem putBudgets_calm {p e g : Nat} {b : List Nat} : Same v s0 (putBudgets s p b e g) ↔ Same v s0 s := by
  have h : ∀ i, High (ptyPg p + 0x240 + 8 * i) := fun i => (high_ptyPg p 0x240).add _
  exact Same.iff (by simp [putBudgets, hv, h])

@[simp] theorem steadyEdge_calm {p : Nat} : Same v s0 (steadyEdge s p) ↔ Same v s0 s := by
  refine Same.iff ?_
  unfold steadyEdge
  dsimp only
  split
  · simp [hv]
  · split
    · rw [sumCmd_calm hv, setShield_calm hv, modStdy_calm hv, wf_calm hv (high_ptyPg p _), wf_calm hv (high_ptyPg p _)]
      split <;> simp [hv]
    · rfl

@[simp] theorem partiesEdge_calm : Same v s0 (partiesEdge s) ↔ Same v s0 s := Same.iff (by simp [partiesEdge, hv])

@[simp] theorem setStage_calm {a st : Nat} : Same v s0 (setStage s a st) ↔ Same v s0 s := by
  have h := ((high_bgPg 0x100).add (0x10 * a))
  exact Same.iff (by simp [setStage, hv, h])

@[simp] theorem enterNormal_calm {a : Nat} : Same v s0 (enterNormal s a) ↔ Same v s0 s := by
  have h : ∀ k, High (bgPg + 0x190 + 4 * k) := fun k => (high_bgPg 0x190).add _
  exact Same.iff (by simp [enterNormal, hv, h])

@[simp] theorem bgUncov_calm {a thr : Nat} : Same v s0 (bgUncov s a thr).1 ↔ Same v s0 s := by
  have h : ∀ k, High (bgPg + 0x190 + 4 * k) := fun k => (high_bgPg 0x190).add _
  refine Same.iff ?_
  unfold bgUncov
  dsimp only
  split
  · simp [hv, h]
  · split <;> simp [hv]

@[simp] theorem enterStarved_calm {a lag thr : Nat} : Same v s0 (enterStarved s a lag thr) ↔ Same v s0 s :=
  Same.iff (by simp [enterStarved, hv])

@[simp] theorem stageEdge_calm {a : Nat} : Same v s0 (stageEdge s a) ↔ Same v s0 s := by
  have h1 := (high_bgPg 0x100).add (0x10 * a)
  have h2 := (high_bgPg 0x104).add (0x10 * a)
  exact Same.iff (by simp [stageEdge, hv, h1, h2])

@[simp] theorem passEdge_calm {a : Nat} : Same v s0 (passEdge s a) ↔ Same v s0 s := Same.iff (by simp [passEdge, hv])

@[simp] theorem bgEdge_calm : Same v s0 (bgEdge s) ↔ Same v s0 s := Same.iff (by simp [bgEdge, hv])

@[simp] theorem outEdge_calm {p : Nat} : Same v s0 (outEdge s p) ↔ Same v s0 s := Same.iff (by simp [outEdge, hv])

/-! ## Partitions and jobs at the edge -/

@[simp] theorem sumsReset_calm {n : Nat} : Same v s0 (sumsReset s n) ↔ Same v s0 s := Same.iff (by simp [sumsReset, hv])

@[simp] theorem jobEdge_calm {n j : Nat} : Same v s0 (jobEdge s n j) ↔ Same v s0 s := Same.iff (by simp [jobEdge, hv])

@[simp] theorem setSt_calm {n : Nat} {st : PState} : Same v s0 (setSt s n st) ↔ Same v s0 s := Same.iff (by simp [setSt, hv])

@[simp] theorem swapTable_calm {n : Nat} : Same v s0 (swapTable s n) ↔ Same v s0 s := by
  have h : ∀ e, High (tblPg n + 0x100 + 8 * e) := fun e => (high_tblPg n 0x100).add _
  exact Same.iff (by simp [swapTable, hv, h])

@[simp] theorem indexEdge_calm {n : Nat} : Same v s0 (indexEdge s n) ↔ Same v s0 s := Same.iff (by simp [indexEdge, hv])

@[simp] theorem cmdEdge_calm {n : Nat} : Same v s0 (cmdEdge s n) ↔ Same v s0 s := by
  refine Same.iff ?_
  unfold cmdEdge
  split
  · rfl
  · split
    · rfl
    · dsimp only
      split <;> simp [hv]

@[simp] theorem rxWrite_calm {n : Nat} {l : List (Nat × Nat × List Byte)} {held : List (Nat × Nat)} :
    Same v s0 (rxWrite n l held s).1 ↔ Same v s0 s := by
  refine Same.iff ?_
  induction l generalizing s with
  | nil => exact same_refl v s
  | cons q r ih =>
    unfold rxWrite
    split
    · rfl
    · exact Same.trans (by simp [hv]) ih

@[simp] theorem rxPump_calm {n : Nat} : Same v s0 (rxPump s n) ↔ Same v s0 s := by
  refine Same.iff ?_
  unfold rxPump
  dsimp only
  split
  · rfl
  · rw [modBly_calm hv]
    exact (foldlFst_same fun p m => by simp [hv]).2 (same_refl v s)

@[simp] theorem slowEdge_calm {n : Nat} : Same v s0 (slowEdge s n) ↔ Same v s0 s := Same.iff (by simp [slowEdge, hv])

@[simp] theorem accAdvance_calm {p : Nat} {a : Acc} : Same v s0 (accAdvance s p a) ↔ Same v s0 s := by
  have h : ∀ o k, High (ptyPg p + o + k) := fun o k => (high_ptyPg p o).add k
  exact Same.iff (by simp [accAdvance, hv, h])

@[simp] theorem partyEdge_calm {b : Bool} {p : Nat} : Same v s0 (partyEdge b s p) ↔ Same v s0 s := Same.iff (by simp [partyEdge, hv])

@[simp] theorem tickTotals_calm : Same v s0 (tickTotals s) ↔ Same v s0 s := by
  have h : High (operPg + 0x100) := by unfold High; decide
  exact Same.iff (by simp [tickTotals, hv, h])

/-! ## Links, belay and emission at the flip -/

/-- A message sent is charged and stands in its port. -/
theorem blySend_calm {n c slice j owner : Nat} {k : MKind} {body : List Byte} (e : blySend s n c k slice j body owner = some t) :
    Same v s t := hv.comps _ _ ((blySend_frame e).mono (by simp))

@[simp] theorem sendAdv_calm {n h : Nat} : Same v s0 (sendAdv s n h) ↔ Same v s0 s := by
  refine Same.iff ?_
  unfold sendAdv
  dsimp only
  generalize e : blySend s n _ _ _ _ _ _ = o
  cases o with
  | none => exact same_refl v s
  | some t => exact blySend_calm hv e

@[simp] theorem sideUe_calm {h : Nat} : Same v s0 (sideUe s h) ↔ Same v s0 s := Same.iff (by simp [sideUe, sideFault, hv])

@[simp] theorem blobLost_calm {n h : Nat} : Same v s0 (blobLost s n h) ↔ Same v s0 s := Same.iff (by simp [blobLost, hv])

@[simp] theorem sendBlob_calm {n h : Nat} : Same v s0 (sendBlob s n h) ↔ Same v s0 s := by
  refine Same.iff ?_
  unfold sendBlob
  extract_lets s1 u
  have hu : Same v s u := by
    unfold u s1
    simp [hv]
  clear_value u
  refine hu.trans ?_
  split
  · simp [hv]
  · split
    · simp [hv]
    · split
      · rfl
      · rename_i e
        refine (sealBlob_calm hv e).trans ?_
        dsimp only
        split
        · simp [hv]
        · rename_i e'
          exact (modBly_calm hv).2 (blySend_calm hv e')

@[simp] theorem blyFlip_calm {n : Nat} {l : Lane} : Same v s0 (blyFlip s n l) ↔ Same v s0 s := Same.iff (by simp [blyFlip, hv])

@[simp] theorem rowUe_calm {n : Nat} {l : List (Nat × Nat)} : Same v s0 (rowUe s n l) ↔ Same v s0 s := Same.iff (by simp [rowUe, hv])

@[simp] theorem stageTokens_calm {k : Nat} {l : Lane} : Same v s0 (stageTokens s k l) ↔ Same v s0 s := Same.iff (by simp [stageTokens, hv])

@[simp] theorem blyDiverge_calm {n : Nat} : Same v s0 (blyDiverge s n) ↔ Same v s0 s :=
  Same.iff (by simp [blyDiverge, setBlyStat, blyReg, hv])

@[simp] theorem stage_calm {x : SMap (List EmRec)} : Same v s0 { s with emis := x } ↔ Same v s0 s :=
  hv.iff_only ((Only.graft [.emis] s { s with emis := x }).mono (by simp))

@[simp] theorem holdShadows_calm {n : Nat} : Same v s0 (holdShadows s n) ↔ Same v s0 s := Same.iff (by simp [holdShadows, hv])

@[simp] theorem blyAtFlip_calm {n : Nat} : Same v s0 (blyAtFlip s n) ↔ Same v s0 s := by
  rw [blyAtFlip, blyDiverge_calm hv, holdShadows_calm hv]

@[simp] theorem stampSeq_calm {n : Nat} : Same v s0 (stampSeq s n) ↔ Same v s0 s := stage_calm hv

@[simp] theorem blyReleases_calm {n : Nat} : Same v s0 (blyReleases s n) ↔ Same v s0 s := by
  refine Same.iff ?_
  unfold blyReleases
  split
  · rfl
  · refine (each_same fun u h => ?_).2 (same_refl v s)
    dsimp only
    generalize e : blySend _ n _ _ _ _ _ _ = o
    cases o with
    | none => simp [hv]
    | some t => exact Same.trans (by simp [hv]) (blySend_calm hv e)

@[simp] theorem releaseEm_calm {n : Nat} : Same v s0 (releaseEm s n) ↔ Same v s0 s := by
  rw [releaseEm, modIng_calm hv, stage_calm hv]

/-! ## The KV engine at the flip -/

@[simp] theorem kvReject_calm {n c : Nat} : Same v s0 (kvReject s n c) ↔ Same v s0 s := Same.iff (by simp [kvReject, hv])

@[simp] theorem kvLow_calm {n : Nat} : Same v s0 (kvLow s n) ↔ Same v s0 s := Same.iff (by simp [kvLow, hv])

@[simp] theorem kvDone_calm {n : Nat} : Same v s0 (kvDone s n) ↔ Same v s0 s := Same.iff (by simp [kvDone, hv])

@[simp] theorem setPte_calm {n q i w : Nat} : Same v s0 (setPte s n q i w) ↔ Same v s0 s := hbmWrite_calm hv

@[simp] theorem setCount_calm {n p w : Nat} : Same v s0 (setCount s n p w) ↔ Same v s0 s := hbmWrite_calm hv

@[simp] theorem sdPut_calm {n q o l w : Nat} : Same v s0 (sdPut s n q o l w) ↔ Same v s0 s := hbmWrite_calm hv

@[simp] theorem setSdBit_calm {n q i : Nat} {b : Bool} : Same v s0 (setSdBit s n q i b) ↔ Same v s0 s := sdPut_calm hv

@[simp] theorem unref_calm {n p : Nat} : Same v s0 (unref s n p) ↔ Same v s0 s := Same.iff (by simp [unref, hv])

@[simp] theorem doSeqInit_calm {n : Nat} {k : KvCmd} : Same v s0 (doSeqInit s n k) ↔ Same v s0 s :=
  Same.iff (by simp [doSeqInit, clearTab, hv])

/-- Forking entry by entry writes HBM only, up to the count that is full. -/
theorem forkEntries_calm {n d q : Nat} {l : List Nat} {o : Option State} (ho : ∀ u, o = some u → Same v s u)
    (e : l.foldl (forkEntry n d q) o = some t) : Same v s t := by
  induction l generalizing o with
  | nil => exact ho t e
  | cons i l ih =>
    refine ih (fun u hu => ?_) e
    unfold forkEntry at hu
    obtain ⟨w, hw, hu⟩ := Option.bind_eq_some_iff.1 hu
    refine (ho w hw).trans ?_
    dsimp only at hu
    split at hu
    · cases hu; simp [hv]
    · split at hu
      · cases hu
      · cases hu; simp [hv]

@[simp] theorem doSeqFork_calm {n : Nat} {k : KvCmd} : Same v s0 (doSeqFork s n k) ↔ Same v s0 s := by
  refine Same.iff ?_
  unfold doSeqFork
  dsimp only
  split
  · simp [hv]
  · split
    · simp [hv]
    · split
      · simp [hv]
      · split
        · simp [hv]
        · split
          · simp [kvStop, hv]
          · rename_i e
            exact (forkEntries_calm hv (fun u hu => by cases hu; exact same_refl v s) e).trans (by simp [hv])

@[simp] theorem resetSeq_calm {n q : Nat} : Same v s0 (resetSeq s n q) ↔ Same v s0 s := Same.iff (by simp [resetSeq, hv])

@[simp] theorem doSeqReset_calm {n : Nat} {k : KvCmd} {b : Bool} : Same v s0 (doSeqReset s n k b) ↔ Same v s0 s :=
  Same.iff (by simp [doSeqReset, hv])

@[simp] theorem kvRun_calm {n : Nat} : Same v s0 (kvRun s n) ↔ Same v s0 s := by
  refine Same.iff ?_
  unfold kvRun
  split
  · rfl
  · simp [hv]

@[simp] theorem dropSeq_calm {n q : Nat} : Same v s0 (dropSeq s n q) ↔ Same v s0 s := Same.iff (by simp [dropSeq, hv])

@[simp] theorem kvDrop_calm {k n : Nat} : Same v s0 (kvDrop k s n) ↔ Same v s0 s := by
  refine Same.iff ?_
  induction k generalizing s with
  | zero => exact same_refl v s
  | succ k ih =>
    unfold kvDrop
    split
    · split
      · simp [hv]
      · exact Same.trans (by simp [hv]) ih
    · rfl

@[simp] theorem kvCommit_calm {n : Nat} {l : List Nat} : Same v s0 (kvCommit s n l) ↔ Same v s0 s := Same.iff (by simp [kvCommit, hv])

@[simp] theorem kvEdge_calm {n : Nat} {l : List Nat} : Same v s0 (kvEdge s n l) ↔ Same v s0 s := Same.iff (by simp [kvEdge, hv])

end

end Sys2Proof.Machine
end

section
/-!
PROOFS. FLIP (01_tick R31, R32; 07_streams_state R199).
-/
namespace Sys2Proof.Machine

/-! ## What a flip leaves to read -/

/-- What a flip makes of the SEQ, the last SEQ and the side of a stream. -/
def flipCore (x : Nat × Nat × Nat) : Nat × Nat × Nat := (x.1 + 1, x.1 + 1, 1 - x.2.2)

theorem flip_of_only {F : List Comp} {s t : State} (h : Only F s t)
    (hF : .clk ∉ F ∧ .lanes ∉ F ∧ .parts ∉ F ∧ .strms ∉ F := by decide) : Same flipView s t := by
  obtain ⟨hc, hl, hp, hs⟩ := hF
  have hclk : t.clk = s.clk := h .clk hc
  have hlanes : t.lanes = s.lanes := h .lanes hl
  simp only [Same, flipView, hclk, hlanes, part_of_parts (h .parts hp), strm_of_strms (h .strms hs)]

section
variable {s t : State}

theorem Same.flip_clk (h : Same flipView s t) : t.clk = s.clk := congrArg Prod.fst h

theorem Same.flip_lanes (h : Same flipView s t) : t.lanes = s.lanes := congrArg (fun x => x.2.1) h

theorem Same.flip_set (h : Same flipView s t) (n : Nat) : (part t n).flipSet = (part s n).flipSet := congrArg (fun x => x.2.2.1 n) h

theorem Same.flip_core (h : Same flipView s t) (g : Nat) : Strm.core (strm t g) = Strm.core (strm s g) := congrArg (fun x => x.2.2.2 g) h

end

/-! ## The steps of the flip -/

theorem lateStrm_flip (s : State) (n h cause tick ts : Nat) : Same flipView s (lateStrm s n h cause tick ts) := by
  have hb : ∀ u, Same flipView u (bump u tickPg 0x168) := fun u => flip_of_only ((bump_frame (List.Subset.refl _)).2 (Only.refl _ u))
  have he : ∀ u, Same flipView u (setEvt u tickPg 4) := fun u => flip_of_only ((setEvt_frame (List.Subset.refl _)).2 (Only.refl _ u))
  unfold lateStrm
  extract_lets s1 s2
  have h2 : Same flipView s s2 := by
    have h1 : Same flipView s s1 := by unfold s1; simp [calm_flip]
    unfold s2
    split
    · exact h1
    · exact h1.trans (hb s1)
  exact (h2.trans (by simp [calm_flip])).trans (he _)

theorem missLane_flip (s : State) (k : Nat) (l : Lane) : Same flipView s (missLane s k l) := by
  unfold missLane
  dsimp only
  rw [giveBack_calm calm_flip]
  split
  · rfl
  · exact lateStrm_flip ..

theorem missStrm_flip (s : State) (n h : Nat) : Same flipView s (missStrm s n h) := by
  unfold missStrm
  extract_lets c
  refine (lateStrm_flip s n h 1 c.tick c.ts).trans ?_
  simp [calm_flip]

/-- A flipped lane flips its stream and nothing else of what the view shows. -/
theorem flipLane_flip (s : State) (k : Nat) (l : Lane) :
    (flipLane s k l).clk = s.clk ∧ (flipLane s k l).lanes = s.lanes ∧ (∀ n, (part (flipLane s k l) n).flipSet = (part s n).flipSet) ∧
    ∀ g, Strm.core (strm (flipLane s k l) g) = if g = l.handle then flipCore (Strm.core (strm s g)) else Strm.core (strm s g) := by
  unfold flipLane
  extract_lets h s1 s2 s3
  have hv : Same flipView s2 (blyFlip (stageTokens s3 k l) (lanePart k) l) := by unfold s3; simp [calm_flip]
  refine ⟨hv.flip_clk, hv.flip_lanes, hv.flip_set, fun g => (hv.flip_core g).trans ?_⟩
  unfold s2 s1 setSeq modStrm
  rw [strm_setStrm]
  split
  · rename_i e
    subst e
    rw [strm_setStrm_same]
    rfl
  · rw [strm_setStrm, if_neg ‹_›]

/-- Lanes flipped one after the other flip each stream as often as it has lanes among them. -/
theorem each_flipLane (s : State) (ls : List (Nat × Lane)) :
    let u := each s ls fun s p => flipLane s p.1 p.2
    u.clk = s.clk ∧ u.lanes = s.lanes ∧ (∀ n, (part u n).flipSet = (part s n).flipSet) ∧
    ∀ g, Strm.core (strm u g) = flipCore^[ls.countP fun p => g = p.2.handle] (Strm.core (strm s g)) := by
  unfold each
  induction ls generalizing s with
  | nil => exact ⟨rfl, rfl, fun _ => rfl, fun _ => rfl⟩
  | cons p ls ih =>
    obtain ⟨hc, hl, hp, hs⟩ := ih (flipLane s p.1 p.2)
    obtain ⟨kc, kl, kp, ks⟩ := flipLane_flip s p.1 p.2
    refine ⟨hc.trans kc, hl.trans kl, fun n => (hp n).trans (kp n), fun g => (hs g).trans ?_⟩
    rw [ks, List.countP_cons]
    split <;> simp [*]

/-! ## The flip of a partition -/

/-- The lanes of a partition that flip. -/
def flips (s : State) (n : Nat) : List (Nat × Lane) := (partLanes s n).filter fun p => (flipKeys s n).contains p.1

theorem flipPart_flip (s : State) (n : Nat) :
    (flipPart s n).clk = s.clk ∧ (flipPart s n).lanes = s.lanes.filter (fun p => lanePart p.1 ≠ n) ∧
    (∀ m, (part (flipPart s n) m).flipSet = if m = n then none else (part s m).flipSet) ∧
    ∀ g, Strm.core (strm (flipPart s n) g) = flipCore^[(flips s n).countP fun p => g = p.2.handle] (Strm.core (strm s g)) := by
  unfold flipPart
  extract_lets ks ls s1 s2 s3 s4 s5
  obtain ⟨hc, hl, hp, hs⟩ := each_flipLane s1 (flips s n)
  have hv : Same flipView s2 (releaseEm s5 n) := by
    have h3 : Same flipView s2 s3 := each_inv (fun u p _ h => h.trans (missLane_flip u p.1 p.2)) (same_refl flipView s2)
    have h4 : Same flipView s2 s4 := each_inv (fun u h _ k => k.trans (missStrm_flip u n h)) h3
    unfold s5
    simp only [releaseEm_calm calm_flip, blyAtFlip_calm calm_flip, stampSeq_calm calm_flip, blyReleases_calm calm_flip, kvEdge_calm calm_flip]
    exact h4
  refine ⟨hv.flip_clk.trans hc, hv.flip_lanes.trans hl, fun m => ?_, fun g => (hv.flip_core g).trans (hs g)⟩
  rw [part_modPart]
  split
  · rfl
  · exact (hv.flip_set m).trans (hp m)

theorem partLanes_of_filter (s t : State) (m n : Nat) (hl : t.lanes = s.lanes.filter (fun p => lanePart p.1 ≠ m)) :
    partLanes t n = if n = m then [] else partLanes s n := by
  unfold partLanes
  rw [hl, List.filterMap_filter]
  split
  · rename_i e
    refine List.filterMap_eq_nil_iff.2 fun p _ => ?_
    by_cases h : lanePart p.1 = m <;> simp [h, e]
  · rename_i e
    refine List.filterMap_congr fun p _ => ?_
    by_cases h : lanePart p.1 = m <;> simp [h, Ne.symm e]

/-- Of another partition nothing that its own flip reads changes. -/
theorem flips_flipPart {s : State} {m n : Nat} (h : n ≠ m) : flips (flipPart s m) n = flips s n := by
  obtain ⟨-, hl, hp, -⟩ := flipPart_flip s m
  have hn := partLanes_of_filter s _ m n hl
  rw [if_neg h] at hn
  have hf := hp n
  rw [if_neg h] at hf
  simp only [flips, flipKeys, hn, hf]

/-- The flip of the partitions of a list. -/
theorem each_flipPart (s : State) {L : List Nat} (hL : L.Nodup) :
    let u := each s L flipPart
    u.clk = s.clk ∧ (∀ n ∈ L, partLanes u n = [] ∧ (part u n).flipSet = none) ∧
    ∀ g, Strm.core (strm u g) = flipCore^[(L.map fun n => (flips s n).countP fun p => g = p.2.handle).sum] (Strm.core (strm s g)) := by
  refine ⟨each_inv (P := fun u => u.clk = s.clk) (fun u n _ h => (flipPart_flip u n).1.trans h) rfl, fun n hn => ?_, fun g => ?_⟩
  · refine each_reaches (P := fun _ => True) (Q := fun u => partLanes u n = [] ∧ (part u n).flipSet = none) hn trivial
      (fun _ _ _ _ => trivial) (fun u _ => ?_) fun u m _ _ hu => ?_
    all_goals
      obtain ⟨-, hl, hp, -⟩ := flipPart_flip u _
      rw [partLanes_of_filter u _ _ n hl, hp]
    · simp
    · split <;> simp [hu]
  · unfold each
    induction L generalizing s with
    | nil => rfl
    | cons n L ih =>
      obtain ⟨hn, hL⟩ := List.nodup_cons.1 hL
      obtain ⟨-, -, -, hs⟩ := flipPart_flip s n
      have hm : (L.map fun m => (flips (flipPart s n) m).countP fun p => g = p.2.handle) =
          L.map fun m => (flips s m).countP fun p => g = p.2.handle :=
        List.map_congr_left fun m h => by rw [flips_flipPart (by rintro rfl; exact hn h)]
      rw [List.foldl_cons, ih _ hL, hm, hs, List.map_cons, List.sum_cons, Nat.add_comm, Function.iterate_add_apply]

/-! ## The one lane of a stream -/

/-- The lanes of a partition on a stream are those of the device on it that are the partition's. -/
theorem partLanes_handle (s : State) (n g : Nat) :
    (partLanes s n).filter (fun p => g = p.2.handle) =
      (s.lanes.filter fun p => p.2.map Lane.handle = some g).filterMap fun p => if lanePart p.1 = n then p.2.map fun x => (p.1, x) else none := by
  unfold partLanes
  rw [List.filter_filterMap, List.filterMap_filter]
  refine List.filterMap_congr fun p _ => ?_
  rcases p with ⟨k, _ | x⟩
  · simp
  · by_cases h : lanePart k = n <;> simp [h, Option.filter, eq_comm]

/-- A lane of the flip set that has not faulted, and the only one of its stream, is the one lane of it that flips. -/
theorem flips_count {s : State} {k : Nat} {x : Lane}
    (h1 : s.lanes.filter (fun p => p.2.map Lane.handle = some x.handle) = [(k, some x)]) (hf : x.fault = false)
    (hk : k ∈ (part s (lanePart k)).flipSet.getD []) (n : Nat) :
    (flips s n).countP (fun p => x.handle = p.2.handle) = if n = lanePart k then 1 else 0 := by
  have hp : (partLanes s n).filter (fun p => x.handle = p.2.handle) = if n = lanePart k then [(k, x)] else [] := by
    rw [partLanes_handle, h1]
    by_cases h : n = lanePart k <;> simp [h, eq_comm]
  rw [flips, List.countP_filter, List.countP_eq_length_filter]
  have hc : (partLanes s n).filter (fun p => decide (x.handle = p.2.handle) && (flipKeys s n).contains p.1) =
      ((partLanes s n).filter fun p => x.handle = p.2.handle).filter fun p => (flipKeys s n).contains p.1 := by
    rw [List.filter_filter]
    exact List.filter_congr fun p _ => Bool.and_comm _ _
  rw [hc, hp]
  split
  · rename_i e
    subst e
    have hm : (k, x) ∈ partLanes s (lanePart k) := List.mem_of_mem_filter (p := fun p => decide (x.handle = p.2.handle)) (by simp [hp])
    have hin : k ∈ flipKeys s (lanePart k) := List.mem_map.2 ⟨(k, x), List.mem_filter.2 ⟨hm, by simp [hf, hk]⟩, rfl⟩
    simp [hin]
  · rfl

theorem each_flipPart_lane {s : State} {k : Nat} {x : Lane} {L : List Nat} (hL : L.Nodup) (hin : lanePart k ∈ L)
    (h1 : s.lanes.filter (fun p => p.2.map Lane.handle = some x.handle) = [(k, some x)]) (hf : x.fault = false)
    (hk : k ∈ (part s (lanePart k)).flipSet.getD []) :
    Strm.core (strm (each s L flipPart) x.handle) = flipCore (Strm.core (strm s x.handle)) := by
  have hone := flips_count h1 hf hk
  obtain ⟨-, -, hs⟩ := each_flipPart s hL
  rw [hs, List.sum_map_eq_nsmul_single (lanePart k) _ fun n h _ => (hone n).trans (if_neg h), List.count_eq_one_of_mem hL hin, hone,
    if_pos rfl]
  rfl

/-! ## FLIP -/

theorem flip_phase {s : State} (h : s.clk.phase = .commit) : Gives .flip s fun u =>
    u.clk.phase = .guard ∧ u.clk.cyc = max s.clk.cyc ((commitEnd s - 1) * uCyc s.clk.op) ∧ u.clk.num = s.clk.num ∧
    (∀ n, n < 16 → (part s n).st ≠ .off → partLanes u n = [] ∧ (part u n).flipSet = none) ∧
    ∀ (k : Nat) (x : Lane), s.lanes.filter (fun p => p.2.map Lane.handle = some x.handle) = [(k, some x)] → lanePart k < 16 →
      (part s (lanePart k)).st ≠ .off → x.fault = false → k ∈ (part s (lanePart k)).flipSet.getD [] →
      (strm u x.handle).seq = (strm s x.handle).seq + 1 ∧ (strm u x.handle).lastSeq = (strm s x.handle).seq + 1 ∧
      (strm u x.handle).side = 1 - (strm s x.handle).side := by
  refine ⟨_, rfl, ?_⟩
  rw [flipEff, if_pos h]
  extract_lets s1 s2
  have hnd : ((List.range 16).filter fun n => (part s1 n).st ≠ .off).Nodup := List.nodup_range.filter _
  have hmem : ∀ n, n < 16 → (part s n).st ≠ .off → n ∈ (List.range 16).filter fun n => (part s1 n).st ≠ .off := fun n hn ho =>
    List.mem_filter.2 ⟨List.mem_range.2 hn, decide_eq_true ho⟩
  obtain ⟨hc, hl, -⟩ := each_flipPart s1 hnd
  have hcyc : s1.clk.cyc = max s.clk.cyc ((commitEnd s - 1) * uCyc s.clk.op) :=
    (show s1.clk.cyc = s.clk.cyc + _ from rfl).trans (by omega)
  generalize hs3 : { s2 with clk := { s2.clk with phase := .guard } } = s3
  have hv : Same flipView s3 (queueWrites s3) := by simp [calm_flip]
  have hk : (queueWrites s3).clk = { s1.clk with phase := .guard } := by rw [hv.flip_clk, ← hs3, ← hc]
  refine ⟨by rw [hk], by rw [hk]; exact hcyc, by rw [hk]; rfl, fun n hn ho => ?_, fun k x h1 hn ho hf hin => ?_⟩
  · obtain ⟨hn1, hn2⟩ := hl n (hmem n hn ho)
    refine ⟨?_, (hv.flip_set n).trans (by rw [← hs3]; exact hn2)⟩
    unfold partLanes
    rw [hv.flip_lanes, ← hs3]
    exact hn1
  · have hcore : Strm.core (strm (queueWrites s3) x.handle) = flipCore (Strm.core (strm s x.handle)) := by
      rw [hv.flip_core, ← hs3]
      exact each_flipPart_lane hnd (hmem _ hn ho) h1 hf hin
    exact ⟨congrArg (fun c => c.1) hcore, congrArg (fun c => c.2.1) hcore, congrArg (fun c => c.2.2) hcore⟩

end Sys2Proof.Machine
end

section
/-!
SUPPORT. What events, counters, ingest work and scrubbing leave alone: the clock, the cut-offs of the ingest rings, and the registers at three
offsets (the party of a partition, the producer index of a ring, the steady bit of a party).
-/
namespace Sys2Proof.Machine

/-! ## The passing of time -/

section
variable {s t u : State}

theorem Timed.of_clk (h : Timed s t) (e : u.clk = t.clk) : Timed s u := by
  unfold Timed at h ⊢
  rw [e]
  exact h

theorem Timed.trans (h : Timed s t) (k : Timed t u) : Timed s u := by
  unfold Timed at h k ⊢
  rw [k, h]

theorem Timed.num (h : Timed s t) : t.clk.num = s.clk.num := by unfold Timed at h; rw [h]

theorem Timed.phase (h : Timed s t) : t.clk.phase = s.clk.phase := by unfold Timed at h; rw [h]

theorem Timed.seen (h : Timed s t) : t.clk.seen = s.clk.seen := by unfold Timed at h; rw [h]

theorem Timed.fly (h : Timed s t) : t.clk.fly = s.clk.fly := by unfold Timed at h; rw [h]

theorem Timed.wait (h : Timed s t) : t.clk.wait = s.clk.wait := by unfold Timed at h; rw [h]

theorem Timed.op (h : Timed s t) : t.clk.op = s.clk.op := by unfold Timed at h; rw [h]

end

/-! ## Addresses of events and counters -/

/-- The offsets looked at: PARTY of a partition, PROD of a ring, STEADY of a party. -/
abbrev keptOffs : List Nat := [0x100, 0x10C, 0x218]

/-- The address is none of those looked at. -/
def Apart (a : Nat) : Prop := a % 4096 ∉ keptOffs ∨ 0x260000 ≤ a

/-- The saturation registers of a row's counters lie in the page and at none of the offsets looked at. -/
def RegRow.satFree (p : PageT) (r : RegRow) : Bool :=
  match r.kind with
  | .cnt sat _ _ => (List.range r.count).all fun k =>
      let o := sat + (if p = .link then ((r.off + r.stride * k) / 0x100 - 1) * 0x100 else 0)
      decide (o < 4096) && !keptOffs.contains o
  | _ => true

theorem rows_satFree (p : PageT) : ((pageRows p).all (RegRow.satFree p) && headerRows.all (RegRow.satFree p)) = true := by
  cases p <;> decide +kernel

theorem regAt_satFree {p : PageT} {o : Nat} {r : RegRow} (h : regAt p o = some r) :
    r.satFree p = true ∧ r.off ≤ o ∧ o < r.off + r.count * r.stride ∧ (o - r.off) % r.stride = 0 := by
  have ha := rows_satFree p
  rw [Bool.and_eq_true, List.all_eq_true, List.all_eq_true] at ha
  unfold regAt at h
  split at h
  · cases h
  · split at h
    · exact (findRow_some h).imp_left (ha.2 r)
    · exact (findRow_some h).imp_left (ha.1 r)

theorem apart_add {pg o : Nat} (hp : pg % 4096 = 0) (ho : o < 4096 ∧ o ∉ keptOffs) : Apart (pg + o) := by
  have hm : (pg + o) % 4096 = o := by omega
  unfold Apart
  rw [hm]
  exact .inl ho.2

theorem apart_satAddr {p : PageT} {o sat bit evt pg : Nat} {r : RegRow} (hp : pg % 4096 = 0) (h : regAt p o = some r)
    (hk : r.kind = .cnt sat bit evt) : Apart (satAddr p pg o sat) := by
  obtain ⟨hs, hlo, hhi, hm⟩ := regAt_satFree h
  have hidx : r.off + r.stride * ((o - r.off) / r.stride) = o := by
    have := Nat.div_add_mod (o - r.off) r.stride; omega
  have hk' : (o - r.off) / r.stride < r.count := Nat.div_lt_of_lt_mul (by rw [Nat.mul_comm]; omega)
  simp only [RegRow.satFree, hk, List.all_eq_true, List.mem_range] at hs
  have := hs _ hk'
  rw [hidx, Bool.and_eq_true, decide_eq_true_eq, Bool.not_eq_true', List.contains_eq_mem, decide_eq_false_iff_not] at this
  rw [satAddr, Nat.add_assoc]
  exact apart_add hp this

/-! ## The view -/

/-- The clock, the cut-offs of the rings, and the registers looked at. -/
def cutView (s : State) : Clk × (Nat → List (Nat × Nat) × Nat) × ({a : Nat // ¬Apart a} → Nat) :=
  (s.clk, fun n => ((ing s n).cuts, (ing s n).rd), fun a => rdN s a.1)

section
variable {s0 s t : State}

theorem Same.cut_clk (h : Same cutView s t) : t.clk = s.clk := congrArg Prod.fst h

theorem Same.cut_cuts (h : Same cutView s t) (n : Nat) : (ing t n).cuts = (ing s n).cuts := congrArg (fun x => (x.2.1 n).1) h

theorem Same.cut_rd (h : Same cutView s t) (n : Nat) : (ing t n).rd = (ing s n).rd := congrArg (fun x => (x.2.1 n).2) h

theorem Same.cut_rdN (h : Same cutView s t) {a : Nat} (ha : ¬Apart a) : rdN t a = rdN s a := congrArg (fun x => x.2.2 ⟨a, ha⟩) h

/-- What touches neither the clock nor the registers nor the rings is not seen. -/
theorem cut_of_only {F : List Comp} (h : Only F s t) (hF : .clk ∉ F ∧ .regs ∉ F ∧ .ings ∉ F := by decide) :
    Same cutView s0 t ↔ Same cutView s0 s := by
  obtain ⟨hc, hr, hi⟩ := hF
  have hclk : t.clk = s.clk := h .clk hc
  have hing : t.ings = s.ings := h .ings hi
  refine Same.iff ?_
  simp only [Same, cutView, hclk, ing, hing, rdN_of_regs (h .regs hr)]

@[simp] theorem wrN_cut {a w : Nat} (h : Apart a) : Same cutView s0 (wrN s a w) ↔ Same cutView s0 s := by
  have hr : (fun b : {a : Nat // ¬Apart a} => rdN (wrN s a w) b.1) = fun b => rdN s b.1 :=
    funext fun b => rdN_wrN_ne _ (by rintro rfl; exact b.2 h)
  exact Same.iff (congrArg (fun x => (s.clk, (fun n => ((ing s n).cuts, (ing s n).rd)), x)) hr)

@[simp] theorem wr64_cut {a w : Nat} (h : Apart a) (h4 : Apart (a + 4)) : Same cutView s0 (wr64 s a w) ↔ Same cutView s0 s := by
  rw [wr64, wrN_cut h4, wrN_cut h]

@[simp] theorem add64_cut {a n : Nat} (h : Apart a) (h4 : Apart (a + 4)) : Same cutView s0 (add64 s a n) ↔ Same cutView s0 s := by
  unfold add64
  split
  · rfl
  · exact wr64_cut h h4

@[simp] theorem modStrm_cut {h : Nat} {f : Strm → Strm} : Same cutView s0 (modStrm s h f) ↔ Same cutView s0 s := Iff.rfl

@[simp] theorem modPrt_cut {p : Nat} {f : Port → Port} : Same cutView s0 (modPrt s p f) ↔ Same cutView s0 s := Iff.rfl

@[simp] theorem fresh_cut : Same cutView s0 (fresh s).2 ↔ Same cutView s0 s := Iff.rfl

@[simp] theorem markCnt_cut {a n : Nat} : Same cutView s0 (markCnt s a n) ↔ Same cutView s0 s := Iff.rfl

@[simp] theorem setBg_cut {a : Nat} {x : BgAct} : Same cutView s0 (setBg s a x) ↔ Same cutView s0 s := Iff.rfl

@[simp] theorem modSlot_cut {c i : Nat} {f : Slot → Slot} : Same cutView s0 (modSlot s c i f) ↔ Same cutView s0 s := Iff.rfl

theorem ing_modIng (n m : Nat) (f : Ing → Ing) : ing (modIng s n f) m = if m = n then f (ing s n) else ing s m := by
  unfold modIng ing
  exact smGet_smSet ..

@[simp] theorem modIng_cut {n : Nat} {f : Ing → Ing} (h : ∀ x, (f x).cuts = x.cuts ∧ (f x).rd = x.rd) :
    Same cutView s0 (modIng s n f) ↔ Same cutView s0 s := by
  have hi : (fun m => ((ing (modIng s n f) m).cuts, (ing (modIng s n f) m).rd)) = fun m => ((ing s m).cuts, (ing s m).rd) := by
    funext m
    rw [ing_modIng]
    split
    · rw [(h _).1, (h _).2, ‹m = n›]
    · rfl
  exact Same.iff (congrArg (fun x => (s.clk, x, (fun a : {a : Nat // ¬Apart a} => rdN s a.1))) hi)

/-! ## Events and counters -/

@[simp] theorem setEvt_cut {pg bit d : Nat} (hp : pg % 4096 = 0) : Same cutView s0 (setEvt s pg bit d) ↔ Same cutView s0 s := by
  have hr : (fun b : {a : Nat // ¬Apart a} => rdN (setEvt s pg bit d) b.1) = fun b => rdN s b.1 := by
    funext b
    have hne : ∀ o, o < 4096 ∧ o ∉ keptOffs → b.1 ≠ pg + o := fun o ho e => b.2 (e ▸ apart_add hp ho)
    exact rdN_setEvt_ne _ _ _ _ ⟨hne _ (by decide), hne _ (by decide), hne _ (by decide), hne _ (by decide), hne _ (by decide)⟩
  refine Same.iff ?_
  simp only [Same, cutView, hr, setEvt_clk, ing, setEvt_ings]

@[simp] theorem bumpBy_cut {pg off n : Nat} (hp : pg % 4096 = 0) (ho : Apart (pg + off)) :
    Same cutView s0 (bumpBy s pg off n) ↔ Same cutView s0 s := by
  refine Same.iff ?_
  unfold bumpBy
  split
  · rfl
  · split
    · rename_i h
      simp [hp, ho, apart_satAddr hp h rfl]
    · rfl

@[simp] theorem bump_cut {pg off : Nat} (hp : pg % 4096 = 0) (ho : Apart (pg + off)) : Same cutView s0 (bump s pg off) ↔ Same cutView s0 s :=
  bumpBy_cut hp ho

/-! ## Ingest at the cut-off -/

theorem aligned_ingPg (n : Nat) : ingPg n % 4096 = 0 := by unfold ingPg; omega

theorem aligned_portPg (p : Nat) : portPg p % 4096 = 0 := by unfold portPg; omega

@[simp] theorem pushRaw_cut {n : Nat} {r : EmRec} : Same cutView s0 (pushRaw s n r) ↔ Same cutView s0 s := by
  have ha : Apart (ingPg n + 0x214) := apart_add (aligned_ingPg n) (by decide)
  refine Same.iff ?_
  unfold pushRaw
  split
  · exact same_refl cutView s
  · rw [setEvt_cut (aligned_ingPg n), bump_cut (aligned_ingPg n) ha]
    exact same_refl cutView s

@[simp] theorem pushRec_cut {n : Nat} {r : EmRec} : Same cutView s0 (pushRec s n r) ↔ Same cutView s0 s := by
  refine Same.iff ?_
  unfold pushRec
  dsimp only
  split
  · rw [pushRaw_cut, pushRaw_cut]
    exact same_refl cutView s
  · rw [pushRaw_cut]
    exact same_refl cutView s

@[simp] theorem strmEvent_cut {h a b c d e : Nat} : Same cutView s0 (strmEvent s h a b c d e) ↔ Same cutView s0 s := pushRec_cut

@[simp] theorem freeStore_cut {c : Chunk} : Same cutView s0 (freeStore s c) ↔ Same cutView s0 s := by
  refine Same.iff ?_
  unfold freeStore
  split <;> simp

@[simp] theorem retireIdx_cut {n i : Nat} : Same cutView s0 (retireIdx s n i) ↔ Same cutView s0 s := by
  have ha : Apart (ingPg n + 0x110) := apart_add (aligned_ingPg n) (by decide)
  exact Same.iff (by simp [retireIdx, ha])

@[simp] theorem retireChunk_cut {n : Nat} {c : Chunk} : Same cutView s0 (retireChunk s n c) ↔ Same cutView s0 s :=
  Same.iff (by simp [retireChunk])

@[simp] theorem badChunk_cut {h : Nat} {c : Chunk} : Same cutView s0 (badChunk h s c) ↔ Same cutView s0 s := Same.iff (by simp [badChunk])

@[simp] theorem dropChunk_cut {h : Nat} {c : Chunk} : Same cutView s0 (dropChunk s h c) ↔ Same cutView s0 s := Same.iff (by simp [dropChunk])

@[simp] theorem pushChunk_cut {h : Nat} {c : Chunk} : Same cutView s0 (pushChunk s h c) ↔ Same cutView s0 s := Same.iff (by simp [pushChunk])

@[simp] theorem releaseGroup_cut {h k : Nat} {w : Int} : Same cutView s0 (releaseGroup s h k w) ↔ Same cutView s0 s :=
  Same.iff (by simp [releaseGroup])

@[simp] theorem fillChunk_cut {n h k : Nat} : Same cutView s0 (fillChunk s n h k) ↔ Same cutView s0 s := by
  refine Same.iff ?_
  unfold fillChunk
  dsimp only
  split
  · split <;> simp
  · rfl

@[simp] theorem portChunk_cut {p h k : Nat} {c : Int} : Same cutView s0 (portChunk s p h k c) ↔ Same cutView s0 s :=
  Same.iff (by simp [portChunk])

@[simp] theorem portCutoff_cut {k p : Nat} : Same cutView s0 (portCutoff s k p) ↔ Same cutView s0 s := by
  have ha : Apart (portPg p + 0x140) := apart_add (aligned_portPg p) (by decide)
  refine Same.iff ?_
  unfold portCutoff
  extract_lets w hs s1
  have h1 : Same cutView s s1 := by simp [s1, ha]
  split
  · exact h1
  · split
    · exact h1
    · simp [h1]

@[simp] theorem hostReadErr_cut {fn : Nat} : Same cutView s0 (hostReadErr s fn) ↔ Same cutView s0 s := Iff.rfl

@[simp] theorem outMiss_cut {p off bit d : Nat} (ho : off < 4096 ∧ off ∉ keptOffs) :
    Same cutView s0 (pEvt (bump (modPrt s p fun x => { x with nxt := none }) (portPg p) off) p bit d) ↔ Same cutView s0 s := by
  rw [pEvt, setEvt_cut (aligned_portPg p), bump_cut (aligned_portPg p) (apart_add (aligned_portPg p) ho), modPrt_cut]

@[simp] theorem takeOut_cut {p : Nat} {r : Option (List Byte)} : Same cutView s0 (takeOut s p r) ↔ Same cutView s0 s := by
  have ha : Apart (portPg p + 0x130) := apart_add (aligned_portPg p) (by decide)
  refine Same.iff ?_
  unfold takeOut
  dsimp only
  cases r <;> simp [ha]

@[simp] theorem outCutoff_cut {outs : List (Option (List Byte))} {p : Nat} : Same cutView s0 (outCutoff outs s p) ↔ Same cutView s0 s :=
  Same.iff (by simp [outCutoff])

/-- The cut-offs that stand in a ring after those of tick `k`. -/
def settledCuts (s : State) (n k : Nat) : List (Nat × Nat) :=
  let live := (ing s n).cuts.filter fun q => decide (sdiff (ing s n).rd q.1 < 0)
  let last := match live.getLast? with | some q => q.1 | none => (ing s n).rd
  live ++ (if sdiff last (rdN s (ingPg n + 0x10C)) < 0 then [(rdN s (ingPg n + 0x10C), k)] else [])

/-- The cut-off of a partition settles its ring's cut-offs, and changes nothing else of what the view shows. -/
theorem cutoffPart_cut (s : State) (n k : Nat) :
    Same cutView (modIng s n fun g => { g with cuts := settledCuts s n k }) (cutoffPart s n k) := by
  unfold cutoffPart
  refine each_inv (fun u h _ hu => hu.trans ?_) (same_refl cutView _)
  dsimp only
  split
  · split
    · split
      · simp
      · simp
    · simp
  · simp

/-- Where the ring has entries beyond the read index and no earlier cut-off stands, the cut-off of the tick is the producer index; a second
one for the same tick adds nothing. -/
theorem settledCuts_of {s : State} {n k : Nat} (h : sdiff (ing s n).rd (rdN s (ingPg n + 0x10C)) < 0)
    (hc : (ing s n).cuts = [] ∨ (ing s n).cuts = [(rdN s (ingPg n + 0x10C), k)]) : settledCuts s n k = [(rdN s (ingPg n + 0x10C), k)] := by
  have hself : ∀ a, ¬sdiff a a < 0 := fun a => by
    have e : a % 2 ^ 32 + 2 ^ 32 - a % 2 ^ 32 = 2 ^ 32 := by omega
    rw [sdiff, e]
    decide
  rcases hc with e | e <;> simp [settledCuts, e, h, hself]

/-- What the cut-off of one partition leaves of the view. -/
theorem cutoffPart_reads (s : State) (m k : Nat) : (cutoffPart s m k).clk = s.clk ∧ (∀ n, (ing (cutoffPart s m k) n).rd = (ing s n).rd) ∧
    (∀ n, (ing (cutoffPart s m k) n).cuts = if n = m then settledCuts s m k else (ing s n).cuts) ∧
    ∀ a, ¬Apart a → rdN (cutoffPart s m k) a = rdN s a := by
  have h := cutoffPart_cut s m k
  refine ⟨h.cut_clk, fun n => (h.cut_rd n).trans ?_, fun n => (h.cut_cuts n).trans ?_, fun a ha => h.cut_rdN ha⟩
  · rw [ing_modIng]; split <;> simp [*]
  · rw [ing_modIng]; split <;> rfl

/-! ## INGEST_CUTOFF (01_tick R26) -/

theorem prod_kept {n : Nat} (hn : n < 16) : ¬Apart (ingPg n + 0x10C) := by
  have e : (ingPg n + 0x10C) % 4096 = 0x10C := by unfold ingPg; omega
  rintro (h | h)
  · rw [e] at h
    exact h (by decide)
  · unfold ingPg at h
    omega

/-- On the way of the cut-off of tick `k`: the ring's indices are as they were, and it has no cut-off or that of the tick. -/
def Settling (s : State) (n k : Nat) (u : State) : Prop :=
  (ing u n).rd = (ing s n).rd ∧ rdN u (ingPg n + 0x10C) = rdN s (ingPg n + 0x10C) ∧
    ((ing u n).cuts = [] ∨ (ing u n).cuts = [(rdN s (ingPg n + 0x10C), k)])

theorem Settling.hit {s u : State} {n k : Nat} (h : Settling s n k u) (hs : sdiff (ing s n).rd (rdN s (ingPg n + 0x10C)) < 0) :
    (ing (cutoffPart u n k) n).cuts = [(rdN s (ingPg n + 0x10C), k)] := by
  obtain ⟨hr, hp, hc⟩ := h
  obtain ⟨-, -, hcuts, -⟩ := cutoffPart_reads u n k
  rw [hcuts, if_pos rfl, settledCuts_of (by rwa [hr, hp]) (by rwa [hp]), hp]

theorem Settling.step {s u : State} {n k : Nat} (h : Settling s n k u) (hs : sdiff (ing s n).rd (rdN s (ingPg n + 0x10C)) < 0) (hn : n < 16)
    (m : Nat) : Settling s n k (cutoffPart u m k) := by
  obtain ⟨-, hrd, hcuts, hreg⟩ := cutoffPart_reads u m k
  refine ⟨(hrd n).trans h.1, (hreg _ (prod_kept hn)).trans h.2.1, ?_⟩
  by_cases e : n = m
  · subst e
    exact .inr (h.hit hs)
  · rw [hcuts, if_neg e]
    exact h.2.2

/-- The cut-off of each partition of a list settles its ring. -/
theorem each_cutoffPart {s : State} {k n : Nat} {l : List Nat} (hn : n < 16) (hl : n ∈ l) (hc : (ing s n).cuts = [])
    (hs : sdiff (ing s n).rd (rdN s (ingPg n + 0x10C)) < 0) :
    (ing (each s l fun s n => cutoffPart s n k) n).cuts = [(rdN s (ingPg n + 0x10C), k)] := by
  refine each_reaches (P := Settling s n k) (Q := fun u => (ing u n).cuts = [(rdN s (ingPg n + 0x10C), k)]) (f := fun u m => cutoffPart u m k)
    hl ⟨rfl, rfl, .inl hc⟩ (fun u m _ h => h.step hs hn m) (fun u h => h.hit hs) fun u m _ h hq => ?_
  obtain ⟨-, -, hcuts, -⟩ := cutoffPart_reads u m k
  by_cases e : n = m
  · subst e
    exact h.hit hs
  · rw [hcuts, if_neg e, hq]

theorem toTbI_max (s : State) (t : Int) : (toTbI s t).clk.tb = max s.clk.tb t.toNat := by
  unfold toTbI
  by_cases h : t.toNat ≤ s.clk.tb
  · rw [toTb, if_pos h, Nat.max_eq_left h]
  · rw [toTb_tb (by omega), Nat.max_eq_right (by omega)]

theorem cutoff_predicted {s : State} {e : Int} (outs : List (Option (List Byte))) (hp : predicted s = some e) (hd : s.clk.cutDone = false)
    (hph : s.clk.phase ≠ .stopped) : Gives (.ingestCutoff outs) s fun u =>
      u.clk.cutDone = true ∧ u.clk.num = s.clk.num ∧ u.clk.phase = s.clk.phase ∧
      u.clk.tb = max s.clk.tb (e - 200000 * uNs).toNat ∧
      ∀ n, n < 16 → activeSt (part s n).st = true → (ing s n).cuts = [] → sdiff (ing s n).rd (rdN s (ingPg n + 0x10C)) < 0 →
        (ing u n).cuts = [(rdN s (ingPg n + 0x10C), s.clk.num + 1)] := by
  refine ⟨_, rfl, ?_⟩
  have hgo : ¬(s.clk.cutDone || decide (s.clk.phase = .stopped)) = true := by simp [hd, hph]
  simp -zeta -zetaUnused only [ingestCutoffEff, hp, if_neg hgo]
  extract_lets s1 k s2 s3 s4
  obtain ⟨tb, rem, cyc, hs1⟩ := toTbI_form s (e - 200000 * uNs)
  have hs1 : s1 = { s with clk := { s.clk with tb := tb, rem := rem, cyc := cyc } } := hs1
  have ht1 : Timed s s1 := timed_toTb s _
  have h2 : s2.clk = s1.clk := each_inv (P := fun u => u.clk = s1.clk) (fun u n _ h => (cutoffPart_reads u n k).1.trans h) rfl
  have h4 : Same cutView s2 s4 := by unfold s4 s3; simp
  have hclk : s4.clk = s1.clk := h4.cut_clk.trans h2
  have ht : Timed s s4 := ht1.of_clk hclk
  refine ⟨rfl, ht.num, ht.phase, (congrArg Clk.tb hclk).trans (toTbI_max s _), fun n hn hst hc hsd => ?_⟩
  have hn' : n ∈ (List.range 16).filter fun n => activeSt (part s1 n).st := List.mem_filter.2 ⟨List.mem_range.2 hn, by rw [hs1]; exact hst⟩
  have hr : rdN s1 (ingPg n + 0x10C) = rdN s (ingPg n + 0x10C) := by rw [hs1]; rfl
  have hi : ing s1 n = ing s n := by rw [hs1]; rfl
  have h := each_cutoffPart (k := k) hn hn' (by rw [hi]; exact hc) (by rw [hi, hr]; exact hsd)
  exact (h4.cut_cuts n).trans (h.trans (by rw [hr, show k = s.clk.num + 1 from congrArg (· + 1) ht1.num]))

/-! ## Scrubbing and the slack -/

theorem aligned_clPg (c : Nat) : clPg c % 4096 = 0 := by unfold clPg; omega

theorem aligned_stkPg (k : Nat) : stkPg k % 4096 = 0 := by unfold stkPg; omega

theorem apart_stkPg (k o : Nat) : Apart (stkPg k + o) := .inr (by unfold stkPg; omega)

@[simp] theorem modPart_cut {n : Nat} {f : Part → Part} : Same cutView s0 (modPart s n f) ↔ Same cutView s0 s := Iff.rfl

@[simp] theorem markRow_cut {a : Nat} : Same cutView s0 (markRow s a) ↔ Same cutView s0 s := Same.iff (by simp [markRow])

@[simp] theorem rowCe_cut {a : Nat} : Same cutView s0 (rowCe s a) ↔ Same cutView s0 s := by
  refine Same.iff ?_
  unfold rowCe
  dsimp only
  split
  · exact markRow_cut.2 (same_refl cutView s)
  · exact same_refl cutView s

@[simp] theorem hbmCeWord_cut {w : Nat} : Same cutView s0 (hbmCeWord s w) ↔ Same cutView s0 s := by
  rw [hbmCeWord, rowCe_cut, bump_cut (aligned_stkPg _) (apart_stkPg _ _)]
  exact Iff.rfl

@[simp] theorem hbmFix_cut {a n : Nat} : Same cutView s0 (hbmFix s a n) ↔ Same cutView s0 s := Same.iff (by simp [hbmFix])

@[simp] theorem hbmUeWord_cut {w : Nat} : Same cutView s0 (hbmUeWord s w) ↔ Same cutView s0 s :=
  Same.iff (by simp [hbmUeWord, apart_stkPg])

@[simp] theorem hbmEcc_cut {a n : Nat} : Same cutView s0 (hbmEcc s a n) ↔ Same cutView s0 s := Same.iff (by simp [hbmEcc])

@[simp] theorem scrubGrans_cut {k : Nat} : Same cutView s0 (scrubGrans s k) ↔ Same cutView s0 s := by
  rw [scrubGrans, add64_cut (.inl (by decide)) (.inl (by decide)), hbmEcc_cut, setBg_cut]

@[simp] theorem countUe_cut {core i : Nat} {l : List Nat} : Same cutView s0 (countUe s core i l) ↔ Same cutView s0 s := by
  have h1 : Apart (clPg (core / 16) + 0x184) := apart_add (aligned_clPg _) (by decide)
  have h2 : Apart (clPg (core / 16) + 0x194) := apart_add (aligned_clPg _) (by decide)
  refine Same.iff ?_
  unfold countUe
  split
  · rfl
  · simp [h1, h2]

@[simp] theorem correct_cut {core i : Nat} {l : List Nat} : Same cutView s0 (correct s core i l) ↔ Same cutView s0 s := by
  have h : Apart (clPg (core / 16) + 0x180) := apart_add (aligned_clPg _) (by decide)
  exact Same.iff (by simp [correct, h])

@[simp] theorem readSlot_cut {core i off n : Nat} : Same cutView s0 (readSlot s core i off n) ↔ Same cutView s0 s := by
  rw [readSlot, countUe_cut, correct_cut]

@[simp] theorem scrubSlots_cut {c lo hi : Nat} : Same cutView s0 (scrubSlots s c lo hi) ↔ Same cutView s0 s := Same.iff (by simp [scrubSlots])

@[simp] theorem scrubUnits_cut {a c k : Nat} : Same cutView s0 (scrubUnits s a c k) ↔ Same cutView s0 s := Same.iff (by simp [scrubUnits])

@[simp] theorem bgDo_cut {n a cyc : Nat} : Same cutView s0 (bgDo s n a cyc) ↔ Same cutView s0 s := Same.iff (by simp [bgDo])

@[simp] theorem bgClaims_cut {n pool : Nat} : Same cutView s0 (bgClaims s n pool).1 ↔ Same cutView s0 s :=
  foldlFst_same fun p a => by dsimp only; split <;> simp

@[simp] theorem openSeg_cut {n now : Nat} : Same cutView s0 (openSeg s n now) ↔ Same cutView s0 s := Same.iff (by simp [openSeg])

end

end Sys2Proof.Machine
end

section
/-!
PROOFS. DISPATCH_END (01_tick R28; 02_partitions_pitches R55, R58).
-/
namespace Sys2Proof.Machine

section
variable {s t : State}

/-! ## Lanes made late with cause NOT_BOUND -/

theorem lane_of_lanes (h : t.lanes = s.lanes) (k : Nat) : lane t k = lane s k := by unfold lane; rw [h]

theorem lane_modLane (k j : Nat) (f : Lane → Lane) : lane (modLane s k f) j = if j = k then (lane s k).map f else lane s j := by
  unfold modLane
  split
  · rename_i h
    by_cases e : j = k
    · rw [if_pos e, e, h]; rfl
    · rw [if_neg e]
  · rename_i x h
    rw [setLane, lane, smGet_smSet, h]
    rfl

/-- The lane is not late, or late with cause NOT_BOUND. -/
def Boundless (k : Nat) (s : State) : Prop := (lane s k).map Lane.late = some none ∨ (lane s k).map Lane.late = some (some 1)

/-- Marking lanes late with NOT_BOUND marks those that were not late, and leaves the others. -/
theorem late_makeLate (s : State) (k j : Nat) :
    (lane (makeLate s k 1) j).map Lane.late = if j = k then (lane s j).map fun x => some (x.late.getD 1) else (lane s j).map Lane.late := by
  rw [makeLate, lane_modLane]
  split
  · rename_i e
    subst e
    rw [Option.map_map]
    refine congrArg (fun f => Option.map f _) (funext fun x => ?_)
    cases h : x.late <;> simp [h]
  · rfl

theorem late_makeLate_kept {k : Nat} (h : (lane s k).map Lane.late = some (some 1)) (j : Nat) :
    (lane (makeLate s j 1) k).map Lane.late = some (some 1) := by
  rw [late_makeLate]
  split
  · obtain ⟨x, hx, hl⟩ := Option.map_eq_some_iff.1 h
    simp [hx, hl]
  · exact h

theorem Boundless.hit {k : Nat} (h : Boundless k s) : (lane (makeLate s k 1) k).map Lane.late = some (some 1) := by
  rw [late_makeLate, if_pos rfl]
  rcases h with h | h <;> obtain ⟨x, hx, hl⟩ := Option.map_eq_some_iff.1 h <;> simp [hx, hl]

theorem Boundless.step {k : Nat} (h : Boundless k s) (j : Nat) : Boundless k (makeLate s j 1) := by
  by_cases e : k = j
  · subst e
    exact .inr h.hit
  · unfold Boundless
    rw [late_makeLate, if_neg e]
    exact h

/-- Of the lanes with something to copy, those that the free value tells are late with NOT_BOUND where they were not late before. -/
theorem lateCopies_late {i k : Nat} (hi : (copyLanes s)[i]? = some k) (hb : bitAt (Config.freeNat s.free) i = true)
    (h0 : (lane s k).map Lane.late = some none) : (lane (lateCopies s) k).map Lane.late = some (some 1) := by
  have hne : copyLanes s ≠ [] := by rintro e; simp [e] at hi
  unfold lateCopies
  extract_lets l r
  rw [if_neg hne]
  have hmem : k ∈ l.zipIdx.filterMap fun q => if bitAt r.1 q.2 then some q.1 else none :=
    List.mem_filterMap.2 ⟨(k, i), List.mem_zipIdx_iff_getElem?.2 hi, if_pos hb⟩
  refine each_reaches (P := Boundless k) (Q := fun u => (lane u k).map Lane.late = some (some 1)) (f := lateCopy) hmem (.inl h0)
    (fun u j _ h => h.step j) (fun u h => h.hit) fun u j _ _ h => late_makeLate_kept h j

theorem lateCopies_only (s : State) : Only [.free, .lanes] s (lateCopies s) := by
  have h : ∀ u k, Only [.free, .lanes] u (lateCopy u k) := fun u k => by simp [lateCopy]
  simp [lateCopies, h]

theorem stopDispatch_only (s : State) (n : Nat) : Only [.lanes, .clus] s (stopDispatch s n) := by
  unfold stopDispatch
  rw [each_frame]
  · simp
  · intro u c
    dsimp only
    split <;> simp

theorem stopDispatch_late {k : Nat} (h : (lane s k).map Lane.late = some (some 1)) (n : Nat) :
    (lane (stopDispatch s n) k).map Lane.late = some (some 1) := by
  unfold stopDispatch
  refine each_inv (P := fun u => (lane u k).map Lane.late = some (some 1)) (fun u c _ hu => ?_) h
  extract_lets x js s1
  split
  · exact hu
  · exact each_inv (P := fun u => (lane u k).map Lane.late = some (some 1)) (fun w p _ hw => late_makeLate_kept hw p.1) hu

/-! ## The slack that opens with the pitches -/

/-- Whether a partition is steady is read from registers that the work of the edge leaves alone. -/
theorem steadyOf_cut (h : Same cutView s t) {n : Nat} (hn : n < 16) : steadyOf t n = steadyOf s n := by
  have hp : partParty t n = partParty s n := by
    have ha : ¬Apart (partPg n + 0x100) := by unfold Apart partPg; simp; omega
    unfold partParty rf
    rw [h.cut_rdN ha]
  have hlt : partParty s n < 32 := by unfold partParty rf fld; omega
  have ha : ¬Apart (ptyPg (partParty s n) + 0x218) := by unfold Apart ptyPg; simp; omega
  unfold steadyOf rb
  rw [hp, h.cut_rdN ha]

theorem steadyOf_clk (s : State) (k : Clk) (n : Nat) : steadyOf { s with clk := k } n = steadyOf s n := rfl

theorem openSeg_seg (s : State) (n m now : Nat) (h : m = n ∨ (part s m).seg.isSome = true) : (part (openSeg s n now) m).seg.isSome = true := by
  unfold openSeg
  extract_lets left rts segEnd bes pool r
  rw [part_modPart]
  split
  · rfl
  · have hr : Only [.marks, .regs, .vecs, .msgs, .slots, .hbmCe, .bg, .sirvi] s r.1 := by unfold r; simp
    rw [part_of_parts (hr .parts (by decide))]
    exact h.resolve_left ‹_›

theorem firstSeg_cut (s : State) (n : Nat) : Same cutView s (firstSeg s n) := by simp [firstSeg]

theorem firstSeg_seg {m : Nat} (n : Nat) (h : (part s m).seg.isSome = true) : (part (firstSeg s n) m).seg.isSome = true := by
  unfold firstSeg
  split
  · exact h
  · exact openSeg_seg s n m 50000 (.inr h)

/-- A slack segment opens for each partition of the list that is not steady. -/
theorem each_firstSeg {n : Nat} {l : List Nat} (hn : n < 16) (hl : n ∈ l) (hs : steadyOf s n = false) :
    (part (each s l firstSeg) n).seg.isSome = true := by
  refine each_reaches (P := Same cutView s) (Q := fun u => (part u n).seg.isSome = true) hl (same_refl cutView s)
    (fun u m _ h => h.trans (firstSeg_cut u m)) (fun u h => ?_) fun u m _ _ h => firstSeg_seg m h
  unfold firstSeg
  rw [steadyOf_cut h hn, hs]
  exact openSeg_seg u n n 50000 (.inl rfl)

/-! ## DISPATCH_END -/

theorem firstSeg_only (s : State) (n : Nat) : Only [.marks, .regs, .vecs, .msgs, .parts, .slots, .hbmCe, .bg, .sirvi] s (firstSeg s n) := by
  simp [firstSeg]

/-- What DISPATCH_END does at its cycle, before the pitches open. -/
def dispatchStop (s : State) : State :=
  let s1 := lateCopies s
  let s2 := each s1 (tickParts s1) stopDispatch
  if (tickParts s2).any (anyNotBound s2) then setEvt (bump s2 tickPg 0x16C) tickPg 5 else s2

/-- The opening of the pitches. -/
def openPitches (s : State) : State := each { s with clk := { s.clk with phase := .pitches } } (tickParts s) firstSeg

theorem dispatchEndEff_eq (h : s.clk.phase = .dispatch) : dispatchEndEff s = openPitches (dispatchStop (toCycle s 50000)) := by
  simp only [dispatchEndEff, if_pos h, openPitches, dispatchStop]

theorem lateNotBound_cut (s : State) (b : Bool) : Same cutView s (if b then setEvt (bump s tickPg 0x16C) tickPg 5 else s) := by
  have h : Apart (tickPg + 0x16C) := .inl (by decide)
  simp [h]

theorem dispatchStop_only (s : State) : Only (evtComps ++ [.free, .lanes, .clus]) s (dispatchStop s) := by
  have h : ∀ u n, Only (evtComps ++ [.free, .lanes, .clus]) u (stopDispatch u n) := fun u n => (stopDispatch_only u n).mono (by decide)
  unfold dispatchStop
  extract_lets s1 s2
  have h1 : Only (evtComps ++ [.free, .lanes, .clus]) s s1 := (lateCopies_only s).mono (by decide)
  have h2 : Only (evtComps ++ [.free, .lanes, .clus]) s s2 := (each_frame h).2 h1
  split
  · exact (setEvt_frame (by decide)).2 ((bump_frame (by decide)).2 h2)
  · exact h2

theorem dispatchStop_cut (s : State) : Same cutView s (dispatchStop s) := by
  unfold dispatchStop
  extract_lets s1 s2
  have h1 : Same cutView s s1 := (cut_of_only (lateCopies_only s)).2 (same_refl cutView s)
  have h2 : Same cutView s1 s2 := (each_same fun u n => (cut_of_only (stopDispatch_only u n)).2 (same_refl cutView u)).2 (same_refl cutView s1)
  exact (h1.trans h2).trans (lateNotBound_cut s2 _)

theorem dispatchStop_late {i k : Nat} (hi : (copyLanes s)[i]? = some k) (hb : bitAt (Config.freeNat s.free) i = true)
    (h0 : (lane s k).map Lane.late = some none) : (lane (dispatchStop s) k).map Lane.late = some (some 1) := by
  unfold dispatchStop
  extract_lets s1 s2
  have h2 : (lane s2 k).map Lane.late = some (some 1) :=
    each_inv (P := fun u => (lane u k).map Lane.late = some (some 1)) (fun u n _ h => stopDispatch_late h n) (lateCopies_late hi hb h0)
  split
  · rw [lane_of_lanes (s := s2) (by simp)]
    exact h2
  · exact h2

theorem dispatchStop_free (h : copyLanes s = []) : (dispatchStop s).free = s.free := by
  unfold dispatchStop
  extract_lets s1 s2
  have h1 : s1 = s := if_pos h
  have h2 : s2.free = s.free :=
    each_inv (P := fun u => u.free = s.free)
      (fun u n _ hu => (show (stopDispatch u n).free = u.free from stopDispatch_only u n .free (by decide)).trans hu) (congrArg State.free h1)
  split
  · exact (by simp : _ = s2.free).trans h2
  · exact h2

theorem openPitches_only (s : State) : Only [.marks, .regs, .vecs, .msgs, .parts, .slots, .hbmCe, .bg, .sirvi]
    { s with clk := { s.clk with phase := .pitches } } (openPitches s) :=
  (each_frame firstSeg_only).2 (Only.refl _ _)

theorem openPitches_clk (s : State) : (openPitches s).clk = { s.clk with phase := .pitches } := openPitches_only s .clk (by decide)

theorem openPitches_free (s : State) : (openPitches s).free = s.free := openPitches_only s .free (by decide)

theorem openPitches_lane (s : State) (k : Nat) : lane (openPitches s) k = lane s k := lane_of_lanes (openPitches_only s .lanes (by decide)) k

theorem toCycle_cyc (s : State) (c : Nat) : (toCycle s c).clk.cyc = max s.clk.cyc (c * uCyc s.clk.op) :=
  (show (toCycle s c).clk.cyc = s.clk.cyc + (c * uCyc s.clk.op - s.clk.cyc) from rfl).trans (by omega)

theorem dispatchEnd_phase {s : State} (h : s.clk.phase = .dispatch) : Gives .dispatchEnd s fun u =>
    u.clk.phase = .pitches ∧ u.clk.cyc = max s.clk.cyc (50000 * uCyc s.clk.op) ∧ u.clk.num = s.clk.num ∧
    (∀ i k x, (copyLanes s)[i]? = some k → bitAt (Config.freeNat s.free) i = true → lane s k = some x → x.late = none →
      (lane u k).map Lane.late = some (some 1)) ∧
    (copyLanes s = [] → u.free = s.free) ∧
    ∀ n, n < 16 → (part s n).st = .running ∨ (part s n).st = .maintenance → steadyOf s n = false → (part u n).seg.isSome = true := by
  refine ⟨_, congrArg Host.Outcome.next (dispatchEndEff_eq h), ?_⟩
  obtain ⟨tb, rem, cyc, e⟩ := toCycle_form (s := s) 50000
  have hcyc := toCycle_cyc s 50000
  generalize toCycle s 50000 = w at e hcyc
  have hclk : (dispatchStop w).clk = w.clk := dispatchStop_only w .clk (by decide)
  have hparts : (dispatchStop w).parts = w.parts := dispatchStop_only w .parts (by decide)
  rw [openPitches_clk, hclk]
  refine ⟨rfl, hcyc, by rw [e], fun i k x hi hb hx hl => ?_, fun hn => ?_, fun n hn hst hsd => ?_⟩
  · rw [openPitches_lane]
    subst e
    refine dispatchStop_late hi hb ?_
    exact (congrArg (Option.map Lane.late) (show lane _ k = some x from hx)).trans (congrArg some hl)
  · rw [openPitches_free]
    subst e
    exact dispatchStop_free hn
  · have hin : n ∈ tickParts (dispatchStop w) := by
      refine List.mem_filter.2 ⟨List.mem_range.2 hn, ?_⟩
      rw [part_of_parts hparts]
      have hp : part w n = part s n := part_of_parts (by rw [e]) n
      simpa [hp] using hst
    have hw : steadyOf w n = false := by
      subst e
      exact hsd
    exact each_firstSeg hn hin ((steadyOf_clk _ _ n).trans ((steadyOf_cut (dispatchStop_cut w) hn).trans hw))

end

end Sys2Proof.Machine
end

section
/-!
SUPPORT. What the device edge does after the clock has moved on leaves the clock and the registers of the first two pages alone.
-/
namespace Sys2Proof.Machine

section
variable {s0 s t : State}

/-! ## Lanes, streams and partitions are not seen -/

@[simp] theorem setStrm_still {h : Nat} {x : Strm} : Same stillView s0 (setStrm s h x) ↔ Same stillView s0 s := Iff.rfl

@[simp] theorem modStrm_still {h : Nat} {f : Strm → Strm} : Same stillView s0 (modStrm s h f) ↔ Same stillView s0 s := Iff.rfl

@[simp] theorem modPart_still {n : Nat} {f : Part → Part} : Same stillView s0 (modPart s n f) ↔ Same stillView s0 s := Iff.rfl

@[simp] theorem setLane_still {k : Nat} {x : Option Lane} : Same stillView s0 (setLane s k x) ↔ Same stillView s0 s := Iff.rfl

@[simp] theorem modLane_still {k : Nat} {f : Lane → Lane} : Same stillView s0 (modLane s k f) ↔ Same stillView s0 s := by
  unfold modLane
  split <;> rfl

/-! ## Streams at the edge -/

@[simp] theorem freeStrm_still {h : Nat} : Same stillView s0 (freeStrm s h) ↔ Same stillView s0 s := by simp [freeStrm, calm_still]

@[simp] theorem strmEdge_still {h : Nat} : Same stillView s0 (strmEdge s h) ↔ Same stillView s0 s :=
  Same.iff (by simp [strmEdge, calm_still])

@[simp] theorem strmsEdge_still : Same stillView s0 (strmsEdge s) ↔ Same stillView s0 s := by simp [strmsEdge]

/-! ## Partitions at the edge -/

@[simp] theorem clearLanes_still {n : Nat} : Same stillView s0 (clearLanes s n) ↔ Same stillView s0 s := by
  refine Same.iff ?_
  have h : Same stillView s (each s (partLanes s n) fun s p => giveBack s p.2) := by simp [calm_still]
  exact h

@[simp] theorem beginZeroise_still {n : Nat} : Same stillView s0 (beginZeroise s n) ↔ Same stillView s0 s := by
  unfold beginZeroise
  extract_lets s1 s2
  have h : Same stillView s0 s2 ↔ Same stillView s0 s := by simp [s2, s1, calm_still]
  rw [setSt_calm calm_still, ← h]
  exact Iff.rfl

@[simp] theorem stateEdge_still {n : Nat} : Same stillView s0 (stateEdge s n) ↔ Same stillView s0 s :=
  Same.iff (by simp [stateEdge, calm_still])

@[simp] theorem partReset_still {n : Nat} : Same stillView s0 (partReset s n) ↔ Same stillView s0 s :=
  Same.iff (by simp [partReset, calm_still])

@[simp] theorem partEdge_still {n : Nat} : Same stillView s0 (partEdge s n) ↔ Same stillView s0 s :=
  Same.iff (by simp [partEdge, calm_still])

/-! ## The dispatch of a partition -/

@[simp] theorem takePlace_still {h p : Nat} : Same stillView s0 (takePlace s h p) ↔ Same stillView s0 s := by simp [takePlace, calm_still]

@[simp] theorem stepUnpark_still {h : Nat} : Same stillView s0 (stepUnpark s h) ↔ Same stillView s0 s := by
  refine Same.iff ?_
  unfold stepUnpark
  dsimp only
  split
  · split <;> simp
  · rfl

@[simp] theorem stepActivate_still {h : Nat} : Same stillView s0 (stepActivate s h) ↔ Same stillView s0 s := by
  refine Same.iff ?_
  unfold stepActivate
  dsimp only
  split
  · split <;> simp
  · rfl

@[simp] theorem dispatchStrms_still {n : Nat} : Same stillView s0 (dispatchStrms s n) ↔ Same stillView s0 s :=
  Same.iff (by simp [dispatchStrms, calm_still])

@[simp] theorem carriedFaults_still {n : Nat} : Same stillView s0 (carriedFaults s n) ↔ Same stillView s0 s :=
  Same.iff (by simp [carriedFaults, calm_still])

@[simp] theorem bindLane_still {n j c l h : Nat} {b : Bool} : Same stillView s0 (bindLane s n j c l h b) ↔ Same stillView s0 s := by
  refine Same.iff ?_
  unfold bindLane
  split
  · rfl
  · simp [calm_still]

@[simp] theorem bindRun_still {n j c : Nat} {b : Bool} {hs : List Nat} : Same stillView s0 (bindRun n j c b hs s).1 ↔ Same stillView s0 s := by
  refine Same.iff ?_
  induction hs generalizing s with
  | nil => exact same_refl stillView s
  | cons h hs ih =>
    unfold bindRun
    split
    · rfl
    · exact Same.trans (by simp) ih

@[simp] theorem bindHome_still {n : Nat} {r : State × Excess} {q : Nat × Nat} : Same stillView s0 (bindHome n r q).1 ↔ Same stillView s0 r.1 :=
  bindRun_still

@[simp] theorem bindSteal_still {n : Nat} {q : Nat × Nat × List Nat} : Same stillView s0 (bindSteal n s q) ↔ Same stillView s0 s := by
  refine Same.iff ?_
  unfold bindSteal
  split
  · exact (foldlFst_same fun p m => by dsimp only; split <;> simp).2 (same_refl stillView s)
  · rfl

@[simp] theorem bindPart_still {n : Nat} : Same stillView s0 (bindPart s n) ↔ Same stillView s0 s := by
  refine Same.iff ?_
  unfold bindPart
  extract_lets js pairs r s1
  have hr : Same stillView s r.1 := (foldlFst_same fun p q => by simp).2 (by simp)
  have h1 : Same stillView s s1 := by simpa [s1] using hr
  simpa [calm_still] using h1

@[simp] theorem dispatchPart_still {n : Nat} : Same stillView s0 (dispatchPart s n) ↔ Same stillView s0 s :=
  Same.iff (by simp [dispatchPart, calm_still])

end

end Sys2Proof.Machine
end

section
/-!
SUPPORT. The run of a pitch moves the timebase, the remainder of the slew and the cycle count, and nothing else of the clock (01_tick R25;
02_partitions_pitches R55-R62).
-/
namespace Sys2Proof.Machine

/-- The clock but for the time that has passed. -/
def timeView (s : State) : Clk := { s.clk with tb := 0, rem := 0, cyc := 0 }

theorem calm_time : Calm timeView where
  comps s t h := by
    have hc : t.clk = s.clk := h .clk (by decide)
    simp only [timeView, hc]
  regs _ _ _ _ := rfl
  parts _ _ _ _ := rfl
  strms _ _ _ _ := rfl

section
variable {F : List Comp} {s0 s t : State}

theorem Same.timed (h : Same timeView s t) : Timed s t := by
  unfold Timed
  have e : { t.clk with tb := 0, rem := 0, cyc := 0 } = { s.clk with tb := 0, rem := 0, cyc := 0 } := h
  calc t.clk = { ({ t.clk with tb := 0, rem := 0, cyc := 0 } : Clk) with tb := t.clk.tb, rem := t.clk.rem, cyc := t.clk.cyc } := rfl
    _ = _ := by rw [e]

/-- What leaves the clock alone is not seen. -/
theorem time_only (h : Only F s t) (hF : .clk ∉ F := by decide) : Same timeView s0 t ↔ Same timeView s0 s := by
  have hc : t.clk = s.clk := h .clk hF
  refine Same.iff ?_
  simp only [Same, timeView, hc]

/-! ## Operations that leave the clock alone -/

@[simp] theorem toCycle_time {c : Nat} : Same timeView s0 (toCycle s c) ↔ Same timeView s0 s := Iff.rfl

@[simp] theorem modLane_time {k : Nat} {f : Lane → Lane} : Same timeView s0 (modLane s k f) ↔ Same timeView s0 s :=
  time_only (F := [.lanes]) (by simp)

@[simp] theorem setCore_time {k : Nat} {x : Core} : Same timeView s0 (setCore s k x) ↔ Same timeView s0 s := Iff.rfl

@[simp] theorem modCore_time {k : Nat} {f : Core → Core} : Same timeView s0 (modCore s k f) ↔ Same timeView s0 s := Iff.rfl

@[simp] theorem addStall_time {n a k cls : Nat} : Same timeView s0 (addStall s n a k cls) ↔ Same timeView s0 s := Iff.rfl

@[simp] theorem setFlags_time {core : Nat} {a b : Bool} : Same timeView s0 (setFlags s core a b) ↔ Same timeView s0 s :=
  time_only (F := [.regs]) (by simp)

@[simp] theorem sumPush_time {c : Nat} {w : DWord} : Same timeView s0 (sumPush s c w) ↔ Same timeView s0 s :=
  time_only (F := evtComps ++ [.clus]) (by simp)

@[simp] theorem dropReads_time {j c : Nat} : Same timeView s0 (dropReads s j c) ↔ Same timeView s0 s :=
  time_only (F := evtComps ++ [.clus]) (by simp)

@[simp] theorem freeze_time {c : Nat} {w : Wait} {cls : Nat} : Same timeView s0 (freeze s c w cls) ↔ Same timeView s0 s := Iff.rfl

@[simp] theorem chargePort_time {c : Nat} {l : List Rd} : Same timeView s0 (chargePort s c l) ↔ Same timeView s0 s :=
  time_only (F := [.clus]) (by simp)

@[simp] theorem applyFar_time {c : Nat} : Same timeView s0 (applyFar s c) ↔ Same timeView s0 s := time_only (F := [.clus]) (by simp)

@[simp] theorem noteRemote_time {c k : Nat} {l : List Ref} : Same timeView s0 (noteRemote s c k l) ↔ Same timeView s0 s :=
  time_only (F := [.clus]) (by simp)

@[simp] theorem addEffs_time {c : Nat} {l : List (Nat × Eff)} : Same timeView s0 (addEffs s c l) ↔ Same timeView s0 s :=
  time_only (F := [.clus]) (by simp)

@[simp] theorem bookUntil_time {c core t : Nat} {l : List Nat} : Same timeView s0 (bookUntil s c core t l) ↔ Same timeView s0 s :=
  time_only (F := [.clus]) (by simp)

@[simp] theorem gpPort_time {c : Nat} {l : List Rd} {r : OpRun} {p : GpPar} : Same timeView s0 (gpPort s c l r p) ↔ Same timeView s0 s :=
  time_only (F := [.clus]) (by simp)

@[simp] theorem submitAll_time {c : Nat} {l : List Byte} : Same timeView s0 (submitAll s c l) ↔ Same timeView s0 s :=
  time_only (F := [.clus]) (by simp)

@[simp] theorem putRun_time {c : Nat} {r : AttnRun} : Same timeView s0 (putRun s c r) ↔ Same timeView s0 s :=
  time_only (F := [.clus]) (by simp)

@[simp] theorem effsGate_time {c : Nat} : Same timeView s0 (effsGate s c) ↔ Same timeView s0 s := time_only (F := [.clus]) (by simp)

@[simp] theorem remGate_time {c : Nat} : Same timeView s0 (remGate s c) ↔ Same timeView s0 s := time_only (F := [.clus]) (by simp)

@[simp] theorem readAll_time {l : List Rd} : Same timeView s0 (readAll s l) ↔ Same timeView s0 s :=
  time_only (F := evtComps ++ [.pacc, .slots]) (by simp)

/-! ## Faults and effects -/

@[simp] theorem jobFault_time {n j cause : Nat} : Same timeView s0 (jobFault s n j cause) ↔ Same timeView s0 s := by
  refine Same.iff ?_
  unfold jobFault
  split
  · rfl
  · extract_lets lanes s1 s2 s3 late s4 d s5
    have h1 : Same timeView s s1 := by
      unfold s1
      split
      · split <;> simp [calm_time]
      · rfl
    have h5 : Same timeView s1 s5 := by simp [s5, s4, s3, s2, calm_time]
    split
    · exact h1.trans h5
    · exact h1.trans ((setEvt_calm calm_time (high_page_ptyPg _)).2 h5)

@[simp] theorem clusFault_time {c cause : Nat} : Same timeView s0 (clusFault s c cause) ↔ Same timeView s0 s := jobFault_time

@[simp] theorem applyEff_time {c : Nat} {e : Eff} : Same timeView s0 (applyEff s c e) ↔ Same timeView s0 s := by
  refine Same.iff ?_
  unfold applyEff
  split
  · simp [calm_time]
  · simp [calm_time]
  · simp
  · simp
  · split <;> simp

@[simp] theorem landDue_time {c t : Nat} {b : Bool} : Same timeView s0 (landDue s c t b) ↔ Same timeView s0 s :=
  Same.iff (by simp [landDue, calm_time])

@[simp] theorem landPosts_time {c : Nat} : Same timeView s0 (landPosts s c) ↔ Same timeView s0 s :=
  Same.iff (by simp [landPosts, calm_time])

@[simp] theorem freezeOn_time {c : Nat} {w : Wait} : Same timeView s0 (freezeOn s c w) ↔ Same timeView s0 s := by simp [freezeOn]

@[simp] theorem endStall_time {c k : Nat} : Same timeView s0 (endStall s c k) ↔ Same timeView s0 s :=
  Same.iff (by simp [endStall, calm_time])

@[simp] theorem portStall_time {c a k : Nat} : Same timeView s0 (portStall s c a k) ↔ Same timeView s0 s :=
  Same.iff (by simp [portStall, calm_time])

/-! ## Runs -/

/-- What a cycle of a run leaves looks the same under the view. -/
def Ran.Same (s : State) : Ran → Prop
  | .wait _ => True
  | .fault t => Machine.Same timeView s t
  | .on t _ => Machine.Same timeView s t

@[simp] theorem Ran.same_wait {w : Wait} : Ran.Same s (.wait w) ↔ True := Iff.rfl
@[simp] theorem Ran.same_fault : Ran.Same s (.fault t) ↔ Machine.Same timeView s t := Iff.rfl
@[simp] theorem Ran.same_on {r : OpRun} : Ran.Same s (.on t r) ↔ Machine.Same timeView s t := Iff.rfl

theorem Ran.Same.of {r : Ran} (h : Machine.Same timeView s0 s) (k : Ran.Same s r) : Ran.Same s0 r := by
  cases r with
  | wait w => trivial
  | fault t => exact Machine.Same.trans h k
  | on t r => exact Machine.Same.trans h k

@[simp] theorem Ran.same_ite {c : Prop} [Decidable c] {a b : Ran} :
    Ran.Same s (if c then a else b) ↔ (c → Ran.Same s a) ∧ (¬c → Ran.Same s b) := by
  split <;> simp [*]

@[simp] theorem runRead_time {c : Nat} {l : List Rd} {f : State → List Byte → Ran} (hf : ∀ s bs, Ran.Same s (f s bs)) :
    Ran.Same s ((runRead s c l).andThen f) := by
  unfold runRead
  split
  · trivial
  · dsimp only
    split
    · change Machine.Same timeView s _; simp
    · exact Ran.Same.of (by simp) (hf _ _)

@[simp] theorem streamOn_time {c : Nat} {r : OpRun} : Ran.Same s (streamOn s c r) := by simp [streamOn]

@[simp] theorem streamStep_time {c : Nat} {r : OpRun} : Ran.Same s (streamStep s c r) := by
  unfold streamStep
  dsimp only
  split
  · exact runRead_time fun s bs => Ran.Same.of (by simp) streamOn_time
  · exact streamOn_time

@[simp] theorem drainStep_time {c : Nat} {r : OpRun} : Ran.Same s (drainStep s c r) := by simp [drainStep, drainOut]

@[simp] theorem chainGo_time {c : Nat} {r : OpRun} {p : GpPar} {j : Nat} : Ran.Same s (chainGo s c r p j) := by
  unfold chainGo
  dsimp only
  split
  · trivial
  · simp

@[simp] theorem chainPars_time {c : Nat} {r : OpRun} : Ran.Same s (chainPars s c r) := by
  unfold chainPars
  dsimp only
  split <;> simp

@[simp] theorem runStep_time {c : Nat} {r : OpRun} : Ran.Same s (runStep s c r) := by
  unfold runStep
  cases r.kind with
  | chain => simp [chainStep]
  | copy => simp [copyStep]
  | dma => simp [dmaStep]
  | tile => simp [tileStep]
  | _ => simp

@[simp] theorem loadwMove_time {c : Nat} {r : OpRun} {room : Nat} : Same timeView s0 (loadwMove s c r room).1 ↔ Same timeView s0 s := by
  refine Same.iff ?_
  unfold loadwMove
  dsimp only
  split
  · rfl
  · split
    · rfl
    · split <;> simp

@[simp] theorem loadwServe_time {c core room : Nat} : Same timeView s0 (loadwServe s c core room) ↔ Same timeView s0 s := by
  refine Same.iff ?_
  unfold loadwServe
  refine (foldlFst_same fun a i => ?_).2 (same_refl timeView s)
  split
  · rename_i r _
    have hm : Same timeView a.1 ((List.range 2).foldl (fun (m : State × OpRun × Nat) _ => loadwMove m.1 c m.2.1 m.2.2) (a.1, r, a.2)).1 :=
      (foldlFst_same fun m _ => by simp).2 (same_refl timeView a.1)
    dsimp only
    split <;> simp [calm_time, hm]
  · rfl

@[simp] theorem loadwGate_time {k c : Nat} : Same timeView s0 (loadwGate k s c) ↔ Same timeView s0 s := by
  refine Same.iff ?_
  induction k generalizing s with
  | zero => exact same_refl timeView s
  | succ k ih =>
    unfold loadwGate
    split
    · rfl
    · split
      · simp
      · dsimp only
        split
        · exact Same.trans (by simp) ih
        · simp

@[simp] theorem runOne_time {c i : Nat} : Same timeView s0 (runOne c s i) ↔ Same timeView s0 s := by
  refine Same.iff ?_
  unfold runOne
  split
  · rfl
  · split
    · rfl
    · rename_i r _
      split
      · rfl
      · have h := runStep_time (s := s) (c := c) (r := r)
        generalize runStep s c r = o at h
        cases o with
        | wait w => simp
        | fault t => exact h
        | on t r => exact (modClu_calm calm_time).2 h

@[simp] theorem runsPass_time {c : Nat} : Same timeView s0 (runsPass s c) ↔ Same timeView s0 s :=
  Same.iff (by simp [runsPass, calm_time])

@[simp] theorem atRead_time {c : Nat} {l : List (Option (Nat × Nat))} {k : State → State} (hk : ∀ s, Same timeView s (k s)) :
    Same timeView s0 (atRead s c l k) ↔ Same timeView s0 s := by
  refine Same.iff ?_
  unfold atRead
  split
  · simp
  · dsimp only
    split
    · simp
    · exact Same.trans (by simp) (hk _)

@[simp] theorem atBlock_time {c : Nat} {r : AttnRun} : Same timeView s0 (atBlock s c r) ↔ Same timeView s0 s :=
  Same.iff (by simp [atBlock, calm_time])

@[simp] theorem atFinish_time {c : Nat} {r : AttnRun} : Same timeView s0 (atFinish s c r) ↔ Same timeView s0 s :=
  Same.iff (by simp [atFinish, calm_time])

@[simp] theorem atRunN_time {k c : Nat} : Same timeView s0 (atRunN k s c) ↔ Same timeView s0 s := by
  refine Same.iff ?_
  induction k generalizing s with
  | zero => exact same_refl timeView s
  | succ k ih =>
    unfold atRunN
    dsimp only
    split
    · rfl
    · split
      · rfl
      · exact Same.trans (by simp) ih

@[simp] theorem atRun_time {c : Nat} : Same timeView s0 (atRun s c) ↔ Same timeView s0 s := Same.iff (by simp [atRun])

@[simp] theorem leaveCycle_time {c : Nat} : Same timeView s0 (leaveCycle s c) ↔ Same timeView s0 s :=
  Same.iff (by simp [leaveCycle, calm_time])

@[simp] theorem enterCycle_time {c : Nat} : Same timeView s0 (enterCycle s c) ↔ Same timeView s0 s := Same.iff (by simp [enterCycle])

@[simp] theorem drainN_time {k e c : Nat} : Same timeView s0 (drainN k e s c) ↔ Same timeView s0 s := by
  refine Same.iff ?_
  induction k generalizing s with
  | zero => exact same_refl timeView s
  | succ k ih =>
    unfold drainN
    dsimp only
    split
    · simp
    · split
      · simp
      · split
        · simp
        · exact Same.trans (by simp [calm_time]) ih

/-! ## Pitches -/

@[simp] theorem flushClus_time {e c : Nat} : Same timeView s0 (flushClus e s c) ↔ Same timeView s0 s :=
  Same.iff (by simp [flushClus, finishHalt, calm_time])

@[simp] theorem runTo_time {n e : Nat} : Same timeView s0 (runTo s n e) ↔ Same timeView s0 s := by
  refine Same.iff ?_
  unfold runTo
  split
  · split <;> simp
  · rfl

@[simp] theorem pitchEndEff_time {n c : Nat} : Same timeView s0 (pitchEndEff n c s) ↔ Same timeView s0 s := by
  refine Same.iff ?_
  unfold pitchEndEff
  split
  · rfl
  · simp [calm_time]

@[simp] theorem pitchLimitEff_time {n : Nat} : Same timeView s0 (pitchLimitEff n s) ↔ Same timeView s0 s := by
  refine Same.iff ?_
  unfold pitchLimitEff
  split
  · rfl
  · simp [calm_time]

theorem limitPitches_timed (s : State) : Timed s (limitPitches s) :=
  Same.timed (by simp [limitPitches])

theorem cutPitch_time (s : State) (n : Nat) : Same timeView s (cutPitch s n) := by
  unfold cutPitch
  split
  · simp [calm_time]
  · rfl

end

end Sys2Proof.Machine
end

section
/-!
PROOFS. COMMIT_WINDOW_OPEN (01_tick R24, R30; 02_partitions_pitches R55).
-/
namespace Sys2Proof.Machine

section
variable {s t u : State}

/-! ## COMMIT_WINDOW_OPEN (01_tick R30) -/

theorem commitStart_timed (h : Timed s t) : commitStart t = commitStart s := by
  unfold Timed at h
  unfold commitStart nNow
  rw [h]

/-- The lanes of a partition that are done. -/
def doneLanes (s : State) (n : Nat) : List Nat := (partLanes s n).filterMap fun p => if laneDone s p.1 p.2 then some p.1 else none

/-- Only the partitions' records differ, and neither in their states nor in the jobs nor in what the KV engine has reserved. -/
def Fixing (s t : State) : Prop :=
  t = { s with parts := t.parts } ∧ ∀ m, (part t m).st = (part s m).st ∧ (part t m).jobs = (part s m).jobs ∧ (part t m).kvRes = (part s m).kvRes

theorem Fixing.refl (s : State) : Fixing s s := ⟨rfl, fun _ => ⟨rfl, rfl, rfl⟩⟩

theorem Fixing.trans (h : Fixing s t) (k : Fixing t u) : Fixing s u := by
  obtain ⟨hs, hp⟩ := h
  obtain ⟨ks, kp⟩ := k
  refine ⟨by rw [ks, hs], fun m => ?_⟩
  obtain ⟨h1, h2, h3⟩ := hp m
  obtain ⟨k1, k2, k3⟩ := kp m
  exact ⟨k1.trans h1, k2.trans h2, k3.trans h3⟩

theorem fixFlipSet_fixing (s : State) (n : Nat) : Fixing s (fixFlipSet s n) := by
  refine ⟨rfl, fun m => ?_⟩
  unfold fixFlipSet
  rw [part_modPart]
  split
  · rename_i e
    subst e
    exact ⟨rfl, rfl, rfl⟩
  · exact ⟨rfl, rfl, rfl⟩

/-- Which lanes are done does not depend on the flip sets. -/
theorem Fixing.laneDone (h : Fixing s t) (k : Nat) (l : Lane) : laneDone t k l = laneDone s k l := by
  obtain ⟨hs, hp⟩ := h
  have hjob : ∀ n j, job t n j = job s n j := fun n j => by
    obtain ⟨-, hj, -⟩ := hp n
    unfold job
    rw [hj]
  have hres : ∀ n k, reservedBytes t n k = reservedBytes s n k := fun n k => by
    obtain ⟨-, -, hk⟩ := hp n
    unfold reservedBytes
    rw [hk, hs]
    rfl
  have hnew : newSlots t l = newSlots s l := by
    unfold newSlots sideSlots
    simp only [hjob]
    rw [hs]
    rfl
  have hem : emRow t k l = emRow s k l := by
    unfold emRow
    simp only [hjob]
    rw [hs]
    rfl
  have hlost : laneLost t k l = laneLost s k l := by
    unfold laneLost
    simp only [hnew, hem, hres]
    rw [hs]
    rfl
  unfold Machine.laneDone
  rw [hlost, hnew, hem, hs]
  rfl

theorem Fixing.doneLanes (h : Fixing s t) (n : Nat) : doneLanes t n = doneLanes s n := by
  have hl : partLanes t n = partLanes s n := by
    unfold partLanes
    rw [h.1]
  unfold Machine.doneLanes
  rw [hl]
  exact List.filterMap_congr fun p _ => by rw [h.laneDone]

theorem flipSet_fixFlipSet (s : State) (n m : Nat) :
    (part (fixFlipSet s m) n).flipSet = if n = m then some (doneLanes s m) else (part s n).flipSet := by
  unfold fixFlipSet
  rw [part_modPart]
  split <;> rfl

theorem each_fixFlipSet_fixing (s : State) (l : List Nat) : Fixing s (each s l fixFlipSet) :=
  each_inv (P := Fixing s) (fun u m _ h => h.trans (fixFlipSet_fixing u m)) (Fixing.refl s)

/-- The flip sets of the partitions of a list are their lanes that are done. -/
theorem each_fixFlipSet {n : Nat} {l : List Nat} (hn : n ∈ l) :
    (part (each s l fixFlipSet) n).flipSet = some (doneLanes (each s l fixFlipSet) n) := by
  rw [(each_fixFlipSet_fixing s l).doneLanes]
  refine each_reaches (P := Fixing s) (Q := fun u => (part u n).flipSet = some (doneLanes s n)) hn (Fixing.refl s)
    (fun u m _ h => h.trans (fixFlipSet_fixing u m)) (fun u h => ?_) fun u m _ h hq => ?_
  · rw [flipSet_fixFlipSet, if_pos rfl, h.doneLanes]
  · rw [flipSet_fixFlipSet]
    split
    · rename_i e
      rw [h.doneLanes, e]
    · exact hq

theorem commitWindowOpen_phase (h : s.clk.phase = .pitches) : Gives .commitWindowOpen s fun u =>
    u.clk.phase = .commit ∧ commitStart s * uCyc s.clk.op ≤ u.clk.cyc ∧ u.clk.num = s.clk.num ∧
    ∀ n, n < 16 → (part u n).st = .running ∨ (part u n).st = .maintenance →
      (part u n).flipSet = some ((partLanes u n).filterMap fun p => if laneDone u p.1 p.2 then some p.1 else none) := by
  refine ⟨_, rfl, ?_⟩
  rw [commitWindowOpenEff, if_pos h]
  extract_lets s1 s2
  have ht : Timed s s1 := limitPitches_timed s
  have hcyc : s2.clk.cyc = max s1.clk.cyc (commitStart s1 * uCyc s1.clk.op) := toCycle_cyc s1 _
  rw [commitStart_timed ht, ht.op] at hcyc
  have hnum : s2.clk.num = s.clk.num := ht.num
  clear_value s2
  generalize hw : { s2 with clk := { s2.clk with phase := .commit } } = w
  obtain ⟨hs, hp⟩ := each_fixFlipSet_fixing w (tickParts s2)
  have hclk : (each w (tickParts s2) fixFlipSet).clk = { s2.clk with phase := .commit } := by rw [hs, ← hw]
  refine ⟨by rw [hclk], by rw [hclk]; show _ ≤ s2.clk.cyc; omega, by rw [hclk]; exact hnum, fun n hn hst => ?_⟩
  have hin : n ∈ tickParts s2 := by
    obtain ⟨he, -, -⟩ := hp n
    refine List.mem_filter.2 ⟨List.mem_range.2 hn, ?_⟩
    rw [he, ← hw] at hst
    have hst : (part s2 n).st = .running ∨ (part s2 n).st = .maintenance := hst
    simpa using hst
  exact each_fixFlipSet hin

end

end Sys2Proof.Machine
end

section
/-!
PROOFS. TICK_EDGE and FLYWHEEL_EDGE (01_tick R17, R20, R25).
-/
namespace Sys2Proof.Machine

section
variable {s t u : State}

/-! ## The clock at an edge -/

/-- What the clock shows of an edge. -/
def Clk.shown (k : Clk) : Nat × Nat × Bool × Nat × Phase × Bool × Bool × Option Int × Option Int :=
  (k.tb, k.num, k.seen, k.cyc, k.phase, k.run, k.cutDone, k.lastEdge, k.tickOut)

/-- The choice of the source leaves what the edge shows, and the configuration that waits. -/
theorem edgeSource_shown (s : State) (fly : Bool) :
    (edgeSource s fly).clk.shown = s.clk.shown ∧ (edgeSource s fly).clk.wait = s.clk.wait := by
  unfold edgeSource
  extract_lets k s1 s2
  split
  · split <;> simp [s1, k, Clk.shown]
  · split
    · split <;> simp [s2, k, Clk.shown]
    · split
      · simp [k, Clk.shown]
      · split
        · split <;> simp [k, Clk.shown]
        · simp [k, Clk.shown]

/-- A flywheel edge makes the run one longer; the first of a run is told (R20). -/
theorem edgeSource_fly (s : State) : (edgeSource s true).clk.fly = s.clk.fly + 1 ∧ (edgeSource s true).clk.srcNow = 2 ∧
    (s.clk.fly = 0 → rb (edgeSource s true) (tickPg + 0x14) 1 = true) := by
  unfold edgeSource
  extract_lets k s1
  rw [if_pos rfl]
  split
  · exact ⟨by simp [s1, k], by simp [s1], fun _ => rb_setEvt _ _ _ (by decide)⟩
  · exact ⟨by simp [s1, k], by simp [s1], fun h => absurd h ‹_›⟩

theorem takeForce_shown (s : State) (c : TickCfg) (x : Option Int) : (takeForce s c x).clk.shown = s.clk.shown := by
  unfold takeForce
  extract_lets k k' changed
  split
  · rfl
  · split
    · rfl
    · split <;> rfl

/-- The new operating point leaves what the edge shows, the source, and the events told. -/
theorem edgeOp_shown (s : State) : (edgeOp s).clk.shown = s.clk.shown ∧ (edgeOp s).clk.fly = s.clk.fly ∧
    (edgeOp s).clk.srcNow = s.clk.srcNow ∧ (rb s (tickPg + 0x14) 1 = true → rb (edgeOp s) (tickPg + 0x14) 1 = true) := by
  unfold edgeOp
  split
  · exact ⟨rfl, rfl, rfl, id⟩
  · dsimp only
    split
    · refine ⟨by simp [Clk.shown], by simp, by simp, fun h => ?_⟩
      rw [setEvt, rb_setEvtT_iff _ _ _ _ _ _ (by decide)]
      simp only [rb_clk, h, Bool.true_or]
    · exact ⟨rfl, rfl, rfl, id⟩

/-- The count of ticks at an edge (R17). -/
def edgeCount (s : State) : State :=
  { s with clk := { s.clk with
    len := cycNow s, num := if s.clk.seen then (s.clk.num + 1) % 2 ^ 64 else 0, seen := true, cyc := 0 } }

/-- The edge itself, at the time of the state. -/
def edgeStart (s : State) : State :=
  { s with clk := { s.clk with
    lastEdge := some (s.clk.tb : Int), fbEdge := none, gridFrom := (s.clk.tb : Int) + 1, run := true, phase := .dispatch, cutDone := false
    tickOut := some (s.clk.tb : Int) } }

/-- A configuration that waits takes force at the edge (R16). -/
def edgeForce (s : State) (x : Int) : State :=
  match s.clk.wait with
  | some c => takeForce s c (some x)
  | none => s

theorem edgeClk_eq (s : State) (t : Int) (fly : Bool) : edgeClk s t fly =
    edgeOp (edgeForce (edgeStart (edgeSource (edgeCount (toTbI s t)) fly)) ((edgeSource (edgeCount (toTbI s t)) fly).clk.tb : Int)) := by
  unfold edgeClk edgeForce
  rfl

theorem edgeForce_shown (s : State) (x : Int) : (edgeForce s x).clk.shown = s.clk.shown := by
  unfold edgeForce
  split
  · exact takeForce_shown s _ _
  · rfl

theorem edgeStart_shown (s : State) : (edgeStart s).clk.shown =
    (s.clk.tb, s.clk.num, s.clk.seen, s.clk.cyc, .dispatch, true, false, some (s.clk.tb : Int), some (s.clk.tb : Int)) := rfl

/-- The edge of the clock, as it shows. -/
theorem edgeClk_shown (s : State) (t : Int) (fly : Bool) :
    (edgeClk s t fly).clk.shown = ((toTbI s t).clk.tb, if s.clk.seen then (s.clk.num + 1) % 2 ^ 64 else 0, true, 0, .dispatch, true, false,
      some ((toTbI s t).clk.tb : Int), some ((toTbI s t).clk.tb : Int)) := by
  obtain ⟨hk, -⟩ := edgeSource_shown (edgeCount (toTbI s t)) fly
  obtain ⟨ho, -⟩ := edgeOp_shown (edgeForce (edgeStart (edgeSource (edgeCount (toTbI s t)) fly))
    ((edgeSource (edgeCount (toTbI s t)) fly).clk.tb : Int))
  simp only [Clk.shown, Prod.mk.injEq] at hk
  obtain ⟨htb, hnum, hseen, hcyc, -⟩ := hk
  have ht : Timed s (toTbI s t) := timed_toTb s _
  rw [edgeClk_eq, ho, edgeForce_shown, edgeStart_shown, htb, hnum, hseen, hcyc]
  simp only [edgeCount, ht.num, ht.seen]

/-- A flywheel edge with no configuration that waits. -/
theorem edgeClk_fly {s : State} (t : Int) (hw : s.clk.wait = none) : (edgeClk s t true).clk.fly = s.clk.fly + 1 ∧
    (edgeClk s t true).clk.srcNow = 2 ∧ (s.clk.fly = 0 → rb (edgeClk s t true) (tickPg + 0x14) 1 = true) := by
  have ht : Timed s (toTbI s t) := timed_toTb s _
  have hfly : (edgeCount (toTbI s t)).clk.fly = s.clk.fly := ht.fly
  obtain ⟨-, hwait⟩ := edgeSource_shown (edgeCount (toTbI s t)) true
  have hnone : (edgeStart (edgeSource (edgeCount (toTbI s t)) true)).clk.wait = none := hwait.trans (ht.wait.trans hw)
  have hforce : ∀ x, edgeForce (edgeStart (edgeSource (edgeCount (toTbI s t)) true)) x = edgeStart (edgeSource (edgeCount (toTbI s t)) true) :=
    fun x => by rw [edgeForce, hnone]
  obtain ⟨hf, hs, he⟩ := edgeSource_fly (edgeCount (toTbI s t))
  obtain ⟨-, of, os, oe⟩ := edgeOp_shown (edgeStart (edgeSource (edgeCount (toTbI s t)) true))
  rw [edgeClk_eq, hforce]
  exact ⟨of.trans (hf.trans (congrArg (· + 1) hfly)), os.trans hs, fun h => oe (he (hfly.trans h))⟩

/-! ## What comes before and after the clock -/

/-- The choice of the coming operating point leaves the clock but for that choice. -/
theorem pointEdge_clk (s : State) : ∃ o, (pointEdge s).clk = { s.clk with opNext := o } := by
  unfold pointEdge
  extract_lets x p v k s1 q
  split
  · exact ⟨s.clk.opNext, rfl⟩
  · split
    · split
      · have h1 : s1.clk = { s.clk with opNext := some (p, true) } := by simp [s1, k]
        have hd : Only [.sirvi] s1 (sumDev s1 0x0060 0 x.hotBy (natLe 1 x.hotBy)) := by simp
        split
        · exact ⟨_, (show (sumDev s1 0x0060 0 x.hotBy (natLe 1 x.hotBy)).clk = s1.clk from hd .clk (by decide)).trans h1⟩
        · exact ⟨_, h1⟩
      · exact ⟨none, rfl⟩
    · split
      · exact ⟨s.clk.opNext, rfl⟩
      · split
        · exact ⟨_, rfl⟩
        · exact ⟨s.clk.opNext, rfl⟩

/-- What the edge does after its clock. -/
theorem deviceEdge_still (s : State) (t : Int) (fly : Bool) :
    Same stillView (edgeClk (tickTotals (pointEdge (each (toTbI s t) (List.range 16) cutPitch))) t fly) (deviceEdge s t fly) := by
  unfold deviceEdge
  extract_lets s0 s1 s2 ups s3 s4 s5
  have h2 : Same stillView (edgeClk s1 t fly) s2 := (partiesEdge_calm calm_still).2 (same_refl stillView _)
  have h3 : Same stillView s2 s3 := by simp [s3, calm_still]
  have h5 : Same stillView s3 s5 := by simp [s5, s4, calm_still]
  exact ((h2.trans h3).trans h5).trans (by simp)

/-- Where no pitch runs, the edge finds nothing to cut. -/
theorem cutPitch_idle (n : Nat) (h : (part s n).pitch = none) : cutPitch s n = s := by
  unfold cutPitch
  rw [h]

theorem Same.still_clk (h : Same stillView s t) : t.clk = s.clk := congrArg Prod.fst h

theorem Same.still_rdN (h : Same stillView s t) (a : Nat) (ha : a < 0x2000) : rdN t a = rdN s a := congrArg (fun v => v.2 ⟨a, ha⟩) h

/-- The totals of a tick and the coming operating point leave the clock but for that point. -/
theorem tickTotals_clk (s : State) : ∃ o, (tickTotals (pointEdge s)).clk = { s.clk with opNext := o } := by
  obtain ⟨o, ho⟩ := pointEdge_clk s
  have h : Same stillView (pointEdge s) (tickTotals (pointEdge s)) := (tickTotals_calm calm_still).2 (same_refl stillView _)
  exact ⟨o, h.still_clk.trans ho⟩

/-- The tick that ends, where its pitches are cut. -/
def tickCut (s : State) (t : Int) : State := each (toTbI s t) (List.range 16) cutPitch

/-- What the tick leaves when the edge falls, before its clock. -/
def tickLeft (s : State) (t : Int) : State := tickTotals (pointEdge (tickCut s t))

theorem tickCut_timed (s : State) (t : Int) : Timed s (tickCut s t) := by
  have hc : Same timeView (toTbI s t) (tickCut s t) := by
    unfold tickCut
    rw [each_same cutPitch_time]
    exact same_refl timeView _
  exact (timed_toTb s _).trans hc.timed

/-- The count of ticks, the flywheel run and a configuration that waits are at the edge as they were. -/
theorem tickLeft_reads (s : State) (t : Int) : (tickLeft s t).clk.num = s.clk.num ∧ (tickLeft s t).clk.seen = s.clk.seen ∧
    (tickLeft s t).clk.fly = s.clk.fly ∧ (tickLeft s t).clk.wait = s.clk.wait := by
  have ht := tickCut_timed s t
  unfold tickLeft
  generalize tickCut s t = w at ht
  obtain ⟨o, ho⟩ := tickTotals_clk w
  rw [ho]
  exact ⟨ht.num, ht.seen, ht.fly, ht.wait⟩

theorem tickLeft_tb {t : Int} (ht : (s.clk.tb : Int) ≤ t) (hp : ∀ n, n < 16 → (part s n).pitch = none) : ((tickLeft s t).clk.tb : Int) = t := by
  have hpart : ∀ n, part (toTbI s t) n = part s n := fun n => by
    obtain ⟨tb, rem, cyc, e⟩ := toTbI_form s t
    exact part_of_parts (by rw [e]) n
  have hcut : tickCut s t = toTbI s t :=
    each_eq_self fun n hn => cutPitch_idle n (by rw [hpart]; exact hp n (List.mem_range.1 hn))
  have htb := toTbI_tb ht
  unfold tickLeft
  rw [hcut]
  generalize toTbI s t = w at htb
  obtain ⟨o, ho⟩ := tickTotals_clk w
  rw [ho]
  exact htb

/-! ## TICK_EDGE and FLYWHEEL_EDGE -/

theorem edge_gives {c : Instr} {P : State → Prop} {t : Int} {fly : Bool} (hc : c = if fly then .flywheelEdge else .tickEdge)
    (hn : nextEdge s = some (t, fly)) (hr : (edgeReady s || edgeEarly s t) = true) (h : P (deviceEdge s t fly)) : Gives c s P := by
  have he : edgeEff fly s = deviceEdge s t fly := by
    unfold edgeEff
    rw [hn]
    exact if_pos (by simpa using hr)
  subst hc
  refine ⟨_, ?_, h⟩
  rw [← he]
  cases fly <;> rfl

theorem deviceEdge_ticks {s : State} {t : Int} {fly : Bool} (hn : nextEdge s = some (t, fly)) (hr : (edgeReady s || edgeEarly s t) = true) :
    Gives (if fly then .flywheelEdge else .tickEdge) s fun u =>
      u.clk.num = (if s.clk.seen then (s.clk.num + 1) % 2 ^ 64 else 0) ∧ u.clk.seen = true ∧ u.clk.cyc = 0 ∧ u.clk.phase = .dispatch ∧
      u.clk.run = true ∧ u.clk.cutDone = false ∧ u.clk.lastEdge = some (u.clk.tb : Int) ∧ u.clk.tickOut = some (u.clk.tb : Int) ∧
      ((s.clk.tb : Int) ≤ t → (∀ n, n < 16 → (part s n).pitch = none) → (u.clk.tb : Int) = t) ∧
      (fly = true → s.clk.wait = none → u.clk.fly = s.clk.fly + 1 ∧ u.clk.srcNow = 2 ∧ (s.clk.fly = 0 → rb u (tickPg + 0x14) 1 = true)) := by
  refine edge_gives rfl hn hr ?_
  have hs : Same stillView (edgeClk (tickLeft s t) t fly) (deviceEdge s t fly) := deviceEdge_still s t fly
  have hclk := hs.still_clk
  have hevt := hs.still_rdN (tickPg + 0x14) (by decide)
  obtain ⟨hnum, hseen, hfly, hwait⟩ := tickLeft_reads s t
  have hk := edgeClk_shown (tickLeft s t) t fly
  simp only [Clk.shown, Prod.mk.injEq] at hk
  obtain ⟨ktb, knum, kseen, kcyc, kphase, krun, kcut, klast, kout⟩ := hk
  rw [hclk, ktb]
  refine ⟨by rw [knum, hseen, hnum], kseen, kcyc, kphase, krun, kcut, klast, kout, fun ht hp => ?_, fun hf hw => ?_⟩
  · have htb := tickLeft_tb ht hp
    exact toTbI_tb (le_of_eq htb)
  · subst hf
    obtain ⟨hrun, hsrc, hfirst⟩ := edgeClk_fly t (hwait.trans hw)
    refine ⟨hrun.trans (congrArg (· + 1) hfly), hsrc, fun h0 => ?_⟩
    unfold rb
    rw [hevt]
    exact hfirst (hfly.trans h0)

end

/-- Settles O10: what each of the five commands leaves, from the lemma of that command. -/
theorem edgesRunTheTick : Obligations.EdgesRunTheTick :=
  ⟨fun _ _ _ => deviceEdge_ticks, fun _ => dispatchEnd_phase, fun _ => commitWindowOpen_phase, fun _ => flip_phase,
    fun _ _ outs => cutoff_predicted outs⟩

end Sys2Proof.Machine
end

section
/-!
PROOFS. Partition commands and the edges that they wait for (02_partitions_pitches R41-R43, R47).
-/
namespace Sys2Proof.Machine

set_option Elab.async false

/-! ## Registers of a page after an event -/

/-- An event of a page leaves the registers of the other pages. -/
theorem rd_setEvt_page (s : State) {pg a : Nat} (bit d : Nat) (hp : pg % 4096 = 0) (h : a / 4096 ≠ pg / 4096) :
    rd (setEvt s pg bit d) a = rd s a :=
  BitVec.eq_of_toNat_eq (rdN_setEvt_ne pg bit d a (by omega))

/-- CMD_PEND is bit 8 of PART_STAT. -/
theorem partStat_cmdPend (s : State) (n : Nat) : bitAt (partStat s n) 8 = cmdPend s n := by
  have hc : pstCode (part s n).st < 256 := by cases (part s n).st <;> decide
  unfold partStat bitAt
  dsimp only
  rw [Nat.testBit_eq_decide_div_mod_eq]
  cases cmdPend s n <;> cases (part s n).tblPend <;> simp [b2n] <;> omega

/-! ## What the operations of the commands leave -/

/-- `t` is `s` but for the record of partition `n` and what an event of its page writes. -/
def PartOnly (n : Nat) (s t : State) : Prop :=
  Only (.parts :: evtComps) s t ∧ (∀ m, m ≠ n → part t m = part s m) ∧ ∀ a, a / 4096 ≠ 0x200 + n → rd t a = rd s a

theorem PartOnly.refl (n : Nat) (s : State) : PartOnly n s s := ⟨Only.refl _ s, fun _ _ => rfl, fun _ _ => rfl⟩

theorem PartOnly.trans {n : Nat} {s t u : State} (h : PartOnly n s t) (k : PartOnly n t u) : PartOnly n s u := by
  obtain ⟨ho, hp, hr⟩ := h
  obtain ⟨ko, kp, kr⟩ := k
  exact ⟨ho.trans ko, fun m hm => (kp m hm).trans (hp m hm), fun a ha => (kr a ha).trans (hr a ha)⟩

theorem modPart_partOnly (s : State) (n : Nat) (f : Part → Part) : PartOnly n s (modPart s n f) :=
  ⟨by simp, fun m hm => by rw [part_modPart, if_neg hm], fun _ _ => rfl⟩

theorem setEvt_partOnly (s : State) (n bit d : Nat) : PartOnly n s (setEvt s (partPg n) bit d) :=
  ⟨by simp, fun m _ => part_setEvt .., fun a ha => rd_setEvt_page s bit d (by unfold partPg; omega) (by unfold partPg; omega)⟩

theorem setSt_partOnly (s : State) (n : Nat) (st : PState) : PartOnly n s (setSt s n st) := by
  unfold setSt
  split
  · exact .refl n s
  · exact (modPart_partOnly ..).trans (setEvt_partOnly ..)

theorem cmdReject_partOnly (s : State) (n k : Nat) : PartOnly n s (cmdReject s n k) :=
  (modPart_partOnly ..).trans (setEvt_partOnly ..)

theorem partCmd_partOnly {n : Nat} {ok : PState → Bool} {f : State → State} (hf : ∀ s, PartOnly n s (f s)) (s : State) :
    PartOnly n s (partCmd n ok f s) := by
  unfold partCmd
  split
  · exact cmdReject_partOnly ..
  · exact hf s

theorem pfDo_partOnly {n : Nat} {f : State → State} (hf : ∀ s, PartOnly n s (f s)) (s : State) : PartOnly n s (pfDo s f) := by
  unfold pfDo
  split
  · exact hf s
  · exact .refl n s

theorem startEff_partOnly (n : Nat) (s : State) : PartOnly n s (startEff n s) := by
  refine partCmd_partOnly (fun u => ?_) s
  split
  · exact cmdReject_partOnly ..
  · exact modPart_partOnly ..

/-- Each of the commands that move STATE changes its own partition's record and page only. -/
theorem stateCommand_partOnly {s t : State} {n : Fin 16} {c : Instr}
    (hc : c ∈ [.configure n, .reconfig n, .start n, .maint n, .stop n, .resume n]) (h : exec c s = Host.Outcome.next t) :
    PartOnly n s t := by
  have wait : ∀ (ok : PState → Bool) (p : PendCmd) (k : State → Nat) (u : State),
      PartOnly n u (pfDo u (partCmd n ok fun s => waitCmd p n (k s) s)) := fun ok p k =>
    pfDo_partOnly (partCmd_partOnly fun _ => modPart_partOnly ..)
  have move : ∀ (ok : PState → Bool) (st : PState) (u : State), PartOnly n u (pfDo u (partCmd n ok fun s => setSt s n st)) :=
    fun ok st => pfDo_partOnly (partCmd_partOnly fun _ => setSt_partOnly ..)
  simp only [List.mem_cons, List.not_mem_nil, or_false] at hc
  rcases hc with rfl | rfl | rfl | rfl | rfl | rfl
  · have e : (if hostUp s && !devRdy s then cmdReject s n 7 else pfDo s (configureEff n)) = t := Host.Outcome.next.inj h
    subst e
    split
    · exact cmdReject_partOnly ..
    · exact move ..
  · obtain rfl := Host.Outcome.next.inj h
    exact move ..
  · obtain rfl := Host.Outcome.next.inj h
    exact pfDo_partOnly (startEff_partOnly n) s
  · obtain rfl := Host.Outcome.next.inj h
    exact wait _ .maint (fun _ => 1) s
  · obtain rfl := Host.Outcome.next.inj h
    exact wait _ .stop stopEdge s
  · obtain rfl := Host.Outcome.next.inj h
    exact wait _ .resume stopEdge s

/-! ## Commands accepted and refused -/

section
variable {s : State} {n : Nat} {ok : PState → Bool} {f : State → State}

theorem partCmd_accepted (h : ok (part s n).st = true) (hp : cmdPend s n = false) : partCmd n ok f s = f s :=
  if_neg (by simp [h, hp])

theorem partCmd_pending (hp : cmdPend s n = true) : partCmd n ok f s = cmdReject s n 7 := if_pos (by simp [hp])

/-- A command that waits leaves STATE, and CMD_PEND reads 1. -/
theorem waitCmd_waits (c : PendCmd) (k : Nat) : (part (waitCmd c n k s) n).cmd = some (c, numAfter s k) ∧
    (part (waitCmd c n k s) n).st = (part s n).st ∧ bitAt (partStat (waitCmd c n k s) n) 8 = true := by
  rw [partStat_cmdPend]
  simp [waitCmd, cmdPend]

end

/-- A waiting command of the ready device, in a state from which it is taken. -/
theorem gives_waitCmd {i : Instr} {s : State} {n k : Nat} {c : PendCmd} {ok : PState → Bool} {f : State → State} (h : hostReady s = true)
    (hp : cmdPend s n = false) (ho : ok (part s n).st = true) (e : exec i s = .next (pfDo s (partCmd n ok f)))
    (hf : f s = waitCmd c n k s) : Gives i s fun t =>
      (part t n).cmd = some (c, numAfter s k) ∧ (part t n).st = (part s n).st ∧ bitAt (partStat t n) 8 = true := by
  refine gives_of_pfDo h e ?_
  rw [partCmd_accepted ho hp, hf]
  exact waitCmd_waits c k

/-- A command of the ready device that changes STATE at once, from another state in which it is taken. -/
theorem gives_setSt {i : Instr} {s : State} {n : Nat} {st : PState} {ok : PState → Bool} (h : hostReady s = true)
    (hp : cmdPend s n = false) (ho : ok (part s n).st = true) (hne : (part s n).st ≠ st)
    (e : exec i s = .next (pfDo s (partCmd n ok fun s => setSt s n st))) : Gives i s fun t =>
      (part t n).st = st ∧ rb t (partPg n + 0x14) 0 = true := by
  refine gives_of_pfDo h e ?_
  rw [partCmd_accepted ho hp]
  exact ⟨setSt_part n st, setSt_evt n st hne⟩

/-- On a ready device CONFIGURE is judged as the other commands are. -/
theorem exec_configure_ready {s : State} (n : Fin 16) (h : hostReady s = true) :
    exec (.configure n) s = .next (pfDo s (configureEff n)) := by
  have hd : (hostUp s && !devRdy s) = false := by
    simp only [hostReady, Bool.and_eq_true] at h
    simp [h]
  change Host.Outcome.next (if hostUp s && !devRdy s then _ else _) = _
  rw [hd]
  rfl

/-! ## The edge of a command -/

/-- A change of STATE keeps the rest of the partition's record. -/
theorem setSt_rec (s : State) (n : Nat) (st : PState) : part (setSt s n st) n = { part s n with st := st } := by
  unfold setSt
  split
  · rename_i h
    rw [← h]
  · simp

/-- At the edge that it waited for START makes the partition RUNNING, and waits no longer. -/
theorem cmdEdge_start {s : State} {n : Nat} (h : (part s n).cmd = some (.start, s.clk.num)) :
    (part (cmdEdge s n) n).st = .running ∧ (part (cmdEdge s n) n).cmd = none := by
  simp only [cmdEdge, h, ne_eq, not_true_eq_false, if_false]
  exact ⟨setSt_part .., by rw [setSt_rec]; simp⟩

/-- At an earlier edge a waiting command changes nothing. -/
theorem cmdEdge_early {s : State} {n k : Nat} {c : PendCmd} (h : (part s n).cmd = some (c, k)) (hk : k ≠ s.clk.num) : cmdEdge s n = s := by
  simp [cmdEdge, h, hk]

/-- Settles O11: each command from its legal state either sets STATE at once or waits for its edge, by what `setSt` and `waitCmd` leave; its
frame is that of its operations. -/
theorem partitionCommandsMoveTheState : Obligations.PartitionCommandsMoveTheState := by
  refine ⟨fun s n h hp => ⟨fun hs => ?_, fun hs => ?_, fun hs hr => ?_, fun hs => ?_, fun hs => ?_, fun hs => ?_⟩,
    fun s h => ?_, fun s h => ?_, fun s n k h => ?_, fun s t n c hc h => ?_⟩
  · exact gives_setSt h hp (by simp [hs]) (by simp [hs]) (exec_configure_ready n h)
  · exact gives_setSt h hp (by simp [hs]) (by simp [hs]) rfl
  · have := gives_waitCmd (k := 1) (c := .start) (ok := fun st => st = .ready) h hp (by simp [hs]) (i := .start n) rfl (by simp [hr])
    rwa [hs] at this
  · have := gives_waitCmd (k := 1) (c := .maint) (ok := fun st => st = .ready) h hp (by simp [hs]) (i := .maint n) rfl rfl
    rwa [hs] at this
  · have := gives_waitCmd (k := stopEdge s) (c := .stop) (ok := fun st => st = .running) h hp (by simp [hs]) (i := .stop n) rfl rfl
    rwa [hs] at this
  · have := gives_waitCmd (k := stopEdge s) (c := .resume) (ok := fun st => st = .maintenance) h hp (by simp [hs]) (i := .resume n) rfl rfl
    rwa [hs] at this
  · simp [stopEdge, h]
  · simp [stopEdge, h]
  · obtain ⟨hst, hcmd⟩ := cmdEdge_start h
    exact ⟨hst, hcmd, fun hk => cmdEdge_early (c := .start) (k := k) (by simp) hk⟩
  · obtain ⟨ho, hp, hr⟩ := stateCommand_partOnly hc h
    exact ⟨hp, ho .hbm (by decide), ho .hostMem (by decide), ho .slots (by decide), ho .strms (by decide), ho .lanes (by decide),
      ho .clus (by decide), ho .clk (by decide), hr⟩

end Sys2Proof.Machine
end

section
/-!
SUPPORT. What the closing of a partition's streams writes: nothing of the partitions, the clusters or the clock (07_streams_state R193, R194;
11_ingest R314).
-/
namespace Sys2Proof.Machine

set_option Elab.async false

/-- What the closing of streams writes. -/
abbrev closeComps : List Comp :=
  [.marks, .free, .regs, .vecs, .msgs, .pacc, .strms, .slots, .hbm, .hbmBad, .hbmCe, .meeBad, .ings, .bg, .bly, .sirvi]

section
variable {s0 s : State}

@[simp] theorem freeStore_close {c : Chunk} : Only closeComps s0 (freeStore s c) ↔ Only closeComps s0 s := by
  unfold freeStore
  split <;> simp

@[simp] theorem retireIdx_close {n i : Nat} : Only closeComps s0 (retireIdx s n i) ↔ Only closeComps s0 s := by simp [retireIdx]

@[simp] theorem retireChunk_close {n : Nat} {c : Chunk} : Only closeComps s0 (retireChunk s n c) ↔ Only closeComps s0 s := by
  simp [retireChunk]

@[simp] theorem retireAll_close {h : Nat} : Only closeComps s0 (retireAll s h) ↔ Only closeComps s0 s := by simp [retireAll]

@[simp] theorem hbmPut_close {a : Nat} {l : List Byte} : Only closeComps s0 (hbmPut s a l) ↔ Only closeComps s0 s :=
  (hbmPut_only s a l).iff (by decide)

@[simp] theorem hbmEnds_close {a n lo hi : Nat} : Only closeComps s0 (hbmEnds s a n lo hi) ↔ Only closeComps s0 s :=
  Only.iff (G := closeComps) (by simp [hbmEnds]) (List.Subset.refl _)

@[simp] theorem hbmWriteGran_close {a lo hi g : Nat} {l : List Byte} :
    Only closeComps s0 (hbmWriteGran s a l lo hi g).1 ↔ Only closeComps s0 s := by
  unfold hbmWriteGran
  dsimp only
  split
  · simp
  · split
    · rw [hbmPut_close, (unpoison_only s _ _).iff (by decide)]
    · simp

@[simp] theorem hbmWrite_close {a : Nat} {l : List Byte} : Only closeComps s0 (hbmWrite s a l).1 ↔ Only closeComps s0 s := by
  unfold hbmWrite hbmWriteIn
  split
  · rfl
  · split
    · simp
    · rw [foldlFst_frame fun p k => by simp, hbmEnds_close]

@[simp] theorem sideRead_close {h : Nat} : Only closeComps s0 (sideRead s h) ↔ Only closeComps s0 s := by simp [sideRead, readSlots]

@[simp] theorem strmCharge_close {h a b : Nat} : Only closeComps s0 (strmCharge s h a b) ↔ Only closeComps s0 s := by simp [strmCharge]

/-- A sealed blob, where it is formed, leaves the state in which its side has been read. -/
theorem sealBlob_close {h : Nat} {z : Option Seal} {b : State × List Byte} (e : sealBlob s h z = some b) : Only closeComps s b.1 := by
  unfold sealBlob at e
  obtain ⟨z', -, rfl⟩ := Option.map_eq_some_iff.1 e
  exact sideRead_close.2 (Only.refl _ s)

theorem abandonBlob_close {h a : Nat} {b : Option (State × List Byte)} (hb : ∀ p, b = some p → Only closeComps s p.1) :
    Only closeComps s (abandonBlob s h a b) := by
  unfold abandonBlob
  split
  · exact Only.refl _ s
  · simpa using hb _ rfl

@[simp] theorem abandonXfer_close {h : Nat} : Only closeComps s0 (abandonXfer s h) ↔ Only closeComps s0 s := by
  refine Only.iff (G := closeComps) ?_ (List.Subset.refl _)
  have idle : ∀ (u : State) (n : Nat), Only closeComps u (wf u (strmStat n) 1 1 0) := fun u n => by simp
  have byKey : ∀ (u : State) (z : Option Seal) (a : Nat), Only closeComps u (abandonBlob u h a (sealBlob u h z)) := fun u z a =>
    abandonBlob_close fun p e => sealBlob_close e
  have plain : ∀ (u : State) (a : Nat) (l : List Byte), Only closeComps u (abandonBlob u h a (some (u, l))) := fun u a l =>
    abandonBlob_close fun p e => by cases e; exact Only.refl _ u
  unfold abandonXfer
  extract_lets x idle' s1
  have h1 : Only closeComps s s1 := by
    unfold s1
    split
    · exact idle s _
    all_goals exact Only.refl _ s
  split
  · exact h1
  · exact h1
  · exact h1
  · exact h1.trans (byKey s1 _ _)
  · exact (h1.trans (byKey s1 _ _)).trans (idle _ _)
  · exact (h1.trans (plain s1 _ _)).trans (idle _ _)
  · exact (h1.trans (plain s1 _ _)).trans (idle _ _)

@[simp] theorem closeNow_close {h : Nat} : Only closeComps s0 (closeNow s h) ↔ Only closeComps s0 s := by simp [closeNow]

/-- The streams of a partition that is torn down close, within their own components. -/
theorem teardownStrms_only (s : State) (n : Nat) : Only closeComps s (teardownStrms s n) := by
  refine (each_frame fun u h => ?_).2 (Only.refl _ s)
  cases (strm u h).st <;> simp

/-- The lanes of a partition go, and their chunks return to the queues. -/
theorem clearLanes_only (s : State) (n : Nat) : Only [.lanes, .strms] s (clearLanes s n) := by
  have hg : ∀ (u : State) (l : Lane), Only [.lanes, .strms] u (giveBack u l) := fun u l => by simp [giveBack]
  simp [clearLanes, hg]

end

end Sys2Proof.Machine
end

section
/-!
SUPPORT. The end of a pitch: what it leaves of its partition's record and of the member clusters (02_partitions_pitches R54, R58, R59;
03_tick_programs R79).
-/
namespace Sys2Proof.Machine

set_option Elab.async false

/-! ## The course of a tick in a partition's record -/

/-- The running pitch, the end of the last one, the cycles elapsed and the entries started. -/
def Part.course (p : Part) : Option Pitch × Nat × Nat × List Nat := (p.pitch, p.pitchTo, p.elap, p.started)

def courseView (n : Nat) (s : State) : Option Pitch × Nat × Nat × List Nat := (part s n).course

section
variable {s0 s t : State} {n : Nat}

theorem course_only {F : List Comp} (h : Only F s t) (hF : .parts ∉ F := by decide) : Same (courseView n) s0 t ↔ Same (courseView n) s0 s :=
  Same.iff (congrArg Part.course (part_of_parts (h .parts hF) n))

@[simp] theorem modPart_course {m : Nat} {f : Part → Part} (hf : ∀ p, (f p).course = p.course) :
    Same (courseView n) s0 (modPart s m f) ↔ Same (courseView n) s0 s := by
  refine Same.iff ?_
  unfold Same courseView
  rw [part_modPart]
  split
  · rw [hf, ‹n = m›]
  · rfl

@[simp] theorem modJob_course {m j : Nat} {f : Job → Job} : Same (courseView n) s0 (modJob s m j f) ↔ Same (courseView n) s0 s :=
  modPart_course fun _ => rfl

@[simp] theorem tally_course {m j used ent : Nat} : Same (courseView n) s0 (tally s m j used ent) ↔ Same (courseView n) s0 s := by
  unfold tally
  extract_lets s1 p x s2
  have h2 : Only [.pacc] s s2 := by
    unfold s2 s1
    split <;> simp
  rw [modJob_course, course_only h2]

@[simp] theorem returnPool_course {m k : Nat} : Same (courseView n) s0 (returnPool s m k) ↔ Same (courseView n) s0 s :=
  modPart_course fun _ => rfl

@[simp] theorem openSeg_course {m now : Nat} : Same (courseView n) s0 (openSeg s m now) ↔ Same (courseView n) s0 s := by
  unfold openSeg
  extract_lets left rts segEnd bes pool r
  have hr : Only [.marks, .regs, .vecs, .msgs, .slots, .hbmCe, .bg, .sirvi] s r.1 := by simp [r]
  rw [modPart_course, course_only hr]
  exact fun _ => rfl

@[simp] theorem countStalls_course {m e : Nat} {p : Pitch} : Same (courseView n) s0 (countStalls s m p e) ↔ Same (courseView n) s0 s :=
  modPart_course fun _ => rfl

end

/-! ## What the abandoning of transfers leaves of a cluster -/

/-- A reading of every cluster. -/
def cluView {β : Type} (k : Clus → β) (s : State) : Nat → β := fun c => k (clu s c)

/-- The reading does not see the queues and what was lost. -/
def SeesNoQueue {β : Type} (k : Clus → β) : Prop :=
  ∀ (x : Clus) (a b : List Desc) (l : List Nat) (m : List (Nat × Nat)), k { x with q0 := a, q1 := b, lost := l, lostHbm := m } = k x

section
variable {β : Type} {k : Clus → β} {s0 s t : State}

theorem clu_only {F : List Comp} (h : Only F s t) (hF : .clus ∉ F := by decide) : Same (cluView k) s0 t ↔ Same (cluView k) s0 s :=
  Same.iff (funext fun c => congrArg k (clu_of_clus (h .clus hF) c))

@[simp] theorem setClu_clu {c : Nat} {x : Clus} (h : k x = k (clu s c)) : Same (cluView k) s0 (setClu s c x) ↔ Same (cluView k) s0 s := by
  refine Same.iff (funext fun d => ?_)
  unfold cluView
  rw [clu_setClu]
  split
  · rw [h, ‹d = c›]
  · rfl

@[simp] theorem modClu_clu {c : Nat} {f : Clus → Clus} (h : ∀ x, k (f x) = k x) : Same (cluView k) s0 (modClu s c f) ↔ Same (cluView k) s0 s :=
  setClu_clu (h _)

@[simp] theorem bumpBy_clu {pg off m : Nat} : Same (cluView k) s0 (bumpBy s pg off m) ↔ Same (cluView k) s0 s :=
  clu_only (F := evtComps) (by simp)

@[simp] theorem abandonRead_clu {c : Nat} : Same (cluView k) s0 (abandonRead s c) ↔ Same (cluView k) s0 s :=
  clu_only (F := evtComps) (by simp)

theorem abandonClus_clu (hk : SeesNoQueue k) {j c : Nat} {ls : List (Nat × Nat)} :
    Same (cluView k) s0 (abandonClus s j ls c) ↔ Same (cluView k) s0 s := by
  have lost : ∀ (x : Clus) (l : List Nat), k { x with lost := l } = k x := fun x l => hk x x.q0 x.q1 l x.lostHbm
  unfold abandonClus
  dsimp only
  rw [each_same, bumpBy_clu, setClu_clu (hk _ _ _ _ _)]
  intro u i
  split
  · rw [modClu_clu fun x => lost x _, bumpBy_clu]
    exact (clu_only (Only.graft [.noc] u { u with noc := _ })).2 (same_refl _ u)
  · rfl

theorem abandonRx_clu (hk : SeesNoQueue k) {n j : Nat} : Same (cluView k) s0 (abandonRx s n j) ↔ Same (cluView k) s0 s := by
  have lost : ∀ (x : Clus) (l : List Nat), k { x with lost := l } = k x := fun x l => hk x x.q0 x.q1 l x.lostHbm
  refine Same.iff ?_
  unfold abandonRx
  dsimp only
  split
  · refine (each_same fun u m => ?_).2 ((clu_only (F := [.bly]) (by simp)).2 (same_refl _ s))
    exact (modClu_clu fun x => lost x _).2 (bumpBy_clu.2 (same_refl _ u))
  · rfl

end

/-! ## The end of a pitch -/

/-- What a pitch's end makes of a cluster: its run, its wait and what it has in flight. -/
def Clus.motion (x : Clus) : Bool × Option Wait × List (Nat × Eff) × List OpRun := (x.run, x.wait, x.effs, x.runs)

/-- Nothing runs in the cluster, and nothing is in flight. -/
def Stopped (s : State) (c : Nat) : Prop := (clu s c).motion = (false, none, [], [])

theorem Stopped.reads {s : State} {c : Nat} (h : Stopped s c) :
    (clu s c).run = false ∧ (clu s c).wait = none ∧ (clu s c).effs = [] ∧ (clu s c).runs = [] := by
  simpa [Stopped, Clus.motion] using h

theorem Same.motion {s t : State} (h : Same (cluView Clus.motion) s t) (c : Nat) : (clu t c).motion = (clu s c).motion := congrFun h c

/-- A cluster as the end of a pitch of job `j` leaves it. -/
def dropClus (j : Nat) (ls : List (Nat × Nat)) (s : State) (c : Nat) : State :=
  abandonClus (modClu (abandonRead s c) c fun x => stopClus x j) j ls c

theorem motion_dropClus (s : State) (j : Nat) (ls : List (Nat × Nat)) (c d : Nat) :
    (clu (dropClus j ls s c) d).motion = if d = c then (false, none, [], []) else (clu s d).motion := by
  have ha : Same (cluView Clus.motion) (modClu (abandonRead s c) c fun x => stopClus x j) (dropClus j ls s c) :=
    (abandonClus_clu fun _ _ _ _ _ => rfl).2 (same_refl _ _)
  have hr : Same (cluView Clus.motion) s (abandonRead s c) := abandonRead_clu.2 (same_refl _ s)
  rw [ha.motion, modClu, clu_setClu]
  split
  · rfl
  · exact hr.motion d

theorem each_dropClus {s : State} {l : List Nat} {c : Nat} (j : Nat) (ls : List (Nat × Nat)) (hc : c ∈ l) :
    Stopped (each s l (dropClus j ls)) c := by
  refine each_reaches (P := fun _ => True) (Q := fun u => Stopped u c) hc trivial (fun _ _ _ _ => trivial) (fun u _ => ?_) fun u d _ _ h => ?_
  all_goals unfold Stopped; rw [motion_dropClus]
  · exact if_pos rfl
  · split
    · rfl
    · exact h

/-- The members of a partition as the end of its pitch at cycle `e` leaves them. -/
def dropPitch (s : State) (n e : Nat) (p : Pitch) : State :=
  abandonRx (each (countStalls s n p e) (members s n) (dropClus p.job (laneSlots s n p.job))) n p.job

/-- Where the cycles that a pitch has left go (R58); `b` is steady mode. -/
def giveSlack (b : Bool) (s : State) (n e : Nat) (p : Pitch) : State :=
  if b then s else if p.rt then openSeg s n e else returnPool s n (p.limit - e)

/-- A partition's record after a pitch that ends at cycle `e`. -/
def closeRec (e : Nat) (p : Pitch) (q : Part) : Part := { q with pitch := none, elap := q.elap + (e - p.start), pitchTo := e }

/-- A pitch's end: the members stop, the record is closed, the cycles are charged, the slack is given. -/
theorem endPitch_eq {s : State} {n : Nat} {p : Pitch} (h : (part s n).pitch = some p) (e : Nat) : ∃ used ent,
    endPitch s n e = giveSlack (steadyOf s n) (tally (modPart (dropPitch s n e p) n (closeRec e p)) n p.job used ent) n e p := by
  unfold endPitch
  rw [h]
  exact ⟨_, _, rfl⟩

section
variable {s : State} {n e : Nat} {p : Pitch}

theorem giveSlack_only (b : Bool) : Only [.marks, .regs, .vecs, .msgs, .parts, .slots, .hbmCe, .bg, .sirvi] s (giveSlack b s n e p) := by
  simp [giveSlack]

theorem giveSlack_course (b : Bool) (m : Nat) : Same (courseView m) s (giveSlack b s n e p) := by simp [giveSlack]

theorem dropClus_only (s : State) (j : Nat) (ls : List (Nat × Nat)) (c : Nat) : Only (.clus :: .noc :: evtComps) s (dropClus j ls s c) := by
  simp [dropClus]

theorem dropPitch_course (m : Nat) : Same (courseView m) s (dropPitch s n e p) := by
  have hd : ∀ (u : State) (c : Nat), Same (courseView m) u (dropClus p.job (laneSlots s n p.job) u c) := fun u c =>
    (course_only (dropClus_only u _ _ c)).2 (same_refl _ u)
  have hr : ∀ u : State, Only (.clus :: .bly :: evtComps) u (abandonRx u n p.job) := fun u => by simp
  rw [dropPitch, course_only (hr _), each_same hd, countStalls_course]
  exact same_refl _ s

/-- The end of a pitch at cycle `e`: no pitch runs, its cycles have elapsed, and `e` is its end. -/
theorem endPitch_course (h : (part s n).pitch = some p) (e : Nat) :
    (part (endPitch s n e) n).course = (none, e, (part s n).elap + (e - p.start), (part s n).started) := by
  obtain ⟨used, ent, he⟩ := endPitch_eq h e
  have hd : (part (dropPitch s n e p) n).course = (part s n).course := dropPitch_course n
  simp only [Part.course, Prod.mk.injEq] at hd
  obtain ⟨-, -, hel, hst⟩ := hd
  have hs : Same (courseView n) (modPart (dropPitch s n e p) n (closeRec e p)) (endPitch s n e) := by
    rw [he]
    exact (tally_course.2 (same_refl _ _)).trans (giveSlack_course _ n)
  refine Eq.trans hs ?_
  simp [courseView, Part.course, closeRec, hel, hst]

/-- The end of a pitch stops every member. -/
theorem endPitch_stops (h : (part s n).pitch = some p) (e : Nat) {c : Nat} (hc : c ∈ members s n) : Stopped (endPitch s n e) c := by
  obtain ⟨used, ent, he⟩ := endPitch_eq h e
  have hd : Stopped (dropPitch s n e p) c := by
    have hx : Same (cluView Clus.motion) _ (dropPitch s n e p) := (abandonRx_clu fun _ _ _ _ _ => rfl).2 (same_refl _ _)
    exact (hx.motion c).trans (each_dropClus _ _ hc)
  have hs : Same (cluView Clus.motion) (dropPitch s n e p) (endPitch s n e) := by
    rw [he]
    refine (clu_only (giveSlack_only _)).2 ((clu_only (F := [.parts, .pacc]) ?_).2 (same_refl _ _))
    simp
  exact (hs.motion c).trans hd

end

end Sys2Proof.Machine
end

section
/-!
PROOFS. Faults and the teardown of a partition, and commands while one waits (02_partitions_pitches R35, R44, R46, R47; 13_parties R376-R378).
-/
namespace Sys2Proof.Machine

set_option Elab.async false

section
variable {s : State} {n : Nat}

/-! ## Stopping a pitch -/

theorem stopPitch_pitch (s : State) (n : Nat) : (part (stopPitch s n) n).pitch = none := by
  unfold stopPitch
  split
  · rename_i p h
    exact congrArg Prod.fst (endPitch_course h _)
  · assumption

/-! ## Faults of a partition (R46) -/

/-- A fault leaves no command of its partition waiting. -/
theorem faultPart_cmd (k : PartFaultCase) (h : (part s n).cmd = none) : (part (faultPart s n k) n).cmd = none := by
  unfold faultPart
  split
  · exact h
  · exact h
  · exact h
  · dsimp only
    rw [part_setEvt]
    split
    · simp
    · rw [setSt_rec]
      simp

/-- The stop of the pitch and the marking of the lanes pass no tick. -/
theorem faultStop_time : Same timeView s (faultLanes (stopPitch s n) n) :=
  (time_only (s := stopPitch s n) (F := [.marks, .regs, .vecs, .msgs, .lanes, .strms, .emis, .emLost]) (by simp)).2
    ((stopPitch_calm calm_time).2 (same_refl _ s))

theorem faultPart_phase (k : PartFaultCase) : (faultPart s n k).clk.phase = s.clk.phase := by
  unfold faultPart
  split
  · rfl
  · rfl
  · rfl
  · extract_lets s1 s2 s3
    have h3 : Only (.parts :: evtComps) s1 (setEvt s3 (partPg n) 3 (caseDetail k)) := by simp [s3, s2]
    exact (congrArg Clk.phase (h3 .clk (by decide))).trans faultStop_time.timed.phase

/-- Outside the commit window a fault makes its partition FAULTED at once. -/
theorem faultPart_faulted (k : PartFaultCase) (h : activeSt (part s n).st = true ∨ (part s n).st = .configuring) (hc : s.clk.phase ≠ .commit) :
    (part (faultPart s n k) n).st = .faulted ∧ (part (faultPart s n k) n).cmd = none ∧
    rb (faultPart s n k) (partPg n + 0x14) 3 = true := by
  have hph := (faultStop_time (s := s) (n := n)).timed.phase
  unfold faultPart
  split
  · simp_all [activeSt]
  · simp_all [activeSt]
  · simp_all [activeSt]
  · extract_lets s1 s2 s3
    have h3 : s3 = setSt s2 n .faulted := if_neg fun e => hc (hph.symm.trans e.1)
    rw [part_setEvt, h3, setSt_rec]
    exact ⟨rfl, by simp [s2], rb_setEvt _ _ _ (by decide)⟩

/-! ## A TDI in ERROR (13_parties R376-R378) -/

/-- The TDI of partition `n` in ERROR, counted and told. -/
def tdiMark (s : State) (n : Nat) : State := setEvt (bump (setTdi s n 3) funcsPg 0x114) funcsPg 1 (n + 1)

theorem tdiMark_only (s : State) (n : Nat) : Only evtComps s (tdiMark s n) := by simp [tdiMark]

theorem part_tdiMark (s : State) (n m : Nat) : part (tdiMark s n) m = part s m := part_of_parts (tdiMark_only s n .parts (by decide)) m

/-- A TDI's error is nothing new, or marks it, and may fault a RUNNING partition. -/
theorem tdiError_cases (s : State) (n : Nat) : tdiError s n = s ∨ tdiError s n = tdiMark s n ∨
    (part s n).st = .running ∧ tdiError s n = faultPart (tdiMark s n) n .tdiError := by
  unfold tdiError
  split
  · exact .inl rfl
  · extract_lets s1 s2
    have hp : part s2 n = part s n := part_tdiMark s n n
    split
    · rename_i h
      simp only [Bool.and_eq_true, decide_eq_true_eq] at h
      exact .inr (.inr ⟨by rw [← hp]; exact h.1.1, rfl⟩)
    · exact .inr (.inl rfl)

theorem pfTdiErr_cases (s : State) (n : Nat) : pfTdiErr s n = s ∨ pfTdiErr s n = tdiMark s n ∨
    (part s n).st = .running ∧ pfTdiErr s n = faultPart (tdiMark s n) n .tdiError := by
  unfold pfTdiErr
  split
  · exact tdiError_cases s n
  · exact .inl rfl

/-- Of a partition that does not run, a TDI's error changes nothing in the record. -/
theorem pfTdiErr_part (h : (part s n).st ≠ .running) : part (pfTdiErr s n) n = part s n := by
  rcases pfTdiErr_cases s n with e | e | ⟨hr, -⟩
  · rw [e]
  · rw [e, part_tdiMark]
  · exact absurd hr h

theorem pfTdiErr_cmd (h : (part s n).cmd = none) : (part (pfTdiErr s n) n).cmd = none := by
  rcases pfTdiErr_cases s n with e | e | ⟨-, e⟩
  · rwa [e]
  · rwa [e, part_tdiMark]
  · rw [e]
    exact faultPart_cmd _ (by rwa [part_tdiMark])

/-! ## TEARDOWN (R44) -/

theorem beginZeroise_rec (s : State) (n : Nat) : (part (beginZeroise s n) n).st = .zeroising ∧ (part (beginZeroise s n) n).cmd = none ∧
    (part (beginZeroise s n) n).pitch = none := by
  have hp : (part (teardownStrms (clearLanes (stopPitch s n) n) n) n).pitch = none := by
    rw [part_of_parts (teardownStrms_only _ n .parts (by decide)), part_of_parts (clearLanes_only _ n .parts (by decide))]
    exact stopPitch_pitch s n
  unfold beginZeroise
  extract_lets s1 s2
  have h2 : ∀ c, part { s2 with clw := c } n = part s2 n := fun _ => rfl
  rw [setSt_rec, h2]
  exact ⟨rfl, by simp [s2], by simpa [s2, s1] using hp⟩

theorem teardownPart_cmd (s : State) (n : Nat) : (part (teardownPart s n) n).cmd = none := by
  unfold teardownPart
  dsimp only
  split
  · simp
  · exact (beginZeroise_rec s n).2.1

/-- Outside the commit window TEARDOWN begins ZEROISING at once. -/
theorem teardownPart_outside (h : s.clk.phase ≠ .commit) : teardownPart s n = beginZeroise s n := by
  unfold teardownPart
  simp [h]

theorem teardownEff_of (h : tearable (part s n).st = true) : teardownEff n s = pfTdiErr (teardownPart s n) n := if_pos h

end

/-! ## While a command waits (R47) -/

theorem cmdReject_self (s : State) (n k : Nat) : part (cmdReject s n k) n = { part s n with rej := k } := by
  rw [cmdReject_part, if_pos rfl]

/-- While a command waits every PART_CMD code but 0 and TEARDOWN's is rejected with cause 7. -/
theorem partCmdWord_pending {s : State} {n code : Nat} (hp : cmdPend s n = true) (h0 : code ≠ 0) (h8 : code ≠ 8) :
    partCmdWord n code s = cmdReject s n 7 := by
  unfold partCmdWord
  split
  case h_1 => exact absurd rfl h0
  case h_9 => exact absurd rfl h8
  case h_11 => rfl
  all_goals exact partCmd_pending hp

/-- What the ready device does with a command row while another waits is the rejection. -/
theorem command_pending {s : State} {n : Fin 16} (h : hostReady s = true) (hp : cmdPend s n = true) {c : Instr}
    (hc : c ∈ [Instr.configure n, .commit n, .start n, .stop n, .maint n, .resume n, .reconfig n, .tblSwap n]) :
    exec c s = .next (cmdReject s n 7) := by
  have rejected : ∀ (ok : PState → Bool) (f : State → State), pfDo s (partCmd n ok f) = cmdReject s n 7 := fun ok f => by
    rw [pfDo_of_ready h, partCmd_pending hp]
  simp only [List.mem_cons, List.not_mem_nil, or_false] at hc
  rcases hc with rfl | rfl | rfl | rfl | rfl | rfl | rfl | rfl
  · rw [exec_configure_ready n h]
    exact congrArg _ (rejected _ _)
  all_goals exact congrArg Host.Outcome.next (rejected _ _)

/-- Settles O12: with a command waiting every other row and code is the rejection with cause 7, and TEARDOWN leaves no command. -/
theorem pendingCommandsBarAllButTeardown : Obligations.PendingCommandsBarAllButTeardown := by
  intro s n hc
  have hp : cmdPend s n = true := by simp [cmdPend, hc]
  refine ⟨by rw [partStat_cmdPend, hp], fun code h0 h8 => ?_, fun h c hm => ?_, fun h ht => ?_⟩
  · rw [partCmdWord_pending hp h0 h8]
    exact ⟨cmdReject_self .., cmdReject_evt ..⟩
  · exact ⟨_, command_pending h hp hm, cmdReject_self .., cmdReject_evt ..⟩
  · refine gives_of_pfDo h rfl ?_
    rw [teardownEff_of ht]
    exact pfTdiErr_cmd (teardownPart_cmd s n)

end Sys2Proof.Machine
end

section
/-!
PROOFS. COMMIT, TBL_SWAP and the end of zeroisation (02_partitions_pitches R42, R44, R48, R52, R53).
-/
namespace Sys2Proof.Machine

set_option Elab.async false

section
variable {s t : State} {n : Nat}

/-! ## Member clusters -/

theorem mem_members {c : Nat} : c ∈ members s n ↔ c < 256 ∧ isMember s n c = true := by
  have h0 : ∀ b, bitAt 0 b = false := fun b => by simp
  simp only [members, List.mem_flatMap, List.mem_range]
  constructor
  · rintro ⟨w, hw, hc⟩
    split at hc
    · cases hc
    · simp only [List.mem_filterMap, List.mem_range, Option.ite_none_right_eq_some, Option.some.injEq] at hc
      obtain ⟨b, hb, hv, rfl⟩ := hc
      refine ⟨by omega, ?_⟩
      rw [isMember, show (32 * w + b) / 32 = w by omega, show (32 * w + b) % 32 = b by omega]
      exact hv
  · rintro ⟨hc, hm⟩
    have hm' : bitAt (rdN s (partPg n + 0x110 + 4 * (c / 32))) (c % 32) = true := hm
    refine ⟨c / 32, by omega, ?_⟩
    rw [if_neg fun e => by rw [e, h0] at hm'; cases hm']
    simp only [List.mem_filterMap, List.mem_range, Option.ite_none_right_eq_some, Option.some.injEq]
    exact ⟨c % 32, by omega, hm', by omega⟩

theorem members_of_regs (h : t.regs = s.regs) : members t n = members s n := by
  simp only [members, rdN_of_regs h]

/-! ## Placing the bundles of the loaded jobs -/

theorem placeAll_only (s : State) (n : Nat) : Only [.bundles, .ccmem] s (placeAll s n) := by
  have hput : ∀ (u : State) (c : Nat) (img : JobImg) (sl : List Bundle), Only [.bundles, .ccmem] u (putSlice u c img sl) :=
    fun u c img sl => (foldl_frame fun v q => by simp).2 (Only.refl _ u)
  have hjob : ∀ (u : State) (j : Nat), Only [.bundles, .ccmem] u (placeJob u n j) := fun u j => by
    unfold placeJob
    refine (foldl_frame fun v q => hput v _ _ _).2 ((each_frame fun v c => ?_).2 (Only.refl _ u))
    exact Only.graft [.bundles, .ccmem] v { v with ccmem := memWrite 0 v.ccmem (65536 * c + (job u n j).img.ccAt) (job u n j).img.cc }
  unfold placeAll
  refine (each_frame hjob).2 ?_
  exact Only.graft [.bundles, .ccmem] s { s with
    bundles := smDrop s.bundles fun k => (members s n).contains (k / 2048)
    ccmem := smDrop s.ccmem fun k => (members s n).contains (k / 65536) }

/-! ## A COMMIT that passes its checks -/

/-- A partition whose COMMIT another of this cycle overrules. -/
def yieldStep (s : State) (k : Nat) : State := cmdReject (modPart (setSt s k .configuring) k fun p => { p with cmd := none, comAt := none }) k 2

theorem yieldStep_other {k m : Nat} (h : m ≠ k) : part (yieldStep s k) m = part s m := by
  obtain ⟨-, hp, -⟩ := setSt_partOnly s k .configuring
  rw [yieldStep, cmdReject_part, if_neg h, part_modPart, if_neg h, hp m h]

theorem yieldStep_self (k : Nat) : (part (yieldStep s k) k).st = .configuring ∧ (part (yieldStep s k) k).rej = 2 := by
  rw [yieldStep, cmdReject_self, part_modPart_same, setSt_rec]
  exact ⟨rfl, rfl⟩

theorem mem_comLosers {k : Nat} : k ∈ comLosers s n ↔ k < 16 ∧ n < k ∧ (part s k).st = .ready ∧ (part s k).comAt = some (comNow s) ∧
    ∃ c ∈ members s n, isMember s k c = true := by
  simp [comLosers, and_assoc]

theorem comYield_loser {k : Nat} (h : k ∈ comLosers s n) : (part (comYield s n) k).st = .configuring ∧ (part (comYield s n) k).rej = 2 := by
  refine each_reaches (P := fun _ => True) (Q := fun u => (part u k).st = .configuring ∧ (part u k).rej = 2) h trivial (fun _ _ _ _ => trivial)
    (fun u _ => yieldStep_self k) fun u m _ _ hu => ?_
  by_cases hk : k = m
  · subst hk
    exact yieldStep_self k
  · change (part (yieldStep u m) k).st = _ ∧ (part (yieldStep u m) k).rej = _
    rwa [yieldStep_other hk]

/-- A COMMIT accepted at `a`: the partitions that yield have done so, STATE is READY. -/
def committed (s : State) (n : Nat) (a : Bool × Nat × Nat) : State :=
  modPart (setSt (comYield s n) n .ready) n fun p => { p with comAt := some a }

/-- The clusters `l` become partition `n`'s. -/
def joinClus (s : State) (l : List Nat) (n : Nat) : State := each s l fun s c => modClu s c fun x => { x with part := n }

theorem joinClus_only (s : State) (l : List Nat) (n : Nat) : Only [.clus] s (joinClus s l n) := by simp [joinClus]

theorem joinClus_part {l : List Nat} {c : Nat} (h : c ∈ l) : (clu (joinClus s l n) c).part = n := by
  refine each_reaches (P := fun _ => True) (Q := fun u => (clu u c).part = n) h trivial (fun _ _ _ _ => trivial) (fun u _ => by simp)
    fun u d _ _ hu => ?_
  rw [modClu, clu_setClu]
  split
  · rfl
  · exact hu

theorem committed_self (a : Bool × Nat × Nat) : (part (committed s n a) n).st = .ready := by
  rw [committed, part_modPart_same, setSt_rec]

theorem committed_loser {k : Nat} (h : k ∈ comLosers s n) (a : Bool × Nat × Nat) :
    (part (committed s n a) k).st = .configuring ∧ (part (committed s n a) k).rej = 2 := by
  obtain ⟨-, hnk, -⟩ := mem_comLosers.1 h
  obtain ⟨-, hp, -⟩ := setSt_partOnly (comYield s n) n .ready
  rw [committed, part_modPart, if_neg (by omega), hp k (by omega)]
  exact comYield_loser h

/-- The state with the table of partition `n` judged. -/
theorem judgeTbl_state (s : State) (n : Nat) (t : Tbl) :
    (judgeTbl s n t).1 = modPart s n fun p => { p with tblErr := (tblBad s n t).getD 0xFF } := by
  unfold judgeTbl
  dsimp only
  split
  · rfl
  · split <;> rfl

theorem commitEff_accepted (h : commitChecks s n = true) :
    commitEff n s = placeAll (joinClus (committed (judgeTbl s n (activeTbl s n)).1 n (comNow s)) (members s n) n) n := by
  simp only [commitChecks, Bool.and_eq_true, Bool.not_eq_true', decide_eq_true_eq, Option.isNone_iff_eq_none] at h
  obtain ⟨⟨⟨⟨⟨⟨⟨⟨⟨hst, hp⟩, hw⟩, hc⟩, hm⟩, hb⟩, hk⟩, hl⟩, ho⟩, hj⟩ := h
  rw [commitEff, partCmd_accepted (by simpa using hst) hp]
  simp only [hw, hc, hm, hb, hk, hl, ho, hj]
  rfl

theorem placed_part (l : List Nat) (m : Nat) : part (placeAll (joinClus s l n) n) m = part s m := by
  rw [part_of_parts (placeAll_only _ n .parts (by decide)), part_of_parts (joinClus_only s l n .parts (by decide))]

theorem commitEff_self (h : commitChecks s n = true) : (part (commitEff n s) n).st = .ready := by
  rw [commitEff_accepted h, placed_part]
  exact committed_self _

theorem commitEff_clus (h : commitChecks s n = true) {c : Nat} (hc : c ∈ members s n) : (clu (commitEff n s) c).part = n := by
  rw [commitEff_accepted h, clu_of_clus (placeAll_only _ n .clus (by decide))]
  exact joinClus_part hc

theorem commitEff_loser (h : commitChecks s n = true) {k : Nat} (hk : k ∈ comLosers s n) :
    (part (commitEff n s) k).st = .configuring ∧ (part (commitEff n s) k).rej = 2 := by
  rw [commitEff_accepted h, placed_part]
  refine committed_loser ?_ _
  obtain ⟨h16, hnk, hst, hat, c, hc, hm⟩ := mem_comLosers.1 hk
  rw [judgeTbl_state]
  have hne : k ≠ n := by omega
  refine mem_comLosers.2 ⟨h16, hnk, ?_, ?_, c, hc, hm⟩
  · rwa [part_modPart, if_neg hne]
  · rwa [part_modPart, if_neg hne]

/-! ## A COMMIT that does not -/

variable (hst : (part s n).st = .configuring) (hp : cmdPend s n = false) (hw : s.clk.wait = none)
include hst hp hw

theorem commitEff_unconnected (hc : connected (members s n) = false) : commitEff n s = cmdReject s n 1 := by
  rw [commitEff, partCmd_accepted (by simpa using hst) hp]
  simp [hw, hc]

theorem commitEff_taken (hc : connected (members s n) = true) (hm : membersTaken s n = true) : commitEff n s = cmdReject s n 2 := by
  rw [commitEff, partCmd_accepted (by simpa using hst) hp]
  simp [hw, hc, hm]

end

/-- A member that a lower-numbered partition holds is taken. -/
theorem membersTaken_of_lower {s : State} {n k c : Nat} (hn : n < 16) (hk : n < k) (hc : c ∈ members s k) (hm : isMember s n c = true)
    (hh : holds (part s n).st = true) : membersTaken s k = true := by
  have hl : n ∉ comLosers s k := fun h => by
    obtain ⟨-, hlt, -⟩ := mem_comLosers.1 h
    omega
  simp only [membersTaken, List.any_eq_true, List.mem_range, Bool.and_eq_true, decide_eq_true_eq, Bool.not_eq_true',
    List.contains_eq_mem, decide_eq_false_iff_not]
  exact ⟨c, hc, n, hn, ⟨⟨by omega, hl⟩, hh⟩, hm⟩

/-- Settles O13: the COMMIT of the lower number overrules the other's as one of `comLosers`; a member of a holder is taken. -/
theorem simultaneousCommitsYieldToTheLowerPartition : Obligations.SimultaneousCommitsYieldToTheLowerPartition := by
  intro s n k c hnk hc hm hr
  refine ⟨fun hst hat hok => gives_of_pfDo hr rfl ?_, fun hh hst hp hw hcon hck => gives_of_pfDo hr rfl ?_⟩
  · have hl : k.val ∈ comLosers s n := mem_comLosers.2 ⟨k.isLt, hnk, hst, hat, c, hc, hm⟩
    exact ⟨commitEff_self hok, commitEff_loser hok hl⟩
  · have ht : membersTaken s k = true := membersTaken_of_lower n.isLt hnk hck (mem_members.1 hc).2 hh
    rw [commitEff_taken hst hp hw hcon ht, cmdReject_self, cmdReject_part, if_neg (by omega)]
    exact ⟨hst, rfl, rfl⟩

/-! ## The shadow table takes effect (R52) -/

section
variable {s : State} {n : Nat}

theorem rd64_wr64_self (s : State) (a v : Nat) (h : v < 2 ^ 64) : rd64 (wr64 s a v) a = v := by
  rw [rd64, wr64, rdN_wrN_same, rdN_wrN_ne _ (by omega), rdN_wrN_same]
  omega

theorem rdN_wr64_ne (s : State) {a b : Nat} (v : Nat) (h : b ≠ a ∧ b ≠ a + 4) : rdN (wr64 s a v) b = rdN s b := by
  rw [wr64, rdN_wrN_ne _ h.2, rdN_wrN_ne _ h.1]

theorem rd64_wr64_ne (s : State) {a b : Nat} (v : Nat) (h : a + 8 ≤ b ∨ b + 8 ≤ a) : rd64 (wr64 s a v) b = rd64 s b := by
  rw [rd64, rdN_wr64_ne _ _ (by omega), rdN_wr64_ne _ _ (by omega), rd64]

theorem rd64_lt (s : State) (a : Nat) : rd64 s a < 2 ^ 64 := by
  have h0 := rdN_lt (s := s) a
  have h1 := rdN_lt (s := s) (a + 4)
  unfold rd64
  omega

/-- The shadow entries written over the active ones. -/
def copyTable (s : State) (n : Nat) : State :=
  each s (List.range 64) fun s e => wr64 s (tblPg n + 0x100 + 8 * e) (rd64 s (tblPg n + 0x300 + 8 * e))

theorem copyTable_entry {e : Nat} (he : e < 64) : tblEntry (copyTable s n) n e = rd64 s (tblPg n + 0x300 + 8 * e) := by
  refine each_reaches (P := fun u => ∀ i < 64, rd64 u (tblPg n + 0x300 + 8 * i) = rd64 s (tblPg n + 0x300 + 8 * i))
    (Q := fun u => tblEntry u n e = rd64 s (tblPg n + 0x300 + 8 * e)) (List.mem_range.2 he) (fun _ _ => rfl) ?_ ?_ ?_
  · intro u b hb hu i hi
    have hb := List.mem_range.1 hb
    rw [rd64_wr64_ne _ _ (by omega), hu i hi]
  · intro u hu
    rw [tblEntry, rd64_wr64_self _ _ _ (rd64_lt ..), hu e he]
  · intro u b _ hu hq
    by_cases hbe : b = e
    · subst hbe
      rw [tblEntry, rd64_wr64_self _ _ _ (rd64_lt ..), hu b he]
    · rw [tblEntry, rd64_wr64_ne _ _ (by omega)]
      exact hq

theorem swapTable_eq (s : State) (n : Nat) : swapTable s n =
    setEvt (modPart (wf (copyTable s n) (partPg n + 0x100) 0 6 (rf (copyTable s n) (tblPg n + 0x500) 0 6)) n fun p => { p with tblPend := false })
      (partPg n) 7 := rfl

theorem swapTable_pend (s : State) (n : Nat) : (part (swapTable s n) n).tblPend = false := by
  rw [swapTable_eq, part_setEvt, part_modPart_same]

/-- The event and the hyperperiod stand in the control page, apart from the table's. -/
theorem swapTable_entry {e : Nat} (he : e < 64) : tblEntry (swapTable s n) n e = rd64 s (tblPg n + 0x300 + 8 * e) := by
  have keep : ∀ a, 0x100 ≤ a → a < 0x304 → rdN (swapTable s n) (tblPg n + a) = rdN (copyTable s n) (tblPg n + a) := fun a _ _ => by
    rw [swapTable_eq, rdN_setEvt_ne _ _ _ _ (by unfold partPg tblPg; omega), rdN_modPart, rdN_wf,
      if_neg (by unfold partPg tblPg; omega)]
  rw [← copyTable_entry he, tblEntry, tblEntry, rd64, rd64, Nat.add_assoc (tblPg n), keep _ (by omega) (by omega), Nat.add_assoc (tblPg n),
    keep _ (by omega) (by omega)]

/-- A TBL_SWAP that is accepted: in force at once in READY, pending otherwise. -/
theorem tblSwapEff_accepted (ha : activeSt (part s n).st = true) (hp : cmdPend s n = false) (ht : (part s n).tblPend = false)
    (hj : (judgeTbl s n (shadowTbl s n)).2 = none) :
    tblSwapEff n s = (if (part s n).st = .ready then
      swapTable (modPart (judgeTbl s n (shadowTbl s n)).1 n fun p => { p with tblPend := true }) n
      else modPart (judgeTbl s n (shadowTbl s n)).1 n fun p => { p with tblPend := true }) := by
  rw [tblSwapEff, partCmd_accepted ha hp]
  simp only [ht, hj]
  rfl

/-! ## The end of zeroisation (R44) -/

theorem smGet_drop {α : Type} (d : α) (m : SMap α) (f : Nat → Bool) (k : Nat) (h : f k = true) : smGet d (smDrop m f) k = d := by
  induction m with
  | nil => rfl
  | cons p m ih =>
    rw [smDrop, List.filter_cons]
    split
    · rename_i hp
      have hne : p.1 ≠ k := fun e => by simp [e, h] at hp
      rw [smGet, if_neg hne]
      exact ih
    · exact ih

/-- The members that zeroisation clears: those that no other partition holds. -/
def ownClus (s : State) (n : Nat) : List Nat := (members s n).filter fun c => !taken s n c

/-- After the members' memories are dropped, the rest of zeroisation leaves them. -/
theorem zeroiseEnd_only (s : State) (n : Nat) :
    ∃ u, Only (.parts :: .emis :: .emLost :: .ings :: .bly :: evtComps) (zeroClusters u (ownClus s n)) (zeroiseEnd s n) := by
  refine ⟨wf (zeroPorts (expZeroise (unprocessStrms s n) n) n) (partPg n + 0x3B8) 1 1 0, ?_⟩
  have hall : Only (.parts :: .emis :: .emLost :: .ings :: .bly :: evtComps) (zeroClusters _ (ownClus s n)) (zeroiseAll s n) :=
    (modBly_frame (by simp)).2 ((wrN_frame (by simp)).2 ((modIng_frame (by simp)).2 ((only_staged (by simp)).2
      ((modPart_frame (by simp)).2 ((dropRegs_frame (by simp)).2 (Only.refl _ _))))))
  refine hall.trans ?_
  simp [zeroiseEnd]

theorem zeroiseEnd_off (s : State) (n : Nat) : (part (zeroiseEnd s n) n).st = .off := by
  unfold zeroiseEnd
  dsimp only
  split
  · rw [part_setEvt, part_setEvt, setSt_rec]
  · rw [part_setEvt, setSt_rec]

theorem zeroiseEnd_evt (s : State) (n : Nat) : rb (zeroiseEnd s n) (partPg n + 0x14) 6 = true := by
  unfold zeroiseEnd
  dsimp only
  split
  · rw [rb, rdN, rd_setEvt_page _ _ _ (by decide) (by unfold partPg funcsPg; omega)]
    exact rb_setEvt _ _ _ (by decide)
  · exact rb_setEvt _ _ _ (by decide)

variable {c : Nat} (hc : c ∈ ownClus s n)
include hc

theorem zeroiseEnd_slots {k i : Nat} (hk : k < 16) (hi : i < 1024) : slotAt (zeroiseEnd s n) (16 * c + k) i = {} := by
  obtain ⟨u, hu⟩ := zeroiseEnd_only s n
  have e : (zeroiseEnd s n).slots = smDrop u.slots fun k => (ownClus s n).contains (k / 16384) := hu .slots (by decide)
  rw [slotAt, e]
  refine smGet_drop _ _ _ _ ?_
  rwa [show ((16 * c + k) * 1024 + i) / 16384 = c by omega, List.contains_iff_mem]

theorem zeroiseEnd_htab {h : Nat} (hh : h < 1024) : hentry (zeroiseEnd s n) c h = 0 := by
  obtain ⟨u, hu⟩ := zeroiseEnd_only s n
  have e : (zeroiseEnd s n).htab = smDrop u.htab fun k => (ownClus s n).contains (k / 1024) := hu .htab (by decide)
  rw [hentry, e]
  refine smGet_drop _ _ _ _ ?_
  rwa [show (c * 1024 + h) / 1024 = c by omega, List.contains_iff_mem]

theorem zeroiseEnd_bundles {i : Nat} (hi : i < 2048) : bundleAt (zeroiseEnd s n) c i = 0 := by
  obtain ⟨u, hu⟩ := zeroiseEnd_only s n
  have e : (zeroiseEnd s n).bundles = smDrop u.bundles fun k => (ownClus s n).contains (k / 2048) := hu .bundles (by decide)
  rw [bundleAt, e]
  refine smGet_drop _ _ _ _ ?_
  rwa [show (c * 2048 + i) / 2048 = c by omega, List.contains_iff_mem]

theorem zeroiseEnd_ccmem {a : Nat} (ha : a < 65536) : memGet 0 (zeroiseEnd s n).ccmem (65536 * c + a) = 0 := by
  obtain ⟨u, hu⟩ := zeroiseEnd_only s n
  have e : (zeroiseEnd s n).ccmem = smDrop u.ccmem fun k => (ownClus s n).contains (k / 65536) := hu .ccmem (by decide)
  rw [memGet, e]
  refine smGet_drop _ _ _ _ ?_
  rwa [show (65536 * c + a) / 65536 = c by omega, List.contains_iff_mem]

end

/-- Settles O14: each row by the equation of its accepted case and what the operations there leave. -/
theorem commitSwapTeardownAndZeroise : Obligations.CommitSwapTeardownAndZeroise := by
  refine ⟨fun s n hr => ⟨fun hok => gives_of_pfDo hr rfl ⟨commitEff_self hok, fun c => commitEff_clus hok⟩,
    fun hst hp hw hc => gives_of_pfDo hr rfl ?_, fun hst hp hw hc hm => gives_of_pfDo hr rfl ?_, fun ha hp ht hj => gives_of_pfDo hr rfl ?_,
    fun ht hph => gives_of_pfDo hr rfl ?_⟩, fun s n hz => ⟨zeroiseEnd s n, ?_, zeroiseEnd_off s n, zeroiseEnd_evt s n, fun c hc hf => ?_⟩⟩
  · rw [commitEff_unconnected hst hp hw hc, cmdReject_self]
    exact ⟨hst, rfl, cmdReject_evt ..⟩
  · rw [commitEff_taken hst hp hw hc hm, cmdReject_self]
    exact ⟨hst, rfl⟩
  · rw [tblSwapEff_accepted ha hp ht hj, judgeTbl_state]
    refine ⟨fun hst => ?_, fun hst => ?_⟩
    · rw [if_pos hst]
      exact ⟨swapTable_pend .., rb_setEvt _ _ _ (by decide), fun e he => swapTable_entry he⟩
    · rw [if_neg hst]
      simp
  · obtain ⟨hst, hcmd, hpitch⟩ := beginZeroise_rec s n
    rw [teardownEff_of ht, teardownPart_outside hph, pfTdiErr_part (by simp [hst])]
    exact ⟨hst, hcmd, hpitch⟩
  · exact congrArg Host.Outcome.next (if_pos hz)
  · have ho : c ∈ ownClus s n := by simp [ownClus, hc, hf]
    exact ⟨fun k hk i hi => zeroiseEnd_slots ho hk hi, fun h hh => zeroiseEnd_htab ho hh, fun i hi => zeroiseEnd_bundles ho hi,
      fun a ha => zeroiseEnd_ccmem ho ha⟩

end Sys2Proof.Machine
end

section
/-!
PROOFS. Partition faults, function-level resets, configuration and table writes, REARM (02_partitions_pitches R46, R49, R67, R71, R72).
-/
namespace Sys2Proof.Machine

set_option Elab.async false

section
variable {s t : State} {n : Nat}

/-! ## Registers of a page after a count -/

/-- An offset of PART_CLMASK (R38). -/
def maskOff (o : Nat) : Bool := decide (0x110 ≤ o) && decide (o < 0x130)

/-- Offsets of a page that are none of PART_CLMASK in a partition page. -/
def offFree (p : PageT) (o : Nat) : Bool := decide (o < 4096) && (p ≠ .part || !maskOff o)

/-- The counters of a row and their saturation registers stand in the page, apart from PART_CLMASK. -/
def RegRow.cntFree (p : PageT) (r : RegRow) : Bool :=
  match r.kind with
  | .cnt sat _ _ => (List.range r.count).all fun k =>
      let o := r.off + r.stride * k
      offFree p o && offFree p (sat + (if p = .link then (o / 0x100 - 1) * 0x100 else 0))
  | _ => true

theorem rows_cntFree (p : PageT) : ((pageRows p).all (RegRow.cntFree p) && headerRows.all (RegRow.cntFree p)) = true := by
  cases p <;> decide +kernel

theorem regAt_mem {p : PageT} {o : Nat} {r : RegRow} (h : regAt p o = some r) : r ∈ pageRows p ∨ r ∈ headerRows := by
  unfold regAt at h
  split at h
  · cases h
  · split at h
    · exact .inr (findRow_some h).1
    · exact .inl (findRow_some h).1

/-- Where a counter and its saturation register stand. -/
theorem counter_off {p : PageT} {o sat bit evt : Nat} {r : RegRow} (h : regAt p o = some r) (hk : r.kind = .cnt sat bit evt) (pg : Nat) :
    offFree p o = true ∧ ∃ k, offFree p k = true ∧ satAddr p pg o sat = pg + k := by
  have hr : r.cntFree p = true := by
    have ha := rows_cntFree p
    rw [Bool.and_eq_true, List.all_eq_true, List.all_eq_true] at ha
    exact (regAt_mem h).elim (ha.1 r) (ha.2 r)
  obtain ⟨-, hlo, hhi, hm⟩ := regAt_satFree h
  have hidx : r.off + r.stride * ((o - r.off) / r.stride) = o := by
    have := Nat.div_add_mod (o - r.off) r.stride; omega
  have hlt : (o - r.off) / r.stride < r.count := Nat.div_lt_of_lt_mul (by rw [Nat.mul_comm]; omega)
  simp only [RegRow.cntFree, hk, List.all_eq_true, List.mem_range] at hr
  have := hr _ hlt
  rw [hidx, Bool.and_eq_true] at this
  exact ⟨this.1, _, this.2, Nat.add_assoc ..⟩

theorem lt_of_offFree {p : PageT} {o : Nat} (h : offFree p o = true) : o < 4096 := by
  simp only [offFree, Bool.and_eq_true, decide_eq_true_eq] at h
  exact h.1

/-- A count leaves the registers of the other pages. -/
theorem rd_bumpBy_page (s : State) {pg off a : Nat} (m : Nat) (hp : pg % 4096 = 0) (h : a / 4096 ≠ pg / 4096) :
    rd (bumpBy s pg off m) a = rd s a := by
  unfold bumpBy
  split
  · rfl
  · split
    · rename_i hr
      obtain ⟨ho, k, hk, he⟩ := counter_off hr rfl pg
      have ho := lt_of_offFree ho
      have hk := lt_of_offFree hk
      have hc : ∀ v, rd (wrN (markCnt s (pg + off) m) (pg + off) v) a = rd s a := fun v =>
        (rd_wrN_ne _ v (by omega)).trans (rd_of_regs (by simp [markCnt]) a)
      dsimp only
      split
      · exact hc _
      · split
        · exact hc _
        · rw [rd_setEvt_page _ _ _ hp h, rd_wrN_ne _ _ (by omega), hc]
    · rfl

theorem rd_tdiMark (s : State) (n : Nat) {a : Nat} (h : a / 4096 ≠ 3) : rd (tdiMark s n) a = rd s a := by
  have hs : rd (setTdi s n 3) a = rd s a := by
    have hi : (setTdi s n 3).regs = (wf s (funcsPg + 0x104) (2 * n) 2 3).regs :=
      (show Only [.vecs, .msgs] _ (setTdi s n 3) by simp [setTdi]) .regs (by decide)
    exact (rd_of_regs hi a).trans (rd_wrN_ne _ _ (by unfold funcsPg; omega))
  rw [tdiMark, rd_setEvt_page _ _ _ (by decide) (by unfold funcsPg; omega), bump,
    rd_bumpBy_page _ _ (by decide) (by unfold funcsPg; omega), hs]

theorem rd_pfTdiErr {a : Nat} (hs : (part s n).st ≠ .running) (h : a / 4096 ≠ 3) : rd (pfTdiErr s n) a = rd s a := by
  rcases pfTdiErr_cases s n with e | e | ⟨hr, -⟩
  · rw [e]
  · rw [e, rd_tdiMark s n h]
  · exact absurd hr hs

/-! ## Function-level reset (R49) -/

/-- The partition can be torn down, and the commit window is not open. -/
def TearReady (s : State) (n : Nat) : Prop := tearable (part s n).st = true ∧ s.clk.phase ≠ .commit

theorem TearReady.only {F : List Comp} (h : TearReady s n) (ho : Only F s t) (hp : .parts ∉ F ∧ .clk ∉ F := by decide) : TearReady t n := by
  have hc : t.clk = s.clk := ho .clk hp.2
  unfold TearReady
  rwa [part_of_parts (ho .parts hp.1), hc]

theorem TearReady.mark (h : TearReady s n) : TearReady (tdiMark s n) n := h.only (tdiMark_only s n)

theorem TearReady.fault (h : TearReady s n) (hr : (part s n).st = .running) (k : PartFaultCase) : TearReady (faultPart s n k) n := by
  obtain ⟨hst, -, -⟩ := faultPart_faulted k (.inl (by rw [hr]; rfl)) h.2
  unfold TearReady
  rw [hst, faultPart_phase]
  exact ⟨rfl, h.2⟩

theorem TearReady.tdiError (h : TearReady s n) : TearReady (tdiError s n) n := by
  rcases tdiError_cases s n with e | e | ⟨hr, e⟩
  · rwa [e]
  · rw [e]
    exact h.mark
  · rw [e]
    exact h.mark.fault (by rwa [part_tdiMark]) _

theorem TearReady.pfTdiErr (h : TearReady s n) : TearReady (pfTdiErr s n) n := by
  unfold Machine.pfTdiErr
  split
  · exact h.tdiError
  · exact h

theorem TearReady.ideEnd (h : TearReady s n) : TearReady (ideEnd s (n + 1)) n := by
  have h1 : TearReady (wf (setIde s (n + 1) {}) (funcsPg + 0x108) (ideBit (n + 1)) 1 0) n := h.only (F := [.ide, .regs]) (by simp)
  unfold Machine.ideEnd
  dsimp only
  split
  · exact h1
  · rw [Nat.add_sub_cancel]
    split
    · exact h1.tdiError
    · exact h1

/-- The VF's side of its reset: counted, its TDI, its IDE stream, its sessions and its registers gone. -/
def vfReset (s : State) (k : Nat) : State := vfClear (dropSess (ideEnd (pfTdiErr (bump s funcsPg 0x110) k) (k + 1)) (k + 1)) k

theorem TearReady.vfReset (h : TearReady s n) : TearReady (vfReset s n) n := by
  have h1 : TearReady (bump s funcsPg 0x110) n := h.only (F := evtComps) (by simp)
  have h2 : TearReady (dropSess (Machine.ideEnd (Machine.pfTdiErr (bump s funcsPg 0x110) n) (n + 1)) (n + 1)) n :=
    h1.pfTdiErr.ideEnd.only (F := [.sess]) (by simp [dropSess, setSess])
  exact h2.only (Only.graft [.vecs, .vfEn, .latch, .clw, .spdm] _ (vfClear _ n))

/-- A reset of an enabled VF whose partition can be torn down does so. -/
theorem vfFlrEff_tears (hu : hostUp s = true) (hk : n < numVfs s) (h : TearReady s n) :
    vfFlrEff n s = teardownPart (modPart (vfReset s n) n fun p => { p with flr := true }) n := by
  have ht := h.vfReset.1
  have ho : (part (vfReset s n) n).st ≠ .off := fun e => by simp [e, tearable] at ht
  rw [vfFlrEff, if_pos (by simp [hu, hk])]
  change (if (part (vfReset s n) n).st = .off then _ else
    if tearable (part (modPart (vfReset s n) n fun p => { p with flr := true }) n).st then _ else _) = _
  rw [if_neg ho, if_pos (by simpa using ht)]
  rfl

theorem vfFlrEff_zeroises (hu : hostUp s = true) (hk : n < numVfs s) (h : TearReady s n) : (part (vfFlrEff n s) n).st = .zeroising := by
  have hc : (modPart (vfReset s n) n fun p => { p with flr := true }).clk.phase ≠ .commit := h.vfReset.2
  rw [vfFlrEff_tears hu hk h, teardownPart_outside hc]
  exact (beginZeroise_rec _ n).1

/-! ## Writes of the configuration (R71) -/

theorem partCfgSet_taken {w : Nat} (v : Word) (hl : locked s (partPg n) = false) (hs : (part s n).st = .configuring)
    (hj : loadedJobs s n = []) : partCfgSet n w v s =
      clearFree (wrN s (partPg n + if w = 0 then 0x100 else 0x10C + 4 * w) (Nat.land v.toNat (cfgMask w))) (members s n) := by
  simp [partCfgSet, hl, hs, hj]

theorem partCfgSet_ignored {w : Nat} (v : Word) (hl : locked s (partPg n) = false) (hs : (part s n).st ≠ .configuring) :
    partCfgSet n w v s = ignoredWr s n (if w = 0 then 0x100 else 0x10C + 4 * w) := by
  simp [partCfgSet, hl, hs]

/-- The register written reads the bits written. -/
theorem partCfgWrite_reads {w : Nat} (v : Word) (hn : n < 16) (hw : w < 9) (hl : locked s (partPg n) = false)
    (hs : (part s n).st = .configuring) (hj : loadedJobs s n = []) :
    rdN (partCfgWriteEff n w v s) (partPg n + if w = 0 then 0x100 else 0x10C + 4 * w) = Nat.land v.toNat (cfgMask w) := by
  have hlt : Nat.land v.toNat (cfgMask w) < 2 ^ 32 := lt_of_le_of_lt Nat.and_le_left v.isLt
  have hpage : (partPg n + if w = 0 then 0x100 else 0x10C + 4 * w) / 4096 ≠ 3 := by unfold partPg; split <;> omega
  rw [partCfgWriteEff, partCfgSet_taken v hl hs hj, rdN]
  rw [rd_pfTdiErr (s := clearFree _ _) (fun e => by cases hs.symm.trans e) hpage]
  exact (rdN_wrN_same _ _).trans (Nat.mod_eq_of_lt hlt)

/-! ## Table entries (R72) -/

/-- The entry of a key that stands once in a list is the one found. -/
theorem find_of_unique {α : Type} {l : List (Nat × α)} {k : Nat} {v : α} (hm : (k, v) ∈ l) (hu : ∀ p ∈ l, p.1 = k → p = (k, v)) :
    l.find? (fun p => decide (p.1 = k)) = some (k, v) := by
  have hs : (l.find? fun p => decide (p.1 = k)).isSome = true := List.find?_isSome.2 ⟨_, hm, by simp⟩
  obtain ⟨p, hp⟩ := Option.isSome_iff_exists.1 hs
  rw [hp, hu p (List.mem_of_find?_eq_some hp) (by simpa using List.find?_some hp)]

theorem stageOf_put {sh : Bool} {e : Nat} {lo : Word} {m : List (Nat × Word)}
    (h : (part s n).stage = smIns (entKey sh e) lo (smErase m (entKey sh e))) : stageOf s n sh e = lo := by
  have hf : (part s n).stage.find? (fun p => decide (p.1 = entKey sh e)) = some (entKey sh e, lo) := by
    rw [h]
    refine find_of_unique (mem_smIns.2 (.inl rfl)) fun p hp hk => ?_
    rcases mem_smIns.1 hp with e | hp
    · exact e
    · exact absurd hk (mem_smErase.1 hp).2
  simp only [stageOf, hf]

theorem stageOf_none {sh : Bool} {e : Nat} {m : List (Nat × Word)} (h : (part s n).stage = smErase m (entKey sh e)) :
    stageOf s n sh e = rd s (entAddr n sh e) := by
  have hf : (part s n).stage.find? (fun p => decide (p.1 = entKey sh e)) = none := by
    rw [h, List.find?_eq_none]
    exact fun p hp => by simpa using (mem_smErase.1 hp).2
  simp only [stageOf, hf]

/-- A LO write of an open entry goes to its staging word and leaves the registers. -/
theorem tblLoEff_stages {sh : Bool} {e : Nat} {lo : Word} (ho : entOpen s n sh = true) : (tblLoEff n sh e lo s).regs = s.regs ∧
    stageOf (tblLoEff n sh e lo s) n sh e = lo ∧ entOpen (tblLoEff n sh e lo s) n sh = true ∧ (tblLoEff n sh e lo s).sirvi = s.sirvi := by
  rw [tblLoEff, if_pos ho]
  refine ⟨rfl, stageOf_put (m := (part s n).stage) (by simp), ?_, rfl⟩
  rwa [entOpen, part_modPart_same]

/-- A HI write of an open entry gives it the staging word and the word written. -/
theorem tblHiEff_reads {sh : Bool} {e : Nat} {hi : Word} (ho : entOpen s n sh = true) :
    rd (tblHiEff n sh e hi s) (entAddr n sh e) = stageOf s n sh e ∧ rd (tblHiEff n sh e hi s) (entAddr n sh e + 4) = hi ∧
    stageOf (tblHiEff n sh e hi s) n sh e = stageOf s n sh e := by
  have hlo : rd (tblHiEff n sh e hi s) (entAddr n sh e) = stageOf s n sh e := by
    rw [tblHiEff, if_pos ho, rd_modPart, rd_wr_ne _ (by omega), rd_wr_same]
  refine ⟨hlo, ?_, (stageOf_none (m := (part s n).stage) ?_).trans hlo⟩
  · rw [tblHiEff, if_pos ho, rd_modPart, rd_wr_same]
  · rw [tblHiEff, if_pos ho, part_modPart_same]
    rfl

theorem hostReady_of_sirvi (h : t.sirvi = s.sirvi) : hostReady t = hostReady s := by
  simp only [hostReady, hostUp, devRdy, h]

end

/-- Settles O15: a fault stops its partition at once, a reset reaches TEARDOWN in a state that allows it, and the writes are read back. -/
theorem partitionFaultsResetsAndTableWrites : Obligations.PartitionFaultsResetsAndTableWrites := by
  refine ⟨fun s n k ha hc hk => ⟨faultPart s n k, ?_, faultPart_faulted k (.inl ha) hc⟩,
    fun s k hu hk ht hc => ⟨vfFlrEff k s, rfl, vfFlrEff_zeroises hu hk ⟨ht, hc⟩⟩,
    fun s n w v hr hl => ⟨fun hs hj => gives_of_pfDo hr rfl (partCfgWrite_reads v n.isLt w.isLt hl hs hj), fun hs => ?_⟩,
    fun s n sh e lo hi hr ho => gives_of_pfDo hr rfl ?_, fun s n j hr => gives_of_pfDo hr rfl ?_⟩
  · rcases hk with rfl | ⟨c, rfl | rfl, hm⟩
    · rfl
    · exact congrArg Host.Outcome.next (if_pos hm)
    · exact congrArg Host.Outcome.next (if_pos hm)
  · have e : pfDo s (partCfgWriteEff n w v) = pfTdiErr (ignoredWr s n (if w.val = 0 then 0x100 else 0x10C + 4 * w)) n := by
      rw [pfDo_of_ready hr, partCfgWriteEff, partCfgSet_ignored v hl hs]
    exact congrArg Host.Outcome.next e
  · obtain ⟨hregs, hst, hopen, hsirvi⟩ := tblLoEff_stages (e := e) (lo := lo) ho
    refine ⟨hregs, hst, gives_of_pfDo ((hostReady_of_sirvi hsirvi).trans hr) rfl ?_⟩
    have hrd := tblHiEff_reads (e := e) (hi := hi) hopen
    rwa [hst] at hrd
  · simp [rearmEff]

end Sys2Proof.Machine
end

section
/-!
PROOFS. Pitches start, and end as their members halt; the teardown of a job fault ends (02_partitions_pitches R54, R58, R65, R67;
03_tick_programs R79).
-/
namespace Sys2Proof.Machine

set_option Elab.async false

section
variable {s t : State} {n e now : Nat}

/-! ## The course of a partition's tick, read and changed -/

theorem Same.course (h : Same (courseView n) s t) : (part t n).pitch = (part s n).pitch ∧ (part t n).pitchTo = (part s n).pitchTo ∧
    (part t n).elap = (part s n).elap ∧ (part t n).started = (part s n).started := by
  simpa [Same, courseView, Part.course] using h

/-! ## The grant of a best-effort pitch (R58) -/

/-- The grant of entry `e`: the share of its job of the pool, of all that the segment has left. -/
def grantOf (g : Seg) (e : Nat) : Nat :=
  match (g.left.find? fun b => b.1 = e).map fun b => b.2.2 with
  | some sh => if g.left.foldl (fun a b => a + b.2.2) 0 = 0 then 0 else g.pool.toNat * sh / g.left.foldl (fun a b => a + b.2.2) 0
  | none => 0

/-- The limit and the grant that `grantBe` answers. -/
def beLimit (s : State) (n e now : Nat) : Nat × Nat :=
  match (part s n).seg with
  | none => (now + teBudget (tblEntry s n e), 0)
  | some g => (min (now + teBudget (tblEntry s n e) + grantOf g e) g.segEnd, grantOf g e)

theorem grantBe_answer : (grantBe s n e now).2 = beLimit s n e now := by
  unfold grantBe beLimit
  cases (part s n).seg <;> rfl

theorem grantBe_course {s0 : State} : Same (courseView n) s0 (grantBe s n e now).1 ↔ Same (courseView n) s0 s := by
  unfold grantBe
  split
  · rfl
  · exact modPart_course fun _ => rfl

theorem bgTakes_only (s : State) (n len : Nat) : Only [.marks, .regs, .vecs, .msgs, .slots, .hbmCe, .bg, .sirvi] s (bgTakes s n len).1 := by
  unfold bgTakes
  extract_lets q
  have hq : Only [.marks, .regs, .vecs, .msgs, .slots, .hbmCe, .bg, .sirvi] s q.1 := by
    refine (foldlFst_frame fun p a => ?_).2 (Only.refl _ s)
    dsimp only
    split <;> simp
  split
  · exact hq
  · exact (Only.iff (show Only evtComps q.1 (bump q.1 bgPg 0x180) by simp) (by simp)).2 hq

/-! ## Pitch starts (R54, R58, R67) -/

/-- The partition's record as a pitch of entry `e` finds it: the entry is started, and the members hold no old end of the job. -/
def takeEntry (s : State) (n e : Nat) : State :=
  modPart (each s (members s n) fun u c => modClu u c fun x => { x with haltJ := x.haltJ.filter fun j => j ≠ teJob (tblEntry s n e) }) n
    fun p => { p with started := e :: p.started }

theorem takeEntry_part : part (takeEntry s n e) n = { part s n with started := e :: (part s n).started } := by
  have h : Only [.clus] s (each s (members s n) fun u c =>
      modClu u c fun x => { x with haltJ := x.haltJ.filter fun j => j ≠ teJob (tblEntry s n e) }) := by simp
  rw [takeEntry, part_modPart_same, part_of_parts (h .parts (by decide))]

theorem takeEntry_regs : (takeEntry s n e).regs = s.regs := by
  have h : Only [.clus, .parts] s (takeEntry s n e) := by simp [takeEntry]
  exact h .regs (by decide)

theorem tblEntry_of_regs (h : t.regs = s.regs) : tblEntry t n e = tblEntry s n e := by
  simp only [tblEntry, rd64, rdN_of_regs h]

/-- The pitch of entry `e` from `now` on with its budget. -/
def wholePitch (s : State) (n e now : Nat) : Pitch :=
  { entry := e, job := teJob (tblEntry s n e), rt := !teBe (tblEntry s n e), start := now, limit := now + teBudget (tblEntry s n e) }

/-- The best-effort pitch of entry `e` from `now` on with its grant, of which background work takes `k` cycles. -/
def grantPitch (s : State) (n e now k : Nat) : Pitch :=
  { entry := e, job := teJob (tblEntry s n e), rt := false, start := now, limit := (beLimit s n e now).1 - k, grant := (beLimit s n e now).2 }

/-- A real-time pitch, and every pitch in steady mode, takes the cores at `now`. -/
theorem beginPitch_rt (h : teBe (tblEntry s n e) = false ∨ steadyOf s n = true) : beginPitch s n e now =
    modPart (takeEntry s n e) n fun p => { p with pitch := some (wholePitch s n e now), seg := none } := by
  have hc : (steadyOf s n || !teBe (tblEntry s n e)) = true := by rcases h with h | h <;> simp [h]
  unfold beginPitch
  dsimp only
  exact if_pos hc

/-- The answer of `grantBe` for an entry just taken. -/
def granted (s : State) (n e now : Nat) : State × Nat × Nat := grantBe (takeEntry s n e) n e now

/-- A best-effort pitch: what `grantBe` grants it, less what background work takes. -/
theorem beginPitch_be (hb : teBe (tblEntry s n e) = true) (hs : steadyOf s n = false) : ∃ u k,
    beginPitch s n e now = modPart u n (fun p => { p with pitch := some (grantPitch s n e now k) }) ∧
    (part u n).started = e :: (part s n).started := by
  have hl : (granted s n e now).2 = beLimit s n e now := by
    rw [granted, grantBe_answer, beLimit, takeEntry_part, tblEntry_of_regs takeEntry_regs]
    rfl
  refine ⟨(bgTakes (granted s n e now).1 n ((granted s n e now).2.1 - now)).1,
    (bgTakes (granted s n e now).1 n ((granted s n e now).2.1 - now)).2, ?_, ?_⟩
  · unfold grantPitch
    rw [← hl]
    unfold beginPitch
    dsimp only
    rw [if_neg (by simp [hb, hs])]
    rfl
  · obtain ⟨-, -, -, hst⟩ := (grantBe_course (s0 := takeEntry s n e) (n := n) (e := e) (now := now).2 (same_refl _ _)).course
    rw [granted, part_of_parts (bgTakes_only _ n _ .parts (by decide)), hst, takeEntry_part]

/-- The pitch of a halted job ends where it starts. -/
theorem skipPitch_course : (part (skipPitch s n e now) n).course = ((part s n).pitch, now, (part s n).elap, e :: (part s n).started) := by
  have h1 : Same (courseView n) (modPart s n fun p => { p with started := e :: p.started, pitchTo := now }) (skipPitch s n e now) := by
    unfold skipPitch
    dsimp only
    split
    · exact tally_course.2 (same_refl _ _)
    · split
      · exact tally_course.2 (returnPool_course.2 (grantBe_course.2 (same_refl _ _)))
      · exact tally_course.2 (openSeg_course.2 (same_refl _ _))
  refine Eq.trans h1 ?_
  simp [courseView, Part.course]

/-- PITCH_START of a job that has not halted, and of one that has. -/
theorem pitchStartEff_eq (h : pitchStartOk s n e = true) : pitchStartEff n e s =
    if (job s n (teJob (tblEntry s n e))).halted then skipPitch (toCycle s (pitchFrom s n e)) n e (pitchFrom s n e)
    else beginPitch (toCycle s (pitchFrom s n e)) n e (pitchFrom s n e) := if_pos h

theorem pitchStartOk_pitch (h : pitchStartOk s n e = true) : (part s n).pitch = none := by
  simp only [pitchStartOk, Bool.and_eq_true, Option.isNone_iff_eq_none] at h
  exact h.1.1.1.2

theorem pitchStart_rt (hok : pitchStartOk s n e = true) (hj : (job s n (teJob (tblEntry s n e))).halted = false)
    (h : teBe (tblEntry s n e) = false ∨ steadyOf s n = true) :
    (part (pitchStartEff n e s) n).pitch = some (wholePitch s n e (teStart (tblEntry s n e))) ∧
    e ∈ (part (pitchStartEff n e s) n).started := by
  have hf : pitchFrom s n e = teStart (tblEntry s n e) := if_neg (by rcases h with h | h <;> simp [h])
  rw [pitchStartEff_eq hok, if_neg (by simp [hj]), beginPitch_rt (s := toCycle s _) h, part_modPart_same, takeEntry_part, hf]
  exact ⟨rfl, List.mem_cons_self⟩

theorem pitchStart_halted (hok : pitchStartOk s n e = true) (hj : (job s n (teJob (tblEntry s n e))).halted = true) :
    (part (pitchStartEff n e s) n).pitch = none ∧ e ∈ (part (pitchStartEff n e s) n).started ∧
    (part (pitchStartEff n e s) n).pitchTo = pitchFrom s n e := by
  have h := skipPitch_course (s := toCycle s (pitchFrom s n e)) (n := n) (e := e) (now := pitchFrom s n e)
  rw [pitchStartEff_eq hok, if_pos hj]
  simp only [Part.course, Prod.mk.injEq] at h
  obtain ⟨hp, hto, -, hst⟩ := h
  rw [hp, hto, hst]
  exact ⟨pitchStartOk_pitch hok, List.mem_cons_self, rfl⟩

/-- What limit and grant of a best-effort entry are bounded by. -/
theorem beLimit_bounds : (beLimit s n e now).1 ≤ now + teBudget (tblEntry s n e) + (beLimit s n e now).2 ∧
    ((part s n).seg = none → (beLimit s n e now).2 = 0) ∧
    ∀ g, (part s n).seg = some g → (beLimit s n e now).1 ≤ g.segEnd ∧ (beLimit s n e now).2 = grantOf g e := by
  unfold beLimit
  split
  · rename_i h
    exact ⟨by simp, fun _ => rfl, fun g hg => by simp [h] at hg⟩
  · rename_i g h
    refine ⟨Nat.min_le_left .., fun hn => by simp [h] at hn, fun g' hg => ?_⟩
    obtain rfl : g = g' := Option.some.inj (h.symm.trans hg)
    exact ⟨Nat.min_le_right .., rfl⟩

theorem grantOf_share {g : Seg} {b : Nat × Nat × Nat} (hb : g.left.find? (fun b => decide (b.1 = e)) = some b)
    (hw : g.left.foldl (fun a b => a + b.2.2) 0 ≠ 0) : grantOf g e = g.pool.toNat * b.2.2 / g.left.foldl (fun a b => a + b.2.2) 0 := by
  rw [grantOf, hb]
  exact if_neg hw

theorem pitchStart_be (hok : pitchStartOk s n e = true) (hj : (job s n (teJob (tblEntry s n e))).halted = false)
    (hb : teBe (tblEntry s n e) = true) (hs : steadyOf s n = false) :
    e ∈ (part (pitchStartEff n e s) n).started ∧ 
    ∃ k, (part (pitchStartEff n e s) n).pitch = some (grantPitch s n e (part s n).pitchTo k) := by
  have hf : pitchFrom s n e = (part s n).pitchTo := if_pos (by simp [hb, hs])
  obtain ⟨u, k, he, hst⟩ := beginPitch_be (s := toCycle s (pitchFrom s n e)) (n := n) (e := e) (now := pitchFrom s n e) hb hs
  rw [pitchStartEff_eq hok, if_neg (by simp [hj]), he, part_modPart_same, hst, hf]
  exact ⟨List.mem_cons_self, k, rfl⟩

/-! ## The end of a pitch whose members have halted (R54, R58; 03_tick_programs R79) -/

theorem beforeEnd_mono {a b : Nat} (h : beforeEnd s a = true) (hb : b ≤ a) : beforeEnd s b = true := by
  unfold beforeEnd at h ⊢
  split at h
  · rw [decide_eq_true_eq] at h ⊢
    omega
  · rw [decide_eq_true_eq] at h ⊢
    omega
  · rfl
  · cases h
  · cases h

/-- The members' ends recorded, at cycle `k` where none was, and the clock there. -/
def doneAt (s : State) (n k : Nat) : State :=
  toCycle (each s (members s n) fun s c => modClu s c fun x => { x with dEnd := some (x.dEnd.getD k) }) k

theorem doneAt_keeps (k : Nat) : part (doneAt s n k) n = part s n ∧ members (doneAt s n k) n = members s n := by
  have ho : Only [.clus, .clk] s (doneAt s n k) := by simp [doneAt]
  exact ⟨part_of_parts (ho .parts (by decide)) n, members_of_regs (ho .regs (by decide))⟩

/-- With every member done PITCH_END ends the pitch, by its limit. -/
theorem pitchEndEff_ends {cycle : Nat} {p : Pitch} (hp : (part s n).pitch = some p) (ht : p.t0.isSome = true) (hb : beforeEnd s p.limit = true)
    (hd : ∀ c ∈ members s n, clusDone s c = true) :
    ∃ u k, pitchEndEff n cycle s = endPitch u n k ∧ k ≤ p.limit ∧ part u n = part s n ∧ members u n = members s n := by
  have hall : (p.t0.isSome && (members s n).all fun c => clusDone s c) = true := by simpa [ht] using hd
  have hend : ∀ k, k ≤ p.limit → ¬(!beforeEnd s k) = true := fun k hk => by simp [beforeEnd_mono hb hk]
  unfold pitchEndEff
  rw [hp]
  dsimp only
  rw [if_pos hall]
  split
  · rw [if_neg (hend _ le_rfl)]
    exact ⟨toCycle (doneAt s n _) p.limit, p.limit, rfl, le_rfl, doneAt_keeps _⟩
  · rw [if_neg (hend _ (Nat.min_le_left ..))]
    exact ⟨doneAt s n _, _, rfl, Nat.min_le_left .., doneAt_keeps _⟩

/-- What the end of a pitch leaves: none runs, its cycles have elapsed, the members are stopped. -/
theorem endPitch_ended {p : Pitch} (hp : (part s n).pitch = some p) (k : Nat) : (part (endPitch s n k) n).pitch = none ∧
    (part (endPitch s n k) n).pitchTo = k ∧ (part (endPitch s n k) n).elap = (part s n).elap + (k - p.start) ∧
    ∀ c ∈ members s n, Stopped (endPitch s n k) c := by
  have h := endPitch_course hp k
  simp only [Part.course, Prod.mk.injEq] at h
  obtain ⟨h1, h2, h3, -⟩ := h
  exact ⟨h1, h2, h3, fun c hc => endPitch_stops hp k hc⟩

theorem pitchEndEff_ended {cycle : Nat} {p : Pitch} (hp : (part s n).pitch = some p) (ht : p.t0.isSome = true)
    (hb : beforeEnd s p.limit = true) (hd : ∀ c ∈ members s n, clusDone s c = true) :
    (part (pitchEndEff n cycle s) n).pitch = none ∧ (part (pitchEndEff n cycle s) n).pitchTo ≤ p.limit ∧
    (part (pitchEndEff n cycle s) n).elap = (part s n).elap + ((part (pitchEndEff n cycle s) n).pitchTo - p.start) ∧
    ∀ c ∈ members s n, Stopped (pitchEndEff n cycle s) c := by
  obtain ⟨u, k, he, hk, hpart, hmem⟩ := pitchEndEff_ends (cycle := cycle) hp ht hb hd
  obtain ⟨h1, h2, h3, h4⟩ := endPitch_ended (s := u) (p := p) (by rw [hpart, hp]) k
  rw [he, h2, ← hpart, ← hmem]
  exact ⟨h1, hk, h3, h4⟩

/-! ## The teardown of a job fault ends (R65) -/

theorem job_modPart {m j : Nat} {f : Part → Part} (hf : (f (part s m)).jobs = (part s m).jobs) : job (modPart s m f) m j = job s m j := by
  rw [job, part_modPart_same, hf, job]

theorem jobTeardownDone_busy {j w : Nat} (h : (job s n j).busy.isSome = true) : (job (jobTeardownDoneEff n j w s) n j).busy = none := by
  have h1 : (job (modJob s n j fun x => { x with busy := none }) n j).busy = none := by rw [job_modJob_same]
  have hn : ¬(job s n j).busy.isNone = true := by simpa [Option.isSome_iff_ne_none] using h
  unfold jobTeardownDoneEff
  rw [if_neg hn]
  split
  · dsimp only
    split
    · rwa [job_modPart rfl]
    · exact h1
  · exact h1

theorem jobTeardownDone_waits {j w : Nat} {p : Pitch} (h : (job s n j).busy.isSome = true) (hp : (part s n).pitch = some p) (ht : p.t0 = none) :
    ∃ q, (part (jobTeardownDoneEff n j w s) n).pitch = some q ∧ q.tearW = max p.tearW (min w 2048) := by
  have hn : ¬(job s n j).busy.isNone = true := by simpa [Option.isSome_iff_ne_none] using h
  unfold jobTeardownDoneEff
  rw [if_neg hn, hp]
  dsimp only
  rw [if_pos (by simp [ht]), part_modPart_same]
  exact ⟨_, rfl, rfl⟩

end

end Sys2Proof.Machine
end

section
/-!
PROOFS. The switch of a pitch completes and issue starts (02_partitions_pitches R56, R57; 03_tick_programs R82; 08_attention R228).
-/
namespace Sys2Proof.Machine

set_option Elab.async false

section
variable {s t : State} {n : Nat}

/-! ## Slots emptied, cores cleared -/

theorem slotAt_modSlot (s : State) (co i co' i' : Nat) (f : Slot → Slot) : slotAt (modSlot s co i f) co' i' =
    if co' * 1024 + i' = co * 1024 + i then f (slotAt s co i) else slotAt s co' i' := smGet_smSet ..

theorem tagSlots_empties {l : List (Nat × Nat)} {q : Nat × Nat} (hq : q ∈ l) : (slotAt (tagSlots s l false) q.1 q.2).full = false := by
  refine each_reaches (P := fun _ => True) (Q := fun u => (slotAt u q.1 q.2).full = false) hq trivial (fun _ _ _ _ => trivial)
    (fun u _ => by rw [slotAt_modSlot, if_pos rfl]) fun u r _ _ hu => ?_
  rw [slotAt_modSlot]
  split
  · rfl
  · exact hu

theorem coreAt_setCore (s : State) (k m : Nat) (x : Core) : coreAt (setCore s k x) m = if m = k then x else coreAt s m := smGet_smSet ..

/-- No core of a cluster holds anything. -/
def CoresClear (s : State) (c : Nat) : Prop := ∀ k < 16, coreAt s (16 * c + k) = {}

theorem CoresClear.of_cores {c : Nat} (h : CoresClear s c) (e : t.cores = s.cores) : CoresClear t c := fun k hk => by
  have := h k hk
  unfold coreAt at this ⊢
  rwa [e]

theorem clearCores_keepsClear {c d : Nat} (h : CoresClear s c) : CoresClear (clearCores s d) c :=
  each_inv (P := fun u => CoresClear u c) (fun u i _ hu k hk => by
    rw [coreAt_setCore]
    split
    · rfl
    · exact hu k hk) h

theorem clearCores_clear (s : State) (c : Nat) : CoresClear (clearCores s c) c := fun k hk => by
  refine each_reaches (P := fun _ => True) (Q := fun u => coreAt u (16 * c + k) = {}) (List.mem_range.2 hk) trivial (fun _ _ _ _ => trivial)
    (fun u _ => by rw [coreAt_setCore, if_pos rfl]) fun u i _ _ hu => ?_
  rw [coreAt_setCore]
  split
  · rfl
  · exact hu

@[simp] theorem part_toCycle (s : State) (c m : Nat) : part (toCycle s c) m = part s m := rfl

/-! ## Members before bundle 0 -/

/-- The cluster runs, before bundle 0 at issue cycle 0. -/
def AtStart (s : State) (c : Nat) : Prop := (clu s c).run = true ∧ (clu s c).pc = 0 ∧ (clu s c).icyc = 0

/-- A member's cores cleared, and its sequencer at bundle 0. -/
def readyClus (s : State) (n o c : Nat) (paged fresh : Bool) (frames : Nat) : State := startClus (clearCores s c) n o c paged fresh frames

/-- The members ready for issue. -/
def readyAll (s : State) (n : Nat) (paged fresh : Bool) (frames : Nat) : State :=
  each s (members s n) fun s c => readyClus s n (partOrigin s n) c paged fresh frames

section
variable {o c frames : Nat} {paged fresh : Bool}

theorem readyClus_cores : (readyClus s n o c paged fresh frames).cores = (clearCores s c).cores :=
  (show Only [.clus] (clearCores s c) (readyClus s n o c paged fresh frames) by simp [readyClus, startClus]) .cores (by decide)

theorem readyClus_only : Only [.clus, .cores] s (readyClus s n o c paged fresh frames) := by simp [readyClus, startClus, clearCores, setCore]

theorem readyAll_only : Only [.clus, .cores] s (readyAll s n paged fresh frames) :=
  (each_frame fun _ _ => readyClus_only).2 (Only.refl _ s)

end

theorem readyClus_hit (s : State) (n o c : Nat) (paged fresh : Bool) (frames : Nat) :
    AtStart (readyClus s n o c paged fresh frames) c ∧ CoresClear (readyClus s n o c paged fresh frames) c := by
  refine ⟨?_, (clearCores_clear s c).of_cores readyClus_cores⟩
  rw [AtStart, readyClus, startClus, clu_modClu_same]
  exact ⟨rfl, rfl, rfl⟩

theorem readyClus_keeps {c d : Nat} (o : Nat) (paged fresh : Bool) (frames : Nat) (h : AtStart s c ∧ CoresClear s c) :
    AtStart (readyClus s n o d paged fresh frames) c ∧ CoresClear (readyClus s n o d paged fresh frames) c := by
  by_cases e : c = d
  · subst e
    exact readyClus_hit ..
  · have hc : clu (readyClus s n o d paged fresh frames) c = clu s c := by
      have ho : Only [.cores] s (clearCores s d) := by simp [clearCores, setCore]
      rw [readyClus, startClus, modClu, clu_setClu, if_neg e, clu_of_clus (ho .clus (by decide))]
    unfold AtStart
    rw [hc]
    exact ⟨h.1, (clearCores_keepsClear h.2).of_cores readyClus_cores⟩

theorem readyAll_ready (paged fresh : Bool) (frames : Nat) {c : Nat} (hc : c ∈ members s n) :
    AtStart (readyAll s n paged fresh frames) c ∧ CoresClear (readyAll s n paged fresh frames) c :=
  each_reaches (P := fun _ => True) (Q := fun u => AtStart u c ∧ CoresClear u c) hc trivial (fun _ _ _ _ => trivial)
    (fun _ _ => readyClus_hit ..) fun _ _ _ _ hu => readyClus_keeps _ paged fresh frames hu

/-! ## PITCH handlers entered -/

/-- A member waits for its first page where it is not there, and its PITCH handler is entered. -/
def enterClus (img : JobImg) (j : Nat) (s : State) (c : Nat) : State :=
  runHandler (if img.paged && !pageHere s c 0 then freeze s c (.page 0) 0 else s) c .pitch j

theorem enterClus_only {img : JobImg} {j c : Nat} : Only [.clus] s (enterClus img j s c) := by
  unfold enterClus
  split <;> simp

/-- What a member's clusters show once issue has started. -/
def Entered (s : State) (c : Nat) : Prop := AtStart s c ∧ (clu s c).hnd.isSome = true

theorem modClu_atStart {c d : Nat} {f : Clus → Clus} (hf : ∀ x, (f x).run = x.run ∧ (f x).pc = x.pc ∧ (f x).icyc = x.icyc) (h : AtStart s c) :
    AtStart (modClu s d f) c := by
  unfold AtStart
  rw [modClu, clu_setClu]
  split
  · rename_i e
    obtain ⟨hr, hp, hi⟩ := hf (clu s d)
    rw [hr, hp, hi, ← e]
    exact h
  · exact h

theorem enterClus_atStart {img : JobImg} {j c d : Nat} (h : AtStart s c) : AtStart (enterClus img j s d) c := by
  have hh : ∀ u, AtStart u c → AtStart (runHandler u d .pitch j) c := fun _ hu => modClu_atStart (fun x => by
    dsimp only
    split <;> exact ⟨rfl, rfl, rfl⟩) hu
  unfold enterClus
  split
  · exact hh _ (modClu_atStart (fun x => ⟨rfl, rfl, rfl⟩) h)
  · exact hh _ h

theorem runHandler_entered (s : State) (c : Nat) (h : Hnd) (j d : Nat) (hd : d = c ∨ (clu s d).hnd.isSome = true) :
    (clu (runHandler s c h j) d).hnd.isSome = true := by
  unfold runHandler modClu
  rw [clu_setClu]
  split
  · dsimp only
    split
    · rfl
    · rename_i hn
      simpa [Option.isSome_iff_ne_none] using hn
  · rename_i hne
    exact hd.resolve_left hne

theorem enterClus_entered (img : JobImg) (j : Nat) (s : State) (c d : Nat) (h : d = c ∨ (clu s d).hnd.isSome = true) :
    (clu (enterClus img j s c) d).hnd.isSome = true := by
  unfold enterClus
  split
  · refine runHandler_entered _ _ _ _ _ (h.imp_right fun hd => ?_)
    rw [freeze, modClu, clu_setClu]
    split
    · rename_i e
      rwa [← e]
    · exact hd
  · exact runHandler_entered _ _ _ _ _ h

theorem enterAll_entered {img : JobImg} {j c : Nat} {l : List Nat} (hc : c ∈ l) (h : AtStart s c) : Entered (each s l (enterClus img j)) c :=
  each_reaches (P := fun u => AtStart u c) (Q := fun u => Entered u c) hc h (fun _ _ _ hu => enterClus_atStart hu)
    (fun _ hu => ⟨enterClus_atStart hu, enterClus_entered _ _ _ _ _ (.inl rfl)⟩)
    fun _ _ _ hu hq => ⟨enterClus_atStart hu, enterClus_entered _ _ _ _ _ (.inr hq.2)⟩

/-! ## Issue starts (R57, R82) -/

/-- The running pitch once issue has started at `t0`. -/
def issuePitch (p : Pitch) (t0 extra : Nat) : Pitch := { p with t0 := some t0, extra := extra, stalls := (t0 - extra, t0, 0) :: p.stalls }

/-- The state of a partition with the attention buffers EMPTY and the members ready for issue. -/
def readied (s : State) (n j : Nat) (fresh : Bool) : State :=
  readyAll (tagSlots s (attnSlots s n (job s n j).img) false) n (job s n j).img.paged fresh (job s n j).img.frames

/-- The pitch told its t0, at that cycle. -/
def issued (s : State) (n : Nat) (p : Pitch) (extra : Nat) (fresh : Bool) : State :=
  toCycle (modPart (readied s n p.job fresh) n fun q => { q with pitch := some (issuePitch p (t0Of s n p extra) extra), syncs := [] })
    (t0Of s n p extra)

theorem readied_only {j : Nat} {fresh : Bool} : Only [.slots, .clus, .cores] s (readied s n j fresh) := by
  have h1 : Only [.slots] s (tagSlots s (attnSlots s n (job s n j).img) false) := by simp
  exact (h1.mono (by simp)).trans (readyAll_only.mono (by simp))

/-- Where no first page has to come in, issue starts. -/
theorem beginIssue_eq {p : Pitch} (extra : Nat) {fresh : Bool} (h : fresh = false ∨ (job s n p.job).img.paged = false) :
    beginIssue s n p extra fresh = each (issued s n p extra fresh) (members (issued s n p extra fresh) n) (enterClus (job s n p.job).img p.job) := by
  have hf : (if fresh then firstPages (readied s n p.job fresh) n (job s n p.job).img else (readied s n p.job fresh, true)) =
      (readied s n p.job fresh, true) := by
    rcases h with rfl | h
    · rfl
    · simp [firstPages, h]
  unfold beginIssue
  extract_lets img t0 s1 s2 s3 s4 s5
  have h3 : s3 = (readied s n p.job fresh, true) := hf
  have h5 : s5 = issued s n p extra fresh := by
    unfold s5 s4
    rw [h3]
    rfl
  rw [h3, h5]
  exact if_pos rfl

theorem issued_only {p : Pitch} {extra : Nat} {fresh : Bool} : Only [.parts, .clk] (readied s n p.job fresh) (issued s n p extra fresh) := by
  simp [issued]

theorem issued_members {p : Pitch} {extra : Nat} {fresh : Bool} : members (issued s n p extra fresh) n = members s n := by
  have h : Only [.slots, .clus, .cores, .parts, .clk] s (issued s n p extra fresh) :=
    (readied_only.mono (by simp)).trans (issued_only.mono (by simp))
  exact members_of_regs (h .regs (by decide))

theorem readied_ready {j : Nat} {fresh : Bool} {c : Nat} (hc : c ∈ members s n) :
    AtStart (readied s n j fresh) c ∧ CoresClear (readied s n j fresh) c := by
  have ho : Only [.slots] s (tagSlots s (attnSlots s n (job s n j).img) false) := by simp
  exact readyAll_ready _ _ _ (by rwa [members_of_regs (ho .regs (by decide))])

variable {p : Pitch} {extra : Nat} {fresh : Bool} (h : fresh = false ∨ (job s n p.job).img.paged = false)
include h

theorem beginIssue_only : Only [.clus] (issued s n p extra fresh) (beginIssue s n p extra fresh) := by
  rw [beginIssue_eq extra h]
  exact (each_frame fun _ _ => enterClus_only).2 (Only.refl _ _)

theorem beginIssue_part : part (beginIssue s n p extra fresh) n =
    { part s n with pitch := some (issuePitch p (t0Of s n p extra) extra), syncs := [] } := by
  have hr : part (readied s n p.job fresh) n = part s n := part_of_parts (readied_only .parts (by decide)) n
  have hb : (beginIssue s n p extra fresh).parts = (issued s n p extra fresh).parts := beginIssue_only (extra := extra) h .parts (by decide)
  rw [part_of_parts hb]
  unfold issued
  rw [part_toCycle, part_modPart_same, hr]

theorem beginIssue_clus {c : Nat} (hc : c ∈ members s n) :
    Entered (beginIssue s n p extra fresh) c ∧ CoresClear (beginIssue s n p extra fresh) c := by
  obtain ⟨hs, hk⟩ := readied_ready (j := p.job) (fresh := fresh) hc
  have ho : Only [.clus, .parts, .clk] (readied s n p.job fresh) (beginIssue s n p extra fresh) :=
    (issued_only.mono (by simp)).trans ((beginIssue_only h).mono (by simp))
  have hi : clu (issued s n p extra fresh) c = clu (readied s n p.job fresh) c := clu_of_clus (issued_only .clus (by decide)) c
  refine ⟨?_, hk.of_cores (ho .cores (by decide))⟩
  rw [beginIssue_eq extra h]
  refine enterAll_entered (by rwa [issued_members]) ?_
  unfold AtStart at hs ⊢
  rwa [hi]

theorem beginIssue_attn {q : Nat × Nat} (hq : q ∈ attnSlots s n (job s n p.job).img) :
    (slotAt (beginIssue s n p extra fresh) q.1 q.2).full = false := by
  have h0 : Only [.clus, .cores] (tagSlots s (attnSlots s n (job s n p.job).img) false) (readied s n p.job fresh) := readyAll_only
  have ho : Only [.clus, .cores, .parts, .clk] (tagSlots s (attnSlots s n (job s n p.job).img) false) (beginIssue s n p extra fresh) :=
    (h0.mono (by simp)).trans ((issued_only.mono (by simp)).trans ((beginIssue_only h).mono (by simp)))
  have hs : (beginIssue s n p extra fresh).slots = (tagSlots s (attnSlots s n (job s n p.job).img) false).slots := ho .slots (by decide)
  have := tagSlots_empties (s := s) hq
  unfold slotAt at this ⊢
  rwa [hs]

end

/-! ## The switch of jobs (R56) -/

section
variable {s t : State} {n : Nat}

theorem tSwitch_of_regs (h : t.regs = s.regs) (jin : Nat) (jout : Option Nat) : tSwitch t n jin jout = tSwitch s n jin jout := by
  have hb : hbmShare t n = hbmShare s n := by
    unfold hbmShare rb rf
    rw [rdN_of_regs h, rdN_of_regs h, members_of_regs h]
  have hj : ∀ j off, jdReg t n j off = jdReg s n j off := fun j off => rdN_of_regs h _
  unfold tSwitch
  rw [hb]
  cases jout <;> simp only [hj]

theorem predJob_of_regs (h : t.regs = s.regs) (e : Nat) : predJob t n e = predJob s n e := by
  simp only [predJob, activeTbl, partHp, rf, rdN_of_regs h, tblEntry_of_regs h]

theorem t0Of_of_regs (h : t.regs = s.regs) (p : Pitch) (extra : Nat) : t0Of t n p extra = t0Of s n p extra := by
  rw [t0Of, t0Of, predJob_of_regs h, tSwitch_of_regs h]

theorem attnSlots_of_regs (h : t.regs = s.regs) (img : JobImg) : attnSlots t n img = attnSlots s n img := by
  simp only [attnSlots, members_of_regs h]

/-- Lists without descriptors move nothing. -/
theorem switchLists_nil {f : Nat → List (BitVec 512)} (h : ∀ c ∈ members s n, f c = []) :
    switchLists s n f = { s := s, cause := none, waits := false } := by
  unfold switchLists
  generalize ({ s := s, cause := none, waits := false } : SwRes) = r
  generalize members s n = l at h ⊢
  induction l with
  | nil => rfl
  | cons c l ih =>
    rw [List.foldl_cons, h c List.mem_cons_self]
    exact ih fun d hd => h d (List.mem_cons_of_mem _ hd)

theorem rebind_only {img : JobImg} : Only [.htab] s (rebind s n img) := by
  have hs : ∀ (u : State) (c h : Nat) (v : DWord), Only [.htab] u (setHentry u c h v) := fun u c h v =>
    Only.graft [.htab] u { u with htab := smSet 0 u.htab (c * 1024 + h) v }
  unfold rebind
  refine (each_frame fun u c => (foldl_frame fun v q => hs v _ _ _).2 (Only.refl _ u)).2 ?_
  exact Only.graft [.htab] s { s with htab := s.htab.filter fun p => !(members s n).contains (p.1 / 1024) }

/-- A partition with job `j`'s handles in place, and `j` the last to have run. -/
def rebound (s : State) (n j : Nat) : State := modPart (rebind s n (job s n j).img) n fun q => { q with lastJob := some j }

theorem rebound_only {j : Nat} : Only [.htab, .parts] s (rebound s n j) := by
  have h : Only [.htab, .parts] s (rebind s n (job s n j).img) := rebind_only.mono (by simp)
  exact h.trans (by simp [rebound])

theorem rebound_part {j : Nat} : part (rebound s n j) n = { part s n with lastJob := some j } := by
  have h : part (rebind s n (job s n j).img) n = part s n := part_of_parts (rebind_only .parts (by decide)) n
  rw [rebound, part_modPart_same, h]

theorem rebound_job {j k : Nat} : job (rebound s n j) n k = job s n k := by rw [job, rebound_part, job]

/-- A switch whose lists are empty binds the handles and starts issue. -/
theorem switchJob_eq {p : Pitch} (extra : Nat) (h : ∀ c ∈ members s n, listOf (job s n p.job).img.fetchList (job s n p.job).img c = [] ∧
    ∀ j, (part s n).lastJob = some j → listOf (job s n j).img.evictList (job s n j).img c = []) :
    switchJob s n p extra = beginIssue (rebound s n p.job) n p extra true := by
  have hm : members (rebind s n (job s n p.job).img) n = members s n := members_of_regs (rebind_only .regs (by decide))
  have hin : switchLists (rebind s n (job s n p.job).img) n (fun c => listOf (job s n p.job).img.fetchList (job s n p.job).img c) =
      { s := rebind s n (job s n p.job).img, cause := none, waits := false } :=
    switchLists_nil fun c hc => (h c (hm ▸ hc)).1
  unfold switchJob
  extract_lets img out inn
  have ho : out = { s := s, cause := none, waits := false } := by
    unfold out
    split
    · rename_i j hj
      exact switchLists_nil fun c hc => (h c hc).2 j hj
    · rfl
  have hi : inn = { s := rebind s n (job s n p.job).img, cause := none, waits := false } := by
    unfold inn
    rw [ho]
    exact hin
  rw [hi]
  rfl

/-- What the start of issue leaves, for a pitch `p` whose attention buffers are `attn`. -/
def Issues (s : State) (n : Nat) (p : Pitch) (extra : Nat) (t : State) : Prop :=
  (∃ q, (part t n).pitch = some q ∧ q.t0 = some (t0Of s n p extra) ∧ q.job = p.job ∧ q.limit = p.limit) ∧
  (∀ c ∈ members s n, (clu t c).run = true ∧ (clu t c).pc = 0 ∧ (clu t c).icyc = 0 ∧ (clu t c).hnd.isSome = true ∧
    ∀ k, k < 16 → coreAt t (16 * c + k) = {}) ∧
  ∀ q ∈ attnSlots s n (job s n p.job).img, (slotAt t q.1 q.2).full = false

theorem beginIssue_issues {p : Pitch} (extra : Nat) {fresh : Bool} (h : fresh = false ∨ (job s n p.job).img.paged = false) :
    Issues s n p extra (beginIssue s n p extra fresh) := by
  refine ⟨⟨issuePitch p (t0Of s n p extra) extra, ?_, rfl, rfl, rfl⟩, fun c hc => ?_, fun q hq => beginIssue_attn h hq⟩
  · rw [beginIssue_part h]
  · obtain ⟨⟨⟨hr, hp, hi⟩, hh⟩, hk⟩ := beginIssue_clus (extra := extra) h hc
    exact ⟨hr, hp, hi, hh, hk⟩

theorem switchJob_issues {p : Pitch} (extra : Nat) (hg : (job s n p.job).img.paged = false)
    (h : ∀ c ∈ members s n, listOf (job s n p.job).img.fetchList (job s n p.job).img c = [] ∧
      ∀ j, (part s n).lastJob = some j → listOf (job s n j).img.evictList (job s n j).img c = []) :
    Issues s n p extra (switchJob s n p extra) ∧ (part (switchJob s n p extra) n).lastJob = some p.job := by
  have hr : (rebound s n p.job).regs = s.regs := rebound_only .regs (by decide)
  have hg' : (job (rebound s n p.job) n p.job).img.paged = false := by rwa [rebound_job]
  have hi := beginIssue_issues extra (fresh := true) (.inr hg')
  rw [switchJob_eq extra h]
  refine ⟨?_, ?_⟩
  · unfold Issues at hi ⊢
    rwa [t0Of_of_regs hr, members_of_regs hr, rebound_job, attnSlots_of_regs hr] at hi
  · rw [beginIssue_part (.inr hg'), rebound_part]

/-- SWITCH_DONE with nothing left that bars it: issue starts, after a switch of jobs where there is one. -/
theorem switchDoneEff_eq {p : Pitch} {extra : Nat} (hp : (part s n).pitch = some p) (ht : p.t0 = none) (hb : tearBusy s n = false)
    (hl : t0Of s n p extra < p.limit) (hx : transfersLeft s n ((part s n).lastJob.getD 16) (attnSlots s n (job s n p.job).img) = false) :
    switchDoneEff n extra s = if noSwitch s n p then beginIssue s n p extra false else switchJob s n p extra := by
  have h0 : ¬(p.t0.isSome || tearBusy s n || decide (p.limit ≤ t0Of s n p extra)) = true := by simp [ht, hb, hl]
  unfold switchDoneEff
  rw [hp]
  dsimp only
  rw [if_neg h0]
  refine if_neg fun hc => ?_
  refine Bool.false_ne_true (hx.symm.trans ?_)
  cases hj : (part s n).lastJob <;> simpa [hj] using hc

end

end Sys2Proof.Machine
end

section
/-!
SUPPORT. What the run of a pitch leaves of the membership, of the clusters that run and of a partition's pitch (02_partitions_pitches R38,
R55; 03_tick_programs R79, R82): the operations that change none of the three.
-/
namespace Sys2Proof.Machine

set_option Elab.async false

/-! ## Addresses other than PART_CLMASK -/

/-- The address is not one of PART_CLMASK. -/
def Unmasked (a : Nat) : Prop := a / 4096 < 0x200 ∨ 0x210 ≤ a / 4096 ∨ maskOff (a % 4096) = false

theorem unmasked_header {pg o : Nat} (hp : pg % 4096 = 0) (ho : o < 0x110) : Unmasked (pg + o) := by
  have hm : (pg + o) % 4096 = o := by omega
  refine .inr (.inr ?_)
  simp [hm, maskOff]
  omega

theorem unmasked_add {pg o i : Nat} {p : PageT} (hp : pg % 4096 = 0) (h : pageAt (pg / 4096) = some (p, i)) (ho : offFree p o = true) :
    Unmasked (pg + o) := by
  have hlt := lt_of_offFree ho
  have hm : (pg + o) % 4096 = o := by omega
  have hd : (pg + o) / 4096 = pg / 4096 := by omega
  unfold Unmasked
  rw [hm, hd]
  by_cases hpart : 0x200 ≤ pg / 4096 ∧ pg / 4096 < 0x210
  · have hpp := pageAt_part (a := pg) (by omega) (by omega)
    rw [h] at hpp
    cases hpp
    simp only [offFree, Bool.and_eq_true] at ho
    exact .inr (.inr (by simpa using ho.2))
  · omega

/-! ## The view -/

/-- The PART_CLMASK registers, whether a pitch of partition `n` runs, and the clusters that run. -/
def windView (n : Nat) (s : State) : ({a : Nat // ¬Unmasked a} → Nat) × Bool × (Nat → Bool) :=
  (fun a => rdN s a.1, (part s n).pitch.isSome, fun c => (clu s c).run)

section
variable {s0 s t : State} {n : Nat}

theorem Same.wind_members (h : Same (windView n) s t) {m : Nat} (hm : m < 16) : members t m = members s m := by
  have hr : ∀ w < 8, rdN t (partPg m + 0x110 + 4 * w) = rdN s (partPg m + 0x110 + 4 * w) := fun w hw => by
    have ha : ¬Unmasked (partPg m + 0x110 + 4 * w) := by
      unfold Unmasked partPg
      simp [maskOff]
      omega
    exact congrFun (congrArg Prod.fst h) ⟨_, ha⟩
  unfold members
  refine List.flatMap_congr fun w hw => ?_
  rw [hr w (List.mem_range.1 hw)]

theorem Same.wind_pitch (h : Same (windView n) s t) : (part t n).pitch.isSome = (part s n).pitch.isSome := congrArg (fun x => x.2.1) h

theorem Same.wind_run (h : Same (windView n) s t) (c : Nat) : (clu t c).run = (clu s c).run := congrArg (fun x => x.2.2 c) h

/-- What touches neither registers nor partitions nor clusters is not seen. -/
theorem wind_only {F : List Comp} (h : Only F s t) (hF : .regs ∉ F ∧ .parts ∉ F ∧ .clus ∉ F := by decide) :
    Same (windView n) s0 t ↔ Same (windView n) s0 s := by
  obtain ⟨hr, hp, hc⟩ := hF
  refine Same.iff ?_
  simp only [Same, windView, rdN_of_regs (h .regs hr), part_of_parts (h .parts hp), clu_of_clus (h .clus hc)]

@[simp] theorem wrN_wind {a w : Nat} (h : Unmasked a) : Same (windView n) s0 (wrN s a w) ↔ Same (windView n) s0 s := by
  have hr : (fun b : {a : Nat // ¬Unmasked a} => rdN (wrN s a w) b.1) = fun b => rdN s b.1 :=
    funext fun b => rdN_wrN_ne _ fun e => b.2 (e ▸ h)
  exact Same.iff (congrArg (fun x => (x, (part s n).pitch.isSome, fun c => (clu s c).run)) hr)

@[simp] theorem modPart_wind {m : Nat} {f : Part → Part} (hf : ∀ p, (f p).pitch.isSome = p.pitch.isSome) :
    Same (windView n) s0 (modPart s m f) ↔ Same (windView n) s0 s := by
  have hp : (part (modPart s m f) n).pitch.isSome = (part s n).pitch.isSome := by
    rw [part_modPart]
    split
    · rw [hf, ‹n = m›]
    · rfl
  exact Same.iff (congrArg (fun x => ((fun b : {a : Nat // ¬Unmasked a} => rdN s b.1), x, fun c => (clu s c).run)) hp)

@[simp] theorem modJob_wind {m j : Nat} {f : Job → Job} : Same (windView n) s0 (modJob s m j f) ↔ Same (windView n) s0 s :=
  modPart_wind fun _ => rfl

@[simp] theorem setClu_wind {c : Nat} {x : Clus} (h : x.run = (clu s c).run) : Same (windView n) s0 (setClu s c x) ↔ Same (windView n) s0 s := by
  have hc : (fun d => (clu (setClu s c x) d).run) = fun d => (clu s d).run := by
    funext d
    rw [clu_setClu]
    split
    · rw [h, ‹d = c›]
    · rfl
  exact Same.iff (congrArg (fun x => ((fun b : {a : Nat // ¬Unmasked a} => rdN s b.1), (part s n).pitch.isSome, x)) hc)

@[simp] theorem modClu_wind {c : Nat} {f : Clus → Clus} (hf : ∀ x, (f x).run = x.run) :
    Same (windView n) s0 (modClu s c f) ↔ Same (windView n) s0 s := setClu_wind (hf _)

/-! ## Events and counters -/

@[simp] theorem setEvt_wind {pg bit d : Nat} (hp : pg % 4096 = 0) : Same (windView n) s0 (setEvt s pg bit d) ↔ Same (windView n) s0 s := by
  have hr : (fun b : {a : Nat // ¬Unmasked a} => rdN (setEvt s pg bit d) b.1) = fun b => rdN s b.1 := by
    funext b
    have hne : ∀ o, o < 0x110 → b.1 ≠ pg + o := fun o ho e => b.2 (e ▸ unmasked_header hp ho)
    exact rdN_setEvt_ne _ _ _ _ ⟨hne _ (by decide), hne _ (by decide), hne _ (by decide), hne _ (by decide), hne _ (by decide)⟩
  refine Same.iff ?_
  simp only [Same, windView, hr, part_setEvt, clu_of_clus (setEvt_clus ..)]

@[simp] theorem bumpBy_wind {pg off m : Nat} (hp : pg % 4096 = 0) : Same (windView n) s0 (bumpBy s pg off m) ↔ Same (windView n) s0 s := by
  refine Same.iff ?_
  unfold bumpBy
  split
  · rfl
  · rename_i hpg
    split
    · rename_i hr
      obtain ⟨ho, k, hk, he⟩ := counter_off hr rfl pg
      have hoff := unmasked_add hp hpg ho
      have hsat := unmasked_add hp hpg hk
      have hm : Same (windView n) s (markCnt s (pg + off) m) := (wind_only (F := [.marks]) (by simp)).2 (same_refl _ s)
      simp [hp, hoff, he, hsat, hm]
    · rfl

@[simp] theorem bump_wind {pg off : Nat} (hp : pg % 4096 = 0) : Same (windView n) s0 (bump s pg off) ↔ Same (windView n) s0 s := bumpBy_wind hp

end

end Sys2Proof.Machine
end

section
/-!
SUPPORT. Operations of a running slice and of the end of a pitch that leave the membership, the running clusters and the pitches.
-/
namespace Sys2Proof.Machine

set_option Elab.async false

section
variable {s0 s t : State} {n : Nat}

/-! ## Errors met, background work (09_memory R266, R280; 15_sirvi R431) -/

theorem unmasked_stkPg (k o : Nat) : Unmasked (stkPg k + o) := .inr (.inl (by unfold stkPg; omega))

@[simp] theorem rowCe_wind {a : Nat} : Same (windView n) s0 (rowCe s a) ↔ Same (windView n) s0 s := wind_only (F := [.bg, .sirvi]) (by simp)

@[simp] theorem hbmCeWord_wind {w : Nat} : Same (windView n) s0 (hbmCeWord s w) ↔ Same (windView n) s0 s := by
  rw [hbmCeWord, rowCe_wind, bump_wind (aligned_stkPg _)]
  exact Iff.rfl

@[simp] theorem hbmFix_wind {a k : Nat} : Same (windView n) s0 (hbmFix s a k) ↔ Same (windView n) s0 s := Same.iff (by simp [hbmFix])

@[simp] theorem markRow_wind {a : Nat} : Same (windView n) s0 (markRow s a) ↔ Same (windView n) s0 s := wind_only (F := [.bg]) (by simp)

@[simp] theorem hbmUeWord_wind {w : Nat} : Same (windView n) s0 (hbmUeWord s w) ↔ Same (windView n) s0 s :=
  Same.iff (by simp [hbmUeWord, unmasked_stkPg])

@[simp] theorem hbmEcc_wind {a k : Nat} : Same (windView n) s0 (hbmEcc s a k) ↔ Same (windView n) s0 s := Same.iff (by simp [hbmEcc])

@[simp] theorem setBg_wind {a : Nat} {x : BgAct} : Same (windView n) s0 (setBg s a x) ↔ Same (windView n) s0 s := Iff.rfl

@[simp] theorem add64_wind {a k : Nat} (h : Unmasked a) (h4 : Unmasked (a + 4)) : Same (windView n) s0 (add64 s a k) ↔ Same (windView n) s0 s := by
  unfold add64
  split
  · rfl
  · rw [wr64, wrN_wind h4, wrN_wind h]

@[simp] theorem scrubGrans_wind {k : Nat} : Same (windView n) s0 (scrubGrans s k) ↔ Same (windView n) s0 s := by
  rw [scrubGrans, add64_wind (.inr (.inl (by decide))) (.inr (.inl (by decide))), hbmEcc_wind, setBg_wind]

@[simp] theorem modSlot_wind {c i : Nat} {f : Slot → Slot} : Same (windView n) s0 (modSlot s c i f) ↔ Same (windView n) s0 s := Iff.rfl

@[simp] theorem setSlot_wind {c i : Nat} {x : Slot} : Same (windView n) s0 (setSlot s c i x) ↔ Same (windView n) s0 s := Iff.rfl

@[simp] theorem countBytes_wind {m k : Nat} : Same (windView n) s0 (countBytes s m k) ↔ Same (windView n) s0 s := wind_only (F := [.pacc]) (by simp)

theorem unmasked_slotErr (core : Nat) : Unmasked (clPg (core / 16) + 0x194) := by
  have hm : (clPg (core / 16) + 0x194) % 4096 = 0x194 := by unfold clPg; omega
  exact .inr (.inr (by rw [hm]; rfl))

@[simp] theorem countUe_wind {core i : Nat} {l : List Nat} : Same (windView n) s0 (countUe s core i l) ↔ Same (windView n) s0 s := by
  refine Same.iff ?_
  unfold countUe
  split
  · rfl
  · simp [unmasked_slotErr]

@[simp] theorem correct_wind {core i : Nat} {l : List Nat} : Same (windView n) s0 (correct s core i l) ↔ Same (windView n) s0 s :=
  Same.iff (by simp [correct])

@[simp] theorem readSlot_wind {core i off k : Nat} : Same (windView n) s0 (readSlot s core i off k) ↔ Same (windView n) s0 s := by
  rw [readSlot, countUe_wind, correct_wind]

@[simp] theorem slotEff_wind {core i off : Nat} {bs : List Byte} {full : Option Bool} :
    Same (windView n) s0 (slotEff s core i off bs full) ↔ Same (windView n) s0 s := by
  unfold slotEff
  dsimp only
  rw [setSlot_wind, countUe_wind, correct_wind]

@[simp] theorem readAll_wind {l : List Rd} : Same (windView n) s0 (readAll s l) ↔ Same (windView n) s0 s := by
  refine Same.iff ((each_same fun u x => ?_).2 (same_refl _ s))
  split <;> simp

@[simp] theorem scrubUnits_wind {a c k : Nat} : Same (windView n) s0 (scrubUnits s a c k) ↔ Same (windView n) s0 s :=
  Same.iff (by simp [scrubUnits, scrubSlots])

@[simp] theorem bgDo_wind {m a cyc : Nat} : Same (windView n) s0 (bgDo s m a cyc) ↔ Same (windView n) s0 s := Same.iff (by simp [bgDo])

@[simp] theorem bgClaims_wind {m pool : Nat} : Same (windView n) s0 (bgClaims s m pool).1 ↔ Same (windView n) s0 s :=
  foldlFst_same fun p a => by dsimp only; split <;> simp

/-! ## The parts of a pitch's end -/

@[simp] theorem openSeg_wind {m now : Nat} : Same (windView n) s0 (openSeg s m now) ↔ Same (windView n) s0 s := Same.iff (by simp [openSeg])

@[simp] theorem giveSlack_wind {b : Bool} {m e : Nat} {p : Pitch} : Same (windView n) s0 (giveSlack b s m e p) ↔ Same (windView n) s0 s :=
  Same.iff (by simp [giveSlack, returnPool])

@[simp] theorem tally_wind {m j used ent : Nat} : Same (windView n) s0 (tally s m j used ent) ↔ Same (windView n) s0 s := by
  unfold tally
  extract_lets s1 p x s2
  have h2 : Only [.pacc] s s2 := by
    unfold s2 s1
    split <;> simp
  rw [modJob_wind, wind_only h2]

@[simp] theorem countStalls_wind {m e : Nat} {p : Pitch} : Same (windView n) s0 (countStalls s m p e) ↔ Same (windView n) s0 s :=
  modPart_wind fun _ => rfl

@[simp] theorem abandonRead_wind {c : Nat} : Same (windView n) s0 (abandonRead s c) ↔ Same (windView n) s0 s :=
  Same.iff (by simp [abandonRead])

@[simp] theorem abandonClus_wind {j c : Nat} {ls : List (Nat × Nat)} : Same (windView n) s0 (abandonClus s j ls c) ↔ Same (windView n) s0 s := by
  unfold abandonClus
  dsimp only
  refine (each_same fun u i => ?_).trans ((bumpBy_wind (aligned_clPg c)).trans (setClu_wind rfl))
  split
  · refine (modClu_wind (by simp)).2 ((bumpBy_wind (aligned_clPg c)).2 ?_)
    exact same_refl (windView n) u
  · rfl

@[simp] theorem abandonRx_wind {m j : Nat} : Same (windView n) s0 (abandonRx s m j) ↔ Same (windView n) s0 s := by
  refine Same.iff ?_
  unfold abandonRx
  dsimp only
  split
  · refine (each_same fun u x => ?_).2 ((wind_only (F := [.bly]) (by simp)).2 (same_refl _ s))
    exact (modClu_wind (by simp)).2 ((bump_wind (aligned_clPg _)).2 (same_refl _ u))
  · rfl

@[simp] theorem dropReads_wind {j c : Nat} : Same (windView n) s0 (dropReads s j c) ↔ Same (windView n) s0 s := by
  refine Same.iff ?_
  unfold dropReads
  dsimp only
  refine (modClu_wind (by simp)).2 ?_
  split
  · split <;> simp
  · rfl

@[simp] theorem pushRaw_wind {m : Nat} {r : EmRec} : Same (windView n) s0 (pushRaw s m r) ↔ Same (windView n) s0 s := by
  refine Same.iff ?_
  unfold pushRaw
  split
  · exact same_refl (windView n) s
  · rw [setEvt_wind (aligned_ingPg m), bump_wind (aligned_ingPg m)]
    exact same_refl (windView n) s

@[simp] theorem pushRec_wind {m : Nat} {r : EmRec} : Same (windView n) s0 (pushRec s m r) ↔ Same (windView n) s0 s := by
  refine Same.iff ?_
  unfold pushRec
  dsimp only
  split
  · rw [pushRaw_wind, pushRaw_wind]
    exact same_refl (windView n) s
  · rw [pushRaw_wind]
    exact same_refl (windView n) s

@[simp] theorem faultStrm_wind {h tick ts : Nat} : Same (windView n) s0 (faultStrm s h tick ts) ↔ Same (windView n) s0 s := pushRec_wind

/-! ## Operations of a slice -/

@[simp] theorem modCore_wind {k : Nat} {f : Core → Core} : Same (windView n) s0 (modCore s k f) ↔ Same (windView n) s0 s := Iff.rfl

@[simp] theorem setCore_wind {k : Nat} {x : Core} : Same (windView n) s0 (setCore s k x) ↔ Same (windView n) s0 s := Iff.rfl

@[simp] theorem toCycle_wind {c : Nat} : Same (windView n) s0 (toCycle s c) ↔ Same (windView n) s0 s := Iff.rfl

@[simp] theorem tagSlots_wind {l : List (Nat × Nat)} {b : Bool} : Same (windView n) s0 (tagSlots s l b) ↔ Same (windView n) s0 s :=
  wind_only (F := [.slots]) (by simp)

@[simp] theorem setFlags_wind {core : Nat} {a b : Bool} : Same (windView n) s0 (setFlags s core a b) ↔ Same (windView n) s0 s := by
  have hu : Unmasked (clPg (core / 16) + 0x140 + 4 * (core % 16)) := by
    have hm : maskOff ((clPg (core / 16) + 0x140 + 4 * (core % 16)) % 4096) = false := by
      unfold clPg maskOff
      simp
      omega
    exact .inr (.inr hm)
  exact Same.iff (by simp [setFlags, hu])

@[simp] theorem sumPush_wind {c : Nat} {w : DWord} : Same (windView n) s0 (sumPush s c w) ↔ Same (windView n) s0 s :=
  Same.iff (by simp [sumPush])

@[simp] theorem freeze_wind {c : Nat} {w : Wait} {cls : Nat} : Same (windView n) s0 (freeze s c w cls) ↔ Same (windView n) s0 s :=
  modClu_wind fun _ => rfl

@[simp] theorem chargePort_wind {c : Nat} {l : List Rd} : Same (windView n) s0 (chargePort s c l) ↔ Same (windView n) s0 s :=
  Same.iff (by simp [chargePort])

@[simp] theorem gpPort_wind {c : Nat} {l : List Rd} {r : OpRun} {p : GpPar} : Same (windView n) s0 (gpPort s c l r p) ↔ Same (windView n) s0 s := by
  unfold gpPort
  dsimp only
  split
  · rfl
  · exact chargePort_wind

@[simp] theorem noteRemote_wind {c k : Nat} {l : List Ref} : Same (windView n) s0 (noteRemote s c k l) ↔ Same (windView n) s0 s := by
  unfold noteRemote
  split
  · split
    · rfl
    · exact modClu_wind fun _ => rfl
  · rfl

@[simp] theorem addEffs_wind {c : Nat} {l : List (Nat × Eff)} : Same (windView n) s0 (addEffs s c l) ↔ Same (windView n) s0 s :=
  Same.iff (by simp [addEffs])

@[simp] theorem bookUntil_wind {c core k : Nat} {l : List Nat} : Same (windView n) s0 (bookUntil s c core k l) ↔ Same (windView n) s0 s :=
  modClu_wind fun _ => rfl

@[simp] theorem submitAll_wind {c : Nat} {l : List Byte} : Same (windView n) s0 (submitAll s c l) ↔ Same (windView n) s0 s :=
  modClu_wind fun _ => rfl

@[simp] theorem putRun_wind {c : Nat} {r : AttnRun} : Same (windView n) s0 (putRun s c r) ↔ Same (windView n) s0 s := modClu_wind fun _ => rfl

@[simp] theorem effsGate_wind {c : Nat} : Same (windView n) s0 (effsGate s c) ↔ Same (windView n) s0 s := by
  unfold effsGate
  dsimp only
  split
  · exact freeze_wind
  · rfl

@[simp] theorem remGate_wind {c : Nat} : Same (windView n) s0 (remGate s c) ↔ Same (windView n) s0 s := by
  unfold remGate
  split
  · exact freeze_wind.trans (modClu_wind fun _ => rfl)
  · rfl

@[simp] theorem finishHalt_wind {c : Nat} : Same (windView n) s0 (finishHalt s c) ↔ Same (windView n) s0 s := Same.iff (by simp [finishHalt])

@[simp] theorem applyFar_wind {c : Nat} : Same (windView n) s0 (applyFar s c) ↔ Same (windView n) s0 s := Same.iff (by simp [applyFar])

@[simp] theorem addStall_wind {m a k cls : Nat} : Same (windView n) s0 (addStall s m a k cls) ↔ Same (windView n) s0 s :=
  modPart_wind fun _ => Option.isSome_map

@[simp] theorem endStall_wind {c k : Nat} : Same (windView n) s0 (endStall s c k) ↔ Same (windView n) s0 s :=
  Same.iff (by simp [endStall])

@[simp] theorem portStall_wind {c a k : Nat} : Same (windView n) s0 (portStall s c a k) ↔ Same (windView n) s0 s :=
  Same.iff (by simp [portStall])

end

end Sys2Proof.Machine
end

section
/-!
SUPPORT. A slice that runs on to its pitch's limit: membership stays, and where the pitch has ended no member runs (02_partitions_pitches
R55, R65; 03_tick_programs R79, R82).
-/
namespace Sys2Proof.Machine

set_option Elab.async false

/-- The members of partition `n` are `M`, and where none of its pitches runs no member does. -/
structure Winds (n : Nat) (M : List Nat) (s : State) : Prop where
  num : n < 16
  mem : members s n = M
  stop : (part s n).pitch = none → ∀ c ∈ M, (clu s c).run = false

section
variable {s t : State} {n : Nat} {M : List Nat}

theorem Winds.same (h : Winds n M s) (k : Same (windView n) s t) : Winds n M t := by
  refine ⟨h.num, (k.wind_members h.num).trans h.mem, fun hp c hc => ?_⟩
  have hs : (part s n).pitch = none := by
    have := k.wind_pitch
    simpa [hp] using this.symm
  rw [k.wind_run, h.stop hs c hc]

theorem Winds.each {α : Type} {l : List α} {f : State → α → State} (h : Winds n M s) (hf : ∀ u a, Winds n M u → Winds n M (f u a)) :
    Winds n M (each s l f) := each_inv (P := Winds n M) (fun u a _ => hf u a) h

/-! ## Ends and faults -/

/-- A cluster that stops. -/
theorem Winds.stopClus {c : Nat} {f : Clus → Clus} (h : Winds n M s) (hf : ∀ x, (f x).run = false) : Winds n M (modClu s c f) := by
  refine ⟨h.num, h.mem, fun hp d hd => ?_⟩
  rw [modClu, clu_setClu]
  split
  · exact hf _
  · exact h.stop hp d hd

theorem Winds.dropClus {c j : Nat} {ls : List (Nat × Nat)} (h : Winds n M s) : Winds n M (dropClus j ls s c) := by
  have h1 : Winds n M (abandonRead s c) := h.same (by simp)
  have h2 : Winds n M (modClu (abandonRead s c) c fun x => Machine.stopClus x j) := h1.stopClus fun _ => rfl
  exact h2.same (by simp [Machine.dropClus])

theorem Winds.dropPitch {m e : Nat} {p : Pitch} (h : Winds n M s) : Winds n M (dropPitch s m e p) := by
  have h1 : Winds n M (countStalls s m p e) := h.same (by simp)
  have h2 := h1.each (l := members s m) (f := Machine.dropClus p.job (laneSlots s m p.job)) fun u c hu => hu.dropClus
  exact h2.same (by simp [Machine.dropPitch])

theorem members_modPart {m k : Nat} {f : Part → Part} : members (modPart s m f) k = members s k := rfl

/-- A change of another partition's record. -/
theorem Winds.partOther {m : Nat} {f : Part → Part} (h : Winds n M s) (hm : n ≠ m) : Winds n M (modPart s m f) :=
  ⟨h.num, h.mem, fun hp => h.stop (by rwa [part_modPart, if_neg hm] at hp)⟩

/-- The end of a pitch: of partition `n` it stops every member, of another it may stop some. -/
theorem Winds.endPitch {m e : Nat} (h : Winds n M s) : Winds n M (endPitch s m e) := by
  cases hp : (part s m).pitch with
  | none =>
    have he : Machine.endPitch s m e = s := by
      unfold Machine.endPitch
      split
      · rfl
      · rename_i q hq
        cases hp.symm.trans hq
    rwa [he]
  | some p =>
    obtain ⟨used, ent, he⟩ := endPitch_eq hp e
    have hk : Same (windView n) (modPart (Machine.dropPitch s m e p) m (closeRec e p)) (Machine.endPitch s m e) := by
      rw [he]
      simp
    by_cases hm : m = n
    · subst hm
      refine ⟨h.num, (hk.wind_members h.num).trans (members_modPart.trans h.dropPitch.mem), fun _ c hc => ?_⟩
      exact (endPitch_stops hp e (h.mem ▸ hc)).reads.1
    · exact (h.dropPitch.partOther (Ne.symm hm)).same hk

theorem Winds.jobFault {m j cause : Nat} (h : Winds n M s) : Winds n M (jobFault s m j cause) := by
  unfold Machine.jobFault
  split
  · exact h
  · extract_lets lanes s1 s2 s3 late s4 d s5
    have h1 : Winds n M s1 := by
      unfold s1
      split
      · split
        · exact h.endPitch
        · exact h
      · exact h
    have hl : ∀ (u : State) (k : Nat) (f : Lane → Lane), Same (windView n) u (modLane u k f) := fun u k f =>
      (wind_only (F := [.lanes]) (by simp)).2 (same_refl _ u)
    have hz : ∀ (u : State) (l : List (Nat × Nat)) (b : Bool), Same (windView n) u (zeroSlots u l b) := fun u l b =>
      (wind_only (F := [.slots]) (by simp)).2 (same_refl _ u)
    have h2 : Same (windView n) s1 s2 :=
      (each_same fun u p => faultStrm_wind.2 ((hz _ _ _).trans (hl _ _ _))).2 ((each_same fun u c => by simp).2 (same_refl _ s1))
    have h3 : Same (windView n) s2 s3 := (each_same fun u c => hz ..).2 (same_refl _ s2)
    have h5 : Same (windView n) s3 s5 := by simp [s5, s4]
    have hw := h1.same ((h2.trans h3).trans h5)
    split
    · exact hw
    · exact hw.same (by simp)

theorem Winds.clusFault {c cause : Nat} (h : Winds n M s) : Winds n M (clusFault s c cause) := Winds.jobFault h

/-! ## Effects -/

theorem Winds.applyEff {c : Nat} {e : Eff} (h : Winds n M s) : Winds n M (applyEff s c e) := by
  unfold Machine.applyEff
  split
  · dsimp only
    split
    · exact h.same (by simp)
    · exact Winds.clusFault (h.same (by simp))
  · exact h.same (by simp)
  · exact h.same (by simp)
  · exact h.same (by simp)
  · split
    · exact h.same (by simp)
    · exact h

theorem Winds.landDue {c k : Nat} {b : Bool} (h : Winds n M s) : Winds n M (landDue s c k b) := by
  unfold Machine.landDue
  dsimp only
  split
  · exact h
  · exact Winds.each (h.same (by simp)) fun u p hu => hu.applyEff

theorem Winds.landPosts {c : Nat} (h : Winds n M s) : Winds n M (landPosts s c) := by
  unfold Machine.landPosts
  dsimp only
  split
  · exact Winds.each (h.same (by simp)) fun u p hu => hu.applyEff
  · exact h

theorem Winds.freezeOn {c : Nat} {w : Wait} (h : Winds n M s) : Winds n M (freezeOn s c w) := Winds.landDue (h.same (by simp))

/-! ## Runs of asynchronous units -/

/-- A step of a run that neither waits nor faults changes none of what the view shows; one that faults does so before its fault. -/
def Ran.Steady (n : Nat) (s : State) : Ran → Prop
  | .wait _ => True
  | .fault t => ∃ u c k, Machine.Same (windView n) s u ∧ t = Machine.clusFault u c k
  | .on t _ => Machine.Same (windView n) s t

@[simp] theorem Ran.steady_wait {w : Wait} : Ran.Steady n s (.wait w) ↔ True := Iff.rfl

@[simp] theorem Ran.steady_on {r : OpRun} : Ran.Steady n s (.on t r) ↔ Machine.Same (windView n) s t := Iff.rfl

@[simp] theorem Ran.steady_fault {c k : Nat} (h : Machine.Same (windView n) s t) : Ran.Steady n s (.fault (Machine.clusFault t c k)) :=
  ⟨t, c, k, h, rfl⟩

@[simp] theorem Ran.steady_ite {c : Prop} [Decidable c] {a b : Ran} :
    Ran.Steady n s (if c then a else b) ↔ (c → Ran.Steady n s a) ∧ (¬c → Ran.Steady n s b) := by
  split <;> simp [*]

theorem Ran.Steady.of {r : Ran} (h : Machine.Same (windView n) s t) (k : Ran.Steady n t r) : Ran.Steady n s r := by
  cases r with
  | wait w => trivial
  | fault v =>
    obtain ⟨u, c, j, hu, e⟩ := k
    exact ⟨u, c, j, h.trans hu, e⟩
  | on v r => exact Machine.Same.trans h k

@[simp] theorem runRead_wind {c : Nat} {l : List Rd} {f : State → List Byte → Ran} (hf : ∀ s bs, Ran.Steady n s (f s bs)) :
    Ran.Steady n s ((runRead s c l).andThen f) := by
  unfold runRead
  split
  · trivial
  · dsimp only
    split
    · exact Ran.steady_fault (by simp)
    · exact Ran.Steady.of (by simp) (hf _ _)

@[simp] theorem streamOn_wind {c : Nat} {r : OpRun} : Ran.Steady n s (streamOn s c r) := by simp [streamOn]

@[simp] theorem streamStep_wind {c : Nat} {r : OpRun} : Ran.Steady n s (streamStep s c r) := by
  unfold streamStep
  dsimp only
  split
  · exact runRead_wind fun s bs => Ran.Steady.of (by simp) streamOn_wind
  · exact streamOn_wind

@[simp] theorem drainStep_wind {c : Nat} {r : OpRun} : Ran.Steady n s (drainStep s c r) := by simp [drainStep, drainOut]

@[simp] theorem chainGo_wind {c : Nat} {r : OpRun} {p : GpPar} {j : Nat} : Ran.Steady n s (chainGo s c r p j) := by
  unfold chainGo
  dsimp only
  split
  · trivial
  · simp

@[simp] theorem chainPars_wind {c : Nat} {r : OpRun} : Ran.Steady n s (chainPars s c r) := by
  unfold chainPars
  dsimp only
  split <;> simp

@[simp] theorem runStep_wind {c : Nat} {r : OpRun} : Ran.Steady n s (runStep s c r) := by
  unfold runStep
  cases r.kind with
  | chain => simp [chainStep]
  | copy => simp [copyStep]
  | dma => simp [dmaStep]
  | tile => simp [tileStep]
  | _ => simp

theorem Winds.loadwMove {c room : Nat} {r : OpRun} (h : Winds n M s) : Winds n M (loadwMove s c r room).1 := by
  unfold Machine.loadwMove
  dsimp only
  split
  · exact h
  · split
    · exact h
    · split
      · exact Winds.clusFault (h.same (by simp))
      · exact h.same (by simp)

/-- A fold that carries the state with something else. -/
theorem Winds.foldlFst {α γ : Type} {l : List α} {f : State × γ → α → State × γ} {p : State × γ} (h : Winds n M p.1)
    (hf : ∀ p a, Winds n M p.1 → Winds n M (f p a).1) : Winds n M (l.foldl f p).1 := by
  induction l generalizing p with
  | nil => exact h
  | cons a l ih => exact ih (hf p a h)

theorem Winds.loadwServe {c core room : Nat} (h : Winds n M s) : Winds n M (loadwServe s c core room) := by
  unfold Machine.loadwServe
  refine Winds.foldlFst h fun a i ha => ?_
  split
  · rename_i r _
    have hm : Winds n M ((List.range 2).foldl (fun (m : State × OpRun × Nat) _ => Machine.loadwMove m.1 c m.2.1 m.2.2) (a.1, r, a.2)).1 :=
      Winds.foldlFst ha fun m _ hm => hm.loadwMove
    dsimp only
    split
    · split
      · exact hm.same (by simp)
      · exact hm
    · exact ha
  · exact ha

theorem Winds.loadwGate {k c : Nat} (h : Winds n M s) : Winds n M (loadwGate k s c) := by
  induction k generalizing s with
  | zero => exact h
  | succ k ih =>
    unfold Machine.loadwGate
    split
    · exact h
    · split
      · exact h.freezeOn
      · rename_i r _ _ _
        have hs : Winds n M (Machine.loadwServe (portStall s c (issueCycle s c) 1) c r.core 256) := Winds.loadwServe (h.same (by simp))
        dsimp only
        split
        · exact ih hs
        · exact hs

theorem Winds.runOne {c i : Nat} (h : Winds n M s) : Winds n M (runOne c s i) := by
  unfold Machine.runOne
  split
  · exact h
  · split
    · exact h
    · rename_i r _
      split
      · exact h
      · have hr := runStep_wind (n := n) (s := s) (c := c) (r := r)
        generalize runStep s c r = o at hr
        cases o with
        | wait w =>
          dsimp only
          split
          · exact h
          · exact h.same (by simp)
        | fault t =>
          obtain ⟨u, d, k, hu, rfl⟩ := hr
          exact (h.same hu).clusFault
        | on t r => exact (h.same hr).same (by simp)

theorem Winds.runsPass {c : Nat} (h : Winds n M s) : Winds n M (runsPass s c) := by
  unfold Machine.runsPass
  split
  · exact h
  · have hr : Winds n M (Machine.each s (List.range (clu s c).runs.length) (Machine.runOne c)) := h.each fun _ _ hu => hu.runOne
    exact hr.same (by simp)

/-! ## Attention -/

theorem Winds.atRead {c : Nat} {l : List (Option (Nat × Nat))} {k : State → State} (h : Winds n M s)
    (hk : ∀ u, Winds n M u → Winds n M (k u)) : Winds n M (atRead s c l k) := by
  unfold Machine.atRead
  split
  · exact h.same (by simp)
  · dsimp only
    split
    · exact Winds.clusFault (h.same (by simp))
    · exact hk _ (h.same (by simp))

theorem Winds.atBlock {c : Nat} {r : AttnRun} (h : Winds n M s) : Winds n M (atBlock s c r) := by
  unfold Machine.atBlock
  refine h.atRead fun u hu => ?_
  dsimp only
  split
  · exact hu.same (by simp)
  · exact hu.same (by simp)

theorem Winds.atFinish {c : Nat} {r : AttnRun} (h : Winds n M s) : Winds n M (atFinish s c r) := by
  unfold Machine.atFinish
  exact h.atRead fun u hu => hu.same (by simp)

theorem Winds.atRunN {k c : Nat} (h : Winds n M s) : Winds n M (atRunN k s c) := by
  induction k generalizing s with
  | zero => exact h
  | succ k ih =>
    unfold Machine.atRunN
    dsimp only
    split
    · exact h
    · split
      · exact h
      · refine ih ?_
        split
        · exact h.atBlock
        · exact h.atFinish

theorem Winds.atRun {c : Nat} (h : Winds n M s) : Winds n M (atRun s c) := by
  unfold Machine.atRun
  split
  · exact h
  · exact h.atRunN

/-! ## Cycles of a running slice -/

theorem Winds.leaveCycle {c : Nat} (h : Winds n M s) : Winds n M (leaveCycle s c) := by
  unfold Machine.leaveCycle
  extract_lets cores busy extra used s1 a s2
  have h1 : Winds n M s1 := by
    unfold s1
    split
    · refine h.each fun u k hu => ?_
      split
      · exact hu.loadwServe
      · exact hu
    · exact h
  have h2 : Winds n M s2 := h1.landDue
  split
  · exact h2
  · exact h2.same (by simp)

theorem Winds.enterCycle {c : Nat} (h : Winds n M s) : Winds n M (enterCycle s c) := by
  unfold Machine.enterCycle
  split
  · exact h
  · extract_lets s2 s3 s4 s5
    have h2 : Winds n M s2 := h.loadwGate
    split
    · exact h2
    · have h4 : Winds n M s4 := by
        unfold s4
        split
        · exact h2.runsPass.atRun
        · exact h2.runsPass
      have h5 : Winds n M s5 := by
        unfold s5
        split
        · exact h4.same (by simp)
        · exact h4
      split
      · exact h5.landDue
      · exact h5

theorem Winds.drainN {k e c : Nat} (h : Winds n M s) : Winds n M (drainN k e s c) := by
  induction k generalizing s with
  | zero => exact h
  | succ k ih =>
    have hl : Winds n M (Machine.leaveCycle (Machine.landPosts s c) c) := h.landPosts.leaveCycle
    unfold Machine.drainN
    dsimp only
    split
    · exact h.landPosts
    · split
      · exact hl
      · split
        · exact hl
        · exact ih (Winds.enterCycle (hl.same (by simp)))

theorem Winds.flushClus {e c : Nat} (h : Winds n M s) : Winds n M (flushClus e s c) := by
  have h1 : Winds n M (Machine.drainN drainMax e (applyFar s c) c) := Winds.drainN (h.same (by simp))
  exact h1.same (by simp [Machine.flushClus])

end

end Sys2Proof.Machine
end

section
/-!
PROOFS. A pitch at its limit, and the statement about pitches (02_partitions_pitches R55, R58; 03_tick_programs R79, R82).
-/
namespace Sys2Proof.Machine

set_option Elab.async false

section
variable {s u : State} {n : Nat} {p : Pitch}

/-! ## A slice with nothing in flight -/

theorem landPosts_idle {c : Nat} (h : (clu s c).effs = []) : landPosts s c = s := by
  unfold landPosts
  simp [h]

theorem drainN_idle {k e c : Nat} (h : inFlight s c = false) : drainN k e s c = s := by
  have he : (clu s c).effs = [] := by
    simp only [inFlight, Bool.not_eq_false', Bool.and_eq_true, List.isEmpty_iff] at h
    exact h.1.1.1
  cases k with
  | zero => rfl
  | succ k =>
    unfold drainN
    dsimp only
    rw [landPosts_idle he, if_pos (by simp [h])]

/-- A slice with nothing in flight has nothing to run on with. -/
theorem flushClus_idle {e c : Nat} (h : inFlight s c = false) (hf : (clu s c).far = []) (hh : (clu s c).halting = false) :
    flushClus e s c = s := by
  have ha : applyFar s c = s := if_pos hf
  rw [flushClus, ha, drainN_idle h]
  exact if_neg (by simp [hh])

/-! ## PITCH_LIMIT (R55) -/

/-- What the members of a pitch that has started issue have in flight goes on up to its limit. -/
def windUp (s : State) (n : Nat) (p : Pitch) : State := if p.t0.isSome then each s (members s n) (flushClus p.limit) else s

/-- The pitch that still runs ends at its limit. -/
def limitEnd (s : State) (n : Nat) (p : Pitch) : State :=
  if (part s n).pitch.isNone then s
  else if p.rt then setEvt (bump (endPitch (toCycle s p.limit) n p.limit) (partPg n) 0x168) (partPg n) 4
  else endPitch (toCycle s p.limit) n p.limit

theorem pitchLimitEff_eq (hp : (part s n).pitch = some p) (hb : beforeEnd s p.limit = true) :
    pitchLimitEff n s = if pitchHalted s n p then pitchEndEff n p.limit s else limitEnd (windUp s n p) n p := by
  unfold pitchLimitEff
  rw [hp]
  dsimp only
  rw [if_neg (by simp [hb])]
  rfl

theorem windUp_winds (hn : n < 16) (hp : (part s n).pitch = some p) : Winds n (members s n) (windUp s n p) := by
  have h : Winds n (members s n) s := ⟨hn, rfl, fun hq => by rw [hp] at hq; cases hq⟩
  unfold windUp
  split
  · exact h.each fun u c hu => hu.flushClus
  · exact h

theorem windUp_idle (h : p.t0 = none ∨ ∀ c ∈ members s n, inFlight s c = false ∧ (clu s c).far = [] ∧ (clu s c).halting = false) :
    windUp s n p = s := by
  unfold windUp
  split
  · rename_i ht
    refine each_eq_self fun c hc => ?_
    obtain ⟨hi, hf, hh⟩ := h.resolve_left (fun e => by simp [e] at ht) c hc
    exact flushClus_idle hi hf hh
  · rfl

theorem limitEnd_none (h : (part u n).pitch = none) : limitEnd u n p = u := if_pos (by simp [h])

/-- The end of the pitch that runs, and in real time its count and event: of partitions and clusters as the end leaves them. -/
theorem limitEnd_some {q : Pitch} (h : (part u n).pitch = some q) :
    part (limitEnd u n p) n = part (endPitch (toCycle u p.limit) n p.limit) n ∧
    (∀ c, clu (limitEnd u n p) c = clu (endPitch (toCycle u p.limit) n p.limit) c) ∧
    (p.rt = true → rb (limitEnd u n p) (partPg n + 0x14) 4 = true) := by
  have ho : ∀ v : State, Only evtComps v (setEvt (bump v (partPg n) 0x168) (partPg n) 4) := fun v => by simp
  unfold limitEnd
  rw [if_neg (by simp [h])]
  split
  · exact ⟨part_of_parts (ho _ .parts (by decide)) n, fun c => clu_of_clus (ho _ .clus (by decide)) c, fun _ => rb_setEvt _ _ _ (by decide)⟩
  · rename_i hr
    exact ⟨rfl, fun _ => rfl, fun h => absurd h hr⟩

/-- At its limit a pitch runs no longer, nor do the members. -/
theorem limitEnd_stops {M : List Nat} (h : Winds n M u) :
    (part (limitEnd u n p) n).pitch = none ∧ ∀ c ∈ M, (clu (limitEnd u n p) c).run = false := by
  cases hq : (part u n).pitch with
  | none =>
    rw [limitEnd_none hq]
    exact ⟨hq, h.stop hq⟩
  | some q =>
    obtain ⟨hpart, hclu, -⟩ := limitEnd_some (p := p) hq
    obtain ⟨h1, -, -, h4⟩ := endPitch_ended (s := toCycle u p.limit) (n := n) hq p.limit
    rw [hpart]
    refine ⟨h1, fun c hc => ?_⟩
    rw [hclu c]
    have hm : members (toCycle u p.limit) n = M := h.mem
    exact (h4 c (hm ▸ hc)).reads.1

theorem pitchHalted_done (h : pitchHalted s n p = true) : p.t0.isSome = true ∧ ∀ c ∈ members s n, clusDone s c = true := by
  simp only [pitchHalted, Bool.and_eq_true, List.all_eq_true] at h
  exact ⟨h.1, fun c hc => (h.2 c hc).1⟩

/-- PITCH_LIMIT ends the pitch, whether its members have halted or not. -/
theorem pitchLimit_stops (hn : n < 16) (hp : (part s n).pitch = some p) (hb : beforeEnd s p.limit = true) :
    (part (pitchLimitEff n s) n).pitch = none ∧ ∀ c ∈ members s n, (clu (pitchLimitEff n s) c).run = false := by
  rw [pitchLimitEff_eq hp hb]
  split
  · rename_i hh
    obtain ⟨ht, hd⟩ := pitchHalted_done hh
    obtain ⟨h1, -, -, h4⟩ := pitchEndEff_ended (cycle := p.limit) hp ht hb hd
    exact ⟨h1, fun c hc => (h4 c hc).reads.1⟩
  · exact limitEnd_stops (windUp_winds hn hp)

/-- A pitch that has not started issue, or has nothing in flight, ends at its limit exactly. -/
theorem pitchLimit_exact (hp : (part s n).pitch = some p) (hb : beforeEnd s p.limit = true)
    (h : p.t0 = none ∨ pitchHalted s n p = false ∧
      ∀ c ∈ members s n, inFlight s c = false ∧ (clu s c).far = [] ∧ (clu s c).halting = false) :
    (part (pitchLimitEff n s) n).elap = (part s n).elap + (p.limit - p.start) ∧ (part (pitchLimitEff n s) n).pitchTo = p.limit ∧
    (p.rt = true → rb (pitchLimitEff n s) (partPg n + 0x14) 4 = true) := by
  have hh : pitchHalted s n p = false := by
    rcases h with h | h
    · simp [pitchHalted, h]
    · exact h.1
  obtain ⟨hpart, -, hevt⟩ := limitEnd_some (p := p) hp
  obtain ⟨-, h2, h3, -⟩ := endPitch_ended (s := toCycle s p.limit) (n := n) hp p.limit
  rw [pitchLimitEff_eq hp hb, hh, if_neg Bool.false_ne_true, windUp_idle (h.imp_right And.right), hpart]
  exact ⟨h3, h2, hevt⟩

end

/-! ## The statement -/

/-- Settles O16: the five commands by what the start of a pitch, the start of issue and the end of a pitch leave; between them a slice keeps
the membership and starts no cluster. -/
theorem pitchesStartSwitchAndEnd : Obligations.PitchesStartSwitchAndEnd := by
  refine ⟨fun s n e => ?_,
    fun s n extra p hp ht hb hl hx hsw => ⟨_, rfl, ?_⟩, fun s n p hp hb => ⟨_, rfl, ?_⟩, fun s n cycle p hp ht hb hd => ⟨_, rfl, ?_⟩,
    fun s n j w h => ⟨_, rfl, jobTeardownDone_busy h, fun p hp ht => jobTeardownDone_waits h hp ht⟩⟩
  · intro w hok
    refine ⟨fun hj h => ⟨_, rfl, pitchStart_rt hok hj h⟩, fun hj hb hs => ⟨_, rfl, ?_⟩, fun hj => ⟨_, rfl, pitchStart_halted hok hj⟩⟩
    obtain ⟨hst, k, hp⟩ := pitchStart_be hok hj hb hs
    obtain ⟨hle, hnone, hseg⟩ := beLimit_bounds (s := s) (n := n) (e := e) (now := (part s n).pitchTo)
    refine ⟨hst, _, hp, rfl, rfl, rfl, rfl, rfl, (Nat.sub_le _ _).trans hle, hnone, fun g hg => ?_⟩
    obtain ⟨hend, hgrant⟩ := hseg g hg
    exact ⟨(Nat.sub_le _ _).trans hend, fun b hbf hw => hgrant.trans (grantOf_share hbf hw)⟩
  · rw [switchDoneEff_eq hp ht hb hl hx]
    split
    · rename_i hno
      obtain ⟨h1, h2, h3⟩ := beginIssue_issues (s := s) (n := n) (p := p) extra (fresh := false) (.inl rfl)
      exact ⟨h1, h2, h3, fun hf => by simp [hf] at hno⟩
    · rename_i hno
      obtain ⟨hg, hlists⟩ := hsw.resolve_left hno
      obtain ⟨⟨h1, h2, h3⟩, h4⟩ := switchJob_issues extra hg hlists
      exact ⟨h1, h2, h3, fun _ => h4⟩
  · obtain ⟨h1, h2⟩ := pitchLimit_stops n.isLt hp hb
    exact ⟨h1, h2, fun h => pitchLimit_exact hp hb h⟩
  · obtain ⟨h1, h2, h3, h4⟩ := pitchEndEff_ended (cycle := cycle) hp ht hb hd
    exact ⟨h1, h2, h3, fun c hc => (h4 c hc).reads⟩

end Sys2Proof.Machine
end

section
/-!
PROOFS. A loop runs its body once more than its immediate (03_tick_programs R78).
-/
namespace Sys2Proof.Machine

/-- A close with iterations left goes back to the loop's first bundle with one fewer left. -/
theorem ctlClose_back {k : Ctl} {l : LoopF} {rest : List LoopF} (hk : k.loops = l :: rest) (h : l.left ≠ 0) :
    ctlClose k = { k with pc := l.first, loops := { l with left := l.left - 1 } :: rest } := by
  simp [ctlClose, hk, h]

/-- A close with none left goes on to the next bundle, the loop closed. -/
theorem ctlClose_through {k : Ctl} {l : LoopF} {rest : List LoopF} (hk : k.loops = l :: rest) (h : l.left = 0) :
    ctlClose k = ctlStep { k with loops := rest } := by
  simp [ctlClose, hk, h]

/-- The place of issue in a loop opened at `k` with `left` iterations still to go back for. -/
def inLoop (k : Ctl) (left : Nat) : Ctl := { k with loops := { first := k.pc, left := left } :: k.loops }

/-- The first closes at bundle `e` each go back to the loop's first bundle. -/
theorem repeat_close_back (k0 : Ctl) (k e : Nat) : ∀ j ≤ k,
    Nat.repeat (fun x => ctlClose { x with pc := e }) j (inLoop k0 k) = inLoop k0 (k - j)
  | 0, _ => rfl
  | j + 1, h => by
    have ih := repeat_close_back k0 k e j (by omega)
    rw [Nat.repeat, ih, ctlClose_back rfl (show k - j ≠ 0 by omega)]
    simp [inLoop, Nat.sub_sub]

/-- Settles O19: k closes go back by `repeat_close_back`, and the next finds no iteration left. -/
theorem loopsRunTheirCount : Obligations.LoopsRunTheirCount := by
  intro k0 b e k turn
  have back : ∀ j ≤ k, Nat.repeat turn j (ctlOpen k0 b) = inLoop k0 (k - j) := repeat_close_back k0 k e
  refine ⟨fun j _ hj => ?_, ?_⟩
  · rw [back j hj]
    exact ⟨rfl, rfl⟩
  · rw [Nat.repeat, back k le_rfl, Nat.sub_self]
    exact ctlClose_through rfl rfl

end Sys2Proof.Machine
end

section
/-!
PROOFS. LOAD and UNLOAD: their acceptance, the checks at their end, the installing and the removal of a job (03_tick_programs R98-R100).
-/
namespace Sys2Proof.Machine

section
variable {s : State} {n j : Nat}

/-- A write that its requester may make takes place. -/
theorem hostWr_taken {r : Requester} {a : Nat} {f : State → State} (h : wOk s r a = true) : hostWr s r a f = f s := if_pos h

/-! ## LOAD_STAT -/

/-- LOAD_STAT reads the word written, whatever LOAD_ERR_IDX is written after it. -/
theorem rdN_loadStat (w i : Nat) : rdN (wrN (wrN s (loadStat n) w) (partPg n + 0x294) i) (loadStat n) = w % 2 ^ 32 := by
  rw [rdN_wrN_ne _ (by unfold loadStat; omega), rdN_wrN_same]

/-- A command is accepted: BUSY reads 1 and the address and length registers are taken. -/
theorem loadStart_taken {unload : Bool} (h : rb s (loadStat n) 1 = false) :
    rb (loadStart unload n j s) (loadStat n) 1 = true ∧ (part (loadStart unload n j s) n).loadOp = some {
      unload := unload, job := j, addr := rd64 s (partPg n + 0x280) % 2 ^ 48, len := rdN s (partPg n + 0x288) } := by
  rw [loadStart, if_neg (by simp [h])]
  dsimp only
  refine ⟨?_, by rw [part_modPart_same]⟩
  rw [rb, rdN_modPart, rdN_loadStat, bitAt, Nat.testBit_eq_decide_div_mod_eq]
  exact decide_eq_true (by omega)

/-- A command that meets BUSY is ignored with CMD_REJ. -/
theorem loadStart_ignored {unload : Bool} (h : rb s (loadStat n) 1 = true) :
    (loadStart unload n j s).parts = s.parts ∧ rb (loadStart unload n j s) (partPg n + 0x14) 1 = true := by
  rw [loadStart, if_pos h, loadIgnored]
  exact ⟨by simp, rb_setEvt _ _ _ (by decide)⟩

/-! ## Placing and forgetting -/

theorem job_of_parts {t : State} (h : t.parts = s.parts) : job t n j = job s n j := by rw [job, part_of_parts h, job]

@[simp] theorem job_wrN (a v m k : Nat) : job (wrN s a v) m k = job s m k := rfl

/-- The bundles and the control-core image of a job go into program memories only. -/
theorem placeJob_only (s : State) (n j : Nat) : Only [.bundles, .ccmem] s (placeJob s n j) := by
  unfold placeJob
  refine (foldl_frame fun u q => ?_).2 ((each_frame fun u c => ?_).2 (Only.refl _ s))
  · exact (foldl_frame fun v q => by simp).2 (Only.refl _ u)
  · exact Only.graft [.bundles, .ccmem] u { u with ccmem := memWrite 0 u.ccmem (65536 * c + (job s n j).img.ccAt) (job s n j).img.cc }

theorem job_forgetJob (i k : Nat) : job (forgetJob s n i) n k = job s n k := job_modPart rfl

/-! ## Installing and removing -/

/-- The installed job is loaded (R100). -/
theorem install_loaded (p : List Byte) : (job (install s n j p) n j).loaded = true := by
  unfold install
  dsimp only
  simp only [job_wrN]
  split
  · rw [job_of_parts (placeJob_only _ n j .parts (by decide)), job_forgetJob, job_modJob_same]
  · rw [job_forgetJob, job_modJob_same]

theorem foldl_wrN_parts (f : Nat → Nat) (l : List Nat) : (l.foldl (fun s k => wrN s (f k) 0) s).parts = s.parts := by
  induction l generalizing s with
  | nil => rfl
  | cons k l ih => exact ih

/-- The removed job is not loaded (R100). -/
theorem removeJob_unloaded : (job (removeJob s n j) n j).loaded = false := by
  unfold removeJob
  dsimp only
  rw [job_of_parts (foldl_wrN_parts _ _), job_forgetJob, job_modJob_same]

/-! ## The end of a command -/

/-- The state that a rejected command leaves: what it writes in LOAD_STAT and in LOAD_ERR_IDX, and CMD_REJ with its capture. -/
def loadRefused (s : State) (n stat idx d : Nat) : State :=
  setEvt (wrN (wrN (modPart s n fun p => { p with loadOp := none }) (loadStat n) stat) (partPg n + 0x294) idx) (partPg n) 1 d

theorem loadEnd_some (e : LoadErr) (ok : State → State) : loadEnd s n j (some e) ok =
    loadRefused s n (e.code * 2 ^ 24 + e.slice * 2 ^ 16 + 4 * j) e.idx (e.code * 2 ^ 24 + 2 * 2 ^ 20 + j) := rfl

theorem rdN_loadRefused (stat idx d : Nat) : rdN (loadRefused s n stat idx d) (loadStat n) = stat % 2 ^ 32 := by
  rw [loadRefused, rdN_setEvt_ne _ _ _ _ (by unfold loadStat; omega), rdN_loadStat]

/-- CMD_REJ is raised, and no job and no program memory changes. -/
theorem loadRefused_keeps (stat idx d : Nat) : rb (loadRefused s n stat idx d) (partPg n + 0x14) 1 = true ∧
    (part (loadRefused s n stat idx d) n).jobs = (part s n).jobs ∧ (loadRefused s n stat idx d).bundles = s.bundles ∧
    (loadRefused s n stat idx d).ccmem = s.ccmem := by
  unfold loadRefused
  refine ⟨rb_setEvt _ _ _ (by decide), ?_, by simp, by simp⟩
  rw [part_setEvt, part_wrN, part_wrN, part_modPart_same]

/-- A failing check: its number stands in LOAD_STAT with DONE and BUSY 0. -/
theorem loadEnd_fails {e : LoadErr} {ok : State → State} (hc : e.code < 16) (hs : e.slice < 256) (hj : j < 16) :
    rf (loadEnd s n j (some e) ok) (loadStat n) 24 8 = e.code ∧ rf (loadEnd s n j (some e) ok) (loadStat n) 0 2 = 0 := by
  simp only [rf, fld, loadEnd_some, rdN_loadRefused]
  omega

/-- The state in which an accepted image is installed: DONE reads 1, and the command is over. -/
theorem loadEnd_installs (ok : State → State) : ∃ u, loadEnd s n j none ok = ok u ∧ rf u (loadStat n) 0 2 = 1 ∧ (part u n).loadOp = none := by
  refine ⟨_, rfl, ?_, by rw [part_wrN, part_wrN, part_modPart_same]⟩
  simp only [rf, fld, rdN_loadStat]
  omega

/-- Counting the errors met in the image touches no job and no program memory. -/
theorem loadRead_only (o : LoadOp) : Only [.marks, .regs, .vecs, .msgs, .hbmCe, .bg, .sirvi] s (loadRead s n o) := by
  unfold loadRead
  split <;> simp

/-! ## LOAD_DONE and UNLOAD_DONE -/

variable {o : LoadOp}

theorem loadDoneEff_finds {p : List Byte} (ho : (part s n).loadOp = some o) (hu : o.unload = false) (h : loadFind s n o = .inr p) :
    loadDoneEff n s = loadEnd (loadRead s n o) n o.job none fun s => install s n o.job p := by
  simp [loadDoneEff, ho, hu, h]

theorem loadDoneEff_fails {e : LoadErr} (ho : (part s n).loadOp = some o) (hu : o.unload = false) (h : loadFind s n o = .inl e) :
    loadDoneEff n s = loadEnd (loadRead s n o) n o.job (some e) id := by
  simp [loadDoneEff, ho, hu, h]

theorem unloadDoneEff_eq (ho : (part s n).loadOp = some o) (hu : o.unload = true) :
    unloadDoneEff n s = loadEnd s n o.job (errIf (!check1 s n o.job true) 1) fun s => removeJob s n o.job := by
  simp [unloadDoneEff, ho, hu]

end

/-- Settles O17: acceptance by what `loadStart` leaves, the ends by what `loadEnd` leaves in each of its two cases. -/
theorem loaderCommandsCheckAndInstall : Obligations.LoaderCommandsCheckAndInstall := by
  refine ⟨fun r s n j hok hb => ?_, fun r s n j hok hb i hi => ?_, fun s n o ho hu => ⟨fun p hp => ⟨_, rfl, ?_⟩, fun e he hc hs hj => ⟨_, rfl, ?_⟩⟩,
    fun s n o ho hu => ⟨fun h => ⟨_, rfl, ?_⟩, fun h => ⟨_, rfl, ?_⟩⟩⟩
  · exact ⟨⟨_, rfl, by rw [hostWr_taken hok]; exact loadStart_taken hb⟩, ⟨_, rfl, by rw [hostWr_taken hok]; exact loadStart_taken hb⟩⟩
  · simp only [List.mem_cons, List.not_mem_nil, or_false] at hi
    obtain rfl | rfl := hi <;> exact ⟨_, rfl, by rw [hostWr_taken hok]; exact loadStart_ignored hb⟩
  · obtain ⟨u, he, hst, hop⟩ := loadEnd_installs (s := loadRead s n o) (n := n) (j := o.job) fun s => install s n o.job p
    rw [loadDoneEff_finds ho hu hp, he]
    exact ⟨install_loaded p, u, rfl, hst, hop⟩
  · obtain ⟨hcode, hdone⟩ := loadEnd_fails (s := loadRead s n o) (n := n) (ok := id) hc hs hj
    have keep := loadRead_only (s := s) (n := n) o
    rw [loadDoneEff_fails ho hu he]
    refine ⟨hcode, hdone, ?_⟩
    rw [loadEnd_some]
    obtain ⟨hevt, hjobs, hbun, hcc⟩ := loadRefused_keeps (s := loadRead s n o) (n := n) _ _ _
    exact ⟨hevt, hjobs.trans (by rw [part_of_parts (keep .parts (by decide))]), hbun.trans (keep .bundles (by decide)),
      hcc.trans (keep .ccmem (by decide))⟩
  · obtain ⟨u, he, -⟩ := loadEnd_installs (s := s) (n := n) (j := o.job) fun s => removeJob s n o.job
    rw [unloadDoneEff_eq ho hu, h]
    exact (congrArg (fun t => (job t n o.job).loaded) he).trans removeJob_unloaded
  · rw [unloadDoneEff_eq ho hu, h, show errIf (!false) 1 = some { code := 1 } from rfl, loadEnd_some]
    obtain ⟨hevt, hjobs, -⟩ := loadRefused_keeps (s := s) (n := n) _ _ _
    exact ⟨hjobs, hevt⟩

end Sys2Proof.Machine
end

section
/-!
PROOFS. What the control core of a cluster does through its interface window, and how its handlers follow one another
(03_tick_programs R89, R91, R94-R96; 00_scope R9).
-/
namespace Sys2Proof.Machine

section
variable {s : State} {c : Nat}

/-! ## Accesses to the window -/

/-- CC_ALTSEL takes SEL and BPID, and becomes valid (R89). -/
theorem ccAltselEff_valid {v : Word} (hr : ccRuns s c = true) : (clu (ccAltselEff c v s) c).altV = true ∧
    (clu (ccAltselEff c v s) c).altSel = bitAt v.toNat 12 ∧ (clu (ccAltselEff c v s) c).altBp = wfld v 0 12 := by
  rw [ccAltselEff, if_pos hr, clu_modClu_same]
  exact ⟨rfl, rfl, rfl⟩

/-- A descriptor joins queue 0 while it has room (R95). -/
theorem ccDescEff_joins {d : BitVec 512} (hr : ccRuns s c = true) (hq : (clu s c).q0.length < 64) :
    (clu (ccDescEff c d s) c).q0.map Desc.d = (clu s c).q0.map Desc.d ++ [d] := by
  simp [ccDescEff, hr, hq]

/-- A descriptor that finds queue 0 full holds the control core (R95). -/
theorem ccDescEff_holds {d : BitVec 512} (hr : ccRuns s c = true) (hq : 64 ≤ (clu s c).q0.length) :
    (clu (ccDescEff c d s) c).q0 = (clu s c).q0 ∧ (clu (ccDescEff c d s) c).held = some d := by
  simp [ccDescEff, hr, Nat.not_lt.mpr hq]

theorem lane_modLane_bound {k : Nat} {f : Lane → Lane} {l : Lane} (h : lane s k = some l) : lane (modLane s k f) k = some (f l) := by
  rw [lane_modLane, if_pos rfl, h, Option.map_some]

/-- A deferral in the dispatch window makes the lane late, with a cause that stands before its own (R95). -/
theorem ccDeferEff_late {v : Word} {k : Nat} {l : Lane} (hr : ccRuns s c = true) (hp : s.clk.phase = .dispatch)
    (hk : k = laneKey (clu s c).part (ccJob s c) c (wfld v 0 9)) (hl : lane s k = some l) :
    lane (ccDeferEff c v s) k = some { l with late := some (l.late.getD 3) } := by
  rw [ccDeferEff, if_pos (by simp [hr, hp]), ← hk, makeLate, lane_modLane_bound hl]
  cases l.late <;> rfl

/-- BELAY_SAME before the commit window marks the lane. -/
theorem ccBelaySameEff_marks {v : Word} {k : Nat} {l : Lane} (hr : ccRuns s c = true) (hp : s.clk.phase = .pitches)
    (hk : k = laneKey (clu s c).part (ccJob s c) c (wfld v 0 9)) (hl : lane s k = some l) :
    lane (ccBelaySameEff c v s) k = some { l with same := true } := by
  rw [ccBelaySameEff, if_pos (by simp [hr, hp]), ← hk, lane_modLane_bound hl]

/-- A pop of the empty FIFO reads 0 (R96). -/
theorem ccSumPopEff_nil (hr : ccRuns s c = true) (h : (clu s c).sum = []) :
    (ccSumPopEff c s).rdata = some 0 ∧ (clu (ccSumPopEff c s) c).sum = [] := by
  rw [ccSumPopEff, if_pos hr, h]
  exact ⟨rfl, h⟩

/-- A pop takes the head entry: its low word is read, its high word latched (R96, 00_scope R9). -/
theorem ccSumPopEff_cons {x : DWord} {r : List DWord} (hr : ccRuns s c = true) (h : (clu s c).sum = x :: r) :
    (ccSumPopEff c s).rdata = some (x.toNat % 2 ^ 32) ∧ (clu (ccSumPopEff c s) c).sum = r ∧
      smGet 0 (ccSumPopEff c s).latch (ccRequester c) = BitVec.ofNat 32 (x.toNat / 2 ^ 32) := by
  rw [ccSumPopEff, if_pos hr, h]
  exact ⟨rfl, congrArg Clus.sum (clu_modClu_same c fun y => { y with sum := r }), smGet_smSet_same _ _ _ _⟩

/-! ## Handlers -/

/-- With no handler waiting, WFI leaves the control core idle (R91). -/
theorem wfiEff_idle (hr : ccRuns s c = true) (h : (clu s c).hndQ = []) : (clu (wfiEff c s) c).hnd = none := by
  simp [wfiEff, hr, nextHandler, h]

/-- After WFI the first handler that waits runs (R91). -/
theorem wfiEff_next {h : Hnd} {j : Nat} {r : List (Hnd × Nat)} (hr : ccRuns s c = true) (hq : (clu s c).hndQ = (h, j) :: r) :
    (clu (wfiEff c s) c).hnd = some (h, j) ∧ (clu (wfiEff c s) c).hndQ = r := by
  simp [wfiEff, hr, nextHandler, hq, runHandler]

/-- The SUMMARY handler starts in an idle control core whose FIFO holds an entry (R91). -/
theorem summaryHandlerEff_starts (hrun : (clu s c).run = true) (hn : (clu s c).hnd = none) (hs : (clu s c).sum ≠ []) :
    (clu (summaryHandlerEff c s) c).hnd = some (.summary, curJob s c) := by
  simp [summaryHandlerEff, runHandler, hrun, hn, hs]

/-! ## Posts -/

/-- An entry that finds room joins the FIFO (R96). -/
theorem clu_sumPush {v : DWord} (h : (clu s c).sum.length < 256) :
    clu (sumPush s c v) c = { clu s c with sum := (clu s c).sum ++ [v] } := by
  rw [sumPush, if_pos h, clu_modClu_same]

/-- The one post in flight, once due, leaves for the FIFO. -/
theorem summaryPostArrivalEff_single {t : Nat} {v : DWord} (he : (clu s c).effs = [(t, .post v)]) (ht : t ≤ (clu s c).icyc) :
    summaryPostArrivalEff c s = sumPush (modClu s c fun x => { x with effs := [] }) c v := by
  simp [summaryPostArrivalEff, he, ht, isPost, sortBy, insBy, each, applyEff, modClu]

theorem summaryPostArrivalEff_enters {t : Nat} {v : DWord} (he : (clu s c).effs = [(t, .post v)]) (ht : t ≤ (clu s c).icyc)
    (hs : (clu s c).sum.length < 256) :
    (clu (summaryPostArrivalEff c s) c).sum = (clu s c).sum ++ [v] ∧ (clu (summaryPostArrivalEff c s) c).effs = [] := by
  rw [summaryPostArrivalEff_single he ht, clu_sumPush (by rwa [clu_modClu_same]), clu_modClu_same]
  exact ⟨rfl, rfl⟩

end

/-- Settles O20: each command by what its arm leaves while the handler runs. -/
theorem controlCoreWindowActs : Obligations.ControlCoreWindowActs :=
  ⟨fun _ _ _ _ hr => ⟨⟨_, rfl, ccAltselEff_valid hr⟩, fun hq => ⟨_, rfl, ccDescEff_joins hr hq⟩, fun hq => ⟨_, rfl, ccDescEff_holds hr hq⟩,
      fun _ hp hl => ⟨_, rfl, ccDeferEff_late hr hp rfl hl⟩, fun hs => ⟨_, rfl, ccSumPopEff_nil hr hs⟩,
      fun _ _ hs => ⟨_, rfl, ccSumPopEff_cons hr hs⟩, fun _ hp hl => ⟨_, rfl, ccBelaySameEff_marks hr hp rfl hl⟩,
      fun hq => ⟨_, rfl, wfiEff_idle hr hq⟩, fun _ _ _ hq => ⟨_, rfl, wfiEff_next hr hq⟩⟩,
    fun _ _ _ hr => congrArg Host.Outcome.next (if_pos hr), fun _ _ hrun hn hs => ⟨_, rfl, summaryHandlerEff_starts hrun hn hs⟩,
    fun _ _ _ _ he ht hs => ⟨_, rfl, summaryPostArrivalEff_enters he ht hs⟩⟩

end Sys2Proof.Machine
end

section
/-!
SUPPORT. The run of a slice does not touch the marks of HALT: an operation in flight, a freeze, a job fault and the end of a pitch leave of
every cluster whether its HALT bundle has issued, and for which jobs (03_tick_programs R79, R83).
-/
namespace Sys2Proof.Machine

set_option Elab.async false

/-- Of every cluster whether the HALT bundle of its slice has issued, and the jobs whose last pitch of the tick has issued it. -/
def haltView (s : State) : Nat → Bool × List Nat := fun c => ((clu s c).halting, (clu s c).haltJ)

theorem Same.halting {s t : State} (h : Same haltView s t) (c : Nat) : (clu t c).halting = (clu s c).halting :=
  congrArg Prod.fst (congrFun h c)

theorem Same.haltJ {s t : State} (h : Same haltView s t) (c : Nat) : (clu t c).haltJ = (clu s c).haltJ := congrArg Prod.snd (congrFun h c)

section
variable {s0 s t : State}

/-! ## Clusters changed elsewhere, or not at all -/

theorem halt_only {F : List Comp} (h : Only F s t) (hF : .clus ∉ F := by decide) : Same haltView s0 t ↔ Same haltView s0 s :=
  Same.iff (funext fun c => by rw [haltView, clu_of_clus (h .clus hF), haltView])

@[simp] theorem setClu_halt {c : Nat} {x : Clus} (h : x.halting = (clu s c).halting ∧ x.haltJ = (clu s c).haltJ) :
    Same haltView s0 (setClu s c x) ↔ Same haltView s0 s := by
  refine Same.iff (funext fun d => ?_)
  unfold haltView
  rw [clu_setClu]
  split
  · rw [h.1, h.2, ‹d = c›]
  · rfl

@[simp] theorem modClu_halt {c : Nat} {f : Clus → Clus} (hf : ∀ x, (f x).halting = x.halting ∧ (f x).haltJ = x.haltJ) :
    Same haltView s0 (modClu s c f) ↔ Same haltView s0 s := setClu_halt (hf _)

@[simp] theorem bumpBy_halt {pg off m : Nat} : Same haltView s0 (bumpBy s pg off m) ↔ Same haltView s0 s := halt_only (F := evtComps) (by simp)

@[simp] theorem bump_halt {pg off : Nat} : Same haltView s0 (bump s pg off) ↔ Same haltView s0 s := bumpBy_halt

@[simp] theorem setEvt_halt {pg bit d : Nat} : Same haltView s0 (setEvt s pg bit d) ↔ Same haltView s0 s := halt_only (F := evtComps) (by simp)

@[simp] theorem readAll_halt {l : List Rd} : Same haltView s0 (readAll s l) ↔ Same haltView s0 s :=
  halt_only (F := [.marks, .regs, .vecs, .msgs, .pacc, .slots]) (by simp)

@[simp] theorem tagSlots_halt {l : List (Nat × Nat)} {b : Bool} : Same haltView s0 (tagSlots s l b) ↔ Same haltView s0 s :=
  halt_only (F := [.slots]) (by simp)

@[simp] theorem toCycle_halt {c : Nat} : Same haltView s0 (toCycle s c) ↔ Same haltView s0 s := Iff.rfl

@[simp] theorem modCore_halt {i : Nat} {f : Core → Core} : Same haltView s0 (modCore s i f) ↔ Same haltView s0 s := Iff.rfl

@[simp] theorem setCore_halt {i : Nat} {x : Core} : Same haltView s0 (setCore s i x) ↔ Same haltView s0 s := Iff.rfl

@[simp] theorem addStall_halt {n a i cls : Nat} : Same haltView s0 (addStall s n a i cls) ↔ Same haltView s0 s := Iff.rfl

/-! ## The end of a pitch and job faults -/

/-- The marks of HALT are a reading of the clusters. -/
theorem haltView_cluView : haltView = cluView fun x => (x.halting, x.haltJ) := rfl

theorem dropClus_halt (j : Nat) (ls : List (Nat × Nat)) (c : Nat) : Same haltView s (dropClus j ls s c) := by
  rw [dropClus, haltView_cluView, abandonClus_clu fun _ _ _ _ _ => rfl, ← haltView_cluView]
  exact (modClu_halt (by simp [stopClus])).2 ((halt_only (F := evtComps) (by simp)).2 (same_refl _ s))

theorem dropPitch_halt {n e : Nat} {p : Pitch} : Same haltView s (dropPitch s n e p) := by
  rw [dropPitch, haltView_cluView, abandonRx_clu fun _ _ _ _ _ => rfl, ← haltView_cluView, each_same fun u c => dropClus_halt _ _ c]
  exact same_refl haltView s

@[simp] theorem endPitch_halt {n e : Nat} : Same haltView s0 (endPitch s n e) ↔ Same haltView s0 s := by
  refine Same.iff ?_
  cases hp : (part s n).pitch with
  | none => simp [endPitch, hp]
  | some p =>
    obtain ⟨used, ent, he⟩ := endPitch_eq hp e
    rw [he, halt_only (giveSlack_only _)]
    refine (halt_only (s := dropPitch s n e p) (F := [.parts, .pacc]) ?_).2 dropPitch_halt
    simp

@[simp] theorem dropReads_halt {j c : Nat} : Same haltView s0 (dropReads s j c) ↔ Same haltView s0 s := by
  refine Same.iff ?_
  unfold dropReads
  dsimp only
  refine (modClu_halt (by simp)).2 ?_
  split
  · split <;> simp
  · rfl

@[simp] theorem jobFault_halt {n j cause : Nat} : Same haltView s0 (jobFault s n j cause) ↔ Same haltView s0 s := by
  refine Same.iff ?_
  unfold jobFault
  split
  · rfl
  · extract_lets lanes s1 s2 s3 late s4 d s5
    have h1 : Same haltView s s1 := by
      unfold s1
      split
      · simp
      · rfl
    have h2 : Same haltView s1 s2 :=
      (each_same fun u p => (halt_only (F := [.marks, .regs, .vecs, .msgs, .lanes, .strms, .slots, .emis, .emLost]) (by simp)).2 (same_refl _ u)).2
        ((each_same fun u c => dropReads_halt.2 (same_refl _ u)).2 (same_refl _ s1))
    have h3 : Same haltView s2 s3 := (halt_only (F := [.slots]) (by simp [s3])).2 (same_refl _ s2)
    have h5 : Same haltView s3 s5 := (halt_only (F := [.marks, .regs, .vecs, .msgs, .parts]) (by simp [s5, s4])).2 (same_refl _ s3)
    split
    · exact ((h1.trans h2).trans h3).trans h5
    · exact (halt_only (F := evtComps) (by simp)).2 (((h1.trans h2).trans h3).trans h5)

@[simp] theorem clusFault_halt {c cause : Nat} : Same haltView s0 (clusFault s c cause) ↔ Same haltView s0 s := jobFault_halt

/-! ## Effects and freezes -/

@[simp] theorem sumPush_halt {c : Nat} {v : DWord} : Same haltView s0 (sumPush s c v) ↔ Same haltView s0 s := by
  refine Same.iff ?_
  unfold sumPush
  split
  · simp
  · exact (halt_only (F := evtComps) (by simp)).2 (same_refl _ s)

@[simp] theorem applyEff_halt {c : Nat} {e : Eff} : Same haltView s0 (applyEff s c e) ↔ Same haltView s0 s := by
  refine Same.iff ?_
  unfold applyEff
  split
  · have h1 : ∀ core i off n bs full, Same haltView s (countBytes (slotEff s core i off bs full) (curPart s c) n) := fun _ _ _ _ _ _ =>
      (halt_only (F := [.marks, .regs, .vecs, .msgs, .slots, .pacc]) (by simp)).2 (same_refl _ s)
    dsimp only
    split
    · exact h1 ..
    · exact clusFault_halt.2 (h1 ..)
  · exact same_refl haltView s
  · exact (halt_only (F := [.regs]) (by simp)).2 (same_refl _ s)
  · simp
  · split <;> simp

@[simp] theorem landDue_halt {c i : Nat} {b : Bool} : Same haltView s0 (landDue s c i b) ↔ Same haltView s0 s :=
  Same.iff (by simp [landDue])

@[simp] theorem landPosts_halt {c : Nat} : Same haltView s0 (landPosts s c) ↔ Same haltView s0 s := Same.iff (by simp [landPosts])

@[simp] theorem freeze_halt {c : Nat} {w : Wait} {cls : Nat} : Same haltView s0 (freeze s c w cls) ↔ Same haltView s0 s :=
  modClu_halt fun _ => ⟨rfl, rfl⟩

@[simp] theorem freezeOn_halt {c : Nat} {w : Wait} : Same haltView s0 (freezeOn s c w) ↔ Same haltView s0 s := Same.iff (by simp [freezeOn])

@[simp] theorem chargePort_halt {c : Nat} {l : List Rd} : Same haltView s0 (chargePort s c l) ↔ Same haltView s0 s :=
  Same.iff (by simp [chargePort])

@[simp] theorem gpPort_halt {c : Nat} {l : List Rd} {r : OpRun} {p : GpPar} : Same haltView s0 (gpPort s c l r p) ↔ Same haltView s0 s := by
  unfold gpPort
  dsimp only
  split
  · rfl
  · exact chargePort_halt

@[simp] theorem noteRemote_halt {c i : Nat} {l : List Ref} : Same haltView s0 (noteRemote s c i l) ↔ Same haltView s0 s := by
  unfold noteRemote
  split
  · split
    · rfl
    · exact modClu_halt fun _ => ⟨rfl, rfl⟩
  · rfl

@[simp] theorem addEffs_halt {c : Nat} {l : List (Nat × Eff)} : Same haltView s0 (addEffs s c l) ↔ Same haltView s0 s :=
  Same.iff (by simp [addEffs])

@[simp] theorem bookUntil_halt {c core i : Nat} {l : List Nat} : Same haltView s0 (bookUntil s c core i l) ↔ Same haltView s0 s :=
  modClu_halt fun _ => ⟨rfl, rfl⟩

@[simp] theorem submitAll_halt {c : Nat} {l : List Byte} : Same haltView s0 (submitAll s c l) ↔ Same haltView s0 s :=
  modClu_halt fun _ => ⟨rfl, rfl⟩

@[simp] theorem putRun_halt {c : Nat} {r : AttnRun} : Same haltView s0 (putRun s c r) ↔ Same haltView s0 s := modClu_halt fun _ => ⟨rfl, rfl⟩

@[simp] theorem effsGate_halt {c : Nat} : Same haltView s0 (effsGate s c) ↔ Same haltView s0 s := by
  unfold effsGate
  dsimp only
  split
  · exact freeze_halt
  · rfl

@[simp] theorem remGate_halt {c : Nat} : Same haltView s0 (remGate s c) ↔ Same haltView s0 s := by
  unfold remGate
  split
  · exact freeze_halt.trans (modClu_halt fun _ => ⟨rfl, rfl⟩)
  · rfl

@[simp] theorem pageCheck_halt {c : Nat} : Same haltView s0 (pageCheck s c) ↔ Same haltView s0 s := Same.iff (by simp [pageCheck])

@[simp] theorem finishHalt_halt {c : Nat} : Same haltView s0 (finishHalt s c) ↔ Same haltView s0 s := Same.iff (by simp [finishHalt])

@[simp] theorem applyFar_halt {c : Nat} : Same haltView s0 (applyFar s c) ↔ Same haltView s0 s := Same.iff (by simp [applyFar])

@[simp] theorem endStall_halt {c i : Nat} : Same haltView s0 (endStall s c i) ↔ Same haltView s0 s := Same.iff (by simp [endStall])

@[simp] theorem portStall_halt {c a i : Nat} : Same haltView s0 (portStall s c a i) ↔ Same haltView s0 s := Same.iff (by simp [portStall])

/-! ## Runs -/

/-- Where a run's event leads on to, the marks of HALT are those of `s`. -/
def Ran.Halts (s : State) : Ran → Prop
  | .wait _ => True
  | .fault t => Machine.Same haltView s t
  | .on t _ => Machine.Same haltView s t

@[simp] theorem Ran.halts_wait {w : Wait} : Ran.Halts s (.wait w) ↔ True := Iff.rfl

@[simp] theorem Ran.halts_fault : Ran.Halts s (.fault t) ↔ Machine.Same haltView s t := Iff.rfl

@[simp] theorem Ran.halts_on {r : OpRun} : Ran.Halts s (.on t r) ↔ Machine.Same haltView s t := Iff.rfl

@[simp] theorem Ran.halts_ite {c : Prop} [Decidable c] {a b : Ran} :
    Ran.Halts s (if c then a else b) ↔ (c → Ran.Halts s a) ∧ (¬c → Ran.Halts s b) := by
  split <;> simp [*]

theorem Ran.Halts.of {r : Ran} (h : Machine.Same haltView s t) (k : Ran.Halts t r) : Ran.Halts s r := by
  cases r with
  | wait w => trivial
  | fault v => exact Machine.Same.trans h k
  | on v r => exact Machine.Same.trans h k

@[simp] theorem runRead_halts {c : Nat} {l : List Rd} {f : State → List Byte → Ran} (hf : ∀ s bs, Ran.Halts s (f s bs)) :
    Ran.Halts s ((runRead s c l).andThen f) := by
  unfold runRead
  split
  · trivial
  · dsimp only
    split
    · exact Ran.halts_fault.2 (by simp)
    · exact Ran.Halts.of (by simp) (hf _ _)

@[simp] theorem streamOn_halts {c : Nat} {r : OpRun} : Ran.Halts s (streamOn s c r) := by simp [streamOn]

@[simp] theorem streamStep_halts {c : Nat} {r : OpRun} : Ran.Halts s (streamStep s c r) := by
  unfold streamStep
  dsimp only
  split
  · exact runRead_halts fun s bs => Ran.Halts.of (by simp) streamOn_halts
  · exact streamOn_halts

@[simp] theorem drainStep_halts {c : Nat} {r : OpRun} : Ran.Halts s (drainStep s c r) := by simp [drainStep, drainOut]

@[simp] theorem chainGo_halts {c : Nat} {r : OpRun} {p : GpPar} {j : Nat} : Ran.Halts s (chainGo s c r p j) := by
  unfold chainGo
  dsimp only
  split
  · trivial
  · simp

@[simp] theorem chainPars_halts {c : Nat} {r : OpRun} : Ran.Halts s (chainPars s c r) := by
  unfold chainPars
  dsimp only
  split <;> simp

theorem runStep_halts {c : Nat} {r : OpRun} : Ran.Halts s (runStep s c r) := by
  unfold runStep
  cases r.kind with
  | chain => simp [chainStep]
  | copy => simp [copyStep]
  | dma => simp [dmaStep]
  | tile => simp [tileStep]
  | _ => simp

@[simp] theorem loadwMove_halt {c room : Nat} {r : OpRun} : Same haltView s0 (loadwMove s c r room).1 ↔ Same haltView s0 s := by
  refine Same.iff ?_
  unfold loadwMove
  dsimp only
  split
  · rfl
  · split
    · rfl
    · split <;> simp

@[simp] theorem loadwServe_halt {c core room : Nat} : Same haltView s0 (loadwServe s c core room) ↔ Same haltView s0 s := by
  unfold loadwServe
  refine foldlFst_same fun a i => ?_
  split
  · rename_i r _
    have hm : Same haltView a.1 ((List.range 2).foldl (fun (m : State × OpRun × Nat) _ => loadwMove m.1 c m.2.1 m.2.2) (a.1, r, a.2)).1 :=
      (foldlFst_same fun m _ => loadwMove_halt.2 (same_refl _ m.1)).2 (same_refl _ a.1)
    dsimp only
    split
    · split
      · exact (modClu_halt (by simp)).2 hm
      · exact hm
    · rfl
  · rfl

@[simp] theorem loadwGate_halt {i c : Nat} : Same haltView s0 (loadwGate i s c) ↔ Same haltView s0 s := by
  refine Same.iff ?_
  induction i generalizing s with
  | zero => exact same_refl _ s
  | succ i ih =>
    unfold loadwGate
    split
    · rfl
    · split
      · simp
      · rename_i r _ _ _
        have hs : Same haltView s (loadwServe (portStall s c (issueCycle s c) 1) c r.core 256) := by simp
        dsimp only
        split
        · exact hs.trans ih
        · exact hs

@[simp] theorem runOne_halt {c i : Nat} : Same haltView s0 (runOne c s i) ↔ Same haltView s0 s := by
  refine Same.iff ?_
  unfold runOne
  split
  · rfl
  · split
    · rfl
    · rename_i r _
      split
      · rfl
      · have hr := runStep_halts (s := s) (c := c) (r := r)
        generalize runStep s c r = o at hr
        cases o with
        | wait w => simp
        | fault t => exact hr
        | on t r => exact (modClu_halt (by simp)).2 hr

@[simp] theorem runsPass_halt {c : Nat} : Same haltView s0 (runsPass s c) ↔ Same haltView s0 s := Same.iff (by simp [runsPass])

/-! ## Attention -/

theorem atRead_halt {c : Nat} {l : List (Option (Nat × Nat))} {f : State → State} (hf : ∀ u, Same haltView u (f u)) :
    Same haltView s (atRead s c l f) := by
  unfold atRead
  split
  · simp
  · dsimp only
    split
    · simp
    · exact Same.trans (by simp) (hf _)

@[simp] theorem atBlock_halt {c : Nat} {r : AttnRun} : Same haltView s0 (atBlock s c r) ↔ Same haltView s0 s := by
  refine Same.iff (atRead_halt fun u => ?_)
  dsimp only
  split <;> simp

@[simp] theorem atFinish_halt {c : Nat} {r : AttnRun} : Same haltView s0 (atFinish s c r) ↔ Same haltView s0 s :=
  Same.iff (atRead_halt fun u => by simp)

@[simp] theorem atRun_halt {c : Nat} : Same haltView s0 (atRun s c) ↔ Same haltView s0 s := by
  have hn : ∀ i (u : State), Same haltView u (atRunN i u c) := by
    intro i
    induction i with
    | zero => exact fun u => same_refl _ u
    | succ i ih =>
      intro u
      unfold atRunN
      dsimp only
      split
      · rfl
      · split
        · rfl
        · refine Same.trans ?_ (ih _)
          split <;> simp
  refine Same.iff ?_
  unfold atRun
  split
  · rfl
  · exact hn _ _

/-! ## Cycles of a slice -/

@[simp] theorem leaveCycle_halt {c : Nat} : Same haltView s0 (leaveCycle s c) ↔ Same haltView s0 s := by
  refine Same.iff ?_
  unfold leaveCycle
  extract_lets cores busy extra used s1 a s2
  have h1 : Same haltView s s1 := by simp [s1]
  have h2 : Same haltView s s2 := landDue_halt.2 h1
  split
  · exact h2
  · simpa using h2

@[simp] theorem enterCycle_halt {c : Nat} : Same haltView s0 (enterCycle s c) ↔ Same haltView s0 s := by
  refine Same.iff ?_
  unfold enterCycle
  extract_lets s2 s3 s4 s5
  simp [s2, s3, s4, s5]

@[simp] theorem drainN_halt {i e c : Nat} : Same haltView s0 (drainN i e s c) ↔ Same haltView s0 s := by
  refine Same.iff ?_
  induction i generalizing s with
  | zero => exact same_refl _ s
  | succ i ih =>
    unfold drainN
    dsimp only
    split
    · simp
    · split
      · simp
      · split
        · simp
        · exact Same.trans (by simp) ih

/-- A cluster after HALT settles: what it has in flight runs on, and the marks stay. -/
theorem settle_halt {c : Nat} (h : (clu s c).halting = true) : Same haltView s (settle s c) := by
  have h1 : Same haltView s (pageCheck (enterCycle (applyFar s c) c) c) := by simp
  unfold settle
  dsimp only
  rw [if_pos ((h1.halting c).trans h)]
  split
  · exact h1
  · simp

end

end Sys2Proof.Machine
end
section
/-!
PROOFS. The sequencer of a cluster: a cluster with nothing in flight, the end of a stall episode over the members, and the commands of the
sequencer (03_tick_programs R78, R79, R83, R84, R87, R89).
-/
namespace Sys2Proof.Machine

set_option Elab.async false

/-! ## A cluster with nothing in flight -/

section
variable {s : State} {c : Nat}

theorem inFlight_eq_false : inFlight s c = false ↔
    (clu s c).effs = [] ∧ (clu s c).runs = [] ∧ (clu s c).attn = [] ∧ (clu s c).rem = none := by
  simp [inFlight, and_assoc]

theorem applyFar_idle (h : (clu s c).far = []) : applyFar s c = s := if_pos h

theorem loadwLate_idle (h : (clu s c).runs = []) : loadwLate s c = none := by simp [loadwLate, h]

theorem loadwGate_idle {k : Nat} (h : (clu s c).runs = []) : loadwGate k s c = s := by
  cases k with
  | zero => rfl
  | succ k => rw [loadwGate, loadwLate_idle h]

theorem effsGate_idle (h : (clu s c).effs = []) : effsGate s c = s := by simp [effsGate, h]

/-- An issue cycle with nothing in flight brings nothing. -/
theorem enterCycle_idle (h : inFlight s c = false) : enterCycle s c = s := by
  obtain ⟨he, hr, ha, -⟩ := inFlight_eq_false.1 h
  have hruns : runsPass s c = s := if_pos hr
  have hattn : atRun s c = s := if_pos ha
  unfold enterCycle
  split
  · rfl
  · rename_i hgo
    simp only [Bool.or_eq_true, Bool.not_eq_true', not_or, Bool.not_eq_false, Bool.not_eq_true] at hgo
    simp [loadwGate_idle hr, hruns, hattn, effsGate_idle he, hgo.1, hgo.2]

theorem pageCheck_resident (h : (curImg s c).paged = false) : pageCheck s c = s := if_neg (by simp [h])

theorem pageCheck_halting (h : (clu s c).halting = true) : pageCheck s c = s := if_neg (by simp [h])

/-- A cluster after HALT with nothing in flight has halted once it settles (R79). -/
theorem settle_halts (hh : (clu s c).halting = true) (hrun : (clu s c).run = true) (hw : (clu s c).wait = none)
    (hi : inFlight s c = false) (hf : (clu s c).far = []) : (clu (settle s c) c).halted = true := by
  rw [settle, applyFar_idle hf, enterCycle_idle hi, pageCheck_halting hh, if_pos hh, drainN_idle hi]
  split
  · assumption
  · rename_i hd
    simp [finishHalt, hh, hrun, hw, hi, hd]

theorem settleN_undone {k : Nat} (h : bundleDone s c = false) : settleN k s c = s := by
  cases k with
  | zero => rfl
  | succ k => rw [settleN]; exact if_neg (by simp [h])

/-- A cluster of a resident job with nothing in flight stays at a bundle that is not done. -/
theorem settle_waits (hh : (clu s c).halting = false) (hi : inFlight s c = false) (hf : (clu s c).far = [])
    (hp : (curImg s c).paged = false) (hd : bundleDone s c = false) : settle s c = s := by
  rw [settle, applyFar_idle hf, enterCycle_idle hi, pageCheck_resident hp, if_neg (by simp [hh]), settleN_undone hd]

end

/-! ## The end of a stall episode (R83) -/

section
variable {s : State} {c k : Nat}

/-- A change of every cluster of a list but one. -/
theorem clu_each_but {l : List Nat} (hl : l.Nodup) (f : Nat → Clus → Clus) (d : Nat) :
    clu (each s l fun s m => if m = c then s else modClu s m (f m)) d = if d ∈ l ∧ d ≠ c then f d (clu s d) else clu s d := by
  induction l generalizing s with
  | nil => simp [each]
  | cons m l ih =>
    obtain ⟨hm, hl⟩ := List.nodup_cons.1 hl
    refine (ih (s := if m = c then s else modClu s m (f m)) hl).trans ?_
    have hd : clu (if m = c then s else modClu s m (f m)) d = if d = m ∧ d ≠ c then f d (clu s d) else clu s d := by
      by_cases hc : m = c
      · simp +contextual [hc]
      · by_cases e : d = m
        · subst e; simp [hc]
        · simp [hc, modClu, clu_setClu, e]
    rw [hd]
    by_cases e : d = m
    · subst e; simp [hm]
    · simp [e]

/-- The members that a word of PART_CLMASK names. -/
theorem div_of_mem_word {v w d : Nat}
    (h : d ∈ if v = 0 then [] else (List.range 32).filterMap fun b => if bitAt v b then some (32 * w + b) else none) : d / 32 = w := by
  split at h
  · cases h
  · simp only [List.mem_filterMap, List.mem_range, Option.ite_none_right_eq_some, Option.some.injEq] at h
    obtain ⟨b, hb, -, rfl⟩ := h
    omega

/-- A cluster stands once among the members. -/
theorem members_nodup (s : State) (n : Nat) : (members s n).Nodup := by
  refine List.nodup_flatMap.2 ⟨fun w _ => ?_, List.nodup_range.imp fun hne d hd hd' => hne ((div_of_mem_word hd).symm.trans (div_of_mem_word hd'))⟩
  dsimp only
  split
  · exact List.nodup_nil
  · refine List.nodup_range.filterMap fun a b x ha hb => ?_
    simp only [Option.mem_def, Option.ite_none_right_eq_some, Option.some.injEq] at ha hb
    omega

/-- A member learns of an episode of `k` cycles of cluster `c`: it freezes as long from 4 cycles per hop after `c` froze (R83). -/
def tellStall (s : State) (c k m : Nat) (y : Clus) : Clus :=
  { y with far := y.far ++ [((clu s c).waitAt + 4 * hops (members s (clu s c).part) c m, k)] }

/-- Every other member learns of the episode. -/
def spreadStall (s : State) (c k : Nat) : State :=
  each s (members s (clu s c).part) fun u m => if m = c then u else modClu u m (tellStall s c k m)

/-- The end of an episode: the others learn of it, the cluster goes on, the pitch counts it, time has passed. -/
theorem endStall_eq (s : State) (c k : Nat) : endStall s c k =
    toCycle (addStall (modClu (spreadStall s c k) c fun y => { y with frz := y.frz + k, wait := none }) (clu s c).part (clu s c).waitAt k
      (clu s c).waitCls) ((clu s c).waitAt + k) := rfl

theorem clu_toCycle (e d : Nat) : clu (toCycle s e) d = clu s d := rfl

theorem clu_addStall (n a i cls d : Nat) : clu (addStall s n a i cls) d = clu s d := rfl

theorem clu_spreadStall (d : Nat) : clu (spreadStall s c k) d =
    if d ∈ members s (clu s c).part ∧ d ≠ c then tellStall s c k d (clu s d) else clu s d :=
  clu_each_but (members_nodup _ _) _ d

/-- The cluster whose episode ends goes on, frozen for its cycles (R83). -/
theorem clu_endStall_same : clu (endStall s c k) c = { clu s c with frz := (clu s c).frz + k, wait := none } := by
  have hs : clu (spreadStall s c k) c = clu s c := (clu_spreadStall c).trans (if_neg fun h => h.2 rfl)
  rw [endStall_eq, clu_toCycle, clu_addStall, clu_modClu_same, hs]

theorem clu_endStall_member {m : Nat} (hm : m ∈ members s (clu s c).part) (hc : m ≠ c) :
    clu (endStall s c k) m = tellStall s c k m (clu s m) := by
  rw [endStall_eq, clu_toCycle, clu_addStall, modClu, clu_setClu, if_neg hc, clu_spreadStall, if_pos ⟨hm, hc⟩]

/-- The cluster is frozen no more, and every other member freezes as long in its turn (R83). -/
theorem endStall_frees : (clu (endStall s c k) c).wait = none ∧ (clu (endStall s c k) c).frz = (clu s c).frz + k ∧
    ∀ m ∈ members s (clu s c).part, m ≠ c →
      (clu (endStall s c k) m).far = (clu s m).far ++ [((clu s c).waitAt + 4 * hops (members s (clu s c).part) c m, k)] := by
  rw [clu_endStall_same]
  exact ⟨rfl, rfl, fun m hm hc => by rw [clu_endStall_member hm hc, tellStall]⟩

/-- An episode counted in the record of a pitch changes neither the jobs nor the job that runs. -/
theorem part_addStall (n a i cls m : Nat) : (part (addStall s n a i cls) m).jobs = (part s m).jobs ∧
    (part (addStall s n a i cls) m).pitch.map Pitch.job = (part s m).pitch.map Pitch.job := by
  rw [addStall, part_modPart]
  split
  · subst m
    exact ⟨rfl, by rw [Option.map_map]; rfl⟩
  · exact ⟨rfl, rfl⟩

theorem part_endStall (m : Nat) : (part (endStall s c k) m).jobs = (part s m).jobs ∧
    (part (endStall s c k) m).pitch.map Pitch.job = (part s m).pitch.map Pitch.job := by
  have hs : part (modClu (spreadStall s c k) c fun y => { y with frz := y.frz + k, wait := none }) m = part s m := by
    rw [part_modClu]
    exact part_of_parts ((show Only [.clus] s (spreadStall s c k) by simp [spreadStall]) .parts (by decide)) m
  rw [endStall_eq, part_toCycle, ← hs]
  exact part_addStall ..

theorem curJob_map (s : State) (c : Nat) : curJob s c = ((part s (curPart s c)).pitch.map Pitch.job).getD 0 := by
  unfold curJob
  cases (part s (curPart s c)).pitch <;> rfl

/-- The cluster runs the same job from the same image, at the same bundle. -/
theorem curImg_endStall : curImg (endStall s c k) c = curImg s c := by
  have hpart : curPart (endStall s c k) c = curPart s c := by rw [curPart, clu_endStall_same, curPart]
  obtain ⟨hjobs, hpitch⟩ := part_endStall (s := s) (c := c) (k := k) (curPart s c)
  have hjob : curJob (endStall s c k) c = curJob s c := by rw [curJob_map, hpart, hpitch, curJob_map]
  rw [curImg, job, hpart, hjob, hjobs, curImg, job]

theorem curBundle_endStall : curBundle (endStall s c k) c = curBundle s c := by
  have hb : (endStall s c k).bundles = s.bundles := (show Only [.clus, .parts, .clk] s (endStall s c k) by simp) .bundles (by decide)
  simp only [curBundle, sliceBundle, bundleFrame, curImg_endStall, clu_endStall_same, bundleAt, hb]

theorem bundleDone_endStall : bundleDone (endStall s c k) c = bundleDone s c := by
  rw [bundleDone, curBundle_endStall, clu_endStall_same, bundleDone]

theorem loadwAfter_idle (h : (clu s c).runs = []) : loadwAfter s c = s := by rw [loadwAfter, loadwLate_idle h]

/-- With nothing in flight and a bundle that is not done, the end of the episode is all that happens. -/
theorem settle_endStall (hh : (clu s c).halting = false) (hi : inFlight s c = false) (hf : (clu s c).far = [])
    (hp : (curImg s c).paged = false) (hd : bundleDone s c = false) :
    settle (loadwAfter (endStall s c k) c) c = endStall s c k := by
  obtain ⟨he, hr, ha, hm⟩ := inFlight_eq_false.1 hi
  rw [loadwAfter_idle (by rw [clu_endStall_same]; exact hr)]
  refine settle_waits ?_ (inFlight_eq_false.2 ?_) ?_ (by rw [curImg_endStall, hp]) (by rw [bundleDone_endStall, hd])
  all_goals rw [clu_endStall_same]
  · exact hh
  · exact ⟨he, hr, ha, hm⟩
  · exact hf

/-- STALL_CLEAR with its cause cleared ends the episode, and the cluster goes on (R83). -/
theorem stallClearEff_over {w : Wait} (hw : (clu s c).wait = some w) (ho : waitOver s c w = true) (hn : w ≠ .port) :
    stallClearEff c k s = settle (loadwAfter (endStall s c k) c) c := by
  rw [stallClearEff, hw]
  dsimp only
  rw [if_pos ho, if_neg hn]

end

/-! ## The sample of CC_ALTSEL (R89) -/

section
variable {s : State} {c pc : Nat}

/-- CC_ALTSEL is valid for the branch point at `pc`. -/
def altGood (s : State) (c pc : Nat) : Bool :=
  (clu s c).altV && (clu s c).altBp = fld (bImm ((sliceBundle s c pc).getD 0)) 36 12

theorem altGood_eq_false (h : (clu s c).altV = true → (clu s c).altBp ≠ fld (bImm ((sliceBundle s c pc).getD 0)) 36 12) :
    altGood s c pc = false :=
  Bool.and_eq_false_imp.2 fun hv => decide_eq_false (h hv)

/-- The sample takes the selection where it is good and arm A otherwise, and clears VALID. -/
theorem sampleFor_clu : (clu (sampleFor s c pc) c).altV = false ∧
    (clu (sampleFor s c pc) c).sel = some (pc, altGood s c pc && (clu s c).altSel) := by
  unfold sampleFor
  extract_lets x bpid good s1 s2 s3
  have h1 : clu s1 c = { x with sel := some (pc, good && x.altSel), altV := false } := clu_modClu_same _ _
  have h2 : clu s2 c = clu s1 c := by
    unfold s2
    split <;> simp
  have h3 : clu s3 c = { clu s2 c with altLate := true } := clu_modClu_same _ _
  split
  · rw [h1]
    exact ⟨rfl, rfl⟩
  · have h4 : clu (if bitAt (curImg s c).flags 3 then altLateLanes s3 x.part (curJob s c) c else s3) c = clu s3 c :=
      clu_of_clus ((show Only [.lanes] s3 _ by simp) .clus (by decide)) c
    rw [h4, h3, h2, h1]
    exact ⟨rfl, rfl⟩

/-- A selection that is not good raises the cluster's event: 0 where none was valid, 1 where it was for another branch point. -/
theorem sampleFor_evt (h : altGood s c pc = false) : rb (sampleFor s c pc) (clPg c + 0x14) (if (clu s c).altV then 1 else 0) = true := by
  unfold sampleFor
  extract_lets x bpid good s1 s2 s3
  have hr : (if bitAt (curImg s c).flags 3 then altLateLanes s3 x.part (curJob s c) c else s3).regs = s2.regs :=
    (show Only [.lanes, .clus] s2 _ by simp [s3]) .regs (by decide)
  rw [if_neg fun hg => Bool.false_ne_true ((show good = false from h).symm.trans hg), rb, rdN_of_regs hr]
  unfold s2
  split
  · exact rb_setEvt _ _ _ (by decide)
  · exact rb_setEvt _ _ _ (by decide)

theorem altselSampleEff_due {u : State} (hu : u = settle s c) (hrun : (clu u c).run = true) (hh : (clu u c).halting = false)
    (hw : (clu u c).wait = none) (hs : (clu u c).sel = none) (hf : findBp u c 17 (ctlOf (clu u c)) ((clu u c).did.contains 0) = some pc) :
    altselSampleEff c s = sampleFor u c pc := by
  rw [altselSampleEff, ← hu, if_pos (by simp [hrun, hh, hw, hs]), hf]

end

/-! ## The commands of the sequencer -/

section
variable {u : State} {c k : Nat}

/-- A part of a bundle that can be carried out is of a running cluster that is not frozen and has not issued its HALT. -/
theorem canDo_ready (h : canDo u c k = true) : (clu u c).run = true ∧ (clu u c).halting = false ∧ (clu u c).wait = none := by
  simp only [canDo, Bool.and_eq_true, Bool.not_eq_true', Option.isNone_iff_eq_none] at h
  obtain ⟨⟨⟨⟨⟨⟨⟨⟨hrun, hh⟩, hw⟩, -⟩, -⟩, -⟩, -⟩, -⟩, -⟩ := h
  exact ⟨hrun, hh, hw⟩

/-- LOOP_S opens its loop (R78). -/
theorem loopSEff_opens {s : State} (h : canDo (settle s c) c 0 = true) :
    (clu (loopSEff c s) c).loops = (ctlOpen (ctlOf (clu (settle s c) c)) (curBundle (settle s c) c)).loops ∧ 0 ∈ (clu (loopSEff c s) c).did := by
  rw [loopSEff]
  dsimp only
  rw [if_pos h, clu_modClu_same, clu_markDid]
  exact ⟨rfl, List.mem_cons_self⟩

/-- LOOP_E moves issue to where the loop goes on or ends (R78). -/
theorem loopEEff_moves {s : State} (h : canDo (settle s c) c 3 = true) (hb : bLoopE (curBundle (settle s c) c) = true) :
    loopEEff c s = moveTo (markDid (settle s c) c 3) c (ctlClose (ctlOf (clu (settle s c) c)))
      (match (clu (settle s c) c).loops with | l :: _ => decide (l.left ≠ 0) | [] => false) :=
  if_pos (by rw [h, hb]; rfl)

/-- BP moves issue into the arm sampled for it (R87). -/
theorem bpEff_branches {s : State} {armB : Bool} (hs : (clu (settle s c) c).sel = some ((clu (settle s c) c).pc, armB))
    (h : canDo (settle s c) c 1 = true) : bpEff c s = moveTo (modClu (markDid (settle s c) c 1) c fun x => { x with sel := none }) c
      (ctlBranch (ctlOf (clu (settle s c) c)) (curBundle (settle s c) c) armB) false := by
  rw [bpEff]
  dsimp only
  rw [hs]
  dsimp only
  rw [if_pos (by simp [h])]

/-- The state in which the HALT bundle has issued (R79). -/
def haltIssued (u : State) (c : Nat) : State :=
  modClu (markDid u c 3) c fun y => { y with
    halting := true, haltJ := curJob (markDid u c 3) c :: y.haltJ
    haltCls := if dmaLeft (clu (markDid u c 3) c) then 0 else if nocLeft (markDid u c 3) c then 1 else 2
    hEnd := issueCycle (markDid u c 3) c + 1 }

theorem haltEff_issues {s : State} (h : canDo (settle s c) c 3 = true) (hb : bHalt (curBundle (settle s c) c) = true) :
    haltEff c s = settle (haltIssued (settle s c) c) c :=
  if_pos (by rw [h, hb]; rfl)

theorem curJob_markDid : curJob (markDid u c k) c = curJob u c := by
  have hp : curPart (markDid u c k) c = curPart u c := by rw [curPart, clu_markDid, curPart]
  rw [curJob, hp, curJob]
  rfl

/-- HALT ends the slice: the cluster runs out what is in flight, and has halted once nothing is (R79). -/
theorem haltIssued_settles (h : canDo u c 3 = true) : (clu (settle (haltIssued u c) c) c).halting = true ∧
    curJob u c ∈ (clu (settle (haltIssued u c) c) c).haltJ ∧
    (inFlight u c = false → (clu u c).far = [] → (clu (settle (haltIssued u c) c) c).halted = true) := by
  obtain ⟨hrun, -, hw⟩ := canDo_ready h
  have hx := clu_modClu_same (s := markDid u c 3) c fun y => { y with
    halting := true, haltJ := curJob (markDid u c 3) c :: y.haltJ
    haltCls := if dmaLeft (clu (markDid u c 3) c) then 0 else if nocLeft (markDid u c 3) c then 1 else 2
    hEnd := issueCycle (markDid u c 3) c + 1 }
  rw [← haltIssued, clu_markDid, curJob_markDid] at hx
  have hh : (clu (haltIssued u c) c).halting = true := by rw [hx]
  have keep := settle_halt hh
  refine ⟨(keep.halting c).trans hh, ?_, fun hi hf => settle_halts hh ?_ ?_ ?_ ?_⟩
  · rw [keep.haltJ, hx]
    exact List.mem_cons_self
  · rw [hx]; exact hrun
  · rw [hx]; exact hw
  · rw [inFlight_eq_false, hx]; exact inFlight_eq_false.1 hi
  · rw [hx]; exact hf

/-- The report of a SYNC: the bundle index joins those of the pitch (R84). -/
def syncReport (u : State) (c : Nat) : State := modPart (markDid u c 2) (curPart u c) fun p => { p with syncs := (c, (clu u c).pc) :: p.syncs }

theorem syncReport_records : (c, (clu u c).pc) ∈ (part (syncReport u c) (curPart u c)).syncs ∧
    (part (syncReport u c) (curPart u c)).st = (part u (curPart u c)).st := by
  rw [syncReport, part_modPart_same]
  exact ⟨List.mem_cons_self, rfl⟩

theorem syncEff_reports {s : State} (h : canDo (settle s c) c 2 = true) : syncEff c s =
    if syncDiffers (settle s c) (curPart (settle s c) c) c (clu (settle s c) c).pc then
      faultPart (syncReport (settle s c) c) (curPart (settle s c) c) .lockstep
    else syncReport (settle s c) c := if_pos h

/-- A report that differs makes the partition FAULTED outside the commit window (R84, 02_partitions_pitches R46). -/
theorem syncReport_faults (ha : activeSt (part u (curPart u c)).st = true) (hp : u.clk.phase ≠ .commit) :
    (part (faultPart (syncReport u c) (curPart u c) .lockstep) (curPart u c)).st = .faulted :=
  (faultPart_faulted (s := syncReport u c) .lockstep (.inl (by rwa [syncReport_records.2])) hp).1

end

/-- Settles O18: each command by the equation of its due case and what the operations there leave. -/
theorem sequencersRunLoopsBranchesAndHalt : Obligations.SequencersRunLoopsBranchesAndHalt := by
  refine ⟨fun s c => ?_, fun s c w k hw ho hn => ⟨?_, fun hh hi hf hp hd => ⟨_, rfl, ?_⟩⟩⟩
  · intro u
    refine ⟨fun h => ⟨_, rfl, loopSEff_opens h⟩, fun h hb => ?_, fun armB hs h => ?_, fun pc hrun hh hw hs hf => ⟨_, rfl, ?_⟩,
      fun h hb => ⟨_, rfl, ?_⟩, fun h hd => ⟨_, rfl, ?_⟩, fun h hd ha hp => ⟨_, rfl, ?_⟩⟩
    · exact congrArg Host.Outcome.next (loopEEff_moves h hb)
    · exact congrArg Host.Outcome.next (bpEff_branches hs h)
    · obtain ⟨hv, hsel⟩ := sampleFor_clu (s := u) (c := c) (pc := pc)
      rw [altselSampleEff_due rfl hrun hh hw hs hf]
      refine ⟨hv, hsel, fun hn => ?_, fun hy hne => ?_⟩
      · have he := sampleFor_evt (s := u) (c := c) (pc := pc) (altGood_eq_false fun hv => absurd (hn.symm.trans hv) Bool.false_ne_true)
        rwa [hn] at he
      · have he := sampleFor_evt (s := u) (c := c) (pc := pc) (altGood_eq_false fun _ => hne)
        rwa [hy] at he
    · rw [haltEff_issues h hb]
      exact haltIssued_settles h
    · rw [syncEff_reports h, if_neg (by rw [hd]; exact Bool.false_ne_true)]
      exact syncReport_records
    · rw [syncEff_reports h, if_pos hd]
      exact syncReport_faults ha hp
  · exact congrArg Host.Outcome.next (stallClearEff_over hw ho hn)
  · rw [stallClearEff_over hw ho hn, settle_endStall hh hi hf hp hd]
    exact endStall_frees

end Sys2Proof.Machine
end

section
/-!
PROOFS. The matrix engine: its ops run by the plans of the enabled cores, what the plans of MODE, CBOOK, LOADW and STREAM hold, and what the
runs of LOADW, STREAM and DRAIN do in their later cycles (04_matrix_engine R108-R121; 09_memory R261).
-/
namespace Sys2Proof.Machine

set_option Elab.async false

/-! ## Issue -/

section
variable {s : State} {c opc : Nat} {us : USlot}

theorem runOp_due {f : State → State} (h : canOp (settle s c) c us opc = true) : runOp s c us opc f = f (atIssue s c) := if_pos h

theorem maskCores_nodup (m : Nat) : (maskCores m).Nodup := List.nodup_range.filter _

theorem meCores_nodup : (meCores s c).Nodup := (maskCores_nodup _).map fun _ _ h => Nat.add_left_cancel h

variable {plan : State → Nat → Nat → Nat → Sum Nat Plan}

/-- The plans of an ME op, core by core of its mask. -/
def mePlans (plan : State → Nat → Nat → Nat → Sum Nat Plan) (s : State) (c : Nat) : List (Nat × Sum Nat Plan) :=
  (meCores s c).map fun k => (k, plan s c k (slotBits s c .me))

theorem mePlans_keys : (mePlans plan s c).map Prod.fst = meCores s c := by simp [mePlans, Function.comp_def]

theorem meOp_due (h : canOp (settle s c) c .me opc = true) :
    meOp c opc plan s = runPlans (atIssue s c) c .me (mePlans plan (atIssue s c) c) := runOp_due h

/-- An ME op that is the one to issue runs by the plans of its cores (R80). -/
theorem meOp_runs {i : Instr} (hi : exec i s = .next (meOp c opc plan s)) (h : canOp (settle s c) c .me opc = true) :
    OpRuns i s c .me (mePlans plan (atIssue s c) c) :=
  opRuns_of (hi.trans (congrArg Host.Outcome.next (meOp_due h))) (mePlans_keys ▸ meCores_nodup)

/-- Plans that no core's op is refused with. -/
theorem mePlans_inr {g : Nat → Plan} (h : ∀ k ∈ meCores s c, plan s c k (slotBits s c .me) = .inr (g k)) :
    plans (mePlans plan s c) = .inr ((meCores s c).map fun k => (k, g k)) := by
  rw [mePlans, List.map_congr_left fun k hk => congrArg (Prod.mk k) (h k hk)]
  simpa [Function.comp_def] using plans_inr ((meCores s c).map fun k => (k, g k))

/-- Where every core's op is refused with the same cause, the op is. -/
theorem mePlans_inl {cause : Nat} (h : ∀ k, plan s c k (slotBits s c .me) = .inl cause) (hne : meCores s c ≠ []) :
    plans (mePlans plan s c) = .inl cause := by
  obtain ⟨k, l, hl⟩ := List.exists_cons_of_ne_nil hne
  rw [mePlans, hl, List.map_cons, h k, plans_inl]

end

/-! ## ME.MODE (R112) -/

section
variable {s : State} {c k w : Nat}

/-- The plan of a MODE that is accepted. -/
def modeSet (s : State) (w k : Nat) : Plan := { post := [meClear (coreAt s k) (fld w 85 3) (bitAt w 84)] }

theorem modePlan_clears (h5 : fld w 85 3 < 5) (h4 : fld w 85 3 = 4 → bitAt w 84 = false) : modePlan s c k w = .inr (modeSet s w k) :=
  if_neg fun h => h.elim (Nat.not_le.2 h5) fun h => Bool.false_ne_true ((h4 h.1).symm.trans h.2)

theorem modePlan_refused (h : 5 ≤ fld w 85 3 ∨ (fld w 85 3 = 4 ∧ bitAt w 84 = true)) : modePlan s c k w = .inl 3 := if_pos h

/-- Accepted MODEs read no slot. -/
theorem modeSet_reads (l : List Nat) : (l.map fun k => (k, modeSet s w k)).flatMap (fun p => p.2.reads) = [] := by simp [modeSet]

theorem modeSet_free {l : List Nat} (h : ∀ k ∈ l, bookedNow s c k 0 = false) :
    doubleBooked s c .me (l.map fun k => (k, modeSet s w k)) = false := by
  simpa [doubleBooked, planUnits, modeSet] using h

end

/-- A MODE that is accepted on an ME that no op books leaves every core of the mask as `meClear` says. -/
theorem meMode_clears {s : State} {c : Fin 256} {w : Nat} (hw : slotBits (atIssue s c) c .me = w)
    (hc : canOp (settle s c) c .me 1 = true) (h5 : fld w 85 3 < 5) (h4 : fld w 85 3 = 4 → bitAt w 84 = false)
    (hb : ∀ k ∈ meCores (atIssue s c) c, bookedNow (atIssue s c) c k 0 = false) :
    Gives (.meMode c) s fun t => ∀ k ∈ meCores (atIssue s c) c,
      coreAt t k = meClear (coreAt (atIssue s c) k) (fld w 85 3) (bitAt w 84) := by
  have hp := mePlans_inr (plan := modePlan) (s := atIssue s c) (c := c) fun k _ => by rw [hw]; exact modePlan_clears h5 h4
  obtain ⟨-, hruns⟩ := meOp_runs (i := .meMode c) (plan := modePlan) rfl hc
  obtain ⟨-, hfree⟩ := hruns _ hp
  obtain ⟨-, hready⟩ := hfree (modeSet_free hb)
  obtain ⟨-, hclean⟩ := hready (by rw [← planReads_refs, modeSet_reads]; rfl)
  obtain ⟨-, t, ht, hpost, -⟩ := hclean (by rw [modeSet_reads]; rfl)
  exact ⟨t, ht, fun k hk => hpost _ (List.mem_map_of_mem hk) _ rfl⟩

/-- A reserved mode, and BF16 with unsigned activations, are a job fault with cause 3. -/
theorem meMode_refused {s : State} {c : Fin 256} {w : Nat} (hw : slotBits (atIssue s c) c .me = w)
    (hc : canOp (settle s c) c .me 1 = true) (h : 5 ≤ fld w 85 3 ∨ (fld w 85 3 = 4 ∧ bitAt w 84 = true))
    (hne : meCores (atIssue s c) c ≠ []) : exec (.meMode c) s = Host.Outcome.next (clusFault (atIssue s c) c 3) :=
  (meOp_runs (i := .meMode c) (plan := modePlan) rfl hc).1 3 (mePlans_inl (fun _ => by rw [hw]; exact modePlan_refused h) hne)

/-! ## The plans of CBOOK, LOADW and STREAM -/

section
variable {s : State} {c k w : Nat}

theorem rdBytes_singleton (x : Rd) : rdBytes s [x] = slotBytes (refData s x.r) x.off x.len := by simp [rdBytes]

theorem cbookPlan_refused (h : isTa (coreAt s k).mode = false) : cbookPlan s c k w = .inl 3 := if_pos (by rw [h]; rfl)

/-- In a TA mode the entry goes to every row of the shadow codebook, row l in cycle 2 + l (R110, R115). -/
theorem cbookPlan_rows {r : Ref} {l : Nat} (h : isTa (coreAt s k).mode = true)
    (hr : opSlots s c (k % 16) (fld w 64 24) 1 false = some [r]) (hl : l < 32) : ∃ p, cbookPlan s c k w = .inr p ∧
      (2 + l, .cbook k l (BitVec.ofNat 128 (leNat (slotBytes (refData s r) (16 * fld w 60 4) 16)))) ∈ p.effs := by
  have e : cbookPlan s c k w = _ := if_neg (by rw [h]; decide)
  rw [hr] at e
  refine ⟨_, e, List.mem_map.2 ⟨l, List.mem_range.2 hl, ?_⟩⟩
  rw [List.map_singleton, rdBytes_singleton]

theorem loadwPlan_run {l : List Ref} (h : opSlots s c (k % 16) (fld w 64 24) (meTileSlots (coreAt s k).mode) false = some l) :
    loadwPlan s c k w = .inr { runs := [{ kind := .loadw, core := k, start := (clu s c).icyc, bits := w, mode := (coreAt s k).mode
                                          src := keep l }] } := by
  rw [loadwPlan, h]

theorem streamItem_plain {r : OpRun} {b : Nat} {bs : List Byte} (h : proKind r.bits = 0) :
    streamItem s c r b bs = (actItem r.mode (coreAt s r.core).au bs 0, false, false) := if_pos h

/-- Without a prologue a STREAM leaves one run, which item 0 has entered as its codes (R108, R116). -/
theorem streamPlan_plain {p : Plan} {al : List Ref} (hp : streamPlan s c k w = .inr p) (h0 : proKind w = 0)
    (ha : opSlots s c (k % 16) (fld w 64 24) (cdiv (srNb w * (if (coreAt s k).mode = 4 then 64 else 32)) 256) false = some al) :
    ∃ ws, p.runs = [{ kind := .stream, core := k, start := (clu s c).icyc, bits := w, mode := (coreAt s k).mode, nb := srNb w, src := keep al
                      ws := ws
                      items := [(actItem (coreAt s k).mode (coreAt s k).au (rdBytes s [itemRd (coreAt s k).mode (keep al) 0]) 0, 0)] }] := by
  simp only [streamPlan, ha, h0, ne_eq, not_true_eq_false, false_and, if_false, or_false, Nat.reduceLeDiff] at hp
  split at hp
  · cases hp
  · split at hp
    next _ _ _ _ el _ hal _ _ =>
      cases hal
      cases hp
      exact ⟨(rdBytes s (el.map fun r => { r := r, len := srNb w })).map fun b => b.toNat, by simp [streamItem_plain, h0]⟩
    next => cases hp
    next => cases hp

end

/-! ## Reads and effects of a run -/

section
variable {s t : State} {c k : Nat} {r : OpRun}

theorem mem_addEffs {l : List (Nat × Eff)} {p : Nat × Eff} : p ∈ (clu (addEffs s c l) c).effs ↔ p ∈ (clu s c).effs ∨ p ∈ l := by
  unfold addEffs
  split
  next h => simp [h]
  next => simp

theorem coreAt_addEffs {l : List (Nat × Eff)} : coreAt (addEffs s c l) k = coreAt s k := by
  unfold addEffs
  split <;> rfl

theorem coreAt_of_cores (h : t.cores = s.cores) : coreAt t k = coreAt s k := by rw [coreAt, h, coreAt]

/-- A read of a slot that is FULL and holds no uncorrectable word gives its bytes and leaves the engines alone (R255, R266). -/
theorem runRead_bytes {x : Rd} (hw : waitRead s [x.r] = none) (hb : rdBad s x = []) :
    ∃ t, runRead s c [x] = .bytes t (rdBytes s [x]) ∧ t.cores = s.cores := by
  refine ⟨noteRemote (chargePort (readAll s [x]) c [x]) c (remoteCyc c 1 [x.r]) [x.r], ?_, ?_⟩
  · simp [runRead, hw, hb]
  · rw [(noteRemote_run c _ _).2, chargePort_cores, (readAll_sameRun _).1]

end

/-! ## ME.LOADW in flight (R110, R114; 09 R261) -/

section
variable {t : State} {c room : Nat} {r : OpRun}

/-- The run of an ME.LOADW once the slot it is at has crossed the port. -/
def loadwCrossed (t : State) (r : OpRun) : OpRun :=
  { r with
    got := r.got ++ slotBytes (refData t (loadwAt r)) 0 256, part := 0
    next := if (r.got ++ slotBytes (refData t (loadwAt r)) 0 256).length / 256 < r.src.length then r.next else 0 }

/-- A FULL slot whose rest fits the room crosses the port, and the rows then complete are in flight. -/
theorem loadwMove_crosses (hn : r.next ≠ 0) (hfit : 256 - r.part ≤ room) (hroom : 0 < room) (hfull : refFull t (loadwAt r) = true)
    (hbad : rdBad t { r := loadwAt r } = []) : loadwMove t c r room =
      (addEffs (noteRemote (readAll t [{ r := loadwAt r }]) c (remoteCyc c 1 [loadwAt r]) [loadwAt r]) c
        (loadwRows (loadwCrossed t r) r.got.length), loadwCrossed t r, room - (256 - r.part)) := by
  unfold loadwMove
  dsimp only
  rw [if_neg (by simp [hn, hroom.ne', hfull]), Nat.min_eq_right hfit, if_neg (by omega), if_neg (by simp [hbad])]
  rfl

theorem mem_loadwRows {old k : Nat} (hk : k < 32) (hold : old < meRowW r.mode * (k + 1)) (hgot : meRowW r.mode * (k + 1) ≤ r.got.length) :
    (r.start + 6 + k, .wrow r.core k (BitVec.ofNat 512 (leNat ((r.got.drop (meRowW r.mode * k)).take (meRowW r.mode))))) ∈
      loadwRows r old :=
  List.mem_map.2 ⟨k, List.mem_filter.2 ⟨List.mem_range.2 hk, by simp [hold, hgot]⟩, rfl⟩

end

/-! ## ME.STREAM in flight (R108, R109, R116-R121) -/

section
variable {t : State} {c b k : Nat} {r : OpRun}

theorem itemStep_pos (m : Nat) : 0 < itemStep m := by unfold itemStep; split <;> decide

/-- What a cycle does after its item leaves the items as they are. -/
theorem streamOn_items : ∃ t' r', streamOn t c r = .on t' r' ∧ r'.items = r.items := by
  unfold streamOn
  dsimp only
  split
  · split <;> exact ⟨_, _, rfl, rfl⟩
  · exact ⟨_, _, rfl, rfl⟩

/-- In item step b item b enters as its codes, where the STREAM has no prologue. -/
theorem streamStep_item (hn : r.next = itemStep r.mode * b) (hb : b < r.nb) (h0 : proKind r.bits = 0)
    (hw : waitRead t [(itemRd r.mode r.src b).r] = none) (hbad : rdBad t (itemRd r.mode r.src b) = []) :
    ∃ t' r', streamStep t c r = .on t' r' ∧
      r'.items = r.items ++ [(actItem r.mode (coreAt t r.core).au (rdBytes t [itemRd r.mode r.src b]) 0, 0)] := by
  obtain ⟨u, hread, hcores⟩ := runRead_bytes (c := c) hw hbad
  have hdiv : r.next / itemStep r.mode = b := by rw [hn, Nat.mul_div_cancel_left b (itemStep_pos _)]
  have hmod : r.next % itemStep r.mode = 0 := by rw [hn, Nat.mul_mod_right]
  unfold streamStep
  dsimp only
  rw [hdiv, if_pos (by simp [hmod, hb]), hread, Got.andThen, streamItem_plain h0, coreAt_of_cores hcores]
  exact streamOn_items

/-- The run once item 0 has met row k. -/
def streamMet (t : State) (r : OpRun) (k : Nat) : OpRun := { r with rows := r.rows ++ [streamRow t r k] }

/-- The state once item 0 has met row k: the exchange of the row is in flight where the STREAM makes it. -/
def streamSwapped (t : State) (c : Nat) (r : OpRun) (k : Nat) : State :=
  if srSwap r.bits then addEffs t c [(r.start + r.next, .swapRow r.core k)] else t

theorem streamOn_meets (hn : r.next = 1 + itemStep r.mode * k) (hk : k < 32) : streamOn t c r =
    if k = 31 then .on (addEffs (streamSwapped t c r k) c (streamSums (streamMet t r k))) { streamMet t r k with next := 0 }
    else .on (streamSwapped t c r k) { streamMet t r k with next := r.next + 1 } := by
  have hpred : r.next - 1 = itemStep r.mode * k := by omega
  unfold streamOn
  dsimp only
  rw [hpred, Nat.mul_div_cancel_left k (itemStep_pos _), if_pos (by simp [hk])]
  rfl

theorem mem_streamSwapped (h : srSwap r.bits = true) :
    (r.start + r.next, .swapRow r.core k) ∈ (clu (streamSwapped t c r k) c).effs := by
  rw [streamSwapped, if_pos h, mem_addEffs]
  exact .inr List.mem_cons_self

theorem nth_map_range {α : Type} {d : α} {f : Nat → α} {m n : Nat} (h : n < m) : nth d ((List.range m).map f) n = f n := by
  simp [nth, h]

/-- The sums of every item by the rows met go to the bank, item b an item step after the one before (R108, R121). -/
theorem mem_streamSums {l : List Int × Int} (h : r.items[b]? = some l) :
    (r.start + bankAt r.mode + itemStep r.mode * b,
      .bankAdd r.core (srBank r.bits) b ((List.range (meCols r.mode)).map fun n => colSum r.mode l.1 r.rows n) (srAcc r.bits)
        (decide (r.mode = 4))) ∈ streamSums r :=
  List.mem_append_right _ (List.mem_map.2 ⟨(l, b), List.mem_zipIdx_iff_getElem?.2 h, rfl⟩)

/-- In the cycle after item step k item 0 meets row k; with the last row the sums of the items are in flight. -/
theorem streamOn_row (hn : r.next = 1 + itemStep r.mode * k) (hk : k < 32) :
    ∃ t' r', streamOn t c r = .on t' r' ∧ r'.rows = r.rows ++ [streamRow t r k] ∧
      (srSwap r.bits = true → (r.start + r.next, .swapRow r.core k) ∈ (clu t' c).effs) ∧
      (k = 31 → ∀ b l, r.items[b]? = some l → ∃ v : List Nat,
        (r.start + bankAt r.mode + itemStep r.mode * b, .bankAdd r.core (srBank r.bits) b v (srAcc r.bits) (decide (r.mode = 4))) ∈
          (clu t' c).effs ∧ ∀ n, n < meCols r.mode → nth 0 v n = colSum r.mode l.1 r'.rows n) := by
  rw [streamOn_meets hn hk]
  by_cases h31 : k = 31
  · rw [if_pos h31]
    exact ⟨_, _, rfl, rfl, fun hs => mem_addEffs.2 (.inl (mem_streamSwapped hs)), fun _ _ _ hb =>
      ⟨_, mem_addEffs.2 (.inr (mem_streamSums (r := streamMet t r k) hb)), fun _ hm => nth_map_range hm⟩⟩
  · rw [if_neg h31]
    exact ⟨_, _, rfl, rfl, mem_streamSwapped, fun h => absurd h h31⟩

end

/-! ## ME.DRAIN in flight (R111, R128) -/

/-- Without GP the epilogue puts the writes of the output block in flight. -/
theorem drainOut_writes {t : State} {c : Nat} {r : OpRun} (h : bitAt r.bits 36 = false) : ∃ t' r', drainOut t c r = .on t' r' ∧
    ∀ p ∈ drainWrites r ((List.range r.nb).map fun b => drainItem (coreAt t r.core) r b), p ∈ (clu t' c).effs := by
  refine ⟨_, _, rfl, fun p hp => mem_addEffs.2 (.inr ?_)⟩
  rw [h]
  exact List.mem_append_left _ (List.mem_append_left _ hp)

/-- Settles O27: the ops run by the plans of their cores, and each plan and each later cycle of a run by the equation of its case. -/
theorem matrixEngineOpsRun : Obligations.MatrixEngineOpsRun := by
  refine ⟨fun s c => ?_, fun t c r => ⟨?_, fun _ => streamStep_item, fun _ => streamOn_row, fun hk hn hg => ?_⟩⟩
  · intro u w plansOf
    refine ⟨fun h => ⟨fun h5 h4 hb => ?_, meMode_refused rfl h⟩, meOp_runs rfl, meOp_runs rfl, meOp_runs rfl, meOp_runs rfl, meOp_runs rfl,
      fun k _ => ⟨cbookPlan_refused, fun _ _ => cbookPlan_rows, fun _ hl => ⟨_, loadwPlan_run hl, List.mem_cons_self⟩,
        fun p al hp h0 ha => ?_⟩⟩
    · obtain ⟨t, ht, hcore⟩ := meMode_clears rfl h h5 h4 hb
      exact ⟨t, ht, fun k hk => by rw [hcore k hk]; exact ⟨rfl, rfl, rfl, rfl, rfl⟩⟩
    · obtain ⟨_, hruns⟩ := streamPlan_plain hp h0 ha
      exact ⟨_, hruns, rfl, rfl, rfl, rfl, rfl, rfl, rfl, rfl, rfl, rfl⟩
  · intro room hn hfit hroom hfull hbad
    rw [loadwMove_crosses hn hfit hroom hfull hbad]
    exact ⟨rfl, rfl, fun k hk hold hgot => mem_addEffs.2 (.inr (mem_loadwRows (r := loadwCrossed t r) hk hold hgot))⟩
  · have hstep : runStep t c r = drainOut t c r := by
      rw [runStep, hk]
      exact if_neg hn
    rw [hstep]
    exact drainOut_writes hg

end Sys2Proof.Machine
end

section
/-!
SUPPORT. The vector engine: how its ops issue on the cores of the VE mask (03_tick_programs R80), and the elements of its registers and masks
(06_vector_gate_fusion R157).
-/
namespace Sys2Proof.Machine

set_option Elab.async false

/-! ## Issue -/

/-- An op that leaves more leaves less. -/
theorem OpLeaves.mono {i : Instr} {s : State} {c : Nat} {us : USlot} {l m : List (Nat × Eff)} (h : OpLeaves i s c us l)
    (hm : ∀ p ∈ m, p ∈ l) : OpLeaves i s c us m := by
  obtain ⟨t, ht, hdid, heffs⟩ := h
  exact ⟨t, ht, hdid, fun p hp => heffs p (hm p hp)⟩

/-- Where some core's op is refused, and every refusal has the one cause, the op is refused with it. -/
theorem plans_refused {cause : Nat} {l : List (Nat × Sum Nat Plan)} (hall : ∀ p ∈ l, ∀ k, p.2 = .inl k → k = cause)
    (hex : ∃ p ∈ l, p.2 = .inl cause) : plans l = .inl cause := by
  induction l with
  | nil => simp at hex
  | cons p l ih =>
    obtain ⟨core, k | q⟩ := p
    · rw [plans_inl, hall _ List.mem_cons_self k rfl]
    · have hl : plans l = .inl cause := ih (fun p hp => hall p (List.mem_cons_of_mem _ hp)) (by simpa using hex)
      simp only [plans, List.foldr_cons] at hl ⊢
      rw [hl]

/-- The plan of a VE op on one core, from the bits of its slot and the immediate. -/
abbrev vePlan (plan : State → Nat → Nat → Nat → Nat → Sum Nat Plan) (s : State) (c k : Nat) : Sum Nat Plan :=
  plan s c k (slotBits s c .ve) (bImm (curBundle s c))

/-- The plans of a VE op, core by core of its mask. -/
def vePlans (plan : State → Nat → Nat → Nat → Nat → Sum Nat Plan) (s : State) (c : Nat) : List (Nat × Sum Nat Plan) :=
  (veCores s c).map fun k => (k, vePlan plan s c k)

theorem veCores_nodup {s : State} {c : Nat} : (veCores s c).Nodup := (maskCores_nodup _).map fun _ _ h => Nat.add_left_cancel h

theorem vePlans_keys {plan : State → Nat → Nat → Nat → Nat → Sum Nat Plan} {s : State} {c : Nat} :
    (vePlans plan s c).map Prod.fst = veCores s c := by simp [vePlans, Function.comp_def]

theorem veReady_iff {s : State} {c opc : Nat} : veReady s c opc = true ↔
    canOp (settle s c) c .ve opc = true ∧ ∀ k ∈ veCores (atIssue s c) c, bookedNow (atIssue s c) c k 1 = false := by
  simp [veReady]

/-- An op of the VE books only the VE of its cores. -/
theorem ve_free {s : State} {c : Nat} {ps : List (Nat × Plan)} (h : ∀ p ∈ ps, bookedNow s c p.1 1 = false) :
    doubleBooked s c .ve ps = false := by simpa [doubleBooked, planUnits] using h

section
variable {s : State} {c opc : Nat} {i : Instr} {plan : State → Nat → Nat → Nat → Nat → Sum Nat Plan}

theorem veOp_due (h : canOp (settle s c) c .ve opc = true) :
    veOp c opc plan s = runPlans (atIssue s c) c .ve (vePlans plan (atIssue s c) c) := runOp_due h

/-- A VE op that is the one to issue runs by the plans of its cores (R80). -/
theorem veOp_runs (hi : exec i s = .next (veOp c opc plan s)) (h : canOp (settle s c) c .ve opc = true) :
    OpRuns i s c .ve (vePlans plan (atIssue s c) c) :=
  opRuns_of (hi.trans (congrArg Host.Outcome.next (veOp_due h))) (vePlans_keys ▸ veCores_nodup)

/-- A VE op that one of its cores refuses is a job fault with the cause, when no core has another. -/
theorem veOp_refused {cause k : Nat} (hi : exec i s = .next (veOp c opc plan s)) (h : canOp (settle s c) c .ve opc = true)
    (hall : ∀ k x, vePlan plan (atIssue s c) c k = .inl x → x = cause) (hk : k ∈ veCores (atIssue s c) c)
    (hp : vePlan plan (atIssue s c) c k = .inl cause) : exec i s = .next (clusFault (atIssue s c) c cause) :=
  (veOp_runs hi h).1 cause (plans_refused (fun _ hm => by
    obtain ⟨k, -, rfl⟩ := List.mem_map.1 hm
    exact hall k) ⟨_, List.mem_map_of_mem hk, hp⟩)

/-- A VE op with a reserved field, which every core refuses, is a job fault with cause 3 (R477). -/
theorem veOp_reserved (hi : exec i s = .next (veOp c opc plan s)) (h : canOp (settle s c) c .ve opc = true)
    (hp : ∀ k, vePlan plan (atIssue s c) c k = .inl 3) (hne : veCores (atIssue s c) c ≠ []) :
    exec i s = .next (clusFault (atIssue s c) c 3) := by
  obtain ⟨k, hk⟩ := List.exists_mem_of_ne_nil _ hne
  exact veOp_refused hi h (fun k x hx => Sum.inl.inj (hx.symm.trans (hp k))) hk (hp k)

variable {g : Nat → Plan}

/-- Plans that no core's op is refused with. -/
theorem vePlans_inr (hp : ∀ k, vePlan plan s c k = .inr (g k)) :
    plans (vePlans plan s c) = .inr ((veCores s c).map fun k => (k, g k)) := by
  rw [vePlans, List.map_congr_left fun k _ => congrArg (Prod.mk k) (hp k)]
  simpa [Function.comp_def] using plans_inr ((veCores s c).map fun k => (k, g k))

/-- A VE op that reads no slot, once it is the one to issue on VEs that no op books: each core's effects and flags are in flight, its
engines stand as its plan says, and its later reads wait for their cycles. -/
theorem veOp_done (hi : exec i s = .next (veOp c opc plan s)) (h : veReady s c opc = true)
    (hp : ∀ k, vePlan plan (atIssue s c) c k = .inr (g k)) (hr : ∀ k, (g k).reads = []) :
    (∀ k ∈ veCores (atIssue s c) c, OpLeaves i s c .ve ((g k).effs ++ flagEff 0 k (g k).sOf (g k).sNv)) ∧
    Gives i s fun t => ∀ k ∈ veCores (atIssue s c) c,
      (∀ x ∈ (g k).post.head?, coreAt t k = x) ∧ ∀ r ∈ (g k).runs, r ∈ (clu t c).runs := by
  obtain ⟨hc, hb⟩ := veReady_iff.1 h
  obtain ⟨-, hruns⟩ := veOp_runs hi hc
  obtain ⟨-, hfree⟩ := hruns _ (vePlans_inr hp)
  obtain ⟨-, hready⟩ := hfree (ve_free (by simpa using hb))
  obtain ⟨-, hclean⟩ := hready (by simp [hr, waitRead])
  obtain ⟨hleaves, t, ht, hpost, hrun⟩ := hclean (by simp [hr])
  refine ⟨fun k hk => hleaves.mono fun p hm => List.mem_flatMap.2 ⟨_, List.mem_map_of_mem hk, hm⟩, t, ht, fun k hk => ⟨?_, ?_⟩⟩
  · exact hpost _ (List.mem_map_of_mem hk)
  · exact fun r hm => hrun r (List.mem_flatMap.2 ⟨_, List.mem_map_of_mem hk, hm⟩)

/-- The writes that a VE op leaves in flight, core by core, once it is the one to issue on VEs that no op books. -/
theorem veOp_writes {l : Nat → List (Nat × Eff)} (hi : exec i s = .next (veOp c opc plan s)) (h : veReady s c opc = true)
    (hp : ∀ k, ∃ p, vePlan plan (atIssue s c) c k = .inr p ∧ p.reads = [] ∧ p.effs = l k) :
    ∀ k ∈ veCores (atIssue s c) c, OpLeaves i s c .ve (l k) := by
  choose g hg hr hl using hp
  exact fun k hk => ((veOp_done hi h hg hr).1 k hk).mono fun p hm => List.mem_append_left _ ((hl k).symm ▸ hm)

variable {lat : Nat} {arith : Bool} {r : Nat → List Nat}

/-- An element-wise op leaves its write in flight after its latency (R161). -/
theorem elemOp_writes (hi : exec i s = .next (veOp c opc plan s)) (h : veReady s c opc = true) :
    let u := atIssue s c
    let w := slotBits u c .ve
    (∀ k, vePlan plan u c k = elemPlan (coreAt u k) k w lat arith (r k)) →
      ∀ k ∈ veCores u c, OpLeaves i s c .ve [(lat - 1, veWrite (coreAt u k) k w (r k))] :=
  fun hp => veOp_writes hi h fun k => ⟨_, hp k, rfl, rfl⟩

/-- An arithmetic op on F32 with a live result that is infinite or a NaN leaves the setting of its flags in flight for the issue cycle
(R162). -/
theorem elemOp_flags (hi : exec i s = .next (veOp c opc plan s)) (h : veReady s c opc = true) :
    let u := atIssue s c
    let w := slotBits u c .ve
    (∀ k, vePlan plan u c k = elemPlan (coreAt u k) k w lat true (r k)) → ∀ k ∈ veCores u c, veTY w = 0 →
      (anyLive (coreAt u k) w (r k) isInf || anyLive (coreAt u k) w (r k) isNan) = true →
      OpLeaves i s c .ve [(0, .flags k (anyLive (coreAt u k) w (r k) isInf) (anyLive (coreAt u k) w (r k) isNan))] := by
  intro u w hp k hk h0 hf
  refine ((veOp_done hi h hp fun _ => rfl).1 k hk).mono fun p hm => List.mem_append_right _ ?_
  simpa [flagEff, h0, hf] using hm

end

/-! ## Elements of registers (R157) -/

theorem getElem?_eq_nth {α : Type} {d : α} {l : List α} {i : Nat} (h : i < l.length) : l[i]? = some (nth d l i) := by simp [nth, h]

section
variable {x : Core} {w imm i : Nat}

@[simp] theorem elems_length (ty : Nat) (v : VReg) : (elems ty v).length = tyN ty := by simp [elems]
@[simp] theorem vA_length : (vA x w).length = tyN (veTY w) := elems_length _ _
@[simp] theorem vB_length : (vB x w imm).length = tyN (veTY w) := by unfold vB; split <;> simp
@[simp] theorem vC_length : (vC x w).length = tyN (veTY w) := elems_length _ _

theorem nth_elems_lt (ty : Nat) (v : VReg) : nth 0 (elems ty v) i < 2 ^ tyW ty := by
  by_cases h : i < tyN ty
  · rw [elems, nth_map_range h]
    exact Nat.mod_lt _ (Nat.two_pow_pos _)
  · simp [nth, h]

theorem nth_vA_lt : nth 0 (vA x w) i < 2 ^ tyW (veTY w) := nth_elems_lt _ _

theorem tyW_le (ty : Nat) : tyW ty ≤ 32 := by unfold tyW; split <;> decide

/-- Every element of an F32 or I32 register has 32 bits (R157). -/
theorem tyW_word {ty : Nat} (h : ty < 2) : tyW ty = 32 := if_neg (by omega)
theorem tyN_word {ty : Nat} (h : ty < 2) : tyN ty = 32 := if_neg (by omega)

theorem zip_map_get {α : Type} {l m : List Nat} (f : Nat × Nat → α) (hl : i < l.length) (hm : i < m.length) :
    ((l.zip m).map f)[i]? = some (f (nth 0 l i, nth 0 m i)) := by
  simp [List.getElem?_zip_eq_some, getElem?_eq_nth (d := 0) hl, getElem?_eq_nth (d := 0) hm]

theorem zip2_get (f : Nat → Nat → Nat) (h : i < tyN (veTY w)) :
    (zip2 x w imm f)[i]? = some (f (nth 0 (vA x w) i) (nth 0 (vB x w imm) i)) := zip_map_get _ (by simpa) (by simpa)

@[simp] theorem zip2_length (f : Nat → Nat → Nat) : (zip2 x w imm f).length = tyN (veTY w) := by simp [zip2]

theorem nth_zip2 (f : Nat → Nat → Nat) (h : i < tyN (veTY w)) :
    nth 0 (zip2 x w imm f) i = f (nth 0 (vA x w) i) (nth 0 (vB x w imm) i) := by rw [nth, zip2_get f h]; rfl

/-- Two numbers kept as one are taken apart again. -/
theorem pair_split {a b m : Nat} (h : a < m) : (a + m * b) % m = a ∧ (a + m * b) / m = b := by
  rw [Nat.add_mul_mod_self_left, Nat.mod_eq_of_lt h, Nat.add_mul_div_left _ _ (by omega), Nat.div_eq_of_lt h, Nat.zero_add]
  exact ⟨rfl, rfl⟩

/-! ## Masks (R157) -/

theorem mreg_lt (mk : Nat) : mreg x mk < 2 ^ 64 := by
  unfold mreg
  split
  · decide
  · exact BitVec.isLt _

/-- Only the 64 elements that a mask register has a bit for can be live. -/
theorem live_lt {mk ty : Nat} (h : live x mk ty i = true) : i < 64 := by
  by_contra hi
  have hbit : bitAt (mreg x mk) i = false :=
    Nat.testBit_lt_two_pow ((mreg_lt mk).trans_le (Nat.pow_le_pow_right (by decide) (by omega)))
  simp [live, hbit] at h

/-- The bits of numbers of one bit side by side. -/
theorem bitAt_packW (l : List Nat) : bitAt (packW 1 l) i = bitAt (nth 0 l i) 0 := by
  unfold bitAt
  induction l generalizing i with
  | nil => simp [packW, nth]
  | cons v l ih =>
    have e : packW 1 (v :: l) = v % 2 + 2 * packW 1 l := rfl
    cases i with
    | zero =>
      have hv : (packW 1 (v :: l)) % 2 = v % 2 := by omega
      simp [Nat.testBit_zero, hv, nth]
    | succ i =>
      have hd : packW 1 (v :: l) / 2 = packW 1 l := by omega
      rw [Nat.testBit_succ, hd, ih]
      rfl

@[simp] theorem bitAt_b2n (b : Bool) : bitAt (b2n b) 0 = b := by cases b <;> rfl

theorem bitAt_packRange {n : Nat} (f : Nat → Nat) (h : i < n) : bitAt (packW 1 ((List.range n).map f)) i = bitAt (f i) 0 := by
  rw [bitAt_packW, nth_map_range h]

end

end Sys2Proof.Machine
end

section
/-!
PROOFS. What each op of the vector engine leaves in flight, what it faults on, and how GP.CHAIN issues (06_vector_gate_fusion R161-R171, R189,
R477; 03_tick_programs R96).
-/
namespace Sys2Proof.Machine

set_option Elab.async false

/-! ## VSETVL, VMOV, VBCAST, VSEL and VCMP (R157, R161) -/

section
variable {x : Core} {w imm i : Nat}

/-- The elements that a VSEL leaves. -/
def selEls (x : Core) (w imm : Nat) : List Nat :=
  (zip2 x w imm fun a b => a + 2 ^ 64 * b).zipIdx.map fun p => if bitAt (mreg x (veMK w)) p.2 then p.1 % 2 ^ 64 else p.1 / 2 ^ 64

theorem vselPlan_writes {s : State} {c k : Nat} : vselPlan s c k w imm = .inr {
    effs := [(1, regWrite k (veVD w) 0 (tyW (veTY w)) (selEls (coreAt s k) w imm) (fun i => decide (i < veLen (coreAt s k) (veTY w)))
      fun _ => false)] } := rfl

theorem selEls_get (h : i < tyN (veTY w)) :
    (selEls x w imm)[i]? = if bitAt (mreg x (veMK w)) i then (vA x w)[i]? else (vB x w imm)[i]? := by
  have ha : nth 0 (vA x w) i < 2 ^ 64 := nth_vA_lt.trans_le (Nat.pow_le_pow_right (by decide) ((tyW_le _).trans (by decide)))
  obtain ⟨hmod, hdiv⟩ := pair_split (b := nth 0 (vB x w imm) i) ha
  rw [selEls, List.getElem?_map, List.getElem?_zipIdx, zip2_get _ h, getElem?_eq_nth (d := 0) (l := vA x w) (by simpa using h),
    getElem?_eq_nth (d := 0) (l := vB x w imm) (by simpa using h)]
  simp only [Option.map_some, Nat.zero_add, hmod, hdiv, apply_ite some]

/-- The bits of the mask register that a VCMP writes, and the truth of its comparison in them. -/
def cmpMask (x : Core) (w : Nat) : BitVec 64 :=
  BitVec.ofNat 64 (packW 1 ((List.range 64).map fun i => b2n (live x (veMK w) (veTY w) i || veMZ w)))
def cmpBits (x : Core) (w imm : Nat) : BitVec 64 :=
  BitVec.ofNat 64 (packW 1 ((List.range 64).map fun i => if live x (veMK w) (veTY w) i then
    nth 0 (zip2 x w imm fun a b => b2n (ccHolds (fld w 57 3) (cmpEl (veTY w) a b))) i else 0))

theorem vcmpPlan_writes {s : State} {c k : Nat} (h : fld w 57 3 ≤ 5) : vcmpPlan s c k w imm =
    .inr { effs := [(lat42 w - 1, .mreg k (fld w 54 3) (cmpMask (coreAt s k) w) (cmpBits (coreAt s k) w imm))] } := if_neg (by omega)

theorem cmpMask_bit (h : live x (veMK w) (veTY w) i = true) : (cmpMask x w).getLsbD i = true := by
  have h64 := live_lt h
  rw [cmpMask, BitVec.getLsbD_ofNat, ← bitAt, bitAt_packRange _ h64, h]
  simp [h64]

theorem cmpBits_bit (h : live x (veMK w) (veTY w) i = true) (hn : i < tyN (veTY w)) :
    (cmpBits x w imm).getLsbD i = ccHolds (fld w 57 3) (cmpEl (veTY w) (nth 0 (vA x w) i) (nth 0 (vB x w imm) i)) := by
  have h64 := live_lt h
  rw [cmpBits, BitVec.getLsbD_ofNat, ← bitAt, bitAt_packRange _ h64, h, if_pos rfl, nth_zip2 _ hn, bitAt_b2n]
  simp [h64]

theorem vbcastPlan_fills {s : State} {c k : Nat} (h : fld w 54 6 < tyN (veTY w)) : vbcastPlan s c k w imm =
    elemPlan (coreAt s k) k w 2 false (List.replicate (tyN (veTY w)) (nth 0 (vA (coreAt s k) w) (fld w 54 6))) := if_neg (by omega)

end

/-- Settles O21: each op by what its plan leaves, element by element. -/
theorem vectorMovesAndMasksWriteTheirResult : Obligations.VectorMovesAndMasksWriteTheirResult := by
  intro s c u w imm
  refine ⟨fun h => ?_, fun h => elemOp_writes (lat := 2) rfl h fun _ => rfl,
    fun h hlt => elemOp_writes (lat := 2) rfl h fun _ => vbcastPlan_fills hlt,
    fun h hge => veOp_reserved rfl h fun _ => if_pos hge, fun h k hk => ?_, fun h hcc k hk => ?_,
    fun h hcc => veOp_reserved rfl h fun _ => if_pos hcc⟩
  · obtain ⟨-, t, ht, hpost⟩ := veOp_done (i := .vsetvl c) (plan := vsetvlPlan) rfl h (fun _ => rfl) fun _ => rfl
    refine ⟨t, ht, fun k hk => ?_⟩
    rw [(hpost k hk).1 _ rfl]
  · exact ⟨selEls (coreAt u k) w imm, veOp_writes rfl h (fun _ => ⟨_, vselPlan_writes, rfl, rfl⟩) k hk, fun _ => selEls_get⟩
  · exact ⟨cmpMask (coreAt u k) w, cmpBits (coreAt u k) w imm,
      veOp_writes rfl h (fun _ => ⟨_, vcmpPlan_writes hcc, rfl, rfl⟩) k hk, fun i hn hl => ⟨cmpMask_bit hl, cmpBits_bit hl hn⟩⟩

/-! ## Arithmetic, and the flags it sets (R161, R162, R170) -/

/-- A flag setting sets the flags named and clears none. -/
theorem rb_setFlags (s : State) (k : Nat) (fo fn : Bool) :
    rb (setFlags s k fo fn) (flagReg k) 1 = (rb s (flagReg k) 1 || fo) ∧
      rb (setFlags s k fo fn) (flagReg k) 0 = (rb s (flagReg k) 0 || fn) := by
  by_cases h : (fo || fn) = true
  · have e : setFlags s k fo fn = wrN s (flagReg k) (Nat.lor (rdN s (flagReg k)) (2 * b2n fo + b2n fn)) := if_pos h
    rw [e, rb_wrN_same _ _ _ _ (by decide), rb_wrN_same _ _ _ _ (by decide), bitAt_lor, bitAt_lor]
    cases fo <;> cases fn <;> exact ⟨rfl, rfl⟩
  · have e : setFlags s k fo fn = s := if_neg h
    obtain ⟨rfl, rfl⟩ : fo = false ∧ fn = false := by simpa using h
    simp [e]

section
variable {x : Core} {w imm i : Nat}

/-- The elements that a VFMA leaves. -/
def fmaEls (x : Core) (w imm : Nat) : List Nat :=
  ((zip2 x w imm fun a b => a + 2 ^ 32 * b).zip (vC x w)).map fun p =>
    if veTY w = 0 then f32Fma (p.1 % 2 ^ 32) (p.1 / 2 ^ 32) p.2 else lowBits 32 (sx 32 (p.1 % 2 ^ 32) * sx 32 (p.1 / 2 ^ 32) + sx 32 p.2)

theorem nth_fmaEls (hi : i < 32) (ht : veTY w < 2) : nth 0 (fmaEls x w imm) i =
    if veTY w = 0 then f32Fma (nth 0 (vA x w) i) (nth 0 (vB x w imm) i) (nth 0 (vC x w) i)
    else lowBits 32 (sx 32 (nth 0 (vA x w) i) * sx 32 (nth 0 (vB x w imm) i) + sx 32 (nth 0 (vC x w) i)) := by
  have hn : i < tyN (veTY w) := by rwa [tyN_word ht]
  have ha : nth 0 (vA x w) i < 2 ^ 32 := tyW_word ht ▸ nth_vA_lt
  obtain ⟨hmod, hdiv⟩ := pair_split (b := nth 0 (vB x w imm) i) ha
  rw [nth, fmaEls, zip_map_get _ (by simpa) (by simpa), Option.getD_some, nth_zip2 _ hn, hmod, hdiv]

end

section
variable {s : State} {c opc : Nat} {i : Instr}

theorem arithPlan_writes (g : Nat → Nat → Nat) (f : Int → Int → Int) (k w imm : Nat) :
    arithPlan g f s c k w imm = elemPlan (coreAt s k) k w (lat42 w) true (zip2 (coreAt s k) w imm (tyOp w g f)) := rfl

theorem bitPlan_writes (f : Nat → Nat → Nat → Nat) (k w imm : Nat) :
    bitPlan f s c k w imm = elemPlan (coreAt s k) k w 2 false (zip2 (coreAt s k) w imm (f (tyW (veTY w)))) := rfl

theorem arithOp_writes {g : Nat → Nat → Nat} {f : Int → Int → Int} (hi : exec i s = .next (veOp c opc (arithPlan g f) s))
    (h : veReady s c opc = true) : ∀ k ∈ veCores (atIssue s c) c,
    let w := slotBits (atIssue s c) c .ve
    let x := coreAt (atIssue s c) k
    let r := zip2 x w (bImm (curBundle (atIssue s c) c)) (tyOp w g f)
    OpLeaves i s c .ve [(lat42 w - 1, veWrite x k w r)] ∧ (veTY w = 0 → (anyLive x w r isInf || anyLive x w r isNan) = true →
      OpLeaves i s c .ve [(0, .flags k (anyLive x w r isInf) (anyLive x w r isNan))]) :=
  fun k hk => ⟨elemOp_writes hi h (fun k => arithPlan_writes g f k _ _) k hk,
    elemOp_flags hi h (fun k => arithPlan_writes g f k _ _) k hk⟩

end

section
variable {s : State} {c k w imm : Nat}

theorem vfmaPlan_writes : vfmaPlan s c k w imm =
    elemPlan (coreAt s k) k w (if veTY w = 0 then 5 else 3) true (fmaEls (coreAt s k) w imm) := rfl

theorem unPlan_writes (lat : Nat → Nat) (g : Nat → Nat) (f : Int → Int) : unPlan lat g f s c k w imm =
    elemPlan (coreAt s k) k w (lat w) true ((vA (coreAt s k) w).map fun a =>
      if veTY w = 0 then g a else lowBits (tyW (veTY w)) (f (sx (tyW (veTY w)) a))) := rfl

end

/-- Settles O22: every op by its element-wise plan, with the flags of its live results. -/
theorem vectorArithmeticWritesAndFlags : Obligations.VectorArithmeticWritesAndFlags := by
  intro s c u w imm
  refine ⟨fun q hq h => ?_, fun t k fo fn => rb_setFlags t k fo fn, fun h k hk => ⟨fmaEls (coreAt u k) w imm,
    elemOp_writes rfl h (fun _ => vfmaPlan_writes) k hk, elemOp_flags rfl h (fun _ => vfmaPlan_writes) k hk,
    fun i => nth_fmaEls⟩, fun q hq h => ?_⟩
  · have hi : exec q.2.1 s = .next (veOp c q.1 (arithPlan q.2.2.1 q.2.2.2) s) := by
      simp only [List.mem_cons, List.not_mem_nil, or_false] at hq
      rcases hq with rfl | rfl | rfl | rfl | rfl <;> rfl
    exact arithOp_writes hi h
  · have hi : exec q.2.1 s = .next (veOp c q.1 (unPlan lat42 q.2.2.1 q.2.2.2) s) := by
      simp only [List.mem_cons, List.not_mem_nil, or_false] at hq
      rcases hq with rfl | rfl <;> rfl
    exact elemOp_writes hi h fun _ => unPlan_writes _ _ _

/-- Settles O23: every op by its element-wise plan. -/
theorem vectorBitOpsAndShifts : Obligations.VectorBitOpsAndShifts := by
  intro s c u w imm n q hq h
  obtain ⟨f, hi, hf⟩ : ∃ f, exec q.2.1 s = .next (veOp c q.1 (bitPlan f) s) ∧ f n = q.2.2 := by
    simp only [List.mem_cons, List.not_mem_nil, or_false] at hq
    rcases hq with rfl | rfl | rfl | rfl | rfl | rfl <;> exact ⟨_, rfl, rfl⟩
  exact hf ▸ elemOp_writes (lat := 2) hi h fun _ => bitPlan_writes _ _ _ _

/-! ## Functions, reductions and tiles (R161, R166-R168) -/

section
variable {s : State} {c k w imm : Nat}

theorem unPlan_f32 {lat : Nat → Nat} {g : Nat → Nat} {f : Int → Int} (h : veTY w = 0) : unPlan lat g f s c k w imm =
    elemPlan (coreAt s k) k w (lat w) true ((vA (coreAt s k) w).map g) := by simp [unPlan_writes, h]

theorem vfnPlan_f32 (h : fld w 57 3 ≤ 5) (h0 : veTY w = 0) : vfnPlan s c k w imm =
    elemPlan (coreAt s k) k w 8 true ((vA (coreAt s k) w).map (fnEval (fld w 57 3))) := (if_neg (by omega)).trans (unPlan_f32 h0)

/-- The elements that enter a VRED: those neither masked nor skipped, and the identity for the others (R166). -/
def redIns (x : Core) (w : Nat) : List Nat :=
  (List.range (tyN (veTY w))).map fun i =>
    if live x (veMK w) (veTY w) i && !redSkips (fld w 57 3) (veTY w) (nth 0 (vA x w) i) then redIn (fld w 57 3) (veTY w) (nth 0 (vA x w) i)
    else redId (fld w 57 3) (veTY w)

/-- A map over numbered elements runs over their numbers. -/
theorem map_zipIdx_eq_map_range {α : Type} (l : List Nat) (f : Nat × Nat → α) :
    l.zipIdx.map f = (List.range l.length).map fun i => f (nth 0 l i, i) := by
  refine List.ext_getElem (by simp) fun i h _ => ?_
  have hi : i < l.length := by simpa using h
  simp [nth, hi]

/-- The tree has five levels, and a sixth below them for 64 elements (R166). -/
theorem redTree_levels (f : Nat → Nat → Nat) (ty : Nat) (l : List Nat) :
    (List.range 5).foldl (fun l _ => redLevel f l) (if ty = 2 then redLevel f l else l) =
      Nat.repeat (redLevel f) (if ty = 2 then 6 else 5) l := by split <;> rfl

theorem vredPlan_tree (h : fld w 57 3 ≤ 3) : ∃ p, vredPlan s c k w imm = .inr p ∧ p.reads = [] ∧
    p.effs = [(8, regWrite k (veVD w) (32 * fld w 52 5) 32 [nth 0 (Nat.repeat (redLevel (redOp (fld w 57 3) (veTY w)))
      (if veTY w = 2 then 6 else 5) (redIns (coreAt s k) w)) 0] (fun _ => true) fun _ => false)] := by
  refine ⟨_, if_neg (by omega), rfl, ?_⟩
  dsimp only
  rw [redTree_levels, map_zipIdx_eq_map_range, vA_length]
  rfl

/-- Element e of every row that a VTRED combines, in row order (R167). -/
def tredCol (x : Core) (w e : Nat) : List Nat :=
  (List.range (fld w 52 5 + 1)).map fun i => nth 0 (elems (veTY w) (smGet 0 x.v ((veVA w + i) % 32))) e

/-- The elements that a VTRED leaves. -/
def tredEls (x : Core) (w : Nat) : List Nat :=
  (List.range (tyN (veTY w))).map fun e => (tredEl (fld w 57 3) (veTY w) (tredCol x w e)).1

theorem vtredPlan_rows (h : fld w 57 3 ≤ 3) : ∃ p, vtredPlan s c k w imm = .inr p ∧ p.reads = [] ∧
    p.effs = [(fld w 52 5 + 4, veWrite (coreAt s k) k w (tredEls (coreAt s k) w))] := by
  refine ⟨_, if_neg (by omega), rfl, ?_⟩
  simp only [List.map_map]
  rfl

/-! ### Tiles -/

/-- The mask that a VTILE keeps from its issue cycle. -/
def tileMask (x : Core) (w : Nat) : Nat := packW 1 ((List.range 64).map fun i => b2n (live x (veMK w) (veTY w) i))

theorem bitAt_tileMask (x : Core) (w j : Nat) : bitAt (tileMask x w) j = live x (veMK w) (veTY w) j := by
  by_cases h : j < 64
  · rw [tileMask, bitAt_packRange _ h, bitAt_b2n]
  · rw [tileMask, bitAt_packW, nth, List.getElem?_eq_none (by simpa using h)]
    exact (Bool.eq_false_iff.2 fun hl => h (live_lt hl)).symm

/-- The run of a VTILE, with VB and the mask of the issue cycle. -/
def tileRun (x : Core) (k w : Nat) : OpRun :=
  { kind := .tile, core := k, bits := w, ws := elems (veTY w) (smGet 0 x.v (veVB w)), part := tileMask x w }

/-- The elements of row i of a VTILE. -/
def tileEls (y : Core) (r : OpRun) (i : Nat) : List Nat :=
  (List.range (tyN (veTY r.bits))).map fun j => tileOp (fld r.bits 57 3) r.bits
    (nth 0 (elems (veTY r.bits) (smGet 0 y.v ((veVA r.bits + i) % 32))) j) (nth 0 r.ws (if bitAt r.bits 56 then i else j))
    (nth 0 (elems (veTY r.bits) (smGet 0 y.v ((veVD r.bits + i) % 32))) j)

/-- A row is a write of its elements under the mask kept, and its flags. -/
theorem tileRow_writes (y : Core) (r : OpRun) (i : Nat) : ∃ ef, tileRow y r i = (r.start + i + (if fld r.bits 57 3 = 5 then 4 else 3),
    regWrite r.core ((veVD r.bits + i) % 32) 0 (tyW (veTY r.bits)) (tileEls y r i) (fun j => bitAt r.part j)
      fun j => veMZ r.bits && !bitAt r.part j) :: ef := ⟨_, rfl⟩

theorem vtilePlan_rows (h : fld w 57 3 ≤ 5) : vtilePlan s c k w imm = .inr {
    effs := tileRow (coreAt s k) (tileRun (coreAt s k) k w) 0
    runs := if fld w 51 5 = 0 then [] else [{ tileRun (coreAt s k) k w with start := (clu s c).icyc }] } := if_neg (by omega)

theorem veVA_row_zero : (veVA w + 0) % 32 = veVA w := Nat.mod_eq_of_lt (Nat.mod_lt _ (by decide))
theorem veVD_row_zero : (veVD w + 0) % 32 = veVD w := Nat.mod_eq_of_lt (Nat.mod_lt _ (by decide))

/-- The write of row 0 is under the mask of the issue cycle. -/
theorem tileRow_zero (x : Core) (k w : Nat) : ∃ ef, tileRow x (tileRun x k w) 0 = ((if fld w 57 3 = 5 then 4 else 3),
    regWrite k (veVD w) 0 (tyW (veTY w)) (tileEls x (tileRun x k w) 0) (fun j => live x (veMK w) (veTY w) j)
      fun j => veMZ w && !live x (veMK w) (veTY w) j) :: ef := by
  obtain ⟨ef, h⟩ := tileRow_writes x (tileRun x k w) 0
  refine ⟨ef, h.trans ?_⟩
  simp only [tileRun, bitAt_tileMask, Nat.zero_add, veVD_row_zero]
  rfl

theorem nth_tileEls_zero {x : Core} {j : Nat} (h : j < tyN (veTY w)) : nth 0 (tileEls x (tileRun x k w) 0) j =
    tileOp (fld w 57 3) w (nth 0 (elems (veTY w) (smGet 0 x.v (veVA w))) j)
      (nth 0 (elems (veTY w) (smGet 0 x.v (veVB w))) (if bitAt w 56 then 0 else j)) (nth 0 (elems (veTY w) (smGet 0 x.v (veVD w))) j) := by
  rw [← veVA_row_zero, ← veVD_row_zero]
  exact nth_map_range h

theorem runStep_tile {t : State} {r : OpRun} (h : r.kind = .tile) : runStep t c r = tileStep t c r := by rw [runStep, h]

end

/-- Settles O24: each op by what its plan leaves, and a tile row by row. -/
theorem vectorFunctionsReductionsAndTiles : Obligations.VectorFunctionsReductionsAndTiles := by
  intro s c u w ty kind
  refine ⟨fun q hq h h0 => ?_, fun h hf h0 => elemOp_writes (lat := 8) rfl h fun _ => vfnPlan_f32 hf h0,
    fun h hk => veOp_writes rfl h fun _ => vredPlan_tree hk,
    fun h hk k hm => ⟨tredEls (coreAt u k) w, veOp_writes rfl h (fun _ => vtredPlan_rows hk) k hm, fun e he => nth_map_range he⟩,
    fun h hk k hm => ?_, ?_, fun q hq h hbad => ?_⟩
  · obtain ⟨f, hi⟩ : ∃ f, exec q.2.1 s = .next (veOp c q.1 (unPlan (fun _ => 10) q.2.2 f) s) := by
      simp only [List.mem_cons, List.not_mem_nil, or_false] at hq
      rcases hq with rfl | rfl <;> exact ⟨_, rfl⟩
    exact elemOp_writes (lat := 10) hi h fun _ => unPlan_f32 h0
  · obtain ⟨hleaves, t, ht, hruns⟩ := veOp_done (i := .vtile c) (plan := vtilePlan) rfl h (fun _ => vtilePlan_rows hk) fun _ => rfl
    obtain ⟨ef, he⟩ := tileRow_zero (coreAt u k) k w
    refine ⟨⟨tileEls (coreAt u k) (tileRun (coreAt u k) k w) 0, (hleaves k hm).mono fun p hp => ?_, fun j hj => nth_tileEls_zero hj⟩,
      fun hn => ⟨tileMask (coreAt u k) w, fun j _ => bitAt_tileMask _ _ _, t, ht, (hruns k hm).2 _ ?_⟩⟩
    · rw [List.mem_singleton.1 hp]
      exact List.mem_append_left _ (he ▸ List.mem_cons_self)
    · rw [if_neg (Nat.pos_iff_ne_zero.1 hn)]
      exact List.mem_singleton.2 rfl
  · intro t r v x i hr
    obtain ⟨ef, he⟩ := tileRow_writes x r i
    refine ⟨tileEls x r i, ef, { r with next := if i = fld v 51 5 then 0 else i + 1 }, ?_, fun h => ?_, fun h => ?_,
      fun j hj => nth_map_range hj⟩
    · rw [runStep_tile hr, ← he]
      rfl
    · rw [if_neg h.ne]
    · rw [if_pos h]
  · obtain ⟨plan, hi, hp⟩ : ∃ plan, exec q.2.1 s = .next (veOp c q.1 plan s) ∧ ∀ k, plan u c k w (bImm (curBundle u c)) = .inl 3 := by
      simp only [List.mem_cons, List.not_mem_nil, or_false] at hq
      rcases hq with rfl | rfl | rfl | rfl <;> exact ⟨_, rfl, fun _ => if_pos hbad⟩
    exact veOp_reserved hi h hp

/-! ## Conversions and posts (R164, R165, R169) -/

section
variable {s : State} {c k w imm : Nat}

theorem expLim_eq {n : Nat} (hn : n < 4) (h3 : n ≠ 3) : expLim n = (if n = 1 then 32767 else 127, if n = 2 then -96 else -32) := by
  have h : n < 3 := by omega
  interval_cases n <;> rfl

theorem vexpnPlan_writes (h : fld w 58 2 ≠ 3) : ∃ p, vexpnPlan s c k w imm = .inr p ∧ p.reads = [] ∧
    p.effs = [(3, veWrite (coreAt s k) k w ((vA (coreAt s k) w).map fun a =>
      lowBits 32 (expOf32 (if fld w 58 2 = 1 then 32767 else 127) (if fld w 58 2 = 2 then -96 else -32) (f32Abs a)).1))] := by
  refine ⟨_, if_neg h, rfl, ?_⟩
  simp only [expLim_eq (n := fld w 58 2) (Nat.mod_lt _ (by decide)) h, List.map_map]
  rfl

/-- The elements that a VCVT leaves. -/
def cvtEls (x : Core) (w : Nat) : List Nat :=
  (List.range 32).map fun i => (cvEl (fld w 56 4)
    (fld (smGet 0 x.v (veVA w)).toNat (cvBase (cvSrcW (fld w 56 4)) (fld w 48 2) + cvSrcW (fld w 56 4) * i) (cvSrcW (fld w 56 4)))
    (sx 8 (nth 0 (elems 0 (smGet 0 x.v (veVB w))) (if bitAt w 50 then i else fld w 51 5)))).1

theorem vcvtPlan_writes (h : fld w 56 4 ≤ 10) : ∃ p, vcvtPlan s c k w imm = .inr p ∧ p.reads = [] ∧
    p.effs = [(3, regWrite k (veVD w) (cvBase (cvDstW (fld w 56 4)) (fld w 48 2)) (cvDstW (fld w 56 4)) (cvtEls (coreAt s k) w)
      (fun i => live (coreAt s k) (veMK w) 0 i) fun i => veMZ w && !live (coreAt s k) (veMK w) 0 i)] := by
  refine ⟨_, if_neg (by omega), rfl, ?_⟩
  simp only [List.map_map]
  rfl

end

/-! ## VFLAG (R170) -/

/-- An op puts its effects in flight behind those that are there. -/
theorem doneOp_effs (s : State) (c : Nat) (us : USlot) (effs : List (Nat × Eff)) (runs : List OpRun) :
    (clu (doneOp s c us effs runs) c).effs = (clu s c).effs ++ effs.map fun p => ((clu s c).icyc + p.1, p.2) := by
  obtain ⟨-, -, heffs, -⟩ := clu_addRuns (s := later (markDid (countOp s c us) c (uCode us)) c effs) c runs
  rw [doneOp, heffs, clu_later, clu_markDid, clu_countOp]

/-- An op that reads no slot is its start on each core, and then it has issued. -/
theorem runPlans_dry {s : State} {c : Nat} {us : USlot} {l : List (Nat × Sum Nat Plan)} {ps : List (Nat × Plan)} (h : plans l = .inr ps)
    (hd : doubleBooked s c us ps = false) (hr : ∀ p ∈ ps, p.2.reads = []) :
    runPlans s c us l = doneOp (each s ps (startPlan c)) c us (ps.flatMap fun p => p.2.effs ++ flagEff 0 p.1 p.2.sOf p.2.sNv)
      (ps.flatMap fun p => p.2.runs) := by
  have hreads : (ps.flatMap fun p => p.2.reads) = [] := List.flatMap_eq_nil_iff.2 hr
  have hrefs : (ps.flatMap fun p => p.2.reads.map fun x => x.r) = [] := List.flatMap_eq_nil_iff.2 fun p hp => by rw [hr p hp]; rfl
  simp only [runPlans, h, hd, hreads, hrefs, withSlots, List.map_nil, waitRead, waitWrite, List.findSome?_nil, List.any_nil,
    Bool.false_eq_true, if_false]
  rfl

section
variable {s : State} {c : Nat}

/-- VFLAG before CLR acts: the write of the flags is in flight on each core, and so is everything that was. -/
theorem vflag_issues (h : veReady s c 0x31 = true) :
    let u := atIssue s c
    let t := runPlans u c .ve (vePlans vflagPlan u c)
    uCode .ve ∈ (clu t c).did ∧ (∀ p ∈ (clu u c).effs, p ∈ (clu t c).effs) ∧ ∀ k ∈ veCores u c,
      ((clu u c).icyc + 1, veWrite (coreAt u k) k (slotBits u c .ve) (rdN u (flagReg k) % 4 :: List.replicate 31 0)) ∈ (clu t c).effs := by
  intro u t
  obtain ⟨-, hb⟩ := veReady_iff.1 h
  have ht : t = _ := runPlans_dry (vePlans_inr fun _ => rfl) (ve_free (by simpa using hb)) (by simp)
  obtain ⟨hicyc, -, heffs, -⟩ := startPlans_issue (s := u) c ((veCores u c).map fun k => (k, ({
    effs := [(1, veWrite (coreAt u k) k (slotBits u c .ve) (rdN u (flagReg k) % 4 :: List.replicate 31 0))] } : Plan)))
  refine ⟨?_, fun p hp => ?_, fun k hk => ?_⟩
  · rw [ht]
    exact (doneOp_run c .ve _ _).1
  · rw [ht, doneOp_effs, heffs]
    exact List.mem_append_left _ hp
  · rw [ht, doneOp_effs, hicyc]
    refine List.mem_append_right _ (List.mem_map.2 ⟨(1, _), List.mem_flatMap.2 ⟨_, List.mem_map_of_mem hk, ?_⟩, rfl⟩)
    exact List.mem_cons_self

/-- CLR: the flags of each core are cleared. -/
def flagsCleared (t : State) (l : List Nat) : State := each t l fun s k => wrN s (flagReg k) 0

theorem flagsCleared_clus (t : State) (l : List Nat) : (flagsCleared t l).clus = t.clus :=
  each_inv (P := fun v => v.clus = t.clus) (fun _ _ _ h => h) rfl

theorem flagsCleared_reads {t : State} {l : List Nat} {k : Nat} (hk : k ∈ l) : rdN (flagsCleared t l) (flagReg k) = 0 :=
  each_reaches (P := fun _ => True) (Q := fun v => rdN v (flagReg k) = 0) hk trivial (fun _ _ _ _ => trivial) (fun u _ => by simp)
    fun u b _ _ h => by
      rw [rdN_wrN, h]
      simp

theorem vflagEff_due (h : canOp (settle s c) c .ve 0x31 = true) :
    let u := atIssue s c
    let t := runPlans u c .ve (vePlans vflagPlan u c)
    vflagEff c s = if bitAt (slotBits u c .ve) 59 then flagsCleared t (veCores u c) else t := runOp_due h

/-- A VFLAG leaves its cluster as its issue does, with CLR or without. -/
theorem vflagEff_clu (h : canOp (settle s c) c .ve 0x31 = true) :
    clu (vflagEff c s) c = clu (runPlans (atIssue s c) c .ve (vePlans vflagPlan (atIssue s c) c)) c := by
  rw [vflagEff_due h]
  split
  · exact clu_of_clus (flagsCleared_clus _ _) c
  · rfl

end

/-- Settles O25: each op by what its plan leaves, and VFLAG by its issue and the clearing after it. -/
theorem vectorConversionsPostsAndFlags : Obligations.VectorConversionsPostsAndFlags := by
  intro s c u w
  refine ⟨fun h h3 => veOp_writes rfl h fun _ => vexpnPlan_writes h3,
    fun h hcv k hk => ⟨cvtEls (coreAt u k) w, veOp_writes rfl h (fun _ => vcvtPlan_writes hcv) k hk, fun i hi => nth_map_range hi⟩,
    fun h => veOp_writes rfl h fun _ => ⟨_, rfl, rfl, rfl⟩, fun h k hk => ?_, fun h h3 => veOp_reserved rfl h fun _ => if_pos h3,
    fun h hcv => veOp_reserved rfl h fun _ => if_pos hcv⟩
  obtain ⟨hc, -⟩ := veReady_iff.1 h
  obtain ⟨hdid, hkept, hwrite⟩ := vflag_issues h
  rw [← vflagEff_clu hc] at hdid hkept hwrite
  refine ⟨⟨vflagEff c s, rfl, hdid, fun p hp => ?_⟩, fun hclr => ⟨vflagEff c s, rfl, ?_, hkept⟩⟩
  · rw [List.mem_singleton.1 hp]
    exact hwrite k hk
  · rw [vflagEff_due hc, if_pos hclr]
    exact flagsCleared_reads hk

/-! ## VLD, VST, GP.CHAIN and VE_FLAG (R163, R171, R189) -/

section
variable {s : State} {c k w imm x : Nat}

theorem vldPlan_unmapped (h : opSlots s c (k % 16) (fld w 36 24) 1 false = none) : vldPlan s c k w imm = .inl 4 := by rw [vldPlan, h]

theorem vldPlan_cause (h : vldPlan s c k w imm = .inl x) : x = 4 := by
  cases ho : opSlots s c (k % 16) (fld w 36 24) 1 false with
  | none => exact Sum.inl.inj (h.symm.trans (vldPlan_unmapped ho))
  | some l => rw [vldPlan, ho] at h; cases h

theorem vstPlan_unmapped (h : opSlots s c (k % 16) (fld w 36 24) 1 true = none) : vstPlan s c k w imm = .inl 4 := by rw [vstPlan, h]

theorem vstPlan_cause (h : vstPlan s c k w imm = .inl x) : x = 4 := by
  cases ho : opSlots s c (k % 16) (fld w 36 24) 1 true with
  | none => exact Sum.inl.inj (h.symm.trans (vstPlan_unmapped ho))
  | some l => rw [vstPlan, ho] at h; cases h

theorem gpChainEff_alone (h : canOp (settle s c) c .gp 1 = true) (hg : gpTogether (curBundle (atIssue s c) c) = false) :
    gpChainEff c s = clusFault (atIssue s c) c 3 := by
  refine (runOp_due h).trans (if_pos ?_)
  rw [hg]
  rfl

theorem gpChainEff_together (h : canOp (settle s c) c .gp 1 = true) (hg : gpTogether (curBundle (atIssue s c) c) = true) :
    gpChainEff c s = runPlans (atIssue s c) c .gp ((maskCores (bGpMask (curBundle (atIssue s c) c))).map fun i =>
      (16 * c + i, chainPlan (atIssue s c) c (16 * c + i) (slotBits (atIssue s c) c .gp))) := by
  refine (runOp_due h).trans (if_neg ?_)
  rw [hg]
  decide

end

/-- Settles O26: loads and stores by the plans of their cores, GP.CHAIN by its bundle, and VE_FLAG by the write. -/
theorem loadsStoresAndGateChains : Obligations.LoadsStoresAndGateChains := by
  refine ⟨fun s c => ?_, fun r s c core v hw => ?_⟩
  · intro u w imm
    refine ⟨fun h => ⟨veOp_runs rfl h, fun k hk ho =>
        veOp_refused (plan := vldPlan) rfl h (fun _ _ => vldPlan_cause) hk (vldPlan_unmapped ho)⟩,
      fun h => ⟨veOp_runs rfl h, fun k hk ho =>
        veOp_refused (plan := vstPlan) rfl h (fun _ _ => vstPlan_cause) hk (vstPlan_unmapped ho)⟩,
      fun h => ⟨fun hg => congrArg Host.Outcome.next (gpChainEff_alone h hg), fun hg => ?_⟩⟩
    refine opRuns_of (congrArg Host.Outcome.next (gpChainEff_together h hg)) ?_
    rw [List.map_map]
    exact (maskCores_nodup _).map fun _ _ he => Nat.add_left_cancel he
  · refine ⟨_, congrArg Host.Outcome.next (hostWr_taken hw), ?_, rfl, rfl, rfl⟩
    exact rd_wr_same _ _

end Sys2Proof.Machine
end

section
/-!
SUPPORT. How a stream command is checked: what it reads, the order of its causes, and what a refusal and an acceptance leave
(07_streams_state R212, R213).
-/
namespace Sys2Proof.Machine

set_option Elab.async false

section
variable {s u : State} {n h k code : Nat}

/-! ## The command's code in STRM_STAT -/

/-- STRM_HANDLE. -/
def strmHandle (s : State) (n : Nat) : Nat := rf s (partPg n + 0x300) 0 20

/-- The state in which a command checks its causes: its code stands in STRM_STAT. -/
def coded (s : State) (n code : Nat) : State := wf s (strmStat n) 20 4 code

theorem coded_strms : (coded s n code).strms = s.strms := wf_strms ..

theorem rdN_coded {a : Nat} (ha : a ≠ strmStat n) : rdN (coded s n code) a = rdN s a := (rdN_wf ..).trans (if_neg ha)

theorem rb_coded {i : Nat} (hi : i < 20) : rb (coded s n code) (strmStat n) i = rb s (strmStat n) i := by
  rw [coded, rb_wf _ _ _ _ _ _ (by omega), if_pos hi]

theorem rf_coded (hc : code < 16) : rf (coded s n code) (strmStat n) 20 4 = code :=
  (rf_wf_same _ _ _ _ _ (by decide)).trans (Nat.mod_eq_of_lt hc)

@[simp] theorem strm_wf {a lo len v : Nat} : strm (wf s a lo len v) h = strm s h := strm_of_strms (wf_strms ..) h

@[simp] theorem strm_coded : strm (coded s n code) h = strm s h := strm_wf

@[simp] theorem part_coded : part (coded s n code) k = part s k := part_of_parts (wf_parts ..) k

@[simp] theorem job_coded {j : Nat} : job (coded s n code) k j = job s k j := job_of_parts (wf_parts ..)

theorem hasKey_of_keys {t : State} (e : t.keys = s.keys) (p : Nat) : hasKey t p = hasKey s p := by
  have hk : ∀ i, keySlot t i = keySlot s i := fun i => by rw [keySlot, e, keySlot]
  simp only [hasKey, slotOfParty, hk]

@[simp] theorem hasKey_coded : hasKey (coded s n code) k = hasKey s k := hasKey_of_keys (wf_keys ..) k

theorem blobLen_of_parts {t : State} (e : t.parts = s.parts) (x : Strm) : blobLen t x = blobLen s x := by
  rw [blobLen, blobLen, stateLen, stateLen, job_of_parts e]

@[simp] theorem blobLen_coded {x : Strm} : blobLen (coded s n code) x = blobLen s x := blobLen_of_parts (wf_parts ..) x

/-! ## The registers that a command reads (R212, R213) -/

@[simp] theorem strmHandle_coded : strmHandle (coded s n code) n = strmHandle s n :=
  congrArg (fld · 0 20) (rdN_coded (by unfold strmStat; omega))

@[simp] theorem strmCfg_coded : strmCfg (coded s n code) n = strmCfg s n := rdN_coded (by unfold strmStat; omega)

@[simp] theorem strmHome_coded : rdN (coded s n code) (partPg n + 0x310) = rdN s (partPg n + 0x310) := rdN_coded (by unfold strmStat; omega)

@[simp] theorem partParty_coded : partParty (coded s n code) n = partParty s n :=
  congrArg (fld · 8 5) (rdN_coded (by unfold strmStat; omega))

theorem rd64_coded {a : Nat} (ha : a ≠ strmStat n) (ha' : a + 4 ≠ strmStat n) : rd64 (coded s n code) a = rd64 s a := by
  rw [rd64, rd64, rdN_coded ha, rdN_coded ha']

@[simp] theorem strmBiv_coded : strmBiv (coded s n code) n = strmBiv s n :=
  congrArg (· % 2 ^ 48) (rd64_coded (by unfold strmStat; omega) (by unfold strmStat; omega))

@[simp] theorem strmXaddr_coded : strmXaddr (coded s n code) n = strmXaddr s n :=
  congrArg (· % 2 ^ 48) (rd64_coded (by unfold strmStat; omega) (by unfold strmStat; omega))

@[simp] theorem cfgStrm_coded {x : Strm} : cfgStrm (coded s n code) n x = cfgStrm s n x := by simp [cfgStrm]

@[simp] theorem newStrm_coded {st : SState} : newStrm (coded s n code) n h st = newStrm s n h st := by simp [newStrm]

@[simp] theorem newBlobLen_coded : newBlobLen (coded s n code) n h = newBlobLen s n h := by simp [newBlobLen]

@[simp] theorem jobHomeOk_coded : jobHomeOk (coded s n code) n = jobHomeOk s n := by
  have hc : rf (coded s n code) (partPg n + 0x310) 16 8 = rf s (partPg n + 0x310) 16 8 := congrArg (fld · 16 8) strmHome_coded
  have hm : isMember (coded s n code) n (rf s (partPg n + 0x310) 16 8) = isMember s n (rf s (partPg n + 0x310) 16 8) := by
    have hlt : rf s (partPg n + 0x310) 16 8 < 256 := Nat.mod_lt _ (by decide)
    exact congrArg (bitAt · _) (rdN_coded (by unfold strmStat; omega))
  simp [jobHomeOk, hc, hm]

/-- The pages beyond the partitions' do not hold STRM_STAT. -/
theorem rdN_coded_beyond (hn : n < 16) {a : Nat} (ha : 0x210000 ≤ a) : rdN (coded s n code) a = rdN s a :=
  rdN_coded (by unfold strmStat partPg; omega)

theorem steadyOf_coded (hn : n < 16) : steadyOf (coded s n code) n = steadyOf s n := by
  have hr : ∀ p, rb (coded s n code) (ptyPg p + 0x218) 31 = rb s (ptyPg p + 0x218) 31 := fun p =>
    congrArg (bitAt · 31) (rdN_coded_beyond hn (by unfold ptyPg; omega))
  rw [steadyOf, steadyOf, partParty_coded, hr]

theorem inWindow_coded (hn : n < 16) (p a l : Nat) : inWindow (coded s n code) p a l = inWindow s p a l := by
  have hr : ∀ o, rdN (coded s n code) (hbmPg + o) = rdN s (hbmPg + o) := fun o => rdN_coded_beyond hn (by unfold hbmPg; omega)
  simp only [inWindow, winValid, winBase, winSize, rb, rd64, Nat.add_assoc, hr]

theorem inRegion_coded (hn : n < 16) (p i a l : Nat) : inRegion (coded s n code) p i a l = inRegion s p i a l := by
  have hr : ∀ o, rdN (coded s n code) (hbmPg + o) = rdN s (hbmPg + o) := fun o => rdN_coded_beyond hn (by unfold hbmPg; omega)
  simp only [inRegion, inWindow_coded hn, winBase, regOfs, regSize, rd64, Nat.add_assoc, hr]

/-! ## The order of causes (R213) -/

theorem firstCause_skip {l m : List (Bool × Nat)} (hl : ∀ p ∈ l, p.1 = false) : firstCause (l ++ m) = firstCause m := by
  have hn : l.find? (fun p => p.1) = none := List.find?_eq_none.2 fun p hp => by simp [hl p hp]
  rw [firstCause, List.find?_append, hn]
  rfl

/-- The cause of a command, 0 where none holds: those below 3 first, the foreign stream, those below 7, BUSY, and the rest. -/
def strmCause (s : State) (n h code : Nat) (causes : List (Bool × Nat)) : Nat :=
  firstCause ((decide (h = 0), 1) :: causes.filter (fun p => p.2 < 3) ++ [((strm s h).st ≠ .free && (strm s h).part ≠ n, 3)] ++
    causes.filter (fun p => 3 < p.2 && p.2 < 7) ++ [(busyBars s n h code, 7)] ++ causes.filter (fun p => 7 ≤ p.2))

section
variable {causes : List (Bool × Nat)}

theorem strmCause_zero : strmCause s n 0 code causes = 1 := by
  rw [strmCause]
  rfl

variable (h0 : h ≠ 0)
include h0

theorem strmCause_foreign (hf : (strm s h).st ≠ .free) (hp : (strm s h).part ≠ n) (hc : ∀ p ∈ causes, p.2 < 3 → p.1 = false) :
    strmCause s n h code causes = 3 := by
  have hlow : ∀ p ∈ (decide (h = 0), 1) :: causes.filter (fun p => p.2 < 3), p.1 = false := by simpa [h0] using hc
  rw [strmCause, List.append_assoc, List.append_assoc, List.append_assoc, firstCause_skip hlow]
  simp [firstCause, hf, hp]

variable (hp : (strm s h).st = .free ∨ (strm s h).part = n)
include hp

/-- No cause below 7 holds for a stream of the partition: BUSY is checked, and the causes above it. -/
theorem strmCause_beyond (hc : ∀ p ∈ causes, p.2 < 7 → p.1 = false) :
    strmCause s n h code causes = firstCause ((busyBars s n h code, 7) :: causes.filter fun p => 7 ≤ p.2) := by
  have hlow : ∀ p ∈ (decide (h = 0), 1) :: causes.filter (fun p => p.2 < 3) ++ [((strm s h).st ≠ .free && (strm s h).part ≠ n, 3)] ++
      causes.filter (fun p => 3 < p.2 && p.2 < 7), p.1 = false := by
    intro p hm
    simp only [List.cons_append, List.mem_cons, List.mem_append, List.mem_filter, List.not_mem_nil, or_false, Bool.and_eq_true,
      decide_eq_true_eq] at hm
    rcases hm with rfl | (⟨hm, hlt⟩ | rfl) | ⟨hm, -, hlt⟩
    · simpa using h0
    · exact hc p hm (by omega)
    · rcases hp with e | e <;> simp [e]
    · exact hc p hm hlt
  rw [strmCause, List.append_assoc _ [_] (causes.filter _), firstCause_skip hlow]
  rfl

theorem strmCause_busy (hc : ∀ p ∈ causes, p.2 < 7 → p.1 = false) (hb : busyBars s n h code = true) : strmCause s n h code causes = 7 := by
  rw [strmCause_beyond h0 hp hc, hb]
  rfl

theorem strmCause_none (hc : ∀ p ∈ causes, p.1 = false) (hb : busyBars s n h code = false) : strmCause s n h code causes = 0 := by
  rw [strmCause_beyond h0 hp fun p hm _ => hc p hm, hb]
  have hl : ∀ p ∈ (false, 7) :: causes.filter (fun p => 7 ≤ p.2), p.1 = false := by
    intro p hm
    rcases List.mem_cons.1 hm with rfl | hm
    · rfl
    · exact hc p (List.mem_of_mem_filter hm)
  have := firstCause_skip (m := []) hl
  rwa [List.append_nil] at this

end

/-! ## What a refused and an accepted command leave (R212, R213) -/

/-- The command is refused with a cause: CAUSE and CMD_REJ say so, DONE reads 0, and no stream has changed. -/
def Refused (s t : State) (n k : Nat) : Prop :=
  rf t (strmStat n) 24 8 = k ∧ rb t (strmStat n) 0 = false ∧ rb t (partPg n + 0x14) 1 = true ∧ t.strms = s.strms

theorem Refused.unchanged {t : State} (h : Refused s t n k) : rf t (strmStat n) 24 8 = k ∧ t.strms = s.strms := by
  obtain ⟨hk, -, -, hs⟩ := h
  exact ⟨hk, hs⟩

/-- The event of a refusal lies elsewhere than STRM_STAT. -/
theorem rdN_strmReject : rdN (strmReject s n h k) (strmStat n) = rdN (wf (wf s (strmStat n) 24 8 k) (strmStat n) 0 1 0) (strmStat n) :=
  rdN_setEvt_ne _ _ _ _ (by unfold strmStat; omega)

theorem rf_strmReject (hk : k < 256) : rf (strmReject s n h k) (strmStat n) 24 8 = k := by
  have hc : rf (wf (wf s (strmStat n) 24 8 k) (strmStat n) 0 1 0) (strmStat n) 24 8 = k := by
    rw [rf_wf_other _ _ _ _ _ _ _ (by decide) (by decide), rf_wf_same _ _ _ _ _ (by decide)]
    exact Nat.mod_eq_of_lt hk
  exact (congrArg (fld · 24 8) rdN_strmReject).trans hc

theorem rb_strmReject {i : Nat} : rb (strmReject s n h k) (strmStat n) i =
    rb (wf (wf s (strmStat n) 24 8 k) (strmStat n) 0 1 0) (strmStat n) i := congrArg (bitAt · i) rdN_strmReject

theorem strmReject_refused (hs : u.strms = s.strms) (hk : k < 256) : Refused s (strmReject u n h k) n k := by
  refine ⟨rf_strmReject hk, rb_strmReject.trans (rb_wf _ _ _ _ _ _ (by decide)), rb_setEvt _ _ _ (by decide), ?_⟩
  rw [strmReject, setEvt_strms, wf_strms, wf_strms, hs]

/-- A refusal leaves BUSY. -/
theorem rb_strmReject_busy : rb (strmReject s n h k) (strmStat n) 1 = rb s (strmStat n) 1 := by
  rw [rb_strmReject, rb_wf _ _ _ _ _ _ (by decide), rb_wf _ _ _ _ _ _ (by decide)]
  rfl

/-- The command has acted: its stream is `y` and every other as before, DONE reads 1, BUSY 0, and the code is the command's. -/
def Answered (s t : State) (n h code : Nat) (y : Strm) : Prop :=
  strm t h = y ∧ rb t (strmStat n) 0 = true ∧ rb t (strmStat n) 1 = false ∧ rf t (strmStat n) 20 4 = code ∧ ∀ g, g ≠ h → strm t g = strm s g

theorem strmDone_answered {y : Strm} (hy : strm u h = y) (hs : ∀ g, g ≠ h → strm u g = strm s g) (hb : rb u (strmStat n) 1 = false)
    (hc : rf u (strmStat n) 20 4 = code) : Answered s (strmDone u n) n h code y :=
  ⟨strm_wf.trans hy, rb_wf _ _ _ _ _ _ (by decide), (rb_wf _ _ _ _ _ _ (by decide)).trans hb,
    (rf_wf_other _ _ _ _ _ _ _ (by decide) (by decide)).trans hc, fun g hg => strm_wf.trans (hs g hg)⟩

theorem setStrm_answered {y : Strm} (hs : u.strms = s.strms) (hb : rb u (strmStat n) 1 = false) (hc : rf u (strmStat n) 20 4 = code) :
    Answered s (strmDone (setStrm u h y) n) n h code y :=
  strmDone_answered (strm_setStrm_same h y) (fun g hg => by rw [strm_setStrm, if_neg hg, strm_of_strms hs]) hb hc

/-- A request marks the stream, and ends the BUSY of an EXPORT that it replaces. -/
theorem request_eq (r : SReq) : request s n h r =
    setStrm (if xportWaits (strm s h) then wf s (strmStat n) 1 1 0 else s) h { strm s h with req := r } := by
  unfold request xportWaits
  cases hr : (strm s h).req <;> rfl

/-- Once a request is accepted, no EXPORT holds BUSY. -/
theorem request_answered (hs : u.strms = s.strms) (hb : rb u (strmStat n) 1 = false ∨ xportWaits (strm s h) = true)
    (hc : rf u (strmStat n) 20 4 = code) (r : SReq) :
    Answered s (strmDone (request u n h r) n) n h code { strm s h with req := r } := by
  rw [request_eq, strm_of_strms hs]
  by_cases hx : xportWaits (strm s h) = true
  · rw [if_pos hx]
    exact setStrm_answered ((wf_strms ..).trans hs) (rb_wf _ _ _ _ _ _ (by decide))
      ((rf_wf_other _ _ _ _ _ _ _ (by decide) (by decide)).trans hc)
  · rw [if_neg hx]
    exact setStrm_answered hs (hb.resolve_right hx) hc

/-- An EXPORT or IMPORT that starts sets BUSY. -/
theorem rb_started : rb (wf (wf s (strmStat n) 1 1 1) (strmStat n) 0 1 0) (strmStat n) 1 = true :=
  (rb_wf _ _ _ _ _ _ (by decide)).trans (rb_wf _ _ _ _ _ _ (by decide))

/-! ## How a command ends (R213) -/

section
variable {causes : State → Nat → List (Bool × Nat)} {f : State → Nat → State}

/-- With its code in STRM_STAT, a command acts on the stream that STRM_HANDLE names, or is refused with its cause. -/
theorem strmCmd_eq : strmCmd n code causes f s =
    let u := coded s n code
    let h := strmHandle u n
    let k := strmCause u n h code (causes u h)
    if k = 0 then f u h else strmReject u n h k := by
  unfold strmCmd strmCause strmHandle coded
  with_reducible rfl

theorem strmCmd_refused (hk : strmCause (coded s n code) n (strmHandle s n) code (causes (coded s n code) (strmHandle s n)) = k) (h0 : k ≠ 0)
    (hl : k < 256) : Refused s (strmCmd n code causes f s) n k := by
  simp only [strmCmd_eq, strmHandle_coded, hk, h0, if_false]
  exact strmReject_refused coded_strms hl

theorem strmCmd_zero (h0 : strmHandle s n = 0) : Refused s (strmCmd n code causes f s) n 1 :=
  strmCmd_refused (by rw [h0, strmCause_zero]) (by decide) (by decide)

variable (h0 : strmHandle s n ≠ 0)
include h0

/-- A command that takes the stream's state meets the stream of another partition. -/
theorem strmCmd_foreign (hf : (strm s (strmHandle s n)).st ≠ .free) (hp : (strm s (strmHandle s n)).part ≠ n)
    (hc : ∀ p ∈ causes (coded s n code) (strmHandle s n), p.2 < 3 → p.1 = false) : Refused s (strmCmd n code causes f s) n 3 := by
  rw [← strm_coded (n := n) (code := code)] at hf hp
  exact strmCmd_refused (strmCause_foreign h0 hf hp hc) (by decide) (by decide)

variable (hp : (strm s (strmHandle s n)).st = .free ∨ (strm s (strmHandle s n)).part = n)
include hp

theorem strmCmd_busy (hc : ∀ p ∈ causes (coded s n code) (strmHandle s n), p.2 < 7 → p.1 = false)
    (hb : busyBars (coded s n code) n (strmHandle s n) code = true) : Refused s (strmCmd n code causes f s) n 7 := by
  rw [← strm_coded (n := n) (code := code)] at hp
  exact strmCmd_refused (strmCause_busy h0 hp hc hb) (by decide) (by decide)

theorem strmCmd_acts (hc : ∀ p ∈ causes (coded s n code) (strmHandle s n), p.1 = false)
    (hb : busyBars (coded s n code) n (strmHandle s n) code = false) :
    strmCmd n code causes f s = f (coded s n code) (strmHandle s n) := by
  rw [← strm_coded (n := n) (code := code)] at hp
  simp only [strmCmd_eq, strmHandle_coded, strmCause_none h0 hp hc hb, if_true]

end

theorem busyBars_idle {c : Nat} (hb : rb s (strmStat n) 1 = false) : busyBars (coded s n code) n h c = false := by
  rw [busyBars, rb_coded (by decide), hb, Bool.false_and]

/-- A command that may replace its own stream's EXPORT is not barred by the BUSY of that EXPORT (R212). -/
theorem busyBars_replace {c : Nat} (hp : (strm s h).part = n) (hc : c = 3 ∨ c = 4 ∨ c = 5)
    (hb : rb s (strmStat n) 1 = false ∨ xportWaits (strm s h) = true) : busyBars (coded s n code) n h c = false := by
  rcases hb with hb | hx
  · exact busyBars_idle hb
  · have hr : (decide (c = 3) || decide (c = 4) || decide (c = 5)) = true := by simpa [or_assoc] using hc
    simp only [busyBars, strm_coded, hx, hp, hr, decide_true, Bool.and_self, Bool.not_true, Bool.and_false]

/-- BUSY bars the command that replaces nothing. -/
theorem busyBars_bars {c : Nat} (hb : rb s (strmStat n) 1 = true) (hx : xportWaits (strm s h) = false ∨ (c ≠ 3 ∧ c ≠ 4 ∧ c ≠ 5)) :
    busyBars (coded s n code) n h c = true := by
  rw [busyBars, rb_coded (by decide), hb, strm_coded]
  rcases hx with hx | hx <;> simp [hx]

/-- A pair reads the number written to it, modulo 2^64. -/
theorem rd64_wr64 (t : State) (a v : Nat) : rd64 (wr64 t a v) a = v % 2 ^ 64 := by
  rw [rd64, wr64, rdN_wrN_same, rdN_wrN_ne _ (by omega), rdN_wrN_same]
  omega

/-- STRM_QUERY and STRM_SEQ lie elsewhere than STRM_STAT. -/
theorem rdN_shown {w q : Nat} : rdN (wr64 (wrN u (partPg n + 0x330) w) (partPg n + 0x328) q) (strmStat n) = rdN u (strmStat n) := by
  rw [wr64, rdN_wrN_ne _ (by unfold strmStat; omega), rdN_wrN_ne _ (by unfold strmStat; omega), rdN_wrN_ne _ (by unfold strmStat; omega)]

theorem strm_shown (w q g : Nat) : strm (wr64 (wrN u (partPg n + 0x330) w) (partPg n + 0x328) q) g = strm u g :=
  strm_of_strms ((wr64_strms ..).trans (wrN_strms ..)) g

/-- DONE lies in STRM_STAT. -/
theorem rdN_strmDone {t : State} {a : Nat} (ha : a ≠ strmStat n) : rdN (strmDone t n) a = rdN t a := (rdN_wf ..).trans (if_neg ha)

end

end Sys2Proof.Machine
end

section
/-!
PROOFS. The stream commands: what refuses each, and what each leaves (07_streams_state R190, R193, R210-R213).
-/
namespace Sys2Proof.Machine

set_option Elab.async false

section
variable {s : State} {n : Nat}

/-! ## The writes of STRM_CMD -/

/-- The commands of STRM_CMD. -/
def strmInstrs (r : Requester) (n : Fin 16) : List Instr :=
  [.strmOpen r n, .strmClose r n, .strmPark r n, .strmUnpark r n, .strmExport r n, .strmImport r n, .strmSetcfg r n, .strmQuery r n]

/-- Each is a write of STRM_CMD that runs its code with its causes. -/
theorem strmInstrs_run {r : Requester} {n : Fin 16} {i : Instr} (hi : i ∈ strmInstrs r n) : ∃ code causes f,
    exec i s = .next (hostWr s r (partPg n + 0x304) (strmCmd n code causes f)) := by
  simp only [strmInstrs, List.mem_cons, List.not_mem_nil, or_false] at hi
  rcases hi with rfl | rfl | rfl | rfl | rfl | rfl | rfl | rfl <;> exact ⟨_, _, _, rfl⟩

/-- An effect of a write of STRM_CMD that its requester may make. -/
theorem gives_strmWrite {r : Requester} {n : Fin 16} {i : Instr} {f : State → State} {P : State → Prop}
    (e : exec i s = .next (hostWr s r (partPg n + 0x304) f)) (hw : wOk s r (partPg n + 0x304) = true) (h : P (f s)) : Gives i s P :=
  ⟨f s, by rw [e, hostWr_taken hw], h⟩

section
variable (h0 : strmHandle s n ≠ 0)
include h0

/-! ## The stream of another partition -/

section
variable (hp : (strm s (strmHandle s n)).part ≠ n)
include hp

theorem closeEff_foreign (hst : (strm s (strmHandle s n)).st = .active ∨ (strm s (strmHandle s n)).st = .parked) :
    Refused s (closeEff n s) n 3 := by
  rcases hst with e | e <;> exact strmCmd_foreign h0 (by simp [e]) hp (by simp [e])

theorem setcfgEff_foreign (hf : (strm s (strmHandle s n)).st ≠ .free) : Refused s (setcfgEff n s) n 3 :=
  strmCmd_foreign h0 hf hp (by simp [hf])

theorem queryEff_foreign (hf : (strm s (strmHandle s n)).st ≠ .free) : Refused s (queryEff n s) n 3 :=
  strmCmd_foreign h0 hf hp (by simp)

end

/-! ## OPEN and IMPORT -/

section
variable (hf : (strm s (strmHandle s n)).st = .free) (hj : jobHomeOk s n = true) (ha : strmBiv s n % 64 = 0)
  (hs : activeSt (part s n).st = true) (hk : hasKey s (partParty s n) = true) (hn : n < 16)
  (hr : inRegion s (partParty s n) 0 (strmBiv s n) (newBlobLen s n (strmHandle s n)) = true) (hb : rb s (strmStat n) 1 = false)
include hf hj ha hs hk hn hr hb

theorem openEff_answered : Answered s (openEff n s) n (strmHandle s n) 1 (newStrm s n (strmHandle s n) .opn) := by
  rw [openEff, strmCmd_acts h0 (.inl hf) (by simp [hf, hj, ha, hs, hk, hr, inRegion_coded hn]) (busyBars_idle hb), newStrm_coded]
  exact setStrm_answered coded_strms ((rb_coded (by decide)).trans hb) (rf_coded (by decide))

theorem importEff_started (hx : strmXaddr s n % 64 = 0)
    (hw : inWindow s (partParty s n) (strmXaddr s n) (newBlobLen s n (strmHandle s n)) = true) :
    strm (importEff n s) (strmHandle s n) = { newStrm s n (strmHandle s n) .moving with xfer := .imprt (strmXaddr s n) } ∧
      rb (importEff n s) (strmStat n) 1 = true := by
  rw [importEff, strmCmd_acts h0 (.inl hf)
    (by simp [hf, hj, ha, hs, hk, hr, hx, hw, inRegion_coded hn, inWindow_coded hn]) (busyBars_idle hb), newStrm_coded, strmXaddr_coded]
  exact ⟨by simp, rb_started⟩

end

/-! ## The commands on a stream of the partition -/

section
variable (hp : (strm s (strmHandle s n)).part = n)
include hp

section
variable (hb : rb s (strmStat n) 1 = false)
include hb

theorem closeEff_answered (hst : (strm s (strmHandle s n)).st = .opn ∨ (strm s (strmHandle s n)).st = .active ∨
    (strm s (strmHandle s n)).st = .parked) :
    Answered s (closeEff n s) n (strmHandle s n) 2 { strm s (strmHandle s n) with closeReq := true } := by
  rw [closeEff, strmCmd_acts h0 (.inr hp) (by rcases hst with e | e | e <;> simp [e]) (busyBars_idle hb), modStrm, strm_coded]
  exact setStrm_answered coded_strms ((rb_coded (by decide)).trans hb) (rf_coded (by decide))

theorem unparkEff_answered (hst : (strm s (strmHandle s n)).st = .parked) (hg : (strm s (strmHandle s n)).bad = false)
    (ha : activeSt (part s n).st = true) (hk : hasKey s (partParty s n) = true) :
    Answered s (unparkEff n s) n (strmHandle s n) 4 { strm s (strmHandle s n) with req := .unpark } := by
  rw [unparkEff, strmCmd_acts h0 (.inr hp) (by simp [hst, hg, ha, hk]) (busyBars_idle hb)]
  exact request_answered coded_strms (.inl ((rb_coded (by decide)).trans hb)) (rf_coded (by decide)) _

theorem exportEff_started (hst : (strm s (strmHandle s n)).st = .active ∨ (strm s (strmHandle s n)).st = .parked)
    (hx : strmXaddr s n % 64 = 0) (hk : hasKey s (partParty s n) = true) (hn : n < 16)
    (hw : inWindow s (partParty s n) (strmXaddr s n) (blobLen s (strm s (strmHandle s n))) = true) :
    strm (exportEff n s) (strmHandle s n) = { strm s (strmHandle s n) with req := .xport (strmXaddr s n) } ∧
      rb (exportEff n s) (strmStat n) 1 = true := by
  rw [exportEff, strmCmd_acts h0 (.inr hp) (by rcases hst with e | e <;> simp [e, hx, hk, hw, inWindow_coded hn]) (busyBars_idle hb),
    strmXaddr_coded, request_eq, strm_coded]
  exact ⟨by simp, rb_started⟩

theorem setcfgEff_answered (hf : (strm s (strmHandle s n)).st ≠ .free) :
    Answered s (setcfgEff n s) n (strmHandle s n) 7 (cfgStrm s n (strm s (strmHandle s n))) := by
  rw [setcfgEff, strmCmd_acts h0 (.inr hp) (by simp [hf]) (busyBars_idle hb), modStrm, strm_coded, cfgStrm_coded]
  exact setStrm_answered coded_strms ((rb_coded (by decide)).trans hb) (rf_coded (by decide))

/-- The state in which STRM_QUERY and STRM_SEQ show a stream. -/
theorem queryEff_eq (hf : (strm s (strmHandle s n)).st ≠ .free) : queryEff n s =
    strmDone (wr64 (wrN (coded s n 8) (partPg n + 0x330) (queryWord (strm s (strmHandle s n)))) (partPg n + 0x328)
      (strm s (strmHandle s n)).seq) n := by
  rw [queryEff, strmCmd_acts h0 (.inr hp) (by simp) (busyBars_idle hb), strm_coded]
  dsimp only
  rw [if_neg hf]

theorem queryEff_answered (hf : (strm s (strmHandle s n)).st ≠ .free) :
    Answered s (queryEff n s) n (strmHandle s n) 8 (strm s (strmHandle s n)) := by
  rw [queryEff_eq h0 hp hb hf]
  refine strmDone_answered ((strm_shown ..).trans strm_coded) (fun g _ => (strm_shown ..).trans strm_coded) ?_ ?_
  · rw [rb, rdN_shown]
    exact (rb_coded (by decide)).trans hb
  · rw [rf, rdN_shown]
    exact rf_coded (by decide)

theorem queryEff_shows (hf : (strm s (strmHandle s n)).st ≠ .free) :
    rdN (queryEff n s) (partPg n + 0x330) = queryWord (strm s (strmHandle s n)) % 2 ^ 32 ∧
      rd64 (queryEff n s) (partPg n + 0x328) = (strm s (strmHandle s n)).seq % 2 ^ 64 := by
  rw [queryEff_eq h0 hp hb hf]
  generalize queryWord _ = w
  generalize (strm s (strmHandle s n)).seq = q
  generalize coded s n 8 = u
  have ha : partPg n + 0x330 ≠ strmStat n := by unfold strmStat; omega
  have hl : partPg n + 0x328 ≠ strmStat n := by unfold strmStat; omega
  have hh : partPg n + 0x328 + 4 ≠ strmStat n := by unfold strmStat; omega
  constructor
  · rw [rdN_strmDone ha, wr64, rdN_wrN_ne _ (by omega), rdN_wrN_ne _ (by omega), rdN_wrN_same]
  · rw [← rd64_wr64 (wrN u (partPg n + 0x330) w) (partPg n + 0x328) q, rd64, rd64, rdN_strmDone hl, rdN_strmDone hh]

end

/-- PARK of an ACTIVE stream, also where it replaces the stream's EXPORT. -/
theorem parkEff_answered (hb : rb s (strmStat n) 1 = false ∨ xportWaits (strm s (strmHandle s n)) = true)
    (hst : (strm s (strmHandle s n)).st = .active) (hy : steadyOf s n = false) (hk : hasKey s (partParty s n) = true) (hn : n < 16) :
    Answered s (parkEff n s) n (strmHandle s n) 3 { strm s (strmHandle s n) with req := .park } := by
  rw [parkEff, strmCmd_acts h0 (.inr hp) (by simp [hst, hy, hk, steadyOf_coded hn]) (busyBars_replace hp (by decide) hb)]
  exact request_answered coded_strms (hb.imp_left (rb_coded (by decide)).trans) (rf_coded (by decide)) _

/-! ### While BUSY is 1 -/

section
variable (hb : rb s (strmStat n) 1 = true)
include hb

theorem closeEff_busy (hst : (strm s (strmHandle s n)).st = .opn ∨ (strm s (strmHandle s n)).st = .active ∨
    (strm s (strmHandle s n)).st = .parked) : Refused s (closeEff n s) n 7 :=
  strmCmd_busy h0 (.inr hp) (by rcases hst with e | e | e <;> simp [e]) (busyBars_bars hb (.inr (by decide)))

theorem parkEff_busy (hx : xportWaits (strm s (strmHandle s n)) = false) (hst : (strm s (strmHandle s n)).st = .active)
    (hy : steadyOf s n = false) (hn : n < 16) : Refused s (parkEff n s) n 7 :=
  strmCmd_busy h0 (.inr hp) (by simp [hst, hy, steadyOf_coded hn]) (busyBars_bars hb (.inl hx))

end

end

end

end

/-- Settles O31: each command is refused with the lowest cause that holds, or acts as the equation of its effect says. -/
theorem streamCommandsAreCheckedThenAct : Obligations.StreamCommandsAreCheckedThenAct := by
  refine ⟨fun r s n hw hb => ?_, fun r s n hw hb => ?_⟩
  · intro h x ok
    refine ⟨fun h0 i hi => ?_, fun h0 hp => ⟨fun hst => ?_, fun hf => ⟨?_, ?_⟩⟩, fun h0 hf hj ha hs hk hr => ⟨?_, fun hx hi => ?_⟩,
      fun h0 hp => ⟨fun hst => ?_, fun hst hy hk => ?_, fun hst hg ha hk => ?_, fun hst hx hk hi => ?_, fun hf => ⟨?_, ?_, ?_⟩⟩⟩
    · obtain ⟨code, causes, f, e⟩ := strmInstrs_run (s := s) hi
      exact gives_strmWrite e hw (strmCmd_zero h0)
    · exact gives_strmWrite rfl hw (closeEff_foreign h0 hp hst).unchanged
    · exact gives_strmWrite rfl hw (setcfgEff_foreign h0 hp hf).unchanged
    · exact gives_strmWrite rfl hw (queryEff_foreign h0 hp hf).unchanged
    · exact gives_strmWrite rfl hw (openEff_answered h0 hf hj ha hs hk n.isLt hr hb)
    · exact gives_strmWrite rfl hw (importEff_started h0 hf hj ha hs hk n.isLt hr hb hx hi)
    · exact gives_strmWrite rfl hw (closeEff_answered h0 hp hb hst)
    · exact gives_strmWrite rfl hw (parkEff_answered h0 hp (.inl hb) hst hy hk n.isLt)
    · exact gives_strmWrite rfl hw (unparkEff_answered h0 hp hb hst hg ha hk)
    · exact gives_strmWrite rfl hw (exportEff_started h0 hp hb hst hx hk n.isLt hi)
    · exact gives_strmWrite rfl hw (setcfgEff_answered h0 hp hb hf)
    · exact gives_strmWrite rfl hw (queryEff_answered h0 hp hb hf)
    · exact gives_strmWrite rfl hw (queryEff_shows h0 hp hb hf)
  · intro h x h0 hp
    refine ⟨fun hst => ?_, fun hst hy hk => ⟨fun hx => ?_, fun hx => ?_⟩⟩
    · obtain ⟨hk, -, he, hs⟩ := closeEff_busy h0 hp hb hst
      exact gives_strmWrite rfl hw ⟨hk, he, hs⟩
    · exact gives_strmWrite rfl hw (parkEff_busy h0 hp hb hx hst hy n.isLt).unchanged
    · obtain ⟨hq, hd, hi, -, -⟩ := parkEff_answered h0 hp (.inr hx) hst hy hk n.isLt
      exact gives_strmWrite rfl hw ⟨hq, hi, hd⟩

end Sys2Proof.Machine
end

section
/-!
SUPPORT. The pieces of a stream's transfer: HBM writes and the bytes they leave, whole slots put and read, chunks that leave the queue
(07_streams_state R201, R207-R210; 09_memory R265, R266, R280).
-/
namespace Sys2Proof.Machine

set_option Elab.async false

section
variable {s0 s t : State} {h n : Nat}

/-! ## What HBM writes and reads of the side leave alone -/

theorem strm_of_only {F : List Comp} (e : Only F s t) (g : Nat) (hF : .strms ∉ F := by decide) : strm t g = strm s g :=
  strm_of_strms (e .strms hF) g

/-- What a write to HBM writes. -/
abbrev hbmComps : List Comp := [.marks, .regs, .vecs, .msgs, .hbm, .hbmBad, .hbmCe, .meeBad, .bg, .sirvi]

theorem hbmEnds_only (a n lo hi : Nat) : Only [.marks, .regs, .vecs, .msgs, .hbmCe, .bg, .sirvi] s (hbmEnds s a n lo hi) := by
  simp [hbmEnds]

theorem hbmWriteGran_only (a lo hi g : Nat) (l : List Byte) : Only hbmComps s (hbmWriteGran s a l lo hi g).1 := by
  unfold hbmWriteGran
  dsimp only
  split
  · exact (hbmPut_only s _ _).mono (by decide)
  · split
    · exact ((unpoison_only s _ _).mono (by decide)).trans ((hbmPut_only _ _ _).mono (by decide))
    · simp

theorem hbmWrite_only (s : State) (a : Nat) (l : List Byte) : Only hbmComps s (hbmWrite s a l).1 := by
  have he : Only hbmComps s (hbmEnds s a l.length a (a + l.length)) := (hbmEnds_only _ _ _ _).mono (by decide)
  unfold hbmWrite hbmWriteIn
  split
  · exact Only.refl _ s
  · split
    · exact he.trans ((hbmPut_only _ _ _).mono (by decide))
    · rw [foldlFst_frame fun p k => by exact hbmWriteGran_only _ _ _ _ _]
      exact he

theorem sideRead_only (s : State) (h : Nat) : Only [.marks, .regs, .vecs, .msgs, .slots, .pacc] s (sideRead s h) := by
  simp [sideRead, readSlots]

@[simp] theorem strmCharge_frame {F : List Comp} {a b : Nat} (sub : [.pacc] ⊆ F) : Only F s0 (strmCharge s h a b) ↔ Only F s0 s :=
  Only.iff (by simp [strmCharge]) sub

/-- A seal reads the committed side. -/
theorem sealBlob_reads {z : Option Seal} {b : List Byte} (e : sealBlob s h z = some (t, b)) : t = sideRead s h := by
  obtain ⟨z', -, e⟩ := Option.map_eq_some_iff.1 e
  exact (Prod.mk.inj e).1.symm

/-! ## Bytes written and read back -/

theorem memRead_memWrite (d : Byte) (m : List Host.Cell) (a : Nat) (bs : List Byte) : memRead d (memWrite d m a bs) a bs.length = bs := by
  refine List.ext_getElem (by simp [memRead]) fun i hi hi' => ?_
  simp [memRead, memGet_write, hi']

/-- HBM without a word in error takes a write as it is. -/
theorem hbmWrite_clean (hb : s.hbmBad = []) (hm : s.meeBad = []) (a : Nat) (bs : List Byte) :
    (hbmWrite s a bs).1.hbm = memWrite 0 s.hbm a bs := by
  have hp : hbmPoison s (128 * (a / 128)) (bs.length + 256) = false := by simp [hbmPoison, hb, hm]
  have he : (hbmEnds s a bs.length a (a + bs.length)).hbm = s.hbm := hbmEnds_only _ _ _ _ .hbm (by decide)
  rw [hbmWrite, hbmWriteIn, hp, ← he]
  split
  · rename_i e
    rw [he, e]
    rfl
  · rfl

/-! ## The data and the tags of slots -/

/-- What a reader of a slot sees: its bytes and its tag. -/
def Slot.seen (x : Slot) : SlotBits × Bool := (x.data, x.full)

def seenView (s : State) (k : Nat) : SlotBits × Bool := (smGet {} s.slots k).seen

theorem seen_of_slots (e : t.slots = s.slots) : Same seenView s t := by
  unfold Same seenView
  rw [e]

@[simp] theorem modSlot_seen {c i : Nat} {f : Slot → Slot} (hf : ∀ x, (f x).seen = x.seen) :
    Same seenView s0 (modSlot s c i f) ↔ Same seenView s0 s := by
  refine Same.iff (funext fun k => ?_)
  unfold seenView modSlot setSlot
  rw [smGet_smSet]
  split
  · rename_i e
    rw [hf, e]
    rfl
  · rfl

@[simp] theorem countUe_seen {c i : Nat} {l : List Nat} : Same seenView s0 (countUe s c i l) ↔ Same seenView s0 s :=
  Same.iff (seen_of_slots ((countUe_frame (F := evtComps) (List.Subset.refl _)).2 (Only.refl _ s) .slots (by decide)))

@[simp] theorem correct_seen {c i : Nat} {l : List Nat} : Same seenView s0 (correct s c i l) ↔ Same seenView s0 s := by
  refine Same.iff ?_
  unfold correct
  dsimp only
  split
  · exact same_refl _ s
  · refine Same.trans ?_ (seen_of_slots (bumpBy_evtOnly ..).slots)
    refine (modSlot_seen ?_).2 (same_refl _ s)
    exact fun _ => rfl

theorem sideRead_seen (s : State) (h : Nat) : Same seenView s (sideRead s h) := by
  have hr : Same seenView s (readSlots s (comSlots s h)) := by simp [readSlots, readSlot]
  exact hr.trans (seen_of_slots ((countBytes_frame (F := [.pacc]) (List.Subset.refl _)).2 (Only.refl _ _) .slots (by decide)))

theorem slotAt_of_slots (e : t.slots = s.slots) (k i : Nat) : slotAt t k i = slotAt s k i := by rw [slotAt, e, slotAt]

/-! ## Slots written whole (R265) -/

/-- A bit of the number that bytes spell. -/
theorem testBit_leNat (bs : List Byte) (k j : Nat) (hj : j < 8) (hk : k < bs.length) : (leNat bs).testBit (8 * k + j) = bs[k].getLsbD j := by
  induction bs generalizing k with
  | nil => cases hk
  | cons b bs ih =>
    rw [leNat, Nat.add_comm, show 256 = 2 ^ 8 from rfl, Nat.testBit_two_pow_mul_add _ b.isLt]
    cases k with
    | zero => simp [hj]; rfl
    | succ k =>
      rw [if_neg (by omega), show 8 * (k + 1) + j - 8 = 8 * k + j by omega]
      exact ih k (Nat.lt_of_succ_lt_succ hk)

theorem slotByte_slotPut (d : SlotBits) {bs : List Byte} {k : Nat} (hl : bs.length = 256) (hk : k < bs.length) :
    slotByte (slotPut d 0 bs) k = bs[k] := by
  refine BitVec.eq_of_getLsbD_eq fun j hj => ?_
  have hb : 8 * k + j < 2048 := by omega
  have hs := bitAt_setFld d.toNat (8 * 0) (8 * bs.length) (leNat bs) (8 * k + j)
  rw [if_neg (by omega), if_pos (by omega), show 8 * k + j - 8 * 0 = 8 * k + j by omega] at hs
  rw [slotByte, BitVec.getLsbD_extractLsb', slotPut, BitVec.getLsbD_ofNat, ← testBit_leNat bs k j hj hk]
  simp only [hj, hb, decide_true, Bool.true_and]
  exact hs

/-- 256 bytes put into a slot are the bytes read from it. -/
theorem slotBytes_slotPut (d : SlotBits) {bs : List Byte} (hl : bs.length = 256) : slotBytes (slotPut d 0 bs) 0 256 = bs := by
  refine List.ext_getElem (by simp [slotBytes, hl]) fun k hk hk' => ?_
  rw [← slotByte_slotPut d hl hk']
  simp [slotBytes]

/-- A write of a whole slot meets no word in part. -/
theorem slotWrite_whole (x : Slot) {bs : List Byte} (hl : bs.length = 256) : (slotWrite x 0 bs).data = slotPut x.data 0 bs := by
  have hp : partialBad x.poison 0 bs.length = [] := by
    refine List.filter_eq_nil_iff.2 fun w hw => ?_
    have := List.mem_range.1 hw
    simp [hl]
    omega
  rw [slotWrite, hp]
  rfl

theorem slotAt_setSlot (c i k j : Nat) (x : Slot) : slotAt (setSlot s c i x) k j = if k * 1024 + j = c * 1024 + i then x else slotAt s k j :=
  smGet_smSet ..

section
variable {c i off k j : Nat} {bs : List Byte} {b : Bool}

/-- A write with its tag is seen in its slot alone. -/
theorem slotEff_other (hk : k * 1024 + j ≠ c * 1024 + i) : (slotAt (slotEff s c i off bs (some b)) k j).seen = (slotAt s k j).seen := by
  unfold slotEff
  extract_lets u x u1 y f
  have hu : Same seenView s u1 := by simp [u1, u]
  rw [slotAt_setSlot, if_neg hk]
  exact congrFun hu (k * 1024 + j)

theorem slotEff_tag (hk : k * 1024 + j = c * 1024 + i) : (slotAt (slotEff s c i off bs (some b)) k j).full = b := by
  rw [slotEff, slotAt_setSlot, if_pos hk]

/-- 256 bytes written from the first on are the bytes of the slot. -/
theorem slotEff_bytes (hl : bs.length = 256) : slotBytes (slotAt (slotEff s c i 0 bs (some b)) c i).data 0 256 = bs := by
  rw [slotEff, slotAt_setSlot_same, slotWrite_whole _ hl, slotBytes_slotPut _ hl]

/-- A FULL write leaves the FULL slots FULL. -/
theorem slotEff_full (hf : (slotAt s k j).full = true) : (slotAt (slotEff s c i off bs (some true)) k j).full = true := by
  by_cases hk : k * 1024 + j = c * 1024 + i
  · exact slotEff_tag hk
  · exact (congrArg Prod.snd (slotEff_other hk)).trans hf

end

/-- The number under which a slot is held tells its core and its place in it. -/
theorem slotKey_inj {q r : Nat × Nat} (hq : q.2 < 1024) (hr : r.2 < 1024) (e : q.1 * 1024 + q.2 = r.1 * 1024 + r.2) : q = r :=
  Prod.ext (by omega) (by omega)

/-! ## A side filled with state (R199, R209) -/

/-- Slots in order take the state bytes, 256 each, FULL. -/
def fillSlots (s : State) (l : List (Nat × Nat)) (bs : List Byte) : State :=
  each s l.zipIdx fun s q => slotEff s q.1.1 q.1.2 0 ((bs.drop (256 * q.2)).take 256) (some true)

theorem putState_eq (bs : List Byte) : putState s h bs =
    let l := sideSlots s (strm s h) (strm s h).side
    countBytes (fillSlots s l bs) (strm s h).part (256 * l.length) := rfl

theorem fillSlots_only (s : State) (l : List (Nat × Nat)) (bs : List Byte) : Only [.marks, .regs, .vecs, .msgs, .slots] s (fillSlots s l bs) :=
  (each_frame fun u q => by simp).2 (Only.refl _ s)

theorem putState_only (s : State) (h : Nat) (bs : List Byte) : Only [.marks, .regs, .vecs, .msgs, .slots, .pacc] s (putState s h bs) := by
  rw [putState_eq]
  exact (countBytes_frame (by decide)).2 ((fillSlots_only _ _ _).mono (by decide))

/-- Counting the bytes leaves the slots. -/
theorem putState_slots (s : State) (h : Nat) (bs : List Byte) :
    (putState s h bs).slots = (fillSlots s (sideSlots s (strm s h) (strm s h).side) bs).slots := by
  rw [putState_eq]
  exact (countBytes_frame (F := [.pacc]) (List.Subset.refl _)).2 (Only.refl _ _) .slots (by decide)

theorem sideSlots_of_parts (e : t.parts = s.parts) (x : Strm) (d : Nat) : sideSlots t x d = sideSlots s x d := by
  rw [sideSlots, sideSlots, job_of_parts e]

section
variable {l : List (Nat × Nat)} {bs : List Byte} {i : Nat} {q : Nat × Nat} (hq : l[i]? = some q)
include hq

theorem fillSlots_full : (slotAt (fillSlots s l bs) q.1 q.2).full = true :=
  each_reaches (P := fun _ => True) (Q := fun u => (slotAt u q.1 q.2).full = true) (List.mk_mem_zipIdx_iff_getElem?.2 hq) trivial
    (fun _ _ _ _ => trivial) (fun _ _ => slotEff_tag rfl) fun _ _ _ _ => slotEff_full

/-- Slots all different each hold their own piece. -/
theorem fillSlots_bytes (hn : l.Nodup) (hl : ∀ r ∈ l, r.2 < 1024) (hb : ((bs.drop (256 * i)).take 256).length = 256) :
    slotBytes (slotAt (fillSlots s l bs) q.1 q.2).data 0 256 = (bs.drop (256 * i)).take 256 := by
  refine each_reaches (P := fun _ => True) (Q := fun u => slotBytes (slotAt u q.1 q.2).data 0 256 = (bs.drop (256 * i)).take 256)
    (List.mk_mem_zipIdx_iff_getElem?.2 hq) trivial (fun _ _ _ _ => trivial) (fun u _ => slotEff_bytes hb) fun u ⟨r, j⟩ hr _ hu => ?_
  have hr : l[j]? = some r := List.mk_mem_zipIdx_iff_getElem?.1 hr
  by_cases e : q = r
  · have hj : i = j := (List.getElem?_inj (List.getElem?_eq_some_iff.1 hq).1 hn).1 (hq.trans (e ▸ hr.symm))
    rw [← e, ← hj]
    exact slotEff_bytes hb
  · have hk := mt (slotKey_inj (hl q (List.mem_of_getElem? hq)) (hl r (List.mem_of_getElem? hr))) e
    rw [show (slotAt _ q.1 q.2).data = _ from congrArg Prod.fst (slotEff_other hk)]
    exact hu

end

/-! ## Chunks that leave the queue (R201, R210) -/

theorem retireChunk_only (s : State) (n : Nat) (c : Chunk) : Only [.regs, .ings, .slots] s (retireChunk s n c) := by
  have hi : ∀ (u : State) i, Only [.regs, .ings, .slots] u (retireIdx u n i) := fun u i => by simp [retireIdx]
  have hs : Only [.regs, .ings, .slots] s (freeStore s c) := by
    unfold freeStore
    split <;> simp
  exact (each_frame hi).2 hs

/-- A dropped chunk is counted in its stream. -/
theorem strm_dropChunk (c : Chunk) : strm (dropChunk s h c) h = { strm s h with cDrop := sat16 ((strm s h).cDrop + 1) } := by
  have he : ∀ (u : State) a b d e f, strm (strmEvent u h a b d e f) h = strm u h := fun u a b d e f =>
    strm_of_only ((strmEvent_frame (F := [.marks, .regs, .vecs, .msgs, .emis, .emLost]) (List.Subset.refl _)).2 (Only.refl _ u)) h
  rw [dropChunk, he, strm_modStrm_same, strm_of_only (retireChunk_only _ _ _)]

/-- A stream whose chunks are dropped has an empty queue and the outcome it had. -/
theorem strm_flushed : (strm (flushChunks s h fun s c => dropChunk s h c) h).queue = [] ∧
    (strm (flushChunks s h fun s c => dropChunk s h c) h).done = (strm s h).done := by
  refine each_inv (P := fun u => (strm u h).queue = [] ∧ (strm u h).done = (strm s h).done) (fun u c _ hu => ?_) ?_
  · rw [strm_dropChunk]
    exact hu
  · rw [strm_modStrm_same]
    exact ⟨rfl, rfl⟩

/-- The chunk has waited no longer than `hold` dispatches. -/
def Chunk.within (hold : Nat) (c : Chunk) : Bool := match c.age with | some a => decide (a ≤ hold) | none => true

/-- The chunks older than HOLD leave the queue, and no other. -/
theorem holdDrops_queue : (strm (holdDrops s h) h).queue = (strm s h).queue.filter (Chunk.within (strm s h).hold) := by
  unfold holdDrops
  extract_lets x old
  have ho : ∀ c, (!old c) = Chunk.within x.hold c := fun c => by
    unfold old Chunk.within
    cases c.age with
    | none => rfl
    | some a => exact (decide_not ..).symm.trans (decide_eq_decide.2 Nat.not_lt)
  split
  · refine each_inv (P := fun u => (strm u h).queue = x.queue.filter (Chunk.within x.hold)) (fun u c _ hu => ?_) ?_
    · rw [strm_of_strms (bump_strms _ _) h, strm_dropChunk]
      exact hu
    · rw [strm_modStrm_same]
      exact List.filter_congr fun c _ => ho c
  · rename_i hn
    refine (List.filter_eq_self.2 fun c hc => ?_).symm
    rw [← ho, Bool.not_eq_true']
    exact Bool.eq_false_iff.2 fun e => hn (List.any_eq_true.2 ⟨c, hc, e⟩)

end

end Sys2Proof.Machine
end

section
/-!
PROOFS. The transfers of streams complete; old chunks drop; idle streams park (07_streams_state R200-R203, R208-R211).
-/
namespace Sys2Proof.Machine

set_option Elab.async false

section
variable {s : State} {h : Nat}

theorem strmCharge_only (s : State) (h a b : Nat) : Only [.pacc] s (strmCharge s h a b) := by simp

/-! ## The bivouac write of a park (R202, R208) -/

section
variable (hst : (strm s h).st = .parking) (hx : (strm s h).xfer = .write true)
include hst hx

/-- A slot of the side that is not FULL keeps the engine waiting. -/
theorem bivouacWriteDone_waits (hf : sideFull s h = false) : bivouacWriteDoneEff h s = s := by
  simp only [bivouacWriteDoneEff, hst, hx, hf, decide_true, Bool.and_self, if_true, Bool.not_false]

section
variable (hf : sideFull s h = true) (hb : sideBad s h = false) {s1 : State} {b : List Byte} (e : sealBlob s h (strm s h).sealQ = some (s1, b))
include hf hb e

theorem bivouacWriteDone_seals : bivouacWriteDoneEff h s = modStrm (strmCharge (hbmWrite (sideRead s h) (strm s h).biv b).1 h 0 b.length) h
    fun x => { x with xfer := .none, done := .parked } := by
  rw [← sealBlob_reads e]
  simp only [bivouacWriteDoneEff, hst, hx, hf, hb, e, decide_true, Bool.and_self, if_true, Bool.not_true, Bool.false_eq_true, if_false]

theorem bivouacWriteDone_parks (hc : s.hbmBad = []) (hm : s.meeBad = []) :
    strm (bivouacWriteDoneEff h s) h = { strm s h with xfer := .none, done := .parked } ∧
      memRead 0 (bivouacWriteDoneEff h s).hbm (strm s h).biv b.length = b ∧ ∀ k i,
        (slotAt (bivouacWriteDoneEff h s) k i).data = (slotAt s k i).data ∧ (slotAt (bivouacWriteDoneEff h s) k i).full = (slotAt s k i).full := by
  rw [bivouacWriteDone_seals hst hx hf hb e]
  have hr := sideRead_only s h
  have hw := hbmWrite_only (sideRead s h) (strm s h).biv b
  have hg := strmCharge_only (hbmWrite (sideRead s h) (strm s h).biv b).1 h 0 b.length
  refine ⟨?_, ?_, fun k i => ?_⟩
  · rw [strm_modStrm_same, strm_of_only hg, strm_of_only hw, strm_of_only hr]
  · have hbad : (sideRead s h).hbmBad = [] := Eq.trans (hr .hbmBad (by decide)) hc
    have hmee : (sideRead s h).meeBad = [] := Eq.trans (hr .meeBad (by decide)) hm
    rw [modStrm_hbm, hg .hbm (by decide), hbmWrite_clean hbad hmee, memRead_memWrite]
  · have hv : Same seenView s (hbmWrite (sideRead s h) (strm s h).biv b).1 :=
      (sideRead_seen s h).trans (seen_of_slots (hw .slots (by decide)))
    have he := congrFun (hv.trans (seen_of_slots (hg .slots (by decide)))) (k * 1024 + i)
    exact ⟨congrArg Prod.fst he, congrArg Prod.snd he⟩

end

end

/-! ## The bivouac read of an unpark (R209) -/

/-- What the reading of a blob writes. -/
abbrev blobReadComps : List Comp := [.marks, .regs, .vecs, .msgs, .hbmCe, .bg, .sirvi, .pacc]

/-- The blob of a stream is read: its words in error are met, and the traffic is charged. -/
def blobRead (s : State) (h a : Nat) : State := strmCharge (hbmUe s a (blobLen s (strm s h))) h (blobLen s (strm s h)) 0

theorem blobRead_only (s : State) (h a : Nat) : Only blobReadComps s (blobRead s h a) := by simp [blobRead]

theorem strm_blobRead (s : State) (h a : Nat) : strm (blobRead s h a) h = strm s h := strm_of_only (blobRead_only s h a) h

section
variable (hst : (strm s h).st = .unparking) (hx : (strm s h).xfer = .read)
include hst hx

section
variable {bs : List Byte} (hc : checkBlob s h (strm s h).biv = some bs)
include hc

theorem bivouacReadDone_puts : bivouacReadDoneEff h s =
    modStrm (putState (blobRead s h (strm s h).biv) h bs) h fun x => { x with xfer := .none, done := .active } := by
  simp only [bivouacReadDoneEff, blobRead, hst, hx, hc, decide_true, Bool.and_self, if_true]

theorem bivouacReadDone_unparks : (strm (bivouacReadDoneEff h s) h).xfer = .none ∧ (strm (bivouacReadDoneEff h s) h).done = .active ∧
    (bivouacReadDoneEff h s).hbm = s.hbm := by
  rw [bivouacReadDone_puts hst hx hc, strm_modStrm_same, modStrm_hbm, putState_only _ _ _ .hbm (by decide),
    blobRead_only _ _ _ .hbm (by decide)]
  exact ⟨rfl, rfl, rfl⟩

/-- The side is filled with the state bytes of the blob. -/
theorem bivouacReadDone_slotAt (k i : Nat) : slotAt (bivouacReadDoneEff h s) k i =
    slotAt (fillSlots (blobRead s h (strm s h).biv) (sideSlots s (strm s h) (strm s h).side) bs) k i := by
  rw [bivouacReadDone_puts hst hx hc]
  refine slotAt_of_slots ((modStrm_slots ..).trans ((putState_slots _ _ _).trans ?_)) k i
  rw [strm_blobRead, sideSlots_of_parts (blobRead_only s h _ .parts (by decide))]

end

theorem bivouacReadDone_bad (hc : checkBlob s h (strm s h).biv = none) :
    strm (bivouacReadDoneEff h s) h = { strm s h with xfer := .none, done := .unparkBad } ∧ (bivouacReadDoneEff h s).slots = s.slots := by
  have e : bivouacReadDoneEff h s = bump (modStrm (blobRead s h (strm s h).biv) h fun x => { x with xfer := .none, done := .unparkBad })
      (partPg (strm s h).part) 0x34C := by
    simp only [bivouacReadDoneEff, blobRead, hst, hx, hc, decide_true, Bool.and_self, if_true]
  rw [e, strm_of_strms (bump_strms _ _) h, strm_modStrm_same, strm_blobRead, bump_slots, modStrm_slots, blobRead_only _ _ _ .slots (by decide)]
  exact ⟨rfl, rfl⟩

end

/-! ## The end of an EXPORT (R210) -/

theorem strm_xportEnd {n g : Nat} : strm (xportEnd s n) g = strm s g := strm_wf.trans strm_wf

/-- The command ends with DONE. -/
theorem xportEnd_done {n : Nat} : rb (xportEnd s n) (strmStat n) 1 = false ∧ rb (xportEnd s n) (strmStat n) 0 = true :=
  ⟨(rb_wf _ _ _ _ _ _ (by decide)).trans (rb_wf _ _ _ _ _ _ (by decide)), rb_wf _ _ _ _ _ _ (by decide)⟩

theorem strm_xportFail {n k g : Nat} : strm (xportFail s n h k) g = strm s g := by
  rw [xportFail, strmReject, strm_setEvt, strm_wf, strm_wf, strm_wf]

/-- The command ends with a cause. -/
theorem xportFail_cause {n k : Nat} (hk : k < 256) : rf (xportFail s n h k) (strmStat n) 24 8 = k ∧ rb (xportFail s n h k) (strmStat n) 1 = false :=
  ⟨rf_strmReject hk, rb_strmReject_busy.trans (rb_wf _ _ _ _ _ _ (by decide))⟩

/-- The stream will be CLOSED, its chunks have left the queue, and the command has ended with DONE. -/
def Exported (t : State) (h n : Nat) : Prop :=
  (strm t h).done = .closed ∧ (strm t h).queue = [] ∧ rb t (strmStat n) 1 = false ∧ rb t (strmStat n) 0 = true

theorem xportEnd_exported {n : Nat} (hd : (strm s h).done = .closed) :
    Exported (xportEnd (flushChunks s h fun s c => dropChunk s h c) n) h n := by
  obtain ⟨hq, hd'⟩ := strm_flushed (s := s) (h := h)
  rw [Exported, strm_xportEnd]
  exact ⟨hd'.trans hd, hq, xportEnd_done⟩

section
variable (hst : (strm s h).st = .moving)
include hst

theorem exportDone_seals {a : Nat} (hx : (strm s h).xfer = .xport a true) (hf : sideFull s h = true) (hb : sideBad s h = false)
    (hz : (strm s h).sealQ.isSome = true) : Exported (exportDoneEff h s) h (strm s h).part := by
  obtain ⟨⟨s1, b⟩, e⟩ : ∃ p, sealBlob s h (strm s h).sealQ = some p := Option.isSome_iff_exists.1 (by rwa [sealBlob, Option.isSome_map])
  simp only [exportDoneEff, hst, hx, hf, hb, e, Bool.not_true, Bool.false_eq_true, if_false]
  exact xportEnd_exported (by rw [strm_modStrm_same])

section
variable {a : Nat} (hx : (strm s h).xfer = .xport a false)
include hx

theorem exportDone_copies (hc : (checkBlob s h (strm s h).biv).isSome = true) :
    Exported (exportDoneEff h s) h (strm s h).part := by
  obtain ⟨bs, e⟩ := Option.isSome_iff_exists.1 hc
  simp only [exportDoneEff, hst, hx, e]
  exact xportEnd_exported (by rw [strm_modStrm_same])

theorem exportDone_bad (hc : checkBlob s h (strm s h).biv = none) : (strm (exportDoneEff h s) h).done = .exportBad ∧
    rf (exportDoneEff h s) (strmStat (strm s h).part) 24 8 = 12 ∧ rb (exportDoneEff h s) (strmStat (strm s h).part) 1 = false := by
  simp only [exportDoneEff, hst, hx, hc]
  refine ⟨?_, xportFail_cause (by decide)⟩
  rw [strm_xportFail, strm_of_strms (bump_strms _ _) h, strm_modStrm_same]

end

end

/-! ## The end of an IMPORT (R211) -/

theorem importCause_lt {a k : Nat} (e : importCause s h a = some k) : k < 256 := by
  unfold importCause at e
  dsimp only at e
  split_ifs at e <;> simp only [Option.some.injEq] at e <;> omega

section
variable (hst : (strm s h).st = .moving)
include hst

section
variable {a : Nat} (hx : (strm s h).xfer = .imprt a)
include hx

theorem importDone_refused {k : Nat} (e : importCause s h a = some k) : strm (importDoneEff h s) h = { lastSeq := (strm s h).lastSeq } ∧
    rf (importDoneEff h s) (strmStat (strm s h).part) 24 8 = k ∧ rb (importDoneEff h s) (strmStat (strm s h).part) 1 = false := by
  simp only [importDoneEff, hst, hx, e]
  exact ⟨strm_xportFail.trans (strm_setStrm_same _ _), xportFail_cause (importCause_lt e)⟩

theorem importDone_accepted (e : importCause s h a = none) : (strm (importDoneEff h s) h).done = .imported ∧
    (strm (importDoneEff h s) h).seq = bf (hbmRead s a (blobLen s (strm s h))) 0x10 8 ∧
    rb (importDoneEff h s) (strmStat (strm s h).part) 0 = true := by
  simp only [importDoneEff, hst, hx, e]
  rw [strm_xportEnd, strm_modStrm_same, setSeq, strm_modStrm_same]
  exact ⟨rfl, rfl, xportEnd_done.2⟩

end

end

/-! ## The dispatch window (R200-R203) -/

/-- What a seal takes of the key slot of a party, where the party has a current key (R208). -/
def takenSeal (s : State) (p : Nat) : Option Seal :=
  (slotOfParty s p).bind fun i => (keySlot s i).pk.map fun pk =>
    { id := (keySlot s i).keyid, key := derive (keySlot s i).keyid pk labelBlob, iv := (keySlot s i).iv }

theorem takenSeal_isSome {p : Nat} : (takenSeal s p).isSome = true ↔ ∃ i, slotOfParty s p = some i ∧ (keySlot s i).pk.isSome = true := by
  simp [takenSeal, Option.isSome_bind, Option.any_eq_true]

theorem strm_sealNow : strm (sealNow s h) h = { strm s h with sealQ := takenSeal s (strm s h).party } := by
  unfold sealNow takeSeal takenSeal
  cases slotOfParty s (strm s h).party with
  | none => exact strm_modStrm_same _ _
  | some i =>
    dsimp only [Option.bind_some]
    cases (keySlot s i).pk with
    | none => exact strm_modStrm_same _ _
    | some pk => rw [strm_modStrm_same, strm_of_strms (setKeySlot_strms ..), Option.map_some]

/-- A stream that parks with no chunk to bind takes its seal at once. -/
theorem beginPark_parks :
    let x := strm s h
    let t := beginPark s h
    let now := (headReady x).isNone
    strm t h = { x with
      st := .parking, req := (if x.req = .park then .none else x.req), xfer := .write now, sealQ := (strm t h).sealQ } ∧
    (now = false → (strm t h).sealQ = x.sealQ) ∧
    (now = true → ((strm t h).sealQ.isSome = true ↔ ∃ i, slotOfParty s x.party = some i ∧ (keySlot s i).pk.isSome = true)) := by
  intro x t now
  have ht : strm t h = _ := strm_modStrm_same _ _
  cases hn : now with
  | false =>
    rw [show (headReady (strm s h)).isNone = false from hn] at ht
    rw [ht]
    exact ⟨rfl, fun _ => rfl, nofun⟩
  | true =>
    rw [show (headReady (strm s h)).isNone = true from hn, show iff true s (fun s => sealNow s h) = sealNow s h from rfl, strm_sealNow] at ht
    rw [ht]
    exact ⟨rfl, nofun, fun _ => takenSeal_isSome⟩

end

/-- Settles O32: each transfer by what its command leaves at its end, a drop by the chunks that stay, a park by what its begin leaves. -/
theorem streamTransfersComplete : Obligations.StreamTransfersComplete := by
  refine ⟨fun s h => ?_, fun s n h hc hp => ⟨fun hf => ⟨_, rfl, ?_⟩, fun hi => ⟨_, rfl, ?_⟩, fun hi => congrArg Host.Outcome.next ?_⟩⟩
  · intro x
    refine ⟨fun hst hx hf hb hc hm s1 b e => ⟨_, rfl, bivouacWriteDone_parks hst hx hf hb e hc hm⟩,
      fun hst hx hf => congrArg Host.Outcome.next (bivouacWriteDone_waits hst hx hf),
      fun hst hx => ⟨fun bs hc => ⟨_, rfl, ?_⟩, fun hc => ⟨_, rfl, bivouacReadDone_bad hst hx hc⟩⟩,
      fun a hst hx hf hb hz _ => ⟨_, rfl, exportDone_seals hst hx hf hb hz⟩,
      fun a hst hx _ => ⟨fun hc => ⟨_, rfl, exportDone_bad hst hx hc⟩, fun hc => ⟨_, rfl, exportDone_copies hst hx hc⟩⟩,
      fun a hst hx _ => ⟨fun k e => ⟨_, rfl, importDone_refused hst hx e⟩, fun e => ⟨_, rfl, importDone_accepted hst hx e⟩⟩⟩
    obtain ⟨hn, hd, hh⟩ := bivouacReadDone_unparks hst hx hc
    refine ⟨hn, hd, hh, ?_⟩
    intro l i q hq
    rw [bivouacReadDone_slotAt hst hx hc]
    exact ⟨fillSlots_full hq, fun hl hr hb => fillSlots_bytes hq hl hr hb⟩
  · have e : holdDropEff n h.toNat s = holdDrops s h.toNat := if_pos (by simp [hc, hp, hf])
    rw [e]
    exact holdDrops_queue
  · have e : idleParkEff n h.toNat s = beginPark s h.toNat := if_pos (by simp [hc, hp, hi])
    rw [e]
    exact beginPark_parks
  · exact if_neg (by simp [hi])

end Sys2Proof.Machine
end

section
/-!
SUPPORT. What a write to HBM leaves: the registers below the stack pages, and the cells that it does not address (09_memory R280, R287).
-/
namespace Sys2Proof.Machine

set_option Elab.async false

section
variable {s0 s t : State}

/-! ## Registers below the stack pages -/

/-- The registers of the pages below those of the HBM stacks. -/
def lowRegs (s : State) : Fin 0x261000 → Word := fun a => rd s a.val

/-- Both states read the same at an address below the stack pages. -/
theorem Same.low_rdN (h : Same lowRegs s t) {a : Nat} (ha : a < 0x261000) : rdN t a = rdN s a :=
  congrArg BitVec.toNat (congrFun h ⟨a, ha⟩)

theorem low_only {F : List Comp} (h : Only F s t) (hF : .regs ∉ F := by decide) : Same lowRegs s0 t ↔ Same lowRegs s0 s :=
  Same.iff (funext fun a => rd_of_regs (h .regs hF) a.val)

@[simp] theorem wrN_low {a v : Nat} (ha : 0x261000 ≤ a) : Same lowRegs s0 (wrN s a v) ↔ Same lowRegs s0 s :=
  Same.iff (funext fun b => rd_wrN_ne _ v (by omega))

@[simp] theorem setEvt_low {pg bit d : Nat} (hp : pg % 4096 = 0) (h : 0x261000 ≤ pg) :
    Same lowRegs s0 (setEvt s pg bit d) ↔ Same lowRegs s0 s :=
  Same.iff (funext fun b => rd_setEvt_page s bit d hp (by omega))

@[simp] theorem bump_low {pg off : Nat} (hp : pg % 4096 = 0) (h : 0x261000 ≤ pg) : Same lowRegs s0 (bump s pg off) ↔ Same lowRegs s0 s :=
  Same.iff (funext fun b => rd_bumpBy_page s 1 hp (by omega))

theorem stkPg_low (k o : Nat) : 0x261000 ≤ stkPg k + o := by unfold stkPg; omega

/-! ## Reads and writes of HBM -/

@[simp] theorem hbmCeWord_low {w : Nat} : Same lowRegs s0 (hbmCeWord s w) ↔ Same lowRegs s0 s := by
  have hr : Only [.bg, .sirvi] _ (hbmCeWord s w) := (rowCe_frame (by simp)).2 (Only.refl _ _)
  rw [low_only hr, bump_low (aligned_stkPg _) (stkPg_low _ 0)]
  exact low_only (F := [.hbmCe]) (by simp)

@[simp] theorem hbmFix_low {a n : Nat} : Same lowRegs s0 (hbmFix s a n) ↔ Same lowRegs s0 s := Same.iff (by simp [hbmFix])

@[simp] theorem hbmEnds_low {a n lo hi : Nat} : Same lowRegs s0 (hbmEnds s a n lo hi) ↔ Same lowRegs s0 s := Same.iff (by simp [hbmEnds])

@[simp] theorem markRow_low {a : Nat} : Same lowRegs s0 (markRow s a) ↔ Same lowRegs s0 s := low_only (F := [.bg]) (by simp)

@[simp] theorem hbmUeWord_low {w : Nat} : Same lowRegs s0 (hbmUeWord s w) ↔ Same lowRegs s0 s :=
  Same.iff (by simp [hbmUeWord, stkPg_low])

@[simp] theorem meeErr_low {g : Nat} : Same lowRegs s0 (meeErr s g) ↔ Same lowRegs s0 s := by
  rw [meeErr, setEvt_low (by decide) (by decide), bump_low (by decide) (by decide)]

@[simp] theorem hbmUe_low {a n : Nat} : Same lowRegs s0 (hbmUe s a n) ↔ Same lowRegs s0 s := Same.iff (by simp [hbmUe, hbmEcc])

@[simp] theorem hbmPut_low {a : Nat} {l : List Byte} : Same lowRegs s0 (hbmPut s a l) ↔ Same lowRegs s0 s := low_only (hbmPut_only s a l)

@[simp] theorem hbmClear_low {a n : Nat} : Same lowRegs s0 (hbmClear s a n) ↔ Same lowRegs s0 s := low_only (hbmClear_only s a n)

theorem hbmWriteGran_low (a lo hi g : Nat) (l : List Byte) : Same lowRegs s (hbmWriteGran s a l lo hi g).1 := by
  unfold hbmWriteGran
  dsimp only
  split
  · simp
  · split
    · rw [hbmPut_low, low_only (unpoison_only s _ _)]
      rfl
    · simp

@[simp] theorem hbmWrite_low {a : Nat} {l : List Byte} : Same lowRegs s0 (hbmWrite s a l).1 ↔ Same lowRegs s0 s := by
  refine Same.iff ?_
  unfold hbmWrite hbmWriteIn
  split
  · rfl
  · split
    · simp
    · refine (foldlFst_same fun p k => by exact hbmWriteGran_low _ _ _ _ _).2 ?_
      simp

/-! ## The cells of HBM that a write may list -/

/-- The listed cells of `t` outside [a, b) are listed in `s`. -/
def CellsWithin (a b : Nat) (s t : State) : Prop := ∀ p ∈ t.hbm, p ∈ s.hbm ∨ a ≤ p.1 ∧ p.1 < b

variable {a b : Nat}

theorem CellsWithin.refl (s : State) : CellsWithin a b s s := fun _ hp => .inl hp

theorem CellsWithin.of_hbm (h : t.hbm = s.hbm) : CellsWithin a b s t := fun _ hp => .inl (h ▸ hp)

theorem CellsWithin.trans {u : State} (h : CellsWithin a b s t) (k : CellsWithin a b t u) : CellsWithin a b s u :=
  fun p hp => (k p hp).elim (h p) .inr

theorem mem_memWrite {d : Byte} {m : List Host.Cell} {bs : List Byte} {p : Host.Cell} (hp : p ∈ memWrite d m a bs) :
    p ∈ m ∨ a ≤ p.1 ∧ p.1 < a + bs.length := by
  induction bs generalizing m a with
  | nil => exact .inl hp
  | cons x bs ih =>
    rw [List.length_cons]
    rcases ih hp with hm | hr
    · have hs : p ∈ smErase m a ∨ p = (a, x) := by
        rw [memSet, smSet] at hm
        split at hm
        · exact .inl hm
        · exact (mem_smIns.1 hm).symm
      rcases hs with he | rfl
      · exact .inl (mem_smErase.1 he).1
      · exact .inr (by dsimp only; omega)
    · exact .inr (by omega)

theorem hbmPut_cells {x : Nat} {l : List Byte} (ha : a ≤ x ∨ l = []) (hb : x + l.length ≤ b ∨ l = []) : CellsWithin a b s (hbmPut s x l) := by
  intro p hp
  refine (mem_memWrite hp).imp_right fun hr => ?_
  rcases ha with ha | rfl
  · rcases hb with hb | rfl
    · omega
    · simp at hr; omega
  · simp at hr; omega

theorem hbmWriteGran_cells (x lo hi g : Nat) (l : List Byte) : CellsWithin x (x + l.length) s (hbmWriteGran s x l lo hi g).1 := by
  have hput : ∀ u : State, CellsWithin x (x + l.length) u
      (hbmPut u (max x (128 * g)) ((l.drop (max x (128 * g) - x)).take (min (x + l.length) (128 * g + 128) - max x (128 * g)))) := fun u =>
    hbmPut_cells (.inl (Nat.le_max_left ..)) (by
      rw [← List.length_eq_zero_iff, List.length_take, List.length_drop]; omega)
  unfold hbmWriteGran
  dsimp only
  split
  · exact hput s
  · split
    · exact (CellsWithin.of_hbm rfl).trans (hput _)
    · have hu : Only [.marks, .regs, .vecs, .msgs, .hbmCe, .bg, .sirvi] s (hbmUe s (128 * g) 128) := by simp
      exact .of_hbm (hu .hbm (by decide))

theorem hbmWrite_cells (s : State) (x : Nat) (l : List Byte) : CellsWithin x (x + l.length) s (hbmWrite s x l).1 := by
  have he : CellsWithin x (x + l.length) s (hbmEnds s x l.length x (x + l.length)) := .of_hbm (hbmEnds_only _ _ _ _ .hbm (by decide))
  unfold hbmWrite hbmWriteIn
  split
  · exact .refl s
  · split
    · exact he.trans (hbmPut_cells (.inl (Nat.le_refl x)) (.inl (Nat.le_refl _)))
    · refine List.foldlRecOn (motive := fun r : State × Bool => CellsWithin x (x + l.length) s r.1) _ _ he fun r hr k _ => ?_
      exact hr.trans (hbmWriteGran_cells _ _ _ _ _)

end

end Sys2Proof.Machine
end

section
/-!
PROOFS. The host commands of the KV engine and its recompute queue (08_attention R216, R226, R227, R251).
-/
namespace Sys2Proof.Machine

set_option Elab.async false

section
variable {s t : State} {n k : Nat}

/-! ## KV_STAT of a rejected, a taken and a completed command -/

/-- The event of a rejection lies elsewhere than KV_STAT. -/
theorem rf_kvReject : rf (kvReject s n k) (partPg n + 0x3B8) 24 8 = k % 2 ^ 8 := by
  have hs : rdN (kvReject s n k) (partPg n + 0x3B8) =
      rdN (wf (wf (wf s (partPg n + 0x3B8) 24 8 k) (partPg n + 0x3B8) 0 1 0) (partPg n + 0x3B8) 1 1 0) (partPg n + 0x3B8) :=
    rdN_setEvt_ne _ _ _ _ (by omega)
  rw [rf, hs, ← rf, rf_wf_other _ _ _ _ _ _ _ (by decide) (by decide), rf_wf_other _ _ _ _ _ _ _ (by decide) (by decide),
    rf_wf_same _ _ _ _ _ (by decide)]

/-- A rejected command has its cause in KV_STAT and sets CMD_REJ; no partition and no byte of HBM changes. -/
theorem kvReject_rejects (hk : k < 2 ^ 8) : rf (kvReject s n k) (partPg n + 0x3B8) 24 8 = k ∧
    rb (kvReject s n k) (partPg n + 0x14) 1 = true ∧ (kvReject s n k).parts = s.parts ∧ (kvReject s n k).hbm = s.hbm := by
  have ho : Only evtComps s (kvReject s n k) := by simp
  exact ⟨rf_kvReject.trans (Nat.mod_eq_of_lt hk), rb_setEvt _ _ _ (by decide), ho .parts (by decide), ho .hbm (by decide)⟩

/-- A command ignored while BUSY is 1 sets CMD_REJ. -/
theorem kvIgnored_rejects : rb (kvIgnored s n) (partPg n + 0x14) 1 = true ∧ (kvIgnored s n).parts = s.parts ∧ (kvIgnored s n).hbm = s.hbm := by
  have ho : Only evtComps s (kvIgnored s n) := by simp
  exact ⟨rb_setEvt _ _ _ (by decide), ho .parts (by decide), ho .hbm (by decide)⟩

/-- SEQ commands are taken with the argument registers as they stand. -/
theorem kvQueue_takes {cmd : Nat} (hb : kvBusy s n = false) (hon : kvOn s n = true) :
    rb (kvQueue n cmd s) (partPg n + 0x3B8) 1 = true ∧ (kvQueue n cmd s).hbm = s.hbm ∧
      (part (kvQueue n cmd s) n).kvCmd = some (kvArgRegs s n cmd) := by
  have e : kvQueue n cmd s = modPart (wf s (partPg n + 0x3B8) 1 1 1) n fun p => { p with kvCmd := some (kvArgRegs s n cmd) } := by
    simp [kvQueue, hb, hon]
  rw [e]
  refine ⟨?_, rfl, by rw [part_modPart_same]⟩
  rw [rb, rdN_modPart, ← rb, rb_wf _ _ _ _ _ _ (by decide)]
  rfl

/-- KV_STAT.LOW is all that the free pages change. -/
theorem kvLow_cases (s : State) (n : Nat) : kvLow s n = s ∨ kvLow s n = wf s (partPg n + 0x3B8) 4 1 0 := by
  unfold kvLow
  split
  · exact .inr rfl
  · exact .inl rfl

theorem rdN_kvDone_ne {a : Nat} (ha : a ≠ partPg n + 0x3B8) : rdN (kvDone s n) a = rdN s a := by
  have hd : rdN (wf (wf s (partPg n + 0x3B8) 0 1 1) (partPg n + 0x3B8) 1 1 0) a = rdN s a := by
    rw [rdN_wf, if_neg ha, rdN_wf, if_neg ha]
  rcases kvLow_cases (wf (wf s (partPg n + 0x3B8) 0 1 1) (partPg n + 0x3B8) 1 1 0) n with e | e
  · rw [kvDone, e, hd]
  · rw [kvDone, e, rdN_wf, if_neg ha, hd]

theorem kvDone_hbm : (kvDone s n).hbm = s.hbm := by
  have ho : Only [.regs] s (kvDone s n) := by simp [kvDone, kvLow]
  exact ho .hbm (by decide)

/-- A completed command sets DONE and leaves CORRUPT. -/
theorem kvDone_stat : rb (kvDone s n) (partPg n + 0x3B8) 0 = true ∧ kvCorrupt (kvDone s n) n = kvCorrupt s n := by
  have hlow : ∀ u i, i < 4 → rb (kvLow u n) (partPg n + 0x3B8) i = rb u (partPg n + 0x3B8) i := fun u i hi => by
    rcases kvLow_cases u n with e | e
    · rw [e]
    · rw [e, rb_wf _ _ _ _ _ _ (by omega), if_pos hi]
  refine ⟨?_, ?_⟩
  · rw [kvDone, hlow _ _ (by decide), rb_wf _ _ _ _ _ _ (by decide), rb_wf _ _ _ _ _ _ (by decide)]
    rfl
  · rw [kvCorrupt, kvDone, hlow _ _ (by decide), rb_wf _ _ _ _ _ _ (by decide), rb_wf _ _ _ _ _ _ (by decide)]
    rfl

/-! ## The pool (R216) -/

/-- A pool with no byte listed among its reference counts is free. -/
theorem kvFree_all (hon : kvOn s n = true) (h : ∀ p ∈ s.hbm, ¬(kvBase s n ≤ p.1 ∧ p.1 < kvBase s n + 2 * kvNp s n)) :
    kvFree s n = kvNp s n := by
  have hl : (s.hbm.filterMap fun p => if kvBase s n ≤ p.1 ∧ p.1 < kvBase s n + 2 * kvNp s n ∧ p.2 ≠ 0 then some ((p.1 - kvBase s n) / 2)
      else none) = [] :=
    List.filterMap_eq_nil_iff.2 fun p hp => if_neg fun ⟨hlo, hhi, _⟩ => h p hp ⟨hlo, hhi⟩
  rw [kvFree, if_pos hon, hl]
  rfl

/-- The pool stands where its registers put it. -/
theorem kvPool_of_regs (h : ∀ o ∈ [0x380, 0x384, 0x388], rdN t (partPg n + o) = rdN s (partPg n + o)) :
    kvOn t n = kvOn s n ∧ kvBase t n = kvBase s n ∧ kvNp t n = kvNp s n := by
  have h0 := h 0x380 (by simp)
  have h4 := h 0x384 (by simp)
  have h8 := h 0x388 (by simp)
  refine ⟨congrArg (bitAt · 31) h8, ?_, congrArg (fld · 0 22 + 1) h8⟩
  have hb : rd64 t (partPg n + 0x380) = rd64 s (partPg n + 0x380) := congrArg₂ (fun x y => x + 2 ^ 32 * y) h0 h4
  rw [kvBase, hb, kvBase]

/-- The counts end where the free stack begins, or below it. -/
theorem kvCounts_le_stack : kvBase s n + 2 * kvNp s n ≤ kvStack s n := by
  have : 2 * kvNp s n ≤ a4 (2 * kvNp s n) := by rw [a4, ceilTo, if_neg (by decide)]; omega
  rw [kvStack]
  omega

theorem mem_hbmClear {a l : Nat} {p : Host.Cell} (hp : p ∈ (hbmClear s a l).hbm) : p ∈ s.hbm ∧ ¬(a ≤ p.1 ∧ p.1 < a + l) := by
  obtain ⟨hm, hr⟩ := List.mem_filter.1 hp
  refine ⟨hm, fun ⟨hlo, hhi⟩ => ?_⟩
  simp [hlo, hhi] at hr

/-- HBM and registers once POOL_INIT has cleared the counts and the descriptors and written the free stack. -/
def poolCleared (s : State) (n : Nat) : State :=
  let s1 := hbmClear (hbmClear s (kvBase s n) (2 * kvNp s n)) (kvSeqBase s n) (64 * kvSeqs s n)
  let order := sortBy (fun p => Config.stackKey s1.free p) (List.range (kvNp s n))
  (hbmWrite { s1 with free := s1.free + 1 } (kvStack s n) (order.flatMap fun p => natLe 4 p)).1

/-- The free stack is written above the counts, which stay cleared. -/
theorem poolCleared_counts {p : Host.Cell} (hp : p ∈ (poolCleared s n).hbm) : ¬(kvBase s n ≤ p.1 ∧ p.1 < kvBase s n + 2 * kvNp s n) := by
  rcases hbmWrite_cells _ _ _ p hp with hc | hs
  · exact (mem_hbmClear (mem_hbmClear hc).1).2
  · have := kvCounts_le_stack (s := s) (n := n)
    omega

theorem poolCleared_low : Same lowRegs s (poolCleared s n) := by
  unfold poolCleared
  rw [hbmWrite_low, low_only ((only_free (List.Subset.refl _)).2 (Only.refl _ _)), hbmClear_low, hbmClear_low]
  rfl

/-- POOL_INIT of a partition that may run it, with its ranges in the KV region. -/
theorem poolInitEff_runs (hb : kvBusy s n = false) (hon : kvOn s n = true) (hst : (part s n).st = .configuring ∨ (part s n).st = .ready)
    (hp : kvRegion s n (kvBase s n) (kvEnd s n - kvBase s n) = true) (hq : kvRegion s n (kvSeqBase s n) (64 * kvSeqs s n) = true) :
    poolInitEff n s = kvDone (wf (poolCleared s n) (partPg n + 0x3B8) 3 1 0) n := by
  have hs : ((part s n).st ≠ .configuring && (part s n).st ≠ .ready) = false := by
    rcases hst with e | e <;> rw [e] <;> rfl
  rw [poolInitEff, hb, if_neg (by decide), hon, if_neg (by decide), hs, if_neg (by decide), hp, hq, if_neg (by decide)]
  rfl

/-- After it every page is free, the engine is not stopped, and DONE is set. -/
theorem poolInitEff_frees (hn : n < 16) (hb : kvBusy s n = false) (hon : kvOn s n = true)
    (hst : (part s n).st = .configuring ∨ (part s n).st = .ready)
    (hp : kvRegion s n (kvBase s n) (kvEnd s n - kvBase s n) = true) (hq : kvRegion s n (kvSeqBase s n) (64 * kvSeqs s n) = true) :
    kvFree (poolInitEff n s) n = kvNp s n ∧ kvCorrupt (poolInitEff n s) n = false ∧ rb (poolInitEff n s) (partPg n + 0x3B8) 0 = true := by
  rw [poolInitEff_runs hb hon hst hp hq]
  obtain ⟨hdone, hcor⟩ := kvDone_stat (s := wf (poolCleared s n) (partPg n + 0x3B8) 3 1 0) (n := n)
  refine ⟨?_, hcor.trans ((rb_wf _ _ _ _ _ _ (by decide)).trans rfl), hdone⟩
  obtain ⟨eon, ebase, enp⟩ := kvPool_of_regs (s := s) (t := kvDone (wf (poolCleared s n) (partPg n + 0x3B8) 3 1 0) n) (n := n) fun o ho => by
    simp only [List.mem_cons, List.not_mem_nil, or_false] at ho
    rw [rdN_kvDone_ne (by omega), rdN_wf, if_neg (by omega), poolCleared_low.low_rdN (by unfold partPg; omega)]
  rw [← enp]
  refine kvFree_all (eon.trans hon) fun p hp => ?_
  rw [kvDone_hbm, wf_hbm] at hp
  rw [ebase, enp]
  exact poolCleared_counts hp

/-- POOL_INIT in another state is rejected. -/
theorem poolInitEff_refused (hb : kvBusy s n = false) (hon : kvOn s n = true) (hc : (part s n).st ≠ .configuring)
    (hr : (part s n).st ≠ .ready) : poolInitEff n s = kvReject s n 2 := by
  simp [poolInitEff, hb, hon, hc, hr]

end

/-! ## The writes of KV_CMD -/

/-- The commands of KV_CMD. -/
def kvHostInstrs (r : Requester) (n : Fin 16) : List Instr := [.seqInit r n, .seqFork r n, .seqReset r n, .seqFree r n, .poolInit r n]

section
variable {r : Requester} {s : State} {n : Fin 16} {i : Instr}

/-- What a write of KV_CMD does, when its requester may make it. -/
theorem gives_kvWrite {f : State → State} {P : State → Prop} (e : exec i s = .next (hostWr s r (partPg n + 0x3A0) f))
    (hw : wOk s r (partPg n + 0x3A0) = true) (h : P (f s)) : Gives i s P :=
  ⟨f s, by rw [e, hostWr_taken hw], h⟩

/-- Every command is a write of KV_CMD, ignored while BUSY is 1, and otherwise rejected with cause 9 where there is no pool. -/
theorem kvHostInstrs_run (hi : i ∈ kvHostInstrs r n) : ∃ f, exec i s = .next (hostWr s r (partPg n + 0x3A0) f) ∧
    (kvBusy s n = true → f s = kvIgnored s n) ∧ (kvBusy s n = false → kvOn s n = false → f s = kvReject s n 9) := by
  have queued : ∀ cmd, (kvBusy s n = true → kvQueue n cmd s = kvIgnored s n) ∧
      (kvBusy s n = false → kvOn s n = false → kvQueue n cmd s = kvReject s n 9) :=
    fun cmd => ⟨fun hb => if_pos hb, fun hb hon => by simp [kvQueue, hb, hon]⟩
  simp only [kvHostInstrs, List.mem_cons, List.not_mem_nil, or_false] at hi
  rcases hi with rfl | rfl | rfl | rfl | rfl
  · exact ⟨kvQueue n 1, rfl, queued 1⟩
  · exact ⟨kvQueue n 2, rfl, queued 2⟩
  · exact ⟨kvQueue n 3, rfl, queued 3⟩
  · exact ⟨kvQueue n 4, rfl, queued 4⟩
  · exact ⟨poolInitEff n, rfl, fun hb => if_pos hb, fun hb hon => by simp [poolInitEff, hb, hon]⟩

/-- A read of KV_RECOMP that its requester may make takes the head of the queue. -/
theorem kvRecomp_run (h : rOk s r (partPg n + 0x3C0) = true) : exec (.kvRecomp r n) s = .next (kvRecompEff n s) :=
  congrArg Host.Outcome.next (if_pos h)

theorem kvRecompEff_empty (h : (part s n).kvRq = []) : kvRecompEff n s = { s with rdata := some 0 } := by rw [kvRecompEff, h]

theorem kvRecompEff_pops {q : Nat} {l : List Nat} (h : (part s n).kvRq = q :: l) :
    (kvRecompEff n s).rdata = some (2 ^ 31 + q) ∧ (part (kvRecompEff n s) n).kvRq = l := by
  have e : kvRecompEff n s = { (modPart s n fun p => { p with kvRq := l }) with rdata := some (2 ^ 31 + q) } := by rw [kvRecompEff, h]
  rw [e]
  exact ⟨rfl, congrArg Part.kvRq (part_modPart_same (s := s) n fun p => { p with kvRq := l })⟩

end

/-- Settles O34: what each write of KV_CMD leaves while BUSY, without a pool and with one, and what a read of KV_RECOMP takes. -/
theorem kvHostCommandsQueueOrRun : Obligations.KvHostCommandsQueueOrRun := by
  intro r s n hw seqs
  refine ⟨fun hb hon => ⟨fun p hp => ?_, fun hst hpool hseq => ?_, fun hc hr => ?_⟩, fun hb hon i hi => ?_, fun hb i hi => ?_,
    fun hr => ⟨fun h => ⟨_, kvRecomp_run hr, ?_⟩, fun q l h => ⟨_, kvRecomp_run hr, kvRecompEff_pops h⟩⟩⟩
  · simp only [seqs, List.mem_cons, List.not_mem_nil, or_false] at hp
    rcases hp with rfl | rfl | rfl | rfl <;> exact gives_kvWrite rfl hw (kvQueue_takes hb hon)
  · exact gives_kvWrite rfl hw (poolInitEff_frees n.isLt hb hon hst hpool hseq)
  · refine gives_kvWrite rfl hw ?_
    rw [poolInitEff_refused hb hon hc hr]
    obtain ⟨hk, -, -, hh⟩ := kvReject_rejects (s := s) (n := n) (k := 2) (by decide)
    exact ⟨hk, hh⟩
  · obtain ⟨f, e, -, hoff⟩ := kvHostInstrs_run hi
    refine gives_kvWrite e hw ?_
    rw [hoff hb hon]
    exact kvReject_rejects (by decide)
  · obtain ⟨f, e, hbusy, -⟩ := kvHostInstrs_run hi
    refine gives_kvWrite e hw ?_
    rw [hbusy hb]
    exact kvIgnored_rejects
  · rw [kvRecompEff_empty h]

end Sys2Proof.Machine
end

section
/-!
PROOFS. The commands of the control cores to the KV engine (08_attention R217, R222-R224, R227; 09_memory R280).
-/
namespace Sys2Proof.Machine

set_option Elab.async false

section
variable {s : State} {c n q k : Nat} {a0 a1 : Word}

/-! ## Answers -/

theorem kvSt_kvAnswer {r : List Nat} : (clu (kvAnswer s c k r) c).kvSt = BitVec.ofNat 32 (k * 2 ^ 24) := by rw [kvAnswer, clu_modClu_same]

theorem kvR_kvAnswer {r : List Nat} : (clu (kvAnswer s c 0 r) c).kvR = r.map (BitVec.ofNat 32) := by
  rw [kvAnswer, clu_modClu_same]
  rfl

/-- A command that names a cause. -/
theorem gives_cause {i : Instr} {u : State} {r : List Nat} (e : exec i s = .next (kvAnswer u c k r)) :
    Gives i s fun t => (clu t c).kvSt = BitVec.ofNat 32 (k * 2 ^ 24) := ⟨_, e, kvSt_kvAnswer⟩

/-- A command that answers. -/
theorem gives_answer {i : Instr} {u : State} {r : List Nat} (e : exec i s = .next (kvAnswer u c 0 r)) :
    Gives i s fun t => (clu t c).kvSt = 0 ∧ (clu t c).kvR = r.map (BitVec.ofNat 32) := ⟨_, e, kvSt_kvAnswer, kvR_kvAnswer⟩

theorem kvUe_clean {a len : Nat} {f : State → State} (h : hbmPoison s a len = false) : kvUe s n c a len f = f s := if_neg (by simp [h])

theorem kvUe_poisoned {a len : Nat} {f : State → State} (h : hbmPoison s a len = true) :
    kvUe s n c a len f = jobFault (hbmUe s a len) n (ccJob s c) 1 := if_pos h

/-! ## The window registers taken: the partition, the job and what the first checks read are as before -/

@[simp] theorem part_clu_kvArgs : (clu (kvArgs s c a0 a1) c).part = (clu s c).part := by rw [kvArgs, clu_modClu_same]

@[simp] theorem ccJob_kvArgs : ccJob (kvArgs s c a0 a1) c = ccJob s c := by rw [ccJob, kvArgs, clu_modClu_same, ccJob]

@[simp] theorem kvLane_kvArgs {w : Word} : kvLane (kvArgs s c a0 a1) c w = kvLane s c w := by
  rw [kvLane, part_clu_kvArgs, ccJob_kvArgs, kvLane]

@[simp] theorem kvPre_kvArgs : kvPre (kvArgs s c a0 a1) n q = kvPre s n q := rfl
@[simp] theorem hbmPoison_kvArgs {a l : Nat} : hbmPoison (kvArgs s c a0 a1) a l = hbmPoison s a l := rfl
@[simp] theorem sdAddr_kvArgs : sdAddr (kvArgs s c a0 a1) n q = sdAddr s n q := rfl

/-! ## What every command checks first (R217, R222, R280) -/

/-- A command of a running handler that passes its first checks goes on as `f`. -/
def kvChecked (c : Nat) (a0 a1 : Word) (f : State → State) (s : State) : State :=
  let v := kvArgs s c a0 a1
  let n := (clu v c).part
  let q := wfld a0 0 20
  if kvPre v n q ≠ 0 then kvAnswer v c (kvPre v n q) [] else kvUe v n c (sdAddr v n q) 64 f

/-- The commands of the control cores. -/
def kvInstrs (c : Fin 256) (a0 a1 : Word) : List Instr := [.kvInfo c a0 a1, .kvPte c a0 a1, .kvReserve c a0 a1]

/-- Every command of a running handler checks first the same. -/
theorem kvInstrs_checked {c : Fin 256} {i : Instr} (hr : ccRuns s c = true) (hi : i ∈ kvInstrs c a0 a1) :
    ∃ f, exec i s = .next (kvChecked c a0 a1 f s) := by
  have hn : ¬((!ccRuns s c) = true) := by simp [hr]
  simp only [kvInstrs, List.mem_cons, List.not_mem_nil, or_false] at hi
  rcases hi with rfl | rfl | rfl <;> exact ⟨_, congrArg Host.Outcome.next (if_neg hn)⟩

theorem kvChecked_refused {f : State → State} (h : kvPre s (clu s c).part (wfld a0 0 20) ≠ 0) :
    kvChecked c a0 a1 f s = kvAnswer (kvArgs s c a0 a1) c (kvPre s (clu s c).part (wfld a0 0 20)) [] := by
  simp [kvChecked, h]

theorem kvChecked_poisoned {f : State → State} (h : kvPre s (clu s c).part (wfld a0 0 20) = 0)
    (hp : hbmPoison s (sdAddr s (clu s c).part (wfld a0 0 20)) 64 = true) :
    kvChecked c a0 a1 f s =
      jobFault (hbmUe (kvArgs s c a0 a1) (sdAddr s (clu s c).part (wfld a0 0 20)) 64) (clu s c).part (ccJob s c) 1 := by
  simp [kvChecked, h, kvUe_poisoned, hp]

theorem kvChecked_passed {f : State → State} (h : kvPre s (clu s c).part (wfld a0 0 20) = 0)
    (hp : hbmPoison s (sdAddr s (clu s c).part (wfld a0 0 20)) 64 = false) : kvChecked c a0 a1 f s = f (kvArgs s c a0 a1) := by
  simp [kvChecked, h, kvUe_clean, hp]

/-! ## A recompute asked for (R224, R227) -/

/-- Of the lanes, only the one named changes: it is late. -/
theorem askRecompute_lanes : (askRecompute s n q k).lanes = (makeLate s k 3).lanes := by
  have hset : ∀ u, (setSdBit u n q 28 true).lanes = u.lanes := fun u => hbmWrite_only _ _ _ .lanes (by decide)
  have hev : ∀ u h a b d tick ts, (strmEvent u h a b d tick ts).lanes = u.lanes := fun u h a b d tick ts =>
    (show Only [.marks, .regs, .vecs, .msgs, .emis, .emLost] u (strmEvent u h a b d tick ts) by simp) .lanes (by decide)
  unfold askRecompute
  extract_lets s1 s2 s3 ch
  have h3 : s3.lanes = s1.lanes := by
    simp only [s3]
    split
    · exact hset s1
    · exact (bump_lanes _ _).trans (hset s1)
  split
  · rfl
  · split
    · exact h3
    · exact (hev _ _ _ _ _ _ _).trans h3

theorem askRecompute_late {l : Lane} (h : lane s k = some l) : ∃ m, lane (askRecompute s n q k) k = some m ∧ m.late.isSome = true := by
  rw [lane_of_lanes askRecompute_lanes, makeLate, lane_modLane, if_pos rfl, h]
  refine ⟨_, rfl, ?_⟩
  cases hl : l.late <;> simp [hl]

/-! ## RESERVE page by page (R223) -/

/-- A page ends a RESERVE with no cause other than 5, 6 and 7. -/
theorem reservePage_cause {r : KvRes} {i : Nat} (h : r.cause ∈ [0, 5, 6, 7]) : (reservePage n q r i).cause ∈ [0, 5, 6, 7] := by
  unfold reservePage
  dsimp only
  split
  · exact h
  split
  · simp
  split
  · exact h
  split
  · exact h
  split
  · simp
  split
  · simp
  split
  · split <;> exact h
  · exact h

theorem reservePages_cause {l : List Nat} {r : KvRes} (h : r.cause ∈ [0, 5, 6, 7]) : (l.foldl (reservePage n q) r).cause ∈ [0, 5, 6, 7] :=
  List.foldlRecOn (motive := fun r : KvRes => r.cause ∈ [0, 5, 6, 7]) _ _ h fun _ hr _ _ => reservePage_cause hr

/-- What the pages of a RESERVE of `cnt` positions for lane `ln` come to, its sequence stamped and its claim noted (R223). -/
def reserved (v : State) (n q cnt ln : Nat) : KvRes :=
  let l := sdL v n q
  let ix := if cnt = 0 then [] else (List.range ((l + cnt - 1) / 64 - l / 64 + 1)).map fun k => l / 64 + k
  ix.foldl (reservePage n q) { s := sdPut (sdPut (touchSeq v n q) n q 0x20 4 cnt) n q 0x24 2 ln }

theorem reserved_cause {cnt ln : Nat} : (reserved s n q cnt ln).cause ∈ [0, 5, 6, 7] := reservePages_cause (by simp)

/-- The claim of a RESERVE stands in the partition until the flip. -/
def claimed (s : State) (n q key : Nat) : State := modPart s n fun p => { p with kvRes := p.kvRes ++ [(q, key)] }

/-- How a RESERVE ends that its pages have brought to `u`. -/
def reserveEnd (v : State) (c n q key : Nat) (u : KvRes) : State :=
  if u.ue then jobFault (claimed u.s n q key) n (ccJob v c) 1
  else if u.cause = 5 then kvAnswer (makeLate (bump (touchSeq v n q) (partPg n) 0x3CC) key 3) c 5 []
  else if u.cause = 6 then kvAnswer (makeLate (touchSeq v n q) key 3) c 6 []
  else if u.cause = 7 then kvAnswer u.s c 7 []
  else kvAnswer (kvLow (claimed u.s n q key) n) c 0 [sdL v n q, u.alloc, u.copied]

section
variable {u : KvRes} {v : State} {key : Nat}

theorem reserveEnd_poisoned (h : u.ue = true) : reserveEnd v c n q key u = jobFault (claimed u.s n q key) n (ccJob v c) 1 := if_pos h

theorem reserveEnd_fails (h : u.ue = false) (hk : u.cause ∈ [0, 5, 6, 7]) (h0 : u.cause ≠ 0) :
    ∃ w, reserveEnd v c n q key u = kvAnswer w c u.cause [] := by
  simp only [List.mem_cons, List.not_mem_nil, or_false] at hk
  rcases hk with e | e | e | e
  · exact absurd e h0
  all_goals exact ⟨_, by rw [reserveEnd, h, e]; rfl⟩

theorem reserveEnd_claims (h : u.ue = false) (h0 : u.cause = 0) :
    reserveEnd v c n q key u = kvAnswer (kvLow (claimed u.s n q key) n) c 0 [sdL v n q, u.alloc, u.copied] := by
  rw [reserveEnd, h, h0]
  rfl

/-- The answer leaves the claim. -/
theorem claim_mem (w : State) {r : List Nat} : (q, key) ∈ (part (kvAnswer (kvLow (claimed w n q key) n) c k r) n).kvRes := by
  have ho : Only [.regs, .clus] (claimed w n q key) (kvAnswer (kvLow (claimed w n q key) n) c k r) := by simp [kvAnswer, kvLow]
  rw [part_of_parts (ho .parts (by decide)), claimed, part_modPart_same]
  exact List.mem_append_right _ (List.mem_singleton_self _)

end

end

/-! ## Commands that pass their first checks -/

section
variable {s : State} {c : Fin 256} {a0 a1 : Word} {n q : Nat} (hr : ccRuns s c = true) (hp : kvPre s n q = 0)
  (hb : hbmPoison s (sdAddr s n q) 64 = false) (hn : n = (clu s c).part) (hq : q = wfld a0 0 20)
include hr hp hb hn hq

/-- A command that goes on as `f` after its first checks. -/
theorem exec_passed {i : Instr} {f : State → State}
    (e : exec i s = .next (if !ccRuns s c then s else kvChecked c a0 a1 f s)) : exec i s = .next (f (kvArgs s c a0 a1)) := by
  subst hn hq
  rw [e, if_neg (by simp [hr]), kvChecked_passed hp hb]

/-- INFO answers; for a lane it stamps the sequence, or asks for a recompute (R222, R224). -/
theorem kvInfo_passed : exec (.kvInfo c a0 a1) s = .next (kvAnswer
    (if bitAt a1.toNat 31 then
      (if sdDropped s n q then askRecompute (kvArgs s c a0 a1) n q (kvLane s c a1) else touchSeq (kvArgs s c a0 a1) n q)
    else kvArgs s c a0 a1) c 0
    [sdL s n q, 2 ^ 31 * b2n (sdValid s n q) + 2 ^ 30 * b2n (sdDroppable s n q) + 2 ^ 29 * b2n (sdDropped s n q), sdUse s n q % 2 ^ 32]) := by
  refine (exec_passed hr hp hb hn hq rfl).trans (congrArg Host.Outcome.next ?_)
  dsimp only
  rw [part_clu_kvArgs, kvLane_kvArgs, ← hn, ← hq]
  rfl

/-- PTE answers, or names cause 2 beyond the capacity (R222). -/
theorem kvPte_passed : exec (.kvPte c a0 a1) s = .next (
    if sdCap s n q ≤ wfld a1 0 22 then kvAnswer (kvArgs s c a0 a1) c 2 []
    else kvUe (kvArgs s c a0 a1) n c (sdTab s n q + 4 * wfld a1 0 22) 4 fun u =>
      let e := pte u n q (wfld a1 0 22)
      let f := if pteKind e = 1 then kvFrame u n (ptePage e) else 0
      kvAnswer u c 0 [e, f % 2 ^ 32, f / 2 ^ 32 % 2 ^ 16]) := by
  refine (exec_passed hr hp hb hn hq rfl).trans (congrArg Host.Outcome.next ?_)
  dsimp only
  rw [part_clu_kvArgs, ← hn, ← hq]
  rfl

/-- RESERVE checks the window and the lane, DROPPED and the claims of the tick, and then takes its pages (R222-R224). -/
theorem kvReserve_passed : exec (.kvReserve c a0 a1) s = .next (
    if s.clk.phase ≠ .dispatch || !bitAt a1.toNat 31 || (lane s (kvLane s c a1)).isNone then kvAnswer (kvArgs s c a0 a1) c 3 []
    else if sdDropped s n q then kvAnswer (askRecompute (kvArgs s c a0 a1) n q (kvLane s c a1)) c 4 []
    else if (part s n).kvRes.any (fun p => p.1 = q) then kvAnswer (kvArgs s c a0 a1) c 8 []
    else reserveEnd (kvArgs s c a0 a1) c n q (kvLane s c a1) (reserved (kvArgs s c a0 a1) n q (wfld a1 0 7) (wfld a1 16 9))) := by
  refine (exec_passed hr hp hb hn hq rfl).trans (congrArg Host.Outcome.next ?_)
  dsimp only
  rw [part_clu_kvArgs, kvLane_kvArgs, ← hn, ← hq]
  rfl

/-- In the dispatch window, for a bound lane. -/
theorem kvReserve_bound {l : Lane} (hph : s.clk.phase = .dispatch) (hl : bitAt a1.toNat 31 = true) (hk : lane s (kvLane s c a1) = some l) :
    exec (.kvReserve c a0 a1) s = .next (
      if sdDropped s n q then kvAnswer (askRecompute (kvArgs s c a0 a1) n q (kvLane s c a1)) c 4 []
      else if (part s n).kvRes.any (fun p => p.1 = q) then kvAnswer (kvArgs s c a0 a1) c 8 []
      else reserveEnd (kvArgs s c a0 a1) c n q (kvLane s c a1) (reserved (kvArgs s c a0 a1) n q (wfld a1 0 7) (wfld a1 16 9))) := by
  rw [kvReserve_passed hr hp hb hn hq, if_neg (by simp [hph, hl, hk])]

end

/-- Settles O33: the first checks that every command makes, and then what each command of a running handler comes to. -/
theorem kvEngineAnswersControlCores : Obligations.KvEngineAnswersControlCores := by
  intro s c a0 a1 hr v n q key cause answer
  refine ⟨fun hp i hi => ?_, fun hp hb i hi => ?_, fun hp hb => ⟨fun hl => ?_, fun hl hd => ?_, fun hi => ?_, fun hi hc => ?_,
    fun hw => ?_, fun hph hl l hk => ⟨fun hd => ?_, fun hd hres => ?_, fun hd hres => ?_⟩⟩⟩
  · obtain ⟨f, e⟩ := kvInstrs_checked hr hi
    rw [kvChecked_refused hp] at e
    exact ⟨gives_cause e, _, e, rfl, rfl, rfl⟩
  · obtain ⟨f, e⟩ := kvInstrs_checked hr hi
    rw [e, kvChecked_poisoned hp hb]
  · have e := kvInfo_passed (a0 := a0) (a1 := a1) hr hp hb rfl rfl
    rw [if_neg (by simp [hl])] at e
    exact gives_answer e
  · have e := kvInfo_passed (a0 := a0) (a1 := a1) hr hp hb rfl rfl
    rw [if_pos hl, if_neg (by simp [hd]), hd] at e
    exact e
  · have e := kvPte_passed (a0 := a0) (a1 := a1) hr hp hb rfl rfl
    rw [if_pos hi] at e
    exact gives_cause e
  · have e := kvPte_passed (a0 := a0) (a1 := a1) hr hp hb rfl rfl
    rw [if_neg (by omega), kvUe_clean (s := v) hc] at e
    exact gives_answer e
  · have e := kvReserve_passed (a0 := a0) (a1 := a1) hr hp hb rfl rfl
    rw [if_pos (by simpa [or_assoc] using hw)] at e
    exact gives_cause e
  · have e := kvReserve_bound (a0 := a0) hr hp hb rfl rfl hph hl hk
    rw [if_pos hd] at e
    exact ⟨gives_cause e, _, e, askRecompute_late hk⟩
  · have e := kvReserve_bound (a0 := a0) hr hp hb rfl rfl hph hl hk
    rw [if_neg (by simp [hd]), if_pos hres] at e
    exact gives_cause e
  · have e := kvReserve_bound (a0 := a0) hr hp hb rfl rfl hph hl hk
    rw [if_neg (by simp [hd]), if_neg (by simp [hres])] at e
    intro cnt ix u
    have e : exec (.kvReserve c a0 a1) s = .next (reserveEnd v c n q key u) := e
    refine ⟨fun hu => ?_, fun hu h0 => ?_, fun hu h0 => ?_⟩
    · rw [reserveEnd_poisoned hu, ccJob_kvArgs] at e
      exact e
    · rw [reserveEnd_claims hu h0] at e
      exact ⟨_, e, kvSt_kvAnswer, kvR_kvAnswer, claim_mem _⟩
    · obtain ⟨w, hw⟩ := reserveEnd_fails (c := c) (n := n) (q := q) (v := v) (key := key) hu reserved_cause h0
      exact gives_cause (e.trans (congrArg _ hw))

end Sys2Proof.Machine
end

section
/-!
PROOFS. What every command and every step keeps (09_memory R274; 15_sirvi R420; 16_host_registers "Host access rules").
-/
namespace Sys2Proof.Machine

set_option Elab.async false

/-- Every command but a loss of power. -/
theorem exec_keeps {i : Instr} {s t : State} (h : i ≠ .pwrgoodDeassert) (h54 : i ≠ .p54vUndervoltage) (e : exec i s = .next t) : Keeps s t := by
  cases i with
  | registerWrite => exact execRegisterWrite_keeps _ _ _ _ _ e
  | loRead => exact execLoRead_keeps _ _ e
  | pgEvtset => exact execPgEvtset_keeps _ _ _ e
  | pgEvtClear => exact execPgEvtClear_keeps _ _ _ e
  | pgLock => exact execPgLock_keeps _ _ _ e
  | eventCounterWrite => exact execEventCounterWrite_keeps _ _ _ e
  | tbLoad => exact execTbLoad_keeps e
  | ptmRequest => exact execPtmRequest_keeps _ e
  | ptmResponse => exact execPtmResponse_keeps _ e
  | ptmTimeout => exact execPtmTimeout_keeps e
  | tickApply => exact execTickApply_keeps e
  | tickCtrlEn => exact execTickCtrlEn_keeps _ e
  | relock => exact execRelock_keeps e
  | tickEdge => exact execTickEdge_keeps e
  | tickInEdge => exact execTickInEdge_keeps _ _ e
  | flywheelEdge => exact execFlywheelEdge_keeps e
  | fallbackTimeout => exact execFallbackTimeout_keeps e
  | ingestCutoff => exact execIngestCutoff_keeps _ e
  | dispatchEnd => exact execDispatchEnd_keeps e
  | commitWindowOpen => exact execCommitWindowOpen_keeps e
  | flip => exact execFlip_keeps e
  | configure => exact execConfigure_keeps _ e
  | commit => exact execCommit_keeps _ e
  | start => exact execStart_keeps _ e
  | stop => exact execStop_keeps _ e
  | maint => exact execMaint_keeps _ e
  | resume => exact execResume_keeps _ e
  | reconfig => exact execReconfig_keeps _ e
  | teardown => exact execTeardown_keeps _ e
  | tblSwap => exact execTblSwap_keeps _ e
  | zeroiseDone => exact execZeroiseDone_keeps _ e
  | partFault => exact execPartFault_keeps _ _ e
  | vfFlr => exact execVfFlr_keeps _ e
  | partCfgWrite => exact execPartCfgWrite_keeps _ _ _ e
  | tblEntryLoWrite => exact execTblEntryLoWrite_keeps _ _ _ _ e
  | tblEntryHiWrite => exact execTblEntryHiWrite_keeps _ _ _ _ e
  | rearm => exact execRearm_keeps _ _ e
  | pitchStart => exact execPitchStart_keeps _ _ e
  | switchDone => exact execSwitchDone_keeps _ _ e
  | pitchLimit => exact execPitchLimit_keeps _ e
  | pitchEnd => exact execPitchEnd_keeps _ _ e
  | jobTeardownDone => exact execJobTeardownDone_keeps _ _ _ e
  | loopS => exact execLoopS_keeps _ e
  | loopE => exact execLoopE_keeps _ e
  | bp => exact execBp_keeps _ e
  | altselSample => exact execAltselSample_keeps _ e
  | halt => exact execHalt_keeps _ e
  | sync => exact execSync_keeps _ e
  | stallClear => exact execStallClear_keeps _ _ e
  | bundlePageArrival => exact execBundlePageArrival_keeps _ _ e
  | summaryHandler => exact execSummaryHandler_keeps _ e
  | wfi => exact execWfi_keeps _ e
  | ccException => exact execCcException_keeps _ _ e
  | ccAltsel => exact execCcAltsel_keeps _ _ e
  | ccDesc => exact execCcDesc_keeps _ _ e
  | ccDefer => exact execCcDefer_keeps _ _ e
  | ccSumPop => exact execCcSumPop_keeps _ e
  | ccBelaySame => exact execCcBelaySame_keeps _ _ e
  | summaryPostArrival => exact execSummaryPostArrival_keeps _ e
  | load => exact execLoad_keeps _ _ _ e
  | unload => exact execUnload_keeps _ _ _ e
  | loadDone => exact execLoadDone_keeps _ e
  | unloadDone => exact execUnloadDone_keeps _ e
  | meMode => exact execMeMode_keeps _ e
  | meCbook => exact execMeCbook_keeps _ e
  | meLoadw => exact execMeLoadw_keeps _ e
  | meStream => exact execMeStream_keeps _ e
  | meDrain => exact execMeDrain_keeps _ e
  | meAttn => exact execMeAttn_keeps _ e
  | vsetvl => exact execVsetvl_keeps _ e
  | vld => exact execVld_keeps _ e
  | vst => exact execVst_keeps _ e
  | vmov => exact execVmov_keeps _ e
  | vbcast => exact execVbcast_keeps _ e
  | vsel => exact execVsel_keeps _ e
  | vcmp => exact execVcmp_keeps _ e
  | vadd => exact execVadd_keeps _ e
  | vsub => exact execVsub_keeps _ e
  | vmul => exact execVmul_keeps _ e
  | vfma => exact execVfma_keeps _ e
  | vmax => exact execVmax_keeps _ e
  | vmin => exact execVmin_keeps _ e
  | vabs => exact execVabs_keeps _ e
  | vneg => exact execVneg_keeps _ e
  | vand => exact execVand_keeps _ e
  | vor => exact execVor_keeps _ e
  | vxor => exact execVxor_keeps _ e
  | vshl => exact execVshl_keeps _ e
  | vsra => exact execVsra_keeps _ e
  | vsrl => exact execVsrl_keeps _ e
  | vrcp => exact execVrcp_keeps _ e
  | vrsqrt => exact execVrsqrt_keeps _ e
  | vfn => exact execVfn_keeps _ e
  | vred => exact execVred_keeps _ e
  | vtred => exact execVtred_keeps _ e
  | vtile => exact execVtile_keeps _ e
  | vexpn => exact execVexpn_keeps _ e
  | vcvt => exact execVcvt_keeps _ e
  | vpost => exact execVpost_keeps _ e
  | vflag => exact execVflag_keeps _ e
  | gpChain => exact execGpChain_keeps _ e
  | veFlagClear => exact execVeFlagClear_keeps _ _ _ _ e
  | strmOpen => exact execStrmOpen_keeps _ _ e
  | strmClose => exact execStrmClose_keeps _ _ e
  | strmPark => exact execStrmPark_keeps _ _ e
  | strmUnpark => exact execStrmUnpark_keeps _ _ e
  | strmExport => exact execStrmExport_keeps _ _ e
  | strmImport => exact execStrmImport_keeps _ _ e
  | strmSetcfg => exact execStrmSetcfg_keeps _ _ e
  | strmQuery => exact execStrmQuery_keeps _ _ e
  | holdDrop => exact execHoldDrop_keeps _ _ e
  | idlePark => exact execIdlePark_keeps _ _ e
  | bivouacWriteDone => exact execBivouacWriteDone_keeps _ e
  | bivouacReadDone => exact execBivouacReadDone_keeps _ e
  | exportDone => exact execExportDone_keeps _ e
  | importDone => exact execImportDone_keeps _ e
  | kvInfo => exact execKvInfo_keeps _ _ _ e
  | kvPte => exact execKvPte_keeps _ _ _ e
  | kvReserve => exact execKvReserve_keeps _ _ _ e
  | kvRecomp => exact execKvRecomp_keeps _ _ e
  | seqInit => exact execSeqInit_keeps _ _ e
  | seqFork => exact execSeqFork_keeps _ _ e
  | seqReset => exact execSeqReset_keeps _ _ e
  | seqFree => exact execSeqFree_keeps _ _ e
  | poolInit => exact execPoolInit_keeps _ _ e
  | spFill => exact execSpFill_keeps _ e
  | spCopy => exact execSpCopy_keeps _ e
  | spTag => exact execSpTag_keeps _ e
  | spDma => exact execSpDma_keeps _ e
  | ncCopy => exact execNcCopy_keeps _ e
  | nocCopyDone => exact execNocCopyDone_keeps _ e
  | remoteAccessDone => exact execRemoteAccessDone_keeps _ _ e
  | tagTimeout => exact execTagTimeout_keeps _ e
  | asyncPortPromotion => exact execAsyncPortPromotion_keeps _ _ e
  | descriptorStart => exact execDescriptorStart_keeps _ _ e
  | descriptorDone => exact execDescriptorDone_keeps _ _ _ e
  | spUeCntClear => exact execSpUeCntClear_keeps _ _ e
  | tagTmo => exact execTagTmo_keeps _ _ e
  | expLoad => exact execExpLoad_keeps _ _ _ e
  | exp16StagingDone => exact execExp16StagingDone_keeps _ e
  | expRegister => exact execExpRegister_keeps _ _ _ e
  | expUnregister => exact execExpUnregister_keeps _ _ _ e
  | ccExpCmd => exact execCcExpCmd_keeps _ _ _ _ e
  | expReadStart => exact execExpReadStart_keeps _ e
  | expBlockDone => exact execExpBlockDone_keeps _ e
  | ingPi => exact execIngPi_keeps _ _ _ e
  | emCi => exact execEmCi_keeps _ _ _ e
  | ingestRecord => exact execIngestRecord_keeps _ _ e
  | groupChunkRelease => exact execGroupChunkRelease_keeps _ _ e
  | feChunkDone => exact execFeChunkDone_keeps _ _ e
  | emissionRingWrite => exact execEmissionRingWrite_keeps _ _ e
  | profCommit => exact execProfCommit_keeps _ _ e
  | profFetch => exact execProfFetch_keeps _ _ e
  | portCfg => exact execPortCfg_keeps _ _ e
  | portMasterFrame => exact execPortMasterFrame_keeps _ _ e
  | portFrame => exact execPortFrame_keeps _ _ e
  | portFrameTimeout => exact execPortFrameTimeout_keeps _ e
  | nonaudioEnd => exact execNonaudioEnd_keeps _ e
  | outPi => exact execOutPi_keeps _ _ e
  | chCtrl => exact execChCtrl_keeps _ _ _ e
  | zcTimeout => exact execZcTimeout_keeps _ _ e
  | zcTmo => exact execZcTmo_keeps _ _ e
  | getVersion => exact execGetVersion_keeps _ e
  | getCapabilities => exact execGetCapabilities_keeps _ e
  | negotiateAlgorithms => exact execNegotiateAlgorithms_keeps _ e
  | getDigests => exact execGetDigests_keeps _ e
  | getCertificate => exact execGetCertificate_keeps _ e
  | challenge => exact execChallenge_keeps _ _ e
  | getMeasurements => exact execGetMeasurements_keeps _ _ _ e
  | keyExchange => exact execKeyExchange_keeps _ _ e
  | finish => exact execFinish_keeps _ _ _ e
  | spdmHeartbeat => exact execSpdmHeartbeat_keeps _ _ e
  | keyUpdate => exact execKeyUpdate_keeps _ _ e
  | endSession => exact execEndSession_keeps _ _ e
  | keySet => exact execKeySet_keeps _ _ _ _ e
  | keyRotate => exact execKeyRotate_keeps _ _ _ _ e
  | keyDropOld => exact execKeyDropOld_keeps _ _ e
  | keyErase => exact execKeyErase_keeps _ _ e
  | keyEraseComplete => exact execKeyEraseComplete_keeps _ e
  | policySet => exact execPolicySet_keeps _ _ _ _ e
  | steadySet => exact execSteadySet_keeps _ _ _ _ _ e
  | steadyClear => exact execSteadyClear_keeps _ _ e
  | ptySteadyAck => exact execPtySteadyAck_keeps _ _ _ e
  | spdmSummitRead => exact execSpdmSummitRead_keeps _ _ e
  | ideKm => exact execIdeKm_keeps _ _ _ _ _ e
  | kSetGo => exact execKSetGo_keeps _ _ _ _ e
  | lockInterface => exact execLockInterface_keeps _ _ e
  | stopInterface => exact execStopInterface_keeps _ _ e
  | debugNonce => exact execDebugNonce_keeps _ e
  | debugConsent => exact execDebugConsent_keeps _ _ e
  | debugEntered => exact execDebugEntered_keeps e
  | lkCtrl => exact execLkCtrl_keeps _ _ e
  | trainingDone => exact execTrainingDone_keeps _ e
  | trainingTimeout => exact execTrainingTimeout_keeps _ e
  | attestDone => exact execAttestDone_keeps _ _ e
  | attestTimeout => exact execAttestTimeout_keeps _ e
  | linkRetry => exact execLinkRetry_keeps _ e
  | mgmt => exact execMgmt_keeps _ _ e
  | tag => exact execTag_keeps _ _ _ e
  | nak => exact execNak_keeps _ _ e
  | heartbeat => exact execHeartbeat_keeps _ _ _ e
  | heartbeatSend => exact execHeartbeatSend_keeps _ e
  | heartbeatTimeout => exact execHeartbeatTimeout_keeps _ e
  | lkSend => exact execLkSend_keeps _ e
  | lkColl => exact execLkColl_keeps _ e
  | send => exact execSend_keeps _ _ e
  | coll => exact execColl_keeps _ _ e
  | collTimeout => exact execCollTimeout_keeps _ e
  | collTmo => exact execCollTmo_keeps _ _ e
  | blob => exact execBlob_keeps _ _ e
  | adv => exact execAdv_keeps _ _ e
  | release => exact execRelease_keeps _ _ e
  | bhb => exact execBhb_keeps _ _ e
  | bhbSend => exact execBhbSend_keeps _ e
  | bhbTimeout => exact execBhbTimeout_keeps _ e
  | promote => exact execPromote_keeps _ e
  | clear => exact execClear_keeps _ e
  | warmPromotion => exact execWarmPromotion_keeps _ e
  | hotPromotion => exact execHotPromotion_keeps _ e
  | info => exact execInfo_keeps _ e
  | devReset => exact execDevReset_keeps _ e
  | ksBind => exact execKsBind_keeps _ _ _ _ e
  | ksUnbind => exact execKsUnbind_keeps _ _ e
  | winCreate => exact execWinCreate_keeps _ _ _ _ _ e
  | winResize => exact execWinResize_keeps _ _ _ _ e
  | winRemove => exact execWinRemove_keeps _ _ e
  | regionSet => exact execRegionSet_keeps _ _ _ e
  | hbmMap => exact execHbmMap_keeps _ _ _ e
  | spanSet => exact execSpanSet_keeps _ _ _ e
  | sensorLimit => exact execSensorLimit_keeps _ _ _ _ e
  | pwrLimit => exact execPwrLimit_keeps _ _ e
  | bgCfg => exact execBgCfg_keeps _ _ _ e
  | fwStage => exact execFwStage_keeps _ _ e
  | fwActivate => exact execFwActivate_keeps _ _ e
  | fwCommit => exact execFwCommit_keeps _ e
  | summitInfo => exact execSummitInfo_keeps _ e
  | summitRead => exact execSummitRead_keeps _ _ e
  | imgPut => exact execImgPut_keeps _ _ _ e
  | imgGet => exact execImgGet_keeps _ _ _ _ e
  | imgDel => exact execImgDel_keeps _ _ e
  | imgList => exact execImgList_keeps _ e
  | sensorSample => exact execSensorSample_keeps _ e
  | powerLimitStep => exact execPowerLimitStep_keeps e
  | summitFlush => exact execSummitFlush_keeps e
  | pwrgoodAssert => exact execPwrgoodAssert_keeps _ _ e
  | fwWatchdog => exact execFwWatchdog_keeps e
  | sirviReady => exact execSirviReady_keeps e
  | deviceReady => exact execDeviceReady_keeps e
  | railTimeout => exact execRailTimeout_keeps _ e
  | pwrgoodDeassert => exact absurd rfl h
  | p54vUndervoltage => exact absurd rfl h54
  | thermtrip => exact execThermtrip_keeps e
  | warmReset => exact execWarmReset_keeps _ e
  | refclkLinkLoss => exact execRefclkLinkLoss_keeps e
  | refclkPcieLoss => exact execRefclkPcieLoss_keeps e
  | clwSel => exact execClwSel_keeps _ _ e
  | msixUnmask => exact execMsixUnmask_keeps _ _ e
  | scratchpadScrub => exact execScratchpadScrub_keeps e
  | clusterScrub => exact execClusterScrub_keeps e
  | hbmScrub => exact execHbmScrub_keeps e
  | rowSpareDone => exact execRowSpareDone_keeps e
  | linkRetune => exact execLinkRetune_keeps e
  | thermalCalibration => exact execThermalCalibration_keeps e
  | energyCalibration => exact execEnergyCalibration_keeps e
  | wearLevelling => exact execWearLevelling_keeps e
  | bgSlip => exact execBgSlip_keeps e
  | perstNDeassert => exact execPerstNDeassert_keeps e
  | startInterface => exact execStartInterface_keeps _ _ e
  | pldmEventAcknowledge => exact execPldmEventAcknowledge_keeps e
  | pldmEventEnable => exact execPldmEventEnable_keeps e
  | uncorrectableInternalError => exact execUncorrectableInternalError_keeps _ e
  | vfEnable => exact execVfEnable_keeps _ _ e
  | idle => exact execIdle_keeps _ _ e

/-- Every command, a loss of power included. -/
theorem exec_keepsCold {i : Instr} {s t : State} (e : exec i s = .next t) : KeepsCold s t := by
  by_cases h : i = .pwrgoodDeassert
  · subst h; exact execPwrgoodDeassert_cold e
  · by_cases h54 : i = .p54vUndervoltage
    · subst h54; exact execP54vUndervoltage_cold e
    · exact (exec_keeps h h54 e).toKeepsCold

/-- A step keeps of the state with the front of the queue taken off what every command keeps. -/
theorem step_keepsCold {s t : State} (e : step s = .next t) : KeepsCold { s with pending := s.pending.tail } t := by
  unfold step at e
  split at e
  · next hp =>
    obtain rfl := Host.Outcome.next.inj e
    have hs : { s with pending := s.pending.tail } = s := by cases s; cases hp; rfl
    rw [hs]
    exact (idleEff_keeps (Keeps.rfl' s)).toKeepsCold
  · next c rest hp =>
    rw [hp]
    exact exec_keepsCold e

/-- Settles O57: each command's lemma in Laws/Keeps, read at the state that the front of the queue has left. -/
theorem stepKeepsMemoriesAndTheSummitBuffer : Obligations.StepKeepsMemoriesAndTheSummitBuffer := by
  intro s t e
  have k := step_keepsCold e
  have hqueue : t.pending = s.pending.tail := k.queue
  refine ⟨k.mem, k.sram, hqueue, fun hq => List.all_eq_true.2 fun i hi => ?_⟩
  rw [hqueue] at hi
  exact List.all_eq_true.1 hq i (List.mem_of_mem_tail hi)

end Sys2Proof.Machine
end

section
/-!
PROOFS. The local memory ops: their refusals, what they leave in flight in the cluster's own slots and in another cluster's, and the runs of
SP.COPY and SP.DMA in their later cycles (09_memory R255, R263, R264, R266, R273; 03_tick_programs R82).
-/
namespace Sys2Proof.Machine

set_option Elab.async false

/-! ## What reads leave to see of the slots -/

section
variable {s0 s t u : State} {c : Nat}

@[simp] theorem countBytes_seen {n k : Nat} : Same seenView s0 (countBytes s n k) ↔ Same seenView s0 s :=
  Same.iff (seen_of_slots ((countBytes_frame (F := [.pacc]) (List.Subset.refl _)).2 (Only.refl _ s) .slots (by decide)))

@[simp] theorem readAll_seen {l : List Rd} : Same seenView s0 (readAll s l) ↔ Same seenView s0 s := by
  refine each_same fun u x => ?_
  split
  · simp [readSlot]
  · rfl

theorem slotAt_seen (h : Same seenView s t) (k i : Nat) : (slotAt t k i).seen = (slotAt s k i).seen := congrFun h (k * 1024 + i)

theorem refData_seen (h : Same seenView s t) (r : Ref) : refData t r = refData s r := by
  cases r with
  | slot k i => exact congrArg Prod.fst (slotAt_seen h k i)
  | pad => rfl

theorem bytesOf_seen (h : Same seenView s t) (l : List Ref) : bytesOf t l = bytesOf s l :=
  congrArg (fun g => l.flatMap g) (funext fun r => by rw [refData_seen h])

theorem rdBytes_seen (h : Same seenView s t) (l : List Rd) : rdBytes t l = rdBytes s l :=
  congrArg (fun g => l.flatMap g) (funext fun x => by rw [refData_seen h])

/-- The state in which an op acts on what it has read in its issue cycle. -/
def readIn (s : State) (c : Nat) (l : List Rd) : State := chargePort (readAll s l) c l

theorem readIn_seen (c : Nat) (l : List Rd) : Same seenView s (readIn s c l) :=
  (readAll_seen.2 (same_refl _ s)).trans
    (seen_of_slots ((chargePort_frame (F := [.clus]) (List.Subset.refl _)).2 (Only.refl _ _) .slots (by decide)))

theorem readIn_icyc (c : Nat) (l : List Rd) : (clu (readIn s c l) c).icyc = (clu s c).icyc :=
  ((readAll_sameRun l).issue.trans (chargePort_issue c l)).1

/-! ## Static accesses of the issue cycle (R255, R266) -/

variable {reads : List Rd} {writes : List Ref} {k : State → State} {x : Wait}

theorem withSlots_waitRead (h : waitRead u (reads.map fun x => x.r) = some x) : withSlots u c reads writes k = freezeOn u c x := by
  rw [withSlots, h]

theorem withSlots_waitWrite (h : waitRead u (reads.map fun x => x.r) = none) (hw : waitWrite u writes = some x) :
    withSlots u c reads writes k = freezeOn u c x := by
  rw [withSlots, h, hw]

theorem withSlots_bad (h : waitRead u (reads.map fun x => x.r) = none) (hw : waitWrite u writes = none) (hb : ∃ x ∈ reads, rdBad u x ≠ []) :
    withSlots u c reads writes k = clusFault (readAll u reads) c 1 := by
  rw [withSlots, h, hw]
  exact if_pos (List.any_eq_true.2 (by simpa using hb))

theorem withSlots_clean (h : waitRead u (reads.map fun x => x.r) = none) (hw : waitWrite u writes = none) (hb : ∀ x ∈ reads, rdBad u x = []) :
    withSlots u c reads writes k = k (readIn u c reads) := by
  rw [withSlots, h, hw]
  refine if_neg fun hn => ?_
  obtain ⟨x, hx, hn⟩ := List.any_eq_true.1 hn
  simp [hb x hx] at hn

theorem rds_refs (l : List Ref) : (rds l).map (fun x => x.r) = l := by
  rw [rds, List.map_map]
  exact List.map_id l

end

/-! ## The issue of a local memory op -/

section
variable {s u : State} {c : Nat} {us : USlot} {effs : List (Nat × Eff)} {runs : List OpRun} {k : Nat} {refs : List Ref}

/-- An op that issues and notes its remote access: its part is done, its effects and runs are in flight. -/
theorem noteRemote_doneOp : let t := noteRemote (doneOp u c us effs runs) c k refs
    uCode us ∈ (clu t c).did ∧ (∀ p ∈ effs, ((clu u c).icyc + p.1, p.2) ∈ (clu t c).effs) ∧ ∀ r ∈ runs, r ∈ (clu t c).runs := by
  intro t
  obtain ⟨⟨-, hdid, heffs, hruns⟩, -⟩ := noteRemote_run (s := doneOp u c us effs runs) c k refs
  obtain ⟨ddid, deffs, druns, -⟩ := doneOp_run (s := u) c us effs runs
  rw [hdid, heffs, hruns]
  exact ⟨ddid, deffs, druns⟩

/-- An op that issues in the cycle at which its cluster stands leaves what it puts in flight. -/
theorem opLeaves_of {i : Instr} {l : List (Nat × Eff)} (hi : exec i s = .next (noteRemote (doneOp u c us effs runs) c k refs))
    (hc : (clu u c).icyc = (clu (atIssue s c) c).icyc) (hl : ∀ p ∈ l, p ∈ effs) : OpLeaves i s c us l := by
  obtain ⟨hdid, heffs, -⟩ := noteRemote_doneOp (u := u) (c := c) (us := us) (effs := effs) (runs := runs) (k := k) (refs := refs)
  exact ⟨_, hi, hdid, fun p hp => hc ▸ heffs p (hl p hp)⟩

/-- The effects of the slots of every core an op acts on. -/
theorem mem_slotEffs {α : Type} {l : List (List Ref)} {rs : List Ref} {j : Nat} {r : Ref} {g : Ref × Nat → List α} {x : α} (hrs : rs ∈ l)
    (hj : rs[j]? = some r) (hx : x ∈ g (r, j)) : x ∈ l.flatMap fun rs => rs.zipIdx.flatMap g :=
  List.mem_flatMap.2 ⟨rs, hrs, List.mem_flatMap.2 ⟨(r, j), List.mk_mem_zipIdx_iff_getElem?.2 hj, hx⟩⟩

end

/-! ## SP.FILL and SP.TAG (R263) -/

section
variable {s u : State} {c : Nat} {l : List (List Ref)}

/-- The slot's data that SP.FILL writes. -/
def fillData (u : State) (c : Nat) : List Byte :=
  if bitAt (slotBits u c .lm) 20 then (List.range 64).flatMap fun _ => natLe 4 (fld (bImm (curBundle u c)) 0 32) else List.replicate 256 0

theorem spFillOp_refused (h : lmSlots u c (fld (slotBits u c .lm) 32 24) (fld (slotBits u c .lm) 22 10 + 1) true = none) :
    spFillOp c u = clusFault u c 4 := by
  rw [spFillOp, h]

theorem spFillOp_issues (h : lmSlots u c (fld (slotBits u c .lm) 32 24) (fld (slotBits u c .lm) 22 10 + 1) true = some l) :
    spFillOp c u = noteRemote (doneOp u c .lm (l.flatMap fun rs => rs.zipIdx.flatMap fun p =>
      putRef (lmAt c p.1 (1 + p.2)) p.1 (fillData u c) (bitAt (slotBits u c .lm) 21) false) []) c (lmRemote c 1 l) l.flatten := by
  rw [spFillOp, h]
  rfl

theorem spTagOp_refused (h : lmSlots u c (fld (slotBits u c .lm) 32 24) (fld (slotBits u c .lm) 22 10 + 1) true = none) :
    spTagOp c u = clusFault u c 4 := by
  rw [spTagOp, h]

theorem spTagOp_issues (h : lmSlots u c (fld (slotBits u c .lm) 32 24) (fld (slotBits u c .lm) 22 10 + 1) true = some l) :
    ∃ k, spTagOp c u = noteRemote (doneOp u c .lm (l.flatMap fun rs => rs.zipIdx.flatMap fun p =>
      tagRef (lmAt c p.1 (1 + p.2 / 16)) p.1 (bitAt (slotBits u c .lm) 21) true) []) c k l.flatten := by
  rw [spTagOp, h]
  exact ⟨_, rfl⟩

end

theorem spFill_issue {s : State} {c : Fin 256} (h : canOp (settle s c) c .lm 1 = true) :
    exec (.spFill c) s = .next (spFillOp c (atIssue s c)) := congrArg Host.Outcome.next (runOp_due h)

theorem spCopy_issue {s : State} {c : Fin 256} (h : canOp (settle s c) c .lm 2 = true) :
    exec (.spCopy c) s = .next (spCopyOp c (atIssue s c)) := congrArg Host.Outcome.next (runOp_due h)

theorem spTag_issue {s : State} {c : Fin 256} (h : canOp (settle s c) c .lm 3 = true) :
    exec (.spTag c) s = .next (spTagOp c (atIssue s c)) := congrArg Host.Outcome.next (runOp_due h)

theorem spDma_issue {s : State} {c : Fin 256} (h : canOp (settle s c) c .lm 4 = true) :
    exec (.spDma c) s = .next (spDmaOp c (atIssue s c)) := congrArg Host.Outcome.next (runOp_due h)

/-! ## SP.COPY (R263, R273) -/

section
variable {u : State} {c : Nat} {a b : List (List Ref)}

/-- The source and the destination slots of an SP.COPY. -/
def copySrc (u : State) (c : Nat) : Option (List (List Ref)) :=
  lmSlots u c (fld (slotBits u c .lm) 8 24) (fld (slotBits u c .lm) 1 7 + 1) false

def copyDst (u : State) (c : Nat) : Option (List (List Ref)) :=
  lmSlots u c (fld (slotBits u c .lm) 32 24) (fld (slotBits u c .lm) 1 7 + 1) true

/-- Each core's operands lie in one core and share no slot. -/
def copyFits (a b : List (List Ref)) : Prop := ∀ p ∈ a.zip b, sameCore p.1 p.2 = true ∧ sharesSlot p.1 p.2 = false

/-- What an SP.COPY of another cluster's slots puts in flight: `v` is the state read, `w` the op. -/
def farCopy (v : State) (w : Nat) (a b : List (List Ref)) : List (Nat × Eff) := (a.zip b).flatMap fun p => copyNow v p.1 p.2 (bitAt w 0)

/-- The run of one core of an SP.COPY in the cluster's own slots. -/
def copyRun (u : State) (c : Nat) (p : List Ref × List Ref) : OpRun :=
  { kind := .copy, start := (clu u c).icyc, bits := slotBits u c .lm, src := keep p.1, dst := keep p.2 }

theorem spCopyOp_refused (h : copySrc u c = none ∨ copyDst u c = none) : spCopyOp c u = clusFault u c 4 := by
  unfold copySrc copyDst at h
  unfold spCopyOp
  dsimp only
  split
  next ha hb => simp [ha, hb] at h
  next => rfl

section
variable (ha : copySrc u c = some a) (hb : copyDst u c = some b)
include ha hb

theorem spCopyOp_malformed (h : a.length ≠ b.length ∨ ∃ p ∈ a.zip b, sameCore p.1 p.2 = false ∨ sharesSlot p.1 p.2 = true) :
    spCopyOp c u = clusFault u c 3 := by
  unfold copySrc at ha
  unfold copyDst at hb
  unfold spCopyOp
  dsimp only
  rw [ha, hb]
  dsimp only
  by_cases hm : a.length ≠ b.length ∨ ((a.zip b).any fun p => !sameCore p.1 p.2) = true
  · rw [if_pos hm]
  · rw [if_neg hm, if_pos]
    obtain ⟨hl, hs⟩ := not_or.1 hm
    rcases h with h | ⟨p, hp, h | h⟩
    · exact absurd h hl
    · exact absurd (List.any_eq_true.2 ⟨p, hp, by rw [h]; rfl⟩) hs
    · exact List.any_eq_true.2 ⟨p, hp, h⟩

variable (hl : a.length = b.length) (hf : copyFits a b)
include hl hf

theorem spCopyOp_fits : spCopyOp c u =
    if lmFar c (a ++ b).flatten then
      withSlots u c (rds a.flatten) b.flatten fun v =>
        noteRemote (doneOp v c .lm (farCopy v (slotBits u c .lm) a b) []) c (lmRemote c 2 a) (a ++ b).flatten
    else doneOp u c .lm [] ((a.zip b).map (copyRun u c)) := by
  unfold copySrc at ha
  unfold copyDst at hb
  unfold spCopyOp
  dsimp only
  rw [ha, hb]
  dsimp only
  rw [if_neg, if_neg]
  · rfl
  · intro h
    obtain ⟨p, hp, h⟩ := List.any_eq_true.1 h
    simp [(hf p hp).2] at h
  · rintro (h | h)
    · exact h hl
    · obtain ⟨p, hp, h⟩ := List.any_eq_true.1 h
      simp [(hf p hp).1] at h

theorem spCopyOp_near (hr : remoteSlot c (a ++ b).flatten = none) : spCopyOp c u = doneOp u c .lm [] ((a.zip b).map (copyRun u c)) := by
  rw [spCopyOp_fits ha hb hl hf, lmFar, hr]
  rfl

theorem spCopyOp_far (hr : (remoteSlot c (a ++ b).flatten).isSome = true) : spCopyOp c u =
    withSlots u c (rds a.flatten) b.flatten fun v =>
      noteRemote (doneOp v c .lm (farCopy v (slotBits u c .lm) a b) []) c (lmRemote c 2 a) (a ++ b).flatten := by
  rw [spCopyOp_fits ha hb hl hf, lmFar, if_pos hr]

end

/-- A copied slot goes to its place with FULL. -/
theorem mem_farCopy {v : State} {w j core i : Nat} {p : List Ref × List Ref} {r : Ref} (hp : p ∈ a.zip b) (hs : p.1[j]? = some r)
    (hd : p.2[j]? = some (.slot core i)) : (0, Eff.slot core i 0 (bytesOf v [r]) (some true) true) ∈ farCopy v w a b := by
  have hz : (r, Ref.slot core i) ∈ p.1.zip p.2 := List.mem_of_getElem? (List.getElem?_zip_eq_some.2 ⟨hs, hd⟩)
  exact List.mem_flatMap.2 ⟨p, hp, List.mem_flatMap.2 ⟨_, hz, List.mem_append_left _ (List.mem_singleton.2 rfl)⟩⟩

end

/-! ## SP.DMA (R263, R264, R273) -/

section
variable {u : State} {c : Nat} {l : List (List Ref)}

/-- The first descriptor of an SP.DMA in its slot, and how many it submits. -/
def dmaIdx (u : State) (c : Nat) : Nat := fld (slotBits u c .lm) 30 2
def dmaCount (u : State) (c : Nat) : Nat := fld (slotBits u c .lm) 28 2 + 1

/-- The reads of an SP.DMA of slots `l`. -/
def dmaReads (u : State) (c : Nat) (l : List (List Ref)) : List Rd :=
  l.flatten.map fun r => { r := r, off := 64 * dmaIdx u c, len := 64 * dmaCount u c }

/-- The run of an SP.DMA of slots `l`. -/
def dmaRun (u : State) (c : Nat) (l : List (List Ref)) : OpRun :=
  { kind := .dma, start := (clu u c).icyc, bits := slotBits u c .lm, src := keep l.flatten }

/-- The same run with its descriptors read in state `v`. -/
def dmaGot (v u : State) (c : Nat) (l : List (List Ref)) : OpRun := { dmaRun u c l with got := rdBytes v (dmaReads u c l), next := 2 }

theorem dmaGot_readIn : dmaGot (readIn u c (dmaReads u c l)) u c l = dmaGot u u c l := by
  rw [dmaGot, rdBytes_seen (readIn_seen c _), dmaGot]

theorem dmaReads_refs : (dmaReads u c l).map (fun x => x.r) = l.flatten := by
  rw [dmaReads, List.map_map]
  exact List.map_id _

theorem spDmaOp_beyond (h : 4 < dmaIdx u c + dmaCount u c) : spDmaOp c u = clusFault u c 3 := if_pos h

theorem spDmaOp_refused (h : dmaIdx u c + dmaCount u c ≤ 4) (hl : lmSlots u c (fld (slotBits u c .lm) 32 24) 1 false = none) :
    spDmaOp c u = clusFault u c 4 := by
  refine (if_neg (Nat.not_lt.2 h)).trans ?_
  rw [hl]

theorem spDmaOp_slots (h : dmaIdx u c + dmaCount u c ≤ 4) (hl : lmSlots u c (fld (slotBits u c .lm) 32 24) 1 false = some l) : spDmaOp c u =
    if lmFar c l.flatten then
      withSlots u c (dmaReads u c l) [] fun v =>
        noteRemote (doneOp v c .lm [] [dmaGot v u c l]) c (lmRemote c 1 l) l.flatten
    else doneOp u c .lm [] [dmaRun u c l] := by
  refine (if_neg (Nat.not_lt.2 h)).trans ?_
  rw [hl]
  rfl

end

/-! ## The runs of SP.COPY and SP.DMA -/

section
variable {t : State} {c : Nat} {r : OpRun}

theorem clus_effs_of_mem {l : List (Nat × Eff)} {p : Nat × Eff} (h : p ∈ l) : p ∈ (clu (addEffs t c l) c).effs := mem_addEffs.2 (.inr h)

/-- Slot j of an SP.COPY is read, and its data are on the way to their place (R263). -/
theorem copyStep_moves {j core i : Nat} (hn : r.next = 1 + 2 * j) (hw : waitRead t [(keptRd r.src j 0 256).r] = none)
    (hb : rdBad t (keptRd r.src j 0 256) = []) (hd : nth none r.dst j = some (core, i)) :
    ∃ t', copyStep t c r = .on t' { r with next := if j + 1 = r.src.length then 0 else r.next + 2 } ∧
      (r.start + 2 + 2 * j, Eff.slot core i 0 (rdBytes t [keptRd r.src j 0 256]) (some true) true) ∈ (clu t' c).effs := by
  have hj : (r.next - 1) / 2 = j := by omega
  obtain ⟨v, hv, -⟩ := runRead_bytes (c := c) hw hb
  unfold copyStep
  dsimp only
  rw [hj, hv, hd]
  refine ⟨_, rfl, clus_effs_of_mem (List.mem_append_left _ (List.mem_singleton.2 ?_))⟩
  rw [show r.start + r.next + 1 = r.start + 2 + 2 * j by omega]

/-- The descriptors wait for room for all of them. -/
theorem dmaStep_waits (hn : r.next = 2) (hq : 64 < (clu t c).q1.length + r.got.length / 64) :
    dmaStep t c r = .wait (.queue1 (r.got.length / 64)) := by
  rw [dmaStep, if_neg (by omega), queueRoom, if_neg (by simpa using hq)]

theorem dmaStep_submits (hn : r.next = 2) (hq : (clu t c).q1.length + r.got.length / 64 ≤ 64) :
    dmaStep t c r = .on (submitAll t c r.got) { r with next := 0 } := by
  rw [dmaStep, if_neg (by omega), queueRoom, if_pos (by simpa using hq)]

/-- The descriptors stand behind those of the queue, in their order (R263). -/
theorem submitAll_queue (bs : List Byte) : (clu (submitAll t c bs) c).q1.length = (clu t c).q1.length + bs.length / 64 ∧
    ∀ j, j < bs.length / 64 → ((clu (submitAll t c bs) c).q1[(clu t c).q1.length + j]?).map (fun d => d.d) =
      some (BitVec.ofNat 512 (leNat ((bs.drop (64 * j)).take 64))) := by
  rw [submitAll, clu_modClu_same]
  refine ⟨by simp, fun j hj => ?_⟩
  rw [List.getElem?_append_right (Nat.le_add_right _ _), Nat.add_sub_cancel_left, List.getElem?_map, List.getElem?_range hj]
  rfl

end

theorem runStep_copy {t : State} {c : Nat} {r : OpRun} (h : r.kind = .copy) : runStep t c r = copyStep t c r := by rw [runStep, h]
theorem runStep_dma {t : State} {c : Nat} {r : OpRun} (h : r.kind = .dma) : runStep t c r = dmaStep t c r := by rw [runStep, h]

/-- Settles O28: each op by its cases at issue, its later cycles by the steps of its run. -/
theorem localMemoryOpsRun : Obligations.LocalMemoryOpsRun := by
  refine ⟨fun s c => ?_, fun t c r => ⟨fun j core i hk hn hw hb hd => ?_, fun hk hn => ⟨fun hq => ?_, fun hq => ?_⟩⟩⟩
  · intro u w t0
    refine ⟨fun h => ⟨fun hl => ?_, fun l hl rs hrs j core i hj => ?_⟩, fun h => ⟨fun hl => ?_, fun l hl rs hrs j core i hj => ?_⟩,
      fun h => ⟨fun hl => ?_, fun a b ha hb => ⟨fun hm => ?_, fun hlen hf => ⟨fun hr p hp => ?_, fun hr => ?_⟩⟩⟩,
      fun h => ⟨fun hk => ?_, fun hk hl => ?_, fun l hk hl => ⟨fun hr => ?_, fun hr => ?_⟩⟩⟩
    · rw [spFill_issue h, spFillOp_refused hl]
    · exact opLeaves_of ((spFill_issue h).trans (congrArg _ (spFillOp_issues hl))) rfl
        (List.forall_mem_singleton.2 (mem_slotEffs hrs hj (List.mem_singleton.2 rfl)))
    · rw [spTag_issue h, spTagOp_refused hl]
    · obtain ⟨k, hk⟩ := spTagOp_issues (u := u) (c := c) hl
      exact opLeaves_of ((spTag_issue h).trans (congrArg _ hk)) rfl
        (List.forall_mem_singleton.2 (mem_slotEffs hrs hj (List.mem_singleton.2 rfl)))
    · rw [spCopy_issue h, spCopyOp_refused hl]
    · rw [spCopy_issue h, spCopyOp_malformed ha hb hm]
    · refine ⟨_, (spCopy_issue h).trans (congrArg _ (spCopyOp_near ha hb hlen hf hr)), ?_⟩
      obtain ⟨hdid, -, hruns, -⟩ := doneOp_run (s := u) c .lm [] ((a.zip b).map (copyRun u c))
      exact ⟨hdid, hruns _ (List.mem_map.2 ⟨p, hp, rfl⟩)⟩
    · have e := (spCopy_issue h).trans (congrArg _ (spCopyOp_far ha hb hlen hf hr))
      have hrefs := rds_refs a.flatten
      refine ⟨fun x hw => ?_, fun x hw hw' => ?_, fun hw hw' => ⟨fun ⟨r, hr', hbad⟩ => ?_, fun hc p hp j r core i hs hd => ?_⟩⟩
      · rw [e, withSlots_waitRead (hrefs.symm ▸ hw)]
      · rw [e, withSlots_waitWrite (hrefs.symm ▸ hw) hw']
      · exact e.trans (congrArg _ (withSlots_bad (hrefs.symm ▸ hw) hw' ⟨_, List.mem_map_of_mem hr', hbad⟩))
      · refine opLeaves_of (e.trans (congrArg _ (withSlots_clean (hrefs.symm ▸ hw) hw' (List.forall_mem_map.2 hc)))) (readIn_icyc _ _)
          (List.forall_mem_singleton.2 ?_)
        rw [← bytesOf_seen (readIn_seen c (rds a.flatten))]
        exact mem_farCopy hp hs hd
    · rw [spDma_issue h, spDmaOp_beyond hk]
    · rw [spDma_issue h, spDmaOp_refused hk hl]
    · have e := spDmaOp_slots hk hl
      rw [lmFar, hr] at e
      obtain ⟨hdid, -, hruns, -⟩ := doneOp_run (s := u) c .lm [] [dmaRun u c l]
      exact ⟨_, (spDma_issue h).trans (congrArg _ e), hdid, hruns _ (List.mem_singleton.2 rfl)⟩
    · have e := (spDma_issue h).trans (congrArg _ ((spDmaOp_slots hk hl).trans (if_pos hr)))
      have hrefs := dmaReads_refs (u := u) (c := c) (l := l)
      refine ⟨fun x hw => ?_, fun hw hc => ?_⟩
      · rw [e, withSlots_waitRead (hrefs.symm ▸ hw)]
      · refine ⟨_, e.trans (congrArg _ (withSlots_clean (hrefs.symm ▸ hw) rfl hc)), ?_⟩
        obtain ⟨hdid, -, hruns⟩ := noteRemote_doneOp (u := readIn u c (dmaReads u c l)) (c := c) (us := .lm) (effs := [])
          (runs := [dmaGot (readIn u c (dmaReads u c l)) u c l]) (k := lmRemote c 1 l) (refs := l.flatten)
        exact ⟨hdid, hruns _ (List.mem_singleton.2 dmaGot_readIn.symm)⟩
  · obtain ⟨t', ht', he⟩ := copyStep_moves (c := c) hn hw hb hd
    refine ⟨t', _, (runStep_copy hk).trans ht', he, fun hj => ?_, fun hj => ?_⟩
    · rw [if_neg (by omega)]
    · rw [if_pos hj]
  · rw [runStep_dma hk, dmaStep_waits hn hq]
  · exact ⟨_, (runStep_dma hk).trans (dmaStep_submits hn hq), submitAll_queue r.got⟩

end Sys2Proof.Machine
end

section
/-!
PROOFS. NoC copies, remote accesses and freezes for the port (09_memory R255, R260, R266, R270-R273; 03_tick_programs R83).
-/
namespace Sys2Proof.Machine

set_option Elab.async false

/-! ## A job fault (R65) -/

section
variable {s t : State} {n j k : Nat}

theorem hasFaulted_of (hp : t.parts = s.parts) (hc : t.clk.phase = s.clk.phase) : hasFaulted t n j = hasFaulted s n j := by
  rw [hasFaulted, hc, job_of_parts hp, hasFaulted]

theorem phase_of_time (h : Same timeView s t) : t.clk.phase = s.clk.phase :=
  (congrArg Clk.phase h : (timeView t).phase = (timeView s).phase)

/-- A job that has not faulted in the tick has, with the cause. -/
theorem jobFault_faults (h : hasFaulted s n j = false) :
    hasFaulted (jobFault s n j k) n j = true ∧ (job (jobFault s n j k) n j).cause = k := by
  have hphase : (jobFault s n j k).clk.phase = s.clk.phase := phase_of_time (jobFault_time.2 (same_refl _ s))
  have hjob : ∃ x, job (jobFault s n j k) n j = x ∧ x.cause = k ∧ (x.faulted = true ∨ s.clk.phase = .guard) ∧ (x.carry = true ∨ s.clk.phase ≠ .guard) := by
    unfold jobFault
    rw [if_neg (by simp [h])]
    extract_lets lanes s1 s2 s3 late s4 d s5
    have h4 : job s5 n j = job s4 n j := job_of_parts (by simp [s5])
    have h5 : job (if partParty s n = 0 then s5 else setEvt s5 (ptyPg (partParty s n)) 2 d) n j = job s4 n j := by
      split
      · exact h4
      · exact (job_of_parts (setEvt_parts _ _ _)).trans h4
    refine ⟨_, h5, ?_⟩
    rw [job_modJob_same]
    by_cases hg : s.clk.phase = .guard <;> simp [late, hg]
  obtain ⟨x, hx, hcause, hf, hcarry⟩ := hjob
  refine ⟨?_, by rw [hx, hcause]⟩
  rw [hasFaulted, hphase, hx]
  split
  next hg => exact hcarry.resolve_right (not_not_intro hg)
  next hg => exact hf.resolve_right hg

end

/-! ## NC.COPY at issue (R270, R271) -/

section
variable {u : State} {c : Nat} {x y : List (Nat × Nat)}

/-- The slots of an NC.COPY. -/
def ncSrc (u : State) (c : Nat) : Option (List (Nat × Nat)) :=
  ncSlots u c (fld (slotBits u c .nc) 8 24) (fld (slotBits u c .nc) 3 5 + 1) false

def ncDst (u : State) (c : Nat) : Option (List (Nat × Nat)) :=
  ncSlots u c (fld (slotBits u c .nc) 32 24) (fld (slotBits u c .nc) 3 5 + 1) true

/-- The cores of an NC.COPY, and the one whose engine takes it. -/
def ncFrom (u : State) (c : Nat) : Nat := ncCore (hentry u c (refHandle (fld (slotBits u c .nc) 8 24)))
def ncTo (u : State) (c : Nat) : Nat := ncCore (hentry u c (refHandle (fld (slotBits u c .nc) 32 24)))
def ncMe (u : State) (c : Nat) : Nat := if ncFrom u c / 16 = c then ncFrom u c else ncTo u c

theorem ncCopyOp_refused (h : ncSrc u c = none ∨ ncDst u c = none ∨ (ncFrom u c / 16 = c ↔ ncTo u c / 16 = c)) :
    ncCopyOp c u = clusFault u c 4 := by
  unfold ncCopyOp
  dsimp only
  split
  next hx hy =>
    have hx : ncSrc u c = some _ := hx
    have hy : ncDst u c = some _ := hy
    have hcores : ncFrom u c / 16 = c ↔ ncTo u c / 16 = c := by simpa [hx, hy] using h
    exact if_pos (decide_eq_decide.2 hcores)
  next => rfl

variable (hx : ncSrc u c = some x) (hy : ncDst u c = some y) (h : ¬(ncFrom u c / 16 = c ↔ ncTo u c / 16 = c))
include hx hy h

theorem ncCopyOp_queues : ncCopyOp c u =
    if 16 ≤ (smGet [] u.noc (ncMe u c)).length then freezeOn u c (.noc (ncMe u c))
    else nocPush (markDid u c 8) (ncMe u c) { kind := .copy, src := x, dst := y, consume := bitAt (slotBits u c .nc) 2
                                              hold := bitAt (slotBits u c .nc) 1, job := curJob u c } := by
  unfold ncSrc at hx
  unfold ncDst at hy
  unfold ncCopyOp
  dsimp only
  rw [hx, hy]
  exact if_neg (mt decide_eq_decide.1 h)

end

theorem clu_nocPush {s : State} {core c : Nat} {o : NocOp} : clu (nocPush s core o) c = clu s c := rfl

theorem noc_nocPush (s : State) (core : Nat) (o : NocOp) :
    smGet [] (nocPush s core o).noc core = smGet [] s.noc core ++ [{ o with since := cycNow s }] := smGet_smSet_same ..

theorem ncCopy_issue {s : State} {c : Fin 256} (h : canOp (settle s c) c .nc 1 = true) :
    exec (.ncCopy c) s = .next (ncCopyOp c (atIssue s c)) := congrArg Host.Outcome.next (runOp_due h)

/-! ## What of a slot a copy moves -/

section
variable {s0 s t : State}

/-- What of a slot a reader and a copy look at: data, tag and poison. -/
def Slot.held (x : Slot) : SlotBits × Bool × BitVec 32 := (x.data, x.full, x.poison)

def heldView (s : State) (k : Nat) : SlotBits × Bool × BitVec 32 := (smGet {} s.slots k).held

theorem held_of_slots (e : t.slots = s.slots) : Same heldView s t := by
  unfold Same heldView
  rw [e]

theorem slotAt_held (h : Same heldView s t) (k i : Nat) : (slotAt t k i).held = (slotAt s k i).held := congrFun h (k * 1024 + i)

@[simp] theorem countUe_held {c i : Nat} {l : List Nat} : Same heldView s0 (countUe s c i l) ↔ Same heldView s0 s :=
  Same.iff (held_of_slots ((countUe_frame (F := evtComps) (List.Subset.refl _)).2 (Only.refl _ s) .slots (by decide)))

@[simp] theorem correct_held {c i : Nat} {l : List Nat} : Same heldView s0 (correct s c i l) ↔ Same heldView s0 s := by
  refine Same.iff ?_
  unfold correct
  dsimp only
  split
  · exact same_refl _ s
  · refine Same.trans (funext fun k => ?_) (held_of_slots (bumpBy_evtOnly ..).slots)
    unfold heldView modSlot setSlot
    rw [smGet_smSet]
    split
    next e => rw [e]; rfl
    next => rfl

@[simp] theorem countBytes_held {n k : Nat} : Same heldView s0 (countBytes s n k) ↔ Same heldView s0 s :=
  Same.iff (held_of_slots ((countBytes_frame (F := [.pacc]) (List.Subset.refl _)).2 (Only.refl _ s) .slots (by decide)))

/-- A slot holds the bits that its bytes spell. -/
theorem eq_of_slotBytes {d e : SlotBits} (h : slotBytes d 0 256 = slotBytes e 0 256) : d = e := by
  refine BitVec.eq_of_getLsbD_eq fun i hi => ?_
  have hk : i / 8 < 256 := by omega
  have hb := congrArg (fun l => l[i / 8]?) h
  simp only [slotBytes, List.getElem?_map, List.getElem?_range hk, Option.map_some, Option.some.injEq, slotByte] at hb
  have hg := congrArg (fun b : Byte => b.getLsbD (i % 8)) hb
  have h8 : i % 8 < 8 := Nat.mod_lt _ (by decide)
  simp only [BitVec.getLsbD_extractLsb', h8, decide_true, Bool.true_and, Nat.zero_add, Nat.div_add_mod] at hg
  exact hg

theorem slotBytes_length (d : SlotBits) (off n : Nat) : (slotBytes d off n).length = n := by simp [slotBytes]

variable {c i k j : Nat}

/-- A whole slot written with another's bytes holds its data; its tag is the one given, or stays. -/
theorem slotEff_copies (d : SlotBits) (f : Option Bool) : (slotAt (slotEff s c i 0 (slotBytes d 0 256) f) c i).data = d ∧
    (slotAt (slotEff s c i 0 (slotBytes d 0 256) f) c i).full = f.getD (slotAt s c i).full := by
  unfold slotEff
  extract_lets u x u1 y g
  have hl := slotBytes_length d 0 256
  have hx : x.held = (slotAt s c i).held := slotAt_held (correct_held.2 (same_refl _ s)) c i
  rw [slotAt_setSlot_same]
  refine ⟨?_, ?_⟩
  · exact (slotWrite_whole x hl).trans (eq_of_slotBytes (slotBytes_slotPut _ hl))
  · have hf : x.full = (slotAt s c i).full := congrArg (fun q => q.2.1) hx
    cases f with
    | none => exact hf
    | some b => rfl

theorem slotEff_held_other {off : Nat} {bs : List Byte} {f : Option Bool} (hk : k * 1024 + j ≠ c * 1024 + i) :
    (slotAt (slotEff s c i off bs f) k j).held = (slotAt s k j).held := by
  unfold slotEff
  extract_lets u x u1 y g
  rw [slotAt_setSlot, if_neg hk]
  exact slotAt_held (by simp [u1, u]) k j

end

/-! ## One slot of a copy (R272) -/

section
variable {s : State} {core n : Nat} {o : NocOp} {a b : Nat × Nat}

/-- What a copy's slot can write. -/
abbrev copyComps : List Comp := [.marks, .regs, .vecs, .msgs, .slots, .pacc]

/-- The slot that a copy is at, read. -/
def copyRead (s : State) (n : Nat) (a : Nat × Nat) : State := countBytes (readSlot s a.1 a.2 0 256) n 512

theorem copyRead_only (s : State) (n : Nat) (a : Nat × Nat) : Only copyComps s (copyRead s n a) := by simp [copyRead]

theorem copyRead_held (s : State) (n : Nat) (a : Nat × Nat) : Same heldView s (copyRead s n a) := by simp [copyRead, readSlot]

variable (ha : o.src[o.moved]? = some a) (hb : o.dst[o.moved]? = some b)
include ha hb

theorem nocSlot_poisoned (hp : (slotAt s a.1 a.2).poison ≠ 0) : nocSlot s n o = (copyRead s n a, false) := by
  unfold nocSlot
  rw [ha, hb]
  exact if_pos hp

/-- A clean slot's data go to its place; the source is EMPTY after with CONSUME, the place FULL but with HOLD; no other slot is seen to
change. -/
theorem nocSlot_moves (hp : (slotAt s a.1 a.2).poison = 0) (hs : o.skip = []) (hab : a.1 * 1024 + a.2 ≠ b.1 * 1024 + b.2) :
    ∃ t, nocSlot s n o = (t, true) ∧ Only copyComps s t ∧ (slotAt t b.1 b.2).data = (slotAt s a.1 a.2).data ∧
      (slotAt t b.1 b.2).full = (!o.hold || (slotAt s b.1 b.2).full) ∧
      (slotAt t a.1 a.2).full = ((slotAt s a.1 a.2).full && !o.consume) ∧
      ∀ k j, k * 1024 + j ≠ a.1 * 1024 + a.2 → k * 1024 + j ≠ b.1 * 1024 + b.2 → (slotAt t k j).held = (slotAt s k j).held := by
  have hr := copyRead_held s n a
  have hfull : ∀ k j, (slotAt (copyRead s n a) k j).full = (slotAt s k j).full := fun k j => congrArg (fun q => q.2.1) (slotAt_held hr k j)
  let v := if o.consume then modSlot (copyRead s n a) a.1 a.2 fun x => { x with full := false } else copyRead s n a
  have hv : Only copyComps s v := by
    unfold v
    split
    · exact (copyRead_only s n a).trans (by simp)
    · exact copyRead_only s n a
  have hva : (slotAt v a.1 a.2).full = ((slotAt s a.1 a.2).full && !o.consume) := by
    unfold v
    split
    next hc => rw [slotAt_modSlot, if_pos rfl, hc, Bool.not_true, Bool.and_false]
    next hc => rw [hfull, Bool.eq_false_iff.2 hc, Bool.not_false, Bool.and_true]
  have hvo : ∀ k j, k * 1024 + j ≠ a.1 * 1024 + a.2 → (slotAt v k j).held = (slotAt s k j).held := fun k j hk => by
    unfold v
    split
    next => rw [slotAt_modSlot, if_neg hk, slotAt_held hr]
    next => exact slotAt_held hr k j
  refine ⟨slotEff v b.1 b.2 0 (slotBytes (slotAt s a.1 a.2).data 0 256) (if o.hold then none else some true), ?_, ?_, ?_, ?_, ?_, ?_⟩
  · unfold nocSlot
    rw [ha, hb]
    simp only [hp, hs]
    rfl
  · exact hv.trans (by simp)
  · exact (slotEff_copies _ _).1
  · rw [(slotEff_copies _ _).2]
    cases o.hold with
    | true => exact congrArg (fun q => q.2.1) (hvo _ _ hab.symm)
    | false => rfl
  · exact (congrArg (fun q => q.2.1) (slotEff_held_other hab)).trans hva
  · exact fun k j hka hkb => (slotEff_held_other hkb).trans (hvo k j hka)

end

/-! ## A copy at the head of its engine runs (R255, R272) -/

section
variable {v t : State} {core n f : Nat} {o : NocOp} {a b : Nat × Nat}

/-- Time passes to the earliest end of the slot that a copy is at. -/
def slotTime (v : State) (n : Nat) (o : NocOp) : State :=
  let h := match o.src, o.dst with | a :: _, b :: _ => meshDist (a.1 / 16) (b.1 / 16) | _, _ => 0
  if (part v n).pitch.isSome then toCycle v (o.since + 6 + 2 * h + 8 * (o.moved + 1)) else v

theorem slotTime_only (v : State) (n : Nat) (o : NocOp) : Only [.clk] v (slotTime v n o) := by simp [slotTime]

theorem slotTime_phase : (slotTime v n o).clk.phase = v.clk.phase := phase_of_time (by simp [slotTime])

theorem nocRun_done (h : o.src.length ≤ o.moved) : nocRun (f + 1) v core n o = nocPop v core := if_pos h

variable (h : o.moved < o.src.length)
include h

theorem nocRun_waits (hw : nocWaits v o = true) :
    nocRun (f + 1) v core n o = { v with noc := smSet [] v.noc core (o :: (smGet [] v.noc core).drop 1) } :=
  (if_neg (Nat.not_le.2 h)).trans (if_pos hw)

theorem nocRun_slot (hw : nocWaits v o = false) : nocRun (f + 1) v core n o =
    if (nocSlot (slotTime v n o) n o).2 then nocRun f (nocSlot (slotTime v n o) n o).1 core n { o with moved := o.moved + 1 }
    else jobFault (nocPop (nocSlot (slotTime v n o) n o).1 core) n o.job 1 :=
  (if_neg (Nat.not_le.2 h)).trans (if_neg (by rw [hw]; decide))

theorem nocRun_moves (hw : nocWaits v o = false) (hm : nocSlot (slotTime v n o) n o = (t, true)) :
    nocRun (f + 1) v core n o = nocRun f t core n { o with moved := o.moved + 1 } := by
  rw [nocRun_slot h hw, hm, if_pos rfl]

theorem nocRun_faults (hw : nocWaits v o = false) (hm : nocSlot (slotTime v n o) n o = (t, false)) :
    nocRun (f + 1) v core n o = jobFault (nocPop t core) n o.job 1 := by
  rw [nocRun_slot h hw, hm]
  rfl

end

section
variable {s t v : State} {core n m : Nat} {o : NocOp} {a b : Nat × Nat}

theorem staticDue_of_clus (h : t.clus = s.clus) (k i : Nat) : staticDue t k i = staticDue s k i := by
  unfold staticDue
  rw [clu_of_clus h]

theorem asyncEmpty_iff {k i : Nat} : asyncEmpty s k i = true ↔ (slotAt s k i).full = false ∧ staticDue s k i = false := by
  simp [asyncEmpty]

/-- A copy waits on the tags of the two slots it is at. -/
theorem nocWaits_copy (hk : o.kind = .copy) (hs : o.skip = []) (ha : o.src[o.moved]? = some a) (hb : o.dst[o.moved]? = some b) :
    nocWaits v o = (!(slotAt v a.1 a.2).full || !asyncEmpty v b.1 b.2) := by
  have one : ∀ {l : List (Nat × Nat)} {q}, l[o.moved]? = some q → (l.drop o.moved).take 1 = [q] := fun hq => by
    obtain ⟨hl, rfl⟩ := List.getElem?_eq_some_iff.1 hq
    rw [List.drop_eq_getElem_cons hl]
    rfl
  simp [nocWaits, hk, hs, one ha, one hb]

/-- Places of a list without repetition hold different values. -/
theorem ne_of_index {α : Type} {l : List α} (hn : l.Nodup) {i j : Nat} {p q : α} (hi : l[i]? = some p) (hj : l[j]? = some q) (h : i ≠ j) :
    p ≠ q := by
  rintro rfl
  exact h ((List.getElem?_inj (List.getElem?_eq_some_iff.1 hi).1 hn).1 (hi.trans hj.symm))

/-- A copy whose slots, all different, wait on no tag. -/
structure Copyable (s : State) (o : NocOp) : Prop where
  kind : o.kind = .copy
  skip : o.skip = []
  len : o.src.length = o.dst.length
  full : ∀ q ∈ o.src, (slotAt s q.1 q.2).full = true
  empty : ∀ q ∈ o.dst, asyncEmpty s q.1 q.2 = true
  place : ∀ q ∈ o.src ++ o.dst, q.2 < 1024
  srcs : o.src.Nodup
  dsts : o.dst.Nodup
  apart : ∀ q ∈ o.src, q ∉ o.dst

/-- In `v` the first `m` slots of the copy have moved since `s`, and the others stand as they stood. -/
structure Moved (s : State) (o : NocOp) (m : Nat) (v : State) : Prop where
  rest : Only (.clk :: copyComps) s v
  phase : v.clk.phase = s.clk.phase
  past : ∀ (j : Nat) (p q : Nat × Nat), j < m → o.src[j]? = some p → o.dst[j]? = some q → (slotAt v q.1 q.2).data = (slotAt s p.1 p.2).data ∧
    (slotAt v q.1 q.2).full = !o.hold ∧ (slotAt v p.1 p.2).full = !o.consume
  ahead : ∀ (j : Nat) (p q : Nat × Nat), m ≤ j → o.src[j]? = some p → o.dst[j]? = some q →
    (slotAt v p.1 p.2).held = (slotAt s p.1 p.2).held ∧ (slotAt v q.1 q.2).full = false

theorem Copyable.key_ne (hc : Copyable s o) {p q : Nat × Nat} (hp : p ∈ o.src ++ o.dst) (hq : q ∈ o.src ++ o.dst) (h : p ≠ q) :
    p.1 * 1024 + p.2 ≠ q.1 * 1024 + q.2 := mt (slotKey_inj (hc.place p hp) (hc.place q hq)) h

theorem moved_none (hc : Copyable s o) : Moved s o 0 s where
  rest := Only.refl _ s
  phase := rfl
  past _ _ _ h := absurd h (Nat.not_lt_zero _)
  ahead _ _ _ _ _ hq := ⟨rfl, (asyncEmpty_iff.1 (hc.empty _ (List.mem_of_getElem? hq))).1⟩

/-- Time that passes leaves the slots. -/
theorem Moved.time (h : Moved s o m v) (o' : NocOp) : Moved s o m (slotTime v n o') := by
  have hs : ∀ k i, slotAt (slotTime v n o') k i = slotAt v k i := slotAt_of_slots (slotTime_only v n o' .slots (by decide))
  refine ⟨h.rest.trans ((slotTime_only v n o').mono (by decide)), slotTime_phase.trans h.phase, fun j p q hj hp hq => ?_, fun j p q hj hp hq => ?_⟩
  · rw [hs, hs]
    exact h.past j p q hj hp hq
  · rw [hs, hs]
    exact h.ahead j p q hj hp hq

/-- The slot that the copy is at waits on no tag. -/
theorem Moved.goes (h : Moved s o m v) (hc : Copyable s o) (ha : o.src[m]? = some a) (hb : o.dst[m]? = some b) :
    nocWaits v { o with moved := m } = false := by
  obtain ⟨hheld, hempty⟩ := h.ahead m a b (Nat.le_refl m) ha hb
  have hfull : (slotAt v a.1 a.2).full = true := (congrArg (fun q => q.2.1) hheld).trans (hc.full a (List.mem_of_getElem? ha))
  have hdue : staticDue v b.1 b.2 = false :=
    (staticDue_of_clus (h.rest .clus (by decide)) _ _).trans (asyncEmpty_iff.1 (hc.empty b (List.mem_of_getElem? hb))).2
  rw [nocWaits_copy (o := { o with moved := m }) hc.kind hc.skip ha hb, hfull, asyncEmpty_iff.2 ⟨hempty, hdue⟩]
  rfl

/-- The slot that the copy is at moves. -/
theorem Moved.step (h : Moved s o m v) (hc : Copyable s o) (ha : o.src[m]? = some a) (hb : o.dst[m]? = some b)
    (hp : (slotAt s a.1 a.2).poison = 0) : ∃ t, nocSlot v n { o with moved := m } = (t, true) ∧ Moved s o (m + 1) t := by
  have src_mem : ∀ {j p}, o.src[j]? = some p → p ∈ o.src ++ o.dst := fun hj => List.mem_append_left _ (List.mem_of_getElem? hj)
  have dst_mem : ∀ {j p}, o.dst[j]? = some p → p ∈ o.src ++ o.dst := fun hj => List.mem_append_right _ (List.mem_of_getElem? hj)
  have cross : ∀ {i j p q}, o.src[i]? = some p → o.dst[j]? = some q → p ≠ q := fun hi hj e =>
    hc.apart _ (List.mem_of_getElem? hi) (e ▸ List.mem_of_getElem? hj)
  obtain ⟨hheld, hempty⟩ := h.ahead m a b (Nat.le_refl m) ha hb
  have hpv : (slotAt v a.1 a.2).poison = 0 := (congrArg (fun q => q.2.2) hheld).trans hp
  obtain ⟨t, ht, honly, hdata, hbf, haf, hother⟩ := nocSlot_moves (n := n) (o := { o with moved := m }) ha hb hpv hc.skip
    (hc.key_ne (src_mem ha) (dst_mem hb) (cross ha hb))
  have src_held : ∀ {j p}, j ≠ m → o.src[j]? = some p → (slotAt t p.1 p.2).held = (slotAt v p.1 p.2).held := fun hj hp =>
    hother _ _ (hc.key_ne (src_mem hp) (src_mem ha) (ne_of_index hc.srcs hp ha hj)) (hc.key_ne (src_mem hp) (dst_mem hb) (cross hp hb))
  have dst_held : ∀ {j q}, j ≠ m → o.dst[j]? = some q → (slotAt t q.1 q.2).held = (slotAt v q.1 q.2).held := fun hj hq =>
    hother _ _ (hc.key_ne (dst_mem hq) (src_mem ha) (cross ha hq).symm) (hc.key_ne (dst_mem hq) (dst_mem hb) (ne_of_index hc.dsts hq hb hj))
  refine ⟨t, ht, h.rest.trans (honly.mono (by decide)), ?_, fun j p q hj hp hq => ?_, fun j p q hj hp hq => ?_⟩
  · rw [show t.clk = v.clk from honly .clk (by decide), h.phase]
  · rcases Nat.lt_succ_iff_lt_or_eq.1 hj with hj | rfl
    · obtain ⟨h1, h2, h3⟩ := h.past j p q hj hp hq
      have hd := dst_held hj.ne hq
      exact ⟨(congrArg (fun z => z.1) hd).trans h1, (congrArg (fun z => z.2.1) hd).trans h2,
        (congrArg (fun z => z.2.1) (src_held hj.ne hp)).trans h3⟩
    · obtain rfl := Option.some.inj (ha.symm.trans hp)
      obtain rfl := Option.some.inj (hb.symm.trans hq)
      have hf : (slotAt v a.1 a.2).full = true := (congrArg (fun z => z.2.1) hheld).trans (hc.full a (List.mem_of_getElem? ha))
      refine ⟨hdata.trans (congrArg (fun z => z.1) hheld), ?_, ?_⟩
      · rw [hbf, hempty, Bool.or_false]
      · rw [haf, hf, Bool.true_and]
  · obtain ⟨h1, h2⟩ := h.ahead j p q (Nat.le_of_succ_le hj) hp hq
    have hne : j ≠ m := by omega
    exact ⟨(src_held hne hp).trans h1, (congrArg (fun z => z.2.1) (dst_held hne hq)).trans h2⟩

/-- The copy ends with all its slots moved, none of whose sources is poisoned, or at a poisoned source, which faults its job. -/
theorem nocRun_ends (hc : Copyable s o) {f : Nat} (h : Moved s o m v) (hm : m ≤ o.src.length) (hf : o.src.length < m + f) :
    (∃ t, nocRun f v core n { o with moved := m } = nocPop t core ∧ Moved s o o.src.length t ∧
      ∀ j p, m ≤ j → o.src[j]? = some p → (slotAt s p.1 p.2).poison = 0) ∨
    ∃ t, nocRun f v core n { o with moved := m } = jobFault (nocPop t core) n o.job 1 ∧ Only (.clk :: copyComps) s t ∧
      t.clk.phase = s.clk.phase ∧ ∃ q ∈ o.src, (slotAt s q.1 q.2).poison ≠ 0 := by
  induction f generalizing m v with
  | zero => omega
  | succ f ih =>
    rcases Nat.eq_or_lt_of_le hm with rfl | hlt
    · refine .inl ⟨v, nocRun_done (Nat.le_refl _), h, fun j p hj hp => ?_⟩
      exact absurd (List.getElem?_eq_some_iff.1 hp).1 (Nat.not_lt.2 hj)
    · obtain ⟨a, ha⟩ : ∃ a, o.src[m]? = some a := ⟨_, List.getElem?_eq_getElem hlt⟩
      obtain ⟨b, hb⟩ : ∃ b, o.dst[m]? = some b := ⟨_, List.getElem?_eq_getElem (hc.len ▸ hlt)⟩
      have hw := h.goes hc ha hb
      have ht := h.time (n := n) { o with moved := m }
      by_cases hp : (slotAt s a.1 a.2).poison = 0
      · obtain ⟨t, hmove, hmoved⟩ := ht.step (n := n) hc ha hb hp
        rw [nocRun_moves (o := { o with moved := m }) hlt hw hmove]
        refine (ih hmoved hlt (by omega)).imp_left fun ⟨t, e, hall, hclean⟩ => ⟨t, e, hall, fun j p hj hs => ?_⟩
        rcases Nat.eq_or_lt_of_le hj with rfl | hj
        · exact Option.some.inj (ha.symm.trans hs) ▸ hp
        · exact hclean j p hj hs
      · have hpt : (slotAt (slotTime v n { o with moved := m }) a.1 a.2).poison ≠ 0 := fun e =>
          hp ((congrArg (fun z => z.2.2) (ht.ahead m a b (Nat.le_refl m) ha hb).1).symm.trans e)
        have hread := copyRead_only (slotTime v n { o with moved := m }) n a
        refine .inr ⟨_, nocRun_faults (o := { o with moved := m }) hlt hw (nocSlot_poisoned (o := { o with moved := m }) ha hb hpt),
          ht.rest.trans (hread.mono (by decide)), ?_, a, List.mem_of_getElem? ha, hp⟩
        rw [show (copyRead _ n a).clk = _ from hread .clk (by decide), ht.phase]

end

/-! ## What follows the engine: received messages (R399) -/

section
variable {s t : State} {core n : Nat} {o : NocOp} {r : List NocOp}

theorem rxPump_idle (h : (bly s n).rx = []) : rxPump s n = s := if_pos h

theorem rxWrite_only (n : Nat) (l : List (Nat × Nat × List Byte)) (held : List (Nat × Nat)) (s : State) :
    Only copyComps s (rxWrite n l held s).1 := by
  induction l generalizing s with
  | nil => exact Only.refl _ s
  | cons q l ih =>
    unfold rxWrite
    split
    · exact Only.refl _ s
    · exact Only.trans (by simp) (ih _)

theorem rxPump_only (s : State) (n : Nat) : Only (.bly :: copyComps) s (rxPump s n) := by
  unfold rxPump
  dsimp only
  split
  · exact Only.refl _ s
  · refine (modBly_frame (by decide)).2 ((foldlFst_frame fun p m => ?_).2 (Only.refl _ s))
    exact (rxWrite_only _ _ _ _).mono (by decide)

theorem hasFaulted_rxPump {m j : Nat} : hasFaulted (rxPump s m) n j = hasFaulted s n j :=
  hasFaulted_of (rxPump_only s m .parts (by decide)) (congrArg Clk.phase (rxPump_only s m .clk (by decide)))

theorem job_rxPump {m j : Nat} : job (rxPump s m) n j = job s n j := job_of_parts (rxPump_only s m .parts (by decide))

/-! ## NOC_COPY_DONE -/

theorem nocPop_noc (h : smGet [] s.noc core = o :: r) : (smGet [] (nocPop s core).noc core).length = r.length := by
  unfold nocPop
  rw [h]
  dsimp only
  rw [smGet_smSet_same]
  cases r <;> rfl

theorem nocPop_only (s : State) (core : Nat) : Only [.noc] s (nocPop s core) := by
  unfold nocPop
  split
  · exact Only.refl _ s
  · exact (only_noc (List.Subset.refl _)).2 (Only.refl _ s)

/-- The copy at the head of an engine runs, and then received messages are written. -/
theorem nocCopyDone_runs {c : Fin 4096} (h : smGet [] s.noc c.val = o :: r) (hk : o.kind = .copy) : exec (.nocCopyDone c) s =
    .next (rxPump (nocRun (o.src.length + 1) s c.val (curPart s (c.val / 16)) o) (curPart s (c.val / 16))) := by
  have hgo : nocGo s c.val = nocRun (o.src.length + 1) s c.val (curPart s (c.val / 16)) o := by
    unfold nocGo
    rw [h]
    dsimp only
    rw [hk]
    rfl
  exact congrArg (fun t => Host.Outcome.next (rxPump t (curPart s (c.val / 16)))) hgo

variable {c : Fin 4096} (h : smGet [] s.noc c.val = o :: r) (hrx : (bly s (curPart s (c.val / 16))).rx = [])
include h hrx

/-- A copy that waits on a tag stays. -/
theorem nocCopyDone_waits (hk : o.kind = .copy) (hl : o.moved < o.src.length) (hw : nocWaits s o = true) :
    exec (.nocCopyDone c) s = .next { s with noc := smSet [] s.noc c.val (o :: r) } := by
  rw [nocCopyDone_runs h hk, nocRun_waits hl hw, h]
  exact congrArg Host.Outcome.next (rxPump_idle hrx)

variable (hm : o.moved = 0) (hc : Copyable s o)
include hm hc

/-- A copy without a poisoned source leaves the engine, with its slots moved. -/
theorem nocCopyDone_completes (hp : ∀ q ∈ o.src, (slotAt s q.1 q.2).poison = 0) : Gives (.nocCopyDone c) s fun t =>
    (smGet [] t.noc c.val).length = r.length ∧ ∀ (j : Nat) (p q : Nat × Nat), o.src[j]? = some p → o.dst[j]? = some q →
      (slotAt t q.1 q.2).data = (slotAt s p.1 p.2).data ∧ (slotAt t q.1 q.2).full = !o.hold ∧ (slotAt t p.1 p.2).full = !o.consume := by
  rcases nocRun_ends (core := c.val) (n := curPart s (c.val / 16)) hc (moved_none hc) (Nat.zero_le _) (f := o.src.length + 1) (by omega) with
    ⟨t, e, hmoved, -⟩ | ⟨_, -, -, -, q, hq, hbad⟩
  · rw [← hm] at e
    have hpop := nocPop_only t c.val
    have hbly : bly (nocPop t c.val) (curPart s (c.val / 16)) = bly s (curPart s (c.val / 16)) := by
      rw [bly, show (nocPop t c.val).bly = t.bly from hpop .bly (by decide), show t.bly = s.bly from hmoved.rest .bly (by decide), bly]
    refine ⟨nocPop t c.val, ?_, nocPop_noc (o := o) ?_, fun j p q hs hd => ?_⟩
    · rw [nocCopyDone_runs h hc.kind]
      refine congrArg Host.Outcome.next ((congrArg (rxPump · _) e).trans (rxPump_idle ?_))
      rw [hbly, hrx]
    · rw [show t.noc = s.noc from hmoved.rest .noc (by decide), h]
    · rw [slotAt_of_slots (hpop .slots (by decide)), slotAt_of_slots (hpop .slots (by decide))]
      exact hmoved.past j p q (List.getElem?_eq_some_iff.1 hs).1 hs hd
  · exact absurd (hp q hq) hbad

omit hrx in
/-- A poisoned source faults the job with cause 1. -/
theorem nocCopyDone_faults (hp : ∃ q ∈ o.src, (slotAt s q.1 q.2).poison ≠ 0) (hf : hasFaulted s (curPart s (c.val / 16)) o.job = false) :
    Gives (.nocCopyDone c) s fun t => hasFaulted t (curPart s (c.val / 16)) o.job = true ∧
      (job t (curPart s (c.val / 16)) o.job).cause = 1 := by
  rcases nocRun_ends (core := c.val) (n := curPart s (c.val / 16)) hc (moved_none hc) (Nat.zero_le _) (f := o.src.length + 1) (by omega) with
    ⟨_, -, -, hclean⟩ | ⟨t, e, hrest, hphase, -⟩
  · obtain ⟨q, hq, hbad⟩ := hp
    obtain ⟨j, hj⟩ := List.getElem?_of_mem hq
    exact absurd (hclean j q (Nat.zero_le j) hj) hbad
  · rw [← hm] at e
    have hpop := nocPop_only t c.val
    have hparts : (nocPop t c.val).parts = s.parts :=
      (show _ = t.parts from hpop .parts (by decide)).trans (hrest .parts (by decide))
    have hclk : (nocPop t c.val).clk.phase = s.clk.phase := (congrArg Clk.phase (hpop .clk (by decide))).trans hphase
    have e : nocRun (o.src.length + 1) s c.val (curPart s (c.val / 16)) o = _ := e
    refine ⟨_, (nocCopyDone_runs h hc.kind).trans (by rw [e]), ?_⟩
    dsimp only
    rw [hasFaulted_rxPump, job_rxPump]
    exact jobFault_faults ((hasFaulted_of hparts hclk).trans hf)

end

/-! ## Freezes -/

theorem remoteAccessDone_ends {s : State} {c : Fin 256} {core i m k : Nat} (h : (clu s c).wait = some (.remote core i m)) :
    exec (.remoteAccessDone c k) s = .next (settle (endStall s c (max m k)) c) :=
  congrArg Host.Outcome.next (by rw [remoteAccessDoneEff, h])

/-- Settles O29: NC.COPY by its cases at issue, the copy slot by slot, and the freezes by the end of an episode. -/
theorem nocCopiesAndRemoteAccesses : Obligations.NocCopiesAndRemoteAccesses := by
  refine ⟨fun s c => ?_, fun s core o r hq hk hm hs hrx hl => ⟨fun h0 hw => ?_, fun hf he hb hn hn' ha => ?_⟩,
    fun s c core i m k h => remoteAccessDone_ends h, fun s core hbm => ?_, fun s c k => ?_⟩
  · intro u w n a b me h
    refine ⟨fun hr => ?_, fun x y hx hy hne => ⟨fun hfull => ?_, fun hroom => ?_⟩⟩
    · rw [ncCopy_issue h, ncCopyOp_refused hr]
    · rw [ncCopy_issue h, ncCopyOp_queues hx hy hne]
      exact congrArg Host.Outcome.next (if_pos hfull)
    · refine ⟨_, (ncCopy_issue h).trans (congrArg _ ((ncCopyOp_queues hx hy hne).trans (if_neg (Nat.not_le.2 hroom)))), ?_, _,
        rfl, rfl, rfl, rfl, rfl, rfl, rfl, noc_nocPush _ _ _⟩
      rw [clu_nocPush, clu_markDid]
      exact List.mem_cons_self
  · exact ⟨_, nocCopyDone_waits hq hrx hk (hm ▸ h0) hw, rfl, rfl, rfl, rfl, rfl,
      smGet_smSet_same [] s.noc core.val (o :: r)⟩
  · have hc : Copyable s o := ⟨hk, hs, hl, hf, he, hb, hn, hn', ha⟩
    exact ⟨nocCopyDone_completes hq hrx hm hc, nocCopyDone_faults hq hm hc⟩
  · exact ⟨fun h => congrArg Host.Outcome.next (if_pos h), fun h => congrArg Host.Outcome.next (if_neg (Bool.eq_false_iff.1 h))⟩
  · obtain ⟨hwait, hfrz, hfar⟩ := endStall_frees (s := s) (c := c) (k := k)
    refine ⟨hwait, hfrz, ?_, fun m hm hne => ?_⟩
    · rw [clu_endStall_same]
    · rw [hfar m hm hne]
      exact List.mem_append_right _ (List.mem_singleton.2 rfl)

end Sys2Proof.Machine
end

section
/-!
PROOFS. DMA descriptors, tag timeouts, bundle pages, and the registers SP_UE_CNT and TAG_TMO (09_memory R258, R281-R286; 03_tick_programs R85,
R86; 10_weight_streams R302; 00_scope R11).
-/
namespace Sys2Proof.Machine

set_option Elab.async false

/-! ## The descriptor queues (R281, R282) -/

section
variable {s t : State} {c q i k : Nat} {d e : Desc} {l : List Desc}

theorem nth_of_getElem? {α : Type} {z x : α} {l : List α} (h : l[i]? = some x) : nth z l i = x := by rw [nth, h]; rfl

theorem dq_of_clus (h : t.clus = s.clus) : dq t c q = dq s c q := by rw [dq, clu_of_clus h, dq]

theorem dq_setDq : dq (setDq s c q l) c q = l := by
  unfold dq setDq
  rw [clu_modClu_same]
  split
  next => rfl
  next => rfl

theorem setNth_same {α : Type} {l : List α} {x y : α} (h : l[i]? = some x) : (setNth l i y)[i]? = some y :=
  List.getElem?_set_self (List.getElem?_eq_some_iff.1 h).1

theorem setNth_length {α : Type} (l : List α) (x : α) : (setNth l i x).length = l.length := List.length_set

section
variable (hi : nextDesc (dq s c q) = some i) (hd : (dq s c q)[i]? = some d)
include hi hd

theorem descriptorStart_refused (hk : descCheck s (curPart s c) c d.d = .inl k) :
    descriptorStartEff c q s = jobFault (setDq s c q ((dq s c q).eraseIdx i)) (curPart s c) d.job k := by
  unfold descriptorStartEff
  rw [hi]
  dsimp only
  rw [nth_of_getElem? hd, hk]

theorem descriptorStart_starts {x y : List (Nat × Nat × Nat × Nat)} (hk : descCheck s (curPart s c) c d.d = .inr (x, y)) :
    descriptorStartEff c q s = setDq s c q (setNth (dq s c q) i { d with started := true, src := x, dst := y }) := by
  unfold descriptorStartEff
  rw [hi]
  dsimp only
  rw [nth_of_getElem? hd, hk]

end

end

/-! ## The move of a transfer's next bytes (R283, R284) -/

section
variable {s : State} {n k : Nat} {d : Desc} {h : Option (List Byte)}

/-- What a transfer can write. -/
abbrev moveComps : List Comp :=
  [.marks, .free, .regs, .vecs, .msgs, .pacc, .slots, .hbm, .hbmBad, .hbmCe, .meeBad, .hostMem, .bg, .aer, .sirvi]

theorem hbmWriteIn_only (s : State) (a : Nat) (l : List Byte) (lo hi : Nat) : Only hbmComps s (hbmWriteIn s a l lo hi).1 := by
  have he : Only hbmComps s (hbmEnds s a l.length lo hi) := (hbmEnds_only _ _ _ _).mono (by decide)
  unfold hbmWriteIn
  split
  · exact Only.refl _ s
  · split
    · exact he.trans ((hbmPut_only _ _ _).mono (by decide))
    · exact (foldlFst_frame fun p g => by exact hbmWriteGran_only _ _ _ _ _).2 he

theorem hostReadErr_only (s : State) (fn : Nat) : Only [.free, .aer] s (hostReadErr s fn) := Only.graft [.free, .aer] s (hostReadErr s fn)

theorem hostPut_only (s : State) (fn a : Nat) (l : List Byte) : Only [.hostMem] s (hostPut s fn a l) :=
  Only.graft [.hostMem] s (hostPut s fn a l)

theorem descData_only (s : State) (d : Desc) (k : Nat) (h : Option (List Byte)) : Only moveComps s (descData s d k h).1 := by
  unfold descData
  split
  · exact Only.refl _ s
  · split
    · split <;> simp
    · split <;> simp

theorem descWrite_only (s : State) (n : Nat) (d : Desc) (bs : List Byte) : Only moveComps s (descWrite s n d bs).1 := by
  unfold descWrite
  split
  · split
    · split <;> simp
    · exact Only.refl _ s
  · split
    · exact (hbmWriteIn_only _ _ _ _ _).mono (by decide)
    · exact (hostPut_only _ _ _ _).mono (by decide)

/-- A read's bytes are charged, the slot read to its end may be emptied, and the bytes are written. -/
def descPut (s : State) (n : Nat) (d : Desc) (bs : List Byte) : State × Bool :=
  let k := nextLen d
  let u := descCharge s n d k
  descWrite (if bitAt (dFlags d.d) 0 then
      match pieceAt d.moved d.src with
      | some q => if k = q.2.2.2 then modSlot u q.1 q.2.1 fun x => { x with full := false } else u
      | none => u
    else u) n d bs

theorem descPut_only (s : State) (n : Nat) (d : Desc) (bs : List Byte) : Only moveComps s (descPut s n d bs).1 := by
  have hu : Only moveComps s (descCharge s n d (nextLen d)) := by simp [descCharge]
  refine Only.trans ?_ (descWrite_only _ n d bs)
  split
  · split
    · split
      · exact (modSlot_frame (by decide)).2 hu
      · exact hu
    · exact hu
  · exact hu

/-- What the move of the next bytes comes to: a read that meets an uncorrectable word, a host access that failed, or the bytes moved. -/
theorem descMove_cases (s : State) (n : Nat) (d : Desc) (h : Option (List Byte)) :
    let r := descData s d (nextLen d) h
    descMove s n d h = (r.1, d, some 1) ∨ descMove s n d h = (hostReadErr r.1 (partFn r.1 n), d, some 4) ∨
    descMove s n d h = (r.1, d, some 4) ∨ ∃ bs, descMove s n d h =
      ((descPut r.1 n d bs).1, { d with moved := d.moved + nextLen d }, if (descPut r.1 n d bs).2 then some 1 else none) := by
  intro r
  have hr : r = descData s d (nextLen d) h := rfl
  unfold descMove
  dsimp only
  rw [← hr]
  rcases r with ⟨u, _ | bs, _ | _⟩
  · exact .inr (.inl rfl)
  · exact .inl rfl
  · dsimp only
    split
    · exact .inr (.inr (.inl rfl))
    · exact .inr (.inr (.inr ⟨bs, rfl⟩))
  · exact .inl rfl

theorem descMove_only (s : State) (n : Nat) (d : Desc) (h : Option (List Byte)) : Only moveComps s (descMove s n d h).1 := by
  have hr := descData_only s d (nextLen d) h
  rcases descMove_cases s n d h with e | e | e | ⟨bs, e⟩ <;> rw [e]
  · exact hr
  · exact hr.trans ((hostReadErr_only _ _).mono (by decide))
  · exact hr
  · exact hr.trans (descPut_only _ _ _ _)

/-- A move without a fault moves the next bytes. -/
theorem descMove_moves (hm : (descMove s n d h).2.2 = none) : (descMove s n d h).2.1 = { d with moved := d.moved + nextLen d } := by
  rcases descMove_cases s n d h with e | e | e | ⟨bs, e⟩
  · rw [e] at hm; cases hm
  · rw [e] at hm; cases hm
  · rw [e] at hm; cases hm
  · rw [e]

end

/-! ## DESCRIPTOR_DONE (R282, R283) -/

section
variable {s : State} {c q i f k : Nat} {d : Desc} {h : Option (List Byte)}

/-- The queue's transfer `i` with its next bytes moved. -/
def descMoved (s : State) (c q i : Nat) (d : Desc) (h : Option (List Byte)) : State :=
  let r := descMove s (curPart s c) d h
  setDq r.1 c q (setNth (dq r.1 c q) i r.2.1)

/-- Transfer `i` leaves its queue. -/
def descDrop (c q i : Nat) (s : State) : State := admitHeld (setDq s c q ((dq s c q).eraseIdx i)) c

theorem descRun_stops (hs : canMove s (dq s c q) i = false ∨ descDone (nth {} (dq s c q) i) = true) : descRun f s c q i h = (s, none) := by
  cases f with
  | zero => rfl
  | succ f =>
    refine if_neg fun hg => ?_
    obtain ⟨hm, hd⟩ := Bool.and_eq_true_iff.1 hg
    rcases hs with hs | hs
    · exact Bool.false_ne_true (hs.symm.trans hm)
    · exact Bool.false_ne_true (((Bool.not_eq_true' _).mp hd).symm.trans hs)

variable (hd : (dq s c q)[i]? = some d)
include hd

theorem dq_descMoved : (dq (descMoved s c q i d h) c q)[i]? = some (descMove s (curPart s c) d h).2.1 := by
  have hq : dq (descMove s (curPart s c) d h).1 c q = dq s c q := dq_of_clus (descMove_only s (curPart s c) d h .clus (by decide))
  rw [descMoved, dq_setDq, hq]
  exact setNth_same hd

variable (hm : canMove s (dq s c q) i = true) (hn : descDone d = false)
include hm hn

theorem descRun_goes : descRun (f + 1) s c q i h = match (descMove s (curPart s c) d h).2.2 with
    | some k => ((descMove s (curPart s c) d h).1, some k)
    | none => descRun f (descMoved s c q i d h) c q i h := by
  refine (if_pos ?_).trans ?_
  · rw [hm, nth_of_getElem? hd, hn]
    rfl
  · rw [nth_of_getElem? hd]
    rfl

theorem descRun_faults (hk : (descMove s (curPart s c) d h).2.2 = some k) :
    descRun (f + 1) s c q i h = ((descMove s (curPart s c) d h).1, some k) := by
  rw [descRun_goes hd hm hn, hk]

theorem descRun_once (hk : (descMove s (curPart s c) d h).2.2 = none)
    (hs : canMove (descMoved s c q i d h) (dq (descMoved s c q i d h) c q) i = false ∨ descDone (descMove s (curPart s c) d h).2.1 = true) :
    descRun (f + 1) s c q i h = (descMoved s c q i d h, none) := by
  rw [descRun_goes hd hm hn, hk]
  exact descRun_stops (hs.imp_right fun hs => by rw [nth_of_getElem? (dq_descMoved hd), hs])

end

section
variable {s : State} {c q i k : Nat} {d : Desc} {h : Option (List Byte)}
variable (hi : readyDesc s (dq s c q) = some i) (hd : (dq s c q)[i]? = some d) (hn : descDone d = false)
include hi hd hn

/-- A fault that the transfer meets goes to its job, and the transfer leaves its queue. -/
theorem descriptorDone_faults (hk : (descMove s (curPart s c) d h).2.2 = some k) : descriptorDoneEff c q h s =
    jobFault (modClu (descDrop c q i (descMove s (curPart s c) d h).1) c fun x => { x with lostHbm := x.lostHbm ++ descHbmDst d })
      (curPart s c) d.job k := by
  unfold descriptorDoneEff
  rw [hi]
  dsimp only
  rw [descRun_faults hd (List.find?_some hi) hn hk, nth_of_getElem? hd]
  rfl

/-- The transfer moves its next bytes, and leaves its queue where they were its last. -/
theorem descriptorDone_moves (hk : (descMove s (curPart s c) d h).2.2 = none)
    (hs : canMove (descMoved s c q i d h) (dq (descMoved s c q i d h) c q) i = false ∨ descDone (descMove s (curPart s c) d h).2.1 = true) :
    descriptorDoneEff c q h s =
      if descDone (descMove s (curPart s c) d h).2.1 then descDrop c q i (descMoved s c q i d h) else descMoved s c q i d h := by
  unfold descriptorDoneEff
  rw [hi]
  dsimp only
  rw [descRun_once hd (List.find?_some hi) hn hk hs]
  dsimp only
  rw [nth_of_getElem? (dq_descMoved hd)]
  rfl

end

/-! ## TAG_TIMEOUT (R258) -/

section
variable {s : State}

theorem tmoFault_faults {c j : Nat} (h : hasFaulted s (curPart s c) j = false) :
    hasFaulted (tmoFault s c j) (curPart s c) j = true ∧ (job (tmoFault s c j) (curPart s c) j).cause = 2 :=
  jobFault_faults ((hasFaulted_of (bump_parts _ _) (congrArg Clk.phase (bump_evtOnly _ _).clk)).trans h)

theorem staticTmo_tag {c : Nat} {w : Wait} (h : (clu s c).wait = some w) (hw : ∃ core i, w = .slotFull core i ∨ w = .slotEmpty core i) :
    staticTmo s c = tmoFault (toCycle s ((clu s c).waitAt + tmoOf s c)) c (curJob s c) := by
  obtain ⟨core, i, rfl | rfl⟩ := hw <;> rw [staticTmo, h]

theorem staticTmo_other {c : Nat} {w : Wait} (h : (clu s c).wait = some w) (hw : ∀ core i, w ≠ .slotFull core i ∧ w ≠ .slotEmpty core i) :
    staticTmo s c = s := by
  rw [staticTmo, h]
  cases w with
  | slotFull core i => exact absurd rfl (hw core i).1
  | slotEmpty core i => exact absurd rfl (hw core i).2
  | page | queue1 | noc | remote | port => rfl

theorem descTmo_waits {c q : Nat} {d : Desc} (h : ((dq s c q).find? fun d => d.started && descWaits s d) = some d) :
    descTmo s c q = tmoFault s c d.job := by rw [descTmo, h]

theorem nocTmo_waits {core : Nat} {o : NocOp} {r : List NocOp} (h : smGet [] s.noc core = o :: r) (hw : nocWaits s o = true) :
    nocTmo s core = tmoFault (toCycle s (o.since + tmoOf s (core / 16))) (core / 16) o.job := by
  rw [nocTmo, h]
  exact if_pos hw

theorem expTmo_waits {c : Nat} {q : ExpRun} (h : (clu s c).expRun = some q) (hw : readWaits s c q = true) : expTmo s c = tmoFault s c q.job := by
  rw [expTmo, h]
  exact if_pos hw

section
variable {n : Nat} {m : RxMsg} {p : Nat × Nat × List Byte} {l : List (Nat × Nat × List Byte)} (hs : m.slots = p :: l)
include hs

/-- The oldest received message whose slot cannot take it is given up. -/
theorem linkTmo_stuck (h : ((bly s n).rx.find? fun m => match m.slots with | q :: _ => !asyncEmpty s q.1 q.2.1 | [] => false) = some m) :
    linkTmo s n = tmoFault (modBly s n fun b => { b with rx := b.rx.erase m }) (p.1 / 16) m.job := by
  unfold linkTmo
  split
  next hn => cases (show some m = none from h.symm.trans hn)
  next m' hm =>
    obtain rfl := Option.some.inj (show some m = some m' from h.symm.trans hm)
    rw [hs]

theorem linkTmo_waits (h : (bly s n).rx = [m]) (hw : asyncEmpty s p.1 p.2.1 = false) :
    linkTmo s n = tmoFault (modBly s n fun b => { b with rx := [] }) (p.1 / 16) m.job := by
  have hlast : ({ bly s n with rx := (bly s n).rx.erase m } : Bly) = { bly s n with rx := [] } := by rw [h, List.erase_cons_head]
  rw [linkTmo_stuck hs]
  · exact congrArg (fun x => tmoFault { s with bly := smSet {} s.bly n x } (p.1 / 16) m.job) hlast
  · rw [h]
    refine List.find?_cons_of_pos ?_
    rw [hs]
    simpa using hw

end

end

/-! ## BUNDLE_PAGE_ARRIVAL (R86) -/

section
variable {s : State} {n c p : Nat} {img : JobImg}

theorem clu_putPage {f : Nat} {bs : List Bundle} (hf : freeFrame s c img = some f) : (clu (putPage s c p img bs) c).pages = (p, f) :: (clu s c).pages := by
  have hb : Only [.bundles] s ((bs.take (img.n - 256 * p)).zipIdx.foldl (fun s q => setBundle s c (256 * f + q.2) q.1) s) := by simp
  unfold putPage
  rw [hf]
  dsimp only
  rw [clu_modClu_same, clu_of_clus (hb .clus (by decide))]

/-- A page that is verified, with a frame free for it, is present. -/
theorem fetchPage_here (hf : (freeFrame s c img).isSome = true) (hv : (fetchPage s n c p img).2 = true) :
    pageHere (fetchPage s n c p img).1 c p = true := by
  revert hv
  unfold fetchPage
  split
  · exact nofun
  · extract_lets a u
    have hu : Only [.marks, .regs, .vecs, .msgs, .pacc, .hbmCe, .bg, .sirvi] s u := by simp [u]
    have hframe : freeFrame u c img = freeFrame s c img := by
      unfold freeFrame
      rw [clu_of_clus (hu .clus (by decide))]
    obtain ⟨f, hf⟩ := Option.isSome_iff_exists.1 (hframe ▸ hf)
    split
    · intro _
      rw [pageHere, clu_putPage hf]
      simp
    · exact nofun

theorem bundlePageArrival_fetches (hr : (clu s c).run = true) (hu : (clu (settle s c) c).run = true) (hp : pageNext (settle s c) c p = true) :
    bundlePageArrivalEff c p s =
      let r := fetchPage (settle s c) (curPart (settle s c) c) c p (curImg (settle s c) c)
      if r.2 then r.1 else clusFault r.1 c 3 := by
  unfold bundlePageArrivalEff
  rw [if_pos hr]
  exact if_pos (by rw [hu, hp]; rfl)

theorem pageNext_frame (h : pageNext s c p = true) : (freeFrame s c (curImg s c)).isSome = true := by
  unfold pageNext at h
  exact (Bool.and_eq_true _ _ ▸ h).2

end

/-! ## SP_UE_CNT and TAG_TMO (R258, R286; 00_scope R11) -/

theorem pageAt_clPg (c : Fin 256) : pageAt (clPg c / 4096) = some (.cluster, c.val) := by
  have h : clPg c / 4096 = 0x100 + c.val := by unfold clPg; omega
  have hc := c.isLt
  rw [h]
  unfold pageAt
  iterate 5 rw [if_neg (by omega)]
  rw [if_pos (by omega), Nat.add_sub_cancel_left]

/-- A write of zero leaves the increments of the cycle and releases the capture. -/
theorem spUeCntClear_reads (s : State) (c : Fin 256) :
    rdN (spUeCntClearEff c s) (clPg c + 0x184) = min (smGet 0 (marksNow s).cnt (clPg c + 0x184)) 0xFFFFFFFE ∧
      rdN (spUeCntClearEff c s) (clPg c + 0x194) = 0 := by
  unfold spUeCntClearEff
  refine ⟨?_, rdN_wrN_same ..⟩
  rw [rdN_wrN_ne _ (by omega)]
  exact rdN_cntTo s (pageAt_clPg c) (by decide +kernel) (by omega)

/-- Settles O30: each command by what it meets, a transfer by the move of its next bytes. -/
theorem transfersStartEndAndTimeOut : Obligations.TransfersStartEndAndTimeOut := by
  refine ⟨fun s c q i d hi hd => ⟨fun k hk => ?_, fun x y hk => ?_⟩, fun s c q h i d hi hd hn => ?_,
    fun s c w h => ⟨fun hw => congrArg _ (staticTmo_tag h hw), fun hw => congrArg _ (staticTmo_other h hw)⟩,
    fun s c q d h => congrArg _ (descTmo_waits h), fun s core o r h hw => congrArg _ (nocTmo_waits h hw),
    fun s n m p l h hs hw => congrArg _ (linkTmo_waits hs h hw), fun s c q h hw => congrArg _ (expTmo_waits h hw),
    fun s c j _ h => tmoFault_faults h, fun s c p => ?_, fun r s c hw => ?_, fun s n v hr => ?_⟩
  · exact congrArg _ (descriptorStart_refused hi hd hk)
  · refine ⟨_, congrArg Host.Outcome.next (descriptorStart_starts hi hd hk), ?_, ?_⟩
    · rw [dq_setDq]
      exact setNth_same hd
    · rw [dq_setDq, setNth_length]
  · intro r t drop
    refine ⟨fun hk => ⟨descMove_moves hk, fun hdone => ?_, fun hdone hstay => ?_⟩, fun k hk => congrArg _ (descriptorDone_faults hi hd hn hk)⟩
    · exact congrArg _ ((descriptorDone_moves hi hd hn hk (.inr hdone)).trans (if_pos hdone))
    · exact congrArg _ ((descriptorDone_moves hi hd hn hk (.inl hstay)).trans (if_neg (Bool.eq_false_iff.1 hdone)))
  · intro u hr hu hp r
    have e := bundlePageArrival_fetches hr hu hp
    refine ⟨fun hv => ⟨_, congrArg Host.Outcome.next (e.trans (if_pos hv)), fetchPage_here (pageNext_frame hp) hv⟩, fun hv => ?_⟩
    exact congrArg Host.Outcome.next (e.trans (if_neg (Bool.eq_false_iff.1 hv)))
  · exact ⟨_, congrArg Host.Outcome.next (hostWr_taken hw), spUeCntClear_reads s c⟩
  · intro x
    refine ⟨fun hlo hhi => gives_of_pfDo hr rfl ?_, fun hx => gives_of_pfDo hr rfl ?_⟩
    · have e : tagTmoEff n v s = wrN s (partPg n + 0x400) x := if_neg (by omega)
      rw [e, rdN_wrN_same]
      omega
    · have e : tagTmoEff n v s = ignoredWr s n 0x400 := if_pos hx
      rw [e]
      exact ⟨rdN_setEvt_ne _ _ _ _ (by omega), rb_setEvt _ _ _ (by decide)⟩

end Sys2Proof.Machine
end

section
/-!
PROOFS. Binding and window commands: the checks of a mailbox command in their order, its reply, and what each command leaves of the key slots,
the windows, the regions and the map (09_memory R275-R278; 13_parties R368; 15_sirvi R429).
-/
namespace Sys2Proof.Machine

set_option Elab.async false

/-! ## A mailbox command (R415, R429) -/

section
variable {s t u : State} {bmc : Bool} {code st k : Nat} {i : Instr} {chk : State → List (Bool × Nat)} {f : State → State}

/-- The first check that fails, with its status. -/
def firstFail (l : List (Bool × Nat)) : Option (Bool × Nat) := l.find? fun p => p.1

theorem firstFail_here {b : Bool} {l : List (Bool × Nat)} (h : b = true) : firstFail ((b, k) :: l) = some (b, k) := List.find?_cons_of_pos h

theorem firstFail_next {b : Bool} {l : List (Bool × Nat)} (h : b = false) : firstFail ((b, k) :: l) = firstFail l :=
  List.find?_cons_of_neg (by simp [h])

section
variable (hc : mbUp s bmc code = true ∧ mbBusy s = false)
include hc

theorem mbDo_runs {f : State → Nat × State × List Byte} : mbDo i bmc code f s = mbReply (f s).2.1 bmc code (f s).1 (f s).2.2 := by
  unfold mbDo
  rw [if_neg (by simp [hc.1]), if_neg (by simp [hc.2])]

/-- A check that fails answers its status and changes nothing else. -/
theorem mbAct_refuses {b : Bool} (h : firstFail (chk s) = some (b, k)) : mbAct i bmc code chk f s = mbReply s bmc code k [] := by
  unfold firstFail at h
  rw [mbAct, mbDo_runs hc, h]

theorem mbAct_acts (h : firstFail (chk s) = none) : mbAct i bmc code chk f s = mbReply (f s) bmc code 0 [] := by
  unfold firstFail at h
  rw [mbAct, mbDo_runs hc, h]

end

/-- The command answers a status and changes nothing else. -/
def Refuses (i : Instr) (s : State) (bmc : Bool) (code st : Nat) : Prop := exec i s = .next (mbReply s bmc code st [])

theorem refuses_of {j : Instr} {b : Bool} (he : exec j s = .next (mbAct i bmc code chk f s)) (hc : mbUp s bmc code = true ∧ mbBusy s = false)
    (h : firstFail (chk s) = some (b, k)) : Refuses j s bmc code k := he.trans (congrArg _ (mbAct_refuses hc h))

theorem gives_of {j : Instr} {P : State → Prop} (he : exec j s = .next (mbAct i bmc code chk f s)) (hc : mbUp s bmc code = true ∧ mbBusy s = false)
    (h : firstFail (chk s) = none) (hP : P (mbReply (f s) bmc code 0 [])) : Gives j s P := ⟨_, he.trans (congrArg _ (mbAct_acts hc h)), hP⟩

/-- A reply without content to the PF: its status, and the event (R429). -/
theorem mbReply_pf : mbReply t false code st [] = setEvt (wrN t (mbPg + 0x104) (st * 2 ^ 24 + code * 2 ^ 16)) mbPg 0 := rfl

/-- A reply without content writes the mailbox page alone of the registers. -/
theorem rdN_mbReply {a : Nat} (ha : a / 4096 ≠ mbPg / 4096) : rdN (mbReply t bmc code st []) a = rdN t a := by
  have hpage : mbPg / 4096 = 0x2A0 := by decide
  cases bmc with
  | true => rfl
  | false => rw [mbReply_pf, rdN_setEvt_ne _ _ _ _ (by unfold mbPg at *; omega), rdN_wrN_ne _ (by unfold mbPg at *; omega)]

theorem mbReply_only (t : State) : Only [.marks, .regs, .vecs, .msgs, .sirvi] t (mbReply t bmc code st []) := by simp

theorem summit_mbReply : (mbReply t bmc code st []).sirvi.summit = t.sirvi.summit := by
  cases bmc with
  | true => rfl
  | false => exact congrArg Sirvi.summit ((setEvt_evtOnly _ _ _).sirvi.trans (wrN_sirvi ..))

theorem keySlot_of_keys (h : t.keys = s.keys) (n : Nat) : keySlot t n = keySlot s n := by rw [keySlot, h, keySlot]

theorem keySlot_mbReply {n : Nat} : keySlot (mbReply t bmc code st []) n = keySlot t n := keySlot_of_keys (mbReply_only t .keys (by decide)) n

theorem keySlot_setKeySlot_same (t : State) (n : Nat) (x : KeySlot) : keySlot (setKeySlot t n x) n = x := smGet_smSet_same ..

/-- A command's summit entry takes the next number (R420). -/
theorem sumCmd_next {typ origin party keyid detail : Nat} {payload : List Byte} :
    s.sirvi.summit.next < (sumCmd s typ origin party keyid detail payload).sirvi.summit.next := by
  unfold sumCmd
  refine Nat.lt_succ_of_le ?_
  split
  · exact (sumFlush_keeps (Keeps.rfl' s)).seq
  · exact Nat.le_refl _

theorem sumCmd_only (s : State) (typ origin party keyid detail : Nat) (payload : List Byte) :
    Only [.sirvi] s (sumCmd s typ origin party keyid detail payload) := by simp

theorem dropWk_only (s : State) (p : Nat) : Only [.keys] s (dropWk s p) := by
  unfold dropWk
  split <;> simp

end

/-! ## Windows and regions (R277, R278) -/

section
variable {s t : State} {p a n ctrl k : Nat} {l : List (Nat × Nat)}

/-- The registers of the map, the groups and the windows read the same. -/
def SameWins (s t : State) : Prop := ∀ x, hbmPg ≤ x → x < hbmPg + 0x600 → rdN t x = rdN s x

theorem SameWins.of_regs (h : t.regs = s.regs) : SameWins s t := fun _ _ _ => rdN_of_regs h _

theorem SameWins.trans {u : State} (h : SameWins s t) (h' : SameWins t u) : SameWins s u := fun x hx hx' => (h' x hx hx').trans (h x hx hx')

theorem sameWins_mbReply {bmc : Bool} {code st : Nat} : SameWins t (mbReply t bmc code st []) := fun x hx hx' =>
  rdN_mbReply (by unfold hbmPg mbPg at *; omega)

section
variable (h : SameWins s t) (hp : p ≤ 16)
include h hp

theorem SameWins.valid : winValid t p = winValid s p := by
  unfold winValid rb
  rw [h _ (by omega) (by omega)]

theorem SameWins.base : winBase t p = winBase s p := by
  unfold winBase rd64
  rw [h _ (by omega) (by omega), h (_ + 4) (by omega) (by omega)]

theorem SameWins.size : winSize t p = winSize s p := by
  unfold winSize rd64
  rw [h _ (by omega) (by omega), h (_ + 4) (by omega) (by omega)]

end

/-- A window put reads as put. -/
theorem rdN_putWin_ctrl : rdN (putWin s p a n ctrl) (hbmPg + 0x210 + 0x20 * p) = ctrl % 2 ^ 32 := rdN_wrN_same ..

theorem rd64_of_ne {x v : Nat} (h : x ≠ a) (h' : x + 4 ≠ a) : rd64 (wrN s a v) x = rd64 s x := by
  rw [rd64, rdN_wrN_ne _ h, rdN_wrN_ne _ h', rd64]

theorem winSize_putWin : winSize (putWin s p a n ctrl) p = n % 2 ^ 48 := by
  rw [winSize, putWin, rd64_of_ne (by omega) (by omega), rd64_wr64]
  omega

theorem winBase_putWin : winBase (putWin s p a n ctrl) p = a % 2 ^ 48 := by
  rw [winBase, putWin, rd64_of_ne (by omega) (by omega), wr64, rd64_of_ne (by omega) (by omega), rd64_of_ne (by omega) (by omega), rd64_wr64]
  omega

theorem winValid_putWin : winValid (putWin s p a n ctrl) p = bitAt ctrl 31 := by
  rw [winValid, rb, rdN_putWin_ctrl, bitAt_mod_word _ _ (by decide)]

theorem winValid_dropWindow : winValid (dropWindow s p) p = false := by
  unfold dropWindow
  split
  case isTrue => rw [winValid, rb, rdN_wrN_same]; rfl
  case isFalse h => exact eq_false_of_ne_true h

/-- A window that fits lies below 2^48. -/
theorem winFits_lt (h : winFits s p a n = true) : a % 2 ^ 48 = a ∧ n % 2 ^ 48 = n := by
  simp only [winFits, Bool.and_eq_true, decide_eq_true_eq] at h
  obtain ⟨⟨_, hle⟩, -⟩ := h
  unfold hbmSize at hle
  omega

/-- The registers of region k of a window. -/
def ofsReg (p k : Nat) : Nat := hbmPg + 0x600 + 0x40 * p + 8 * k
def sizeReg (p k : Nat) : Nat := hbmPg + 0x604 + 0x40 * p + 8 * k

theorem putRegions_eq : putRegions s p l = each s (List.range 6) fun s k =>
    wrN (wrN s (ofsReg p k) ((nth (0, 0) l k).1 / 4096)) (sizeReg p k) ((nth (0, 0) l k).2 / 4096) := rfl

theorem rdN_putRegions_other {x : Nat} (h : ∀ k < 6, x ≠ ofsReg p k ∧ x ≠ sizeReg p k) : rdN (putRegions s p l) x = rdN s x := by
  rw [putRegions_eq]
  refine each_inv (P := fun u => rdN u x = rdN s x) (fun u k hk hu => ?_) rfl
  obtain ⟨hofs, hsize⟩ := h k (List.mem_range.1 hk)
  rw [rdN_wrN_ne _ hsize, rdN_wrN_ne _ hofs, hu]

theorem sameWins_putRegions : SameWins s (putRegions s p l) := fun x _ hx' =>
  rdN_putRegions_other fun k _ => by unfold ofsReg sizeReg; omega

theorem regs_created {x : KeySlot} {f : Sirvi → Sirvi} {slot : Nat} : (modSirvi (setKeySlot s slot x) f).regs = s.regs := rfl

theorem keySlot_created {x : KeySlot} {f : Sirvi → Sirvi} {slot : Nat} : keySlot (modSirvi (setKeySlot s slot x) f) slot = x :=
  keySlot_setKeySlot_same s slot x

/-- A window's regions, a key slot and Sirvi's own record leave the windows' registers. -/
theorem sameWins_created {x : KeySlot} {f : Sirvi → Sirvi} {slot code st : Nat} {bmc : Bool} :
    SameWins s (mbReply (modSirvi (setKeySlot (putRegions s p l) slot x) f) bmc code st []) :=
  (sameWins_putRegions.trans (.of_regs regs_created)).trans sameWins_mbReply

theorem putRegions_region (hk : k < 6) : rdN (putRegions s p l) (ofsReg p k) = (nth (0, 0) l k).1 / 4096 % 2 ^ 32 ∧
    rdN (putRegions s p l) (sizeReg p k) = (nth (0, 0) l k).2 / 4096 % 2 ^ 32 := by
  rw [putRegions_eq]
  refine each_reaches (P := fun _ => True) (Q := fun u => rdN u (ofsReg p k) = _ ∧ rdN u (sizeReg p k) = _) (List.mem_range.2 hk) trivial
    (fun _ _ _ _ => trivial) (fun u _ => ⟨?_, rdN_wrN_same ..⟩) fun u j _ _ hu => ?_
  · rw [rdN_wrN_ne _ (by unfold ofsReg sizeReg; omega), rdN_wrN_same]
  · rcases eq_or_ne j k with rfl | hj
    · exact ⟨by rw [rdN_wrN_ne _ (by unfold ofsReg sizeReg; omega), rdN_wrN_same], rdN_wrN_same ..⟩
    · unfold ofsReg sizeReg at *
      rw [rdN_wrN_ne _ (by omega), rdN_wrN_ne _ (by omega), rdN_wrN_ne _ (by omega), rdN_wrN_ne _ (by omega)]
      exact hu

/-- Regions that a window can have read as set. -/
theorem putRegions_reads (h : regionsOk n l = true) (hn : n ≤ hbmSize) (hk : k < 6) : regSize (putRegions s p l) p k = (nth (0, 0) l k).2 ∧
    ((nth (0, 0) l k).2 ≠ 0 → regOfs (putRegions s p l) p k = (nth (0, 0) l k).1) := by
  obtain ⟨hofs, hsize⟩ := putRegions_region (s := s) (p := p) (l := l) hk
  simp only [regionsOk, Bool.and_eq_true, decide_eq_true_eq, List.all_eq_true] at h
  obtain ⟨⟨hlen, hall⟩, -⟩ := h
  have hmem : nth (0, 0) l k ∈ l := List.mem_of_getElem? (getElem?_eq_nth (d := (0, 0)) (hlen ▸ hk))
  have hq := hall _ hmem
  simp only [Bool.or_eq_true, decide_eq_true_eq] at hq
  rw [regSize, regOfs, show hbmPg + 0x604 + 0x40 * p + 8 * k = sizeReg p k from rfl, show hbmPg + 0x600 + 0x40 * p + 8 * k = ofsReg p k from rfl,
    hofs, hsize]
  unfold hbmSize at hn
  omega

end

/-! ## The commands (R275-R278, R368) -/

/-- The party number of a command: 1 to 16. -/
def IsParty (p : Nat) : Prop := 1 ≤ p ∧ p ≤ 16

theorem noParty_iff {p : Nat} : (decide (p = 0) || decide (16 < p)) = true ↔ ¬IsParty p := by
  unfold IsParty
  simp only [Bool.or_eq_true, decide_eq_true_eq]
  omega

theorem noParty_false_iff {p : Nat} : (decide (p = 0) || decide (16 < p)) = false ↔ IsParty p := by
  rw [← Bool.not_eq_true, noParty_iff, not_not]

section
variable {s : State} {bmc : Bool} {p slot a n k map : Nat} {h : List Byte} {l : List (Nat × Nat)} {g : List (BitVec 16)}

/-! ### Binding -/

theorem ksBind_refuses_debug (hc : mbUp s bmc 0x10 = true ∧ mbBusy s = false) (hd : dbgOn s = true) :
    Refuses (.ksBind bmc slot p h) s bmc 0x10 4 := refuses_of rfl hc (firstFail_here hd)

theorem ksBind_refuses_arguments (hc : mbUp s bmc 0x10 = true ∧ mbBusy s = false) (hd : dbgOn s = false)
    (hb : ¬IsParty p ∨ h.length ≠ 48 ∨ 16 ≤ slot) : Refuses (.ksBind bmc slot p h) s bmc 0x10 2 :=
  refuses_of rfl hc <| (firstFail_next hd).trans <| firstFail_here <| by
    simpa only [Bool.or_eq_true, decide_eq_true_eq, ← noParty_iff, or_assoc] using hb

section
variable (hp : IsParty p) (hl : h.length = 48) (hs : slot < 16)
include hp hl hs

theorem ksBind_arguments : (decide (p = 0) || decide (16 < p) || decide (h.length ≠ 48) || decide (16 ≤ slot)) = false := by
  simp [noParty_false_iff.2 hp, hl, hs]

variable (hc : mbUp s bmc 0x10 = true ∧ mbBusy s = false) (hd : dbgOn s = false)
include hc hd

theorem ksBind_refuses_bound (hb : (keySlot s slot).party ≠ 0 ∨ (slotOfParty s p).isSome = true) : Refuses (.ksBind bmc slot p h) s bmc 0x10 3 :=
  refuses_of rfl hc <| (firstFail_next hd).trans <| (firstFail_next (ksBind_arguments hp hl hs)).trans <| firstFail_here <| by
    simpa only [Bool.or_eq_true, decide_eq_true_eq] using hb

theorem ksBind_binds (hf : (keySlot s slot).party = 0) (hn : slotOfParty s p = none) : Gives (.ksBind bmc slot p h) s fun t =>
    keySlot t slot = { keySlot s slot with party := p, reqHash := h } ∧ s.sirvi.summit.next < t.sirvi.summit.next := by
  refine gives_of rfl hc ((firstFail_next hd).trans <| (firstFail_next (ksBind_arguments hp hl hs)).trans <| firstFail_next ?_)
    ⟨keySlot_mbReply.trans (keySlot_setKeySlot_same ..), ?_⟩
  · simp [hf, hn]
  · rw [summit_mbReply]
    exact sumCmd_next

end

/-- A bound slot without keys. -/
def SlotFree (x : KeySlot) : Prop := x.party ≠ 0 ∧ x.pk = none ∧ x.rk = none ∧ x.wk = none

theorem slotFree_iff {x : KeySlot} : (decide (x.party = 0) || x.pk.isSome || x.rk.isSome || x.wk.isSome) = false ↔ SlotFree x := by
  simp [SlotFree, and_assoc]

section
variable (hc : mbUp s bmc 0x11 = true ∧ mbBusy s = false)
include hc

theorem ksUnbind_refuses_slot (hs : 16 ≤ slot) : Refuses (.ksUnbind bmc slot) s bmc 0x11 2 :=
  refuses_of rfl hc <| firstFail_here <| decide_eq_true hs

theorem ksUnbind_refuses_keys (hs : slot < 16) (hf : ¬SlotFree (keySlot s slot)) : Refuses (.ksUnbind bmc slot) s bmc 0x11 3 :=
  refuses_of rfl hc <| (firstFail_next (decide_eq_false (by omega))).trans <| firstFail_here <| by
    rwa [← slotFree_iff, Bool.not_eq_false] at hf

theorem ksUnbind_frees (hs : slot < 16) (hf : SlotFree (keySlot s slot)) : Gives (.ksUnbind bmc slot) s fun t =>
    (keySlot t slot).party = 0 ∧ (keySlot t slot).reqHash = [] := by
  refine gives_of rfl hc ((firstFail_next (decide_eq_false (by omega))).trans <| firstFail_next (slotFree_iff.2 hf)) ?_
  rw [keySlot_mbReply, keySlot_setKeySlot_same]
  exact ⟨rfl, rfl⟩

end

/-! ### Windows -/

/-- The control word of a window of a party in a slot is valid (bit 31). -/
theorem bitAt_winCtrl (hp : p ≤ 16) (hs : slot < 16) : bitAt (2 ^ 31 + slot * 2 ^ 16 + p) 31 = true := by
  rw [bitAt, Nat.testBit_eq_decide_div_mod_eq, decide_eq_true_eq]
  omega

/-- A party without a window and with a key slot may have one made. -/
def MayCreate (s : State) (p slot : Nat) : Prop := winFree s p = true ∧ winValid s p = false ∧ slotOfParty s p = some slot

theorem mayCreate_iff : (!winFree s p || winValid s p || decide (slotOfParty s p ≠ some slot)) = false ↔ MayCreate s p slot := by
  simp [MayCreate, and_assoc]

/-- A party with a window, its partitions OFF, may change it. -/
def MayChange (s : State) (p : Nat) : Prop := winFree s p = true ∧ winValid s p = true

theorem mayChange_iff : (!winFree s p || !winValid s p) = false ↔ MayChange s p := by
  simp [MayChange]

section
variable (hc : mbUp s bmc 0x20 = true ∧ mbBusy s = false)
include hc

theorem winCreate_refuses_arguments (hb : ¬IsParty p ∨ 16 ≤ slot) : Refuses (.winCreate bmc p a n slot) s bmc 0x20 2 :=
  refuses_of rfl hc <| firstFail_here <| by simpa only [Bool.or_eq_true, decide_eq_true_eq, ← noParty_iff] using hb

variable (ha : (decide (p = 0) || decide (16 < p) || decide (16 ≤ slot)) = false)
include ha

theorem winCreate_refuses_state (hm : ¬MayCreate s p slot) : Refuses (.winCreate bmc p a n slot) s bmc 0x20 3 :=
  refuses_of rfl hc <| (firstFail_next ha).trans <| firstFail_here <| by rwa [← mayCreate_iff, Bool.not_eq_false] at hm

variable (hm : MayCreate s p slot)
include hm

theorem winCreate_refuses_range (hf : winFits s p a n = false) : Refuses (.winCreate bmc p a n slot) s bmc 0x20 2 :=
  refuses_of rfl hc <| (firstFail_next ha).trans <| (firstFail_next (mayCreate_iff.2 hm)).trans <| firstFail_here <| by rw [hf, Bool.not_false]

variable (hf : winFits s p a n = true)
include hf

theorem winCreate_refuses_overlap (hw : winApart s p a n = false) : Refuses (.winCreate bmc p a n slot) s bmc 0x20 3 :=
  refuses_of rfl hc <| (firstFail_next ha).trans <| (firstFail_next (mayCreate_iff.2 hm)).trans <|
    (firstFail_next (by rw [hf, Bool.not_true])).trans <| firstFail_here <| by rw [hw, Bool.not_false]

/-- The window stands as asked, with a fresh window key and no region. -/
theorem winCreate_creates (hp : p ≤ 16) (hs : slot < 16) (hw : winApart s p a n = true) : Gives (.winCreate bmc p a n slot) s fun t =>
    winValid t p = true ∧ winBase t p = a ∧ winSize t p = n ∧ (keySlot t slot).wk.isSome = true ∧ ∀ k < 6, regSize t p k = 0 := by
  refine gives_of rfl hc ((firstFail_next ha).trans <| (firstFail_next (mayCreate_iff.2 hm)).trans <|
    (firstFail_next (by rw [hf, Bool.not_true])).trans <| firstFail_next (by rw [hw, Bool.not_true])) ?_
  obtain ⟨ha', hn'⟩ := winFits_lt hf
  refine ⟨(sameWins_created.valid hp).trans (winValid_putWin.trans (bitAt_winCtrl hp hs)),
    (sameWins_created.base hp).trans (winBase_putWin.trans ha'), (sameWins_created.size hp).trans (winSize_putWin.trans hn'), ?_, fun k hk => ?_⟩
  · exact congrArg (·.wk.isSome) (keySlot_mbReply.trans keySlot_created)
  · rw [regSize, rdN_mbReply (by unfold hbmPg mbPg; omega), rdN_of_regs regs_created,
      show hbmPg + 0x604 + 0x40 * p + 8 * k = sizeReg p k from rfl, (putRegions_region hk).2]
    simp [nth]

end

section
variable (hp : IsParty p)
include hp

theorem winResize_refuses_state (hc : mbUp s bmc 0x21 = true ∧ mbBusy s = false) (hm : ¬MayChange s p) :
    Refuses (.winResize bmc p a n) s bmc 0x21 3 :=
  refuses_of rfl hc <| (firstFail_next (noParty_false_iff.2 hp)).trans <| firstFail_here <| by rwa [← mayChange_iff, Bool.not_eq_false] at hm

theorem winRemove_refuses_state (hc : mbUp s bmc 0x22 = true ∧ mbBusy s = false) (hm : ¬MayChange s p) :
    Refuses (.winRemove bmc p) s bmc 0x22 3 :=
  refuses_of rfl hc <| (firstFail_next (noParty_false_iff.2 hp)).trans <| firstFail_here <| by rwa [← mayChange_iff, Bool.not_eq_false] at hm

theorem regionSet_refuses_state (hc : mbUp s bmc 0x23 = true ∧ mbBusy s = false) (hm : ¬MayChange s p) :
    Refuses (.regionSet bmc p l) s bmc 0x23 3 :=
  refuses_of rfl hc <| (firstFail_next (noParty_false_iff.2 hp)).trans <| firstFail_here <| by rwa [← mayChange_iff, Bool.not_eq_false] at hm

variable (hm : MayChange s p)
include hm

/-- The checks of the party and of its state pass; those behind them decide. -/
theorem firstFail_change {rest : List (Bool × Nat)} :
    firstFail ((decide (p = 0) || decide (16 < p), 2) :: (!winFree s p || !winValid s p, 3) :: rest) = firstFail rest :=
  (firstFail_next (noParty_false_iff.2 hp)).trans (firstFail_next (mayChange_iff.2 hm))

section
variable (hc : mbUp s bmc 0x21 = true ∧ mbBusy s = false)
include hc

theorem winResize_refuses_range (hf : winFits s p a n = false ∨ regionsOk n (regionsOf s p) = false) :
    Refuses (.winResize bmc p a n) s bmc 0x21 2 :=
  refuses_of rfl hc <| (firstFail_change hp hm).trans <| firstFail_here <| by
    simpa only [Bool.or_eq_true, Bool.not_eq_true'] using hf

variable (hf : winFits s p a n = true) (hr : regionsOk n (regionsOf s p) = true)
include hf hr

theorem winResize_refuses_overlap (hw : winApart s p a n = false) : Refuses (.winResize bmc p a n) s bmc 0x21 3 :=
  refuses_of rfl hc <| (firstFail_change hp hm).trans <| (firstFail_next (by rw [hf, hr]; rfl)).trans <| firstFail_here <| by
    rw [hw, Bool.not_false]

theorem winResize_resizes (hw : winApart s p a n = true) : Gives (.winResize bmc p a n) s fun t =>
    winValid t p = true ∧ winBase t p = a ∧ winSize t p = n := by
  refine gives_of rfl hc ((firstFail_change hp hm).trans <| (firstFail_next (by rw [hf, hr]; rfl)).trans <|
    firstFail_next (by rw [hw, Bool.not_true])) ?_
  obtain ⟨ha', hn'⟩ := winFits_lt hf
  exact ⟨(sameWins_mbReply.valid hp.2).trans (winValid_putWin.trans hm.2), (sameWins_mbReply.base hp.2).trans (winBase_putWin.trans ha'),
    (sameWins_mbReply.size hp.2).trans (winSize_putWin.trans hn')⟩

end

theorem winRemove_removes (hc : mbUp s bmc 0x22 = true ∧ mbBusy s = false) : Gives (.winRemove bmc p) s fun t => winValid t p = false := by
  refine gives_of rfl hc (firstFail_change hp hm) ?_
  rw [(sameWins_mbReply).valid hp.2, (SameWins.of_regs (dropWk_only _ p .regs (by decide))).valid hp.2]
  exact winValid_dropWindow

section
variable (hc : mbUp s bmc 0x23 = true ∧ mbBusy s = false)
include hc

theorem regionSet_refuses_regions (hr : regionsOk (winSize s p) l = false) : Refuses (.regionSet bmc p l) s bmc 0x23 2 :=
  refuses_of rfl hc <| (firstFail_change hp hm).trans <| firstFail_here <| by rw [hr, Bool.not_false]

theorem regionSet_sets (hr : regionsOk (winSize s p) l = true) (hn : winSize s p ≤ hbmSize) : Gives (.regionSet bmc p l) s fun t => ∀ k, k < 6 →
    regSize t p k = (nth (0, 0) l k).2 ∧ ((nth (0, 0) l k).2 ≠ 0 → regOfs t p k = (nth (0, 0) l k).1) := by
  refine gives_of rfl hc ((firstFail_change hp hm).trans <| firstFail_next (by rw [hr, Bool.not_true])) fun k hk => ?_
  have hp16 := hp.2
  rw [regSize, regOfs, rdN_mbReply (by unfold hbmPg mbPg; omega), rdN_mbReply (by unfold hbmPg mbPg; omega)]
  exact putRegions_reads hr hn hk

end

end

/-! ### The map (R275, R276) -/

/-- The masks of the groups, written one by one. -/
def putGroups (s : State) (g : List (BitVec 16)) : State := each s g.zipIdx fun s q => wrN s (hbmPg + 0x140 + 4 * q.2) q.1.toNat

theorem putMap_eq : putMap s map g =
    putGroups (wrN (if rf s (hbmPg + 0x100) 0 1 = map then s else changeMap s) (hbmPg + 0x100) map) g := rfl

theorem putGroups_only : Only [.regs] s (putGroups s g) := by
  unfold putGroups
  exact (each_frame fun s q => by simp).2 (.refl _ _)

theorem putGroups_hbm : (putGroups s g).hbm = s.hbm := putGroups_only .hbm (by decide)
theorem putGroups_hbmBad : (putGroups s g).hbmBad = s.hbmBad := putGroups_only .hbmBad (by decide)

theorem rdN_putGroups_other {x : Nat} (h : ∀ k < g.length, x ≠ hbmPg + 0x140 + 4 * k) : rdN (putGroups s g) x = rdN s x :=
  each_inv (P := fun u => rdN u x = rdN s x)
    (fun _ _ hq hu => (rdN_wrN_ne _ (h _ (List.snd_lt_of_mem_zipIdx hq))).trans hu) rfl

theorem rdN_putGroups (hk : k < g.length) : rdN (putGroups s g) (hbmPg + 0x140 + 4 * k) = (nth 0 g k).toNat := by
  have hval : (nth 0 g k).toNat % 2 ^ 32 = (nth 0 g k).toNat := by have := (nth 0 g k).isLt; omega
  refine each_reaches (a := (nth 0 g k, k)) (P := fun _ => True) (Q := fun u => rdN u (hbmPg + 0x140 + 4 * k) = (nth 0 g k).toNat)
    (List.mem_zipIdx_iff_getElem?.2 (getElem?_eq_nth hk)) trivial (fun _ _ _ _ => trivial)
    (fun _ _ => (rdN_wrN_same ..).trans hval) fun u q hq _ hu => ?_
  rcases eq_or_ne q.2 k with rfl | hne
  · rw [rdN_wrN_same, ← hval, nth, List.mem_zipIdx_iff_getElem?.1 hq]
    rfl
  · rw [rdN_wrN_ne _ (by omega), hu]

/-- A step of the change of map: the window's control cleared and its key gone. -/
theorem changeMap_eq : changeMap s = each { s with hbm := [], hbmBad := [], hbmCe := [], meeBad := [] } (List.range 16) fun s k =>
    dropWk (wrN s (hbmPg + 0x210 + 0x20 * (k + 1)) 0) (k + 1) := rfl

theorem changeMap_hbm : (changeMap s).hbm = [] ∧ (changeMap s).hbmBad = [] := by
  rw [changeMap_eq]
  refine each_inv (P := fun u => u.hbm = [] ∧ u.hbmBad = []) (fun u k _ hu => ?_) ⟨rfl, rfl⟩
  have hdrop := dropWk_only (wrN u (hbmPg + 0x210 + 0x20 * (k + 1)) 0) (k + 1)
  exact ⟨Eq.trans (hdrop .hbm (by decide)) hu.1, Eq.trans (hdrop .hbmBad (by decide)) hu.2⟩

theorem changeMap_ctrl (h1 : 1 ≤ p) (hp : p ≤ 16) : rdN (changeMap s) (hbmPg + 0x210 + 0x20 * p) = 0 := by
  have hdrop (u : State) (k x : Nat) : rdN (dropWk u k) x = rdN u x := rdN_of_regs (dropWk_only u k .regs (by decide)) x
  rw [changeMap_eq]
  refine each_reaches (a := p - 1) (P := fun _ => True) (Q := fun u => rdN u (hbmPg + 0x210 + 0x20 * p) = 0) (List.mem_range.2 (by omega)) trivial
    (fun _ _ _ _ => trivial) (fun u _ => ?_) fun u k _ _ hu => ?_
  · rw [hdrop, Nat.sub_add_cancel h1, rdN_wrN_same, Nat.zero_mod]
  · rw [hdrop, rdN_wrN, hu]
    split <;> rfl

section
variable (hg : g.length = 16)
include hg

theorem rdN_putMap_map (hm : map < 2) : rdN (putMap s map g) (hbmPg + 0x100) = map := by
  rw [putMap_eq, rdN_putGroups_other (by omega), rdN_wrN_same]
  omega

theorem rdN_putMap_group (hk : k < 16) : rdN (putMap s map g) (hbmPg + 0x140 + 4 * k) = (nth 0 g k).toNat := by
  rw [putMap_eq, rdN_putGroups (hk.trans_eq hg.symm)]

/-- Another map leaves no window and HBM empty. -/
theorem putMap_changes (hm : rf s (hbmPg + 0x100) 0 1 ≠ map) : (putMap s map g).hbm = [] ∧ (putMap s map g).hbmBad = [] ∧
    ∀ q, 1 ≤ q → q ≤ 16 → winValid (putMap s map g) q = false := by
  rw [putMap_eq, if_neg hm, putGroups_hbm, putGroups_hbmBad, wrN_hbm, wrN_hbmBad]
  refine ⟨changeMap_hbm.1, changeMap_hbm.2, fun q h1 hq => ?_⟩
  rw [winValid, rb, rdN_putGroups_other (by omega), rdN_wrN_ne _ (by omega), changeMap_ctrl h1 hq]
  rfl

end

theorem putMap_same_hbm (hm : rf s (hbmPg + 0x100) 0 1 = map) : (putMap s map g).hbm = s.hbm := by
  rw [putMap_eq, if_pos hm, putGroups_hbm, wrN_hbm]

section
variable (hc : mbUp s bmc 0x24 = true ∧ mbBusy s = false)
include hc

theorem hbmMap_refuses_arguments (hb : groupsOk g = false ∨ 2 ≤ map) : Refuses (.hbmMap bmc map g) s bmc 0x24 2 :=
  refuses_of rfl hc <| firstFail_here <| by simpa only [Bool.or_eq_true, Bool.not_eq_true', decide_eq_true_eq] using hb

variable (hg : groupsOk g = true) (hm : map < 2)
include hg hm

theorem hbmMap_refuses_state (hb : devRdy s = false ∨ allOff s = false ∨ ∃ k, k < 16 ∧ windowsIn (putMap s map g) (k + 1) = false) :
    Refuses (.hbmMap bmc map g) s bmc 0x24 3 :=
  refuses_of rfl hc <| (firstFail_next (by simp [hg, hm])).trans <| firstFail_here <| by
    simpa only [Bool.or_eq_true, Bool.not_eq_true', List.any_eq_true, List.mem_range, or_assoc] using hb

theorem hbmMap_maps (hr : devRdy s = true) (ho : allOff s = true) (hw : ∀ k, k < 16 → windowsIn (putMap s map g) (k + 1) = true) :
    Gives (.hbmMap bmc map g) s fun t =>
      rdN t (hbmPg + 0x100) = map ∧ (∀ k, k < 16 → rdN t (hbmPg + 0x140 + 4 * k) = (nth 0 g k).toNat) ∧
      (rf s (hbmPg + 0x100) 0 1 ≠ map → t.hbm = [] ∧ t.hbmBad = [] ∧ ∀ q, 1 ≤ q → q ≤ 16 → winValid t q = false) ∧
      (rf s (hbmPg + 0x100) 0 1 = map → t.hbm = s.hbm) := by
  have hstate : (!devRdy s || !allOff s || (List.range 16).any fun k => !windowsIn (putMap s map g) (k + 1)) = false := by
    simpa [hr, ho] using hw
  have hlen : g.length = 16 := of_decide_eq_true (Bool.and_eq_true_iff.1 hg).1
  refine gives_of rfl hc ((firstFail_next (by simp [hg, hm])).trans (firstFail_next hstate)) ?_
  have hentry := sumCmd_only s 0x0033 (orgn bmc) 0 0 0 (natLe 1 map ++ g.flatMap fun m => natLe 2 m.toNat)
  generalize sumCmd s 0x0033 (orgn bmc) 0 0 0 (natLe 1 map ++ g.flatMap fun m => natLe 2 m.toNat) = u at hentry ⊢
  have hrf : rf u (hbmPg + 0x100) 0 1 = rf s (hbmPg + 0x100) 0 1 := congrArg (fld · 0 1) (rdN_of_regs (hentry .regs (by decide)) _)
  have hreply := mbReply_only (putMap u map g) (bmc := bmc) (code := 0x24) (st := 0)
  refine ⟨?_, fun k hk => ?_, fun hne => ?_, fun heq => ?_⟩
  · rw [rdN_mbReply (by decide), rdN_putMap_map hlen hm]
  · rw [rdN_mbReply (by unfold hbmPg mbPg; omega), rdN_putMap_group hlen hk]
  · obtain ⟨hhbm, hbad, hwins⟩ := putMap_changes (s := u) hlen (hrf ▸ hne)
    exact ⟨Eq.trans (hreply .hbm (by decide)) hhbm, Eq.trans (hreply .hbmBad (by decide)) hbad,
      fun q h1 hq => (sameWins_mbReply.valid hq).trans (hwins q h1 hq)⟩
  · rw [hreply .hbm (by decide), putMap_same_hbm (hrf.trans heq)]
    exact hentry .hbm (by decide)

end

end

/-- Settles O50: for each command the refusals in the order of its checks, then what it does. -/
theorem windowCommandsCheckThenAct : Obligations.WindowCommandsCheckThenAct := by
  intro s bmc p slot a n h l map g
  refine ⟨fun hc => ⟨ksBind_refuses_debug hc, ksBind_refuses_arguments hc, fun hd hp hl hs =>
      ⟨ksBind_refuses_bound hp hl hs hc hd, ksBind_binds hp hl hs hc hd⟩⟩,
    fun hc => ⟨ksUnbind_refuses_slot hc, ksUnbind_refuses_keys hc, ksUnbind_frees hc⟩,
    fun hc => ⟨winCreate_refuses_arguments hc, fun hp hs => ?_⟩,
    fun hc hp => ⟨winResize_refuses_state hp hc, fun hm => winResize_refuses_range hp hm hc, fun hm hf hr =>
      ⟨winResize_refuses_overlap hp hm hc hf hr, winResize_resizes hp hm hc hf hr⟩⟩,
    fun hc hp => ⟨winRemove_refuses_state hp hc, fun hm => winRemove_removes hp hm hc⟩,
    fun hc hp => ⟨regionSet_refuses_state hp hc, fun hm => regionSet_refuses_regions hp hm hc, fun hm => regionSet_sets hp hm hc⟩,
    fun hc => ⟨hbmMap_refuses_arguments hc, hbmMap_refuses_state hc, hbmMap_maps hc⟩⟩
  have ha : (decide (p = 0) || decide (16 < p) || decide (16 ≤ slot)) = false := by simp [noParty_false_iff.2 hp, hs]
  exact ⟨winCreate_refuses_state hc ha, winCreate_refuses_range hc ha, winCreate_refuses_overlap hc ha, fun hm hf =>
    winCreate_creates hc ha hm hf hp.2 hs⟩

end Sys2Proof.Machine
end
